-- ==== Sys2Proof/Word.lean ====
section
/-! DEFINITION. The words, bytes and keyed lists the module's registers, memories and structures are made of. -/

namespace Sys2Proof

/-- One byte (R8). -/
abbrev Byte := BitVec 8

/-- A scalar register of a thread (Table: Per-thread state). -/
abbrev Word := BitVec 64

/-- A 32-bit set-up register or instruction-set field. -/
abbrev Half := BitVec 32

/-- A list of keys with their entries, keys strictly rising: the one form of every sparse collection of the state. -/
abbrev Keyed (α : Type) := List (Nat × α)

end Sys2Proof
end

