-- ==== Sys2Proof/Syntax.lean ====
section
/-! DEFINITION. The commands of the module: one constructor of `Instr` for each row of the table of operations and events, and the kinds of operand they carry. -/

namespace Sys2Proof

/-- The two PCI Express functions, and the host ports, buses and rings that bear their letters (R189). -/
inductive Fn where
  | A | B
  deriving DecidableEq, Repr

/-- A thread of a tile: linear tile number (R37) and thread number. -/
structure Thr where
  tile : Fin 2560
  thread : Fin 16
  deriving DecidableEq, Repr

/-- Compare conditions of class 0x0 and cmpi.* (R166). -/
inductive Cond where
  | eq | ne | lt | ge | ltu | geu
  deriving DecidableEq, Repr

/-- Access sizes of scalar loads and stores (R166): 1, 2, 4 or 8 bytes. -/
inductive AccSize where
  | b1 | b2 | b4 | b8
  deriving DecidableEq, Repr

/-- Lane formats of the vector classes 0x7, 0x8 and 0x9 (R161). -/
inductive LaneFmt where
  | fp32 | bf16 | fp16
  deriving DecidableEq, Repr

/-- The Grain formats (R71). -/
inductive GrainFmt where
  | g4 | g6 | g8
  deriving DecidableEq, Repr

/-- What the code check of a scratchpad word finds: nothing, a correctable error, an uncorrectable one that a rewrite clears, or one that
remains after a full rewrite and re-read (R54, R55, R64). -/
inductive EccErr where
  | none | correctable | uncorrectable | persistent
  deriving DecidableEq, Repr

/-- New errors that a read of a scratchpad meets: the number of the word among those it reads, and what the word's code check finds (R53). -/
abbrev PadErrs := List (Nat × EccErr)

/-- The errors of a 64-byte transaction of stacked memory as the controller's code check meets them (R116): the beats and channel bits that are
wrong, data bits 0–127 and check bits 128–143, and whether the transaction is still wrong once it has been rewritten and read back (R121). -/
structure DramErr where
  flips : List (Fin 4 × Fin 144)
  persists : Bool
  deriving DecidableEq, Repr

/-- A transaction without an error. -/
def DramErr.clean : DramErr := { flips := [], persists := false }

/-- A Canopy link: the mesh link of a router at (x, y) in one of four directions, or link k of a die edge numbered as the
bits of CNP_EDGE_STATUS.edge_failed (R134). -/
inductive MeshLink where
  | mesh (x : Fin 66) (y : Fin 40) (dir : Fin 4)
  | edge (e : Fin 4) (k : Fin 35)
  deriving DecidableEq, Repr

/-- An error that an on-chip SRAM meets, with the bank or array and the row where it lies (R522, Table: Record types). -/
structure SramErr where
  kind : EccErr
  bank : BitVec 16
  row : BitVec 16
  deriving DecidableEq, Repr

/-- A number typed at the console, none where it is missing (R551). -/
abbrev Arg : Type := Option Nat

/-- How a host's message reaches Crown: by its function's ring or mailbox (R493, R501). -/
inductive MsgSrc where
  | ring (fn : Fn)
  | mbox (fn : Fn)
  deriving DecidableEq, Repr

/-- What one attempt to read a cable in DETECT finds: an answer, a usable application, and the lanes with signal (R240, R267). -/
structure CableAnswer where
  answered : Bool
  apps : List Bool
  signal : BitVec 8
  deriving DecidableEq, Repr

/-- What the forward error correction makes of the codewords that a flit lies in (R236, R244): how many of those that end with it were corrected and
how many are uncorrectable, of the four of a frame, and whether the flit lies in an uncorrectable one. -/
structure Fec where
  corrected : Fin 5
  uncorrectable : Fin 5
  bad : Bool
  deriving DecidableEq, Repr

/-- No codeword has an error. -/
def Fec.clean : Fec := { corrected := 0, uncorrectable := 0, bad := false }

/-- The retrain triggers of R256. -/
inductive RetrainCause where
  | naks | clockLost | cableFlag | codewords
  deriving DecidableEq, Repr

/-- A monitor read of a cable (R268): its temperature in 1/256 °C, whether it raises warnings or alarms, its flag byte, and its
lanes with a loss flag. -/
structure CableReading where
  temp : BitVec 16
  warn : Bool
  alarm : Bool
  flags : BitVec 8
  loss : BitVec 8
  deriving DecidableEq, Repr

/-- Who collects votes (R303, R304). -/
inductive VoteRole where
  | leader | mirrorLeader | coordinator
  deriving DecidableEq, Repr

/-- A collective set (R271, R300): number, member identifiers in order, staging area. -/
structure SetDef where
  num : Nat
  members : List Nat
  staging : Nat
  stagingSize : Nat
  deriving DecidableEq, Repr

/-- A twin entry (R294): identifiers, bit 12 of the witness set for a host. -/
structure TwinEntry where
  active : Nat
  standby : Nat
  witness : Nat
  deriving DecidableEq, Repr

/-- A range of the COPY block (R290): tile-local addresses. -/
structure CopyRange where
  src : Nat
  len : Nat
  bank0 : Nat
  bank1 : Nat
  deriving DecidableEq, Repr

/-- The canonical blocks as their content (R300): the manual gives what a body holds and not its bytes. -/
structure Blocks where
  /-- 1 group, 2 group with twins, 3 pod, 4 mirrored pair -/
  kind : Nat
  /-- groups present in pod 0 and in pod 1 -/
  groups0 : BitVec 64
  groups1 : BitVec 64
  coordinator : Nat
  /-- identifiers with a role other than absent: 1 active, 2 hot standby, 3 cold standby, 4 failed -/
  roles : List (Nat × Nat)
  twins : List TwinEntry
  sets : List SetDef
  /-- 0 none, 1 hot, 2 checkpoint -/
  copyMode : Nat
  interval : Nat
  ranges : List CopyRange
  deriving DecidableEq, Repr

/-- A block-floating-point value: an 18-bit two's complement mantissa and a 6-bit two's complement exponent (R360). -/
structure Bfp where
  mant : BitVec 18
  exp : BitVec 6
  deriving DecidableEq, Repr

/-- Tuning values of a coefficient set (R371): sgn is −1 where `neg` is set; the demand filter's time constant in µs; the
worst-case length of the program in LE cycles. -/
structure Tuning where
  kp : Bfp
  ki : Bfp
  kf : Bfp
  kd : Bfp
  neg : Bool
  tauUs : Nat
  cycles : Nat
  deriving DecidableEq, Repr

/-- Operating values of a slot (R371); `cStack` is C_stack in 0.01 F, `share` the rack share in W and `absorb` the absorb limit in
W, which the engine holds once. -/
structure OperatingValues where
  target : Bfp
  umin : Bfp
  umax : Bfp
  vmin : Bfp
  vmax : Bfp
  amax : Bfp
  jmax : Bfp
  t1 : Bfp
  t2 : Bfp
  t3 : Bfp
  cStack : Nat
  share : Nat
  absorb : Nat
  deriving DecidableEq, Repr

/-- Phases of the loop engine (R370). -/
inductive EnginePhase where
  | startup | service | test | recovery
  deriving DecidableEq, Repr

/-- Injection waveforms (Table: Injection parameters): frequencies in 0.1 Hz. -/
inductive Waveform where
  | step
  | square (freq : Nat)
  | sweep (start stop : Nat)
  | prbs
  deriving DecidableEq, Repr

/-- Where an injection adds (Table: Injection parameters). -/
inductive InjPoint where
  | target | reference | error | output
  deriving DecidableEq, Repr

/-- An injection (R373): duration in samples, 0 until stopped. -/
structure Injection where
  slot : Fin 4
  point : InjPoint
  wave : Waveform
  amp : Bfp
  duration : Nat
  deriving DecidableEq, Repr

/-- Signals that a capture stores (R374). -/
inductive Signal where
  | y | ref | e | u | integ | acc | injected
  deriving DecidableEq, Repr

/-- What starts a capture (R374). -/
inductive CapTrigger where
  | injection | saturation | command
  deriving DecidableEq, Repr

/-- A capture (R374). -/
structure CaptureSetup where
  slot : Fin 4
  every : Nat
  trigger : CapTrigger
  pre : Nat
  signals : List Signal
  deriving DecidableEq, Repr

/-- What a host asks of a loop slot (R497): a mode command, a manual value, tuning values of a set, operating values, an injection, its
end, or a capture. The bytes of the request are stated nowhere. -/
inductive LeAction where
  | off | manual | auto | scheduled
  /-- an action, or a mode command, set or value of one, with a code that its table does not list (R382, R497) -/
  | unlisted
  | manualValue (v : Bfp)
  | tuning (set : Fin 4) (v : Tuning)
  | values (v : OperatingValues)
  | inject (inj : Injection)
  | stopInjection
  | capture (cap : CaptureSetup)
  deriving DecidableEq, Repr

/-- What the engine's converters sample (Table: Engine inputs), in mV and mA: channels 0–9. `following` is the store converter's
report that its own current limit does not hold it (R372), `bad` the channels whose self-check failed (R378), `late` a computation that the sample abandons (R376), and
`cycles` the LE cycles from the instant to the output (R375). -/
structure EngineInputs where
  ch : List Int
  following : Bool
  bad : BitVec 10
  late : Bool
  cycles : Nat
  deriving DecidableEq, Repr

/-- Readings of a scan (R390): 14 cells and the stack in mV, 4 temperatures in °C, and, in a check scan's second window, the same
again. -/
structure CellReadings where
  cells : List Nat
  stack : Nat
  temps : List Int
  deriving DecidableEq, Repr

/-- One cell's switch test (R395): shuttle current in mA, change of reading in mV, tap current in µA. -/
structure SwitchTest where
  shuttleMa : Nat
  deltaMv : Nat
  tapUa : Nat
  deriving DecidableEq, Repr

/-- What an evaluation of operating points measures (R412): power of each core rail and demand in W, busy fractions in 1/1000, and
currents in A and voltages in mV of rails 0–10. -/
structure PowerMeasure where
  pdie : List Nat
  demPeak : Nat
  demMean : Nat
  busy : List Nat
  amps : List Nat
  volts : List Nat
  deriving DecidableEq, Repr

/-- What the thermal loop reads (Table: Thermal inputs): die temperatures and coolant in 1/16 °C, and the hottest power stage of
each of rails 0–9 in 1/16 °C. -/
structure ThermalMeasure where
  die : List Int
  inlet : Int
  outlet : Int
  stage : List Int
  deriving DecidableEq, Repr

/-- Why a controller adds its phases back (R343). -/
inductive AddBackCause where
  | current | rise | peak | pins
  deriving DecidableEq, Repr

/-- Why a phase is marked failed, in the order of R346. -/
inductive PhaseCause where
  | driver | mismatch | peak | hot
  deriving DecidableEq, Repr

/-- Who sends a command that a host or the console can send. -/
inductive CmdSrc where
  | host (fn : Fn)
  | console
  deriving DecidableEq, Repr

/-- The two reads of the ceiling fuses agree or differ (R440). -/
structure FuseRead where
  differ : Bool
  deriving DecidableEq, Repr

/-- Configuration requests that change a function (R187, R190, R192): setting Bus Master Enable, returning to D0, sizing BAR2 to
2^log bytes, and setting the max payload size and the max read request size, in bytes, and the code of the completion timeout range; every
other request is a read as far as the module goes. -/
inductive CfgReq where
  | read | busMaster | powerD0 | bar2Size (log : Nat) | payload (bytes : Nat) | readRequest (bytes : Nat) | timeout (code : Nat)
  deriving DecidableEq, Repr

/-- How a host port's link trains (R187, R316): its rate, 2.5, 5, 8, 16, 32 or 64 GT/s in order; its width, x1, x2, x4 or x8; whether it runs
in flit mode; and whether the port's reference clock is present. -/
structure PortLink where
  rate : Fin 6
  width : Fin 4
  flit : Bool
  refclk : Bool
  deriving DecidableEq, Repr

/-- DRAM errors that an access of several transactions meets: the place of a transaction in the access, and its error. -/
abbrev DramErrs : Type := List (Nat × DramErr)

/-- A memory of Table: On-chip SRAMs, by its row. -/
inductive SramKind where
  | scratchpad | registers | icache | berux | collective | queue | loop | crown | log | secure
  deriving DecidableEq, Repr

/-- What is wrong with a memory cell (Table: March algorithms): it keeps one value, cannot rise to 1 or fall to 0, turns over whenever another
cell of its bank changes, which lies at a row, spare or not, and a column, or the address decoder reaches the cell from the address of another row,
spare or not, too, in place of that row's cell. -/
inductive Defect where
  | stuck (v : Bool)
  | noRise
  | noFall
  | coupled (spare : Bool) (row col : Nat)
  | decoder (spare : Bool) (row : Nat)
  deriving DecidableEq, Repr

/-- A defective cell (R523, R529): bank or array, row, column. The row is counted among the spare rows where `spare` is set (R524). -/
structure FailCell where
  bank : Nat
  row : Nat
  col : Nat
  spare : Bool
  defect : Defect
  deriving DecidableEq, Repr

/-- A march of one memory, and the defective cells that it may meet (R526, R529). -/
structure MarchResult where
  mem : SramKind
  inst : Nat
  cells : List FailCell
  deriving DecidableEq, Repr

/-- What a die's bring-up finds (R124, R125, R130, R154, R465, R468): stacks whose channels did not train; stacks that failed their test;
marches with defective cells; linear tiles that failed the logic self-test; rows whose spare site failed it; die-edge links that failed, for
the edges that this die completes; and the die's trunk resistance in µΩ at the entry. -/
structure BringupResult where
  untrained : List (Fin 20)
  failedStacks : List (Fin 20)
  marches : List MarchResult
  tiles : List (Fin 2560)
  spares : List (Fin 80)
  edges : List (Fin 4 × Fin 35)
  trunk : Nat
  deriving DecidableEq, Repr

/-- Who ends the SERVICE state or acknowledges a lost configuration: a host's message or the console (R486, R509). -/
inductive CmdPath where
  | msg (src : MsgSrc)
  | console
  deriving DecidableEq, Repr

/-- How an authorisation token comes: by a host's message, or at the console, as the 448 bytes of the token and the owner's 384-byte
modulus (R510, R560). -/
inductive AuthPath where
  | msg (src : MsgSrc)
  | console (bytes : List (BitVec 8))
  deriving DecidableEq, Repr

/-- Crown's tamper sensors (R513, Table: Record types). -/
inductive TamperSensor where
  | vctl | clock | temperature | mesh
  deriving DecidableEq, Repr

/-- The argument of `status` (Table: Console commands). -/
inductive StatusPart where
  | all | die | store | hwd | ports | rails
  deriving DecidableEq, Repr

/-- The commands of the module, in the order of the table of operations and events. -/
inductive Instr where
  /-- REGISTER_WRITE (R12): A host write to a set-up register that has no row of its own takes effect under its access code. -/
  | registerWrite (fn : Fn) (off : BitVec 20) (wide : Bool) (value : BitVec 64)
  /-- LOWER_HALF_WRITE (R10): A 32-bit write to the lower half of a 64-bit register fills the writing function's latch and changes nothing else. -/
  | lowerHalfWrite (fn : Fn) (off : BitVec 20) (value : BitVec 32)
  /-- UPPER_HALF_WRITE (R10): A 32-bit write to the upper half combines with the latched or present lower half, takes effect as one 64-bit write and empties the latch. -/
  | upperHalfWrite (fn : Fn) (off : BitVec 20) (value : BitVec 32)
  /-- LOWER_HALF_READ (R10): A 32-bit read of the lower half returns it and captures the present upper half for the reading function; `wide`: one
  64-bit read of the whole register. -/
  | lowerHalfRead (fn : Fn) (off : BitVec 20) (wide : Bool)
  /-- UPPER_HALF_READ (R10): A 32-bit read of the upper half returns the captured half, or the present one if nothing is captured, and empties the capture. -/
  | upperHalfRead (fn : Fn) (off : BitVec 20)
  /-- DISALLOWED_ACCESS (R11): An access that is narrower than 32 bits, misplaced or wider than 64 bits completes normally, and its write is ignored or its read returns zero. -/
  | disallowedAccess (fn : Fn) (off : BitVec 20) (bytes : Nat) (isWrite : Bool)
  /-- W1C_WRITE (R12): Writing 1 to a W1C status bit clears it unless hardware sets it in the same cycle. -/
  | w1cWrite (fn : Fn) (off : BitVec 20) (value : BitVec 64) (hwSet : BitVec 64)
  /-- ADD (R166): Scalar add of two registers. -/
  | add (th : Thr) (d : BitVec 5) (a : BitVec 5) (b : BitVec 5) (md : BitVec 8)
  /-- SUB (R166): Scalar subtract of two registers. -/
  | sub (th : Thr) (d : BitVec 5) (a : BitVec 5) (b : BitVec 5) (md : BitVec 8)
  /-- AND (R166): Scalar bitwise and of two registers. -/
  | and (th : Thr) (d : BitVec 5) (a : BitVec 5) (b : BitVec 5) (md : BitVec 8)
  /-- OR (R166): Scalar bitwise or of two registers. -/
  | or (th : Thr) (d : BitVec 5) (a : BitVec 5) (b : BitVec 5) (md : BitVec 8)
  /-- XOR (R166): Scalar bitwise xor of two registers. -/
  | xor (th : Thr) (d : BitVec 5) (a : BitVec 5) (b : BitVec 5) (md : BitVec 8)
  /-- SHL (R166): Scalar shift left. -/
  | shl (th : Thr) (d : BitVec 5) (a : BitVec 5) (b : BitVec 5) (md : BitVec 8)
  /-- SHR (R166): Scalar logical shift right. -/
  | shr (th : Thr) (d : BitVec 5) (a : BitVec 5) (b : BitVec 5) (md : BitVec 8)
  /-- SRA (R166): Scalar arithmetic shift right. -/
  | sra (th : Thr) (d : BitVec 5) (a : BitVec 5) (b : BitVec 5) (md : BitVec 8)
  /-- MIN (R166): Scalar signed minimum. -/
  | min (th : Thr) (d : BitVec 5) (a : BitVec 5) (b : BitVec 5) (md : BitVec 8)
  /-- MAX (R166): Scalar signed maximum. -/
  | max (th : Thr) (d : BitVec 5) (a : BitVec 5) (b : BitVec 5) (md : BitVec 8)
  /-- MINU (R166): Scalar unsigned minimum. -/
  | minu (th : Thr) (d : BitVec 5) (a : BitVec 5) (b : BitVec 5) (md : BitVec 8)
  /-- MAXU (R166): Scalar unsigned maximum. -/
  | maxu (th : Thr) (d : BitVec 5) (a : BitVec 5) (b : BitVec 5) (md : BitVec 8)
  /-- MUL (R166): Scalar multiply that keeps the low 64 bits, with a latency of 4. -/
  | mul (th : Thr) (d : BitVec 5) (a : BitVec 5) (b : BitVec 5) (md : BitVec 8)
  /-- CMP_EQ (R166): Compares two registers for equality into a scalar flag. -/
  | cmpEq (th : Thr) (d : BitVec 5) (a : BitVec 5) (b : BitVec 5) (md : BitVec 8)
  /-- CMP_NE (R166): Compares two registers for inequality into a scalar flag. -/
  | cmpNe (th : Thr) (d : BitVec 5) (a : BitVec 5) (b : BitVec 5) (md : BitVec 8)
  /-- CMP_LT (R166): Signed less-than compare into a scalar flag. -/
  | cmpLt (th : Thr) (d : BitVec 5) (a : BitVec 5) (b : BitVec 5) (md : BitVec 8)
  /-- CMP_GE (R166): Signed greater-or-equal compare into a scalar flag. -/
  | cmpGe (th : Thr) (d : BitVec 5) (a : BitVec 5) (b : BitVec 5) (md : BitVec 8)
  /-- CMP_LTU (R166): Unsigned less-than compare into a scalar flag. -/
  | cmpLtu (th : Thr) (d : BitVec 5) (a : BitVec 5) (b : BitVec 5) (md : BitVec 8)
  /-- CMP_GEU (R166): Unsigned greater-or-equal compare into a scalar flag. -/
  | cmpGeu (th : Thr) (d : BitVec 5) (a : BitVec 5) (b : BitVec 5) (md : BitVec 8)
  /-- ADDI (R164): Scalar add of a sign-extended imm13. -/
  | addi (th : Thr) (d : BitVec 5) (a : BitVec 5) (imm : BitVec 13)
  /-- ANDI (R164): Scalar and with imm13. -/
  | andi (th : Thr) (d : BitVec 5) (a : BitVec 5) (imm : BitVec 13)
  /-- ORI (R164): Scalar or with imm13. -/
  | ori (th : Thr) (d : BitVec 5) (a : BitVec 5) (imm : BitVec 13)
  /-- XORI (R164): Scalar xor with imm13. -/
  | xori (th : Thr) (d : BitVec 5) (a : BitVec 5) (imm : BitVec 13)
  /-- SHLI (R164): Scalar shift left by an immediate. -/
  | shli (th : Thr) (d : BitVec 5) (a : BitVec 5) (imm : BitVec 13)
  /-- SHRI (R164): Scalar logical shift right by an immediate. -/
  | shri (th : Thr) (d : BitVec 5) (a : BitVec 5) (imm : BitVec 13)
  /-- CMPI (R166): Compare of a register with imm13 into a scalar flag. -/
  | cmpi (th : Thr) (cc : Cond) (d : BitVec 5) (a : BitVec 5) (imm : BitVec 13)
  /-- MOVZ (R164): Writes imm16 shifted by 16 x hw and clears every other bit. -/
  | movz (th : Thr) (d : BitVec 5) (hw : BitVec 2) (imm : BitVec 16)
  /-- MOVK (R164): Replaces one 16-bit field of a register with imm16 and keeps the rest. -/
  | movk (th : Thr) (d : BitVec 5) (hw : BitVec 2) (imm : BitVec 16)
  /-- BR_T (R166): Branches by off20 words when flag f is 1. -/
  | brT (th : Thr) (f : BitVec 3) (off : BitVec 20)
  /-- BR_F (R166): Branches by off20 words when flag f is 0. -/
  | brF (th : Thr) (f : BitVec 3) (off : BitVec 20)
  /-- JMP (R166): Jumps unconditionally; leaving the code region faults the thread. -/
  | jmp (th : Thr) (off : BitVec 20)
  /-- JAL (R166): Jumps and writes the return offset to d. -/
  | jal (th : Thr) (d : BitVec 5) (imm : BitVec 13)
  /-- JR (R166): Jumps to the offset held in register a. -/
  | jr (th : Thr) (a : BitVec 5)
  /-- LDS (R166): Scalar scratchpad load of 1, 2, 4 or 8 bytes at base plus off12. -/
  | lds (th : Thr) (sz : AccSize) (view : BitVec 2) (d : BitVec 5) (base : BitVec 5) (off : BitVec 12) (ecc : PadErrs)
  /-- STS (R56): Scalar scratchpad store of 1, 2, 4 or 8 bytes; a narrow store into an uncorrectable word faults the thread. -/
  | sts (th : Thr) (sz : AccSize) (view : BitVec 2) (d : BitVec 5) (base : BitVec 5) (off : BitVec 12)
  /-- LDV (R166): Loads 128 bytes of scratchpad into a vector register. -/
  | ldv (th : Thr) (view : BitVec 2) (d : BitVec 5) (base : BitVec 5) (off : BitVec 12) (ecc : PadErrs)
  /-- STV (R166): Stores a vector register as 128 bytes of scratchpad. -/
  | stv (th : Thr) (view : BitVec 2) (d : BitVec 5) (base : BitVec 5) (off : BitVec 12)
  /-- LDV_H (R165): Loads 64 bytes into the selected half of a vector register. -/
  | ldvH (th : Thr) (view : BitVec 2) (d : BitVec 5) (base : BitVec 5) (off : BitVec 12) (ecc : PadErrs)
  /-- STV_H (R165): Stores the selected half of a vector register as 64 bytes. -/
  | stvH (th : Thr) (view : BitVec 2) (d : BitVec 5) (base : BitVec 5) (off : BitVec 12)
  /-- GTH (R168): Gathers scratchpad elements at base plus lane offsets into a vector register. -/
  | gth (th : Thr) (d : BitVec 5) (a : BitVec 5) (b : BitVec 5) (md : BitVec 8) (ecc : PadErrs)
  /-- SCT (R168): Scatters vector lanes to the scratchpad; on equal addresses the highest enabled lane wins. -/
  | sct (th : Thr) (d : BitVec 5) (a : BitVec 5) (b : BitVec 5) (md : BitVec 8)
  /-- LDD (R169): Scalar device-memory load in the selected view, near or far. -/
  | ldd (th : Thr) (sz : AccSize) (view : BitVec 2) (d : BitVec 5) (base : BitVec 5) (off : BitVec 12)
  /-- STD (R169): Scalar device-memory store in the selected view. -/
  | std (th : Thr) (sz : AccSize) (view : BitVec 2) (d : BitVec 5) (base : BitVec 5) (off : BitVec 12)
  /-- LDVD (R169): Loads 128 bytes of device memory into a vector register as two transactions. -/
  | ldvd (th : Thr) (view : BitVec 2) (d : BitVec 5) (base : BitVec 5) (off : BitVec 12)
  /-- STVD (R169): Stores a vector register to device memory as two transactions. -/
  | stvd (th : Thr) (view : BitVec 2) (d : BitVec 5) (base : BitVec 5) (off : BitVec 12)
  /-- DMA_RD (R170): Starts an asynchronous copy from device memory to the scratchpad. -/
  | dmaRd (th : Thr) (d : BitVec 5) (a : BitVec 5) (b : BitVec 5) (md : BitVec 8)
  /-- DMA_WR (R170): Starts an asynchronous copy from the scratchpad to device memory. -/
  | dmaWr (th : Thr) (d : BitVec 5) (a : BitVec 5) (b : BitVec 5) (md : BitVec 8)
  /-- RLD (R172): Sends an 8-byte remote scratchpad read over the Canopy. -/
  | rld (th : Thr) (d : BitVec 5) (a : BitVec 5) (b : BitVec 5) (md : BitVec 8)
  /-- RST (R172): Sends an 8-byte remote scratchpad write over the Canopy. -/
  | rst (th : Thr) (d : BitVec 5) (a : BitVec 5) (b : BitVec 5) (md : BitVec 8)
  /-- RLDV (R172): Sends a 64-byte remote scratchpad read into a vector-register half. -/
  | rldv (th : Thr) (d : BitVec 5) (a : BitVec 5) (b : BitVec 5) (md : BitVec 8)
  /-- RSTV (R172): Sends a 64-byte remote scratchpad write from a vector-register half. -/
  | rstv (th : Thr) (d : BitVec 5) (a : BitVec 5) (b : BitVec 5) (md : BitVec 8)
  /-- RADD (R172): Sends a remote atomic 64-bit add to a scratchpad word, returning the old value. -/
  | radd (th : Thr) (d : BitVec 5) (a : BitVec 5) (b : BitVec 5) (md : BitVec 8)
  /-- SWP (R173): Memory-side swap at the home channel, returning the old value. -/
  | swp (th : Thr) (wide : Bool) (view : BitVec 2) (d : BitVec 5) (base : BitVec 5) (off : BitVec 12)
  /-- CAS (R173): Memory-side compare and swap, returning the old value. -/
  | cas (th : Thr) (wide : Bool) (view : BitVec 2) (d : BitVec 5) (base : BitVec 5) (off : BitVec 12)
  /-- ATOMIC_ADD (R173): Memory-side integer add modulo 2^n, returning the old value. -/
  | atomicAdd (th : Thr) (wide : Bool) (view : BitVec 2) (d : BitVec 5) (base : BitVec 5) (off : BitVec 12)
  /-- SMIN (R173): Memory-side signed minimum. -/
  | smin (th : Thr) (wide : Bool) (view : BitVec 2) (d : BitVec 5) (base : BitVec 5) (off : BitVec 12)
  /-- SMAX (R173): Memory-side signed maximum. -/
  | smax (th : Thr) (wide : Bool) (view : BitVec 2) (d : BitVec 5) (base : BitVec 5) (off : BitVec 12)
  /-- UMIN (R173): Memory-side unsigned minimum. -/
  | umin (th : Thr) (wide : Bool) (view : BitVec 2) (d : BitVec 5) (base : BitVec 5) (off : BitVec 12)
  /-- UMAX (R173): Memory-side unsigned maximum. -/
  | umax (th : Thr) (wide : Bool) (view : BitVec 2) (d : BitVec 5) (base : BitVec 5) (off : BitVec 12)
  /-- ATOMIC_AND (R173): Memory-side and. -/
  | atomicAnd (th : Thr) (wide : Bool) (view : BitVec 2) (d : BitVec 5) (base : BitVec 5) (off : BitVec 12)
  /-- ATOMIC_OR (R173): Memory-side or. -/
  | atomicOr (th : Thr) (wide : Bool) (view : BitVec 2) (d : BitVec 5) (base : BitVec 5) (off : BitVec 12)
  /-- ATOMIC_XOR (R173): Memory-side xor. -/
  | atomicXor (th : Thr) (wide : Bool) (view : BitVec 2) (d : BitVec 5) (base : BitVec 5) (off : BitVec 12)
  /-- FADD (R114): Memory-side FP32 add, rounded to nearest, with its flags discarded. -/
  | fadd (th : Thr) (wide : Bool) (view : BitVec 2) (d : BitVec 5) (base : BitVec 5) (off : BitVec 12)
  /-- RED_F32 (R173): Memory-side reduce-add of 16 FP32 elements, acknowledged like a write. -/
  | redF32 (th : Thr) (view : BitVec 2) (d : BitVec 5) (base : BitVec 5) (off : BitVec 12)
  /-- RED_BF16 (R173): Memory-side reduce-add of 32 bfloat16 elements. -/
  | redBf16 (th : Thr) (view : BitVec 2) (d : BitVec 5) (base : BitVec 5) (off : BitVec 12)
  /-- RED_H16 (R173): Memory-side reduce-add of 32 binary16 elements. -/
  | redH16 (th : Thr) (view : BitVec 2) (d : BitVec 5) (base : BitVec 5) (off : BitVec 12)
  /-- VADD (R83): Lane-wise vector add, rounded once. -/
  | vadd (th : Thr) (fmt : LaneFmt) (d : BitVec 5) (a : BitVec 5) (b : BitVec 5) (md : BitVec 8)
  /-- VSUB (R83): Lane-wise vector subtract. -/
  | vsub (th : Thr) (fmt : LaneFmt) (d : BitVec 5) (a : BitVec 5) (b : BitVec 5) (md : BitVec 8)
  /-- VMUL (R83): Lane-wise vector multiply. -/
  | vmul (th : Thr) (fmt : LaneFmt) (d : BitVec 5) (a : BitVec 5) (b : BitVec 5) (md : BitVec 8)
  /-- VMIN (R166): Lane-wise vector minimum. -/
  | vmin (th : Thr) (fmt : LaneFmt) (d : BitVec 5) (a : BitVec 5) (b : BitVec 5) (md : BitVec 8)
  /-- VMAX (R166): Lane-wise vector maximum. -/
  | vmax (th : Thr) (fmt : LaneFmt) (d : BitVec 5) (a : BitVec 5) (b : BitVec 5) (md : BitVec 8)
  /-- VABS (R166): Lane-wise vector absolute value. -/
  | vabs (th : Thr) (fmt : LaneFmt) (d : BitVec 5) (a : BitVec 5) (b : BitVec 5) (md : BitVec 8)
  /-- VNEG (R166): Lane-wise vector negate. -/
  | vneg (th : Thr) (fmt : LaneFmt) (d : BitVec 5) (a : BitVec 5) (b : BitVec 5) (md : BitVec 8)
  /-- VSEL (R166): Lane-wise vector select. -/
  | vsel (th : Thr) (fmt : LaneFmt) (d : BitVec 5) (a : BitVec 5) (b : BitVec 5) (md : BitVec 8)
  /-- VBCAST (R166): Broadcasts a scalar register to the vector lanes. -/
  | vbcast (th : Thr) (fmt : LaneFmt) (d : BitVec 5) (a : BitVec 5) (b : BitVec 5) (md : BitVec 8)
  /-- VEXTR (R166): Extracts a vector lane into a scalar register. -/
  | vextr (th : Thr) (fmt : LaneFmt) (d : BitVec 5) (a : BitVec 5) (b : BitVec 5) (md : BitVec 8)
  /-- VFMA (R83): Fused multiply-add d := a x b + d, rounded once. -/
  | vfma (th : Thr) (fmt : LaneFmt) (d : BitVec 5) (a : BitVec 5) (b : BitVec 5) (md : BitVec 8)
  /-- VRCP (R166): Lane-wise reciprocal, with an occupancy of 4. -/
  | vrcp (th : Thr) (fmt : LaneFmt) (d : BitVec 5) (a : BitVec 5) (b : BitVec 5) (md : BitVec 8)
  /-- VSQRT (R166): Lane-wise square root. -/
  | vsqrt (th : Thr) (fmt : LaneFmt) (d : BitVec 5) (a : BitVec 5) (b : BitVec 5) (md : BitVec 8)
  /-- VRSQRT (R166): Lane-wise reciprocal square root. -/
  | vrsqrt (th : Thr) (fmt : LaneFmt) (d : BitVec 5) (a : BitVec 5) (b : BitVec 5) (md : BitVec 8)
  /-- VEXP2 (R166): Lane-wise base-2 exponential. -/
  | vexp2 (th : Thr) (fmt : LaneFmt) (d : BitVec 5) (a : BitVec 5) (b : BitVec 5) (md : BitVec 8)
  /-- VSUM (R166): Exact sum of the enabled lanes, rounded once, into lane 0. -/
  | vsum (th : Thr) (fmt : LaneFmt) (d : BitVec 5) (a : BitVec 5) (b : BitVec 5) (md : BitVec 8)
  /-- VCMP_EQ (R166): Lane-wise equality compare into a mask register. -/
  | vcmpEq (th : Thr) (fmt : LaneFmt) (d : BitVec 5) (a : BitVec 5) (b : BitVec 5) (md : BitVec 8)
  /-- VCMP_LT (R166): Lane-wise less-than compare into a mask register. -/
  | vcmpLt (th : Thr) (fmt : LaneFmt) (d : BitVec 5) (a : BitVec 5) (b : BitVec 5) (md : BitVec 8)
  /-- VCMP_LE (R166): Lane-wise less-or-equal compare into a mask register. -/
  | vcmpLe (th : Thr) (fmt : LaneFmt) (d : BitVec 5) (a : BitVec 5) (b : BitVec 5) (md : BitVec 8)
  /-- MMA_G (R174): Grain matrix multiply-accumulate of 1-8 chunks into an accumulator set. -/
  | mmaG (th : Thr) (acc : BitVec 2) (clr : Bool) (cnt : BitVec 3) (a : BitVec 5) (b : BitVec 5) (fa : BitVec 2) (fb : BitVec 2) (res : BitVec 4)
  /-- MMA_B (R174): bfloat16 matrix multiply-accumulate. -/
  | mmaB (th : Thr) (acc : BitVec 2) (clr : Bool) (cnt : BitVec 3) (a : BitVec 5) (b : BitVec 5) (fa : BitVec 2) (fb : BitVec 2) (res : BitVec 4)
  /-- MMA_H (R174): binary16 matrix multiply-accumulate. -/
  | mmaH (th : Thr) (acc : BitVec 2) (clr : Bool) (cnt : BitVec 3) (a : BitVec 5) (b : BitVec 5) (fa : BitVec 2) (fb : BitVec 2) (res : BitVec 4)
  /-- MCLR (R176): Clears an accumulator set. -/
  | mclr (th : Thr) (d : BitVec 5) (a : BitVec 5) (b : BitVec 5) (md : BitVec 8)
  /-- MRD (R176): Reads out an accumulator set to the scratchpad in the chosen format under R89. -/
  | mrd (th : Thr) (d : BitVec 5) (a : BitVec 5) (b : BitVec 5) (md : BitVec 8)
  /-- CVT (R80): Converts a vector between number formats. -/
  | cvt (th : Thr) (dst : BitVec 3) (d : BitVec 5) (a : BitVec 5) (b : BitVec 5) (md : BitVec 8)
  /-- QNT_G4 (R78): Quantises a vector to a G4 block of a Grain line. -/
  | qntG4 (th : Thr) (src : LaneFmt) (d : BitVec 5) (a : BitVec 5) (b : BitVec 5) (md : BitVec 8)
  /-- QNT_G6 (R78): Quantises a vector to a G6 block. -/
  | qntG6 (th : Thr) (src : LaneFmt) (d : BitVec 5) (a : BitVec 5) (b : BitVec 5) (md : BitVec 8)
  /-- QNT_G8 (R78): Quantises a vector to a G8 block. -/
  | qntG8 (th : Thr) (src : LaneFmt) (d : BitVec 5) (a : BitVec 5) (b : BitVec 5) (md : BitVec 8)
  /-- DQNT (R80): Dequantises a Grain block to FP32 exactly. -/
  | dqnt (th : Thr) (w : GrainFmt) (d : BitVec 5) (a : BitVec 5) (b : BitVec 5) (md : BitVec 8) (ecc : PadErrs)
  /-- MXIN (R97): Imports an MX line into a Grain or IEEE format. -/
  | mxin (th : Thr) (fmt : BitVec 3) (d : BitVec 5) (a : BitVec 5) (b : BitVec 5) (md : BitVec 8) (ecc : PadErrs)
  /-- MXOUT (R98): Exports values to an MX line. -/
  | mxout (th : Thr) (fmt : BitVec 3) (d : BitVec 5) (a : BitVec 5) (b : BitVec 5) (md : BitVec 8) (ecc : PadErrs)
  /-- FENCE (R149): Holds the thread until its loads have returned and its writes, atomics and DMAs are acknowledged. -/
  | fence (th : Thr)
  /-- BAR (R178): Waits at tile barrier n until every started thread has arrived or ended. -/
  | bar (th : Thr) (b : BitVec 5) (md : BitVec 8)
  /-- GBAR (R179): Fences, then waits at the barrier across every tile of the launch. -/
  | gbar (th : Thr)
  /-- WAIT_DMA (R180): Waits until at most n of the thread's DMAs are outstanding. -/
  | waitDma (th : Thr) (imm : BitVec 13)
  /-- WAIT_EQ (R180): Waits until a scratchpad word equals a register. -/
  | waitEq (th : Thr) (a : BitVec 5) (b : BitVec 5) (md : BitVec 8) (ecc : PadErrs)
  /-- WAIT_NE (R180): Waits until a scratchpad word differs from a register. -/
  | waitNe (th : Thr) (a : BitVec 5) (b : BitVec 5) (md : BitVec 8) (ecc : PadErrs)
  /-- WAIT_GE (R180): Waits until a scratchpad word is at least a register, unsigned. -/
  | waitGe (th : Thr) (a : BitVec 5) (b : BitVec 5) (md : BitVec 8) (ecc : PadErrs)
  /-- HALT (R181): Moves the thread to HALTED. -/
  | halt (th : Thr)
  /-- PRIO (R181): Sets the thread's priority bit. -/
  | prio (th : Thr) (imm : BitVec 13)
  /-- RDRNG (R181): Reads the rounding generator state. -/
  | rdrng (th : Thr) (d : BitVec 5)
  /-- WRRNG (R181): Writes the rounding generator state, storing 1 in place of 0. -/
  | wrrng (th : Thr) (a : BitVec 5)
  /-- RDTIME (R181): Reads the die time stamp counter. -/
  | rdtime (th : Thr) (d : BitVec 5)
  /-- IMGADDR (R181): Writes the image base address plus imm13 x 64. -/
  | imgaddr (th : Thr) (d : BitVec 5) (imm : BitVec 13)
  /-- ILLEGAL_ENCODING (R162): An instruction of class 0xE or 0xF, or with an unlisted op, reserved bit or register, faults the thread with cause 0x01; w
  is the word that the thread meets. -/
  | illegalEncoding (th : Thr) (w : BitVec 32)
  /-- STARVATION_PROMOTION (R47): A READY normal-priority thread that has not issued for 64 cycles is treated as high priority. -/
  | starvationPromotion (th : Thr)
  /-- FAULT_REPORT (R62): The queue engine takes the first fault report of a launch and aborts the launch on every tile. -/
  | faultReport (q : Fin 64)
  /-- SCRATCHPAD_SCRUB (R57): Every 1024 core cycles the scrubber reads one granule in a free bank cycle and reports errors. -/
  | scratchpadScrub (t : Fin 2560) (g : Fin 32768) (ecc : PadErrs)
  /-- ICACHE_REFETCH (R58): A line refetched after a parity error returns; a second parity failure faults the thread. -/
  | icacheRefetch (th : Thr) (again : Bool)
  /-- REMOTE_SCRATCHPAD_ACCESS (R146): A remote request reaches its home scratchpad bank and is performed and answered with a status. -/
  | remoteScratchpadAccess (id : Nat) (ecc : PadErrs)
  /-- RESPONSE_ARRIVAL (R156): A read response or write acknowledgement returns to the requester, which frees its tracker entry and handles the status. -/
  | responseArrival (id : Nat) (part : Nat)
  /-- REMOTE_REQUEST_TIMEOUT (R155): A remote request unanswered after timeout_us frees its entry and faults the thread. -/
  | remoteRequestTimeout (id part : Nat)
  /-- DMA_COMPLETE (R171): A DMA completes once all its parts are performed and every earlier DMA of the thread is complete. -/
  | dmaComplete (th : Thr)
  /-- MATRIX_INSTRUCTION_END (R174): A matrix instruction leaves the matrix unit at the end of its occupancy. -/
  | matrixInstructionEnd (t : Fin 2560) (ecc : PadErrs)
  /-- GBAR_ARRIVAL (R179): A tile's arrival report reaches the queue engine, which releases every tile when the last has arrived. -/
  | gbarArrival (t : Fin 2560)
  /-- REMAP_APPLY (R67): At a remap point Crown applies pending retirements and row repairs, records the maps and clears moved scratchpads. -/
  | remapApply
  /-- CHANNEL_TRANSACTION (R109): A vertical-channel controller serves a 64-byte read, write, merge or atomic for its slice and checks its code. -/
  | channelTransaction (id : Nat) (part : Nat) (err : DramErr) (ecc : PadErrs)
  /-- PATROL_SCRUB_READ (R120): The patrol scrubber's next evenly spaced read of a slice's transaction falls due. -/
  | patrolScrubRead (sl : Fin 2560) (err : DramErr)
  /-- REFRESH_COMMAND (R128): A refresh command falls due for a bank, within its band's refresh window. -/
  | refreshCommand (sl : Fin 2560) (bank : Fin 128)
  /-- LAYER_SENSOR_READ (R126): Every 1 ms the stack controller reads its layer sensors and forms the stack temperature. -/
  | layerSensorRead (st : Fin 20) (temps : List (Option Int))
  /-- STOP_BAND_TIMEOUT (R127): A stack in Stop for 1 s makes Crown apply the thermal shutdown. -/
  | stopBandTimeout (st : Fin 20)
  /-- TRUNK_RESISTANCE_CHECK (R130): Once a minute Crown recomputes a die's trunk resistance and records and reports a rise above 130 %. -/
  | trunkResistanceCheck (d : Fin 4) (uohm : Nat) (amps : Nat)
  /-- MEM_CTRL_WRITE (R131): A write to MEM_CTRL pauses, stops, restarts or resumes the patrol scrub, or forces the 8 ms refresh. -/
  | memCtrlWrite (fn : Fn) (value : BitVec 32)
  /-- FLIT_CRC_FAILURE (R152): A Canopy link receiver finds a CRC failure and asks for the flit again. -/
  | flitCrcFailure (link : MeshLink) (again : Bool)
  /-- REQUEST_AGING (R144): A request flit that has waited 32 cycles at an output goes first in the next cycle. -/
  | requestAging (id part : Nat)
  /-- BAR2_READ (R193): A host read through the BAR2 window completes after earlier BAR2 writes are performed. -/
  | bar2Read (fn : Fn) (off : Nat) (len : Nat) (errs : DramErrs)
  /-- BAR2_WRITE (R191): A host write through the BAR2 window reaches device memory in the window's view. -/
  | bar2Write (fn : Fn) (off : Nat) (data : List (BitVec 8)) (errs : DramErrs)
  /-- CONFIGURATION_REQUEST (R466): A PCI Express configuration request, answered with retry status until Crown runs. -/
  | configurationRequest (fn : Fn) (req : CfgReq)
  /-- PERST_ASSERT (R316): perst low holds the port in fundamental reset and its function in DL_Down. -/
  | perstAssert (fn : Fn)
  /-- PERST_DEASSERT (R466): perst high lets the port train once its rail and reference clock are present. -/
  | perstDeassert (fn : Fn)
  /-- DL_UP (R466): A host port's link comes up and its function enumerates. -/
  | dlUp (fn : Fn) (link : PortLink)
  /-- DL_DOWN (R228): A port's link goes down and every queue of the function that is not DISABLED goes to ERROR. -/
  | dlDown (fn : Fn)
  /-- BUS_MASTER_ENABLE_CLEAR (R228): Clearing Bus Master Enable puts the function's queues in ERROR with cause no_master. -/
  | busMasterEnableClear (fn : Fn)
  /-- FUNCTION_LEVEL_RESET (R228): A function level reset disables and resets the function's queues and closes its jobs. -/
  | functionLevelReset (fn : Fn)
  /-- D3HOT_ENTRY (R192): The function enters D3hot, its queues become DISABLED and its BAR accesses fail. -/
  | d3hotEntry (fn : Fn)
  /-- MSIX_UNMASK (R231): Unmasking a vector with its pending bit set sends one message and clears the bit. -/
  | msixUnmask (fn : Fn) (vec : Option (Fin 128))
  /-- DOORBELL_POLL (R202): A queue's poll interval expires and the queue engine reads its doorbell word. -/
  | doorbellPoll (q : Fin 64)
  /-- DOORBELL_READ_COMPLETE (R199): A doorbell read returns; the engine checks it and fetches descriptors where R199 allows. -/
  | doorbellReadComplete (q : Fin 64) (word : Option (BitVec 64))
  /-- DESCRIPTOR_READ_COMPLETE (R207): Fetched descriptors arrive in the queue and count as fetched. -/
  | descriptorReadComplete (q : Fin 64) (descs : Option (List (BitVec 512))) (sram : SramErr)
  /-- STATUS_WORD_WRITE (R198): At the start of a poll interval the engine writes a fetch-driven status word held back from the previous interval. -/
  | statusWordWrite (q : Fin 64)
  /-- HQ_WAKE (R205): A write of a queue number makes that queue's next poll occur within 0.5 us. -/
  | hqWake (fn : Fn) (value : BitVec 32)
  /-- NOP (R208): A NOP descriptor completes at once. -/
  | nop (q : Fin 64)
  /-- LAUNCH (R211): A LAUNCH descriptor starts: its fields, image header and fences are checked, then it waits for its tiles. -/
  | launch (q : Fin 64) (errs : DramErrs)
  /-- LAUNCH_PREPARE (R185): Once its tiles are free, the launch's tiles are invalidated, cleared, given their arguments and reset. -/
  | launchPrepare (q : Fin 64) (errs : DramErrs)
  /-- LAUNCH_THREADS_START (R185): Once every tile is prepared, the threads in the mask move to READY and the timeout starts. -/
  | launchThreadsStart (q : Fin 64)
  /-- LAUNCH_TIMEOUT (R212): A launch still running after timeout_us is aborted and completes with TIMEOUT. -/
  | launchTimeout (q : Fin 64)
  /-- COMPLETION_RECORD_WRITE (R221): Once every effect of a descriptor is performed, its record, status word and MSI-X message are written. -/
  | completionRecordWrite (q : Fin 64)
  /-- COPY (R214): A COPY descriptor checks its device range and starts moving data. -/
  | copy (q : Fin 64)
  /-- COPY_COMPLETE (R214): A copy finishes or stops at its first error. -/
  | copyComplete (q : Fin 64) (data : List (BitVec 8)) (failedAt : Option Nat) (errs : DramErrs)
  /-- WAIT (R215): A WAIT descriptor holds its queue until the target queue's done count is reached. -/
  | wait (q : Fin 64)
  /-- WAIT_TIMEOUT (R215): A WAIT's timeout passes first and it completes with TIMEOUT. -/
  | waitTimeout (q : Fin 64)
  /-- HINT (R216): A HINT descriptor announcing a heavy phase completes as soon as it is checked. -/
  | hint (q : Fin 64)
  /-- HINT_WINDOW_START (R413): A hint's lead time ends and its demand and preference apply to the dies in its mask. -/
  | hintWindowStart (i : Nat)
  /-- HINT_WINDOW_END (R413): A hinted window ends and its preference and demand stop applying. -/
  | hintWindowEnd (i : Nat)
  /-- MARK_JOB_START (R218): A job-start MARK opens a job, or completes with BAD_MARKER or JOB_LIMIT. -/
  | markJobStart (q : Fin 64)
  /-- MARK_JOB_END (R218): A job-end MARK closes a job and reports its energy, time and overlap. -/
  | markJobEnd (q : Fin 64)
  /-- MARK_STEP_BOUNDARY (R289): A step-boundary MARK runs the twin or checkpoint copy, then activates a committed epoch. -/
  | markStepBoundary (q : Fin 64) (errs : DramErrs)
  /-- QUEUE_ENABLE (R223): The enable command moves a DISABLED queue with a valid configuration to ENABLED. -/
  | queueEnable (fn : Fn) (q : Fin 64)
  /-- QUEUE_DRAIN (R224): The drain command stops polling and lets fetched descriptors complete. -/
  | queueDrain (fn : Fn) (q : Fin 64)
  /-- QUEUE_FORCE (R225): The force command ends every fetched descriptor with ABORTED. -/
  | queueForce (fn : Fn) (q : Fin 64)
  /-- QUEUE_CLAIM (R226): A function claims a queue that has no owner. -/
  | queueClaim (fn : Fn) (q : Fin 64)
  /-- QUEUE_RELEASE (R226): The owner releases a DISABLED queue. -/
  | queueRelease (fn : Fn) (q : Fin 64)
  /-- QUEUE_TAKEOVER (R227): The non-owner takes a queue whose owner is unreachable, force-disabling it. -/
  | queueTakeover (fn : Fn) (q : Fin 64)
  /-- MAINTENANCE_PAUSE (R230): A request with repairs pending stops all fetching until fetched work completes and the remap is applied. -/
  | maintenancePause (fn : Fn)
  /-- PORT_ENABLE (R240): The enable command moves a DISABLED or DOWN Berux port to DETECT. -/
  | portEnable (fn : Fn) (p : Fin 20)
  /-- PORT_DISABLE (R263): The disable command flushes an ACTIVE port, or disables it at once in other states. -/
  | portDisable (fn : Fn) (p : Fin 20)
  /-- PORT_FORCE (R263): The force command runs a flush without waiting for outstanding requests. -/
  | portForce (fn : Fn) (p : Fin 20)
  /-- CABLE_DETECT_ATTEMPT (R267): At 0, 10 and 20 ms in DETECT the module reads the cable's identifier and selects an application. -/
  | cableDetectAttempt (p : Fin 20) (ans : CableAnswer)
  /-- TRAIN_LOCK (R240): Equalisation, frame lock and deskew complete and the port enters NEGOTIATE. -/
  | trainLock (p : Fin 20) (lanes precode : BitVec 8)
  /-- TRAIN_TIMEOUT (R240): 100 ms pass in TRAIN without lock and the port goes down with train_fail. -/
  | trainTimeout (p : Fin 20)
  /-- TRAINING_WORD (R242): A training flit arrives; once the words settle, the checks run and the port enters ACTIVE or goes down. -/
  | trainingWord (p : Fin 20) (flit : List (BitVec 8)) (fec : Fec)
  /-- NEGOTIATE_TIMEOUT (R240): 10 ms pass in NEGOTIATE and the port goes down. -/
  | negotiateTimeout (p : Fin 20)
  /-- RETRAIN_TRIGGER (R256): Naks, loss of lock, a cable flag or uncorrectable codewords move an ACTIVE port to RETRAIN. -/
  | retrainTrigger (p : Fin 20) (why : RetrainCause)
  /-- RETRAIN_LOCK (R240): A retraining port regains lock at an allowed width and returns to ACTIVE. -/
  | retrainLock (p : Fin 20) (lanes : BitVec 8)
  /-- RETRAIN_TIMEOUT (R240): 10 ms pass in RETRAIN and the port goes down. -/
  | retrainTimeout (p : Fin 20)
  /-- PORT_AUTO_RETRY (R240): 1 s after entering DOWN with a retryable cause, an auto-retry port returns to DETECT. -/
  | portAutoRetry (p : Fin 20)
  /-- DATA_FLIT (R245): A data or sideband flit is received and accepted in sequence, or discarded and nak'd; its ack and credit fields are applied. -/
  | dataFlit (p : Fin 20) (flit : List (BitVec 8)) (fec : Fec) (sram : SramErr)
  /-- IDLE_FLIT (R245): An idle flit is received and its ack, nak and credit fields are applied, replaying on a nak. -/
  | idleFlit (p : Fin 20) (flit : List (BitVec 8)) (fec : Fec)
  /-- NAK_REPEAT (R246): Every 2 us without a newly accepted flit, the receiver sets nak again. -/
  | nakRepeat (p : Fin 20)
  /-- LINK_FAILURE_DURING_FLUSH (R265): The link fails during a flush and the port disables without a tombstone. -/
  | linkFailureDuringFlush (p : Fin 20) (cause : BitVec 4)
  /-- BX_READ (R253): A Berux READ is performed at its home or forwarded, and answered with READ_RSP. -/
  | bxRead (p : Fin 20) (errs : DramErrs) (ecc : PadErrs)
  /-- BX_WRITE (R253): A Berux WRITE is performed or forwarded and acknowledged. -/
  | bxWrite (p : Fin 20) (errs : DramErrs) (ecc : PadErrs)
  /-- BX_ATOMIC_SWAP (R252): A Berux ATOMIC swap. -/
  | bxAtomicSwap (p : Fin 20) (errs : DramErrs)
  /-- BX_ATOMIC_COMPARE_AND_SWAP (R252): A Berux ATOMIC compare and swap. -/
  | bxAtomicCompareAndSwap (p : Fin 20) (errs : DramErrs)
  /-- BX_ATOMIC_INTEGER_ADD (R252): A Berux ATOMIC integer add. -/
  | bxAtomicIntegerAdd (p : Fin 20) (errs : DramErrs)
  /-- BX_ATOMIC_SIGNED_MIN (R252): A Berux ATOMIC signed minimum. -/
  | bxAtomicSignedMin (p : Fin 20) (errs : DramErrs)
  /-- BX_ATOMIC_SIGNED_MAX (R252): A Berux ATOMIC signed maximum. -/
  | bxAtomicSignedMax (p : Fin 20) (errs : DramErrs)
  /-- BX_ATOMIC_UNSIGNED_MIN (R252): A Berux ATOMIC unsigned minimum. -/
  | bxAtomicUnsignedMin (p : Fin 20) (errs : DramErrs)
  /-- BX_ATOMIC_UNSIGNED_MAX (R252): A Berux ATOMIC unsigned maximum. -/
  | bxAtomicUnsignedMax (p : Fin 20) (errs : DramErrs)
  /-- BX_ATOMIC_AND (R252): A Berux ATOMIC and. -/
  | bxAtomicAnd (p : Fin 20) (errs : DramErrs)
  /-- BX_ATOMIC_OR (R252): A Berux ATOMIC or. -/
  | bxAtomicOr (p : Fin 20) (errs : DramErrs)
  /-- BX_ATOMIC_XOR (R252): A Berux ATOMIC xor. -/
  | bxAtomicXor (p : Fin 20) (errs : DramErrs)
  /-- BX_ATOMIC_FP32_ADD (R252): A Berux ATOMIC FP32 add. -/
  | bxAtomicFp32Add (p : Fin 20) (errs : DramErrs)
  /-- BX_REDUCE (R253): A Berux REDUCE adds elements at its home and is acknowledged. -/
  | bxReduce (p : Fin 20) (errs : DramErrs)
  /-- READ_RSP (R258): A READ_RSP ends the originating request with its status. -/
  | readRsp (p : Fin 20)
  /-- WRITE_ACK (R258): A WRITE_ACK ends a write or reduce request and may release an ordered request. -/
  | writeAck (p : Fin 20)
  /-- ATOMIC_RSP (R258): An ATOMIC_RSP returns the old value. -/
  | atomicRsp (p : Fin 20)
  /-- COLL_ACK (R258): A COLL_ACK ends a COLL request, including a twin-copy COMMIT. -/
  | collAck (p : Fin 20)
  /-- BERUX_REQUEST_TIMEOUT (R258): A request without a response after req_10us x 10 us ends with TIMEOUT. -/
  | beruxRequestTimeout (p : Fin 20) (tag : BitVec 16)
  /-- HEARTBEAT_SEND (R261): Every 1 ms an ACTIVE port sends a HEARTBEAT. -/
  | heartbeatSend (p : Fin 20)
  /-- HEARTBEAT (R262): A received HEARTBEAT sets the port's configuration match. -/
  | heartbeat (p : Fin 20)
  /-- HEARTBEAT_LOSS (R262): 3.5 ms without an accepted HEARTBEAT set cfg to unknown and hb_lost. -/
  | heartbeatLoss (p : Fin 20)
  /-- CAP_NOTICE (R426): A received CAP_NOTICE sets a match point when matching is enabled. -/
  | capNotice (p : Fin 20)
  /-- LEASE_REQUEST (R294): A witness receives LEASE_REQUEST and grants a new lease. -/
  | leaseRequest (p : Fin 20)
  /-- LEASE_GRANT (R294): The active receives its lease and begins renewing it. -/
  | leaseGrant (p : Fin 20)
  /-- LEASE_RENEW (R295): The witness receives a renewal and acknowledges it unless the lease has expired. -/
  | leaseRenew (p : Fin 20)
  /-- LEASE_RENEW_ACK (R297): The holder receives an acknowledgement, which restarts its fence timer. -/
  | leaseRenewAck (p : Fin 20)
  /-- LEASE_RELEASE (R296): A release from the holder ends the lease at once. -/
  | leaseRelease (p : Fin 20)
  /-- PROMOTE_REQUEST (R298): The witness receives a standby's request and grants it or denies and remembers it. -/
  | promoteRequest (p : Fin 20)
  /-- PROMOTE_GRANT (R299): The standby takes role 1 and reports its committed step. -/
  | promoteGrant (p : Fin 20)
  /-- PROMOTE_DENY (R298): The standby receives a denial and keeps requesting. -/
  | promoteDeny (p : Fin 20)
  /-- TOMBSTONE (R264): A received TOMBSTONE takes an ACTIVE port down, or completes a flush in progress. -/
  | tombstone (p : Fin 20)
  /-- EPOCH_PROPOSE (R303): A received proposal is forwarded down the tree and voted on by members. -/
  | epochPropose (p : Fin 20)
  /-- EPOCH_VOTE (R303): A leader or the coordinator collects a vote. -/
  | epochVote (p : Fin 20)
  /-- EPOCH_COMMIT (R305): A received commit is forwarded and arms activation at step S. -/
  | epochCommit (p : Fin 20)
  /-- EPOCH_VOTE_TIMEOUT (R303): A leader's 20 ms, mirror leader's 30 ms or coordinator's 50 ms window ends without every yes. -/
  | epochVoteTimeout (role : VoteRole)
  /-- FLUSH_DRAIN_END (R263): A flushing port has had every request answered and every flit acknowledged, and sends its tombstone. -/
  | flushDrainEnd (p : Fin 20)
  /-- FLUSH_TIMEOUT (R263): flush_us elapses, unanswered requests end with PORT_DISABLED and the tombstone is sent. -/
  | flushTimeout (p : Fin 20)
  /-- TOMBSTONE_DONE (R263): The tombstone is acknowledged or 100 us pass, and the port enters DISABLED. -/
  | tombstoneDone (p : Fin 20)
  /-- CABLE_MONITOR_READ (R268): Every 100 ms the module reads the cable's temperature, supply and lane flags. -/
  | cableMonitorRead (p : Fin 20) (ans : Option CableReading)
  /-- CAGE_PRESENCE_CHANGE (R317): A cage's presence signal changes and its 3.3 V supply is switched. -/
  | cagePresenceChange (p : Fin 20) (low : Bool)
  /-- CAGE_CURRENT_LIMIT (R317): A cage exceeds 2.0 A and its power is removed for 1 s. -/
  | cageCurrentLimit (p : Fin 20)
  /-- CAGE_POWER_RETRY (R317): 1 s after a current-limit trip, cage power is restored. -/
  | cagePowerRetry (p : Fin 20)
  /-- ALL_REDUCE (R275): A COLLECTIVE descriptor that sums every chunk over all members. -/
  | allReduce (q : Fin 64) (errs : DramErrs)
  /-- REDUCE_SCATTER (R275): A COLLECTIVE descriptor that leaves member j with the sum of chunk j. -/
  | reduceScatter (q : Fin 64) (errs : DramErrs)
  /-- ALL_GATHER (R275): A COLLECTIVE descriptor that gathers every member's chunk. -/
  | allGather (q : Fin 64) (errs : DramErrs)
  /-- ALL_TO_ALL (R275): A COLLECTIVE descriptor that transposes chunks between members. -/
  | allToAll (q : Fin 64) (errs : DramErrs)
  /-- BROADCAST (R275): A COLLECTIVE descriptor that sends the root's source to all members. -/
  | broadcast (q : Fin 64) (errs : DramErrs)
  /-- COLLECTIVE_INSTANCE_START (R276): The trigger word reaches i and instance i starts. -/
  | collectiveInstanceStart (q : Fin 64) (errs : DramErrs)
  /-- COLLECTIVE_INSTANCE_DONE (R276): Every contribution of an instance is performed; the done word is written and the boundary counted. -/
  | collectiveInstanceDone (q : Fin 64)
  /-- COLLECTIVE_INSTANCE_TIMEOUT (R282): An instance exceeds timeout_us and ends with COLL_TIMEOUT. -/
  | collectiveInstanceTimeout (q : Fin 64)
  /-- COLL_READY (R280): A member learns that a peer is ready for a seq and instance. -/
  | collReady (p : Fin 20) (errs : DramErrs)
  /-- COLL_PUT (R279): A COLL PUT writes bytes at an offset of the receiver's chunk. -/
  | collPut (p : Fin 20) (errs : DramErrs)
  /-- COLL_REDUCE (R281): A COLL REDUCE adds elements into the FP32 partial sums. -/
  | collReduce (p : Fin 20) (sram : SramErr) (errs : DramErrs)
  /-- COLL_COMMIT (R290): An ordered COMMIT records the committed step and bank after the copy's writes. -/
  | collCommit (p : Fin 20)
  /-- COLL_ABORT (R283): An ABORT ends the receiver's instance with COLL_PEER_ABORT. -/
  | collAbort (p : Fin 20)
  /-- LEASE_RENEW_TIMER (R295): Every 10 ms the holder sends LEASE_RENEW. -/
  | leaseRenewTimer (i : Nat)
  /-- LEASE_MISS (R295): Each whole 10 ms without a renewal counts as a miss at the witness; at three misses the lease expires. -/
  | leaseMiss (i : Nat)
  /-- HOLDER_SELF_FENCE (R297): 25 ms after the last acknowledged renewal, with no later acknowledgement, the holder fences itself. -/
  | holderSelfFence (i : Nat)
  /-- PROMOTE_REQUEST_RESEND (R298): Every 10 ms a standby repeats PROMOTE_REQUEST. -/
  | promoteRequestResend (i : Nat)
  /-- PRESENCE_SETTLED (R313): Both presence pins have read low for 100 ms, allowing converters to start and switches to close. -/
  | presenceSettled
  /-- BUS_CONTACTS_MAKE (R461): The start path charges the bus node at up to 5 A while both presence pins read low. -/
  | busContactsMake
  /-- CONVERTER_STOP (R329): The bus converters stop when the bus node leaves 38.0-59.0 V. -/
  | converterStop (mv : Nat)
  /-- CONVERTER_RESTART (R329): The converters restart when the bus node returns inside their hysteresis band. -/
  | converterRestart (mv : Nat)
  /-- CONVERTER_FAULT (R330): A bus converter's overcurrent or overheating opens its output and Crown lowers the ceiling. -/
  | converterFault (c : Fin 4) (overTemp : Bool)
  /-- OP_PIN_CHANGE (R340): A change on op_sel pins starts a 5 mV/us slew toward the new stored voltage. -/
  | opPinChange (d : Fin 4) (op : Fin 8)
  /-- OP_DONE (R340): The slew ends and the lowest sense point settles, so op_done is reported. -/
  | opDone (d : Fin 4)
  /-- STORED_VALUE_WRITE (R338): Crown writes a stored voltage, trim included; a value above 850 mV is refused. -/
  | storedValueWrite (d : Fin 4) (k : Fin 8) (mv : Nat)
  /-- DIVIDER_CHANGE (R472): A die's core divider changes glitch-free, or is refused if faster than the settled point. -/
  | dividerChange (d : Fin 4) (n : Fin 32)
  /-- PHASE_SHED (R342): The rail current has stayed below the next level's threshold for 5 ms and a shed transition begins. -/
  | phaseShed (r : Fin 11) (amps : Nat)
  /-- SHED_TRANSITION_END (R343): A 100 us shed transition completes. -/
  | shedTransitionEnd (r : Fin 11)
  /-- PHASE_ADD_BACK (R343): A current rise, peak limit or raise of operating point adds back every working phase. -/
  | phaseAddBack (r : Fin 11) (why : AddBackCause)
  /-- PHASE_FAULT (R346): A phase fails, is stopped and is replaced by a spare if one remains. -/
  | phaseFault (r : Fin 11) (phase : Fin 32) (cause : PhaseCause)
  /-- RAIL_ENABLE (R348): Heartwood asserts a rail enable and its soft-start ramp begins. -/
  | railEnable (r : Fin 11)
  /-- POWER_GOOD (R348): A rail holds within 20 mV for 100 us after its ramp and reports power-good. -/
  | powerGood (r : Fin 11)
  /-- START_ATTEMPT_FAILURE (R349): The output stays below 50 % of the ramp for 200 us; the rail hiccups or latches off after its fourth attempt. -/
  | startAttemptFailure (r : Fin 11)
  /-- HICCUP_RETRY (R349): After 100 ms off, a new start attempt begins. -/
  | hiccupRetry (r : Fin 11)
  /-- RAIL_OVERCURRENT (R352): Half the active phases have been in limit for 50 us and the rail latches off. -/
  | railOvercurrent (r : Fin 11)
  /-- RAIL_OVERVOLTAGE (R352): The sense point has been 80 mV high for 2 us and the low-side switches latch on. -/
  | railOvervoltage (r : Fin 11)
  /-- RAIL_UNDERVOLTAGE (R352): The sense point has been 60 mV low for 20 us outside a slew and the flag is set. -/
  | railUndervoltage (r : Fin 11)
  /-- POWER_STAGE_WARM (R352): A power stage reaches 125 C and Crown throttles. -/
  | powerStageWarm (r : Fin 11)
  /-- SENSE_POINT_IGNORED (R335): A sense point reads more than 60 mV below the median and is ignored. -/
  | sensePointIgnored (d : Fin 4) (k : Fin 5)
  /-- REARM (R354): PWR_REARM or the console re-arms a latched rail. -/
  | rearm (src : CmdSrc) (rails : BitVec 11)
  /-- RAIL_DISCHARGED (R477): A rail has discharged below 0.1 V, letting the next rail in power-down order go. -/
  | railDischarged (r : Fin 11)
  /-- SLOT_SAMPLE (R362): At a slot's sample instant the engine runs the per-sample law and issues the output. -/
  | slotSample (n : Fin 4) (inp : EngineInputs)
  /-- SLOT_OFF (R367): The off command puts a slot in OFF at its safe value. -/
  | slotOff (n : Fin 4)
  /-- SLOT_MANUAL (R367): The manual command enters MANUAL with the last output held. -/
  | slotManual (n : Fin 4)
  /-- SLOT_AUTO (R368): The auto command enters AUTO on set 0 bumplessly. -/
  | slotAuto (n : Fin 4)
  /-- SLOT_SCHEDULED (R369): The scheduled command enters SCHEDULED outside the service phase. -/
  | slotScheduled (n : Fin 4)
  /-- TUNING_COMMIT (R371): Crown commits shadow tuning values, accepted or refused by mode and phase. -/
  | tuningCommit (n : Fin 4) (set : Fin 4) (v : Tuning)
  /-- OPERATING_VALUE_WRITE (R371): Crown writes a target, limit, share, absorb limit or C_stack for the next sample. -/
  | operatingValueWrite (n : Fin 4) (v : OperatingValues)
  /-- PHASE_SET (R370): Crown sets the engine phase; entering service moves SCHEDULED slots to AUTO and stops injections. -/
  | phaseSet (ph : EnginePhase)
  /-- INJECTION_START (R373): A test signal starts adding into one slot outside the service phase. -/
  | injectionStart (inj : Injection)
  /-- INJECTION_END (R373): An injection's duration ends. -/
  | injectionEnd (n : Fin 4)
  /-- CAPTURE_ARM (R374): The capture buffer is armed for one slot's signals. -/
  | captureArm (cap : CaptureSetup)
  /-- CONVERTER_COMMAND_TIMEOUT (R376): 40 us without a slot-0 command stop the store converter. -/
  | converterCommandTimeout
  /-- ENGINE_PARITY_ERROR (R379): A parity error stops every slot at its safe value. -/
  | engineParityError
  /-- SMOOTHING_MODE_CHANGE (R421): A requested smoothing mode applies once |u| <= 100 W, or within 1 s. -/
  | smoothingModeChange (forced : Bool) (route : BitVec 2)
  /-- SCAN_START (R390): Every 10 ms the cell monitor stops balancing and begins a scan. -/
  | scanStart
  /-- CONVERSION_WINDOW_CLOSE (R390): The window closes; readings, sum check, suspect tests and permission flags follow. -/
  | conversionWindowClose (rd : CellReadings)
  /-- BALANCING_SLOT (R393): A 1 ms balancing slot serves the farthest eligible cell of its parity. -/
  | balancingSlot (odd : Bool)
  /-- CHECK_SCAN_WINDOW (R396): The check scan's second window ends and the monitor classifies the abnormal readings. -/
  | checkScanWindow (rd : CellReadings) (outsideAbs : Bool)
  /-- BALANCING_SWITCH_TEST (R395): The switch test checks each cell's pair for stuck open or closed. -/
  | balancingSwitchTest (res : List SwitchTest)
  /-- CAPACITANCE_ESTIMATE (R384): Once per 24 h Crown estimates the cell capacitances and the usable energy. -/
  | capacitanceEstimate (caps : List Nat)
  /-- STORE_CONNECT_REQUEST (R386): Crown requests connect and Heartwood starts the precharge. -/
  | storeConnectRequest
  /-- PRECHARGE_COMPLETE (R386): The link has been within 1.0 V of the stack for 1 ms and SW_A closes. -/
  | prechargeComplete
  /-- SW_B_CLOSE (R386): 100 us after SW_A, SW_B closes, the precharge ends and the store is CONNECTED. -/
  | swBClose
  /-- STORE_ISOLATE_REQUEST (R389): Crown requests isolation and the store switches open. -/
  | storeIsolateRequest
  /-- MONITOR_MESSAGE (R400): The cell monitor receives its per-scan message from Crown. -/
  | monitorMessage
  /-- MONITOR_SLEEP (R400): 100 ms without a message put the monitor to sleep and isolate the store. -/
  | monitorSleep
  /-- MONITOR_WAKE_MESSAGE (R401): A wake message starts the full scan and check scan that precede awake. -/
  | monitorWakeMessage
  /-- DRAIN_BUTTON (R403): The drain button starts a drain without energy return. -/
  | drainButton
  /-- DRAIN_RETURN_END (R403): The stack reaches 36.0 V, the switches open and the bleed takes over. -/
  | drainReturnEnd
  /-- BLEED_END (R403): The bleed reaches 32.2 V, switches itself off and the store becomes DRAINED or LOCKED_OUT. -/
  | bleedEnd
  /-- OP_EVALUATION (R411): Every 10 ms and on launch, hint or ceiling changes Crown re-evaluates each die's point, admission and caps. -/
  | opEvaluation (m : PowerMeasure)
  /-- IDLE_DIE_TIMEOUT (R410): 10 ms after a die's last launch ends without a preference, it goes to OP0. -/
  | idleDieTimeout (d : Fin 4)
  /-- AGEING_TRIM (R414): Once per 24 h Crown applies one trim delta to a die's stored voltages. -/
  | ageingTrim (d : Fin 4)
  /-- SHARE_EXPIRY (R419): 60 s after the last accepted share, the share falls to the fallback fraction. -/
  | shareExpiry
  /-- ZEJOR_MANAGER_LOSS (R418): 3 s without a message from a Zejor manager mark it lost. -/
  | zejorManagerLoss (b : Fn)
  /-- CAP_DEFERRAL_TIMEOUT (R424): 5 ms after a deferred cap is decided, it applies without waiting for a boundary. -/
  | capDeferralTimeout
  /-- MATCH_EXPIRY (R426): A match point's duration expires. -/
  | matchExpiry (i : Nat)
  /-- THERMAL_LOOP (R428): Every 100 ms Crown lowers or raises each die's thermal ceiling. -/
  | thermalLoop (m : ThermalMeasure)
  /-- ABSORB_LIMIT_UPDATE (R423): Every 1 ms Crown updates the absorb limit in both mode. -/
  | absorbLimitUpdate
  /-- BALLAST_UPDATE (R422): Every 1 ms Crown splits ballast demand over the dies that may run it. -/
  | ballastUpdate
  /-- HOLD_END (R431): The quiesce reserve is reached or 3 s pass, and the ordered quiesce begins. -/
  | holdEnd
  /-- HOLD_RECOVERY (R433): The bus has held at or above 44 V for 100 ms, the hold ends and recovery begins. -/
  | holdRecovery
  /-- QUIESCE_FETCH_DEADLINE (R432): 400 ms after fetching stops, remaining queues are forced and ports flush. -/
  | quiesceFetchDeadline
  /-- QUIESCE_POWER_DOWN (R432): After the log flush, Heartwood removes die enables and isolates the store. -/
  | quiescePowerDown
  /-- RECOVERY_PHASE_END (R480): 10 s of the recovery phase end and the phase returns to service. -/
  | recoveryPhaseEnd
  /-- DEMAND_ABOVE_CEILING (R446): Trip 0x01: internal demand has been above ceiling 0 for 1 ms, so LIMIT on all dies. -/
  | demandAboveCeiling
  /-- DEMAND_FAR_ABOVE_CEILING (R446): Trip 0x02: demand has been more than 1 kW over the ceiling for 10 ms, so SAFE. -/
  | demandFarAboveCeiling
  /-- CORE_MEAN_ABOVE_CEILING (R446): Trip 0x03: the 1 ms mean of VCORE_d exceeds the ceiling, so LIMIT on die d. -/
  | coreMeanAboveCeiling (d : Fin 4)
  /-- CORE_OVERVOLTAGE_CROWBAR (R353): Trip 0x04: VCORE_d has been 60 mV over the ceiling for 2 us, so crowbar and DIE_OFF. -/
  | coreOvervoltageCrowbar (d : Fin 4)
  /-- CORE_UNDERVOLTAGE_TRIP (R446): Trip 0x05: armed VCORE_d has been below 0.45 V for 100 us, so DIE_OFF. -/
  | coreUndervoltageTrip (d : Fin 4)
  /-- VLINK_OUT_OF_RANGE (R446): Trip 0x06: armed VLINK_d has been outside 0.72-0.95 V, so DIE_OFF. -/
  | vlinkOutOfRange (d : Fin 4)
  /-- VDRAM_OVERVOLTAGE_CROWBAR (R446): Trip 0x07: VDRAM has been above 1.25 V, so crowbar and SAFE. -/
  | vdramOvervoltageCrowbar
  /-- VDRAM_UNDERVOLTAGE_TRIP (R446): Trip 0x08: armed VDRAM has been below 0.95 V, so SAFE. -/
  | vdramUndervoltageTrip
  /-- TWELVE_V_OVERVOLTAGE (R446): Trip 0x09: the 12 V rail has been above 13.5 V, so crowbar and SAFE. -/
  | twelveVOvervoltage
  /-- TWELVE_V_UNDERVOLTAGE (R446): Trip 0x0A: the armed 12 V rail has been below 10.0 V, so SAFE. -/
  | twelveVUndervoltage
  /-- RAIL_START_FAILURE (R350): Trip 0x0B: a latch report or the 400 ms start timeout leads to RAIL_OFF. -/
  | railStartFailure (r : Fin 11)
  /-- POWER_STAGE_TRIP (R446): Trip 0x0C: a power stage has been at 145 C for 1 ms, so DIE_OFF or SAFE. -/
  | powerStageTrip (r : Fin 11)
  /-- DIE_OVER_TEMPERATURE (R446): Trip 0x0D: a die diode has been at ceiling 2 for 10 ms, so DIE_OFF. -/
  | dieOverTemperature (d : Fin 4)
  /-- COOLANT_OUTLET_TRIP (R446): Trip 0x0E: the outlet has been at ceiling 3 for 1 s, so DIE_OFF on all dies. -/
  | coolantOutletTrip
  /-- CELL_OVERVOLTAGE_TRIP (R446): Trip 0x0F: a cell has been at ceiling 4 for 1 ms, so ISOLATE. -/
  | cellOvervoltageTrip
  /-- CELL_UNDERVOLTAGE_TRIP (R446): Trip 0x10: a cell has been at or below ceiling 5 for 1 ms, so ISOLATE. -/
  | cellUndervoltageTrip
  /-- STACK_OVERVOLTAGE_TRIP (R446): Trip 0x11: the stack has been at ceiling 6 for 1 ms, so ISOLATE. -/
  | stackOvervoltageTrip
  /-- STORE_OVERCURRENT_TRIP (R446): Trip 0x12: the store current has been above 110 A for 10 us, so ISOLATE. -/
  | storeOvercurrentTrip
  /-- STORE_OVER_TEMPERATURE_TRIP (R446): Trip 0x13: Heartwood's stack sensor has been at 70 C for 1 s, so ISOLATE. -/
  | storeOverTemperatureTrip
  /-- CELL_MONITOR_TRIP (R446): Trip 0x14: the sleep line asserts or scan pulses stop while the monitor is awake, so ISOLATE. -/
  | cellMonitorTrip
  /-- CROWN_STROBE_LOSS (R454): Trip 0x15: 200 ms without Crown's strobe, so FREEZE. -/
  | crownStrobeLoss
  /-- STORE_SWITCH_MISMATCH (R446): Trip 0x16: a switch's contact sense differs from its drive for 1 ms, so ISOLATE and refuse connects. -/
  | storeSwitchMismatch (swB : Bool)
  /-- BUS_DIP (R448): Trip 0x17: the bus has been below 44 V for 20 us, so DIP and the store discharges. -/
  | busDip (mv : Nat)
  /-- DIP_PROLONGED (R446): Trip 0x18: a dip lasts 20 ms or the stack falls below ceiling 7, so HOLD. -/
  | dipProlonged
  /-- BUS_LOSS (R449): Trip 0x19: the bus has been below 40 V for 100 us, so the input switch opens, LIMIT and HOLD. -/
  | busLoss
  /-- BUS_NODE_OVERVOLTAGE (R446): Trip 0x1A: the bus node has been above 62 V for 10 us, so the input switch opens and SAFE. -/
  | busNodeOvervoltage
  /-- TRAY_REMOVAL (R453): Trip 0x1B: a presence pin has read high for 20 us and the REMOVE sequence runs. -/
  | trayRemoval (pinB : Bool)
  /-- BROWNOUT_WARNING (R451): Trip 0x1C: VAUX has been below 3.15 V and flash programming is suspended. -/
  | brownoutWarning
  /-- HEARTWOOD_RESET (R452): Trip 0x1D: VAUX has been below 3.00 V and Heartwood resets to fail-safe outputs. -/
  | heartwoodReset
  /-- CHANNEL_DISAGREEMENT (R439): Trip 0x1E: the channels' decisions or references disagree, so SAFE. -/
  | channelDisagreement (refs : Bool)
  /-- HWD_CLOCK_FAILURE (R439): Trip 0x1F: HWD has run outside 18-22 MHz for 10 us and the outputs fail safe. -/
  | hwdClockFailure
  /-- CEILING_WRITE (R441): Crown tightens a Heartwood ceiling; a loosening write is ignored. -/
  | ceilingWrite (k : Fin 8) (v : BitVec 16)
  /-- LIMIT_RELEASE (R445): Heartwood releases a LIMIT once its cause has cleared. -/
  | limitRelease (code : BitVec 8) (d : Fin 4)
  /-- CROWN_STROBE (R454): Crown's 10 ms strobe reaches Heartwood and restarts its watch. -/
  | crownStrobe
  /-- DIP_END (R448): The bus has held at or above 44 V for 100 us and the dip ends. -/
  | dipEnd
  /-- INPUT_SWITCH_RECLOSE (R449): The bus has held at or above 44 V for 100 ms and the input switch closes again. -/
  | inputSwitchReclose
  /-- BROWNOUT_END (R451): VAUX has held at or above 3.20 V for 1 ms and flash programming resumes. -/
  | brownoutEnd
  /-- POWER_ON (R459): VAUX has held at or above 3.15 V for 10 ms and Stage 0 begins. -/
  | powerOn (f : FuseRead)
  /-- STAGE_1_START (R462): The CROWN PLL locks and Heartwood releases Crown's boot ROM; `passes`: bit k, copy k of the
  configuration partition passes its SHA-256 check (R486); `lifeGood`: its life-cycle record passes Crown's own check (R508). -/
  | stage1Start (slotId : BitVec 6) (rxBreak : Bool) (passes : BitVec 2) (lifeGood : Bool)
  /-- FIRMWARE_RUNNING (R463): Crown firmware starts and performs its Stage 1 actions. -/
  | firmwareRunning
  /-- MONITOR_WAKE_TIMEOUT (R468): The cell monitor has not woken within 100 ms and Stage 2 runs with the store isolated. -/
  | monitorWakeTimeout
  /-- STAGE_2_START (R464): Stage 1 has ended with presence settled; the input switch closes and the 12 V rail starts. -/
  | stage2Start
  /-- STORE_CONNECT_TIMEOUT (R459): The store has not connected within 100 ms and Stage 2 ends unsmoothed. -/
  | storeConnectTimeout
  /-- STAGE_3_ENTRY (R465): Stage 2 ends and the staged bring-up of the dies begins. -/
  | stage3Entry
  /-- DIE_BRINGUP_START (R465): 2 ms after the previous die, the next die's VCORE is enabled at OP0. -/
  | dieBringupStart (d : Fin 4)
  /-- ROOT_PLL_LOCK (R465): A die's root PLL locks; its time stamp loads and its clocks start. -/
  | rootPllLock (d : Fin 4)
  /-- ROOT_PLL_LOCK_TIMEOUT (R468): A root PLL is not locked in 1 ms and the start fails. -/
  | rootPllLockTimeout (d : Fin 4)
  /-- DIE_BRINGUP_DONE (R465): A die has trained, tested and zeroed its memory and passed its tile self-test. -/
  | dieBringupDone (d : Fin 4) (r : BringupResult)
  /-- ENTRY_RETRY (R481): After an abandoned entry, the bus has held at or above 44 V for 100 ms and Crown retries. -/
  | entryRetry
  /-- ROOT_PLL_UNLOCK (R473): A root PLL has lost lock for 1 us and the die is lost. -/
  | rootPllUnlock (d : Fin 4)
  /-- REF_LOSS (R473): REF has left 95-105 MHz for 10 us; every die is lost and CROWN holds over. -/
  | refLoss
  /-- RESTART (R474): CLK_CTRL or the console restarts the module after steps 1-4 of the quiesce. -/
  | restart (src : CmdSrc)
  /-- REENTER (R479): CLK_CTRL or the console requests re-entry of a stopped module. -/
  | reenter (src : CmdSrc)
  /-- AUTO_REENTRY (R479): 1 s after the conditions hold, an automatic re-entry starts. -/
  | autoReentry
  /-- SEAL (R476): Writing 1 to CLK_SEAL.seal locks every RWL field until the next power-on. -/
  | seal (fn : Fn)
  /-- CROWN_WATCHDOG (R491): Firmware has not fed the watchdog for 1 s and Crown restarts. -/
  | crownWatchdog
  /-- RING_START (R494): The start command starts a ring and negotiates its generation. -/
  | ringStart (fn : Fn)
  /-- RING_STOP (R500): The stop command stops a ring after the current response. -/
  | ringStop (fn : Fn)
  /-- CRN_KICK (R495): A kick makes Crown's next ring read occur within 20 us. -/
  | crnKick (fn : Fn)
  /-- RING_POLL (R495): Every 1 ms Crown reads req_prod and takes new requests in order. -/
  | ringPoll (fn : Fn) (sram : SramErr)
  /-- GET_STATUS (R497): Returns the stage, power and temperature summary. -/
  | getStatus (src : MsgSrc)
  /-- GET_NONCE (R511): Issues a fresh nonce for the path. -/
  | getNonce (src : MsgSrc)
  /-- GET_EVENTS (R499): Returns and clears up to 8 held events. -/
  | getEvents (src : MsgSrc)
  /-- SET_SHARE (R502): Delivers the rack share in native mode. -/
  | setShare (src : MsgSrc)
  /-- LE_REQUEST (R497): Requests a loop-engine slot action, applied under R367-R374. -/
  | leRequest (src : MsgSrc) (n : Nat) (act : LeAction)
  /-- EPOCH_STAGE (R302): Stages the next epoch's canonical blocks. -/
  | epochStage (src : MsgSrc) (blocks : Blocks)
  /-- HOST_EPOCH_PROPOSE (R303): Asks the coordinator to propose the staged epoch. -/
  | hostEpochPropose (src : MsgSrc)
  /-- EPOCH_INSTALL (R307): Installs the configuration in force directly while the role is absent. -/
  | epochInstall (src : MsgSrc) (epoch : BitVec 64) (blocks : Blocks)
  /-- LEASE (R503): A host witness posts a lease message onto the sideband. -/
  | lease (src : MsgSrc)
  /-- IMAGE_LOAD (R492): Copies and checks an image, then erases and programs the inactive slot. -/
  | imageLoad (src : MsgSrc)
  /-- IMAGE_LOAD_COMPLETE (R492): Programming and read-back end; the slot becomes pending and the load is answered. -/
  | imageLoadComplete (readBackOk : Bool)
  /-- IMAGE_ACTIVATE (R492): Restarts Crown into the pending slot as a trial. -/
  | imageActivate (src : MsgSrc)
  /-- IMAGE_CONFIRM (R492): Confirms a trial slot after 60 s and advances the fused counter. -/
  | imageConfirm (src : MsgSrc)
  /-- DEPLOY (R509): Installs the owner key, taking PROVISIONED to DEPLOYED. -/
  | deploy (src : MsgSrc)
  /-- END_SERVICE (R509): The message or console command returns SERVICE to DEPLOYED. -/
  | endService (src : CmdPath)
  /-- LOG_READ (R581): Copies ring log records to a host buffer, after an optional flush. -/
  | logRead (src : MsgSrc)
  /-- ENTER_SERVICE (R510): Authorised action 0x0001 moves DEPLOYED to SERVICE. -/
  | enterService (src : AuthPath)
  /-- OWNER_RELEASE (R510): Authorised action 0x0002 erases the owner key hash. -/
  | ownerRelease (src : AuthPath)
  /-- RETIRE_MODULE (R509): Authorised action 0x0003 erases the identity key and blows the RETIRED fuse. -/
  | retireModule (src : AuthPath)
  /-- CLEAR_RING_LOG (R545): Authorised action 0x0010 flushes, marks and erases the ring log. -/
  | clearRingLog (src : AuthPath)
  /-- LOG_CLEAR_ERASE_DONE (R545): The erase of all 64 sectors ends and the log-cleared record is written. -/
  | logClearEraseDone
  /-- EDIT_RETIREMENT_MAP (R512): Authorised action 0x0011 edits the retirement map for the next remap point. -/
  | editRetirementMap (src : AuthPath) (passes : BitVec 8)
  /-- NONCE_EXPIRY (R511): A nonce expires 10 min after issue. -/
  | nonceExpiry (path : CmdSrc)
  /-- TAMPER (R513): A tamper sensor trips; the secure region is wiped and Crown restarts. -/
  | tamper (sensor : TamperSensor)
  /-- ZEJOR_IDENT (R506): Answers a Zejor IDENT with part code, serial and generation. -/
  | zejorIdent (bus : Fn) (dst : BitVec 8) (sender : BitVec 8)
  /-- ZEJOR_POLL (R506): Answers a Zejor POLL with power and status. -/
  | zejorPoll (bus : Fn) (dst : BitVec 8) (sender : BitVec 8)
  /-- ZEJOR_SHARE (R507): Applies a Zejor SHARE in legacy mode, or refuses it in native mode. -/
  | zejorShare (bus : Fn) (dst : BitVec 8) (sender : BitVec 8) (share : BitVec 16) (smooth : BitVec 8)
  /-- GET_VERSION (R515): An SPDM GET_VERSION request. -/
  | getVersion (fn : Fn)
  /-- GET_CAPABILITIES (R515): An SPDM GET_CAPABILITIES request. -/
  | getCapabilities (fn : Fn)
  /-- NEGOTIATE_ALGORITHMS (R515): An SPDM NEGOTIATE_ALGORITHMS request. -/
  | negotiateAlgorithms (fn : Fn) (asym : BitVec 32) (hash : BitVec 32)
  /-- GET_DIGESTS (R515): An SPDM GET_DIGESTS request. -/
  | getDigests (fn : Fn)
  /-- GET_CERTIFICATE (R515): An SPDM GET_CERTIFICATE request for slot 0. -/
  | getCertificate (fn : Fn) (slot : BitVec 4) (off : BitVec 16) (len : BitVec 16)
  /-- CHALLENGE (R515): An SPDM CHALLENGE signed with the identity key; `sram` is what its read of the key in the secure region meets. -/
  | challenge (fn : Fn) (slot : BitVec 4) (nonce : BitVec 256) (sram : SramErr)
  /-- GET_MEASUREMENTS (R516): An SPDM GET_MEASUREMENTS returning the measurement blocks. -/
  | getMeasurements (fn : Fn) (index : BitVec 8) (signed : Bool) (nonce : BitVec 256)
  /-- DAILY_TRANSPARENT_MARCH (R528): Once per 24 h a TRANSPARENT march runs over one stack region's scratchpads. -/
  | dailyTransparentMarch (region : Fin 20)
  /-- RECORD_CLOSE (R539): An open record closes after close_min, or after 60 s without an occurrence. -/
  | recordClose (i : Nat)
  /-- LOG_FLUSH (R541): A normal flush of pending records starts at 4 KiB or after flush_100ms. -/
  | logFlush
  /-- PAGE_PROGRAM_VERIFY (R542): A flash page finishes programming and is verified. -/
  | pageProgramVerify (ok : Bool) (sram : SramErr)
  /-- SERIAL_BREAK (R550): A 250 ms break returns the console to 115200 bit/s. -/
  | serialBreak
  /-- ABORT_BYTE (R552): Byte 0x03 stops the running command at its next safe point. -/
  | abortByte
  /-- STATUS (R556): Prints the module state line by line. -/
  | status (part : StatusPart)
  /-- LOG_DUMP (R557): Prints ring log records decoded. -/
  | logDump (off : Arg)
  /-- BAUD (R550): Acknowledges, then switches the console rate. -/
  | baud (rate : Arg)
  /-- NONCE (R511): Issues a nonce for the console path. -/
  | nonce
  /-- ACK_CONFIG (R486): Acknowledges a lost configuration so Stage 3 can be entered. -/
  | ackConfig (src : CmdPath)
  /-- TEST_TILE (R558): MARCH_C and the logic self-test on one tile. -/
  | testTile (t : Arg)
  /-- TEST_STACK (R558): Reads every transaction of a stack and checks its sensors and trunk resistance. -/
  | testStack (st : Arg)
  /-- TEST_LINK (R558): Samples a port's counters and CMIS readings for 10 s. -/
  | testLink (p : Arg)
  /-- TEST_LINK_END (R558): The 10 s sample ends and the link test prints pass or fail. -/
  | testLinkEnd (p : Fin 20) (received : Nat)
  /-- TEST_RAIL (R558): Prints a rail's state and checks vout against its target. -/
  | testRail (r : Option (Fin 11)) (mv : Nat)
  /-- TEST_PHASE (R558): Sheds and restores one core phase and compares its current, `amps`, with the mean. -/
  | testPhase (d n : Arg) (amps mean : Int)
  /-- TEST_CELL (R558): Runs a check scan and prints the cell readings. -/
  | testCell
  /-- TEST_BALANCE (R558): Runs the balancing switch test on all cells. -/
  | testBalance
  /-- TEST_LOG (R558): Marches the log buffer and checks every flash record. -/
  | testLog
  /-- TEST_LOOP (R559): Injects a waveform into a slot in the test phase and captures the response. -/
  | testLoop (n : Arg) (wave : Option Waveform) (amp : Option Int)
  /-- TEST_TRIP (R561): Drives each trip's comparators on both and each channel with outcomes blocked. -/
  | testTrip (code : Arg)
  /-- TEST_TRIP_SWITCHES (R562): Closes each store switch and the precharge path alone and checks contact sense. -/
  | testTripSwitches (contacts : BitVec 3)
  /-- TEST_TRIP_CROWBAR (R562): Fires each unpowered rail's crowbar test gate from each channel. -/
  | testTripCrowbar (res : BitVec 12)
  /-- PHASE_OFF (R345): Sheds a working core phase until the next power-on. -/
  | phaseOff (d n : Arg)
  /-- PHASE_ON (R345): Restores a core phase taken out by the console. -/
  | phaseOn (d n : Arg)
  /-- MARCH (R526): A console TRANSPARENT march on a named memory. -/
  | march (mem : Option SramKind) (inst : Arg)
  /-- MARCH_SECURE (R532): A console wipe of the secure region in SERVICE. -/
  | marchSecure
  /-- RETIRE_TILE (R564): Marks a tile for retirement and fences it at once. -/
  | retireTile (t : Arg)
  /-- RELEASE (R563): Ends the Stage 1 hold so Stage 2 can begin. -/
  | release
  /-- DRAIN (R403): The console starts a drain, with energy return when the conditions allow. -/
  | drain
  /-- RECOVER (R490): Receives a ROM recovery image by XMODEM-1K, its blocks with their CRC-16, and boots it if it passes. -/
  | recover (blocks : List (List (BitVec 8) × BitVec 16))
  /-- HOST_COMPLETION_TIMEOUT (R229): A doorbell, descriptor or COPY host read receives no completion within the PCI Express completion timeout, so the queue enters ERROR or the copy ends with HOST_ACCESS_ERROR. -/
  | hostCompletionTimeout (q : Fin 64)
  /-- MSIX_MASK (R231): A host masks an MSI-X vector or the function's whole table, so later records set pending bits instead of sending messages. -/
  | msixMask (fn : Fn) (vec : Option (Fin 128))
  /-- PRESENCE_PIN_LOW (R313): A presence pin makes and reads low, which gates the start path and starts the 100 ms settling count. -/
  | presencePinLow (pinB : Bool)
  /-- REF_RECOVERY (R473): REF returns within 95-105 MHz, so ref_ok sets, the CROWN PLL leaves holdover and the 1 s good period toward restart begins. -/
  | refRecovery
  /-- MAILBOX_GO (R501): A write of go hands the mailbox message to Crown, which sets busy, writes the response, sets done and signals vector 65, or ignores the write while busy. -/
  | mailboxGo (fn : Fn)
  /-- INVALID_DESCRIPTOR (R208): A fetched descriptor of an unlisted type, for example a zeroed slot, or with an unlisted op or kind, completes with INVALID while the queue stays ENABLED. -/
  | invalidDescriptor (q : Fin 64)
  /-- UNSUPPORTED_MESSAGE (R497): A ring or mailbox request with an unlisted mtype is answered UNSUPPORTED. -/
  | unsupportedMessage (src : MsgSrc)
  /-- SPDM_UNSUPPORTED_REQUEST (R515): A DOE request other than the seven supported SPDM requests is answered ERROR UnsupportedRequest. -/
  | spdmUnsupportedRequest (fn : Fn) (code : BitVec 8)
  /-- ZEJOR_BAD_FRAME (R505): A Zejor frame with a bad CRC, a missing sync byte or an inter-byte gap above 50 us is discarded and counted for its bus. -/
  | zejorBadFrame (bus : Fn)
  /-- ZEJOR_UNLISTED_COMMAND (R506): A valid Zejor frame with an unlisted command is answered with status 1. -/
  | zejorUnlistedCommand (bus : Fn) (dst : BitVec 8) (sender : BitVec 8) (cmd : BitVec 8)
  /-- CONSOLE_UNKNOWN_COMMAND (R551): A console line naming no command is answered err 1 unknown. -/
  | consoleUnknownCommand (line : List (BitVec 8))
  /-- FACTORY_PROVISIONING (R509): Factory provisioning generates the identity key pair, stores the factory certificate and moves BLANK to PROVISIONED. -/
  | factoryProvisioning (cert : List (BitVec 8))
  /-- MARCH_END (R529): A console, daily or test-tile march finishes, and the controller allocates spares, records repairs or failures and lifts or keeps the tile's fence. `corr` lists the words at which a TRANSPARENT march met a correctable error. -/
  | marchEnd (mem : SramKind) (inst : Nat) (cells : List FailCell) (corr : List Nat) (selfTestOk : Bool)
  /-- AGEING_MARGIN_REPORT (R414): Once per second the ageing monitors report their timing margin, and Crown keeps the lowest value for the next trim. -/
  | ageingMarginReport (d : Fin 4) (region : Fin 5) (permille : Int)
  /-- HOURS_SAVE (R482): Every 60 s the AON operating-hours count is saved to Heartwood's non-volatile memory. -/
  | hoursSave
  /-- BERUX_INVALID_TRANSACTION (R253): A received Berux transaction with an unlisted ttype, ATOMIC operation code, length or COLL code is answered INVALID. -/
  | beruxInvalidTransaction (p : Fin 20)
  /-- TRIP_TEST_STEP_END (R561): During test trip, an injected input's filter window ends, the test latch records the decision, and the next channel step or code begins. -/
  | tripTestStepEnd (us : Nat)
  deriving DecidableEq, Repr

end Sys2Proof
end

