-- ==== Sys2Proof/Decode.lean ====
section
/-! DEFINITION. The command that a word spells. No row of the table of operations and events gives bits, so no word spells one. -/

namespace Sys2Proof

/-- No row of the table has an encoding: every word spells no command. -/
def decodeTableWord (_nbits _w : Nat) : Option Instr := none

end Sys2Proof
end

