-- ==== Sys2Proof/Config.lean ====
section
/-! DEFINITION. The free values of the model: what the spec leaves open is read from these constants, which have no body, so
that nothing can be proved of their values. -/

namespace Sys2Proof.Config

/-- The n-th free value a step draws (log 12); `State.free` is the number drawn so far. -/
opaque freeWord : Nat → BitVec 64

/-- The op of a word outside class 0x3's R format is listed for its class, its reserved bits are zero and its register fields name
registers: the spec lists no op values, so it settles this of no such word (R162; log 180). -/
opaque wordListed : BitVec 32 → Bool

/-- The 2^11 − 1 values of a PRBS injection, in order (R373; log 202). -/
opaque prbsBit : Fin 2047 → Bool

/-- The serial number fused into the module (R509, R506); the spec gives none (log 13). -/
opaque serial : BitVec 64

/-- Version word of the image that the factory programs into slot 0 (R487, log 72). -/
opaque factoryVersion : BitVec 32

/-- Body digest of that image (log 72). -/
opaque factoryDigest : BitVec 256

/-- SHA-256 of the modulus whose hash is fused for a key index, and whether that key's revocation fuse is blown (R488); the spec gives
no values (log 92). -/
opaque keyHash : Nat → BitVec 256
opaque keyRevoked : Nat → Bool

/-- A hash that is fused as a factory key (R510; log 92). -/
opaque factoryKey : BitVec 256 → Bool

/-- SHA-256 digest of the boot ROM (R516; log 93). -/
opaque bootRomDigest : BitVec 256

/-- Digest of the retirement and repair maps, given as their numbers in order; the spec does not say what bytes are digested (R516;
log 93). -/
opaque mapDigest : List Nat → BitVec 256

/-- SHA-256 of the root certificate (R514; log 93). -/
opaque rootHash : BitVec 256

end Sys2Proof.Config
end

