-- ==== Sys2Proof/Machine/BfpNum.lean ====
section
/-! DEFINITION. The loop engine's numbers: exact rationals narrowed to block-floating-point stages (R360, R361). -/

namespace Sys2Proof.Machine

open Sys2Proof

/-- 2 to a whole power. -/
def pow2 (x : Int) : ℚ := if 0 ≤ x then (2 ^ x.toNat : Nat) else 1 / ((2 ^ (-x).toNat : Nat) : ℚ)

end Sys2Proof.Machine

namespace Sys2Proof

/-- Value m × 2^x of a block-floating-point number (R360). -/
def Bfp.value (b : Bfp) : ℚ := b.mant.toInt * Machine.pow2 b.exp.toInt

end Sys2Proof

namespace Sys2Proof.Machine

open Sys2Proof

/-- Absolute value. -/
def absQ (q : ℚ) : ℚ := if q < 0 then -q else q

/-- Nearest integer, ties to even (R361). -/
def roundEven (q : ℚ) : Int :=
  let f := q.floor
  let r := q - f
  if r < 1 / 2 then f
  else if 1 / 2 < r then f + 1
  else if f % 2 = 0 then f else f + 1

/-- Largest magnitude of a list. -/
def maxAbs (l : List ℚ) : ℚ := l.foldl (fun m q => if m < absQ q then absQ q else m) 0

/-- floor(log2 q) of a positive rational, found from the sizes of its numerator and denominator. -/
def log2Q (q : ℚ) : Int :=
  let g : Int := (Nat.log2 q.num.natAbs : Int) - (Nat.log2 q.den : Int)
  if q < pow2 g then g - 1 else g

/-- Exponent of a stage after renormalisation: every |m| is below 2^16 and, unless the stage is zero, the largest is at least
2^15; at least −32 (R361). The second component says that it would rise above +31: exponent saturation. -/
def stageExp (l : List ℚ) : Int × Bool :=
  let m := maxAbs l
  if m = 0 then (-32, false)
  else
    let x := log2Q m - 15
    if 31 < x then (31, true) else if x < -32 then (-32, false) else (x, false)

/-- Largest magnitude of a mantissa (R361). -/
def mantMax : Int := 131071

/-- A mantissa at a stage's exponent: rounded to nearest, ties to even, and held within ±(2^17 − 1). -/
def mantAt (x : Int) (q : ℚ) : BitVec 18 :=
  BitVec.ofInt 18 (min mantMax (max (-mantMax) (roundEven (q / pow2 x))))

/-- The engine closes a stage: its values share one exponent. The second component is exponent saturation (R361). -/
def closeStage (l : List ℚ) : List Bfp × Bool :=
  let (x, sat) := stageExp l
  (l.map (fun q => { mant := mantAt x q, exp := BitVec.ofInt 6 x }), sat)

/-- One value in a stage of its own: how a coefficient or an operating value is stored (R360). -/
def bfp (q : ℚ) : Bfp :=
  let x := (stageExp [q]).1
  { mant := mantAt x q, exp := BitVec.ofInt 6 x }

/-- Zero. -/
def bfp0 : Bfp := { mant := 0, exp := 0 }

/-- Square root of a non-negative rational, rounded down at 2^-40: the spec gives its rounding only at the close of its stage (R361;
log 61). -/
def sqrtQ (q : ℚ) : ℚ := ((Nat.sqrt ((q * (2 ^ 80 : Nat)).floor.toNat) : Nat) : ℚ) / (2 ^ 40 : Nat)

/-- Sign of a rational. -/
def signQ (q : ℚ) : ℚ := if q < 0 then -1 else if q = 0 then 0 else 1

/-- Lower and higher of two rationals. -/
def minQ (a b : ℚ) : ℚ := if a ≤ b then a else b
def maxQ (a b : ℚ) : ℚ := if a ≤ b then b else a

end Sys2Proof.Machine
end

