-- ==== Sys2Proof/Machine/Defaults.lean ====
section
/-! DEFINITION. Values that fuses and tables give at reset: the loop slots' tuning and limits, the stored voltages and the ceilings
(Table: Loop slots, Table: Operating points, Table: Heartwood ceilings). -/

namespace Sys2Proof.Machine

open Sys2Proof

/-- Default tuning of each slot (Table: Loop slots), with the time constant of slot 1's filter and the longest computation of
Table: Output delay. -/
def defaultTuning (n : Fin 4) : Tuning :=
  match n with
  | 0 => { kp := bfp (1 / 4), ki := bfp 6100, kf := bfp (-1), kd := bfp 0, neg := true, tauUs := 100000, cycles := 104 }
  | 1 => { kp := bfp (1 / 10), ki := bfp (2 / 1000), kf := bfp 1, kd := bfp 1, neg := false, tauUs := 100000, cycles := 200 }
  | 2 => { kp := bfp (2 / 10), ki := bfp 50, kf := bfp 0, kd := bfp 0, neg := false, tauUs := 100000, cycles := 100 }
  | 3 => { kp := bfp (5 / 10000), ki := bfp (2 / 100), kf := bfp 0, kd := bfp 0, neg := true, tauUs := 100000, cycles := 400 }

/-- Default operating values of each slot (Table: Loop slots, R363, R585); the scheduling thresholds have none and start at zero:
DESIGN CHOICE (log 63). -/
def defaultValues (n : Fin 4) : OperatingValues :=
  let base : OperatingValues :=
    { target := bfp 0, umin := bfp 0, umax := bfp 0, vmin := bfp 0, vmax := bfp 0, amax := bfp 0, jmax := bfp 0
      t1 := bfp 0, t2 := bfp 0, t3 := bfp 0, cStack := 1786, share := 0, absorb := 0 }
  match n with
  | 0 => { base with umin := bfp (-3000), umax := bfp 3000, vmin := bfp 0, vmax := bfp 5000, amax := bfp 1000, jmax := bfp 2000 }
  | 1 => { base with umin := bfp 0, umax := bfp 5000, vmin := bfp (-500), vmax := bfp 500, amax := bfp 100, jmax := bfp 100 }
  | 2 => { base with target := bfp 12, umin := bfp (-3 / 10), umax := bfp (3 / 10), vmin := bfp (-1), vmax := bfp 1, amax := bfp 10, jmax := bfp 100 }
  | 3 => { base with umin := bfp (-1 / 10), umax := bfp (1 / 10), vmin := bfp (-10), vmax := bfp 10, amax := bfp 100, jmax := bfp 1000 }

/-- Default saturation limits (R377). -/
def satLimit (n : Fin 4) : BitVec 16 := if n = 1 then 5000 else 1000

/-- Fuse values of the ceilings (Table: Heartwood ceilings). -/
def fuseCeil : Vector Nat 8 := #v[600, 850, 110, 65, 3950, 2250, 53800, 39500]

/-- Fuse values of the stored voltages in mV (Table: Operating points). -/
def fuseVop : Vector Nat 8 := #v[550, 580, 600, 630, 670, 700, 740, 800]

end Sys2Proof.Machine
end

