-- ==== Sys2Proof/Machine/Sparse.lean ====
section
/-! DEFINITION. The operations on keyed lists: finding an entry, storing one in order of its key, and storing one in a
memory whose unlisted cells read as a default. -/

namespace Sys2Proof.Machine

/-- The entry of key `k`, or `dflt` where none is listed. -/
def find {α : Type} (dflt : α) : Keyed α → Nat → α
  | [], _ => dflt
  | (j, a) :: rest, k => if j = k then a else find dflt rest k

/-- Stores `a` at key `k`, keeping the keys rising. -/
def insert {α : Type} : Keyed α → Nat → α → Keyed α
  | [], k, a => [(k, a)]
  | (j, b) :: rest, k, a =>
    if k < j then (k, a) :: (j, b) :: rest
    else if k = j then (k, a) :: rest
    else (j, b) :: insert rest k a

/-- Removes the entry of key `k`. -/
def erase {α : Type} (m : Keyed α) (k : Nat) : Keyed α := m.filter (fun e => e.1 != k)

/-- Stores `a` at key `k` of a memory whose unlisted cells read `dflt`: storing `dflt` removes the entry. -/
def store {α : Type} [DecidableEq α] (dflt : α) (m : Keyed α) (k : Nat) (a : α) : Keyed α :=
  if a = dflt then erase m k else insert m k a

/-- Keys strictly rising. -/
def rising {α : Type} : Keyed α → Bool
  | [] => true
  | [_] => true
  | (j, _) :: (k, b) :: rest => decide (j < k) && rising ((k, b) :: rest)

/-- The canonical form of a memory: keys strictly rising, no entry equal to what an unlisted cell reads as. -/
def Memory.wf {α : Type} [DecidableEq α] (dflt : α) (m : Keyed α) : Bool :=
  rising m && m.all (fun e => decide (e.2 ≠ dflt))

/-- A sorted list of numbers with `k` added. -/
def addNat : List Nat → Nat → List Nat
  | [], k => [k]
  | j :: rest, k => if k < j then k :: j :: rest else if k = j then j :: rest else j :: addNat rest k

/-- `n` bytes of a memory from address `a`, the unlisted ones zero. -/
def readBytes (m : Keyed Byte) (a : Nat) : Nat → List Byte
  | 0 => []
  | n + 1 => find 0 m a :: readBytes m (a + 1) n

/-- Stores bytes from address `a` upward in a memory whose unlisted bytes are zero. -/
def writeBytes (m : Keyed Byte) (a : Nat) : List Byte → Keyed Byte
  | [] => m
  | b :: rest => writeBytes (store 0 m a b) (a + 1) rest

/-- Little-endian value of a list of bytes (R17). -/
def leNat : List Byte → Nat
  | [] => 0
  | b :: rest => b.toNat + 256 * leNat rest

/-- `n` little-endian bytes of a number (R17). -/
def natLe : Nat → Nat → List Byte
  | 0, _ => []
  | n + 1, v => BitVec.ofNat 8 v :: natLe n (v / 256)

/-- `n` big-endian bytes of a number. -/
def natBe (n v : Nat) : List Byte := (natLe n v).reverse

/-- Bits [hi:lo] of a number (R8). -/
def bits (v hi lo : Nat) : Nat := v / 2 ^ lo % 2 ^ (hi + 1 - lo)

/-- Bit n of a number. -/
def bit (v n : Nat) : Bool := v / 2 ^ n % 2 == 1

/-- Two's complement reading of the low `n` bits of a number. -/
def signed (n v : Nat) : Int :=
  let w := v % 2 ^ n
  if w < 2 ^ (n - 1) then (w : Int) else (w : Int) - (2 ^ n : Nat)

/-- 1 for true, 0 for false. -/
def b2n (b : Bool) : Nat := if b then 1 else 0

end Sys2Proof.Machine
end

