-- ==== Sys2Proof/Machine/State.lean ====
section
/-! DEFINITION. The state of the module as plain data, the reasons a step can stop, and the state after reset. Each field's
docstring names its width, the rule of spec/ that names it and its value at reset; where the spec gives none, the mark and
the entry of the assumption log. -/

namespace Sys2Proof.Machine

open Sys2Proof

/-- Reasons a step can stop with a fault. No meaning of this model raises one: the module's own faults (thread faults,
trips, error states) are next states (log 11). -/
inductive Fault where
  /-- raised by no meaning; safe -/
  | unreachable
  deriving DecidableEq, Repr

/-- Reasons a step can be refused. -/
inductive Refusal where
  /-- an arm of `exec` whose command has no meaning yet; safe -/
  | notModelled (mnemonic : String)
  deriving DecidableEq, Repr

/-! ## Stages, clocks and resets (16_startup_clocks.md) -/

/-- CLK_STATUS.stage, with the time before Stage 0 apart (R459, R482). -/
inductive Stage where
  | unpowered | stage0 | stage1 | stage2 | entry | stage3 | quiescing | quiesced | failed
  deriving DecidableEq, Repr

/-- Clocks and time (R469–R473, R482). -/
structure Clocks where
  /-- 64-bit count of REF cycles since Stage 0 (R471); reset 0 -/
  refCount : BitVec 64
  /-- CLK_STATUS.ref_ok (R473, R482); reset 0 -/
  refOk : Bool
  /-- CLK_STATUS.crown_holdover (R473, R482); reset 0 -/
  holdover : Bool
  /-- refCount at which REF last became good (R473); reset 0 -/
  refGoodSince : Nat
  /-- time stamp counter of each die, root PLL cycles (R471); reset 0 -/
  stamp : Vector (BitVec 64) 4
  /-- CLK_STATUS.pll_lock (R482); reset 0 -/
  pll : Vector Bool 4
  /-- core divider N of each die, 0 while its clocks are gated (R472, R482); reset 0 -/
  div : Vector Nat 4
  /-- CLK_HOURS, operating hours in 0.1 s units (R482); reset 0; survives power cycles -/
  hours : BitVec 32
  /-- microseconds counted in the present 0.1 s of AON; reset 0 -/
  hoursUs : Nat
  /-- CLK_POWER_CYCLES, 32 bits (R460, R482); reset 0 -/
  cycles : BitVec 32
  /-- microseconds counted by the tick since power-on (log 2); reset 0 -/
  us : Nat
  deriving DecidableEq, Repr

/-! ## What the module sends out -/

/-- The parts of a cable's management memory that the module uses: the lower memory and the upper pages 00h, 01h, 02h, 10h and 11h (R266). -/
inductive CablePage where
  | lower | p00 | p01 | p02 | p10 | p11
  deriving DecidableEq, Repr

/-- What leaves the module, in the order in which it leaves (log 10). -/
inductive Output where
  /-- a posted write to host memory, with the relaxed-ordering attribute or without (R189, R219) -/
  | hostWrite (fn : Fn) (addr : Nat) (bytes : List Byte) (relaxed : Bool)
  /-- a read request to host memory (R187, R202) -/
  | hostRead (fn : Fn) (addr : Nat) (len : Nat)
  /-- an MSI-X message (R231) -/
  | msix (fn : Fn) (vec : Nat)
  /-- an Unsupported Request error logged through AER (R192) -/
  | aer (fn : Fn)
  /-- completion of a register read (R10, R11) -/
  | regData (fn : Fn) (off : Nat) (data : BitVec 64)
  /-- completion of a BAR2 read (R191), poisoned or not (R192) -/
  | bar2Data (fn : Fn) (bytes : List Byte) (poisoned : Bool)
  /-- a completion with Unsupported Request status (R192) -/
  | unsupported (fn : Fn)
  /-- a configuration request answered, with retry status or not (R466) -/
  | config (fn : Fn) (retry : Bool)
  /-- a Berux flit, 256 bytes (R243) -/
  | flit (port : Fin 20) (bytes : List Byte)
  /-- a read or a write of a page of a cable's management memory over the port's two-wire interface (R266) -/
  | twoWire (port : Fin 20) (page : CablePage) (write : Bool)
  /-- a Zejor frame (R504) -/
  | zejor (bus : Fn) (bytes : List Byte)
  /-- an SPDM response over DOE (R515) -/
  | spdm (fn : Fn) (bytes : List Byte)
  /-- a line of the console (R551) -/
  | console (line : List Byte)
  /-- what a promoted standby tells the hosts of its coordinator, a module by its identifier: its committed step and bank, or that it has none (R299;
  log 155) -/
  | promoted (coordinator : Nat) (copy : Option (BitVec 64 × BitVec 8))
  deriving DecidableEq, Repr

/-! ## Ring log (19_ring_log.md) -/

/-- Record classes of Table: Record types. -/
inductive LogClass where
  | fault | warning | info
  deriving DecidableEq, Repr

/-- A ring log record (R535–R538). -/
structure LogRec where
  /-- type code of Table: Record types -/
  typ : BitVec 8
  /-- class of the record (Table: Record types) -/
  cls : LogClass
  /-- marked R in Table: Record types: it carries the repeat block -/
  repeats : Bool
  /-- CLK_POWER_CYCLES[7:0] when opened -/
  cycle : BitVec 8
  /-- CLK_HOURS when opened -/
  hours : BitVec 32
  /-- occurrences, saturating -/
  count : BitVec 32
  /-- CLK_HOURS of the last occurrence -/
  last : BitVec 32
  /-- subject of the record, 32 bits (R535) -/
  subject : BitVec 32
  /-- detail bytes of the record (R535) -/
  detail : List Byte
  deriving DecidableEq, Repr

/-- States of the log (Table: LOG_STATUS fields). -/
inductive LogMode where
  | recording | full | flashFailed | clearing | suspended
  deriving DecidableEq, Repr

/-- A closed record of the buffer with what is known of its writing (R540, R542). -/
structure LogEntry where
  /-- the record -/
  what : LogRec
  /-- CLK_HOURS at which it entered the write order -/
  entered : BitVec 32
  /-- end offset of its bytes in the partition once a flush has placed it, none while it waits -/
  placed : Option Nat
  deriving DecidableEq, Repr

/-- The clear-in-progress mark of the configuration partition (R545). -/
structure ClearMark where
  /-- 0 function A, 1 function B, 2 console -/
  path : Nat
  /-- nonce of the clear's token (R545) -/
  nonce : BitVec 64
  /-- blocks erased so far (R545) -/
  erased : Nat
  /-- hours of the first record cleared (R545) -/
  firstHours : BitVec 32
  /-- hours of the last record cleared (R545) -/
  lastHours : BitVec 32
  deriving DecidableEq, Repr

/-- The event recorder (R535–R548). -/
structure LogState where
  /-- open records, oldest first, at most 16 (R538); reset none -/
  opened : List LogRec
  /-- closed records not marked written, in write order (R540, R542); reset none -/
  closed : List LogEntry
  /-- bytes of the partition programmed so far, the bytes above read 0xFF (R535, R536); survives power cycles; reset none, DESIGN CHOICE (log 7) -/
  flash : List Byte
  /-- the last 16 bytes of the partition once the log-full record stands there (R543); reset none -/
  tail : List Byte
  /-- bytes handed to the flash and not yet programmed (R541, R542); reset none -/
  program : List Byte
  /-- LOG_STATUS.state (R547); reset recording -/
  mode : LogMode
  /-- mode to return to after a suspension (R542) -/
  resume : LogMode
  /-- LOG_LOST, 32 bits saturating (R547); reset 0 -/
  lost : BitVec 32
  /-- records lost since the last records-lost record, with its cause (R540, R522); reset 0 -/
  lostSince : BitVec 32
  /-- cause of the records lost since the last records-lost record (R540, R522) -/
  lostCause : BitVec 8
  /-- failed verifies in a row of the present page (R543); reset 0 -/
  verifyFails : Nat
  /-- requests LOG_READ that wait for their forced flush to end (R581) -/
  readFlush : List MsgSrc
  /-- a forced flush is under way or asked for (R541) -/
  forced : Bool
  /-- clear-in-progress mark (R545); survives power cycles; reset none, DESIGN CHOICE (log 7) -/
  clear : Option ClearMark
  /-- partition offsets of fillers that wait for a brownout warning to end (R451, R544); reset none -/
  fillers : List Nat
  deriving DecidableEq, Repr

/-! ## Tiles and threads (02_tiles_and_threads.md, 06_tile_instructions.md) -/

/-- The states of a thread (R44, Table: Thread states). -/
inductive ThreadState where
  | idle | ready | stalled | waiting | halted | faulted
  deriving DecidableEq, Repr

/-- The known cause of a STALLED thread (R40, R60, R171): the registers it waits for, the matrix unit, room in the memory tracker and in
the remote tracker for so many transactions of a load or of another access, or a DMA slot. -/
inductive StallCause where
  | operand (scalars : List (Fin 32)) (vectors : List (Fin 16))
  | matrixBusy
  | trackers (mem rem : Nat) (load : Bool)
  | dmaSlot
  deriving DecidableEq, Repr

/-- The condition of a WAITING thread (R177–R180). -/
inductive WaitCond where
  | fence
  | bar (n : Fin 4)
  | gbarFence
  | gbar
  | dma (n : Nat)
  | eq (off : Nat) (v : Word)
  | ne (off : Nat) (v : Word)
  | ge (off : Nat) (v : Word)
  deriving DecidableEq, Repr

/-- One thread context (R43, Table: Per-thread state). -/
structure Thread where
  /-- program counter, 32 bits, bits [1:0] zero (R43); reset 0 -/
  pc : BitVec 32
  /-- scalar registers s0–s31, 64 bits each; s0 reads as zero (R43); reset 0 -/
  s : Vector Word 32
  /-- vector registers v0–v15, 1024 bits each (R43); reset 0 -/
  v : Vector (BitVec 1024) 16
  /-- scalar flags f0–f7, bit k is fk (R43); reset 0 -/
  f : BitVec 8
  /-- vector masks m0–m3, 64 bits each (R43); reset 0 -/
  m : Vector Word 4
  /-- rounding generator state, 64 bits (R43, R92); reset 0, DESIGN CHOICE (log 3) -/
  rng : Word
  /-- thread state, 3 bits (R43, R44); reset IDLE -/
  state : ThreadState
  /-- priority bit (R43, R48); reset 0 -/
  prio : Bool
  /-- fault cause, 8 bits (R43, R61); reset 0 -/
  cause : BitVec 8
  /-- what a STALLED thread waits for (R40, R44); reset none -/
  stall : Option StallCause
  /-- what a WAITING thread waits for (R44, R177–R180); reset none -/
  wait : Option WaitCond
  /-- cycles READY without issuing while other threads issued (R47); reset 0 -/
  passed : Nat
  /-- treated as high priority for its next issue (R47); reset false -/
  boosted : Bool
  /-- started by the running launch: counted by its barriers and its end (R178, R185, R186); reset false -/
  started : Bool
  deriving DecidableEq, Repr

/-- State of one accumulator element (R85). -/
structure AccElem where
  /-- significand V, 128 bits two's complement (R85); reset 0 -/
  v : BitVec 128
  /-- anchor A, 12 bits signed (R85); reset 0, DESIGN CHOICE (log 4) -/
  a : BitVec 12
  /-- sticky bit S (R85); reset 0 -/
  sticky : Bool
  /-- state bit empty (R85); reset true, DESIGN CHOICE (log 4) -/
  empty : Bool
  /-- state bit NaN (R85); reset false -/
  nan : Bool
  /-- state bit +∞ (R85); reset false -/
  posInf : Bool
  /-- state bit −∞ (R85); reset false -/
  negInf : Bool
  deriving DecidableEq, Repr

/-- A cleared accumulator element (R85). -/
def AccElem.cleared : AccElem :=
  { v := 0, a := 0, sticky := false, empty := true, nan := false, posInf := false, negInf := false }

/-- The operand formats of a matrix instruction (Table: Matrix operand layout). -/
inductive MmaKind where
  | grain (fa fb : GrainFmt)
  | bf16
  | fp16
  deriving DecidableEq, Repr

/-- What the matrix unit runs (R42, R174, R176): a multiply-accumulate with the operand bytes of the chunks it has read so
far, or a readout with the bytes it will have written. -/
inductive MatrixJob where
  | mma (kind : MmaKind) (acc : Fin 4) (chunks : Nat) (a b : Nat) (thread : Fin 16) (pc : BitVec 32)
      (read : List (List Byte × List Byte)) (bad : Option Nat)
  | readout (addr : Nat) (bytes : List Byte) (thread : Fin 16) (pc : BitVec 32)
  deriving DecidableEq, Repr

/-- One tile (Table: Tile contents). -/
structure Tile where
  /-- the 16 thread contexts (R43) -/
  threads : Vector Thread 16
  /-- scratchpad, 1 MiB, byte offsets with unlisted bytes zero (R50, R49); reset all zero -/
  pad : Keyed Byte
  /-- scratchpad words (offset / 8) that hold an uncorrectable error (R53, R55, R56); reset none -/
  padBad : List Nat
  /-- correctable-error count (R54); reset 0 -/
  padCe : Nat
  /-- word offset of the latest correctable error (R54); reset 0, DESIGN CHOICE (log 5) -/
  padCeLast : Nat
  /-- word offset of the latest uncorrectable error (R55); reset 0, DESIGN CHOICE (log 5) -/
  padUeLast : Nat
  /-- hours (0.1 s units) of the correctable errors of each word offset within 24 h (R64); reset none -/
  padCeTimes : Keyed (List Nat)
  /-- instruction cache: whether it holds valid lines (R58, R185); reset false -/
  icacheValid : Bool
  /-- count of instruction-cache parity events (R58); reset 0 -/
  icacheEvents : Nat
  /-- the four accumulator sets of 32 × 64 elements, element row × 64 + column, unlisted elements cleared (R41, R85) -/
  acc : Vector (Keyed AccElem) 4
  /-- the instruction in the matrix unit (R42, R174); reset none -/
  matrix : Option MatrixJob
  /-- the thread that issued last (R46); reset 15, DESIGN CHOICE (log 6) -/
  lastIssued : Fin 16
  /-- marked for retirement and fenced (R64, R65); reset false -/
  fenced : Bool
  /-- why Crown marked the tile, 1–4 in the order of R64's list; reset 0 -/
  retireCause : Nat
  /-- a destructive march holds the tile's memories (R527); reset false -/
  marching : Bool
  /-- a destructive march waits until the tile is in no running launch (R527); reset false -/
  marchDue : Bool
  deriving DecidableEq, Repr

/-! ## Memory requests (04_stacked_memory.md, 05_canopy.md) -/

/-- The memory-side operations that return the old value (Table: Memory-side operations). -/
inductive AtomicOp where
  | swap | cas | add | smin | smax | umin | umax | and | or | xor | fadd
  deriving DecidableEq, Repr

/-- What a thread's request does at its home (R113, R169–R173). -/
inductive MemOp where
  | load
  | store
  | atomic (op : AtomicOp) (operand compare : Word)
  | reduce (fmt : LaneFmt)
  | dmaRead (pad : Nat)
  | dmaWrite (pad : Nat)
  | remLoad
  | remStore
  | remAdd (operand : Word)
  deriving DecidableEq, Repr

/-- Where a response's data goes (R164–R173); of half a vector register, the 16-bit lanes of the whole register whose bit is set (R165). -/
inductive Dest where
  | none
  | scalar (d : Fin 32)
  | vector (d : Fin 16)
  | half (d : Fin 16) (upper : Bool) (lanes : BitVec 64)
  deriving DecidableEq, Repr

/-- Response status (Table: Response status). -/
inductive RespStatus where
  | performed | badDram | badPad | fenced
  deriving DecidableEq, Repr

/-- How a home ended one part of a request: the status of its response and what it returned (R156). -/
structure PartEnd where
  /-- the response's status -/
  status : RespStatus
  /-- the bytes it returns -/
  bytes : List Byte
  deriving DecidableEq, Repr

/-- A request of a thread that its home has not finished or its thread not yet received (R60, R141–R157). -/
structure MemReq where
  /-- the request's number, given in issue order -/
  id : Nat
  /-- linear tile number of the issuing tile -/
  tile : Nat
  /-- issuing thread -/
  thread : Fin 16
  /-- pc of the issuing instruction (R61) -/
  pc : BitVec 32
  /-- what it does -/
  op : MemOp
  /-- the home tile of a remote scratchpad access, none for device memory (R172) -/
  remote : Option Nat
  /-- view of a device access (R104) -/
  view : BitVec 2
  /-- device address, or offset in the home scratchpad -/
  addr : Nat
  /-- length in bytes -/
  len : Nat
  /-- bytes to store or reduce -/
  bytes : List Byte
  /-- where the response goes -/
  dest : Dest
  /-- parts (64-byte transactions) that their homes have ended, with how each ended (R107, R150, R156) -/
  served : Keyed PartEnd
  /-- parts whose response has reached the thread (R141) -/
  answered : List Nat
  /-- parts whose tracker entries were freed by a timeout (R155) -/
  expired : List Nat
  /-- its launch was aborted or ended: its response is discarded (R157) -/
  orphan : Bool
  deriving DecidableEq, Repr

/-- A part of a request that has reached its home and waits there (R109, R111, R147). -/
structure Arrived where
  /-- the request's number -/
  req : Nat
  /-- its part -/
  part : Nat
  /-- younger transactions to its bank that the controller has served before it (R109) -/
  passed : Nat
  /-- its tile was fenced when it came (R157) -/
  late : Bool
  deriving DecidableEq, Repr

/-- A flit in a buffer of a router (R142). -/
structure Flit where
  /-- it carries a response or an acknowledgement, and stands in a response buffer; a request stands in a request buffer -/
  resp : Bool
  /-- the request's number -/
  req : Nat
  /-- its part -/
  part : Nat
  /-- the router input whose buffer holds it -/
  here : Nat
  /-- the router inputs that its route still passes through -/
  ahead : List Nat
  /-- it has waited 32 cycles at an output (R144) -/
  aged : Bool
  deriving DecidableEq, Repr

/-- State of the stacked memory (04_stacked_memory.md). -/
structure MemState where
  /-- the DRAM's bytes, keyed slice × 2^29 + slice offset, which is the tile-local address (R103–R106); unlisted bytes read zero (R125; log 1) -/
  dram : Keyed Byte
  /-- transactions (tile-local address / 64) whose code is uncorrectable (R118, R119); reset none -/
  bad : List Nat
  /-- requests that their threads have issued and not yet had answered in full, in issue order (R60, R143) -/
  reqs : List MemReq
  /-- parts of requests that wait at their homes, in order of arrival (R109, R111, R147); reset none -/
  tracker : List Arrived
  /-- the open DRAM row of each bank, a tile-local row number keyed slice × 128 + bank (R109); reset none open -/
  openRow : Keyed Nat
  /-- the next request's number -/
  nextId : Nat
  /-- correctable count of each slice (R117); reset 0 -/
  sliceCe : Keyed Nat
  /-- slice offset of the latest correctable error of each slice (R117); reset 0 -/
  sliceCeLast : Keyed Nat
  /-- hours of each slice's uncorrectable errors within 1 h (R124); reset none -/
  sliceUeTimes : Keyed (List Nat)
  /-- hours of the correctable errors of each DRAM row within 24 h, keyed by tile-local row number (R121); reset none -/
  rowCeTimes : Keyed (List Nat)
  /-- rows marked for repair and awaiting a remap point, as tile-local row numbers (R121, R122); reset none, DESIGN CHOICE (log 7); survives power cycles -/
  repairs : List Nat
  /-- rows that need repair and whose bank had no spare row left (R123); reset none, DESIGN CHOICE (log 7); survives power cycles -/
  noSpare : List Nat
  /-- spare rows used up in each bank, keyed slice × 128 + layer × 16 + bank (R121, R122); reset 0, DESIGN CHOICE (log 7); survives power cycles -/
  sparesUsed : Keyed Nat
  /-- the repair map: rows steered to a spare, with the spare's number in its bank (R122); survives power cycles -/
  rowMap : Keyed Nat
  /-- patrol scrub: the next transaction of each slice (R120); reset 0 -/
  patrol : Keyed Nat
  /-- refresh commands postponed, keyed slice × 128 + bank (R128); reset 0 -/
  postponed : Keyed Nat
  /-- rows refreshed so far in each bank, keyed as `postponed` (R128); reset 0 -/
  refreshed : Keyed Nat
  /-- layer sensor readings of each stack in 1/16 °C, layers 0–7 (R126); reset 0 -/
  layerTemp : Vector (List Int) 20
  /-- failed layer sensors of each stack, bit k is layer k (R126); reset 0 -/
  failedSensors : Vector (BitVec 8) 20
  /-- MEM_TEMP_s.temp of each stack, 16 bits, 1/16 °C (R126, R131); reset 0 -/
  temp : Vector (BitVec 16) 20
  /-- MEM_TEMP_s.band of each stack, code 0–4 (R127, R131); reset 0b000 -/
  band : Vector (BitVec 3) 20
  /-- MEM_CE_TOTAL, 64 bits (R131); reset 0 -/
  ceTotal : BitVec 64
  /-- MEM_UE_TOTAL, 64 bits (R131); reset 0 -/
  ueTotal : BitVec 64
  /-- MEM_UE_ADDR, 64 bits, address in [40:0] (R131); reset 0 -/
  ueAddr : BitVec 64
  /-- MEM_FAILED_STACKS, 32 bits (R124, R131); reset 0 -/
  failedStacks : BitVec 32
  /-- MEM_DEGRADED_STACKS, 32 bits (R123, R131); reset 0 -/
  degradedStacks : BitVec 32
  /-- trunk resistance baseline of each die in µΩ, recorded at Stage 3 entry (R130); reset none -/
  trunkBase : Vector (Option Nat) 4
  /-- trunk resistance of each die as last measured, in µΩ (R130, R558); reset none -/
  trunk : Vector (Option Nat) 4
  /-- whether each die's trunk resistance was last found above 130 % (R130); reset false -/
  trunkHigh : Vector Bool 4
  deriving DecidableEq, Repr

/-- State of the Canopy (05_canopy.md). -/
structure Canopy where
  /-- consecutive failed replays of each link, keyed by link number (R152); reset 0 -/
  replays : Keyed Nat
  /-- the flits in the routers' buffers, one buffer to each class at each router input, those of one buffer in order of arrival (R142); reset
  none. A response never waits for a request and always finds its tracker entry (R143), so it leaves within the command that sends it -/
  flits : List Flit
  /-- the input that each router output served last, for the round robin (R144); reset 0, DESIGN CHOICE (log 6) -/
  turn : Keyed Nat
  /-- links that have failed in service (R152, R153); reset none -/
  failed : List Nat
  /-- CNP_EDGE_STATUS, 32 bits (R154, R158); reset 0 -/
  edgeStatus : BitVec 32
  /-- CNP_RETRY_TOTAL, 64 bits (R152, R158); reset 0 -/
  retryTotal : BitVec 64
  /-- CNP_STALL_TOTAL, 64 bits (R145, R158); reset 0 -/
  stallTotal : BitVec 64
  deriving DecidableEq, Repr

/-- Retirement of tiles (02_tiles_and_threads.md). -/
structure Retirement where
  /-- tiles marked and awaiting a remap point, by linear number (R64, R67) -/
  pending : List Nat
  /-- the retirement map: for each row of each region (row number die × 20 + region × 4 + row), the retired logical column (R66, R70); survives power cycles; reset none, DESIGN CHOICE (log 7) -/
  map : Keyed Nat
  /-- rows whose spare site is unusable (R69); survives power cycles; reset none, DESIGN CHOICE (log 7) -/
  spareBad : List Nat
  /-- tiles that stay fenced for want of a spare (R69) -/
  stuck : List Nat
  /-- tiles that an authorised edit restores at the next remap point (R512); reset none -/
  edits : List Nat
  /-- why the tile of each row of `map` was retired, 1–4 in the order of R64's list (R510); survives power cycles; reset none -/
  causes : Keyed Nat
  deriving DecidableEq, Repr

/-! ## Host interface and work queues (07_host_queues.md) -/

/-- A BAR2 write that has arrived: where it goes, its bytes, and the new errors that it meets in memory (R193). -/
structure HostWrite where
  view : BitVec 2
  addr : Nat
  data : List (BitVec 8)
  errs : DramErrs
  deriving DecidableEq, Repr

/-- One host port and its function (R187–R193, R228, R231, R466). -/
structure HostPort where
  /-- perst is low: the port is in fundamental reset (R316); reset true, DESIGN CHOICE (log 8) -/
  perst : Bool
  /-- the link is up (DL_Up); reset false (R466) -/
  up : Bool
  /-- Bus Master Enable (R228); reset false -/
  bme : Bool
  /-- the function is in D3hot (R192); reset false -/
  d3hot : Bool
  /-- log2 of the BAR2 size, 28–41 (R190); reset 28 -/
  bar2Log : Nat
  /-- how the link last trained (R187); reset the lowest rate and width, DESIGN CHOICE (log 181) -/
  link : PortLink
  /-- max payload size in bytes, 128–512 (R187); reset 128, PRESUMED (PCI Express; log 181) -/
  payload : Nat
  /-- max read request size in bytes, 128–4096 (R187); reset 512, PRESUMED (PCI Express; log 181) -/
  readRequest : Nat
  /-- completion timeout range, by its PCI Express code (R187); reset 0, the default of 10 ms (log 181) -/
  timeout : Nat
  /-- words of the MSI-X table that are not zero, by offset in the table: message addresses and data (R190, R231); reset none, PRESUMED (PCI
  Express; log 9) -/
  msixTable : Keyed (BitVec 32)
  /-- MSI-X mask bit of each vector (R231); reset all set, PRESUMED (PCI Express; log 9) -/
  msixMask : BitVec 128
  /-- the function's whole MSI-X table is masked (R231); reset false, PRESUMED (PCI Express; log 9) -/
  tableMask : Bool
  /-- MSI-X pending bits (R231); reset 0 -/
  msixPending : BitVec 128
  /-- BAR2 writes that have arrived and wait for memory, oldest first (R193); reset none -/
  writes : List HostWrite
  deriving DecidableEq, Repr

/-- Queue states (R222, Table: Queue states). -/
inductive QueueState where
  | disabled | enabled | draining | aborting | error
  deriving DecidableEq, Repr

/-- What a completion record reports besides the descriptor's own fields (R219–R221). -/
structure Completion where
  /-- status code (R221) -/
  status : BitVec 16
  /-- overlap bit of a MARK's record (R218) -/
  overlap : Bool
  /-- fault count of a launch (R219) -/
  faultCount : BitVec 32
  /-- detail word 0 (R219) -/
  detail0 : BitVec 64
  /-- detail word 1 (R219) -/
  detail1 : BitVec 64
  deriving DecidableEq, Repr

/-- How far a fetched descriptor has come (R199, R200). -/
inductive DescPhase where
  | fetched
  | running
  | ended (c : Completion)
  deriving DecidableEq, Repr

/-- A fetched descriptor that has no record yet (R199). -/
structure InFlight where
  /-- descriptor index -/
  index : BitVec 32
  /-- the 64 bytes, byte 0 in bits [7:0] (R207) -/
  desc : BitVec 512
  /-- how far the descriptor has come: being copied, waiting, done with its record (R199) -/
  phase : DescPhase
  deriving DecidableEq, Repr

/-- One work queue (R194–R233). Its address, configuration and command registers stand in the register file. -/
structure Queue where
  /-- owner (R194); reset A for queues 0–31, B for 32–63 -/
  owner : Option Fn
  /-- state, 3 bits (R222); reset DISABLED -/
  state : QueueState
  /-- HQ_Qq_STATUS.cause, 4 bits (R232); reset 0 -/
  cause : BitVec 4
  /-- HQ_Qq_STATUS.paused (R230); reset 0 -/
  paused : Bool
  /-- HQ_Qq_OWN.result, 2 bits (R226); reset 0 -/
  result : BitVec 2
  /-- HQ_Qq_FETCHED, 32 bits (R196, R232); reset 0 -/
  fetched : BitVec 32
  /-- HQ_Qq_DONE, 32 bits (R196, R232); reset 0 -/
  done : BitVec 32
  /-- HQ_Qq_LOST, 32 bits (R227, R232); reset 0 -/
  lost : BitVec 32
  /-- sq_tail as last read (R197); reset 0 -/
  sqTail : BitVec 32
  /-- cq_head as last read (R197); reset 0 -/
  cqHead : BitVec 32
  /-- doorbell reads outstanding (R202); reset 0 -/
  polling : Nat
  /-- descriptors asked for by the outstanding descriptor read (R199); reset 0 -/
  reading : Nat
  /-- up to 4 fetched descriptors without a record, oldest first (R199); reset none -/
  inflight : List InFlight
  /-- a fetch-driven status write is owed (R198); reset false -/
  statusOwed : Bool
  /-- a fetch-driven status write was made in the present poll interval (R198); reset false -/
  statusMade : Bool
  /-- the held-back status write at the start of the poll interval that is about to begin has been made (R198); reset false -/
  statusFirst : Bool
  /-- HQ_WAKE asked for the next poll within 0.5 µs (R205); reset false -/
  wakeDue : Bool
  deriving DecidableEq, Repr

/-- A thread fault as a tile reports it (R61). -/
structure FaultRep where
  /-- linear tile number -/
  tile : Nat
  /-- thread number (R61) -/
  thread : Fin 16
  /-- cause, Table: Thread fault causes (R61) -/
  cause : BitVec 8
  /-- pc of the faulting instruction (R61) -/
  pc : BitVec 32
  /-- time stamp, in root PLL cycles -/
  stamp : BitVec 64
  deriving DecidableEq, Repr

/-- Phases of a launch (R200, R211, R185). -/
inductive LaunchPhase where
  | waiting | prepared | running
  deriving DecidableEq, Repr

/-- A launch that has passed its checks (R210–R212, R182–R186). -/
structure Launch where
  /-- its queue -/
  q : Fin 64
  /-- waiting, loading, running or ending (R210–R212) -/
  phase : LaunchPhase
  /-- first linear tile and number of tiles -/
  first : Nat
  /-- number of tiles (R210) -/
  count : Nat
  /-- thread mask (R48) -/
  mask : BitVec 16
  /-- clear the scratchpads first (R49) -/
  clear : Bool
  /-- operating-point preference (R210) -/
  opPref : BitVec 8
  /-- address view of its image and arguments (R103) -/
  view : BitVec 2
  /-- image address (R182) -/
  imgAddr : Nat
  /-- argument address (R183) -/
  argAddr : Nat
  /-- argument size (R183) -/
  argSize : Nat
  /-- image offsets of the code region and the entry point -/
  codeLo : Nat
  /-- end of the code region (R184) -/
  codeHi : Nat
  /-- entry point (R182) -/
  entry : Nat
  /-- seed of the rounding generators (R93) -/
  seed : Word
  /-- time-out in µs (R212) -/
  timeoutUs : Nat
  /-- fault reports that have reached the queue engine (R61–R63) -/
  faults : List FaultRep
  /-- tiles whose arrival at gbar has been reported (R179) -/
  arrived : List Nat
  /-- module time stamp at which its threads started (R212) -/
  started : BitVec 64
  deriving DecidableEq, Repr

/-- An open job (R218). -/
structure Job where
  /-- function that opened the job (R218) -/
  fn : Fn
  /-- job identifier (R218) -/
  jobId : BitVec 32
  /-- module energy in µJ and module time stamp at its start MARK's completion -/
  energy : Nat
  /-- module time stamp at its start MARK's completion (R218) -/
  start : Nat
  /-- another job has been open meanwhile (R218) -/
  overlap : Bool
  deriving DecidableEq, Repr

/-- A HINT that has completed (R216, R413). -/
structure Hint where
  /-- preferred point, none for 0xFF -/
  pref : Option (Fin 8)
  /-- expected demand of the window (R216) -/
  demand : Nat
  /-- microseconds at which its window starts and ends -/
  from_ : Nat
  /-- microsecond at which its window ends (R216) -/
  until_ : Nat
  /-- die mask, 4 bits -/
  dies : BitVec 4
  /-- its window has started -/
  active : Bool
  deriving DecidableEq, Repr

/-- The queue engine beside the queues themselves. -/
structure HostEngine where
  /-- launches under way, in the order in which they passed their checks (R211) -/
  launches : List Launch
  /-- queues of the waiting launches whose tiles are free, in the order in which they became ready to start (R200) -/
  ready : List (Fin 64)
  /-- queue that last fetched, of each port and priority (port × 4 + priority), and queue whose launch started last (R201); reset 63, DESIGN CHOICE
  (log 6) -/
  lastFetch : Vector (Fin 64) 8
  lastStart : Fin 64
  /-- open jobs, at most 64 (R218) -/
  jobs : List Job
  /-- module energy in µJ, integrated from the loop engine's 20 µs samples (R218); reset 0 -/
  energy : Nat
  /-- hints whose windows have not ended, in the order of their completion (R413) -/
  hints : List Hint
  /-- HQ_MAINT.request and .active: a maintenance pause is running (R230); reset false -/
  maint : Bool
  /-- the module has stopped fetching descriptors for good (R21, R153) or for a quiesce (R432); reset false -/
  stopped : Bool
  deriving DecidableEq, Repr
/-! ## Berux links (08_berux_links.md, 10_connectors.md) -/

/-- Port states (R240). -/
inductive PortState where
  | disabled | detect | train | negotiate | active | retrain | flush | down
  deriving DecidableEq, Repr

/-- A transaction as it stands in a receive buffer: its bytes, header first (R251), and its virtual channel (R248). -/
structure Trans where
  /-- virtual channel, 0–3 (R248) -/
  vc : Nat
  /-- header of 16 bytes, then the data without padding -/
  bytes : List Byte
  deriving DecidableEq, Repr

/-- A request that waits on a channel to be sent: its slots that have not left, and whether some have (R248). -/
structure TxTrans where
  started : Bool
  slots : List (List Byte)
  deriving DecidableEq, Repr

/-- What a request of this module's collective engines is for (R258, R279, R290). -/
inductive OutFor where
  | coll (q : Fin 64) (member : Nat)
  | twin (q : Fin 64) (commit : Bool)
  /-- the operation that sent it has ended -/
  | gone
  deriving DecidableEq, Repr

/-- A request of this module without its response (R258). -/
structure OutReq where
  /-- tag of the request, 16 bits (R251) -/
  tag : BitVec 16
  /-- destination identifier -/
  dest : Nat
  /-- transaction type of the request (R251) -/
  ttype : BitVec 8
  /-- what in this module waits for the response -/
  purpose : OutFor
  deriving DecidableEq, Repr

/-- A flush under way (R263). -/
structure Flush where
  /-- tombstone reason -/
  reason : BitVec 8
  /-- its tombstone has been sent, with the sequence number given to it -/
  sent : Option (BitVec 12)
  deriving DecidableEq, Repr

/-- The configuration that a port trained with, which it keeps while it is ACTIVE (R270): remote_en, x4_only, the module's identifier, and the
lanes for which its peer asked for precoding, which its transmitter applies (R235). -/
structure Trained where
  remote : Bool
  x4 : Bool
  id : Nat
  precode : BitVec 8
  deriving DecidableEq, Repr

/-- One Berux port (R234–R270). -/
structure Port where
  /-- BX_Pp_STATUS.state (R240); reset DISABLED -/
  state : PortState
  /-- BX_Pp_STATUS.cause, 4 bits (R269); reset 0 -/
  cause : BitVec 4
  /-- BX_Pp_STATUS.lanes, 8 bits; reset 0 -/
  lanes : BitVec 8
  /-- BX_Pp_STATUS.width, 2 bits (R238); reset 0 -/
  width : BitVec 2
  /-- BX_Pp_STATUS.gen, 3 bits; reset 0 -/
  gen : BitVec 3
  /-- BX_Pp_STATUS.cfg, 2 bits (R262); reset 0b11 -/
  cfg : BitVec 2
  /-- BX_Pp_PEER, 32 bits (R242); reset 0 -/
  peer : BitVec 32
  /-- BX_Pp_CABLE, 32 bits (R267, R268); reset 0 -/
  cable : BitVec 32
  /-- unanswered detect attempts (R267); reset 0 -/
  attempts : Nat
  /-- consecutive unanswered monitor reads (R268); reset 0 -/
  unanswered : Nat
  /-- the cable's application that is selected, by its place in the list (R267); reset none -/
  app : Option Nat
  /-- configuration of the last training (R235, R270); reset all zero, DESIGN CHOICE (log 52) -/
  trained : Trained
  /-- lanes for which this end asks for precoding (R235, R241); reset none -/
  precode : BitVec 8
  /-- lanes trained at this end (R238); reset 0 -/
  own : BitVec 8
  /-- last acceptable training word and how often it has been repeated (R242); reset none -/
  word : Option (List Byte)
  /-- how often the last acceptable training word has been repeated (R242) -/
  same : Nat
  /-- 8 identical valid words have been received: the seen flag sent (Table: Training word); reset false -/
  seen : Bool
  /-- next sequence number to send, 12 bits (R245); reset 0 -/
  txSeq : BitVec 12
  /-- flits sent and not acknowledged, oldest first: sequence number, ftype, channel and payload (R247); reset none -/
  replay : List (BitVec 12 × BitVec 8 × Nat × List Byte)
  /-- next sequence number expected, 12 bits (R245); reset 0 -/
  rxSeq : BitVec 12
  /-- a nak is to be sent (R246); reset false -/
  nak : Bool
  /-- a flit has been discarded and no new one accepted since (R246); reset false -/
  discard : Bool
  /-- naks received in a row without the ack advancing (R256); reset 0 -/
  naks : Nat
  /-- credits held for each virtual channel (R249); reset 0 -/
  credits : Vector Nat 6
  /-- slots moved out of the receive buffer whose credits have not been returned (R249); reset 0 -/
  owed : Vector Nat 6
  /-- transactions waiting to be sent on each channel, oldest first (R248, R249); reset none -/
  tx : Vector (List TxTrans) 6
  /-- data flits sent since the last sideband flit, saturating at 15 (R259); reset 15 -/
  sinceSide : Nat
  /-- sideband messages waiting to be sent (R259); reset none -/
  sideTx : List (List Byte)
  /-- slots of the transaction being received on each channel (R248); reset none -/
  part : Vector (List (List Byte)) 6
  /-- requests received and not yet performed, in order of arrival (R253, R255); reset none -/
  requests : List Trans
  /-- responses received and not yet handled; reset none -/
  responses : List Trans
  /-- sideband messages received and not yet handled, at most 32 and a heartbeat (R259); reset none -/
  side : List (List Byte)
  /-- this module's requests without a response (R258); reset none -/
  out : List OutReq
  /-- microsecond of the last accepted heartbeat, or of entry to ACTIVE (R262); reset 0 -/
  heard : Nat
  /-- microseconds of the retrains within 60 s (R256); reset none -/
  retrains : List Nat
  /-- microseconds of uncorrectable codewords within 1 ms (R256); reset none -/
  badWords : List Nat
  /-- flush under way (R263); reset none -/
  flush : Option Flush
  /-- the port's buffers failed their march at Stage 3 entry (R531); reset false -/
  broken : Bool
  /-- counters of Table: BX_ register map, saturating (R269); reset 0 -/
  fecCorr : BitVec 64
  fecUncorr : BitVec 64
  crcErr : BitVec 64
  replays : BitVec 64
  retrainCount : BitVec 32
  downCount : BitVec 32
  addrErr : BitVec 32
  sbDrop : BitVec 32
  /-- bx_prs_n reads low (R317); reset false, DESIGN CHOICE (log 52) -/
  present : Bool
  /-- cage 3.3 V supply is on (R317); reset false -/
  power : Bool
  /-- the current limit has tripped and its 1 s runs (R317); reset false -/
  limited : Bool
  deriving DecidableEq, Repr

/-! ## Collectives and fleet consistency (09_scale_out.md) -/

/-- A transfer of an instance between two members (R278, R279): a REDUCE to `dest` of what `origin` has gathered of chunk `chunk`, or a PUT to `dest` of
the bytes of `origin` for chunk `chunk`. Members stand by their index in the set. -/
structure Xfer where
  dest : Nat
  reduce : Bool
  origin : Nat
  chunk : Nat
  deriving DecidableEq, Repr

/-- A running COLLECTIVE descriptor (R271–R283). -/
structure Collective where
  /-- its queue -/
  q : Fin 64
  /-- operation, 1–5 (R274) -/
  op : Nat
  /-- element format (R274) -/
  fmt : BitVec 8
  /-- address view of its buffers -/
  view : BitVec 2
  /-- round toward zero (R274) -/
  toZero : Bool
  /-- member set (R271) -/
  set : Nat
  /-- identifiers of the set and this module's index (R271) -/
  members : List Nat
  /-- this module's index in the set -/
  me : Nat
  /-- root member -/
  root : Nat
  /-- source address -/
  src : Nat
  /-- destination address -/
  dst : Nat
  /-- bytes of a chunk -/
  chunk : Nat
  /-- sequence number (R280) -/
  seq : BitVec 32
  /-- time-out in µs (R282) -/
  timeoutUs : Nat
  /-- number of instances (R274) -/
  instances : Nat
  /-- trigger word address (R275) -/
  trigger : Nat
  /-- tile address of the done word -/
  doneAddr : Nat
  /-- base of the set's staging area (R281) -/
  staging : Nat
  /-- its size in bytes (R277, R300) -/
  stagingSize : Nat
  /-- the instance that runs, 0 before the first -/
  inst : Nat
  /-- the present instance runs -/
  running : Bool
  /-- instances done (R276) -/
  doneCount : Nat
  /-- READYs received for this seq: member and instance, the latest of each member (R280) -/
  ready : Keyed Nat
  /-- instance of the latest whole contribution of each member (R280) -/
  heard : Keyed Nat
  /-- bytes received of each transfer of the present instance to this module (R276, R278) -/
  got : List (Xfer × Nat)
  /-- transfers of the present instance that this module has sent (R278) -/
  sent : List Xfer
  /-- what this module passes on between groups: FP32 sums of a chunk by its number, or bytes by origin × 1024 + chunk (R278; log 189) -/
  relay : Keyed (List Byte)
  /-- the reduced chunk has been rounded and written (R281) -/
  folded : Bool
  /-- requests sent and not answered (R276) -/
  open_ : Nat
  deriving DecidableEq, Repr

/-- A twin or checkpoint copy of a step boundary that runs (R290). -/
structure TwinCopy where
  /-- queue whose step boundary it is (R290) -/
  q : Fin 64
  /-- step number (R290) -/
  step : BitVec 64
  /-- destination module (R290) -/
  dest : Nat
  /-- its COMMIT has been given to the port -/
  committed : Bool
  /-- its queue has been forced: it ends once what has left has been answered (R225) -/
  stopping : Bool
  /-- requests sent and not answered -/
  open_ : Nat
  deriving DecidableEq, Repr

/-- A staged configuration (R302). -/
structure Staged where
  /-- epoch (R302) -/
  epoch : BitVec 64
  /-- digest (R302) -/
  digest : BitVec 256
  /-- blocks (R300, R302) -/
  blocks : Blocks
  deriving DecidableEq, Repr

/-- The lease of a holder (R294–R297). -/
structure HolderLease where
  /-- lease identifier, 0 until granted -/
  id : BitVec 64
  /-- witness identifier, or a host when bit 12 is set -/
  witness : Nat
  /-- standby of the entry (R294) -/
  standby : Nat
  /-- renewal count of the last renewal sent, 32 bits (R295) -/
  count : BitVec 32
  /-- renewals sent and not acknowledged, oldest first: count and microsecond of sending (R297) -/
  sent : List (BitVec 32 × Nat)
  /-- count and microsecond of sending of the last acknowledged one (R297) -/
  acked : BitVec 32
  /-- microsecond of sending of the last acknowledged renewal (R297) -/
  ackedAt : Nat
  deriving DecidableEq, Repr

/-- A lease of a witness (R294–R298). -/
structure WitnessLease where
  /-- lease identifier (R294) -/
  id : BitVec 64
  /-- holder (R294) -/
  holder : Nat
  /-- standby (R294) -/
  standby : Nat
  /-- renewals missed (R295) -/
  missed : Nat
  /-- the lease has expired (R295) -/
  expired : Bool
  /-- a promotion has been granted (R298) -/
  granted : Bool
  /-- a denied request is remembered (R298) -/
  remembered : Bool
  deriving DecidableEq, Repr

/-- A twin entry as its standby sees it (R298, R299). -/
structure Standby where
  /-- active module of the entry -/
  active : Nat
  /-- its witness -/
  witness : Nat
  /-- it sends PROMOTE_REQUEST every 10 ms -/
  asking : Bool
  /-- it has been promoted (R298) -/
  promoted : Bool
  deriving DecidableEq, Repr

/-- Where a vote goes (R303, R304). -/
inductive VoteUp where
  | nowhere
  | to (id : Nat)
  deriving DecidableEq, Repr

/-- A proposal that collects votes in one of the roles of R303 and R304. -/
structure Poll where
  /-- role in which votes are collected (R303, R304) -/
  role : VoteRole
  /-- epoch proposed -/
  epoch : BitVec 64
  /-- digest proposed -/
  digest : BitVec 256
  /-- step proposed -/
  step : BitVec 64
  /-- identifiers whose votes are missing -/
  missing : List Nat
  /-- a vote has been no -/
  refused : Bool
  /-- where its result goes -/
  up : VoteUp
  /-- request of a host that waits for the outcome (R497) -/
  src : Option MsgSrc
  deriving DecidableEq, Repr

/-- Fleet state (R271–R308). -/
structure Fleet where
  /-- BX_EPOCH, 64 bits (R301); reset 0 -/
  epoch : BitVec 64
  /-- digest in force, 256 bits (R301); reset 0 -/
  digest : BitVec 256
  /-- blocks in force (R300); reset none -/
  blocks : Option Blocks
  /-- staged configuration (R302); reset none -/
  staged : Option Staged
  /-- this module's role in its heartbeats (R260, R299); reset 0 -/
  role : Nat
  /-- the module is fenced (R297); reset false -/
  fenced : Bool
  /-- sequence counter of each set, 32 bits (R272); reset 0 -/
  seqs : Keyed (BitVec 32)
  /-- collective boundaries counted, 32 bits (R273); reset 0 -/
  boundaries : BitVec 32
  /-- running collectives, oldest first (R273, R277) -/
  collectives : List Collective
  /-- latest READY of each member for a seq that has not started: set × 1024 + member, with seq and instance (R280) -/
  early : Keyed (BitVec 32 × Nat)
  /-- twin or checkpoint copy that runs (R290) -/
  twin : Option TwinCopy
  /-- step and bank of the committed copy received (R290); reset none -/
  copy : Option (BitVec 64 × BitVec 8)
  /-- device addresses of blocks of a copy whose last WRITE here was not performed (R291); reset none -/
  copyBad : List Nat
  /-- last completed step (R303); reset 0 -/
  lastStep : BitVec 64
  /-- identifier of the next lease this module grants (R294); reset 1, DESIGN CHOICE (log 53) -/
  nextLease : BitVec 64
  /-- leases held (R294–R297) -/
  holders : List HolderLease
  /-- leases granted as a witness (R294–R298) -/
  witnessed : List WitnessLease
  /-- twin entries for which this module is the standby (R298, R299) -/
  standbys : List Standby
  /-- proposals that collect votes (R303, R304) -/
  polls : List Poll
  /-- a yes vote given: what it was for, and the step (R303, R305); reset none -/
  voted : Option (Staged × BitVec 64)
  /-- a committed change, and the step from which it activates (R305); reset none -/
  commit : Option (Staged × BitVec 64)
  /-- proposals discarded because their sender is not the coordinator (R303); reset 0 -/
  refused : Nat
  /-- tag of the next WRITE that this module sends (R251); reset 0, DESIGN CHOICE (log 71) -/
  nextTag : BitVec 16
  /-- next msg_seq of each sideband type (R260); reset 0 -/
  msgSeq : Keyed (BitVec 32)
  deriving DecidableEq, Repr

/-! ## Power conversion (11_power_conversion.md) -/

/-- States of a rail (Table: PWR_Dd_RAIL, PWR_Dd_LINK and PWR_DRAM_RAIL fields). -/
inductive RailState where
  | off | softStart | hiccup | on | latched | crowbarred
  deriving DecidableEq, Repr

/-- One rail of Table: Rail numbers (R583). -/
structure Rail where
  /-- state, 3 bits (R355); reset off -/
  state : RailState
  /-- Heartwood asserts its enable (R348, R438); reset false -/
  enabled : Bool
  /-- start attempts since the last enable, 0–4 (R349, R355); reset 0 -/
  attempts : Nat
  /-- the rail has reported power-good since its enable, so its undervoltage trip acts (R350); reset false -/
  armed : Bool
  /-- shed level 0–3 (R342, R355); reset 0 -/
  shed : Nat
  /-- level that a shed transition moves to (R343); reset none -/
  shedTo : Option Nat
  /-- working phases, bit n is phase n; a DRAM phase is controller × 8 + phase (R355); reset 0 -/
  working : BitVec 32
  /-- phases that have failed since the power-on (R346, R474); reset 0 -/
  failed : BitVec 32
  /-- phases taken out of service from the console (R345, R555); reset 0 -/
  taken : BitVec 32
  /-- of these, those that still ramp down (R345); reset 0 -/
  leaving : BitVec 32
  /-- rail current in A and lowest sense point in mV (R355); reset 0 -/
  current : Nat
  /-- lowest sense point in mV (R355) -/
  vout : Nat
  /-- it has not fallen below its bound of Table: Rail discharge since it last rose (R588); reset false -/
  charged : Bool
  /-- its enable goes when the rails before it in the power-down order have discharged (R477); reset false -/
  goingDown : Bool
  deriving DecidableEq, Repr

/-- One core controller (R335, R337–R341). -/
structure Core where
  /-- stored voltages VOP0–VOP7 in mV, 10 bits (R338); reset the fuse values of Table: Operating points -/
  vop : Vector Nat 8
  /-- point on op_sel_d[2:0], 3 bits; reset 0 -/
  pins : Fin 8
  /-- point that Crown's sequencer drives; the pins are lower while Heartwood holds them (R337) -/
  asked : Fin 8
  /-- last point for which op_done was reported, 3 bits; reset 0 -/
  settled : Fin 8
  /-- lowest point on the pins since then: the voltage has reached it or is on its way from it (R339, R340); reset 0 -/
  low : Fin 8
  /-- a slew is in progress; reset false -/
  slewing : Bool
  /-- a slew of a trim, for which no op_done is reported (R341); reset false -/
  trimSlew : Bool
  /-- Heartwood holds the pins (PWR_Dd_OPSEL.forced); reset false -/
  forced : Bool
  /-- sense points ignored, bit k is region k (R335); reset 0 -/
  ignored : BitVec 5
  deriving DecidableEq, Repr

/-- Power conversion. -/
structure Power where
  /-- bus converter c runs (PWR_STATUS.conv_ok, R355); reset 0 -/
  convOn : Vector Bool 4
  /-- bus converter c has faulted and opened its output (R330); reset 0 -/
  convFault : Vector Bool 4
  /-- the converters are stopped by the bus node's voltage, above its range or below it (R329); reset none -/
  convStop : Option Bool
  /-- rails 0–10 (R583) -/
  rails : Vector Rail 11
  /-- the four core controllers (R335) -/
  cores : Vector Core 4
  deriving DecidableEq, Repr

/-! ## The loop engine (12_loop_engine.md) -/

/-- Modes of a slot (Table: Slot modes). -/
inductive SlotMode where
  | off | manual | auto | scheduled | track | fault
  deriving DecidableEq, Repr

/-- An integrator: 36-bit mantissa whose upper 18 bits stand at the exponent (R360). -/
structure Integ where
  /-- mantissa (R360) -/
  mant : BitVec 36
  /-- exponent (R360) -/
  exp : BitVec 6
  deriving DecidableEq, Repr

/-- One law of a slot: its profile and its integrator; slot 3 has one for each converter (R357, R360, R363). -/
structure Law where
  /-- profile position, order 0 (R363); kept with its fraction (log 165) -/
  pos : ℚ
  /-- profile velocity (R363); kept with its fraction (log 165) -/
  vel : ℚ
  /-- profile acceleration (R363); kept with its fraction (log 165) -/
  acc : ℚ
  /-- integrator (R360) -/
  integ : Integ
  /-- last reference and last output (LE_Sn_REF, LE_Sn_OUT, R381); reset 0 -/
  ref : Bfp
  /-- last output (LE_Sn_OUT, R381) -/
  out : Bfp
  deriving DecidableEq, Repr

/-- One loop slot (R357, R367–R378). -/
structure Slot where
  /-- mode, 3 bits (R367); reset OFF -/
  mode : SlotMode
  /-- mode held before TRACK (R372); reset OFF -/
  held : SlotMode
  /-- mode commands that take effect at the next sample instant, oldest first (R367); reset none -/
  commands : List SlotMode
  /-- Crown commands AUTO once the slot is in MANUAL (R464); reset false -/
  thenAuto : Bool
  /-- the manual value is to be the bus draw of the next sample (R464); reset false -/
  fromDraw : Bool
  /-- coefficient set in use, 0–3 (R369); reset 0 -/
  region : Fin 4
  /-- coefficient sets; reset the default of Table: Loop slots in each -/
  sets : Vector Tuning 4
  /-- tuning values committed for the next sample instant, oldest first (R371); reset none -/
  commit : List (Fin 4 × Tuning)
  /-- operating values in force (R371); reset the defaults of R363, R585 and Table: Loop slots -/
  values : OperatingValues
  /-- manual value, one for each law; slots 0–2 use the first (R362, R368); reset 0 -/
  manual : Vector Bfp 4
  /-- the next sample presets the integrator; and restarts the profile from the measured value (R368); reset false -/
  preset : Bool
  /-- the next sample restarts the profile from the measured value (R368) -/
  restart : Bool
  /-- laws; slots 0–2 use the first -/
  laws : Vector Law 4
  /-- demand passed through slot 1's filter (R357); reset 0 -/
  filtered : ℚ
  /-- the last output was clamped (LE_Sn_MODE.saturated); reset false -/
  saturated : Bool
  /-- consecutive clamped samples, 16 bits, saturating (LE_Sn_SAT.run); reset 0 -/
  run : BitVec 16
  /-- consecutive samples that were not clamped, saturating at 50,000, which is 1 s of slot 0 (R420); reset 0 -/
  clear : Nat
  /-- LE_Sn_SAT.limit, 16 bits; reset the fuse value of R377 -/
  limit : BitVec 16
  /-- consecutive samples for which each input channel has stood at an end of its range (R378); reset 0 -/
  ends : Vector Nat 10
  /-- last and largest output delay, LE cycles (LE_Sn_DELAY); reset 0 -/
  delay : BitVec 16
  /-- largest output delay in LE cycles (LE_Sn_DELAY, R375) -/
  delayMax : BitVec 16
  deriving DecidableEq, Repr

/-- An injection that runs (R373). -/
structure InjRun where
  /-- the injection's parameters (R373) -/
  what : Injection
  /-- samples done -/
  done : Nat
  /-- a sweep's phase in turns, 0 to 1 (R373) -/
  turn : ℚ
  /-- a sweep's present frequency in Hz (R373) -/
  freq : ℚ
  /-- what a sweep's frequency is multiplied by from sample to sample (R373) -/
  ratio : ℚ
  deriving DecidableEq, Repr

/-- The capture buffer (R374). -/
structure Capture where
  /-- LE_CAP_STATUS.state: 0 idle, 1 armed, 2 capturing, 3 done; reset 0 -/
  state : Nat
  /-- what is captured (R374) -/
  setup : Option CaptureSetup
  /-- samples seen since the last one stored (every D-th is stored) -/
  skip : Nat
  /-- stored samples, oldest first, at most 4096, each of up to four signals; reset none -/
  samples : List (List Bfp)
  /-- samples that are still to follow the trigger -/
  left : Nat
  deriving DecidableEq, Repr

/-- The loop engine (R357–R382). -/
structure LoopEngine where
  /-- released from reset (R464); reset false -/
  released : Bool
  /-- LE_STATUS.engine_ok (R379, R381); reset 0 -/
  ok : Bool
  /-- LE_STATUS.phase, 2 bits (R370); reset start-up -/
  phase : EnginePhase
  /-- LE_STATUS.route, 2 bits: 0 store, 1 ballast, 2 both (R366); reset 0 -/
  route : Nat
  /-- the four loop slots (R357) -/
  slots : Vector Slot 4
  /-- injection that runs (R373) -/
  injection : Option InjRun
  /-- the capture buffer (R374) -/
  capture : Capture
  /-- absorb limit in W (R423); reset 0 -/
  absorb : Nat
  /-- bus voltage in mV, and bus draw and internal demand in W to the nearest watt below, of slot 0's last sample (R357, R359); reset 0 -/
  busMv : Int
  /-- bus draw in W of slot 0's last sample (R357) -/
  draw : Int
  /-- internal demand in W of slot 0's last sample (R359) -/
  demand : Int
  /-- store converter command of slot 0's last output, in W (R366); reset 0 -/
  command : ℚ
  /-- ballast demand in W of slot 0's last output (R366); reset 0 -/
  ballast : ℚ
  /-- I_cmd, the bus-side current command of the store converter, in A (R364); reset 0 -/
  iCmd : ℚ
  /-- the store converter has stopped for want of commands (R376); reset false -/
  convStopped : Bool
  deriving DecidableEq, Repr

/-! ## Sapwell energy store (13_sapwell_store.md) -/

/-- Store states (R389). -/
inductive StoreState where
  | isolated | precharge | connected | draining | drained | lockedOut
  deriving DecidableEq, Repr

/-- Why the store is locked out (R386, R397, R399). -/
inductive Lockout where
  | precharge | cellFault | measurement | tapOutside | secondTap
  deriving DecidableEq, Repr

/-- One cell (R388, R394, R405). -/
structure Cell where
  /-- reading in mV, 16 bits; reset 0 -/
  mv : Nat
  /-- reset false -/
  valid : Bool
  /-- the cell is in the pair the scan has found suspect (R394) -/
  inPair : Bool
  /-- the cell may be bled (R405) -/
  eligible : Bool
  /-- balancing of the cell is disabled (SAP_BAL.dis); reset false -/
  dis : Bool
  /-- its switch pair has failed the test (SAP_BAL.sw_fail); reset false -/
  swFail : Bool
  /-- held until a suspect scan is classified (R396); reset false -/
  held : Bool
  /-- capacitance estimate in 0.1 F (R384); reset 2500, the new value of Table: Cell and stack limits -/
  cap : Nat
  deriving DecidableEq, Repr

/-- A drain under way (R403). -/
structure Drain where
  /-- begun in LOCKED_OUT -/
  fromLocked : Bool
  /-- a lockout cause arose during it (R389) -/
  lockArose : Bool
  /-- energy returns to the bus (step 1) -/
  returning : Bool
  /-- power in W that returns to the bus, and its slope in W/s (R403, R363); 0 at the start -/
  watts : ℚ
  /-- slope in W/s of the returned power (R363) -/
  slope : ℚ
  deriving DecidableEq, Repr

/-- The energy store and its monitor. -/
structure Store where
  /-- SAP_STATUS.state (R389); reset ISOLATED -/
  state : StoreState
  /-- lockout recorded in the configuration partition, or a precharge latch (R389, R399); survives power cycles; reset none, DESIGN CHOICE (log 7) -/
  lockout : Option Lockout
  /-- drain under way (R403) -/
  drain : Option Drain
  /-- the bleed path runs, powered from the stack (R403); survives power cycles; reset false -/
  bleed : Bool
  /-- SAP_STATUS.drained (R403); survives power cycles; reset false -/
  drained : Bool
  /-- cells 1–14 -/
  cells : Vector Cell 14
  /-- independent stack measurement, mV (SAP_STACK.stack_mv); reset 0 -/
  stackMv : Nat
  /-- stack temperature sensors in °C (SAP_TEMP); reset 0 -/
  temps : Vector Int 4
  /-- stack ceiling in force, mV (SAP_STACK.ceiling_mv); reset 0 -/
  ceilingMv : Nat
  /-- SAP_STATUS.open_tap, 0 none (R398); reset 0 -/
  openTap : Nat
  /-- balancing is stopped on the whole stack (SAP_BAL.stack_stop, R395); reset false -/
  stackStop : Bool
  /-- C_min in 0.1 F and its cell (SAP_HEALTH); reset 0 -/
  cMin : Nat
  /-- cell with the least capacitance (SAP_HEALTH) -/
  weakest : Nat
  /-- SAP_ENERGY.present_j and usable_j; reset 0 -/
  presentJ : Nat
  /-- SAP_ENERGY.usable_j -/
  usableJ : Nat
  /-- end of life has been reported (R385); reset false -/
  endOfLife : Bool
  /-- cell monitor awake (R400, R401); reset false -/
  awake : Bool
  /-- a wake message has come and its full scan and check scan run (R401); reset false -/
  waking : Bool
  /-- Crown has yet to see that the monitor slept (R400); reset false -/
  slept : Bool
  /-- the sleep line went from released to asserted while the monitor was awake, and Heartwood has not tripped on it yet (R446); reset false -/
  fell : Bool
  /-- permission flags of the converter (R388); reset false -/
  chargeBlocked : Bool
  /-- discharge is not permitted to the converter (R388) -/
  dischargeBlocked : Bool
  /-- a suspect scan blocks charging until it is classified (R396); reset false -/
  suspect : Bool
  /-- cell and reading of the suspect scan, for the transient-reading record (R397) -/
  suspectCell : Nat
  /-- reading of the suspect scan (R397) -/
  suspectMv : Nat
  /-- the store converter follows its command (SAP_STATUS.following, R372); reset false -/
  following : Bool
  /-- scans since the last check scan, and whether the present scan is a check scan (R396); reset 0 -/
  scans : Nat
  /-- the present scan is a check scan (R396) -/
  check : Bool
  /-- the scan after this one is to be a check scan (R396) -/
  checkNext : Bool
  /-- readings of the last conversion window, the baseline of a check scan (R396); reset none -/
  baseline : List Nat
  /-- consecutive scans whose sum check failed (R397); reset 0 -/
  sumFails : Nat
  /-- the sum check of the present scan passed -/
  sumOk : Bool
  /-- slot parity: the parity with which the present scan's slots start, odd when true, turned at each scan (R393); reset false, DESIGN CHOICE (log 60) -/
  oddFirst : Bool
  /-- balancing slots done in the present scan (R393); reset 0 -/
  slotsDone : Nat
  /-- cell connected to the shuttle, 0 none (R392); reset 0 -/
  shuttle : Nat
  /-- no check scan has been classified since power-on (R398, R399); reset true -/
  fresh : Bool
  /-- a balancing switch test is due or restarts (R395, R404); reset false -/
  testDue : Bool
  /-- the connect has been asked for and precharge runs; SW_A has closed -/
  swAClosing : Bool
  /-- the STORE indicator's circuit lights it: the stack exceeds 33.0 V (R402, R326); survives power cycles; reset false, DESIGN CHOICE (log 203) -/
  lit : Bool
  /-- taps other than open_tap that check scans have found open and recorded (R398, R399); reset none -/
  tapsFound : List Nat
  /-- from the start of a scan until its conversion window closes, when no balancing runs (R392); reset false -/
  converting : Bool
  /-- the sum check of the scan before the present one passed (R397); reset false -/
  sumWas : Bool
  /-- a check scan was left unclassified: the next one whose own sum check passes classifies (R397); reset false -/
  recheck : Bool
  /-- scan pulses arrive from the monitor (R446, HWD_STATUS.monitor_ok); reset false -/
  pulsing : Bool
  /-- the converter discharges to hold the bus node in a dip (R404, R448); reset false -/
  holding : Bool
  deriving DecidableEq, Repr

/-! ## Power budgets and cooling (14_power_budget_thermal.md) -/

/-- A cap notice that is matched (R426). -/
structure Match where
  /-- sender's identifier -/
  sender : Nat
  /-- point asked (R426) -/
  point : Fin 8
  /-- microsecond at which it expires, none until further notice -/
  until_ : Option Nat
  /-- a collective boundary has come since, so that it applies -/
  applied : Bool
  deriving DecidableEq, Repr

/-- Steps of an ordered quiesce (R432). -/
inductive QuiesceStep where
  | draining | flushing
  deriving DecidableEq, Repr

/-- What stopped the module (R468, R479). -/
inductive StopCause where
  | busLoss | thermal | safe (code : Nat) | failedStart | restart
  deriving DecidableEq, Repr

/-- Crown's power state. -/
structure Budget where
  /-- rack share in W (R416); reset 0; the fallback fraction of 5000 W from the first Crown start (R419) -/
  share : Nat
  /-- PWR_BUDGET_STATUS.source, 3 bits; reset 0 -/
  source : Nat
  /-- microsecond at which the last share was accepted (R419); reset 0 -/
  shareAt : Nat
  /-- the share is in its 60 s period or has fallen back -/
  fallen : Bool
  /-- agent_id of the last SET_SHARE taken, 16 bits, recorded only (R502); reset 0 -/
  agent : Nat
  /-- smoothing mode asked for: 0 store, 1 ballast, 2 both (R421); reset 0 -/
  smooth : Nat
  /-- microsecond of the last message of the managers on buses A and B, and whether each is lost (R418); reset 0, false -/
  heard : Vector Nat 2
  /-- whether the manager on bus A and B is lost (R418) -/
  lost : Vector Bool 2
  /-- c_peak has been lowered for the store energy floor (R416); reset false -/
  floorLow : Bool
  /-- Taproot saturated while discharging; the charge loop saturated at its upper limit (R420); reset false -/
  satDischarge : Bool
  /-- the charge loop is saturated at its upper limit (R420) -/
  satCharge : Bool
  /-- measured inputs of R412: mean die power in W, highest sample and mean of demand in W, busy fraction in 1/1000; reset 0 -/
  pdie : Vector Nat 4
  /-- highest sample of demand in W (R412) -/
  demPeak : Nat
  /-- mean of demand in W (R412) -/
  demMean : Nat
  /-- busy fraction of each die in 1/1000 (R412) -/
  busy : Vector Nat 4
  /-- coolant inlet and outlet in 1/16 °C (PWR_THERM_STATUS, R428); reset 0 -/
  inlet : Int
  /-- coolant outlet in 1/16 °C (PWR_THERM_STATUS, R428) -/
  outlet : Int
  /-- die temperatures of the last thermal run, in 1/16 °C (Table: Thermal inputs); reset 0 -/
  dieTemps : Vector Int 4
  /-- outlet and demand of the last 21 runs of the thermal loop, newest first (R429); reset none -/
  outlets : List (Int × Nat)
  /-- runs in a row with the outlet within 15 K of the inlet (R429); reset 0 -/
  coolRuns : Nat
  /-- PWR_THERM_STATUS.coolant_loss and .shutdown; reset false -/
  coolantLoss : Bool
  /-- PWR_THERM_STATUS.shutdown (R430) -/
  shutdown : Bool
  /-- the shutdown's inputs have not yet fallen 10 °C below their entries (R430) -/
  hot : Bool
  /-- thermal ceiling of each die (R428); reset 7 -/
  tceil : Vector (Fin 8) 4
  /-- runs in a row in which every input of a die stayed 3 °C below its entry (R428); reset 0 -/
  coldRuns : Vector Nat 4
  /-- a thermal input of a die stands at or above its entry (R422); reset false -/
  throttled : Vector Bool 4
  /-- point granted to each die, and cap points in force, none without a cap (R410, R586); reset 0, none -/
  granted : Vector (Fin 8) 4
  /-- cap point in force on each die, none without a cap (R586) -/
  caps : Vector (Option (Fin 8)) 4
  /-- cause of the caps, 0–4 (R424); reset 0 -/
  capCause : Nat
  /-- cause of each die's own cap, which decides how it rises (R586); reset 0 -/
  capWhy : Vector Nat 4
  /-- cap points and cause that were decided during the hold and wait for its end (R434); reset none -/
  heldCaps : Option (Vector (Option (Fin 8)) 4 × Nat)
  /-- a cap that awaits a boundary: cap points and cause (R424); reset none -/
  deferred : Option (Vector (Option (Fin 8)) 4 × Nat)
  /-- dies that keep their point for 10 ms after their last launch (R410); reset false -/
  lingering : Vector Bool 4
  /-- cap notices that are matched (R426) -/
  matches_ : List Match
  /-- ageing: cumulative trim in mV, lowest margin of the period in 1/1000, trims in a row above 8 %, highest point allowed (R414, R415); the trim survives power cycles; reset 0, none, 0, 7 -/
  trim : Vector Int 4
  /-- ageing: lowest margin of the period in 1/1000 (R414) -/
  margin : Vector (Option Int) 4
  /-- ageing: trims in a row above 8 % (R414) -/
  above8 : Vector Nat 4
  /-- ageing: highest point allowed (R414, R415) -/
  top : Vector (Fin 8) 4
  /-- ballast duty of each die in 1/1000 (R422); reset 0 -/
  duty : Vector Nat 4
  /-- the hold is in force (R431); reset false -/
  hold : Bool
  /-- a share that arrived during the hold: W, mode and source (R434); reset none -/
  waiting : Option (Nat × Nat × Nat)
  /-- ordered quiesce under way (R432); reset none -/
  quiesce : Option QuiesceStep
  /-- what it, or an earlier stop, was for (R479); reset none -/
  stopped : Option StopCause
  deriving DecidableEq, Repr

/-! ## Heartwood (15_heartwood.md) -/

/-- An entry of the trip memory (R447). -/
structure Trip where
  /-- trip code (R446) -/
  code : Nat
  /-- die or rail it names, 0 if none (R447) -/
  index : Nat
  /-- power cycle (R447) -/
  cycle : BitVec 32
  /-- hours of operation (R447) -/
  hours : BitVec 32
  /-- copied into the ring log (R447) -/
  copied : Bool
  deriving DecidableEq, Repr

/-- Heartwood's state. -/
structure Hwd where
  /-- channels A and B run and agree (HWD_STATUS.chan_a_ok, chan_b_ok); reset 0 -/
  chanA : Bool
  /-- channel B runs and agrees (HWD_STATUS.chan_b_ok) -/
  chanB : Bool
  /-- PRS_A and PRS_B read low: made (R312, R313); reset false -/
  prsA : Bool
  /-- PRS_B reads low: made (R312, R313) -/
  prsB : Bool
  /-- both have read low for 100 ms (R313); reset false -/
  settled : Bool
  /-- the start path charges the bus node (R461); reset false -/
  startPath : Bool
  /-- SW_A, SW_B, precharge path and bus input switch (R457); reset 0 -/
  swA : Bool
  /-- SW_B is closed (R457) -/
  swB : Bool
  /-- the precharge path is closed (R457) -/
  precharge : Bool
  /-- the bus input switch is closed (R457) -/
  inputClosed : Bool
  /-- HWD_STATUS.die_en (R457); reset 0 -/
  dieEn : Vector Bool 4
  /-- ceilings in force (R441); reset the fuse values -/
  ceil : Vector Nat 8
  /-- codes of the trips that hold LIMIT on each die (R444, R445); reset none -/
  limit : Vector (List Nat) 4
  /-- microsecond of the last trip that brought SAFE (R479); reset 0 -/
  safeAt : Nat
  /-- HWD_STATUS.freeze, .hold_req, .dip, .brownout, .safe; reset 0 -/
  freeze : Bool
  /-- HWD_STATUS.hold_req -/
  holdReq : Bool
  /-- HWD_STATUS.dip -/
  dip : Bool
  /-- HWD_STATUS.brownout -/
  brownout : Bool
  /-- HWD_STATUS.safe -/
  safe : Bool
  /-- the bus has stayed at or above 44 V for 100 ms (R449, R479); reset false -/
  busGood : Bool
  /-- REMOVE is in force (R453); reset false -/
  removed : Bool
  /-- dies that DIE_OFF keeps off until the next power-on (R444); reset false -/
  dieOff : Vector Bool 4
  /-- every connect is refused until the next power-on (code 0x16); reset false -/
  refuseConnect : Bool
  /-- Crown's first strobe since power-on has armed the watch (code 0x15); reset false -/
  watch : Bool
  /-- Crown's strobe present (HWD_STATUS.crown_ok); reset false -/
  strobe : Bool
  /-- HWD_COUNTS, saturating; reset 0 -/
  dips : Nat
  /-- HWD_COUNTS.brownouts, saturating -/
  brownouts : Nat
  /-- HWD_TRIP_LAST: count, index, code; reset 0 -/
  trips : Nat
  /-- HWD_TRIP_LAST.index -/
  lastIndex : Nat
  /-- HWD_TRIP_LAST.code -/
  lastCode : Nat
  /-- trip memory, oldest first, at most 32 (R447); survives power cycles; reset none, DESIGN CHOICE (log 7) -/
  mem : List Trip
  /-- a brownout warning is marked pending in the trip memory (R451); survives power cycles; reset false -/
  mark : Bool
  /-- hours saved in Heartwood's non-volatile memory (R462, R482); survive power cycles; reset 0, DESIGN CHOICE (log 7) -/
  savedHours : BitVec 32
  /-- tampers counted in Heartwood's non-volatile memory (R513); survive power cycles; reset 0, the reset of CRN_STATUS.tamper_count -/
  tampers : BitVec 32
  /-- HWD runs outside 18–22 MHz (code 0x1F): the outputs stay fail-safe until the next power-on (R439); reset false -/
  clockBad : Bool
  /-- the ceiling fuses' reads differed (code 0x20): no start (R440); reset false -/
  fuseBad : Bool
  deriving DecidableEq, Repr

/-! ## Start (16_startup_clocks.md) -/

/-- Steps of one die's bring-up (R465). -/
inductive DieStep where
  | waiting | rail | locking | training | done
  deriving DecidableEq, Repr

/-- Start and re-entry (R459–R481). -/
structure Startup where
  /-- bring-up step of each die (R465); reset waiting -/
  dies : Vector DieStep 4
  /-- entries abandoned since the last success (R481); reset 0 -/
  abandoned : Nat
  /-- an abandoned entry awaits its retry (R481); reset false -/
  retry : Bool
  /-- the monitor has reported awake or failed to wake (R459); reset false -/
  monitorDone : Bool
  /-- the store has connected, is locked out, or has had its time in Stage 2 (R459); reset false -/
  storeDone : Bool
  /-- CLK_RESET_CAUSE: restarts and kind (R482); reset 0 -/
  restarts : Nat
  /-- CLK_RESET_CAUSE.kind (R482) -/
  kind : Nat
  /-- kind of the restart or re-entry under way, recorded when it completes (R479); reset none -/
  pendingKind : Option Nat
  /-- a restart runs: its quiesce leads to Stage 3 entry (R474); reset false -/
  restarting : Bool
  /-- source and microsecond of the last restart command that was performed (R481, R567); reset none -/
  restartOf : Option (CmdSrc × Nat)
  /-- an abandoned entry has been retried since the last success (R481, R482); reset false -/
  retried : Bool
  /-- slot_id[5:0] latched in Stage 0 (R319, R462); reset 0 -/
  slotId : BitVec 6
  /-- the present start followed a Heartwood reset (R482); reset false -/
  hwdReset : Bool
  /-- Crown firmware has run since the power-on, so that its Stage 1 actions are done (R463); reset false -/
  ran : Bool
  deriving DecidableEq, Repr
/-! ## On-chip memories (18_onchip_memories.md) -/

/-- A spare row or column in use for a field repair (R529–R531). -/
structure Spare where
  /-- row of Table: On-chip SRAMs, counted from 0 -/
  mem : Nat
  /-- instance of the memory -/
  inst : Nat
  /-- bank or array -/
  bank : Nat
  /-- a spare row; otherwise a spare column -/
  isRow : Bool
  /-- the row or column it replaces -/
  index : Nat
  /-- number of the spare row or column that stands in -/
  slot : Nat
  /-- found by TRANSPARENT and not yet applied (R530) -/
  waiting : Bool
  deriving DecidableEq, Repr

/-- A march under way (R526–R528). -/
structure March where
  /-- row of Table: On-chip SRAMs, counted from 0 -/
  mem : Nat
  /-- instance of the memory -/
  inst : Nat
  /-- TRANSPARENT; otherwise MARCH_C -/
  transparent : Bool
  /-- ZERO_CHECK in place of MARCH_C (R533) -/
  zero : Bool := false
  deriving DecidableEq, Repr

/-- State of the on-chip memories beside their contents. -/
structure SramState where
  /-- correctable errors counted, keyed memory row × 4096 + instance (R522); reset 0 -/
  ce : Keyed Nat
  /-- repair map of the configuration partition (R531); survives power cycles; reset none, DESIGN CHOICE (log 7) -/
  spares : List Spare
  /-- marches under way (R526); reset none -/
  marches : List March
  /-- spare rows that the last MARCH_C of their memory found defective: memory row, instance, bank and number (R524); reset none -/
  badSpares : List (Nat × Nat × Nat × Nat)
  /-- memories that the last march found unrepairable, as memory row × 4096 + instance (R529, R531); reset none -/
  bad : List Nat
  /-- the stack region whose turn the daily march has next (R526); reset 0 -/
  daily : Nat
  deriving DecidableEq, Repr


/-! ## Crown (17_crown_firmware.md) -/

/-- CRN_RING_CTRL.state (Table: CRN_RING_CTRL fields). -/
inductive RingMode where
  | stopped | starting | running | mismatch
  deriving DecidableEq, Repr

/-- One function's ring pair as Crown holds it (R493–R500). -/
structure Ring where
  /-- CRN_RING_CTRL.state (R494, R519); reset stopped -/
  mode : RingMode
  /-- req_cons (R495); reset 0 -/
  reqCons : BitVec 32
  /-- rsp_prod (R495); reset 0 -/
  rspProd : BitVec 32
  /-- events_lost (R499); reset 0 -/
  eventsLost : BitVec 32
  /-- Crown's count of events (R496); reset 0 -/
  eventSeq : BitVec 32
  /-- the latest 8 events held while the ring does not run: code, index, and what the detail begins with (R499); reset none -/
  held : List (Nat × Nat × List Byte)
  /-- requests taken and not answered, oldest first (R495); reset none -/
  requests : List (List Byte)
  /-- a kick asked for the next read within 20 µs (R495); reset false -/
  kicked : Bool
  /-- a stop waits for the response to the request in progress (R500, R518); reset false -/
  stopping : Bool
  /-- responses that wait for room in the response ring, oldest first (R495); reset none -/
  replies : List (List Byte)
  /-- CRN_MBOX_CTRL.busy (R501, R519); reset 0 -/
  mboxBusy : Bool
  /-- CRN_MBOX_CTRL.done (R501, R519); reset 0 -/
  mboxDone : Bool
  /-- microsecond at which vector 65 was last signalled (R499); reset none -/
  signalled : Option Nat
  /-- a vector 65 signal waits for its 100 µs to pass (R499); reset false -/
  owed : Bool
  /-- events that device memory could not take yet, oldest first, each as its message (R109, R127, R499); reset none -/
  due : List (List Byte)
  /-- a start waits for device memory to serve the control block (R109, R127, R494); reset false -/
  starting : Bool
  deriving DecidableEq, Repr

/-- Life-cycle states (Table: Life-cycle states). -/
inductive Life where
  | blank | provisioned | deployed | service | retired
  deriving DecidableEq, Repr

/-- What the configuration partition holds (R485): the retirement and repair maps, the ageing trims, the store lockout, the canonical blocks in
force, the life-cycle record, the owner key hash, the wrapped identity key and its certificate, and the mark of a log clear (R545). -/
structure ConfigPart where
  /-- retirement map and what belongs to it (R66, R70) -/
  retire : Retirement
  /-- tiles marked for retirement and their causes (R64) -/
  marks : List (Nat × Nat)
  /-- row repairs of the stacks (R122) -/
  rowMap : Keyed Nat
  /-- rows that await their repair (R121) -/
  repairs : List Nat
  /-- spare rows in use of each bank (R121) -/
  sparesUsed : Keyed Nat
  /-- banks without a spare row (R123) -/
  noSpare : List Nat
  /-- repair map of the on-chip memories (R531) -/
  spares : List Spare
  /-- ageing trims (R414) -/
  trim : Vector Int 4
  /-- store lockout (R389) -/
  lockout : Option Lockout
  /-- canonical blocks in force (R300), their epoch -/
  epoch : BitVec 64
  /-- digest in force (R301) -/
  digest : BitVec 256
  /-- the blocks themselves (R300) -/
  blocks : Option Blocks
  /-- life-cycle record (R508) -/
  life : Life
  /-- owner key hash (R508) -/
  owner : Option (BitVec 256)
  /-- the wrapped identity key exists (R514) -/
  identity : Bool
  /-- certificate chain (R514) -/
  cert : List Byte
  /-- clear-in-progress mark (R545) -/
  clear : Option ClearMark
  /-- a loss of the partition has not been acknowledged yet (R486; log 108) -/
  lost : Bool
  deriving DecidableEq, Repr

/-- One copy of the configuration partition that is whole in flash (R485, R486). -/
structure ConfigCopy where
  /-- sequence number -/
  seq : Nat
  /-- contents -/
  part : ConfigPart
  deriving DecidableEq, Repr

/-- An image in a slot that passes every check of R488 but that of its svn against the fused counter, which a later boot repeats. -/
structure SlotImage where
  /-- version word (R487) -/
  version : BitVec 32
  /-- security version number (R488) -/
  svn : Nat
  /-- body_digest -/
  digest : BitVec 256
  deriving DecidableEq, Repr

/-- An image update that programs a slot (R492). -/
structure ImageLoad where
  /-- path on which its message came -/
  src : MsgSrc
  /-- slot it programs -/
  slot : Fin 2
  /-- image it programs -/
  image : SlotImage
  /-- sequence number of its message, for the answer -/
  seq : Nat
  deriving DecidableEq, Repr

/-- State of a function's SPDM exchange (R515, R517). -/
inductive SpdmState where
  | start | version | capabilities | algorithms | resynch
  deriving DecidableEq, Repr

/-- Why Crown restarted, for the record that follows (R463, R491, R513). -/
inductive CrownNote where
  | watchdog (slot : Fin 2) (version : BitVec 32) (svn : Nat)
  | fallback (slot : Fin 2) (version : BitVec 32) (svn : Nat)
  | tamper (sensor : TamperSensor)
  /-- a power-on has ended the SERVICE state (R509) -/
  | serviceEnd
  /-- neither copy of the configuration partition passed its check (R486) -/
  | configLost
  deriving DecidableEq, Repr

/-- An SPDM request (R515, R516). -/
inductive SpdmRequest where
  | version
  | capabilities
  | algorithms (asym hash : BitVec 32)
  | digests
  | certificate (slot : BitVec 4) (off len : BitVec 16)
  /-- with what its read of the identity key meets -/
  | challenge (slot : BitVec 4) (sram : SramErr)
  | measurements (index : BitVec 8) (signed : Bool)
  /-- a request that Crown does not support, by its code -/
  | other (code : BitVec 8)
  deriving DecidableEq, Repr

/-- The management controller (R484–R520). -/
structure Crown where
  /-- CRN_STATUS.running: firmware runs (R519); reset 0 -/
  running : Bool
  /-- CRN_STATUS.rom_recovery (R490); reset 0 -/
  rom : Bool
  /-- CRN_STATUS.slot (R519); reset 0 -/
  slot : Fin 2
  /-- slot recorded as active (R489); survives power cycles; reset 0, DESIGN CHOICE (log 72) -/
  active : Fin 2
  /-- slot recorded as pending (R489, R492); survives power cycles; reset none, DESIGN CHOICE (log 72) -/
  pendingSlot : Option (Fin 2)
  /-- the running slot is on trial (R492), and the microsecond at which it started; reset 0 -/
  trial : Bool
  /-- microsecond at which the trial started (R492) -/
  trialAt : Nat
  /-- images of the two slots, none where a slot holds no image that passes (R485–R489); survive power cycles; reset the factory image in slot 0, DESIGN CHOICE (log 72) -/
  slots : Vector (Option SlotImage) 2
  /-- the image that the boot ROM has started, none before a start and in ROM recovery (R489, R516, R519); reset none -/
  image : Option SlotImage
  /-- fused security counter (R488, R492); a fuse; reset 0, DESIGN CHOICE (log 72) -/
  fused : Nat
  /-- for the image of each slot, the hours of its watchdog restarts within 10 min (R491); reset none -/
  dogs : Vector (List Nat) 2
  /-- the two copies of the configuration partition, none for one that is not whole (R485, R486); survive power cycles; reset both the
  configuration of a new module, the first the newer, DESIGN CHOICE (log 208) -/
  copies : Vector (Option ConfigCopy) 2
  /-- the configuration has been lost at a Stage 1 and nobody has acknowledged it since (R486; log 108); survives power cycles; reset false -/
  lost : Bool
  /-- life-cycle state (R508); survives power cycles; CRN_STATUS.lifecycle; reset BLANK (0b000) -/
  life : Life
  /-- owner key hash (R508, R509); survives power cycles; reset none (log 73) -/
  owner : Option (BitVec 256)
  /-- the wrapped identity key exists (R509, R514); survives power cycles; reset false (log 73) -/
  identity : Bool
  /-- the module's certificate as the factory stored it (R509, R514); survives power cycles; reset none (log 73) -/
  cert : List Byte
  /-- the identity key is unwrapped in the secure region (R514, R533); reset false -/
  unwrapped : Bool
  /-- keys derived from Crown's fused secret stand in the secure region (R514, R532); reset false -/
  derived : Bool
  /-- messages AUTHORISE whose check is in progress while it waits, for a wipe or for the memory that holds its buffer (R532, R534); reset none -/
  checking : List MsgSrc
  /-- SPDM requests that wait for a wipe to end, first come first (R534); reset none -/
  asked : List (Fn × SpdmRequest)
  /-- the secure region has failed its zero check (R533); reset false -/
  secureBad : Bool
  /-- nonces of function A, function B and the console (R511); reset none -/
  nonces : Vector (Option (BitVec 64)) 3
  /-- image update under way (R492); reset none -/
  load : Option ImageLoad
  /-- SPDM state of functions A and B (R515, R517); reset start -/
  spdm : Vector SpdmState 2
  /-- frames discarded on Zejor buses A and B, 8 bits saturating (CRN_ZJ_STATUS); reset 0 -/
  zjErr : Vector Nat 2
  /-- CRN_ZJ_STATUS.dup; reset 0 -/
  zjDup : Bool
  /-- records that the next start of the firmware writes (R489, R491, R513); reset none -/
  notes : List CrownNote
  /-- the module has been reported failed since power-on, for the flags of POLL (R506); reset false -/
  reported : Bool
  /-- a message that waits for a log clear to end: its source and sequence number, none for the console (R545); reset none -/
  clearing : Option (Option (MsgSrc × Nat))
  deriving DecidableEq, Repr

/-! ## The console (20_field_service.md) -/

/-- A console command that runs over several steps (R552, R558, R561). -/
inductive RunTest where
  | tile (t : Nat)
  /-- `test phase`: the phase's current and the mean, in A, and the microsecond at which it was shed (R558) -/
  | phase (d : Fin 4) (n : Fin 26) (amps mean : Int) (since : Nat)
  /-- a command that prints its lines one after another and then its reply: its code of SVC_STATUS.test, whether Heartwood serves it, the lines left,
  and the error, 0 for none (R552, R555; log 213) -/
  | print (code : Nat) (byHwd : Bool) (left : List (List Byte)) (err : Nat)
  /-- `recover`: the blocks that still come, each with its CRC-16, and the bytes received (R490, R555) -/
  | recover (blocks : List (List Byte × BitVec 16)) (got : List Byte)
  /-- `march secure`: the wipe runs (R532, R533) -/
  | secure
  /-- `auth` waits for a wipe to end: the token, and which restored tiles pass their self-test (R534) -/
  | authWait (bytes : List Byte) (passes : BitVec 8)
  | link (p : Fin 20) (uncorr crc corr : BitVec 64) (retrains : BitVec 32) (warned : Bool)
  | cell
  | balance
  /-- the slot, and whether the response decides the verdict (R559) -/
  | loop (n : Fin 4) (judged : Bool)
  | march (mem inst : Nat)
  /-- `test log`: the march of the ring log buffer runs -/
  | log
  /-- `auth`: a clear of the ring log runs (R545, R560) -/
  | auth
  /-- codes still to test, step 0–2 of the first of them, whether its steps so far have passed, and whether every earlier code has -/
  | trip (codes : List Nat) (step : Nat) (good : Bool) (passed : Bool)
  deriving DecidableEq, Repr

/-- The Kenpex console (R549–R569). -/
structure Console where
  /-- svc_ready is high (R553); reset 0 -/
  ready : Bool
  /-- SVC_STATUS.baud, 2 bits (R550); reset 0b00 -/
  baud : Nat
  /-- microsecond at which a byte was last received (SVC_STATUS.session); reset none -/
  lastByte : Option Nat
  /-- SVC_STATUS.changes, 16 bits saturating; reset 0 -/
  changes : Nat
  /-- svc_rxd read break throughout Stage 0, and the hold at the end of Stage 1 has not been released (R563, SVC_STATUS.held); reset false -/
  held : Bool
  /-- the command that runs (R552, SVC_STATUS.test); reset none -/
  test : Option RunTest
  /-- the abort byte has come, and the command goes on to its safe point (R552); reset false -/
  abort : Bool
  deriving DecidableEq, Repr

/-! ## The state -/

/-- The state of the module. -/
structure State where
  /-- commands that wait, first in first out; reset none -/
  pending : List Instr
  /-- the model's own count of free values drawn (log 12); reset 0, DESIGN CHOICE (log 12) -/
  free : Nat
  /-- what the module has sent out, oldest first (log 10); reset none -/
  out : List Output
  /-- registers a host writes and W1C registers, keyed by BAR0 offset and, for copies held per function, 2^20 × function + offset; unlisted ones hold their reset values (R12, R572, R574) -/
  regs : Keyed (BitVec 64)
  /-- write latches of R10, keyed 2^20 × function + offset; reset empty -/
  latch : Keyed (BitVec 32)
  /-- read captures of R10, keyed 2^20 × function + offset; reset empty -/
  capture : Keyed (BitVec 32)
  /-- writes to RWL registers that wait until their block is writable again, oldest first: function, offset, value (R579); reset none -/
  late : List (Fn × Nat × BitVec 32)
  /-- the module is sealed (R12, R476); reset 0 -/
  sealed : Bool
  /-- CLK_STATUS.stage (R459, R482); reset unpowered -/
  stage : Stage
  clk : Clocks
  /-- tiles by linear number, unlisted ones as `Tile.fresh` (R20, R37) -/
  tiles : Keyed Tile
  mem : MemState
  canopy : Canopy
  retire : Retirement
  /-- host ports A and B -/
  host : Vector HostPort 2
  queues : Vector Queue 64
  hq : HostEngine
  log : LogState
  /-- Berux ports 0–19 -/
  ports : Vector Port 20
  fleet : Fleet
  power : Power
  le : LoopEngine
  sap : Store
  budget : Budget
  hwd : Hwd
  start : Startup
  sram : SramState
  /-- host–firmware rings and mailboxes of functions A and B -/
  rings : Vector Ring 2
  crown : Crown
  svc : Console
  deriving DecidableEq, Repr

/-! ## Reset -/

/-- A law at rest. -/
def lawReset : Law := { pos := 0, vel := 0, acc := 0, integ := { mant := 0, exp := 0 }, ref := bfp0, out := bfp0 }

/-- A slot out of reset (R464). -/
def slotReset (n : Fin 4) : Slot :=
  { mode := .off, held := .off, commands := [], thenAuto := false, fromDraw := false, region := 0, sets := Vector.replicate 4 (defaultTuning n)
    commit := [], values := defaultValues n, manual := Vector.replicate 4 bfp0, preset := false, restart := false, laws := Vector.replicate 4 lawReset
    filtered := 0, saturated := false, run := 0, limit := satLimit n, clear := 0, ends := Vector.replicate 10 0, delay := 0, delayMax := 0 }

/-- Clocks before the first power-on (R459, R482). -/
def Clocks.reset : Clocks :=
  { refCount := 0, refOk := false, holdover := false, refGoodSince := 0, stamp := Vector.replicate 4 0, pll := Vector.replicate 4 false
    div := Vector.replicate 4 0, hours := 0, hoursUs := 0, cycles := 0, us := 0 }

/-- Device memory before the first power-on: nothing listed, no error known (R117–R131). -/
def MemState.reset : MemState :=
  { dram := [], bad := [], reqs := [], tracker := [], openRow := [], nextId := 0, sliceCe := [], sliceCeLast := [], sliceUeTimes := [], rowCeTimes := [], repairs := [], noSpare := [], sparesUsed := []
    rowMap := [], patrol := [], postponed := [], refreshed := [], layerTemp := Vector.replicate 20 (List.replicate 8 0)
    failedSensors := Vector.replicate 20 0, temp := Vector.replicate 20 0, band := Vector.replicate 20 0, ceTotal := 0, ueTotal := 0
    ueAddr := 0, failedStacks := 0, degradedStacks := 0, trunkBase := Vector.replicate 4 none, trunk := Vector.replicate 4 none, trunkHigh := Vector.replicate 4 false }

/-- The Canopy at reset (R158). -/
def Canopy.reset : Canopy := { replays := [], flits := [], turn := [], failed := [], edgeStatus := 0, retryTotal := 0, stallTotal := 0 }

/-- No tile is retired (R66; log 7). -/
def Retirement.reset : Retirement := { pending := [], map := [], spareBad := [], stuck := [], edits := [], causes := [] }

/-- A host port before its host releases perst (R466; logs 8, 9, 181). -/
def HostPort.reset : HostPort :=
  { perst := true, up := false, bme := false, d3hot := false, bar2Log := 28, link := { rate := 0, width := 0, flit := false, refclk := false }
    payload := 128, readRequest := 512, timeout := 0, msixTable := [], msixMask := BitVec.allOnes 128, tableMask := false
    msixPending := 0, writes := [] }

/-- A queue at power-on (R194, R232). -/
def Queue.reset (q : Fin 64) : Queue :=
  { owner := some (if q < 32 then .A else .B), state := .disabled, cause := 0, paused := false, result := 0, fetched := 0, done := 0
    lost := 0, sqTail := 0, cqHead := 0, polling := 0, reading := 0, inflight := [], statusOwed := false, statusMade := false
    statusFirst := false, wakeDue := false }

/-- The queue engine at power-on: it fetches from Stage 3 on (R222). -/
def HostEngine.reset : HostEngine :=
  { launches := [], ready := [], lastFetch := Vector.replicate 8 63, lastStart := 63, jobs := [], energy := 0, hints := [], maint := false, stopped := false }

/-- A Berux port at power-on (R240, R269; log 52). -/
def Port.reset : Port :=
  { state := .disabled, cause := 0, lanes := 0, width := 0, gen := 0, cfg := 3, peer := 0, cable := 0, attempts := 0, unanswered := 0, app := none
    trained := { remote := false, x4 := false, id := 0, precode := 0 }, precode := 0, discard := false, own := 0
    word := none, same := 0, seen := false, txSeq := 0, replay := [], rxSeq := 0, nak := false, naks := 0
    credits := Vector.replicate 6 0, owed := Vector.replicate 6 0, tx := Vector.replicate 6 [], sinceSide := 15, sideTx := []
    part := Vector.replicate 6 [], requests := [], responses := [], side := [], out := [], heard := 0, retrains := [], badWords := []
    flush := none, broken := false, fecCorr := 0, fecUncorr := 0, crcErr := 0, replays := 0, retrainCount := 0, downCount := 0
    addrErr := 0, sbDrop := 0, present := false, power := false, limited := false }

/-- The module stands alone until a fleet is configured (R300, R301; logs 53, 71). -/
def Fleet.reset : Fleet :=
  { epoch := 0, digest := 0, blocks := none, staged := none, role := 0, fenced := false, seqs := [], boundaries := 0, collectives := []
    early := [], twin := none, copy := none, copyBad := [], lastStep := 0, nextLease := 1, holders := [], witnessed := [], standbys := [], polls := []
    voted := none, commit := none, refused := 0, nextTag := 0, msgSeq := [] }

/-- A rail that is off (R355). -/
def Rail.reset : Rail :=
  { state := .off, enabled := false, attempts := 0, armed := false, shed := 0, shedTo := none, working := 0, failed := 0, taken := 0, leaving := 0
    current := 0, vout := 0, charged := false, goingDown := false }

/-- A core controller with its fuse values (R337, R409). -/
def Core.reset : Core :=
  { vop := fuseVop, pins := 0, asked := 0, settled := 0, low := 0, slewing := false, trimSlew := false, forced := false, ignored := 0 }

/-- Power conversion at power-on. -/
def Power.reset : Power :=
  { convOn := Vector.replicate 4 false, convFault := Vector.replicate 4 false, convStop := none, rails := Vector.replicate 11 Rail.reset
    cores := Vector.replicate 4 Core.reset }

/-- The loop engine held in reset (R459, R464). -/
def LoopEngine.reset : LoopEngine :=
  { released := false, ok := false, phase := .startup, route := 0, slots := Vector.ofFn slotReset, injection := none
    capture := { state := 0, setup := none, skip := 0, samples := [], left := 0 }, absorb := 0, busMv := 0, draw := 0, demand := 0, command := 0, ballast := 0, iCmd := 0
    convStopped := false }

/-- A new cell that no scan has read (R384, R388). -/
def Cell.reset : Cell :=
  { mv := 0, valid := false, inPair := false, eligible := false, dis := false, swFail := false, held := false, cap := 2500 }

/-- The store at power-on (R389; logs 7, 60). -/
def Store.reset : Store :=
  { state := .isolated, lockout := none, drain := none, bleed := false, drained := false, cells := Vector.replicate 14 Cell.reset
    stackMv := 0, temps := Vector.replicate 4 0, ceilingMv := 0, openTap := 0, stackStop := false, cMin := 0, weakest := 0
    presentJ := 0, usableJ := 0, endOfLife := false, awake := false, waking := false, slept := false, fell := false, chargeBlocked := false
    dischargeBlocked := false, suspect := false, suspectCell := 0, suspectMv := 0, following := false, scans := 0, check := false
    checkNext := false, baseline := [], sumFails := 0, sumOk := false, oddFirst := false, slotsDone := 0, shuttle := 0, fresh := true
    testDue := false, swAClosing := false, lit := false, tapsFound := [], converting := false, sumWas := false, recheck := false, pulsing := false, holding := false }

/-- Crown's power state at power-on. -/
def Budget.reset : Budget :=
  { share := 0, source := 0, shareAt := 0, fallen := false, agent := 0, smooth := 0, heard := Vector.replicate 2 0, lost := Vector.replicate 2 false
    floorLow := false, satDischarge := false, satCharge := false, pdie := Vector.replicate 4 0, demPeak := 0, demMean := 0
    busy := Vector.replicate 4 0, inlet := 0, outlet := 0, dieTemps := Vector.replicate 4 0, outlets := [], coolRuns := 0, coolantLoss := false, shutdown := false
    hot := false, tceil := Vector.replicate 4 7, coldRuns := Vector.replicate 4 0, throttled := Vector.replicate 4 false
    granted := Vector.replicate 4 0, caps := Vector.replicate 4 none, capCause := 0, capWhy := Vector.replicate 4 0, heldCaps := none, deferred := none
    lingering := Vector.replicate 4 false, matches_ := [], trim := Vector.replicate 4 0, margin := Vector.replicate 4 none
    above8 := Vector.replicate 4 0, top := Vector.replicate 4 7, duty := Vector.replicate 4 0, hold := false, waiting := none
    quiesce := none, stopped := none }

/-- Heartwood before it is powered, its ceilings at their fuse values (R440, R457; log 7). -/
def Hwd.reset : Hwd :=
  { chanA := false, chanB := false, prsA := false, prsB := false, settled := false, startPath := false, swA := false, swB := false
    precharge := false, inputClosed := false, dieEn := Vector.replicate 4 false, ceil := fuseCeil, limit := Vector.replicate 4 []
    safeAt := 0, freeze := false, holdReq := false, dip := false, brownout := false, safe := false, busGood := false, removed := false
    dieOff := Vector.replicate 4 false, refuseConnect := false, watch := false, strobe := false, dips := 0, brownouts := 0, trips := 0
    lastIndex := 0, lastCode := 0, mem := [], mark := false, savedHours := 0, tampers := 0, clockBad := false, fuseBad := false }

/-- The start before Stage 0. -/
def Startup.reset : Startup :=
  { dies := Vector.replicate 4 .waiting, abandoned := 0, retry := false, monitorDone := false, storeDone := false, restarts := 0, kind := 0
    pendingKind := none, restarting := false, restartOf := none, retried := false, slotId := 0, hwdReset := false, ran := false }

/-- The ring log of a module whose flash holds nothing (R535; log 7). -/
def LogState.reset : LogState :=
  { opened := [], closed := [], flash := [], tail := [], program := [], mode := .recording, resume := .recording, lost := 0, lostSince := 0
    lostCause := 0, verifyFails := 0, readFlush := [], forced := false, clear := none, fillers := [] }

/-- A ring that has not been started (R519). -/
def Ring.reset : Ring :=
  { mode := .stopped, reqCons := 0, rspProd := 0, eventsLost := 0, eventSeq := 0, held := [], requests := [], kicked := false, stopping := false
    replies := [], mboxBusy := false, mboxDone := false, signalled := none, owed := false, due := [], starting := false }

/-- The configuration of a new module: empty maps, no trims, no lockout, no blocks, BLANK (log 7, log 73). -/
def ConfigPart.reset : ConfigPart :=
  { retire := Retirement.reset, marks := [], rowMap := [], repairs := [], sparesUsed := [], noSpare := [], spares := [], trim := Vector.replicate 4 0
    lockout := none, epoch := 0, digest := 0, blocks := none, life := .blank, owner := none, identity := false, cert := [], clear := none, lost := false }

/-- Crown before its boot ROM is released, on a module whose life-cycle state is BLANK, with the factory's image (logs 72, 73). -/
def Crown.reset : Crown :=
  { running := false, rom := false, slot := 0, active := 0, pendingSlot := none, trial := false, trialAt := 0
    slots := #v[some { version := Config.factoryVersion, svn := 0, digest := Config.factoryDigest }, none], image := none, fused := 0, dogs := Vector.replicate 2 []
    copies := #v[some { seq := 1, part := ConfigPart.reset }, some { seq := 0, part := ConfigPart.reset }], lost := false, life := .blank, owner := none, identity := false, cert := [], unwrapped := false, derived := false, checking := [], asked := [], secureBad := false
    nonces := Vector.replicate 3 none, load := none, spdm := Vector.replicate 2 .start, zjErr := Vector.replicate 2 0, zjDup := false
    notes := [], reported := false, clearing := none }

/-- The console before Stage 0 (R550, R553). -/
def Console.reset : Console := { ready := false, baud := 0, lastByte := none, changes := 0, held := false, test := none, abort := false }

/-- The module before its first power-on: without power, every register at its reset value, nothing listed in any memory (R459, R461). -/
def State.reset : State :=
  { pending := [], free := 0, out := [], regs := [], latch := [], capture := [], late := [], sealed := false, stage := .unpowered
    clk := Clocks.reset, tiles := [], mem := MemState.reset, canopy := Canopy.reset, retire := Retirement.reset
    host := Vector.replicate 2 HostPort.reset, queues := Vector.ofFn Queue.reset, hq := HostEngine.reset, log := LogState.reset
    ports := Vector.replicate 20 Port.reset, fleet := Fleet.reset, power := Power.reset, le := LoopEngine.reset, sap := Store.reset
    budget := Budget.reset, hwd := Hwd.reset, start := Startup.reset
    sram := { ce := [], spares := [], marches := [], badSpares := [], bad := [], daily := 0 }, rings := Vector.replicate 2 Ring.reset, crown := Crown.reset
    svc := Console.reset }

end Sys2Proof.Machine
end

