-- ==== Sys2Proof/Machine/Bfp.lean ====
section
/-! DEFINITION. The loop engine's integrators (R360, R361). -/

namespace Sys2Proof.Machine

open Sys2Proof

/-- The value of an integrator: its 36-bit mantissa counts units of 2^(x − 18) (R360). -/
def Integ.value (i : Integ) : ℚ := i.mant.toInt * pow2 (i.exp.toInt - 18)

/-- The upper 18 bits of an integrator, rounded (R360, R361). -/
def Integ.upper (i : Integ) : ℚ := roundEven (i.value / pow2 i.exp.toInt) * pow2 i.exp.toInt

/-- An integrator that holds a value: renormalised as a stage, with 18 fraction bits below its exponent (R360, R361). -/
def toInteg (q : ℚ) : Integ × Bool :=
  let (x, sat) := stageExp [q]
  let top : Int := 34359738367
  ({ mant := BitVec.ofInt 36 (min top (max (-top) (roundEven (q / pow2 (x - 18))))), exp := BitVec.ofInt 6 x }, sat)

end Sys2Proof.Machine
end

