-- ==== Sys2Proof/Machine/Ops.lean ====
section
/-! DEFINITION. The named operations over the state that the meanings share: set-up registers, what the module sends out,
the ring log, reports to the hosts, device memory in its three views, tiles, and the loss of a part. -/

namespace Sys2Proof.Machine

open Sys2Proof

/-! ## Free values -/

/-- The next free value (log 12). -/
def State.fresh (s : State) : BitVec 64 := Config.freeWord s.free

/-- The state after a free value has been drawn. -/
def State.drawn (s : State) : State := { s with free := s.free + 1 }

/-- `n` free bytes, one from each of the next `n` free values (log 12). -/
def State.freeBytes (s : State) (n : Nat) : List Byte := (List.range n).map (fun i => (Config.freeWord (s.free + i)).setWidth 8)

/-- The state after `n` free values have been drawn. -/
def State.drawnN (s : State) (n : Nat) : State := { s with free := s.free + n }

/-! ## Functions and registers -/

/-- The number of a function: A is 0, B is 1. -/
def fnIdx : Fn → Fin 2
  | .A => 0
  | .B => 1

/-- The other function. -/
def fnOther : Fn → Fn
  | .A => .B
  | .B => .A

/-- BAR0 offsets of registers held once in each function (R572, Table: BAR0 block bases). -/
def perFunction (off : Nat) : Bool :=
  off == 0x0 || off == 0x4 || (0x10 ≤ off && off < 0x18) ||
  (0x90010 ≤ off && off < 0x90020) || off == 0x90024 || (0x90200 ≤ off && off < 0x90600)

/-- Where a register's copy stands in the register file. -/
def regKey (fn : Fn) (off : Nat) : Nat :=
  if perFunction off then (fnIdx fn).val * 2 ^ 20 + off else off

/-- Reset values of the registers a host writes (Table: Host-writable set-up registers); every other register of the file is
a W1C register, whose reset value is zero. -/
def regReset (off : Nat) : BitVec 64 :=
  if off = 0x10000 then 0x64
  else if off = 0x20000 then 0x1
  else if off = 0x20028 then 0x18
  else if off = 0x2002C then 0x64
  else if off = 0x30004 then 0x03E80064
  else if off = 0x40008 then 0x1
  else if off = 0x40020 then 0x700
  else if off = 0x60008 then 0xA01
  else if off = 0x90018 then 0x440
  else if off = 0xA0010 then 0x3C0A
  else if off = 0xB0008 then 0x1
  else if 0x1000 ≤ off ∧ off < 0x2000 ∧ off % 0x40 = 0x20 then 0x80288
  else if 0x31000 ≤ off ∧ off < 0x32400 ∧ off % 0x100 = 0x04 then 0x3
  else 0

/-- The stored value of a register, as function `fn` sees it. -/
def State.reg (s : State) (fn : Fn) (off : Nat) : BitVec 64 := find (regReset off) s.regs (regKey fn off)

/-- Stores a register's value. -/
def State.setReg (s : State) (fn : Fn) (off : Nat) (v : BitVec 64) : State :=
  { s with regs := store (regReset off) s.regs (regKey fn off) v }

/-- A register held once on the module. -/
def State.mreg (s : State) (off : Nat) : Nat := (s.reg .A off).toNat

/-- Hardware sets a bit of a W1C register (R12). -/
def State.setStatus (s : State) (fn : Fn) (off n : Nat) : State :=
  s.setReg fn off (s.reg fn off ||| (1#64 <<< n))

/-- Sets a bit of a W1C register of the module. -/
def State.flag (s : State) (off n : Nat) : State := s.setStatus .A off n

/-! BAR0 offsets (Set-up register map and each block's register map). -/

abbrev hqStatus : Nat := 0x00000
abbrev hqWakeReg : Nat := 0x00004
abbrev hqMaint : Nat := 0x00008
abbrev hqWinCfg : Nat := 0x00010
abbrev cnpTimeoutCfg : Nat := 0x10000
abbrev cnpErr : Nat := 0x10004
abbrev memCtrl : Nat := 0x20000
abbrev memErr : Nat := 0x20008
abbrev memScrubCfg : Nat := 0x20028
abbrev memThrottleCfg : Nat := 0x2002C
abbrev bxModuleId : Nat := 0x30000
abbrev bxTimeoutCfg : Nat := 0x30004
abbrev bxStatus : Nat := 0x30008
abbrev bxFwdIndex : Nat := 0x30040
abbrev pwrErr : Nat := 0x40004
abbrev pwrShedCfg : Nat := 0x40008
abbrev pwrRearm : Nat := 0x4000C
abbrev pwrBudgetCfg : Nat := 0x40020
abbrev leErr : Nat := 0x50004
abbrev leCapIndex : Nat := 0x5000C
abbrev sapErr : Nat := 0x60004
abbrev sapCfg : Nat := 0x60008
abbrev hwdTrip : Nat := 0x70004
abbrev hwdWarn : Nat := 0x70008
abbrev clkErr : Nat := 0x80004
abbrev clkCtrl : Nat := 0x80008
abbrev clkCfg : Nat := 0x8000C
abbrev clkSeal : Nat := 0x80010
abbrev clkSticky : Nat := 0x8001C
abbrev crnErr : Nat := 0x90004
abbrev crnRingBase : Nat := 0x90010
abbrev crnRingCtrl : Nat := 0x90018
abbrev crnKickReg : Nat := 0x9001C
abbrev crnMboxCtrl : Nat := 0x90024
abbrev crnMboxData : Nat := 0x90200
abbrev logErr : Nat := 0xA0004
abbrev logCfg : Nat := 0xA0010
abbrev svcErr : Nat := 0xB0004
abbrev svcCfg : Nat := 0xB0008

/-- Base of queue q's registers (Table: HQ_ register map). -/
def qReg (q : Fin 64) : Nat := 0x1000 + 0x40 * q.val

/-- Base of port p's registers (Table: BX_ register map). -/
def pReg (p : Fin 20) : Nat := 0x31000 + 0x100 * p.val

/-! ## Output -/

/-- The module sends `o` out. -/
def State.emit (s : State) (o : Output) : State := { s with out := s.out ++ [o] }

/-- A function can master the bus: its link is up, Bus Master Enable set, and it is in D0 (R228, R192). -/
def State.canMaster (s : State) (fn : Fn) : Bool :=
  let h := s.host[fnIdx fn]
  h.up && h.bme && !h.d3hot

/-- Signals an MSI-X vector: a message, or its pending bit while the vector or the table is masked (R231). DESIGN CHOICE (log 198): an unmasked
signal of a function that cannot master the bus is dropped. -/
def State.signal (s : State) (fn : Fn) (vec : Nat) : State :=
  let h := s.host[fnIdx fn]
  if h.tableMask || h.msixMask.getLsbD vec then
    { s with host := s.host.set (fnIdx fn) { h with msixPending := h.msixPending ||| (1#128 <<< vec) } }
  else if s.canMaster fn then s.emit (.msix fn vec)
  else s

/-- Signals the event vector, 64, of both functions. -/
def State.signalBoth (s : State) : State := (s.signal .A 64).signal .B 64

/-- A posted write to host memory. -/
def State.hostWrite (s : State) (fn : Fn) (addr : Nat) (bytes : List Byte) (relaxed : Bool) : State :=
  s.emit (.hostWrite fn addr bytes relaxed)

/-! ## Time -/

/-- The module time stamp, 125 times the REF count (R471). -/
def State.time (s : State) : BitVec 64 := s.clk.refCount * 125

/-- CLK_HOURS as a number of 0.1 s units. -/
def State.hours (s : State) : Nat := s.clk.hours.toNat

/-- The times of a list that lie within the last `window` units, with now added. -/
def recent (now window : Nat) (l : List Nat) : List Nat := l.filter (fun t => now < t + window) ++ [now]

/-! ## The ring log -/

/-- One step of a CRC with polynomial `poly` in a register of `n` bits, most significant bit first. -/
def crcBit {n : Nat} (poly c : BitVec n) : BitVec n := if c.msb then (c <<< 1) ^^^ poly else c <<< 1

/-- CRC-8 of a list of bytes, polynomial 0x07, from `c` (R535). -/
def crc8 (c : BitVec 8) : List Byte → BitVec 8
  | [] => c
  | b :: rest =>
    let x := c ^^^ b
    crc8 (crcBit 7 (crcBit 7 (crcBit 7 (crcBit 7 (crcBit 7 (crcBit 7 (crcBit 7 (crcBit 7 x)))))))) rest

/-- CRC-16 with polynomial 0x1021 from `c`, no reflection: Zejor's (R505), and, from 0, the one of XMODEM (PRESUMED, log 213). -/
def crc16 (c : BitVec 16) : List Byte → BitVec 16
  | [] => c
  | b :: rest =>
    let x := c ^^^ (b.setWidth 16 <<< 8)
    crc16 (crcBit 0x1021 (crcBit 0x1021 (crcBit 0x1021 (crcBit 0x1021 (crcBit 0x1021 (crcBit 0x1021 (crcBit 0x1021 (crcBit 0x1021 x)))))))) rest

/-- Body of a record: the repeat block of a repeatable type, the subject and the detail (R537). -/
def LogRec.body (r : LogRec) : List Byte :=
  (if r.repeats then natLe 4 r.count.toNat ++ natLe 4 r.last.toNat else []) ++ natLe 4 r.subject.toNat ++ r.detail

/-- Size of a record in 8-byte units (R535). -/
def LogRec.units (r : LogRec) : Nat := (8 + r.body.length + 7) / 8

/-- Bytes of a record in flash (R535, Table: Record header). -/
def LogRec.bytes (r : LogRec) : List Byte :=
  let u := r.units
  let body := r.body ++ List.replicate (8 * u - 8 - r.body.length) 0
  let front : List Byte := [BitVec.ofNat 8 (0x80 + (u - 1)), r.typ, r.cycle]
  let back := natLe 4 r.hours.toNat ++ body
  front ++ [crc8 0 (front ++ back)] ++ back

/-- Bytes of the buffer in use. -/
def LogState.used (l : LogState) : Nat :=
  (l.opened.map (fun r => 8 * r.units)).sum + (l.closed.map (fun e => 8 * e.what.units)).sum

/-- A closed record whose programming has begun and not ended (R542). -/
def LogState.cut (l : LogState) : Option LogEntry :=
  l.closed.find? (fun e => match e.placed with
    | some p => decide (p < l.flash.length + 8 * e.what.units ∧ l.flash.length < p)
    | none => false)

/-- The append point: the end of the records that have been programmed whole (R536, R547). -/
def LogState.append (l : LogState) : Nat :=
  match l.cut with
  | some e => e.placed.getD 0 - 8 * e.what.units
  | none => l.flash.length

/-- A record cut off in flash is passed over: the next one starts at the end that its header gives (R535; log 211). -/
def LogState.passCut (l : LogState) : LogState :=
  match l.cut with
  | some e => { l with flash := l.flash ++ List.replicate (e.placed.getD 0 - l.flash.length) 0xFF }
  | none => l

/-- Fillers are written at some offsets of the flash (R536). -/
def fillAt (l : List Byte) (at_ : List Nat) : List Byte := at_.foldl (fun (l : List Byte) (p : Nat) => l.set p 0) l

/-- Bytes of closed records that await a flush (R541). -/
def LogState.unplaced (l : LogState) : Nat :=
  ((l.closed.filter (fun e => e.placed.isNone)).map (fun e => 8 * e.what.units)).sum

/-- Size of the partition, 4 MiB (R535). -/
def logSize : Nat := 4194304

/-- Counts `n` dropped records (R540, R547). -/
def LogState.drop (l : LogState) (n : Nat) (cause : BitVec 8) : LogState :=
  if n = 0 then l
  else { l with
    lost := BitVec.ofNat 32 (min (2 ^ 32 - 1) (l.lost.toNat + n))
    lostSince := BitVec.ofNat 32 (min (2 ^ 32 - 1) (l.lostSince.toNat + n))
    lostCause := cause }

/-- The lower of two bus voltages kept in a bus-dip record's detail (R538). -/
def lowerDetail (a b : List Byte) : List Byte := if leNat b < leNat a then b else a

/-- The oldest open record closes and joins the write order (R538–R540). -/
def LogState.closeOldest (l : LogState) (now : BitVec 32) : LogState :=
  match l.opened with
  | [] => l
  | r :: rest => { l with opened := rest, closed := l.closed ++ [{ what := r, entered := now, placed := none }] }

/-- Every open record closes, oldest first (R541). -/
def LogState.closeAll (l : LogState) (now : BitVec 32) : LogState :=
  { l with
    opened := []
    closed := l.closed ++ l.opened.map (fun r => { what := r, entered := now, placed := none }) }

/-- Places unplaced records from byte offset `at_` while they leave the last 16 bytes free: the entries, the bytes to program,
and the entries that did not fit (R541, R543). -/
def placeFrom : List LogEntry → Nat → List LogEntry × List Byte × List LogEntry
  | [], _ => ([], [], [])
  | e :: rest, p =>
    match e.placed with
    | some _ =>
      let (es, bs, left) := placeFrom rest p
      (e :: es, bs, left)
    | none =>
      if p + 8 * e.what.units ≤ logSize - 16 then
        let (es, bs, left) := placeFrom rest (p + 8 * e.what.units)
        ({ e with placed := some (p + 8 * e.what.units) } :: es, e.what.bytes ++ bs, left)
      else ([], [], e :: rest)

/-- The log-full record (R543). -/
def fullRec (cycle : BitVec 8) (hours : BitVec 32) (unused : Nat) : LogRec :=
  { typ := 0x03, cls := .info, repeats := false, cycle := cycle, hours := hours, count := 0, last := 0
    subject := 0, detail := natLe 4 unused }

/-- A flush: every pending closed record is handed to the flash, in order. Where one does not fit, the log-full record takes the last 16 bytes, and
every record that is left, open ones too, is dropped and counted; while programming is suspended, such records wait (R451, R541, R543). A full log takes
what a Crown restart has left unwritten as far as it fits (R544). Nothing is handed over while the flash has failed or is being cleared. -/
def LogState.flush (l : LogState) (cycle : BitVec 8) (hours : BitVec 32) : LogState :=
  let p := l.flash.length + l.program.length
  let r := placeFrom l.closed p
  match l.mode with
  | .recording =>
    if r.2.2.isEmpty then { l with closed := r.1, program := l.program ++ r.2.1 }
    else
      ({ l with
        closed := r.1, opened := [], program := l.program ++ r.2.1, mode := .full, resume := .full
        tail := (fullRec cycle hours (logSize - 16 - (p + r.2.1.length))).bytes } : LogState).drop (r.2.2.length + l.opened.length) 1
  | .suspended => { l with closed := r.1 ++ r.2.2, program := l.program ++ r.2.1 }
  | .full => ({ l with closed := r.1, program := l.program ++ r.2.1 } : LogState).drop r.2.2.length 1
  | _ => l

/-- Crown flushes the buffer, after closing every open record where the flush is forced (R541). -/
def State.flushLog (s : State) (forced : Bool) : State :=
  let l := if forced then { s.log.closeAll s.clk.hours with forced := true } else s.log
  let l' := l.flush (s.clk.cycles.setWidth 8) s.clk.hours
  let s' := { s with log := { l' with forced := l'.forced && decide (0 < l'.used) } }
  let s' := if l'.mode = .full ∧ s.log.mode ≠ .full then s'.flag logErr 3 else s'
  if l'.lost ≠ s.log.lost then s'.flag logErr 1 else s'

/-- The fillers found at the opening of the log are written, unless a brownout warning lasts (R451, R544). -/
def State.writeFillers (s : State) : State :=
  if s.hwd.brownout ∨ s.log.fillers = [] then s
  else ({ s with log := { s.log with flash := fillAt s.log.flash s.log.fillers, fillers := [] } }).flag logErr 4

/-- Whether the buffer has room for a record, and the log takes it: a full log takes none, and one whose flash has failed no fault record (R540,
R543, R546). -/
def LogState.takes (l : LogState) (r : LogRec) : Bool :=
  l.mode ≠ .full && !(l.mode == .flashFailed && r.cls == .fault) && l.used + 8 * r.units ≤ 65536

/-- Cause of a drop: the flash has failed, or the buffer is full (R537; log 211). -/
def LogState.dropCause (l : LogState) : BitVec 8 := if l.mode = .flashFailed then 3 else 1

/-- A record of an event that happens now, with count 1 (R535, R537). -/
def State.newRecord (s : State) (typ : Nat) (cls : LogClass) (repeats : Bool) (subject : Nat) (detail : List Byte) : LogRec :=
  { typ := BitVec.ofNat 8 typ, cls := cls, repeats := repeats, cycle := s.clk.cycles.setWidth 8, hours := s.clk.hours, count := 1, last := s.clk.hours
    subject := BitVec.ofNat 32 subject, detail := detail }

/-- Crown appends a record to the ring log, or counts a repetition of an open one (R538, R540); a fault record forces a flush
(R541). -/
def State.record (s : State) (typ : Nat) (cls : LogClass) (repeats : Bool) (subject : Nat) (detail : List Byte) : State :=
  let t := BitVec.ofNat 8 typ
  let subj := BitVec.ofNat 32 subject
  let now := s.clk.hours
  if repeats ∧ s.log.opened.any (fun r => r.typ = t ∧ r.subject = subj) then
    { s with log := { s.log with opened := s.log.opened.map (fun r =>
        if r.typ = t ∧ r.subject = subj then
          { r with
            count := if r.count = BitVec.allOnes 32 then r.count else r.count + 1
            last := now
            detail := if typ = 0x54 then lowerDetail r.detail detail else r.detail }
        else r) } }
  else
    let r := s.newRecord typ cls repeats subject detail
    if s.log.takes r then
      let l :=
        if repeats then
          let l := if 16 ≤ s.log.opened.length then s.log.closeOldest now else s.log
          { l with opened := l.opened ++ [r] }
        else { s.log with closed := s.log.closed ++ [{ what := r, entered := now, placed := none }] }
      let s' := { s with log := l }
      if cls = .fault then s'.flushLog true else s'
    else ({ s with log := s.log.drop 1 s.log.dropCause }).flag logErr 1

/-- Once room for it has returned, the records-lost record is written (R540). -/
def State.reportLost (s : State) : State :=
  let detail := natLe 4 s.log.lostSince.toNat ++ [s.log.lostCause]
  if s.log.lostSince = 0 ∨ !s.log.takes (s.newRecord 0x04 .warning false 0 detail) then s
  else ({ s with log := { s.log with lostSince := 0 } }).record 0x04 .warning false 0 detail

/-! ## Device memory -/

/-- End of the mapped device addresses (R103). -/
def mappedEnd : Nat := 0x14000000000

/-- Tile-local address of a device address in a view (Table: Address views); none for the reserved selector and for unmapped
addresses (R103–R106). -/
def translate (view : BitVec 2) (a : Nat) : Option Nat :=
  if mappedEnd ≤ a then none
  else if view = 0 then some a
  else if view = 1 then
    let slice := bits a 40 36 * 128 + bits a 18 12
    some (slice * 2 ^ 29 + bits a 35 19 * 4096 + bits a 11 0)
  else if view = 2 then
    let p := a / 4096 % 2560
    let slice := p % 20 * 128 + p / 20
    some (slice * 2 ^ 29 + a / 4096 / 2560 * 4096 + bits a 11 0)
  else none

/-- Slice of a tile-local address. -/
def sliceOf (l : Nat) : Nat := l / 2 ^ 29

/-- Whether `len` bytes from device address `a` are all mapped in the view (R103). -/
def mapped (view : BitVec 2) (a len : Nat) : Bool := view ≠ 3 && a + len ≤ mappedEnd

/-- Bytes of device memory at an address of a view. -/
def devRead (m : Keyed Byte) (view : BitVec 2) (a : Nat) : Nat → List Byte
  | 0 => []
  | n + 1 => find 0 m ((translate view a).getD 0) :: devRead m view (a + 1) n

/-- Stores bytes in device memory at an address of a view; unmapped bytes are not stored. -/
def devWrite (m : Keyed Byte) (view : BitVec 2) (a : Nat) : List Byte → Keyed Byte
  | [] => m
  | b :: rest =>
    match translate view a with
    | some l => devWrite (store 0 m l b) view (a + 1) rest
    | none => devWrite m view (a + 1) rest

/-- Transactions (tile-local address / 64) that `len` bytes from device address `a` touch: the transaction number of each
64-byte run of the address (R107). -/
def transactions (view : BitVec 2) (a len : Nat) : List Nat :=
  if len = 0 then []
  else (List.range ((a + len - 1) / 64 - a / 64 + 1)).filterMap (fun i =>
    (translate view ((a / 64 + i) * 64)).map (fun l => l / 64))

/-- Transactions of an access whose every byte the access covers (R119). -/
def coveredTransactions (view : BitVec 2) (a len : Nat) : List Nat :=
  (List.range ((a + len + 63) / 64 - a / 64)).filterMap (fun i =>
    let t := (a / 64 + i) * 64
    if a ≤ t ∧ t + 64 ≤ a + len then (translate view t).map (fun l => l / 64) else none)

/-- Whether an access reads a transaction with an uncorrectable code (R118). -/
def MemState.meetsBad (m : MemState) (view : BitVec 2) (a len : Nat) : Bool :=
  (transactions view a len).any (fun t => m.bad.contains t)

/-- A write of device memory: the bytes, and a fresh code in every transaction it covers whole (R110, R119). A transaction
that it covers in part and whose code is uncorrectable keeps its code and its bytes (R118). -/
def MemState.write (m : MemState) (view : BitVec 2) (a : Nat) (bytes : List Byte) : MemState :=
  let covered := coveredTransactions view a bytes.length
  let bad := m.bad.filter (fun t => !covered.contains t)
  let keep := (List.zip (List.range bytes.length) bytes).filter (fun e =>
    match translate view (a + e.1) with
    | some l => !bad.contains (l / 64)
    | none => false)
  { m with
    dram := keep.foldl (fun d e => store 0 d ((translate view (a + e.1)).getD 0) e.2) m.dram
    bad := bad }

/-- Writes bytes of device memory. -/
def State.devWrite (s : State) (view : BitVec 2) (a : Nat) (bytes : List Byte) : State :=
  { s with mem := s.mem.write view a bytes }

/-- Reads bytes of device memory. -/
def State.devRead (s : State) (view : BitVec 2) (a len : Nat) : List Byte := Machine.devRead s.mem.dram view a len

/-- The die of a tile or slice has power, so that its channel and its scratchpad answer (R21). -/
def State.homeLive (s : State) (t : Nat) : Bool := s.hwd.dieEn[t / 640]?.getD false

/-- The channel of a slice issues transactions: its die has power and its stack is not in the Stop band (R127). -/
def State.channelOpen (s : State) (t : Nat) : Bool := s.homeLive t && s.mem.band[t / 128]?.getD 0 != 4

/-- Every die that holds a part of an access has power (R21, R125). -/
def State.rangeLive (s : State) (view : BitVec 2) (a len : Nat) : Bool := (transactions view a len).all (fun l => s.homeLive (l / 2 ^ 23))

/-! ## Turns at a controller (R109) -/

/-- Parts of a request: 64-byte transactions of a DMA or a 128-byte access, otherwise one (R107, R169, R170). -/
def MemReq.parts (r : MemReq) : Nat := if r.len ≤ 64 then 1 else r.len / 64

/-- Tile-local address of part k of a device access. -/
def MemReq.partAddr (r : MemReq) (k : Nat) : Nat := (translate r.view (r.addr + 64 * k)).getD 0

/-- The request of a number. -/
def State.reqOf (s : State) (id : Nat) : Option MemReq := s.mem.reqs.find? (fun r => r.id == id)

/-- Tile-local row number of a tile-local address: 2 KiB rows (R102). -/
def dramRow (l : Nat) : Nat := l / 2048

/-- Bank of a tile-local row number: slice × 128 + layer × 16 + bank (R102). -/
def rowBank (row : Nat) : Nat := row / 2 ^ 18 * 128 + row % 128

/-- A transaction, by tile-local address / 64, waits at its controller already. -/
def State.awaited (s : State) (l : Nat) : Bool :=
  s.mem.tracker.any (fun e => match s.reqOf e.req with
    | some r => r.remote.isNone && r.partAddr e.part / 64 == l
    | none => false)

/-- The DRAM row of a part that waits at a controller. -/
def State.rowAt (s : State) (e : Arrived) : Option Nat :=
  match s.reqOf e.req with
  | some r => if r.remote.isNone then some (dramRow (r.partAddr e.part)) else none
  | none => none

/-- The parts that wait for a bank, in order of arrival. -/
def State.atBank (s : State) (bank : Nat) : List Arrived :=
  s.mem.tracker.filter (fun e => match s.rowAt e with
    | some row => rowBank row == bank
    | none => false)

/-- A controller may serve an access from elsewhere to a transaction now (R109, R115): no part that waits there names the same transaction, none for
its bank has been passed by 16 younger ones, and none hits the open row of the bank while the access does not. -/
def State.visitTurn (s : State) (l : Nat) : Bool :=
  let row := dramRow (l * 64)
  let queue := s.atBank (rowBank row)
  !s.awaited l && queue.all (fun e => decide (e.passed < 16)) &&
    s.mem.openRow.all (fun o => o.1 != rowBank row || o.2 == row || queue.all (fun e => s.rowAt e != some o.2))

/-- A controller has served an access from elsewhere: its row is the open row of its bank, and what waits for the bank has been passed (R109). -/
def State.visited (s : State) (l : Nat) : State :=
  let row := dramRow (l * 64)
  { s with mem := { s.mem with
    openRow := insert s.mem.openRow (rowBank row) row
    tracker := s.mem.tracker.map (fun e => match s.rowAt e with
      | some w => if rowBank w = rowBank row then { e with passed := e.passed + 1 } else e
      | none => e) } }

/-- The controllers of an access's transactions serve it. -/
def State.visit (s : State) (view : BitVec 2) (a len : Nat) : State := (transactions view a len).foldl State.visited s

/-- The controllers may serve some transactions one after another: it is the turn of each once those before it have been served (R109). -/
def State.visitTurns (s : State) : List Nat → Bool
  | [] => true
  | l :: rest => s.visitTurn l && (s.visited l).visitTurns rest

/-- Memory serves some transactions of Crown's: for each of them the channel of its slice issues, and it is their turn (R109, R127). -/
def State.serves (s : State) (ts : List Nat) : Bool := ts.all (fun l => s.channelOpen (l / 2 ^ 23)) && s.visitTurns ts

/-- Memory serves an access of Crown's to a range of addresses. -/
def State.rangeOpen (s : State) (view : BitVec 2) (a len : Nat) : Bool := s.serves (transactions view a len)

/-! ## Reports to both hosts -/

/-- Log2 sizes, base and view of a function's ring (Table: CRN_RING_CTRL fields, Table: CRN_RING_BASE fields). -/
def State.ringBase (s : State) (fn : Fn) : Nat := bits (s.reg fn crnRingBase).toNat 40 12 * 4096
def State.ringView (s : State) (fn : Fn) : BitVec 2 := (s.reg fn crnRingBase).setWidth 2
def State.reqLog2 (s : State) (fn : Fn) : Nat := bits (s.reg fn crnRingCtrl).toNat 7 4
def State.rspLog2 (s : State) (fn : Fn) : Nat := bits (s.reg fn crnRingCtrl).toNat 11 8

/-- Vector 65 is signalled, at most once per 100 µs for each function: a signal that comes too soon is owed (R499). -/
def State.signalRing (s : State) (fn : Fn) : State :=
  let r := s.rings[fnIdx fn]
  let soon : Bool := match r.signalled with
    | some t => decide (s.clk.us < t + 100)
    | none => false
  if soon then { s with rings := s.rings.set (fnIdx fn) { r with owed := true } }
  else ({ s with rings := s.rings.set (fnIdx fn) { r with signalled := some s.clk.us, owed := false } }).signal fn 65

/-- Where the next response of a function's ring goes (R493). -/
def State.rspSlot (s : State) (fn : Fn) : Nat :=
  s.ringBase fn + 4096 + 256 * 2 ^ s.reqLog2 fn + 256 * (s.rings[fnIdx fn].rspProd.toNat % 2 ^ s.rspLog2 fn)

/-- The transactions of a ring's control block and of its next response slot. -/
def State.ringSpan (s : State) (fn : Fn) : List Nat :=
  transactions (s.ringView fn) (s.ringBase fn) 64 ++ transactions (s.ringView fn) (s.rspSlot fn) 256

/-- Writes one 256-byte slot of a running response ring and moves rsp_prod past it (R493, R495); none where the ring is full or where its control
block or the slot is not served or cannot be read (R118, R127; log 196). -/
def State.ringPut (s : State) (fn : Fn) (msg : List Byte) : Option State :=
  let r := s.rings[fnIdx fn]
  let base := s.ringBase fn
  let view := s.ringView fn
  let cons := BitVec.ofNat 32 (leNat (s.devRead view (base + 20) 4))
  let slot := s.rspSlot fn
  if !s.serves (s.ringSpan fn) ∨ s.mem.meetsBad view base 64 ∨ 2 ^ s.rspLog2 fn ≤ (r.rspProd - cons).toNat then none
  else
    let s := (s.visit view base 64).visit view slot 256
    let s := s.devWrite view slot (msg ++ List.replicate (256 - msg.length) 0)
    let s := s.devWrite view (base + 16) (natLe 4 (r.rspProd + 1).toNat)
    some { s with rings := s.rings.set (fnIdx fn) { r with rspProd := r.rspProd + 1 } }

/-- Header of a message (R496, Table: Message header). -/
def msgHeader (flags mtype length status seq : Nat) : List Byte :=
  [2, BitVec.ofNat 8 flags] ++ natLe 2 mtype ++ natLe 2 length ++ natLe 2 status ++ natLe 4 seq ++ natLe 4 0

/-- One more event of a ring is lost: dropped and counted (R499). -/
def State.loseEvent (s : State) (fn : Fn) : State :=
  let r := s.rings[fnIdx fn]
  { s with rings := s.rings.set (fnIdx fn) { r with eventsLost := r.eventsLost + 1 } }

/-- An event goes into a ring whose control block memory serves and whose code is sound, or is dropped and counted where the ring is full (R499). -/
def State.putEvent (s : State) (fn : Fn) (msg : List Byte) : State :=
  match s.ringPut fn msg with
  | some s' => s'.signalRing fn
  | none =>
    (s.devWrite (s.ringView fn) (s.ringBase fn + 24) (natLe 4 (s.rings[fnIdx fn].eventsLost + 1).toNat)).loseEvent fn

/-- An event, with its 2-byte type and its body, joins a running ring, or is dropped and counted where the ring is full (R496, R499). While memory does
not serve the ring the event waits, and later ones behind it (R109, R127); where the ring lies on a die without power it is lost (log 196). -/
def State.ringEvent (s : State) (fn : Fn) (mtype : Nat) (body : List Byte) : State :=
  let r := s.rings[fnIdx fn]
  let msg := msgHeader 2 mtype body.length 0 r.eventSeq.toNat ++ body
  let set (k : Ring) : State := { s with rings := s.rings.set (fnIdx fn) { k with eventSeq := r.eventSeq + 1 } }
  if !(s.ringSpan fn).all (fun l => s.homeLive (l / 2 ^ 23)) then (set r).loseEvent fn
  else if !r.due.isEmpty ∨ !s.serves (s.ringSpan fn) ∨ s.mem.meetsBad (s.ringView fn) (s.ringBase fn) 64 then set { r with due := r.due ++ [msg] }
  else (set r).putEvent fn msg

/-- A function's ring runs and device memory is there to hold it: in Stage 3 and while the module quiesces (R493, R499, R501). -/
def State.ringUp (s : State) (fn : Fn) : Bool := decide (s.rings[fnIdx fn].mode = .running ∧ (s.stage = .stage3 ∨ s.stage = .quiescing))

/-- One function's copy of a report (R499). The layout of an event's 12-byte detail is stated nowhere: what the report calls for stands first
(log 155), and the rest are free values (log 12). -/
def State.reportTo (s : State) (code index : Nat) (detail : List Byte) (fn : Fn) : State :=
  let r := s.rings[fnIdx fn]
  let n := 12 - detail.length
  if s.ringUp fn then (s.drawnN n).ringEvent fn 0x8000 (natLe 2 code ++ natLe 2 index ++ detail ++ s.freeBytes n)
  else
    let held := r.held ++ [(code, index, detail)]
    { s with rings := s.rings.set (fnIdx fn) { r with held := held.drop (held.length - 8) } }

/-- Crown sends a report with a detail to both hosts (R499, Table: Module reports); a failure is told to the rack managers too (R506). -/
def State.reportWith (s : State) (code index : Nat) (detail : List Byte) : State :=
  let s := { s with crown := { s.crown with reported := s.crown.reported || code == 2 } }
  (s.reportTo code index detail .A).reportTo code index detail .B

/-- A report whose detail nothing is called for. -/
def State.report (s : State) (code index : Nat) : State := s.reportWith code index []

/-- Detail of a report of a committed copy: step, bank, and whether there is one (R290, R299; log 155). -/
def copyDetail (c : Option (BitVec 64 × BitVec 8)) : List Byte :=
  match c with
  | some (step, bank) => natLe 8 step.toNat ++ [bank, 1]
  | none => List.replicate 10 0

/-! ## Tiles -/

/-- A thread as it stands outside a launch (R44, R48). -/
def Thread.idle : Thread :=
  { pc := 0, s := Vector.replicate 32 0, v := Vector.replicate 16 0, f := 0, m := Vector.replicate 4 0, rng := 0
    state := .idle, prio := false, cause := 0, stall := none, wait := none, passed := 0, boosted := false, started := false }

/-- A tile with nothing run on it. -/
def Tile.fresh : Tile :=
  { threads := Vector.replicate 16 Thread.idle, pad := [], padBad := [], padCe := 0, padCeLast := 0, padUeLast := 0
    padCeTimes := [], icacheValid := false, icacheEvents := 0, acc := Vector.replicate 4 [], matrix := none
    lastIssued := 15, fenced := false, retireCause := 0, marching := false, marchDue := false }

/-- A tile by its linear number (R37). -/
def State.tile (s : State) (t : Nat) : Tile := find Tile.fresh s.tiles t

/-- Replaces a tile. -/
def State.setTile (s : State) (t : Nat) (x : Tile) : State := { s with tiles := insert s.tiles t x }

/-- Die of a linear tile or slice number (R37, R100). -/
def dieOf (t : Nat) : Nat := t / 640

/-- Stack region 5d + g of a linear tile number, which is the number of the stack beneath it (R100, R101). -/
def regionOf (t : Nat) : Nat := t / 128

/-- Row number die × 20 + region × 4 + row of a linear tile number. -/
def rowOf (t : Nat) : Nat := t / 32

/-- Logical column of a linear tile number. -/
def columnOf (t : Nat) : Nat := t % 32

/-- Logical tile identifier of a linear tile number (R36, R37). -/
def tileIdent (t : Nat) : Nat := t / 640 * 1024 + t % 640

/-- The module holds at the end of Stage 1, whose firmware runs and whose monitor is awake or has failed to wake (R459, R563). -/
def State.atHold (s : State) : Bool := s.svc.held && decide (s.stage = .stage1) && s.start.ran && s.start.monitorDone

/-- Linear tile number of a logical tile identifier; none where it names no tile (R36–R38). -/
def tileOfIdent (i : Nat) : Option Nat :=
  if 5 ≤ bits i 9 7 then none else some (bits i 11 10 * 640 + i % 1024)

/-! ## On-chip memories -/

/-- An on-chip memory meets an error: a correctable one is corrected and counted, and Crown writes an SRAM-error record that
names the memory, by its row of Table: On-chip SRAMs, and its instance (R522). -/
def State.sramError (s : State) (row inst : Nat) (e : SramErr) : State :=
  let key := row * 4096 + inst
  match e.kind with
  | .none => s
  | .correctable =>
    ({ s with sram := { s.sram with ce := insert s.sram.ce key (find 0 s.sram.ce key + 1) } }).record 0x80 .warning true key
      (natLe 2 e.bank.toNat ++ natLe 2 e.row.toNat)
  | _ => s.record 0x80 .warning true key (natLe 2 e.bank.toNat ++ natLe 2 e.row.toNat)

/-- The error leaves data that cannot be used. -/
def fatalSram (e : SramErr) : Bool := decide (e.kind = .uncorrectable ∨ e.kind = .persistent)

/-! ## Retirement of tiles -/

/-- Whether a row's spare can still take a retired tile (R66, R69). -/
def Retirement.spareFree (r : Retirement) (row : Nat) : Bool :=
  !(r.map.any (fun e => e.1 == row)) && !r.spareBad.contains row && !(r.pending.any (fun t => rowOf t == row))

/-- A marked tile has no usable spare: it stays fenced, and Crown reports its region as degraded and writes a replace-module record (R69). -/
def State.strand (s : State) (t : Nat) : State :=
  let s := { s with retire := { s.retire with
    pending := s.retire.pending.filter (fun u => u != t), stuck := addNat s.retire.stuck t } }
  (s.report 0x0001 (0x3000 + regionOf t)).record 0x12 .fault false (regionOf t) [1]

/-- Crown marks a tile for retirement and fences it at once (R64, R65); without a usable spare it stays fenced. Of two tiles of a row that are marked
before one remap point, the one marked first is given the row's spare (R69; log 209). -/
def State.markRetire (s : State) (t cause : Nat) : State :=
  if (s.tile t).retireCause ≠ 0 then s
  else
    let free := s.retire.spareFree (rowOf t)
    let s := s.setTile t { s.tile t with fenced := true, retireCause := cause }
    let s := s.record 0x11 .warning false (tileIdent t) [BitVec.ofNat 8 cause]
    if free then { s with retire := { s.retire with pending := addNat s.retire.pending t } }
    else s.strand t

/-! ## Queues -/

/-- Code of a queue state (Table: Queue states). -/
def queueCode : QueueState → Nat
  | .disabled => 0
  | .enabled => 1
  | .draining => 2
  | .aborting => 3
  | .error => 4

/-- Replaces a queue. -/
def State.setQueue (s : State) (q : Fin 64) (x : Queue) : State := { s with queues := s.queues.set q x }

/-- The status word (Table: Doorbell and status words). -/
def Queue.statusWord (x : Queue) : Nat := queueCode x.state * 2 ^ 32 + x.fetched.toNat

/-- Writes the status word to the owner's memory, where the owner can be reached (R198, R227). -/
def State.writeStatus (s : State) (q : Fin 64) : State :=
  let x := s.queues[q]
  match x.owner with
  | some fn =>
    if s.canMaster fn then
      s.hostWrite fn (bits (s.reg fn (qReg q + 0x18)).toNat 63 3 * 8) (natLe 8 x.statusWord) false
    else s
  | none => s

/-- A completion with a status alone. -/
def plain (status : Nat) : Completion :=
  { status := BitVec.ofNat 16 status, overlap := false, faultCount := 0, detail0 := 0, detail1 := 0 }

/-- A field of a descriptor: `size` bytes at a byte offset (R207). -/
def dfield (d : BitVec 512) (off size : Nat) : Nat := bits d.toNat (8 * (off + size) - 1) (8 * off)

/-- How a WAIT on a queue ends at present: with OK where the count has been reached, with WAIT_BROKEN where the queue is
DISABLED or in ERROR; none while it goes on (R215). -/
def waitOutcome (target : Queue) (count : Nat) : Option Completion :=
  if (target.done - BitVec.ofNat 32 count).toNat < 2 ^ 31 then some (plain 0)
  else match target.state with
    | .disabled => some (plain 0xC)
    | .error => some (plain 0xC)
    | _ => none

/-- A queue whose running WAIT can end ends it (R215). -/
def Queue.settleWait (qs : Vector Queue 64) (x : Queue) : Queue :=
  match x.inflight with
  | d :: rest =>
    if d.phase = .running ∧ dfield d.desc 0 1 = 4 then
      match waitOutcome (qs[dfield d.desc 8 2]?.getD x) (dfield d.desc 12 4) with
      | some c => { x with inflight := { d with phase := .ended c } :: rest }
      | none => x
    else x
  | [] => x

/-- Every running WAIT is looked at again (R215). -/
def State.settleWaits (s : State) : State := { s with queues := s.queues.map (Queue.settleWait s.queues) }

/-- A queue changes state: the status word is written at once, with the present fetched count (R198). -/
def State.setQueueState (s : State) (q : Fin 64) (st : QueueState) : State :=
  ((s.setQueue q { s.queues[q] with state := st, statusOwed := false }).writeStatus q).settleWaits

/-- A queue enters ERROR with a cause, and the event vector of its owner is signalled (R229). -/
def State.queueError (s : State) (q : Fin 64) (cause : BitVec 4) : State :=
  let s := s.setQueue q { s.queues[q] with cause := cause, polling := 0, reading := 0 }
  let s := s.setQueueState q .error
  match s.queues[q].owner with
  | some fn => s.signal fn 64
  | none => s

/-- The oldest fetched descriptor of a queue ends (R200); a descriptor that has ended already keeps its outcome. -/
def State.complete (s : State) (q : Fin 64) (c : Completion) : State :=
  let x := s.queues[q]
  match x.inflight with
  | [] => s
  | d :: rest =>
    match d.phase with
    | .ended _ => s
    | _ => s.setQueue q { x with inflight := { d with phase := .ended c } :: rest }

/-- Every fetched descriptor of a queue ends with one status, one that has ended without a record too (R225, R229; log 128). -/
def Queue.endAll (x : Queue) (c : Completion) : Queue :=
  { x with inflight := x.inflight.map (fun d => { d with phase := .ended c }) }

/-! ## The end of launches -/

/-- Whether a launch includes a tile. -/
def Launch.has (l : Launch) (t : Nat) : Bool := decide (l.first ≤ t ∧ t < l.first + l.count)

/-- Every thread of a tile is IDLE (R45); where the launch was aborted the matrix unit stops. A destructive march that waited for
the tile begins, and fences it (R527). -/
def Tile.quiet (x : Tile) (aborted : Bool) : Tile :=
  { x with
    threads := x.threads.map (fun y => { y with state := .idle, stall := none, wait := none, started := false })
    matrix := if aborted then none else x.matrix
    fenced := x.fenced || x.marchDue
    marching := x.marching || x.marchDue
    marchDue := false }

/-- Whether a waiting launch's tiles are free: no launch prepared or running holds one of them (R200). -/
def HostEngine.tilesFree (h : HostEngine) (l : Launch) : Bool :=
  h.launches.all (fun k => decide (k.phase = .waiting) || decide (k.first + k.count ≤ l.first ∨ l.first + l.count ≤ k.first))

/-- The queues in round-robin order after one that was served last (R201). -/
def turnsAfter (last : Fin 64) : List (Fin 64) :=
  (List.finRange 64).filter (fun q => decide (last < q)) ++ (List.finRange 64).filter (fun q => decide (q ≤ last))

/-- The order in which waiting launches become ready to start, brought up to date; those that become ready together follow in round-robin
order (R200, R201). -/
def HostEngine.noteReady (h : HostEngine) : HostEngine :=
  let free := (h.launches.filter (fun l => decide (l.phase = .waiting) && h.tilesFree l)).map (fun l => l.q)
  let kept := h.ready.filter (fun q => free.contains q)
  { h with ready := kept ++ (turnsAfter h.lastStart).filter (fun q => free.contains q && !kept.contains q) }

/-- A tile is a launch's own from its preparation on; while the launch waits, its tiles may run another's threads (R44, R200). -/
def Launch.holds (l : Launch) (t : Nat) : Bool := decide (l.phase ≠ .waiting) && l.has t

/-- A launch ends or is aborted: every thread of the tiles that it holds enters IDLE, and responses still outstanding will be discarded
(R45, R62, R157, R186). -/
def State.endLaunch (s : State) (l : Launch) (aborted : Bool) : State :=
  { s with
    tiles := s.tiles.map (fun e => if l.holds e.1 then (e.1, e.2.quiet aborted) else e)
    mem := { s.mem with reqs := s.mem.reqs.map (fun r => if l.holds r.tile then { r with orphan := true } else r) }
    hq := ({ s.hq with launches := s.hq.launches.filter (fun k => decide (k.q ≠ l.q)) } : HostEngine).noteReady }

/-- The launch of a queue is aborted, whatever its phase (R62, R225). -/
def State.abortLaunch (s : State) (q : Fin 64) : State :=
  match s.hq.launches.find? (fun l => decide (l.q = q)) with
  | some l => s.endLaunch l true
  | none => s

/-- A Berux request belongs to the collective of queue q. -/
def OutFor.isColl (o : OutFor) (q : Fin 64) : Bool :=
  match o with
  | .coll k _ => k == q
  | _ => false

/-- A Berux request belongs to a copy of a step boundary. -/
def OutFor.isTwin : OutFor → Bool
  | .twin _ _ => true
  | _ => false

/-- Berux requests that have no response yet will end with nobody to tell, where they are of a kind. -/
def State.orphans (s : State) (is : OutFor → Bool) : State :=
  { s with ports := s.ports.map (fun (x : Port) => { x with
      out := x.out.map (fun (r : OutReq) => if is r.purpose then { r with purpose := .gone } else r) }) }

/-- A WRITE or COMMIT of this module that waits on the first request channel and has not begun to leave. -/
def TxTrans.ofCopy (t : TxTrans) : Bool :=
  match t.slots with
  | h :: _ => !t.started && (leNat (h.take 1) == 2 || (leNat (h.take 1) == 5 && leNat ((h.drop 7).take 1) == 4))
  | [] => false

/-- What a copy has given to port 19 and has not begun to leave is taken back (R225, R297): a copy's requests alone are WRITEs and COMMITs of
this module. -/
def State.cutCopy (s : State) : State :=
  let x := s.ports[(19 : Fin 20)]
  let cut := x.tx[(0 : Fin 6)].filter TxTrans.ofCopy
  let tags := cut.flatMap (fun t => (t.slots.take 1).map (fun h => leNat ((h.drop 8).take 2)))
  { s with
    ports := s.ports.set 19 { x with
      tx := x.tx.set 0 (x.tx[(0 : Fin 6)].filter (fun t => !t.ofCopy))
      out := x.out.filter (fun r => !(r.purpose.isTwin && tags.contains r.tag.toNat)) }
    fleet := { s.fleet with twin := s.fleet.twin.map (fun (t : TwinCopy) => { t with open_ := t.open_ - cut.length }) } }

/-- The step-boundary copy of a queue that is forced ends once its current transfer does: what has left is answered (R225). -/
def State.stopCopy (s : State) (q : Fin 64) : State :=
  if s.fleet.twin.any (fun t => t.q == q) then
    let s := s.cutCopy
    { s with fleet := { s.fleet with twin :=
        (s.fleet.twin.filter (fun t => t.open_ != 0)).map (fun (t : TwinCopy) => { t with stopping := true }) } }
  else s

/-- Everything a queue runs stops: its launch is aborted, its collective ends, its step-boundary copy stops, and every fetched descriptor ends
with one completion (R225, R229). -/
def State.endWork (s : State) (q : Fin 64) (c : Completion) : State :=
  let s := ((s.abortLaunch q).orphans (fun o => o.isColl q)).stopCopy q
  let s := { s with fleet := { s.fleet with collectives := s.fleet.collectives.filter (fun k => decide (k.q ≠ q)) } }
  s.setQueue q (s.queues[q].endAll c)

/-! ## Loss of a part -/

/-- A queue's part in the failure of a die, a stack or the Canopy (R229): its work ends with DEVICE_FAILED, and one that runs enters ERROR with
cause device_failed, which is signalled on both functions; one in ERROR takes the cause. The work of an ABORTING queue has ended, and a
DISABLED or ABORTING queue keeps its state (R222, R225; log 29). -/
def State.failQueue (s : State) (q : Fin 64) : State :=
  match s.queues[q].state with
  | .disabled => s
  | .aborting => s
  | .error =>
    let s := s.endWork q (plain 0xD)
    s.setQueue q { s.queues[q] with cause := 5 }
  | _ =>
    let s := s.endWork q (plain 0xD)
    ((s.setQueue q { s.queues[q] with cause := 5, polling := 0, reading := 0 }).setQueueState q .error).signalBoth

/-- The failure of a die, a stack or the Canopy, for every queue (R229). -/
def State.failQueues (s : State) : State := (List.finRange 64).foldl State.failQueue s

/-- Heartwood removes a rail's enable (R353, R477): the rail stops; a latch and a crowbar stay. -/
def Rail.remove (x : Rail) : Rail :=
  { x with
    enabled := false
    state := match x.state with
      | .latched => .latched
      | .crowbarred => .crowbarred
      | _ => .off
    armed := false, shed := 0, shedTo := none, leaving := 0, goingDown := false, current := 0 }

/-- Replaces a rail. -/
def State.setRail (s : State) (r : Fin 11) (x : Rail) : State := { s with power := { s.power with rails := s.power.rails.set r x } }

/-- Rail number of VCORE_d and of VLINK_d (R583). -/
def coreRail (d : Fin 4) : Fin 11 := ⟨d.val, by omega⟩
def linkRail (d : Fin 4) : Fin 11 := ⟨5 + d.val, by omega⟩

/-- The die of a router input's router: inputs are numbered (66 Y + X) × 8 + port (R133). -/
def inputDie (k : Nat) : Nat := k / 8 % 66 / 33 + 2 * (k / 8 / 66 / 20)

/-- Heartwood removes a die's power enable, in the power-down order: its root PLL stops and its clocks are gated, VCORE_d goes, and
VLINK_d follows once VCORE_d has discharged (R21, R444, R473, R477). The request flits in its routers, and those whose route passes it, are
lost (R153). -/
def State.dieOff (s : State) (d : Fin 4) : State :=
  let s := { s with
    canopy := { s.canopy with flits := s.canopy.flits.filter (fun f => (f.here :: f.ahead).all (fun k => inputDie k != d.val)) }
    hwd := { s.hwd with dieEn := s.hwd.dieEn.set d false }
    clk := { s.clk with pll := s.clk.pll.set d false, div := s.clk.div.set d 0 } }
  let s := s.setRail (coreRail d) s.power.rails[coreRail d].remove
  s.setRail (linkRail d) { s.power.rails[linkRail d] with goingDown := true }

/-- A compute die is lost: its enable is removed, the module stops fetching descriptors, and the failure is reported to both
hosts and ends every queue's work (R21, R229, R580). -/
def State.loseDie (s : State) (d : Fin 4) : State :=
  let s := s.dieOff d
  let s := { s with hq := { s.hq with stopped := true } }
  (s.report 0x0002 (0x1000 + d.val)).failQueues

/-- A stack fails, with the die above it (R124, R21). -/
def State.failStack (s : State) (st : Fin 20) : State :=
  if s.mem.failedStacks.getLsbD st then s
  else
    let s := { s with mem := { s.mem with failedStacks := s.mem.failedStacks ||| (1#32 <<< st.val) } }
    let s := s.flag memErr 3
    let s := s.record 0x12 .fault false st.val [3]
    (s.report 0x0002 (0x2000 + st.val)).loseDie ⟨st.val / 5, by omega⟩

/-- A stack fails, by number. -/
def State.failStackAt (s : State) (st : Nat) : State := if h : st < 20 then s.failStack ⟨st, h⟩ else s

/-! ## Errors of device memory -/

/-- Crown marks a row for repair; where its bank has no spare left the row stays in service, its stack is degraded, and that is reported and
recorded for each such row, once, and after a power-on again for the first one of its stack (R121, R123; log 171). -/
def State.markRow (s : State) (row : Nat) : State :=
  if s.mem.repairs.contains row ∨ (s.mem.noSpare.contains row ∧ s.mem.degradedStacks.getLsbD (row / 2 ^ 18 / 128)) then s
  else
    let bank := rowBank row
    let slice := row / 2 ^ 18
    let inUse := find 0 s.mem.sparesUsed bank + (s.mem.repairs.filter (fun r => rowBank r == bank)).length
    if inUse < 8 then
      let s := { s with mem := { s.mem with repairs := addNat s.mem.repairs row } }
      (s.flag memErr 2).record 0x14 .warning false slice (natLe 4 (row % 2 ^ 18 * 2048))
    else
      let st := slice / 128
      let s := { s with mem := { s.mem with
        noSpare := addNat s.mem.noSpare row, degradedStacks := s.mem.degradedStacks ||| (1#32 <<< st) } }
      (s.report 0x0001 (0x2000 + st)).record 0x12 .fault false st [2]

/-- A correctable error at a tile-local address (R117, R121): counted for the slice and the module, and its row marked for
repair at the eighth within 24 h of operation. -/
def State.dramCorrect (s : State) (l : Nat) : State :=
  let slice := sliceOf l
  let row := dramRow l
  let times := recent s.hours 864000 (find [] s.mem.rowCeTimes row)
  let s := { s with mem := { s.mem with
    sliceCe := insert s.mem.sliceCe slice (find 0 s.mem.sliceCe slice + 1)
    sliceCeLast := insert s.mem.sliceCeLast slice (l % 2 ^ 29)
    ceTotal := s.mem.ceTotal + 1
    rowCeTimes := insert s.mem.rowCeTimes row times } }
  let s := s.flag memErr 0
  if 8 ≤ times.length then s.markRow row else s

/-- Slices of a stack with an uncorrectable error within the last hour of operation (R124). -/
def MemState.badSlices (m : MemState) (now st : Nat) : Nat :=
  (m.sliceUeTimes.filter (fun e => e.1 / 128 == st && e.2.any (fun t => decide (now < t + 36000)))).length

/-- A stack in whose slices uncorrectable errors have spread past 8 within 1 h fails (R124). -/
def State.failIfSpread (s : State) (st : Nat) : State :=
  if 8 < s.mem.badSlices s.hours st then s.failStackAt st else s

/-- An uncorrectable error at a tile-local address: recorded, counted, and the stack failed where it is the ninth slice of its
stack within 1 h (R118, R124). -/
def State.dramUncorrectable (s : State) (l : Nat) : State :=
  let slice := sliceOf l
  let times := recent s.hours 36000 (find [] s.mem.sliceUeTimes slice)
  let s := { s with mem := { s.mem with
    ueTotal := s.mem.ueTotal + 1
    ueAddr := BitVec.ofNat 64 (l % 2 ^ 41)
    sliceUeTimes := insert s.mem.sliceUeTimes slice times } }
  ((s.flag memErr 1).record 0x13 .fault false slice (natLe 4 (l % 2 ^ 29))).failIfSpread (slice / 128)

/-- The code symbol of a channel bit: two adjacent bits over the four beats, data symbols 0–63 and check symbols 64–71 (R116). -/
def symbolOf (b : Fin 144) : Nat := b.val / 2

/-- How many symbols an error touches (R116). -/
def errSymbols (e : DramErr) : Nat := (List.range 72).countP (fun k => e.flips.any (fun f => symbolOf f.2 == k))

/-- A transaction is found uncorrectable; where it stays so once rewritten and read back, its row is marked for repair (R118, R121). -/
def State.dramFound (s : State) (l : Nat) (persists : Bool) : State :=
  let s := { s with mem := { s.mem with bad := addNat s.mem.bad (l / 64) } }
  if persists then s.markRow (dramRow l) else s

/-- What a code check finds in the transaction of a tile-local address beyond what the state holds (R116–R118, R121): 1 to 3 wrong symbols
are corrected, where the transaction is not uncorrectable already, 4 or 5 are detected, and 6 or more may escape. Whether they do is a free value, and the data that then stand in the transaction
are free bytes (log 172). -/
def State.dramEvent (s : State) (l : Nat) (err : DramErr) : State :=
  if errSymbols err = 0 then s
  else if errSymbols err ≤ 3 then (if s.mem.bad.contains (l / 64) then s else s.dramCorrect l)
  else if errSymbols err ≤ 5 then s.dramFound l err.persists
  else if bit s.fresh.toNat 0 then s.drawn.dramFound l err.persists
  else (s.drawn.drawnN 64).devWrite 0 (l / 64 * 64) (s.drawn.freeBytes 64)

/-- The check of a read of the transaction of a tile-local address: what was found is recorded; true where the data are
uncorrectable (R117, R118). -/
def State.dramCheck (s : State) (l : Nat) (err : DramErr) : State × Bool :=
  let s := s.dramEvent l err
  if s.mem.bad.contains (l / 64) then (s.dramUncorrectable l, true) else (s, false)

/-- New errors that an access meets, each in one of the transactions that it reads (R116, R117). -/
def State.meetErrs (s : State) (ts : List Nat) (errs : DramErrs) : State :=
  errs.foldl (fun s e => match ts[e.1]? with
    | some t => s.dramEvent (t * 64) e.2
    | none => s) s

/-- An access that reads several transactions: new errors are taken in, and every uncorrectable one that the access meets is recorded; true
where there was one (R117, R118). -/
def State.devCheck (s : State) (view : BitVec 2) (a len : Nat) (errs : DramErrs) : State × Bool :=
  let ts := transactions view a len
  ts.foldl (fun acc t =>
    if acc.1.mem.bad.contains t then (acc.1.dramUncorrectable (t * 64), true) else acc) (s.meetErrs ts errs, false)

/-- Up to n of the events that wait for a ring's memory are written, oldest first, once that serves them; an event whose control block turns out
uncorrectable is lost, and the error is recorded (R118, R499; log 196). -/
def State.drainEvents (s : State) (fn : Fn) : Nat → State
  | 0 => s
  | n + 1 =>
    let r := s.rings[fnIdx fn]
    match r.due with
    | [] => s
    | m :: rest =>
      let took : State := { s with rings := s.rings.set (fnIdx fn) { r with due := rest } }
      if !s.ringUp fn then s
      else if !(s.ringSpan fn).all (fun l => s.homeLive (l / 2 ^ 23)) then (took.loseEvent fn).drainEvents fn n
      else if !s.serves (s.ringSpan fn) then s
      else
        let c := (took.visit (s.ringView fn) (s.ringBase fn) 64).devCheck (s.ringView fn) (s.ringBase fn) 64 []
        (if c.2 then c.1.loseEvent fn else c.1.putEvent fn m).drainEvents fn n

/-- The events that wait for a ring's memory go as far as that serves them. -/
def State.flushEvents (s : State) (fn : Fn) : State := s.drainEvents fn s.rings[fnIdx fn].due.length

end Sys2Proof.Machine
end

