-- ==== Sys2Proof/Machine/Operands.lean ====
section
/-! DEFINITION. Operand forms of the tile instructions: register files, the mod byte, immediates, scratchpad, device and tile
addresses, vector lanes and masks (R161–R168). -/

namespace Sys2Proof.Machine

open Sys2Proof

/-! ## Registers -/

/-- Scalar register r of a thread; s0 reads as zero (R43). -/
def Thread.readS (x : Thread) (r : BitVec 5) : Word := if r = 0 then 0 else x.s[r.toFin]

/-- Writes scalar register r; a write to s0 is discarded (R43). -/
def Thread.writeS (x : Thread) (r : BitVec 5) (v : Word) : Thread :=
  if r = 0 then x else { x with s := x.s.set r.toFin v }

/-- The vector register a 5-bit field names; none above 15 (R162). -/
def vecReg (r : BitVec 5) : Option (Fin 16) := if h : r.toNat < 16 then some ⟨r.toNat, h⟩ else none

/-- The mask register a 5-bit field names; none above 3 (R162). -/
def maskReg (r : BitVec 5) : Option (Fin 4) := if h : r.toNat < 4 then some ⟨r.toNat, h⟩ else none

/-- The flag a 5-bit field names in [2:0]; none where the bits above are not zero, which names no flag (R162). -/
def flagReg (r : BitVec 5) : Option (Fin 8) := if h : r.toNat < 8 then some ⟨r.toNat, h⟩ else none

/-- Flag k. -/
def Thread.flag (x : Thread) (k : Nat) : Bool := x.f.getLsbD k

/-- Writes flag k. -/
def Thread.setFlag (x : Thread) (k : Nat) (b : Bool) : Thread :=
  { x with f := if b then x.f ||| (1#8 <<< k) else x.f &&& ~~~(1#8 <<< k) }

/-! ## The mod byte (R163) -/

/-- [7:6]: the rounding field (R90). -/
def modRound (md : BitVec 8) : BitVec 2 := md.extractLsb 7 6
/-- [5]: saturation. -/
def modSat (md : BitVec 8) : Bool := md.getLsbD 5
/-- [4]: trap (R95). -/
def modTrap (md : BitVec 8) : Bool := md.getLsbD 4
/-- [3]: mask enabled. -/
def modMask (md : BitVec 8) : Bool := md.getLsbD 3
/-- [2:1]: mask register. -/
def modMaskReg (md : BitVec 8) : Fin 4 := (md.extractLsb 2 1).toFin
/-- [0]: vector half. -/
def modHalf (md : BitVec 8) : Bool := md.getLsbD 0
/-- [7:4], reserved where an instruction does not round (R163). -/
def modHigh (md : BitVec 8) : BitVec 4 := md.extractLsb 7 4

/-! ## Immediates and sizes (R164) -/

/-- imm13, sign-extended. -/
def imm13 (i : BitVec 13) : Word := i.signExtend 64

/-- Bytes of an access size. -/
def accBytes : AccSize → Nat
  | .b1 => 1
  | .b2 => 2
  | .b4 => 4
  | .b8 => 8

/-- Scratchpad size, 1 MiB (R50). -/
def padSize : Nat := 2 ^ 20

/-- A scratchpad address: bits [19:0] of the base plus off12 in units of the access size, modulo 1 MiB (R164). -/
def padAddr (base : Word) (off : BitVec 12) (size : Nat) : Nat :=
  (((base.toNat % padSize : Nat) : Int) + off.toInt * size).emod padSize |>.toNat

/-- What an address operand gives: an address, or the cause of the thread's fault. -/
inductive AddrResult where
  | ok (a : Nat)
  | bad (cause : BitVec 8)
  deriving DecidableEq, Repr

/-- A device address for `len` bytes: the base register's bits [40:0] plus `disp`. A reserved view faults with cause 0x01
(R105), bits [63:41] that are not zero and an unmapped address with 0x03 (R103, R164), an address that is not a multiple of
`align` with 0x02 (R51, R113, R170). Where several hold, the first of these governs: DESIGN CHOICE (log 20). -/
def deviceAddr (view : BitVec 2) (base : Word) (disp : Int) (len align : Nat) : AddrResult :=
  if view = 3 then .bad 0x01
  else if base.toNat / 2 ^ 41 ≠ 0 then .bad 0x03
  else
    let a := (base.toNat : Int) + disp
    if a < 0 then .bad 0x03
    else if mappedEnd < a.toNat + len then .bad 0x03
    else if a.toNat % align ≠ 0 then .bad 0x02
    else .ok a.toNat

/-- A tile address: bits [63:32] zero, a logical identifier in [31:20], a scratchpad offset in [19:0]; otherwise the thread
faults with cause 0x06 (R164). -/
def tileAddr (v : Word) : Option (Nat × Nat) :=
  if v.toNat / 2 ^ 32 ≠ 0 then none
  else (tileOfIdent (bits v.toNat 31 20)).map (fun t => (t, v.toNat % padSize))

/-! ## Vector lanes (R43, R165) -/

/-- Lanes of a format: 32 of FP32 or 64 of a 16-bit format (R43). -/
def laneCount : LaneFmt → Nat
  | .fp32 => 32
  | _ => 64

/-- Bits of a lane. -/
def laneWidth : LaneFmt → Nat
  | .fp32 => 32
  | _ => 16

/-- Lane i of a vector register, as a number. -/
def lane (f : LaneFmt) (v : BitVec 1024) (i : Nat) : Nat := v.toNat / 2 ^ (laneWidth f * i) % 2 ^ (laneWidth f)

/-- All lanes of a vector register. -/
def lanes (f : LaneFmt) (v : BitVec 1024) : List Nat := (List.range (laneCount f)).map (lane f v)

/-- A number from digits of base 2^w, lowest first. -/
def packNat (w : Nat) : List Nat → Nat
  | [] => 0
  | x :: rest => x % 2 ^ w + 2 ^ w * packNat w rest

/-- A vector register from its lanes. -/
def packLanes (f : LaneFmt) (l : List Nat) : BitVec 1024 := BitVec.ofNat 1024 (packNat (laneWidth f) l)

/-- Whether lane i is enabled: an FP32 lane uses mask bit 2i, a 16-bit lane bit i (R43, R165). -/
def laneOn (f : LaneFmt) (x : Thread) (md : BitVec 8) (i : Nat) : Bool :=
  !modMask md || (x.m[modMaskReg md]).getLsbD (if f = .fp32 then 2 * i else i)

/-- The enabled lanes take the new values, the others keep the old (R165). -/
def mergeLanes (f : LaneFmt) (x : Thread) (md : BitVec 8) (old : BitVec 1024) (new : List Nat) : BitVec 1024 :=
  packLanes f ((List.range (laneCount f)).map (fun i =>
    if laneOn f x md i then new.getD i 0 else lane f old i))

/-- Bytes of a vector register, lowest first. -/
def vecBytes (v : BitVec 1024) : List Byte := natLe 128 v.toNat

/-- Half of a vector register as 64 bytes: the lower for false, the upper for true (R165). -/
def halfBytes (v : BitVec 1024) (upper : Bool) : List Byte := natLe 64 (if upper then v.toNat / 2 ^ 512 else v.toNat % 2 ^ 512)

/-- A vector register of which the enabled 16-bit lanes are taken from another (R165). -/
def keepLanes (on : BitVec 64) (old new : BitVec 1024) : BitVec 1024 :=
  packLanes .bf16 ((List.range 64).map (fun i => if on.getLsbD i then lane .bf16 new i else lane .bf16 old i))

/-- Half of a vector register replaced (R165). -/
def setHalf (v : BitVec 1024) (upper : Bool) (bytes : List Byte) : BitVec 1024 :=
  let h := leNat bytes % 2 ^ 512
  BitVec.ofNat 1024 (if upper then v.toNat % 2 ^ 512 + 2 ^ 512 * h else v.toNat / 2 ^ 512 * 2 ^ 512 + h)

end Sys2Proof.Machine
end

