-- ==== Sys2Proof/Machine/Pad.lean ====
section
/-! DEFINITION. The scratchpad: reads and writes of its bytes modulo 1 MiB, the SECDED code of its words (R50–R57), and the
operand reads of a running matrix instruction that a write may meet (R175). -/

namespace Sys2Proof.Machine

open Sys2Proof

/-- `n` scratchpad bytes from an offset, wrapping modulo 1 MiB (R164). -/
def readPad (m : Keyed Byte) (off n : Nat) : List Byte :=
  (List.range n).map (fun i => find 0 m ((off + i) % padSize))

/-- Stores bytes from an offset, wrapping modulo 1 MiB. -/
def writePad (m : Keyed Byte) (off : Nat) : List Byte → Keyed Byte
  | [] => m
  | b :: rest => writePad (store 0 m (off % padSize) b) (off + 1) rest

/-- Number of 64-bit words in a scratchpad. -/
def padWordCount : Nat := 131072

/-- The words that `n` bytes from an offset touch, each with whether the bytes cover it whole (R53, R56). -/
def padWords (off n : Nat) : List (Nat × Bool) :=
  (List.range ((off % 8 + n + 7) / 8)).map (fun i =>
    let start := (off / 8 + i) * 8
    ((off / 8 + i) % padWordCount, decide (off ≤ start ∧ start + 8 ≤ off + n)))

/-- Bytes of a Grain line (R75). -/
def lineSize : GrainFmt → Nat
  | .g4 => 576
  | .g6 => 832
  | .g8 => 1088

/-- Offsets from the operand addresses and lengths of chunk k of the A and of the B operand (Table: Matrix operand layout). -/
def chunkLayout (kind : MmaKind) (k : Nat) : (Nat × Nat) × (Nat × Nat) :=
  match kind with
  | .grain fa fb => ((k * lineSize fa, lineSize fa), (2 * k * lineSize fb, 2 * lineSize fb))
  | _ => ((2048 * k, 2048), (4096 * k, 4096))

/-- The words that chunk k of a multiply-accumulate reads. -/
def chunkWords (kind : MmaKind) (a b k : Nat) : List Nat :=
  let ((oa, la), (ob, lb)) := chunkLayout kind k
  (padWords ((a + oa) % padSize) la ++ padWords ((b + ob) % padSize) lb).map Prod.fst

/-- The matrix unit reads the operands of its next `n` chunks from the scratchpad as it stands (R175); a word with an
uncorrectable error is noted. -/
def matrixRead (x : Tile) : Nat → MatrixJob → MatrixJob
  | 0, j => j
  | n + 1, .mma kind acc chunks a b th pc done bad =>
    let k := done.length
    if chunks ≤ k then .mma kind acc chunks a b th pc done bad
    else
      let ((oa, la), (ob, lb)) := chunkLayout kind k
      let ba := readPad x.pad (a + oa) la
      let bb := readPad x.pad (b + ob) lb
      let words := chunkWords kind a b k
      let bad' := match bad with
        | some w => some w
        | none => words.find? (fun w => x.padBad.contains w)
      matrixRead x n (.mma kind acc chunks a b th pc (done ++ [(ba, bb)]) bad')
  | _, j => j

/-- Before a scratchpad write, a running multiply-accumulate has read the operands of none, some or all of its remaining
chunks: how many is a free value (R175, log 12). -/
def State.matrixCatchUp (s : State) (t : Nat) : State :=
  let x := s.tile t
  match x.matrix with
  | some (.mma kind acc chunks a b th pc done bad) =>
    if done.length < chunks then
      let n := s.fresh.toNat % (chunks - done.length + 1)
      (s.drawn).setTile t { x with matrix := some (matrixRead x n (.mma kind acc chunks a b th pc done bad)) }
    else s
  | _ => s

/-- A correctable error in a word: counted, its offset noted, and the tile marked for retirement at the sixteenth at one word
within 24 h of operation (R54, R64). -/
def State.padCorrect (s : State) (t w : Nat) : State :=
  let x := s.tile t
  let times := recent s.hours 864000 (find [] x.padCeTimes w)
  let s := s.setTile t { x with padCe := x.padCe + 1, padCeLast := 8 * w, padCeTimes := insert x.padCeTimes w times }
  if 16 ≤ times.length then s.markRetire t 2 else s

/-- An uncorrectable error is found in a word: its offset is noted and Crown writes an uncorrectable-scratchpad record (R55). -/
def State.padUncorrectable (s : State) (t w : Nat) : State :=
  let s := s.setTile t { s.tile t with padUeLast := 8 * w }
  s.record 0x10 .fault false (tileIdent t) (natLe 4 (8 * w))

/-- What a code check finds in word w beyond what the state holds (R53). -/
def State.padEvent (s : State) (t w : Nat) (ecc : EccErr) : State :=
  match ecc with
  | .none => s
  | .correctable => s.padCorrect t w
  | .uncorrectable => s.setTile t { s.tile t with padBad := addNat (s.tile t).padBad w }
  | .persistent => (s.setTile t { s.tile t with padBad := addNat (s.tile t).padBad w }).markRetire t 1

/-- New errors in the words that a read covers (R53). -/
def State.padEvents (s : State) (t : Nat) (words : List Nat) (ecc : PadErrs) : State :=
  ecc.foldl (fun s e => match words[e.1]? with
    | some w => s.padEvent t w e.2
    | none => s) s

/-- The check of a read of some words: the state with what was found recorded, every uncorrectable word of the read once, and whether there was
one (R53–R55). -/
def State.wordsCheck (s : State) (t : Nat) (words : List Nat) (ecc : PadErrs) : State × Bool :=
  let s := s.padEvents t words ecc
  let bad := (words.filter (fun w => (s.tile t).padBad.contains w)).eraseDups
  (bad.foldl (fun s w => s.padUncorrectable t w) s, !bad.isEmpty)

/-- The check of a read of `n` bytes (R53–R55). -/
def State.padCheck (s : State) (t off n : Nat) (ecc : PadErrs) : State × Bool := s.wordsCheck t ((padWords off n).map Prod.fst) ecc

/-- Whether a store of `n` bytes would cover only part of a word that holds an uncorrectable error (R56). -/
def Tile.narrowBad (x : Tile) (off n : Nat) : Bool :=
  (padWords off n).any (fun w => !w.2 && x.padBad.contains w.1)

/-- The scratchpad word that a wait compares. -/
def WaitCond.word : WaitCond → Option Nat
  | .eq off _ => some (off / 8)
  | .ne off _ => some (off / 8)
  | .ge off _ => some (off / 8)
  | _ => none

/-- The uncorrectable words that waiting threads of a tile read again after a write of some words, one for each thread that waits on a word of a
written granule (R55, R180). -/
def Tile.rereadBad (x : Tile) (written : List Nat) : List Nat :=
  x.threads.toList.filterMap (fun y => match y.wait.bind WaitCond.word with
    | some w => if y.state = .waiting ∧ x.padBad.contains w ∧ written.any (fun v => v / 4 == w / 4) then some w else none
    | none => none)

/-- A scratchpad write: the bytes, and a fresh code in each word covered whole (R56). Threads that wait on a word of a written granule read it
again; an uncorrectable one is noted and recorded (R55, R180). -/
def State.padWrite (s : State) (t off : Nat) (bytes : List Byte) : State :=
  let s := s.matrixCatchUp t
  let x := s.tile t
  let words := padWords off bytes.length
  let whole := (words.filter (fun w => w.2)).map Prod.fst
  let x := { x with pad := writePad x.pad off bytes, padBad := x.padBad.filter (fun w => !whole.contains w) }
  (x.rereadBad (words.map Prod.fst)).foldl (fun s w => s.padUncorrectable t w) (s.setTile t x)

end Sys2Proof.Machine
end

