-- ==== Sys2Proof/Machine/Issue.lean ====
section
/-! DEFINITION. How an instruction of a thread issues: its operands, units and trackers (R40, R60, R171), the states of its
thread (R44), faults (R61), branches out of the code region (R184), and the conditions on which waiting and stalled threads
go on (R177–R180). -/

namespace Sys2Proof.Machine

open Sys2Proof

/-- What a meaning answers. -/
abbrev Answer := Host.Outcome State Fault Refusal

/-- A thread of a tile. -/
def State.thread (s : State) (t : Nat) (n : Fin 16) : Thread := (s.tile t).threads[n]

/-- Replaces a thread. -/
def State.setThread (s : State) (t : Nat) (n : Fin 16) (x : Thread) : State :=
  let y := s.tile t
  s.setTile t { y with threads := y.threads.set n x }

/-- The running launch that includes a tile. -/
def State.launchOf (s : State) (t : Nat) : Option Launch :=
  s.hq.launches.find? (fun l => decide (l.phase = .running ∧ l.first ≤ t ∧ t < l.first + l.count))

/-! ## Outstanding requests -/

/-- Home of part k: the tile whose scratchpad or slice it lies in (R111, R146). -/
def MemReq.partHome (r : MemReq) (k : Nat) : Nat :=
  match r.remote with
  | some h => h
  | none => sliceOf (r.partAddr k)

/-- Whether the request is a DMA. -/
def MemReq.isDma (r : MemReq) : Bool :=
  match r.op with
  | .dmaRead _ => true
  | .dmaWrite _ => true
  | _ => false

/-- Part k is near: its address names the issuing tile's own slice (R112). -/
def MemReq.partNear (r : MemReq) (k : Nat) : Bool := r.remote.isNone && r.partHome k == r.tile

/-- Every part is near. -/
def MemReq.near (r : MemReq) : Bool := (List.range r.parts).all r.partNear

/-- A part of the request has had no response in time, and has faulted its thread (R155). -/
def MemReq.timedOut (r : MemReq) : Bool := !r.expired.isEmpty

/-- The request still counts for its thread (R155, R157). -/
def MemReq.live (r : MemReq) : Bool := !r.timedOut && !r.orphan

/-- Requests of a thread that it waits for. -/
def State.outstanding (s : State) (t : Nat) (n : Fin 16) : List MemReq :=
  s.mem.reqs.filter (fun r => decide (r.tile = t ∧ r.thread = n) && r.live)

/-- DMAs a thread has outstanding (R171). -/
def State.dmas (s : State) (t : Nat) (n : Fin 16) : List MemReq := (s.outstanding t n).filter MemReq.isDma

/-- Outstanding memory loads of a thread, in transactions (R60, R169). -/
def State.loads (s : State) (t : Nat) (n : Fin 16) : Nat :=
  (((s.outstanding t n).filter (fun r => decide (r.op = .load))).map (fun r => r.parts - r.answered.length)).sum

/-- Near parts, or far parts, of a thread's access that have had no response yet; a DMA sends its parts one by one, so none (R60). -/
def MemReq.opens (r : MemReq) (near : Bool) : Nat :=
  if r.isDma then 0 else (List.range r.parts).countP (fun k => r.partNear k == near && !r.answered.contains k && !r.expired.contains k)

/-- A part that waits at its home holds an entry of tile t's memory request tracker: a far access or a DMA's transaction (R60, R111). -/
def State.guestOf (s : State) (t : Nat) (e : Arrived) : Bool :=
  match s.reqOf e.req with
  | some r => r.remote.isNone && r.partHome e.part == t && (r.isDma || decide (r.tile ≠ t))
  | none => false

/-- Entries of a tile's memory request tracker in use: by its own accesses from their issue to their response, and by DMA
transactions and far accesses while they wait there (R60, R111; log 21). -/
def State.memEntries (s : State) (t : Nat) : Nat :=
  ((s.mem.reqs.filter (fun r => decide (r.tile = t))).map (fun r => r.opens true)).sum + s.mem.tracker.countP (s.guestOf t)

/-- Parts of a DMA that are on their way to another tile's slice, wait there, or have had no response from there yet, apart from those that have
timed out. -/
def State.underWay (s : State) (r : MemReq) : Nat :=
  s.canopy.flits.countP (fun f => f.req == r.id && !f.resp && !r.expired.contains f.part) +
    s.mem.tracker.countP (fun e => e.req == r.id && !r.partNear e.part && !r.expired.contains e.part) +
    (List.range r.parts).countP (fun k =>
      !r.partNear k && r.served.any (fun e => e.1 == k) && !r.answered.contains k && !r.expired.contains k)

/-- Entries of a tile's remote request tracker in use (R60, R143, R172). -/
def State.remEntries (s : State) (t : Nat) : Nat :=
  ((s.mem.reqs.filter (fun r => decide (r.tile = t))).map (fun r => if r.isDma then s.underWay r else r.opens false)).sum

/-- Whether a scalar register awaits a response (R40). -/
def State.scalarPending (s : State) (t : Nat) (n : Fin 16) (d : Fin 32) : Bool :=
  (s.outstanding t n).any (fun r => decide (r.dest = .scalar d ∧ d ≠ 0))

/-- Whether a vector register awaits a response (R40). -/
def State.vectorPending (s : State) (t : Nat) (n : Fin 16) (d : Fin 16) : Bool :=
  (s.outstanding t n).any (fun r => match r.dest with
    | .vector v => v == d
    | .half v _ _ => v == d
    | _ => false)

/-! ## Stalls -/

/-- Whether a stall's cause still holds (R40, R60, R171). -/
def State.stalled (s : State) (t : Nat) (n : Fin 16) : StallCause → Bool
  | .operand ss vs => ss.any (s.scalarPending t n) || vs.any (s.vectorPending t n)
  | .matrixBusy => (s.tile t).matrix.isSome
  | .trackers m r load => decide (0 < m ∧ 64 < s.memEntries t + m) || decide (0 < r ∧ 32 < s.remEntries t + r) ||
      (load && decide (8 < s.loads t n + (m + r)))
  | .dmaSlot => decide (4 ≤ (s.dmas t n).length)

/-! ## Waits -/

/-- The aligned 64-bit scratchpad word at an offset. -/
def Tile.padWord (x : Tile) (off : Nat) : Nat := leNat (readPad x.pad (off / 8 * 8) 8)

/-- Whether every started thread of a tile has reached barrier n or ended (R178). -/
def Tile.barDone (x : Tile) (n : Fin 4) : Bool :=
  x.threads.toList.all (fun y => !y.started || decide (y.state = .halted ∨ y.state = .faulted ∨ y.wait = some (.bar n)))

/-- The waited word's code is sound. A wait reads its word again after each write to its granule; where the data are uncorrectable the
comparison does not hold, and the wait goes on, as R180 lets only its condition or the launch's end end it (log 170). -/
def Tile.wordSound (x : Tile) (off : Nat) : Bool := !x.padBad.contains (off / 8)

/-- Whether a wait's condition holds (R177–R180); gbar is released by the queue engine alone (R179). -/
def State.waitDone (s : State) (t : Nat) (n : Fin 16) : WaitCond → Bool
  | .fence => (s.outstanding t n).isEmpty
  | .gbarFence => (s.outstanding t n).isEmpty
  | .bar k => (s.tile t).barDone k
  | .gbar => false
  | .dma k => decide ((s.dmas t n).length ≤ k)
  | .eq off v => (s.tile t).wordSound off && (s.tile t).padWord off == v.toNat
  | .ne off v => (s.tile t).wordSound off && (s.tile t).padWord off != v.toNat
  | .ge off v => (s.tile t).wordSound off && decide (v.toNat ≤ (s.tile t).padWord off)

/-- One thread of a tile, re-examined: a STALLED thread whose cause has cleared and a WAITING thread whose condition holds
become READY (R44); gbar's fence gives way to its wait (R179). -/
def State.settleThread (s : State) (t : Nat) (n : Fin 16) : State :=
  let x := s.thread t n
  match x.state, x.stall, x.wait with
  | .stalled, some c, _ =>
    if s.stalled t n c then s else s.setThread t n { x with state := .ready, stall := none }
  | .waiting, _, some .gbarFence =>
    if s.waitDone t n .gbarFence then s.setThread t n { x with wait := some .gbar } else s
  | .waiting, _, some w =>
    if s.waitDone t n w then s.setThread t n { x with state := .ready, wait := none } else s
  | _, _, _ => s

/-- A barrier that every started thread has reached or left releases all its waiters at once (R178). -/
def State.releaseBar (s : State) (t : Nat) (n : Fin 4) : State :=
  let x := s.tile t
  if x.barDone n then
    s.setTile t { x with threads := x.threads.map (fun y =>
      if y.state = .waiting ∧ y.wait = some (.bar n) then { y with state := .ready, wait := none } else y) }
  else s

/-- Every thread of a tile, re-examined. -/
def State.settle (s : State) (t : Nat) : State :=
  let s := (List.finRange 4).foldl (fun s n => s.releaseBar t n) s
  (List.finRange 16).foldl (fun s n => s.settleThread t n) s

/-! ## Faults -/

/-- A fault of a thread: it enters FAULTED with its cause, and its tile reports the fault to the queue engine with the
identifier, the thread, the cause, the pc and the die's time stamp (R61). -/
def State.threadFault (s : State) (t : Nat) (n : Fin 16) (cause : BitVec 8) (pc : BitVec 32) : State :=
  let x := s.thread t n
  let s := s.setThread t n { x with state := .faulted, cause := cause, stall := none, wait := none }
  let stamp := s.clk.stamp[t / 640]?.getD 0
  let rep : FaultRep := { tile := t, thread := n, cause := cause, pc := pc, stamp := stamp }
  { s with hq := { s.hq with launches := s.hq.launches.map (fun l =>
      if l.phase = .running ∧ l.first ≤ t ∧ t < l.first + l.count then { l with faults := l.faults ++ [rep] } else l) } }

/-- A fault that reaches its thread after the instruction issued: a thread that is STALLED or WAITING by then goes straight to FAULTED, and one
that has halted, faulted or gone IDLE keeps its state (R44, R45; log 47). -/
def State.lateFault (s : State) (t : Nat) (n : Fin 16) (cause : BitVec 8) (pc : BitVec 32) : State :=
  match (s.thread t n).state with
  | .ready => s.threadFault t n cause pc
  | .stalled => s.threadFault t n cause pc
  | .waiting => s.threadFault t n cause pc
  | _ => s

/-! ## Issue -/

/-- What an instruction does when it issues. -/
inductive Issued where
  /-- it completes: the state with its result -/
  | done (s : State)
  /-- it completes, having written a scratchpad or ended an access, so that waits are examined again (R180) -/
  | wrote (s : State)
  /-- it completes and the thread goes on at an image offset -/
  | branch (s : State) (pc : BitVec 32)
  /-- it cannot issue (R40) -/
  | stall (c : StallCause)
  /-- it faults its thread (R61) -/
  | fault (s : State) (cause : BitVec 8)
  /-- its thread waits (R177–R180) -/
  | wait (s : State) (w : WaitCond)
  /-- its thread halts (R181) -/
  | halt (s : State)
  deriving DecidableEq, Repr

/-- A thread counts as high priority: by its priority bit, or because it has been READY for 64 cycles in which others issued (R46, R47). -/
def Thread.high (x : Thread) : Bool := x.prio || x.boosted || decide (64 ≤ x.passed)

/-- The threads of a tile in the order in which the issue stage considers them: from the one after the last issuer on (R46). -/
def Tile.order (x : Tile) : List (Fin 16) := (List.finRange 16).map (fun k => x.lastIssued + 1 + k)

/-- The thread that the issue stage chooses: of the READY threads, in that order, the first of high priority, or else the first (R46). -/
def Tile.pick (x : Tile) : Option (Fin 16) :=
  let ready := x.order.filter (fun n => decide (x.threads[n].state = .ready))
  match ready.find? (fun n => x.threads[n].high) with
  | some n => some n
  | none => ready.head?

/-- A thread that has issued: its own starvation count and promotion end, and every other READY thread of the tile has been
passed over for one more issue (R46, R47). -/
def State.noteIssue (s : State) (t : Nat) (n : Fin 16) : State :=
  let x := s.tile t
  let ths := x.threads.map (fun y => if y.state = .ready then { y with passed := y.passed + 1 } else y)
  let me := ths[n]
  s.setTile t { x with threads := ths.set n { me with passed := 0, boosted := false }, lastIssued := n }

/-- The thread goes on at `pc`; where that leaves the launch's code region it faults with cause 0x01, and the fault carries
the pc of the instruction that left (R184, log 22). -/
def State.goto (s : State) (t : Nat) (n : Fin 16) (pc : BitVec 32) : State :=
  let x := s.thread t n
  let inside : Bool := match s.launchOf t with
    | some l => decide (l.codeLo ≤ pc.toNat ∧ pc.toNat < l.codeHi)
    | none => true
  if inside then s.setThread t n { x with pc := pc }
  else ((s.setThread t n { x with pc := pc }).threadFault t n 0x01 x.pc).settle t

/-- A thread issues an instruction: only the READY thread that the issue stage chooses does (R44, R46); anything else leaves the state
unchanged (log 23). A thread that turns out not to be eligible is STALLED, and its time as a READY thread ends (R40, R47). -/
def State.issue (s : State) (th : Thr) (body : Thread → State → Issued) : State :=
  let t := th.tile.val
  let n := th.thread
  let x := s.thread t n
  if (s.tile t).pick ≠ some n then s
  else
    match body x s with
    | .done s' => (s'.noteIssue t n).goto t n (x.pc + 4)
    | .wrote s' => ((s'.noteIssue t n).goto t n (x.pc + 4)).settle t
    | .branch s' pc => (s'.noteIssue t n).goto t n pc
    | .stall c => s.setThread t n { x with state := .stalled, stall := some c, passed := 0 }
    | .fault s' c => ((s'.noteIssue t n).threadFault t n c x.pc).settle t
    | .wait s' w =>
      let s' := (s'.noteIssue t n).goto t n (x.pc + 4)
      let y := s'.thread t n
      if y.state = .ready then (s'.setThread t n { y with state := .waiting, wait := some w }).settle t else s'
    | .halt s' =>
      let s' := s'.noteIssue t n
      (s'.setThread t n { s'.thread t n with state := .halted }).settle t

/-- The registers an instruction needs: it stalls while one of them awaits a response (R40). A destination that awaits a
response is waited for too: DESIGN CHOICE (log 24). -/
def need (s : State) (th : Thr) (ss : List (BitVec 5)) (vs : List (Fin 16)) (k : Issued) : Issued :=
  let ss := ss.map BitVec.toFin
  if ss.any (s.scalarPending th.tile th.thread) || vs.any (s.vectorPending th.tile th.thread) then .stall (.operand ss vs)
  else k

/-- Flag f of the thread awaits a multiply-accumulate of the thread that is still in the matrix unit: f7, which its end may set (R40, R95). -/
def State.flagPending (s : State) (th : Thr) (f : Nat) : Bool :=
  f == 7 && (match (s.tile th.tile).matrix with
    | some (.mma _ _ _ _ _ n _ _ _) => n == th.thread
    | _ => false)

/-- Flag f must be complete: an instruction that reads it stalls until then (R40), and so does a compare that overwrites it: DESIGN CHOICE (log 24). -/
def needFlag (s : State) (th : Thr) (f : Nat) (k : Issued) : Issued := if s.flagPending th f then .stall .matrixBusy else k

/-- The matrix unit must be free (R42). -/
def needMatrix (s : State) (th : Thr) (k : Issued) : Issued :=
  if (s.tile th.tile).matrix.isSome then .stall .matrixBusy else k

end Sys2Proof.Machine
end

