-- ==== Sys2Proof/Machine/Canopy.lean ====
section
/-! DEFINITION. The Canopy: the grid of sites and its links, attach points, routes, and the request buffers through which requests travel
to their homes (R133–R148, R157). -/

namespace Sys2Proof.Machine

open Sys2Proof

/-! ## Sites, attach points and routes -/

/-- Columns by which a retirement in its row moves a logical tile: none or one (R66). -/
def State.shiftOf (s : State) (t : Nat) : Nat :=
  match s.retire.map.find? (fun e => e.1 == rowOf t) with
  | some e => if e.2 ≤ columnOf t then 1 else 0
  | none => 0

/-- Site on which a logical tile runs: 33 sites to a row, of which a retirement skips one (R66). Memories of tile sites carry the
site's number as their instance (log 88). -/
def State.siteOf (s : State) (t : Nat) : Nat := rowOf t * 33 + columnOf t + s.shiftOf t

/-- Global column and row of the site at physical column c and die row r of a die (R133, Table: Die placement). -/
def gridOf (die c r : Nat) : Nat × Nat := (33 * (die % 2) + c, 20 * (die / 2) + r)

/-- The die on which a place of the grid lies. -/
def gridDie (p : Nat × Nat) : Nat := p.1 / 33 + 2 * (p.2 / 20)

/-- The place of the site on which a logical tile runs (R133, R139). -/
def State.tileGrid (s : State) (t : Nat) : Nat × Nat := gridOf (dieOf t) (columnOf t + s.shiftOf t) (rowOf t % 20)

/-- Where packets enter and leave the Canopy: a tile, or the attach point of a Berux port or a host port on a row of its region (R136). -/
inductive Node where
  | tile (t : Nat)
  | berux (p : Fin 20) (row : Nat)
  | host (fn : Fn) (row : Nat)
  deriving DecidableEq, Repr

/-- The stack region beside which a host port has its attach points: region 2 of die 0 and region 2 of die 3 (R136). -/
def hostRegion : Fn → Nat
  | .A => 2
  | .B => 17

/-- The place of the attach points of a region on one of its rows, in the die's outer column: 0 on dies 0 and 2, 32 on dies 1 and 3 (R136). -/
def attachGrid (region row : Nat) : Nat × Nat :=
  gridOf (region / 5) (if region / 5 % 2 = 0 then 0 else 32) (4 * (region % 5) + row % 4)

/-- The place of a node. -/
def State.nodeGrid (s : State) : Node → Nat × Nat
  | .tile t => s.tileGrid t
  | .berux p row => attachGrid p.val row
  | .host fn row => attachGrid (hostRegion fn) row

/-- The node through which a Berux port reaches a tile or its slice: the attach point on the row that equals the tile's die row mod 4 (R136).
The collective engine of a die uses its ports' attach points. -/
def portNode (p : Fin 20) (home : Nat) : Node := .berux p (rowOf home % 20 % 4)

/-- The node through which a host reaches a tile or its slice, by the same rule (R136). -/
def hostNode (fn : Fn) (home : Nat) : Node := .host fn (rowOf home % 20 % 4)

/-- The port of a router through which a node is joined to it: routers have ports 1 to 4 for the links from the west, east, north and south. -/
def Node.port : Node → Nat
  | .tile _ => 0
  | .berux _ _ => 5
  | .host _ _ => 6

/-- Number of an input of the router at a place. -/
def inputKey (p : Nat × Nat) (port : Nat) : Nat := (p.2 * 66 + p.1) * 8 + port

/-- The router inputs through which a packet passes after the router at (x, y): first along X to x', then along Y to y' (R137). -/
def routeFrom (x y x' y' : Nat) : List ((Nat × Nat) × Nat) :=
  (if x ≤ x' then (List.range (x' - x)).map (fun i => ((x + i + 1, y), 1))
   else (List.range (x - x')).map (fun i => ((x - i - 1, y), 2))) ++
  (if y ≤ y' then (List.range (y' - y)).map (fun i => ((x', y + i + 1), 3))
   else (List.range (y - y')).map (fun i => ((x', y - i - 1), 4)))

/-- The route between two nodes: the input by which the packet enters the first router, and every input after it (R137, R139). -/
def State.route (s : State) (a b : Node) : List ((Nat × Nat) × Nat) :=
  let p := s.nodeGrid a
  let q := s.nodeGrid b
  (p, a.port) :: routeFrom p.1 p.2 q.1 q.2

/-- Hop count of a route: the links it passes, and one for each attach point at its ends (R137). -/
def State.hops (s : State) (a b : Node) : Nat :=
  (s.route a b).length - 1 + (if a.port = 0 then 0 else 1) + (if b.port = 0 then 0 else 1)

/-- Die-edge links on a route (R137). -/
def State.edgesCrossed (s : State) (a b : Node) : Nat :=
  let dies := (s.route a b).map (fun e => gridDie e.1)
  (List.zip dies dies.tail).countP (fun e => e.1 != e.2)

/-- Every router of a route runs: the die of each has power. A flit that would pass a die without power is lost (R135, R153). -/
def State.routeLive (s : State) (a b : Node) : Bool :=
  (s.route a b).all (fun e => s.hwd.dieEn[gridDie e.1]?.getD false)

/-! ## Flits, buffers and credits -/

/-- The next input a flit moves into, or the exit to its home, which is output 7 of the home's router. -/
def Flit.next (f : Flit) : Nat :=
  match f.ahead with
  | k :: _ => k
  | [] => f.here / 8 * 8 + 7

/-- A flit stands first in its buffer. -/
def Canopy.first (c : Canopy) (f : Flit) : Bool := c.flits.find? (fun g => g.here == f.here && g.resp == f.resp) == some f

/-- A buffer of a class has a credit: it holds fewer than 4 flits (R142). -/
def Canopy.credit (c : Canopy) (k : Nat) (resp : Bool) : Bool := decide (c.flits.countP (fun f => f.here == k && f.resp == resp) < 4)

/-- Distance of a flit's input, in the round robin, behind the input that its output served last (R144). -/
def Canopy.rank (c : Canopy) (f : Flit) : Nat := (f.here % 8 + 7 - find 0 c.turn f.next) % 8

/-- The output that a flit wants takes it: the next buffer of its class has a credit (R142); at the end of its route, a tracker entry awaits a
response (R143), a scratchpad takes a request, and so does a controller where the tile's memory request tracker has room (R111, R145). -/
def State.takes (s : State) (f : Flit) : Bool :=
  match f.ahead with
  | k :: _ => s.canopy.credit k f.resp
  | [] => f.resp || match s.reqOf f.req with
    | some r => r.remote.isSome || decide (s.memEntries (r.partHome f.part) < 64)
    | none => true

/-- Of the flits that are ready at one output, the flit goes next: a request that has waited 32 cycles before all others, then a response before a
request, and the inputs of a class in round robin (R144). Of several requests that have each waited 32 cycles, the one whose flit entered its buffer
first goes first: DESIGN CHOICE (log 209). -/
def State.wins (s : State) (f : Flit) : Bool :=
  let c := s.canopy
  let ready := c.flits.filter (fun g => g.next == f.next && c.first g && s.takes g)
  match ready.find? (fun g => g.aged) with
  | some g => g == f
  | none => (f.resp || !ready.any (fun g => g.resp)) && ready.all (fun g => g.resp != f.resp || decide (c.rank f ≤ c.rank g))

/-- A part of a request reaches its home (R111, R147, R157). -/
def State.reach (s : State) (r : MemReq) (part : Nat) : State :=
  { s with mem := { s.mem with tracker := s.mem.tracker ++
      [{ req := r.id, part := part, passed := 0, late := r.remote.isSome && (s.tile (r.partHome part)).fenced }] } }

/-- One flit moves on by one hop, or leaves the Canopy, a request at its home and a response at its requester; its output's turn passes to its
input. -/
def State.moveFlit (s : State) (f : Flit) : State :=
  let rest := s.canopy.flits.filter (fun g => !(g.req == f.req && g.part == f.part && g.resp == f.resp))
  let c : Canopy := { s.canopy with turn := store 0 s.canopy.turn f.next (f.here % 8) }
  match f.ahead with
  | k :: ks => { s with canopy := { c with flits := rest ++ [{ f with here := k, ahead := ks, aged := false }] } }
  | [] =>
    let s := { s with canopy := { c with flits := rest } }
    if f.resp then s
    else match s.reqOf f.req with
      | some r => s.reach r f.part
      | none => s

/-- Up to n moves of flits, each by the first flit that its output takes and serves next. -/
def State.flow (s : State) : Nat → State
  | 0 => s
  | n + 1 =>
    match s.canopy.flits.find? (fun f => s.canopy.first f && s.takes f && s.wins f) with
    | some f => (s.moveFlit f).flow n
    | none => s

/-- Every flit moves on as far as credits allow. What is still first in a buffer then is ready at an output that has no credit, and a router cycle
of each such output is counted in CNP_STALL_TOTAL (R142, R145; log 173). -/
def State.settleFlits (s : State) : State :=
  let s := s.flow ((s.canopy.flits.map (fun f => f.ahead.length + 1)).sum)
  let stuck := ((s.canopy.flits.filter s.canopy.first).map Flit.next).eraseDups.length
  { s with canopy := { s.canopy with stallTotal := s.canopy.stallTotal + BitVec.ofNat 64 stuck } }

/-- A part of a request waits at its home. -/
def State.waits (s : State) (id part : Nat) : Bool := s.mem.tracker.any (fun e => e.req == id && e.part == part)

/-- A part of a request is on its way. -/
def State.travels (s : State) (id part : Nat) : Bool := s.canopy.flits.any (fun f => f.req == id && f.part == part && !f.resp)

/-- The home of a part of a request, as a node. -/
def MemReq.homeNode (r : MemReq) (part : Nat) : Node := .tile (r.partHome part)

/-- A part of a request sets out for its home, once: a near one needs no route, but a DMA's an entry of the tracker; any other enters the
Canopy at its tile's router, a DMA's once the remote request tracker has an entry for it (R60, R142, R143). On a route that has lost a die it is
lost (R153). -/
def State.sendPart (s : State) (r : MemReq) (part : Nat) : State :=
  if s.waits r.id part ∨ s.travels r.id part then s
  else if r.partNear part then (if s.memEntries r.tile < 64 then s.reach r part else s)
  else
    let route := (s.route (.tile r.tile) (r.homeNode part)).map (fun e => inputKey e.1 e.2)
    if s.routeLive (.tile r.tile) (r.homeNode part) ∧ s.canopy.credit (route.headD 0) false ∧ (r.isDma → s.remEntries r.tile < 32) then
      { s with canopy := { s.canopy with flits := s.canopy.flits ++
          [{ resp := false, req := r.id, part := part, here := route.headD 0, ahead := route.tail, aged := false }] } }
    else s

/-- A part of a request travels: it sets out where it has not yet, and every flit moves on. -/
def State.carry (s : State) (r : MemReq) (part : Nat) : State := (s.sendPart r part).settleFlits

/-- The response or acknowledgement of a far part travels from its home to its tile, one flit in the response buffers (R137, R141–R144). -/
def State.sendBack (s : State) (r : MemReq) (part : Nat) : State :=
  let route := (s.route (r.homeNode part) (.tile r.tile)).map (fun e => inputKey e.1 e.2)
  ({ s with canopy := { s.canopy with flits := s.canopy.flits ++
      [{ resp := true, req := r.id, part := part, here := route.headD 0, ahead := route.tail, aged := false }] } } : State).settleFlits

/-! ## Accesses of hosts, Berux ports and collective engines -/

/-- Device memory serves an access that comes through the Canopy from `src`: for every transaction, the channel of its slice issues, the
tile's memory request tracker has an entry left, it is the access's turn, and the routes there and back run (R108, R109, R111, R115, R127, R137).
Otherwise the access waits (log 184). -/
def State.farTurns (s : State) (src : Nat → Node) (ts : List Nat) : Bool :=
  ts.all (fun l =>
    let home := l / 2 ^ 23
    s.channelOpen home && decide (s.memEntries home < 64) && s.routeLive (src home) (.tile home) && s.routeLive (.tile home) (src home)) &&
  s.visitTurns ts

/-- Device memory serves an access to a range of addresses that comes through the Canopy from `src`. -/
def State.farOpen (s : State) (src : Nat → Node) (view : BitVec 2) (a len : Nat) : Bool := s.farTurns src (transactions view a len)

/-- An access from another tile that came before waits at a tile for one of the words of an access (R148). -/
def State.padAwaited (s : State) (t off len : Nat) : Bool :=
  s.mem.tracker.any (fun e => match s.reqOf e.req with
    | some r => r.remote == some t && (padWords r.addr r.len).any (fun v => (padWords off len).any (fun w => w.1 == v.1))
    | none => false)

end Sys2Proof.Machine
end

