-- ==== Sys2Proof/Machine/Flags.lean ====
section
/-! DEFINITION. Arithmetic flags and traps (R94, R95), and the rounding generator (R91–R93). -/

namespace Sys2Proof.Machine

open Sys2Proof

/-- The flags an operation raises (Table: Exceptions and results). -/
structure FFlags where
  invalid : Bool := false
  divide : Bool := false
  overflow : Bool := false
  underflow : Bool := false
  deriving DecidableEq, Repr

/-- No flag. -/
def FFlags.clear : FFlags := {}

/-- The flags of two operations together. -/
def FFlags.or (a b : FFlags) : FFlags :=
  { invalid := a.invalid || b.invalid, divide := a.divide || b.divide
    overflow := a.overflow || b.overflow, underflow := a.underflow || b.underflow }

/-- Some flag is raised. -/
def FFlags.any (a : FFlags) : Bool := a.invalid || a.divide || a.overflow || a.underflow

/-- The flags of a list of operations together. -/
def FFlags.all (l : List FFlags) : FFlags := l.foldl FFlags.or FFlags.clear

/-- An instruction that raises a flag sets f7 of its thread (R95); one that raises none leaves f7. -/
def Thread.raise (x : Thread) (f : FFlags) : Thread := if f.any then x.setFlag 7 true else x

/-- One step of the rounding generator (R92). -/
def rngStep (s : Word) : Word :=
  let s := s ^^^ (s <<< 13)
  let s := s ^^^ (s >>> 7)
  s ^^^ (s <<< 17)

/-- The generator after n steps. -/
def rngSteps (s : Word) : Nat → Word
  | 0 => s
  | n + 1 => rngSteps (rngStep s) n

/-- The 16-bit random number of element i of an instruction that finds the generator in state s (R92). -/
def rngElem (s : Word) (i : Nat) : Nat := bits (rngSteps s (i / 4 + 1)).toNat (16 * (i % 4) + 15) (16 * (i % 4))

/-- The generator after an instruction that rounds n elements stochastically (R92). -/
def rngAfter (s : Word) (n : Nat) : Word := rngSteps s ((n + 3) / 4)

/-- A thread's generator at launch: seeded from the launch's rounding seed, the tile's linear number and the thread's number
(R93). -/
def rngSeed (seed : Word) (t n : Nat) : Word :=
  let s := seed ^^^ BitVec.ofNat 64 ((t * 16 + n + 1) * 0x9E3779B9)
  rngSteps (if s = 0 then 1 else s) 16

/-- A write of the generator; a write of zero stores 1 (R93). -/
def rngWrite (v : Word) : Word := if v = 0 then 1 else v

/-- Rounding modes (Table: Rounding modes). -/
inductive RMode where
  | nearest | zero | stochastic
  deriving DecidableEq, Repr

/-- The mode of a rounding field; none for the reserved encoding (R90). -/
def rmode (r : BitVec 2) : Option RMode :=
  if r = 0 then some .nearest else if r = 1 then some .zero else if r = 2 then some .stochastic else none

/-- What a rounding instruction's operations are given: the mode, saturation, the generator's state, and the number of the
first free value it may draw. -/
structure Rounding where
  mode : RMode
  sat : Bool
  rng : Word
  free : Nat

/-- The rounding of a mod byte for a thread (R163). -/
def modRounding (md : BitVec 8) (x : Thread) (s : State) : Option Rounding :=
  (rmode (modRound md)).map (fun m => { mode := m, sat := modSat md, rng := x.rng, free := s.free })

/-- Round to nearest, ties to even, with no saturation: memory-side additions (R114). -/
def Rounding.memory : Rounding := { mode := .nearest, sat := false, rng := 1, free := 0 }

/-- After an instruction that rounds n elements: a stochastic one advances the generator, and the free values it may have
drawn are used up (R92, log 12). -/
def State.afterRounding (s : State) (t : Nat) (k : Fin 16) (r : Rounding) (n : Nat) : State :=
  if r.mode = .stochastic then
    let x := s.thread t k
    { s.setThread t k { x with rng := rngAfter x.rng n } with free := s.free + n }
  else s

/-- A vector or matrix instruction's end: where it raised a flag, f7 is set; where its trap bit is set as well, the thread
faults with cause 0x07 and writes no result (R95); `s` has its generator advanced already (log 178). `result` writes the result. -/
def finish (s : State) (th : Thr) (trap : Bool) (f : FFlags) (result : State → Issued) : Issued :=
  let x := s.thread th.tile th.thread
  let s' := s.setThread th.tile th.thread (x.raise f)
  if f.any && trap then .fault s' 0x07 else result s'

end Sys2Proof.Machine
end

