-- ==== Sys2Proof/Machine/Scalar.lean ====
section
/-! DEFINITION. The scalar instructions: classes 0x0, 0x1 and 0x2 (R164, R166). -/

namespace Sys2Proof.Machine

open Sys2Proof

/-- An illegal encoding faults the thread with cause 0x01 (R162). -/
def illegal (s : State) : Issued := .fault s 0x01

/-- The thread with scalar register d written. -/
def State.writeScalar (s : State) (th : Thr) (d : BitVec 5) (v : Word) : State :=
  s.setThread th.tile th.thread ((s.thread th.tile th.thread).writeS d v)

/-- The thread with flag k written. -/
def State.writeFlag (s : State) (th : Thr) (k : Fin 8) (v : Bool) : State :=
  s.setThread th.tile th.thread ((s.thread th.tile th.thread).setFlag k v)

/-- A scalar instruction d := a op b of the R format: mod bits [7:4] are reserved (R163). -/
def scalarOp (th : Thr) (d a b : BitVec 5) (md : BitVec 8) (f : Word → Word → Word) (s : State) : State :=
  s.issue th (fun x s =>
    if modHigh md ≠ 0 then illegal s
    else need s th [a, b, d] [] (.done (s.writeScalar th d (f (x.readS a) (x.readS b)))))

/-- A scalar instruction d := a op imm13 of the I format. -/
def scalarImm (th : Thr) (d a : BitVec 5) (imm : BitVec 13) (f : Word → Word → Word) (s : State) : State :=
  s.issue th (fun x s => need s th [a, d] [] (.done (s.writeScalar th d (f (x.readS a) (imm13 imm)))))

/-- A shift's result: an amount of 64 or more gives a free value, for the spec states none (log 30). -/
def shiftResult (s : State) (f : Word → Nat → Word) (v amount : Word) : Word × State :=
  if amount.toNat < 64 then (f v amount.toNat, s) else (s.fresh, s.drawn)

/-- A shift of the R format. -/
def shiftOp (th : Thr) (d a b : BitVec 5) (md : BitVec 8) (f : Word → Nat → Word) (s : State) : State :=
  s.issue th (fun x s =>
    if modHigh md ≠ 0 then illegal s
    else need s th [a, b, d] []
      (.done ((shiftResult s f (x.readS a) (x.readS b)).2.writeScalar th d (shiftResult s f (x.readS a) (x.readS b)).1)))

/-- A shift of the I format. -/
def shiftImm (th : Thr) (d a : BitVec 5) (imm : BitVec 13) (f : Word → Nat → Word) (s : State) : State :=
  s.issue th (fun x s => need s th [a, d] []
    (.done ((shiftResult s f (x.readS a) (imm13 imm)).2.writeScalar th d (shiftResult s f (x.readS a) (imm13 imm)).1)))

/-- Signed and unsigned comparisons of two scalars. -/
def condHolds (c : Cond) (a b : Word) : Bool :=
  match c with
  | .eq => a == b
  | .ne => a != b
  | .lt => a.slt b
  | .ge => !a.slt b
  | .ltu => a.ult b
  | .geu => !a.ult b

/-- A compare f(d[2:0]) := a op b; a d above 7 names no flag (R162, R166; log 31). -/
def compareOp (th : Thr) (c : Cond) (d a b : BitVec 5) (md : BitVec 8) (s : State) : State :=
  s.issue th (fun x s =>
    match flagReg d with
    | some k =>
      if modHigh md ≠ 0 then illegal s
      else needFlag s th k.val (need s th [a, b] [] (.done (s.writeFlag th k (condHolds c (x.readS a) (x.readS b)))))
    | none => illegal s)

/-- ADD (R166): d := a + b -/
def execAdd (th : Thr) (d a b : BitVec 5) (md : BitVec 8) (s : State) : Answer :=
  .next (scalarOp th d a b md (fun a b => a + b) s)

/-- SUB (R166): d := a − b -/
def execSub (th : Thr) (d a b : BitVec 5) (md : BitVec 8) (s : State) : Answer :=
  .next (scalarOp th d a b md (fun a b => a - b) s)

/-- AND (R166) -/
def execAnd (th : Thr) (d a b : BitVec 5) (md : BitVec 8) (s : State) : Answer :=
  .next (scalarOp th d a b md (fun a b => a &&& b) s)

/-- OR (R166) -/
def execOr (th : Thr) (d a b : BitVec 5) (md : BitVec 8) (s : State) : Answer :=
  .next (scalarOp th d a b md (fun a b => a ||| b) s)

/-- XOR (R166) -/
def execXor (th : Thr) (d a b : BitVec 5) (md : BitVec 8) (s : State) : Answer :=
  .next (scalarOp th d a b md (fun a b => a ^^^ b) s)

/-- SHL (R166) -/
def execShl (th : Thr) (d a b : BitVec 5) (md : BitVec 8) (s : State) : Answer :=
  .next (shiftOp th d a b md (fun v k => v <<< k) s)

/-- SHR (R166): logical -/
def execShr (th : Thr) (d a b : BitVec 5) (md : BitVec 8) (s : State) : Answer :=
  .next (shiftOp th d a b md (fun v k => v >>> k) s)

/-- SRA (R166): arithmetic -/
def execSra (th : Thr) (d a b : BitVec 5) (md : BitVec 8) (s : State) : Answer :=
  .next (shiftOp th d a b md (fun v k => v.sshiftRight k) s)

/-- MIN (R166): signed -/
def execMin (th : Thr) (d a b : BitVec 5) (md : BitVec 8) (s : State) : Answer :=
  .next (scalarOp th d a b md (fun a b => if a.slt b then a else b) s)

/-- MAX (R166): signed -/
def execMax (th : Thr) (d a b : BitVec 5) (md : BitVec 8) (s : State) : Answer :=
  .next (scalarOp th d a b md (fun a b => if a.slt b then b else a) s)

/-- MINU (R166): unsigned -/
def execMinu (th : Thr) (d a b : BitVec 5) (md : BitVec 8) (s : State) : Answer :=
  .next (scalarOp th d a b md (fun a b => if a.ult b then a else b) s)

/-- MAXU (R166): unsigned -/
def execMaxu (th : Thr) (d a b : BitVec 5) (md : BitVec 8) (s : State) : Answer :=
  .next (scalarOp th d a b md (fun a b => if a.ult b then b else a) s)

/-- MUL (R166): the low 64 bits of a × b -/
def execMul (th : Thr) (d a b : BitVec 5) (md : BitVec 8) (s : State) : Answer :=
  .next (scalarOp th d a b md (fun a b => a * b) s)

/-- CMP_EQ (R166): f(d) := a op b -/
def execCmpEq (th : Thr) (d a b : BitVec 5) (md : BitVec 8) (s : State) : Answer :=
  .next (compareOp th .eq d a b md s)

/-- CMP_NE (R166): f(d) := a op b -/
def execCmpNe (th : Thr) (d a b : BitVec 5) (md : BitVec 8) (s : State) : Answer :=
  .next (compareOp th .ne d a b md s)

/-- CMP_LT (R166): f(d) := a op b -/
def execCmpLt (th : Thr) (d a b : BitVec 5) (md : BitVec 8) (s : State) : Answer :=
  .next (compareOp th .lt d a b md s)

/-- CMP_GE (R166): f(d) := a op b -/
def execCmpGe (th : Thr) (d a b : BitVec 5) (md : BitVec 8) (s : State) : Answer :=
  .next (compareOp th .ge d a b md s)

/-- CMP_LTU (R166): f(d) := a op b -/
def execCmpLtu (th : Thr) (d a b : BitVec 5) (md : BitVec 8) (s : State) : Answer :=
  .next (compareOp th .ltu d a b md s)

/-- CMP_GEU (R166): f(d) := a op b -/
def execCmpGeu (th : Thr) (d a b : BitVec 5) (md : BitVec 8) (s : State) : Answer :=
  .next (compareOp th .geu d a b md s)

/-- ADDI (R164, R166) -/
def execAddi (th : Thr) (d a : BitVec 5) (imm : BitVec 13) (s : State) : Answer :=
  .next (scalarImm th d a imm (fun a b => a + b) s)

/-- ANDI (R164, R166) -/
def execAndi (th : Thr) (d a : BitVec 5) (imm : BitVec 13) (s : State) : Answer :=
  .next (scalarImm th d a imm (fun a b => a &&& b) s)

/-- ORI (R164, R166) -/
def execOri (th : Thr) (d a : BitVec 5) (imm : BitVec 13) (s : State) : Answer :=
  .next (scalarImm th d a imm (fun a b => a ||| b) s)

/-- XORI (R164, R166) -/
def execXori (th : Thr) (d a : BitVec 5) (imm : BitVec 13) (s : State) : Answer :=
  .next (scalarImm th d a imm (fun a b => a ^^^ b) s)

/-- SHLI (R164, R166) -/
def execShli (th : Thr) (d a : BitVec 5) (imm : BitVec 13) (s : State) : Answer :=
  .next (shiftImm th d a imm (fun v k => v <<< k) s)

/-- SHRI (R164, R166) -/
def execShri (th : Thr) (d a : BitVec 5) (imm : BitVec 13) (s : State) : Answer :=
  .next (shiftImm th d a imm (fun v k => v >>> k) s)

/-- CMPI (R164, R166): f(d) := a op imm13. -/
def execCmpi (th : Thr) (cc : Cond) (d a : BitVec 5) (imm : BitVec 13) (s : State) : Answer :=
  .next (s.issue th (fun x s =>
    match flagReg d with
    | some k => needFlag s th k.val (need s th [a] [] (.done (s.writeFlag th k (condHolds cc (x.readS a) (imm13 imm)))))
    | none => illegal s))

/-- The 16-bit field that hw selects, in place. -/
def wideField (hw : BitVec 2) (imm : BitVec 16) : Word := imm.setWidth 64 <<< (16 * hw.toNat)

/-- MOVZ (R164): imm16 shifted left by 16 × hw, every other bit clear. -/
def execMovz (th : Thr) (d : BitVec 5) (hw : BitVec 2) (imm : BitVec 16) (s : State) : Answer :=
  .next (s.issue th (fun _ s => need s th [d] [] (.done (s.writeScalar th d (wideField hw imm)))))

/-- MOVK (R164): bits [16 hw + 15 : 16 hw] replaced, the rest kept. -/
def execMovk (th : Thr) (d : BitVec 5) (hw : BitVec 2) (imm : BitVec 16) (s : State) : Answer :=
  .next (s.issue th (fun x s => need s th [d] []
    (.done (s.writeScalar th d ((x.readS d &&& ~~~(wideField hw 0xFFFF)) ||| wideField hw imm)))))

/-- An image offset `words` words from the branch (R160, R164). -/
def branchTarget {n : Nat} (pc : BitVec 32) (words : BitVec n) : BitVec 32 := pc + (words.signExtend 32 <<< 2)

/-- A conditional branch on flag f. -/
def branchOn (th : Thr) (f : BitVec 3) (off : BitVec 20) (want : Bool) (s : State) : State :=
  s.issue th (fun x s => needFlag s th f.toNat (if x.flag f.toNat = want then .branch s (branchTarget x.pc off) else .done s))

/-- BR_T (R166): branches when flag f is 1. -/
def execBrT (th : Thr) (f : BitVec 3) (off : BitVec 20) (s : State) : Answer := .next (branchOn th f off true s)

/-- BR_F (R166): branches when flag f is 0. -/
def execBrF (th : Thr) (f : BitVec 3) (off : BitVec 20) (s : State) : Answer := .next (branchOn th f off false s)

/-- JMP (R166); a jump out of the code region faults (R184). -/
def execJmp (th : Thr) (off : BitVec 20) (s : State) : Answer :=
  .next (s.issue th (fun x s => .branch s (branchTarget x.pc off)))

/-- JAL (R161, R166): d receives the return offset. It has a register d, so it takes the I format of class 0x2, and its immediate counts in words:
DEDUCED (log 197). -/
def execJal (th : Thr) (d : BitVec 5) (imm : BitVec 13) (s : State) : Answer :=
  .next (s.issue th (fun x s => need s th [d] []
    (.branch (s.writeScalar th d ((x.pc + 4).setWidth 64)) (branchTarget x.pc imm))))

/-- JR (R166): jumps to the offset in a. Bits [1:0] are dropped, for the program counter's are zero (R43; log 32); an offset
of 2^32 or more lies outside every code region (R184). -/
def execJr (th : Thr) (a : BitVec 5) (s : State) : Answer :=
  .next (s.issue th (fun x s => need s th [a] []
    (if (x.readS a).toNat < 2 ^ 32 then .branch s ((x.readS a).setWidth 32 &&& ~~~3#32) else illegal s)))

end Sys2Proof.Machine
end

