-- ==== Sys2Proof/Machine/Scratch.lean ====
section
/-! DEFINITION. Scratchpad loads, stores, gathers and scatters: class 0x3 (R50–R56, R164–R168). -/

namespace Sys2Proof.Machine

open Sys2Proof

/-- A scratchpad read of `n` bytes by a thread: misaligned faults with cause 0x02 (R51), uncorrectable data with 0x04 (R55). -/
def loadPad (th : Thr) (a n align : Nat) (ecc : PadErrs) (s : State) (put : State → List Byte → Issued) : Issued :=
  if a % align ≠ 0 then .fault s 0x02
  else
    let c := s.padCheck th.tile a n ecc
    if c.2 then .fault c.1 0x04 else put c.1 (readPad (c.1.tile th.tile).pad a n)

/-- A scratchpad write by a thread: misaligned faults with cause 0x02 (R51), a write of part of a word that holds an
uncorrectable error with 0x04, the word unchanged (R56). -/
def storePad (th : Thr) (a align : Nat) (bytes : List Byte) (s : State) : Issued :=
  if a % align ≠ 0 then .fault s 0x02
  else if (s.tile th.tile).narrowBad a bytes.length then .fault s 0x04
  else .wrote (s.padWrite th.tile a bytes)

/-- The thread with vector register d written. -/
def State.writeVector (s : State) (th : Thr) (d : Fin 16) (v : BitVec 1024) : State :=
  let x := s.thread th.tile th.thread
  s.setThread th.tile th.thread { x with v := x.v.set d v }

/-- LDS (R166): a scalar load of 1, 2, 4 or 8 bytes, zero-extended (log 14); the view bits are reserved. -/
def execLds (th : Thr) (sz : AccSize) (view : BitVec 2) (d base : BitVec 5) (off : BitVec 12) (ecc : PadErrs) (s : State) :
    Answer :=
  .next (s.issue th (fun x s =>
    if view ≠ 0 then illegal s
    else need s th [base, d] []
      (loadPad th (padAddr (x.readS base) off (accBytes sz)) (accBytes sz) (accBytes sz) ecc s (fun s bytes =>
        .done (s.writeScalar th d (BitVec.ofNat 64 (leNat bytes)))))))

/-- STS (R166): a scalar store of 1, 2, 4 or 8 bytes. -/
def execSts (th : Thr) (sz : AccSize) (view : BitVec 2) (d base : BitVec 5) (off : BitVec 12) (s : State) : Answer :=
  .next (s.issue th (fun x s =>
    if view ≠ 0 then illegal s
    else need s th [base, d] []
      (storePad th (padAddr (x.readS base) off (accBytes sz)) (accBytes sz) (natLe (accBytes sz) (x.readS d).toNat) s)))

/-- LDV (R166): 128 bytes into a vector register. A vector access is aligned to 2 bytes, its least element size (log 15). -/
def execLdv (th : Thr) (view : BitVec 2) (d base : BitVec 5) (off : BitVec 12) (ecc : PadErrs) (s : State) : Answer :=
  .next (s.issue th (fun x s =>
    match vecReg d with
    | none => illegal s
    | some v =>
      if view ≠ 0 then illegal s
      else need s th [base] [v]
        (loadPad th (padAddr (x.readS base) off 128) 128 2 ecc s (fun s bytes =>
          .done (s.writeVector th v (BitVec.ofNat 1024 (leNat bytes)))))))

/-- The vector register a field names in [3:0], with the half in [4] (R173). -/
def halfReg (d : BitVec 5) : Fin 16 × Bool := ((d.extractLsb 3 0).toFin, d.getLsbD 4)

/-- LDV_H (R166): 64 bytes into the half of a vector register that bit 4 of d selects (log 16). -/
def execLdvH (th : Thr) (view : BitVec 2) (d base : BitVec 5) (off : BitVec 12) (ecc : PadErrs) (s : State) : Answer :=
  .next (s.issue th (fun x s =>
    if view ≠ 0 then illegal s
    else need s th [base] [(halfReg d).1]
      (loadPad th (padAddr (x.readS base) off 64) 64 2 ecc s (fun s bytes =>
        .done (s.writeVector th (halfReg d).1
          (setHalf ((s.thread th.tile th.thread).v[(halfReg d).1]) (halfReg d).2 bytes))))))

/-- STV (R166): 128 bytes from a vector register. -/
def execStv (th : Thr) (view : BitVec 2) (d base : BitVec 5) (off : BitVec 12) (s : State) : Answer :=
  .next (s.issue th (fun x s =>
    match vecReg d with
    | none => illegal s
    | some v =>
      if view ≠ 0 then illegal s
      else need s th [base] [v] (storePad th (padAddr (x.readS base) off 128) 2 (vecBytes x.v[v]) s)))

/-- STV_H (R166): 64 bytes from the half of a vector register that bit 4 of d selects. -/
def execStvH (th : Thr) (view : BitVec 2) (d base : BitVec 5) (off : BitVec 12) (s : State) : Answer :=
  .next (s.issue th (fun x s =>
    if view ≠ 0 then illegal s
    else need s th [base] [(halfReg d).1]
      (storePad th (padAddr (x.readS base) off 64) 2 (halfBytes x.v[(halfReg d).1] (halfReg d).2) s)))

/-- The lane format of a gather or scatter: 4-byte or 2-byte elements; none for the reserved sizes and bits (R168). -/
def gatherFmt (md : BitVec 8) : Option LaneFmt :=
  if md.extractLsb 5 4 ≠ 0 ∨ md.getLsbD 0 then none
  else if md.extractLsb 7 6 = 0 then some .fp32
  else if md.extractLsb 7 6 = 1 then some .bf16
  else none

/-- Scratchpad address of lane i: the base plus the lane's offset, modulo 1 MiB (R168). -/
def gatherAddr (f : LaneFmt) (base : Word) (offs : BitVec 1024) (i : Nat) : Nat :=
  (base.toNat + lane f offs i * (if f = .fp32 then 1 else 2)) % padSize

/-- The addresses that the enabled lanes access, with the lanes. -/
def gatherLanes (f : LaneFmt) (x : Thread) (md : BitVec 8) (base : Word) (offs : BitVec 1024) : List (Nat × Nat) :=
  ((List.range (laneCount f)).filter (laneOn f x md)).map (fun i => (i, gatherAddr f base offs i))

/-- GTH (R53, R168): gathers elements into the enabled lanes of vector register d; each lane reads one word. -/
def execGth (th : Thr) (d a b : BitVec 5) (md : BitVec 8) (ecc : PadErrs) (s : State) : Answer :=
  .next (s.issue th (fun x s =>
    match gatherFmt md, vecReg d, vecReg b with
    | some f, some dv, some bv =>
      need s th [a] [dv, bv] (
        let n := laneWidth f / 8
        let ls := gatherLanes f x md (x.readS a) x.v[bv]
        if ls.any (fun p => p.2 % n ≠ 0) then .fault s 0x02
        else
          let c := s.wordsCheck th.tile (ls.map (fun p => p.2 / 8)) ecc
          if c.2 then .fault c.1 0x04
          else
            let pad := (c.1.tile th.tile).pad
            let new := (List.range (laneCount f)).map (fun i => leNat (readPad pad (gatherAddr f (x.readS a) x.v[bv] i) n))
            .done (c.1.writeVector th dv (mergeLanes f x md x.v[dv] new)))
    | _, _, _ => illegal s))

/-- Stores the enabled lanes in ascending order, so that of two lanes at one address the higher remains (R168). -/
def scatter (t : Nat) (f : LaneFmt) (v : BitVec 1024) (s : State) : List (Nat × Nat) → State
  | [] => s
  | (i, a) :: rest => scatter t f v (s.padWrite t a (natLe (laneWidth f / 8) (lane f v i))) rest

/-- SCT (R168): scatters the enabled lanes of vector register d. A lane that faults leaves every lane unstored (log 17). -/
def execSct (th : Thr) (d a b : BitVec 5) (md : BitVec 8) (s : State) : Answer :=
  .next (s.issue th (fun x s =>
    match gatherFmt md, vecReg d, vecReg b with
    | some f, some dv, some bv =>
      need s th [a] [dv, bv] (
        let n := laneWidth f / 8
        let ls := gatherLanes f x md (x.readS a) x.v[bv]
        if ls.any (fun p => p.2 % n ≠ 0) then .fault s 0x02
        else if ls.any (fun p => (s.tile th.tile).narrowBad p.2 n) then .fault s 0x04
        else .wrote (scatter th.tile f x.v[dv] s ls))
    | _, _, _ => illegal s))

end Sys2Proof.Machine
end

