-- ==== Sys2Proof/Machine/Device.lean ====
section
/-! DEFINITION. Device-memory accesses, DMA, remote scratchpad accesses, memory-side atomics and reductions: classes 0x4, 0x5
and 0x6 (R103–R115, R169–R173). An instruction sends a request; its home performs it and its response returns in later
commands. -/

namespace Sys2Proof.Machine

open Sys2Proof

/-- A request of a thread's instruction. -/
def newReq (th : Thr) (pc : BitVec 32) (op : MemOp) (remote : Option Nat) (view : BitVec 2) (addr len : Nat)
    (bytes : List Byte) (dest : Dest) : MemReq :=
  { id := 0, tile := th.tile, thread := th.thread, pc := pc, op := op, remote := remote, view := view, addr := addr, len := len
    bytes := bytes, dest := dest, served := [], answered := [], expired := [], orphan := false }

/-- The near parts of a thread's access, which stand in its tile's memory request tracker from the start; a DMA's do not (R60, R109). -/
def MemReq.arriving (r : MemReq) : List Arrived :=
  if r.isDma then []
  else ((List.range r.parts).filter r.partNear).map (fun k => { req := r.id, part := k, passed := 0, late := false })

/-- A request is sent; requests are numbered in issue order. -/
def State.request (s : State) (r : MemReq) : State :=
  let r := { r with id := s.mem.nextId }
  { s with mem := { s.mem with reqs := s.mem.reqs ++ [r], nextId := s.mem.nextId + 1, tracker := s.mem.tracker ++ r.arriving } }

/-- The entries an access needs: in the memory request tracker for its near parts, in the remote request tracker for the others (R60, R112,
R143). -/
def MemReq.tracker (r : MemReq) : StallCause := .trackers (r.opens true) (r.opens false) (decide (r.op = .load))

/-- Sends a request once its trackers have room; otherwise the thread stalls (R60, R143). -/
def send (s : State) (r : MemReq) : Issued :=
  if s.stalled r.tile r.thread r.tracker then .stall r.tracker else .done (s.request r)

/-- A request for a device address, where the address allows it (R103–R105, R164). -/
def sendDevice (s : State) (addr : AddrResult) (req : Nat → MemReq) : Issued :=
  match addr with
  | .bad c => .fault s c
  | .ok a => send s (req a)

/-- LDD (R169): a scalar load of device memory. -/
def execLdd (th : Thr) (sz : AccSize) (view : BitVec 2) (d base : BitVec 5) (off : BitVec 12) (s : State) : Answer :=
  .next (s.issue th (fun x s => need s th [base, d] []
    (sendDevice s (deviceAddr view (x.readS base) (off.toInt * accBytes sz) (accBytes sz) (accBytes sz))
      (fun a => newReq th x.pc .load none view a (accBytes sz) [] (.scalar d.toFin)))))

/-- STD (R169): a scalar store to device memory. -/
def execStd (th : Thr) (sz : AccSize) (view : BitVec 2) (d base : BitVec 5) (off : BitVec 12) (s : State) : Answer :=
  .next (s.issue th (fun x s => need s th [base, d] []
    (sendDevice s (deviceAddr view (x.readS base) (off.toInt * accBytes sz) (accBytes sz) (accBytes sz))
      (fun a => newReq th x.pc .store none view a (accBytes sz) (natLe (accBytes sz) (x.readS d).toNat) .none))))

/-- LDVD (R169): 128 bytes of device memory into a vector register as two transactions, so at a multiple of 64 (log 18). -/
def execLdvd (th : Thr) (view : BitVec 2) (d base : BitVec 5) (off : BitVec 12) (s : State) : Answer :=
  .next (s.issue th (fun x s =>
    match vecReg d with
    | none => illegal s
    | some v => need s th [base] [v]
      (sendDevice s (deviceAddr view (x.readS base) (off.toInt * 128) 128 64)
        (fun a => newReq th x.pc .load none view a 128 [] (.vector v)))))

/-- STVD (R169): 128 bytes of a vector register to device memory as two transactions. -/
def execStvd (th : Thr) (view : BitVec 2) (d base : BitVec 5) (off : BitVec 12) (s : State) : Answer :=
  .next (s.issue th (fun x s =>
    match vecReg d with
    | none => illegal s
    | some v => need s th [base] [v]
      (sendDevice s (deviceAddr view (x.readS base) (off.toInt * 128) 128 64)
        (fun a => newReq th x.pc .store none view a 128 (vecBytes x.v[v]) .none))))

/-- A DMA between device memory and the scratchpad: view in mod[7:6]; lengths of 64 bytes to 1 MiB, and both addresses, in
multiples of 64, or the thread faults with cause 0x02; at most 4 outstanding (R170, R171). A fifth that breaks R170 faults at once: DESIGN CHOICE
(logs 20, 209). -/
def startDma (th : Thr) (d a b : BitVec 5) (md : BitVec 8) (op : Nat → MemOp) (s : State) : State :=
  s.issue th (fun x s =>
    let view := modRound md
    let pad := (x.readS d).toNat % padSize
    let len := (x.readS b).toNat
    if md.extractLsb 5 4 ≠ 0 ∨ view = 3 then illegal s
    else need s th [d, a, b] [] (
      if len < 64 ∨ padSize < len ∨ len % 64 ≠ 0 ∨ pad % 64 ≠ 0 then .fault s 0x02
      else match deviceAddr view (x.readS a) 0 len 64 with
        | .bad c => .fault s c
        | .ok addr =>
          if 4 ≤ (s.dmas th.tile th.thread).length then .stall .dmaSlot
          else .done (s.request (newReq th x.pc (op pad) none view addr len [] .none))))

/-- DMA_RD (R170): copies device memory to the scratchpad. -/
def execDmaRd (th : Thr) (d a b : BitVec 5) (md : BitVec 8) (s : State) : Answer := .next (startDma th d a b md .dmaRead s)

/-- DMA_WR (R170): copies the scratchpad to device memory. -/
def execDmaWr (th : Thr) (d a b : BitVec 5) (md : BitVec 8) (s : State) : Answer := .next (startDma th d a b md .dmaWrite s)

/-- A remote scratchpad access at the tile address in a: 8-byte alignment, of the 64-byte accesses too, or the thread faults with cause 0x02
(R51; log 15); an address that names no tile faults with 0x06 (R164). -/
def sendRemote (th : Thr) (x : Thread) (s : State) (addr : Word) (op : MemOp) (len : Nat) (bytes : List Byte) (dest : Dest) :
    Issued :=
  match tileAddr addr with
  | none => .fault s 0x06
  | some (t, off) =>
    if off % 8 ≠ 0 then .fault s 0x02 else send s (newReq th x.pc op (some t) 0 off len bytes dest)

/-- RLD (R172): reads 8 bytes of a remote scratchpad. -/
def execRld (th : Thr) (d a _b : BitVec 5) (md : BitVec 8) (s : State) : Answer :=
  .next (s.issue th (fun x s =>
    if modHigh md ≠ 0 then illegal s
    else need s th [a, d] [] (sendRemote th x s (x.readS a) .remLoad 8 [] (.scalar d.toFin))))

/-- RST (R172): writes 8 bytes to a remote scratchpad, from register d: DESIGN CHOICE (log 209). -/
def execRst (th : Thr) (d a _b : BitVec 5) (md : BitVec 8) (s : State) : Answer :=
  .next (s.issue th (fun x s =>
    if modHigh md ≠ 0 then illegal s
    else need s th [a, d] [] (sendRemote th x s (x.readS a) .remStore 8 (natLe 8 (x.readS d).toNat) .none)))

/-- The 16-bit lanes that a mask enables, as the mask register's bits; all of them where it is not enabled (R163, R165; log 174). -/
def maskLanes (x : Thread) (md : BitVec 8) : BitVec 64 := if modMask md then x.m[modMaskReg md] else BitVec.allOnes 64

/-- RLDV (R163, R165, R172): reads 64 bytes into the enabled lanes of the half of vector register d that the half bit selects. -/
def execRldv (th : Thr) (d a _b : BitVec 5) (md : BitVec 8) (s : State) : Answer :=
  .next (s.issue th (fun x s =>
    match vecReg d with
    | none => illegal s
    | some v =>
      if modHigh md ≠ 0 then illegal s
      else need s th [a] [v] (sendRemote th x s (x.readS a) .remLoad 64 [] (.half v (modHalf md) (maskLanes x md)))))

/-- RSTV (R172): writes 64 bytes from the half of a vector register that the half bit selects; the register is d: DESIGN CHOICE (log 209). -/
def execRstv (th : Thr) (d a _b : BitVec 5) (md : BitVec 8) (s : State) : Answer :=
  .next (s.issue th (fun x s =>
    match vecReg d with
    | none => illegal s
    | some v =>
      if modHigh md ≠ 0 then illegal s
      else need s th [a] [v] (sendRemote th x s (x.readS a) .remStore 64 (halfBytes x.v[v] (modHalf md)) .none)))

/-- RADD (R172): adds b to a remote word; the old value returns to d. -/
def execRadd (th : Thr) (d a b : BitVec 5) (md : BitVec 8) (s : State) : Answer :=
  .next (s.issue th (fun x s =>
    if modHigh md ≠ 0 then illegal s
    else need s th [a, b, d] [] (sendRemote th x s (x.readS a) (.remAdd (x.readS b)) 8 [] (.scalar d.toFin))))

/-- A memory-side atomic: operand in d + 1 and, for compare and swap, the compare value in d + 2 (R113, R173). A d that leaves
no register for an operand is illegal. -/
def startAtomic (th : Thr) (op : AtomicOp) (wide : Bool) (view : BitVec 2) (d base : BitVec 5) (off : BitVec 12) (s : State) :
    State :=
  s.issue th (fun x s =>
    let n : Nat := if wide then 8 else 4
    let last := if op = .cas then 29 else 30
    if last < d.toNat then illegal s
    else
      let operand := x.readS (d + 1)
      let compare := if op = .cas then x.readS (d + 2) else 0
      let cut : Word → Word := fun v => if wide then v else v &&& 0xFFFFFFFF#64
      need s th ([base, d, d + 1] ++ if op = .cas then [d + 2] else []) []
        (sendDevice s (deviceAddr view (x.readS base) (off.toInt * n) n n)
          (fun a => newReq th x.pc (.atomic op (cut operand) (cut compare)) none view a n [] (.scalar d.toFin))))

/-- SWP (R113, R173) -/
def execSwp (th : Thr) (wide : Bool) (view : BitVec 2) (d base : BitVec 5) (off : BitVec 12) (s : State) : Answer :=
  .next (startAtomic th .swap wide view d base off s)

/-- CAS (R113, R173) -/
def execCas (th : Thr) (wide : Bool) (view : BitVec 2) (d base : BitVec 5) (off : BitVec 12) (s : State) : Answer :=
  .next (startAtomic th .cas wide view d base off s)

/-- ATOMIC_ADD (R113, R173) -/
def execAtomicAdd (th : Thr) (wide : Bool) (view : BitVec 2) (d base : BitVec 5) (off : BitVec 12) (s : State) : Answer :=
  .next (startAtomic th .add wide view d base off s)

/-- SMIN (R113, R173) -/
def execSmin (th : Thr) (wide : Bool) (view : BitVec 2) (d base : BitVec 5) (off : BitVec 12) (s : State) : Answer :=
  .next (startAtomic th .smin wide view d base off s)

/-- SMAX (R113, R173) -/
def execSmax (th : Thr) (wide : Bool) (view : BitVec 2) (d base : BitVec 5) (off : BitVec 12) (s : State) : Answer :=
  .next (startAtomic th .smax wide view d base off s)

/-- UMIN (R113, R173) -/
def execUmin (th : Thr) (wide : Bool) (view : BitVec 2) (d base : BitVec 5) (off : BitVec 12) (s : State) : Answer :=
  .next (startAtomic th .umin wide view d base off s)

/-- UMAX (R113, R173) -/
def execUmax (th : Thr) (wide : Bool) (view : BitVec 2) (d base : BitVec 5) (off : BitVec 12) (s : State) : Answer :=
  .next (startAtomic th .umax wide view d base off s)

/-- ATOMIC_AND (R113, R173) -/
def execAtomicAnd (th : Thr) (wide : Bool) (view : BitVec 2) (d base : BitVec 5) (off : BitVec 12) (s : State) : Answer :=
  .next (startAtomic th .and wide view d base off s)

/-- ATOMIC_OR (R113, R173) -/
def execAtomicOr (th : Thr) (wide : Bool) (view : BitVec 2) (d base : BitVec 5) (off : BitVec 12) (s : State) : Answer :=
  .next (startAtomic th .or wide view d base off s)

/-- ATOMIC_XOR (R113, R173) -/
def execAtomicXor (th : Thr) (wide : Bool) (view : BitVec 2) (d base : BitVec 5) (off : BitVec 12) (s : State) : Answer :=
  .next (startAtomic th .xor wide view d base off s)

/-- FADD (R113, R173): FP32 only, so an 8-byte form is an unlisted op (R162). -/
def execFadd (th : Thr) (wide : Bool) (view : BitVec 2) (d base : BitVec 5) (off : BitVec 12) (s : State) : Answer :=
  .next (if wide then s.issue th (fun _ s => illegal s) else startAtomic th .fadd false view d base off s)

/-- A reduce-add of 64 bytes from half of a vector register (R113, R173). -/
def startReduce (th : Thr) (f : LaneFmt) (view : BitVec 2) (d base : BitVec 5) (off : BitVec 12) (s : State) : State :=
  s.issue th (fun x s => need s th [base] [(halfReg d).1]
    (sendDevice s (deviceAddr view (x.readS base) (off.toInt * 64) 64 64)
      (fun a => newReq th x.pc (.reduce f) none view a 64 (halfBytes x.v[(halfReg d).1] (halfReg d).2) .none)))

/-- RED_F32 (R113, R173): 16 FP32 elements. -/
def execRedF32 (th : Thr) (view : BitVec 2) (d base : BitVec 5) (off : BitVec 12) (s : State) : Answer :=
  .next (startReduce th .fp32 view d base off s)

/-- RED_BF16 (R113, R173): 32 bfloat16 elements. -/
def execRedBf16 (th : Thr) (view : BitVec 2) (d base : BitVec 5) (off : BitVec 12) (s : State) : Answer :=
  .next (startReduce th .bf16 view d base off s)

/-- RED_H16 (R113, R173): 32 binary16 elements. -/
def execRedH16 (th : Thr) (view : BitVec 2) (d base : BitVec 5) (off : BitVec 12) (s : State) : Answer :=
  .next (startReduce th .fp16 view d base off s)

end Sys2Proof.Machine
end

