-- ==== Sys2Proof/Machine/Float.lean ====
section
/-! DEFINITION. IEEE 754 arithmetic on binary32, binary16 and bfloat16: exact values, one rounding of each result, and the
flags and default results of R81–R83, R90–R94. -/

namespace Sys2Proof.Machine

open Sys2Proof

/-- A binary format: exponent and fraction bits (R81). -/
structure FloatFmt where
  ebits : Nat
  frac : Nat
  deriving DecidableEq, Repr

/-- The formats of the vector unit. -/
def floatFmt : LaneFmt → FloatFmt
  | .fp32 => { ebits := 8, frac := 23 }
  | .bf16 => { ebits := 8, frac := 7 }
  | .fp16 => { ebits := 5, frac := 10 }

/-- Exponent bias. -/
def FloatFmt.bias (f : FloatFmt) : Nat := 2 ^ (f.ebits - 1) - 1
/-- The sign bit. -/
def FloatFmt.signBit (f : FloatFmt) : Nat := 2 ^ (f.ebits + f.frac)
/-- Infinity of a sign. -/
def FloatFmt.inf (f : FloatFmt) (neg : Bool) : Nat := b2n neg * f.signBit + (2 ^ f.ebits - 1) * 2 ^ f.frac
/-- The canonical quiet NaN (R82). -/
def FloatFmt.nan (f : FloatFmt) : Nat := (2 ^ f.ebits - 1) * 2 ^ f.frac + 2 ^ (f.frac - 1)
/-- The largest finite magnitude, of a sign. -/
def FloatFmt.largest (f : FloatFmt) (neg : Bool) : Nat :=
  b2n neg * f.signBit + (2 ^ f.ebits - 2) * 2 ^ f.frac + (2 ^ f.frac - 1)
/-- Zero of a sign. -/
def FloatFmt.zero (f : FloatFmt) (neg : Bool) : Nat := b2n neg * f.signBit

/-- The value of an encoding: a NaN (signalling or quiet), an infinity, or (−1)^neg × m × 2^e. -/
inductive FVal where
  | nan (signalling : Bool)
  | inf (neg : Bool)
  | num (neg : Bool) (m : Nat) (e : Int)
  deriving DecidableEq, Repr

/-- Reads an encoding; subnormals at full precision (R81). -/
def FloatFmt.decode (f : FloatFmt) (v : Nat) : FVal :=
  let neg := bit v (f.ebits + f.frac)
  let ef := bits v (f.ebits + f.frac - 1) f.frac
  let fr := v % 2 ^ f.frac
  if ef = 2 ^ f.ebits - 1 then
    if fr = 0 then .inf neg else .nan (!bit fr (f.frac - 1))
  else if ef = 0 then .num neg fr (1 - (f.bias : Int) - f.frac)
  else .num neg (2 ^ f.frac + fr) ((ef : Int) - f.bias - f.frac)

/-- A signalling NaN raises invalid (R82). -/
def FVal.signals : FVal → Bool
  | .nan sg => sg
  | _ => false

def FVal.isNan : FVal → Bool
  | .nan _ => true
  | _ => false

/-- Whether a magnitude between k and k + 1 quanta, with remainder `rem` of `den` quanta and perhaps more below it, rounds up:
nearest-even, toward zero, or stochastic with the 16-bit number `r`, drawn against the distance from the lower of the two
neighbours (R90, R91). -/
def roundsUp (mode : RMode) (neg : Bool) (k rem den : Nat) (sticky : Bool) (r : Nat) : Bool :=
  match mode with
  | .nearest => decide (den < 2 * rem) || (decide (den = 2 * rem) && (sticky || k % 2 == 1))
  | .zero => false
  | .stochastic =>
    if rem = 0 ∧ !sticky then false
    else if neg then
      let f := if sticky then (65536 * (den - rem) - 1) / den else 65536 * (den - rem) / den
      !decide (r < f)
    else decide (r < 65536 * rem / den)

/-- A magnitude m × 2^e, and perhaps more below its last bit, in quanta of 2^q: the integer part, and remainder and
denominator of the rest. -/
def quanta (m : Nat) (e q : Int) : Nat × Nat × Nat :=
  if q ≤ e then (m * 2 ^ (e - q).toNat, 0, 1) else
    let d := 2 ^ (q - e).toNat
    (m / d, m % d, d)

/-- Rounds (−1)^neg × m × 2^e, with `sticky` for a discarded part below the last bit of m, to a format: the encoding and the
flags (R83, R90, R91, R94). A result beyond the largest finite magnitude is an infinity in nearest mode and the largest finite
magnitude toward zero and under saturation; stochastic mode gives none, so there a free bit chooses between the two (log 25). -/
def FloatFmt.round (f : FloatFmt) (rd : Rounding) (i : Nat) (neg : Bool) (m : Nat) (e : Int) (sticky : Bool) :
    Nat × FFlags :=
  if m = 0 then (f.zero neg, FFlags.clear)
  else
    let emin : Int := 1 - (f.bias : Int)
    let top : Int := (Nat.log2 m : Int) + e
    let q : Int := (if top < emin then emin else top) - f.frac
    let (k, rem, den) := quanta m e q
    let up := roundsUp rd.mode neg k rem den sticky (rngElem rd.rng i)
    let k' := if up then k + 1 else k
    let inexact := decide (rem ≠ 0) || sticky
    let (k', q) := if k' = 2 ^ (f.frac + 1) then (2 ^ f.frac, q + 1) else (k', q)
    let ef : Int := q + f.frac + f.bias
    if k' < 2 ^ f.frac then
      (b2n neg * f.signBit + k', { underflow := inexact })
    else if (2 ^ f.ebits - 1 : Int) ≤ ef then
      let v :=
        if rd.sat then f.largest neg
        else match rd.mode with
          | .nearest => f.inf neg
          | .zero => f.largest neg
          | .stochastic => if (Config.freeWord (rd.free + i)).getLsbD 0 then f.inf neg else f.largest neg
      (v, { overflow := true })
    else (b2n neg * f.signBit + ef.toNat * 2 ^ f.frac + (k' - 2 ^ f.frac), FFlags.clear)

/-- A signed integer times a power of two, rounded; an exact zero has the given sign. -/
def FloatFmt.roundInt (f : FloatFmt) (rd : Rounding) (i : Nat) (zeroNeg : Bool) (v : Int) (e : Int) (sticky : Bool) :
    Nat × FFlags :=
  if v = 0 then (f.zero zeroNeg, FFlags.clear) else f.round rd i (decide (v < 0)) v.natAbs e sticky

/-- An invalid operation (R94). -/
def FloatFmt.invalid (f : FloatFmt) : Nat × FFlags := (f.nan, { invalid := true })

/-- A NaN result of NaN operands (R82). -/
def FloatFmt.nanOf (f : FloatFmt) (signalling : Bool) : Nat × FFlags := (f.nan, { invalid := signalling })

/-- A signed value. -/
def sgn (neg : Bool) (m : Nat) : Int := if neg then -(m : Int) else m

/-- Exact sum of m₁ × 2^e₁ and m₂ × 2^e₂ over the lower exponent. -/
def addExact (v₁ : Int) (e₁ : Int) (v₂ : Int) (e₂ : Int) : Int × Int :=
  if e₁ ≤ e₂ then (v₁ + v₂ * 2 ^ (e₂ - e₁).toNat, e₁) else (v₁ * 2 ^ (e₁ - e₂).toNat + v₂, e₂)

/-- Exact a × b + c rounded once (R83); a × b alone where `c` is none. An exact zero sum of values of unlike sign is +0
(IEEE 754; log 26). -/
def FloatFmt.mulAdd (f : FloatFmt) (rd : Rounding) (i : Nat) (a b : FVal) (c : Option FVal) : Nat × FFlags :=
  let cSig := match c with
    | some v => v.signals
    | none => false
  let sig := a.signals || b.signals || cSig
  let cNan := match c with
    | some v => v.isNan
    | none => false
  match a, b with
  | .inf _, .num _ 0 _ => f.invalid
  | .num _ 0 _, .inf _ => f.invalid
  | _, _ =>
    if a.isNan || b.isNan || cNan then f.nanOf sig
    else
      let product : FVal := match a, b with
        | .num na ma ea, .num nb mb eb => .num (na != nb) (ma * mb) (ea + eb)
        | .inf na, .inf nb => .inf (na != nb)
        | .inf na, .num nb _ _ => .inf (na != nb)
        | .num na _ _, .inf nb => .inf (na != nb)
        | _, _ => .nan false
      match product, c with
      | .inf n, some (.inf n') => if n = n' then (f.inf n, FFlags.clear) else f.invalid
      | .inf n, _ => (f.inf n, FFlags.clear)
      | _, some (.inf n) => (f.inf n, FFlags.clear)
      | .num n m e, none => if m = 0 then (f.zero n, FFlags.clear) else f.round rd i n m e false
      | .num n m e, some (.num n' m' e') =>
        let (v, e'') := addExact (sgn n m) e (sgn n' m') e'
        f.roundInt rd i (n && n') v e'' false
      | _, _ => f.nanOf sig

/-- The value one. -/
def FVal.one : FVal := .num false 1 0

/-- The value with its sign reversed. -/
def FVal.negate : FVal → FVal
  | .nan sg => .nan sg
  | .inf n => .inf (!n)
  | .num n m e => .num (!n) m e

/-- a + b rounded once. -/
def FloatFmt.add (f : FloatFmt) (rd : Rounding) (i : Nat) (a b : FVal) : Nat × FFlags := f.mulAdd rd i a FVal.one (some b)

/-- A value converted to a format, rounded once (R80, R83). -/
def FloatFmt.convert (f : FloatFmt) (rd : Rounding) (i : Nat) (a : FVal) : Nat × FFlags :=
  match a with
  | .nan sg => f.nanOf sg
  | .inf n => (f.inf n, FFlags.clear)
  | .num n m e => if m = 0 then (f.zero n, FFlags.clear) else f.round rd i n m e false

/-- Reciprocal of zero (R94). -/
def FloatFmt.divZero (f : FloatFmt) (rd : Rounding) (neg : Bool) : Nat × FFlags :=
  (if rd.sat then f.largest neg else f.inf neg, { divide := true })

/-- Bits of a quotient or root kept before rounding: more than any format's significand and its 16 random bits. -/
def guardBits : Nat := 64

/-- Reciprocal, rounded once (R83, R166). -/
def FloatFmt.recip (f : FloatFmt) (rd : Rounding) (i : Nat) (a : FVal) : Nat × FFlags :=
  match a with
  | .nan sg => f.nanOf sg
  | .inf n => (f.zero n, FFlags.clear)
  | .num n m e =>
    if m = 0 then f.divZero rd n
    else
      let k := Nat.log2 m + guardBits
      f.round rd i n (2 ^ k / m) (-(k : Int) - e) (decide (2 ^ k % m ≠ 0))

/-- Greatest r with r² ≤ n, bit by bit from bit i. -/
def rootFrom (n : Nat) : Nat → Nat → Nat
  | 0, r => r
  | i + 1, r => rootFrom n i (if (r + 2 ^ i) * (r + 2 ^ i) ≤ n then r + 2 ^ i else r)

/-- Integer square root. -/
def intRoot (n : Nat) : Nat := rootFrom n (Nat.log2 n / 2 + 1) 0

/-- Square root, rounded once (R83, R166); a negative number is invalid, and −0 is its own root (IEEE 754; log 26). -/
def FloatFmt.sqrt (f : FloatFmt) (rd : Rounding) (i : Nat) (a : FVal) : Nat × FFlags :=
  match a with
  | .nan sg => f.nanOf sg
  | .inf n => if n then f.invalid else (f.inf false, FFlags.clear)
  | .num n m e =>
    if m = 0 then (f.zero n, FFlags.clear)
    else if n then f.invalid
    else
      -- m × 2^e = w × 2^(2h) with 2h ≤ e − 2 × guardBits
      let h : Int := (e - 2 * (guardBits : Int)).fdiv 2
      let w := m * 2 ^ (e - 2 * h).toNat
      let r := intRoot w
      f.round rd i false r h (decide (r * r ≠ w))

/-- Reciprocal square root, rounded once (R83, R166). The reciprocal of a zero's root is that of the zero (R94). -/
def FloatFmt.rsqrt (f : FloatFmt) (rd : Rounding) (i : Nat) (a : FVal) : Nat × FFlags :=
  match a with
  | .nan sg => f.nanOf sg
  | .inf n => if n then f.invalid else (f.zero false, FFlags.clear)
  | .num n m e =>
    if m = 0 then f.divZero rd n
    else if n then f.invalid
    else
      -- 1 / √(m × 2^e) = √(2^(2k − e) / m) × 2^−k, with 2k − e at least twice the guard bits above m
      let k : Int := ((Nat.log2 m : Int) + e + 2 * (guardBits : Int) + 1).fdiv 2 + Nat.log2 m
      let num := 2 ^ (2 * k - e).toNat
      let r := intRoot (num / m)
      f.round rd i false r (-k) (decide (r * r * m ≠ num))

/-- Fixed-point bits of the series for 2^x. -/
def expBits : Nat := 320

/-- ln 2 in fixed point, from below: Σ 1 / (k 2^k). -/
def ln2Fixed : Nat := (List.range 320).foldl (fun acc k => acc + 2 ^ expBits / ((k + 1) * 2 ^ (k + 1))) 0

/-- e^t in fixed point for 0 ≤ t < 1, from below: Σ t^k / k!. -/
def expSeries (t : Nat) : Nat → Nat → Nat → Nat → Nat
  | 0, _, _, acc => acc
  | n + 1, k, term, acc =>
    let term' := term * t / 2 ^ expBits / k
    expSeries t n (k + 1) term' (acc + term')

/-- 2^x rounded once (R83, R166): exact for whole x; otherwise from the series, whose error lies far below the bits kept. -/
def FloatFmt.exp2 (f : FloatFmt) (rd : Rounding) (i : Nat) (a : FVal) : Nat × FFlags :=
  match a with
  | .nan sg => f.nanOf sg
  | .inf n => if n then (f.zero false, FFlags.clear) else (f.inf false, FFlags.clear)
  | .num n m e =>
    if m = 0 then f.round rd i false 1 0 false
    else
      let v := sgn n m
      if 12 ≤ (Nat.log2 m : Int) + e then f.round rd i false 1 (if n then -4096 else 4096) false
      else if 0 ≤ e then f.round rd i false 1 (v * 2 ^ e.toNat) false
      else
        let d : Nat := 2 ^ (-e).toNat
        let whole := v.fdiv (d : Int)
        let part := (v.fmod (d : Int)).toNat
        if part = 0 then f.round rd i false 1 whole false
        else
          let t := part * ln2Fixed / d
          let y := expSeries t 80 1 (2 ^ expBits) (2 ^ expBits)
          -- the last 160 bits, among which the error lies, become the sticky part
          f.round rd i false (y / 2 ^ 160) (whole - (expBits : Int) + 160) true

/-- Comparison of two numbers or infinities: less, equal or greater; none with a NaN. -/
def FVal.cmp (a b : FVal) : Option Ordering :=
  let key : FVal → Option (Int × Int × Int) := fun v => match v with
    | .nan _ => none
    | .inf n => some (if n then -1 else 1, 0, 0)
    | .num n m e => some (0, sgn n m, e)
  match key a, key b with
  | some (ia, va, ea), some (ib, vb, eb) =>
    if ia ≠ ib then some (compare ia ib)
    else
      let (d, _) := addExact va ea (-vb) eb
      some (compare d 0)
  | _, _ => none

/-- Whether a value is a zero. -/
def FVal.isZero : FVal → Bool
  | .num _ 0 _ => true
  | _ => false

/-- Minimum or maximum of two lanes. Two NaNs give the canonical NaN, and a signalling one raises invalid (R82). With one quiet NaN a free bit
chooses between the other operand and the canonical NaN, and of two zeros of unlike sign it chooses one (log 27). -/
def FloatFmt.pick (f : FloatFmt) (rd : Rounding) (i : Nat) (least : Bool) (a b : Nat) : Nat × FFlags :=
  let x := f.decode a
  let y := f.decode b
  let choice := (Config.freeWord (rd.free + i)).getLsbD 0
  if x.signals || y.signals then f.invalid
  else match x.cmp y with
    | none => (if x.isNan && y.isNan || choice then f.nan else if x.isNan then b else a, FFlags.clear)
    | some o =>
      if x.isZero ∧ y.isZero ∧ a ≠ b then (if choice then a else b, FFlags.clear)
      else (if (o = .lt) = least then a else b, FFlags.clear)

/-- Absolute value or negation; a NaN gives the canonical NaN (R82). -/
def FloatFmt.sign (f : FloatFmt) (negate : Bool) (a : Nat) : Nat × FFlags :=
  match f.decode a with
  | .nan sg => f.nanOf sg
  | _ =>
    let mag := a % f.signBit
    let neg := bit a (f.ebits + f.frac)
    (if negate then b2n (!neg) * f.signBit + mag else mag, FFlags.clear)

/-- Lane compares: false with a NaN; a signalling NaN raises invalid (R82). -/
def FloatFmt.compare (f : FloatFmt) (test : Ordering → Bool) (a b : Nat) : Bool × FFlags :=
  let x := f.decode a
  let y := f.decode b
  (match x.cmp y with
    | some o => test o
    | none => false, { invalid := x.signals || y.signals })

/-- Exact sum of values, rounded once (R83, R166). -/
def FloatFmt.sum (f : FloatFmt) (rd : Rounding) (l : List FVal) : Nat × FFlags :=
  let sig := l.any FVal.signals
  if l.any FVal.isNan then f.nanOf sig
  else
    let pos := l.any (fun v => v = .inf false)
    let neg := l.any (fun v => v = .inf true)
    if pos && neg then f.invalid
    else if pos then (f.inf false, FFlags.clear)
    else if neg then (f.inf true, FFlags.clear)
    else
      let (v, e) := l.foldl (fun acc x => match x with
        | .num n m ex => addExact acc.1 acc.2 (sgn n m) ex
        | _ => acc) ((0 : Int), (0 : Int))
      let allNeg := !l.isEmpty && l.all (fun x => match x with
        | .num n _ _ => n
        | _ => false)
      f.roundInt rd 0 allNeg v e false

end Sys2Proof.Machine
end

