-- ==== Sys2Proof/Machine/Sync.lean ====
section
/-! DEFINITION. Fences, barriers, waits and thread control: classes 0xC and 0xD (R47, R58, R149, R162, R177–R181), and the end
of a launch (R186). -/

namespace Sys2Proof.Machine

open Sys2Proof

/-- FENCE (R149, R177): the thread waits until nothing of its own is outstanding. -/
def execFence (th : Thr) (s : State) : Answer := .next (s.issue th (fun _ s => .wait s .fence))

/-- BAR (R178): waits at barrier n of the tile; a field above 3 names no barrier (log 31). -/
def execBar (th : Thr) (b : BitVec 5) (md : BitVec 8) (s : State) : Answer :=
  .next (s.issue th (fun _ s => match maskReg b with
    | some n => if modHigh md ≠ 0 then illegal s else .wait s (.bar n)
    | none => illegal s))

/-- GBAR (R179): a fence, then the barrier across the launch. -/
def execGbar (th : Thr) (s : State) : Answer := .next (s.issue th (fun _ s => .wait s .gbarFence))

/-- WAIT_DMA (R180): waits until at most n DMAs are outstanding; an n outside 0–4 is illegal (log 50). -/
def execWaitDma (th : Thr) (imm : BitVec 13) (s : State) : Answer :=
  .next (s.issue th (fun _ s => if 4 < imm.toNat then illegal s else .wait s (.dma imm.toNat)))

/-- A wait on the aligned 64-bit scratchpad word at the address in a (R180); a misaligned address faults with cause 0x02 (R51),
uncorrectable data with 0x04 (R55). It does not round, so that mod bits [7:4] are reserved (R162, R163). -/
def waitWord (th : Thr) (a b : BitVec 5) (md : BitVec 8) (ecc : PadErrs) (cond : Nat → Word → WaitCond) (s : State) : State :=
  s.issue th (fun x s => if modHigh md ≠ 0 then illegal s else need s th [a, b] [] (
    let off := (x.readS a).toNat % padSize
    if off % 8 ≠ 0 then .fault s 0x02
    else
      let c := s.padCheck th.tile off 8 ecc
      if c.2 then .fault c.1 0x04 else .wait c.1 (cond off (x.readS b))))

/-- WAIT_EQ (R180) -/
def execWaitEq (th : Thr) (a b : BitVec 5) (md : BitVec 8) (ecc : PadErrs) (s : State) : Answer := .next (waitWord th a b md ecc .eq s)

/-- WAIT_NE (R180) -/
def execWaitNe (th : Thr) (a b : BitVec 5) (md : BitVec 8) (ecc : PadErrs) (s : State) : Answer := .next (waitWord th a b md ecc .ne s)

/-- WAIT_GE (R180): unsigned. -/
def execWaitGe (th : Thr) (a b : BitVec 5) (md : BitVec 8) (ecc : PadErrs) (s : State) : Answer := .next (waitWord th a b md ecc .ge s)

/-- Every started thread of a tile is HALTED (R186). -/
def Tile.ended (x : Tile) : Bool := x.threads.toList.all (fun y => !y.started || decide (y.state = .halted))

/-- A launch whose every started thread is HALTED ends, and its descriptor with OK (R186, R212). -/
def State.endIfDone (s : State) (t : Nat) : State :=
  match s.launchOf t with
  | some l =>
    if s.tiles.all (fun e => !l.has e.1 || e.2.ended) then (s.endLaunch l false).complete l.q (plain 0) else s
  | none => s

/-- HALT (R181): the thread enters HALTED; the launch ends with its last thread (R186). -/
def execHalt (th : Thr) (s : State) : Answer := .next ((s.issue th (fun _ s => .halt s)).endIfDone th.tile)

/-- PRIO (R48, R181): the priority bit becomes imm13[0]. -/
def execPrio (th : Thr) (imm : BitVec 13) (s : State) : Answer :=
  .next (s.issue th (fun _ s =>
    .done (s.setThread th.tile th.thread { s.thread th.tile th.thread with prio := imm.getLsbD 0 })))

/-- RDRNG (R93, R181): d receives the rounding generator's state. -/
def execRdrng (th : Thr) (d : BitVec 5) (s : State) : Answer :=
  .next (s.issue th (fun x s => need s th [d] [] (.done (s.writeScalar th d x.rng))))

/-- WRRNG (R93, R181): the generator's state from a; zero stores 1. -/
def execWrrng (th : Thr) (a : BitVec 5) (s : State) : Answer :=
  .next (s.issue th (fun x s => need s th [a] []
    (.done (s.setThread th.tile th.thread { s.thread th.tile th.thread with rng := rngWrite (x.readS a) }))))

/-- RDTIME (R181, R471): d receives the time stamp counter of the tile's die. -/
def execRdtime (th : Thr) (d : BitVec 5) (s : State) : Answer :=
  .next (s.issue th (fun _ s => need s th [d] []
    (.done (s.writeScalar th d (s.clk.stamp[th.tile.val / 640]?.getD 0)))))

/-- IMGADDR (R181): d receives the device address of the image base plus imm13 × 64. -/
def execImgaddr (th : Thr) (d : BitVec 5) (imm : BitVec 13) (s : State) : Answer :=
  .next (s.issue th (fun _ s => need s th [d] [] (
    let base := match s.launchOf th.tile with
      | some l => l.imgAddr
      | none => 0
    .done (s.writeScalar th d (BitVec.ofNat 64 base + imm13 imm * 64)))))

/-- The word is an illegal encoding (R161, R162, R168): its class, bits [31:28], is 0xE or 0xF; it is a gth or an sct, the class 0x3 words
with 0xF in [27:24], whose vector registers do not exist or whose mod byte holds a reserved value; it is another class 0x3 word with view
bits, a class 0x4 or 0x6 word with the reserved view, or a class 0x0 or 0x5 word with mod bits that R163 and R166 reserve; it is a word of the
classes 0x5 and 0x7 to 0xB with 0b11 in [7:6], which whatever its op is the reserved view, rounding field, format code or reserved mod bits (R90, R105,
R163, R174); or its op is not listed, a reserved bit is not zero or a register does not exist, which the spec settles of no word of another class
(log 180). -/
def illegalWord (w : BitVec 32) : Bool :=
  if 14 ≤ bits w.toNat 31 28 then true
  else if bits w.toNat 31 28 = 3 then
    if bits w.toNat 27 24 = 15 then
      (vecReg (w.extractLsb' 18 5)).isNone || (vecReg (w.extractLsb' 8 5)).isNone || (gatherFmt (w.extractLsb' 0 8)).isNone
    else bits w.toNat 23 22 != 0 || !Config.wordListed w
  else if bits w.toNat 31 28 = 0 ∧ bits w.toNat 7 4 ≠ 0 then true
  else if bits w.toNat 31 28 = 5 ∧ bits w.toNat 5 4 ≠ 0 then true
  else if bits w.toNat 31 28 ∈ [5, 7, 8, 9, 10, 11] ∧ bits w.toNat 7 6 = 3 then true
  else if (bits w.toNat 31 28 = 4 ∨ bits w.toNat 31 28 = 6) ∧ bits w.toNat 23 22 = 3 then true
  else !Config.wordListed w

/-- ILLEGAL_ENCODING (R162): a thread that meets an illegal word faults with cause 0x01. -/
def execIllegalEncoding (th : Thr) (w : BitVec 32) (s : State) : Answer :=
  .next (if illegalWord w then s.issue th (fun _ s => illegal s) else s)

/-- STARVATION_PROMOTION (R47): a READY normal-priority thread passed over for 64 cycles counts as high priority for its next
issue, and is marked so; it counts so by itself too (Thread.high). -/
def execStarvationPromotion (th : Thr) (s : State) : Answer :=
  let x := s.thread th.tile th.thread
  .next (if x.state = .ready ∧ x.prio = false ∧ 64 ≤ x.passed then
    s.setThread th.tile th.thread { x with boosted := true } else s)

/-- ICACHE_REFETCH (R58): a parity error invalidated a line, which has been fetched again; where that fails as well, the thread
faults with cause 0x09. -/
def execIcacheRefetch (th : Thr) (again : Bool) (s : State) : Answer :=
  let t := th.tile.val
  let s := s.setTile t { s.tile t with icacheEvents := (s.tile t).icacheEvents + 1 }
  .next (if again then (s.lateFault t th.thread 0x09 (s.thread t th.thread).pc).settle t else s)

end Sys2Proof.Machine
end

