-- ==== Sys2Proof/Machine/TileEvents.lean ====
section
/-! DEFINITION. What happens to requests and launches after their instructions have issued: accesses performed at their homes,
responses, timeouts, DMA completion, launch-wide barriers and faults, and scrubbing of scratchpads (R55, R57, R60–R63,
R107–R119, R146–R157, R171, R179). -/

namespace Sys2Proof.Machine

open Sys2Proof

/-! ## Requests -/

/-- Replaces a request by number. -/
def State.setReq (s : State) (r : MemReq) : State :=
  { s with mem := { s.mem with reqs := s.mem.reqs.map (fun q => if q.id = r.id then r else q) } }

/-- Removes a request, with what of it still waits at a home. -/
def State.dropReq (s : State) (id : Nat) : State :=
  { s with mem := { s.mem with
    reqs := s.mem.reqs.filter (fun q => q.id != id), tracker := s.mem.tracker.filter (fun e => e.req != id) } }

/-- How part k of a request ended at its home. -/
def MemReq.ended (r : MemReq) (k : Nat) : Option PartEnd := (r.served.find? (fun e => e.1 == k)).map Prod.snd

/-- Whether part k of a request has been performed or refused. -/
def MemReq.hasServed (r : MemReq) (k : Nat) : Bool := (r.ended k).isSome

/-- Whether every part has been. -/
def MemReq.whole (r : MemReq) : Bool := (List.range r.parts).all r.hasServed

/-- The first status of a request's parts that is not performed. -/
def MemReq.status (r : MemReq) : RespStatus :=
  match r.served.find? (fun e => decide (e.2.status ≠ .performed)) with
  | some e => e.2.status
  | none => .performed

/-- Two parts have one home: the same transaction, or words of one scratchpad that both touch (R146). -/
def MemReq.sameHome (q : MemReq) (j : Nat) (r : MemReq) (k : Nat) : Bool :=
  match q.remote, r.remote with
  | none, none => q.partAddr j / 64 == r.partAddr k / 64
  | some a, some b => a == b && (padWords q.addr q.len).any (fun w => (padWords r.addr r.len).any (fun v => v.1 == w.1))
  | _, _ => false

/-- Request q goes before request r at a home they share: it was issued before, by the same thread, or by another thread of the tile where
neither is a DMA, whose parts set out later than its instruction (R147). -/
def MemReq.goesBefore (q r : MemReq) : Bool :=
  decide (q.id < r.id ∧ q.tile = r.tile) && (q.thread == r.thread || (!q.isDma && !r.isDma))

/-- An earlier access of the same source has not been performed at the home of part k, so the part may not be either (R147; log 46). -/
def State.blocked (s : State) (r : MemReq) (k : Nat) : Bool :=
  s.mem.reqs.any (fun q => q.goesBefore r && (List.range q.parts).any (fun j => !q.hasServed j && q.sameHome j r k))

/-! ## Order at a controller (R109) -/

/-- Whether a controller may serve part k of a request now (R109, R115): it waits there; no part that came before it names the same
transaction; no part that came before it for the same bank has been passed by 16 younger ones; and no part for the same bank hits the open row
while this one, not yet passed by 16, does not. -/
def State.turnOf (s : State) (r : MemReq) (k : Nat) : Bool :=
  let row := dramRow (r.partAddr k)
  let queue := s.atBank (rowBank row)
  let opened := s.mem.openRow.find? (fun e => e.1 == rowBank row)
  match queue.find? (fun e => e.req == r.id && e.part == k) with
  | none => false
  | some me =>
    let older := queue.takeWhile (fun e => !(e.req == r.id && e.part == k))
    older.all (fun e => decide (e.passed < 16) && (match s.reqOf e.req with
      | some q => !q.sameHome e.part r k
      | none => true)) &&
    (decide (16 ≤ me.passed) || opened.all (fun o => o.2 == row || queue.all (fun e => s.rowAt e != some o.2)))

/-- A controller has served part k: the part leaves its place, its row is the open row of its bank, and every part that came before it for the
bank has been passed once more (R109). -/
def State.servedPart (s : State) (r : MemReq) (k : Nat) : State :=
  let row := dramRow (r.partAddr k)
  let isMe : Arrived → Bool := fun e => e.req == r.id && e.part == k
  let older := s.mem.tracker.takeWhile (fun e => !isMe e)
  let rest := (s.mem.tracker.dropWhile (fun e => !isMe e)).drop 1
  { s with mem := { s.mem with
    openRow := insert s.mem.openRow (rowBank row) row
    tracker := older.map (fun e => match s.rowAt e with
      | some w => if rowBank w = rowBank row then { e with passed := e.passed + 1 } else e
      | none => e) ++ rest } }

/-! ## Memory-side operations -/

/-- The new value of an integer atomic or FP32 addition on `n` bytes (Table: Memory-side operations, R114, R173). -/
def atomicResult (op : AtomicOp) (n : Nat) (old operand compare : Nat) : Nat :=
  let w := 8 * n
  match op with
  | .swap => operand
  | .cas => if old = compare then operand else old
  | .add => (old + operand) % 2 ^ w
  | .smin => if signed w old ≤ signed w operand then old else operand
  | .smax => if signed w old ≤ signed w operand then operand else old
  | .umin => min old operand
  | .umax => max old operand
  | .and => old &&& operand
  | .or => old ||| operand
  | .xor => old ^^^ operand
  | .fadd =>
    let f := floatFmt .fp32
    (f.add Rounding.memory 0 (f.decode old) (f.decode operand)).1

/-- Element-wise addition of 64 bytes to 64 bytes (R113, R114). -/
def reduceBytes (fmt : LaneFmt) (old new : List Byte) : List Byte :=
  let f := floatFmt fmt
  let n := laneWidth fmt / 8
  (List.range (64 / n)).flatMap (fun i =>
    let x := f.decode (leNat ((old.drop (n * i)).take n))
    let y := f.decode (leNat ((new.drop (n * i)).take n))
    natLe n (f.add Rounding.memory i x y).1)

/-! ## Transactions -/

/-- The part was performed and returned `bytes`. -/
def MemReq.serve (r : MemReq) (k : Nat) (bytes : List Byte) : MemReq :=
  { r with served := insert r.served k { status := .performed, bytes := bytes } }

/-- The part ended with an error status and returned nothing. -/
def MemReq.failed (r : MemReq) (k : Nat) (st : RespStatus) : MemReq := { r with served := insert r.served k { status := st, bytes := [] } }

/-- Bytes of part k. -/
def MemReq.partLen (r : MemReq) (k : Nat) : Nat := if r.len ≤ 64 then r.len else min 64 (r.len - 64 * k)

/-- The controller performs a transaction that reads first: uncorrectable data end it with nothing written (R118). -/
def State.readFirst (s : State) (r : MemReq) (k l : Nat) (err : DramErr) (f : State → List Byte → State × List Byte) : State :=
  let c := s.dramCheck l err
  if c.2 then c.1.setReq (r.failed k .badDram)
  else
    let p := f c.1 (readBytes c.1.mem.dram l (r.partLen k))
    p.1.setReq (r.serve k p.2)

/-- A whole or partial write (R110, R118, R119). -/
def State.storePart (s : State) (r : MemReq) (k l : Nat) (err : DramErr) (bytes : List Byte) : State :=
  if bytes.length = 64 then (s.devWrite 0 l bytes).setReq (r.serve k [])
  else s.readFirst r k l err (fun s _ => (s.devWrite 0 l bytes, []))

/-- The controller of the home performs part k, at tile-local address l (R109, R113–R119); `err` is what its code check meets, and `ecc` what the
check of the scratchpad meets where a DMA reads it (R53). -/
def State.performPart (s : State) (r : MemReq) (k l : Nat) (err : DramErr) (ecc : PadErrs) : State :=
  match r.op with
  | .store => s.storePart r k l err ((r.bytes.drop (64 * k)).take 64)
  | .atomic op a c => s.readFirst r k l err (fun s old =>
      (s.devWrite 0 l (natLe r.len (atomicResult op r.len (leNat old) a.toNat c.toNat)), old))
  | .reduce f => s.readFirst r k l err (fun s old => (s.devWrite 0 l (reduceBytes f old r.bytes), []))
  | .dmaWrite pad =>
    let off := (pad + 64 * k) % padSize
    let c := s.padCheck r.tile off 64 ecc
    if c.2 then c.1.setReq (r.failed k .badPad)
    else c.1.storePart r k l err (readPad (c.1.tile r.tile).pad off 64)
  | _ => s.readFirst r k l err (fun s bytes => (s, bytes))

/-- The tracker entry of a part that has been served frees, and threads that stalled for one go on, at its home and at its tile (R44, R60). -/
def State.freed (s : State) (r : MemReq) (k : Nat) : State := (s.settle (r.partHome k)).settle r.tile

/-- CHANNEL_TRANSACTION (R44, R60, R109–R119, R127, R137–R150): one part of a request travels to its home, unless it is there already, and the
controller serves it where it is its turn and the channel issues. Nothing of that happens where the part has been performed, where an earlier access
of its source to the home has not (R147), or where a part of its DMA has failed (R118). -/
def execChannelTransaction (id part : Nat) (err : DramErr) (ecc : PadErrs) (s : State) : Answer :=
  .next (match s.reqOf id with
  | none => s
  | some r =>
    if r.remote.isSome ∨ r.parts ≤ part ∨ r.hasServed part ∨ (r.isDma ∧ r.status ≠ .performed) ∨ s.blocked r part then s
    else
      let s := s.carry r part
      if s.channelOpen (r.partHome part) && s.turnOf r part then
        ((s.servedPart r part).performPart r part (r.partAddr part) err ecc).freed r part
      else s)

/-- A remote access performed at its home scratchpad (R53, R56, R146, R172). -/
def State.performRemote (s : State) (r : MemReq) (home : Nat) (ecc : PadErrs) : State :=
  match r.op with
  | .remStore => ((s.padWrite home r.addr r.bytes).settle home).setReq (r.serve 0 [])
  | .remAdd v =>
    let c := s.padCheck home r.addr 8 ecc
    if c.2 then c.1.setReq (r.failed 0 .badPad)
    else
      let old := readPad (c.1.tile home).pad r.addr 8
      ((c.1.padWrite home r.addr (natLe 8 (leNat old + v.toNat))).settle home).setReq (r.serve 0 old)
  | _ =>
    let c := s.padCheck home r.addr r.len ecc
    if c.2 then c.1.setReq (r.failed 0 .badPad)
    else c.1.setReq (r.serve 0 (readPad (c.1.tile home).pad r.addr r.len))

/-- A remote request no longer waits at its home. -/
def State.leave (s : State) (id : Nat) : State :=
  { s with mem := { s.mem with tracker := s.mem.tracker.filter (fun e => e.req != id) } }

/-- An access that came to its home before another has words of it to perform still (R52, R147, R148). -/
def State.cameBefore (s : State) (r : MemReq) : Bool :=
  (s.mem.tracker.takeWhile (fun e => e.req != r.id)).any (fun e => match s.reqOf e.req with
    | some q => q.sameHome e.part r 0
    | none => false)

/-- REMOTE_SCRATCHPAD_ACCESS (R65, R137–R148, R156, R157, R172): a remote request travels to its home, unless it is there already, and is
performed and answered there in its turn; one that came when the tile was fenced is answered with the fenced status. -/
def execRemoteScratchpadAccess (id : Nat) (ecc : PadErrs) (s : State) : Answer :=
  .next (match s.reqOf id with
  | none => s
  | some r =>
    match r.remote with
    | none => s
    | some home =>
      if r.hasServed 0 ∨ s.blocked r 0 then s
      else
        let s := s.carry r 0
        match s.mem.tracker.find? (fun e => e.req == id) with
        | none => s
        | some e =>
          if !s.homeLive home ∨ s.cameBefore r then s
          else if e.late then (s.leave id).setReq (r.failed 0 .fenced)
          else (s.leave id).performRemote r home ecc)

/-! ## Responses -/

/-- The cause a thread faults with on a response status; none for a performed access (Table: Response status, R55). -/
def statusCause (st : RespStatus) (remote : Bool) : Option (BitVec 8) :=
  match st with
  | .performed => none
  | .badDram => some 0x05
  | .badPad => some (if remote then 0x06 else 0x04)
  | .fenced => some 0x08

/-- The returned data reaches its registers (R164, R165, R173). A scalar takes fewer than 8 bytes with zeros above them: DESIGN CHOICE (log 14). -/
def Thread.deliver (x : Thread) (d : Dest) (bytes : List Byte) : Thread :=
  match d with
  | .none => x
  | .scalar r => x.writeS (BitVec.ofNat 5 r.val) (BitVec.ofNat 64 (leNat bytes))
  | .vector v => { x with v := x.v.set v (BitVec.ofNat 1024 (leNat bytes)) }
  | .half v up on => { x with v := x.v.set v (keepLanes on x.v[v] (setHalf x.v[v] up bytes)) }

/-- A response reaches its thread: with an error status the thread faults (R156), and with the last of the access's parts its data is delivered. -/
def State.respond (s : State) (r : MemReq) (st : RespStatus) (last : Bool) : State :=
  match statusCause st r.remote.isSome with
  | some c => (s.lateFault r.tile r.thread c r.pc).settle r.tile
  | none =>
    let s := if last ∧ r.status = .performed then
      s.setThread r.tile r.thread ((s.thread r.tile r.thread).deliver r.dest (r.served.flatMap (fun e => e.2.bytes))) else s
    s.settle r.tile

/-- The data of a part of a DMA read reaches the scratchpad (R164, R170). -/
def State.dmaArrive (s : State) (r : MemReq) (part : Nat) (e : PartEnd) : State :=
  match r.op with
  | .dmaRead pad => if e.status = .performed then s.padWrite r.tile (pad + 64 * part) e.bytes else s
  | _ => s

/-- RESPONSE_ARRIVAL (R60, R137, R141–R144, R155–R157): the response to one part of an access returns by its own route, and its tracker entry is
freed; with the last of them a thread's access ends, and a DMA read's part reaches the scratchpad. A response after its timeout, or one of a launch
that has ended, is discarded. -/
def execResponseArrival (id part : Nat) (s : State) : Answer :=
  .next (match s.reqOf id with
  | none => s
  | some r =>
    match r.ended part with
    | none => s
    | some e =>
      if r.answered.contains part ∨ (!r.partNear part ∧ !s.routeLive (r.homeNode part) (.tile r.tile)) then s
      else
        let s := if r.partNear part then s else s.sendBack r part
        let r := { r with answered := addNat r.answered part }
        let last := !r.isDma && (List.range r.parts).all r.answered.contains
        let s := if last then s.dropReq id else s.setReq r
        if r.expired.contains part then (s.flag cnpErr 1).settle r.tile
        else if r.orphan then s.settle r.tile
        else if r.isDma then (s.dmaArrive r part e).settle r.tile
        else s.respond r e.status last)

/-- REMOTE_REQUEST_TIMEOUT (R155): one part of an access, a request over the Canopy with an entry of its own, has had no response for
CNP_TIMEOUT_CFG.timeout_us; its entry is freed and its thread faults with cause 0x06. A part of a DMA that has not set out holds none. -/
def execRemoteRequestTimeout (id part : Nat) (s : State) : Answer :=
  .next (match s.reqOf id with
  | none => s
  | some r =>
    if r.parts ≤ part ∨ r.partNear part ∨ r.answered.contains part ∨ r.expired.contains part ∨
        (r.isDma ∧ !s.travels id part ∧ !s.waits id part ∧ !r.hasServed part) then s
    else
      let s := (s.setReq { r with expired := addNat r.expired part }).flag cnpErr 2
      (if r.orphan then s else s.lateFault r.tile r.thread 0x06 r.pc).settle r.tile)

/-- Every part of a request has been answered. -/
def MemReq.allAnswered (r : MemReq) : Bool := (List.range r.parts).all r.answered.contains

/-- The first status of the parts answered so far that is not performed. -/
def MemReq.answer (r : MemReq) : RespStatus := ({ r with served := r.served.filter (fun e => r.answered.contains e.1) } : MemReq).status

/-- A DMA that has failed is given up: what of it still waits at a home leaves, and threads there that stalled for its entries go on (R44, R60). -/
def State.giveUp (s : State) (r : MemReq) : State :=
  let homes := (s.mem.tracker.filter (fun e => e.req == r.id)).map (fun e => r.partHome e.part)
  homes.foldl State.settle (s.dropReq r.id)

/-- DMA_COMPLETE (R55, R118, R171): the oldest DMA of a thread completes once all its parts have been answered, or once one has been with an
error. -/
def execDmaComplete (th : Thr) (s : State) : Answer :=
  .next (match s.mem.reqs.find? (fun r => decide (r.tile = th.tile.val ∧ r.thread = th.thread) && r.isDma) with
  | none => s
  | some r =>
    match statusCause r.answer false with
    | some c =>
      let s := s.giveUp r
      if r.timedOut ∨ r.orphan then s.settle r.tile else (s.lateFault r.tile r.thread c r.pc).settle r.tile
    | none => if r.allAnswered then (s.dropReq r.id).settle r.tile else s)

/-- REQUEST_AGING (R144): the request flit of a part of a request that stands first in its buffer, and has waited 32 cycles at the output it wants,
goes first there from the next cycle on. -/
def execRequestAging (id part : Nat) (s : State) : Answer :=
  .next { s with canopy := { s.canopy with flits := s.canopy.flits.map (fun f =>
    if f.req = id ∧ f.part = part ∧ !f.resp ∧ s.canopy.first f then { f with aged := true } else f) } }

/-! ## Launch-wide events -/

/-- Whether a tile has arrived at the launch-wide barrier: every started thread waits there or has halted (R179). -/
def Tile.arrived (x : Tile) : Bool :=
  x.threads.toList.all (fun y => !y.started || decide (y.state = .halted ∨ y.wait = some .gbar))

/-- Releases the threads of a tile that wait at the launch-wide barrier. -/
def Tile.releaseGbar (x : Tile) : Tile :=
  { x with threads := x.threads.map (fun y => if y.wait = some .gbar then { y with state := .ready, wait := none } else y) }

/-- Replaces the launch of a queue. -/
def State.setLaunch (s : State) (l : Launch) : State :=
  { s with hq := { s.hq with launches := s.hq.launches.map (fun k => if k.q = l.q then l else k) } }

/-- GBAR_ARRIVAL (R179): a tile's arrival reaches the queue engine; when every tile of the launch has arrived, all are
released. A tile whose started threads have all halted counts as arrived. -/
def execGbarArrival (t : Fin 2560) (s : State) : Answer :=
  .next (match s.launchOf t with
  | none => s
  | some l =>
    if !(s.tile t).arrived then s
    else
      let l := { l with arrived := addNat l.arrived t.val }
      if s.tiles.all (fun e => !l.has e.1 || l.arrived.contains e.1 || e.2.ended) then
        let s := { s with tiles := s.tiles.map (fun (e : Nat × Tile) => if l.has e.1 then (e.1, e.2.releaseGbar) else e) }
        s.setLaunch { l with arrived := [] }
      else s.setLaunch l)

/-- Whether fault report a comes before report b: by time stamp, then tile, then thread (R63). -/
def FaultRep.before (a b : FaultRep) : Bool :=
  if a.stamp ≠ b.stamp then a.stamp.ult b.stamp
  else if a.tile ≠ b.tile then decide (a.tile < b.tile)
  else decide (a.thread < b.thread)

/-- The first of some fault reports. -/
def firstFault : List FaultRep → Option FaultRep
  | [] => none
  | r :: rest => match firstFault rest with
    | none => some r
    | some f => some (if f.before r then f else r)

/-- Completion of a launch that a thread fault has aborted (R63, R219, Table: Completion detail). -/
def faultCompletion (f : FaultRep) (count : Nat) : Completion :=
  { status := 5, overlap := false, faultCount := BitVec.ofNat 32 count
    detail0 := BitVec.ofNat 64 (tileIdent f.tile + f.thread.val * 2 ^ 16 + f.cause.toNat * 2 ^ 24 + f.pc.toNat * 2 ^ 32)
    detail1 := f.stamp }

/-- The root PLL cycle at which the time of a launch runs out (R212, R471). -/
def Launch.expiry (l : Launch) : Nat := l.started.toNat + l.timeoutUs * 12500

/-- The faults of a launch that came in its time (R212). -/
def Launch.timely (l : Launch) : List FaultRep := if l.timeoutUs = 0 then l.faults else l.faults.filter (fun f => decide (f.stamp.toNat ≤ l.expiry))

/-- FAULT_REPORT (R62, R63, R212): the queue engine takes the first fault report of queue q's launch and aborts the launch; where the launch's
time had run out before that fault, it ends with TIMEOUT. -/
def execFaultReport (q : Fin 64) (s : State) : Answer :=
  .next (match s.hq.launches.find? (fun l => decide (l.q = q)) with
  | none => s
  | some l =>
    match firstFault l.faults with
    | none => s
    | some f =>
      if l.timeoutUs ≠ 0 ∧ l.expiry < f.stamp.toNat then (s.endLaunch l true).complete q (plain 6)
      else (s.endLaunch l true).complete q (faultCompletion f l.timely.length))

/-- SCRATCHPAD_SCRUB (R53–R57): the scrubber reads the four words of granule g of a tile's scratchpad; what it finds is reported, and no thread
faults. -/
def execScratchpadScrub (t : Fin 2560) (g : Fin 32768) (ecc : PadErrs) (s : State) : Answer :=
  .next (if s.homeLive t then (s.padCheck t (32 * g.val) 32 ecc).1 else s)

end Sys2Proof.Machine
end

