-- ==== Sys2Proof/Machine/MemEvents.lean ====
section
/-! DEFINITION. The stacked memory's own events and the Canopy's link errors (R120, R126–R128, R130, R152, R153). -/

namespace Sys2Proof.Machine

open Sys2Proof

/-- Transactions of a slice (R120). -/
def sliceTransactions : Nat := 8388608

/-- Something waits for the channel of a slice (R120). -/
def State.channelWanted (s : State) (sl : Nat) : Bool :=
  s.mem.tracker.any (fun e => match s.reqOf e.req with
    | some r => r.remote.isNone && r.partHome e.part == sl
    | none => false)

/-- PATROL_SCRUB_READ (R117, R118, R120, R127, R131): the scrubber's next read of a slice, unless it is stopped or paused, the channel issues
no transaction, or another source wants its slot. -/
def execPatrolScrubRead (sl : Fin 2560) (err : DramErr) (s : State) : Answer :=
  let ctrl := s.mreg memCtrl
  .next (if !bit ctrl 0 ∨ bit ctrl 1 ∨ !s.channelOpen sl ∨ s.channelWanted sl then s
  else
    let pos := find 0 s.mem.patrol sl
    let s := { s with mem := { s.mem with patrol := insert s.mem.patrol sl ((pos + 1) % sliceTransactions) } }
    (s.dramCheck (sl.val * 2 ^ 29 + pos * 64) err).1)

/-- Whether a bank of a slice has requests waiting (R128). -/
def State.bankWanted (s : State) (sl bank : Nat) : Bool := !(s.atBank (sl * 128 + bank)).isEmpty

/-- REFRESH_COMMAND (R128): 4 rows of the bank are refreshed, with those of the commands postponed before, and its open row closes. While the bank has
requests waiting the controller may postpone up to 4 commands: whether it does is a free value (log 12). -/
def execRefreshCommand (sl : Fin 2560) (bank : Fin 128) (s : State) : Answer :=
  let key := sl.val * 128 + bank.val
  let late := find 0 s.mem.postponed key
  .next (if !s.homeLive sl then s
  else if late < 4 ∧ s.bankWanted sl bank ∧ bit s.fresh.toNat 0 then
    { s.drawn with mem := { s.mem with postponed := insert s.mem.postponed key (late + 1) } }
  else
    let done := find 0 s.mem.refreshed key
    { s.drawn with mem := { s.mem with
        openRow := erase s.mem.openRow key
        postponed := erase s.mem.postponed key
        refreshed := insert s.mem.refreshed key ((done + 4 * (late + 1)) % 2048) } })

/-- Whether a layer sensor has failed: outside −20 °C to 150 °C, or more than 20 °C from each of its neighbours; layers 0 and 7
have one neighbour (R126; log 48). Readings are in 1/16 °C. -/
def sensorFailed (l : List Int) (i : Nat) : Bool :=
  let x := l.getD i 0
  let far : Nat → Bool := fun j => match l[j]? with
    | some y => decide (320 < (x - y).natAbs)
    | none => true
  decide (x < -320 ∨ 2400 < x) || ((i = 0 || far (i - 1)) && far (i + 1))

/-- Entry threshold of a band in 1/16 °C (Table: DRAM temperature bands). -/
def bandEntry (throttle : Nat) : Nat → Int
  | 1 => 85 * 16
  | 2 => 95 * 16
  | 3 => (throttle : Int) * 16
  | _ => 105 * 16

/-- The band a temperature selects: entered at its threshold and left 2 °C below it (R127). -/
def bandOf (throttle : Nat) (now : Nat) (t : Int) : Nat :=
  (List.range 4).foldl (fun b i =>
    let k := i + 1
    if bandEntry throttle k ≤ t ∨ (k ≤ now ∧ bandEntry throttle k - 32 < t) then k else b) 0

/-- The greatest of some readings. -/
def hottest : List Int → Option Int
  | [] => none
  | x :: rest => match hottest rest with
    | none => some x
    | some y => some (max x y)

/-- A stack changes band; entering throttle or Stop is recorded (R127). -/
def State.setBand (s : State) (st : Fin 20) (b : Nat) : State :=
  let old := s.mem.band[st].toNat
  let s := { s with mem := { s.mem with band := s.mem.band.set st (BitVec.ofNat 3 b) } }
  if 3 ≤ b ∧ old < b then s.record 0x16 .warning true st.val [BitVec.ofNat 8 b] else s

/-- LAYER_SENSOR_READ (R124, R126, R127): the controller reads the eight layer sensors and forms the stack temperature and band.
A layer that does not answer, or eight failed sensors, fail the stack. -/
def execLayerSensorRead (st : Fin 20) (temps : List (Option Int)) (s : State) : Answer :=
  let answered := temps.length = 8 ∧ temps.all Option.isSome
  .next (if !s.homeLive (st.val * 128) then s
  else if ¬answered then s.failStack st
  else
    let l := temps.filterMap id
    let bad := (List.range 8).filter (sensorFailed l)
    let was := (List.range 8).countP (fun i => s.mem.failedSensors[st].getLsbD i)
    let mask := bad.foldl (fun m i => m ||| (1#8 <<< i)) 0#8
    let working := ((List.range 8).filter (fun i => !bad.contains i)).map (fun i => l.getD i 0)
    let s := { s with mem := { s.mem with
      layerTemp := s.mem.layerTemp.set st l
      failedSensors := s.mem.failedSensors.set st mask } }
    let s := if was < 2 ∧ 2 ≤ bad.length then s.record 0x15 .warning false st.val [BitVec.ofNat 8 bad.length] else s
    match hottest working with
    | none => ({ s with mem := { s.mem with temp := s.mem.temp.set st 0x7FFF } }).failStack st
    | some top =>
      let t := if bad.isEmpty then top else top + 80
      let b := bandOf (s.mreg memThrottleCfg % 256) s.mem.band[st].toNat t
      let b := if 2 ≤ bad.length then max b 3 else b
      ({ s with mem := { s.mem with temp := s.mem.temp.set st (BitVec.ofInt 16 t) } }).setBand st b)

/-- TRUNK_RESISTANCE_CHECK (R130): the die's trunk resistance, in µΩ at a die current in A, against the baseline of the Stage 3 entry: one above
130 % of it, at more than 400 A, is recorded and reported once until one falls back. -/
def execTrunkResistanceCheck (d : Fin 4) (uohm amps : Nat) (s : State) : Answer :=
  .next (match s.mem.trunkBase[d] with
  | none => s
  | some base =>
    if amps ≤ 400 then s
    else
      let s := { s with mem := { s.mem with trunk := s.mem.trunk.set d (some uohm) } }
      if 130 * base < 100 * uohm then
        if s.mem.trunkHigh[d] then s
        else
          let s := { s with mem := { s.mem with trunkHigh := s.mem.trunkHigh.set d true } }
          (s.record 0x17 .warning false d.val (natLe 4 uohm)).report 0x0001 (0x1000 + d.val)
      else { s with mem := { s.mem with trunkHigh := s.mem.trunkHigh.set d false } })

/-! ## Canopy links -/

/-- The link exists (R134): a mesh link joins a router to its neighbour, west, east, north or south, on the same die, and a die edge has 20 or 33
links and 2 spares. -/
def linkExists : MeshLink → Bool
  | .mesh x y dir =>
    if dir = 0 then x.val % 33 != 0 else if dir = 1 then x.val % 33 != 32 else if dir = 2 then y.val % 20 != 0 else y.val % 20 != 19
  | .edge e k => decide (k.val < if e.val < 2 then 22 else 35)

/-- Number of a link in the keyed lists of the Canopy. The two directions of a mesh link are counted apart (log 175), and those
of a die-edge link together: DESIGN CHOICE (log 209). -/
def linkKey : MeshLink → Nat
  | .mesh x y dir => (y.val * 66 + x.val) * 4 + dir.val
  | .edge e k => 100000 + 100 * e.val + k.val

/-- Subject of the Canopy-failure record of a link (Table: Record types). -/
def linkSubject : MeshLink → Nat
  | .mesh x y _ => x.val * 256 + y.val
  | .edge e _ => 0x10000 + e.val

/-- Dies that a failed link takes (R153, Table: Die placement). -/
def linkDies : MeshLink → List (Fin 4)
  | .mesh x y _ => [if x.val < 33 then (if y.val < 20 then 0 else 2) else (if y.val < 20 then 1 else 3)]
  | .edge e _ => if e = 0 then [0, 1] else if e = 1 then [2, 3] else if e = 2 then [0, 2] else [1, 3]

/-- Part number of a link in a report (Table: Part index). -/
def linkPart (k : MeshLink) : Nat :=
  match k with
  | .mesh _ _ _ => 0x9000 + ((linkDies k).map Fin.val).headD 0
  | .edge e _ => 0x9100 + e.val

/-- CANOPY_LINK_FAILED (R153): fetching stops, the failure is reported and recorded, and the dies of the link lose power. -/
def State.failLink (s : State) (k : MeshLink) : State :=
  let s := { s with canopy := { s.canopy with failed := addNat s.canopy.failed (linkKey k) } }
  let s := s.flag cnpErr 3
  let s := { s with hq := { s.hq with stopped := true } }
  let s := s.report 0x0002 (linkPart k)
  let s := s.record 0x18 .fault false (linkSubject k) (natLe 4 (s.mreg cnpErr))
  (linkDies k).foldl State.loseDie s

/-- FLIT_CRC_FAILURE (R152, R153): a flit fails its CRC and is replayed. `again` says that it is the replay of the flit that failed last on this
link, so that the failed replays run on; any other failure begins a new run. When the eighth replay in a row fails, the link fails. -/
def execFlitCrcFailure (link : MeshLink) (again : Bool) (s : State) : Answer :=
  let k := linkKey link
  .next (if !linkExists link ∨ s.canopy.failed.contains k then s
  else
    let n := if again then find 0 s.canopy.replays k else 0
    if n < 8 then
      ({ s with canopy := { s.canopy with replays := insert s.canopy.replays k (n + 1), retryTotal := s.canopy.retryTotal + 1 } }).flag
        cnpErr 0
    else ({ s with canopy := { s.canopy with replays := erase s.canopy.replays k } }).failLink link)

/-! ## Remap points -/

/-- A pending retirement takes effect: its row steers to the spare, every moved tile's scratchpad is cleared, and the tile's
fence lifts (R49, R65–R67). -/
def State.applyRetirement (s : State) (t : Nat) : State :=
  let moved := (List.range (32 - columnOf t)).map (fun i => t + i)
  let s := moved.foldl (fun s u => s.setTile u { s.tile u with pad := [], padBad := [] }) s
  let cause := (s.tile t).retireCause
  let s := s.setTile t { s.tile t with fenced := false, retireCause := 0 }
  { s with retire := { s.retire with
    map := insert s.retire.map (rowOf t) (columnOf t)
    causes := insert s.retire.causes (rowOf t) cause } }

/-- A pending row repair takes effect: the row is steered to its bank's next spare; its contents, and its failing codes, go with
it (R122). A row repaired before leaves its spare unused for good. -/
def MemState.applyRepair (m : MemState) (row : Nat) : MemState :=
  let n := find 0 m.sparesUsed (rowBank row)
  { m with rowMap := insert m.rowMap row n, sparesUsed := insert m.sparesUsed (rowBank row) (n + 1) }

/-- An authorised edit restores a tile (R510, R512): the retirement of its row is removed, and the scratchpads of the tiles that move back
are cleared (R49); a tile that only awaited its remap, or had no spare, is no longer marked. -/
def State.applyEdit (s : State) (t : Nat) : State :=
  if s.retire.map.any (fun k => k.1 == rowOf t && k.2 == columnOf t) then
    let moved := (List.range (32 - columnOf t)).map (fun i => t + i)
    let s := moved.foldl (fun s u => s.setTile u { s.tile u with pad := [], padBad := [] }) s
    { s with retire := { s.retire with map := erase s.retire.map (rowOf t), causes := erase s.retire.causes (rowOf t) } }
  else
    let s := s.setTile t { s.tile t with fenced := false, retireCause := 0 }
    { s with retire := { s.retire with
      pending := s.retire.pending.filter (fun u => u != t), stuck := s.retire.stuck.filter (fun u => u != t) } }

/-- A remap point: Crown applies every pending retirement, edit and row repair (R67, R122, R512). -/
def State.applyRemap (s : State) : State :=
  let edits := s.retire.edits
  let s := edits.foldl State.applyEdit { s with retire := { s.retire with edits := [] } }
  let pend := s.retire.pending
  let s := pend.foldl State.applyRetirement { s with retire := { s.retire with pending := [] } }
  let m : MemState := { s.mem with repairs := [] }
  { s with mem := s.mem.repairs.foldl MemState.applyRepair m }

end Sys2Proof.Machine
end

