-- ==== Sys2Proof/Machine/Queues.lean ====
section
/-! DEFINITION. Work queues: reach of a function's registers, polling and fetching, completion records, the queue commands,
ownership, and the maintenance pause (07_host_queues.md). -/

namespace Sys2Proof.Machine

open Sys2Proof

/-! ## Reach -/

/-- Crown firmware has run in Stage 2 and the module is in a stage in which its functions enumerate (R466, R573). -/
def State.enumerates (s : State) : Bool :=
  match s.stage with
  | .stage2 | .entry | .stage3 | .quiescing | .quiesced | .failed => true
  | _ => false

/-- Memory accesses through a function reach BAR0 (R192, R573). -/
def State.reaches (s : State) (fn : Fn) : Bool := s.host[fnIdx fn].up && !s.host[fnIdx fn].d3hot && s.enumerates

/-- Writes to the HQ_, MEM_, CNP_ and BX_ blocks take effect: they do in Stage 3 alone (R573). -/
def State.opens (s : State) (fn : Fn) : Bool := s.reaches fn && decide (s.stage = .stage3)

/-- A memory access to a function in D3hot: a write is discarded and a read completes with Unsupported Request, and either is
logged through AER (R192). An access through a port whose link is down does not reach the module. -/
def State.refuseWrite (s : State) (fn : Fn) : State :=
  if s.host[fnIdx fn].up ∧ s.host[fnIdx fn].d3hot then s.emit (.aer fn) else s

/-- An HQ_STATUS event of a function (Table: HQ_STATUS fields). -/
def State.hqEvent (s : State) (fn : Fn) (n : Nat) : State := s.setStatus fn hqStatus n

/-! ## Configuration of a queue -/

/-- HQ_Qq_CFG (Table: HQ_Qq_CFG fields). -/
def State.qCfg (s : State) (q : Fin 64) : Nat := s.mreg (qReg q + 0x20)
/-- Submission ring size 2^n. -/
def State.sqSize (s : State) (q : Fin 64) : Nat := 2 ^ bits (s.qCfg q) 3 0
/-- Completion ring size 2^m. -/
def State.cqSize (s : State) (q : Fin 64) : Nat := 2 ^ bits (s.qCfg q) 7 4
/-- Poll interval in 0.5 µs units. -/
def State.qPoll (s : State) (q : Fin 64) : Nat := bits (s.qCfg q) 15 8
/-- Priority. -/
def State.qPrio (s : State) (q : Fin 64) : Nat := bits (s.qCfg q) 17 16
/-- Bus addresses of the rings and of the doorbell word. -/
def State.sqBase (s : State) (q : Fin 64) : Nat := s.mreg (qReg q) / 4096 * 4096
def State.cqBase (s : State) (q : Fin 64) : Nat := s.mreg (qReg q + 0x08) / 4096 * 4096
def State.dbAddr (s : State) (q : Fin 64) : Nat := s.mreg (qReg q + 0x10) / 8 * 8

/-- A configuration that an enable accepts (R223). The register file holds listed values alone (R16). -/
def State.cfgValid (s : State) (q : Fin 64) : Bool :=
  s.sqBase q != 0 && s.cqBase q != 0 && s.dbAddr q != 0 && s.mreg (qReg q + 0x18) / 8 != 0 &&
  bits (s.qCfg q) 20 18 == 2 && decide (1 ≤ s.qPoll q ∧ s.qPoll q ≤ 128) &&
  decide (4 ≤ bits (s.qCfg q) 3 0) && decide (4 ≤ bits (s.qCfg q) 7 4)

/-- A queue's address and configuration registers return to their reset values (R227, R228). DESIGN CHOICE (log 198): HQ_Qq_CTRL is one of
them. -/
def State.resetCfg (s : State) (q : Fin 64) : State :=
  [0x00, 0x08, 0x10, 0x18, 0x20, 0x24].foldl (fun s o => s.setReg .A (qReg q + o) (regReset (qReg q + o))) s

/-! ## Polling (R202–R206) -/

/-- The sum of 1/n over a list, as a fraction. -/
def sumInverse : List Nat → Nat × Nat
  | [] => (0, 1)
  | n :: rest => let (a, b) := sumInverse rest; (a * n + b, b * n)

/-- The polls of the ENABLED queues of a port exceed 16 × 10⁶ per second (R204): each makes 2 × 10⁶ / poll. -/
def State.stretched (s : State) (fn : Fn) : Bool :=
  let qs := (List.finRange 64).filter (fun q => decide (s.queues[q].owner = some fn ∧ s.queues[q].state = .enabled))
  let (a, b) := sumInverse (qs.map s.qPoll)
  decide (8 * b < a)

/-- Non-posted requests of a port that are outstanding for doorbells and descriptors (R187). The reads of a COPY use what tags these leave
(log 181). -/
def State.tagsUsed (s : State) (fn : Fn) : Nat :=
  (s.queues.toList.map (fun x => if x.owner = some fn then x.polling + (64 * x.reading + 127) / 128 else 0)).sum

/-- DOORBELL_POLL (R187, R198, R202): the poll interval of an ENABLED queue begins: a status write that was held back is made,
unless the interval has had its write already, and the doorbell word is read, once the port has a tag free. -/
def execDoorbellPoll (q : Fin 64) (s : State) : Answer :=
  .next (let x := s.queues[q]
  match x.owner with
  | some fn =>
    if x.state = .enabled ∧ s.canMaster fn ∧ s.tagsUsed fn < 512 then
      let s := s.setQueue q { x with
        polling := x.polling + 1, statusMade := x.statusOwed || x.statusFirst, statusOwed := x.statusOwed && x.statusFirst
        statusFirst := false, wakeDue := false }
      let s := if x.statusOwed ∧ !x.statusFirst then s.writeStatus q else s
      s.emit (.hostRead fn (s.dbAddr q) 8)
    else s
  | none => s)

/-- Descriptors that the queue engine may fetch now in one read: those below sq_tail, none where it has been lowered to or under what is fetched, with
a completion slot for every record from done on (R199, R230, R297). -/
def State.fetchable (s : State) (q : Fin 64) : Nat :=
  let x := s.queues[q]
  if x.state ≠ .enabled ∨ x.reading ≠ 0 ∨ s.hq.maint ∨ s.hq.stopped ∨ s.fleet.fenced then 0
  else
    let ahead := (x.sqTail - x.fetched).toNat
    let avail := if ahead ≤ s.sqSize q then ahead else 0
    let room := 4 - x.inflight.length
    let used := (x.done - x.cqHead).toNat + (x.fetched - x.done).toNat
    let free := s.cqSize q - used
    let toEnd := s.sqSize q - x.fetched.toNat % s.sqSize q
    min (min avail room) (min free toEnd)

/-- Place of a port's queues of one priority among the turns of fetching. -/
def fetchTurn (fn : Fn) (prio : Nat) : Fin 8 := ⟨(fnIdx fn).val * 4 + prio % 4, by have := (fnIdx fn).isLt; omega⟩

/-- The queue engine reads what it may fetch, once the port has tags free (R187, R199). -/
def State.tryFetch (s : State) (q : Fin 64) : State :=
  let n := s.fetchable q
  match s.queues[q].owner with
  | some fn =>
    if n = 0 ∨ !s.canMaster fn ∨ 511 ≤ s.tagsUsed fn then s
    else
      let x := s.queues[q]
      ({ s with hq := { s.hq with lastFetch := s.hq.lastFetch.set (fetchTurn fn (s.qPrio q)) q } }.setQueue q { x with reading := n }).emit
        (.hostRead fn (s.sqBase q + 64 * (x.fetched.toNat % s.sqSize q)) (64 * n))
  | none => s

/-- The queues of the two ports, which do not compete for tags, in the order in which the queue engine serves them: the highest priority first, and
each in round-robin order (R187, R201). -/
def State.fetchOrder (s : State) : List (Fin 64) :=
  [Fn.A, Fn.B].flatMap (fun fn => [3, 2, 1, 0].flatMap (fun p =>
    (turnsAfter s.hq.lastFetch[fetchTurn fn p]).filter (fun q => s.qPrio q == p && decide (s.queues[q].owner = some fn))))

/-- The queue engine fetches on every queue that lets it, in their order, as far as tags go (R187, R199, R201). -/
def State.fetchAll (s : State) : State := s.fetchOrder.foldl State.tryFetch s

/-- A read of an ENABLED or a DRAINING queue has failed: the queue enters ERROR with cause fetch_error (R222, R229). -/
def State.readFails (s : State) (q : Fin 64) : State :=
  match s.queues[q].state with
  | .enabled => s.queueError q 1
  | .draining => s.queueError q 1
  | _ => s

/-- DOORBELL_READ_COMPLETE (R197, R199, R203, R229): the doorbell word returns, or the read fails. What returns when the queue is no
longer ENABLED is discarded. -/
def execDoorbellReadComplete (q : Fin 64) (word : Option (BitVec 64)) (s : State) : Answer :=
  .next (let x := s.queues[q]
  if x.polling = 0 then s
  else
    let s := s.setQueue q { x with polling := x.polling - 1 }
    match word with
    | none => s.readFails q
    | some w =>
      if x.state ≠ .enabled then s
      else
        let tail : BitVec 32 := w.setWidth 32
        let s := s.setQueue q { s.queues[q] with sqTail := tail, cqHead := w.extractLsb 63 32 }
        if s.sqSize q < (tail - x.done).toNat then s.queueError q 2 else s.fetchAll)

/-- The status word after a fetch: at once, unless one has been written in this poll interval (R198). -/
def State.statusAfterFetch (s : State) (q : Fin 64) : State :=
  let x := s.queues[q]
  if x.statusMade then s.setQueue q { x with statusOwed := true }
  else (s.setQueue q { x with statusMade := true }).writeStatus q

/-- DESCRIPTOR_READ_COMPLETE (R198, R199, R207, R222, R224, R229, R522): fetched descriptors arrive, or the read fails. An error of the
descriptor buffer that leaves data unusable acts as a poisoned read. Descriptors that arrive once the queue is no longer ENABLED are not
fetched, and those that arrive in a maintenance pause are (log 182). -/
def execDescriptorReadComplete (q : Fin 64) (descs : Option (List (BitVec 512))) (sram : SramErr) (s : State) : Answer :=
  .next (let x := s.queues[q]
  if x.reading = 0 then s
  else
    let s := s.sramError 5 0 sram
    let s := s.setQueue q { s.queues[q] with reading := 0 }
    match descs with
    | none => s.readFails q
    | some ds =>
      if fatalSram sram ∨ ds.length < x.reading then s.readFails q
      else if x.state ≠ .enabled then s
      else
        let new := (List.zip (List.range x.reading) ds).map (fun e =>
          ({ index := x.fetched + BitVec.ofNat 32 e.1, desc := e.2, phase := .fetched } : InFlight))
        let s := s.setQueue q { s.queues[q] with
          fetched := x.fetched + BitVec.ofNat 32 x.reading, inflight := x.inflight ++ new }
        (s.statusAfterFetch q).fetchAll)

/-- STATUS_WORD_WRITE (R198): a held-back status write is made at the start of the poll interval that begins, and counts as that interval's. -/
def execStatusWordWrite (q : Fin 64) (s : State) : Answer :=
  .next (let x := s.queues[q]
  if x.statusOwed ∧ !x.statusFirst then
    (s.setQueue q { x with statusOwed := false, statusMade := true, statusFirst := true }).writeStatus q
  else s)

/-- The effect of a value written to HQ_WAKE (R205). DESIGN CHOICE (log 198): the register keeps the number of a wake that is ignored. -/
def State.wakeQueue (s : State) (fn : Fn) (value : Nat) : State :=
  let s := s.setReg fn hqWakeReg (BitVec.ofNat 64 (value % 64))
  if h : value % 64 < 64 then
    let q : Fin 64 := ⟨value % 64, h⟩
    if s.queues[q].owner ≠ some fn then s.hqEvent fn 1
    else if s.queues[q].state = .enabled then s.setQueue q { s.queues[q] with wakeDue := true }
    else s
  else s

/-- HQ_WAKE (R205). -/
def execHqWake (fn : Fn) (value : BitVec 32) (s : State) : Answer :=
  .next (if s.opens fn then s.wakeQueue fn value.toNat else s.refuseWrite fn)

/-! ## Completion records (R219–R221) -/

/-- Bytes of a completion record (Table: Completion record). -/
def recordBytes (d : InFlight) (c : Completion) (phase : Bool) : List Byte :=
  natLe 4 (dfield d.desc 4 4) ++ natLe 4 d.index.toNat ++ natLe 2 c.status.toNat ++
  [BitVec.ofNat 8 (dfield d.desc 0 1), BitVec.ofNat 8 (b2n phase + 2 * b2n c.overlap)] ++
  natLe 4 c.faultCount.toNat ++ natLe 8 c.detail0.toNat ++ natLe 8 c.detail1.toNat

/-- A DRAINING or ABORTING queue whose fetched descriptors have all had their records becomes DISABLED (R222). -/
def State.settleQueue (s : State) (q : Fin 64) : State :=
  let x := s.queues[q]
  if x.inflight.isEmpty then
    match x.state with
    | .draining => s.setQueueState q .disabled
    | .aborting => s.setQueueState q .disabled
    | _ => s
  else s

/-- A part of a request may still be performed: its home has power, and the part waits there, is on its way, or can set out (R147, R153). -/
def State.canPerform (s : State) (r : MemReq) (k : Nat) : Bool :=
  !r.hasServed k && s.homeLive (r.partHome k) &&
    (s.waits r.id k || s.travels r.id k || (r.partNear k || s.routeLive (.tile r.tile) (r.homeNode k)))

/-- Writes, atomics and DMAs of a LAUNCH that their homes have still to perform (R221). -/
def State.unperformed (s : State) (d : InFlight) : Bool :=
  dfield d.desc 0 1 == 2 && s.mem.reqs.any (fun r => r.orphan && decide (r.status = .performed) && (List.range r.parts).any (s.canPerform r) &&
    decide (dfield d.desc 32 2 ≤ r.tile ∧ r.tile < dfield d.desc 32 2 + dfield d.desc 34 2))

/-- The record of the front descriptor is written, and what follows it: the status word where the queue changes state, then the
interrupt (R221, R222, R231). -/
def State.writeRecord (s : State) (q : Fin 64) (d : InFlight) (rest : List InFlight) (c : Completion) : State :=
  let x := s.queues[q]
  let j := x.done.toNat
  let m := s.cqSize q
  let bytes := recordBytes d c ((j / m + 1) % 2 == 1)
  let s := match x.owner with
    | some fn => if s.canMaster fn then s.hostWrite fn (s.cqBase q + 32 * (j % m)) bytes false else s
    | none => s
  let s := (s.setQueue q { x with done := x.done + 1, inflight := rest }).settleWaits
  let s := s.settleQueue q
  let s := match x.owner with
    | some fn => if bit (dfield d.desc 1 1) 0 then s.signal fn q else s
    | none => s
  s.fetchAll

/-- COMPLETION_RECORD_WRITE (R199, R200, R219–R222, R225): the oldest fetched descriptor has ended, its effects have been performed and a copy of
its step boundary that was stopped has ended, so its record is written. -/
def execCompletionRecordWrite (q : Fin 64) (s : State) : Answer :=
  .next (match s.queues[q].inflight with
  | [] => s
  | d :: rest =>
    match d.phase with
    | .ended c =>
      if s.unperformed d ∨ s.fleet.twin.any (fun t => t.stopping && t.q == q) then s else s.writeRecord q d rest c
    | _ => s)

/-! ## Queue commands (R222–R225) -/

/-- A forced disable: everything fetched ends with ABORTED (R225). -/
def State.forceQueue (s : State) (q : Fin 64) : State :=
  let s := s.setQueue q { s.queues[q] with polling := 0, reading := 0 }
  let s := s.setQueueState q .aborting
  (s.endWork q (plain 1)).settleQueue q

/-- The enable command (R196, R204, R223). DESIGN CHOICE (log 198): the queue's cause returns to none when an enable is accepted and at no other
moment. -/
def State.enableQueue (s : State) (fn : Fn) (q : Fin 64) : State :=
  let x := s.queues[q]
  if x.state ≠ .disabled then s.hqEvent fn 2
  else if !s.cfgValid q then s.setQueue q { x with cause := 6 }
  else
    let s := s.setQueue q { x with cause := 0, fetched := 0, done := 0, lost := 0, sqTail := 0, cqHead := 0, polling := 0, reading := 0,
                                   inflight := [], statusOwed := false, statusMade := false, statusFirst := false, wakeDue := false }
    let s := s.setQueueState q .enabled
    if s.stretched fn then (s.hqEvent fn 3).signal fn 64 else s

/-- The drain command (R222–R224): reads that are outstanding can still fail. -/
def State.drainQueue (s : State) (q : Fin 64) : State :=
  match s.queues[q].state with
  | .enabled => (s.setQueueState q .draining).settleQueue q
  | .error => s.forceQueue q
  | _ => s

/-- The force command (R222, R223, R225). -/
def State.forceCommand (s : State) (q : Fin 64) : State :=
  match s.queues[q].state with
  | .disabled => s
  | .aborting => s
  | _ => s.forceQueue q

/-- A command written to HQ_Qq_CTRL: 1 enable, 2 drain, 3 force (Table: HQ_Qq_CTRL fields). One through a function that does not own the queue
is ignored (R232), but that an enable of a DISABLED queue sets its cause to bad_config (R223; log 127). -/
def State.queueCommand (s : State) (fn : Fn) (q : Fin 64) (cmd : Nat) : State :=
  if s.queues[q].owner ≠ some fn then
    let s := if cmd = 1 ∧ s.queues[q].state = .disabled then s.setQueue q { s.queues[q] with cause := 6 } else s
    s.hqEvent fn 1
  else
    let s := s.setReg .A (qReg q + 0x24) (BitVec.ofNat 64 cmd)
    if cmd = 1 then s.enableQueue fn q
    else if cmd = 2 then s.drainQueue q
    else if cmd = 3 then s.forceCommand q
    else s

/-- QUEUE_ENABLE (R196, R204, R222, R223). -/
def execQueueEnable (fn : Fn) (q : Fin 64) (s : State) : Answer :=
  .next (if s.opens fn then s.queueCommand fn q 1 else s.refuseWrite fn)

/-- QUEUE_DRAIN (R222–R224). -/
def execQueueDrain (fn : Fn) (q : Fin 64) (s : State) : Answer :=
  .next (if s.opens fn then s.queueCommand fn q 2 else s.refuseWrite fn)

/-- QUEUE_FORCE (R222, R223, R225). -/
def execQueueForce (fn : Fn) (q : Fin 64) (s : State) : Answer :=
  .next (if s.opens fn then s.queueCommand fn q 3 else s.refuseWrite fn)

/-! ## Ownership (R226–R228) -/

/-- A queue's fetched work is force-disabled and its records are discarded and counted (R227, R228). -/
def State.discardWork (s : State) (q : Fin 64) : State :=
  let s := s.endWork q (plain 1)
  let x := s.queues[q]
  s.setQueue q { x with lost := x.lost + BitVec.ofNat 32 x.inflight.length, inflight := [], polling := 0, reading := 0,
                        statusOwed := false }

/-- The owner of a queue cannot serve it: its port is in DL_Down, its Bus Master Enable is clear, or it is in D3hot (R226). -/
def State.ownerGone (s : State) (fn : Fn) : Bool := !s.canMaster fn

/-- Result of an ownership command. -/
def State.ownResult (s : State) (q : Fin 64) (done : Bool) : State :=
  s.setQueue q { s.queues[q] with result := if done then 1 else 2 }

/-- The release command. -/
def State.releaseQueue (s : State) (fn : Fn) (q : Fin 64) : State :=
  let x := s.queues[q]
  if x.owner = some fn ∧ x.state = .disabled then (s.setQueue q { x with owner := none }).ownResult q true
  else s.ownResult q false

/-- The claim command. -/
def State.claimQueue (s : State) (fn : Fn) (q : Fin 64) : State :=
  let x := s.queues[q]
  if x.owner = none then (s.setQueue q { x with owner := some fn }).ownResult q true else s.ownResult q false

/-- The takeover command (R227). -/
def State.takeQueue (s : State) (fn : Fn) (q : Fin 64) : State :=
  let x := s.queues[q]
  if x.owner = some (fnOther fn) ∧ s.ownerGone (fnOther fn) then
    let s := s.discardWork q
    let s := s.setQueue q { s.queues[q] with state := .disabled, owner := some fn }
    (((s.resetCfg q).settleWaits).ownResult q true).signalBoth
  else s.ownResult q false

/-- A command written to HQ_Qq_OWN: 1 claim, 2 release, 3 takeover (Table: HQ_Qq_OWN fields). -/
def State.ownCommand (s : State) (fn : Fn) (q : Fin 64) (cmd : Nat) : State :=
  let s := s.setReg .A (qReg q + 0x2C) (BitVec.ofNat 64 (cmd * 256))
  if cmd = 1 then s.claimQueue fn q
  else if cmd = 2 then s.releaseQueue fn q
  else if cmd = 3 then s.takeQueue fn q
  else s

/-- QUEUE_CLAIM (R194, R226). -/
def execQueueClaim (fn : Fn) (q : Fin 64) (s : State) : Answer :=
  .next (if s.opens fn then s.ownCommand fn q 1 else s.refuseWrite fn)

/-- QUEUE_RELEASE (R194, R226). -/
def execQueueRelease (fn : Fn) (q : Fin 64) (s : State) : Answer :=
  .next (if s.opens fn then s.ownCommand fn q 2 else s.refuseWrite fn)

/-- QUEUE_TAKEOVER (R226, R227). -/
def execQueueTakeover (fn : Fn) (q : Fin 64) (s : State) : Answer :=
  .next (if s.opens fn then s.ownCommand fn q 3 else s.refuseWrite fn)

/-! ## Maintenance pause (R230) -/

/-- HQ_MAINT.pending before saturation: retirements and row repairs that await a remap point. -/
def State.awaiting (s : State) : Nat := s.retire.pending.length + s.mem.repairs.length

/-- A write of 1 to HQ_MAINT.request (R230). -/
def State.requestPause (s : State) (fn : Fn) : State :=
  if s.hq.maint then s
  else if s.awaiting = 0 then s.hqEvent fn 2
  else { s with hq := { s.hq with maint := true }, queues := s.queues.map (fun (x : Queue) => { x with paused := true }) }

/-- MAINTENANCE_PAUSE (R230). -/
def execMaintenancePause (fn : Fn) (s : State) : Answer :=
  .next (if s.opens fn then s.requestPause fn else s.refuseWrite fn)

/-- REMAP_APPLY (R67, R122, R201, R230): in a maintenance pause, once all fetched work has completed, Crown applies what is pending;
then fetching resumes, the pause ends and the event vector is signalled, on both functions: DESIGN CHOICE (log 209). -/
def execRemapApply (s : State) : Answer :=
  .next (if s.hq.maint ∧ s.queues.toList.all (fun q => q.inflight.isEmpty) ∧ s.hq.launches.isEmpty then
    let s := s.applyRemap
    let s := { s with hq := { s.hq with maint := false }, queues := s.queues.map (fun (x : Queue) => { x with paused := false }) }
    s.signalBoth.fetchAll
  else s)

end Sys2Proof.Machine
end

