-- ==== Sys2Proof/Machine/Launch.lean ====
section
/-! DEFINITION. LAUNCH: its checks, the preparation of its tiles, its start and its timeout (R182–R186, R209–R212). -/

namespace Sys2Proof.Machine

open Sys2Proof

/-- The oldest fetched descriptor of a queue, where it has not started and is of a type (R200, R208). -/
def State.front (s : State) (q : Fin 64) (type : Nat) : Option InFlight :=
  match s.queues[q].inflight with
  | d :: _ => if d.phase = .fetched ∧ dfield d.desc 0 1 = type then some d else none
  | [] => none

/-- The oldest fetched descriptor of a queue, where it runs and is of a type. -/
def State.frontRunning (s : State) (q : Fin 64) (type : Nat) : Option InFlight :=
  match s.queues[q].inflight with
  | d :: _ => if d.phase = .running ∧ dfield d.desc 0 1 = type then some d else none
  | [] => none

/-- The oldest fetched descriptor of a queue starts. -/
def State.startFront (s : State) (q : Fin 64) : State :=
  let x := s.queues[q]
  match x.inflight with
  | d :: rest => s.setQueue q { x with inflight := { d with phase := .running } :: rest }
  | [] => s

/-- INVALID, with the byte offset of the first invalid field (Table: Completion detail). -/
def invalidAt (off : Nat) : Completion := { plain 2 with detail0 := BitVec.ofNat 64 off }

/-- The first of some field checks that fails: each gives a byte offset and whether the field is listed. -/
def firstInvalid (checks : List (Nat × Bool)) : Option Nat := (checks.find? (fun e => !e.2)).map (fun e => e.1)

/-- op_pref is a point or 0xFF (Table: Descriptor header). -/
def prefListed (p : Nat) : Bool := decide (p ≤ 7 ∨ p = 0xFF)

/-- The fields of a LAUNCH in order of their offsets (R19, R210). -/
def launchChecks (d : BitVec 512) : List (Nat × Bool) :=
  [(2, prefListed (dfield d 2 1)),
   (8, dfield d 8 8 % 2 ^ 41 % 4096 == 0),
   (16, dfield d 16 8 % 2 ^ 41 % 64 == 0),
   (24, decide (dfield d 24 2 ≤ 256) && dfield d 24 2 % 8 == 0),
   (26, decide (dfield d 26 1 ≤ 7)),
   (27, dfield d 27 1 % 4 != 3),
   (28, dfield d 28 2 != 0),
   (32, decide (dfield d 32 2 ≤ 2559)),
   (34, decide (1 ≤ dfield d 34 2 ∧ dfield d 32 2 + dfield d 34 2 ≤ 2560))]

/-- Whether a program image header is good for an entry index (R183); the image starts at device address `base`. Reserved fields hold 0, the one
value listed for them. DESIGN CHOICE (log 197): an entry offset that is no multiple of 4 is rejected, and a data_offset other than 0 is accepted
where data_size is 0. -/
def imageGood (h : List Byte) (base entry : Nat) : Bool :=
  let f (off n : Nat) := leNat ((h.drop off).take n)
  let code := f 8 4
  let codeSize := f 12 4
  let data := f 16 4
  let dataSize := f 20 4
  let count := f 24 4
  let offs := (List.range 8).map (fun i => f (32 + 4 * i) 4)
  f 0 4 == 0xC4E00602 && f 4 1 == 2 && f 5 1 == 0 && f 6 2 == 64 && f 28 4 == 0 &&
  code % 64 == 0 && decide (64 ≤ code) &&
  codeSize % 4 == 0 && decide (4 ≤ codeSize ∧ codeSize ≤ 2097152) &&
  data % 64 == 0 && decide (dataSize ≤ 16777216) && (data != 0 || dataSize == 0) &&
  decide (1 ≤ count ∧ count ≤ 8) &&
  decide (dataSize = 0 ∨ data + dataSize ≤ code ∨ code + codeSize ≤ data) &&
  decide (base + code + codeSize ≤ mappedEnd ∧ base + data + dataSize ≤ mappedEnd) &&
  decide (entry < count) &&
  (List.range 8).all (fun i =>
    let e := offs[i]?.getD 0
    if i < count then decide (code ≤ e ∧ e < code + codeSize) && e % 4 == 0 else e == 0)

/-- The launch of a descriptor whose image header has been read. -/
def newLaunch (q : Fin 64) (d : BitVec 512) (h : List Byte) : Launch :=
  let f (off n : Nat) := leNat ((h.drop off).take n)
  { q := q, phase := .waiting, first := dfield d 32 2, count := dfield d 34 2, mask := BitVec.ofNat 16 (dfield d 28 2)
    clear := bit (dfield d 1 1) 1, opPref := BitVec.ofNat 8 (dfield d 2 1), view := BitVec.ofNat 2 (dfield d 27 1)
    imgAddr := dfield d 8 8 % 2 ^ 41, argAddr := dfield d 16 8 % 2 ^ 41, argSize := dfield d 24 2
    codeLo := f 8 4, codeHi := f 8 4 + f 12 4, entry := f (32 + 4 * dfield d 26 1) 4
    seed := BitVec.ofNat 64 (dfield d 40 8), timeoutUs := dfield d 36 4, faults := [], arrived := [], started := 0 }

/-- Device memory serves the queue engine's own access for a queue, which passes the Canopy at its owner's port, behind every BAR2 write of that
port (R127, R136, R147). -/
def State.queueOpen (s : State) (q : Fin 64) (view : BitVec 2) (a len : Nat) : Bool :=
  match s.queues[q].owner with
  | some fn => s.host[fnIdx fn].writes.isEmpty && s.farOpen (hostNode fn) view a len
  | none => true

/-- Steps 2–4 of R211 for a LAUNCH with listed fields: image header, fenced tiles, and the wait for free tiles. Uncorrectable
data in the header fail its check, and an argument block that is not mapped ends with ADDRESS_ERROR: DESIGN CHOICE (log 51). -/
def State.admitLaunch (s : State) (q : Fin 64) (d : BitVec 512) (errs : DramErrs) : State :=
  let view := BitVec.ofNat 2 (dfield d 27 1)
  let base := dfield d 8 8 % 2 ^ 41
  if !mapped view base 64 then s.complete q (plain 9)
  else if !s.queueOpen q view base 64 then s
  else
    let c := (s.visit view base 64).devCheck view base 64 errs
    let h := c.1.devRead view base 64
    let s := c.1
    if c.2 ∨ !imageGood h base (dfield d 26 1) then s.complete q (plain 3)
    else if !mapped view (dfield d 16 8 % 2 ^ 41) (dfield d 24 2) then s.complete q (plain 9)
    else
      let l := newLaunch q d h
      if (List.range l.count).any (fun i => (s.tile (l.first + i)).fenced) then s.complete q (plain 4)
      else
        let s := s.startFront q
        { s with hq := ({ s.hq with launches := s.hq.launches ++ [l] } : HostEngine).noteReady }

/-- LAUNCH (R19, R34, R38, R65, R183, R200, R210, R211): the checks of a LAUNCH at the front of its queue. -/
def execLaunch (q : Fin 64) (errs : DramErrs) (s : State) : Answer :=
  .next (match s.front q 2 with
  | none => s
  | some d =>
    match firstInvalid (launchChecks d.desc) with
    | some off => s.complete q (invalidAt off)
    | none => s.admitLaunch q d.desc errs)

/-- Address of the launch argument block in a scratchpad (R185). -/
def argBase : Nat := 0xFFF00

/-- A thread reset for a launch (R48, R93, R185): IDLE until every tile is prepared. -/
def launchThread (l : Launch) (t : Nat) (n : Fin 16) : Thread :=
  if l.mask.getLsbD n then
    let regs := ((Thread.idle.s.set 1 (BitVec.ofNat 64 (tileIdent t))).set 2 (BitVec.ofNat 64 n.val)).set 3 (BitVec.ofNat 64 argBase)
    { Thread.idle with pc := BitVec.ofNat 32 l.entry, s := regs, rng := rngSeed l.seed t n }
  else Thread.idle

/-- The preparation of one tile (R49, R185). -/
def State.prepareTile (s : State) (l : Launch) (args : List Byte) (t : Nat) : State :=
  let x := s.tile t
  let x := { x with icacheValid := false }
  let x := if l.clear then { x with pad := [], padBad := [] } else x
  let s := s.setTile t x
  let s := s.padWrite t argBase args
  s.setTile t { s.tile t with threads := Vector.ofFn (launchThread l t) }

/-- A launch is ready to start, and none that is goes before it: a higher priority does, and an equal one that became ready earlier
(R200, R201). -/
def State.firstReady (s : State) (q : Fin 64) : Bool :=
  s.hq.ready.all (fun p => decide (s.qPrio p ≤ s.qPrio q)) &&
    s.hq.ready.find? (fun p => decide (s.qPrio p = s.qPrio q)) == some q

/-- A request holds no entry of its tile's trackers any more: each part has been answered or has timed out (R60, R155). -/
def MemReq.spent (r : MemReq) : Bool := (List.range r.parts).all (fun k => r.answered.contains k || r.expired.contains k)

/-- A part that waits at a tile's controller, in an entry of the tile's memory request tracker, belongs to a launch that has ended or was aborted. -/
def State.strayAt (s : State) (l : Launch) (e : Arrived) : Bool :=
  match s.reqOf e.req with
  | some r => r.orphan && r.remote.isNone && l.has (r.partHome e.part)
  | none => false

/-- Whether the tiles of a launch hold nothing of an earlier one: no entry of their own requests, none in which a far access of an aborted launch
waits at one of them, and no matrix instruction running (R155, R157). -/
def State.tilesIdle (s : State) (l : Launch) : Bool :=
  s.mem.reqs.all (fun r => !l.has r.tile || r.spent) && s.mem.tracker.all (fun e => !s.strayAt l e) &&
    s.tiles.all (fun e => !l.has e.1 || e.2.matrix.isNone)

/-- The argument block of a launch: the bytes of a transaction whose data are uncorrectable are free values (R118; log 51). -/
def State.argBlock (s : State) (l : Launch) (errs : DramErrs) : State × List Byte :=
  let c := s.devCheck l.view l.argAddr l.argSize errs
  if c.2 then (c.1.drawnN l.argSize, c.1.freeBytes l.argSize) else (c.1, c.1.devRead l.view l.argAddr l.argSize)

/-- LAUNCH_PREPARE (R48, R49, R65, R93, R185, R200, R201, R211): the tiles of a waiting launch are free and are prepared. -/
def execLaunchPrepare (q : Fin 64) (errs : DramErrs) (s : State) : Answer :=
  .next (match s.hq.launches.find? (fun l => decide (l.q = q ∧ l.phase = .waiting)) with
  | none => s
  | some l =>
    if (List.range l.count).any (fun i => (s.tile (l.first + i)).fenced) then (s.endLaunch l true).complete q (plain 4)
    else if !s.firstReady q ∨ !s.tilesIdle l ∨ !s.queueOpen q l.view l.argAddr l.argSize then s
    else
      let c := (s.visit l.view l.argAddr l.argSize).argBlock l errs
      let s := (List.range l.count).foldl (fun s i => s.prepareTile l c.2 (l.first + i)) c.1
      let s := s.setLaunch { l with phase := .prepared }
      { s with hq := ({ s.hq with lastStart := q } : HostEngine).noteReady })

/-- The started threads of a tile become READY (R44, R185). -/
def Tile.start (x : Tile) (mask : BitVec 16) : Tile :=
  { x with threads := Vector.ofFn (fun n => if mask.getLsbD n.val then { x.threads[n] with state := .ready, started := true } else x.threads[n]) }

/-- LAUNCH_THREADS_START (R44, R65, R185, R209, R212): every tile is prepared, so the threads of the mask become READY and the launch's
time starts; a tile that has been fenced since rejects it instead; its dies keep their point until 10 ms after their last launch (R410). -/
def execLaunchThreadsStart (q : Fin 64) (s : State) : Answer :=
  .next (match s.hq.launches.find? (fun l => decide (l.q = q ∧ l.phase = .prepared)) with
  | none => s
  | some l =>
    if (List.range l.count).any (fun i => (s.tile (l.first + i)).fenced) then (s.endLaunch l true).complete q (plain 4)
    else
    let s := s.setLaunch { l with phase := .running, started := s.time }
    let on (d : Fin 4) : Bool := decide (l.first < (d.val + 1) * 640 ∧ d.val * 640 < l.first + l.count)
    let s := { s with budget := { s.budget with lingering := Vector.ofFn (fun d => s.budget.lingering[d] || on d) } }
    (List.range l.count).foldl (fun s i => s.setTile (l.first + i) ((s.tile (l.first + i)).start l.mask)) s)

/-- LAUNCH_TIMEOUT (R45, R212): a launch has not ended in its time. A fault stamped at or before the cycle in which the time ran
out governs; a later one is not reported. -/
def execLaunchTimeout (q : Fin 64) (s : State) : Answer :=
  .next (match s.hq.launches.find? (fun l => decide (l.q = q ∧ l.phase = .running)) with
  | none => s
  | some l =>
    if l.timeoutUs = 0 then s
    else
      match firstFault l.timely with
      | some f => (s.endLaunch l true).complete q (faultCompletion f l.timely.length)
      | none => (s.endLaunch l true).complete q (plain 6))

end Sys2Proof.Machine
end

