-- ==== Sys2Proof/Machine/Descriptors.lean ====
section
/-! DEFINITION. NOP, COPY, WAIT, HINT and job MARK descriptors, and descriptors of no listed type (R207, R208, R213–R218). -/

namespace Sys2Proof.Machine

open Sys2Proof

/-- Only 0xFF is listed for op_pref in types other than LAUNCH and HINT (Table: Descriptor header). -/
def noPref (d : BitVec 512) : Nat × Bool := (2, dfield d 2 1 == 0xFF)

/-- NOP (R208). -/
def execNop (q : Fin 64) (s : State) : Answer :=
  .next (match s.front q 1 with
  | none => s
  | some d =>
    match firstInvalid [noPref d.desc] with
    | some off => s.complete q (invalidAt off)
    | none => s.complete q (plain 0))

/-- INVALID_DESCRIPTOR (R19, R208, R229): a descriptor of an unlisted type, or a MARK or COLLECTIVE of an unlisted kind or op. -/
def execInvalidDescriptor (q : Fin 64) (s : State) : Answer :=
  .next (match s.queues[q].inflight with
  | [] => s
  | d :: _ =>
    let t := dfield d.desc 0 1
    if d.phase ≠ .fetched then s
    else if t = 0 ∨ 7 < t then s.complete q (invalidAt 0)
    else if (t = 6 ∧ (dfield d.desc 8 1 = 0 ∨ 3 < dfield d.desc 8 1)) ∨ (t = 7 ∧ (dfield d.desc 8 1 = 0 ∨ 5 < dfield d.desc 8 1)) then
      match firstInvalid [noPref d.desc] with
      | some off => s.complete q (invalidAt off)
      | none => s.complete q (invalidAt 8)
    else s)

/-! ## COPY -/

/-- The fields of a COPY (R213). -/
def copyChecks (d : BitVec 512) : List (Nat × Bool) :=
  [noPref d,
   (8, dfield d 8 8 % 4 == 0),
   (16, dfield d 16 8 % 4 == 0),
   (24, decide (4 ≤ dfield d 24 4 ∧ dfield d 24 4 ≤ 1073741824) && dfield d 24 4 % 4 == 0),
   (28, decide (dfield d 28 1 ≤ 2)),
   (29, dfield d 29 1 % 4 != 3)]

/-- The bus address of a COPY's host side, which is moved by reads (dir 0) or writes (dir 1). -/
def copyView (d : BitVec 512) : BitVec 2 := BitVec.ofNat 2 (dfield d 29 1)

/-- COPY (R103, R189, R213, R214): a COPY is checked and starts; one from the host reads host memory. -/
def execCopy (q : Fin 64) (s : State) : Answer :=
  .next (match s.front q 3 with
  | none => s
  | some d =>
    match firstInvalid (copyChecks d.desc) with
    | some off => s.complete q (invalidAt off)
    | none =>
      let src := dfield d.desc 8 8
      let dst := dfield d.desc 16 8
      let len := dfield d.desc 24 4
      let dir := dfield d.desc 28 1
      let v := copyView d.desc
      if (dir ≠ 0 ∧ !mapped v src len) ∨ (dir ≠ 1 ∧ !mapped v dst len) then s.complete q (plain 9)
      else
        let s := s.startFront q
        match s.queues[q].owner with
        | some fn => if dir = 0 then s.emit (.hostRead fn src len) else s
        | none => s)

/-- The 64-byte runs of an access: the offset in the access at which each begins, its transaction number, and whether the access
covers it whole. -/
def runs (view : BitVec 2) (a len : Nat) : List (Nat × Nat × Bool) :=
  (List.range ((a + len - 1) / 64 - a / 64 + 1)).filterMap (fun i =>
    let t := (a / 64 + i) * 64
    (translate view t).map (fun l => (t - a, l / 64, decide (a ≤ t ∧ t + 64 ≤ a + len))))

/-- The first run of an access that reads uncorrectable data: every run of a read, the partly covered ones of a write (R118). -/
def MemState.firstBad (m : MemState) (view : BitVec 2) (a len : Nat) (writing : Bool) : Option (Nat × Nat) :=
  ((runs view a len).find? (fun r => m.bad.contains r.2.1 && !(writing && r.2.2))).map (fun r => (r.1, r.2.1))

/-- The transactions of a write that must be read first, for it covers them in part (R110). -/
def partly (view : BitVec 2) (a len : Nat) : List Nat := ((runs view a len).filter (fun r => !r.2.2)).map (fun r => r.2.1)

/-- The earlier of two stops of a copy. -/
def firstStop (a b : Option (Nat × Nat)) : Option (Nat × Nat) :=
  match a, b with
  | some x, some y => some (if x.1 ≤ y.1 then x else y)
  | some x, none => some x
  | none, y => y

/-- A COPY ends at its first error, or with OK: `host` is the offset at which a host read failed (R214). -/
def State.endCopy (s : State) (q : Fin 64) (host : Option Nat) (bad : Option (Nat × Nat)) : State :=
  match host, bad with
  | some h, some b =>
    if h ≤ b.1 then s.complete q { plain 7 with detail0 := BitVec.ofNat 64 h }
    else (s.dramUncorrectable (b.2 * 64)).complete q { plain 8 with detail0 := BitVec.ofNat 64 b.1 }
  | some h, none => s.complete q { plain 7 with detail0 := BitVec.ofNat 64 h }
  | none, some b => (s.dramUncorrectable (b.2 * 64)).complete q { plain 8 with detail0 := BitVec.ofNat 64 b.1 }
  | none, none => s.complete q (plain 0)

/-- The bytes that a copy moves before it stops. -/
def stopAt (len : Nat) (host : Option Nat) (bad : Option (Nat × Nat)) : Nat :=
  min (min len (host.getD len)) ((bad.map (fun b => b.1)).getD len)

/-- The bytes of a copy within device memory: where source and destination overlap, the order of the parts is open (R148, R214)
and the bytes moved are free values (log 12). -/
def State.copyBytes (s : State) (v : BitVec 2) (src dst n : Nat) : State × List Byte :=
  if src < dst + n ∧ dst < src + n ∧ src ≠ dst then (s.drawnN n, s.freeBytes n) else (s, s.devRead v src n)

/-- COPY_COMPLETE (R107, R116–R118, R127, R189, R214): the data of a running COPY move, up to its first error, and it ends. `data` are the
bytes that the host returned, for a copy from the host, `failedAt` the offset at which a host read failed, and `errs` the new errors in the
transactions that the copy reads, first those of its source. -/
def execCopyComplete (q : Fin 64) (data : List (BitVec 8)) (failedAt : Option Nat) (errs : DramErrs) (s : State) : Answer :=
  .next (match s.frontRunning q 3 with
  | none => s
  | some d =>
    let src := dfield d.desc 8 8
    let dst := dfield d.desc 16 8
    let len := dfield d.desc 24 4
    let dir := dfield d.desc 28 1
    let v := copyView d.desc
    if (dir ≠ 0 ∧ !s.queueOpen q v src len) ∨ (dir ≠ 1 ∧ !s.queueOpen q v dst len) then s
    else if dir = 0 ∧ (failedAt.filter (fun n => decide (n < len))).isNone ∧ data.length < len then s
    else
    let s := if dir = 0 then s else s.visit v src len
    let s := if dir = 1 then s else s.visit v dst len
    let failedAt := failedAt.filter (fun n => decide (n < len))
    let s := s.meetErrs ((if dir = 0 then [] else transactions v src len) ++ (if dir = 1 then [] else partly v dst len)) errs
    if dir = 0 then
        let bad := s.mem.firstBad v dst len true
        (s.devWrite v dst (data.take (stopAt len failedAt bad))).endCopy q failedAt bad
    else if dir = 1 then
      let bad := s.mem.firstBad v src len false
      let bytes := s.devRead v src (stopAt len none bad)
      let s := match s.queues[q].owner with
        | some fn => if s.canMaster fn then s.hostWrite fn dst bytes true else s
        | none => s
      s.endCopy q none bad
    else
      let bad := firstStop (s.mem.firstBad v src len false) (s.mem.firstBad v dst len true)
      let c := s.copyBytes v src dst (stopAt len none bad)
      (c.1.devWrite v dst c.2).endCopy q none bad)

/-- HOST_COMPLETION_TIMEOUT (R187, R214, R229): a doorbell read, a descriptor read or the host read of a COPY has had no completion:
the queue enters ERROR, or the copy ends with nothing more written. -/
def execHostCompletionTimeout (q : Fin 64) (s : State) : Answer :=
  .next (let x := s.queues[q]
  if x.polling ≠ 0 then (s.setQueue q { x with polling := x.polling - 1 }).readFails q
  else if x.reading ≠ 0 then (s.setQueue q { x with reading := 0 }).readFails q
  else match s.frontRunning q 3 with
    | some d => if dfield d.desc 28 1 = 0 then s.endCopy q (some 0) none else s
    | none => s)

/-! ## WAIT and HINT -/

/-- WAIT (R215). -/
def execWait (q : Fin 64) (s : State) : Answer :=
  .next (match s.front q 4 with
  | none => s
  | some d =>
    let t := dfield d.desc 8 2
    let owned : Bool := match s.queues[t]? with
      | some y => y.owner == s.queues[q].owner
      | none => false
    match firstInvalid [noPref d.desc, (8, owned)] with
    | some off => s.complete q (invalidAt off)
    | none => (s.startFront q).settleWaits)

/-- WAIT_TIMEOUT (R215). -/
def execWaitTimeout (q : Fin 64) (s : State) : Answer :=
  .next (match s.frontRunning q 4 with
  | none => s
  | some d => if dfield d.desc 16 4 = 0 then s else s.complete q (plain 6))

/-- The fields of a HINT (R216). -/
def hintChecks (d : BitVec 512) : List (Nat × Bool) :=
  [(2, prefListed (dfield d 2 1)),
   (8, decide (dfield d 8 4 ≤ 6000)),
   (12, decide (dfield d 12 4 ≤ 1000000)),
   (16, decide (1 ≤ dfield d 16 4 ∧ dfield d 16 4 ≤ 60000000)),
   (20, decide (1 ≤ dfield d 20 1 ∧ dfield d 20 1 ≤ 15))]

/-! ## Job MARKs (R217, R218) -/

/-- A MARK of a kind at the front of a queue. -/
def State.frontMark (s : State) (q : Fin 64) (kind : Nat) : Option InFlight :=
  (s.front q 6).filter (fun d => dfield d.desc 8 1 == kind)

/-- A job of a function. -/
def State.jobOpen (s : State) (fn : Fn) (id : BitVec 32) : Option Job :=
  s.hq.jobs.find? (fun j => decide (j.fn = fn ∧ j.jobId = id))

/-- MARK_JOB_START (R19, R217, R218): a job opens; every job open with another is marked as overlapping. -/
def execMarkJobStart (q : Fin 64) (s : State) : Answer :=
  .next (match s.frontMark q 1, s.queues[q].owner with
  | some d, some fn =>
    let id := BitVec.ofNat 32 (dfield d.desc 12 4)
    match firstInvalid [noPref d.desc] with
    | some off => s.complete q (invalidAt off)
    | none =>
      if (s.jobOpen fn id).isSome then s.complete q (plain 0xA)
      else if 64 ≤ s.hq.jobs.length then s.complete q (plain 0xB)
      else
        let new : Job := { fn := fn, jobId := id, energy := s.hq.energy, start := s.time.toNat / 12500, overlap := !s.hq.jobs.isEmpty }
        let old := s.hq.jobs.map (fun (j : Job) => { j with overlap := true })
        ({ s with hq := { s.hq with jobs := old ++ [new] } }).complete q (plain 0)
  | _, _ => s)

/-- MARK_JOB_END (R217, R218, R427): the job closes; its record carries the module energy in mJ and the elapsed time in µs. -/
def execMarkJobEnd (q : Fin 64) (s : State) : Answer :=
  .next (match s.frontMark q 2, s.queues[q].owner with
  | some d, some fn =>
    let id := BitVec.ofNat 32 (dfield d.desc 12 4)
    match firstInvalid [noPref d.desc] with
    | some off => s.complete q (invalidAt off)
    | none =>
      match s.jobOpen fn id with
      | none => s.complete q (plain 0xA)
      | some j =>
        let c : Completion := { plain 0 with
          overlap := j.overlap
          detail0 := BitVec.ofNat 64 ((s.hq.energy - j.energy) / 1000)
          detail1 := BitVec.ofNat 64 (s.time.toNat / 12500 - j.start) }
        ({ s with hq := { s.hq with jobs := s.hq.jobs.filter (fun k => decide (k.fn ≠ fn ∨ k.jobId ≠ id)) } }).complete q c
  | _, _ => s)

end Sys2Proof.Machine
end

