-- ==== Sys2Proof/Machine/HostPort.lean ====
section
/-! DEFINITION. The two host ports: configuration requests, resets and power states, the BAR2 window, and MSI-X masks
(R187–R193, R228, R231, R316, R466, R474). -/

namespace Sys2Proof.Machine

open Sys2Proof

/-- Replaces a host port. -/
def State.setHost (s : State) (fn : Fn) (h : HostPort) : State := { s with host := s.host.set (fnIdx fn) h }

/-- Rail that feeds a port: VLINK_0 for port A, VLINK_3 for port B (R466, R478). -/
def portRail (fn : Fn) : Fin 11 :=
  match fn with
  | .A => 5
  | .B => 8

/-- The port's rail is power-good (R466). -/
def State.portPowered (s : State) (fn : Fn) : Bool := decide (s.power.rails[portRail fn].state = .on)

/-- CONFIGURATION_REQUEST (R187, R190, R192, R466; log 181): a request through a trained link is answered, with retry status until Crown firmware runs in
Stage 2. -/
def execConfigurationRequest (fn : Fn) (req : CfgReq) (s : State) : Answer :=
  let h := s.host[fnIdx fn]
  .next (if !h.up then s
  else if !s.enumerates then s.emit (.config fn true)
  else
    let h := match req with
      | .read => h
      | .busMaster => { h with bme := true }
      | .powerD0 => { h with d3hot := false }
      | .bar2Size n => if 28 ≤ n ∧ n ≤ 41 then { h with bar2Log := n } else h
      | .payload n => if n ∈ [128, 256, 512] then { h with payload := n } else h
      | .readRequest n => if n ∈ [128, 256, 512, 1024, 2048, 4096] then { h with readRequest := n } else h
      | .timeout n => if n ∈ [0, 1, 2, 5, 6] then { h with timeout := n } else h
    (s.setHost fn h).emit (.config fn false))

/-! ## Resets of a function -/

/-- A queue that is not DISABLED is in ERROR with a cause and its work is discarded; that it enters ERROR is signalled (R222, R228, R229). -/
def State.loseQueue (s : State) (fn : Fn) (cause : BitVec 4) (q : Fin 64) : State :=
  let x := s.queues[q]
  if x.owner = some fn ∧ x.state ≠ .disabled then
    let s := s.discardWork q
    let s := s.setQueue q { s.queues[q] with state := .error, cause := cause }
    if x.state = .error then s else s.signal fn 64
  else s

/-- Queues of a function enter ERROR with their work discarded (R222, R228, R229). -/
def State.loseQueues (s : State) (fn : Fn) (cause : BitVec 4) : State :=
  ((List.finRange 64).foldl (fun s q => s.loseQueue fn cause q) s).settleWaits

/-- Queues of a function become DISABLED with reset configuration and their work discarded; the cause of one that was not DISABLED is
no_master, and the reset of the function takes the event with it (R222, R228; log 183). -/
def State.clearQueues (s : State) (fn : Fn) : State :=
  let s := (List.finRange 64).foldl (fun s q =>
    let x := s.queues[q]
    if x.owner = some fn then
      let s := s.discardWork q
      (s.setQueue q { s.queues[q] with state := .disabled, cause := if x.state = .disabled then x.cause else 3 }).resetCfg q
    else s) s
  s.settleWaits

/-- The key of a latch or capture belongs to a register that a reset of the function covers: HQ_STATUS, HQ_WAKE and HQ_WIN_CFG as the function
sees them, and the registers of its queues as either function does (R10, R474). -/
def State.coversKey (s : State) (fn : Fn) (k : Nat) : Bool :=
  let off := k % 2 ^ 20
  decide (k / 2 ^ 20 = (fnIdx fn).val ∧ off ∈ [hqStatus, hqWakeReg, hqWinCfg]) ||
    (List.finRange 64).any (fun q => decide (s.queues[q].owner = some fn ∧ qReg q ≤ off ∧ off < qReg q + 0x40))

/-- What a function reset covers beside the state of its queues: the MSI-X table, Bus Master Enable and BAR2's size in configuration space,
HQ_STATUS, HQ_WAKE and HQ_WIN_CFG, the latches and captures of the registers covered, and the function's SPDM state (R10, R474, R517, Table: Reset
kinds). -/
def State.resetFunction (s : State) (fn : Fn) : State :=
  let mine (e : Nat × BitVec 32) : Bool := s.coversKey fn e.1
  let s := s.setHost fn { s.host[fnIdx fn] with
    bme := false, bar2Log := 28, payload := 128, readRequest := 512, timeout := 0, msixTable := [],
    msixMask := BitVec.allOnes 128, tableMask := false, msixPending := 0 }
  let s := [hqStatus, hqWakeReg, hqWinCfg].foldl (fun s o => s.setReg fn o 0) s
  let s := { s with crown := { s.crown with spdm := s.crown.spdm.set (fnIdx fn) .resynch } }
  { s with latch := s.latch.filter (fun e => !mine e), capture := s.capture.filter (fun e => !mine e) }

/-- A function enters DL_Down (R228, R316, R474). -/
def State.linkDown (s : State) (fn : Fn) : State :=
  if s.host[fnIdx fn].up then
    let s := s.setHost fn { s.host[fnIdx fn] with up := false, d3hot := false }
    (s.loseQueues fn 4).resetFunction fn
  else s

/-- PERST_ASSERT (R228, R316, R474): the port is held in fundamental reset and its function is in DL_Down. -/
def execPerstAssert (fn : Fn) (s : State) : Answer :=
  .next ((s.setHost fn { s.host[fnIdx fn] with perst := true }).linkDown fn)

/-- PERST_DEASSERT (R316, R466): the port may train. -/
def execPerstDeassert (fn : Fn) (s : State) : Answer :=
  .next (s.setHost fn { s.host[fnIdx fn] with perst := false })

/-- DL_UP (R187, R316, R466): the link has trained, which it can while its rail is power-good, its reference clock is present and perst is
high; at 64 GT/s it runs in flit mode. -/
def execDlUp (fn : Fn) (link : PortLink) (s : State) : Answer :=
  .next (if s.portPowered fn ∧ !s.host[fnIdx fn].perst ∧ link.refclk ∧ (link.rate = 5 → link.flit) then
    s.setHost fn { s.host[fnIdx fn] with up := true, link := link }
  else s)

/-- DL_DOWN (R222, R228). -/
def execDlDown (fn : Fn) (s : State) : Answer := .next (s.linkDown fn)

/-- BUS_MASTER_ENABLE_CLEAR (R222, R228, R229). -/
def execBusMasterEnableClear (fn : Fn) (s : State) : Answer :=
  let h := s.host[fnIdx fn]
  .next (if h.up ∧ h.bme then (s.setHost fn { h with bme := false }).loseQueues fn 3 else s)

/-- The open jobs of a function close without a report (R218). -/
def State.dropJobs (s : State) (fn : Fn) : State :=
  { s with hq := { s.hq with jobs := s.hq.jobs.filter (fun j => decide (j.fn ≠ fn)) } }

/-- FUNCTION_LEVEL_RESET (R222, R228, R474): the function's queues become DISABLED and it is reset; its jobs close (R218). -/
def execFunctionLevelReset (fn : Fn) (s : State) : Answer :=
  .next (if s.host[fnIdx fn].up then
    let s := s.setHost fn { s.host[fnIdx fn] with d3hot := false }
    ((s.clearQueues fn).resetFunction fn).dropJobs fn
  else s)

/-- D3HOT_ENTRY (R192, R222, R228). -/
def execD3hotEntry (fn : Fn) (s : State) : Answer :=
  let h := s.host[fnIdx fn]
  .next (if h.up ∧ !h.d3hot then ((s.clearQueues fn).resetFunction fn).setHost fn
    { ((s.clearQueues fn).resetFunction fn).host[fnIdx fn] with d3hot := true } else s)

/-! ## BAR2 -/

/-- Device address and view of an offset of a function's window (R191). -/
def State.window (s : State) (fn : Fn) (off : Nat) : BitVec 2 × Nat :=
  let w := (s.reg fn hqWinCfg).toNat
  let size := 2 ^ s.host[fnIdx fn].bar2Log
  (BitVec.ofNat 2 w, bits w 40 28 * 2 ^ 28 / size * size + off)

/-- Whether a function's BAR2 serves an access: in Stage 3, in D0, and where every byte is mapped (R191, R192, R466, R478). -/
def State.windowOpen (s : State) (fn : Fn) (off len : Nat) : Bool :=
  s.opens fn && mapped (s.window fn off).1 (s.window fn off).2 len && decide (off + len ≤ 2 ^ s.host[fnIdx fn].bar2Log)

/-- A host or Berux write of device memory: a transaction that it covers in part is read first, and one that is uncorrectable is
recorded and keeps its bytes (R110, R116–R119). True where there was one. -/
def State.storeChecked (s : State) (v : BitVec 2) (a : Nat) (bytes : List Byte) (errs : DramErrs) : State × Bool :=
  let s := s.meetErrs (partly v a bytes.length) errs
  let bad := (runs v a bytes.length).filter (fun r => s.mem.bad.contains r.2.1 && !r.2.2)
  let s := bad.foldl (fun s r => s.dramUncorrectable (r.2.1 * 64)) (s.devWrite v a bytes)
  (s, !bad.isEmpty)

/-- Writes of a port, oldest first, are performed up to the first that memory does not serve, which waits with those behind it (R193). -/
def State.performIn (s : State) (fn : Fn) : List HostWrite → State
  | [] => s.setHost fn { s.host[fnIdx fn] with writes := [] }
  | w :: rest =>
    if s.farOpen (hostNode fn) w.view w.addr w.data.length then
      (((s.visit w.view w.addr w.data.length).storeChecked w.view w.addr w.data w.errs).1).performIn fn rest
    else s.setHost fn { s.host[fnIdx fn] with writes := w :: rest }

/-- The writes of a port that wait are performed as far as memory serves them; outside Stage 3 each is discarded and logged through AER (R192, R193,
R478). -/
def State.performWrites (s : State) (fn : Fn) : State :=
  if s.host[fnIdx fn].writes.isEmpty then s
  else if s.stage ≠ .stage3 then
    s.host[fnIdx fn].writes.foldl (fun (s : State) _ => s.emit (.aer fn)) (s.setHost fn { s.host[fnIdx fn] with writes := [] })
  else s.performIn fn s.host[fnIdx fn].writes

/-- BAR2_READ (R103, R104, R116–R118, R127, R137, R191–R193, R466, R478): a read completes with its data, with poisoned data whose value is free
where it meets uncorrectable DRAM data, or with Unsupported Request, which is logged; it waits while the
memory cannot serve it, and for every earlier write of its port (R193; log 184). -/
def execBar2Read (fn : Fn) (off len : Nat) (errs : DramErrs) (s : State) : Answer :=
  let v := (s.window fn off).1
  let a := (s.window fn off).2
  .next (let s := s.performWrites fn
  if !s.host[fnIdx fn].up then s
  else if !s.host[fnIdx fn].writes.isEmpty then s
  else if !s.windowOpen fn off len then (s.emit (.unsupported fn)).emit (.aer fn)
  else if !s.farOpen (hostNode fn) v a len then s
  else
    let c := (s.visit v a len).devCheck v a len errs
    if c.2 then (c.1.drawnN len).emit (.bar2Data fn (c.1.freeBytes len) true)
    else c.1.emit (.bar2Data fn (c.1.devRead v a len) false))

/-- BAR2_WRITE (R107, R127, R137, R191–R193, R466, R478): a write joins those of its port, which are performed in order as memory serves them
(log 184); one that the window does not take is discarded and logged. -/
def execBar2Write (fn : Fn) (off : Nat) (data : List (BitVec 8)) (errs : DramErrs) (s : State) : Answer :=
  .next (let h := s.host[fnIdx fn]
  if !h.up ∨ data.isEmpty then s
  else if !s.windowOpen fn off data.length then s.emit (.aer fn)
  else
    let w : HostWrite := { view := (s.window fn off).1, addr := (s.window fn off).2, data := data, errs := errs }
    (s.setHost fn { h with writes := h.writes ++ [w] }).performWrites fn)

/-! ## MSI-X (R190, R192, R231) -/

/-- The function's MSI-X mask bits and table mask are set or cleared, and one message goes for every vector that is unmasked with its pending
bit set (R231); while the function cannot master the bus the bit stays for the next write of a mask: DESIGN CHOICE (log 198). -/
def State.setMasks (s : State) (fn : Fn) (mask : BitVec 128) (table : Bool) : State :=
  (List.range 128).foldl (fun s v =>
    let h := s.host[fnIdx fn]
    if h.msixPending.getLsbD v ∧ !h.msixMask.getLsbD v ∧ !h.tableMask ∧ s.canMaster fn then
      (s.setHost fn { h with msixPending := h.msixPending &&& ~~~(1#128 <<< v) }).emit (.msix fn v)
    else s) (s.setHost fn { s.host[fnIdx fn] with msixMask := mask, tableMask := table })

/-- The mask of a vector, which is a bit of the table in BAR0, or of the whole table, which is a bit of configuration space and is served in
D3hot too (R192, R231). -/
def State.msixMasked (s : State) (fn : Fn) (vec : Option (Fin 128)) (on : Bool) : State :=
  let h := s.host[fnIdx fn]
  match vec with
  | some v =>
    if s.reaches fn then
      s.setMasks fn (if on then h.msixMask ||| (1#128 <<< v.val) else h.msixMask &&& ~~~(1#128 <<< v.val)) h.tableMask
    else s.refuseWrite fn
  | none => if h.up ∧ s.enumerates then s.setMasks fn h.msixMask on else s

/-- MSIX_MASK (R192, R231): a vector, or the whole table, is masked. -/
def execMsixMask (fn : Fn) (vec : Option (Fin 128)) (s : State) : Answer := .next (s.msixMasked fn vec true)

/-- MSIX_UNMASK (R192, R231). -/
def execMsixUnmask (fn : Fn) (vec : Option (Fin 128)) (s : State) : Answer := .next (s.msixMasked fn vec false)

/-- A word of the MSI-X table, or of the pending bits at 0xF_8000 (R190; log 9): an entry holds the message address in two words, the message
data, and the mask bit in bit 0 of its last word. -/
def State.msixWord (s : State) (fn : Fn) (off : Nat) : Nat :=
  let h := s.host[fnIdx fn]
  if off < 0xF0800 then
    if off % 16 = 12 then b2n (h.msixMask.getLsbD (off / 16 % 128)) else (find 0 h.msixTable (off % 2048)).toNat
  else if 0xF8000 ≤ off ∧ off < 0xF8010 then bits h.msixPending.toNat (off % 16 * 8 + 31) (off % 16 * 8)
  else 0

/-- A host's write of a word of the MSI-X table (R190, R231; log 9); the pending bits are read-only. -/
def State.writeMsix (s : State) (fn : Fn) (off v : Nat) : State :=
  let h := s.host[fnIdx fn]
  if 0xF0800 ≤ off then s
  else if off % 16 = 12 then
    let n := off / 16 % 128
    s.setMasks fn (if bit v 0 then h.msixMask ||| (1#128 <<< n) else h.msixMask &&& ~~~(1#128 <<< n)) h.tableMask
  else
    let word : BitVec 32 := BitVec.ofNat 32 (if off % 16 = 0 then v / 4 * 4 else v)
    s.setHost fn { h with msixTable := store 0 h.msixTable (off % 2048) word }

end Sys2Proof.Machine
end

