-- ==== Sys2Proof/Machine/LinkOps.lean ====
section
/-! DEFINITION. What a Berux port sends: flits with their CRC, sequence, acknowledgement and credits, transactions in slots, sideband
messages, and the port that the forwarding tables give a destination (R243–R254, R259, R260, R284–R288). -/

namespace Sys2Proof.Machine

open Sys2Proof

/-! ## Flits -/

/-- CRC-64 of a list of bytes from `c`, polynomial 0x42F0_E1EB_A9EA_3693, most significant bit first (R243; log 74). -/
def crc64From (c : BitVec 64) : List Byte → BitVec 64
  | [] => c
  | b :: rest =>
    let p : BitVec 64 := 0x42F0E1EBA9EA3693
    let x := c ^^^ (b.setWidth 64 <<< 56)
    crc64From (crcBit p (crcBit p (crcBit p (crcBit p (crcBit p (crcBit p (crcBit p (crcBit p x)))))))) rest

/-- The CRC of a flit: initial value all ones, final inversion (R243). -/
def crc64 (l : List Byte) : BitVec 64 := ~~~(crc64From (BitVec.allOnes 64) l)

/-- Replaces a port. -/
def State.setPort (s : State) (p : Fin 20) (x : Port) : State := { s with ports := s.ports.set p x }

/-- A virtual channel by its code, REQ0 where the code names none. -/
def vcOf (n : Nat) : Fin 6 := if h : n < 6 then ⟨n, h⟩ else 0

/-- The channel whose credits the next flit returns: the lowest-numbered one that is owed any (R249; log 75). -/
def Port.creditVc (x : Port) : Fin 6 := ((List.finRange 6).find? (fun v => decide (0 < x.owed[v]))).getD 0

/-- A flit (Table: Flit layout). -/
def flitOf (ftype ctl seq ack credit : Nat) (payload : List Byte) : List Byte :=
  let body : List Byte := natLe 1 ftype ++ natLe 1 ctl ++ natLe 2 seq ++ natLe 2 ack ++ natLe 2 credit ++
    (payload ++ List.replicate (240 - payload.length) 0)
  body ++ natLe 8 (crc64 body).toNat

/-- The port transmits one flit, with its present acknowledgement, nak and credit return (R245, R246, R249). -/
def State.sendFlit (s : State) (p : Fin 20) (ftype : BitVec 8) (vc : Nat) (seq : BitVec 12) (payload : List Byte) : State :=
  let x := s.ports[p]
  let v := x.creditVc
  let n := min 8191 x.owed[v]
  let bytes := flitOf ftype.toNat (b2n x.nak + 2 * vc) seq.toNat (x.rxSeq - 1).toNat (v.val * 8192 + n) payload
  (s.setPort p { x with nak := false, owed := x.owed.set v (x.owed[v] - n) }).emit (.flit p bytes)

/-- An idle flit (R247). -/
def State.sendIdle (s : State) (p : Fin 20) : State := s.sendFlit p 0 0 0 []

/-- A data or sideband flit takes the next sequence number and is kept until it is acknowledged (R245, R247). -/
def State.sendKept (s : State) (p : Fin 20) (ftype : BitVec 8) (vc : Nat) (payload : List Byte) : State :=
  let x := s.ports[p]
  (s.setPort p { x with txSeq := x.txSeq + 1, replay := x.replay ++ [(x.txSeq, ftype, vc, payload)] }).sendFlit p ftype vc x.txSeq payload

/-- Every kept flit is sent again, in order (R247). -/
def State.replayAll (s : State) (p : Fin 20) : State :=
  let kept := s.ports[p].replay
  let s := s.setPort p { s.ports[p] with replays := BitVec.ofNat 64 (min (2 ^ 64 - 1) (s.ports[p].replays.toNat + kept.length)) }
  kept.foldl (fun s f => s.sendFlit p f.2.1 f.2.2.1 f.1 f.2.2.2) s

/-- The first slots, at most n, of the transactions that wait on a channel, and what is left of them (R248). -/
def takeTx : Nat → List TxTrans → List (List Byte) × List TxTrans
  | _, [] => ([], [])
  | n, t :: rest =>
    if t.slots.length ≤ n then
      let r := takeTx (n - t.slots.length) rest
      (t.slots ++ r.1, r.2)
    else (t.slots.take n, { started := t.started || n != 0, slots := t.slots.drop n } :: rest)

/-- A data flit of a channel: its next slots, at most 15, and padding slots. Each of the 15 slots takes a credit (R248, R249;
log 76). -/
def State.sendData (s : State) (p : Fin 20) (v : Fin 6) : State :=
  let x := s.ports[p]
  let r := takeTx 15 x.tx[v]
  (s.setPort p { x with
    tx := x.tx.set v r.2
    credits := x.credits.set v (x.credits[v] - 15)
    sinceSide := min 15 (x.sinceSide + 1) }).sendKept p 1 v.val r.1.flatten

/-- The oldest waiting sideband message leaves (R259). -/
def State.sendMessage (s : State) (p : Fin 20) (m : List Byte) (rest : List (List Byte)) : State :=
  (s.setPort p { s.ports[p] with sideTx := rest, sinceSide := 0 }).sendKept p 2 0 m

/-- One new flit, where the port may send one: at most 512 unacknowledged; a sideband message goes first, but for one in 16 flits at
most while data can go; data channels go in order of their codes (R247, R249, R259; log 75). -/
def State.pumpOne (s : State) (p : Fin 20) : Option State :=
  let x := s.ports[p]
  if (x.state ≠ .active ∧ x.state ≠ .flush) ∨ 512 ≤ x.replay.length then none
  else
    let ready := (List.finRange 6).find? (fun v => !x.tx[v].isEmpty && decide (15 ≤ x.credits[v]))
    match x.sideTx, ready with
    | m :: rest, none => some (s.sendMessage p m rest)
    | m :: rest, some v => if 15 ≤ x.sinceSide then some (s.sendMessage p m rest) else some (s.sendData p v)
    | [], some v => some (s.sendData p v)
    | [], none => none

/-- Up to `n` new flits. -/
def State.pumpN (s : State) (p : Fin 20) : Nat → State
  | 0 => s
  | n + 1 => match s.pumpOne p with
    | some s' => s'.pumpN p n
    | none => s

/-- The port sends what it can (R247). -/
def State.pump (s : State) (p : Fin 20) : State := s.pumpN p 512

/-- The port answers a flit: with what waits, or with an idle flit that carries its acknowledgement (R245–R247). -/
def State.pumpOrIdle (s : State) (p : Fin 20) : State :=
  let s' := s.pump p
  if s'.ports[p].txSeq = s.ports[p].txSeq then s'.sendIdle p else s'

/-- Cuts bytes into slots of 16, the last padded with zeros (R251). -/
def slotsFrom : Nat → List Byte → List (List Byte)
  | 0, _ => []
  | n + 1, l =>
    if l.isEmpty then []
    else
      let h := l.take 16
      (h ++ List.replicate (16 - h.length) 0) :: slotsFrom n (l.drop 16)

/-- Slots of a transaction. -/
def slotsOf (l : List Byte) : List (List Byte) := slotsFrom (l.length / 16 + 1) l

/-- A transaction joins the slots that wait on a channel of a port, and leaves when it can (R248, R249). -/
def State.sendTrans (s : State) (p : Fin 20) (v : Fin 6) (bytes : List Byte) : State :=
  let x := s.ports[p]
  (s.setPort p { x with tx := x.tx.set v (x.tx[v] ++ [{ started := false, slots := slotsOf bytes }]) }).pump p

/-- A sideband message waits on a port and leaves when it can (R259). -/
def State.sendSide (s : State) (p : Fin 20) (m : List Byte) : State :=
  (s.setPort p { s.ports[p] with sideTx := s.ports[p].sideTx ++ [m] }).pump p

/-- Slots move out of the receive buffer: their credits are owed to the peer (R249). -/
def State.freeSlots (s : State) (p : Fin 20) (v : Fin 6) (n : Nat) : State :=
  let x := s.ports[p]
  s.setPort p { x with owed := x.owed.set v (x.owed[v] + n) }

/-- An addressing error is counted (R28, R254, R258, R260; Table: BX_Pp_ERR fields). A late response sets addr_error as well as the count: DESIGN
CHOICE (log 209). -/
def State.addrError (s : State) (p : Fin 20) : State :=
  let x := s.ports[p]
  (s.setPort p { x with addrErr := if x.addrErr = BitVec.allOnes 32 then x.addrErr else x.addrErr + 1 }).flag (pReg p + 0x0C) 4

/-! ## Identifiers and routes -/

/-- This module's identifier, and whether it is assigned (Table: BX_MODULE_ID fields). -/
def State.myId (s : State) : Nat := bits (s.mreg bxModuleId) 11 0
def State.idValid (s : State) : Bool := bit (s.mreg bxModuleId) 31

/-- The identifier under which a port works: the one it trained with, while it has a link (R270). -/
def State.portId (s : State) (p : Fin 20) : Nat :=
  match s.ports[p].state with
  | .active | .retrain | .flush => s.ports[p].trained.id
  | _ => s.myId

/-- Pod, group and member of an identifier (Table: Module identifier). -/
def podOf (i : Nat) : Nat := bits i 11 10
def groupOf (i : Nat) : Nat := bits i 9 4
def memberOf (i : Nat) : Nat := bits i 3 0

/-- P(k) (Table: Group ports). -/
def groupPort (k : Nat) : Option Nat := [0, 0, 1, 2, 3, 5, 6, 7, 8, 10, 11, 12, 13, 15, 16, 17][k]?

/-- Port of a second-level slot (R284). -/
def slotPort (j : Nat) : Option Nat := [4, 9, 14, 18][j]?

/-- Role of an identifier in a configuration, 0 where it is absent (Table: Canonical blocks). -/
def roleIn (b : Blocks) (i : Nat) : Nat := ((b.roles.find? (fun e => e.1 == i)).map (fun e => e.2)).getD 0

/-- The port from member m to member n of a group (R284). -/
def withinGroup (m n : Nat) : Option Nat := groupPort ((n + 16 - m) % 16)

/-- The route to the same group or to another group of one's own pod (R287). -/
def podRoute (me i : Nat) : Option Nat :=
  let h := groupOf i
  if h = groupOf me then withinGroup (memberOf me) (memberOf i)
  else if memberOf me = h / 4 then slotPort (h % 4)
  else withinGroup (memberOf me) (h / 4)

/-- The route between a standby and the actives of its group, from one or from the other (R288). -/
def twinRoute (b : Blocks) (me i : Nat) : Option Nat :=
  match b.twins.find? (fun t => t.standby == me), b.twins.find? (fun t => t.standby == i) with
  | some t, none =>
    let m := memberOf t.active
    let k := (memberOf i + 16 - m) % 16
    if i = t.active then some 19
    else if k % 4 = 1 then slotPort (k / 4)
    else slotPort 0
  | none, some t =>
    let m := memberOf t.active
    let k := (memberOf me + 16 - m) % 16
    if me = t.active then some 19
    else if k % 4 = 1 then slotPort (k / 4)
    else withinGroup (memberOf me) ((m + 1) % 16)
  | _, _ => none

/-- The forwarding entry of a destination: 0x1E this module, 0x1F none (R287, R288, Table: BX_ register map). The tables of the four
dies hold the same entries. A module that ROLES marks absent has no entry (log 77). -/
def State.forward (s : State) (i : Nat) : Nat :=
  let me := s.myId
  if s.idValid ∧ i = me then 0x1E
  else match s.fleet.blocks with
    | none => 0x1F
    | some b =>
      if roleIn b i = 0 ∨ 2 ≤ podOf i then 0x1F
      else
        let twin : Bool := b.kind = 2 && (b.twins.any (fun t => t.standby == me) || b.twins.any (fun t => t.standby == i))
        let r : Option Nat :=
          if twin then twinRoute b me i
          else if podOf i = podOf me then
            if groupOf i = groupOf me then withinGroup (memberOf me) (memberOf i)
            else if b.kind = 3 ∨ b.kind = 4 then podRoute me i else none
          else if b.kind = 4 ∧ groupOf i = groupOf me then
            if memberOf i = memberOf me then some 19 else withinGroup (memberOf me) (memberOf i)
          else none
        r.getD 0x1F

/-- The egress port of a destination. -/
def State.egress (s : State) (i : Nat) : Option (Fin 20) :=
  let n := s.forward i
  if h : n < 20 then some ⟨n, h⟩ else none

/-- The port on which an answer leaves that goes to the source of a request received on port p: the port itself where the source is
its peer, else the port of the table (log 78). -/
def State.backPort (s : State) (p : Fin 20) (src : Nat) : Option (Fin 20) :=
  if bit s.ports[p].peer.toNat 31 ∧ bits s.ports[p].peer.toNat 11 0 = src then some p else s.egress src

/-! ## Transactions -/

/-- A transaction header (Table: Transaction header). -/
def header (ttype flags length src dst op tag addr : Nat) : List Byte :=
  natLe 1 ttype ++ natLe 1 flags ++ natLe 2 length ++ natLe 3 (src + dst * 4096) ++ natLe 1 op ++ natLe 2 tag ++ natLe 6 addr

/-- A field of a transaction, `n` bytes at an offset. -/
def tfield (b : List Byte) (off n : Nat) : Nat := leNat ((b.drop off).take n)

/-- Type, flags, length, source, destination, operation or status, tag and address of a transaction. -/
def tType (b : List Byte) : Nat := tfield b 0 1
def tFlags (b : List Byte) : Nat := tfield b 1 1
def tLen (b : List Byte) : Nat := tfield b 2 2
def tSrc (b : List Byte) : Nat := bits (tfield b 4 3) 11 0
def tDst (b : List Byte) : Nat := bits (tfield b 4 3) 23 12
def tOp (b : List Byte) : Nat := tfield b 7 1
def tTag (b : List Byte) : Nat := tfield b 8 2
def tAddr (b : List Byte) : Nat := tfield b 10 6
/-- Hop index and view. -/
def tHop (b : List Byte) : Nat := bits (tFlags b) 2 1
def tView (b : List Byte) : BitVec 2 := BitVec.ofNat 2 (tFlags b / 16)
/-- Data of a transaction, without padding. -/
def tData (b : List Byte) : List Byte := (b.drop 16).take (tLen b)

/-- Data slots that follow a header (Table: Transaction types). A type that the table does not list is taken to carry its length. -/
def dataSlots (b : List Byte) : Nat :=
  match tType b with
  | 0x01 => 0
  | 0x03 => 1
  | 0x82 => 0
  | 0x85 => 0
  | 0x83 => if tLen b = 0 then 0 else 1
  | _ => (tLen b + 15) / 16

/-- A response's type (Table: Transaction types); none for a type without one. A request of an unlisted type is answered in the type
0x80 above its own: DESIGN CHOICE (log 82). -/
def responseType (ttype : Nat) : Option Nat :=
  match ttype with
  | 0x01 => some 0x81
  | 0x02 => some 0x82
  | 0x03 => some 0x83
  | 0x04 => some 0x82
  | 0x05 => some 0x85
  | t => if 0 < t ∧ t < 0x80 then some (t + 0x80) else none

/-- A port takes new transactions and messages to send: it is ACTIVE, or retrains and keeps them (R256, R263). -/
def Port.carries (x : Port) : Bool := decide (x.state = .active ∨ x.state = .retrain)

/-- A request received on port p is answered: with the status, and the data where the status is OK (R251, R253). The answer names the
destination of the request as its source, where another module refuses it too (log 186). An answer that has no port to leave by, or whose
port carries no traffic, is lost. -/
def State.answer (s : State) (p : Fin 20) (req : List Byte) (status : Nat) (data : List Byte) : State :=
  match responseType (tType req), s.backPort p (tSrc req) with
  | some t, some e =>
    if s.ports[e].carries ∨ s.ports[e].state = .flush then
      let data := if status = 0 then data else []
      s.sendTrans e 3 (header t 0 data.length (tDst req) (tSrc req) status (tTag req) (tAddr req) ++ data)
    else s
  | _, _ => s

/-! ## Sideband -/

/-- The next msg_seq of a sideband type (R260). -/
def State.nextSeq (s : State) (mtype : Nat) : State × Nat :=
  let n := find 0 s.fleet.msgSeq mtype
  ({ s with fleet := { s.fleet with msgSeq := insert s.fleet.msgSeq mtype (n + 1) } }, n.toNat)

/-- A sideband message of this module under an identifier: header and body (R260, Table: Sideband header). -/
def State.message (s : State) (mtype src dest : Nat) (body : List Byte) : State × List Byte :=
  let (s, n) := s.nextSeq mtype
  (s, natLe 1 2 ++ natLe 1 mtype ++ natLe 2 (16 + body.length) ++ natLe 3 (src + dest * 4096) ++ natLe 1 0 ++ natLe 4 n ++
    natLe 4 (s.time.toNat / 12500) ++ body)

/-- The operating points of the four dies, 3 bits each (Table: Message bodies). -/
def pointsWord (f : Fin 4 → Fin 8) : Nat := (f 0).val + (f 1).val * 8 + (f 2).val * 64 + (f 3).val * 512

/-- A message leaves toward a destination on the port of its route, where that port carries it (R254, R260). -/
def State.sendTo (s : State) (mtype dest : Nat) (body : List Byte) : State :=
  match s.egress dest with
  | some p =>
    if s.ports[p].carries then
      let (s, m) := s.message mtype (s.portId p) dest body
      s.sendSide p m
    else s
  | none => s

/-- Fields of a sideband message: type, length, source, destination, hop index. -/
def mType (m : List Byte) : Nat := tfield m 1 1
def mLen (m : List Byte) : Nat := tfield m 2 2
def mSrc (m : List Byte) : Nat := bits (tfield m 4 3) 11 0
def mDst (m : List Byte) : Nat := bits (tfield m 4 3) 23 12
def mHop (m : List Byte) : Nat := bits (tfield m 7 1) 1 0

/-- Length of a sideband type (Table: Sideband message types). -/
def sideLength (t : Nat) : Option Nat :=
  if t = 0x01 then some 104
  else if t = 0x02 then some 40
  else if 0x10 ≤ t ∧ t ≤ 0x17 then some 40
  else if t = 0x20 then some 32
  else if 0x30 ≤ t ∧ t ≤ 0x32 then some 64
  else none

end Sys2Proof.Machine
end

