-- ==== Sys2Proof/Machine/PowerOps.lean ====
section
/-! DEFINITION. What several parts of the power system do: isolating the store, pins and dividers of a die, LIMIT, the hold and the
ordered quiesce (R337–R340, R389, R431, R432, R444, R472). -/

namespace Sys2Proof.Machine

open Sys2Proof

/-! ## Operating points -/

/-- Divider of an operating point (Table: Operating points). -/
def pointDiv (p : Nat) : Nat := [20, 16, 14, 12, 10, 9, 8, 7][p]?.getD 20

/-- Full-load ratio k(q) needs the clock and the stored voltage of a point (R412): both as numbers, clock as 12.5 GHz / divider. -/
def Core.factor (c : Core) (p : Fin 8) : ℚ :=
  let v (q : Fin 8) : ℚ := c.vop[q]
  ((8 : ℚ) / pointDiv p) * (v p / v 6) * (v p / v 6)

/-- Replaces a core controller. -/
def State.setCore (s : State) (d : Fin 4) (c : Core) : State := { s with power := { s.power with cores := s.power.cores.set d c } }

/-- A rail adds back all its working phases (R343). -/
def Rail.addBack (x : Rail) : Rail := { x with shed := 0, shedTo := none }

/-- The pins of a die reach a point: the controller slews toward its stored value, and a higher point adds back every phase (R340,
R343). -/
def State.setPins (s : State) (d : Fin 4) (p : Fin 8) : State :=
  let c := s.power.cores[d]
  let r := s.power.rails[coreRail d]
  if p = c.pins then s
  else
    let s := s.setCore d { c with pins := p, low := min c.low p, slewing := decide (r.state = .on), trimSlew := false }
    if c.pins < p ∧ r.state = .on then s.setRail (coreRail d) r.addBack else s

/-- Crown's sequencer drives a point: Heartwood holds the pins at OP0 under LIMIT, and refuses raises under FREEZE (R337, R444). -/
def State.askPins (s : State) (d : Fin 4) (p : Fin 8) : State :=
  let c := { s.power.cores[d] with asked := p }
  let s := s.setCore d c
  if c.forced then s
  else if s.hwd.freeze ∧ c.pins < p then s
  else s.setPins d p

/-- The die's divider changes, where its clocks run (R472). -/
def State.setDiv (s : State) (d : Fin 4) (n : Nat) : State :=
  if s.clk.pll[d] then { s with clk := { s.clk with div := s.clk.div.set d n } } else s

/-- The highest point whose clock the settled and the selected voltage both carry, and every voltage that the pins have asked for since op_done
(R339, R472). -/
def State.clockPoint (s : State) (d : Fin 4) : Fin 8 := min s.power.cores[d].settled (min s.power.cores[d].low s.power.cores[d].pins)

/-- A die is lowered to a point: its divider first, then its pins (R339). -/
def State.lowerDie (s : State) (d : Fin 4) (p : Fin 8) : State :=
  let s := if s.clk.div[d] < pointDiv p then s.setDiv d (pointDiv p) else s
  s.askPins d p

/-! ## The store -/

/-- The store switches open and the precharge path turns off: a store that was connecting or CONNECTED becomes ISOLATED, a draining
one stays DRAINING, and ceiling 5 returns to its fuse value (R389, R442, R444). -/
def State.isolate (s : State) : State :=
  { s with
    hwd := { s.hwd with swA := false, swB := false, precharge := false, ceil := s.hwd.ceil.set 5 2250 }
    sap := { s.sap with
      following := false
      holding := false
      swAClosing := false
      drain := s.sap.drain.map (fun d => { d with returning := false })
      bleed := s.sap.bleed || s.sap.drain.isSome
      state := match s.sap.state with
        | .precharge => .isolated
        | .connected => .isolated
        | x => x }
    power := { s.power with rails := s.power.rails.set 10 s.power.rails[10].remove } }

/-- The store cannot be used for smoothing (R416). -/
def State.noStore (s : State) : Bool :=
  decide (s.sap.state ≠ .connected) || !s.le.ok || decide (s.le.slots[0].mode = .off ∨ s.le.slots[0].mode = .fault)

/-! ## LIMIT -/

/-- Heartwood puts LIMIT on a die for a trip: divider /20, then the pins held at OP0 (R339, R444). -/
def State.limitDie (s : State) (d : Fin 4) (code : Nat) : State :=
  let s := { s with hwd := { s.hwd with limit := s.hwd.limit.set d (addNat s.hwd.limit[d] code) } }
  let s := s.flag hwdTrip 0
  let s := s.setDiv d 20
  let s := s.setPins d 0
  s.setCore d { s.power.cores[d] with forced := true }

/-- LIMIT on every die. -/
def State.limitAll (s : State) (code : Nat) : State := (List.finRange 4).foldl (fun s d => s.limitDie d code) s

/-- Heartwood releases a trip's LIMIT on a die: with none left the pins are Crown's again, which keeps them where they are until it has admitted a
raise (R412, R445). -/
def State.unlimit (s : State) (d : Fin 4) (code : Nat) : State :=
  let left := s.hwd.limit[d].filter (fun c => c != code)
  let s : State := { s with hwd := { s.hwd with limit := s.hwd.limit.set d left } }
  if left.isEmpty ∧ s.power.cores[d].forced then
    s.setCore d { s.power.cores[d] with forced := false, asked := s.power.cores[d].pins }
  else s

/-! ## Hold and quiesce (R431, R432) -/

/-- Crown enters the hold: every divider goes to /20 and ballast stops; the LIMIT of a bus loss, one that comes during the hold
too, is released once Crown reports the hold in force (R431, R445). -/
def State.enterHold (s : State) : State :=
  let s := if s.budget.hold then s
    else
      let s := (List.finRange 4).foldl (fun s d => s.setDiv d 20) s
      let s := { s with budget := { s.budget with hold := true, duty := Vector.replicate 4 0 } }
      ((s.record 0x53 .fault false 0 (natLe 4 s.sap.presentJ)).flushLog true).report 9 0
  if s.hwd.freeze then s else (List.finRange 4).foldl (fun s d => (s.unlimit d 0x18).unlimit d 0x19) s

/-- Step 1 of the ordered quiesce, also for a restart: fetching stops on every queue, and Crown writes its record and reports (R432, R474,
R499). -/
def State.beginQuiesce (s : State) (cause : StopCause) : State :=
  if s.stage ≠ .stage3 then s
  else
    let s := { s with
      stage := .quiescing
      hq := { s.hq with stopped := true }
      budget := { s.budget with quiesce := some .draining, stopped := some cause } }
    (s.record 0x55 .fault false 0 (natLe 4 s.sap.presentJ)).report 9 0

end Sys2Proof.Machine
end

