-- ==== Sys2Proof/Machine/CapOps.lean ====
section
/-! DEFINITION. Crown's ceilings, admission to an operating point, and caps (R408–R416, R424–R426, R586). -/

namespace Sys2Proof.Machine

open Sys2Proof

/-! ## The ceilings (R416) -/

/-- Working bus converters (R330). -/
def State.convCount (s : State) : Nat := s.power.convFault.toList.countP (fun f => !f)

/-- Converter ceiling in W (Table: Converters in service). -/
def convCeiling (n : Nat) : Nat := if 4 ≤ n then 6000 else if n = 3 then 5200 else 3400

/-- Inlet derating in W, from the inlet in 1/16 °C: 300 W for each °C above 40 °C, down to 1.5 kW (R408). -/
def inletCeiling (inlet : Int) : Nat :=
  if inlet ≤ 640 then 6000 else max 1500 (6000 - (inlet - 640).toNat * 300 / 16)

/-- The share governs the peak: the store is unavailable for smoothing, or its energy is below the floor (R416). -/
def State.shareBound (s : State) : Bool := s.noStore || s.budget.floorLow

/-- c_peak in W (R330, R408, R416, R420, R429, R431). -/
def State.cPeak (s : State) : Nat :=
  let b := s.budget
  let base := min (10 * s.hwd.ceil[0]) (min (convCeiling s.convCount) (inletCeiling b.inlet))
  let base := if b.hold then min base 3000 else base
  let base := if s.shareBound then min base b.share else base
  let base := if b.satDischarge then min base (b.share + 2500) else base
  if b.coolantLoss then min base 1500 else base

/-- c_mean in W (R416, R420). -/
def State.cMean (s : State) : Nat := if s.budget.satCharge then s.budget.share - 300 else s.budget.share

/-! ## Admission (R412) -/

/-- The point in force on a die: the one on its pins (R410). -/
def State.pointOf (s : State) (d : Fin 4) : Fin 8 := s.power.cores[d].pins

/-- hint_dem of a die: the highest demand of the hinted windows that cover it (R413). -/
def State.hintDemand (s : State) (d : Fin 4) : Nat :=
  (s.hq.hints.filter (fun h => h.active && h.dies.getLsbD d.val)).foldl (fun m h => max m h.demand) 0

/-- The highest hint_dem of the dies. -/
def State.hintPeak (s : State) : Nat := (List.finRange 4).foldl (fun m d => max m (s.hintDemand d)) 0

/-- Projected change of internal demand when a die goes from one point to another (R412). -/
def State.deltaPower (s : State) (d : Fin 4) (cur p : Fin 8) : ℚ :=
  let c := s.power.cores[d]
  (s.budget.pdie[d] : ℚ) * (c.factor p / c.factor cur - 1) * 100 / 93

/-- The change of the 1 s mean that goes with it. -/
def State.deltaMean (s : State) (d : Fin 4) (dp : ℚ) : ℚ := dp * s.budget.busy[d] / 1000

/-- Whether a projected peak and mean lie within the ceilings (R412). -/
def State.within (s : State) (peak mean : ℚ) : Bool := decide (peak ≤ (s.cPeak : ℚ) - 100 ∧ mean ≤ (s.cMean : ℚ) - 50)

/-- The check of a raise, on top of the raises already admitted in the evaluation: their total power and mean (R412). -/
def State.fits (s : State) (d : Fin 4) (p : Fin 8) (sofar : ℚ × ℚ) : Bool :=
  let dp := s.deltaPower d (s.pointOf d) p
  s.within (max s.budget.demPeak (s.hintDemand d) + sofar.1 + dp) (s.budget.demMean + sofar.2 + s.deltaMean d dp)

/-- Working phases of a core rail. -/
def State.phases (s : State) (d : Fin 4) : Nat := (List.range 26).countP (fun i => s.power.rails[coreRail d].working.getLsbD i)

/-- Full-load current of a point in A (Table: Operating points). -/
def Core.fullCurrent (c : Core) (p : Fin 8) : ℚ := 800 * c.factor p * 1000 / c.vop[p]

/-- Whether the phases of a die allow a point (Table: Core phases remaining). -/
def State.phasesAllow (s : State) (d : Fin 4) (p : Fin 8) : Bool :=
  let c := s.power.cores[d]
  let n := s.phases d
  if 24 ≤ n then true
  else if 19 ≤ n then
    decide (p < 7) || decide ((s.budget.pdie[d] : ℚ) * (c.factor p / c.factor c.pins) * 1000 / c.vop[p] ≤ 60 * n)
  else decide (p = 0) || decide (c.fullCurrent p ≤ 60 * n)

/-- The highest point that a die's phases and its ageing allow (R347, R415). -/
def State.topPoint (s : State) (d : Fin 4) : Fin 8 :=
  ((List.finRange 8).filter (fun p => decide (p ≤ s.budget.top[d]) && s.phasesAllow d p)).foldl max 0

/-- Preference of a launch: OP6 where it states none (R209, R410). -/
def prefPoint (n : BitVec 8) : Fin 8 := if h : n.toNat < 8 then ⟨n.toNat, h⟩ else 6

/-- Whether a launch runs on a die. -/
def Launch.onDie (l : Launch) (d : Fin 4) : Bool :=
  decide (l.phase = .running ∧ l.first < (d.val + 1) * 640 ∧ d.val * 640 < l.first + l.count)

/-- A match point in force: the lowest that applies (R426). -/
def State.matchPoint (s : State) : Option (Fin 8) :=
  (s.budget.matches_.filter (fun m => m.applied)).foldl (fun r m => match r with
    | none => some m.point
    | some p => some (min p m.point)) none

/-- Preferences of a die: of its running launches, lowered by a match, and of hinted windows (R410, R413, R426). -/
def State.prefs (s : State) (d : Fin 4) : List (Fin 8) :=
  let run := (s.hq.launches.filter (fun l => l.onDie d)).map (fun l =>
    let p := prefPoint l.opPref
    match s.matchPoint with
    | some m => min p m
    | none => p)
  let hint := (s.hq.hints.filter (fun h => h.active && h.dies.getLsbD d.val)).filterMap (fun h => h.pref)
  run ++ hint

/-- The preference of a die: the highest, and without any the point that was granted, which the die keeps until its 10 ms are over
(R410). -/
def State.preference (s : State) (d : Fin 4) : Fin 8 :=
  match s.prefs d with
  | [] => if s.budget.lingering[d] then s.pointOf d else 0
  | l => l.foldl max 0

/-- Cap point in force on a die, the top point without a cap (R410, R586). -/
def State.capPoint (s : State) (d : Fin 4) : Fin 8 := (s.budget.caps[d]).getD 7

/-- The thermal ceiling as the die's point follows it: while a cap is deferred, or waits for the end of the hold, it lowers no die; the coolant's loss
acts within the hold (R424, R434). -/
def State.ceilOf (s : State) (d : Fin 4) : Fin 8 :=
  if s.budget.deferred.isSome || (s.budget.hold && !s.budget.coolantLoss) then max s.budget.tceil[d] (s.pointOf d) else s.budget.tceil[d]

/-- The highest point that a die's phases, ageing, thermal ceiling and cap leave it, whatever its preference (R347, R410, R415). -/
def State.boundPoint (s : State) (d : Fin 4) : Fin 8 := min (s.topPoint d) (min (s.ceilOf d) (s.capPoint d))

/-- The highest point that a die may be raised to (R410). -/
def State.target (s : State) (d : Fin 4) : Fin 8 := min (s.preference d) (s.boundPoint d)

/-! ## Caps (R424–R426, R586) -/

/-- A LIMIT of Heartwood's is in force (R444). -/
def State.limited (s : State) : Bool := s.power.cores.toList.any (fun c => c.forced)

/-- A cap of Crown's is in force, or a LIMIT of Heartwood's is, which is a cap of cause 2 (R424, R444). -/
def State.capped (s : State) : Bool := s.budget.caps.toList.any Option.isSome || s.limited

/-- Members of the sets on which a collective runs or a persistent descriptor is active, this module apart (R425). -/
def State.capPeers (s : State) : List Nat :=
  ((s.fleet.collectives.flatMap (fun c => c.members)).filter (fun i => i != s.myId)).dedup

/-- A cap notice to every peer (R425): the new point of each die, the cause, c_peak, the collective sequence number from which it
applies and, for a thermal cap, the thermal loop's estimate of its length, which is a free value (log 12). -/
def State.capNotice (s : State) (points : Fin 4 → Fin 8) (cause : Nat) (late : Bool) : State :=
  let len := if cause = 3 then s.fresh.toNat % 2 ^ 32 else 0
  let body := natLe 2 (pointsWord points) ++ natLe 1 cause ++ natLe 1 0 ++ natLe 4 s.cPeak ++
    natLe 4 ((s.fleet.boundaries.toNat + b2n late) % 2 ^ 32) ++ natLe 4 len ++ natLe 8 0
  s.capPeers.foldl (fun s i => s.sendTo 0x02 i body) (if cause = 3 then s.drawn else s)

/-- The points that caps leave the dies at. -/
def State.cappedPoints (s : State) (caps : Vector (Option (Fin 8)) 4) (d : Fin 4) : Fin 8 :=
  match caps[d] with
  | some p => min p (s.pointOf d)
  | none => s.pointOf d

/-- Cause of each die's cap once caps are in force: a cap that is new or lower takes the cause that is given, the thermal one where it stands at the
die's thermal ceiling, and one that rises keeps its own (R424, R586). -/
def State.whyOf (s : State) (caps : Vector (Option (Fin 8)) 4) (cause : Nat) : Vector Nat 4 :=
  Vector.ofFn (fun d => match caps[d], s.budget.caps[d] with
    | none, _ => 0
    | some p, some q => if q ≤ p then s.budget.capWhy[d] else if p = s.budget.tceil[d] then 3 else cause
    | some p, none => if p = s.budget.tceil[d] then 3 else cause)

/-- The cause that PWR_BUDGET_STATUS shows for the caps of the dies: one other than the thermal one first, the LIMIT's where Crown has none (R424). -/
def capCauseOf (why : Vector Nat 4) (limited : Bool) : Nat :=
  match why.toList.filter (fun c => c != 0 && c != 3) with
  | c :: _ => c
  | [] => if why.toList.contains 3 then 3 else if limited then 2 else 0

/-- Caps come into force: every die above its cap point is lowered (R339, R424, R586). -/
def State.applyCaps (s : State) (caps : Vector (Option (Fin 8)) 4) (cause : Nat) : State :=
  let why := s.whyOf caps cause
  let s := { s with budget := { s.budget with caps := caps, capWhy := why, deferred := none, capCause := capCauseOf why s.limited } }
  (List.finRange 4).foldl (fun s d =>
    match caps[d] with
    | some p => if p < s.pointOf d then s.lowerDie d p else s
    | none => s) s

/-- Cause of a notice: 2 while a LIMIT is in force (R456). -/
def State.noticeCause (s : State) (cause : Nat) : Nat := if s.limited then 2 else cause

/-- A cap of a cause waits for a boundary: a collective instance runs, and nothing rules a deferral out: present energy below the floor, a converter
that does not follow, the hold, or a LIMIT (R424, R434). -/
def State.defers (s : State) (cause : Nat) : Bool :=
  (cause = 1 || cause = 3) && s.fleet.collectives.any (fun c => c.running) && decide (3000 ≤ s.sap.presentJ) && s.sap.following &&
  !s.budget.hold && !s.limited

/-- The lower of two sets of cap points. -/
def lowerCaps (a b : Vector (Option (Fin 8)) 4) : Vector (Option (Fin 8)) 4 :=
  Vector.ofFn (fun d => match a[d], b[d] with
    | some p, some q => some (min p q)
    | some p, none => some p
    | none, q => q)

/-- Crown lowers cap points: a change sends its notice, and applies now or at the next boundary. A deferred cap stands until it applies: ceilings that
call for no lower points meanwhile change nothing (R424, R425, R434, R586). -/
def State.decideCaps (s : State) (caps : Vector (Option (Fin 8)) 4) (cause : Nat) : State :=
  let base := match s.budget.deferred with
    | some (old, _) => old
    | none => s.budget.caps
  let all := match s.budget.deferred with
    | some (old, _) => lowerCaps old caps
    | none => caps
  if all = base then s
  else
    let late := s.defers cause
    let s := s.capNotice (s.cappedPoints all) (s.noticeCause cause) late
    if late then { s with budget := { s.budget with deferred := some (all, cause) } } else s.applyCaps all cause

/-- Step 2 of R586: points that are lowered together until the check passes, with the projected peak and mean. -/
def State.lowerUntil (s : State) (pts : Vector (Fin 8) 4) (peak mean : ℚ) : Nat → Vector (Fin 8) 4
  | 0 => pts
  | n + 1 =>
    if s.within peak mean then pts
    else
      let top := pts.toList.foldl max 0
      if top = 0 then pts
      else
        let next : Vector (Fin 8) 4 := pts.map (fun p => if p = top then p - 1 else p)
        let dps := (List.finRange 4).map (fun d => (d, if pts[d] = top then s.deltaPower d (s.pointOf d) next[d] - s.deltaPower d (s.pointOf d) pts[d] else 0))
        s.lowerUntil next (peak + (dps.map (fun e => e.2)).sum) (mean + (dps.map (fun e => s.deltaMean e.1 e.2)).sum) n

/-- Caps that the ceilings now call for, with their cause (R586): the lower of the thermal points and of those of the other causes. -/
def State.neededCaps (s : State) : Vector (Option (Fin 8)) 4 × Nat :=
  let now : Vector (Fin 8) 4 := Vector.ofFn s.pointOf
  let low := s.lowerUntil now (max s.budget.demPeak s.hintPeak) s.budget.demMean 32
  let other := decide (low ≠ now)
  let caps : Vector (Option (Fin 8)) 4 := Vector.ofFn (fun d =>
    let p := min low[d] s.budget.tceil[d]
    if p < now[d] then some (match s.budget.caps[d] with
      | some c => min c p
      | none => p) else s.budget.caps[d])
  (caps, if other then (if s.shareBound && s.budget.floorLow then 4 else 1)
    else if (List.finRange 4).any (fun d => decide (s.budget.tceil[d] < now[d])) then 3 else s.budget.capCause)

/-- The module under the ceilings that act within the hold: its own 3.0 kW, the coolant's, and those that do not depend on the share or on a thermal
ceiling (R431, R434). -/
def State.holdView (s : State) : State :=
  { s with budget := { s.budget with
    share := 6000, floorLow := false, satDischarge := false, satCharge := false
    tceil := if s.budget.coolantLoss then s.budget.tceil else Vector.replicate 4 7 } }

/-- Crown looks at its caps because a ceiling has fallen (R586). During the hold the caps that the hold itself calls for apply, and any other is
recorded for its end (R434; log 194). -/
def State.reviewCaps (s : State) : State :=
  if s.stage ≠ .stage3 ∨ !s.crown.running then s
  else if s.budget.hold then
    let n := s.holdView.neededCaps
    let all := s.neededCaps
    let s := s.decideCaps n.1 n.2
    if all.1 = s.budget.caps then s else { s with budget := { s.budget with heldCaps := some all } }
  else
    let n := s.neededCaps
    s.decideCaps n.1 n.2

/-- Caps that rise, in ascending die order: by one point where the check of a raise passes with the raises already made, a thermal one where its
ceiling has risen; a cap that reaches its die's preference ends (R412, R586). -/
def State.raisedCaps (s : State) : Vector (Option (Fin 8)) 4 :=
  ((List.finRange 4).foldl (fun (acc : Vector (Option (Fin 8)) 4 × (ℚ × ℚ)) (d : Fin 4) => match s.budget.caps[d] with
    | none => acc
    | some c =>
      let up := decide (c < 7) && decide (c < s.budget.tceil[d]) && (decide (s.budget.capWhy[d] = 3) || s.fits d (c + 1) acc.2)
      let now := if up then c + 1 else c
      let dp : ℚ := if up then s.deltaPower d (s.pointOf d) now else 0
      (acc.1.set d (if s.preference d ≤ now then none else some now), (acc.2.1 + dp, acc.2.2 + s.deltaMean d dp))) (s.budget.caps, ((0 : ℚ), (0 : ℚ)))).1

/-- Crown raises a die toward a point: to the highest up to it that passes the check, with the raises already admitted (R25, R339, R412). -/
def State.raiseTo (s : State) (d : Fin 4) (t : Fin 8) (sofar : ℚ × ℚ) : State × (ℚ × ℚ) :=
  let cur := s.pointOf d
  match ((List.finRange 8).filter (fun p => decide (cur < p ∧ p ≤ t) && s.fits d p sofar)).getLast? with
  | some p =>
    let dp := s.deltaPower d cur p
    (s.askPins d p, (sofar.1 + dp, sofar.2 + s.deltaMean d dp))
  | none => (s, sofar)

/-- Each die goes to its target: a lowering at once, a raise where the check passes, in ascending die order, each projection with the
raises already admitted (R339, R410–R412). -/
def State.raiseDies (s : State) : State :=
  ((List.finRange 4).foldl (fun (acc : State × (ℚ × ℚ)) d =>
    let s := acc.1
    let t := s.target d
    if !s.hwd.dieEn[d] ∨ s.power.cores[d].forced then acc
    else if t < s.pointOf d then ((s.lowerDie d t), acc.2)
    else s.raiseTo d t acc.2) (s, ((0 : ℚ), (0 : ℚ)))).1

/-- Caps rise or end at an evaluation, at once, and the dies go to their targets; the notice of the change carries the points they come to (R425,
R586). -/
def State.liftCaps (s : State) : State :=
  let up := s.raisedCaps
  if up = s.budget.caps then s.raiseDies
  else
    let cause := s.budget.capCause
    let s := (s.applyCaps up cause).raiseDies
    s.capNotice s.pointOf (s.noticeCause cause) false

/-- Crown evaluates every die's point (R411, R586). -/
def State.evaluate (s : State) : State :=
  if s.stage ≠ .stage3 ∨ !s.crown.running then s
  else
    let s := s.reviewCaps
    let s := if s.budget.deferred.isSome then s.raiseDies else s.liftCaps
    { s with budget := { s.budget with granted := Vector.ofFn (fun d => min (s.preference d) (s.pointOf d)) } }

end Sys2Proof.Machine
end

