-- ==== Sys2Proof/Machine/ConsoleOps.lean ====
section
/-! DEFINITION. What the Kenpex console prints, and how a command that runs over several steps ends (R551, R552, R558). The words of what a test
prints beside `pass` and `fail` are the model's (log 96). -/

namespace Sys2Proof.Machine

open Sys2Proof

/-! ## Numbers as text -/

/-- A text of at least `w` characters, zeros in front. -/
def padZero (w : Nat) (t : String) : String := "".pushn '0' (w - t.length) ++ t

/-- A decimal number. -/
def decText (n : Nat) : String := toString n

/-- A signed decimal number. -/
def intText (v : Int) : String := toString v

/-- A number in units of 10^−d, with its point. -/
def fixText (d n : Nat) : String := decText (n / 10 ^ d) ++ "." ++ padZero d (decText (n % 10 ^ d))

/-- Two hexadecimal digits. -/
def hexByte (b : Byte) : String := padZero 2 (String.ofList (Nat.toDigits 16 b.toNat))

/-- Bytes in hexadecimal. -/
def hexText (l : List Byte) : String := l.foldl (fun t b => t ++ hexByte b) ""

/-- Names of the states of a rail. -/
def railText : RailState → String
  | .off => "off"
  | .softStart => "soft-start"
  | .hiccup => "hiccup"
  | .on => "on"
  | .latched => "latched"
  | .crowbarred => "crowbarred"

/-- Names of the rails of R555 by number. -/
def railName (r : Fin 11) : String :=
  if r.val < 4 then "vcore" ++ decText r.val else if r.val = 4 then "vdram" else if r.val < 9 then "vlink" ++ decText (r.val - 5)
  else if r.val = 9 then "12v" else "precharge"

/-! ## Lines, the prompt and replies -/

/-- The bytes of a text. -/
def ascii (t : String) : List Byte := t.toList.map (fun c => BitVec.ofNat 8 c.toNat)

/-- The console prints a line (R551). -/
def State.say (s : State) (t : String) : State := s.emit (.console (ascii t))

/-- The console prints lines. -/
def State.sayAll (s : State) (l : List String) : State := l.foldl State.say s

/-- Reply lines (Table: Console errors). -/
def errText : Nat → String
  | 1 => "err 1 unknown"
  | 2 => "err 2 argument"
  | 3 => "err 3 not now"
  | 4 => "err 4 not permitted"
  | 5 => "err 5 busy"
  | 6 => "err 6 failed"
  | 7 => "err 7 aborted"
  | 8 => "err 8 crown"
  | _ => "ok"

/-- The console is ready for a command (R551). -/
def State.prompt (s : State) : State := s.say "kx> "

/-- A reply ends: `ok` for 0, else the error of that number; the prompt for the next command follows (R551). -/
def State.reply (s : State) (n : Nat) : State := (s.say (errText n)).prompt

/-- The command that runs ends with a reply (R552). -/
def State.endCommand (s : State) (n : Nat) : State := ({ s with svc := { s.svc with test := none, abort := false } }).reply n

/-- The line of a tested part: its verdict and what was measured (R558). -/
def partLine (x : Bool × String) : String := (if x.1 then "pass" else "fail") ++ x.2

/-- The lines of the tested parts, then the reply (R558). -/
def State.verdicts (s : State) (parts : List (Bool × String)) : State :=
  (s.sayAll (parts.map partLine)).reply (if parts.all (fun x => x.1) then 0 else 6)

/-- The field test that runs ends with the lines of its parts (R558). -/
def State.endTest (s : State) (parts : List (Bool × String)) : State := ({ s with svc := { s.svc with test := none, abort := false } }).verdicts parts

/-- A command prints its lines one after another and then its reply: `code` is its code of SVC_STATUS.test (R552, R558; log 213). -/
def State.printLines (s : State) (code : Nat) (byHwd : Bool) (lines : List String) (err : Nat) : State :=
  { s with svc := { s.svc with test := some (.print code byHwd (lines.map ascii) err) } }

/-- A test whose parts are decided prints their lines, and fails where a part does (R558). -/
def State.printParts (s : State) (code : Nat) (byHwd : Bool) (parts : List (Bool × String)) : State :=
  s.printLines code byHwd (parts.map partLine) (if parts.all (fun x => x.1) then 0 else 6)

/-- `test trip` runs in one of its forms: Heartwood blocks every enable and every switch closure (R561, R562). -/
def State.tripTesting (s : State) : Bool :=
  match s.svc.test with
  | some (.trip _ _ _ _) => true
  | some (.print code _ _ _) => code == 8
  | _ => false

/-- Heartwood serves the command that runs (R553, R555). -/
def State.hwdServes (s : State) : Bool :=
  match s.svc.test with
  | some (.trip _ _ _ _) => true
  | some (.print _ h _ _) => h
  | _ => false

/-- Crown stops: a command that Crown serves ends with `err 8` (R567). -/
def State.crownGone (s : State) : State :=
  if s.svc.test.isSome && !s.hwdServes then s.endCommand 8 else s

/-- A number typed at the console as part of the echoed line; nothing where it is missing. -/
def argText : Arg → String
  | some n => " " ++ decText n
  | none => ""

/-- A number typed at the console that must lie below a bound. -/
def argBelow (n : Nat) (a : Arg) : Option (Fin n) :=
  match a with
  | some k => if h : k < n then some ⟨k, h⟩ else none
  | none => none

end Sys2Proof.Machine
end

