-- ==== Sys2Proof/Machine/LoopEngine.lean ====
section
/-! DEFINITION. The loop engine: slot modes, the per-sample law, injection, capture and supervision (12_loop_engine.md). -/

namespace Sys2Proof.Machine

open Sys2Proof

/-- Code of a slot mode (Table: Slot modes). -/
def modeCode : SlotMode → Nat
  | .off => 0
  | .manual => 1
  | .auto => 2
  | .scheduled => 3
  | .track => 4
  | .fault => 5

/-- A mode that runs the law (R362). -/
def lawMode : SlotMode → Bool
  | .auto => true
  | .scheduled => true
  | .track => true
  | _ => false

/-- Replaces a slot. -/
def State.setSlot (s : State) (n : Fin 4) (x : Slot) : State := { s with le := { s.le with slots := s.le.slots.set n x } }

/-! ## Mode commands (R367) -/

/-- Whether Table: Slot modes lists a command for a mode. -/
def commandListed (from_ to_ : SlotMode) (service : Bool) : Bool :=
  match to_, from_ with
  | .off, _ => true
  | .manual, .off => true
  | .manual, .auto => true
  | .manual, .scheduled => true
  | .manual, .fault => true
  | .auto, .manual => true
  | .scheduled, .manual => !service
  | .scheduled, .auto => !service
  | _, _ => false

/-- A mode command: listed for the slot's present mode it waits for the next sample instant, otherwise it is refused (R367). -/
def State.slotCommand (s : State) (n : Fin 4) (m : SlotMode) : State :=
  let x := s.le.slots[n]
  if !s.le.ok then s.flag leErr 5
  else if commandListed x.mode m (decide (s.le.phase = .service)) then s.setSlot n { x with commands := x.commands ++ [m] }
  else s.flag leErr 5

/-- SLOT_OFF (R367). -/
def execSlotOff (n : Fin 4) (s : State) : Answer := .next (s.slotCommand n .off)

/-- SLOT_MANUAL (R367, R368, R373, R378). -/
def execSlotManual (n : Fin 4) (s : State) : Answer := .next (s.slotCommand n .manual)

/-- SLOT_AUTO (R367, R368). -/
def execSlotAuto (n : Fin 4) (s : State) : Answer := .next (s.slotCommand n .auto)

/-- SLOT_SCHEDULED (R367–R370). -/
def execSlotScheduled (n : Fin 4) (s : State) : Answer := .next (s.slotCommand n .scheduled)

/-- The safe value of a slot: zero, and for slot 1 its last output (R367). -/
def safeValue (n : Fin 4) (out : Bfp) : Bfp := if n = 1 then out else bfp0

/-- A slot enters a mode: MANUAL takes the last outputs from a mode that runs the law, a mode that runs the law presets its integrator, and on
entry from OFF, MANUAL or FAULT its profile restarts from the measured value (R368). -/
def Slot.enter (x : Slot) (m : SlotMode) : Slot :=
  match m with
  | .manual => { x with mode := .manual, manual := if lawMode x.mode then x.laws.map (fun (w : Law) => w.out) else x.manual }
  | .auto => { x with mode := .auto, region := 0, preset := true, restart := x.restart || !lawMode x.mode }
  | .scheduled => { x with mode := .scheduled, preset := true, restart := x.restart || !lawMode x.mode }
  | m => { x with mode := m }

/-- A waiting command takes effect in the mode that the slot has by then; one that Table: Slot modes no longer lists is refused, which the
second component says (R367). -/
def Slot.obey (service : Bool) (x : Slot × Bool) (m : SlotMode) : Slot × Bool :=
  if commandListed x.1.mode m service then (x.1.enter m, x.2) else (x.1, true)

/-- At a sample instant every waiting commit and command takes effect, in order of arrival; a slot that Crown released goes on to AUTO once it has
run in MANUAL (R367, R371, R464). -/
def Slot.instant (x : Slot) (service : Bool) : Slot × Bool :=
  let x := { x with sets := x.commit.foldl (fun (v : Vector Tuning 4) (e : Fin 4 × Tuning) => v.set e.1 e.2) x.sets, commit := [] }
  if x.thenAuto ∧ x.mode = .manual ∧ x.commands = [] then (({ x with thenAuto := false } : Slot).enter .auto, false)
  else
    let r := x.commands.foldl (Slot.obey service) ({ x with commands := [] }, false)
    ({ r.1 with thenAuto := r.1.thenAuto && r.1.mode == SlotMode.manual }, r.2)

/-! ## Inputs (R359, R378) -/

/-- Lowest and highest reading of a channel in mV or mA (Table: Engine inputs). -/
def channelRange (c : Nat) : Int × Int :=
  if c = 0 then (0, 75000) else if c = 1 then (-20000, 140000) else if c = 2 then (0, 160000) else if c = 3 then (0, 60000)
  else if c = 4 then (-80000, 80000) else if c = 5 then (0, 15000) else (0, 200000)

/-- Resolution of a channel in mV or mA (Table: Engine inputs). -/
def channelStep (c : Nat) : Int :=
  if c = 0 then 5 else if c = 3 then 4 else if c = 5 then 1 else if c ≤ 4 then 10 else 20

end Sys2Proof.Machine

namespace Sys2Proof

/-- A channel's reading: held within its range, and a whole number of resolution steps, the next at or below it (log 200). -/
def EngineInputs.get (i : EngineInputs) (c : Nat) : Int :=
  let r := Machine.channelRange c
  min r.2 (max r.1 (i.ch[c]?.getD 0)) / Machine.channelStep c * Machine.channelStep c

end Sys2Proof

namespace Sys2Proof.Machine

open Sys2Proof

/-- Channels that a slot uses: slot 3 uses those of the working converters (R357, R359, R369). -/
def channelsOf (n : Fin 4) (conv : Vector Bool 4) : List Nat :=
  match n with
  | 0 => [0, 1, 3, 4]
  | 1 => [0, 2, 3]
  | 2 => [0, 5]
  | 3 => 0 :: ((List.finRange 4).filter (fun c => conv[c])).map (fun c => 6 + c.val)

end Sys2Proof.Machine

namespace Sys2Proof

/-- A channel that is at an end of its range. -/
def EngineInputs.atEnd (i : EngineInputs) (c : Nat) : Bool := i.get c == (Machine.channelRange c).1 || i.get c == (Machine.channelRange c).2

end Sys2Proof

namespace Sys2Proof.Machine

open Sys2Proof

/-- The slot's counts of samples at an end of each channel's range (R378). -/
def Slot.countEnds (x : Slot) (chs : List Nat) (i : EngineInputs) : Slot :=
  { x with ends := Vector.ofFn (fun c => if chs.contains c.val && i.atEnd c.val then x.ends[c] + 1 else 0) }

/-- The channel of an input fault, if any (R378). -/
def Slot.inputFault (x : Slot) (chs : List Nat) (i : EngineInputs) : Option Nat :=
  chs.find? (fun c => decide (3 ≤ x.ends[c]?.getD 0) || i.bad.getLsbD c)

/-- A slot enters FAULT: it issues its safe value, what waits is dropped with its manual value, which becomes the safe value (log 201), and Crown
writes its record (R378, R380). -/
def State.slotFault (s : State) (n : Fin 4) (channel : Nat) : State :=
  let x := s.le.slots[n]
  let laws := x.laws.map (fun (w : Law) => { w with out := safeValue n w.out })
  let s := s.setSlot n { x with
    mode := .fault, laws := laws, manual := laws.map (fun (w : Law) => w.out), commands := [], thenAuto := false, saturated := false, run := 0 }
  (s.flag leErr 6).record 0x37 .fault false n.val [BitVec.ofNat 8 channel]

/-- Millivolts and milliamperes as volts and amperes. -/
def milli (v : Int) : ℚ := v / 1000

/-- Store energy in J (R359); cStack in 0.01 F. -/
def storeEnergy (cStack : Nat) (mv : Int) : ℚ := (cStack : ℚ) / 200 * (milli mv * milli mv - 35 * 35)

end Sys2Proof.Machine

namespace Sys2Proof

/-- Internal demand in W (R359). -/
def EngineInputs.demand (i : EngineInputs) : ℚ := Machine.milli (i.get 0) * Machine.milli (i.get 2)

/-- Bus draw in W (R357). -/
def EngineInputs.draw (i : EngineInputs) : ℚ := Machine.milli (i.get 0) * Machine.milli (i.get 1)

/-- Mean output current of the working converters (R357). -/
def EngineInputs.meanCurrent (i : EngineInputs) (conv : Vector Bool 4) : ℚ :=
  let on := (List.finRange 4).filter (fun c => conv[c])
  if on.isEmpty then 0 else (on.map (fun c => Machine.milli (i.get (6 + c.val)))).sum / on.length

end Sys2Proof

namespace Sys2Proof.Machine

open Sys2Proof

/-- The measured value of law k of a slot (R357). -/
def measured (n : Fin 4) (k : Fin 4) (cStack : Nat) (conv : Vector Bool 4) (i : EngineInputs) : ℚ :=
  match n with
  | 0 => i.draw
  | 1 => storeEnergy cStack (i.get 3)
  | 2 => milli (i.get 5)
  | 3 => milli (i.get (6 + k.val)) - i.meanCurrent conv

/-- Sample period of a slot in seconds (Table: Loop slots). -/
def period (n : Fin 4) : ℚ := if n = 0 then 20 / 1000000 else 1 / 1000

/-- Profile order of a slot (Table: Loop slots). -/
def order1 (n : Fin 4) : Bool := n == 0

/-- A slot's scheduling input (R369). -/
def schedule (n : Fin 4) (cStack : Nat) (i : EngineInputs) : ℚ :=
  match n with
  | 0 => milli (i.get 3)
  | 1 => storeEnergy cStack (i.get 3)
  | _ => milli (i.get 0)

/-- The region that a scheduling input selects: one step at most in a sample, left only 1 % of a threshold past it (R369). -/
def nextRegion (x : Slot) (v : ℚ) : Fin 4 :=
  let t (k : Nat) : ℚ := if k = 0 then x.values.t1.value else if k = 1 then x.values.t2.value else x.values.t3.value
  let up := x.region.val < 3 ∧ t x.region.val + absQ (t x.region.val) / 100 ≤ v
  let down := 0 < x.region.val ∧ v ≤ t (x.region.val - 1) - absQ (t (x.region.val - 1)) / 100
  if up then x.region + 1 else if down then x.region - 1 else x.region

/-! ## The profile generator (R363) -/

/-- One step of the profile: position, velocity, acceleration. A velocity beyond a limit that has been lowered is not clamped to it: it comes
back at the jerk limit (R363; log 166). -/
def profileStep (o1 : Bool) (v : OperatingValues) (dt target : ℚ) (p : ℚ × ℚ × ℚ) : ℚ × ℚ × ℚ :=
  let pos := p.1
  let vel := p.2.1
  let acc := p.2.2
  let vmax := v.vmax.value
  let amax := v.amax.value
  let jmax := v.jmax.value
  let vmin := if o1 then v.vmin.value else -vmax
  let vt := if o1 then minQ vmax (maxQ vmin target) else signQ (target - pos) * minQ vmax (sqrtQ (2 * amax * absQ (target - pos)))
  let dv := vt - vel
  let dstop := if jmax = 0 then 0 else acc * absQ acc / (2 * jmax)
  let aw := amax * signQ (dv - dstop)
  let acc := acc + minQ (jmax * dt) (maxQ (-(jmax * dt)) (aw - acc))
  let vel := minQ (maxQ vmax vel) (maxQ (minQ vmin vel) (vel + acc * dt))
  let pos := if o1 then pos else pos + vel * dt
  let near := decide (absQ dv ≤ jmax * dt * dt ∧ absQ acc ≤ jmax * dt)
  let vel := if near then vt else vel
  let acc := if near then 0 else acc
  let there := !o1 && decide (absQ (target - pos) ≤ amax * dt * dt ∧ absQ vel ≤ amax * dt)
  if there then (target, 0, 0) else (pos, vel, acc)

/-! ## Injection (R373) -/

/-- A rational to 2^-64, rounded down. -/
def fix64 (q : ℚ) : ℚ := (q * (2 ^ 64 : Nat)).floor / ((2 ^ 64 : Nat) : ℚ)

/-- r to the n, n below 2^17, in fixed point, held at 2^20. -/
def powFix (r : ℚ) (n : Nat) : ℚ :=
  (List.range 17).reverse.foldl (fun a i =>
    let b := minQ 1048576 (fix64 (a * a))
    if n.testBit i then minQ 1048576 (fix64 (b * r)) else b) 1

/-- n-th root of q, found bit by bit from 2^19 to 2^-64. -/
def rootFix (q : ℚ) (n : Nat) : ℚ :=
  (List.range 84).foldl (fun lo k => if powFix (lo + pow2 (19 - k)) n ≤ q then lo + pow2 (19 - k) else lo) 0

/-- Sine of a number of turns from 0 to 1, by thirteen terms of its series about the nearest half turn. -/
def sineTurn (t : ℚ) : ℚ :=
  let near : ℚ := if t < 1 / 4 then t else if t ≤ 3 / 4 then 1 / 2 - t else t - 1
  let x : ℚ := fix64 (near * 6283185307179586476925 / 1000000000000000000000)
  let sq := fix64 (x * x)
  ((List.range 13).foldl (fun (p : ℚ × ℚ) k =>
    (p.1 + p.2, fix64 (-(p.2 * sq) / (((2 * k + 2) * (2 * k + 3) : Nat) : ℚ)))) (0, x)).1

/-- An injection at its start: a sweep begins at its start frequency, which each sample multiplies by the same ratio, so that its last sample ends
at its end frequency (R373; log 202). -/
def InjRun.start (j : Injection) : InjRun :=
  match j.wave with
  | .sweep a b => { what := j, done := 0, turn := 0, freq := (a : ℚ) / 10, ratio := rootFix ((b : ℚ) / max 1 a) j.duration }
  | _ => { what := j, done := 0, turn := 0, freq := 0, ratio := 1 }

/-- A running injection one sample of its slot later. -/
def InjRun.next (j : InjRun) : InjRun :=
  let t := j.turn + j.freq * period j.what.slot
  { j with done := j.done + 1, turn := fix64 (t - t.floor), freq := fix64 (j.freq * j.ratio) }

/-- Whether an injection's values are open: a sweep that runs until stopped, whose frequency at a time the spec does not give. -/
def injOpen (j : Injection) : Bool :=
  match j.wave with
  | .sweep _ _ => j.duration == 0
  | _ => false

/-- Value of a running injection at its present sample (R373): a step, a square wave, a sine whose frequency sweeps, or the next of the 2047 values
of a PRBS, which the spec does not list. A sweep without an end is a free value within the amplitude (log 12). -/
def injValue (j : InjRun) (n : Fin 4) (free : BitVec 64) : ℚ :=
  let a := j.what.amp.value
  match j.what.wave with
  | .step => a
  | .square f => if (2 * (j.done : ℚ) * period n * f / 10).floor % 2 = 0 then a else -a
  | .sweep _ _ => if injOpen j.what then a * ((free.toNat % 131073 : Nat) - 65536 : ℚ) / 65536 else a * sineTurn j.turn
  | .prbs => if Config.prbsBit (Fin.ofNat 2047 j.done) then a else -a

/-- What a running injection adds at one point of a slot (R362, R373). -/
def State.injAt (s : State) (n : Fin 4) (p : InjPoint) : ℚ :=
  match s.le.injection with
  | some j => if j.what.slot = n ∧ j.what.point = p ∧ lawMode s.le.slots[n].mode ∧ s.le.slots[n].mode ≠ .track
      then injValue j n s.fresh else 0
  | none => 0

/-- The injected signal of a slot, at the point where it adds (R373, R374). -/
def State.injected (s : State) (n : Fin 4) : ℚ :=
  match s.le.injection with
  | some j => s.injAt n j.what.point
  | none => 0

/-! ## The per-sample law (R362) -/

/-- What one run of a law gives. -/
structure LawResult where
  law : Law
  /-- output with the injection (R362), and whether it was clamped -/
  clamped : Bool
  /-- an exponent saturated (R361) -/
  expSat : Bool
  /-- y, reference and error, for the capture buffer -/
  y : Bfp
  e : Bfp
  /-- acceleration as the profile stage passes it on -/
  acc : Bfp

/-- One value of a stage. -/
def stageGet (l : List Bfp) (k : Nat) : Bfp := l[k]?.getD bfp0

/-- The profile stage: a restart from the measured value, then a step (R363, R368). The profile keeps its fraction; the values it passes
on, position, velocity and acceleration, are closed (R361; log 165). -/
def Law.profile (w : Law) (n : Fin 4) (x : Slot) (y target : ℚ) : Law × List Bfp × Bool :=
  let start : ℚ × ℚ × ℚ := if x.restart then (if order1 n then (0, y, 0) else (y, 0, 0)) else (w.pos, w.vel, w.acc)
  let p := profileStep (order1 n) x.values (period n) target start
  let w := { w with pos := p.1, vel := p.2.1, acc := p.2.2 }
  if order1 n then
    let c := closeStage [p.2.1, p.2.2]
    (w, bfp0 :: c.1, c.2)
  else
    let c := closeStage [p.1, p.2.1, p.2.2]
    (w, c.1, c.2)

/-- The law of one sample, stage by stage, with what an injection adds: input, profile, error, terms, integrator and output
(R360–R362, R365, R368). The integrator's increment is formed exactly and added at the integrator's own 36 bits (R360). `uact` is the power that the converter delivers, for TRACK (R372). -/
def Law.sample (w : Law) (n : Fin 4) (x : Slot) (y d uact : ℚ) (umax : ℚ) (inj : InjPoint → ℚ) : LawResult :=
  let t := x.sets[x.region]
  let dt := period n
  let inp := closeStage [y, d]
  let yb := (stageGet inp.1 0).value
  let db := (stageGet inp.1 1).value
  let (moved, prof) := w.profile n x yb (x.values.target.value + inj .target)
  let pos := stageGet prof.1 0
  let vel := stageGet prof.1 1
  let acc := stageGet prof.1 2
  let ref := (if order1 n then vel.value else pos.value) + inj .reference
  let ffp := if order1 n then acc.value else vel.value
  let err := closeStage [ref, (if t.neg then yb - ref else ref - yb) + inj .error]
  let e := (stageGet err.1 1).value
  let terms := closeStage [t.kp.value * e, t.kd.value * db]
  let kpe := (stageGet terms.1 0).value
  let kdd := (stageGet terms.1 1).value
  let inc := (t.ki.value * e + t.kf.value * ffp) * dt
  let pre : Integ × Bool := if x.preset then toInteg (w.out.value - kpe - kdd) else (w.integ, false)
  let u0 := kpe + pre.1.upper + kdd
  let umin := x.values.umin.value
  let u := minQ umax (maxQ umin u0)
  let clamped := decide (u ≠ u0)
  let next : Integ × Bool :=
    if x.mode = .track then toInteg (uact - kpe - kdd)
    else if clamped then (pre.1, false)
    else toInteg (pre.1.value + inc)
  let out := closeStage [u + inj .output]
  { law := { moved with integ := next.1, ref := stageGet err.1 0, out := stageGet out.1 0 }
    clamped := clamped
    expSat := inp.2 || prof.2 || err.2 || terms.2 || pre.2 || next.2 || out.2
    y := stageGet inp.1 0, e := stageGet err.1 1, acc := acc }

/-- MANUAL: the profile and error lines run and the manual value is issued (R362). -/
def Law.hold (w : Law) (n k : Fin 4) (x : Slot) (y : ℚ) : LawResult :=
  let inp := closeStage [y]
  let yb := (stageGet inp.1 0).value
  let (moved, prof) := w.profile n x yb x.values.target.value
  let ref := if order1 n then (stageGet prof.1 1).value else (stageGet prof.1 0).value
  let err := closeStage [ref, if x.sets[x.region].neg then yb - ref else ref - yb]
  { law := { moved with ref := stageGet err.1 0, out := x.manual[k] }
    clamped := false, expSat := inp.2 || prof.2 || err.2, y := stageGet inp.1 0, e := stageGet err.1 1, acc := stageGet prof.1 2 }

/-- What a slot that runs no law shows the capture buffer: its input, the values that stand, and the error of the two (R362, R374; log 210). -/
def Law.rest (w : Law) (x : Slot) (y : ℚ) : LawResult :=
  let yb := closeStage [y]
  let e := closeStage [if x.sets[x.region].neg then (stageGet yb.1 0).value - w.ref.value else w.ref.value - (stageGet yb.1 0).value]
  { law := w, clamped := false, expSat := false, y := stageGet yb.1 0, e := stageGet e.1 0, acc := bfp w.acc }

/-! ## Capture (R374) -/

/-- One signal of a sample. -/
def signalOf (r : LawResult) (inj : ℚ) : Signal → Bfp
  | .y => r.y
  | .ref => r.law.ref
  | .e => r.e
  | .u => r.law.out
  | .integ => { mant := r.law.integ.mant.extractLsb 35 18, exp := r.law.integ.exp }
  | .acc => r.acc
  | .injected => bfp inj

/-- The capture is triggered: with the samples it holds from before the trigger it comes to 4096 (R374). -/
def Capture.fire (c : Capture) (t : CapTrigger) (slot : Fin 4) : Capture :=
  match c.setup with
  | some u => if c.state = 1 ∧ u.trigger = t ∧ u.slot = slot then { c with state := 2, left := 4096 - min u.pre c.samples.length } else c
  | none => c

/-- The capture buffer takes a sample of its slot: every D-th; before the trigger it keeps the latest pre-trigger samples. -/
def Capture.take (c : Capture) (n : Fin 4) (r : LawResult) (inj : ℚ) : Capture :=
  match c.setup with
  | none => c
  | some u =>
    if u.slot ≠ n ∨ (c.state ≠ 1 ∧ c.state ≠ 2) then c
    else if c.skip + 1 < u.every then { c with skip := c.skip + 1 }
    else
      let samples := c.samples ++ [u.signals.map (signalOf r inj)]
      if c.state = 1 then { c with skip := 0, samples := samples.drop (samples.length - u.pre) }
      else if c.left ≤ 1 then { c with skip := 0, samples := samples, left := 0, state := 3 }
      else { c with skip := 0, samples := samples, left := c.left - 1 }

/-! ## SLOT_SAMPLE -/

/-- The slot's mode as the store converter's report leaves it: slot 0 enters TRACK while the converter does not follow, and returns
to the mode it held, both without a bump (R367, R368, R372, R380). -/
def Slot.track (x : Slot) (n : Fin 4) (following : Bool) : Slot :=
  if n ≠ 0 then x
  else match x.mode with
    | .auto => if following then x else { x with mode := .track, held := .auto, run := 0, preset := true }
    | .scheduled => if following then x else { x with mode := .track, held := .scheduled, run := 0, preset := true }
    | .track => if following then { x with mode := x.held, preset := true } else x
    | _ => x

/-- SCHEDULED selects its region; a change presets the integrator (R368, R369). -/
def Slot.schedule (x : Slot) (n : Fin 4) (i : EngineInputs) : Slot :=
  if x.mode = .scheduled then
    let r := nextRegion x (Machine.schedule n x.values.cStack i)
    if r = x.region then x else { x with region := r, preset := true }
  else x

/-- First-order filter of slot 1's demand, by one forward step, kept to 2^-32 W: the spec gives its time constant alone (R357; log 62). -/
def Slot.filter (x : Slot) (n : Fin 4) (i : EngineInputs) : Slot :=
  if n = 1 then
    let tau : ℚ := (x.sets[x.region].tauUs : ℚ) / 1000000
    let f := x.filtered
    let g := if tau = 0 then i.demand else f + (i.demand - f) * minQ 1 (period 1 / tau)
    { x with filtered := (g * (2 ^ 32 : Nat)).floor / ((2 ^ 32 : Nat) : ℚ) }
  else x

/-- The store converter's current command: its power divided by the bus voltage of the same sample, in A (R364). At 0 V the quotient is a free value
(log 12). -/
def State.commandCurrent (s : State) (cmd : ℚ) : State :=
  let v : ℚ := (s.le.busMv : ℚ) / 1000
  if v = 0 then { s.drawn with le := { s.le with iCmd := (s.fresh.toInt : ℚ) } }
  else { s with le := { s.le with iCmd := cmd / v } }

/-- The commands of an output stand, and the converter has its command (R366). -/
def State.noteOut (s : State) (cmd bal : ℚ) : State :=
  { s with le := { s.le with command := cmd, ballast := bal, convStopped := false } }

/-- The commands that slot 0's output gives the store converter and the ballast, in W (R364, R366, R372); store mode issues nothing while the
store cannot be used for smoothing (R423), and a drain that returns energy has the converter to itself (R403). -/
def State.routeOut (s : State) (u : ℚ) : State :=
  let a : ℚ := s.le.absorb
  let cmd : ℚ := match s.sap.drain with
    | some d => if d.returning then d.watts else 0
    | none => if s.le.route = 0 then (if s.noStore then 0 else u) else if s.le.route = 1 then 0 else maxQ u (-a)
  let bal : ℚ := if s.le.route = 0 then 0 else if s.le.route = 1 then maxQ 0 (-u) else maxQ 0 (-u - a)
  (s.commandCurrent cmd).noteOut cmd bal

/-- Job energy, in µJ, grows by the demand of each 20 µs sample (R218, R427). -/
def State.addEnergy (s : State) (i : EngineInputs) : State :=
  { s with hq := { s.hq with energy := s.hq.energy + (i.demand * 20).floor.toNat } }

/-- Present energy of the store, and the latch of its floor: below 3.0 kJ until 4.0 kJ (R405, R416). -/
def State.noteEnergy (s : State) (e : ℚ) : State :=
  let j := e.floor.toNat
  { s with
    sap := { s.sap with presentJ := j }
    budget := { s.budget with
      floorLow := decide (j < 3000) || (s.budget.floorLow && decide (j < 4000))
      satCharge := s.budget.satCharge && decide (e < s.le.slots[1].values.target.value) } }

/-- A slot's run of clamped samples, and what its limit brings: LE_ERR.sat, a record, and Crown's response (R377, R420). -/
def State.noteSaturation (s : State) (n : Fin 4) (clamped : Bool) : State :=
  let x := s.le.slots[n]
  let run : BitVec 16 := if !clamped then 0 else if x.run = BitVec.allOnes 16 then x.run else x.run + 1
  let clear := if clamped then 0 else min 50000 (x.clear + 1)
  let s := s.setSlot n { x with run := run, saturated := clamped, clear := clear }
  let s := if n = 0 ∧ clear = 50000 then { s with budget := { s.budget with satDischarge := false } } else s
  let s := if clamped ∧ !x.saturated then { s with le := { s.le with capture := s.le.capture.fire .saturation n } } else s
  if clamped ∧ run = x.limit ∧ x.run ≠ x.limit then
    let s := (s.flag leErr n.val).record 0x36 .warning true n.val [BitVec.ofNat 8 (modeCode x.mode)]
    let high : Bool := decide (x.values.umax.value ≤ x.laws[0].out.value)
    if n = 0 ∧ high then { s with budget := { s.budget with satDischarge := true } }
    else if n = 1 then { s with budget := { s.budget with satCharge := s.budget.satCharge || decide (0 < x.laws[0].out.value) } }
    else s
  else s

/-- The injection moves on by one sample of its slot, and ends with its duration or when its slot leaves the law (R373). -/
def State.injStep (s : State) (n : Fin 4) : State :=
  match s.le.injection with
  | none => s
  | some j =>
    if j.what.slot ≠ n then s
    else
      let s := if injOpen j.what then s.drawn else s
      let live : Bool := decide (s.le.slots[n].mode = .auto ∨ s.le.slots[n].mode = .scheduled)
      let more := live && (j.what.duration == 0 || decide (j.done + 1 < j.what.duration))
      { s with le := { s.le with injection := if more then some j.next else none } }

/-- The injection of a slot that has left AUTO and SCHEDULED ends, in a sample whose computation is abandoned too (R373, R376). -/
def State.leaveInjection (s : State) (n : Fin 4) : State :=
  match s.le.injection with
  | some j =>
    if j.what.slot = n ∧ s.le.slots[n].mode ≠ .auto ∧ s.le.slots[n].mode ≠ .scheduled then { s with le := { s.le with injection := none } } else s
  | none => s

/-- A slot's laws run: slots 0–2 the first, slot 3 one for each working converter (R357). -/
def State.runLaws (s : State) (n : Fin 4) (i : EngineInputs) : List (Fin 4 × LawResult) :=
  let x := s.le.slots[n]
  let conv := s.power.convOn
  let ks : List (Fin 4) := if n = 3 then (List.finRange 4).filter (fun c => conv[c]) else [0]
  let uact := milli (i.get 4) * milli (i.get 0)
  let d := if n = 1 then x.filtered else 0
  let umax := if n = 1 then minQ x.values.umax.value (minQ x.values.share 5000) else x.values.umax.value
  ks.map (fun k =>
    let y := measured n k x.values.cStack conv i
    (k, if lawMode x.mode then x.laws[k].sample n x y d uact umax (s.injAt n) else x.laws[k].hold n k x y))

/-- What the capture buffer is shown of a sample: the run of a slot's first law, or where none ran what that law rests at. -/
def State.shown (s : State) (n : Fin 4) (i : EngineInputs) (rs : List (Fin 4 × LawResult)) : Option LawResult :=
  let x := s.le.slots[n]
  let conv := s.power.convOn
  match rs with
  | (_, r) :: _ => some r
  | [] => (if n = 3 then (List.finRange 4).find? (fun c => conv[c]) else some 0).map (fun k =>
      x.laws[k].rest x (measured n k x.values.cStack conv i))

/-- What follows the issue of a slot's output (R359, R366, R374, R377). -/
def State.afterIssue (s : State) (n : Fin 4) (i : EngineInputs) (rs : List (Fin 4 × LawResult)) : State :=
  let s := match s.shown n i rs with
    | some r => { s with le := { s.le with capture := s.le.capture.take n r (s.injected n) } }
    | none => s
  let s := s.noteSaturation n (rs.any (fun e => e.2.clamped))
  let out := s.le.slots[n].laws[0].out
  let s := if n = 0 then s.routeOut out.value
    else if n = 1 then s.setSlot 0 { s.le.slots[0] with values := { s.le.slots[0].values with target := out } }
    else s
  let s := if n = 1 then s.noteEnergy (storeEnergy s.le.slots[1].values.cStack (i.get 3)) else s
  s.injStep n

/-- A slot in OFF or FAULT issues its safe value. -/
def State.issueSafe (s : State) (n : Fin 4) (i : EngineInputs) : State :=
  let x := s.le.slots[n]
  let s := s.setSlot n { x with laws := x.laws.map (fun (w : Law) => { w with out := safeValue n w.out }), saturated := false, run := 0 }
  s.afterIssue n i []

/-- A slot in any other mode computes and issues its output (R362, R375, R378). -/
def State.compute (s : State) (n : Fin 4) (i : EngineInputs) : State :=
  let x := s.le.slots[n]
  let x := if x.fromDraw ∧ x.mode = .manual then { x with manual := x.manual.set 0 (bfp i.draw), fromDraw := false } else x
  let s := s.setSlot n x
  let rs := s.runLaws n i
  if rs.any (fun e => e.2.expSat) then (s.slotFault n 0xFF).afterIssue n i []
  else
    let laws := rs.foldl (fun (v : Vector Law 4) e => v.set e.1 e.2.law) x.laws
    let dmax := if x.delayMax.toNat < i.cycles then BitVec.ofNat 16 i.cycles else x.delayMax
    let s := s.setSlot n { x with laws := laws, preset := false, restart := false, delay := BitVec.ofNat 16 i.cycles, delayMax := dmax }
    s.afterIssue n i rs

/-- Power in W that the store converter may move: 3.0 kW to 50 °C at the hottest stack sensor, and linearly less to none at 60 °C
(R387, R388, Table: Cell and stack limits). -/
def State.storePower (s : State) : Int :=
  let hot := s.sap.temps.foldl max s.sap.temps[0]
  min 3000 (max 0 (300 * (60 - hot)))

/-- The store converter follows its command: it reports that it is not at its own current limit, it is not stopped, the store switches are
closed, no dip holds the bus node, a stack below 35.0 V is asked for no discharge and no charge above 10 A on its side, and the command in force lies in a direction and a power that the monitor's permissions allow
(R372, R387, R388; log 193). -/
def State.convFollows (s : State) (i : EngineInputs) : Bool :=
  let c := s.le.command
  let volts := milli (i.get 3)
  i.following && (decide (35 ≤ volts) || (decide (c ≤ 0) && decide (-c ≤ 10 * volts))) && !s.le.convStopped && s.hwd.swA && s.hwd.swB && !s.hwd.dip &&
  !(decide (c < 0) && s.sap.chargeBlocked) && !(decide (0 < c) && s.sap.dischargeBlocked) && decide (c ≤ s.storePower) && decide (-c ≤ s.storePower)

/-- What slot 0's sample tells of the bus and the stack: the bus voltage, the draw, the demand, whether the stack exceeds 33.0 V, whether the store
converter follows, and whether it charges a drained stack, by its command or by the current that it takes from the bus (R357, R359, R372, R402,
R405). -/
def State.noteBus (s : State) (i : EngineInputs) : State :=
  let follows := s.convFollows i
  { s with
    sap := { s.sap with following := follows, lit := decide (33000 < i.get 3), drained := s.sap.drained && !((follows && decide (s.le.command < 0)) || decide (i.get 4 < 0)) }
    le := { s.le with busMv := i.get 0, draw := i.draw.floor, demand := i.demand.floor } }

/-- Crown steps the power of a drain that returns energy: toward 1.0 kW within slot 0's profile limits, and down to zero in time for the stack
to reach 36.0 V without it (R363, R403; log 204). -/
def State.drainStep (s : State) (i : EngineInputs) : State :=
  match s.sap.drain with
  | none => s
  | some d =>
    if !d.returning then s
    else
      let v := milli (i.get 3)
      let left : ℚ := (s.le.slots[0].values.cStack : ℚ) / 200 * (v * v - 36 * 36)
      let target : ℚ := if left ≤ d.watts * (d.watts / 1000 + 1 / 2) / 2 then 0 else 1000
      let p := profileStep true s.le.slots[0].values (period 0) target (0, d.watts, d.slope)
      { s with sap := { s.sap with drain := some { d with watts := p.2.1, slope := p.2.2 } } }

/-- A slot's sample instant (R30, R357–R378, R380). Waiting commands and commits take effect, the inputs are sampled,
the law runs, and the output is issued; a computation that is not done in time is abandoned and keeps the previous output (R376). -/
def State.slotSample (s : State) (n : Fin 4) (inp : EngineInputs) : State :=
  if !s.le.ok then s
  else
    let s := if n = 0 then ((s.noteBus inp).drainStep inp).addEnergy inp else s
    let chs := channelsOf n s.power.convOn
    let now := s.le.slots[n].instant (decide (s.le.phase = .service))
    let s := if now.2 then s.flag leErr 5 else s
    let x := (now.1.countEnds chs inp).track n s.sap.following
    let x := (x.schedule n inp).filter n inp
    let s := s.setSlot n x
    match x.inputFault chs inp with
    | some c => if x.mode = .fault then s.issueSafe n inp else (s.slotFault n c).afterIssue n inp []
    | none =>
      if inp.late then ((s.flag leErr 7).record 0x35 .warning true n.val []).leaveInjection n
      else match x.mode with
        | .off => s.issueSafe n inp
        | .fault => s.issueSafe n inp
        | _ => s.compute n inp

/-- Crown looks at its caps at once where a ceiling has fallen (R586). -/
def State.reviewFall (s : State) (old : State) : State :=
  if s.cPeak < old.cPeak ∨ s.cMean < old.cMean then s.reviewCaps else s

/-- A slot as the phase leaves it: SCHEDULED exists only outside service (R370). -/
def Slot.inService (x : Slot) : Slot :=
  match x.mode with
  | .scheduled => x.enter .auto
  | .track => if x.held = .scheduled then { x with held := .auto, region := 0 } else x
  | _ => x

/-- Crown sets the engine's phase (R370, R373). -/
def State.setPhase (s : State) (ph : EnginePhase) : State :=
  if ph = .service then
    { s with le := { s.le with phase := ph, injection := none, slots := s.le.slots.map Slot.inService } }
  else { s with le := { s.le with phase := ph } }

/-- `test loop` passes (R559): where the response decides, the whole capture was taken and its error, the third signal, stays within 50 W
from the fiftieth sample on, which is 1 ms after the start. -/
def State.loopPassed (s : State) (judged : Bool) : Bool :=
  let c := s.le.capture.samples
  !judged || (c.length == 4096 && (c.drop 50).all (fun x => decide (absQ (x[2]?.getD bfp0).value ≤ 50)))

/-- What `test loop` prints: the peak error in the captured samples, in whole base units, and the settling time in samples, the first sample from
which on the error stays within 50 W. That band is slot 0's for a step (R364); for other slots and waveforms the manual gives none, and the
settling time is a free value (R559; log 12). -/
def State.loopText (s : State) (judged : Bool) : String :=
  let e : List ℚ := s.le.capture.samples.map (fun x => absQ (x[2]?.getD bfp0).value)
  let settled : Nat := if judged then e.length - (e.reverse.takeWhile (fun v => decide (v ≤ 50))).length else s.fresh.toNat % 4097
  " peak " ++ intText (e.foldl max 0).floor ++ " settled " ++ decText settled

/-- `test loop` ends with its injection, and the phase returns to service (R559). -/
def State.endLoopTest (s : State) : State :=
  match s.svc.test with
  | some (.loop _ judged) =>
    if s.le.injection.isSome then s
    else ((if judged then s else s.drawn).setPhase .service).endTest [(s.loopPassed judged, s.loopText judged)]
  | _ => s

/-- SLOT_SAMPLE (R30, R357–R378, R380, R416, R420, R586): a slot's sample instant, and Crown's caps where it lowers a ceiling. -/
def execSlotSample (n : Fin 4) (inp : EngineInputs) (s : State) : Answer := .next (((s.slotSample n inp).endLoopTest).reviewFall s)

/-! ## Tuning, phases, injection and capture -/

/-- Longest computation of each slot, in LE cycles (R358, Table: Output delay). -/
def cycleBound (n : Fin 4) : Nat := [104, 200, 100, 400][n.val]?.getD 0

/-- A commit of tuning values, accepted or refused (R358, R368, R371). -/
def State.commitTuning (s : State) (n set : Fin 4) (v : Tuning) : State :=
  let x := s.le.slots[n]
  let open_ : Bool := decide (x.mode = .off ∨ x.mode = .manual)
  let other : Bool := decide (s.le.phase ≠ .service ∧ x.mode = .scheduled ∧ set ≠ x.region ∧ set ≠ 0)
  if !(open_ || other) then (s.flag leErr 5).record 0x34 .warning false n.val [BitVec.ofNat 8 (modeCode x.mode)]
  else if cycleBound n < v.cycles then s.flag leErr 5
  else s.setSlot n { x with commit := x.commit ++ [(set, v)] }

/-- TUNING_COMMIT (R358, R368, R371). -/
def execTuningCommit (n set : Fin 4) (v : Tuning) (s : State) : Answer := .next (s.commitTuning n set v)

/-- A write of operating values (R359, R363, R371, R585): they take effect at the next sample; C_stack, the share and the absorb limit
are held once. -/
def State.writeValues (s : State) (n : Fin 4) (v : OperatingValues) : State :=
  let s := s.setSlot n { s.le.slots[n] with values := v }
  let slots := s.le.slots.map (fun (x : Slot) => { x with values := { x.values with cStack := v.cStack, share := v.share, absorb := v.absorb } })
  { s with le := { s.le with slots := slots, absorb := v.absorb } }

/-- OPERATING_VALUE_WRITE (R359, R363, R371, R585). -/
def execOperatingValueWrite (n : Fin 4) (v : OperatingValues) (s : State) : Answer := .next (s.writeValues n v)

/-- PHASE_SET (R367, R370, R373, R380, R480). -/
def execPhaseSet (ph : EnginePhase) (s : State) : Answer := .next (s.setPhase ph).endLoopTest

/-- An injection's parameters are listed (Table: Injection parameters): amplitude within 25 % of the output range, slot 1's being up to
the lower of the rack share and 5000 W, frequencies from
0.1 Hz to half the sample rate, duration within 65,535 samples. -/
def injListed (v : OperatingValues) (j : Injection) : Bool :=
  let top : Nat := if j.slot = 0 then 250000 else 5000
  let f (x : Nat) : Bool := decide (1 ≤ x ∧ x ≤ top)
  let umax := if j.slot = 1 then minQ v.umax.value (minQ v.share 5000) else v.umax.value
  decide (absQ j.amp.value * 4 ≤ umax - v.umin.value) && decide (j.duration ≤ 65535) &&
  (match j.wave with
    | .square x => f x
    | .sweep a b => f a && f b
    | _ => true)

/-- The start of an injection (R373, R374, R382). -/
def State.startInjection (s : State) (j : Injection) : State :=
  let x := s.le.slots[j.slot]
  if !injListed x.values j then s.flag leErr 4
  else if s.le.phase = .service ∨ (x.mode ≠ .auto ∧ x.mode ≠ .scheduled) ∨ s.le.injection.isSome then s.flag leErr 5
  else { s with le := { s.le with injection := some (InjRun.start j), capture := s.le.capture.fire .injection j.slot } }

/-- INJECTION_START (R373, R374). -/
def execInjectionStart (inj : Injection) (s : State) : Answer := .next (s.startInjection inj)

/-- The injection of a slot ends (R373). -/
def State.endInjection (s : State) (n : Fin 4) : State :=
  match s.le.injection with
  | some j => if j.what.slot = n then { s with le := { s.le with injection := none } } else s
  | none => s

/-- INJECTION_END (R373). -/
def execInjectionEnd (n : Fin 4) (s : State) : Answer := .next (s.endInjection n).endLoopTest

/-- A capture's parameters are listed (R374). -/
def capListed (c : CaptureSetup) : Bool := decide (1 ≤ c.every ∧ c.every ≤ 256 ∧ c.pre ≤ 4095 ∧ c.signals.length ≤ 4)

/-- The capture buffer is armed (R374). Where the trigger is a command, arming the same capture a second time is that command, and one that is to hold
nothing from before its trigger starts as it is armed: DESIGN CHOICE (log 210). -/
def State.armCapture (s : State) (cap : CaptureSetup) : State :=
  let c : Capture := { state := 1, setup := some cap, skip := 0, samples := [], left := 0 }
  let old := s.le.capture
  if !capListed cap then s.flag leErr 4
  else if old.state = 1 ∧ old.setup = some cap then { s with le := { s.le with capture := old.fire .command cap.slot } }
  else { s with le := { s.le with capture := if cap.pre = 0 then c.fire .command cap.slot else c } }

/-- CAPTURE_ARM (R374). -/
def execCaptureArm (cap : CaptureSetup) (s : State) : Answer := .next (s.armCapture cap)

/-- CONVERTER_COMMAND_TIMEOUT (R376, R387): the store converter stops and does not follow. -/
def execConverterCommandTimeout (s : State) : Answer :=
  .next { s with le := { s.le with convStopped := true }, sap := { s.sap with following := false } }

/-- The engine stops: every output at its safe value, engine_ok clear; the store is isolated, as for its loss (R21, R379). -/
def State.stopEngine (s : State) : State :=
  let stop (n : Fin 4) (x : Slot) : Slot := { x with laws := x.laws.map (fun (w : Law) => { w with out := safeValue n w.out }), commands := [] }
  let s := { s with le := { s.le with
    ok := false, injection := none, command := 0, ballast := 0, iCmd := 0, convStopped := true
    slots := Vector.ofFn (fun n => stop n s.le.slots[n]) } }
  s.isolate

/-- ENGINE_PARITY_ERROR (R21, R379). -/
def execEngineParityError (s : State) : Answer := .next (if s.le.ok then ((s.flag leErr 8).stopEngine).endLoopTest.reviewCaps else s)

/-- SMOOTHING_MODE_CHANGE (R366, R382, R421, R434): the mode asked for comes into force in a slot-0 sample in which |u| ≤ 100 W, or
`forced`, a second after the request; not during the hold. `route` is the code that Crown writes: an unlisted one is ignored and sets
LE_ERR.bad_encoding, and one that is not the mode asked for changes nothing. -/
def execSmoothingModeChange (forced : Bool) (route : BitVec 2) (s : State) : Answer :=
  .next (if route = 3 then s.flag leErr 4
  else if s.budget.hold ∨ route ≠ s.budget.smooth then s
  else if forced ∨ absQ s.le.slots[0].laws[0].out.value ≤ 100 then { s with le := { s.le with route := s.budget.smooth } }
  else s)

/-- Crown releases the engine: its slots come out of reset in OFF, and Crown commands each to MANUAL and then to AUTO, slot 1 with
the present bus draw as its manual value (R464). The route is the smoothing mode in force (R421). -/
def State.releaseEngine (s : State) : State :=
  if s.le.ok then s
  else
    let old (n : Fin 4) : OperatingValues := s.le.slots[n].values
    let slot (n : Fin 4) : Slot := { slotReset n with
      commands := [.manual], thenAuto := true, fromDraw := n == 1
      values := { defaultValues n with target := if n = 1 then (old n).target else (defaultValues n).target, cStack := (old n).cStack, share := (old n).share, absorb := (old n).absorb } }
    { s with le := { s.le with
      released := true, ok := true, phase := .startup, route := s.budget.smooth, convStopped := false, injection := none
      slots := Vector.ofFn slot } }

end Sys2Proof.Machine
end

