-- ==== Sys2Proof/Machine/MarchOps.lean ====
section
/-! DEFINITION. Marches of the on-chip memories: spare allocation, repair records, and what an unrepairable memory brings
(R521–R531). -/

namespace Sys2Proof.Machine

open Sys2Proof

/-- Row of a memory in Table: On-chip SRAMs, counted from 0. -/
def sramRow : SramKind → Nat
  | .scratchpad => 0
  | .registers => 1
  | .icache => 2
  | .berux => 3
  | .collective => 4
  | .queue => 5
  | .loop => 6
  | .crown => 7
  | .log => 8
  | .secure => 9

/-- Spare rows of a bank or array (Table: On-chip SRAMs). -/
def spareRows (m : SramKind) : Nat :=
  match m with
  | .scratchpad => 4
  | .registers => 0
  | .queue => 0
  | .loop => 0
  | _ => 2

/-- Spare columns of a bank. -/
def spareCols (m : SramKind) : Nat := if m = .scratchpad then 2 else 0

/-- Instances of a memory (Table: On-chip SRAMs). -/
def sramCount : SramKind → Nat
  | .scratchpad => 2640
  | .registers => 2640
  | .icache => 2640
  | .berux => 20
  | .collective => 4
  | _ => 1

/-- Banks or arrays of a memory, rows of a bank and bits of a row, where Table: On-chip SRAMs states them. -/
def sramBanks : SramKind → Option Nat
  | .scratchpad => some 32
  | .icache => some 8
  | .crown => some 88
  | .log => some 8
  | .secure => some 32
  | _ => none
def sramRows : SramKind → Option Nat
  | .scratchpad => some 1024
  | .crown => some 1024
  | .log => some 1024
  | .secure => some 1024
  | _ => none
def sramCols : SramKind → Option Nat
  | .scratchpad => some 288
  | .crown => some 72
  | .log => some 72
  | .secure => some 72
  | _ => none

/-- A number lies below a bound, where there is one. -/
def below (n : Nat) (b : Option Nat) : Bool := b.all (fun k => decide (n < k))

/-- A row of a memory exists: a spare row among its bank's spares, another among the rows (R521). -/
def rowExists (m : SramKind) (spare : Bool) (row : Nat) : Bool := if spare then decide (row < spareRows m) else below row (sramRows m)

/-- A defective cell lies in a memory that exists, and so does the cell or the row that disturbs it (R521). -/
def cellExists (m : SramKind) (inst : Nat) (c : FailCell) : Bool :=
  decide (inst < sramCount m) && below c.bank (sramBanks m) && rowExists m c.spare c.row && below c.col (sramCols m) &&
  (match c.defect with
   | .coupled spare row col => rowExists m spare row && below col (sramCols m)
   | .decoder spare row => rowExists m spare row
   | _ => true)

/-- Key of a memory in records: its row × 4096 + its instance (Table: Record types). -/
def sramKey (m : SramKind) (inst : Nat) : Nat := sramRow m * 4096 + inst

/-! ## The algorithms (R523, R524) -/

/-- An operation of a march on every cell of a row: read or write "0" or "1" (Table: March algorithms). -/
structure MarchOp where
  read : Bool
  one : Bool

/-- An element: its operations on one row after another, in ascending or descending order. -/
structure MarchElem where
  down : Bool
  ops : List MarchOp

/-- r0, r1, w0 and w1. -/
def rd (one : Bool) : MarchOp := { read := true, one := one }
def wr (one : Bool) : MarchOp := { read := false, one := one }

/-- MARCH_C, ZERO_CHECK after its bulk zeroize, and TRANSPARENT on data whose bits are "0" (Table: March algorithms). -/
def marchC : List MarchElem :=
  [{ down := false, ops := [wr false] }, { down := false, ops := [rd false, wr true] }, { down := false, ops := [rd true, wr false] },
   { down := true, ops := [rd false, wr true] }, { down := true, ops := [rd true, wr false] }, { down := false, ops := [rd false] }]
def zeroCheck : List MarchElem := [{ down := false, ops := [wr false] }, { down := false, ops := [rd false] }]
def transparent : List MarchElem := [{ down := false, ops := [rd false, wr true, rd true, wr false, rd false] }]

/-- The bit of a row that background k gives column i: (i div 2^k) mod 2, and 0 in background 5 (R524). -/
def background (k i : Nat) : Bool := decide (k < 5) && i / 2 ^ k % 2 == 1

/-- Place of a row in the order of a bank's addresses: the spare rows come last (R524). -/
def rowPlace (spare : Bool) (row : Nat) : Nat := b2n spare * 65536 + row

/-- The cell that turns a coupled one over: its place and column. -/
def cellAggressor (c : FailCell) : Option (Nat × Nat) :=
  match c.defect with
  | .coupled spare row col => some (rowPlace spare row, col)
  | _ => none

/-- The other address from which the decoder reaches a cell. -/
def cellAlias (c : FailCell) : Option Nat :=
  match c.defect with
  | .decoder spare row => some (rowPlace spare row)
  | _ => none

/-- What a defective cell holds after a write. -/
def writtenCell (f : Defect) (old new : Bool) : Bool :=
  match f with
  | .stuck v => v
  | .noRise => old && new
  | .noFall => old || new
  | .coupled _ _ _ => new
  | .decoder _ _ => new

/-- A march as one defective cell sees it: its content, that of the cell that turns it over, and whether a read has met it. -/
structure CellRun where
  cell : Bool
  other : Bool
  found : Bool

/-- One operation on the row at a place. -/
def cellOp (c : FailCell) (bg : Nat → Bool) (place : Nat) (x : CellRun) (o : MarchOp) : CellRun :=
  let here := place == rowPlace c.spare c.row || cellAlias c == some place
  if o.read then { x with found := x.found || (here && x.cell != (bg c.col != o.one)) }
  else
    let cell := if here then writtenCell c.defect x.cell (bg c.col != o.one) else x.cell
    match cellAggressor c with
    | none => { x with cell := cell }
    | some (p, i) =>
      let other := if place = p then bg i != o.one else x.other
      { x with cell := if other = x.other then cell else !cell, other := other }

/-- One element: its operations on the rows of the two cells, in its order. -/
def cellElem (c : FailCell) (bg : Nat → Bool) (x : CellRun) (e : MarchElem) : CellRun :=
  let p := rowPlace c.spare c.row
  let places := match (cellAggressor c).map (fun a => a.1) <|> cellAlias c with
    | none => [p]
    | some q => if q = p then [p] else if (q < p) != e.down then [q, p] else [p, q]
  places.foldl (fun x place => e.ops.foldl (cellOp c bg place) x) x

/-- An algorithm finds a cell in a background. -/
def cellFoundBy (c : FailCell) (alg : List MarchElem) (bg : Nat → Bool) : Bool :=
  (alg.foldl (cellElem c bg) { cell := writtenCell c.defect false false, other := false, found := false }).found

/-- A march finds a cell: TRANSPARENT, which reaches no spare row, or MARCH_C in one of its six backgrounds (R523–R525). -/
def cellFound (c : FailCell) (preserving : Bool) : Bool :=
  if preserving then !c.spare && cellFoundBy c transparent (fun _ => false)
  else (List.range 6).any (fun k => cellFoundBy c marchC (background k))

/-! ## Tile sites -/

/-- What a site holds: a logical tile, a spare that runs none, or a retired tile's remains (R66, R69). -/
inductive SiteUse where
  | tile (t : Nat)
  | spare
  | retired
  deriving DecidableEq, Repr

/-- The use of a site. -/
def State.siteUse (s : State) (site : Nat) : SiteUse :=
  let row := site / 33
  let c := site % 33
  match s.retire.map.find? (fun e => e.1 == row) with
  | none => if c < 32 then .tile (row * 32 + c) else .spare
  | some e => if c < e.2 then .tile (row * 32 + c) else if c = e.2 then .retired else .tile (row * 32 + c - 1)

/-- A site fails its self-test (R64, R69): its logical tile is marked for retirement, and a spare site is unusable from then on. A tile of
its row that awaited that spare stays fenced for good. -/
def State.failSite (s : State) (site : Nat) : State :=
  let s := if site % 33 = 32 then { s with retire := { s.retire with spareBad := addNat s.retire.spareBad (site / 33) } } else s
  match s.siteUse site with
  | .tile t => s.markRetire t 3
  | .spare => (s.retire.pending.filter (fun t => rowOf t == site / 33)).foldl State.strand s
  | .retired => s

/-! ## Allocation (R529) -/

/-- An allocation under way: spares left, cells not yet covered as row and column, and the rows (true) and columns given a spare. -/
structure Alloc where
  rows : Nat
  cols : Nat
  cells : List (Nat × Nat)
  used : List (Bool × Nat)

/-- Rows or columns of the cells that are left. -/
def Alloc.lines (a : Alloc) (isRow : Bool) : List Nat := a.cells.map (fun c => if isRow then c.1 else c.2)

/-- Failing columns of a row, or failing rows of a column. -/
def Alloc.cover (a : Alloc) (isRow : Bool) (k : Nat) : Nat := (a.lines isRow).count k

/-- Spares of a kind that are left. -/
def Alloc.left (a : Alloc) (isRow : Bool) : Nat := if isRow then a.rows else a.cols

/-- The row or column with a spare is covered. -/
def Alloc.give (a : Alloc) (isRow : Bool) (k : Nat) : Alloc :=
  { rows := if isRow then a.rows - 1 else a.rows
    cols := if isRow then a.cols else a.cols - 1
    cells := a.cells.filter (fun c => (if isRow then c.1 else c.2) != k)
    used := a.used ++ [(isRow, k)] }

/-- The best of some candidates: the one that covers most, the lower number on a tie. -/
def Alloc.best (a : Alloc) (isRow : Bool) (ks : List Nat) : Option Nat :=
  ks.foldl (fun (r : Option Nat) (k : Nat) => match r with
    | none => some k
    | some j => if a.cover isRow j < a.cover isRow k ∨ (a.cover isRow j = a.cover isRow k ∧ k < j) then some k else some j) none

/-- Rule 1 of R529 for one kind: while a spare is left and a row or column has more failing cells than spares of the other kind, the lowest such
gets one; with fuel. -/
def Alloc.must (a : Alloc) (isRow : Bool) : Nat → Alloc
  | 0 => a
  | n + 1 =>
    match ((a.lines isRow).filter (fun k => decide (a.left (!isRow) < a.cover isRow k))).min? with
    | some k => if a.left isRow = 0 then a else (a.give isRow k).must isRow n
    | none => a

/-- Rule 1: rows, then columns, and again until neither applies. -/
def Alloc.first (a : Alloc) : Nat → Alloc
  | 0 => a
  | n + 1 =>
    let b := (a.must true a.rows).must false a.cols
    if b.used.length = a.used.length then a else b.first n

/-- One choice of rule 2: whatever of the kinds with a spare left covers most, a column on a tie. None where no cell or no spare is left. -/
def Alloc.choose (a : Alloc) : Option Alloc :=
  match (if a.rows = 0 then none else a.best true (a.lines true)), (if a.cols = 0 then none else a.best false (a.lines false)) with
  | none, none => none
  | some r, none => some (a.give true r)
  | none, some c => some (a.give false c)
  | some r, some c => some (if a.cover false c < a.cover true r then a.give true r else a.give false c)

/-- Rule 2, with fuel. -/
def Alloc.second (a : Alloc) : Nat → Alloc
  | 0 => a
  | n + 1 => match a.choose with
    | none => a
    | some b => b.second n

/-- The allocation of R529: rule 1, then rule 2. -/
def Alloc.run (a : Alloc) : Alloc := (a.first (a.rows + a.cols + 1)).second (a.rows + a.cols)

/-- Spares of a kind already used in a bank; none are used by factory repairs (R531; log 7). -/
def SramState.usedIn (x : SramState) (mem inst bank : Nat) (isRow : Bool) : Nat :=
  x.spares.countP (fun p => p.mem == mem && p.inst == inst && p.bank == bank && p.isRow == isRow)

/-- Numbers of the spares of a kind that a bank has left: neither in use nor defective (R524, R529). -/
def SramState.freeSlots (x : SramState) (m : SramKind) (inst bank : Nat) (isRow : Bool) : List Nat :=
  (List.range (if isRow then spareRows m else spareCols m)).filter (fun n =>
    !x.spares.any (fun p => p.mem == sramRow m && p.inst == inst && p.bank == bank && p.isRow == isRow && p.slot == n) &&
      !(isRow && x.badSpares.contains (sramRow m, inst, bank, n)))

/-- A spare row that has a failing cell is given up; the row that it stood in for fails again, in the same column (R524; log 191). -/
def SramState.dropSpare (x : SramState) (m : SramKind) (inst : Nat) (c : FailCell) : SramState × List FailCell :=
  let mine (p : Spare) : Bool := p.mem == sramRow m && p.inst == inst && p.bank == c.bank && p.isRow && p.slot == c.row
  ({ x with spares := x.spares.filter (fun p => !mine p), badSpares := (sramRow m, inst, c.bank, c.row) :: x.badSpares },
    (x.spares.filter mine).map (fun p => { c with row := p.index, spare := false }))

/-- The allocation of one bank: its repair records, and true where cells are left uncovered (R529). -/
def State.repairBank (s : State) (m : SramKind) (inst bank : Nat) (cells : List FailCell) (waiting : Bool) : State × Bool :=
  let mem := sramRow m
  let a := ({ rows := (s.sram.freeSlots m inst bank true).length, cols := (s.sram.freeSlots m inst bank false).length
              cells := (cells.map (fun c => (c.row, c.col))).dedup, used := [] } : Alloc).run
  let s := a.used.foldl (fun (s : State) (u : Bool × Nat) =>
    let p : Spare := {
      mem := mem, inst := inst, bank := bank, isRow := u.1, index := u.2, slot := (s.sram.freeSlots m inst bank u.1).headD 0, waiting := waiting }
    ({ s with sram := { s.sram with spares := s.sram.spares ++ [p] } }).record 0x81 .warning false (sramKey m inst)
      (natLe 2 bank ++ natLe 2 (if u.1 then u.2 else 0xFFFF) ++ natLe 2 (if u.1 then 0xFFFF else u.2))) s
  (s, !a.cells.isEmpty)

/-- A spare of its bank stands in for a cell's row or column already, applied or waiting (R530). -/
def SramState.covers (x : SramState) (m : SramKind) (inst : Nat) (c : FailCell) : Bool :=
  !c.spare && x.spares.any (fun p =>
    p.mem == sramRow m && p.inst == inst && p.bank == c.bank && (if p.isRow then p.index == c.row else p.index == c.col))

/-- What a march finds: the failing cells outside the spare rows that no spare covers yet. MARCH_C tests the spare rows too, and applies the repairs
that waited for it (R524, R530). -/
def State.findCells (s : State) (m : SramKind) (inst : Nat) (cells : List FailCell) (preserving : Bool) : State × List FailCell :=
  let found := cells.filter (fun c => cellExists m inst c && cellFound c preserving)
  if preserving then (s, found.filter (fun c => !s.sram.covers m inst c))
  else
    let mine (p : Spare) : Bool := p.mem == sramRow m && p.inst == inst
    let x : SramState := { s.sram with
      spares := s.sram.spares.map (fun (p : Spare) => if mine p then { p with waiting := false } else p)
      badSpares := s.sram.badSpares.filter (fun b => !(b.1 == sramRow m && b.2.1 == inst)) }
    let r := (found.filter (fun c => c.spare)).foldl (fun (acc : SramState × List FailCell) c =>
      let d := acc.1.dropSpare m inst c
      (d.1, acc.2 ++ d.2)) (x, found.filter (fun c => !c.spare))
    ({ s with sram := r.1 }, r.2.filter (fun c => !r.1.covers m inst c))

/-- The controller takes the result of a march (R529, R530): spares for each bank in ascending order, and one SRAM-failure record for an
unrepairable memory. True where it is unrepairable. -/
def State.repair (s : State) (m : SramKind) (inst : Nat) (defects : List FailCell) (preserving : Bool) : State × Bool :=
  let f := s.findCells m inst defects preserving
  let banks := f.2.foldl (fun l c => addNat l c.bank) []
  let r := banks.foldl (fun (acc : State × Option Nat) (b : Nat) =>
    let x := acc.1.repairBank m inst b (f.2.filter (fun c => c.bank == b)) preserving
    (x.1, if x.2 && acc.2.isNone then some b else acc.2)) (f.1, none)
  let key := sramKey m inst
  match r.2 with
  | none =>
    let s := r.1
    (if preserving then s else { s with sram := { s.sram with bad := s.sram.bad.filter (fun k => k != key) } }, false)
  | some b =>
    let s := r.1.record 0x82 .fault false key (natLe 2 b)
    ({ s with sram := { s.sram with bad := addNat s.sram.bad key } }, true)

/-- Outcome of an unrepairable memory for what holds it (Table: Unrepairable memories); that of the collective and queue buffers, of
the loop engine's memories and of Crown's two lies with the start that meets it. -/
def State.unrepairable (s : State) (m : SramKind) (inst : Nat) : State :=
  match m with
  | .scratchpad => s.failSite inst
  | .registers => s.failSite inst
  | .icache => s.failSite inst
  | .berux =>
    if h : inst < 20 then
      (s.setPort ⟨inst, h⟩ { s.ports[inst] with broken := true }).report 1 (0x1000 + inst / 5)
    else s
  | .secure =>
    if s.crown.secureBad then s
    else
      let s := { s with crown := { s.crown with secureBad := true, unwrapped := false, derived := false } }
      (s.record 0x83 .fault false (sramKey .secure 0) []).report 2 0xA000
  | _ => s

/-- A march has ended with some failing cells (R529–R531). -/
def State.marched (s : State) (m : SramKind) (inst : Nat) (cells : List FailCell) (transparent : Bool) : State :=
  let r := s.repair m inst cells transparent
  if r.2 then r.1.unrepairable m inst else r.1

/-- ZERO_CHECK finds a cell of the secure region that is not zero, in a row that no spare replaces or in a spare row (R533; log 212). -/
def State.notZero (s : State) (inst : Nat) (cells : List FailCell) : Bool :=
  cells.any (fun c => cellExists .secure inst c && cellFoundBy c zeroCheck (fun _ => false) && !s.sram.covers .secure inst c)

/-- A memory is known to be unrepairable. -/
def State.memBad (s : State) (m : SramKind) : Bool := s.sram.bad.any (fun k => decide (k / 4096 = sramRow m))

end Sys2Proof.Machine
end

