-- ==== Sys2Proof/Machine/Power.lean ====
section
/-! DEFINITION. Power conversion: bus converters, rails, phases, and operating points at the regulators (11_power_conversion.md). -/

namespace Sys2Proof.Machine

open Sys2Proof

/-! ## Bus converters -/

/-- The converters run while the 12 V rail is enabled and starts or is on, the bus node lies in their range and they have not faulted: in hiccup and
once latched the controller does not switch (R329, R330, R349, R464). -/
def State.updateConv (s : State) : State :=
  { s with power := { s.power with
    convOn := s.power.convFault.map (fun f => s.power.rails[9].enabled && decide (s.power.rails[9].state = .softStart ∨ s.power.rails[9].state = .on) && !f && s.power.convStop.isNone) } }

/-- CONVERTER_STOP (R329): the bus node has left the converters' range; `mv` is its voltage in mV. -/
def execConverterStop (mv : Nat) (s : State) : Answer :=
  .next (if 59000 < mv then ({ s with power := { s.power with convStop := some true } }).updateConv
  else if mv < 36000 then ({ s with power := { s.power with convStop := some false } }).updateConv
  else s)

/-- CONVERTER_RESTART (R329): the bus node is back in the range, past the restart threshold of the end it left. -/
def execConverterRestart (mv : Nat) (s : State) : Answer :=
  .next (match s.power.convStop with
  | some true => if 36000 ≤ mv ∧ mv < 58000 then ({ s with power := { s.power with convStop := none } }).updateConv else s
  | some false => if 40000 < mv ∧ mv ≤ 59000 then ({ s with power := { s.power with convStop := none } }).updateConv else s
  | none => s)

/-! ## Phases -/

/-- Phases fitted on a rail (Table: Rails); a DRAM phase is controller × 8 + phase, the 12 V rail and the precharge have none. -/
def fitted (r : Fin 11) : BitVec 32 :=
  if r.val < 4 then 0x3FFFFFF else if r = 4 then 0xFFFFFFFF else if r.val < 9 then 0x7 else 0

/-- Phases of a rail that work and are in service. -/
def Rail.count (x : Rail) : Nat := (List.range 32).countP (fun i => x.working.getLsbD i)

/-- Phases per controller of a shed level (R331, R342): core 24, 16, 8, 4; DRAM 8, 4, 2; a link controller keeps two active. -/
def levelPhases (r : Fin 11) (k : Nat) : Nat :=
  if r = 4 then [8, 4, 2][k]?.getD 2 else if r.val < 4 then [24, 16, 8, 4][k]?.getD 4 else 2

/-- A phase's bit, from a list of phases. -/
def phaseBits (l : List Nat) : BitVec 32 := l.foldl (fun (w : BitVec 32) i => w ||| (1#32 <<< i)) 0

/-- Phases that switch: of each controller as many of the working ones, lowest first, as the shed level asks for, and those that ramp down to leave
(R331, R342, R345); VDRAM's four controllers have eight phases each. -/
def Rail.switching (x : Rail) (r : Fin 11) : BitVec 32 :=
  let per := if r = 4 then 8 else 32
  let active (c : Nat) : List Nat := (((List.range per).map (fun i => c * per + i)).filter (fun i => x.working.getLsbD i)).take (levelPhases r x.shed)
  if x.state = .on ∨ x.state = .softStart then phaseBits ((List.range (32 / per)).flatMap active) ||| x.leaving else 0

/-- Lowest shed level of a rail: for a core the floor of PWR_SHED_CFG (R342). -/
def State.lowestLevel (s : State) (r : Fin 11) : Nat :=
  if r.val < 4 then 3 - bits (s.mreg pwrShedCfg) 9 8 else if r = 4 then 2 else 0

/-- Rail current below which a controller sheds from a level to the next, in A (R342); the four DRAM controllers share VDRAM's. -/
def shedCurrent (r : Fin 11) (k : Nat) : Nat := 30 * levelPhases r (k + 1) * (if r = 4 then 4 else 1)

/-- `test phase` holds a core rail at all its working phases (R558). -/
def State.phasesHeld (s : State) (r : Fin 11) : Bool :=
  match s.svc.test with
  | some (.phase d _ _ _ _) => r == coreRail d
  | _ => false

/-- PHASE_SHED (R333, R342, R343, R356): the rail current, `amps`, has stayed below the threshold for 5 ms. -/
def execPhaseShed (r : Fin 11) (amps : Nat) (s : State) : Answer :=
  let x := s.power.rails[r]
  .next (if x.state = .on ∧ x.shedTo = none ∧ bit (s.mreg pwrShedCfg) 0 ∧ x.shed < s.lowestLevel r ∧ amps < shedCurrent r x.shed ∧
    !s.phasesHeld r
  then s.setRail r { x with shedTo := some (x.shed + 1), current := amps }
  else s)

/-- SHED_TRANSITION_END (R343, R345): the phases that leave have ramped down. -/
def execShedTransitionEnd (r : Fin 11) (s : State) : Answer :=
  let x := s.power.rails[r]
  .next (match x.shedTo with
  | some k => s.setRail r { x with shed := k, shedTo := none, leaving := 0 }
  | none => if x.leaving = 0 then s else s.setRail r { x with leaving := 0 })

/-- PHASE_ADD_BACK (R332, R343, R344): whichever of the causes it is, every working phase comes back and a shed in progress is
abandoned. -/
def execPhaseAddBack (r : Fin 11) (why : AddBackCause) (s : State) : Answer :=
  let x := s.power.rails[r]
  .next (match why with
  | .current => if x.state = .on then s.setRail r x.addBack else s
  | .rise => if x.state = .on then s.setRail r x.addBack else s
  | .peak => if x.state = .on then s.setRail r x.addBack else s
  | .pins => if x.state = .on then s.setRail r x.addBack else s)

/-- Detail byte of a phase-fault record: the causes in the order of R346's list. -/
def phaseCause : PhaseCause → BitVec 8
  | .driver => 1
  | .mismatch => 2
  | .peak => 3
  | .hot => 4

/-- Crown's action as the working phases of a core rail fall to `n` (Table: Core phases remaining). -/
def State.corePhases (s : State) (d : Fin 4) (n : Nat) : State :=
  if n < 12 then s.loseDie d
  else
    let s := if n = 23 ∨ n = 18 then s.report 0x0001 (0x1000 + d.val) else s
    if s.stage = .stage3 ∧ s.topPoint d < s.pointOf d then s.lowerDie d (s.topPoint d) else s

/-- A working phase is taken out of service, as a shed: one that switches ramps down until the transition ends, and the rest are counted at once
(R345, R347). -/
def State.takePhase (s : State) (d : Fin 4) (m : BitVec 32) : State :=
  let x := s.power.rails[coreRail d]
  let x := { x with working := x.working &&& ~~~m, taken := x.taken ||| m, leaving := if x.state = .on then x.leaving ||| (m &&& x.switching (coreRail d)) else x.leaving }
  (s.setRail (coreRail d) x).corePhases d x.count

/-- PHASE_FAULT (R21, R332, R344, R346, R347, R580): a working phase stops at once; a spare takes its place while one is left. -/
def execPhaseFault (r : Fin 11) (phase : Fin 32) (cause : PhaseCause) (s : State) : Answer :=
  let x := s.power.rails[r]
  .next (if (x.state ≠ .on ∧ x.state ≠ .softStart) ∨ !(x.working ||| x.leaving).getLsbD phase then s
  else
    let m : BitVec 32 := 1#32 <<< phase.val
    let x := { x with working := x.working &&& ~~~m, leaving := x.leaving &&& ~~~m, failed := x.failed ||| m }
    let s := s.setRail r x
    let s := (s.flag pwrErr 4).record 0x31 .warning false (r.val * 256 + phase.val) [phaseCause cause]
    if h : r.val < 4 then s.corePhases ⟨r.val, h⟩ x.count
    else if 5 ≤ r.val ∧ x.count = 1 then s.report 0x0001 (0x1000 + (r.val - 5))
    else s)

/-! ## Operating points -/

/-- OP_PIN_CHANGE (R337, R339, R340): Crown's sequencer drives a point. It lowers the pins only once the divider is no faster than
the new point's. -/
def execOpPinChange (d : Fin 4) (op : Fin 8) (s : State) : Answer :=
  .next (if s.clk.div[d] ≠ 0 ∧ s.clk.div[d] < pointDiv op ∧ op < s.power.cores[d].pins then s else s.askPins d op)

/-- OP_DONE (R340, R341): the slew has ended and the sense point has settled. The end of a trim's slew is not reported. -/
def execOpDone (d : Fin 4) (s : State) : Answer :=
  let c := s.power.cores[d]
  .next (if !c.slewing then s
  else if c.trimSlew then s.setCore d { c with slewing := false, trimSlew := false }
  else s.setCore d { c with slewing := false, settled := c.pins, low := c.pins })

/-- The controller takes a stored value; the value of the point in force is slewed to (R338, R341). -/
def State.storeVop (s : State) (d : Fin 4) (k : Fin 8) (mv : Nat) : State :=
  let c := s.power.cores[d]
  if mv < 500 ∨ 850 < mv then s.flag pwrErr 8
  else
    let trim := decide (k = c.pins ∧ mv ≠ c.vop[k] ∧ s.power.rails[coreRail d].state = .on)
    s.setCore d { c with vop := c.vop.set k mv, slewing := c.slewing || trim, trimSlew := c.trimSlew || trim }

/-- STORED_VALUE_WRITE (R338, R341): Crown writes a stored value, but not while a pin change is in progress. -/
def execStoredValueWrite (d : Fin 4) (k : Fin 8) (mv : Nat) (s : State) : Answer :=
  let c := s.power.cores[d]
  .next (if c.slewing ∧ !c.trimSlew then s else s.storeVop d k mv)

/-- DIVIDER_CHANGE (R339, R472): a divider faster than the settled and selected point's is refused. -/
def execDividerChange (d : Fin 4) (n : Fin 32) (s : State) : Answer :=
  .next (if !s.clk.pll[d] ∨ ¬ n.val ∈ [20, 16, 14, 12, 10, 9, 8, 7] then s
  else if n.val < pointDiv (s.clockPoint d) then s.flag clkErr 5
  else s.setDiv d n.val)

/-! ## Start of a rail -/

/-- A start attempt begins, with every phase that has neither failed nor been taken out (R344, R348, R349). -/
def Rail.begin (x : Rail) (r : Fin 11) (attempts : Nat) : Rail :=
  { x with state := .softStart, attempts := attempts, shed := 0, shedTo := none, leaving := 0, working := fitted r &&& ~~~(x.failed ||| x.taken) }

/-- Heartwood may assert enables: both channels assert them, neither SAFE nor REMOVE is in force, and no `test trip` runs (R438, R440,
R444, R561). -/
def State.mayEnable (s : State) : Bool :=
  s.hwd.chanA && s.hwd.chanB && !s.hwd.safe && !s.hwd.removed && !s.hwd.fuseBad && !s.tripTesting

/-- What a rail depends on is there (R464, R465, Table: Stages). -/
def State.railReady (s : State) (r : Fin 11) : Bool :=
  let on (k : Fin 11) : Bool := decide (s.power.rails[k].state = .on)
  if h : r.val < 4 then
    decide (s.stage = .entry ∧ s.start.dies[r.val]'h = .rail) && on 4 && on ⟨5 + r.val, by omega⟩ && !(s.hwd.dieOff[r.val]'h)
  else if r = 9 then decide (s.stage = .stage2) && s.hwd.inputClosed
  else if r = 10 then decide (s.sap.state = .precharge)
  else decide (s.stage = .stage2 ∨ s.stage = .entry) && on 9

/-- Heartwood asserts a rail's enable, and its soft start begins (R348); a latched or crowbarred rail does not start (R353, R354). -/
def State.enableRail (s : State) (r : Fin 11) : State :=
  let x := s.power.rails[r]
  if x.enabled ∨ x.state ≠ .off ∨ !s.mayEnable then s
  else (s.setRail r (({ x with enabled := true, armed := false, goingDown := false } : Rail).begin r 1)).updateConv

/-- RAIL_ENABLE (R344, R348, R464). -/
def execRailEnable (r : Fin 11) (s : State) : Answer := .next (if s.railReady r then s.enableRail r else s)

/-- Stage 2's rails of step 2 are power-good (R464). -/
def State.railsGood (s : State) : Bool :=
  (List.finRange 11).all (fun r => decide (r.val < 4 ∨ r = 9 ∨ r = 10) || decide (s.power.rails[r].state = .on))

/-- Crown releases the loop engine once Stage 2's rails are good, unless a march has found its memory unrepairable (R464, R531). -/
def State.tryRelease (s : State) : State :=
  if s.stage ≠ .stage2 ∨ !s.railsGood ∨ s.le.released then s
  else if s.sram.bad.contains (6 * 4096) then s
  else s.releaseEngine

/-- POWER_GOOD (R344, R348, R350, R464): the ramp has ended within its bounds. A core controller reports op_done at the same moment. -/
def execPowerGood (r : Fin 11) (s : State) : Answer :=
  let x := s.power.rails[r]
  .next (if x.state ≠ .softStart ∨ r = 10 then s
  else
    let s := s.setRail r { x with state := .on, armed := true, charged := true }
    if h : r.val < 4 then
      let d : Fin 4 := ⟨r.val, h⟩
      let c := s.power.cores[d]
      let s := s.setCore d { c with settled := c.pins, low := c.pins, slewing := false, trimSlew := false }
      if s.start.dies[d] = .rail then { s with start := { s.start with dies := s.start.dies.set d .locking } } else s
    else s.tryRelease)

/-- The precharge has latched off: the store is locked out until it is re-armed (R386, R389). -/
def State.prechargeLatch (s : State) : State :=
  let s := s.flag sapErr 5
  let s := { s with hwd := { s.hwd with precharge := false, swA := false } }
  { s with sap := { s.sap with state := .lockedOut, lockout := some .precharge, swAClosing := false } }

/-- START_ATTEMPT_FAILURE (R349, R351): the output has stayed below half the ramp: hiccup, or after the fourth attempt a latch. -/
def execStartAttemptFailure (r : Fin 11) (s : State) : Answer :=
  let x := s.power.rails[r]
  .next (if x.state ≠ .softStart then s
  else if x.attempts < 4 then ((s.setRail r { x with state := .hiccup }).updateConv.flag pwrErr 5).record 0x32 .warning true r.val []
  else
    let s := ((s.setRail r { x with state := .latched }).updateConv.flag pwrErr 6).record 0x33 .fault false r.val [BitVec.ofNat 8 x.attempts]
    if r = 10 then s.prechargeLatch else s)

/-- HICCUP_RETRY (R349). -/
def execHiccupRetry (r : Fin 11) (s : State) : Answer :=
  let x := s.power.rails[r]
  .next (if x.state = .hiccup ∧ x.enabled then (s.setRail r (x.begin r (x.attempts + 1))).updateConv else s)

/-! ## Faults in service (R352) -/

/-- A rail in service latches off (R352). -/
def State.latchRail (s : State) (r : Fin 11) (n : Nat) : State :=
  let x := s.power.rails[r]
  if x.state = .on then ((s.setRail r { x with state := .latched, current := 0 }).updateConv.flag pwrErr n).flag pwrErr 6 else s

/-- RAIL_OVERCURRENT (R332, R352). -/
def execRailOvercurrent (r : Fin 11) (s : State) : Answer := .next (s.latchRail r 0)

/-- RAIL_OVERVOLTAGE (R352). -/
def execRailOvervoltage (r : Fin 11) (s : State) : Answer := .next (s.latchRail r 1)

/-- A core rail slews (R340, R341). -/
def State.slews (s : State) (r : Fin 11) : Bool := if h : r.val < 4 then s.power.cores[r.val].slewing else false

/-- RAIL_UNDERVOLTAGE (R352): outside a slew the flag is set and the rail regulates on. -/
def execRailUndervoltage (r : Fin 11) (s : State) : Answer :=
  .next (if s.power.rails[r].state = .on ∧ !s.slews r then s.flag pwrErr 2 else s)

/-- POWER_STAGE_WARM (R352): the flag is set; Crown throttles in its thermal loop (R428). -/
def execPowerStageWarm (r : Fin 11) (s : State) : Answer :=
  .next (if s.power.rails[r].state = .on then s.flag pwrErr 10 else s)

/-- SENSE_POINT_IGNORED (R335, R352): the controller, which regulates from soft start on, ignores a die-side sense point, each time that it goes
out of range; in service Crown reports the die degraded. -/
def execSensePointIgnored (d : Fin 4) (k : Fin 5) (s : State) : Answer :=
  let c := s.power.cores[d]
  let st := s.power.rails[coreRail d].state
  .next (if st ≠ .on ∧ st ≠ .softStart then s
  else
    let s := (s.setCore d { c with ignored := c.ignored ||| (1#5 <<< k.val) }).flag pwrErr 9
    if st = .on then s.report 0x0001 (0x1000 + d.val) else s)

/-! ## Re-arm and discharge -/

/-- Re-arming clears a rail's latch and its attempt count only; a re-armed precharge frees the store (R354, R389). -/
def State.rearmRail (s : State) (r : Fin 11) : State :=
  let x := s.power.rails[r]
  if x.state ≠ .latched then s
  else
    let s := s.setRail r { x with state := .off, attempts := 0 }
    if r = 10 ∧ s.sap.state = .lockedOut ∧ s.sap.lockout = some .precharge then
      { s with sap := { s.sap with state := .isolated, lockout := none } }
    else s

/-- Every rail of a mask is re-armed, by rail number (R354, R583). -/
def State.rearm (s : State) (rails : BitVec 11) : State :=
  (List.finRange 11).foldl (fun (s : State) (r : Fin 11) => if rails.getLsbD r.val then s.rearmRail r else s) s

/-- VLINK_d goes, and with it the host port that it feeds (R466, R477, R478). -/
def State.dropLink (s : State) (d : Fin 4) : State :=
  let s := s.setRail (linkRail d) s.power.rails[linkRail d].remove
  if d = 0 then s.linkDown .A else if d = 3 then s.linkDown .B else s

/-- Every VCORE rail has discharged. -/
def State.coresDown (s : State) : Bool := (List.finRange 4).all (fun d => !s.power.rails[coreRail d].charged)

/-- RAIL_DISCHARGED (R477, R588): a rail whose enable has gone, or that has latched off, has fallen below its bound, and the next rail
in the power-down order goes. -/
def execRailDischarged (r : Fin 11) (s : State) : Answer :=
  let x := s.power.rails[r]
  .next (match x.state with
  | .on => s
  | .softStart => s
  | .hiccup => s
  | _ =>
    let s := s.setRail r { x with charged := false }
    if h : r.val < 4 then
      let d : Fin 4 := ⟨r.val, h⟩
      let s := if s.power.rails[linkRail d].goingDown then s.dropLink d else s
      if s.coresDown ∧ s.power.rails[4].goingDown then s.setRail 4 s.power.rails[4].remove else s
    else s)

end Sys2Proof.Machine
end

