-- ==== Sys2Proof/Machine/HwdOps.lean ====
section
/-! DEFINITION. Heartwood's outcomes: the trip memory, LIMIT, HOLD, ISOLATE, DIE_OFF, RAIL_OFF and SAFE, the failure of a start, the
power-down of the dies and the loss of power (R438, R444–R447, R468, R477). -/

namespace Sys2Proof.Machine

open Sys2Proof

/-! ## The trip memory (R447) -/

/-- Heartwood is powered and clocked, so that its trips act (R437, R439). -/
def State.hwdOn (s : State) : Bool := decide (s.stage ≠ .unpowered) && !s.hwd.clockBad

/-- The trip memory can take an entry: it has room, or an entry that has been copied. -/
def tripRoom (l : List Trip) : Bool := decide (l.length < 32) || l.any (fun t => t.copied)

/-- An entry joins the trip memory: 32 entries, the oldest copied one overwritten; else the earliest 32 stay (R447). -/
def putTrip (l : List Trip) (t : Trip) : List Trip :=
  if l.length < 32 then l ++ [t]
  else if l.any (fun x => x.copied) then l.eraseP (fun x => x.copied) ++ [t]
  else l

/-- Heartwood records a trip: in HWD_TRIP_LAST and the trip memory, with the operating hours saved; where `crown` holds, Crown copies the
entry into the ring log. A genuine trip ends `test trip` (R447, R482, R561). -/
def State.tripBy (s : State) (crown : Bool) (code index : Nat) : State :=
  let h := s.hwd
  let kept := tripRoom h.mem
  let t : Trip := { code := code, index := index, cycle := s.clk.cycles, hours := s.clk.hours, copied := crown }
  let s : State := { s with hwd := { h with
    trips := min 65535 (h.trips + 1), lastIndex := index, lastCode := code, savedHours := s.clk.hours, mem := putTrip h.mem t } }
  let s := if crown && kept then s.record 0x60 .fault false index (natLe 1 code ++ natLe 4 s.clk.hours.toNat) else s
  if s.tripTesting then s.endCommand 6 else s

/-- A trip that Crown copies while it runs (R447). -/
def State.trip (s : State) (code index : Nat) : State := s.tripBy s.crown.running code index

/-- At Stage 1 Crown copies every entry left uncopied (R447, R463). -/
def State.copyTrips (s : State) : State :=
  let s := (s.hwd.mem.filter (fun t => !t.copied)).foldl (fun (s : State) (t : Trip) =>
    s.record 0x60 .fault false t.index (natLe 1 t.code ++ natLe 4 t.hours.toNat)) s
  { s with hwd := { s.hwd with mem := s.hwd.mem.map (fun (t : Trip) => { t with copied := true }) } }

/-! ## Power-down (R477) -/

/-- A die is powered down: its clocks, then VCORE_d, then VLINK_d where that is to go (R477). -/
def State.dieDown (s : State) (d : Fin 4) (keepLink : Bool) : State :=
  let s := s.dieOff d
  if keepLink then s.setRail (linkRail d) { s.power.rails[linkRail d] with goingDown := false }
  else if s.power.rails[coreRail d].charged then s
  else s.dropLink d

/-- Every die goes, in parallel, and VDRAM once every VCORE rail has discharged; VLINK_0 and VLINK_3 stay where they are power-good
and no DIE_OFF removes them (R444, R468, R477, R478). -/
def State.diesDown (s : State) : State :=
  let s := (List.finRange 4).foldl (fun (s : State) (d : Fin 4) =>
    s.dieDown d (decide (d = 0 ∨ d = 3) && decide (s.power.rails[linkRail d].state = .on) && !s.hwd.dieOff[d])) s
  if s.coresDown then s.setRail 4 s.power.rails[4].remove
  else s.setRail 4 { s.power.rails[4] with goingDown := true }

/-- Every die and rail enable drops at once, and the converters stop with the 12 V rail's (R444, R453). -/
def State.allOff (s : State) : State :=
  let s : State := { s with
    hwd := { s.hwd with dieEn := Vector.replicate 4 false }
    clk := { s.clk with pll := Vector.replicate 4 false, div := Vector.replicate 4 0 }
    power := { s.power with rails := s.power.rails.map Rail.remove } }
  ((s.updateConv).linkDown .A).linkDown .B

/-! ## A start that fails (R468) -/

/-- The module has failed: its stage reads 0b111, with a record of the stage and the cause. -/
def State.fail (s : State) (stage cause : Nat) : State :=
  let s := (s.flag clkErr 3).record 0x07 .fault false stage (natLe 1 cause)
  { s with
    stage := .failed
    hq := { s.hq with stopped := true }
    start := { s.start with dies := Vector.replicate 4 .waiting, restarting := false, retried := false, pendingKind := none }
    budget := { s.budget with stopped := some .failedStart, quiesce := none } }

/-- A start fails by a row of Table: Start failures, counted from 1. -/
def State.failStart (s : State) (stage row : Nat) : State :=
  let s := s.fail stage row
  let s := if row = 4 then (List.finRange 4).foldl (fun (s : State) (d : Fin 4) => s.dropLink d) s
    else if row = 7 then s.diesDown else s
  s.signalBoth

/-- The module fails by an event that Table: Start failures does not list (R473, R481): the cause in the record is a free value. -/
def State.failUnlisted (s : State) (stage : Nat) : State :=
  ((s.drawn.fail stage (s.fresh.toNat % 256)).diesDown).signalBoth

/-! ## Entries abandoned (R481) -/

/-- At least 2 bus converters work, and the bus has stayed at or above 44 V for 100 ms (Table: Re-entry). -/
def State.busBack (s : State) : Bool := s.hwd.busGood && decide (2 ≤ s.convCount)

/-- Stage 3 entry is abandoned: the dies power down, and Crown retries; after three abandoned entries the module has failed. While a retry waits no
entry runs that could be abandoned (R481). -/
def State.abandonEntry (s : State) : State :=
  if (s.stage ≠ .stage2 ∧ s.stage ≠ .entry) ∨ s.start.retry then s
  else
    let s := s.diesDown
    let n := s.start.abandoned + 1
    let s := { s with
      stage := .stage2
      start := { s.start with abandoned := n, retry := true, dies := Vector.replicate 4 .waiting } }
    if 3 ≤ n then s.failUnlisted 3 else s

/-! ## Outcomes (R444) -/

/-- LIMIT on some dies: at once, with the deferral of a cap ended and a notice with cause 2 (R424, R425, R434, R444). -/
def State.limitTrip (s : State) (dies : List (Fin 4)) (code : Nat) : State :=
  let news := dies.any (fun d => !s.power.cores[d].forced)
  let s := dies.foldl (fun (s : State) (d : Fin 4) => s.limitDie d code) s
  let s := match s.budget.deferred with
    | some (caps, cause) => s.applyCaps caps cause
    | none => s
  let s := { s with budget := { s.budget with capCause := 2 } }
  if s.crown.running && news then s.capNotice s.pointOf 2 false else s

/-- LIMIT on every die. -/
def State.limitTripAll (s : State) (code : Nat) : State := s.limitTrip (List.finRange 4) code

/-- A trip's LIMIT on a die is released: Crown's point applies again, a raise to it as far as the check passes, and the change of cap points sends a
notice (R412, R425, R445). -/
def State.releaseLimit (s : State) (d : Fin 4) (code : Nat) : State :=
  let s' := s.unlimit d code
  if s'.power.cores[d].forced = s.power.cores[d].forced then s'
  else
    let s' := if s'.crown.running then (s'.raiseTo d (min s.power.cores[d].asked (s'.boundPoint d)) (0, 0)).1 else s'
    let s' := { s' with budget := { s'.budget with capCause := if s'.limited then 2 else capCauseOf s'.budget.capWhy false } }
    if s'.crown.running then s'.capNotice s'.pointOf 2 false else s'

/-- Crown enters the hold that Heartwood asks for: in Stage 3, while Crown runs and strobes (R431, R444, R454). -/
def State.takeHold (s : State) : State :=
  if s.hwd.holdReq ∧ s.stage = .stage3 ∧ !s.budget.hold ∧ s.crown.running ∧ !s.hwd.freeze then s.enterHold.reviewCaps else s

/-- Heartwood asks Crown for the hold, which Crown enters in Stage 3, after a restart of its own too; under FREEZE the HOLD becomes LIMIT on every
die (R431, R444, R454). -/
def State.askHold (s : State) (code : Nat) : State :=
  let s := { s with hwd := { s.hwd with holdReq := true } }.flag hwdTrip 5
  if s.hwd.freeze then s.limitTripAll code
  else if s.crown.running ∧ s.stage = .stage3 then s.enterHold.reviewCaps
  else s

/-- DIE_OFF: the die stays off until the next power-on; in service the module loses it as a compute die, and a start that needs it fails
(R21, R444, R468). VLINK_d goes after VCORE_d, and at once where that has discharged already. -/
def State.dieOffTrip (s : State) (d : Fin 4) : State :=
  let s := { s with hwd := { s.hwd with dieOff := s.hwd.dieOff.set d true } }.flag hwdTrip 1
  let s := match s.stage with
    | .stage2 => (s.dieOff d).failStart 2 5
    | .entry => (s.dieOff d).failStart 3 7
    | .stage3 => s.loseDie d
    | .quiescing => s.loseDie d
    | _ => s.dieOff d
  if s.power.rails[coreRail d].charged then s else s.dropLink d

/-- The module enters the quiesced state, and vector 64 is signalled on both functions (R478). -/
def State.enterQuiesced (s : State) : State :=
  ({ s with
    stage := .quiesced
    start := { s.start with dies := Vector.replicate 4 .waiting, restarting := false, pendingKind := none, retry := false, retried := false }
    budget := { s.budget with quiesce := none, hold := false }
    hwd := { s.hwd with holdReq := false } }).signalBoth

/-- The ordered end of a quiesce: the store is isolated, the event is reported, and the module is quiesced (R432, R478). -/
def State.becomeQuiesced (s : State) : State := (s.isolate.report 9 0).enterQuiesced

/-- DIE_OFF on every die, in power-down order; a quiesce that runs lapses (R444, R456). -/
def State.dieOffAll (s : State) : State :=
  let s := (List.finRange 4).foldl (fun (s : State) (d : Fin 4) => s.dieOffTrip d) s
  if s.stage = .quiescing then s.enterQuiesced else s

/-- ISOLATE: the store switches open; during a hold no source remains, so every die goes off (R444, R456). -/
def State.isolateTrip (s : State) : State :=
  let held := s.budget.hold
  let s := (s.isolate.flag hwdTrip 3).reviewCaps
  if held then s.dieOffAll else s

/-- Trips after which only a power-on starts the module again (Table: Re-entry; 0x1F under R439). -/
def powerOnOnly (code : Nat) : Bool := [0x07, 0x09, 0x1E, 0x1F].contains code

/-- What has stopped a module that enters SAFE: a code after which only a power-on helps stays (R456, R479). -/
def State.safeStop (s : State) (code : Nat) : StopCause :=
  match s.budget.stopped with
  | some (.safe old) => if powerOnOnly old then .safe old else .safe code
  | _ => .safe code

/-- SAFE: every enable drops at once, the store is isolated and the converters stop. CLK_STATUS.stage then reads 0b111 (R444; log 79). -/
def State.safe (s : State) (code : Nat) : State :=
  let s := { s with
    hwd := { s.hwd with safe := true, safeAt := s.clk.us }
    budget := { s.budget with quiesce := none, hold := false, stopped := some (s.safeStop code) }
    hq := { s.hq with stopped := true }
    start := { s.start with
      dies := Vector.replicate 4 .waiting, restarting := false, retry := false, retried := false, pendingKind := none } }.flag hwdTrip 7
  let s := s.isolate.flag hwdTrip 3
  let s := s.allOff
  if s.stage = .unpowered then s else { s with stage := .failed }

/-- Heartwood fires a rail's crowbar and removes its enable (R353). -/
def State.crowbar (s : State) (r : Fin 11) : State :=
  let s := s.setRail r { s.power.rails[r].remove with state := .crowbarred }
  (s.flag pwrErr 7).updateConv

/-- Rails that depend on a rail (R464). -/
def dependents (r : Fin 11) : List (Fin 11) :=
  if r = 9 then [0, 1, 2, 3, 4, 5, 6, 7, 8]
  else if r = 4 then [0, 1, 2, 3]
  else if h : 5 ≤ r.val ∧ r.val < 9 then [⟨r.val - 5, by omega⟩]
  else []

/-- RAIL_OFF: the rail's enable goes, and those of the rails that depend on it (R350, R444). -/
def State.railOff (s : State) (r : Fin 11) : State :=
  let s := (r :: dependents r).foldl (fun (s : State) (k : Fin 11) => s.setRail k s.power.rails[k].remove) s
  let s := (s.updateConv).flag hwdTrip 2
  let s := if s.power.rails[5].enabled then s else s.linkDown .A
  if s.power.rails[8].enabled then s else s.linkDown .B

/-! ## Loss of power -/

/-- The outputs take the fail-safe state: every switch open, every enable off (R438). -/
def State.failSafe (s : State) : State :=
  let s := s.isolate
  ({ s with hwd := { s.hwd with chanA := false, chanB := false, inputClosed := false } }).allOff

/-- Bytes of the page that the flash is programming: none while programming is suspended (R542). -/
def LogState.pageLeft (l : LogState) : Nat :=
  if l.mode = .suspended then 0 else min (256 - l.flash.length % 256) l.program.length

/-- The configuration that Crown works with (R485). -/
def State.config (s : State) : ConfigPart :=
  { retire := s.retire
    marks := (s.tiles.filter (fun (e : Nat × Tile) => e.2.retireCause != 0)).map (fun (e : Nat × Tile) => (e.1, e.2.retireCause))
    rowMap := s.mem.rowMap, repairs := s.mem.repairs, sparesUsed := s.mem.sparesUsed, noSpare := s.mem.noSpare
    spares := s.sram.spares, trim := s.budget.trim, lockout := s.sap.lockout
    epoch := s.fleet.epoch, digest := s.fleet.digest, blocks := s.fleet.blocks
    life := s.crown.life, owner := s.crown.owner, identity := s.crown.identity, cert := s.crown.cert, clear := s.log.clear, lost := s.crown.lost }

/-- The whole copy with the higher sequence number (R486). -/
def newestCopy (v : Vector (Option ConfigCopy) 2) : Option (Fin 2) :=
  match v[0], v[1] with
  | some a, some b => some (if b.seq ≤ a.seq then 0 else 1)
  | some _, none => some 0
  | none, some _ => some 1
  | none, none => none

/-- Crown, while it runs and no brownout warning lasts, programs a configuration that has changed into the copy that is not the current one
(R451, R486; log 208). -/
def State.syncConfig (s : State) : State :=
  let c := s.crown
  if !c.running || s.hwd.brownout then s
  else
    let put (k : Fin 2) (seq : Nat) : State := { s with crown := { c with copies := c.copies.set k (some { seq := seq, part := s.config }) } }
    match newestCopy c.copies with
    | none => put 0 1
    | some n =>
      match c.copies[n] with
      | none => put n 1
      | some x => if x.part = s.config then s else put (1 - n) (x.seq + 1)

/-- The Heartwood domain loses its supply: outputs fail safe, Crown and its memories lose power, and only what is kept in flash, fuses
and the stack-powered circuits stays; a page being programmed holds free bytes (R438, R453, R461, R542; log 91). -/
def State.powerOff (s : State) : State :=
  let s := s.syncConfig.failSafe
  let page := s.log.pageLeft
  let flash := s.log.flash ++ s.freeBytes page
  let s := s.drawnN page
  { s with
    stage := .unpowered
    crown := { s.crown with running := false, rom := false, load := none, clearing := none }
    svc := { s.svc with ready := false, test := none }
    sap := { s.sap with awake := false, waking := false, pulsing := false, shuttle := 0, converting := false, check := false, swAClosing := false, following := false }
    le := { s.le with ok := false, released := false, injection := none }
    log := { s.log with opened := [], closed := [], program := [], flash := flash }
    hq := { s.hq with stopped := true }
    budget := { s.budget with quiesce := none, hold := false, stopped := none }
    hwd := { s.hwd with brownout := false }
    clk := { s.clk with refOk := false } }

end Sys2Proof.Machine
end

