-- ==== Sys2Proof/Machine/Store.lean ====
section
/-! DEFINITION. The energy store, its switches and its cell monitor (13_sapwell_store.md). -/

namespace Sys2Proof.Machine

open Sys2Proof

/-! ## Energy (R384, R385, R398) -/

/-- C_stack in 0.01 F, from the fourteen estimates in 0.1 F, to the nearest hundredth (R384, Table: Usable energy over life). -/
def stackCap (cells : Vector Cell 14) : Nat :=
  let inv : ℚ := (cells.toList.map (fun c => (1 : ℚ) / c.cap)).sum
  (10 / inv + 1 / 2).floor.toNat

/-- Crown recomputes C_stack, the usable energy and the charge loop's target: the usable energy less the absorb headroom, 1.0 kJ or
0 under a HINT above the share, and never below the floor of 3.0 kJ (R384, R385, R413, R416). -/
def State.newEnergy (s : State) : State :=
  let c := stackCap s.sap.cells
  let e : ℚ := storeEnergy c s.sap.ceilingMv
  let headroom : ℚ := if s.hq.hints.any (fun h => decide (s.budget.share < h.demand)) then 0 else 1000
  let target : Bfp := bfp (maxQ 3000 (e - headroom))
  let slots := s.le.slots.map (fun (x : Slot) => { x with values := { x.values with cStack := c } })
  let x := slots[1]
  { s with
    sap := { s.sap with usableJ := e.floor.toNat }
    le := { s.le with slots := slots.set 1 { x with values := { x.values with target := target } } } }

/-- The stack ceiling in force (R383, R398). -/
def State.setCeiling (s : State) (mv : Nat) : State := ({ s with sap := { s.sap with ceilingMv := mv } }).newEnergy

/-- CAPACITANCE_ESTIMATE (R384, R385): Crown takes the fourteen estimates, in 0.1 F; below 192 F the store has reached end of life. -/
def execCapacitanceEstimate (caps : List Nat) (s : State) : Answer :=
  .next (if !s.crown.running ∨ caps.length ≠ 14 ∨ caps.any (fun c => c == 0) then s
  else
    let cells : Vector Cell 14 := Vector.ofFn (fun k => { s.sap.cells[k] with cap := caps[k.val]?.getD 0 })
    let low := caps.foldl min (caps.headD 0)
    let weakest := caps.findIdx (fun c => c == low) + 1
    let s := ({ s with sap := { s.sap with cells := cells, cMin := low, weakest := weakest } }).newEnergy
    if low < 1920 ∧ !s.sap.endOfLife then
      let s := { s with sap := { s.sap with endOfLife := true } }
      (s.record 0x45 .warning false weakest (natLe 2 low)).report 2 0
    else s)

/-! ## Switches (R386, R389) -/

/-- Step 1 of R386 holds: the pins have read low for 100 ms, the monitor is awake, the store is not locked out, and Heartwood may close
its switches. -/
def State.mayConnect (s : State) : Bool :=
  s.hwd.settled && s.sap.awake && s.mayEnable && !s.hwd.refuseConnect && s.sap.lockout.isNone && !s.sap.bleed

/-- Crown requests connect, and Heartwood starts the precharge (R386, R389). -/
def State.connect (s : State) : State :=
  if s.crown.running ∧ s.mayConnect ∧ (s.sap.state = .isolated ∨ s.sap.state = .drained) then
    let x : Rail := { s.power.rails[10] with enabled := true, armed := false }
    let s := s.setRail 10 (x.begin 10 1)
    { s with hwd := { s.hwd with precharge := true }, sap := { s.sap with state := .precharge } }
  else s

/-- STORE_CONNECT_REQUEST (R386, R389, R404). -/
def execStoreConnectRequest (s : State) : Answer := .next s.connect

/-- PRECHARGE_COMPLETE (R386, R438): the link has stayed within 1.0 V of the stack for 1 ms after the ramp, and SW_A closes. -/
def execPrechargeComplete (s : State) : Answer :=
  .next (if s.sap.state = .precharge ∧ s.power.rails[10].state = .softStart ∧ s.mayEnable then
    let s := s.setRail 10 { s.power.rails[10] with state := .on, charged := true }
    { s with hwd := { s.hwd with swA := true }, sap := { s.sap with swAClosing := true } }
  else s)

/-- SW_B_CLOSE (R386, R389, R403, R438): SW_B closes, the precharge path turns off, and the store is CONNECTED. -/
def execSwBClose (s : State) : Answer :=
  .next (if s.sap.state = .precharge ∧ s.sap.swAClosing ∧ s.mayEnable then
    let s := s.setRail 10 s.power.rails[10].remove
    { s with
      hwd := { s.hwd with swB := true, precharge := false }
      sap := { s.sap with state := .connected, swAClosing := false }
      start := { s.start with storeDone := true } }
  else s)

/-- STORE_ISOLATE_REQUEST (R389): Crown requests isolation. -/
def execStoreIsolateRequest (s : State) : Answer := .next (if s.crown.running then s.isolate.reviewCaps else s)

/-- The lockout that is recorded once a cause arises: one that lasts until the module is replaced is not replaced by another (R389, R399). -/
def Store.lockFor (x : Store) (why : Lockout) : Lockout :=
  match x.lockout with
  | some .cellFault => .cellFault
  | some .measurement => .measurement
  | some .tapOutside => .tapOutside
  | _ => why

/-- The store is locked out, and the cause recorded in the configuration partition; a draining store stays DRAINING until its bleed ends
(R389, R397, R399). -/
def State.lockStore (s : State) (why : Lockout) : State :=
  let s := s.isolate.reviewCaps
  let s := { s with sap := { s.sap with lockout := some (s.sap.lockFor why) }, start := { s.start with storeDone := true } }
  if s.sap.state = .draining then
    { s with sap := { s.sap with drain := s.sap.drain.map (fun (d : Drain) => { d with lockArose := true }) } }
  else { s with sap := { s.sap with state := .lockedOut } }

/-- In a dip the converter discharges to hold the bus node, where its switches are closed and discharge is permitted, even while charging is blocked
(R404, R448). -/
def State.holdBus (s : State) : State :=
  { s with sap := { s.sap with holding := s.hwd.dip && s.hwd.swA && s.hwd.swB && !s.le.convStopped && !s.sap.dischargeBlocked } }

/-! ## The scan (R388, R390, R391, R396) -/

/-- A cell is monitored on its own (R388, R398). -/
def Store.monitored (x : Store) : List (Fin 14) := (List.finRange 14).filter (fun k => !x.cells[k].inPair)

/-- Sum of the monitored readings, and their number: the mean is their quotient (R393). -/
def Store.meanOf (x : Store) (cells : List Nat) : Int × Int :=
  let m := x.monitored
  ((m.map (fun k => ((cells[k.val]?.getD 0 : Nat) : Int))).sum, m.length)

/-- Reading of a cell less the mean, times the number of monitored cells. -/
def Store.deviation (x : Store) (cells : List Nat) (k : Fin 14) : Int :=
  let m := x.meanOf cells
  ((cells[k.val]?.getD 0 : Nat) : Int) * m.2 - m.1

/-- A monitored cell that reads outside 2.2–4.0 V (R396). -/
def Store.outside (x : Store) (cells : List Nat) (k : Fin 14) : Bool :=
  let v := cells[k.val]?.getD 0
  !x.cells[k].inPair && decide (v < 2200 ∨ 4000 < v)

/-- A cell that belongs to an adjacent pair with one cell more than 0.5 V above the mean and the other more than 0.5 V below (R396). -/
def Store.split (x : Store) (cells : List Nat) (k : Fin 14) : Bool :=
  let n := (x.meanOf cells).2
  let far (a b : Fin 14) : Bool :=
    let da := x.deviation cells a
    let db := x.deviation cells b
    !x.cells[a].inPair && !x.cells[b].inPair &&
      decide ((500 * n < da ∧ db < -500 * n) ∨ (500 * n < db ∧ da < -500 * n))
  (List.finRange 14).any (fun j => decide (j.val + 1 = k.val ∨ k.val + 1 = j.val) && far k j)

/-- Cells that make a scan suspect (R396). -/
def Store.suspects (x : Store) (cells : List Nat) : List (Fin 14) :=
  (List.finRange 14).filter (fun k => x.outside cells k || x.split cells k)

/-- Reading across a pair under R398. -/
def Store.pairMv (x : Store) (cells : List Nat) : Nat := (cells[x.openTap - 1]?.getD 0) + (cells[x.openTap]?.getD 0)

/-- A cell may be eligible at all (R394). -/
def State.mayBalance (s : State) (k : Fin 14) : Bool :=
  let x := s.sap
  let c := x.cells[k]
  bit (s.mreg sapCfg) 0 && !c.dis && !c.inPair && !c.swFail && !c.held && x.awake && !x.stackStop &&
    decide (x.state ≠ .draining ∧ x.state ≠ .lockedOut)

/-- Eligibility after a scan: from more than 10 mV off the mean until within 3 mV (R394). -/
def State.eligibleNow (s : State) (cells : List Nat) (k : Fin 14) : Bool :=
  let n := (s.sap.meanOf cells).2
  let d := (s.sap.deviation cells k).natAbs
  s.mayBalance k && (decide (10 * n < d) || (s.sap.cells[k].eligible && decide (3 * n < d)))

/-- Readings of a scan enter SAP_CELL_k, SAP_STACK and SAP_TEMP; a pair shows half its reading in each cell (R388, R390, R398). -/
def State.takeReadings (s : State) (rd : CellReadings) : State :=
  let x := s.sap
  let half := x.pairMv rd.cells / 2
  let cells : Vector Cell 14 := Vector.ofFn (fun k =>
    { x.cells[k] with mv := if x.cells[k].inPair then half else rd.cells[k.val]?.getD 0, valid := true })
  let hot (l : List Int) : Bool := l.any (fun t => decide (50 < t))
  let was := hot x.temps.toList
  let s := { s with sap := { x with cells := cells, stackMv := rd.stack, lit := decide (33000 < rd.stack), temps := Vector.ofFn (fun k => rd.temps[k.val]?.getD 0) } }
  if hot rd.temps ∧ !was then s.flag sapErr 7 else s

/-- Permission flags after a scan (R388, R396). -/
def Store.permit (x : Store) (cells : List Nat) : Store :=
  let mon := x.monitored.map (fun k => cells[k.val]?.getD 0)
  { x with
    chargeBlocked := mon.any (fun v => decide (3800 ≤ v)) || decide (x.ceilingMv ≤ x.stackMv) ||
      (decide (x.openTap ≠ 0) && decide (7300 ≤ x.pairMv cells)) || x.suspect
    dischargeBlocked := mon.any (fun v => decide (v ≤ 2500)) || decide (x.stackMv ≤ 35000) }

/-- A suspect scan: its cells are held, charging is blocked, the next scan is a check scan, and a switch test restarts after
classification (R396, R404). -/
def Store.noteSuspects (x : Store) (cells : List Nat) : Store :=
  let l := x.suspects cells
  if l.isEmpty then x
  else
    let first := (l.filter (fun k => x.outside cells k)).head?
    { x with
      suspect := true
      suspectCell := if x.suspect then x.suspectCell else match first with
        | some k => k.val + 1
        | none => 0
      suspectMv := if x.suspect then x.suspectMv else cells[((first.getD (l.headD 0)).val)]?.getD 0
      checkNext := x.checkNext || !x.check
      cells := Vector.ofFn (fun k => { x.cells[k] with held := x.cells[k].held || l.contains k, eligible := x.cells[k].eligible && !l.contains k }) }

/-- Scans in a routine check-scan period (R396, Table: SAP_CFG fields). -/
def State.checkPeriod (s : State) : Nat := 10 * bits (s.mreg sapCfg) 15 8

/-- SCAN_START (R390, R393, R396): balancing stops and a scan begins; the starting parity alternates. -/
def execScanStart (s : State) : Answer :=
  let x := s.sap
  let check := x.checkNext || (decide (s.checkPeriod ≤ x.scans + 1) && !x.waking)
  .next (if !x.awake ∧ !x.waking then s
  else { s with sap := { x with
    pulsing := true, shuttle := 0, converting := true, slotsDone := 0, oddFirst := !x.oddFirst, check := check, checkNext := x.checkNext && !check
    scans := if check then 0 else x.scans + 1 } })

/-- A measurement fault: the sum check has failed in 3 scans in a row (R397). -/
def State.measurementFault (s : State) (rd : CellReadings) : State :=
  if s.sap.lockout = some .measurement then s
  else
    let s := s.flag sapErr 3
    let s := s.record 0x44 .fault false 0 (natLe 2 rd.cells.sum ++ natLe 2 rd.stack)
    (s.report 2 0x6000).lockStore .measurement

/-- CONVERSION_WINDOW_CLOSE (R388, R390, R391, R394, R396, R397, R401, R403): the readings of a scan with its sum check, its suspect
tests, permission flags and eligibility; the first window of a check scan is its baseline. -/
def execConversionWindowClose (rd : CellReadings) (s : State) : Answer :=
  .next (if (!s.sap.awake ∧ !s.sap.waking) ∨ rd.cells.length ≠ 14 then s
  else
    let s := s.takeReadings rd
    let ok := decide ((rd.cells.sum : Int) - rd.stack ≤ 150 ∧ (rd.stack : Int) - rd.cells.sum ≤ 150)
    let x := s.sap
    let x := { x with converting := false, sumWas := x.sumOk, sumOk := ok, sumFails := if ok then 0 else x.sumFails + 1, baseline := rd.cells }
    let x := (x.noteSuspects rd.cells).permit rd.cells
    let x := { x with checkNext := x.checkNext || (x.waking && !x.check) }
    let s := { s with sap := x }
    let cells : Vector Cell 14 := Vector.ofFn (fun k => { x.cells[k] with eligible := s.eligibleNow rd.cells k })
    let s := ({ s with sap := { x with cells := cells } }).holdBus
    if 3 ≤ x.sumFails then s.measurementFault rd else s)

/-- BALANCING_SLOT (R392–R394): once the window has closed, the eligible cell of the slot's parity that lies farthest from the mean is connected to the shuttle. -/
def execBalancingSlot (odd : Bool) (s : State) : Answer :=
  let x := s.sap
  let turn : Bool := x.oddFirst == (x.slotsDone % 2 == 0)
  .next (if !x.awake ∨ x.check ∨ x.converting ∨ 7 ≤ x.slotsDone ∨ odd ≠ turn then s
  else
    let ks := (List.finRange 14).filter (fun k => decide (k.val % 2 = 0) == odd && x.cells[k].eligible && s.mayBalance k)
    let best := ks.foldl (fun (r : Option (Fin 14)) (k : Fin 14) => match r with
      | none => some k
      | some j => if (x.deviation x.baseline j).natAbs < (x.deviation x.baseline k).natAbs then some k else some j) none
    { s with sap := { x with slotsDone := x.slotsDone + 1, shuttle := match best with
      | some k => k.val + 1
      | none => 0 } })

/-! ## Classification (R396–R399) -/

/-- Taps 1–13 whose apparent voltage has moved by more than 200 mV between the windows (R396). -/
def openTaps (base now : List Nat) : List Nat :=
  (List.range 13).filterMap (fun i =>
    let a : Int := ((base.take (i + 1)).sum : Nat)
    let b : Int := ((now.take (i + 1)).sum : Nat)
    if 200 < (a - b).natAbs then some (i + 1) else none)

/-- The response of R398 to an open tap: each cell of the pair shows half the pair's reading from then on. -/
def State.openTapAt (s : State) (k : Nat) : State :=
  let half : Nat := ((s.sap.cells[k - 1]?.map (fun c => c.mv)).getD 0 + (s.sap.cells[k]?.map (fun c => c.mv)).getD 0) / 2
  let cells : Vector Cell 14 := Vector.ofFn (fun j =>
    if j.val + 1 = k ∨ j.val = k then { s.sap.cells[j] with mv := half, inPair := true, dis := true, eligible := false } else s.sap.cells[j])
  let s := ({ s with sap := { s.sap with openTap := k, cells := cells } }).setCeiling 52900
  (s.record 0x41 .fault false k []).record 0x42 .warning false k []

/-- The response of R398 ends, and the pair's cells show their own readings again. -/
def State.endOpenTap (s : State) (base : List Nat) : State :=
  let cells : Vector Cell 14 := Vector.ofFn (fun j =>
    if s.sap.cells[j].inPair then { s.sap.cells[j] with mv := base[j.val]?.getD 0, inPair := false, dis := s.sap.cells[j].swFail } else s.sap.cells[j])
  ({ s with sap := { s.sap with openTap := 0, cells := cells } }).setCeiling 53200

/-- An open tap that was not known: recorded only while LOCKED_OUT; the store's service ends for a second one, or where a cell lies
outside its absolute limits on Heartwood's ladder; otherwise the response of R398 (R398, R399, R404). -/
def State.foundTap (s : State) (k : Nat) (outsideAbs : Bool) : State :=
  let s := ({ s with sap := { s.sap with tapsFound := addNat s.sap.tapsFound k } }).flag sapErr 1
  if s.sap.state = .lockedOut then s.record 0x41 .fault false k []
  else if (s.sap.openTap ≠ 0 ∨ s.sap.state = .connected) ∧ outsideAbs then
    ((s.record 0x41 .fault false k []).report 2 0x5000).lockStore .tapOutside
  else if s.sap.openTap ≠ 0 then ((s.record 0x41 .fault false k []).report 1 0x6000).lockStore .secondTap
  else s.openTapAt k

/-- A genuine cell fault (R397). -/
def State.cellFault (s : State) (k : Fin 14) (mv : Nat) : State :=
  if s.sap.lockout = some .cellFault then s
  else
    let s := s.flag sapErr 2
    let s := s.record 0x43 .fault false (k.val + 1) (natLe 2 mv)
    (s.report 2 0x5000).lockStore .cellFault

/-- The first check scan of a power-on, where it passes, ends a known open-tap response, and the lockout of a second open tap (R398,
R399). -/
def State.firstCheck (s : State) (taps : List Nat) (base : List Nat) : State :=
  if !s.sap.fresh then s
  else
    let s := { s with sap := { s.sap with fresh := false } }
    let s := if s.sap.openTap ≠ 0 ∧ taps.isEmpty then s.endOpenTap base else s
    if s.sap.lockout = some .secondTap ∧ taps.isEmpty ∧ base.all (fun v => decide (2500 ≤ v ∧ v ≤ 3800)) then
      let s := { s with sap := { s.sap with lockout := none, state := if s.sap.state = StoreState.lockedOut then StoreState.isolated else s.sap.state } }
      s.record 0x42 .warning false 0 []
    else s

/-- Cells held for classification are held no longer, and charging is free again (R396, R397). -/
def Store.classified (x : Store) : Store :=
  { x with suspect := false, suspectCell := 0, suspectMv := 0, cells := x.cells.map (fun (c : Cell) => { c with held := false }) }

/-- Table: Classification of abnormal readings, for a check scan whose sum check has passed: taps not known before are found, a cell outside its
limits is a fault while no tap but the known one is open (R397). -/
def State.classify (s : State) (taps base : List Nat) (outsideAbs : Bool) : State :=
  let s := s.firstCheck taps base
  let news := taps.filter (fun k => k != s.sap.openTap && !s.sap.tapsFound.contains k)
  let s := { s with sap := { s.sap with tapsFound := s.sap.tapsFound.filter (fun k => taps.contains k) } }
  let bad := if taps.all (fun k => k == s.sap.openTap) then (List.finRange 14).filter (fun k => s.sap.outside base k) else []
  let s :=
    if !news.isEmpty then news.foldl (fun (s : State) (k : Nat) => s.foundTap k outsideAbs) s
    else match bad with
      | k :: _ => s.cellFault k (base[k.val]?.getD 0)
      | [] =>
        if s.sap.suspect ∧ taps.all (fun k => k == s.sap.openTap) then s.record 0x46 .warning true s.sap.suspectCell (natLe 2 s.sap.suspectMv) else s
  ({ s with sap := s.sap.classified.permit base }).holdBus

/-- CHECK_SCAN_WINDOW (R396–R399, R401, R404, R558): the second window of a check scan, after the first has closed; the scan has no balancing slots. While its sum check, or that of the scan before it, fails nothing is
classified and the next scan is a check scan again, which classifies by its own sum check (log 140); a waking monitor then releases its sleep line and reports awake. -/
def execCheckScanWindow (rd : CellReadings) (outsideAbs : Bool) (s : State) : Answer :=
  .next (if (!s.sap.awake ∧ !s.sap.waking) ∨ !s.sap.check ∨ s.sap.converting ∨ rd.cells.length ≠ 14 ∨ s.sap.baseline.length ≠ 14 then s
  else
    let base := s.sap.baseline
    let taps := openTaps base rd.cells
    let ok := s.sap.sumOk && (s.sap.sumWas || s.sap.recheck)
    let s := { s with sap := { s.sap with check := false, slotsDone := 7, recheck := !ok } }
    let s := if ok then s.classify taps base outsideAbs
      else { s with sap := { s.sap with suspect := true, chargeBlocked := true, checkNext := true } }
    let s := if s.sap.waking then
        { s with sap := { s.sap with waking := false, awake := true, pulsing := true, fell := false }, start := { s.start with monitorDone := true } }
      else s
    if s.svc.test = some .cell then
      s.endTest (base.zipIdx.map (fun e => (decide (2500 ≤ e.1 ∧ e.1 ≤ 3800), " cell " ++ decText (e.2 + 1) ++ " " ++ fixText 3 e.1 ++ "V")) ++
        [(s.sap.sumOk, " stack " ++ fixText 3 s.sap.stackMv ++ "V sum " ++ decText base.sum ++ "mV"),
         (taps.isEmpty, taps.foldl (fun t k => t ++ " " ++ decText k) " open taps")])
    else s)

/-! ## The switch test (R395) -/

/-- What the switch test finds of one pair: 0 sound, 1 stuck open, 2 stuck closed (R395). -/
def switchFinding (t : SwitchTest) : Nat :=
  if 5000 < t.tapUa then 2
  else if 400 ≤ t.shuttleMa ∧ t.shuttleMa ≤ 600 ∧ t.deltaMv < 20 then 0
  else 1

/-- The line of a pair: currents, voltage change and leak at its tap (R395, R558). -/
def switchPart (e : SwitchTest × Nat) : Bool × String :=
  (switchFinding e.1 == 0, " pair " ++ decText (e.2 + 1) ++ " " ++ decText e.1.shuttleMa ++ "mA " ++ decText e.1.deltaMv ++ "mV " ++ decText e.1.tapUa ++ "uA")

/-- One cell's finding (R395). -/
def State.noteSwitch (s : State) (k : Fin 14) (t : SwitchTest) : State :=
  let f := switchFinding t
  if f = 0 then s
  else
    let c := s.sap.cells[k]
    let s := { s with sap := { s.sap with
      stackStop := s.sap.stackStop || decide (f = 2)
      cells := s.sap.cells.set k { c with swFail := true, eligible := false, dis := c.dis || decide (f = 1) } } }
    (s.flag sapErr 4).record 0x40 .warning false (k.val + 1) (natLe 1 f)

/-- BALANCING_SWITCH_TEST (R394, R395, R404, R558): the test of the fourteen pairs; a check scan that falls due with it runs first, and a
suspect scan puts it off until after classification. -/
def execBalancingSwitchTest (res : List SwitchTest) (s : State) : Answer :=
  .next (if !s.sap.awake ∨ res.length ≠ 14 then s
  else if s.sap.check ∨ s.sap.suspect then { s with sap := { s.sap with testDue := true } }
  else
    let s := { s with sap := { s.sap with testDue := false, shuttle := 0 } }
    let s := (List.finRange 14).foldl (fun (s : State) (k : Fin 14) =>
      match res[k.val]? with
      | some t => s.noteSwitch k t
      | none => s) s
    if s.svc.test = some .balance then s.endTest (res.zipIdx.map switchPart) else s)

/-! ## Sleep and waking (R400, R401) -/

/-- Crown sees that the monitor has slept (R400). -/
def State.seeSleep (s : State) : State :=
  if s.sap.slept then ({ s with sap := { s.sap with slept := false } }).flag sapErr 6 else s

/-- MONITOR_MESSAGE (R400): the per-scan exchange; Crown reads the block. -/
def execMonitorMessage (s : State) : Answer := .next (if s.sap.awake ∧ s.crown.running then s.seeSleep else s)

/-- MONITOR_SLEEP (R389, R400, R404): the monitor stops balancing, tests and check scans, and asserts its sleep line, on which Heartwood
opens the store switches; a bleed goes on. -/
def execMonitorSleep (s : State) : Answer :=
  .next (if !s.sap.awake ∧ !s.sap.waking then s
  else
    let s := { s with sap := { s.sap with
      awake := false, waking := false, pulsing := false, slept := true, fell := s.sap.fell || s.sap.awake, shuttle := 0, converting := false, check := false
      checkNext := s.sap.checkNext || (s.sap.check && s.sap.suspect)
      cells := s.sap.cells.map (fun (c : Cell) => { c with eligible := false }) } }
    let s := s.isolate.reviewCaps
    if s.svc.test = some .cell ∨ s.svc.test = some .balance then s.endTest [(false, " monitor asleep")] else s)

/-- MONITOR_WAKE_MESSAGE (R400, R401): a full scan and a check scan run before the monitor reports awake. -/
def execMonitorWakeMessage (s : State) : Answer :=
  .next (if s.sap.awake ∨ s.sap.waking ∨ s.stage = .unpowered ∨ s.stage = .stage0 then s
  else { s.seeSleep with sap := { s.seeSleep.sap with waking := true, check := false, checkNext := false, scans := 0 } })

/-! ## Draining (R403) -/

/-- The STORE indicator flashes: it is lit, and a drain runs (R402). -/
def Store.flashing (x : Store) : Bool := x.lit && (x.bleed || x.drain.isSome)

/-- A drain starts: with the energy returned to the bus first, or with the switches opened and the bleed on at once (R389, R403). -/
def State.startDrain (s : State) (returning : Bool) : State :=
  match s.sap.state with
  | .draining => s
  | .drained => s
  | st =>
    let d : Drain := { fromLocked := decide (st = .lockedOut), lockArose := false, returning := returning, watts := 0, slope := 0 }
    let s := { s with sap := { s.sap with
      state := .draining, drain := some d, drained := false
      cells := s.sap.cells.map (fun (c : Cell) => { c with eligible := false }) } }
    (if returning then s else s.isolate).reviewCaps

/-- DRAIN_BUTTON (R403, R404): the button needs no supply but the stack's. -/
def execDrainButton (s : State) : Answer := .next (s.startDrain false)

/-- DRAIN_RETURN_END (R403): the stack has come down to 36.0 V, the switches open and the bleed takes over. -/
def execDrainReturnEnd (s : State) : Answer :=
  .next (match s.sap.drain with
  | some d => if d.returning then s.isolate.reviewCaps else s
  | none => s)

/-- BLEED_END (R389, R403): the stack has reached 32.2 V, and the bleed path switches itself off. -/
def execBleedEnd (s : State) : Answer :=
  .next (if !s.sap.bleed then s
  else
    let locked : Bool := match s.sap.drain with
      | some d => d.fromLocked || d.lockArose
      | none => s.sap.lockout.isSome
    let st : StoreState := if s.sap.state = .draining then (if locked then .lockedOut else .drained) else s.sap.state
    { s with sap := { s.sap with bleed := false, drained := true, drain := none, state := st, lit := false } })

end Sys2Proof.Machine
end

