-- ==== Sys2Proof/Machine/Hwd.lean ====
section
/-! DEFINITION. Heartwood's trips, ceilings and watches (15_heartwood.md). A trip's row is the end of its filter; Heartwood acts while it
is powered and clocked. -/

namespace Sys2Proof.Machine

open Sys2Proof

/-- A trip acts while Heartwood runs: it is recorded, and its outcome applies (R444, R447, R456). -/
def State.onTrip (s : State) (code index : Nat) (act : State → State) : State :=
  if s.hwdOn then act (s.trip code index) else s

/-! ## Demand, rails, temperatures -/

/-- DEMAND_ABOVE_CEILING: trip 0x01 (R444, R446). -/
def execDemandAboveCeiling (s : State) : Answer := .next (s.onTrip 0x01 0 (fun s => s.limitTripAll 0x01))

/-- DEMAND_FAR_ABOVE_CEILING: trip 0x02 (R444, R446). -/
def execDemandFarAboveCeiling (s : State) : Answer := .next (s.onTrip 0x02 0 (fun s => s.safe 0x02))

/-- CORE_MEAN_ABOVE_CEILING: trip 0x03 (R444, R446). -/
def execCoreMeanAboveCeiling (d : Fin 4) (s : State) : Answer := .next (s.onTrip 0x03 d.val (fun s => s.limitTrip [d] 0x03))

/-- CORE_OVERVOLTAGE_CROWBAR: trip 0x04 (R353, R444, R446, R456). -/
def execCoreOvervoltageCrowbar (d : Fin 4) (s : State) : Answer :=
  .next (s.onTrip 0x04 d.val (fun s => (s.crowbar (coreRail d)).dieOffTrip d))

/-- CORE_UNDERVOLTAGE_TRIP: trip 0x05, once the rail is armed (R350, R444, R446). -/
def execCoreUndervoltageTrip (d : Fin 4) (s : State) : Answer :=
  .next (if s.power.rails[coreRail d].armed then s.onTrip 0x05 d.val (fun s => s.dieOffTrip d) else s)

/-- VLINK_OUT_OF_RANGE: trip 0x06, once the rail is armed (R350, R444, R446). -/
def execVlinkOutOfRange (d : Fin 4) (s : State) : Answer :=
  .next (if s.power.rails[linkRail d].armed then s.onTrip 0x06 d.val (fun s => s.dieOffTrip d) else s)

/-- VDRAM_OVERVOLTAGE_CROWBAR: trip 0x07 (R353, R444, R446). -/
def execVdramOvervoltageCrowbar (s : State) : Answer := .next (s.onTrip 0x07 0 (fun s => (s.crowbar 4).safe 0x07))

/-- VDRAM_UNDERVOLTAGE_TRIP: trip 0x08 (R350, R444, R446). -/
def execVdramUndervoltageTrip (s : State) : Answer :=
  .next (if s.power.rails[4].armed then s.onTrip 0x08 0 (fun s => s.safe 0x08) else s)

/-- TWELVE_V_OVERVOLTAGE: trip 0x09 (R353, R444, R446). -/
def execTwelveVOvervoltage (s : State) : Answer := .next (s.onTrip 0x09 0 (fun s => (s.crowbar 9).safe 0x09))

/-- TWELVE_V_UNDERVOLTAGE: trip 0x0A (R350, R444, R446). -/
def execTwelveVUndervoltage (s : State) : Answer :=
  .next (if s.power.rails[9].armed then s.onTrip 0x0A 0 (fun s => s.safe 0x0A) else s)

/-- What a rail that has failed to start brings to the start under way, or, for the precharge path, to the store; a core rail that has latched off is
the loss of its die (R350, R351, R386, R468). -/
def State.startLost (s : State) (r : Fin 11) (latched : Bool) : State :=
  if r = 10 then (if latched then s else s.isolate)
  else if s.stage ≠ .stage2 ∧ s.stage ≠ .entry then s
  else
    let n := if s.stage = .stage2 then 2 else 3
    if h : r.val < 4 then (if latched then s.loseDie ⟨r.val, h⟩ else s).failStart n 7 else if r = 4 ∨ r = 9 then s.failStart n 4 else s.failStart n 5

/-- RAIL_START_FAILURE: trip 0x0B, for a latch report or the 400 ms start timeout of a rail that has not reported power-good (R350, R351,
R446, R468). -/
def execRailStartFailure (r : Fin 11) (s : State) : Answer :=
  let x := s.power.rails[r]
  .next (if x.enabled ∧ !x.armed then
    s.onTrip 0x0B r.val (fun s => (s.railOff r).startLost r (decide (x.state = .latched)))
  else s)

/-- POWER_STAGE_TRIP: trip 0x0C: a core or link rail's die goes off; VDRAM or the 12 V rail brings SAFE (R446, R583). -/
def execPowerStageTrip (r : Fin 11) (s : State) : Answer :=
  .next (if r = 10 then s
  else s.onTrip 0x0C r.val (fun s =>
    if h : r.val < 4 then s.dieOffTrip ⟨r.val, h⟩
    else if h : 5 ≤ r.val ∧ r.val < 9 then s.dieOffTrip ⟨r.val - 5, by omega⟩
    else s.safe 0x0C))

/-- DIE_OVER_TEMPERATURE: trip 0x0D (R444, R446). -/
def execDieOverTemperature (d : Fin 4) (s : State) : Answer := .next (s.onTrip 0x0D d.val (fun s => s.dieOffTrip d))

/-- COOLANT_OUTLET_TRIP: trip 0x0E (R444, R446, R456). -/
def execCoolantOutletTrip (s : State) : Answer := .next (s.onTrip 0x0E 0 (fun s => s.dieOffAll))

/-! ## The store -/

/-- CELL_OVERVOLTAGE_TRIP: trip 0x0F (R444, R446, R456). -/
def execCellOvervoltageTrip (s : State) : Answer := .next (s.onTrip 0x0F 0 (fun s => s.isolateTrip))

/-- CELL_UNDERVOLTAGE_TRIP: trip 0x10 (R442, R444, R446, R456). -/
def execCellUndervoltageTrip (s : State) : Answer := .next (s.onTrip 0x10 0 (fun s => s.isolateTrip))

/-- STACK_OVERVOLTAGE_TRIP: trip 0x11 (R444, R446, R456). -/
def execStackOvervoltageTrip (s : State) : Answer := .next (s.onTrip 0x11 0 (fun s => s.isolateTrip))

/-- STORE_OVERCURRENT_TRIP: trip 0x12 (R444, R446, R456). -/
def execStoreOvercurrentTrip (s : State) : Answer := .next (s.onTrip 0x12 0 (fun s => s.isolateTrip))

/-- STORE_OVER_TEMPERATURE_TRIP: trip 0x13 (R444, R446, R456). -/
def execStoreOverTemperatureTrip (s : State) : Answer := .next (s.onTrip 0x13 0 (fun s => s.isolateTrip))

/-- CELL_MONITOR_TRIP: trip 0x14, of a monitor that is awake and sends no scan pulses, or that was awake when it asserted its sleep line (R400, R444, R446, R454). -/
def execCellMonitorTrip (s : State) : Answer :=
  .next (if s.sap.awake ∨ s.sap.fell then
    s.onTrip 0x14 0 (fun s => ({ s with sap := { s.sap with fell := false, pulsing := false } }).isolateTrip)
  else s)

/-- STORE_SWITCH_MISMATCH: trip 0x16 (R444, R446); which switch it is leaves no other trace. -/
def execStoreSwitchMismatch (_swB : Bool) (s : State) : Answer :=
  .next (s.onTrip 0x16 0 (fun s =>
    let s := s.isolateTrip
    { s with hwd := { s.hwd with refuseConnect := true } }))

/-! ## Crown's strobe (R454) -/

/-- CROWN_STROBE_LOSS: trip 0x15, once a strobe has armed the watch: FREEZE, and a HOLD that Crown has not entered becomes LIMIT (R446,
R454). -/
def execCrownStrobeLoss (s : State) : Answer :=
  .next (if !s.hwd.watch ∨ s.hwd.freeze then s
  else s.onTrip 0x15 0 (fun s =>
    let s := { s with hwd := { s.hwd with freeze := true, strobe := false } }.flag hwdTrip 6
    if s.hwd.holdReq && !s.budget.hold then s.limitTripAll 0x18 else s))

/-- CROWN_STROBE (R412, R444, R446, R454): the watch restarts and FREEZE ends; raises that it refused are made, in ascending die order, as far as the
check passes; a HOLD still asked for is entered. -/
def execCrownStrobe (s : State) : Answer :=
  .next (if !s.crown.running ∨ !s.hwdOn then s
  else
    let was := s.hwd.freeze
    let s := { s with hwd := { s.hwd with watch := true, strobe := true, freeze := false } }
    if !was then s
    else
      let s := ((List.finRange 4).foldl (fun (acc : State × (ℚ × ℚ)) (d : Fin 4) =>
        if acc.1.power.cores[d].forced then acc else acc.1.raiseTo d (min acc.1.power.cores[d].asked (acc.1.boundPoint d)) acc.2) (s, ((0 : ℚ), (0 : ℚ)))).1
      s.takeHold)

/-! ## The bus (R448, R449) -/

/-- Loss of the store's help in Stage 3 start-up: the entry is abandoned (R481). -/
def State.starting (s : State) : Bool := decide (s.stage = .stage2 ∨ s.stage = .entry)

/-- CONVERTER_FAULT (R330, R432, R481, R586): a running converter opens its output; Crown's ceiling falls with the converters left, and
with one or none the module quiesces as for loss of the bus, or abandons the entry under way. -/
def execConverterFault (c : Fin 4) (overTemp : Bool) (s : State) : Answer :=
  .next (if !s.power.convOn[c] then s
  else
    let s := ({ s with power := { s.power with convFault := s.power.convFault.set c true } }).updateConv
    let s := (s.flag pwrErr 3).record 0x30 .fault false c.val [if overTemp then 2 else 1]
    if 2 ≤ s.convCount then (s.report 0x0001 (0x4000 + c.val)).reviewCaps
    else if s.starting then s.abandonEntry
    else s.beginQuiesce .busLoss)

/-- BUS_DIP: trip 0x17 (R446, R448, R449, R456, R481); `mv` is the lowest bus voltage in mV. -/
def execBusDip (mv : Nat) (s : State) : Answer :=
  .next (if s.hwd.dip then s
  else s.onTrip 0x17 0 (fun s =>
    let s := { s with
      hwd := { s.hwd with dip := true, dips := min 65535 (s.hwd.dips + 1), busGood := false }
      sap := { s.sap with following := false } }.holdBus.flag hwdTrip 4
    let s := if s.crown.running then s.record 0x54 .warning true 0 (natLe 2 (mv / 10)) else s
    let s := if s.sap.state = .connected then s else (s.trip 0x18 0).askHold 0x18
    if s.starting then s.abandonEntry else s))

/-- DIP_PROLONGED: trip 0x18 (R431, R446, R448, R454). -/
def execDipProlonged (s : State) : Answer :=
  .next (if s.hwd.dip then s.onTrip 0x18 0 (fun s => s.askHold 0x18) else s)

/-- BUS_LOSS: trip 0x19: the input switch opens; LIMIT and then the hold; without the store every die of a running module goes off
(R431, R446, R449, R454, R456, R481). -/
def execBusLoss (s : State) : Answer :=
  .next (s.onTrip 0x19 0 (fun s =>
    let s := { s with hwd := { s.hwd with inputClosed := false, busGood := false } }
    let runs : Bool := decide (s.stage = .stage3 ∨ s.stage = .quiescing)
    if runs ∧ s.sap.state ≠ .connected then s.dieOffAll
    else
      let s := (s.limitTripAll 0x19).askHold 0x19
      if s.starting then s.abandonEntry else s))

/-- BUS_NODE_OVERVOLTAGE: trip 0x1A (R444, R446). -/
def execBusNodeOvervoltage (s : State) : Answer :=
  .next (s.onTrip 0x1A 0 (fun s => ({ s with hwd := { s.hwd with inputClosed := false } }).safe 0x1A))

/-- DIP_END (R444, R448): the bus has stayed at or above 44 V for 100 µs. -/
def execDipEnd (s : State) : Answer := .next { s with hwd := { s.hwd with dip := false }, sap := { s.sap with holding := false } }

/-- INPUT_SWITCH_RECLOSE (R444, R445, R449, R479): the bus has stayed at or above 44 V for 100 ms, which ends the condition of a HOLD that Crown has
not entered, and the switch closes where the module has not quiesced. -/
def execInputSwitchReclose (s : State) : Answer :=
  let s := { s with hwd := { s.hwd with busGood := true, holdReq := s.hwd.holdReq && s.budget.hold } }
  .next (if !s.hwd.inputClosed ∧ (s.stage = .stage3 ∨ s.stage = .quiescing) ∧ s.mayEnable then { s with hwd := { s.hwd with inputClosed := true } } else s)

/-- LIMIT_RELEASE (R445): the cause of a trip's LIMIT on a die has cleared; one that replaced a HOLD, or that a bus loss brought, is released once
FREEZE has ended and the hold is in force or the bus is back. -/
def execLimitRelease (code : BitVec 8) (d : Fin 4) (s : State) : Answer :=
  .next (if !s.hwd.limit[d].contains code.toNat then s
  else if (code = 0x18 ∨ code = 0x19) ∧ (s.hwd.freeze ∨ (!s.budget.hold ∧ !s.hwd.busGood)) then s
  else
    let s := s.releaseLimit d code.toNat
    if (code = 0x18 ∨ code = 0x19) ∧ !s.budget.hold ∧ !s.hwd.dip ∧ s.hwd.busGood then
      { s with hwd := { s.hwd with holdReq := false } } else s)

/-! ## VAUX and the tray (R451–R453) -/

/-- TRAY_REMOVAL: trip 0x1B: the sequence of Table: Tray removal, after which the Heartwood domain has lost its supply (R312, R313, R404,
R453, R461, R481). -/
def execTrayRemoval (pinB : Bool) (s : State) : Answer :=
  let s := { s with hwd := { s.hwd with
    prsA := s.hwd.prsA && pinB, prsB := s.hwd.prsB && !pinB, settled := false, startPath := false } }
  .next (if s.stage = .unpowered then { s with start := { s.start with hwdReset := false } }
  else
    let s := if s.hwdOn then (s.tripBy false 0x1B 0).flag hwdTrip 8 else s
    ({ s with hwd := { s.hwd with removed := true }, start := { s.start with hwdReset := false } }).powerOff)

/-- BROWNOUT_WARNING: trip 0x1C (R446, R450, R451, R542). -/
def execBrownoutWarning (s : State) : Answer :=
  .next (if s.hwd.brownout then s
  else s.onTrip 0x1C 0 (fun s =>
    let h := s.hwd
    let s := { s with hwd := { h with brownout := true, mark := true, brownouts := min 65535 (h.brownouts + 1) } }.flag hwdWarn 1
    let s := if s.crown.running then s.record 0x05 .warning true 0 [] else s
    if s.log.mode = .recording then { s with log := { s.log with mode := .suspended, resume := .recording } } else s))

/-- BROWNOUT_END (R451, R542–R544): flash programming resumes, fillers that waited for it are written, and a forced flush that found the partition
full goes on. -/
def execBrownoutEnd (s : State) : Answer :=
  .next (if !s.hwd.brownout then s
  else
    let s := ({ s with hwd := { s.hwd with brownout := false, mark := false } }).writeFillers
    let s := if s.log.mode = .suspended then { s with log := { s.log with mode := s.log.resume } } else s
    if s.log.forced then s.flushLog false else s)

/-- HEARTWOOD_RESET: trip 0x1D, whose entry waits for the next Stage 1 to be copied: Heartwood's logic resets, a stopped clock's too, and its
outputs take the fail-safe state; the next start is a power-on from Stage 0. Where VAUX has fallen because the bus is absent, the Heartwood domain
loses its supply too, and that start is one by the bus (R446, R447, R452, R460, R582; log 168). -/
def execHeartwoodReset (s : State) : Answer :=
  .next (if s.stage = .unpowered then s
  else
    let fed := s.hwd.inputClosed
    let s := (if s.hwdOn then s.tripBy false 0x1D 0 else s).powerOff
    { s with start := { s.start with hwdReset := s.hwd.busGood || fed } })

/-- CHANNEL_DISAGREEMENT: trip 0x1E, for decisions or for references: the channels no longer agree (R439, R444, R446). -/
def execChannelDisagreement (_refs : Bool) (s : State) : Answer :=
  .next (s.onTrip 0x1E 0 (fun s =>
    let s := s.safe 0x1E
    { s with hwd := { s.hwd with chanA := false, chanB := false } }))

/-- HWD_CLOCK_FAILURE: trip 0x1F: the fail-safe state of R438 (R439, R446). -/
def execHwdClockFailure (s : State) : Answer :=
  .next (s.onTrip 0x1F 0 (fun s =>
    let s := s.failSafe
    let s := { s with
      hwd := { s.hwd with clockBad := true }
      hq := { s.hq with stopped := true }
      budget := { s.budget with quiesce := none, hold := false, stopped := some (.safe 0x1F) } }
    { s with stage := .failed }))

/-! ## Ceilings (R441–R443) -/

/-- Crown's range of a ceiling (Table: Heartwood ceilings). -/
def ceilRange (k : Fin 8) : Nat × Nat :=
  [(100, 600), (600, 850), (90, 110), (50, 65), (3800, 3950), (2250, 2500), (50000, 53800), (39500, 45000)][k.val]?.getD (0, 0)

/-- CEILING_WRITE (R14, R416, R441–R443, R457, R586): Crown tightens a ceiling; a write that would loosen one, or leave its range, is ignored with a
warning and a locked-write record. Crown tightens ceiling 5 only with the store CONNECTED and every cell at or above 2.50 V. -/
def execCeilingWrite (k : Fin 8) (v : BitVec 16) (s : State) : Answer :=
  let n := v.toNat
  let r := ceilRange k
  let tight : Bool := if k = 5 ∨ k = 7 then decide (s.hwd.ceil[k] ≤ n) else decide (n ≤ s.hwd.ceil[k])
  let allowed : Bool := k ≠ 5 || (decide (s.sap.state = .connected) && s.sap.cells.toList.all (fun c => decide (2500 ≤ c.mv)))
  .next (if !s.crown.running ∨ !s.hwdOn then s
  else if r.1 ≤ n ∧ n ≤ r.2 ∧ tight then
    if allowed then ({ s with hwd := { s.hwd with ceil := s.hwd.ceil.set k n } }).reviewCaps else s
  else (s.flag hwdWarn 2).record 0x0A .warning true (0x70020 + 4 * k.val) (natLe 4 n))

end Sys2Proof.Machine
end

