-- ==== Sys2Proof/Machine/Budget.lean ====
section
/-! DEFINITION. Crown's power budget: hints, evaluations, ageing, shares, caps, the thermal loop, ballast and the hold
(14_power_budget_thermal.md). -/

namespace Sys2Proof.Machine

open Sys2Proof

/-! ## Hints (R413) -/

/-- HINT (R216, R413): it is checked and completes with OK, and Crown holds it until its window ends; a demand above the share takes away
the charge loop's headroom. -/
def execHint (q : Fin 64) (s : State) : Answer :=
  .next (match s.front q 5 with
  | none => s
  | some d =>
    match firstInvalid (hintChecks d.desc) with
    | some off => s.complete q (invalidAt off)
    | none =>
      let p := dfield d.desc 2 1
      let start := s.clk.us + dfield d.desc 12 4
      let h : Hint :=
        { pref := if h : p < 8 then some ⟨p, h⟩ else none, demand := dfield d.desc 8 4, from_ := start
          until_ := start + dfield d.desc 16 4, dies := BitVec.ofNat 4 (dfield d.desc 20 1), active := false }
      (({ s with hq := { s.hq with hints := s.hq.hints ++ [h] } }).newEnergy).complete q (plain 0))

/-- HINT_WINDOW_START (R411, R413). -/
def execHintWindowStart (i : Nat) (s : State) : Answer :=
  .next (match s.hq.hints[i]? with
  | some h => ({ s with hq := { s.hq with hints := s.hq.hints.set i { h with active := true } } }).evaluate
  | none => s)

/-- HINT_WINDOW_END (R411, R413). -/
def execHintWindowEnd (i : Nat) (s : State) : Answer :=
  .next (if (s.hq.hints[i]?).isSome then (({ s with hq := { s.hq with hints := s.hq.hints.eraseIdx i } }).newEnergy).evaluate else s)

/-! ## Evaluation (R410–R412, R586) -/

/-- What an evaluation measures: die power and busy fractions, demand, and the currents and voltages of the rails (R355, R412). -/
def State.measure (s : State) (m : PowerMeasure) : State :=
  { s with
    budget := { s.budget with
      pdie := Vector.ofFn (fun d => m.pdie[d.val]?.getD 0), demPeak := m.demPeak, demMean := m.demMean
      busy := Vector.ofFn (fun d => m.busy[d.val]?.getD 0) }
    power := { s.power with rails := Vector.ofFn (fun r =>
      { s.power.rails[r] with current := m.amps[r.val]?.getD 0, vout := m.volts[r.val]?.getD 0 }) } }

/-- OP_EVALUATION (R209, R339, R347, R408, R410–R412, R415, R416, R424–R426, R586). -/
def execOpEvaluation (m : PowerMeasure) (s : State) : Answer :=
  .next (if s.crown.running then (s.measure m).evaluate else s)

/-- IDLE_DIE_TIMEOUT (R410): 10 ms after a die's last launch has ended, it no longer keeps its point. -/
def execIdleDieTimeout (d : Fin 4) (s : State) : Answer :=
  .next (if s.hq.launches.any (fun l => l.onDie d) then s
  else ({ s with budget := { s.budget with lingering := s.budget.lingering.set d false } }).evaluate)

/-! ## Ageing (R414, R415) -/

/-- AGEING_MARGIN_REPORT (R414): the lowest margin of the period, in 1/1000, is kept for the die. -/
def execAgeingMarginReport (d : Fin 4) (_region : Fin 5) (permille : Int) (s : State) : Answer :=
  let low := match s.budget.margin[d] with
    | some m => min m permille
    | none => permille
  .next { s with budget := { s.budget with margin := s.budget.margin.set d (some low) } }

/-- Delta of a trim in mV, from the lowest margin in 1/1000 and the trims in a row above 8 %, this one among them (R414). -/
def trimDelta (m : Int) (above : Nat) : Int :=
  if m < 20 then 10 else if m ≤ 40 then 5 else if 7 ≤ above then -5 else 0

/-- The trims of R415: OP7 is withdrawn where the trim stands at +30 mV and the margin is still below 4 %, then OP6 where it is still
below 2 %. -/
def State.withdraw (s : State) (d : Fin 4) (m : Int) : State :=
  if s.budget.trim[d] < 30 then s
  else if s.budget.top[d] = 7 ∧ m < 40 then
    let s := { s with budget := { s.budget with top := s.budget.top.set d 6 } }
    ((s.record 0x50 .warning false d.val [BitVec.ofInt 8 s.budget.trim[d]]).report 1 (0x1000 + d.val)).evaluate
  else if s.budget.top[d] = 6 ∧ m < 20 then
    ({ s with budget := { s.budget with top := s.budget.top.set d 5 } }).evaluate
  else s

/-- AGEING_TRIM (R338, R341, R409, R414, R415): one trim delta for the eight stored values of a die; it waits while a pin change is in progress. -/
def execAgeingTrim (d : Fin 4) (s : State) : Answer :=
  let c := s.power.cores[d]
  .next (if !s.crown.running ∨ (c.slewing ∧ !c.trimSlew) then s
  else match s.budget.margin[d] with
    | none => s
    | some m =>
      let above := if 80 < m then s.budget.above8[d] + 1 else 0
      let old := s.budget.trim[d]
      let new : Int := max (-30) (min 30 (old + trimDelta m above))
      let s := s.withdraw d m
      let s := { s with budget := { s.budget with
        above8 := s.budget.above8.set d above, margin := s.budget.margin.set d none, trim := s.budget.trim.set d new } }
      if new = old then s
      else (List.finRange 8).foldl (fun (s : State) (k : Fin 8) =>
        s.storeVop d k (min 850 (((s.power.cores[d].vop[k] : Nat) : Int) + (new - old)).toNat)) s)

/-! ## The rack share (R416–R421) -/

/-- The share in force, which slot 1 of the loop engine takes as its upper limit (R416). -/
def State.setShareValue (s : State) (w : Nat) : State :=
  let slots := s.le.slots.map (fun (x : Slot) => { x with values := { x.values with share := w } })
  { s with budget := { s.budget with share := w }, le := { s.le with slots := slots } }

/-- The fallback fraction of a power (R419, Table: PWR_BUDGET_CFG fields). -/
def State.fraction (s : State) (w : Nat) : Nat := w * (bits (s.mreg pwrBudgetCfg) 11 9 + 1) / 8

/-- The default mode of PWR_BUDGET_CFG.smooth (R421). -/
def State.defaultSmooth (s : State) : Nat := bits (s.mreg pwrBudgetCfg) 5 4

/-- Until the first share arrives, the share is the fallback fraction of 5000 W, with the default mode (R419, R421). -/
def State.firstShare (s : State) : State :=
  if s.budget.source = 0 then
    ({ s with budget := { s.budget with smooth := s.defaultSmooth } }).setShareValue (s.fraction 5000)
  else s

/-- PWR_BUDGET_CFG has been written: before the first share Crown's share and mode follow it, during fallback the mode does (R419, R421). -/
def State.followCfg (s : State) : State :=
  if !s.crown.running then s
  else if s.budget.source = 0 then (s.firstShare.newEnergy).reviewFall s
  else if s.budget.source = 4 then { s with budget := { s.budget with smooth := s.defaultSmooth } }
  else s

/-- A share and its mode come into force (R416, R419, R421, R586). -/
def State.putShare (s : State) (w smooth source : Nat) : State :=
  let s' := { s with budget := { s.budget with
    source := source, smooth := smooth, shareAt := s.clk.us, fallen := false, waiting := none } }
  ((s'.setShareValue w).newEnergy).reviewFall s

/-- A share arrives: during the hold it waits, during a quiesce it is ignored (R417, R419, R434). -/
def State.acceptShare (s : State) (w smooth source : Nat) : State :=
  if s.stage = .quiescing then s
  else if s.budget.hold then { s with budget := { s.budget with waiting := some (w, smooth, source) } }
  else s.putShare w smooth source

/-- SHARE_EXPIRY (R419, R421, R434, R586): 60 s after the last share, which in legacy mode run from the loss of both managers. -/
def execShareExpiry (s : State) : Answer :=
  let b := s.budget
  .next (if b.source = 0 ∨ b.source = 4 ∨ !s.crown.running then s
  else if b.source ≠ 1 ∧ !(b.lost[0] && b.lost[1]) then s
  else
    let s' := { s with budget := { s.budget with source := 4, fallen := true, smooth := s.defaultSmooth } }
    let s' := ((s'.record 0x51 .warning false 0 (natLe 4 b.share)).report 8 0).setShareValue (s.fraction b.share)
    (s'.newEnergy).reviewFall s)

/-- ZEJOR_MANAGER_LOSS (R418): a manager has sent no message for 3 s. -/
def execZejorManagerLoss (b : Fn) (s : State) : Answer :=
  .next { s with budget := { s.budget with lost := s.budget.lost.set (fnIdx b) true } }

/-! ## Caps and matches (R424–R426) -/

/-- A deferred cap applies, at the boundary or after 5 ms (R424). -/
def State.applyDeferred (s : State) : State :=
  match s.budget.deferred with
  | some (caps, cause) => s.applyCaps caps cause
  | none => s

/-- CAP_DEFERRAL_TIMEOUT (R424). -/
def execCapDeferralTimeout (s : State) : Answer := .next s.applyDeferred

/-- MATCH_EXPIRY (R426): the duration of a match has passed. -/
def execMatchExpiry (i : Nat) (s : State) : Answer :=
  .next (match s.budget.matches_[i]? with
  | some m => if m.until_.isSome then ({ s with budget := { s.budget with matches_ := s.budget.matches_.eraseIdx i } }).evaluate else s
  | none => s)

/-! ## The thermal loop (R428–R430) -/

/-- Readings of the inputs of a die in 1/16 °C with their throttle entries: the die, its stacks, its core and link stages and VDRAM's, and
the outlet (Table: Thermal inputs). -/
def State.thermalInputs (s : State) (m : ThermalMeasure) (d : Fin 4) : List (Int × Int) :=
  let near := (List.finRange 20).filter (fun st => decide (st.val / 5 = d.val))
  let stage (r : Nat) : Int × Int := (m.stage[r]?.getD 0, 2000)
  [(m.die[d.val]?.getD 0, 1520), (m.outlet, 880), stage d.val, stage (5 + d.val), stage 4] ++
    near.map (fun st => (s.mem.temp[st].toInt, 1520))

/-- A stack above which the die stands is in the hot band or above (R127, Table: Thermal inputs). -/
def State.stackHot (s : State) (d : Fin 4) : Bool :=
  (List.finRange 20).any (fun st => decide (st.val / 5 = d.val) && decide (2 ≤ s.mem.band[st].toNat))

/-- An input of a die stands at or above its throttle entry (R422, R428). -/
def State.throttle (s : State) (m : ThermalMeasure) (d : Fin 4) : Bool :=
  s.stackHot d || (s.thermalInputs m d).any (fun e => decide (e.2 ≤ e.1))

/-- Every input of a die lies at least `k` sixteenths of a degree below its entry. -/
def State.cooler (s : State) (m : ThermalMeasure) (d : Fin 4) (k : Int) : Bool :=
  !s.stackHot d && (s.thermalInputs m d).all (fun e => decide (e.1 ≤ e.2 - k))

/-- One run of the loop for a die: its ceiling falls at an entry, and rises after 1 s, eleven runs, 3 °C below; not while the coolant is
lost (R428, R429). -/
def State.stepCeiling (s : State) (m : ThermalMeasure) (d : Fin 4) : State :=
  let b := s.budget
  if s.throttle m d then
    { s with budget := { b with throttled := b.throttled.set d true, coldRuns := b.coldRuns.set d 0, tceil := b.tceil.set d (if b.tceil[d] = 0 then 0 else b.tceil[d] - 1) } }
  else
    let b : Budget := { b with throttled := b.throttled.set d false }
    if !s.cooler m d 48 ∨ b.coolantLoss then { s with budget := { b with coldRuns := b.coldRuns.set d 0 } }
    else if b.coldRuns[d] < 10 then { s with budget := { b with coldRuns := b.coldRuns.set d (b.coldRuns[d] + 1) } }
    else { s with budget := { b with
      coldRuns := b.coldRuns.set d 1, tceil := b.tceil.set d (if b.tceil[d] = 7 then 7 else b.tceil[d] + 1) } }

/-- The outlet has risen faster than 1.5 °C/s in each of the last 20 intervals while demand changed by less than 10 % (R429). -/
def risingOutlet (l : List (Int × Nat)) : Bool :=
  decide (21 ≤ l.length) &&
  (List.zip l (l.drop 1)).all (fun e => decide (24 < 10 * (e.1.1 - e.2.1))) &&
  (let dem := l.map (fun e => e.2)
   let top := dem.foldl max 0
   let low := dem.foldl min (dem.headD 0)
   decide (10 * (top - low) < top) || decide (top = 0))

/-- The coolant is lost (R429). -/
def State.loseCoolant (s : State) (m : ThermalMeasure) : State :=
  let s := { s with budget := { s.budget with
    coolantLoss := true, coolRuns := 0, tceil := Vector.replicate 4 0, duty := Vector.replicate 4 0 } }
  let deg (t : Int) : Byte := BitVec.ofInt 8 (t / 16)
  (s.record 0x52 .fault false 0 [deg m.inlet, deg m.outlet]).report 8 0

/-- A thermal shutdown: the ordered quiesce; during Stage 3 entry, an abandoned entry and the quiesced state; one quiesce that runs or has run serves,
and a restart under way ends in it (R430, R434, R481). -/
def State.thermalShutdown (s : State) : State :=
  let s := { s with budget := { s.budget with shutdown := true, hot := true } }
  let stop : State := { s with budget := { s.budget with stopped := some .thermal }, start := { s.start with restarting := false, pendingKind := none } }
  match s.stage with
  | .entry => stop.diesDown.becomeQuiesced
  | .quiescing => stop
  | .quiesced => stop
  | _ => s.beginQuiesce .thermal

/-- What the loop knows of the coolant after a run (R429). -/
def State.noteCoolant (s : State) (m : ThermalMeasure) : State :=
  let b := s.budget
  let near := decide (m.outlet - m.inlet ≤ 240)
  let b := { b with
    inlet := m.inlet, outlet := m.outlet, dieTemps := Vector.ofFn (fun d => m.die[d.val]?.getD 0), outlets := ((m.outlet, b.demMean) :: b.outlets).take 21
    coolRuns := if near && b.coolantLoss then b.coolRuns + 1 else 0 }
  let s := { s with budget := b }
  if b.coolantLoss then
    if 101 ≤ b.coolRuns then { s with budget := { b with coolantLoss := false, coolRuns := 0 } } else s
  else if 352 < m.outlet - m.inlet ∨ risingOutlet b.outlets then s.loseCoolant m
  else s

/-- THERMAL_LOOP (R408, R422, R428–R430, R586): one run of Crown's loop. -/
def execThermalLoop (m : ThermalMeasure) (s : State) : Answer :=
  .next (if !s.crown.running then s
  else
    let s1 := s.noteCoolant m
    let s1 := { s1 with budget := { s1.budget with hot := s1.budget.hot && !((List.finRange 4).all (fun d => s1.cooler m d 160)) } }
    let s1 := (List.finRange 4).foldl (fun (s : State) (d : Fin 4) => s.stepCeiling m d) s1
    if m.die.any (fun t => decide (1680 ≤ t)) ∨ 960 ≤ m.outlet then s1.thermalShutdown
    else if s1.budget.tceil ≠ s.budget.tceil ∨ s1.cPeak ≠ s.cPeak then s1.evaluate
    else s1)

/-- STOP_BAND_TIMEOUT (R127, R430): a stack has stayed in the stop band for 1 s. -/
def execStopBandTimeout (st : Fin 20) (s : State) : Answer :=
  .next (if s.mem.band[st] = 4 ∧ s.crown.running then s.thermalShutdown else s)

/-! ## Ballast and the absorb limit (R422, R423) -/

/-- ABSORB_LIMIT_UPDATE (R423), which runs in both mode; the limit is 0 while the store is unavailable for smoothing. -/
def execAbsorbLimitUpdate (s : State) : Answer :=
  let room : Int := (s.sap.usableJ : Int) - s.sap.presentJ
  let w : Nat := if s.noStore then 0 else 3 * (min 1000 (max 0 room)).toNat
  let slots := s.le.slots.map (fun (x : Slot) => { x with values := { x.values with absorb := w } })
  .next (if s.le.route = 2 ∧ s.crown.running then { s with le := { s.le with absorb := w, slots := slots } } else s)

/-- A die may run ballast (R422, R429, R431). -/
def State.mayBallast (s : State) (d : Fin 4) : Bool :=
  decide (s.stage = .stage3) && s.hwd.dieEn[d] && decide (s.clk.div[d] ≠ 0) && !s.budget.throttled[d] && !s.budget.hold && !s.budget.coolantLoss

/-- Ballast of a die at full duty in W (R422). -/
def State.fullBallast (s : State) (d : Fin 4) : ℚ := 450 * s.power.cores[d].factor (s.pointOf d)

/-- BALLAST_UPDATE (R366, R422): the demand is split over the dies that may run ballast, up to full duty and within c_peak. -/
def execBallastUpdate (s : State) : Answer :=
  let ds := (List.finRange 4).filter (fun d => s.mayBallast d)
  let present : ℚ := ((List.finRange 4).map (fun d => s.fullBallast d * s.budget.duty[d] / 1000)).sum
  let room : ℚ := maxQ 0 ((s.cPeak : ℚ) - (s.budget.demPeak - present))
  let each : ℚ := minQ (maxQ 0 s.le.ballast) room / (max 1 ds.length : Nat)
  let duty (d : Fin 4) : Nat :=
    if ds.contains d then (minQ 1000 (each * 1000 / s.fullBallast d)).floor.toNat else 0
  .next (if s.crown.running then { s with budget := { s.budget with duty := Vector.ofFn duty } } else s)

/-! ## The hold (R431, R433) -/

/-- HOLD_END (R431, R432): the quiesce reserve is reached, or 3.0 s have passed. -/
def execHoldEnd (s : State) : Answer := .next (if s.budget.hold then s.beginQuiesce .busLoss else s)

/-- HOLD_RECOVERY (R433, R434, R480): the bus has stayed at or above 44 V for 100 ms; a share that waited comes into force,
and the caps are decided again (log 194). -/
def execHoldRecovery (s : State) : Answer :=
  .next (if !s.budget.hold ∨ s.stage ≠ .stage3 ∨ !s.hwd.inputClosed ∨ !s.crown.running then s
  else
    let s := { s with
      budget := { s.budget with hold := false, heldCaps := none }
      hwd := { s.hwd with holdReq := false } }
    let s := s.setPhase .recovery
    let s := match s.budget.waiting with
      | some (w, m, src) => s.putShare w m src
      | none => s
    s.evaluate)

/-- RECOVERY_PHASE_END (R433, R480). -/
def execRecoveryPhaseEnd (s : State) : Answer :=
  .next (if s.le.phase = .recovery ∧ s.stage = .stage3 then s.setPhase .service else s)

end Sys2Proof.Machine
end

