-- ==== Sys2Proof/Machine/MsgOps.lean ====
section
/-! DEFINITION. Messages between the hosts and Crown: the request in hand on a ring or in a mailbox, and its response (R493–R501). -/

namespace Sys2Proof.Machine

open Sys2Proof

/-- Function of a message's path. -/
def srcFn : MsgSrc → Fn
  | .ring fn => fn
  | .mbox fn => fn

/-- Replaces a ring. -/
def State.setRing (s : State) (fn : Fn) (r : Ring) : State := { s with rings := s.rings.set (fnIdx fn) r }

/-- The 1024 bytes of a function's mailbox (R501). -/
def State.mboxBytes (s : State) (fn : Fn) : List Byte :=
  (List.range 256).flatMap (fun i => natLe 4 (s.reg fn (crnMboxData + 4 * i)).toNat)

/-- Writes bytes at offset 0 of a function's mailbox. -/
def State.setMbox (s : State) (fn : Fn) (l : List Byte) : State :=
  (List.range ((l.length + 3) / 4)).foldl (fun s i =>
    s.setReg fn (crnMboxData + 4 * i) (BitVec.ofNat 64 (leNat ((l.drop (4 * i)).take 4)))) s

/-- The request that Crown has in hand from a path: the oldest taken from a running ring, or the one in a busy mailbox (R495, R501). -/
def State.requestOf (s : State) (src : MsgSrc) : Option (List Byte) :=
  if !s.crown.running then none
  else match src with
    | .ring fn => if s.ringUp fn then s.rings[fnIdx fn].requests.head? else none
    | .mbox fn => if s.rings[fnIdx fn].mboxBusy then some (s.mboxBytes fn) else none

/-- Type, body length, sequence number and body of a message. -/
def msgType (m : List Byte) : Nat := tfield m 2 2
def msgLen (m : List Byte) : Nat := tfield m 4 2
def msgSeq (m : List Byte) : Nat := tfield m 8 4
def msgBody (m : List Byte) : List Byte := (m.drop 16).take (msgLen m)

/-- Responses go into a ring while it has room; the rest wait (R495). -/
def State.putReplies (s : State) (fn : Fn) : List (List Byte) → State
  | [] => s.setRing fn { s.rings[fnIdx fn] with replies := [] }
  | r :: rest =>
    match s.ringPut fn r with
    | some s' => (s'.signalRing fn).putReplies fn rest
    | none => s.setRing fn { s.rings[fnIdx fn] with replies := r :: rest }

/-- A ring that is to stop does so once the response to the request in progress has been written (R500, R518). -/
def State.settleStop (s : State) (fn : Fn) : State :=
  let r := s.rings[fnIdx fn]
  if r.stopping ∧ r.requests.isEmpty ∧ r.replies.isEmpty then
    s.setRing fn { r with mode := .stopped, kicked := false, stopping := false } else s

/-- Crown answers the request in hand from a path (R495, R496, R501). -/
def State.answerMsg (s : State) (src : MsgSrc) (status : Nat) (body : List Byte) : State :=
  match s.requestOf src with
  | none => s
  | some m =>
    let msg := msgHeader 1 (msgType m) body.length status (msgSeq m) ++ body
    match src with
    | .ring fn =>
      let r := s.rings[fnIdx fn]
      ((s.setRing fn { r with requests := r.requests.drop 1 }).putReplies fn (r.replies ++ [msg])).settleStop fn
    | .mbox fn =>
      let s := s.setMbox fn msg
      (s.setRing fn { s.rings[fnIdx fn] with mboxBusy := false, mboxDone := true }).signalRing fn

end Sys2Proof.Machine
end

