-- ==== Sys2Proof/Machine/FleetOps.lean ====
section
/-! DEFINITION. Fleet consistency: leases and promotion, and the activation and the voting of epochs (R289, R294–R308). -/

namespace Sys2Proof.Machine

open Sys2Proof

/-- Replaces the fleet state. -/
def State.setFleet (s : State) (f : Fleet) : State := { s with fleet := f }

/-! ## Lease messages (R294–R299, R503) -/

/-- Body of a lease message (Table: Message bodies). -/
def leaseBody (id : BitVec 64) (holder standby : Nat) (count : BitVec 32) (missed : Nat) : List Byte :=
  natLe 8 id.toNat ++ natLe 2 holder ++ natLe 2 standby ++ natLe 4 count.toNat ++ natLe 2 10 ++ natLe 1 missed ++ natLe 5 0

/-- Lease identifier, holder, standby and renewal count of a lease message. -/
def mLease (m : List Byte) : BitVec 64 := BitVec.ofNat 64 (tfield m 16 8)
def mHolder (m : List Byte) : Nat := bits (tfield m 24 2) 11 0
def mStandby (m : List Byte) : Nat := bits (tfield m 26 2) 11 0
def mCount (m : List Byte) : BitVec 32 := BitVec.ofNat 32 (tfield m 28 4)

/-- Identifier of a witness field, and the function that a host witness is (R294, R503). -/
def witnessId (w : Nat) : Nat := bits w 11 0
def witnessFn (w : Nat) : Option Fn := if bit w 12 then some (if bit w 13 then .B else .A) else none

/-- A lease message is passed to a host as a LEASE event (R503); a ring that does not run carries none. -/
def State.leaseEvent (s : State) (fn : Fn) (m : List Byte) : State :=
  if s.ringUp fn then s.ringEvent fn 0x0030 m else s

/-- A lease message leaves for a module, or for this module's own host where that is the witness (R294, R503). -/
def State.sendLease (s : State) (mtype w : Nat) (body : List Byte) : State :=
  if witnessId w = s.myId then
    match witnessFn w with
    | some fn =>
      let c := s.message mtype s.myId s.myId body
      c.1.leaseEvent fn c.2
    | none => s
  else s.sendTo mtype (witnessId w) body

/-- The host of this module that witnesses a holder and standby (R503). -/
def State.hostWitness (s : State) (holder standby : Nat) : Option Fn :=
  match s.fleet.blocks with
  | none => none
  | some b => match b.twins.find? (fun t => t.active == holder && t.standby == standby && witnessId t.witness == s.myId) with
    | some t => witnessFn t.witness
    | none => none

/-- A standby begins to ask for promotion, for every twin entry of its own (R298). The request names lease 0, since a standby is not
told the lease (log 80). -/
def State.askPromotion (s : State) : State :=
  let due := s.fleet.standbys.filter (fun t => !t.asking && !t.promoted)
  let s := s.setFleet { s.fleet with standbys := s.fleet.standbys.map (fun (t : Standby) => { t with asking := t.asking || !t.promoted }) }
  due.foldl (fun s t => s.sendLease 0x15 t.witness (leaseBody 0 t.active s.myId 0 0)) s

/-- The active has its lease and begins to renew it (R294, R297). Until an acknowledgement arrives, the time of its fence runs from
the grant (log 80). -/
def State.takeLease (s : State) (src : Nat) (id : BitVec 64) (standby : Nat) : State :=
  s.setFleet { s.fleet with holders := s.fleet.holders.map (fun (h : HolderLease) =>
    if witnessId h.witness = src ∧ h.standby = standby then
      { h with id := id, count := 0, sent := [], acked := 0, ackedAt := s.clk.us }
    else h) }

/-- A renewal of a holder's lease has been acknowledged (R297). -/
def State.ackLease (s : State) (src : Nat) (id : BitVec 64) (count : BitVec 32) : State :=
  s.setFleet { s.fleet with holders := s.fleet.holders.map (fun (h : HolderLease) =>
    match h.sent.find? (fun e => e.1 == count) with
    | some e =>
      if witnessId h.witness = src ∧ h.id = id then
        { h with acked := count, ackedAt := e.2, sent := h.sent.filter (fun k => decide (e.2 < k.2)) }
      else h
    | none => h) }

/-- The committed step and bank go to the coordinator's hosts (R299; log 155). -/
def State.tellCoordinator (s : State) : State :=
  match s.fleet.blocks with
  | some b => s.emit (.promoted b.coordinator s.fleet.copy)
  | none => s

/-- A promotion has been granted: the standby takes role 1 in its heartbeats and reports its committed step and bank, or that it has none, to its
hosts and to those of the coordinator (R299; log 155). -/
def State.promote (s : State) (src : Nat) (id : BitVec 64) (active : Nat) : State :=
  if s.fleet.standbys.any (fun t => decide (witnessId t.witness = src ∧ t.active = active) && !t.promoted) then
    ((s.setFleet { s.fleet with
      role := 1
      standbys := s.fleet.standbys.map (fun (t : Standby) =>
        if witnessId t.witness = src ∧ t.active = active then { t with asking := false, promoted := true } else t) }).reportWith 4 id.toNat (copyDetail s.fleet.copy)).tellCoordinator
  else s

/-! ## Activation of an epoch (R305) -/

/-- The role that a module's heartbeats carry for a role of ROLES (Table: Message bodies, Table: Canonical blocks). -/
def heartRole (r : Nat) : Nat := if r ≤ 3 then r else 0

/-- A holder's lease goes on in a configuration that holds its twin entry unchanged (log 80). -/
def keepsHolder (b : Blocks) (me : Nat) (h : HolderLease) : Bool :=
  b.twins.any (fun t => t.active == me && t.standby == h.standby && t.witness == h.witness)

/-- Twin entries of this module in a new configuration: LEASE_REQUEST for each that has no lease, LEASE_RELEASE for each lease
whose entry has gone (R294, R296). A fenced holder asks again. -/
def State.activateTwins (s : State) (b : Blocks) : State :=
  let me := s.myId
  let kept := if s.fleet.fenced then [] else s.fleet.holders.filter (fun h => keepsHolder b me h)
  let gone := s.fleet.holders.filter (fun h => !keepsHolder b me h && h.id != 0)
  let new := b.twins.filter (fun t => t.active == me && !kept.any (fun h => h.standby == t.standby && h.witness == t.witness))
  let s := gone.foldl (fun s h => s.sendLease 0x14 h.witness (leaseBody h.id me h.standby h.count 0)) s
  let s := s.setFleet { s.fleet with
    holders := kept ++ new.map (fun (t : TwinEntry) =>
      { id := 0, witness := t.witness, standby := t.standby, count := 0, sent := [], acked := 0, ackedAt := s.clk.us })
    witnessed := s.fleet.witnessed.filter (fun w =>
      b.twins.any (fun t => t.active == w.holder && t.standby == w.standby && t.witness == me))
    standbys := (b.twins.filter (fun t => t.standby == me)).map (fun (t : TwinEntry) =>
      match s.fleet.standbys.find? (fun o => o.active == t.active && o.witness == t.witness) with
      | some o => o
      | none => { active := t.active, witness := t.witness, asking := false, promoted := false }) }
  new.foldl (fun s t => s.sendLease 0x10 t.witness (leaseBody 0 me t.standby 0 0)) s

/-- Sequence counters of the sets that a new configuration neither adds nor changes; the others start at 0 (R272). -/
def keptSeqs (old : Option Blocks) (new : Blocks) (seqs : Keyed (BitVec 32)) : Keyed (BitVec 32) :=
  match old with
  | none => []
  | some b => seqs.filter (fun e => new.sets.any (fun d => d.num == e.1 && b.sets.contains d))

/-- A configuration comes into force (R301, R305): blocks, epoch and digest, sequence counters, twin entries and role; the fence of
R297 is lifted, and the change is reported. -/
def State.activate (s : State) (c : Staged) : State :=
  let f := s.fleet
  let s := s.activateTwins c.blocks
  let s := s.setFleet { s.fleet with
    epoch := c.epoch, digest := c.digest, blocks := some c.blocks, staged := none, fenced := false
    role := heartRole (roleIn c.blocks s.myId)
    seqs := keptSeqs f.blocks c.blocks f.seqs
    voted := none, commit := none }
  s.report 6 c.epoch.toNat

/-- A step boundary activates a committed epoch whose step has come, whatever has been staged since; after its step, a late-activation record
says so (R289, R305). -/
def State.activateAt (s : State) (step : BitVec 64) : State :=
  match s.fleet.commit with
  | some (c, due) =>
    if step < due then s
    else
      let s := s.activate c
      if due < step then s.record 0x08 .warning false c.epoch.toNat (natLe 8 step.toNat) else s
  | none => s

/-! ## The two-phase change (R303, R304) -/

/-- Members of a group with role 1–3. -/
def votersOf (b : Blocks) (pod g : Nat) : List Nat :=
  (b.roles.filter (fun e => decide (1 ≤ e.2 ∧ e.2 ≤ 3 ∧ podOf e.1 = pod ∧ groupOf e.1 = g))).map (fun e => e.1)

/-- Leader of a group: the lowest-numbered member with role 1–3 (R303). -/
def leaderOf (b : Blocks) (pod g : Nat) : Option Nat :=
  (votersOf b pod g).foldl (fun m i => match m with
    | some j => some (min j i)
    | none => some i) none

/-- A group is marked present in a pod. -/
def groupPresent (b : Blocks) (pod g : Nat) : Bool := if pod = 0 then b.groups0.getLsbD g else b.groups1.getLsbD g

/-- Body of an epoch message (Table: Message bodies). -/
def epochBody (e : BitVec 64) (d : BitVec 256) (step : BitVec 64) : List Byte := natLe 8 e.toNat ++ natLe 32 d.toNat ++ natLe 8 step.toNat

/-- Epoch, digest and step of an epoch message. -/
def mEpoch (m : List Byte) : BitVec 64 := BitVec.ofNat 64 (tfield m 16 8)
def mDigest (m : List Byte) : BitVec 256 := BitVec.ofNat 256 (tfield m 24 32)
def mStep (m : List Byte) : BitVec 64 := BitVec.ofNat 64 (tfield m 56 8)

/-- The staged configuration that a proposal names. -/
def State.stagedFor (s : State) (e : BitVec 64) (d : BitVec 256) : Option Staged :=
  s.fleet.staged.filter (fun c => c.epoch == e && c.digest == d)

/-- The configuration that a commit names: the one voted for, or one that is staged (R303, R305). -/
def State.configFor (s : State) (e : BitVec 64) (d : BitVec 256) : Option Staged :=
  match (s.fleet.voted.map Prod.fst).filter (fun c => c.epoch == e && c.digest == d) with
  | some c => some c
  | none => s.stagedFor e d

/-- A member's vote on what it has staged (R303 step 3); a yes is remembered with what it was for. -/
def State.castVote (s : State) (c : Staged) (step : BitVec 64) : State × Bool :=
  let yes := s.fleet.epoch + 1 == c.epoch && decide (s.fleet.lastStep.toNat + 2 < step.toNat)
  (if yes then s.setFleet { s.fleet with voted := some (c, step) } else s, yes)

/-- The other pod's leader of a group, in a mirrored pair where the group is present in both (R304). -/
def mirrorOf (b : Blocks) (pod g : Nat) : Option Nat :=
  if b.kind = 4 ∧ groupPresent b 0 g ∧ groupPresent b 1 g then leaderOf b (1 - pod) g else none

/-- A commit is taken: the change will activate, and a leader passes the commit to its group and, in the coordinator's pod, to the
other pod's leader (R303–R305). -/
def State.takeCommit (s : State) (c : Staged) (step : BitVec 64) (coord : Nat) : State :=
  let me := s.myId
  let b := c.blocks
  let s := s.setFleet { s.fleet with commit := some (c, step) }
  if leaderOf b (podOf me) (groupOf me) = some me then
    let down := (votersOf b (podOf me) (groupOf me)).filter (fun i => i != me)
    let across := if podOf me = podOf coord then (mirrorOf b (podOf me) (groupOf me)).toList else []
    (down ++ across).foldl (fun s i => s.sendTo 0x32 i (epochBody c.epoch c.digest step)) s
  else s

/-- Removes the proposal of a role. -/
def State.dropPoll (s : State) (r : VoteRole) : State :=
  s.setFleet { s.fleet with polls := s.fleet.polls.filter (fun k => decide (k.role ≠ r)) }

/-- Replaces the proposal of a role. -/
def State.setPoll (s : State) (k : Poll) : State :=
  s.setFleet { s.fleet with polls := s.fleet.polls.map (fun j => if j.role = k.role then k else j) }

/-- The proposal of a role. -/
def State.poll (s : State) (r : VoteRole) : Option Poll := s.fleet.polls.find? (fun k => decide (k.role = r))

/-- Answer to the host that asked for a proposal: outcome 0 committed or 1 failed, then the first no-voter, 4 bytes each, which is a
layout of the model's (log 83). -/
def State.answerProposal (s : State) (k : Poll) (outcome voter : Nat) : State :=
  match k.src with
  | some src =>
    if (s.requestOf src).any (fun m => msgType m == 0x0021) then s.answerMsg src 0 (natLe 4 outcome ++ natLe 4 voter) else s
  | none => s

/-- The coordinator's proposal has failed (R303 step 4, R308). -/
def State.failProposal (s : State) (k : Poll) (voter : Nat) : State :=
  ((s.dropPoll .coordinator).report 6 k.epoch.toNat).answerProposal k 1 voter

/-- Every leader of the coordinator's pod has voted yes: the commit goes down the tree (R303 step 4). -/
def State.commitAll (s : State) (k : Poll) : State :=
  let s := s.dropPoll .coordinator
  match s.configFor k.epoch k.digest with
  | none => s.failProposal k s.myId
  | some c =>
    let me := s.myId
    let leaders := (List.range 64).filterMap (fun g => leaderOf c.blocks (podOf me) g)
    let s := (leaders.filter (fun i => i != me)).foldl (fun s i => s.sendTo 0x32 i (epochBody k.epoch k.digest k.step)) s
    let s := if leaders.contains me then s.takeCommit c k.step me else s
    s.answerProposal k 0 0

/-- A leader's vote reaches the coordinator. -/
def State.coordinatorVote (s : State) (id : Nat) (yes : Bool) : State :=
  match s.poll .coordinator with
  | none => s
  | some k =>
    if !k.missing.contains id then s
    else if !yes then s.failProposal k id
    else
      let k := { k with missing := k.missing.filter (fun i => i != id) }
      if k.missing.isEmpty then s.commitAll k else s.setPoll k

/-- A vote goes upward: to another module, or to this one where it is the coordinator itself. -/
def State.voteUp (s : State) (up : Nat) (e : BitVec 64) (d : BitVec 256) (step : BitVec 64) (yes : Bool) : State :=
  if up = s.myId then s.coordinatorVote s.myId yes
  else s.sendTo 0x31 up (epochBody e (if yes then d else 0) step)

/-- A leader's poll ends (R303 step 2, R304). -/
def State.endPoll (s : State) (k : Poll) (yes : Bool) : State :=
  let s := s.dropPoll k.role
  match k.up with
  | .nowhere => s
  | .to up => s.voteUp up k.epoch k.digest k.step yes

/-- A leader takes a proposal: it forwards it to its group, and to `across` in the other pod, and collects their votes (R303 step 2,
R304). -/
def State.lead (s : State) (c : Staged) (step : BitVec 64) (up : Nat) (across : Option Nat) : State :=
  let me := s.myId
  let others := (votersOf c.blocks (podOf me) (groupOf me)).filter (fun i => i != me) ++ across.toList
  let role : VoteRole := if across.isSome then .mirrorLeader else .leader
  let s := others.foldl (fun s i => s.sendTo 0x30 i (epochBody c.epoch c.digest step)) s
  let v := s.castVote c step
  let k : Poll := {
    role := role, epoch := c.epoch, digest := c.digest, step := step, missing := others, refused := !v.2, up := .to up, src := none }
  let s := v.1.dropPoll role
  if others.isEmpty then s.endPoll k v.2
  else s.setFleet { s.fleet with polls := s.fleet.polls ++ [k] }

/-- The coordinator proposes its staged configuration (R303 step 1). -/
def State.propose (s : State) (c : Staged) (step : BitVec 64) (src : Option MsgSrc) : State :=
  let me := s.myId
  let leaders := (List.range 64).filterMap (fun g => leaderOf c.blocks (podOf me) g)
  let k : Poll := { role := .coordinator, epoch := c.epoch, digest := c.digest, step := step, missing := leaders, refused := false, up := .nowhere, src := src }
  let s := s.setFleet { s.fleet with polls := s.fleet.polls ++ [k] }
  if leaders.isEmpty then s.failProposal k me
  else
    let s := (leaders.filter (fun i => i != me)).foldl (fun s i => s.sendTo 0x30 i (epochBody c.epoch c.digest step)) s
    if leaders.contains me then s.lead c step me (mirrorOf c.blocks (podOf me) (groupOf me)) else s

/-- Where a proposal or a commit of this sender finds the module: as a leader of the coordinator's pod, as a leader of the other pod,
or as a member of a group (R303, R304). -/
inductive TreePlace where
  | first | second | member
  deriving DecidableEq, Repr

/-- The place of this module for a sender in a staged configuration; none where the message is not for it to follow. -/
def State.treePlace (s : State) (b : Blocks) (coord src : Nat) : Option TreePlace :=
  let me := s.myId
  let pod := podOf me
  let g := groupOf me
  if leaderOf b pod g = some me then
    if pod = podOf coord ∧ src = coord then some .first
    else if pod ≠ podOf coord ∧ leaderOf b (1 - pod) g = some src then some .second
    else none
  else if leaderOf b pod g = some src then some .member
  else none

/-- A proposal arrives (R303, R304). Where nothing matching is staged, the module votes no to a sender that the configuration in force has it
follow (log 157). -/
def State.takeProposal (s : State) (src : Nat) (e : BitVec 64) (d : BitVec 256) (step : BitVec 64) : State :=
  let refuse := s.setFleet { s.fleet with refused := s.fleet.refused + 1 }
  match s.fleet.blocks with
  | none => refuse
  | some b0 =>
    match s.stagedFor e d with
    | none =>
      if (s.treePlace b0 b0.coordinator src).isSome then s.sendTo 0x31 src (epochBody e 0 step) else refuse
    | some c =>
      match s.treePlace c.blocks b0.coordinator src with
      | some .first => s.lead c step src (mirrorOf c.blocks (podOf s.myId) (groupOf s.myId))
      | some .second => s.lead c step src none
      | some .member =>
        let v := s.castVote c step
        v.1.sendTo 0x31 src (epochBody e (if v.2 then d else 0) step)
      | none => refuse

/-- A vote arrives: a leader votes upward once every member has voted, with yes where all have (R303, R304). -/
def State.takeVote (s : State) (src : Nat) (e : BitVec 64) (d : BitVec 256) : State :=
  match s.fleet.polls.find? (fun k => k.epoch == e && k.missing.contains src) with
  | none => s
  | some k =>
    let yes := k.digest == d
    if k.role = .coordinator then s.coordinatorVote src yes
    else
      let k := { k with missing := k.missing.filter (fun i => i != src), refused := k.refused || !yes }
      if k.missing.isEmpty then s.endPoll k (!k.refused) else s.setPoll k

end Sys2Proof.Machine
end

