-- ==== Sys2Proof/Machine/Grain.lean ====
section
/-! DEFINITION. The Grain block formats and the OCP MX formats: block layouts, quantisation and conversion (R72–R80,
R96–R98). -/

namespace Sys2Proof.Machine

open Sys2Proof

/-! ## Grain blocks -/

/-- Mantissa bits w of a format. -/
def grainW : GrainFmt → Nat
  | .g4 => 4
  | .g6 => 6
  | .g8 => 8

/-- A Grain block: stored exponent, the four micro-exponents and the 32 mantissas. -/
structure GrainBlock where
  e : Nat
  u : List Nat
  m : List Int
  deriving DecidableEq, Repr

/-- Element i of a field of elements of `w` bits, counted upward through the bytes (R76). -/
def packedElem (field w i : Nat) : Nat := field / 2 ^ (w * i) % 2 ^ w

/-- Reads block b of a line of bytes (R75, R76); a mantissa code −2^(w−1) reads as −(2^(w−1) − 1) (R73). -/
def readBlock (g : GrainFmt) (line : List Byte) (b : Nat) : GrainBlock :=
  let w := grainW g
  let byte := fun i => (line.getD i 0).toNat
  let micro := byte (32 + b)
  let field := leNat ((line.drop (64 + 4 * w * b)).take (4 * w))
  { e := byte b
    u := (List.range 4).map (fun j => bits micro (2 * j + 1) (2 * j))
    m := (List.range 32).map (fun i =>
      let v := signed w (packedElem field w i)
      if v = -(2 ^ (w - 1) : Nat) then v + 1 else v) }

/-- Bytes of a block's mantissa field (R76). -/
def mantBytes (w : Nat) (m : List Int) : List Byte :=
  natLe (4 * w) (packNat w (m.map (fun v => (v.emod (2 ^ w : Nat)).toNat)))

/-- A block's micro-exponent byte (R75). -/
def microByte (u : List Nat) : Byte := BitVec.ofNat 8 (packNat 2 u)

/-- Value of element i of a block (R72–R74). -/
def GrainBlock.value (g : GrainFmt) (b : GrainBlock) (i : Nat) : FVal :=
  if b.e = 0xFF then .nan false
  else if b.e = 0 then .num false 0 0
  else
    let m := b.m.getD i 0
    .num (decide (m < 0)) m.natAbs ((b.e : Int) - 127 - (b.u.getD (i / 8) 0 : Nat) - ((grainW g - 2 : Nat) : Int))

/-- A zero block and a NaN block (R74). -/
def GrainBlock.zero : GrainBlock := { e := 0, u := List.replicate 4 0, m := List.replicate 32 0 }
def GrainBlock.nan : GrainBlock := { e := 0xFF, u := List.replicate 4 0, m := List.replicate 32 0 }

/-- floor(log2 |x|) of a finite value that is not zero. -/
def FVal.floorLog2 : FVal → Int
  | .num _ m e => (Nat.log2 m : Int) + e
  | _ => 0

/-- floor(log2) of the largest magnitude of some values; none where all are zero. -/
def maxLog2 (l : List FVal) : Option Int :=
  l.foldl (fun acc x => if x.isZero then acc else match acc with
    | none => some x.floorLog2
    | some t => some (max t x.floorLog2)) none

/-- A finite value times 2^k rounded to an integer in the mode, for element i of the instruction. -/
def roundWhole (rd : Rounding) (i : Nat) (x : FVal) (k : Int) : Int :=
  match x with
  | .num n m e =>
    let (q, rem, den) := quanta m (e + k) 0
    let up := roundsUp rd.mode n q rem den false (rngElem rd.rng i)
    sgn n (if up then q + 1 else q)
  | _ => 0

/-- Quantises 32 values to a Grain block (R78), with the flags of R79 and R94; `base` is the number of the block's first
element within the instruction. -/
def quantise (g : GrainFmt) (rd : Rounding) (base : Nat) (x : List FVal) : GrainBlock × FFlags :=
  let w := grainW g
  let f : Int := (w : Int) - 2
  let lim : Int := (2 ^ (w - 1) : Nat) - 1
  if x.any (fun v => match v with
      | .num _ _ _ => false
      | _ => true) then (GrainBlock.nan, { invalid := true })
  else match maxLog2 x with
    | none => (GrainBlock.zero, FFlags.clear)
    | some e =>
      let ee : Int := min 254 (max 1 (e + 127))
      let u := (List.range 4).map (fun j => match maxLog2 ((x.drop (8 * j)).take 8) with
        | none => 3
        | some a => (min 3 (max 0 (ee - 127 - a))).toNat)
      let raw := (List.range 32).map (fun i =>
        roundWhole rd (base + i) (x.getD i (.num false 0 0)) (f - (ee - 127) + (u.getD (i / 8) 0 : Nat)))
      let m := raw.map (fun v => min lim (max (-lim) v))
      let clamped := raw.any (fun v => decide (lim < v ∨ v < -lim))
      let lost := (List.zip x m).any (fun p => !p.1.isZero && p.2 == 0)
      ({ e := ee.toNat, u := u, m := m },
        { overflow := decide (254 < e + 127) && clamped, underflow := decide (e + 127 < 1) && lost })

/-! ## MX formats -/

/-- The MX kinds (Table: MX kind codes). -/
inductive MxKind where
  | e5m2 | e4m3 | e3m2 | e2m3 | e2m1 | int8
  deriving DecidableEq, Repr

/-- The kind of a code; none for the reserved ones (R167). -/
def mxKind (c : Nat) : Option MxKind :=
  match c with
  | 0 => some .e5m2
  | 1 => some .e4m3
  | 2 => some .e3m2
  | 3 => some .e2m3
  | 4 => some .e2m1
  | 5 => some .int8
  | _ => none

/-- Element width in bits. -/
def mxWidth : MxKind → Nat
  | .e5m2 => 8
  | .e4m3 => 8
  | .e3m2 => 6
  | .e2m3 => 6
  | .e2m1 => 4
  | .int8 => 8

/-- Exponent bits, fraction bits and bias of an element format (OCP MX v1.0, R96). -/
def mxLayout : MxKind → Nat × Nat × Int
  | .e5m2 => (5, 2, 15)
  | .e4m3 => (4, 3, 7)
  | .e3m2 => (3, 2, 3)
  | .e2m3 => (2, 3, 1)
  | .e2m1 => (2, 1, 1)
  | .int8 => (0, 6, 0)

/-- emax of R98. -/
def mxEmax : MxKind → Int
  | .e5m2 => 15
  | .e4m3 => 8
  | .e3m2 => 4
  | .e2m3 => 2
  | .e2m1 => 2
  | .int8 => 0

/-- Largest magnitude of an element format, in units of its last place at emax: significand and its exponent. -/
def mxLargest : MxKind → Nat × Int
  | .e5m2 => (7, 13)
  | .e4m3 => (14, 5)
  | .e3m2 => (7, 2)
  | .e2m3 => (15, -1)
  | .e2m1 => (3, 1)
  | .int8 => (127, -6)

/-- Bytes of a block of 32 elements and of a line of 32 blocks (R96). -/
def mxBlockSize (k : MxKind) : Nat := 4 * mxWidth k
def mxLineSize (k : MxKind) : Nat := 32 + 32 * mxBlockSize k

/-- Value of an element code, before the shared scale (OCP MX v1.0). -/
def mxElem (k : MxKind) (c : Nat) : FVal :=
  match k with
  | .int8 => let v := signed 8 c; .num (decide (v < 0)) v.natAbs (-6)
  | _ =>
    let (eb, mb, bias) := mxLayout k
    let neg := bit c (eb + mb)
    let ef := bits c (eb + mb - 1) mb
    let fr := c % 2 ^ mb
    if k = .e4m3 ∧ ef = 15 ∧ fr = 7 then .nan false
    else if k = .e5m2 ∧ ef = 31 then (if fr = 0 then .inf neg else .nan false)
    else if ef = 0 then .num neg fr (1 - bias - mb)
    else .num neg (2 ^ mb + fr) ((ef : Int) - bias - mb)

/-- A value scaled by 2^k. -/
def FVal.scale (k : Int) : FVal → FVal
  | .num n m e => .num n m (e + k)
  | v => v

/-- Scale byte and element codes of block b of an MX line (R96). -/
def readMx (k : MxKind) (line : List Byte) (b : Nat) : Nat × List Nat :=
  let w := mxWidth k
  let field := leNat ((line.drop (32 + mxBlockSize k * b)).take (mxBlockSize k))
  ((line.getD b 0).toNat, (List.range 32).map (packedElem field w))

/-- The exact values of an MX block (R97). -/
def mxValues (k : MxKind) (x : Nat) (codes : List Nat) : List FVal :=
  if x = 0xFF then List.replicate 32 (.nan false)
  else codes.map (fun c => (mxElem k c).scale ((x : Int) - 127))

/-- The shift k of E := X + k of the exact imports (Table: MX import); none where the pair has no exact import. -/
def exactImport : MxKind → GrainFmt → Option Nat
  | .int8, .g8 => some 0
  | .e2m1, .g6 => some 2
  | .e2m3, .g8 => some 3
  | _, _ => none

/-- Mantissa of an element under an exact import: the element in units of 2^(k + 2 − w) (Table: MX import). -/
def exactMant (k : MxKind) (g : GrainFmt) (shift c : Nat) : Int :=
  match mxElem k c with
  | .num n m e =>
    let (q, _, _) := quanta m (e + ((grainW g : Int) - 2) - shift) 0
    max (-((2 ^ (grainW g - 1) : Nat) - 1 : Int)) (sgn n q)
  | _ => 0

/-- The FP32 value of an MX element, with its flags: exact, but for a value beyond the FP32 range (R97). -/
def mxFp32 (rd : Rounding) (i : Nat) (v : FVal) : Nat × FFlags := (floatFmt .fp32).convert rd i v

/-- Imports one MX block to a Grain format (R97). A pair that is not marked exact goes through FP32 and R78, which raises invalid for a scale of
0xFF too (R94). -/
def mxToGrain (k : MxKind) (g : GrainFmt) (rd : Rounding) (base x : Nat) (codes : List Nat) : GrainBlock × FFlags :=
  let through : Unit → GrainBlock × FFlags := fun _ =>
    let vs := (List.zip (List.range 32) (mxValues k x codes)).map (fun p => mxFp32 rd (base + p.1) p.2)
    let (b, f) := quantise g rd base (vs.map (fun v => (floatFmt .fp32).decode v.1))
    (b, f.or (FFlags.all (vs.map Prod.snd)))
  match exactImport k g with
  | some sh =>
    if x = 0xFF then (GrainBlock.nan, FFlags.clear)
    else if 0xFE < x + sh then through ()
    else
      let e := x + sh
      let up := if e < 1 then 1 - e else 0
      if 3 < up then through ()
      else ({ e := e + up, u := List.replicate 4 up, m := codes.map (exactMant k g sh) }, FFlags.clear)
  | none => through ()

/-- Rounds a finite value to an element code; values beyond the largest magnitude saturate (R98). -/
def mxRound (k : MxKind) (rd : Rounding) (i : Nat) (v : FVal) : Nat :=
  match v with
  | .num n m e =>
    let (eb, mb, bias) := mxLayout k
    let (lm, le) := mxLargest k
    if m = 0 then (if k = .int8 then 0 else b2n n * 2 ^ (eb + mb))
    else
      let emin : Int := if k = .int8 then 0 else 1 - bias
      let top : Int := (Nat.log2 m : Int) + e
      let q : Int := (if k = .int8 then (0 : Int) else if top < emin then emin else top) - mb
      let (c, rem, den) := quanta m e q
      let c := if roundsUp rd.mode n c rem den false (rngElem rd.rng i) then c + 1 else c
      let (lq, _, _) := quanta lm le q
      let big := decide (lq < c)
      if k = .int8 then
        let c := if big then 127 else c
        (sgn n c).emod 256 |>.toNat
      else if big then
        b2n n * 2 ^ (eb + mb) + (le + mb + bias).toNat * 2 ^ mb + (lm - 2 ^ mb)
      else
        let (c, q) := if c = 2 ^ (mb + 1) then (2 ^ mb, q + 1) else (c, q)
        if c < 2 ^ mb then b2n n * 2 ^ (eb + mb) + c
        else b2n n * 2 ^ (eb + mb) + (q + mb + bias).toNat * 2 ^ mb + (c - 2 ^ mb)
  | _ => 0

/-- Exports 32 exact FP32 values to an MX block: scale and element codes (R98). A block that holds a NaN, of an IEEE source too, has scale 0xFF; its
elements, and all of a block that holds an infinity, are free values (log 28). -/
def mxExport (k : MxKind) (rd : Rounding) (base : Nat) (x : List FVal) : Nat × List Nat :=
  let w := mxWidth k
  let freeElems := (List.range 32).map (fun i => (Config.freeWord (rd.free + base + i)).toNat % 2 ^ w)
  if x.any FVal.isNan then (0xFF, freeElems)
  else if x.any (fun v => match v with
      | .inf _ => true
      | _ => false) then ((Config.freeWord (rd.free + base)).toNat / 2 ^ 32 % 256, freeElems)
  else match maxLog2 x with
    | none => (0x7F, List.replicate 32 0)
    | some t =>
      let s : Int := min 254 (max 0 (127 + t - mxEmax k))
      (s.toNat, (List.range 32).map (fun i => mxRound k rd (base + i) ((x.getD i (.num false 0 0)).scale (127 - s))))

end Sys2Proof.Machine
end

