-- ==== Sys2Proof/Machine/CollectOps.lean ====
section
/-! DEFINITION. The collective engines: the traffic of an instance, its sums, its failure and its completion, and the outcomes of
their Berux requests (R257, R258, R263, R271–R283, R289–R292). -/

namespace Sys2Proof.Machine

open Sys2Proof

/-! ## Buffers (R274–R276, R281) -/

/-- Number of members. -/
def Collective.size (c : Collective) : Nat := c.members.length

/-- Bytes of the destination of one instance (Table: Collective buffers). -/
def Collective.dstSize (c : Collective) : Nat := if c.op = 2 ∨ c.op = 5 then c.chunk else c.size * c.chunk

/-- Bytes of the source that the module reads: a BROADCAST's root alone reads one (R275, Table: Collective buffers). -/
def Collective.srcSize (c : Collective) : Nat :=
  if c.op = 3 then c.chunk else if c.op = 5 then (if c.me = c.root then c.chunk else 0) else c.size * c.chunk

/-- Which half of the destination and of the staging area an instance uses: the halves are those of a persistent descriptor
(R276). -/
def Collective.half (c : Collective) (i : Nat) : Nat := if c.instances = 1 then 0 else i % 2

/-- Base of an instance's destination. -/
def Collective.dstAt (c : Collective) (i : Nat) : Nat := c.dst + c.half i * c.dstSize

/-- Elements of a chunk in a format (Table: Format codes). -/
def elements (fmt : BitVec 8) (chunk : Nat) : Nat :=
  if fmt = 0 then chunk / 4 else if fmt = 1 then chunk / 2 else chunk / 1088 * 1024

/-- Where an instance keeps its FP32 sums: in the destination's own chunk for FP32, else in the staging area, in the descriptor's
view (R281; log 81). -/
def Collective.sumsAt (c : Collective) (i : Nat) : Nat :=
  if c.fmt = 0 then c.dstAt i + (if c.op = 1 then c.me * c.chunk else 0)
  else c.staging + c.half i * 4 * elements c.fmt c.chunk

/-- Bytes of a REDUCE at which elements can be divided: a Grain line of 1088 bytes, else an element (Table: Format codes). -/
def unitOf (fmt : BitVec 8) : Nat := if fmt = 5 then 1088 else if fmt = 1 then 2 else 4

/-- Data bytes of the largest transaction of a kind. -/
def Collective.span (c : Collective) (reduce : Bool) : Nat := if reduce ∧ c.fmt = 5 then 3264 else 4096

/-- The instance that arriving data belong to: the running one, or the next. -/
def Collective.current (c : Collective) : Nat := if c.running then c.inst else c.inst + 1

/-- Rounding of sums and of results (R281). -/
def Collective.rounding (c : Collective) : Rounding := { mode := if c.toZero then .zero else .nearest, sat := false, rng := 1, free := 0 }

/-- FP32 values of some bytes in the collective's format, in order (R80, R281). -/
def Collective.values (c : Collective) (bytes : List Byte) : List FVal :=
  if c.fmt = 0 then (List.range (bytes.length / 4)).map (fun i => (floatFmt .fp32).decode (leNat ((bytes.drop (4 * i)).take 4)))
  else if c.fmt = 1 then (List.range (bytes.length / 2)).map (fun i => (floatFmt .bf16).decode (leNat ((bytes.drop (2 * i)).take 2)))
  else (List.range (bytes.length / 1088)).flatMap (fun l =>
    let line := (bytes.drop (1088 * l)).take 1088
    (List.range 32).flatMap (fun b => (List.range 32).map (fun i => (readBlock .g8 line b).value .g8 i)))

/-- A value as FP32 bytes. -/
def Collective.fp32 (c : Collective) (v : FVal) : List Byte := natLe 4 ((floatFmt .fp32).convert c.rounding 0 v).1

/-- A line of 1024 values in G8 (R75, R78). -/
def Collective.line (c : Collective) (vals : List FVal) : List Byte :=
  let blocks := (List.range 32).map (fun b => (quantise .g8 c.rounding (32 * b) ((vals.drop (32 * b)).take 32)).1)
  blocks.map (fun b => BitVec.ofNat 8 b.e) ++ blocks.map (fun b => microByte b.u) ++ blocks.flatMap (fun b => mantBytes 8 b.m)

/-- A reduced chunk in the collective's format, from its FP32 sums (R281). -/
def Collective.fold (c : Collective) (sums : List Byte) : List Byte :=
  let vals := (List.range (sums.length / 4)).map (fun i => (floatFmt .fp32).decode (leNat ((sums.drop (4 * i)).take 4)))
  if c.fmt = 1 then vals.flatMap (fun v => natLe 2 ((floatFmt .bf16).convert c.rounding 0 v).1)
  else (List.range (vals.length / 1024)).flatMap (fun l => c.line ((vals.drop (1024 * l)).take 1024))

/-- Replaces the collective of a queue. -/
def State.setColl (s : State) (c : Collective) : State :=
  s.setFleet { s.fleet with collectives := s.fleet.collectives.map (fun k => if k.q = c.q then c else k) }

/-- The collective of a queue. -/
def State.coll (s : State) (q : Fin 64) : Option Collective := s.fleet.collectives.find? (fun c => decide (c.q = q))

/-! ## Requests of the engines (R258, R279) -/

/-- A request leaves on a port, where the port takes it (R258, R263). -/
def State.sendRequest (s : State) (p : Fin 20) (ttype flags dest op tag addr : Nat) (data : List Byte) (why : OutFor) : Option State :=
  let x := s.ports[p]
  if x.carries then
    some ((s.setPort p { x with out := x.out ++ [{ tag := BitVec.ofNat 16 tag, dest := dest, ttype := BitVec.ofNat 8 ttype, purpose := why }] }).sendTrans
      p 0 (header ttype flags data.length (s.portId p) dest op tag addr ++ data))
  else none

/-! ## The plan of an instance (R278) -/

/-- Group, with its pod, and member number of the module at an index of the set (Table: Module identifier). -/
def Collective.grp (c : Collective) (i : Nat) : Nat := c.members.getD i 0 / 16
def Collective.num (c : Collective) (i : Nat) : Nat := c.members.getD i 0 % 16

/-- The member of i's group that has the member number of j, where the set has one (R278). -/
def Collective.peer (c : Collective) (i j : Nat) : Option Nat :=
  (List.range c.size).find? (fun k => c.grp k == c.grp i && c.num k == c.num j)

/-- Through whom i sends what it has for j: j itself within a group, and where i's group has no member with the number of j; otherwise that member
of its own group (R278; log 189). -/
def Collective.via (c : Collective) (i j : Nat) : Nat := if c.grp i = c.grp j then j else (c.peer i j).getD j

/-- Who sends j the bytes that i gives to every member: i itself within a group, and to the member of another group with its own number; there that
member passes them on (R278; log 189). -/
def Collective.giver (c : Collective) (i j : Nat) : Nat :=
  if c.grp i = c.grp j then i else
    let r := (c.peer j i).getD i
    if r = j then i else r

/-- Members whose parts of chunk j member k adds up, and sends as one to the owner in another group (R278). -/
def Collective.gathered (c : Collective) (k j : Nat) : List Nat :=
  if j = k then [] else (List.range c.size).filter (fun i => i != k && c.via i j == k)

/-- What member k sends in an instance, in order (R278): parts of every chunk to reduce; for ALL_TO_ALL its own chunks and those it passes on; and the
bytes that go from one member to all. In a set of one group each of them goes straight from its origin to where it belongs. -/
def Collective.planFor (c : Collective) (k : Nat) : List Xfer :=
  let n := List.range c.size
  let away (i : Nat) (reduce : Bool) : List Xfer := (n.filter (fun j => j != k && j != i)).filterMap (fun j =>
    if i = k then some { dest := if c.via k j = k then j else c.via k j, reduce := reduce, origin := k, chunk := j }
    else if c.via i j = k then some { dest := j, reduce := reduce, origin := i, chunk := j } else none)
  let give (i : Nat) : List Xfer := (n.filter (fun j => j != i && c.giver i j == k)).map (fun j =>
    { dest := j, reduce := false, origin := i, chunk := i })
  if c.op = 1 then away k true ++ n.flatMap give
  else if c.op = 2 then away k true
  else if c.op = 3 then n.flatMap give
  else if c.op = 4 then away k false ++ (n.filter (fun i => i != k)).flatMap (fun i => away i false)
  else give c.root

/-- What member m sends to this module in an instance. -/
def Collective.wants (c : Collective) (m : Nat) : List Xfer := (c.planFor m).filter (fun x => x.dest == c.me)

/-- The offset that a transfer's transactions carry (R279): within the receiver's chunk, or within its destination. What the receiver is to pass on
follows these in the order of the chunks (log 189). -/
def Collective.base (c : Collective) (x : Xfer) : Nat :=
  if x.reduce then (if x.chunk = x.dest then 0 else (x.chunk + 1) * c.chunk)
  else if c.op = 5 then 0
  else if c.op = 4 ∧ x.chunk ≠ x.dest then (c.size + x.chunk) * c.chunk
  else x.origin * c.chunk

/-- Bytes of a transfer that have come, and whether all have. -/
def Collective.had (c : Collective) (x : Xfer) : Nat := ((c.got.find? (fun e => e.1 == x)).map Prod.snd).getD 0
def Collective.whole (c : Collective) (x : Xfer) : Bool := decide (c.chunk ≤ c.had x)

/-- `n` more bytes of a transfer have come. -/
def Collective.note (c : Collective) (x : Xfer) (n : Nat) : Collective :=
  { c with got := (x, c.had x + n) :: c.got.filter (fun e => e.1 != x) }

/-- The transfer from member m to which bytes at an offset belong: the whole of them lies in it. -/
def Collective.arriving (c : Collective) (m : Nat) (reduce : Bool) (off len : Nat) : Option Xfer :=
  (c.wants m).find? (fun x => x.reduce == reduce && decide (c.base x ≤ off ∧ off + len ≤ c.base x + c.chunk))

/-- The other members. -/
def Collective.others (c : Collective) : List Nat := (List.range c.size).filter (fun m => m != c.me)

/-- Every part of this module's own chunk has come (R281). -/
def Collective.reducedAll (c : Collective) : Bool :=
  c.others.all (fun m => (c.wants m).all (fun x => !x.reduce || x.chunk != c.me || c.whole x))

/-- What a transfer of this module sends is at hand: its own bytes, a reduced chunk that has been written, or what it passes on and has received
whole (R278). -/
def Collective.due (c : Collective) (x : Xfer) : Bool :=
  if x.reduce then (c.gathered c.me x.chunk).all (fun i => c.whole { dest := c.me, reduce := true, origin := i, chunk := x.chunk })
  else if x.origin = c.me then c.op != 1 || c.folded
  else c.whole { dest := c.me, reduce := false, origin := x.origin, chunk := x.chunk }

/-- Name of what this module holds to pass on: the sums of a chunk, or an origin's bytes for a chunk of ALL_TO_ALL. -/
def Xfer.relayKey (x : Xfer) : Nat := if x.reduce then x.chunk else x.origin * 1024 + x.chunk

/-- Where in device memory the bytes of a transfer of this module lie; none for those that it holds to pass on. -/
def Collective.fromAt (c : Collective) (x : Xfer) : Option Nat :=
  if x.reduce then (if (c.gathered c.me x.chunk).isEmpty then some (c.src + x.chunk * c.chunk) else none)
  else if c.op = 4 then (if x.origin = c.me then some (c.src + x.chunk * c.chunk) else none)
  else if c.op ≠ 1 ∧ x.origin = c.me then some c.src
  else some (c.dstAt c.inst + (if c.op = 5 then 0 else x.origin * c.chunk))

/-- The running instance is complete: every contribution has been performed and its own data have gone (R276; log 81). -/
def Collective.complete (c : Collective) : Bool :=
  c.running && c.others.all (fun m => (c.wants m).all c.whole) && (c.folded || (c.op != 1 && c.op != 2)) && (c.planFor c.me).all c.sent.contains

/-- Tag of an instance's transactions (R279). -/
def Collective.tag (c : Collective) (i : Nat) : Nat := c.set * 1024 + c.seq.toNat % 512 * 2 + i % 2

/-- ABORT with a status to every other member (R279, R283); one that cannot leave is lost. -/
def State.sendAborts (s : State) (c : Collective) (code : Nat) : State :=
  (c.members.filter (fun i => i != s.myId)).foldl (fun s i =>
    match s.egress i with
    | some p => (s.sendRequest p 0x05 0 i 5 (c.tag c.current) 0 (natLe 4 c.seq.toNat ++ natLe 2 code ++ List.replicate 10 0) .gone).getD s
    | none => s) s

/-- Bytes of device memory hold undefined values: free ones. No access makes them so, and a code that fails goes on failing (R118, R119). -/
def State.undefine (s : State) (view : BitVec 2) (a n : Nat) : State :=
  let u := (s.drawnN n).devWrite view a (s.freeBytes n)
  { u with mem := { u.mem with bad := s.mem.bad } }

/-- After a failure the destination, in all its halves, the set's staging area and the done word hold undefined values (R276, R283): free values
(logs 12, 156). -/
def State.spoil (s : State) (c : Collective) : State :=
  let s := s.undefine c.view c.dst ((if c.instances = 1 then 1 else 2) * c.dstSize)
  let s := s.undefine c.view c.staging c.stagingSize
  if c.instances = 1 then s
  else match tileOfIdent (c.doneAddr / 2 ^ 20) with
    | some t => ((s.drawnN 8).padWrite t (c.doneAddr % 2 ^ 20) (s.freeBytes 8)).settle t
    | none => s

/-- Detail of a failure: member index, Berux status and port (R282). -/
def failDetail (member status port : Nat) : Nat := member % 2 ^ 16 + status * 2 ^ 16 + port * 2 ^ 24

/-- A collective ends at its first failure (R282, R283): ABORT to every member unless one has come, undefined buffers, and the
descriptor completes. -/
def State.failColl (s : State) (q : Fin 64) (code detail : Nat) : State :=
  match s.coll q with
  | none => s
  | some c =>
    let s := if code = 0x10A then s else s.sendAborts c code
    let s := (s.spoil c).orphans (fun o => o.isColl q)
    let s := s.setFleet { s.fleet with collectives := s.fleet.collectives.filter (fun k => decide (k.q ≠ q)) }
    s.complete q { plain code with detail0 := BitVec.ofNat 64 detail, detail1 := BitVec.ofNat 64 c.doneCount }

/-- A failure to which the spec gives no member, status or port: the detail's fields are free (R282; log 12). -/
def State.failHere (s : State) (q : Fin 64) (code : Nat) : State := s.drawn.failColl q code (s.fresh.toNat % 2 ^ 29)

/-- Status of a request that cannot leave, by the state of its port (R254, R258, R263). -/
def State.unsent (s : State) (q : Fin 64) (member : Nat) (p : Option (Fin 20)) : State :=
  match p with
  | none => s.failColl q 0x100 (failDetail member 7 0)
  | some p => if s.ports[p].state = .flush ∨ s.ports[p].state = .disabled then s.failColl q 0x102 (failDetail member 0 p)
    else s.failColl q 0x101 (failDetail member 0 p)

/-- A COLL request of a collective to a member; the first that cannot leave fails the collective (R258, R279). -/
def State.sendColl (s : State) (q : Fin 64) (member op addr : Nat) (data : List Byte) : State :=
  match s.coll q with
  | none => s
  | some c =>
    let dest := c.members.getD member 0
    match s.egress dest with
    | none => s.unsent q member none
    | some p =>
      match s.sendRequest p 0x05 0 dest op (c.tag (max 1 c.inst)) addr data (.coll q member) with
      | some s => s.setColl { c with open_ := c.open_ + 1 }
      | none => s.unsent q member (some p)

/-- READY for an instance (R279, R280). -/
def State.sendReady (s : State) (q : Fin 64) (i : Nat) : State :=
  match s.coll q with
  | none => s
  | some c => ((List.range c.size).filter (fun m => m != c.me)).foldl (fun s m =>
      s.sendColl q m 1 0 (natLe 4 c.seq.toNat ++ natLe 4 i ++ List.replicate 8 0)) s

/-- Bytes of device memory leave for a member in transactions of `span` bytes (R279). -/
def State.sendBytes (s : State) (q : Fin 64) (member op addr span : Nat) (bytes : List Byte) : State :=
  (List.range ((bytes.length + span - 1) / span)).foldl (fun s k =>
    s.sendColl q member op (addr + k * span) ((bytes.drop (k * span)).take span)) s

/-- A region of local memory goes to a member; uncorrectable data fail the collective (R118, R282). -/
def State.sendRegion (s : State) (q : Fin 64) (member op addr span src len : Nat) (view : BitVec 2) (errs : DramErrs) : State :=
  let c := s.devCheck view src len errs
  if c.2 then c.1.failHere q 0x104 else c.1.sendBytes q member op addr span (c.1.devRead view src len)

/-! ## Progress of an instance (R278–R281) -/

/-- A member is known to be ready for the running instance (R280). -/
def Collective.knows (c : Collective) (m : Nat) : Bool :=
  decide (c.inst ≤ find 0 c.ready m) || (decide (2 ≤ c.inst ∧ c.op ≠ 5) && decide (c.inst ≤ find 0 c.heard m + 1))

/-- Bytes of an instance's FP32 sums. -/
def Collective.sumsSize (c : Collective) : Nat := if c.op = 1 ∨ c.op = 2 then 4 * elements c.fmt c.chunk else 0

/-- Where the reduced chunk of an instance goes. -/
def Collective.ownDst (c : Collective) : Nat := c.dstAt c.inst + (if c.op = 1 then c.me * c.chunk else 0)

/-- The transactions of the buffers of the running instance, by which the errors that its accesses meet are numbered: its source, its destination,
and its sums. -/
def Collective.touched (c : Collective) : List Nat :=
  transactions c.view c.src c.srcSize ++ transactions c.view (c.dstAt c.inst) c.dstSize ++ transactions c.view (c.sumsAt c.inst) c.sumsSize

/-- The errors among those of a command that an access of the engines meets, numbered over its own transactions (R117, R118). -/
def Collective.errsOn (c : Collective) (errs : DramErrs) (a len : Nat) : DramErrs :=
  if errs.isEmpty then []
  else (transactions c.view a len).zipIdx.flatMap (fun t => errs.filterMap (fun e => if c.touched[e.1]? = some t.1 then some (t.2, e.2) else none))

/-- The node by which the engine of a slice's own die reaches it (R136, R278). -/
def engineNode (home : Nat) : Node := if h : home / 128 < 20 then portNode ⟨home / 128, h⟩ home else portNode 0 home

/-- Memory serves the engine that reads the sums and writes the reduced chunk (R109, R127; log 184). -/
def State.sumsOpen (s : State) (c : Collective) : Bool :=
  s.farTurns engineNode (transactions c.view (c.sumsAt c.inst) c.sumsSize ++ transactions c.view c.ownDst c.chunk)

/-- Once every contribution has arrived the sums are written once in the collective's format (R281), as soon as memory serves that. -/
def State.foldSums (s : State) (q : Fin 64) (errs : DramErrs) : State :=
  match s.coll q with
  | none => s
  | some c =>
    if !c.running ∨ c.folded ∨ (c.op ≠ 1 ∧ c.op ≠ 2) ∨ !c.reducedAll then s
    else if c.fmt = 0 then s.setColl { c with folded := true }
    else if !s.sumsOpen c then s
    else
      let s := s.setColl { c with folded := true }
      let n := c.sumsSize
      let k := (s.visit c.view (c.sumsAt c.inst) n).devCheck c.view (c.sumsAt c.inst) n (c.errsOn errs (c.sumsAt c.inst) n)
      if k.2 then k.1.failHere q 0x104
      else ((k.1.visit c.view c.ownDst c.chunk).storeChecked c.view c.ownDst (c.fold (k.1.devRead c.view (c.sumsAt c.inst) n)) []).1

/-- Memory serves the engine of the port by which a transfer leaves (R127, R278; log 184). -/
def State.sourceOpen (s : State) (c : Collective) (x : Xfer) : Bool :=
  match c.fromAt x, s.egress (c.members.getD x.dest 0) with
  | some a, some p => s.farOpen (portNode p) c.view a c.chunk
  | _, _ => true

/-- A transfer of the running instance goes to its member (R278, R279): bytes of device memory, or what this module holds to pass on; sums go in
the descriptor's format. -/
def State.sendXfer (s : State) (c : Collective) (x : Xfer) (errs : DramErrs) : State :=
  let s := s.setColl { c with sent := c.sent ++ [x] }
  let op := if x.reduce then 3 else 2
  match c.fromAt x with
  | some a => (s.visit c.view a c.chunk).sendRegion c.q x.dest op (c.base x) (c.span x.reduce) a c.chunk c.view (c.errsOn errs a c.chunk)
  | none =>
    let held := find [] c.relay x.relayKey
    s.sendBytes c.q x.dest op (c.base x) (c.span x.reduce) (if x.reduce ∧ c.fmt ≠ 0 then c.fold held else held)

/-- The engines send what they may of the running instance (R278–R280); `errs` are the new errors that their accesses meet (R117, R118). -/
def State.advanceColl (s : State) (q : Fin 64) (errs : DramErrs) : State :=
  let s := s.foldSums q errs
  match s.coll q with
  | none => s
  | some c0 => (c0.planFor c0.me).foldl (fun s x =>
      match s.coll q with
      | some c => if c.running && !c.sent.contains x && c.knows x.dest && c.due x && s.sourceOpen c x then s.sendXfer c x errs else s
      | none => s) s

/-- FP32 sums with values added, each addition rounded (R281); without old sums the values themselves, as FP32. -/
def Collective.summed (c : Collective) (old : Option (List Byte)) (vals : List FVal) : List Byte :=
  (List.zip (List.range vals.length) vals).flatMap (fun e =>
    match old with
    | none => c.fp32 e.2
    | some l => natLe 4 ((floatFmt .fp32).add c.rounding 0 ((floatFmt .fp32).decode (leNat ((l.drop (4 * e.1)).take 4))) e.2).1)

/-- Bytes laid over a list at an offset. -/
def overlay (l : List Byte) (off : Nat) (bytes : List Byte) : List Byte :=
  l.take off ++ List.replicate (off - l.length) 0 ++ bytes ++ l.drop (off + bytes.length)

/-- Elements join the sums of the module's own chunk, which the running instance keeps in memory (R281): its own first, then others as they come. -/
def State.addSums (s : State) (c : Collective) (off : Nat) (own : Bool) (bytes : List Byte) (errs : DramErrs) : State :=
  let vals := c.values bytes
  let at_ := c.sumsAt c.inst + 4 * elements c.fmt off
  let r := if own then (s, false) else s.devCheck c.view at_ (4 * vals.length) errs
  if r.2 then r.1.failHere c.q 0x104
  else r.1.devWrite c.view at_ (c.summed (if own then none else some (r.1.devRead c.view at_ (4 * vals.length))) vals)

/-- Elements join the sums of a chunk that this module passes on (R278, R281; log 189). -/
def Collective.addRelay (c : Collective) (j off : Nat) (bytes : List Byte) : Collective :=
  let old := find [] c.relay j
  let k := 4 * elements c.fmt off
  { c with relay := insert c.relay j (overlay old k (c.summed (some (old.drop k)) (c.values bytes))) }

/-- The module's own contribution to the sums that it passes on (R278, R281). -/
def State.ownRelays (s : State) (c : Collective) (errs : DramErrs) : State :=
  if c.op ≠ 1 ∧ c.op ≠ 2 then s
  else (List.range c.size).foldl (fun s j =>
    match s.coll c.q with
    | none => s
    | some k =>
      if (k.gathered k.me j).isEmpty then s
      else
        let a := k.src + j * k.chunk
        let r := (s.visit k.view a k.chunk).devCheck k.view a k.chunk (k.errsOn errs a k.chunk)
        if r.2 then r.1.failHere k.q 0x104
        else r.1.setColl { k with relay := insert k.relay j (k.summed none (k.values (r.1.devRead k.view a k.chunk))) }) s

/-- The module's own contribution to the instance that starts (R275, R281). -/
def State.ownPart (s : State) (c : Collective) (errs : DramErrs) : State :=
  let read (s : State) (src : Nat) : State × Bool := (s.visit c.view src c.chunk).devCheck c.view src c.chunk (c.errsOn errs src c.chunk)
  let copy (s : State) (src dst : Nat) : State :=
    let k := read s src
    if k.2 then k.1.failHere c.q 0x104
    else ((k.1.visit c.view dst c.chunk).storeChecked c.view dst (k.1.devRead c.view src c.chunk) []).1
  if c.op = 1 ∨ c.op = 2 then
    let k := read s (c.src + c.me * c.chunk)
    if k.2 then k.1.failHere c.q 0x104
    else ((k.1.visit c.view (c.sumsAt c.inst) c.sumsSize).addSums c 0 true (k.1.devRead c.view (c.src + c.me * c.chunk) c.chunk) []).ownRelays c errs
  else if c.op = 3 then copy s c.src (c.dstAt c.inst + c.me * c.chunk)
  else if c.op = 4 then copy s (c.src + c.me * c.chunk) (c.dstAt c.inst + c.me * c.chunk)
  else if c.me = c.root then copy s c.src (c.dstAt c.inst)
  else s

/-- The next instance of a collective starts (R276, R280). -/
def State.startInstance (s : State) (q : Fin 64) (errs : DramErrs) : State :=
  match s.coll q with
  | none => s
  | some c =>
    let c := { c with inst := c.inst + 1, running := true, got := [], sent := [], relay := [], folded := false }
    let s := (s.setColl c).ownPart c errs
    let s := if c.op = 5 ∧ 2 ≤ c.inst then s.sendReady q c.inst else s
    s.advanceColl q errs

/-- A collective whose instances are done and whose transactions have been answered completes (R276). -/
def State.endColl (s : State) (q : Fin 64) : State :=
  match s.coll q with
  | none => s
  | some c =>
    if c.doneCount = c.instances ∧ c.open_ = 0 then
      (s.setFleet { s.fleet with collectives := s.fleet.collectives.filter (fun k => decide (k.q ≠ q)) }).complete q (plain 0)
    else s

/-! ## Step boundaries (R289–R292) -/

/-- A step boundary ends: a committed epoch activates, and the MARK completes (R289, R292). -/
def State.endStep (s : State) (q : Fin 64) (step : BitVec 64) (status : Nat) : State :=
  let s := s.activateAt step
  (s.setFleet { s.fleet with lastStep := step }).complete q (plain status)

/-- The copy of a step boundary ends, with success or with its first failure, after which no more of it leaves (R289, R292). One whose queue was
forced has no MARK left to complete (R225). -/
def State.endTwin (s : State) (ok : Bool) : State :=
  match s.fleet.twin with
  | none => s
  | some t =>
    let s := if ok then s else s.cutCopy
    let s := (s.setFleet { s.fleet with twin := none }).orphans OutFor.isTwin
    if t.stopping then s else s.endStep t.q t.step (if ok then 0 else 0x109)

/-! ## Outcomes (R258, R282) -/

/-- How a request ends (R258). -/
inductive Ending where
  | status (n : Nat)
  | portDown | portDisabled | timeout
  deriving DecidableEq, Repr

/-- Collective status of an ending that is not OK (Table: Collective statuses). -/
def Ending.code : Ending → Nat
  | .status _ => 0x100
  | .portDown => 0x101
  | .portDisabled => 0x102
  | .timeout => 0x103

/-- Berux status that an ending carries. -/
def Ending.berux : Ending → Nat
  | .status n => n
  | _ => 0

/-- A request of the engines ends (R258, R282, R292). -/
def State.endRequest (s : State) (p : Fin 20) (r : OutReq) (e : Ending) : State :=
  match r.purpose with
  | .gone => s
  | .coll q m =>
    if e = .status 0 then
      match s.coll q with
      | some c => (s.setColl { c with open_ := c.open_ - 1 }).endColl q
      | none => s
    else s.failColl q e.code (failDetail m e.berux p)
  | .twin _ _ =>
    match s.fleet.twin with
    | none => s
    | some t =>
      if e ≠ .status 0 ∧ !t.stopping then s.endTwin false
      else
        let s := s.setFleet { s.fleet with twin := some { t with open_ := t.open_ - 1 } }
        if t.open_ ≤ 1 ∧ (t.committed || t.stopping) then s.endTwin true else s

/-- Requests of a port end alike. -/
def State.endRequests (s : State) (p : Fin 20) (l : List OutReq) (e : Ending) : State :=
  l.foldl (fun s r => s.endRequest p r e) s

/-! ## A port that stops (R240, R257, R263–R265, R587) -/

/-- Whether a response answers a request. -/
def OutReq.matches (r : OutReq) (b : List Byte) : Bool :=
  decide (r.tag.toNat = tTag b ∧ r.dest = tSrc b ∧ responseType r.ttype.toNat = some (tType b))

/-- Requests that none of some responses answers. -/
def unansweredBy : List Trans → List OutReq → List OutReq
  | [], l => l
  | t :: rest, l => unansweredBy rest (l.eraseP (fun r => r.matches t.bytes))

/-- Requests that some responses answer, one each. -/
def answeredBy : List Trans → List OutReq → List OutReq
  | [], _ => []
  | t :: rest, l => (l.find? (fun r => r.matches t.bytes)).toList ++ answeredBy rest (l.eraseP (fun r => r.matches t.bytes))

/-- A port without a link: what its training set is gone, no application is selected, and nothing is on its way (Table: BX_Pp_STATUS fields, Table:
BX_Pp_CABLE fields, R257). -/
def Port.cleared (x : Port) : Port :=
  { x with
    lanes := 0, width := 0, gen := 0, cfg := 3, own := 0, word := none, same := 0, seen := false, replay := [], nak := false, naks := 0
    owed := Vector.replicate 6 0, credits := Vector.replicate 6 0, tx := Vector.replicate 6 [], part := Vector.replicate 6 []
    sinceSide := 15, sideTx := [], badWords := [], flush := none, attempts := 0, unanswered := 0, app := none, precode := 0, discard := false
    cable := x.cable &&& ~~~2 }

/-- Requests received that are not held behind an earlier one of their source (R255, R257). -/
def unheld : List Nat → List Trans → List Trans
  | _, [] => []
  | seen, t :: rest =>
    if bit (tFlags t.bytes) 0 ∧ seen.contains (tSrc t.bytes) then unheld seen rest
    else t :: unheld (tSrc t.bytes :: seen) rest

/-- A port enters DOWN from DETECT, TRAIN or NEGOTIATE: its cause is recorded and nothing else happens (R587). -/
def State.portFails (s : State) (p : Fin 20) (cause : BitVec 4) : State :=
  s.setPort p { s.ports[p].cleared with state := .down, cause := cause }

/-- A port goes down from ACTIVE or RETRAIN (R257, R298). -/
def State.portDown (s : State) (p : Fin 20) (cause : BitVec 4) : State :=
  let x := s.ports[p]
  let lost := unansweredBy x.responses x.out
  let s := s.setPort p { x.cleared with
    state := .down, cause := cause
    out := answeredBy x.responses x.out
    requests := unheld [] x.requests
    downCount := if x.downCount = BitVec.allOnes 32 then x.downCount else x.downCount + 1 }
  let s := s.endRequests p lost .portDown
  let s := (s.flag (pReg p + 0x0C) 0).record 0x20 .warning true p (natLe 1 cause.toNat ++ natLe 2 (bits x.peer.toNat 11 0))
  let s := s.signalBoth
  if p = 19 then s.askPromotion else s

/-- The responses of a port that are still to be handled end the requests they answer, and every other request ends as told: each has exactly one
outcome (R258). -/
def State.closeOut (s : State) (p : Fin 20) (e : Ending) : List Trans → List OutReq → State
  | [], out => s.endRequests p out e
  | t :: rest, out => match out.find? (fun r => r.matches t.bytes) with
    | some r => (s.endRequest p r (.status (tOp t.bytes))).closeOut p e rest (out.eraseP (fun r => r.matches t.bytes))
    | none => s.closeOut p e rest out

/-- A port enters DISABLED: its own requests end with PORT_DISABLED but for those answered, and requests of others that it holds are
discarded (R240, R257, R258, R263–R265). -/
def State.portOff (s : State) (p : Fin 20) : State :=
  let x := s.ports[p]
  (s.setPort p { x.cleared with state := .disabled, out := [], requests := unheld [] x.requests, responses := [] }).closeOut p .portDisabled
    x.responses x.out

/-- Every port goes to DISABLED, as the dies lose their clocks or a Stage 3 entry begins (R432, R465). -/
def State.portsOff (s : State) : State :=
  (List.finRange 20).foldl (fun (s : State) (p : Fin 20) => if s.ports[p].state = .disabled then s else s.portOff p) s

/-- A flush ends its unanswered requests and sends its tombstone (R263 steps 3 and 4). -/
def State.sendTombstone (s : State) (p : Fin 20) : State :=
  let x := s.ports[p]
  match x.flush with
  | none => s
  | some f =>
    if f.sent.isSome then s
    else
      let lost := unansweredBy x.responses x.out
      let s := s.setPort p { x with
        out := answeredBy x.responses x.out
        tx := Vector.replicate 6 [], flush := some { f with sent := some x.txSeq } }
      let s := s.endRequests p lost .portDisabled
      let c := s.message 0x20 (s.portId p) (bits s.ports[p].peer.toNat 11 0)
        (natLe 1 p ++ natLe 1 f.reason.toNat ++ List.replicate 6 0 ++ natLe 8 s.fleet.epoch.toNat)
      c.1.sendSide p c.2

/-- A flush begins on an ACTIVE port; a forced one goes straight to its tombstone (R263). -/
def State.beginFlush (s : State) (p : Fin 20) (reason : BitVec 8) (forced : Bool) : State :=
  let s := s.setPort p { s.ports[p] with state := .flush, flush := some { reason := reason, sent := none } }
  if forced then s.sendTombstone p else s

/-- The link fails during a flush (R265). -/
def State.flushFails (s : State) (p : Fin 20) (cause : BitVec 4) : State :=
  let s := s.portOff p
  s.setPort p { s.ports[p] with cause := cause }

/-- A port stops working with a cause, whatever its state (R257, R265, R587). -/
def State.portLost (s : State) (p : Fin 20) (cause : BitVec 4) : State :=
  match s.ports[p].state with
  | .active => s.portDown p cause
  | .retrain => s.portDown p cause
  | .flush => s.flushFails p cause
  | .disabled => s
  | .down => s
  | _ => s.portFails p cause

/-- An ACTIVE port retrains; the fifth retrain within 60 s takes it down (R256). -/
def State.retrain (s : State) (p : Fin 20) : State :=
  let x := s.ports[p]
  if x.state ≠ .active then s
  else
    let times := recent s.clk.us 60000000 x.retrains
    let s := s.setPort p { x with
      state := .retrain, retrains := times, naks := 0, badWords := []
      retrainCount := if x.retrainCount = BitVec.allOnes 32 then x.retrainCount else x.retrainCount + 1 }
    let s := s.flag (pReg p + 0x0C) 1
    if 5 ≤ times.length then s.portDown p 0xA else s

/-- A holder fences itself: fetching stops, its collectives end, its role is 0, and the fence is reported and recorded (R297). -/
def State.fence (s : State) (h : HolderLease) : State :=
  let s := s.setFleet { s.fleet with fenced := true, role := 0 }
  let s := s.fleet.collectives.foldl (fun s c => s.failHere c.q 0x108) s
  let s := s.endTwin false
  (s.report 3 0).record 0x23 .fault false (h.id.toNat % 2 ^ 32) (natLe 4 h.acked.toNat)

end Sys2Proof.Machine
end

