-- ==== Sys2Proof/Machine/RegOps.lean ====
section
/-! DEFINITION. The registers a host writes: their fields, listed encodings and access codes, and a write of their fields (R12, R14–R16,
R572, R574, R575). -/

namespace Sys2Proof.Machine

open Sys2Proof

/-- A writable field: its bits and its listed encodings (R16). -/
structure Field where
  hi : Nat
  lo : Nat
  listed : Nat → Bool

/-- A field every encoding of which is listed. -/
def anyField (hi lo : Nat) : Field := { hi := hi, lo := lo, listed := fun _ => true }

/-- A field whose listed encodings are a range. -/
def rangeField (hi lo a b : Nat) : Field := { hi := hi, lo := lo, listed := fun n => decide (a ≤ n ∧ n ≤ b) }

/-- A field with one unlisted encoding. -/
def exceptField (hi lo k : Nat) : Field := { hi := hi, lo := lo, listed := fun n => n != k }

/-- A module identifier, whose pods 2 and 3 are reserved (R27). -/
def idField : Field := { hi := 11, lo := 0, listed := fun n => decide (n < 2048) }

/-- Fields of the queue registers, by their offset within the queue (Table: HQ_Qq_CFG fields and its neighbours). -/
def queueFields (o : Nat) : List Field :=
  if o = 0x00 ∨ o = 0x08 then [anyField 63 12]
  else if o = 0x10 ∨ o = 0x18 then [anyField 63 3]
  else if o = 0x20 then [rangeField 20 18 2 2, anyField 17 16, rangeField 15 8 1 128, rangeField 7 4 4 15, rangeField 3 0 4 15]
  else if o = 0x24 then [anyField 1 0]
  else if o = 0x2C then [anyField 9 8]
  else []

/-- Fields of the port registers, by their offset within the port (Table: BX_Pp_CTRL fields, Table: BX_Pp_CFG fields, Table:
BX_Pp_PEER and BX_Pp_EXPECT fields). -/
def portFields (o : Nat) : List Field :=
  if o = 0x00 then [anyField 1 0]
  else if o = 0x04 then [anyField 2 2, anyField 1 1, anyField 0 0]
  else if o = 0x14 then [anyField 31 31, rangeField 20 16 0 19, idField]
  else []

/-- The fields of a register that a host write changes; none for a register that no host write changes (R574). -/
def fieldsOf (off : Nat) : List Field :=
  if off = 0x00004 then [anyField 5 0]
  else if off = 0x00008 then [anyField 0 0]
  else if off = 0x00010 then [anyField 40 28, exceptField 1 0 3]
  else if 0x1000 ≤ off ∧ off < 0x2000 then queueFields (off % 0x40)
  else if off = 0x10000 then [rangeField 15 0 10 10000]
  else if off = 0x20000 then [anyField 2 2, anyField 1 1, anyField 0 0]
  else if off = 0x20028 then [rangeField 7 0 6 168]
  else if off = 0x2002C then [rangeField 7 0 90 100]
  else if off = 0x30000 then [anyField 31 31, idField]
  else if off = 0x30004 then [rangeField 31 16 100 10000, rangeField 15 0 1 10000]
  else if off = 0x30040 then [anyField 13 12, anyField 11 0]
  else if 0x31000 ≤ off ∧ off < 0x32400 then portFields (off % 0x100)
  else if off = 0x40008 then [exceptField 9 8 3, anyField 0 0]
  else if off = 0x4000C then [anyField 8 0]
  else if off = 0x40020 then [exceptField 11 9 0, anyField 8 8, exceptField 5 4 3, anyField 0 0]
  else if off = 0x5000C then [anyField 13 12, anyField 11 0]
  else if off = 0x60008 then [rangeField 15 8 1 100, anyField 0 0]
  else if off = 0x80008 then [exceptField 1 0 3]
  else if off = 0x8000C then [anyField 0 0]
  else if off = 0x80010 then [anyField 0 0]
  else if off = 0x8001C then [anyField 31 0]
  else if off = 0x90010 then [anyField 40 12, exceptField 1 0 3]
  else if off = 0x90018 then [rangeField 11 8 4 10, rangeField 7 4 4 10, exceptField 1 0 3]
  else if off = 0x9001C then [anyField 0 0]
  else if off = 0x90024 then [anyField 0 0]
  else if 0x90200 ≤ off ∧ off < 0x90600 ∧ off % 4 = 0 then [anyField 31 0]
  else if off = 0xA0010 then [rangeField 15 8 1 60, rangeField 7 0 1 100]
  else if off = 0xB0008 then [anyField 0 0]
  else []

/-- The RWL registers (R575). -/
def isRwl (off : Nat) : Bool :=
  [0x10000, 0x20028, 0x2002C, 0x30000, 0x30004, 0x40008, 0x40020, 0x60008, 0x8000C, 0x80010, 0xA0010, 0xB0008].contains off ||
  (0x31000 ≤ off && off < 0x32400 && (off % 0x100 == 0x04 || off % 0x100 == 0x14))

/-- Registers of the HQ_, MEM_, CNP_ and BX_ blocks (R573). -/
def closedBlock (off : Nat) : Bool := off < 0x40000

/-- The bad-encoding bit of a block, 0 but for PWR_ERR's 8 and LE_ERR's 4; the HQ_, CNP_ and MEM_ blocks use HQ_STATUS of the writing
function (Table: BAR0 block bases). -/
def State.badEncoding (s : State) (fn : Fn) (off : Nat) : State :=
  let b := off / 0x10000
  if b ≤ 2 then s.setStatus fn hqStatus 0
  else if b = 3 then s.flag bxStatus 0
  else if b = 4 then s.flag pwrErr 8
  else if b = 5 then s.flag leErr 4
  else if b = 6 then s.flag sapErr 0
  else if b = 7 then s.flag hwdWarn 0
  else if b = 8 then s.flag clkErr 0
  else if b = 9 then s.flag crnErr 0
  else if b = 0xA then s.flag logErr 0
  else s.flag svcErr 0

/-- A field of a value takes its new bits where their encoding is listed (R16); reserved bits keep theirs (R15). -/
def mergeField (old new : Nat) (f : Field) : Nat :=
  let v := bits new f.hi f.lo
  if f.listed v then old - bits old f.hi f.lo * 2 ^ f.lo + v * 2 ^ f.lo else old

/-- A write of a register's fields, each for itself: an unlisted encoding leaves its field and sets the block's bad-encoding bit (R16). -/
def State.putFields (s : State) (fn : Fn) (off v : Nat) : State :=
  let fs := fieldsOf off
  let s := s.setReg fn off (BitVec.ofNat 64 (fs.foldl (fun o f => mergeField o v f) (s.reg fn off).toNat))
  if fs.all (fun f => f.listed (bits v f.hi f.lo)) then s else s.badEncoding fn off

/-- A write to an RWL register: ignored and recorded once the module is sealed (R14, R476). -/
def State.writeRwl (s : State) (fn : Fn) (off v : Nat) : State :=
  if s.sealed then s.record 0x0A .warning true off (natLe 4 v) else s.putFields fn off v

/-- The registers of some offsets return to their reset values, with their latches and captures empty (R10, R12). -/
def State.resetRegs (s : State) (which : Nat → Bool) : State :=
  let off (k : Nat) : Nat := k % 2 ^ 20
  { s with
    regs := s.regs.filter (fun e => !which (off e.1))
    latch := s.latch.filter (fun e => !which (off e.1))
    capture := s.capture.filter (fun e => !which (off e.1)) }

end Sys2Proof.Machine
end

