-- ==== Sys2Proof/Machine/Quiesce.lean ====
section
/-! DEFINITION. The ordered quiesce, and what a module restart or a re-entry resets (R432, R474, R477, R478, R500). -/

namespace Sys2Proof.Machine

open Sys2Proof

/-! ## Rings stopped (R500) -/

/-- A ring stops: requests taken and not answered receive no response (R500). -/
def Ring.halt (r : Ring) : Ring := { r with mode := .stopped, requests := [], replies := [], kicked := false, stopping := false, due := [], starting := false }

/-- Both rings stop and CRN_RING_BASE returns to its reset value (R500). -/
def State.stopRings (s : State) : State :=
  { s.resetRegs (fun o => o == crnRingBase || o == crnRingBase + 4) with rings := s.rings.map Ring.halt }

/-! ## What a restart or a re-entry covers (R474) -/

/-- A queue after a restart: its owner as at power-on, DISABLED, with its read-only counts kept (R474, Table: Reset kinds). -/
def Queue.restarted (q : Fin 64) (x : Queue) : Queue :=
  { Queue.reset q with cause := x.cause, result := x.result, fetched := x.fetched, done := x.done, lost := x.lost }

/-- RW and W1C fields of the HQ_, MEM_, CNP_ and BX_ blocks, queue ownership, device memory, scratchpads and the ring registers return
to their reset values; RWL fields keep theirs, and every port is DISABLED (R465, R474, R500). -/
def State.restartCover (s : State) : State :=
  let s := s.stopRings.portsOff
  let s := s.resetRegs (fun o => (closedBlock o && !isRwl o) || o == crnRingCtrl)
  { s with
    queues := Vector.ofFn (fun q => (s.queues[q]).restarted q)
    hq := { s.hq with launches := [], ready := [], jobs := [], hints := [], maint := false, stopped := true }
    mem := { s.mem with dram := [], bad := [], reqs := [], tracker := [], openRow := [] }
    canopy := { s.canopy with flits := [] }
    tiles := s.tiles.map (fun (e : Nat × Tile) => (e.1, { e.2 with pad := [], padBad := [] })) }

/-! ## Writes of RWL registers that wait (R579) -/

/-- The module has a new identifier: its role and its twin entries as a standby follow the blocks in force (R299, R300; log 98). -/
def State.newIdentity (s : State) : State :=
  match s.fleet.blocks with
  | none => s
  | some b =>
    let me := s.myId
    let mine : List Standby := (b.twins.filter (fun t => t.standby == me)).map (fun (t : TwinEntry) =>
      match s.fleet.standbys.find? (fun o => o.active == t.active && o.witness == t.witness) with
      | some o => o
      | none => { active := t.active, witness := t.witness, asking := false, promoted := false })
    let promoted := mine.any (fun t => t.promoted)
    s.setFleet { s.fleet with standbys := mine, role := if s.fleet.fenced || promoted then s.fleet.role else heartRole (roleIn b me) }

/-- A write of BX_MODULE_ID (R27, R270). -/
def State.writeModuleId (s : State) (fn : Fn) (v : Nat) : State :=
  let t := s.writeRwl fn bxModuleId v
  if t.myId = s.myId ∧ t.idValid = s.idValid then t else t.newIdentity

/-- Writes that came while their block was closed during a restart or re-entry are applied; where the module has been sealed since, each is
ignored and recorded (R14, R579; log 121). -/
def State.applyLate (s : State) : State :=
  s.late.foldl (fun (s : State) (e : Fn × Nat × BitVec 32) =>
    if e.2.1 = bxModuleId then s.writeModuleId e.1 e.2.2.toNat else s.writeRwl e.1 e.2.1 e.2.2.toNat) { s with late := [] }

/-! ## The ordered quiesce (R432) -/

/-- LEASE_RELEASE for every lease that this module holds, as a drained shutdown ends it (R296). -/
def State.releaseLeases (s : State) : State :=
  (s.fleet.holders.filter (fun h => h.id != 0)).foldl (fun s h => s.sendLease 0x14 h.witness (leaseBody h.id s.myId h.standby h.count 0))
    (s.setFleet { s.fleet with holders := s.fleet.holders.map (fun (h : HolderLease) => { h with id := 0 }) })

/-- Steps 1 to 3 of the quiesce at the end of its 400 ms: every queue that still holds fetched work is forced, leases are released, every ACTIVE
port flushes with reason 3, and the ring log is flushed (R296, R432). -/
def State.endFetched (s : State) : State :=
  let s := (List.finRange 64).foldl (fun (s : State) (q : Fin 64) =>
    if s.queues[q].inflight.isEmpty then s else s.forceCommand q) s
  let s := s.releaseLeases
  let s := (List.finRange 20).foldl (fun (s : State) (p : Fin 20) =>
    if s.ports[p].state = .active then s.beginFlush p 3 false else s) s
  let s := s.flushLog true
  { s with budget := { s.budget with quiesce := some .flushing } }

/-- QUIESCE_FETCH_DEADLINE (R225, R263, R432, R541). -/
def execQuiesceFetchDeadline (s : State) : Answer :=
  .next (if s.stage = .quiescing ∧ s.budget.quiesce = some .draining then s.endFetched else s)

/-- Step 3 ends: records still unwritten, open ones too, are lost and not counted, and one that is partly programmed is passed over (R542; log 211);
every port goes to DISABLED, as its die loses its clocks. -/
def State.endFlush (s : State) : State :=
  ({ s with log := { s.log.passCut with opened := [], closed := [], program := [], forced := false } }).portsOff

/-- Stage 3 entry begins again, after the power-down of R477, for a restart (R474). -/
def State.enterAgain (s : State) : State :=
  let s := s.restartCover
  { s with
    stage := .entry
    canopy := { s.canopy with edgeStatus := 0 }
    start := { s.start with dies := Vector.replicate 4 .waiting, restarting := false, retry := false, retried := false }
    budget := { s.budget with quiesce := none, stopped := none, hold := false }
    hwd := { s.hwd with holdReq := false } }

/-- QUIESCE_POWER_DOWN (R432, R474, R477, R478, R542): the log flush has ended; the dies go, and then the store switches open, or a restart
begins Stage 3 entry, unless a DIE_OFF keeps a die off until the next power-on (R444). -/
def execQuiescePowerDown (s : State) : Answer :=
  .next (if s.stage = .quiescing ∧ s.budget.quiesce = some .flushing then
    let s := s.endFlush.diesDown
    if s.start.restarting && !s.hwd.dieOff.toList.any id then s.enterAgain
    else s.becomeQuiesced
  else s)

end Sys2Proof.Machine
end

