-- ==== Sys2Proof/Machine/CrownBoot.lean ====
section
/-! DEFINITION. Crown's boot: image selection by the boot ROM, the start of the firmware, the opening of the ring log, and a Crown restart
(R463, R474, R475, R488–R491, R533, R542, R544). -/

namespace Sys2Proof.Machine

open Sys2Proof

/-! ## Image selection (R488–R491) -/

/-- The image of a slot passes its check: it is whole, and its svn is at least the fused counter (R488). -/
def State.slotPasses (s : State) (k : Fin 2) : Bool :=
  match s.crown.slots[k] with
  | some i => decide (s.crown.fused ≤ i.svn)
  | none => false

/-- Version and svn of a slot's image, zero where its header is unreadable (Table: Record types). -/
def State.slotVersion (s : State) (k : Fin 2) : BitVec 32 × Nat :=
  match s.crown.slots[k] with
  | some i => (i.version, i.svn)
  | none => (0, 0)

/-- Version and svn of the running image, which its slot need not hold any longer; zero where none runs (R491, R516, R519). -/
def State.imageVersion (s : State) : BitVec 32 × Nat :=
  match s.crown.image with
  | some i => (i.version, i.svn)
  | none => (0, 0)

/-- The ROM boots a slot: one recorded as pending runs as the trial slot (R489, R492). -/
def State.bootSlot (s : State) (k : Fin 2) : State :=
  let trial := decide (s.crown.pendingSlot = some k)
  { s with crown := { s.crown with rom := false, slot := k, trial := trial, trialAt := s.clk.us, image := s.crown.slots[k] } }

/-- The boot ROM selects the image (R489, R491): the pending slot or else the active one; the other where it fails, or where its image has
caused three watchdog restarts within 10 min and the other passes; else ROM recovery. -/
def State.selectSlot (s : State) : State :=
  let first : Fin 2 := s.crown.pendingSlot.getD s.crown.active
  let other : Fin 2 := 1 - first
  if decide (3 ≤ s.crown.dogs[s.crown.slot].length) && s.slotPasses (1 - s.crown.slot) then
    ({ s with crown := { s.crown with dogs := s.crown.dogs.set s.crown.slot [] } }).bootSlot (1 - s.crown.slot)
  else if s.slotPasses first then s.bootSlot first
  else if s.slotPasses other then
    let v := s.slotVersion first
    let s := { s with crown := { s.crown with notes := s.crown.notes ++ [CrownNote.fallback first v.1 v.2], dogs := s.crown.dogs.set first [] } }
    (s.flag crnErr 1).bootSlot other
  else { s with crown := { s.crown with rom := true, trial := false, image := none } }

/-- Crown starts in its boot ROM, at a power-on or at a restart of Crown: the secure region is wiped and tested with Crown's other memories, the ring log buffer by TRANSPARENT
at a restart, and an image is selected (R489, R526, R532, R533). -/
def State.bootRom (s : State) (restart : Bool) : State :=
  let m (k : SramKind) (t : Bool) : March := { mem := sramRow k, inst := 0, transparent := t }
  let s := { s with
    crown := { s.crown with
      running := false, unwrapped := false, derived := false, nonces := Vector.replicate 3 none, load := none, clearing := none, checking := [], asked := []
      secureBad := false }
    sram := { s.sram with
      bad := s.sram.bad.filter (fun k => decide (k / 4096 < 7))
      marches := s.sram.marches.filter (fun (k : March) => decide (k.mem < 7)) ++
        [m .secure false, { m .secure false with zero := true }, m .crown false, m .log restart] } }
  s.selectSlot

/-! ## The ring log at a start (R544) -/

/-- The append point found from record boundary `p` on, and the boundaries at which fillers are written, with fuel: a boundary byte 0xFF
with 512 erased bytes from it is the append point; one with later bytes within 512 not erased takes a filler. A record that the programmed
bytes cut off is covered by fillers (log 211). -/
def findAppend (flash : List Byte) (p : Nat) : Nat → Nat × List Nat
  | 0 => (p, [])
  | n + 1 =>
    match flash.drop p with
    | [] => (p, [])
    | b :: rest =>
      if b = 0 then findAppend flash (p + 8) n
      else if b = 0xFF then
        if (rest.take 511).all (fun x => x == 0xFF) then (p, [])
        else
          let r := findAppend flash (p + 8) n
          (r.1, p :: r.2)
      else if rest.length + 1 < 8 * (b.toNat % 64 + 1) then
        let k := (rest.length + 8) / 8
        (p + 8 * k, (List.range k).map (fun i => p + 8 * i))
      else findAppend flash (p + 8 * (b.toNat % 64 + 1)) n

/-- The flash up to its append point, erased bytes reading 0xFF, and the offsets of the fillers that it takes (R536). -/
def openedFlash (flash : List Byte) : List Byte × List Nat :=
  let r := findAppend flash 0 (flash.length / 8 + 1)
  ((flash ++ List.replicate (r.1 - flash.length) 0xFF).take r.1, r.2)

/-- Crown opens the log: the append point is found, records not marked written are to be written again, in order, and the state is what the
partition shows (R543–R545). -/
def State.openLog (s : State) : State :=
  let l := s.log
  let f := openedFlash l.flash
  let mode : LogMode := if l.clear.isSome then .clearing else if !l.tail.isEmpty then .full
    else if l.mode = .flashFailed then .flashFailed else .recording
  let l := { l with
    flash := f.1, fillers := f.2, program := [], verifyFails := 0, forced := false, resume := mode
    closed := l.closed.map (fun (e : LogEntry) => { e with placed := none })
    mode := if s.hwd.brownout && mode == .recording then .suspended else mode }
  ({ s with log := l } : State).writeFillers.flushLog false

/-! ## Start of the firmware (R463) -/

/-- CLK_RESET_CAUSE (Table: CLK_RESET_CAUSE fields). -/
def State.resetCause (s : State) : Nat := min 65535 s.start.restarts * 65536 + s.start.kind % 16 * 16

/-- Sensor numbers of a tamper record (Table: Record types). -/
def sensorCode : TamperSensor → Nat
  | .vctl => 1
  | .clock => 2
  | .temperature => 3
  | .mesh => 4

/-- Code of a life-cycle state (Table: Life-cycle states). -/
def lifeCode : Life → Nat
  | .blank => 0
  | .provisioned => 1
  | .deployed => 2
  | .service => 3
  | .retired => 4

/-- What a start of the firmware writes about the stop before it (R486, R489, R491, R509, R513). -/
def State.writeNote (s : State) (n : CrownNote) : State :=
  match n with
  | .watchdog k v svn => s.record 0x72 .warning false k.val (natLe 4 v.toNat ++ natLe 1 svn)
  | .fallback k v svn => s.record 0x71 .warning false k.val (natLe 4 v.toNat ++ natLe 1 svn)
  | .tamper x => (s.record 0x76 .fault false (sensorCode x) []).report 0xB (lifeCode s.crown.life)
  | .serviceEnd => (s.record 0x74 .info false 2 (natLe 2 3)).report 0xB 2
  | .configLost => s.record 0x70 .fault false 0 []

/-- Crown derives the keys of its fused secret and unwraps the identity key into the secure region (R514, R532, R533). -/
def State.unwrapKey (s : State) : State :=
  let c := s.crown
  { s with crown := { c with derived := !c.secureBad, unwrapped := c.identity && !c.secureBad && c.life != .blank && c.life != .retired } }

/-- A wipe of the secure region while the firmware runs (R532, R533): all that it holds goes, and ZERO_CHECK begins, after which the identity key is
unwrapped again. -/
def State.wipe (s : State) : State :=
  let m : March := { mem := sramRow .secure, inst := 0, transparent := false, zero := true }
  { s with
    crown := { s.crown with
      unwrapped := false, derived := false, checking := [], nonces := Vector.replicate 3 none, spdm := Vector.replicate 2 .resynch }
    sram := { s.sram with marches := s.sram.marches.filter (fun k => k.mem != sramRow .secure) ++ [m] } }

/-- A wipe of the secure region is under way (R534). -/
def State.wiping (s : State) : Bool := s.sram.marches.any (fun k => k.mem == sramRow .secure)

/-- Each core controller's stored values are written with the recorded trim (R338, R414, R463). -/
def State.trimCores (s : State) : State :=
  { s with power := { s.power with cores := Vector.ofFn (fun d =>
      { s.power.cores[d] with vop := fuseVop.map (fun (v : Nat) => (min 850 ((v : Int) + s.budget.trim[d])).toNat) }) } }

/-- Crown's Stage 1 actions after a power-on: its records, the stored voltages, the stack ceiling and the first share (R383, R398, R419, R447,
R452, R463). -/
def State.stage1Actions (s : State) : State :=
  let s := s.record 0x01 .info false 0 (natLe 4 s.clk.cycles.toNat ++ natLe 4 s.resetCause)
  let s := if s.hwd.mark then ({ s with hwd := { s.hwd with mark := false } }).record 0x06 .fault false 0 [] else s
  let s := s.trimCores
  let s := s.setCeiling (if s.sap.openTap = 0 then 53200 else 52900)
  ({ s with start := { s.start with ran := true } }).firstShare

/-- The firmware runs (R463, R475, R500): a restart reports itself, signals vector 65 for the rings that it stopped, and enters a hold that Heartwood
still asks for (R444). -/
def State.startFirmware (s : State) : State :=
  let again := s.start.ran
  let s := { s with crown := { s.crown with running := true } }
  let s := s.unwrapKey.openLog
  let s := if again then s else s.stage1Actions
  let s := s.copyTrips
  let notes := s.crown.notes
  let s := notes.foldl State.writeNote { s with crown := { s.crown with notes := [] } }
  if again then ((((s.flag crnErr 6).report 0xA 0).signalRing .A).signalRing .B).takeHold else s

/-! ## Crown restart (R474, R475, R491, R500) -/

/-- A ring and its mailbox as a Crown restart leaves them (R474, R500). -/
def Ring.crownLost (r : Ring) : Ring := { r.halt with held := [], mboxBusy := false, mboxDone := false, eventSeq := 0, eventsLost := 0 }

/-- The flash completes the page program that it has accepted, and nothing further is issued (R542). -/
def LogState.stopProgram (l : LogState) : LogState :=
  { l with flash := l.flash ++ l.program.take l.pageLeft, program := [] }

/-- Stage 3 entry is abandoned by a Crown restart, which is no abandoned entry of the bus (R481). -/
def State.dropEntry (s : State) : State :=
  if s.stage = .entry then
    { s.diesDown with stage := .stage2, start := { s.diesDown.start with dies := Vector.replicate 4 .waiting } }
  else s

/-- `test loop` leaves nothing behind when Crown stops: the phase returns to service (R559, R567). -/
def State.dropLoopTest (s : State) : State :=
  match s.svc.test with
  | some (.loop _ _) => s.setPhase .service
  | _ => s

/-- Crown restarts: its state and the CRN_ block are lost, both rings stop, and everything else goes on (R474, R475, R500). -/
def State.crownRestart (s : State) : State :=
  let s := s.dropLoopTest.crownGone.dropEntry
  let s := s.resetRegs (fun o => decide (0x90000 ≤ o ∧ o < 0xA0000))
  let s := { s with
    rings := s.rings.map Ring.crownLost
    log := s.log.stopProgram
    crown := { s.crown with zjErr := Vector.replicate 2 0, zjDup := false, spdm := Vector.replicate 2 .resynch }
    hwd := { s.hwd with strobe := false } }
  s.bootRom true

end Sys2Proof.Machine
end

