-- ==== Sys2Proof/Machine/ConsoleBase.lean ====
section
/-! DEFINITION. How the console takes a command: its class, what serves it, and the count of changes (R551–R555, R568). -/

namespace Sys2Proof.Machine

open Sys2Proof

/-- Command classes (R554). -/
inductive CmdClass where
  | a | r | t | s
  deriving DecidableEq, Repr

/-- The class is accepted in a life-cycle state (R554). -/
def classAllows (c : CmdClass) (l : Life) : Bool :=
  match c with
  | .a => true
  | .r => decide (l ≠ .retired)
  | .t => decide (l = .provisioned ∨ l = .deployed ∨ l = .service)
  | .s => decide (l = .service)

/-- A class S or class A command starts: it is counted, SVC_ERR.changed is set, and the hosts are told where SVC_CFG.notify asks for it
(R568). -/
def State.countChange (s : State) (c : CmdClass) : State :=
  if c = .s ∨ c = .a then
    let s := ({ s with svc := { s.svc with changes := min 65535 (s.svc.changes + 1) } }).flag svcErr 1
    if bit (s.mreg svcCfg) 0 then s.signalBoth else s
  else s

/-- A line arrives (SVC_STATUS.session). -/
def State.heardByte (s : State) : State := { s with svc := { s.svc with lastByte := some s.clk.us } }

/-- A line that the console takes is echoed (R551). -/
def State.hears (s : State) (line : List Byte) : State := s.heardByte.emit (.console line)

/-- Error of a command that needs Crown's firmware while it does not run: `err 6` from a boot ROM whose memories have failed (R531), else `err 8`. -/
def State.crownErr (s : State) : Nat := if !s.crown.running && (s.memBad .crown || s.memBad .log) then 6 else 8

/-- The console takes a command: while one runs, and before Stage 0, every byte is discarded; otherwise its line is echoed, a command that Crown
serves needs the firmware, and its class the life-cycle state (R551–R554). `line` is the command as typed, its numbers in decimal (log 114), and
`check` gives the error of a command that does not start, 0 where it does. -/
def State.console (s : State) (line : String) (c : CmdClass) (byHwd : Bool) (check : State → Nat) (run : State → State) : State :=
  if !s.svc.ready then s
  else if s.svc.test.isSome then s.heardByte
  else
    let s := s.hears (ascii line)
    if !byHwd && !s.crown.running then s.reply s.crownErr
    else if !classAllows c s.crown.life then s.reply 4
    else if check s ≠ 0 then s.reply (check s)
    else run (s.countChange c)

/-- The console takes a command with arguments: `err 2` where one is missing, unlisted or out of range (R551). -/
def State.consoleArg {α : Type} (s : State) (line : String) (c : CmdClass) (byHwd : Bool) (arg : Option α) (check : α → State → Nat)
    (run : α → State → State) : State :=
  s.console line c byHwd (fun s => match arg with
    | none => 2
    | some x => check x s) (fun s => match arg with
    | none => s
    | some x => run x s)

/-- No condition beyond the class. -/
def anyTime (_ : State) : Nat := 0

end Sys2Proof.Machine
end

