-- ==== Sys2Proof/Machine/Crypto.lean ====
section
/-! DEFINITION. SHA-256, and the verification of RSASSA-PSS signatures with RSA-3072 (R301, R487, R488, R510). -/

namespace Sys2Proof.Machine

open Sys2Proof

/-! ## SHA-256

The manual names SHA-256 (R301, R487) and leaves its definition to the standard: words of 32 bits, 64 rounds, constants from the roots of primes. -/

/-- The greatest r below 2 ^ bits with r ^ k ≤ n, found from its highest bit down. -/
def rootBelow (k n : Nat) : Nat → Nat
  | 0 => 0
  | bits + 1 =>
    let r := 2 * rootBelow k (n / 2 ^ k) bits
    if (r + 1) ^ k ≤ n then r + 1 else r

/-- The first primes: 64 of them, 2 to 311. -/
def smallPrimes : List Nat := (List.range 312).filter (fun n => decide (2 ≤ n) && (List.range 18).all (fun d => decide (d < 2 ∨ n ≤ d) || n % d != 0))

/-- The first 32 bits of the fraction of the k-th root of a prime. -/
def rootWord (k p : Nat) : BitVec 32 := BitVec.ofNat 32 (rootBelow k (p * 2 ^ (32 * k)) 37)

/-- The constants of the rounds, from cube roots, and the words before the first block, from square roots. -/
def shaK : List (BitVec 32) := smallPrimes.map (rootWord 3)
def shaInit : List (BitVec 32) := (smallPrimes.take 8).map (rootWord 2)

/-- The exclusive or of some rotations to the right of a word. -/
def rotations (w : BitVec 32) (by_ : List Nat) : BitVec 32 := by_.foldl (fun x n => x ^^^ w.rotateRight n) 0

/-- One round: the eight words move on by a place, for the sum of the round's constant and message word. -/
def shaRound (x : List (BitVec 32)) (kw : BitVec 32) : List (BitVec 32) :=
  match x with
  | [a, b, c, d, e, f, g, h] =>
    let t := kw + h + (g ^^^ (e &&& (f ^^^ g))) + rotations e [6, 11, 25]
    [t + rotations a [2, 13, 22] + ((a &&& (b ||| c)) ||| (b &&& c)), a, b, c, d + t, e, f, g]
  | _ => x

/-- The message word that follows sixteen others, oldest first. -/
def shaNext (w : List (BitVec 32)) : BitVec 32 :=
  let far := w.getD 1 0
  let near := w.getD 14 0
  w.getD 0 0 + w.getD 9 0 + (rotations far [7, 18] ^^^ (far >>> 3)) + (rotations near [17, 19] ^^^ (near >>> 10))

/-- The rounds of one block, with the window of sixteen message words. -/
def shaRounds : List (BitVec 32) → List (BitVec 32) → List (BitVec 32) → List (BitVec 32)
  | [], _, x => x
  | k :: ks, w, x => shaRounds ks (w.drop 1 ++ [shaNext w]) (shaRound x (k + w.headD 0))

/-- A big-endian number. -/
def beNat (l : List Byte) : Nat := l.foldl (fun n b => n * 256 + b.toNat) 0

/-- A block of 64 bytes is taken in: each word grows by its value after the rounds. -/
def shaBlock (x : List (BitVec 32)) (block : List Byte) : List (BitVec 32) :=
  List.zipWith (fun a b => a + b) x
    (shaRounds shaK ((List.range 16).map (fun i => BitVec.ofNat 32 (beNat ((block.drop (4 * i)).take 4)))) x)

/-- A message with its end mark, zeros up to a whole block, and its length in bits. -/
def shaPadded (l : List Byte) : List Byte := l ++ 0x80 :: (List.replicate ((119 - l.length % 64) % 64) 0 ++ natBe 8 (8 * l.length))

/-- SHA-256 as its 32 bytes. -/
def sha256 (l : List Byte) : List Byte :=
  let m := shaPadded l
  let x := (List.range (m.length / 64)).foldl (fun x i => shaBlock x ((m.drop (64 * i)).take 64)) shaInit
  x.flatMap (fun w => natBe 4 w.toNat)

/-- A digest as the 256-bit number whose little-endian bytes are the digest's. -/
def digestOf (l : List Byte) : BitVec 256 := BitVec.ofNat 256 (leNat (sha256 l))

/-! ## RSASSA-PSS (R487) -/

/-- b to the power e modulo n, by squaring, with fuel for the bits of e. -/
def powMod (n b e : Nat) : Nat → Nat
  | 0 => 1 % n
  | f + 1 => if e = 0 then 1 % n else
    let r := powMod n (b * b % n) (e / 2) f
    if e % 2 = 1 then b * r % n else r

/-- MGF1 with SHA-256: `count` hashes of the seed and a counter. -/
def mgf1 (seed : List Byte) (count : Nat) : List Byte := (List.range count).flatMap (fun i => sha256 (seed ++ natBe 4 i))

/-- A signature of 384 bytes verifies over a message with a modulus of 384 bytes and exponent 65537, both big-endian octet strings
(R487; log 92): PSS encoding with SHA-256, MGF1 with SHA-256 and a salt of 32 bytes. -/
def pssVerify (modulus signature message : List Byte) : Bool :=
  let n := beNat modulus
  let sg := beNat signature
  let em := natBe 384 (powMod n sg 65537 17)
  let masked := em.take 351
  let h := (em.drop 351).take 32
  let db := List.zipWith (fun x y => x ^^^ y) masked (mgf1 h 11)
  let db := match db with
    | [] => []
    | b :: rest => (b &&& 0x7F) :: rest
  let salt := db.drop 319
  decide (modulus.length = 384 ∧ signature.length = 384 ∧ 2 ^ 3071 ≤ n ∧ sg < n) &&
  em[383]? == some 0xBC && !((em.headD 0).getLsbD 7) &&
  (db.take 318).all (fun b => b == 0) && db[318]? == some 1 &&
  sha256 (List.replicate 8 0 ++ sha256 message ++ salt) == h

end Sys2Proof.Machine
end

