-- ==== Sys2Proof/Machine/Rings.lean ====
section
/-! DEFINITION. The rings and mailboxes of the host functions, the checks of a message, and the messages of status, share, loop and
fleet (R484, R491, R493–R503, R513). -/

namespace Sys2Proof.Machine

open Sys2Proof

/-! ## Watchdog and tamper (R491, R492, R513) -/

/-- CROWN_WATCHDOG (R475, R491, R492): a watchdog restart of a trial image ends its trial. -/
def execCrownWatchdog (s : State) : Answer :=
  .next (if !s.crown.running then s
  else
    let c := s.crown
    let v := s.imageVersion
    let s : State := { s with crown := { c with
      dogs := c.dogs.set c.slot (if c.trial then [] else recent s.hours 6000 c.dogs[c.slot])
      pendingSlot := if c.trial then none else c.pendingSlot
      notes := c.notes ++ [CrownNote.watchdog c.slot v.1 v.2] } }
    s.crownRestart.flag crnErr 2)

/-- TAMPER (R475, R513, R533): the restart wipes the secure region; the record and the report come with the next start of the firmware. -/
def execTamper (sensor : TamperSensor) (s : State) : Answer :=
  .next (if s.stage = .unpowered ∨ s.stage = .stage0 then s
  else
    let n := s.hwd.tampers
    let s : State := { s with
      hwd := { s.hwd with tampers := if n = BitVec.allOnes 32 then n else n + 1 }
      crown := { s.crown with notes := s.crown.notes ++ [CrownNote.tamper sensor] } }
    s.crownRestart.flag crnErr 5)

/-! ## Ring commands (R494, R495, R500) -/

/-- Device memory holds the rings: in Stage 3, and while the module quiesces (R494, R501). -/
def State.deviceReady (s : State) : Bool := decide (s.stage = .stage3 ∨ s.stage = .quiescing)

/-- The command stands in CRN_RING_CTRL.cmd; the ring sizes keep theirs (Table: CRN_RING_CTRL fields). -/
def State.noteRingCmd (s : State) (fn : Fn) (cmd : Nat) : State :=
  let v := (s.reg fn crnRingCtrl).toNat
  s.setReg fn crnRingCtrl (BitVec.ofNat 64 (v / 4 * 4 + cmd))

/-- The host's generation mask in the control block, 0 where the block cannot be read or its magic is another (R127, R493, R494; log 196). -/
def State.hostMask (s : State) (fn : Fn) : State × Nat :=
  let base := s.ringBase fn
  let view := s.ringView fn
  let c := if s.rangeOpen view base 64 then (s.visit view base 64).devCheck view base 64 [] else (s, true)
  let b := c.1.devRead view base 5
  (c.1, if !mapped view base 64 || c.2 || leNat (b.take 4) != 0xC4C00017 then 0 else leNat (b.drop 4))

/-- A LOG_READ of a path that no longer waits is forgotten. -/
def State.forgetRead (s : State) (src : MsgSrc) : State :=
  { s with log := { s.log with readFlush := s.log.readFlush.filter (fun k => decide (k ≠ src)) } }

/-- A ring starts (R32, R494): the generation is selected, the ring runs or stands in mismatch, and vector 65 is signalled. While memory does not serve
the control block the start waits (R109, R127); where the block cannot be read for want of power or for its code, its mask is taken as 0 and nothing
is written (log 196). -/
def State.ringStart (s : State) (fn : Fn) : State :=
  if s.rings[fnIdx fn].mode ≠ .stopped ∨ !s.crown.running ∨ !s.deviceReady then s
  else if s.rangeLive (s.ringView fn) (s.ringBase fn) 64 && !s.rangeOpen (s.ringView fn) (s.ringBase fn) 64 then
    s.setRing fn { s.rings[fnIdx fn] with starting := true }
  else
    let c := (s.forgetRead (.ring fn)).hostMask fn
    let s := c.1
    let good := bit c.2 2
    let sound := s.rangeLive (s.ringView fn) (s.ringBase fn) 64 && !s.mem.meetsBad (s.ringView fn) (s.ringBase fn) 64
    let s := if sound then s.devWrite (s.ringView fn) (s.ringBase fn + 5) [4, if good then 2 else 0] else s
    let r := s.rings[fnIdx fn]
    let s :=
      if good then s.setRing fn { r with mode := .running, reqCons := 0, rspProd := 0, eventsLost := 0, due := [], starting := false }
      else ((s.setRing fn { r with mode := .mismatch, starting := false }).flag crnErr 3).record 0x09 .warning true 3 (natLe 1 4 ++ natLe 1 c.2)
    s.signalRing fn

/-- A ring stops once the response to the request in progress has been written (R500, R518). -/
def State.ringStop (s : State) (fn : Fn) : State :=
  let r := s.rings[fnIdx fn]
  if r.mode = .running ∧ !(r.requests.isEmpty && r.replies.isEmpty) then
    s.setRing fn { r with stopping := true, requests := r.requests.take 1 }
  else s.setRing fn r.halt

/-- A write of CRN_RING_CTRL.cmd: 1 start, 2 stop. -/
def State.ringCommand (s : State) (fn : Fn) (cmd : Nat) : State :=
  let s := s.noteRingCmd fn cmd
  if cmd = 1 then s.ringStart fn
  else if cmd = 2 then s.ringStop fn
  else s

/-- RING_START (R494). -/
def execRingStart (fn : Fn) (s : State) : Answer := .next (if s.reaches fn then s.ringCommand fn 1 else s.refuseWrite fn)

/-- RING_STOP (R500, R518). -/
def execRingStop (fn : Fn) (s : State) : Answer := .next (if s.reaches fn then s.ringCommand fn 2 else s.refuseWrite fn)

/-- A write of 1 to CRN_KICK (R495). -/
def State.kick (s : State) (fn : Fn) : State :=
  let s := s.setReg fn crnKickReg 1
  s.setRing fn { s.rings[fnIdx fn] with kicked := true }

/-- CRN_KICK (R495): the next read of the ring comes within 20 µs. -/
def execCrnKick (fn : Fn) (s : State) : Answer := .next (if s.reaches fn then s.kick fn else s.refuseWrite fn)

/-- One slot of a request ring; a slot that meets uncorrectable data reads as free bytes (R118, log 12). -/
def State.readSlot (s : State) (fn : Fn) (i : Nat) : State × List Byte :=
  let a := s.ringBase fn + 4096 + 256 * (i % 2 ^ s.reqLog2 fn)
  let c := (s.visit (s.ringView fn) a 256).devCheck (s.ringView fn) a 256 []
  if c.2 then (c.1.drawnN 256, c.1.freeBytes 256) else (c.1, c.1.devRead (s.ringView fn) a 256)

/-- The next `n` slots of a request ring, in index order (R495). -/
def State.readSlots (s : State) (fn : Fn) (i : Nat) : Nat → State × List (List Byte)
  | 0 => (s, [])
  | n + 1 =>
    let c := s.readSlot fn i
    let rest := c.1.readSlots fn (i + 1) n
    (rest.1, c.2 :: rest.2)

/-- Number of new requests by the control block's req_prod, 0 where the block meets uncorrectable data; a req_prod further ahead than the ring is
long announces nothing (R118, R495). -/
def State.newRequests (s : State) (fn : Fn) : State × Nat :=
  let c := (s.visit (s.ringView fn) (s.ringBase fn) 64).devCheck (s.ringView fn) (s.ringBase fn) 64 []
  let prod := BitVec.ofNat 32 (leNat (c.1.devRead (s.ringView fn) (s.ringBase fn + 8) 4))
  let n := (prod - s.rings[fnIdx fn].reqCons).toNat
  (c.1, if c.2 ∨ 2 ^ s.reqLog2 fn < n then 0 else n)

/-- Memory serves the next `n` slots of a request ring (R127). -/
def State.slotsOpen (s : State) (fn : Fn) (n : Nat) : Bool :=
  (List.range n).all (fun i => s.rangeOpen (s.ringView fn)
    (s.ringBase fn + 4096 + 256 * ((s.rings[fnIdx fn].reqCons.toNat + i) % 2 ^ s.reqLog2 fn)) 256)

/-- Crown takes new requests and writes events and responses that waited (R495, R499); what memory does not serve waits for a later poll (log 196). -/
def State.pollRing (s : State) (fn : Fn) : State :=
  let s := s.flushEvents fn
  let s := s.putReplies fn s.rings[fnIdx fn].replies
  let base := s.ringBase fn
  let view := s.ringView fn
  if !s.rangeOpen view base 64 then s
  else
  let k := s.newRequests fn
  let n := if k.1.slotsOpen fn k.2 then k.2 else 0
  let s := k.1
  let c := s.readSlots fn s.rings[fnIdx fn].reqCons.toNat n
  let s := c.1
  let r := s.rings[fnIdx fn]
  let cons := r.reqCons + BitVec.ofNat 32 n
  let s := s.setRing fn { r with requests := r.requests ++ c.2, reqCons := cons, kicked := false }
  if n = 0 then s else s.devWrite view (base + 12) (natLe 4 cons.toNat)

/-- A ring that stops only writes the responses that wait, once its control block is served and can be read (R118, R500). -/
def State.pollStopping (s : State) (fn : Fn) : State :=
  if !s.rangeOpen (s.ringView fn) (s.ringBase fn) 64 then s
  else
    let s := (s.newRequests fn).1
    (s.putReplies fn s.rings[fnIdx fn].replies).settleStop fn

/-- RING_POLL (R495, R522): `sram` is what Crown's working SRAM meets; an uncorrectable error there restarts Crown. -/
def execRingPoll (fn : Fn) (sram : SramErr) (s : State) : Answer :=
  .next (if !s.crown.running then s
  else
    let s := s.sramError (sramRow .crown) 0 sram
    if fatalSram sram then s.crownRestart
    else if !s.ringUp fn then s
    else if s.rings[fnIdx fn].stopping then s.pollStopping fn
    else s.pollRing fn)

/-! ## The mailbox (R501) -/

/-- A write of 1 to CRN_MBOX_CTRL.go (R501): ignored while the mailbox is busy; Crown takes the message where it runs. -/
def State.mailboxGo (s : State) (fn : Fn) : State :=
  let r := s.rings[fnIdx fn]
  if r.mboxBusy ∨ !s.crown.running then s
  else ((s.forgetRead (.mbox fn)).setReg fn crnMboxCtrl 1).setRing fn { r with mboxBusy := true, mboxDone := false }

/-- MAILBOX_GO (R501): the message is handed to Crown; the response, done and vector 65 come with the meaning of the message. -/
def execMailboxGo (fn : Fn) (s : State) : Answer := .next (if s.reaches fn then s.mailboxGo fn else s.refuseWrite fn)

/-! ## The checks of a message (R496, R497) -/

/-- Crown's message types, EVENT apart (Table: Message types). -/
def requestTypes : List Nat :=
  [0x0001, 0x0002, 0x0003, 0x0010, 0x0011, 0x0020, 0x0021, 0x0022, 0x0030, 0x0040, 0x0041, 0x0042, 0x0050, 0x0051, 0x0052, 0x0060]

/-- Longest body: 240 bytes, and 832 for an AUTHORISE in the mailbox (R496, R501). -/
def longestBody (src : MsgSrc) (mtype : Nat) : Nat :=
  match src with
  | .mbox _ => if mtype = 0x0050 then 832 else 240
  | .ring _ => 240

/-- The header of a request is as R496 has it. -/
def headerGood (src : MsgSrc) (m : List Byte) : Bool :=
  tfield m 0 1 == 2 && tfield m 1 1 == 0 && tfield m 6 2 == 0 && tfield m 12 4 == 0 && decide (msgLen m ≤ longestBody src (msgType m))

/-- The body holds what the type gives it, `need` bytes; bytes that no table lists are ignored (R18, R497; log 169). -/
def bodyGood (m : List Byte) (need : Nat) : Bool := decide (need ≤ msgLen m)

/-- Crown takes a request of one type from a path: a malformed one is answered INVALID (R497, R498). The row of another type leaves the
request to its own row. -/
def State.onMsg (s : State) (src : MsgSrc) (mtype : Nat) (need : Option Nat) (run : State → List Byte → State) : State :=
  match s.requestOf src with
  | none => s
  | some m =>
    if msgType m ≠ mtype then s
    else if !headerGood src m || !(match need with
      | some n => bodyGood m n
      | none => true) then s.answerMsg src 2 []
    else run s m

/-- UNSUPPORTED_MESSAGE (R496–R498): a request of an unlisted type is answered UNSUPPORTED; EVENT, which only Crown sends, is answered
INVALID. -/
def execUnsupportedMessage (src : MsgSrc) (s : State) : Answer :=
  .next (match s.requestOf src with
  | none => s
  | some m =>
    if requestTypes.contains (msgType m) then s
    else s.answerMsg src (if msgType m = 0x8000 then 2 else 1) [])

/-- Address, length and view of the buffer that a body names at its offset 0 (R497). -/
def bufAddr (m : List Byte) : Nat := tfield m 16 8
def bufLen (m : List Byte) : Nat := tfield m 24 4
def bufView (m : List Byte) : BitVec 2 := BitVec.ofNat 2 (tfield m 28 1)

/-- Status of a request's buffer: STATE while device memory, or a die that holds a part of the buffer, is unavailable, INVALID where its view is unlisted or an
address is unmapped, else OK (R497, R498, R501). -/
def State.bufStatus (s : State) (m : List Byte) : Nat :=
  if !s.deviceReady then 4
  else if 3 ≤ tfield m 28 1 ∨ !mapped (bufView m) (bufAddr m) (bufLen m) then 2
  else if !s.rangeLive (bufView m) (bufAddr m) (bufLen m) then 4
  else 0

/-- Memory serves the buffer of a request (R127). -/
def State.bufOpen (s : State) (m : List Byte) : Bool := s.rangeOpen (bufView m) (bufAddr m) (bufLen m)

/-- Crown reads a request's buffer: a buffer that is not as it must be, or that meets uncorrectable data, is answered (R118, R498); while memory does
not serve it the request waits (R127; log 196). -/
def State.withBuffer (s : State) (src : MsgSrc) (m : List Byte) (run : State → List Byte → State) : State :=
  if s.bufStatus m ≠ 0 then s.answerMsg src (s.bufStatus m) []
  else if !s.bufOpen m then s
  else
    let c := (s.visit (bufView m) (bufAddr m) (bufLen m)).devCheck (bufView m) (bufAddr m) (bufLen m) []
    if c.2 then c.1.answerMsg src 7 [] else run c.1 (c.1.devRead (bufView m) (bufAddr m) (bufLen m))

/-! ## Status, nonce, events and share (R497, R499, R502, R511) -/

/-- CLK_STATUS.stage (Table: CLK_STATUS fields). -/
def stageCode : Stage → Nat
  | .unpowered => 0
  | .stage0 => 0
  | .stage1 => 1
  | .stage2 => 2
  | .entry => 3
  | .stage3 => 4
  | .quiescing => 5
  | .quiesced => 6
  | .failed => 7

/-- The hottest die of the last thermal run, in 1/16 °C. -/
def State.hottest (s : State) : Int := (List.finRange 4).foldl (fun (m : Int) (d : Fin 4) => max m s.budget.dieTemps[d]) s.budget.dieTemps[0]

/-- A signed number in `n` little-endian bytes. -/
def intLe (n : Nat) (v : Int) : List Byte := natLe n (v % (256 ^ n : Nat)).toNat

/-- Body of a GET_STATUS response: 13 values of 4 bytes (Table: Message types). -/
def State.statusBody (s : State) : List Byte :=
  natLe 4 (stageCode s.stage) ++ natLe 4 (lifeCode s.crown.life) ++ natLe 4 s.budget.share ++ natLe 4 s.cPeak ++
  intLe 4 s.le.demand ++ intLe 4 s.le.draw ++ natLe 4 s.sap.presentJ ++
  (List.finRange 4).flatMap (fun d => natLe 4 (s.pointOf d).val) ++ intLe 4 (s.hottest / 16) ++ intLe 4 (s.budget.outlet / 16)

/-- GET_STATUS (R496, R497). -/
def execGetStatus (src : MsgSrc) (s : State) : Answer :=
  .next (s.onMsg src 0x0001 (some 0) (fun s _ => s.answerMsg src 0 s.statusBody))

/-- A fresh nonce takes the place of a path's old one (R511): paths 0 function A, 1 function B, 2 the console. -/
def State.issueNonce (s : State) (path : Fin 3) : State :=
  { s.drawn with crown := { s.crown with nonces := s.crown.nonces.set path (some s.fresh) } }

/-- The path of a command's sender. -/
def noncePath : CmdSrc → Fin 3
  | .host .A => 0
  | .host .B => 1
  | .console => 2

/-- The path of a message (R511): a function's ring and mailbox are one. -/
def msgPath (src : MsgSrc) : Fin 3 := noncePath (.host (srcFn src))

/-- GET_NONCE (R511). -/
def execGetNonce (src : MsgSrc) (s : State) : Answer :=
  .next (s.onMsg src 0x0002 (some 0) (fun s _ => (s.issueNonce (msgPath src)).answerMsg src 0 (natLe 8 s.fresh.toNat)))

/-- NONCE_EXPIRY (R511): 10 min after its issue. -/
def execNonceExpiry (path : CmdSrc) (s : State) : Answer :=
  .next { s with crown := { s.crown with nonces := s.crown.nonces.set (noncePath path) none } }

/-- GET_EVENTS (R499): the events held while the ring did not run, each in the 16 bytes of an EVENT's body with what its detail begins
with, the rest free (logs 12, 155). -/
def execGetEvents (src : MsgSrc) (s : State) : Answer :=
  .next (s.onMsg src 0x0003 (some 0) (fun s _ =>
    let fn := srcFn src
    let held := s.rings[fnIdx fn].held
    let body := held.zipIdx.flatMap (fun e =>
      natLe 2 e.1.1 ++ natLe 2 e.1.2.1 ++ e.1.2.2 ++ (s.drawnN (12 * e.2)).freeBytes (12 - e.1.2.2.length))
    let s := (s.drawnN (12 * held.length)).setRing fn { s.rings[fnIdx fn] with held := [] }
    s.answerMsg src 0 body))

/-- A delivered share (R417, R419, R502): before Stage 3 it is held. -/
def State.deliverShare (s : State) (w smooth source : Nat) : State :=
  if s.stage = .stage3 ∨ s.stage = .quiescing then s.acceptShare w smooth source
  else { s with budget := { s.budget with waiting := some (w, smooth, source) } }

/-- The module is in legacy mode: PWR_BUDGET_CFG.mgr is set (R417, R418, R502). -/
def State.legacy (s : State) : Bool := bit (s.mreg pwrBudgetCfg) 0

/-- SET_SHARE (R417, R419, R502): agent_id is recorded only. -/
def execSetShare (src : MsgSrc) (s : State) : Answer :=
  .next (s.onMsg src 0x0010 (some 8) (fun s m =>
    let w := tfield m 16 4
    let smooth := tfield m 20 1
    if w < 500 ∨ 5000 < w ∨ 2 < smooth ∨ tfield m 21 1 ≠ 0 then s.answerMsg src 2 []
    else if s.legacy then s.answerMsg src 4 []
    else
      let t := s.deliverShare w smooth 1
      ({ t with budget := { t.budget with agent := tfield m 22 2 } } : State).answerMsg src 0 []))

/-! ## LE_REQUEST (R367–R374, R497) -/

/-- A block-floating-point value in 4 bytes: mantissa in [17:0], exponent in [23:18]; a layout of the model's (log 94). -/
def bfpLe (v : Bfp) : List Byte := natLe 4 (v.mant.toNat + v.exp.toNat * 2 ^ 18)

/-- Body of an LE_REQUEST response: the slot's mode and its operating values, 4 bytes each; a layout of the model's (log 94). -/
def State.slotBody (s : State) (n : Fin 4) : List Byte :=
  let x := s.le.slots[n]
  let v := x.values
  natLe 4 (modeCode x.mode) ++ [v.target, v.umin, v.umax, v.vmin, v.vmax, v.amax, v.jmax, v.t1, v.t2, v.t3].flatMap bfpLe ++
    natLe 4 v.cStack ++ natLe 4 v.share ++ natLe 4 v.absorb

/-- An action's values are listed (R373, R374). -/
def State.actionListed (s : State) (n : Fin 4) (a : LeAction) : Bool :=
  match a with
  | .unlisted => false
  | .inject j => decide (j.slot = n) && injListed s.le.slots[n].values j
  | .capture c => decide (c.slot = n) && capListed c
  | _ => true

/-- An action on a slot (R367–R374). -/
def State.slotAction (s : State) (n : Fin 4) (a : LeAction) : State :=
  match a with
  | .off => s.slotCommand n .off
  | .manual => s.slotCommand n .manual
  | .auto => s.slotCommand n .auto
  | .scheduled => s.slotCommand n .scheduled
  | .unlisted => s.flag leErr 4
  | .manualValue v => s.setSlot n { s.le.slots[n] with manual := Vector.replicate 4 v }
  | .tuning set v => s.commitTuning n set v
  | .values v => s.writeValues n v
  | .inject j => s.startInjection j
  | .stopInjection => s.endInjection n
  | .capture c => s.armCapture c

/-- LE_REQUEST (R367–R374, R497): a command or commit that the engine refuses is answered OK with the mode that the slot keeps, an unlisted
value is refused and sets LE_ERR.bad_encoding (R382), a slot that there is not is INVALID, and STATE while the engine does not run. The slot, action
and values that the body's bytes spell, in a layout that is stated nowhere, are the command's operands (log 94). -/
def execLeRequest (src : MsgSrc) (slot : Nat) (act : LeAction) (s : State) : Answer :=
  .next (s.onMsg src 0x0011 none (fun s _ =>
    if !s.le.ok then s.answerMsg src 4 []
    else if h : slot < 4 then
      let n : Fin 4 := ⟨slot, h⟩
      if !s.actionListed n act then (s.flag leErr 4).answerMsg src 2 []
      else
        let s := s.slotAction n act
        s.answerMsg src 0 (s.slotBody n)
    else s.answerMsg src 2 []))

/-! ## Epochs (R300–R308) -/

/-- The bodies of canonical blocks of given types, one after another and nothing after them: a header of generation 2, the type, two reserved bytes
and the length of the body (R34, R300). -/
def blockBodies : List Nat → List Byte → Option (List (List Byte))
  | [], b => if b.isEmpty then some [] else none
  | t :: rest, b =>
    let n := tfield b 4 4
    if b.length < 8 + n ∨ tfield b 0 1 ≠ 2 ∨ tfield b 1 1 ≠ t then none
    else (blockBodies rest (b.drop (8 + n))).map (fun l => (b.drop 8).take n :: l)

/-- Roles of a ROLES body: one byte for each identifier (Table: Canonical blocks). -/
def rolesOf (body : List Byte) : List (Nat × Nat) := (body.zipIdx.filter (fun e => e.1 != 0)).map (fun e => (e.2, e.1.toNat))

/-- Entries of a TWINS body: active, standby and witness, 2 bytes each (Table: Canonical blocks). -/
def twinsOf (body : List Byte) : List TwinEntry :=
  (List.range (body.length / 6)).map (fun i =>
    { active := tfield body (6 * i) 2, standby := tfield body (6 * i + 2) 2, witness := tfield body (6 * i + 4) 2 })

/-- The configuration that canonical blocks hold (R300): all five types, once each and ascending. ROLES and TWINS are as their bytes say; of the other
bodies the manual gives the content and not the bytes, and `k` is that content, nothing where a body is empty (log 190). -/
def parseBlocks (b : List Byte) (k : Blocks) : Option Blocks :=
  match blockBodies [1, 2, 3, 4, 5] b with
  | some [topo, roles, twins, sets, copy] =>
    if (roles.length ≠ 0 ∧ roles.length ≠ 4096) ∨ twins.length % 6 ≠ 0 then none
    else some { k with
      kind := if topo.isEmpty then 0 else k.kind
      roles := rolesOf roles, twins := twinsOf twins
      sets := if sets.isEmpty then [] else k.sets
      copyMode := if copy.isEmpty then 0 else k.copyMode
      ranges := if copy.isEmpty then [] else k.ranges }
  | _ => none

/-- An identifier whose pod is not reserved (R34, Table: Module identifier). -/
def identGood (i : Nat) : Bool := decide (i < 4096 ∧ podOf i < 2)

/-- A set that may be staged (R271): its number, 2 to 1024 modules, each once, and of one pod. -/
def setGood (d : SetDef) : Bool :=
  decide (d.num ≤ 63 ∧ 2 ≤ d.members.length ∧ d.members.length ≤ 1024) && decide d.members.Nodup &&
    d.members.all (fun i => identGood i && podOf i == podOf (d.members.headD 0))

/-- The staging and install check of canonical blocks (R34, R271, R290, R294, R300): listed kinds, roles and modes, identifiers that are not
reserved, sets as R271 has them, at most 16 twin entries, and 1 to 16 ranges of whole blocks for a copy. -/
def blocksGood (b : Blocks) : Bool :=
  decide (1 ≤ b.kind ∧ b.kind ≤ 4) && identGood b.coordinator && b.roles.all (fun e => identGood e.1 && decide (e.2 ≤ 4)) &&
  decide (b.roles.map (fun e => e.1)).Nodup && decide (b.twins.length ≤ 16) &&
  b.twins.all (fun t => identGood t.active && identGood t.standby && identGood (witnessId t.witness)) &&
  decide (b.sets.map (fun d => d.num)).Nodup && b.sets.all setGood && decide (b.copyMode ≤ 2) &&
  decide (b.ranges.length ≤ 16) && (b.copyMode == 0 || !b.ranges.isEmpty) && b.ranges.all (fun r => r.len % 4096 == 0)

/-- Blocks that pass the check. -/
def blocksIn (b : List Byte) (k : Blocks) : Option Blocks := (parseBlocks b k).filter blocksGood

/-- A refused staging, proposal or install: the detail names the check in bytes that the spec does not give (R498, log 12). -/
def State.answerRefused (s : State) (src : MsgSrc) : State := (s.drawnN 4).answerMsg src 8 (s.freeBytes 4)

/-- EPOCH_STAGE (R300–R302, R497): `blocks` is the content of those bodies of the buffer whose bytes the manual does not give; the digest is that of
the buffer's bytes. -/
def execEpochStage (src : MsgSrc) (blocks : Blocks) (s : State) : Answer :=
  .next (s.onMsg src 0x0020 (some 13) (fun s m => s.withBuffer src m (fun s b =>
    match blocksIn b blocks with
    | none => s.answerRefused src
    | some k =>
      let c : Staged := { epoch := s.fleet.epoch + 1, digest := digestOf b, blocks := k }
      (s.setFleet { s.fleet with staged := some c }).answerMsg src 0 (natLe 8 c.epoch.toNat ++ natLe 32 c.digest.toNat))))

/-- This module is the coordinator of the epoch in force (R303). -/
def State.coordinates (s : State) : Bool :=
  match s.fleet.blocks with
  | some b => b.coordinator == s.myId
  | none => false

/-- HOST_EPOCH_PROPOSE (R303, R308, R497): only the coordinator proposes, and one proposal runs at a time; its outcome is the answer. -/
def execHostEpochPropose (src : MsgSrc) (s : State) : Answer :=
  .next (s.onMsg src 0x0021 (some 8) (fun s m =>
    match s.poll .coordinator with
    | some k => if k.src = some src then s else s.answerMsg src 3 []
    | none =>
      match s.fleet.staged with
      | some c => if s.coordinates then s.propose c (BitVec.ofNat 64 (tfield m 16 8)) (some src) else s.answerRefused src
      | none => s.answerRefused src))

/-- The module's role is absent (R307). -/
def State.roleAbsent (s : State) : Bool :=
  match s.fleet.blocks with
  | some b => roleIn b s.myId == 0
  | none => true

/-- EPOCH_INSTALL (R301, R305, R307, R497). -/
def execEpochInstall (src : MsgSrc) (epoch : BitVec 64) (blocks : Blocks) (s : State) : Answer :=
  .next (s.onMsg src 0x0022 (some 13) (fun s m => s.withBuffer src m (fun s b =>
    match (blocksIn b blocks).filter (fun _ => s.roleAbsent) with
    | none => s.answerRefused src
    | some k =>
      let s := s.activate { epoch := epoch, digest := digestOf b, blocks := k }
      s.answerMsg src 0 (natLe 8 s.fleet.epoch.toNat ++ natLe 32 s.fleet.digest.toNat))))

/-! ## Host witnesses (R503) -/

/-- A witness's message for this module itself (R294, R295, R299). -/
def State.ownLease (s : State) (m : List Byte) : State :=
  let me := s.myId
  if mType m = 0x11 then s.takeLease me (mLease m) (mStandby m)
  else if mType m = 0x13 then s.ackLease me (mLease m) (mCount m)
  else if mType m = 0x16 then s.promote me (mLease m) (mHolder m)
  else s

/-- A host's lease message has listed fields: generation 2, a lease type and its length, a hop index, and a destination, a holder and a standby
whose pods are not reserved (R19, R34, R250, R260). Its source, which Crown replaces, is not looked at: DESIGN CHOICE (log 209). -/
def leaseGood (l : List Byte) : Bool :=
  decide (tfield l 0 1 = 2 ∧ 0x10 ≤ mType l ∧ mType l ≤ 0x17 ∧ mLen l = 40 ∧ mHop l ≠ 3) &&
    identGood (mDst l) && identGood (mHolder l) && identGood (mStandby l)

/-- LEASE (R260, R503): a host's lease message leaves on the sideband with the module as its source; one for the module itself is taken
here. -/
def execLease (src : MsgSrc) (s : State) : Answer :=
  .next (s.onMsg src 0x0030 (some 40) (fun s m =>
    let l := (msgBody m).take 40
    if !leaseGood l then s.answerMsg src 2 []
    else
      let dest := mDst l
      let s := if dest = s.myId then s.ownLease l else s.sendTo (mType l) dest (l.drop 16)
      s.answerMsg src 0 []))

end Sys2Proof.Machine
end

