-- ==== Sys2Proof/Machine/Authority.lean ====
section
/-! DEFINITION. Image updates, the life cycle, and authorisation tokens (R487–R492, R508–R512, R518, R545, R560). -/

namespace Sys2Proof.Machine

open Sys2Proof

/-! ## Image updates (R487, R488, R492, R518) -/

/-- An image's header is as Table: Image header lists it. -/
def imageListed (b : List Byte) : Bool :=
  let size := tfield b 16 4
  tfield b 0 4 == 0xC4E01700 && tfield b 4 1 == 2 && decide (tfield b 5 1 ≤ 3) && tfield b 6 2 == 1024 && decide (tfield b 12 4 ≤ 63) &&
  decide (8192 ≤ size ∧ size ≤ 8388608 ∧ size ≤ b.length) && size % 4096 == 0 && decide (1024 ≤ tfield b 20 4) &&
  tfield b 24 8 == 0 && tfield b 832 192 == 0

/-- An image passes its check (R488). -/
def imagePasses (b : List Byte) (fused : Nat) : Bool :=
  let modulus := (b.drop 448).take 384
  let key := tfield b 5 1
  imageListed b && digestOf modulus == Config.keyHash key && !Config.keyRevoked key &&
  pssVerify modulus ((b.drop 64).take 384) (b.take 64 ++ (b.drop 448).take 576) &&
  sha256 ((b.take (tfield b 16 4)).drop 1024) == (b.drop 32).take 32 && decide (fused ≤ tfield b 12 4)

/-- What a slot holds once an image has been programmed into it. -/
def slotImage (b : List Byte) : SlotImage :=
  { version := BitVec.ofNat 32 (tfield b 8 4), svn := tfield b 12 4, digest := BitVec.ofNat 256 (tfield b 32 32) }

/-- A slot of the flash is erased: it is not pending, its image's restarts are forgotten, and the image that runs from it can no longer be
confirmed, since the slot does not hold it (R485, R491, R492; log 208). -/
def State.eraseSlot (s : State) (k : Fin 2) : State :=
  let c := s.crown
  { s with crown := { c with
    slots := c.slots.set k none, pendingSlot := if c.pendingSlot = some k then none else c.pendingSlot
    trial := c.trial && decide (c.slot ≠ k), dogs := c.dogs.set k [] } }

/-- IMAGE_LOAD (R451, R488, R492, R518), which waits while a brownout warning lasts: the inactive slot is erased; an image that passes its check begins to be programmed. -/
def execImageLoad (src : MsgSrc) (s : State) : Answer :=
  .next (if s.hwd.brownout then s
  else s.onMsg src 0x0040 (some 13) (fun s m =>
    match s.crown.load with
    | some l => if l.src = src then s else s.answerMsg src 3 []
    | none => s.withBuffer src m (fun s b =>
      let k : Fin 2 := 1 - s.crown.active
      let s := s.eraseSlot k
      if imagePasses b s.crown.fused then
        { s with crown := { s.crown with load := some { src := src, slot := k, image := slotImage b, seq := msgSeq m } } }
      else s.answerMsg src 6 [])))

/-- The answer to the IMAGE_LOAD that has ended, where its path still holds it. -/
def State.answerLoad (s : State) (l : ImageLoad) (status : Nat) (body : List Byte) : State :=
  if (s.requestOf l.src).any (fun m => msgType m == 0x0040 && msgSeq m == l.seq) then s.answerMsg l.src status body else s

/-- IMAGE_LOAD_COMPLETE (R451, R492): programming, which waits during a brownout warning, and read-back have ended. -/
def execImageLoadComplete (readBackOk : Bool) (s : State) : Answer :=
  .next (match s.crown.load with
  | none => s
  | some l =>
    if s.hwd.brownout ∨ !s.crown.running then s
    else
      let c := { s.crown with load := none }
      if readBackOk then
        let s : State := { s with crown := { c with slots := c.slots.set l.slot (some l.image), pendingSlot := some l.slot } }
        s.answerLoad l 0 (natLe 4 l.slot.val ++ natLe 4 l.image.version.toNat ++ natLe 4 l.image.svn)
      else ({ s with crown := c }).answerLoad l 6 [])

/-- An IMAGE_ACTIVATE is refused now: nothing is pending, or Stage 3 entry, a hold, a quiesce or a maintenance pause is under way (R518). -/
def State.activateRefused (s : State) : Bool :=
  s.crown.pendingSlot.isNone || decide (s.stage = .entry ∨ s.stage = .quiescing) || s.budget.hold || s.hq.maint

/-- IMAGE_ACTIVATE (R475, R492, R500, R518): the response goes before the restart into the pending slot. -/
def execImageActivate (src : MsgSrc) (s : State) : Answer :=
  .next (s.onMsg src 0x0041 (some 0) (fun s _ =>
    if s.activateRefused then s.answerMsg src 4 [] else (s.answerMsg src 0 []).crownRestart))

/-- IMAGE_CONFIRM (R492): the trial slot has run for 60 s without a watchdog restart. -/
def execImageConfirm (src : MsgSrc) (s : State) : Answer :=
  .next (s.onMsg src 0x0042 (some 0) (fun s _ =>
    let c := s.crown
    if !c.trial ∨ s.clk.us < c.trialAt + 60000000 then s.answerMsg src 4 []
    else
      let fused := max c.fused (s.slotVersion c.slot).2
      ({ s with crown := { c with trial := false, active := c.slot, pendingSlot := none, fused := fused } }).answerMsg src 0 (natLe 4 fused)))

/-! ## The life cycle (R508, R509) -/

/-- A life-cycle change (R509, R517, R533): the secure region is wiped, a record written, and the report sent. -/
def State.changeLife (s : State) (new : Life) : State :=
  let old := s.crown.life
  let s := ({ s with crown := { s.crown with life := new } }).wipe
  (s.record 0x74 .info false (lifeCode new) (natLe 2 (lifeCode old))).report 0xB (lifeCode new)

/-- DEPLOY (R508, R509): the owner key is installed. -/
def execDeploy (src : MsgSrc) (s : State) : Answer :=
  .next (s.onMsg src 0x0051 (some 13) (fun s m =>
    if s.crown.life ≠ .provisioned then s.answerMsg src 4 []
    else s.withBuffer src m (fun s b =>
      if b.length ≠ 384 then s.answerMsg src 2 []
      else
        let h := digestOf b
        (({ s with crown := { s.crown with owner := some h } }).changeLife .deployed).answerMsg src 0 (natLe 32 h.toNat))))

/-- END_SERVICE (R509, R555): by a host's message, or at the console in the SERVICE state. -/
def execEndService (src : CmdPath) (s : State) : Answer :=
  .next (match src with
  | .msg m => s.onMsg m 0x0052 (some 0) (fun s _ =>
      if s.crown.life = .service then (s.changeLife .deployed).answerMsg m 0 [] else s.answerMsg m 4 [])
  | .console => s.console "end service" .s false anyTime (fun s => (s.changeLife .deployed).reply 0))

/-- FACTORY_PROVISIONING (R508, R509, R514): the identity key pair is generated and the factory's certificate stored. -/
def execFactoryProvisioning (cert : List (BitVec 8)) (s : State) : Answer :=
  .next (if s.crown.running ∧ s.crown.life = .blank then
    ({ s with crown := { s.crown with identity := true, cert := cert } }).changeLife .provisioned
  else s)

/-! ## Authorisation tokens (R510, R511) -/

/-- Action of a token. -/
def tokenAction (t : List Byte) : Nat := tfield t 4 2

/-- Tile and operation of the i-th entry of a token of action 0x0011. -/
def editTile (t : List Byte) (i : Nat) : Nat := tfield t (28 + 4 * i) 2
def editOp (t : List Byte) (i : Nat) : Nat := tfield t (30 + 4 * i) 2

/-- The i-th entry is unused, or names a tile and a listed operation. -/
def editListed (t : List Byte) (i : Nat) : Bool :=
  (editOp t i == 0 && editTile t i == 0) ||
  (decide (1 ≤ editOp t i ∧ editOp t i ≤ 2 ∧ editTile t i < 4096) && (tileOfIdent (editTile t i)).isSome)

/-- A token's fields are as Table: Authorisation token lists them. -/
def tokenListed (t : List Byte) : Bool :=
  t.length == 832 && tfield t 0 4 == 0xC4A00017 && [1, 2, 3, 0x10, 0x11].contains (tokenAction t) && tfield t 6 2 == 0 &&
  (if tokenAction t = 0x11 then (List.range 8).all (editListed t) && tfield t 60 4 == 0 else tfield t 28 36 == 0)

/-- Actions that a life-cycle state allows (Table: Life-cycle states, Table: Life-cycle transitions). -/
def actionAllowed (l : Life) (a : Nat) : Bool :=
  match l with
  | .provisioned => a == 3
  | .deployed => [1, 2, 3].contains a
  | .service => [1, 2, 3, 0x10, 0x11].contains a
  | _ => false

/-- The key whose modulus follows the token may sign it (R510). -/
def State.keyAllowed (s : State) (modulus : List Byte) : Bool :=
  match s.crown.life with
  | .provisioned => Config.factoryKey (digestOf modulus)
  | _ => s.crown.owner == some (digestOf modulus)

/-- Status of a token on a path: STATE for every one where the secure region has failed, else INVALID, STATE or AUTH, or OK where it is to be performed
(R497, R510, R533). -/
def State.tokenStatus (s : State) (path : Fin 3) (t : List Byte) : Nat :=
  let modulus := t.drop 448
  if s.crown.secureBad then 4
  else if !tokenListed t then 2
  else if !actionAllowed s.crown.life (tokenAction t) then 4
  else if tfield t 8 8 ≠ Config.serial.toNat ∨ s.crown.nonces[path] ≠ some (BitVec.ofNat 64 (tfield t 16 8)) ∨ tfield t 24 4 < s.hours ∨
    !s.keyAllowed modulus ∨ !pssVerify modulus ((t.drop 64).take 384) (t.take 64) then 5
  else 0

/-- A token that carries a path's nonce spends it (R511). -/
def State.spendNonce (s : State) (path : Fin 3) (t : List Byte) : State :=
  if s.crown.nonces[path] = some (BitVec.ofNat 64 (tfield t 16 8)) then
    { s with crown := { s.crown with nonces := s.crown.nonces.set path none } }
  else s

/-- Name of a message status (Table: Message status). -/
def statusName : Nat → String
  | 0 => "OK"
  | 1 => "UNSUPPORTED"
  | 2 => "INVALID"
  | 3 => "BUSY"
  | 4 => "STATE"
  | 5 => "AUTH"
  | 6 => "IMAGE"
  | 7 => "MEMORY"
  | _ => "REFUSED"

/-- The answer to a token: a message's response, or the status printed at the console (R510, R560). -/
def State.answerToken (s : State) (path : AuthPath) (status : Nat) : State :=
  match path with
  | .msg src => if status = 0 then (s.drawnN 4).answerMsg src 0 (s.freeBytes 4) else s.answerMsg src status []
  | .console _ => (s.say (statusName status)).reply (if status = 0 then 0 else 6)

/-- Path number of a token (R511). -/
def tokenPath : AuthPath → Fin 3
  | .msg src => msgPath src
  | .console _ => noncePath .console

/-- A token in hand: the nonce is spent, a refused one recorded and answered, and one that passes is performed. -/
def State.useToken (s : State) (path : AuthPath) (t : List Byte) (act : State → State) : State :=
  let st := s.tokenStatus (tokenPath path) t
  let s := s.spendNonce (tokenPath path) t
  if st = 0 then act s else (s.record 0x75 .warning false (tokenAction t) (natLe 2 st)).answerToken path st

/-- The lines of a token typed at the console, 64 bytes each, and the empty line that ends it (R551, R560). -/
def hexLines (bytes : List Byte) : List String :=
  (List.range ((bytes.length + 63) / 64)).map (fun i => hexText ((bytes.drop (64 * i)).take 64)) ++ [""]

/-- The check of a path's AUTHORISE is in progress, or no longer (R532). -/
def State.startCheck (s : State) (src : MsgSrc) : State :=
  if s.crown.checking.contains src then s else { s with crown := { s.crown with checking := s.crown.checking ++ [src] } }
def State.endCheck (s : State) (src : MsgSrc) : State := { s with crown := { s.crown with checking := s.crown.checking.filter (fun x => x != src) } }

/-- A token typed at the console is used; one of the wrong length is an argument error, unless every one is refused (R533, R551, R560). -/
def State.useTyped (s : State) (bytes : List Byte) (act : State → List Byte → State) : State :=
  if bytes.length = 832 ∨ s.crown.secureBad = true then s.useToken (.console bytes) bytes (fun s => act s bytes) else s.reply 2

/-- Crown takes an AUTHORISE whose action is one of `mine` (R497, R501, R510, R560): from a ring's or a mailbox's buffer, from the mailbox
itself, or from the console. During a wipe it waits for the wipe's last step (R534); a message waits in its ring or mailbox, and also for the memory
that holds its buffer. `passes` is what a typed token of action 0x0011 needs when its turn comes. -/
def State.authorise (s : State) (path : AuthPath) (mine : Nat → Bool) (passes : BitVec 8) (act : State → List Byte → State) : State :=
  let use (s : State) (t : List Byte) : State := if mine (tokenAction t) then s.useToken path t (fun s => act s t) else s
  match path with
  | .msg src => s.onMsg src 0x0050 none (fun s m =>
      if s.wiping then s.startCheck src
      else if msgLen m = 832 then use (s.endCheck src) (msgBody m)
      else if s.crown.secureBad then (s.endCheck src).answerMsg src 4 []
      else if !bodyGood m 13 then s.answerMsg src 2 []
      else if s.bufStatus m = 0 && !s.bufOpen m then s.startCheck src
      else (s.endCheck src).withBuffer src m use)
  | .console bytes => if mine (tokenAction bytes) then
      s.console "auth" .r false anyTime (fun s =>
        let s := s.sayAll (hexLines bytes)
        if s.wiping then { s with svc := { s.svc with test := some (.authWait bytes passes) } } else s.useTyped bytes act) else s

/-- Actions of ENTER_SERVICE's row: its own, and unlisted ones, which are refused under it. -/
def enterOrUnlisted (a : Nat) : Bool := !(([2, 3, 0x10, 0x11] : List Nat).contains a)

/-- SERVICE is entered (R509); in the SERVICE state the action is allowed and changes nothing. -/
def State.enterService (s : State) (src : AuthPath) : State :=
  (if s.crown.life = .deployed then s.changeLife .service else s).answerToken src 0

/-- The owner releases the module (R509). -/
def State.releaseOwner (s : State) (src : AuthPath) : State :=
  (({ s with crown := { s.crown with owner := none } }).changeLife .provisioned).answerToken src 0

/-- The module is retired: the wrapped identity key is erased; compute goes on until the next power-on (R509, R518). -/
def State.retireModule (s : State) (src : AuthPath) : State :=
  (({ s with crown := { s.crown with identity := false, unwrapped := false } }).changeLife .retired).answerToken src 0

/-- ENTER_SERVICE (R509–R511). -/
def execEnterService (src : AuthPath) (s : State) : Answer := .next (s.authorise src enterOrUnlisted 0 (fun s _ => s.enterService src))

/-- OWNER_RELEASE (R509, R510). -/
def execOwnerRelease (src : AuthPath) (s : State) : Answer := .next (s.authorise src (· == 2) 0 (fun s _ => s.releaseOwner src))

/-- RETIRE_MODULE (R509, R510, R518). -/
def execRetireModule (src : AuthPath) (s : State) : Answer := .next (s.authorise src (· == 3) 0 (fun s _ => s.retireModule src))

/-! ## Retirement-map edits (R510, R512) -/

/-- Why a tile is retired, or marked: of R64's list, 0 where it is not. -/
def State.causeOf (s : State) (t : Nat) : Nat :=
  if s.retire.map.any (fun k => k.1 == rowOf t && k.2 == columnOf t) then find 0 s.retire.causes (rowOf t) else (s.tile t).retireCause

/-- A tile can be restored: its retirement followed a failed self-test, or the console, and the self-test now passes (R510, R564). -/
def State.restorable (s : State) (t : Nat) (passes : Bool) : Bool := passes && decide (s.causeOf t = 3 ∨ s.causeOf t = 4)

/-- The tile of the i-th entry. -/
def editTarget (t : List Byte) (i : Nat) : Nat := (tileOfIdent (editTile t i)).getD 0

/-- One entry takes effect: a tile is marked for retirement, as by a technician, or restored at the next remap point (R512). -/
def State.takeEdit (s : State) (t : List Byte) (i : Nat) : State :=
  if editOp t i = 1 then s.markRetire (editTarget t i) 4
  else if editOp t i = 2 then { s with retire := { s.retire with edits := addNat s.retire.edits (editTarget t i) } }
  else s

/-- The entries of a token of action 0x0011 take effect; a restore that is not allowed refuses the token with STATE, and nothing changes (R510). -/
def State.editMap (s : State) (src : AuthPath) (passes : BitVec 8) (t : List Byte) : State :=
  if (List.range 8).all (fun i => editOp t i != 2 || s.restorable (editTarget t i) (passes.getLsbD i)) then
    ((List.range 8).foldl (fun s i => s.takeEdit t i) s).answerToken src 0
  else (s.record 0x75 .warning false 0x11 (natLe 2 4)).answerToken src 4

/-- EDIT_RETIREMENT_MAP (R510, R512): bit i of `passes` tells whether the tile of entry i passes its self-test. -/
def execEditRetirementMap (src : AuthPath) (passes : BitVec 8) (s : State) : Answer :=
  .next (s.authorise src (· == 0x11) passes (fun s t => s.editMap src passes t))

end Sys2Proof.Machine
end

