-- ==== Sys2Proof/Machine/Berux.lean ====
section
/-! DEFINITION. Berux ports: their commands, detection and training, the flit layer, forwarding, and the transactions performed
here (R28, R234–R258, R265–R270, R287, R291). -/

namespace Sys2Proof.Machine

open Sys2Proof

/-! ## Port commands (R240, R263, R265) -/

/-- A command that the port's state does not list is ignored (R265). -/
def State.busyWrite (s : State) : State := s.flag bxStatus 1

/-- A port begins to look for its cable. -/
def State.detect (s : State) (p : Fin 20) : State := s.setPort p { s.ports[p].cleared with state := .detect, cause := s.ports[p].cause }

/-- A write of BX_Pp_CTRL.cmd: 1 enable, 2 disable, 3 force (Table: Port states, R263, R265, R531). -/
def State.portCommand (s : State) (p : Fin 20) (cmd : Nat) : State :=
  let x := s.ports[p]
  if cmd = 1 then
    if x.broken then s.busyWrite
    else match x.state with
      | .disabled => s.detect p
      | .down => s.detect p
      | _ => s.busyWrite
  else if cmd = 2 ∨ cmd = 3 then
    match x.state with
    | .disabled => s.busyWrite
    | .active => s.beginFlush p (if cmd = 2 then 1 else 4) (cmd == 3)
    | .flush => s
    | _ => s.portOff p
  else s

/-- A write of BX_Pp_CTRL: the command stands in the register and acts. -/
def State.portWrite (s : State) (p : Fin 20) (cmd : Nat) : State := (s.setReg .A (pReg p) (BitVec.ofNat 64 cmd)).portCommand p cmd

/-- PORT_ENABLE (R240, R265, R270). -/
def execPortEnable (fn : Fn) (p : Fin 20) (s : State) : Answer := .next (if s.opens fn then s.portWrite p 1 else s.refuseWrite fn)

/-- PORT_DISABLE (R240, R263, R265). -/
def execPortDisable (fn : Fn) (p : Fin 20) (s : State) : Answer := .next (if s.opens fn then s.portWrite p 2 else s.refuseWrite fn)

/-- PORT_FORCE (R240, R263, R265). -/
def execPortForce (fn : Fn) (p : Fin 20) (s : State) : Answer := .next (if s.opens fn then s.portWrite p 3 else s.refuseWrite fn)

/-! ## Detection and training (R238, R240–R242, R267) -/

/-- Lanes in use and width code for the lanes trained at both ends; none where no set of four has trained (R238). -/
def linkWidth (both : BitVec 8) (x4 : Bool) : Option (BitVec 8 × BitVec 2) :=
  if both = 0xFF ∧ !x4 then some (0xFF, 2)
  else if both &&& 0x0F = 0x0F then some (0x0F, 1)
  else if both &&& 0xF0 = 0xF0 then some (0xF0, 1)
  else none

/-- BX_Pp_CFG.x4_only. -/
def State.x4Only (s : State) (p : Fin 20) : Bool := bit (s.mreg (pReg p + 0x04)) 2

/-- CABLE_DETECT_ATTEMPT (R240, R266, R267): a read of the cable's identifier in DETECT; a cable that answers lists its applications, of which the
first with 8 lanes at 64 GBd PAM4 is selected on page 10h and the cable leaves low-power mode; its thresholds are read first (log 199). A cage without power has no cable that
answers (R317). -/
def execCableDetectAttempt (p : Fin 20) (ans : CableAnswer) (s : State) : Answer :=
  let x := s.ports[p]
  .next (if x.state ≠ .detect then s
  else if !ans.answered ∨ !x.power then
    let s := (s.setPort p { x with attempts := x.attempts + 1, cable := x.cable &&& ~~~1 }).emit (.twoWire p .p00 false)
    if 2 ≤ x.attempts then s.portFails p 1 else s
  else
    let s := (s.emit (.twoWire p .p00 false)).emit (.twoWire p .p01 false)
    match ans.apps.findIdx? id with
    | none => (s.setPort p { x with cable := (x.cable ||| 1) &&& ~~~2 }).portFails p 2
    | some n =>
      let lanes := (List.range 8).countP (fun i => ans.signal.getLsbD i)
      (((s.setPort p { x with cable := x.cable ||| 3, attempts := 0, app := some n, state := if 4 ≤ lanes then .train else .detect }).emit
        (.twoWire p .p02 false)).emit (.twoWire p .p10 true)).emit (.twoWire p .lower true))

/-- The training word this end sends (Table: Training word): 3072 slots on each channel (R249). -/
def State.trainingWord (s : State) (p : Fin 20) : List Byte :=
  let x := s.ports[p]
  natLe 4 0xC4B80001 ++ natLe 1 4 ++ natLe 1 p ++ natLe 2 s.myId ++ natLe 1 x.own.toNat ++ natLe 1 (b2n x.seen) ++ natLe 2 x.precode.toNat ++
    (List.range 6).flatMap (fun _ => natLe 2 3072) ++ List.replicate 8 0

/-- A training flit leaves (R241). -/
def State.sendWord (s : State) (p : Fin 20) : State := s.sendFlit p 3 0 0 (s.trainingWord p)

/-- TRAIN_LOCK (R235, R238, R240, R241): lock on a set of lanes, for some of which the receiver asks for precoding; with no set of four the port
goes down with cause lanes. -/
def execTrainLock (p : Fin 20) (lanes precode : BitVec 8) (s : State) : Answer :=
  let x := s.ports[p]
  .next (if x.state ≠ .train then s
  else match linkWidth lanes (s.x4Only p) with
    | none => s.portFails p 7
    | some _ => (s.setPort p { x with own := lanes, precode := precode, state := .negotiate, word := none, same := 0, seen := false }).sendWord p)

/-- TRAIN_TIMEOUT (R240). -/
def execTrainTimeout (p : Fin 20) (s : State) : Answer := .next (if s.ports[p].state = .train then s.portFails p 3 else s)

/-- Whether the CRC of a flit of 256 bytes is right (R243). -/
def flitGood (f : List Byte) : Bool := f.length == 256 && leNat (f.drop 248) == (crc64 (f.take 248)).toNat

/-- Payload of a flit. -/
def payload (f : List Byte) : List Byte := (f.drop 8).take 240

/-- Whether a flit passes R244: a good CRC in a correctable codeword, a listed type, and listed channels of its payload and its credits
(R19, R243). -/
def flitListed (f : List Byte) (fec : Fec) : Bool :=
  flitGood f && !fec.bad && decide (tfield f 0 1 ≤ 3) &&
    decide (bits (tfield f 1 1) 3 1 < 6) && decide (tfield f 0 1 = 1 ∨ bits (tfield f 1 1) 3 1 = 0) && decide (tfield f 6 2 / 8192 < 6)

/-- An acceptable training word: type 0x03, the magic, and listed fields (R19, R242). -/
def wordGood (f : List Byte) : Bool := tfield f 0 1 == 3 && tfield f 8 4 == 0xC4B80001 && decide (tfield f 13 1 % 32 < 20)

/-- The checks of a settled word, in order: the down cause of the first that fails (R242). -/
def State.wordFault (s : State) (p : Fin 20) (w : List Byte) : Option (BitVec 4) :=
  let e := s.mreg (pReg p + 0x14)
  let id := bits (tfield w 6 2) 11 0
  let port := tfield w 5 1 % 32
  if !s.idValid then some 8
  else if !bit (tfield w 4 1) 2 then some 4
  else if id = s.myId then some 6
  else if 2 ≤ podOf id ∨ (bit e 31 ∧ (bits e 11 0 ≠ id ∨ bits e 20 16 ≠ port)) then some 5
  else if (linkWidth (s.ports[p].own &&& BitVec.ofNat 8 (tfield w 8 1)) (s.x4Only p)).isNone then some 7
  else none

/-- A settled port records its peer and the configuration it has trained with, and enters ACTIVE (R235, R242, R270). -/
def State.settlePort (s : State) (p : Fin 20) (w : List Byte) : State :=
  let x := s.ports[p]
  match linkWidth (x.own &&& BitVec.ofNat 8 (tfield w 8 1)) (s.x4Only p) with
  | none => s
  | some (lanes, width) =>
    s.setPort p { x with
      state := .active, lanes := lanes, width := width, gen := 2, cfg := 3
      peer := BitVec.ofNat 32 (2 ^ 31 + tfield w 5 1 % 32 * 2 ^ 16 + bits (tfield w 6 2) 11 0)
      credits := Vector.ofFn (fun v => tfield w (12 + 2 * v.val) 2)
      trained := { remote := bit (s.mreg (pReg p + 0x04)) 1, x4 := s.x4Only p, id := s.myId, precode := BitVec.ofNat 8 (tfield w 10 1) }
      txSeq := 0, rxSeq := 0, nak := false, discard := false, heard := s.clk.us }

/-- A counter of codewords takes `n` more, up to its end (R269). -/
def countUp (c : BitVec 64) (n : Nat) : BitVec 64 := BitVec.ofNat 64 (min (2 ^ 64 - 1) (c.toNat + n))

/-- FEC results are counted in codewords, and the times of uncorrectable ones are kept (R256, R269). -/
def State.countFec (s : State) (p : Fin 20) (fec : Fec) : State :=
  let x := s.ports[p]
  s.setPort p { x with
    fecCorr := countUp x.fecCorr fec.corrected, fecUncorr := countUp x.fecUncorr fec.uncorrectable
    badWords := (List.range fec.uncorrectable).foldl (fun l _ => recent s.clk.us 1000 l) x.badWords }

/-- A discarded flit of R244 is counted; the next flit sent carries a nak (R244, R246). -/
def State.dropFlit (s : State) (p : Fin 20) : State :=
  let x := s.ports[p]
  s.setPort p { x with
    nak := true, discard := true, crcErr := if x.crcErr = BitVec.allOnes 64 then x.crcErr else x.crcErr + 1 }

/-- TRAINING_WORD (R19, R32, R238, R241, R242, R244, R587): a training flit arrives in NEGOTIATE. The port answers each with its own word,
settles at the eighth consecutive identical one with seen set, and enters ACTIVE or goes down; one that is not acceptable breaks the run. -/
def execTrainingWord (p : Fin 20) (flit : List (BitVec 8)) (fec : Fec) (s : State) : Answer :=
  .next (if s.ports[p].state ≠ .negotiate then s
  else
    let s := s.countFec p fec
    let broken (s : State) : State := s.setPort p { s.ports[p] with same := 0 }
    if !flitListed flit fec then broken (s.dropFlit p)
    else if !wordGood flit then broken s
    else
      let w := (payload flit).take 32
      let x := s.ports[p]
      let same := if x.word = some w then min 8 (x.same + 1) else 1
      let s := s.setPort p { x with word := some w, same := same, seen := x.seen || same == 8 }
      if same < 8 ∨ !bit (tfield w 9 1) 0 then s.sendWord p
      else match s.wordFault p w with
        | some c =>
          let s := s.portFails p c
          if c = 4 then s.record 0x09 .warning true 0 [4, BitVec.ofNat 8 (tfield w 4 1)] else s
        | none => (s.sendWord p).settlePort p w)

/-- NEGOTIATE_TIMEOUT (R240): 10 ms pass. The manual names no check that failed; the cause is train_fail (log 84). -/
def execNegotiateTimeout (p : Fin 20) (s : State) : Answer := .next (if s.ports[p].state = .negotiate then s.portFails p 3 else s)

/-! ## Retraining (R240, R256) -/

/-- RETRAIN_TRIGGER (R256): a trigger is met on an ACTIVE port. -/
def execRetrainTrigger (p : Fin 20) (why : RetrainCause) (s : State) : Answer :=
  let x := s.ports[p]
  .next (match why with
  | .naks => if 8 ≤ x.naks then s.retrain p else s
  | .codewords => if 16 < (x.badWords.filter (fun t => decide (s.clk.us < t + 1000))).length then s.retrain p else s
  | .clockLost => s.retrain p
  | .cableFlag => s.retrain p)

/-- RETRAIN_LOCK (R238, R240, R256, R270): lock is regained at an allowed width; nothing has been lost, and sending goes on. -/
def execRetrainLock (p : Fin 20) (lanes : BitVec 8) (s : State) : Answer :=
  let x := s.ports[p]
  .next (if x.state ≠ .retrain then s
  else match linkWidth lanes x.trained.x4 with
    | none => s
    | some (l, w) => (s.setPort p { x with state := .active, own := lanes, lanes := l, width := w }).pump p)

/-- RETRAIN_TIMEOUT (R240, R257, R258, R298): 10 ms pass in RETRAIN. -/
def execRetrainTimeout (p : Fin 20) (s : State) : Answer := .next (if s.ports[p].state = .retrain then s.portDown p 9 else s)

/-- Down causes that are retryable (Table: BX_Pp_STATUS fields). -/
def retryable (c : BitVec 4) : Bool := [1, 3, 7, 9, 10, 11].contains c.toNat

/-- PORT_AUTO_RETRY (R240): 1 s after entering DOWN. -/
def execPortAutoRetry (p : Fin 20) (s : State) : Answer :=
  let x := s.ports[p]
  .next (if x.state = .down ∧ bit (s.mreg (pReg p + 0x04)) 0 ∧ retryable x.cause ∧ s.stage = .stage3 then s.detect p else s)

/-! ## Forwarding (R28, R250, R254) -/

/-- A transaction with its hop index one higher. -/
def hopped (b : List Byte) : List Byte := b.take 1 ++ natLe 1 (tFlags b + 2) ++ b.drop 2

/-- Whether a transaction is a request. -/
def isRequest (b : List Byte) : Bool := decide (tType b < 0x80)

/-- A transaction for another module goes on, or is answered UNREACHABLE, or is lost (R254, R263); a request with an unlisted hop index is
answered INVALID (R19, R250, R253). -/
def State.passOn (s : State) (p : Fin 20) (b : List Byte) : State :=
  let refuse := if isRequest b then s.answer p b 7 [] else s
  if tHop b = 3 then (if isRequest b then s.answer p b 6 [] else s)
  else match s.egress (tDst b) with
  | none => refuse
  | some e =>
    let y := s.ports[e]
    if tHop b = 2 then refuse
    else if y.state = .flush ∧ isRequest b then refuse
    else if y.carries ∨ y.state = .flush then
      s.sendTrans e (vcOf ((if isRequest b then 0 else 3) + tHop b + 1)) (hopped b)
    else s

/-- A flushing port has sent its tombstone (R263). -/
def Port.entombed (x : Port) : Bool :=
  match x.flush with
  | some f => f.sent.isSome
  | none => false

/-- A whole transaction has been received on a channel: discarded, passed on, or kept to be handled (R28, R251, R254, R263). One that is discarded
behind a TOMBSTONE is counted for nothing: DESIGN CHOICE (log 209). -/
def State.takeTrans (s : State) (p : Fin 20) (v : Fin 6) (b : List Byte) (slots : Nat) : State :=
  if s.ports[p].entombed then s.freeSlots p v slots
  else if 2 ≤ podOf (tSrc b) ∨ 2 ≤ podOf (tDst b) then (s.freeSlots p v slots).addrError p
  else if tDst b ≠ s.portId p then (s.freeSlots p v slots).passOn p b
  else
    let x := s.ports[p]
    if isRequest b then s.setPort p { x with requests := x.requests ++ [{ vc := v, bytes := b }] }
    else if [0x81, 0x82, 0x83, 0x85].contains (tType b) ∧ tHop b ≠ 3 then
      s.setPort p { x with responses := x.responses ++ [{ vc := v, bytes := b }] }
    else s.freeSlots p v slots

/-- Cuts the slots of a channel into transactions: NULL slots, whole transactions with their slot counts, and what is left (R248,
R251). -/
def cutSlots : Nat → List (List Byte) → List (List Byte × Nat) × List (List Byte)
  | 0, l => ([], l)
  | _ + 1, [] => ([], [])
  | n + 1, h :: rest =>
    if tType h = 0 then
      let r := cutSlots n rest
      (([], 1) :: r.1, r.2)
    else
      let k := dataSlots h
      if rest.length < k then ([], h :: rest)
      else
        let r := cutSlots n (rest.drop k)
        (((h ++ (rest.take k).flatten), k + 1) :: r.1, r.2)

/-- The slots of an accepted data flit join their channel (R248, R251). -/
def State.takeSlots (s : State) (p : Fin 20) (v : Fin 6) (slots : List (List Byte)) : State :=
  let x := s.ports[p]
  let all := x.part[v] ++ slots
  let r := cutSlots all.length all
  let s := s.setPort p { x with part := x.part.set v r.2 }
  r.1.foldl (fun s t => if t.1.isEmpty then s.freeSlots p v 1 else s.takeTrans p v t.1 t.2) s

/-! ## The flit layer (R243–R249, R259, R260) -/

/-- Flits that an acknowledgement leaves unacknowledged. -/
def afterAck (ack : BitVec 12) (l : List (BitVec 12 × BitVec 8 × Nat × List Byte)) : List (BitVec 12 × BitVec 8 × Nat × List Byte) :=
  if l.any (fun e => e.1 == ack) then (l.dropWhile (fun e => e.1 != ack)).drop 1 else l

/-- Acknowledgement, credits and nak of a received flit (R247, R249, R256). -/
def State.takeAck (s : State) (p : Fin 20) (f : List Byte) : State :=
  let x := s.ports[p]
  let kept := afterAck (BitVec.ofNat 12 (tfield f 4 2)) x.replay
  let moved := kept.length ≠ x.replay.length
  let nak := bit (tfield f 1 1) 0
  let w := tfield f 6 2
  let v := w / 8192
  let credits := if h : v < 6 then x.credits.set v (x.credits[v] + w % 8192) else x.credits
  let s := s.setPort p { x with
    replay := kept, credits := credits
    naks := if moved then b2n nak else if nak then x.naks + 1 else x.naks }
  if nak then (s.replayAll p).pump p else s.pump p

/-- The fields of a sideband message that only some values are listed for have one of them (R19, Table: Message bodies). -/
def sideListed (m : List Byte) : Bool :=
  let t := mType m
  if t = 0x01 then decide (tfield m 96 1 ≤ 3)
  else if t = 0x02 then decide (1 ≤ tfield m 18 1 ∧ tfield m 18 1 ≤ 4)
  else if t = 0x20 then decide (tfield m 16 1 % 32 < 20 ∧ 1 ≤ tfield m 17 1 ∧ tfield m 17 1 ≤ 4)
  else if 0x10 ≤ t ∧ t ≤ 0x17 then decide (podOf (tfield m 24 2) < 2 ∧ podOf (tfield m 26 2) < 2)
  else true

/-- A sideband message has been received (R19, R28, R34, R254, R259, R260): discarded, passed on, or kept. One with an unlisted hop index
cannot be forwarded, and is counted even where it names this module: DESIGN CHOICE (log 209); one with another unlisted field is discarded
(log 187). -/
def State.takeMessage (s : State) (p : Fin 20) (m0 : List Byte) : State :=
  let m := m0.take (mLen m0)
  let t := mType m0
  let linkLocal := t = 0x01 ∨ t = 0x20
  if tfield m0 0 1 ≠ 2 ∨ sideLength t ≠ some (mLen m0) then s
  else if 2 ≤ podOf (mSrc m) ∨ 2 ≤ podOf (mDst m) then s.addrError p
  else if mHop m = 3 then s.addrError p
  else if !sideListed m then s
  else if mDst m ≠ s.portId p then
    if linkLocal then s.addrError p
    else match s.egress (mDst m) with
      | none => s.addrError p
      | some e =>
        if mHop m = 2 ∨ !s.ports[e].carries then s.addrError p
        else s.sendSide e (m.take 7 ++ natLe 1 (mHop m + 1) ++ m.drop 8)
  else
    let x := s.ports[p]
    if x.side.length < 32 then s.setPort p { x with side := x.side ++ [m] }
    else if t = 0x01 then
      s.setPort p { x with side := x.side.filter (fun k => mType k != 0x01) ++ [m] }
    else (s.setPort p { x with sbDrop := if x.sbDrop = BitVec.allOnes 32 then x.sbDrop else x.sbDrop + 1 }).flag (pReg p + 0x0C) 5

/-- A flit that passes R244 takes effect: its acknowledgement and credits, and, in order, its payload (R245–R249). A nak that is due goes with the
next flit sent though new flits have been accepted since (R246). -/
def State.takeFlit (s : State) (p : Fin 20) (f : List Byte) : State :=
  let t := tfield f 0 1
  let s := s.takeAck p f
  let x := s.ports[p]
  if t = 0 ∨ t = 3 then s
  else if BitVec.ofNat 12 (tfield f 2 2) ≠ x.rxSeq then s.setPort p { x with nak := true, discard := true }
  else
    let s := s.setPort p { x with rxSeq := x.rxSeq + 1, discard := false }
    if t = 1 then s.takeSlots p (vcOf (bits (tfield f 1 1) 3 1)) (slotsOf (payload f)) else s.takeMessage p (payload f)

/-- A flit arrives on a port that is ACTIVE or flushes (R240, R244). -/
def State.receive (s : State) (p : Fin 20) (f : List Byte) (fec : Fec) : State :=
  match s.ports[p].state with
  | .active => if flitListed f fec then (s.countFec p fec).takeFlit p f else (s.countFec p fec).dropFlit p
  | .flush => if flitListed f fec then (s.countFec p fec).takeFlit p f else (s.countFec p fec).dropFlit p
  | _ => s

/-- DATA_FLIT (R19, R244–R249, R251, R254, R259, R260, R522): a data or sideband flit arrives, and the port answers it with what it has to
send or with an idle flit. Uncorrectable data in its buffers take the port down. -/
def execDataFlit (p : Fin 20) (flit : List (BitVec 8)) (fec : Fec) (sram : SramErr) (s : State) : Answer :=
  .next (let live := s.ports[p].state = .active ∨ s.ports[p].state = .flush
  if !live then s
  else
    let s := s.sramError 3 p sram
    if fatalSram sram then s.portLost p 9
    else
      let s := s.receive p flit fec
      if s.ports[p].state = .active ∨ s.ports[p].state = .flush then s.pumpOrIdle p else s)

/-- IDLE_FLIT (R244–R249): an idle flit arrives. -/
def execIdleFlit (p : Fin 20) (flit : List (BitVec 8)) (fec : Fec) (s : State) : Answer := .next (s.receive p flit fec)

/-- NAK_REPEAT (R246): 2 µs after a discard without a newly accepted flit: a nak is set again. -/
def execNakRepeat (p : Fin 20) (s : State) : Answer :=
  let x := s.ports[p]
  .next (if (x.state = .active ∨ x.state = .flush) ∧ x.discard then (s.setPort p { x with nak := true }).pumpOrIdle p else s)

/-! ## Flushes (R263–R265) -/

/-- LINK_FAILURE_DURING_FLUSH (R265). -/
def execLinkFailureDuringFlush (p : Fin 20) (cause : BitVec 4) (s : State) : Answer :=
  .next (if s.ports[p].state = .flush then s.flushFails p cause else s)

/-- FLUSH_DRAIN_END (R263): every request of this module has been answered and every flit acknowledged. -/
def execFlushDrainEnd (p : Fin 20) (s : State) : Answer :=
  let x := s.ports[p]
  .next (if x.state = .flush ∧ (unansweredBy x.responses x.out).isEmpty ∧ x.replay.isEmpty ∧ x.tx.toList.all List.isEmpty then s.sendTombstone p else s)

/-- FLUSH_TIMEOUT (R258, R263): flush_us has elapsed. -/
def execFlushTimeout (p : Fin 20) (s : State) : Answer :=
  let x := s.ports[p]
  .next (if x.state = .flush ∧ !x.entombed then (s.sendTombstone p).flag (pReg p + 0x0C) 7 else s)

/-- TOMBSTONE_DONE (R263): the tombstone has been acknowledged, or 100 µs have passed. -/
def execTombstoneDone (p : Fin 20) (s : State) : Answer :=
  let x := s.ports[p]
  .next (if x.state = .flush ∧ x.entombed then s.portOff p else s)

/-! ## Requests from other modules (R252, R253, R255, R291) -/

/-- The set of a number in the configuration in force (R271). -/
def State.setOf (s : State) (n : Nat) : Option SetDef :=
  match s.fleet.blocks with
  | none => none
  | some b => b.sets.find? (fun d => d.num == n)

/-- The index of a transaction's source in the set of its tag, a set of which this module is a member too (R279). -/
def State.senderIn (s : State) (b : List Byte) : Option Nat :=
  match s.setOf (tTag b / 1024) with
  | none => none
  | some x => if x.members.contains s.myId then x.members.findIdx? (fun i => i == tSrc b) else none

/-- A contribution of a member of its set, to an instance that this module has not started but will, waits for it (R276, R279, R280; log 85). -/
def State.awaits (s : State) (t : Trans) : Bool :=
  let b := t.bytes
  let set := tTag b / 1024
  let seq := tTag b / 2 % 512
  tType b == 5 && (tOp b == 2 || tOp b == 3) && (s.senderIn b).isSome &&
    (match s.fleet.collectives.find? (fun c => c.set == set && decide (c.seq.toNat % 512 = seq)) with
    | some c => !(c.running && c.inst % 2 == tTag b % 2)
    | none => decide ((find 0 s.fleet.seqs set).toNat % 512 + 1 = seq ∨ ((find 0 s.fleet.seqs set).toNat % 512 = 511 ∧ seq = 0)))

/-- The next request to perform of those received: the first that neither waits for an instance nor, being ordered, stands behind an
earlier one of its source; with those that stay (R147, R255; log 85). -/
def State.pickFrom (s : State) (pre : List Trans) : List Trans → Option (Trans × List Trans)
  | [] => none
  | t :: rest =>
    if s.awaits t ∨ (bit (tFlags t.bytes) 0 ∧ pre.any (fun k => tSrc k.bytes == tSrc t.bytes)) then s.pickFrom (pre ++ [t]) rest
    else some (t, pre ++ rest)

/-- The next request of a port where it is of a kind. -/
def State.nextRequest (s : State) (p : Fin 20) (is : List Byte → Bool) : Option (Trans × List Trans) :=
  (s.pickFrom [] s.ports[p].requests).filter (fun r => is r.1.bytes)

/-- A request leaves the receive buffer: its slots are free (R249). -/
def State.takeRequest (s : State) (p : Fin 20) (t : Trans) (rest : List Trans) : State :=
  (s.setPort p { s.ports[p] with requests := rest }).freeSlots p (vcOf t.vc) (dataSlots t.bytes + 1)

/-- A request addresses a scratchpad. -/
def toPad (b : List Byte) : Bool := bit (tFlags b) 3

/-- Device address of a request; scratchpad tile and offset (Table: Transaction header, R164). -/
def devAddr (b : List Byte) : Nat := tAddr b % 2 ^ 41
def padTile (b : List Byte) : Option Nat := tileOfIdent (bits (tAddr b) 31 20)
def padOff (b : List Byte) : Nat := bits (tAddr b) 19 0

/-- Length and operation code are listed for a type (Table: Transaction types, Table: ATOMIC operation codes), and the fields that
only some types may use (R19, R251–R253). -/
def transListed (b : List Byte) : Bool :=
  let n := tLen b
  let o := tOp b
  let target := if toPad b then decide ((tType b = 1 ∨ tType b = 2) ∧ tView b = 0) else decide (tView b ≠ 3)
  decide (tHop b ≠ 3) && match tType b with
  | 0x01 => decide (4 ≤ n ∧ n ≤ 4096 ∧ n % 4 = 0 ∧ o = 0) && target
  | 0x02 => decide (4 ≤ n ∧ n ≤ 4096 ∧ n % 4 = 0 ∧ o = 0) && target
  | 0x03 => decide (1 ≤ o ∧ o ≤ 0x0B ∧ (n = 4 ∨ (n = 8 ∧ o ≠ 0x0B))) && target
  | 0x04 => decide (64 ≤ n ∧ n ≤ 4096 ∧ n % 64 = 0 ∧ 1 ≤ o ∧ o ≤ 3) && target
  | 0x05 => decide (16 ≤ n ∧ n ≤ 4096 ∧ n % 16 = 0 ∧ 1 ≤ o ∧ o ≤ 5 ∧ (o = 2 ∨ o = 3 ∨ n = 16) ∧ tView b ≠ 3) && !toPad b
  | _ => false

/-- Whether the COPY block names a module to send its copy to this one: the active of a twin entry, or the mirror partner (R290,
R291). -/
def State.namedCopy (s : State) (src : Nat) : Bool :=
  match s.fleet.blocks with
  | none => false
  | some b =>
    (b.copyMode == 1 && b.twins.any (fun t => t.active == src && t.standby == s.myId)) ||
    (b.copyMode == 2 && b.kind == 4 && src == (s.myId + 1024) % 2048)

/-- A write on port 19 reaches into a bank of a copy that its source is not named to send (R291). -/
def State.foreignCopy (s : State) (p : Fin 20) (b : List Byte) : Bool :=
  match s.fleet.blocks with
  | none => false
  | some k =>
    let l := (translate (tView b) (devAddr b)).getD 0
    p == 19 && tType b == 2 && !toPad b && !s.namedCopy (tSrc b) && k.ranges.any (fun r =>
      decide ((r.bank0 < l + tLen b ∧ l < r.bank0 + r.len) ∨ (r.bank1 < l + tLen b ∧ l < r.bank1 + r.len)))

/-- Alignment of a request: 4 for reads and writes, its size for an atomic, 64 for a reduction (R113, R253). -/
def transAlign (b : List Byte) : Nat :=
  match tType b with
  | 0x03 => tLen b
  | 0x04 => 64
  | _ => 4

/-- Status of a READ, WRITE, ATOMIC or REDUCE before anything is performed, 0 where it may be (Table: Response status on Berux). -/
def State.transStatus (s : State) (p : Fin 20) (b : List Byte) : Nat :=
  if !transListed b then 6
  else if !s.ports[p].trained.remote ∨ s.foreignCopy p b then 5
  else if toPad b then
    match padTile b with
    | none => 6
    | some t => if 2 ^ 20 < padOff b + tLen b ∨ padOff b % 4 ≠ 0 then 1 else if (s.tile t).fenced then 4 else 0
  else if !mapped (tView b) (devAddr b) (tLen b) ∨ devAddr b % transAlign b ≠ 0 then 1
  else 0

/-- The home of a request serves it now: a tile that a route leads to and back from and at which no access to its words waits, or device memory
(R136, R137, R148, R253; log 184). -/
def State.homeOpen (s : State) (p : Fin 20) (b : List Byte) : Bool :=
  if toPad b then
    match padTile b with
    | none => true
    | some t => s.routeLive (portNode p t) (.tile t) && s.routeLive (.tile t) (portNode p t) && !s.padAwaited t (padOff b) (tLen b)
  else s.farOpen (portNode p) (tView b) (devAddr b) (tLen b)

/-- The home of a request has served it: a controller at which it called has. -/
def State.visitHome (s : State) (b : List Byte) : State := if toPad b then s else s.visit (tView b) (devAddr b) (tLen b)

/-- The outcome of a WRITE of a copy from a module that is named to send one: a block that is not performed breaks its bank until it is written
(R291; log 188). -/
def State.noteCopy (s : State) (p : Fin 20) (b : List Byte) (status : Nat) : State :=
  if p = 19 ∧ tType b = 2 ∧ !toPad b ∧ s.namedCopy (tSrc b) then
    let a := (translate (tView b) (devAddr b)).getD 0
    let rest := s.fleet.copyBad.filter (fun k => k != a)
    s.setFleet { s.fleet with copyBad := if status = 0 then rest else a :: rest }
  else s

/-- A request of a kind is taken, checked, performed and answered, once its home serves it (R253). -/
def State.serve (s : State) (p : Fin 20) (is : List Byte → Bool) (perform : State → List Byte → State × Nat × List Byte) : State :=
  match s.nextRequest p is with
  | none => s
  | some (t, rest) =>
    if s.transStatus p t.bytes = 0 ∧ !s.homeOpen p t.bytes then s
    else
    let s := s.takeRequest p t rest
    let st := s.transStatus p t.bytes
    if st ≠ 0 then (s.noteCopy p t.bytes st).answer p t.bytes st []
    else
      let r := perform (s.visitHome t.bytes) t.bytes
      (r.1.noteCopy p t.bytes r.2.1).answer p t.bytes r.2.1 r.2.2

/-- A read of device memory or of a scratchpad (R53–R55, R103, R104, R107, R116–R118, R253). -/
def State.readFor (s : State) (errs : DramErrs) (ecc : PadErrs) (b : List Byte) : State × Nat × List Byte :=
  if toPad b then
    match padTile b with
    | none => (s, 1, [])
    | some t =>
      let c := s.padCheck t (padOff b) (tLen b) ecc
      if c.2 then (c.1, 3, []) else (c.1, 0, readPad (c.1.tile t).pad (padOff b) (tLen b))
  else
    let c := s.devCheck (tView b) (devAddr b) (tLen b) errs
    if c.2 then (c.1, 2, []) else (c.1, 0, c.1.devRead (tView b) (devAddr b) (tLen b))

/-- A write of device memory or of a scratchpad: a partly covered word or transaction that is uncorrectable keeps its bytes (R56, R107,
R253). -/
def State.writeFor (s : State) (errs : DramErrs) (ecc : PadErrs) (b : List Byte) : State × Nat × List Byte :=
  if toPad b then
    match padTile b with
    | none => (s, 1, [])
    | some t =>
      let c := s.wordsCheck t (((padWords (padOff b) (tLen b)).filter (fun w => !w.2)).map Prod.fst) ecc
      if c.2 then (c.1, 3, []) else ((c.1.padWrite t (padOff b) (tData b)).settle t, 0, [])
  else
    let c := s.storeChecked (tView b) (devAddr b) (tData b) errs
    (c.1, if c.2 then 2 else 0, [])

/-- An atomic operation on device memory; the old value returns in 8 bytes (R252). -/
def State.atomicFor (s : State) (op : AtomicOp) (errs : DramErrs) (b : List Byte) : State × Nat × List Byte :=
  let n := tLen b
  let c := s.devCheck (tView b) (devAddr b) n errs
  if c.2 then (c.1, 2, [])
  else
    let old := leNat (c.1.devRead (tView b) (devAddr b) n)
    let slot := b.drop 16
    let new := atomicResult op n old (leNat (slot.take n)) (leNat ((slot.drop 8).take n))
    (c.1.devWrite (tView b) (devAddr b) (natLe n new), 0, natLe 8 old)

/-- Format of a REDUCE's operation code. -/
def reduceFmt (o : Nat) : LaneFmt := if o = 1 then .fp32 else if o = 2 then .bf16 else .fp16

/-- A reduction, one 64-byte transaction after another; one that is uncorrectable keeps its bytes (R113, R114, R118, R253). -/
def State.reduceFor (s : State) (errs : DramErrs) (b : List Byte) : State × Nat × List Byte :=
  (List.range (tLen b / 64)).foldl (fun (acc : State × Nat × List Byte) k =>
    let a := devAddr b + 64 * k
    let c := acc.1.devCheck (tView b) a 64 ((errs.filter (fun e => e.1 == k)).map (fun e => (0, e.2)))
    if c.2 then (c.1, 2, [])
    else (c.1.devWrite (tView b) a (reduceBytes (reduceFmt (tOp b)) (c.1.devRead (tView b) a 64) (((tData b).drop (64 * k)).take 64)),
      acc.2.1, [])) (s, 0, [])

/-- Listed requests of a type, and of an ATOMIC code; an unlisted one is the business of BERUX_INVALID_TRANSACTION. -/
def isType (n : Nat) (b : List Byte) : Bool := tType b == n && transListed b
def isAtomic (o : Nat) (b : List Byte) : Bool := isType 3 b && tOp b == o

/-- BX_READ (R103, R104, R107, R250, R253–R255). -/
def execBxRead (p : Fin 20) (errs : DramErrs) (ecc : PadErrs) (s : State) : Answer := .next (s.serve p (isType 1) (fun s b => s.readFor errs ecc b))

/-- BX_WRITE (R107, R250, R253–R255, R290, R291). -/
def execBxWrite (p : Fin 20) (errs : DramErrs) (ecc : PadErrs) (s : State) : Answer := .next (s.serve p (isType 2) (fun s b => s.writeFor errs ecc b))

/-- BX_ATOMIC_SWAP (R252, R253). -/
def execBxAtomicSwap (p : Fin 20) (errs : DramErrs) (s : State) : Answer := .next (s.serve p (isAtomic 1) (fun s b => s.atomicFor .swap errs b))

/-- BX_ATOMIC_COMPARE_AND_SWAP (R252, R253). -/
def execBxAtomicCompareAndSwap (p : Fin 20) (errs : DramErrs) (s : State) : Answer := .next (s.serve p (isAtomic 2) (fun s b => s.atomicFor .cas errs b))

/-- BX_ATOMIC_INTEGER_ADD (R252, R253). -/
def execBxAtomicIntegerAdd (p : Fin 20) (errs : DramErrs) (s : State) : Answer := .next (s.serve p (isAtomic 3) (fun s b => s.atomicFor .add errs b))

/-- BX_ATOMIC_SIGNED_MIN (R252, R253). -/
def execBxAtomicSignedMin (p : Fin 20) (errs : DramErrs) (s : State) : Answer := .next (s.serve p (isAtomic 4) (fun s b => s.atomicFor .smin errs b))

/-- BX_ATOMIC_SIGNED_MAX (R252, R253). -/
def execBxAtomicSignedMax (p : Fin 20) (errs : DramErrs) (s : State) : Answer := .next (s.serve p (isAtomic 5) (fun s b => s.atomicFor .smax errs b))

/-- BX_ATOMIC_UNSIGNED_MIN (R252, R253). -/
def execBxAtomicUnsignedMin (p : Fin 20) (errs : DramErrs) (s : State) : Answer := .next (s.serve p (isAtomic 6) (fun s b => s.atomicFor .umin errs b))

/-- BX_ATOMIC_UNSIGNED_MAX (R252, R253). -/
def execBxAtomicUnsignedMax (p : Fin 20) (errs : DramErrs) (s : State) : Answer := .next (s.serve p (isAtomic 7) (fun s b => s.atomicFor .umax errs b))

/-- BX_ATOMIC_AND (R252, R253). -/
def execBxAtomicAnd (p : Fin 20) (errs : DramErrs) (s : State) : Answer := .next (s.serve p (isAtomic 8) (fun s b => s.atomicFor .and errs b))

/-- BX_ATOMIC_OR (R252, R253). -/
def execBxAtomicOr (p : Fin 20) (errs : DramErrs) (s : State) : Answer := .next (s.serve p (isAtomic 9) (fun s b => s.atomicFor .or errs b))

/-- BX_ATOMIC_XOR (R252, R253). -/
def execBxAtomicXor (p : Fin 20) (errs : DramErrs) (s : State) : Answer := .next (s.serve p (isAtomic 10) (fun s b => s.atomicFor .xor errs b))

/-- BX_ATOMIC_FP32_ADD (R114, R252, R253). -/
def execBxAtomicFp32Add (p : Fin 20) (errs : DramErrs) (s : State) : Answer := .next (s.serve p (isAtomic 11) (fun s b => s.atomicFor .fadd errs b))

/-- BX_REDUCE (R113, R114, R253). -/
def execBxReduce (p : Fin 20) (errs : DramErrs) (s : State) : Answer := .next (s.serve p (isType 4) (fun s b => s.reduceFor errs b))

/-- BERUX_INVALID_TRANSACTION (R19, R252, R253, R279): an unlisted type, operation code, length or field is answered INVALID. -/
def execBeruxInvalidTransaction (p : Fin 20) (s : State) : Answer :=
  .next (match s.nextRequest p (fun b => !transListed b) with
  | none => s
  | some (t, rest) => ((s.takeRequest p t rest).noteCopy p t.bytes 6).answer p t.bytes 6 [])

/-! ## Responses (R258) -/

/-- A response of a kind is handled: it ends the request it answers with its status; a late one is discarded and counted (R258). -/
def State.takeResponse (s : State) (p : Fin 20) (kind : Nat) : State :=
  match s.ports[p].responses with
  | [] => s
  | t :: rest =>
    if tType t.bytes ≠ kind then s
    else
      let s := (s.setPort p { s.ports[p] with responses := rest }).freeSlots p (vcOf t.vc) (dataSlots t.bytes + 1)
      match s.ports[p].out.find? (fun r => r.matches t.bytes) with
      | none => s.addrError p
      | some r =>
        (s.setPort p { s.ports[p] with out := s.ports[p].out.eraseP (fun r => r.matches t.bytes) }).endRequest p r (.status (tOp t.bytes))

/-- READ_RSP (R258). -/
def execReadRsp (p : Fin 20) (s : State) : Answer := .next (s.takeResponse p 0x81)

/-- WRITE_ACK (R255, R258, R282). -/
def execWriteAck (p : Fin 20) (s : State) : Answer := .next (s.takeResponse p 0x82)

/-- ATOMIC_RSP (R258). -/
def execAtomicRsp (p : Fin 20) (s : State) : Answer := .next (s.takeResponse p 0x83)

/-- COLL_ACK (R258, R282, R283, R290, R292). -/
def execCollAck (p : Fin 20) (s : State) : Answer := .next (s.takeResponse p 0x85)

/-- BERUX_REQUEST_TIMEOUT (R258, R282, R292): the oldest request of a tag has had no response in time. -/
def execBeruxRequestTimeout (p : Fin 20) (tag : BitVec 16) (s : State) : Answer :=
  .next (let x := s.ports[p]
  let waiting := unansweredBy x.responses x.out
  match waiting.find? (fun r => r.tag == tag) with
  | none => s
  | some r =>
    (s.setPort p { x with out := answeredBy x.responses x.out ++ waiting.eraseP (fun r => r.tag == tag) }).endRequest p r .timeout)

end Sys2Proof.Machine
end

