-- ==== Sys2Proof/Machine/Fleet.lean ====
section
/-! DEFINITION. Sideband messages, leases and promotion, epoch messages, and cables and cages (R261, R262, R264, R268, R294–R308, R317,
R426, R503). -/

namespace Sys2Proof.Machine

open Sys2Proof

/-- The oldest sideband message of a port, where it is of a type; it leaves the buffer. -/
def State.nextMessage (s : State) (p : Fin 20) (t : Nat) : Option (State × List Byte) :=
  match s.ports[p].side with
  | [] => none
  | m :: rest => if mType m = t then some (s.setPort p { s.ports[p] with side := rest }, m) else none

/-! ## Heartbeats (R261, R262, R305, R306, R426) -/

/-- HEARTBEAT_SEND (R261): the message carries what Crown maintains, whether Crown runs or not; crown_ok is clear while Crown does not run or its
strobe is lost (R454). -/
def execHeartbeatSend (p : Fin 20) (s : State) : Answer :=
  .next (if s.ports[p].state ≠ .active then s
  else
    let f := s.fleet
    let st := match f.staged with
      | some c => natLe 8 c.epoch.toNat ++ natLe 32 c.digest.toNat
      | none => List.replicate 40 0
    let body := natLe 8 f.epoch.toNat ++ natLe 32 f.digest.toNat ++ st ++ natLe 1 f.role ++
      natLe 1 (b2n (s.crown.running && !s.hwd.freeze) + 2 * b2n s.capped) ++ natLe 2 (pointsWord s.pointOf) ++ List.replicate 4 0
    let c := s.message 0x01 (s.portId p) (bits s.ports[p].peer.toNat 11 0) body
    c.1.sendSide p c.2)

/-- What a heartbeat says of the configurations of the two ends: 0 match, 1 transition, 2 mismatch (R262). -/
def State.compareEpochs (s : State) (m : List Byte) : BitVec 2 :=
  let f := s.fleet
  let e := tfield m 16 8
  let d := BitVec.ofNat 256 (tfield m 24 32)
  let se := tfield m 56 8
  let sd := BitVec.ofNat 256 (tfield m 64 32)
  let mine := f.epoch.toNat
  if e = mine ∧ d = f.digest then 0
  else if e = mine + 1 ∧ (match f.staged with
    | some c => c.epoch.toNat == e && c.digest == d
    | none => false) = true then 1
  else if mine = e + 1 ∧ se = mine ∧ sd = f.digest then 1
  else 2

/-- A module that has voted yes takes a peer's new epoch as the commit (R305). -/
def State.seeCommit (s : State) (m : List Byte) : State :=
  match s.fleet.voted with
  | some (c, step) =>
    if s.fleet.commit.isNone ∧ tfield m 16 8 = c.epoch.toNat ∧ BitVec.ofNat 256 (tfield m 24 32) = c.digest then
      s.setFleet { s.fleet with commit := some (c, step) }
    else s
  | none => s

/-- HEARTBEAT (R262, R305, R306, R426): the port's configuration match is set; on entry to mismatch it is flagged, recorded and
reported. A heartbeat with capped clear ends its sender's matches. -/
def execHeartbeat (p : Fin 20) (s : State) : Answer :=
  .next (match s.nextMessage p 0x01 with
  | none => s
  | some (s, m) =>
    if mSrc m ≠ bits s.ports[p].peer.toNat 11 0 then s
    else
      let old := s.ports[p].cfg
      let new := s.compareEpochs m
      let s := (s.setPort p { s.ports[p] with cfg := new, heard := s.clk.us }).seeCommit m
      let s := if bit (tfield m 97 1) 1 then s
        else { s with budget := { s.budget with matches_ := s.budget.matches_.filter (fun k => k.sender != mSrc m) } }
      if new = 2 ∧ old ≠ 2 then
        ((s.flag (pReg p + 0x0C) 2).record 0x21 .warning true p (natLe 1 2 ++ natLe 2 (mSrc m))).report 7 p
      else s)

/-- HEARTBEAT_LOSS (R262, R298, R306): 3.5 ms without a heartbeat. -/
def execHeartbeatLoss (p : Fin 20) (s : State) : Answer :=
  let x := s.ports[p]
  .next (if x.state ≠ .active then s
  else
    let s := ((s.setPort p { x with cfg := 3 }).flag (pReg p + 0x0C) 3).report 7 p
    if p = 19 then s.askPromotion else s)

/-- CAP_NOTICE (R426): with matching enabled, the highest point of the notice is a match, which applies at this module's next
boundary; until then a match of the same sender that is in force stays. -/
def execCapNotice (p : Fin 20) (s : State) : Answer :=
  .next (match s.nextMessage p 0x02 with
  | none => s
  | some (s, m) =>
    if !bit (s.mreg pwrBudgetCfg) 8 then s
    else
      let w := tfield m 16 2
      let pts := (List.range 4).map (fun i => BitVec.ofNat 3 (w / 8 ^ i))
      let top := pts.foldl (fun a b => if a < b then b else a) 0
      let ms := tfield m 28 4
      let new : Match := { sender := mSrc m, point := top.toFin, until_ := if ms = 0 then none else some (s.clk.us + 1000 * ms), applied := false }
      { s with budget := { s.budget with matches_ := s.budget.matches_.filter (fun k => k.sender != mSrc m || k.applied) ++ [new] } })

/-! ## Leases (R294–R298, R503) -/

/-- A lease message that a host of this module is to handle as the witness goes to its ring (R503); otherwise `f` handles it. -/
def State.witnessed (s : State) (m : List Byte) (f : State → State) : State :=
  match s.hostWitness (mHolder m) (mStandby m) with
  | some fn => s.leaseEvent fn m
  | none => f s

/-- This module is named as the witness of a holder and standby. -/
def State.isWitness (s : State) (holder standby : Nat) : Bool :=
  match s.fleet.blocks with
  | none => false
  | some b => b.twins.any (fun t => t.active == holder && t.standby == standby && t.witness == s.myId)

/-- A witness grants a new lease to a holder (R294). -/
def State.grantLease (s : State) (holder standby : Nat) : State :=
  if s.isWitness holder standby then
    let id := s.fleet.nextLease
    let s := s.setFleet { s.fleet with
      nextLease := id + 1
      witnessed := s.fleet.witnessed.filter (fun w => !(w.holder == holder && w.standby == standby)) ++
        [{ id := id, holder := holder, standby := standby, missed := 0, expired := false, granted := false, remembered := false }] }
    s.sendTo 0x11 holder (leaseBody id holder standby 0 0)
  else s

/-- LEASE_REQUEST (R294, R503). -/
def execLeaseRequest (p : Fin 20) (s : State) : Answer :=
  .next (match s.nextMessage p 0x10 with
  | none => s
  | some (s, m) => s.witnessed m (fun s => if mSrc m = mHolder m then s.grantLease (mHolder m) (mStandby m) else s))

/-- LEASE_GRANT (R294). -/
def execLeaseGrant (p : Fin 20) (s : State) : Answer :=
  .next (match s.nextMessage p 0x11 with
  | none => s
  | some (s, m) => if mHolder m = s.myId then s.takeLease (mSrc m) (mLease m) (mStandby m) else s)

/-- LEASE_RENEW (R295, R298): a live lease is renewed and the renewal acknowledged; an expired one is not. -/
def execLeaseRenew (p : Fin 20) (s : State) : Answer :=
  .next (match s.nextMessage p 0x12 with
  | none => s
  | some (s, m) => s.witnessed m (fun s =>
      match s.fleet.witnessed.find? (fun w => w.id == mLease m && w.holder == mSrc m && !w.expired) with
      | none => s
      | some l =>
        (s.setFleet { s.fleet with witnessed := s.fleet.witnessed.map (fun (w : WitnessLease) => if w.id = l.id then { w with missed := 0 } else w) }).sendTo
          0x13 l.holder (leaseBody l.id l.holder l.standby (mCount m) 0)))

/-- LEASE_RENEW_ACK (R297). -/
def execLeaseRenewAck (p : Fin 20) (s : State) : Answer :=
  .next (match s.nextMessage p 0x13 with
  | none => s
  | some (s, m) => s.ackLease (mSrc m) (mLease m) (mCount m))

/-- LEASE_RELEASE (R296): the holder ends its lease. -/
def execLeaseRelease (p : Fin 20) (s : State) : Answer :=
  .next (match s.nextMessage p 0x14 with
  | none => s
  | some (s, m) => s.witnessed m (fun s => s.setFleet { s.fleet with
      witnessed := s.fleet.witnessed.filter (fun w => !(w.id == mLease m && w.holder == mSrc m)) }))

/-- A lease of the witness takes a mark. -/
def State.markLease (s : State) (l : WitnessLease) : State :=
  s.setFleet { s.fleet with witnessed := s.fleet.witnessed.map (fun w => if w.id = l.id then l else w) }

/-- PROMOTE_REQUEST (R298): denied and remembered while the lease lives, granted once it has expired, at most once for each lease. -/
def execPromoteRequest (p : Fin 20) (s : State) : Answer :=
  .next (match s.nextMessage p 0x15 with
  | none => s
  | some (s, m) => s.witnessed m (fun s =>
      match s.fleet.witnessed.find? (fun w => w.holder == mHolder m && w.standby == mSrc m) with
      | none => s
      | some l =>
        let body := leaseBody l.id l.holder l.standby 0 l.missed
        if !l.expired then (s.markLease { l with remembered := true }).sendTo 0x17 l.standby body
        else if l.granted then s
        else (s.markLease { l with granted := true }).sendTo 0x16 l.standby body))

/-- PROMOTE_GRANT (R299). -/
def execPromoteGrant (p : Fin 20) (s : State) : Answer :=
  .next (match s.nextMessage p 0x16 with
  | none => s
  | some (s, m) => if mStandby m = s.myId then s.promote (mSrc m) (mLease m) (mHolder m) else s)

/-- PROMOTE_DENY (R298): the standby goes on asking. -/
def execPromoteDeny (p : Fin 20) (s : State) : Answer :=
  .next (match s.nextMessage p 0x17 with
  | none => s
  | some (s, _) => s)

/-- LEASE_RENEW_TIMER (R295): every 10 ms holder i renews. A fenced holder does not renew, so that its lease can expire (log 80). -/
def execLeaseRenewTimer (i : Nat) (s : State) : Answer :=
  .next (match s.fleet.holders[i]? with
  | none => s
  | some h =>
    if h.id = 0 ∨ s.fleet.fenced then s
    else
      let n := h.count + 1
      let s := s.setFleet { s.fleet with holders := s.fleet.holders.set i { h with count := n, sent := h.sent ++ [(n, s.clk.us)] } }
      s.sendLease 0x12 h.witness (leaseBody h.id s.myId h.standby n 0))

/-- LEASE_MISS (R295, R298): a whole 10 ms without a renewal. At the third the lease expires, and a remembered request is granted. -/
def execLeaseMiss (i : Nat) (s : State) : Answer :=
  .next (match s.fleet.witnessed[i]? with
  | none => s
  | some l =>
    if l.expired then s
    else if l.missed < 2 then s.markLease { l with missed := l.missed + 1 }
    else
      let grant := l.remembered && !l.granted
      let s := s.markLease { l with missed := l.missed + 1, expired := true, granted := l.granted || grant }
      if grant then s.sendTo 0x16 l.standby (leaseBody l.id l.holder l.standby 0 3) else s)

/-- HOLDER_SELF_FENCE (R297): 25 ms after the last acknowledged renewal was sent. -/
def execHolderSelfFence (i : Nat) (s : State) : Answer :=
  .next (match s.fleet.holders[i]? with
  | none => s
  | some h => if h.id = 0 ∨ s.fleet.fenced ∨ s.clk.us < h.ackedAt + 25000 then s else s.fence h)

/-- PROMOTE_REQUEST_RESEND (R298): a standby asks again. -/
def execPromoteRequestResend (i : Nat) (s : State) : Answer :=
  .next (match s.fleet.standbys[i]? with
  | none => s
  | some t => if t.asking ∧ !t.promoted then s.sendLease 0x15 t.witness (leaseBody 0 t.active s.myId 0 0) else s)

/-! ## Tombstones (R257, R264, R298) -/

/-- TOMBSTONE (R240, R257, R258, R264, R298). -/
def execTombstone (p : Fin 20) (s : State) : Answer :=
  .next (match s.nextMessage p 0x20 with
  | none => s
  | some (s, m) =>
    if mSrc m ≠ bits s.ports[p].peer.toNat 11 0 then s
    else match s.ports[p].state with
      | .active => s.portDown p 0xB
      | .flush => s.sendTombstone p
      | _ => s)

/-! ## Epoch messages (R303–R305, R308) -/

/-- EPOCH_PROPOSE (R303, R304). -/
def execEpochPropose (p : Fin 20) (s : State) : Answer :=
  .next (match s.nextMessage p 0x30 with
  | none => s
  | some (s, m) => s.takeProposal (mSrc m) (mEpoch m) (mDigest m) (mStep m))

/-- EPOCH_VOTE (R303, R304). -/
def execEpochVote (p : Fin 20) (s : State) : Answer :=
  .next (match s.nextMessage p 0x31 with
  | none => s
  | some (s, m) => s.takeVote (mSrc m) (mEpoch m) (mDigest m))

/-- EPOCH_COMMIT (R303–R305). -/
def execEpochCommit (p : Fin 20) (s : State) : Answer :=
  .next (match s.nextMessage p 0x32 with
  | none => s
  | some (s, m) =>
    match s.configFor (mEpoch m) (mDigest m), s.fleet.blocks with
    | some c, some b0 => if (s.treePlace c.blocks b0.coordinator (mSrc m)).isSome then s.takeCommit c (mStep m) b0.coordinator else s
    | _, _ => s)

/-- EPOCH_VOTE_TIMEOUT (R303, R304, R308): the window of a role ends without every vote. The coordinator's proposal fails; a leader whose own group
has not voted whole in its 20 ms does not vote, or where it asked the other pod too votes no; one that still waits for the other pod at its 30 ms
votes no. -/
def execEpochVoteTimeout (role : VoteRole) (s : State) : Answer :=
  .next (match role with
  | .coordinator => (match s.poll .coordinator with
    | some k => s.failProposal k (k.missing.headD 0)
    | none => s)
  | .leader => (match s.poll .leader, s.poll .mirrorLeader with
    | some _, _ => s.dropPoll .leader
    | none, some k => if k.missing.any (fun i => podOf i == podOf s.myId) then s.endPoll k false else s
    | none, none => s)
  | .mirrorLeader => (match s.poll .mirrorLeader with
    | some k => s.endPoll k false
    | none => s))

/-! ## Cables and cages (R268, R317) -/

/-- A cable warning during `test link` fails the test (R558). -/
def State.noteWarning (s : State) (p : Fin 20) : State :=
  match s.svc.test with
  | some (.link k a b c d _) => if k = p then { s with svc := { s.svc with test := some (.link k a b c d true) } } else s
  | _ => s

/-- CABLE_MONITOR_READ (R256, R266, R268). -/
def execCableMonitorRead (p : Fin 20) (ans : Option CableReading) (s : State) : Answer :=
  let x := s.ports[p]
  .next (if x.state = .disabled ∨ x.state = .down then s
  else match (if x.power then ans else none) with
    | none =>
      let s := (s.setPort p { x with unanswered := x.unanswered + 1, cable := x.cable &&& ~~~1 }).emit (.twoWire p .lower false)
      if 2 ≤ x.unanswered then s.portLost p 1 else s
    | some r =>
      let alarm := r.warn || r.alarm
      let s := s.setPort p { x with
        unanswered := 0
        cable := BitVec.ofNat 32 (r.temp.toNat * 2 ^ 16 + 4 * b2n alarm + (x.cable &&& 2).toNat + 1) }
      let s := (s.emit (.twoWire p .lower false)).emit (.twoWire p .p11 false)
      let s := if alarm then (s.record 0x22 .warning true p [r.flags]).noteWarning p else s
      let s := if r.alarm then s.flag (pReg p + 0x0C) 6 else s
      if r.loss &&& x.lanes ≠ 0 then s.retrain p else s)

/-- CAGE_PRESENCE_CHANGE (R317): a cage is powered only while its presence signal reads low, and not before the second after a trip has passed. -/
def execCagePresenceChange (p : Fin 20) (low : Bool) (s : State) : Answer :=
  let x := s.ports[p]
  .next (s.setPort p { x with present := low, power := low && !x.limited })

/-- CAGE_CURRENT_LIMIT (R317). -/
def execCageCurrentLimit (p : Fin 20) (s : State) : Answer :=
  let x := s.ports[p]
  .next (if x.power then s.setPort p { x with power := false, limited := true } else s)

/-- CAGE_POWER_RETRY (R317): 1 s after the trip, whatever is in the cage by then. -/
def execCagePowerRetry (p : Fin 20) (s : State) : Answer :=
  let x := s.ports[p]
  .next (if x.limited then s.setPort p { x with power := x.present, limited := false } else s)

end Sys2Proof.Machine
end

