-- ==== Sys2Proof/Machine/Collect.lean ====
section
/-! DEFINITION. COLLECTIVE descriptors and their instances, COLL transactions, and step-boundary MARKs (R118, R271–R283, R289–R292,
R424, R426). -/

namespace Sys2Proof.Machine

open Sys2Proof

/-! ## COLLECTIVE descriptors (R272, R274, R277, R280) -/

/-- Fields of a COLLECTIVE (Table: COLLECTIVE descriptor). `set` is the set it names, which bounds the root and gives the staging
area. -/
def collChecks (d : BitVec 512) (set : Option SetDef) : List (Nat × Bool) :=
  let op := dfield d 8 1
  let fmt := dfield d 9 1
  let chunk := dfield d 32 4
  let many := decide (1 < dfield d 44 4)
  let staged := match set with
    | some x => decide (8 * elements (BitVec.ofNat 8 fmt) chunk ≤ x.stagingSize)
    | none => true
  [noPref d,
   (9, if op ≤ 2 then fmt == 0 || fmt == 1 || fmt == 5 else fmt == 0xFF),
   (10, dfield d 10 1 % 4 != 3),
   (11, decide (dfield d 11 1 % 4 ≤ 1)),
   (12, decide (dfield d 12 2 ≤ 63)),
   (14, if op = 5 then (match set with
      | some x => decide (dfield d 14 2 < x.members.length)
      | none => true) else dfield d 14 2 == 0),
   (16, dfield d 16 8 % 2 ^ 41 % 64 == 0),
   (24, dfield d 24 8 % 2 ^ 41 % 64 == 0),
   (32, decide (64 ≤ chunk ∧ chunk ≤ 268435456) && chunk % (if fmt = 5 then 1088 else 64) == 0 && (decide (2 < op) || fmt == 0 || staged)),
   (44, decide (1 ≤ dfield d 44 4 ∧ dfield d 44 4 ≤ 16777216)),
   (48, if many then dfield d 48 8 % 2 ^ 41 % 8 == 0 else dfield d 48 8 == 0),
   (56, if many then (tileOfIdent (dfield d 56 4 / 2 ^ 20)).isSome && dfield d 56 4 % 8 == 0 else dfield d 56 4 == 0)]

/-- The collective of a descriptor that has passed its checks. -/
def newColl (q : Fin 64) (d : BitVec 512) (x : SetDef) (me : Nat) : Collective :=
  { q := q, op := dfield d 8 1, fmt := BitVec.ofNat 8 (dfield d 9 1), view := BitVec.ofNat 2 (dfield d 10 1)
    toZero := dfield d 11 1 % 4 == 1, set := x.num, members := x.members, me := me, root := dfield d 14 2
    src := dfield d 16 8 % 2 ^ 41, dst := dfield d 24 8 % 2 ^ 41, chunk := dfield d 32 4, seq := BitVec.ofNat 32 (dfield d 36 4)
    timeoutUs := dfield d 40 4, instances := dfield d 44 4, trigger := dfield d 48 8 % 2 ^ 41, doneAddr := dfield d 56 4
    staging := x.staging, stagingSize := x.stagingSize, inst := 0, running := false, doneCount := 0, ready := [], heard := [], got := [], sent := []
    relay := [], folded := false, open_ := 0 }

/-- Every buffer of a collective is mapped (R103): the source where the member reads one (R275), both halves of the destination, the staging area and the trigger. -/
def Collective.mapped (c : Collective) : Bool :=
  let halves := if c.instances = 1 then 1 else 2
  (c.srcSize == 0 || Machine.mapped c.view c.src c.srcSize) && Machine.mapped c.view c.dst (halves * c.dstSize) &&
    (c.instances == 1 || Machine.mapped c.view c.trigger 8) &&
    (c.fmt == 0 || decide (2 < c.op) || Machine.mapped c.view c.staging (halves * 4 * elements c.fmt c.chunk))

/-- Whether every port on a route to another member has a matching or changing configuration (R277 step 5); a member to which no route leads has no
port to fail this. -/
def State.routesMatch (s : State) (members : List Nat) : Bool :=
  (members.filter (fun i => i != s.myId)).all (fun i => match s.egress i with
    | some p => decide (s.ports[p].cfg = 0 ∨ s.ports[p].cfg = 1)
    | none => true)

/-- The first member, with its port, on whose route the configuration does not match. -/
def State.badRoute (s : State) (members : List Nat) : Nat :=
  match (List.zip (List.range members.length) members).find? (fun e => e.2 != s.myId && !s.routesMatch [e.2]) with
  | some (m, i) => failDetail m 0 ((s.egress i).getD 0)
  | none => 0

/-- A COLLECTIVE that does not start completes with its status (R277, R282). -/
def State.endEarly (s : State) (q : Fin 64) (code detail : Nat) : State :=
  s.complete q { plain code with detail0 := BitVec.ofNat 64 detail }

/-- READYs that came before the descriptor started (R280). -/
def State.earlyReady (s : State) (set : Nat) (seq : BitVec 32) : Keyed Nat :=
  (s.fleet.early.filter (fun e => e.1 / 1024 == set && e.2.1 == seq)).map (fun e => (e.1 % 1024, e.2.2))

/-- The set's counter takes the seq of a descriptor that starts, whatever the outcome (R272); READYs kept for it are spent. -/
def State.takeSeq (s : State) (set : Nat) (seq : BitVec 32) : State :=
  s.setFleet { s.fleet with seqs := insert s.fleet.seqs set seq, early := s.fleet.early.filter (fun e => e.1 / 1024 != set) }

/-- Memory serves the engines for the next instance, in its source, its destination and its sums (R109, R127, R278; log 184). -/
def State.buffersOpen (s : State) (c : Collective) : Bool := s.farTurns engineNode ({ c with inst := c.inst + 1 } : Collective).touched

/-- A COLLECTIVE whose checks have passed starts (R272, R276, R280): the counter takes its seq, READY goes to every member, and the
single instance of a descriptor starts at once. -/
def State.beginColl (s : State) (q : Fin 64) (c : Collective) (errs : DramErrs) : State :=
  let ready := s.earlyReady c.set c.seq
  let s := (s.startFront q).takeSeq c.set c.seq
  let s := s.setFleet { s.fleet with collectives := s.fleet.collectives ++ [{ c with ready := ready }] }
  let s := s.sendReady q 1
  if c.instances = 1 then s.startInstance q errs else s

/-- A COLLECTIVE descriptor of an op is checked in the order of R277 and starts. An address that is not mapped ends with ADDRESS_ERROR
after the checks (log 86). One whose single instance memory cannot serve waits (log 184). -/
def State.collective (s : State) (q : Fin 64) (op : Nat) (errs : DramErrs) : State :=
  match (s.front q 7).filter (fun d => dfield d.desc 8 1 == op) with
  | none => s
  | some d =>
    let set := s.setOf (dfield d.desc 12 2)
    let seq := BitVec.ofNat 32 (dfield d.desc 36 4)
    match firstInvalid (collChecks d.desc set) with
    | some off => s.complete q (invalidAt off)
    | none =>
      match set with
      | none => s.drawn.endEarly q 0x106 (s.fresh.toNat % 2 ^ 29)
      | some x =>
        match x.members.findIdx? (fun i => i == s.myId) with
        | none => s.drawn.endEarly q 0x106 (s.fresh.toNat % 2 ^ 29)
        | some me =>
          let c := newColl q d.desc x me
          if seq ≠ find 0 s.fleet.seqs x.num + 1 then s.drawn.endEarly q 0x105 (s.fresh.toNat % 2 ^ 29)
          else if s.fleet.fenced then (s.takeSeq x.num seq).drawn.endEarly q 0x108 (s.fresh.toNat % 2 ^ 29)
          else if !s.routesMatch x.members then (s.takeSeq x.num seq).endEarly q 0x107 (s.badRoute x.members)
          else if !c.mapped then (s.takeSeq x.num seq).complete q (plain 9)
          else if c.instances = 1 ∧ !s.buffersOpen c then s
          else s.beginColl q c errs

/-- ALL_REDUCE (R19, R272, R274–R277, R280). -/
def execAllReduce (q : Fin 64) (errs : DramErrs) (s : State) : Answer := .next (s.collective q 1 errs)

/-- REDUCE_SCATTER (R272, R274, R275, R277). -/
def execReduceScatter (q : Fin 64) (errs : DramErrs) (s : State) : Answer := .next (s.collective q 2 errs)

/-- ALL_GATHER (R272, R274, R275, R277). -/
def execAllGather (q : Fin 64) (errs : DramErrs) (s : State) : Answer := .next (s.collective q 3 errs)

/-- ALL_TO_ALL (R272, R274, R275, R277). -/
def execAllToAll (q : Fin 64) (errs : DramErrs) (s : State) : Answer := .next (s.collective q 4 errs)

/-- BROADCAST (R272, R274, R275, R277). -/
def execBroadcast (q : Fin 64) (errs : DramErrs) (s : State) : Answer := .next (s.collective q 5 errs)

/-! ## Instances (R273, R276, R282, R283) -/

/-- The errors after those of an access's own n transactions, numbered from 0. -/
def laterErrs (n : Nat) (errs : DramErrs) : DramErrs := (errs.filter (fun e => decide (n ≤ e.1))).map (fun e => (e.1 - n, e.2))

/-- COLLECTIVE_INSTANCE_START (R117, R118, R276, R278, R280): the engine reads the trigger word, which has number 0 among its transactions and the
instance's buffers the numbers from 1; once the word, as unsigned, has reached the next instance, that starts. What an instance that runs could not send yet goes on
(log 184). -/
def execCollectiveInstanceStart (q : Fin 64) (errs : DramErrs) (s : State) : Answer :=
  .next (match s.coll q with
  | none => s
  | some c =>
    if c.running then s.advanceColl q (laterErrs 1 errs)
    else if c.instances ≤ c.inst ∨ !(s.farOpen engineNode c.view c.trigger 8 && s.buffersOpen c) then s
    else
      let k := (s.visit c.view c.trigger 8).devCheck c.view c.trigger 8 (errs.filter (fun e => e.1 == 0))
      if k.2 then k.1.failHere q 0x104
      else if leNat (k.1.devRead c.view c.trigger 8) < c.inst + 1 then k.1
      else k.1.startInstance q (laterErrs 1 errs))

/-- At a boundary every match that waits applies, in place of one of the same sender (R426). -/
def applyMatches (l : List Match) : List Match :=
  (l.filter (fun m => !m.applied || !l.any (fun k => !k.applied && k.sender == m.sender))).map (fun m => { m with applied := true })

/-- A collective boundary (R273, R424, R426): counted, deferred caps apply, and matches that wait apply. -/
def State.boundary (s : State) : State :=
  let s := s.setFleet { s.fleet with boundaries := s.fleet.boundaries + 1 }
  let s := { s with budget := { s.budget with matches_ := applyMatches s.budget.matches_ } }
  s.applyDeferred.evaluate

/-- The tile of the done word takes it: no access to the word that came there before waits (R148); a single instance has no done word. -/
def State.doneOpen (s : State) (c : Collective) : Bool :=
  c.instances == 1 || (match tileOfIdent (c.doneAddr / 2 ^ 20) with
    | some t => !s.padAwaited t (c.doneAddr % 2 ^ 20) 8
    | none => true)

/-- COLLECTIVE_INSTANCE_DONE (R148, R273, R276, R280, R281): every contribution has been performed, so that of every member is known; the done word
takes the instance's number, and the boundary counts. -/
def execCollectiveInstanceDone (q : Fin 64) (s : State) : Answer :=
  .next (match s.coll q with
  | none => s
  | some c =>
    if !c.complete ∨ !s.doneOpen c then s
    else
      let s := s.setColl { c with
        running := false, doneCount := c.inst
        heard := c.others.foldl (fun (h : Keyed Nat) m => insert h m c.inst) c.heard }
      let s := if c.instances = 1 then s
        else match tileOfIdent (c.doneAddr / 2 ^ 20) with
          | some t => (s.padWrite t (c.doneAddr % 2 ^ 20) (natLe 8 c.inst)).settle t
          | none => s
      s.boundary.endColl q)

/-- COLLECTIVE_INSTANCE_TIMEOUT (R282, R283): an instance exceeds timeout_us. -/
def execCollectiveInstanceTimeout (q : Fin 64) (s : State) : Answer :=
  .next (match s.coll q with
  | none => s
  | some c => if c.running ∧ c.timeoutUs ≠ 0 then s.failHere q 0x103 else s)

/-! ## COLL transactions (R279–R283, R290, R291) -/

/-- The running collective of a tag's set and seq. -/
def State.collOf (s : State) (b : List Byte) : Option Collective :=
  s.fleet.collectives.find? (fun c => c.set == tTag b / 1024 && decide (c.seq.toNat % 512 = tTag b / 2 % 512))

/-- A COLL request of a code, taken from a port. -/
def State.nextColl (s : State) (p : Fin 20) (op : Nat) : Option (State × List Byte) :=
  match s.nextRequest p (fun b => isType 5 b && tOp b == op) with
  | none => none
  | some (t, rest) => some (s.takeRequest p t rest, t.bytes)

/-- COLL_READY (R117, R118, R279, R280): kept for the running collective, which then sends what it may, or as the member's latest for the next;
otherwise INVALID. -/
def execCollReady (p : Fin 20) (errs : DramErrs) (s : State) : Answer :=
  .next (match s.nextColl p 1 with
  | none => s
  | some (s, b) =>
    let seq := BitVec.ofNat 32 (tfield b 16 4)
    let inst := tfield b 20 4
    let set := tTag b / 1024
    match s.senderIn b with
    | none => s.answer p b 6 []
    | some m =>
      match s.fleet.collectives.find? (fun c => c.set == set && c.seq == seq) with
      | some c => ((s.setColl { c with ready := insert c.ready m inst }).answer p b 0 []).advanceColl c.q errs
      | none =>
        if seq = find 0 s.fleet.seqs set + 1 then
          (s.setFleet { s.fleet with early := insert s.fleet.early (set * 1024 + m) (seq, inst) }).answer p b 0 []
        else s.answer p b 6 [])

/-- Bytes of a transfer have come; where all that a member sends here have, the member is known to have reached the instance (R280). -/
def State.received (s : State) (c : Collective) (m : Nat) (x : Xfer) (n : Nat) : State :=
  let c := c.note x n
  s.setColl (if (c.wants m).all c.whole then { c with heard := insert c.heard m c.inst } else c)

/-- Bytes that a module put go to the destination, or to what this one holds to pass on (R278; log 189); true where a word of memory that they
cover in part is uncorrectable. -/
def State.putBytes (s : State) (c : Collective) (x : Xfer) (off : Nat) (bytes : List Byte) (errs : DramErrs) : State × Bool :=
  if c.op = 4 ∧ x.chunk ≠ c.me then
    let k := x.relayKey
    (s.setColl { c with relay := insert c.relay k (overlay (find [] c.relay k) (off - c.base x) bytes) }, false)
  else s.storeChecked c.view (c.dstAt c.inst + off) bytes errs

/-- Memory serves the bytes that a COLL transaction adds or puts, through the port on which it came (R127, R136; log 184). -/
def State.collOpen (s : State) (p : Fin 20) (c : Collective) (a len : Nat) : Bool := s.farOpen (portNode p) c.view a len

/-- COLL_PUT (R117, R118, R278–R280): bytes at an offset of the destination, or to be passed on. -/
def execCollPut (p : Fin 20) (errs : DramErrs) (s : State) : Answer :=
  .next (match s.nextColl p 2 with
  | none => s
  | some (s', b) =>
    match s'.collOf b, s'.senderIn b with
    | some c, some m =>
      match c.arriving m false (tAddr b) (tLen b) with
      | none => s'.answer p b 6 []
      | some x =>
        let own : Bool := decide (c.op ≠ 4 ∨ x.chunk = c.me)
        let a := c.dstAt c.inst + tAddr b % c.dstSize
        if own && !s'.collOpen p c a (tLen b) then s
        else
          let w := (if own then s'.visit c.view a (tLen b) else s').putBytes c x (tAddr b) (tData b) errs
          if w.2 then w.1.answer p b 2 []
          else match w.1.coll c.q with
            | none => w.1.answer p b 2 []
            | some c => ((w.1.received c m x (tLen b)).answer p b 0 []).advanceColl c.q
                (laterErrs (if own then (partly c.view a (tLen b)).length else 0) errs)
    | _, _ => s'.answer p b 6 [])

/-- A run of whole elements of a format (R279). -/
def Collective.wholeElements (c : Collective) (off len : Nat) : Bool := off % unitOf c.fmt == 0 && len % unitOf c.fmt == 0

/-- COLL_REDUCE (R278, R279, R281, R522): elements join the FP32 sums of this module's own chunk, or of one that it passes on; uncorrectable data of
the engine's buffer end the collective. -/
def execCollReduce (p : Fin 20) (sram : SramErr) (errs : DramErrs) (s : State) : Answer :=
  .next (match s.nextColl p 3 with
  | none => s
  | some (s', b) =>
    match s'.collOf b, s'.senderIn b with
    | some c, some m =>
      let at_ := (c.arriving m true (tAddr b) (tLen b)).filter (fun x => c.wholeElements (tAddr b - c.base x) (tLen b))
      let own := match at_ with
        | some x => x.chunk == c.me
        | none => false
      let a := c.sumsAt c.inst + 4 * elements c.fmt (tAddr b)
      let len := 4 * elements c.fmt (tLen b)
      let n := if own then (transactions c.view a len).length else 0
      if own && !s'.collOpen p c a len then s
      else
        let s := s'.sramError 4 (p.val / 5) sram
        if fatalSram sram then (s.answer p b 6 []).failHere c.q 0x104
        else match at_ with
          | none => s.answer p b 6 []
          | some x =>
            let s := if own then
                (s.visit c.view a len).addSums c (tAddr b) false (tData b) errs
              else s.setColl (c.addRelay x.chunk (tAddr b - c.base x) (tData b))
            match s.coll c.q with
            | none => s.answer p b 2 []
            | some c => ((s.received c m x (tLen b)).answer p b 0 []).advanceColl c.q (laterErrs n errs)
    | _, _ => s'.answer p b 6 [])

/-- A WRITE of a copy that was not performed, and has not been written since, lies in a bank (R291; log 188). -/
def State.bankBroken (s : State) (bank : Nat) : Bool :=
  match s.fleet.blocks with
  | none => false
  | some b => s.fleet.copyBad.any (fun a => b.ranges.any (fun r =>
      let base := if bank = 0 then r.bank0 else r.bank1
      decide (base < a + 4096 ∧ a < base + r.len)))

/-- COLL_COMMIT (R255, R290, R291): the committed copy is recorded and reported with its step and bank; it is refused where it names neither
bank (R19), from a module that is not named, and where a WRITE of its bank was not performed (log 188). -/
def execCollCommit (p : Fin 20) (s : State) : Answer :=
  .next (match s.nextColl p 4 with
  | none => s
  | some (s, b) =>
    if 1 < tfield b 24 1 then s.answer p b 6 []
    else if !s.namedCopy (tSrc b) then s.answer p b 5 []
    else if s.bankBroken (tfield b 24 1) then s.answer p b 2 []
    else
      let copy := some (BitVec.ofNat 64 (tfield b 16 8), BitVec.ofNat 8 (tfield b 24 1))
      ((s.setFleet { s.fleet with copy := copy }).reportWith 5 (tfield b 16 8) (copyDetail copy)).answer p b 0 [])

/-- COLL_ABORT (R282, R283): the instance ends with COLL_PEER_ABORT. -/
def execCollAbort (p : Fin 20) (s : State) : Answer :=
  .next (match s.nextColl p 5 with
  | none => s
  | some (s, b) =>
    let s := s.answer p b 0 []
    match s.collOf b, s.senderIn b with
    | some c, some m => s.failColl c.q 0x10A (failDetail m 0 p)
    | _, _ => s)

/-! ## Step boundaries (R217, R272, R287, R289–R292, R294, R301, R305) -/

/-- The module that the copy of a step goes to, with the ranges, where the COPY block calls for one (R290): the twin standby of an
active, or the mirror partner of a mirrored pair's module, whatever its role. -/
def State.copyTo (s : State) (step : BitVec 64) : Option (Nat × List CopyRange) :=
  match s.fleet.blocks with
  | none => none
  | some b =>
    if b.copyMode = 1 then (b.twins.find? (fun t => t.active == s.myId)).map (fun t => (t.standby, b.ranges))
    else if b.copyMode = 2 ∧ b.kind = 4 ∧ step.toNat % b.interval = 0 then some ((s.myId + 1024) % 2048, b.ranges)
    else none

/-- One request of a copy on port 19; false where it cannot leave. -/
def State.copyRequest (s : State) (q : Fin 64) (ttype flags dest op addr : Nat) (data : List Byte) (commit : Bool) : State × Bool :=
  let tag := s.fleet.nextTag
  let s' := s.setFleet { s.fleet with
    nextTag := tag + 1
    twin := s.fleet.twin.map (fun (t : TwinCopy) => { t with open_ := t.open_ + 1, committed := t.committed || commit }) }
  match s'.sendRequest 19 ttype flags dest op tag.toNat addr data (.twin q commit) with
  | some s' => (s', true)
  | none => (s, false)

/-- The blocks of 4096 bytes of a copy, in order: where each is read, and where it goes in a bank (R290). -/
def copyBlocks (ranges : List CopyRange) (bank : Nat) : List (Nat × Nat) :=
  ranges.flatMap (fun r => (List.range (r.len / 4096)).map (fun k => (r.src + 4096 * k, (if bank = 0 then r.bank0 else r.bank1) + 4096 * k)))

/-- The WRITE of a block of a copy; false where it cannot leave or where its data are uncorrectable (R118, R292). -/
def State.copyBlock (s : State) (q : Fin 64) (dest : Nat) (b : Nat × Nat) : State × Bool :=
  let c := s.devCheck 0 b.1 4096 []
  if c.2 then (c.1, false) else c.1.copyRequest q 0x02 0 dest 0 b.2 (c.1.devRead 0 b.1 4096) false

/-- The whole copy: the writes of every block, then an ordered COMMIT (R290). A fenced module sends neither (R297). Errors that it meets are numbered
over the transactions that it reads. -/
def State.runCopy (s : State) (q : Fin 64) (dest : Nat) (ranges : List CopyRange) (step : BitVec 64) (errs : DramErrs) : State × Bool :=
  let bank := step.toNat % 2
  if s.fleet.fenced then (s, false)
  else
    let blocks := copyBlocks ranges bank
    let s := s.meetErrs (blocks.flatMap (fun b => transactions 0 b.1 4096)) errs
    let o := blocks.foldl (fun (o : State × Bool) b => if o.2 then o.1.copyBlock q dest b else o) (s, true)
    if o.2 then o.1.copyRequest q 0x05 1 dest 4 0 (natLe 8 step.toNat ++ natLe 1 bank ++ List.replicate 7 0) true
    else o

/-- Memory serves the reads of a copy (R127; log 184). -/
def State.copyOpen (s : State) (ranges : List CopyRange) : Bool := ranges.all (fun r => s.farOpen (portNode 19) 0 r.src r.len)

/-- MARK_STEP_BOUNDARY (R217, R272, R287, R289–R292, R294, R301, R305): the copy runs where one is due, then a committed epoch
activates, and the MARK completes. -/
def execMarkStepBoundary (q : Fin 64) (errs : DramErrs) (s : State) : Answer :=
  .next (match s.frontMark q 3 with
  | none => s
  | some d =>
    let step := BitVec.ofNat 64 (dfield d.desc 16 8)
    match firstInvalid [noPref d.desc] with
    | some off => s.complete q (invalidAt off)
    | none =>
      match s.copyTo step with
      | none => s.endStep q step 0
      | some (dest, ranges) =>
        if s.fleet.twin.isSome ∨ (!s.fleet.fenced && !s.copyOpen ranges) = true then s
        else
          let s := ranges.foldl (fun s r => s.visit 0 r.src r.len) s
          let s := (s.startFront q).setFleet { s.fleet with twin := some { q := q, step := step, dest := dest, committed := false, stopping := false, open_ := 0 } }
          let r := s.runCopy q dest ranges step errs
          if r.2 then r.1 else r.1.endTwin false)

end Sys2Proof.Machine
end

