-- ==== Sys2Proof/Machine/Matrix.lean ====
section
/-! DEFINITION. The matrix unit's arithmetic: exact accumulation and readout (R84–R89). -/

namespace Sys2Proof.Machine

open Sys2Proof

/-- A value of an accumulator's significand brought below 2^126 by shifts of 8 bits: significand, shifts, and whether a shift
discarded a non-zero bit (R86, step 4). -/
def shiftDown (v : Int) (k : Nat) (lost : Bool) : Nat → Int × Nat × Bool
  | 0 => (v, k, lost)
  | n + 1 =>
    if v.natAbs < 2 ^ 126 then (v, k, lost)
    else shiftDown (v.fdiv 256) (k + 1) (lost || v.fmod 256 != 0) n

/-- Adds a finite contribution P × 2^q to an element (R86). -/
def AccElem.add (x : AccElem) (p q : Int) : AccElem :=
  if x.nan then x
  else
    let a : Int := if x.empty then q - 40 else x.a.toInt
    let v : Int := x.v.toInt
    let (sum, lost) :=
      if a ≤ q then (v + p * 2 ^ (q - a).toNat, false)
      else
        let d : Int := 2 ^ (a - q).toNat
        (v + p.tdiv d, decide (p.tmod d ≠ 0))
    let (v', k, lost') := shiftDown sum 0 lost 400
    { x with v := BitVec.ofInt 128 v', a := BitVec.ofInt 12 (a + 8 * k), sticky := x.sticky || lost', empty := false }

/-- An infinite product sets the infinity of its sign; both infinities make the element NaN (R88). -/
def AccElem.addInf (x : AccElem) (neg : Bool) : AccElem × FFlags :=
  if x.nan then (x, FFlags.clear)
  else
    let x := if neg then { x with negInf := true, empty := false } else { x with posInf := true, empty := false }
    if x.posInf && x.negInf then ({ x with nan := true }, { invalid := true }) else (x, FFlags.clear)

/-- A NaN contribution sets NaN and raises invalid (R88). -/
def AccElem.addNan (x : AccElem) : AccElem × FFlags :=
  if x.nan then (x, FFlags.clear) else ({ x with nan := true, empty := false }, { invalid := true })

/-- The contribution of a Grain block pair (R85, R88). -/
def grainPair (fa fb : GrainFmt) (x : AccElem) (a b : GrainBlock) : AccElem × FFlags :=
  if a.e = 0xFF ∨ b.e = 0xFF then x.addNan
  else
    let p : Int := (List.range 32).foldl (fun acc i =>
      let ma := if a.e = 0 then 0 else a.m.getD i 0
      let mb := if b.e = 0 then 0 else b.m.getD i 0
      let ua := if a.e = 0 then 0 else a.u.getD (i / 8) 0
      let ub := if b.e = 0 then 0 else b.u.getD (i / 8) 0
      acc + ma * mb * (2 ^ (6 - ua - ub) : Nat)) 0
    let q : Int := (a.e : Int) + b.e - 254 - ((grainW fa - 2 : Nat) : Int) - ((grainW fb - 2 : Nat) : Int) - 6
    (x.add p q, FFlags.clear)

/-- The contribution of one product of two 16-bit values (R85, R88). -/
def productPair (x : AccElem) (a b : FVal) : AccElem × FFlags :=
  match a, b with
  | .num na ma ea, .num nb mb eb => (x.add (sgn (na != nb) (ma * mb)) (ea + eb), FFlags.clear)
  | .inf na, .inf nb => x.addInf (na != nb)
  | .inf na, .num nb m _ => if m = 0 then x.addNan else x.addInf (na != nb)
  | .num na m _, .inf nb => if m = 0 then x.addNan else x.addInf (na != nb)
  | _, _ => x.addNan

/-- Contributions of one chunk to the element of row r and column c (Table: Matrix operand layout). -/
def chunkInto (kind : MmaKind) (a b : List Byte) (r c : Nat) (x : AccElem) : AccElem × FFlags :=
  match kind with
  | .grain fa fb =>
    grainPair fa fb x (readBlock fa a r) (readBlock fb (b.drop (c / 32 * lineSize fb)) (c % 32))
  | _ =>
    let f := floatFmt (if kind = .bf16 then .bf16 else .fp16)
    let elem := fun (l : List Byte) (row i : Nat) => f.decode (leNat ((l.drop (64 * row + 2 * i)).take 2))
    (List.range 32).foldl (fun acc i =>
      let (y, fl) := productPair acc.1 (elem a r i) (elem b c i)
      (y, acc.2.or fl)) (x, FFlags.clear)

/-- All chunks of an instruction into one element, in ascending order (R86, step 5). -/
def chunksInto (kind : MmaKind) (chunks : List (List Byte × List Byte)) (r c : Nat) (x : AccElem) : AccElem × FFlags :=
  chunks.foldl (fun acc ch =>
    let (y, f) := chunkInto kind ch.1 ch.2 r c acc.1
    (y, acc.2.or f)) (x, FFlags.clear)

/-- Element (r, c) of an accumulator set. -/
def accGet (set : Keyed AccElem) (r c : Nat) : AccElem := find AccElem.cleared set (64 * r + c)

/-- A multiply-accumulate over a whole set: 32 rows by 64 columns. -/
def accumulate (kind : MmaKind) (chunks : List (List Byte × List Byte)) (set : Keyed AccElem) : Keyed AccElem × FFlags :=
  (List.range 2048).foldl (fun acc i =>
    let (y, f) := chunksInto kind chunks (i / 64) (i % 64) (accGet set (i / 64) (i % 64))
    (store AccElem.cleared acc.1 i y, acc.2.or f)) (set, FFlags.clear)

/-- The value an element reads out as (R89). -/
def AccElem.value (x : AccElem) : FVal :=
  if x.nan then .nan false
  else if x.posInf then .inf false
  else if x.negInf then .inf true
  else if x.empty then .num false 0 0
  else .num (decide (x.v.toInt < 0)) x.v.toInt.natAbs x.a.toInt

/-- Readout of one element to an IEEE format: infinities saturate under the saturation bit (R89). -/
def readElem (f : FloatFmt) (rd : Rounding) (i : Nat) (x : AccElem) : Nat × FFlags :=
  match x.value with
  | .inf n => (if rd.sat then f.largest n else f.inf n, FFlags.clear)
  | v => f.convert rd i v

/-- The bytes a readout writes to an IEEE format: rows of 64 elements (R176). -/
def readoutFloat (lf : LaneFmt) (rd : Rounding) (set : Keyed AccElem) : List Byte × FFlags :=
  let vs := (List.range 2048).map (fun i => readElem (floatFmt lf) rd i (accGet set (i / 64) (i % 64)))
  (vs.flatMap (fun v => natLe (laneWidth lf / 8) v.1), FFlags.all (vs.map Prod.snd))

/-- A Grain line of 32 blocks as bytes (R75). -/
def lineBytes (g : GrainFmt) (blocks : List GrainBlock) : List Byte :=
  blocks.map (fun b => BitVec.ofNat 8 b.e) ++ blocks.map (fun b => microByte b.u) ++
    blocks.flatMap (fun b => mantBytes (grainW g) b.m)

/-- The value of an element that is quantised: under saturation an infinity is the largest finite magnitude of the Grain format, of its sign (R89;
log 176). -/
def AccElem.grainValue (g : GrainFmt) (sat : Bool) (x : AccElem) : FVal :=
  match x.value with
  | .inf n => if sat then .num n (2 ^ (grainW g - 1) - 1) (127 - ((grainW g - 2 : Nat) : Int)) else .inf n
  | v => v

/-- The bytes a readout writes to a Grain format: two lines, line h with row r of columns 32h to 32h + 31 as block r (R89,
R176). The elements are numbered row by row. -/
def readoutGrain (g : GrainFmt) (rd : Rounding) (set : Keyed AccElem) : List Byte × FFlags :=
  let blockAt := fun h r => quantise g rd (64 * r + 32 * h)
    ((List.range 32).map (fun i => (accGet set r (32 * h + i)).grainValue g rd.sat))
  let l0 := (List.range 32).map (blockAt 0)
  let l1 := (List.range 32).map (blockAt 1)
  (lineBytes g (l0.map Prod.fst) ++ lineBytes g (l1.map Prod.fst), FFlags.all ((l0 ++ l1).map Prod.snd))

end Sys2Proof.Machine
end

