-- ==== Sys2Proof/Machine/Vector.lean ====
section
/-! DEFINITION. The vector instructions: classes 0x7, 0x8 and 0x9, over FP32, bfloat16 and binary16 lanes (R81–R83, R94, R95,
R163–R166). -/

namespace Sys2Proof.Machine

open Sys2Proof

/-- Lane results into vector register d: enabled lanes take theirs, the others keep their value and raise no flag (R165). -/
def laneResults (f : LaneFmt) (x : Thread) (md : BitVec 8) (old : BitVec 1024) (op : Nat → Nat × FFlags) : BitVec 1024 × FFlags :=
  let rs := (List.range (laneCount f)).map (fun i => if laneOn f x md i then op i else (lane f old i, FFlags.clear))
  (packLanes f (rs.map Prod.fst), FFlags.all (rs.map Prod.snd))

/-- A lane-wise instruction that rounds: `op` answers lane i under a rounding, from the three register values (R83). A register
field that the operation does not read must name a register too: DESIGN CHOICE (log 197). -/
def roundedLanes (th : Thr) (f : LaneFmt) (d a b : BitVec 5) (md : BitVec 8)
    (op : Rounding → Nat → Nat → Nat → Nat → Nat × FFlags) (s : State) : State :=
  s.issue th (fun x s =>
    match vecReg d, vecReg a, vecReg b, modRounding md x s with
    | some dv, some av, some bv, some rd =>
      need s th [] [dv, av, bv] (
        let r := laneResults f x md x.v[dv] (fun i => op rd i (lane f x.v[av] i) (lane f x.v[bv] i) (lane f x.v[dv] i))
        finish (s.afterRounding th.tile th.thread rd (laneCount f)) th (modTrap md) r.2
          (fun s => .done (s.writeVector th dv r.1)))
    | _, _, _, _ => illegal s)

/-- A lane-wise instruction that does not round: mod bits [7:4] are reserved (R163). -/
def plainLanes (th : Thr) (f : LaneFmt) (d a b : BitVec 5) (md : BitVec 8) (free : Nat)
    (op : Rounding → Nat → Nat → Nat → Nat × FFlags) (s : State) : State :=
  s.issue th (fun x s =>
    match vecReg d, vecReg a, vecReg b with
    | some dv, some av, some bv =>
      if modHigh md ≠ 0 then illegal s
      else need s th [] [dv, av, bv] (
        let rd : Rounding := { mode := .nearest, sat := false, rng := x.rng, free := s.free }
        let r := laneResults f x md x.v[dv] (fun i => op rd i (lane f x.v[av] i) (lane f x.v[bv] i))
        finish { s with free := s.free + free } th false r.2 (fun s => .done (s.writeVector th dv r.1)))
    | _, _, _ => illegal s)

/-- VADD (R83, R166): a + b, lane-wise. -/
def execVadd (th : Thr) (fmt : LaneFmt) (d a b : BitVec 5) (md : BitVec 8) (s : State) : Answer :=
  let f := floatFmt fmt
  .next (roundedLanes th fmt d a b md (fun rd i a b _ => f.add rd i (f.decode a) (f.decode b)) s)

/-- VSUB (R83, R166): a − b, lane-wise. -/
def execVsub (th : Thr) (fmt : LaneFmt) (d a b : BitVec 5) (md : BitVec 8) (s : State) : Answer :=
  let f := floatFmt fmt
  .next (roundedLanes th fmt d a b md (fun rd i a b _ => f.add rd i (f.decode a) (f.decode b).negate) s)

/-- VMUL (R83, R166): a × b, lane-wise. -/
def execVmul (th : Thr) (fmt : LaneFmt) (d a b : BitVec 5) (md : BitVec 8) (s : State) : Answer :=
  let f := floatFmt fmt
  .next (roundedLanes th fmt d a b md (fun rd i a b _ => f.mulAdd rd i (f.decode a) (f.decode b) none) s)

/-- VFMA (R83, R166): a × b + d, computed exactly and rounded once. -/
def execVfma (th : Thr) (fmt : LaneFmt) (d a b : BitVec 5) (md : BitVec 8) (s : State) : Answer :=
  let f := floatFmt fmt
  .next (roundedLanes th fmt d a b md (fun rd i a b c => f.mulAdd rd i (f.decode a) (f.decode b) (some (f.decode c))) s)

/-- VRCP (R83, R94, R166) -/
def execVrcp (th : Thr) (fmt : LaneFmt) (d a b : BitVec 5) (md : BitVec 8) (s : State) : Answer :=
  let f := floatFmt fmt
  .next (roundedLanes th fmt d a b md (fun rd i a _ _ => f.recip rd i (f.decode a)) s)

/-- VSQRT (R83, R94, R166) -/
def execVsqrt (th : Thr) (fmt : LaneFmt) (d a b : BitVec 5) (md : BitVec 8) (s : State) : Answer :=
  let f := floatFmt fmt
  .next (roundedLanes th fmt d a b md (fun rd i a _ _ => f.sqrt rd i (f.decode a)) s)

/-- VRSQRT (R83, R94, R166) -/
def execVrsqrt (th : Thr) (fmt : LaneFmt) (d a b : BitVec 5) (md : BitVec 8) (s : State) : Answer :=
  let f := floatFmt fmt
  .next (roundedLanes th fmt d a b md (fun rd i a _ _ => f.rsqrt rd i (f.decode a)) s)

/-- VEXP2 (R83, R166): two to the power a. -/
def execVexp2 (th : Thr) (fmt : LaneFmt) (d a b : BitVec 5) (md : BitVec 8) (s : State) : Answer :=
  let f := floatFmt fmt
  .next (roundedLanes th fmt d a b md (fun rd i a _ _ => f.exp2 rd i (f.decode a)) s)

/-- VMIN (R166) -/
def execVmin (th : Thr) (fmt : LaneFmt) (d a b : BitVec 5) (md : BitVec 8) (s : State) : Answer :=
  .next (plainLanes th fmt d a b md (laneCount fmt) (fun rd i a b => (floatFmt fmt).pick rd i true a b) s)

/-- VMAX (R166) -/
def execVmax (th : Thr) (fmt : LaneFmt) (d a b : BitVec 5) (md : BitVec 8) (s : State) : Answer :=
  .next (plainLanes th fmt d a b md (laneCount fmt) (fun rd i a b => (floatFmt fmt).pick rd i false a b) s)

/-- VABS (R82, R166) -/
def execVabs (th : Thr) (fmt : LaneFmt) (d a b : BitVec 5) (md : BitVec 8) (s : State) : Answer :=
  .next (plainLanes th fmt d a b md 0 (fun _ _ a _ => (floatFmt fmt).sign false a) s)

/-- VNEG (R82, R166) -/
def execVneg (th : Thr) (fmt : LaneFmt) (d a b : BitVec 5) (md : BitVec 8) (s : State) : Answer :=
  .next (plainLanes th fmt d a b md 0 (fun _ _ a _ => (floatFmt fmt).sign true a) s)

/-- VSEL (R165, R166): lane by lane, a where the mask register that mod[2:1] names has the lane's bit set and b elsewhere; where mod[3] enables the
mask, the lanes whose bit is clear keep what d held (log 38). -/
def execVsel (th : Thr) (fmt : LaneFmt) (d a b : BitVec 5) (md : BitVec 8) (s : State) : Answer :=
  .next (s.issue th (fun x s =>
    match vecReg d, vecReg a, vecReg b with
    | some dv, some av, some bv =>
      if modHigh md ≠ 0 then illegal s
      else need s th [] [dv, av, bv]
        (.done (s.writeVector th dv (mergeLanes fmt x md x.v[dv] ((List.range (laneCount fmt)).map (fun i =>
          lane fmt (if laneOn fmt x (md ||| 8) i then x.v[av] else x.v[bv]) i)))))
    | _, _, _ => illegal s))

/-- VBCAST (R166): the low bits of scalar register a into every enabled lane: DESIGN CHOICE (log 209). A field b above 15 is illegal (log 197). -/
def execVbcast (th : Thr) (fmt : LaneFmt) (d a b : BitVec 5) (md : BitVec 8) (s : State) : Answer :=
  .next (s.issue th (fun x s =>
    match vecReg d, vecReg b with
    | some dv, some _ =>
      if modHigh md ≠ 0 then illegal s
      else need s th [a] [dv]
        (.done (s.writeVector th dv (mergeLanes fmt x md x.v[dv]
          (List.replicate (laneCount fmt) ((x.readS a).toNat % 2 ^ laneWidth fmt)))))
    | _, _ => illegal s))

/-- VEXTR (R166): scalar register d receives one lane of vector a, the lane that scalar register b names modulo the number of
lanes, with zeros above it: DESIGN CHOICE (log 39). -/
def execVextr (th : Thr) (fmt : LaneFmt) (d a b : BitVec 5) (md : BitVec 8) (s : State) : Answer :=
  .next (s.issue th (fun x s =>
    match vecReg a with
    | some av =>
      if modHigh md ≠ 0 then illegal s
      else need s th [b, d] [av]
        (.done (s.writeScalar th d (BitVec.ofNat 64 (lane fmt x.v[av] ((x.readS b).toNat % laneCount fmt)))))
    | none => illegal s))

/-- VSUM (R166): the exact sum of the enabled lanes of a, rounded once, into lane 0; every other lane becomes +0 (log 37). A field b above 15 is
illegal (log 197). -/
def execVsum (th : Thr) (fmt : LaneFmt) (d a b : BitVec 5) (md : BitVec 8) (s : State) : Answer :=
  .next (s.issue th (fun x s =>
    match vecReg d, vecReg a, vecReg b, modRounding md x s with
    | some dv, some av, some _, some rd =>
      need s th [] [dv, av] (
        let f := floatFmt fmt
        let on := (List.range (laneCount fmt)).filter (laneOn fmt x md)
        let r := f.sum rd (on.map (fun i => f.decode (lane fmt x.v[av] i)))
        finish (s.afterRounding th.tile th.thread rd 1) th (modTrap md) r.2
          (fun s => .done (s.writeVector th dv (packLanes fmt [r.1]))))
    | _, _, _, _ => illegal s))

/-- A lane compare into mask m(d): an FP32 lane i writes bit 2i, a 16-bit lane bit i; bits that belong to no enabled lane keep
their value (R43, R165, R166; log 40). -/
def laneCompare (th : Thr) (fmt : LaneFmt) (d a b : BitVec 5) (md : BitVec 8) (test : Ordering → Bool) (s : State) : State :=
  s.issue th (fun x s =>
    match maskReg d, vecReg a, vecReg b with
    | some m, some av, some bv =>
      if modHigh md ≠ 0 then illegal s
      else need s th [] [av, bv] (
        let f := floatFmt fmt
        let on := (List.range (laneCount fmt)).filter (laneOn fmt x md)
        let rs := on.map (fun i => (i, f.compare test (lane fmt x.v[av] i) (lane fmt x.v[bv] i)))
        let mask := rs.foldl (fun v r =>
          let k := if fmt = .fp32 then 2 * r.1 else r.1
          if r.2.1 then v ||| (1#64 <<< k) else v &&& ~~~(1#64 <<< k)) x.m[m]
        finish s th false (FFlags.all (rs.map (fun r => r.2.2))) (fun s =>
          let y := s.thread th.tile th.thread
          .done (s.setThread th.tile th.thread { y with m := y.m.set m mask })))
    | _, _, _ => illegal s)

/-- VCMP_EQ (R166) -/
def execVcmpEq (th : Thr) (fmt : LaneFmt) (d a b : BitVec 5) (md : BitVec 8) (s : State) : Answer :=
  .next (laneCompare th fmt d a b md (fun o => o == .eq) s)

/-- VCMP_LT (R166) -/
def execVcmpLt (th : Thr) (fmt : LaneFmt) (d a b : BitVec 5) (md : BitVec 8) (s : State) : Answer :=
  .next (laneCompare th fmt d a b md (fun o => o == .lt) s)

/-- VCMP_LE (R166) -/
def execVcmpLe (th : Thr) (fmt : LaneFmt) (d a b : BitVec 5) (md : BitVec 8) (s : State) : Answer :=
  .next (laneCompare th fmt d a b md (fun o => o != .gt) s)

end Sys2Proof.Machine
end

