-- ==== Sys2Proof/Machine/Convert.lean ====
section
/-! DEFINITION. Matrix instructions and conversions: classes 0xA and 0xB (R78–R80, R84–R89, R96–R98, R166, R167, R174–R176). -/

namespace Sys2Proof.Machine

open Sys2Proof

/-! ## Matrix instructions -/

/-- A Grain format of fa or fb; none for the reserved code (Table: Matrix operand layout). -/
def grainCode (c : BitVec 2) : Option GrainFmt :=
  if c = 0 then some .g4 else if c = 1 then some .g6 else if c = 2 then some .g8 else none

/-- A matrix multiply-accumulate enters the matrix unit: it waits for the unit (R42), clears its set under clr (R174), and
faults with cause 0x02 where an operand is misaligned (R51, R77). -/
def startMma (th : Thr) (kind : MmaKind) (align : Nat) (acc : BitVec 2) (clr : Bool) (cnt : BitVec 3) (a b : BitVec 5)
    (s : State) : Issued :=
  let x := s.thread th.tile th.thread
  needMatrix s th (need s th [a, b] [] (
    let pa := (x.readS a).toNat % padSize
    let pb := (x.readS b).toNat % padSize
    if pa % align ≠ 0 ∨ pb % align ≠ 0 then .fault s 0x02
    else
      let y := s.tile th.tile
      let y := if clr then { y with acc := y.acc.set acc.toFin [] } else y
      .done (s.setTile th.tile
        { y with matrix := some (.mma kind acc.toFin (cnt.toNat + 1) pa pb th.thread x.pc [] none) })))

/-- MMA_G (R84, R174): Grain operands; a reserved format code or reserved bit is illegal. -/
def execMmaG (th : Thr) (acc : BitVec 2) (clr : Bool) (cnt : BitVec 3) (a b : BitVec 5) (fa fb : BitVec 2) (res : BitVec 4)
    (s : State) : Answer :=
  .next (s.issue th (fun _ s =>
    match grainCode fa, grainCode fb with
    | some ga, some gb => if res ≠ 0 then illegal s else startMma th (.grain ga gb) 64 acc clr cnt a b s
    | _, _ => illegal s))

/-- MMA_B (R174): bfloat16 operands, aligned to their elements; fa, fb and [3:0] are reserved. -/
def execMmaB (th : Thr) (acc : BitVec 2) (clr : Bool) (cnt : BitVec 3) (a b : BitVec 5) (fa fb : BitVec 2) (res : BitVec 4)
    (s : State) : Answer :=
  .next (s.issue th (fun _ s =>
    if fa ≠ 0 ∨ fb ≠ 0 ∨ res ≠ 0 then illegal s else startMma th .bf16 2 acc clr cnt a b s))

/-- MMA_H (R174): binary16 operands. -/
def execMmaH (th : Thr) (acc : BitVec 2) (clr : Bool) (cnt : BitVec 3) (a b : BitVec 5) (fa fb : BitVec 2) (res : BitVec 4)
    (s : State) : Answer :=
  .next (s.issue th (fun _ s =>
    if fa ≠ 0 ∨ fb ≠ 0 ∨ res ≠ 0 then illegal s else startMma th .fp16 2 acc clr cnt a b s))

/-- MCLR (R85, R176): clears the accumulator set that b names. -/
def execMclr (th : Thr) (_d _a b : BitVec 5) (md : BitVec 8) (s : State) : Answer :=
  .next (s.issue th (fun _ s =>
    match maskReg b with
    | none => illegal s
    | some k =>
      if modHigh md ≠ 0 then illegal s
      else needMatrix s th (
        let y := s.tile th.tile
        .done (s.setTile th.tile { y with acc := y.acc.set k [] }))))

/-- A format code (Table: Format codes). -/
inductive FormatCode where
  | float (f : LaneFmt)
  | grain (g : GrainFmt)
  deriving DecidableEq, Repr

/-- The format of a code; none for MX and the reserved code. -/
def formatCode (c : Nat) : Option FormatCode :=
  if c = 0 then some (.float .fp32)
  else if c = 1 then some (.float .bf16)
  else if c = 2 then some (.float .fp16)
  else if c = 3 then some (.grain .g4)
  else if c = 4 then some (.grain .g6)
  else if c = 5 then some (.grain .g8)
  else none

/-- Bytes that a format's elements or lines are aligned to in the scratchpad (R51, R77). -/
def FormatCode.align : FormatCode → Nat
  | .float .fp32 => 4
  | .float _ => 2
  | .grain _ => 64

/-- MRD (R89, R176): reads out the set that b names to the scratchpad address in a, in the format of d[2:0]; d[4:3] that is not zero is
illegal (log 31). The bytes reach the scratchpad when the readout leaves the matrix unit; the flags are raised when it issues (log 41). -/
def execMrd (th : Thr) (d a b : BitVec 5) (md : BitVec 8) (s : State) : Answer :=
  .next (s.issue th (fun x s =>
    match formatCode d.toNat, maskReg b, modRounding md x s with
    | some fc, some k, some rd =>
      needMatrix s th (need s th [a] [] (
        let pa := (x.readS a).toNat % padSize
        if pa % fc.align ≠ 0 then .fault s 0x02
        else
          let set := (s.tile th.tile).acc[k]
          let r := match fc with
            | .float f => readoutFloat f rd set
            | .grain g => readoutGrain g rd set
          finish (s.afterRounding th.tile th.thread rd 2048) th (modTrap md) r.2 (fun s =>
            .done (s.setTile th.tile { s.tile th.tile with matrix := some (.readout pa r.1 th.thread x.pc) }))))
    | _, _, _ => illegal s))

/-- MATRIX_INSTRUCTION_END (R42, R86, R174–R176): what the matrix unit ran leaves it. A multiply-accumulate reads the operands it
has not yet read and adds its contributions, unless an operand word is uncorrectable: then the thread that issued it faults with cause 0x04 (R55;
log 42); a readout writes its bytes. The words of `ecc` count through the operands that it still reads (R53). -/
def execMatrixInstructionEnd (t : Fin 2560) (ecc : PadErrs) (s : State) : Answer :=
  let s := match (s.tile t).matrix with
    | some (.mma kind _ chunks a b _ _ done _) =>
      s.padEvents t (((List.range chunks).drop done.length).flatMap (chunkWords kind a b)) ecc
    | _ => s
  let x := s.tile t
  .next (match x.matrix with
  | none => s
  | some (.readout addr bytes n pc) =>
    let s := s.setTile t { x with matrix := none }
    (if x.narrowBad addr bytes.length then s.lateFault t n 0x04 pc else s.padWrite t addr bytes).settle t
  | some (.mma kind acc chunks a b n pc done bad) =>
    match matrixRead x chunks (.mma kind acc chunks a b n pc done bad) with
    | .mma _ _ _ _ _ _ _ _ (some w) =>
      (((s.setTile t { x with matrix := none }).padUncorrectable t w).lateFault t n 0x04 pc).settle t
    | .mma _ _ _ _ _ _ _ done' none =>
      let r := accumulate kind done' x.acc[acc]
      let s := s.setTile t { x with matrix := none, acc := x.acc.set acc r.1 }
      (s.setThread t n ((s.thread t n).raise r.2)).settle t
    | _ => s)

/-! ## Conversions -/

/-- The IEEE format of a format code. -/
def floatCode (c : Nat) : Option LaneFmt :=
  match formatCode c with
  | some (.float f) => some f
  | _ => none

/-- CVT (R80, R83, R166): converts the lanes of a between the IEEE formats. Between FP32 and a 16-bit format the half bit
selects the half of the 16-bit register. Other codes are illegal (log 43). -/
def execCvt (th : Thr) (dst : BitVec 3) (d a b : BitVec 5) (md : BitVec 8) (s : State) : Answer :=
  .next (s.issue th (fun x s =>
    match vecReg d, vecReg a, floatCode dst.toNat, floatCode b.toNat, modRounding md x s with
    | some dv, some av, some df, some sf, some rd =>
      need s th [] [dv, av] (
        let wide := decide (laneWidth df = laneWidth sf)
        let n := if wide then laneCount df else 32
        let up := if modHalf md then 32 else 0
        let from_ := if !wide && sf != .fp32 then up else 0
        let to_ := if !wide && df != .fp32 then up else 0
        let old := x.v[dv]
        let src := x.v[av]
        let r := laneResults df x md old (fun i =>
          if to_ ≤ i ∧ i < to_ + n then
            (floatFmt df).convert rd (i - to_) ((floatFmt sf).decode (lane sf src (i - to_ + from_)))
          else (lane df old i, FFlags.clear))
        finish (s.afterRounding th.tile th.thread rd n) th (modTrap md) r.2 (fun s => .done (s.writeVector th dv r.1)))
    | _, _, _, _, _ => illegal s))

/-- Bytes and offsets that one Grain block takes in its line (R75). -/
def blockParts (g : GrainFmt) (b : Nat) (x : GrainBlock) : List (Nat × List Byte) :=
  [(b, [BitVec.ofNat 8 x.e]), (32 + b, [microByte x.u]), (64 + 4 * grainW g * b, mantBytes (grainW g) x.m)]

/-- Stores parts at offsets from a base. -/
def State.storeParts (s : State) (t base : Nat) : List (Nat × List Byte) → State
  | [] => s
  | (o, bytes) :: rest => (s.padWrite t (base + o) bytes).storeParts t base rest

/-- A quantise of vector a to block b, or blocks b and b + 1, of the line at scratchpad address d (R78, R79, R166). -/
def quantiseTo (th : Thr) (g : GrainFmt) (src : LaneFmt) (d a b : BitVec 5) (md : BitVec 8) (s : State) : State :=
  s.issue th (fun x s =>
    match vecReg a, modRounding md x s with
    | some av, some rd =>
      need s th [d] [av] (
        let base := (x.readS d).toNat % padSize
        let blk := b.toNat
        if base % 64 ≠ 0 ∨ (src ≠ .fp32 ∧ (blk % 2 = 1 ∨ 30 < blk)) then .fault s 0x02
        else
          let vals := (lanes src x.v[av]).map (floatFmt src).decode
          let nb := laneCount src / 32
          let bs := (List.range nb).map (fun j => quantise g rd (32 * j) ((vals.drop (32 * j)).take 32))
          let parts := (List.zip (List.range nb) bs).flatMap (fun p => blockParts g (blk + p.1) p.2.1)
          if parts.any (fun p => (s.tile th.tile).narrowBad ((base + p.1) % padSize) p.2.length) then .fault s 0x04
          else finish (s.afterRounding th.tile th.thread rd (laneCount src)) th (modTrap md) (FFlags.all (bs.map Prod.snd))
            (fun s => .wrote (s.storeParts th.tile base parts)))
    | _, _ => illegal s)

/-- QNT_G4 (R78, R166) -/
def execQntG4 (th : Thr) (src : LaneFmt) (d a b : BitVec 5) (md : BitVec 8) (s : State) : Answer :=
  .next (quantiseTo th .g4 src d a b md s)

/-- QNT_G6 (R78, R166) -/
def execQntG6 (th : Thr) (src : LaneFmt) (d a b : BitVec 5) (md : BitVec 8) (s : State) : Answer :=
  .next (quantiseTo th .g6 src d a b md s)

/-- QNT_G8 (R78, R166) -/
def execQntG8 (th : Thr) (src : LaneFmt) (d a b : BitVec 5) (md : BitVec 8) (s : State) : Answer :=
  .next (quantiseTo th .g8 src d a b md s)

/-- DQNT (R80, R166): the FP32 values of block b of the line at scratchpad address a; b is the field's own value (log 44). -/
def execDqnt (th : Thr) (w : GrainFmt) (d a b : BitVec 5) (md : BitVec 8) (ecc : PadErrs) (s : State) : Answer :=
  .next (s.issue th (fun x s =>
    match vecReg d with
    | none => illegal s
    | some dv =>
      if modHigh md ≠ 0 then illegal s
      else need s th [a] [dv] (
        let base := (x.readS a).toNat % padSize
        let blk := b.toNat
        let parts := [(blk, 1), (32 + blk, 1), (64 + 4 * grainW w * blk, 4 * grainW w)]
        if base % 64 ≠ 0 then .fault s 0x02
        else
          let c := s.wordsCheck th.tile (parts.flatMap (fun p => (padWords ((base + p.1) % padSize) p.2).map Prod.fst)) ecc
          if c.2 then .fault c.1 0x04
          else
            let block := readBlock w (readPad (s.tile th.tile).pad base (lineSize w)) blk
            let vals := (List.range 32).map (fun i => ((floatFmt .fp32).convert Rounding.memory i (block.value w i)).1)
            .done (c.1.writeVector th dv (mergeLanes .fp32 x md x.v[dv] vals)))))

/-- Bytes of 1024 elements of a format as MX conversion reads or writes them: lanes in order, or one Grain line. -/
def FormatCode.lineSize : FormatCode → Nat
  | .float f => 1024 * (laneWidth f / 8)
  | .grain g => Machine.lineSize g

/-- One MX block imported to an IEEE format, through exact FP32 (R97). -/
def mxToFloat (k : MxKind) (f : LaneFmt) (rd : Rounding) (base x : Nat) (codes : List Nat) : List (Nat × FFlags) :=
  (List.zip (List.range 32) (mxValues k x codes)).map (fun p =>
    let v := mxFp32 rd (base + p.1) p.2
    if f = .fp32 then v
    else
      let w := (floatFmt f).convert rd (base + p.1) ((floatFmt .fp32).decode v.1)
      (w.1, v.2.or w.2))

/-- The bytes and flags of an imported line (R97). -/
def importLine (k : MxKind) (fc : FormatCode) (rd : Rounding) (line : List Byte) : List Byte × FFlags :=
  let blocks := (List.range 32).map (fun b => (b, readMx k line b))
  match fc with
  | .float f =>
    let rs := blocks.flatMap (fun p => mxToFloat k f rd (32 * p.1) p.2.1 p.2.2)
    (rs.flatMap (fun r => natLe (laneWidth f / 8) r.1), FFlags.all (rs.map Prod.snd))
  | .grain g =>
    let rs := blocks.map (fun p => mxToGrain k g rd (32 * p.1) p.2.1 p.2.2)
    (lineBytes g (rs.map Prod.fst), FFlags.all (rs.map Prod.snd))

/-- The exact values of block b of an export's source (R98). -/
def sourceBlock (fc : FormatCode) (line : List Byte) (b : Nat) : List FVal :=
  match fc with
  | .float f => (List.range 32).map (fun i =>
      (floatFmt f).decode (leNat ((line.drop ((32 * b + i) * (laneWidth f / 8))).take (laneWidth f / 8))))
  | .grain g => (List.range 32).map ((readBlock g line b).value g)

/-- The bytes of an exported MX line (R96, R98); a signalling NaN among the values raises invalid (R82, R94). -/
def exportLine (k : MxKind) (fc : FormatCode) (rd : Rounding) (line : List Byte) : List Byte × FFlags :=
  let src := (List.range 32).map (sourceBlock fc line)
  let bs := (List.zip (List.range 32) src).map (fun p => mxExport k rd (32 * p.1) p.2)
  (bs.map (fun p => BitVec.ofNat 8 p.1) ++ bs.flatMap (fun p => natLe (mxBlockSize k) (packNat (mxWidth k) p.2)),
    { invalid := src.any (fun l => l.any FVal.signals) })

/-- An MX line conversion from the scratchpad address in a to that in d; both sides start at multiples of 64, as R77 and R96 ask of Grain and MX
lines, an FP32 or 16-bit side too (log 177). A stochastic one advances the generator by all its elements, of an exact import too (R92; log 178). -/
def convertLine (th : Thr) (d a : BitVec 5) (md : BitVec 8) (ecc : PadErrs) (x : Thread) (s : State) (free inLen outLen : Nat) (rd : Rounding)
    (conv : List Byte → List Byte × FFlags) : Issued :=
  need s th [d, a] [] (
    let src := (x.readS a).toNat % padSize
    let dst := (x.readS d).toNat % padSize
    if src % 64 ≠ 0 ∨ dst % 64 ≠ 0 then .fault s 0x02
    else
      let c := s.padCheck th.tile src inLen ecc
      if c.2 then .fault c.1 0x04
      else if (c.1.tile th.tile).narrowBad dst outLen then .fault c.1 0x04
      else
        let s := c.1
        let r := conv (readPad (s.tile th.tile).pad src inLen)
        let s := s.afterRounding th.tile th.thread rd 1024
        finish { s with free := s.free + free } th (modTrap md) r.2 (fun s => .wrote (s.padWrite th.tile dst r.1)))

/-- MXIN (R97, R166): imports an MX line of the kind in b[2:0] to the format of the code `fmt`; the MX code itself and reserved
codes are illegal (R167; log 45). -/
def execMxin (th : Thr) (fmt : BitVec 3) (d a b : BitVec 5) (md : BitVec 8) (ecc : PadErrs) (s : State) : Answer :=
  .next (s.issue th (fun x s =>
    match formatCode fmt.toNat, mxKind b.toNat, modRounding md x s with
    | some fc, some k, some rd => convertLine th d a md ecc x s 0 (mxLineSize k) fc.lineSize rd (importLine k fc rd)
    | _, _, _ => illegal s))

/-- MXOUT (R98, R166): exports a line of the format of the code `fmt` to an MX line of the kind in b[2:0]. -/
def execMxout (th : Thr) (fmt : BitVec 3) (d a b : BitVec 5) (md : BitVec 8) (ecc : PadErrs) (s : State) : Answer :=
  .next (s.issue th (fun x s =>
    match formatCode fmt.toNat, mxKind b.toNat, modRounding md x s with
    | some fc, some k, some rd =>
      convertLine th d a md ecc x s 1024 fc.lineSize (mxLineSize k) rd (exportLine k fc rd)
    | _, _, _ => illegal s))

end Sys2Proof.Machine
end

