-- ==== Sys2Proof/Machine/RingLog.lean ====
section
/-! DEFINITION. The ring log: closing of records, flushes and page programs, LOG_READ, and the authorised clear (R539–R546, R581). -/

namespace Sys2Proof.Machine

open Sys2Proof

/-! ## Records and flushes (R539–R543) -/

/-- LOG_CFG (Table: LOG_CFG fields): minutes to a repeat record's closing, and the flush period in 0.1 s. -/
def State.closeMin (s : State) : Nat := bits (s.mreg logCfg) 15 8
def State.flushPeriod (s : State) : Nat := bits (s.mreg logCfg) 7 0

/-- An open record is due to close: close_min after it was opened, or 60 s after its last occurrence (R539). -/
def State.closeDue (s : State) (r : LogRec) : Bool :=
  decide (r.hours.toNat + 600 * s.closeMin ≤ s.hours) || decide (r.last.toNat + 600 ≤ s.hours)

/-- RECORD_CLOSE (R539, R540). -/
def execRecordClose (i : Nat) (s : State) : Answer :=
  .next (match s.log.opened[i]? with
  | none => s
  | some r =>
    if s.crown.running ∧ s.closeDue r then
      { s with log := { s.log with
        opened := s.log.opened.eraseIdx i
        closed := s.log.closed ++ [{ what := r, entered := s.clk.hours, placed := none }] } }
    else s)

/-- A normal flush is due: 4 KiB of closed records are pending, or the oldest has waited for the flush period (R541). -/
def State.flushDue (s : State) : Bool :=
  decide (4096 ≤ s.log.unplaced) ||
  s.log.closed.any (fun e => e.placed.isNone && decide (e.entered.toNat + s.flushPeriod ≤ s.hours))

/-- LOG_FLUSH (R541). -/
def execLogFlush (s : State) : Answer := .next (if s.crown.running ∧ s.flushDue then s.flushLog false else s)

/-- The ring log buffer's uncorrectable word lies in the first record whose programming has not begun: it is discarded, and the records
behind it move up; where only a record partly programmed is left, that one is discarded and passed over in flash (R522, R544; logs 95, 211). -/
def LogState.discard (l : LogState) : LogState :=
  let begun (e : LogEntry) : Bool := match e.placed with
    | some p => decide (p < l.flash.length + 8 * e.what.units)
    | none => false
  match l.closed.find? (fun e => !begun e) with
  | none => ({ l.passCut with closed := [], program := [] } : LogState).drop l.closed.length 2
  | some e =>
    let n := 8 * e.what.units
    let moved : List LogEntry := l.closed.map (fun (k : LogEntry) => match e.placed, k.placed with
      | some p, some q => if p < q then { k with placed := some (q - n) } else k
      | _, _ => k)
    let program := match e.placed with
      | some p => l.program.take (p - n - l.flash.length) ++ l.program.drop (p - l.flash.length)
      | none => l.program
    ({ l with closed := (moved.eraseIdx (l.closed.findIdx (fun k => !begun k))), program := program } : LogState).drop 1 2

/-- A page has been programmed and verified: its records are marked written and leave the buffer (R542). -/
def LogState.pageDone (l : LogState) : LogState :=
  let flash := l.flash ++ l.program.take l.pageLeft
  let rest := l.program.drop l.pageLeft
  { l with
    flash := flash, program := rest, verifyFails := 0
    forced := l.forced && !rest.isEmpty
    closed := l.closed.filter (fun (e : LogEntry) => match e.placed with
      | some p => decide (flash.length < p)
      | none => true) }

/-- A page has failed its verify: after the second failure the flash has failed, and records remain in the buffer (R543). -/
def LogState.pageFailed (l : LogState) : LogState :=
  if 1 ≤ l.verifyFails then
    { l with
      mode := .flashFailed, resume := .flashFailed, program := [], forced := false
      closed := l.closed.map (fun (e : LogEntry) => if l.cut = some e then e else { e with placed := none }) }
  else { l with verifyFails := l.verifyFails + 1 }

/-- Pages are programmed: Crown runs, something has been handed to the flash, and no brownout warning, failure or clear stops it (R542,
R543, R545). -/
def State.programs (s : State) : Bool :=
  s.crown.running && !s.log.program.isEmpty && !s.hwd.brownout && decide (s.log.mode ≠ .flashFailed ∧ s.log.mode ≠ .clearing)

/-- PAGE_PROGRAM_VERIFY (R522, R540, R542, R543): `sram` is what the ring log buffer meets. -/
def execPageProgramVerify (ok : Bool) (sram : SramErr) (s : State) : Answer :=
  .next (if !s.programs then s
  else
    let s := s.sramError (sramRow .log) 0 sram
    if fatalSram sram then (({ s with log := s.log.discard }).flag logErr 1).reportLost
    else if ok then ({ s with log := s.log.pageDone }).reportLost
    else
      let s : State := { s with log := s.log.pageFailed }
      if s.log.mode = .flashFailed then (s.flag logErr 2).report 1 0x8000 else s)

/-! ## Walking the partition (R535–R537, R543) -/

/-- Bytes from the start of the partition to the append point: with no gap before it, the log-full record's too. -/
def LogState.content (l : LogState) : List Byte :=
  if l.flash.length + l.tail.length = logSize then l.flash ++ l.tail else l.flash.take l.append

/-- Offsets of the record boundaries of some flash bytes from `p` on, with fuel; fillers stand between records (R536). -/
def boundaries (l : List Byte) (p : Nat) : Nat → List Nat
  | 0 => [p]
  | n + 1 => match l with
    | [] => [p]
    | b :: _ => if b = 0xFF then [p]
      else
        let u := if b = 0 then 8 else 8 * (b.toNat % 64 + 1)
        p :: boundaries (l.drop u) (p + u) n

/-- The record boundaries of the partition, its append point the last; fillers that still wait count as written. -/
def LogState.bounds (l : LogState) : List Nat := boundaries (fillAt l.content l.fillers) 0 (l.content.length / 8 + 1)

/-- The records of some flash bytes, fillers left out, with fuel. -/
def recordsOf (l : List Byte) : Nat → List (List Byte)
  | 0 => []
  | n + 1 => match l with
    | [] => []
    | b :: _ =>
      if b = 0xFF then []
      else if b = 0 then recordsOf (l.drop 8) n
      else l.take (8 * (b.toNat % 64 + 1)) :: recordsOf (l.drop (8 * (b.toNat % 64 + 1))) n

/-- The records of the partition, the log-full record included. -/
def LogState.records (l : LogState) : List (List Byte) :=
  let r := recordsOf l.flash (l.flash.length / 8 + 1)
  if l.tail.isEmpty then r else r ++ [l.tail]

/-- A record's CRC-8 is right, and its generation is 2 (R535, R537). -/
def recordGood (r : List Byte) : Bool :=
  crc8 0 (r.take 3 ++ r.drop 4) == r[3]?.getD 0 && (r.headD 0).toNat / 64 == 2

/-! ## LOG_READ (R581) -/

/-- The forced flush of a LOG_READ has ended: everything has been programmed, or a brownout warning or a failure has stopped it. -/
def State.flushEnded (s : State) : Bool := s.log.program.isEmpty || s.hwd.brownout || decide (s.log.mode = .flashFailed)

/-- Where the copy of a LOG_READ ends: at the append point, or at the last record boundary that the buffer reaches. -/
def LogState.copyEnd (l : LogState) (off room : Nat) : Nat :=
  if l.content.length ≤ off + room then max off l.content.length
  else ((l.bounds.filter (fun b => decide (off ≤ b ∧ b ≤ off + room))).getLast?).getD off

/-- Pending records as bytes, closed ones in write order and then the open ones (R540, R581). -/
def LogState.pendingBytes (l : LogState) : List (List Byte) := l.closed.map (fun e => e.what.bytes) ++ l.opened.map (fun r => r.bytes)

/-- As many whole records as fit. -/
def fitting (room : Nat) : List (List Byte) → List (List Byte)
  | [] => []
  | r :: rest => if r.length ≤ room then r :: fitting (room - r.length) rest else []

/-- The copy of a LOG_READ, and its answer (R581 steps 2–4). -/
def State.copyLog (s : State) (src : MsgSrc) (m : List Byte) : State :=
  let off := tfield m 32 4
  let l := s.log
  let e := l.copyEnd off (bufLen m)
  let flash := (l.content.drop off).take (e - off)
  let more := if bit (tfield m 36 1) 1 ∧ l.content.length ≤ e then fitting (bufLen m - flash.length) l.pendingBytes else []
  let bytes := flash ++ more.flatten
  let s := ((s.visit (bufView m) (bufAddr m) bytes.length).storeChecked (bufView m) (bufAddr m) bytes []).1
  let s := s.forgetRead src
  s.answerMsg src 0 (natLe 4 bytes.length ++ natLe 4 e ++ natLe 4 l.content.length ++ natLe 4 s.log.lost.toNat ++ natLe 4 more.length)

/-- LOG_READ (R501, R541, R546, R581): with flag [0] a forced flush comes first, and the request waits until it has ended. -/
def execLogRead (src : MsgSrc) (s : State) : Answer :=
  .next (s.onMsg src 0x0060 (some 21) (fun s m =>
    if s.bufStatus m ≠ 0 then s.answerMsg src (s.bufStatus m) []
    else if !s.bufOpen m then s
    else if tfield m 32 4 % 8 ≠ 0 ∨ 4 ≤ tfield m 36 1 then s.answerMsg src 2 []
    else if s.log.clear.isSome then s.answerMsg src 3 []
    else if !bit (tfield m 36 1) 0 then s.copyLog src m
    else
      let s := if s.log.readFlush.contains src then s
        else
          let s := s.flushLog true
          { s with log := { s.log with readFlush := s.log.readFlush ++ [src] } }
      if s.flushEnded then s.copyLog src m else s))

/-! ## The clear (R545, R546) -/

/-- Hours of a record. -/
def recordHours (r : List Byte) : BitVec 32 := BitVec.ofNat 32 (leNat ((r.drop 4).take 4))

/-- The forced flush that begins a clear, programmed to its end unless a brownout warning or a failed flash stops it. -/
def State.flushAll (s : State) : State :=
  let s := s.flushLog true
  let l := s.log
  if s.hwd.brownout ∨ l.mode = .flashFailed then
    { s with log := { l with program := [], forced := false, closed := l.closed.map (fun (e : LogEntry) => { e with placed := none }) } }
  else
    { s with log := { l with
      flash := l.flash ++ l.program, program := [], forced := false
      closed := l.closed.filter (fun (e : LogEntry) => e.placed.isNone) } }

/-- The mark of a clear, with what it erases (R545). -/
def State.clearMark (s : State) (path : Fin 3) (t : List Byte) : ClearMark :=
  let r := s.log.records
  { path := path.val, nonce := BitVec.ofNat 64 (tfield t 16 8), erased := r.length
    firstHours := recordHours (r.headD []), lastHours := recordHours (r.getLastD []) }

/-- The clear's path holds its answer back until it ends. -/
def State.awaitClear (s : State) (path : AuthPath) : State :=
  match path with
  | .msg src => { s with crown := { s.crown with clearing := some (some (src, ((s.requestOf src).map msgSeq).getD 0)) } }
  | .console _ => { s with crown := { s.crown with clearing := some none }, svc := { s.svc with test := some .auth } }

/-- The path of a clear that runs still holds its request. -/
def State.clearWaits (s : State) (path : AuthPath) : Bool :=
  match path, s.crown.clearing with
  | .msg src, some (some (k, seq)) => decide (k = src) && (s.requestOf src).any (fun m => msgSeq m == seq)
  | _, _ => false

/-- A clear begins: a forced flush, the mark, and the erase, during which records wait in the buffer (R545); BUSY while another runs (R546). -/
def State.beginClear (s : State) (src : AuthPath) (t : List Byte) : State :=
  if s.log.clear.isSome then s.answerToken src 3
  else
    let s := s.flushAll
    let mark := s.clearMark (tokenPath src) t
    ({ s with log := { s.log with mode := .clearing, resume := .recording, clear := some mark } }).awaitClear src

/-- CLEAR_RING_LOG (R451, R545, R546), which waits while a brownout warning lasts. -/
def execClearRingLog (src : AuthPath) (s : State) : Answer :=
  .next (if s.clearWaits src ∨ s.hwd.brownout then s else s.authorise src (· == 0x10) 0 (fun s t => s.beginClear src t))

/-- The action of a token that was typed before a wipe ended (R534, R560). -/
def State.typedAction (s : State) (passes : BitVec 8) (t : List Byte) : State :=
  let src : AuthPath := .console t
  match tokenAction t with
  | 2 => s.releaseOwner src
  | 3 => s.retireModule src
  | 0x10 => s.beginClear src t
  | 0x11 => s.editMap src passes t
  | _ => s.enterService src

/-- The log-cleared record; of a clear that Stage 1 completes, the hours are not known and free (R545, log 12). -/
def State.clearedRec (s : State) (k : ClearMark) : LogRec :=
  let cut := s.crown.clearing.isNone
  let hours := if cut then s.freeBytes 8 else natLe 4 k.firstHours.toNat ++ natLe 4 k.lastHours.toNat
  { typ := 0x02, cls := .info, repeats := false, cycle := s.clk.cycles.setWidth 8, hours := s.clk.hours, count := 0, last := 0
    subject := BitVec.ofNat 32 k.path
    detail := natLe 8 k.nonce.toNat ++ natLe 4 (if cut then 0xFFFFFFFF else k.erased) ++ hours ++ natLe 1 (b2n cut) }

/-- The answer to the token whose clear has ended. -/
def State.answerClear (s : State) : State :=
  match s.crown.clearing with
  | some (some (src, seq)) =>
    if (s.requestOf src).any (fun m => msgType m == 0x0050 && msgSeq m == seq) then s.answerToken (.msg src) 0 else s
  | some none => if s.svc.test = some .auth then (s.say (statusName 0)).endCommand 0 else s
  | none => s

/-- LOG_CLEAR_ERASE_DONE (R451, R545): the log-cleared record is the partition's first; the mark goes out of the configuration partition, the answer
follows, and recording resumes. -/
def execLogClearEraseDone (s : State) : Answer :=
  .next (match s.log.clear with
  | none => s
  | some k =>
    if !s.crown.running ∨ s.hwd.brownout then s
    else
      let r := s.clearedRec k
      let l : LogState := { s.log with
        flash := r.bytes, tail := [], program := [], mode := .recording, resume := .recording, verifyFails := 0, forced := false, clear := none, fillers := [] }
      let s : State := { s.drawnN 8 with log := l }
      let s := s.syncConfig.answerClear.reportLost
      { s with crown := { s.crown with clearing := none } })

end Sys2Proof.Machine
end

