-- ==== Sys2Proof/Machine/ConsoleText.lean ====
section
/-! DEFINITION. What `status` and `log dump` print (R536, R556, R557). The lines of `status ports` and `status rails` are the model's (log 96). -/

namespace Sys2Proof.Machine

open Sys2Proof

/-! ## `status` (R556) -/

/-- Names of stages, life-cycle states, smoothing modes and store states. -/
def stageText : Stage → String
  | .unpowered => "0"
  | .stage0 => "0"
  | .stage1 => "1"
  | .stage2 => "2"
  | .entry => "3-entry"
  | .stage3 => "3"
  | .quiescing => "quiescing"
  | .quiesced => "quiesced"
  | .failed => "failed"

def lifeText : Life → String
  | .blank => "BLANK"
  | .provisioned => "PROVISIONED"
  | .deployed => "DEPLOYED"
  | .service => "SERVICE"
  | .retired => "RETIRED"

def smoothText (n : Nat) : String := if n = 0 then "store" else if n = 1 then "ballast" else "both"

def storeText : StoreState → String
  | .isolated => "ISOLATED"
  | .precharge => "PRECHARGE"
  | .connected => "CONNECTED"
  | .draining => "DRAINING"
  | .drained => "DRAINED"
  | .lockedOut => "LOCKED_OUT"

/-- The line of stage and life cycle. -/
def State.stageLine (s : State) : String :=
  let v := s.imageVersion
  "stage " ++ stageText s.stage ++ " life " ++ lifeText s.crown.life ++ " crown " ++
  (if s.crown.running then "running" else if s.crown.rom then "recovery" else "stopped") ++ " slot " ++ decText s.crown.slot.val ++
  " fw " ++ decText (bits v.1.toNat 31 24) ++ "." ++ decText (bits v.1.toNat 23 16) ++ "." ++ decText (bits v.1.toNat 15 0) ++
  " svn " ++ decText v.2

/-- The line of bus, share and demand. -/
def State.busLine (s : State) : String :=
  "bus " ++ fixText 1 (s.le.busMv.toNat / 100) ++ "V draw " ++ intText s.le.draw ++ "W demand " ++ intText s.le.demand ++ "W share " ++
  decText s.budget.share ++ "W cpeak " ++ decText s.cPeak ++ "W mode " ++ smoothText s.budget.smooth

/-- The line of a die. -/
def State.dieLine (s : State) (d : Fin 4) : String :=
  "die" ++ decText d.val ++ " op " ++ decText (s.pointOf d).val ++ " target " ++ fixText 3 s.power.cores[d].vop[s.pointOf d] ++ "V vout " ++
  fixText 3 s.power.rails[coreRail d].vout ++ "V phases " ++ decText (s.phases d) ++ "/26 temp " ++ intText (s.budget.dieTemps[d] / 16) ++ "C"

/-- The line of the store; an indicator that flashes for a drain is lit (R402). -/
def State.storeLine (s : State) : String :=
  "store " ++ storeText s.sap.state ++ " stack " ++ fixText 2 (s.sap.stackMv / 10) ++ "V energy " ++ fixText 1 (s.sap.presentJ / 100) ++ "/" ++
  fixText 1 (s.sap.usableJ / 100) ++ "kJ open_tap " ++ decText s.sap.openTap ++ " indicator " ++ (if s.sap.lit then "on" else "off")

/-- The line of Heartwood. -/
def State.hwdLine (s : State) : String :=
  let ok (b : Bool) : String := if b then "ok" else "fail"
  "hwd a " ++ ok s.hwd.chanA ++ " b " ++ ok s.hwd.chanB ++ " trips " ++ decText s.hwd.trips ++ " ceil_demand " ++ decText (10 * s.hwd.ceil[0]) ++ "W"

/-- The line of the coolant. -/
def State.coolantLine (s : State) : String :=
  "coolant in " ++ intText (s.budget.inlet / 16) ++ "C out " ++ intText (s.budget.outlet / 16) ++ "C"

/-- The line of a port. -/
def State.portLine (s : State) (p : Fin 20) : String :=
  let x := s.ports[p]
  "port" ++ decText p.val ++ " cause " ++ decText x.cause.toNat ++ " lanes " ++ decText x.lanes.toNat ++ " retrains " ++ decText x.retrainCount.toNat ++
  " crc " ++ decText x.crcErr.toNat

/-- The line of a rail. -/
def State.railLine (s : State) (r : Fin 11) : String :=
  let x := s.power.rails[r]
  railName r ++ " state " ++ railText x.state ++ " vout " ++ fixText 3 x.vout ++ "V current " ++ decText x.current ++ "A"

/-- The lines that `status` prints. -/
def State.statusLines (s : State) (part : StatusPart) : List String :=
  let dies := (List.finRange 4).map s.dieLine
  match part with
  | .all => [s.stageLine, s.busLine] ++ dies ++ [s.storeLine, s.hwdLine, s.coolantLine]
  | .die => dies
  | .store => [s.storeLine]
  | .hwd => [s.hwdLine]
  | .ports => (List.finRange 20).map s.portLine
  | .rails => (List.finRange 11).map s.railLine

/-! ## `log dump` (R557) -/

/-- Class letter of a record type (Table: Record types). -/
def classLetter (t : Nat) : String :=
  if [0x01, 0x02, 0x03, 0x74].contains t then "I"
  else if [0x06, 0x07, 0x10, 0x12, 0x13, 0x18, 0x23, 0x30, 0x33, 0x37, 0x41, 0x43, 0x44, 0x52, 0x53, 0x55, 0x60, 0x70, 0x76, 0x82, 0x83].contains t then "F"
  else "W"

/-- Types marked R in Table: Record types. -/
def repeatable (t : Nat) : Bool :=
  [0x05, 0x09, 0x0A, 0x16, 0x20, 0x21, 0x22, 0x32, 0x35, 0x36, 0x46, 0x54, 0x73, 0x80].contains t

/-- Names of the record types (Table: Record types). -/
def typeName (t : Nat) : String :=
  let names : List (Nat × String) :=
    [(0x01, "power-on"), (0x02, "log-cleared"), (0x03, "log-full"), (0x04, "records-lost"), (0x05, "brownout-warning"),
     (0x06, "brownout-reset"), (0x07, "stage-failure"), (0x08, "late-activation"), (0x09, "version-mismatch"), (0x0A, "locked-write"),
     (0x10, "uncorrectable-scratchpad"), (0x11, "tile-retirement"), (0x12, "replace-module"), (0x13, "uncorrectable-memory"),
     (0x14, "row-repair"), (0x15, "dram-sensor-failure"), (0x16, "throttle"), (0x17, "trunk-resistance"), (0x18, "canopy-failure")] ++
    [(0x20, "link-down"), (0x21, "digest-mismatch"), (0x22, "cable-warning"), (0x23, "fence"), (0x30, "converter-fault"),
     (0x31, "phase-fault"), (0x32, "hiccup"), (0x33, "rail-latch"), (0x34, "refused-tuning"), (0x35, "late-output"),
     (0x36, "loop-saturation"), (0x37, "loop-input-fault"), (0x40, "balancing-switch"), (0x41, "open-sense-wire"),
     (0x42, "service-request"), (0x43, "cell-fault"), (0x44, "monitor-fault"), (0x45, "store-end-of-life"), (0x46, "transient-reading")] ++
    [(0x50, "ageing"), (0x51, "manager-lost"), (0x52, "coolant-loss"), (0x53, "hold"), (0x54, "bus-dip"), (0x55, "quiesce-begun"),
     (0x60, "heartwood-trip"), (0x70, "configuration-lost"), (0x71, "image-fallback"), (0x72, "watchdog"),
     (0x73, "duplicate-zejor-address"), (0x74, "life-cycle"), (0x75, "refused-authorisation"), (0x76, "tamper"), (0x80, "sram-error"),
     (0x81, "sram-repair"), (0x82, "sram-failure"), (0x83, "secure-region-failure")]
  ((names.find? (fun e => e.1 == t)).map (fun e => e.2)).getD "reserved"

/-- Hours as hours:minutes:seconds.tenths. -/
def hoursText (h : Nat) : String :=
  decText (h / 36000) ++ ":" ++ padZero 2 (decText (h / 600 % 60)) ++ ":" ++ padZero 2 (decText (h / 10 % 60)) ++ "." ++ decText (h % 10)

/-- The line of one record at a partition offset, with the power-cycle count of the nearest power-on record, itself or before it (R536, R557). -/
def dumpLine (off cycles : Nat) (r : List Byte) : String :=
  let t := tfield r 1 1
  let rep := repeatable t
  let at_ := if rep then 16 else 8
  if recordGood r then
    padZero 6 (decText off) ++ " c" ++ decText (cycles / 256 * 256 + tfield r 2 1) ++ " " ++ hoursText (tfield r 4 4) ++ " " ++ classLetter t ++ " 0x" ++
    hexByte (BitVec.ofNat 8 t) ++ " " ++ typeName t ++ " s=" ++ decText (tfield r at_ 4) ++
    (if rep then " x" ++ decText (tfield r 8 4) ++ " last=" ++ hoursText (tfield r 12 4) else "") ++ " d=" ++ hexText (r.drop (at_ + 4))
  else "bad " ++ hexText r

/-- The power-cycle count after a record. -/
def cyclesAfter (cycles : Nat) (r : List Byte) : Nat := if recordGood r && tfield r 1 1 == 1 then tfield r 12 4 else cycles

/-- The records of some flash bytes from offset `p` on, each with its offset, with fuel (R536). -/
def placedRecords (l : List Byte) (p : Nat) : Nat → List (Nat × List Byte)
  | 0 => []
  | n + 1 => match l with
    | [] => []
    | b :: _ =>
      if b = 0xFF then []
      else if b = 0 then placedRecords (l.drop 8) (p + 8) n
      else (p, l.take (8 * (b.toNat % 64 + 1))) :: placedRecords (l.drop (8 * (b.toNat % 64 + 1))) (p + 8 * (b.toNat % 64 + 1)) n

/-- Lines of records in order; a power-on record carries its own full count (R536). -/
def dumpLines (cycles : Nat) : List (Nat × List Byte) → List String
  | [] => []
  | e :: rest => dumpLine e.1 (cyclesAfter cycles e.2) e.2 :: dumpLines (cyclesAfter cycles e.2) rest

/-- What `log dump` prints from an offset: the partition with what the forced flush has handed to the flash, the log-full record, and the
records still buffered, which are shown at the append point (R557; log 96). -/
def State.dump (s : State) (off : Nat) : List String :=
  let ends := s.crown.running && !s.hwd.brownout && s.log.mode != .flashFailed
  let l := fillAt (if ends then s.log.flash ++ s.log.program else s.log.flash.take s.log.append) s.log.fillers
  let before := (placedRecords l 0 (l.length / 8 + 1)).filter (fun e => decide (e.1 < off))
  let cycles := before.foldl (fun c e => cyclesAfter c e.2) 0
  let here := placedRecords (l.drop off) off (l.length / 8 + 1)
  let full := if s.log.tail.isEmpty then [] else [(logSize - 16, s.log.tail)]
  let left := (s.log.closed.filter (fun e => !ends || e.placed.isNone)).map (fun e => (l.length, e.what.bytes)) ++ s.log.opened.map (fun r => (l.length, r.bytes))
  dumpLines cycles (here ++ full ++ left)

end Sys2Proof.Machine
end

