-- ==== Sys2Proof/Machine/Spdm.lean ====
section
/-! DEFINITION. Attestation: the SPDM requests of the DOE mailboxes (R514–R517). The bytes of a response are those of DSP0274 version 1.2,
which the spec names: PRESUMED (log 93). -/

namespace Sys2Proof.Machine

open Sys2Proof

/-- An ERROR response of version 1.2. -/
def spdmError (code data : Nat) : List Byte := [0x12, 0x7F] ++ natLe 1 code ++ natLe 1 data

/-- Sends a response. -/
def State.spdmSay (s : State) (fn : Fn) (l : List Byte) : State := s.emit (.spdm fn l)

/-- DOE requests are served from Stage 2 on, while Crown runs and the port is up (R466, R515). -/
def State.doeServes (s : State) (fn : Fn) : Bool := s.host[fnIdx fn].up && s.enumerates && s.crown.running

/-- Replaces a function's SPDM state. -/
def State.setSpdm (s : State) (fn : Fn) (x : SpdmState) : State := { s with crown := { s.crown with spdm := s.crown.spdm.set (fnIdx fn) x } }

/-- No identity to attest with: BLANK, RETIRED, a failed secure region, or no wrapped key (R508, R514, R515, R533; log 108). -/
def State.noIdentity (s : State) : Bool :=
  decide (s.crown.life = .blank ∨ s.crown.life = .retired) || s.crown.secureBad || !s.crown.identity

/-- A request other than GET_VERSION: RequestResynch after a reset of the exchange (R517), Unspecified where there is no identity and the request
comes after GET_CAPABILITIES, in the list of R515 or in the exchange, and UnexpectedRequest out of its order (log 93). `later` tells that the
request is listed after GET_CAPABILITIES. -/
def State.spdm (s : State) (fn : Fn) (ready : SpdmState → Bool) (later : Bool) (run : State → State) : State :=
  if !s.doeServes fn then s
  else
    let x := s.crown.spdm[fnIdx fn]
    if x = .resynch then s.spdmSay fn (spdmError 0x43 0)
    else if s.noIdentity && (later || x == .capabilities || x == .algorithms) then s.spdmSay fn (spdmError 0x05 0)
    else if !ready x then s.spdmSay fn (spdmError 0x04 0)
    else run s

/-- The exchange has reached its algorithms. -/
def agreed (x : SpdmState) : Bool := x == .algorithms

/-- GET_VERSION (R515, R517): version 1.2. -/
def State.spdmVersion (s : State) (fn : Fn) : State :=
  if s.doeServes fn then (s.setSpdm fn .version).spdmSay fn ([0x10, 0x04, 0, 0, 0, 1] ++ natLe 2 0x1200) else s

/-- GET_CAPABILITIES (R515): CTExponent 20; CERT_CAP, CHAL_CAP, and MEAS_CAP with signatures. The two buffer sizes of the response are
stated nowhere (log 12). -/
def State.spdmCapabilities (s : State) (fn : Fn) : State :=
  s.spdm fn (· == .version) false (fun s =>
    let body : List Byte := [0x12, 0x61, 0, 0, 0, 20, 0, 0] ++ natLe 4 0x16 ++ s.freeBytes 8
    ((s.drawnN 8).setSpdm fn .capabilities).spdmSay fn body)

/-- The base asymmetric algorithm that Crown selects of those offered: RSASSA_3072 is bit 2 and RSAPSS_3072 bit 3; of two, the choice is free
(R515, log 12). -/
def State.pickAsym (s : State) (offered : BitVec 32) : Nat :=
  match offered.getLsbD 2, offered.getLsbD 3 with
  | true, true => if s.fresh.getLsbD 0 then 8 else 4
  | true, false => 4
  | false, true => 8
  | false, false => 0

/-- NEGOTIATE_ALGORITHMS (R515). -/
def State.spdmAlgorithms (s : State) (fn : Fn) (asym hash : BitVec 32) : State :=
  s.spdm fn (· == .capabilities) true (fun s =>
    let body : List Byte := [0x12, 0x63, 0, 0] ++ natLe 2 36 ++ [1, 0] ++ natLe 4 2 ++ natLe 4 (s.pickAsym asym) ++
      natLe 4 (b2n (hash.getLsbD 0)) ++ List.replicate 16 0
    ((s.drawn).setSpdm fn .algorithms).spdmSay fn body)

/-- The certificate chain of slot 0: its length, the digest of the root certificate, and the certificates (R514). -/
def State.chain (s : State) : List Byte := natLe 4 (36 + s.crown.cert.length) ++ natLe 32 Config.rootHash.toNat ++ s.crown.cert

/-- GET_DIGESTS (R514, R515). -/
def State.spdmDigests (s : State) (fn : Fn) : State :=
  s.spdm fn agreed true (fun s => s.spdmSay fn ([0x12, 0x01, 0, 1] ++ sha256 s.chain))

/-- GET_CERTIFICATE (R514, R515): slots 1–7 are empty. -/
def State.spdmCertificate (s : State) (fn : Fn) (slot : BitVec 4) (off len : BitVec 16) : State :=
  s.spdm fn agreed true (fun s =>
    let c := s.chain
    if slot ≠ 0 ∨ c.length ≤ off.toNat then s.spdmSay fn (spdmError 0x01 0)
    else
      let part := (c.drop off.toNat).take len.toNat
      s.spdmSay fn ([0x12, 0x02, 0, 0] ++ natLe 2 part.length ++ natLe 2 (c.length - off.toNat - part.length) ++ part))

/-- A nonce of Crown's and a signature with the identity key: 32 and 384 bytes that the spec cannot give (log 12). -/
def State.nonceAndTail (s : State) (middle : List Byte) (signed : Bool) : State × List Byte :=
  (s.drawnN 416, s.freeBytes 32 ++ middle ++ natLe 2 0 ++ if signed then (s.drawnN 32).freeBytes 384 else [])

/-- CHALLENGE (R515). The identity key is read from the secure region: an uncorrectable error there brings a wipe and a Crown restart, which leaves the
request without a response (R500, R522). -/
def State.spdmChallenge (s : State) (fn : Fn) (slot : BitVec 4) (sram : SramErr) : State :=
  s.spdm fn agreed true (fun s =>
    if slot ≠ 0 then s.spdmSay fn (spdmError 0x01 0)
    else
      let s := s.sramError (sramRow .secure) 0 sram
      if fatalSram sram then s.wipe.crownRestart
      else
        let t := s.nonceAndTail [] true
        t.1.spdmSay fn ([0x12, 0x03, 0, 1] ++ sha256 s.chain ++ t.2))

/-! ## Measurements (R516) -/

/-- Numbers of the retirement and repair maps, in order. -/
def State.mapNumbers (s : State) : List Nat :=
  s.retire.map.flatMap (fun e => [e.1, e.2]) ++ s.mem.rowMap.flatMap (fun e => [e.1, e.2]) ++
  s.sram.spares.flatMap (fun p => [p.mem, p.inst, p.bank, b2n p.isRow, p.index, b2n p.waiting])

/-- Value of a measurement block, with true for a raw value (Table: Measurement blocks). The order of the fields of block 3 is the model's
(log 93). -/
def State.measurement (s : State) (i : Nat) : Bool × List Byte :=
  let c := s.crown
  let v := s.imageVersion
  if i = 1 then (false, natLe 32 Config.bootRomDigest.toNat)
  else if i = 2 then (false, natLe 32 (c.image.elim 0 (fun x => x.digest.toNat)))
  else if i = 3 then (true, natLe 4 v.1.toNat ++ natLe 2 v.2 ++ natLe 1 c.slot.val ++ natLe 1 (b2n c.trial) ++ natLe 4 c.fused)
  else if i = 4 then (true, natLe 1 (lifeCode c.life) ++ natLe 32 (c.owner.elim 0 (fun h => h.toNat)) ++ natLe 4 s.hwd.tampers.toNat)
  else if i = 5 then (true, natLe 8 s.fleet.epoch.toNat ++ natLe 32 s.fleet.digest.toNat)
  else (false, natLe 32 (Config.mapDigest s.mapNumbers).toNat)

/-- DMTF type of a block's value: 0 immutable ROM, 1 mutable firmware, 3 firmware configuration. -/
def measureType (i : Nat) : Nat := if i = 1 then 0 else if i = 2 then 1 else 3

/-- A measurement block in DMTF form. -/
def State.block (s : State) (i : Nat) : List Byte :=
  let v := s.measurement i
  natLe 1 i ++ [1] ++ natLe 2 (v.2.length + 3) ++ natLe 1 (measureType i + 128 * b2n v.1) ++ natLe 2 v.2.length ++ v.2

/-- GET_MEASUREMENTS (R516): index 0 asks for the number of blocks, 0xFF for all of them. -/
def State.spdmMeasurements (s : State) (fn : Fn) (index : BitVec 8) (signed : Bool) : State :=
  s.spdm fn agreed true (fun s =>
    let i := index.toNat
    if 6 < i ∧ i ≠ 255 then s.spdmSay fn (spdmError 0x01 0)
    else
      let which := if i = 0 then [] else if i = 255 then [1, 2, 3, 4, 5, 6] else [i]
      let blocks := which.flatMap s.block
      let t := s.nonceAndTail [] signed
      t.1.spdmSay fn ([0x12, 0x60] ++ natLe 1 (if i = 0 then 6 else 0) ++ [0] ++ natLe 1 which.length ++ natLe 3 blocks.length ++ blocks ++ t.2))

/-- A request other than the seven is answered ERROR UnsupportedRequest, or as every other where there is no identity (R515). -/
def State.spdmOther (s : State) (fn : Fn) (code : BitVec 8) : State :=
  s.spdm fn (fun _ => true) true (fun s => s.spdmSay fn (spdmError 0x07 code.toNat))

/-! ## The requests, and those that a wipe holds up (R534) -/

/-- Crown serves a request. -/
def State.serveSpdm (s : State) (fn : Fn) (r : SpdmRequest) : State :=
  match r with
  | .version => s.spdmVersion fn
  | .capabilities => s.spdmCapabilities fn
  | .algorithms asym hash => s.spdmAlgorithms fn asym hash
  | .digests => s.spdmDigests fn
  | .certificate slot off len => s.spdmCertificate fn slot off len
  | .challenge slot sram => s.spdmChallenge fn slot sram
  | .measurements index signed => s.spdmMeasurements fn index signed
  | .other code => s.spdmOther fn code

/-- A request arrives; during a wipe it waits for the wipe's last step (R534). -/
def State.askSpdm (s : State) (fn : Fn) (r : SpdmRequest) : State :=
  if s.doeServes fn && s.wiping then { s with crown := { s.crown with asked := s.crown.asked ++ [(fn, r)] } } else s.serveSpdm fn r

/-- The requests that waited are served, first come first, unless one of them stops Crown or brings another wipe. -/
def State.serveAsked : List (Fn × SpdmRequest) → State → State
  | [], s => s
  | e :: rest, s => serveAsked rest (s.askSpdm e.1 e.2)

/-- GET_VERSION (R515, R517, R534). -/
def execGetVersion (fn : Fn) (s : State) : Answer := .next (s.askSpdm fn .version)

/-- GET_CAPABILITIES (R515, R534). -/
def execGetCapabilities (fn : Fn) (s : State) : Answer := .next (s.askSpdm fn .capabilities)

/-- NEGOTIATE_ALGORITHMS (R515, R534). -/
def execNegotiateAlgorithms (fn : Fn) (asym hash : BitVec 32) (s : State) : Answer := .next (s.askSpdm fn (.algorithms asym hash))

/-- GET_DIGESTS (R514, R515, R534). -/
def execGetDigests (fn : Fn) (s : State) : Answer := .next (s.askSpdm fn .digests)

/-- GET_CERTIFICATE (R514, R515, R534). -/
def execGetCertificate (fn : Fn) (slot : BitVec 4) (off len : BitVec 16) (s : State) : Answer := .next (s.askSpdm fn (.certificate slot off len))

/-- CHALLENGE (R515, R522, R534). -/
def execChallenge (fn : Fn) (slot : BitVec 4) (_nonce : BitVec 256) (sram : SramErr) (s : State) : Answer :=
  .next (s.askSpdm fn (.challenge slot sram))

/-- GET_MEASUREMENTS (R516, R534). -/
def execGetMeasurements (fn : Fn) (index : BitVec 8) (signed : Bool) (_nonce : BitVec 256) (s : State) : Answer :=
  .next (s.askSpdm fn (.measurements index signed))

/-- SPDM_UNSUPPORTED_REQUEST (R515, R534). -/
def execSpdmUnsupportedRequest (fn : Fn) (code : BitVec 8) (s : State) : Answer :=
  .next (if [0x81, 0x82, 0x83, 0x84, 0xE0, 0xE1, 0xE3].contains code.toNat then s else s.askSpdm fn (.other code))

end Sys2Proof.Machine
end

