-- ==== Sys2Proof/Machine/Marches.lean ====
section
/-! DEFINITION. Marches under way: the daily march, the console's, and what the end of each brings (R526–R531, R558). -/

namespace Sys2Proof.Machine

open Sys2Proof

/-- A march is under way. -/
def State.marchRuns (s : State) (mem inst : Nat) : Bool := s.sram.marches.any (fun k => k.mem == mem && k.inst == inst)

/-- A march begins. -/
def State.beginMarch (s : State) (m : March) : State :=
  if s.marchRuns m.mem m.inst then s else { s with sram := { s.sram with marches := s.sram.marches ++ [m] } }

/-- Sites of the enabled tiles of a stack region. -/
def State.regionSites (s : State) (region : Nat) : List Nat :=
  ((List.range 128).filter (fun i => !(s.tile (128 * region + i)).fenced)).map (fun i => s.siteOf (128 * region + i))

/-- DAILY_TRANSPARENT_MARCH (R526, R528): the scratchpads of a region's enabled tiles, region by region. -/
def execDailyTransparentMarch (region : Fin 20) (s : State) : Answer :=
  .next (if s.stage = .stage3 ∧ s.crown.running ∧ s.sram.daily = region.val then
    let s := (s.regionSites region.val).foldl (fun (s : State) (i : Nat) => s.beginMarch { mem := 0, inst := i, transparent := true }) s
    { s with sram := { s.sram with daily := (region.val + 1) % 20 } }
  else s)

/-- The destructive march of a tile's last memory has ended, and its self-test: a failure marks the tile, the scratchpad is cleared, and
the fence lifts unless the tile is marked (R49, R64, R527). -/
def State.tileTested (s : State) (site t : Nat) (selfTestOk : Bool) : State :=
  let sound := !s.sram.bad.any (fun k => k % 4096 == site && decide (k / 4096 < 3))
  let s := if selfTestOk then s else s.failSite site
  let x := s.tile t
  let s := s.setTile t { x with
    pad := [], padBad := [], marching := false, fenced := x.retireCause != 0, icacheValid := false }
  if s.svc.test = some (.tile t) then s.endTest [(sound, " memories"), (selfTestOk, " self-test")] else s

/-- Every record of the partition is good (R558). -/
def LogState.allGood (l : LogState) : Bool := l.records.all recordGood

/-- What `test log` prints: the records of each class, the append point, and the bytes free (R558). -/
def LogState.testText (l : LogState) : String :=
  let n (c : String) : String := " " ++ c ++ " " ++ decText (l.records.countP (fun r => classLetter (tfield r 1 1) == c))
  n "F" ++ n "W" ++ n "I" ++ " append " ++ decText l.content.length ++ " free " ++ decText (logSize - l.content.length)

/-- The march of a console command has ended: `test log` fails on any fault of the buffer (R555, R558). -/
def State.marchTested (s : State) (mem inst : Nat) (unrepairable faulty : Bool) : State :=
  match s.svc.test with
  | some (.march m i) => if m = mem ∧ i = inst then s.endTest [(!unrepairable, "")] else s
  | some .log =>
    if mem = sramRow .log then s.endTest [(!faulty, " buffer"), (s.log.allGood, " records" ++ s.log.testText)] else s
  | _ => s

/-- The loop engine's memories have become unrepairable while it runs: the loop engine is lost (R21, R531). -/
def State.loseLoop (s : State) (m : SramKind) : State := if m = .loop ∧ s.le.ok then s.stopEngine.reviewCaps else s

/-- A TRANSPARENT march corrects the correctable errors that it meets first: one of a scratchpad word as under R54, one of another memory's word as
under R522, whose bank and row the word's number gives (R525; log 212). -/
def State.marchCorrects (s : State) (m : SramKind) (inst : Nat) (words : List Nat) : State :=
  words.foldl (fun (s : State) (w : Nat) =>
    if m = .scratchpad then
      match s.siteUse inst with
      | .tile t => s.padCorrect t (w % 32768)
      | _ => s
    else s.sramError (sramRow m) inst { kind := .correctable, bank := BitVec.ofNat 16 (w / 1024), row := BitVec.ofNat 16 (w % 1024) }) s

/-- Crown's working SRAM or the ring log buffer is unrepairable before the firmware of a power-on has run: Stage 1 fails (R531). -/
def State.bootFails (s : State) (m : SramKind) : State :=
  if (m = .crown ∨ m = .log) ∧ s.crown.running = false ∧ s.stage = .stage1 then s.failUnlisted 1 else s

/-- ZERO_CHECK has ended a wipe: the region has failed, or Crown unwraps the identity key; requests that waited are served (R533, R534). -/
def State.endWipe (s : State) (inst : Nat) (cells : List FailCell) : State :=
  let s := if s.notZero inst cells then s.unrepairable .secure 0 else s
  if !s.crown.running then s
  else
    let s := s.unwrapKey
    let asked := s.crown.asked
    let s := State.serveAsked asked { s with crown := { s.crown with asked := [] } }
    match s.svc.test with
    | some .secure => s.endCommand (if s.crown.secureBad then 6 else 0)
    | some (.authWait bytes passes) =>
      if s.wiping then s else ({ s with svc := { s.svc with test := none } } : State).useTyped bytes (fun s t => s.typedAction passes t)
    | _ => s

/-- The march of a memory ends: corrected words, repairs, and what an unrepairable memory brings (R525, R529–R531). -/
def State.endMarch (s : State) (m : SramKind) (inst : Nat) (cells : List FailCell) (corr : List Nat) (transparent selfTestOk : Bool) : State :=
  let s := if transparent then s.marchCorrects m inst corr else s
  let faulty := !(s.findCells m inst cells transparent).2.isEmpty
  let r := s.repair m inst cells transparent
  let s := if r.2 then ((r.1.unrepairable m inst).loseLoop m).bootFails m else r.1
  let s := if transparent then s.marchTested (sramRow m) inst r.2 faulty else s
  match s.siteUse inst with
  | .tile t =>
    if !transparent && decide (sramRow m < 3) && !s.sram.marches.any (fun k => k.inst == inst && decide (k.mem < 3) && !k.transparent) then
      s.tileTested inst t selfTestOk
    else s
  | _ => s

/-- A march may end now: one of a tile under test has begun only once the tile is in no running launch (R527). -/
def State.mayEnd (s : State) (k : March) : Bool :=
  if k.transparent || decide (3 ≤ k.mem) then true
  else match s.siteUse k.inst with
    | .tile t => (s.tile t).marching
    | _ => true

/-- MARCH_END (R525, R527, R529–R531, R533, R558): of the secure region's marches MARCH_C ends before ZERO_CHECK; `selfTestOk` is the outcome of the logic self-test that follows the last march of `test tile`. -/
def execMarchEnd (mem : SramKind) (inst : Nat) (cells : List FailCell) (corr : List Nat) (selfTestOk : Bool) (s : State) : Answer :=
  .next (match s.sram.marches.find? (fun k => k.mem == sramRow mem && k.inst == inst) with
  | none => s
  | some k =>
    if !s.mayEnd k then s
    else
      let s : State := { s with sram := { s.sram with marches := s.sram.marches.erase k } }
      if k.zero then s.endWipe inst cells else s.endMarch mem inst cells corr k.transparent selfTestOk)

end Sys2Proof.Machine
end

