-- ==== Sys2Proof/Machine/Startup.lean ====
section
/-! DEFINITION. Power-on, Stages 0 to 3 and the Stage 3 entry, clock failures, the seal and the saved hours
(16_startup_clocks.md). -/

namespace Sys2Proof.Machine

open Sys2Proof

/-! ## The tray and the bus (R312, R313, R461) -/

/-- BUS_CONTACTS_MAKE (R461). -/
def execBusContactsMake (s : State) : Answer :=
  .next { s with hwd := { s.hwd with startPath := s.hwd.prsA && s.hwd.prsB } }

/-- PRESENCE_PIN_LOW (R313, R461). -/
def execPresencePinLow (pinB : Bool) (s : State) : Answer :=
  let h := { s.hwd with prsA := s.hwd.prsA || !pinB, prsB := s.hwd.prsB || pinB }
  .next { s with hwd := { h with startPath := h.prsA && h.prsB } }

/-- PRESENCE_SETTLED (R313). -/
def execPresenceSettled (s : State) : Answer :=
  .next (if s.hwd.prsA ∧ s.hwd.prsB then { s with hwd := { s.hwd with settled := true } } else s)

/-! ## Power-on (R459–R462, R474) -/

/-- The store where its record and the bleed path alone decide its state: LOCKED_OUT by a recorded lockout, otherwise DRAINING while the
bleed runs, DRAINED once it has switched itself off, ISOLATED in every other case (R403). -/
def Store.recorded (x : Store) (lock : Option Lockout) : Store :=
  { x with
    lockout := lock
    drain := if lock.isNone && x.bleed then some { fromLocked := false, lockArose := false, returning := false, watts := 0, slope := 0 } else none
    state := if lock.isSome then .lockedOut else if x.bleed then .draining else if x.drained then .drained else .isolated }

/-- The store at a power-on: a precharge latch is cleared; a lockout of the configuration partition, a bleed that runs, an open tap and the
DRAINED state are kept (R389, R398, R399, R403). -/
def Store.atPowerOn (x : Store) : Store :=
  ({ Store.reset with
    bleed := x.bleed, drained := x.drained, openTap := x.openTap, lit := x.lit
    cells := x.cells.map (fun (c : Cell) => { Cell.reset with inPair := c.inPair, dis := c.inPair && c.dis }) }).recorded
      (if x.lockout = some Lockout.precharge then none else x.lockout)

/-- Crown at a power-on: what flash and fuses hold; the SERVICE state ends (R474, R485, R508, R509). -/
def Crown.atPowerOn (c : Crown) : Crown :=
  { Crown.reset with
    active := c.active, pendingSlot := c.pendingSlot, slots := c.slots, fused := c.fused, copies := c.copies
    life := if c.life = .service then .deployed else c.life
    owner := c.owner, identity := c.identity, cert := c.cert
    notes := if c.life = .service then [CrownNote.serviceEnd] else [] }

/-- A tile at a power-on: its fence and its mark come from the maps (R65, R70). -/
def Tile.atPowerOn (x : Tile) : Tile := { Tile.fresh with fenced := x.retireCause != 0, retireCause := x.retireCause }

/-- Every block is reset; flash, fuses, AON's hours and the stack-powered circuits keep theirs, and so does CLK_STICKY at the start after a
Heartwood reset, whose domain has not lost power (R12, R452, R460, R462, R474; log 168). -/
def State.powerOn (s : State) : State :=
  let h := s.hwd
  let r := State.reset
  { r with
    pending := s.pending, free := s.free, out := s.prompt.out
    regs := if s.start.hwdReset then s.regs.filter (fun e => e.1 == clkSticky) else []
    stage := .stage0
    clk := { Clocks.reset with refOk := true, cycles := s.clk.cycles + 1, hours := h.savedHours }
    tiles := (s.tiles.filter (fun (e : Nat × Tile) => e.2.retireCause != 0)).map (fun (e : Nat × Tile) => (e.1, e.2.atPowerOn))
    mem := { MemState.reset with rowMap := s.mem.rowMap, repairs := s.mem.repairs, sparesUsed := s.mem.sparesUsed, noSpare := s.mem.noSpare }
    retire := s.retire
    host := s.host.map (fun (x : HostPort) => { HostPort.reset with perst := x.perst })
    log := { LogState.reset with flash := s.log.flash, tail := s.log.tail, clear := s.log.clear }
    ports := s.ports.map (fun (x : Port) => { Port.reset with present := x.present, power := x.power, limited := x.limited })
    fleet := { Fleet.reset with epoch := s.fleet.epoch, digest := s.fleet.digest, blocks := s.fleet.blocks }
    sap := s.sap.atPowerOn
    budget := { Budget.reset with trim := s.budget.trim }
    hwd := { Hwd.reset with
      chanA := true, chanB := true, prsA := h.prsA, prsB := h.prsB, settled := h.settled, startPath := h.startPath, busGood := true
      mem := h.mem, mark := h.mark, savedHours := h.savedHours, tampers := h.tampers }
    start := { Startup.reset with kind := b2n s.start.hwdReset }
    sram := { r.sram with spares := s.sram.spares }
    crown := s.crown.atPowerOn
    svc := { Console.reset with ready := true } }

/-- POWER_ON (R440, R459–R462, R468, R474): VAUX has held for 10 ms. Fuse reads that differ record trip 0x20 and hold the module in
Stage 0. -/
def execPowerOn (f : FuseRead) (s : State) : Answer :=
  .next (if s.stage ≠ .unpowered ∨ !s.hwd.startPath then s
  else
    let s := s.powerOn
    if f.differ then ({ s with hwd := { s.hwd with fuseBad := true } }).trip 0x20 0 else s)

/-! ## Stages 1 and 2 (R463, R464, R468, R563) -/

/-- Neither copy of the configuration partition passes its check: the maps are empty, the trims zero, no lockout, no blocks and no keys; the
life-cycle state is read as PROVISIONED unless fuses say otherwise, so that Crown knows of no SERVICE state that the power-on has ended (R403,
R485, R486, R508; log 108). Tiles without power hold nothing else. -/
def State.loseConfig (s : State) : State :=
  let c := s.crown
  { s with
    retire := Retirement.reset
    tiles := []
    mem := { s.mem with rowMap := [], repairs := [] }
    sram := { s.sram with spares := [] }
    fleet := { s.fleet with epoch := 0, digest := 0, blocks := none }
    budget := { s.budget with trim := Vector.replicate 4 0 }
    sap := s.sap.recorded none
    log := { s.log with clear := none }
    crown := { c with
      lost := true, notes := c.notes.filter (fun n => n != .serviceEnd) ++ [.configLost], owner := none, identity := false, cert := []
      life := if c.life = .deployed ∨ c.life = .service then .provisioned else c.life } }

/-- The life-cycle state that a copy of the configuration partition gives: DEPLOYED and SERVICE are read from it where its record passes
Crown's own check, the rest from fuses; SERVICE has ended with the power-on (R508, R509). -/
def lifeFrom (fused : Life) (p : ConfigPart) (lifeGood : Bool) : Life :=
  match fused with
  | .blank => .blank
  | .retired => .retired
  | _ => if lifeGood && decide (p.life = .deployed ∨ p.life = .service) then .deployed else .provisioned

/-- Crown takes its configuration from a copy of the partition (R403, R485, R486, R508); a copy written after a loss still says so until the loss is
acknowledged (log 108). Tiles without power hold nothing but their marks. -/
def State.loadConfig (s : State) (p : ConfigPart) (lifeGood : Bool) : State :=
  let c := s.crown
  let lock := if p.lockout = some Lockout.precharge then none else p.lockout
  let life := lifeFrom c.life p lifeGood
  { s with
    retire := p.retire
    tiles := p.marks.map (fun (e : Nat × Nat) => (e.1, ({ Tile.fresh with retireCause := e.2 } : Tile).atPowerOn))
    mem := { s.mem with rowMap := p.rowMap, repairs := p.repairs, sparesUsed := p.sparesUsed, noSpare := p.noSpare }
    sram := { s.sram with spares := p.spares }
    fleet := { s.fleet with epoch := p.epoch, digest := p.digest, blocks := p.blocks }
    budget := { s.budget with trim := p.trim }
    sap := if s.sap.lockout = lock then s.sap else s.sap.recorded lock
    log := { s.log with clear := p.clear }
    crown := { c with
      lost := p.lost, life := life, owner := if life = .deployed then p.owner else none, identity := p.identity, cert := p.cert
      notes := c.notes.filter (fun n => n != .serviceEnd) ++
        (if life = .deployed ∧ p.life = .service then [CrownNote.serviceEnd] else []) } }

/-- The configuration at Stage 1 (R486): of the copies that are whole and whose check passes, the one with the higher sequence number; a copy
that fails is no copy from then on. -/
def State.takeConfig (s : State) (passes : BitVec 2) (lifeGood : Bool) : State :=
  let v : Vector (Option ConfigCopy) 2 := Vector.ofFn (fun k => if passes[k] then s.crown.copies[k] else none)
  let s : State := { s with crown := { s.crown with copies := v } }
  match (newestCopy v).bind (fun n => v[n]) with
  | some x => s.loadConfig x.part lifeGood
  | none => s.loseConfig

/-- STAGE_1_START (R319, R462, R486, R489, R526, R563): slot_id is latched, the configuration partition is read, and Crown's ROM is released; a
break throughout Stage 0 holds the module at the end of Stage 1. -/
def execStage1Start (slotId : BitVec 6) (rxBreak : Bool) (passes : BitVec 2) (lifeGood : Bool) (s : State) : Answer :=
  .next (if s.stage ≠ .stage0 ∨ s.hwd.fuseBad ∨ s.hwd.clockBad then s
  else
    ({ s.takeConfig passes lifeGood with
      stage := .stage1
      start := { s.start with slotId := slotId }
      svc := { s.svc with held := rxBreak } }).bootRom false)

/-- The boot ROM can hand over to the firmware: an image has been selected, the marches of Crown's memories have ended, and its working SRAM and the
ring log buffer work (R489, R526, R531). -/
def State.bootable (s : State) : Bool :=
  !s.crown.running && !s.crown.rom && decide (s.stage ≠ .unpowered ∧ s.stage ≠ .stage0) && s.sram.marches.all (fun k => decide (k.mem < 7)) &&
  !s.memBad .crown && !s.memBad .log

/-- FIRMWARE_RUNNING (R414, R447, R463, R475, R489, R500, R513, R544). -/
def execFirmwareRunning (s : State) : Answer := .next (if s.bootable then s.startFirmware else s)

/-- MONITOR_WAKE_TIMEOUT (R459, R468). -/
def execMonitorWakeTimeout (s : State) : Answer :=
  .next (if s.stage = .stage1 ∧ s.crown.running then { s with start := { s.start with monitorDone := true } } else s)

/-- The store needs no more time in Stage 2: it is CONNECTED or LOCKED_OUT (R459). -/
def State.storeSettled (s : State) : Bool := decide (s.sap.state = .connected ∨ s.sap.state = .lockedOut)

/-- Stage 2 begins: the input switch closes, where Heartwood may assert it (R438, R561), the 12 V rail starts unless it is on, and the balancing switch test falls due (R395, R464). -/
def State.beginStage2 (s : State) : State :=
  let loop : March := { mem := sramRow .loop, inst := 0, transparent := false }
  let s : State := { s with
    stage := .stage2
    hwd := { s.hwd with inputClosed := s.hwd.inputClosed || s.mayEnable, holdReq := s.hwd.holdReq && s.budget.hold }
    sap := { s.sap with testDue := true }
    le := { s.le with released := s.le.ok }
    sram := if s.le.ok then s.sram
      else { s.sram with marches := s.sram.marches ++ [loop], bad := s.sram.bad.filter (fun k => decide (k / 4096 ≠ 6)) }
    start := { s.start with storeDone := s.storeSettled, dies := Vector.replicate 4 .waiting, retry := false } }
  (if s.le.ok then s.setPhase .startup else s).enableRail 9

/-- STAGE_2_START (R313, R395, R463, R464, R508, R526, R563). -/
def execStage2Start (s : State) : Answer :=
  .next (if s.stage = .stage1 ∧ s.crown.running ∧ s.start.monitorDone ∧ s.hwd.settled ∧ !s.svc.held ∧ s.crown.life ≠ .retired ∧ s.mayEnable
  then s.beginStage2
  else s)

/-- STORE_CONNECT_TIMEOUT (R459, R468). -/
def execStoreConnectTimeout (s : State) : Answer :=
  .next (if s.stage = .stage2 then { s with start := { s.start with storeDone := true } } else s)

/-! ## Stage 3 entry (R465) -/

/-- Stage 2 has ended: its rails are power-good, the store is settled, no abandoned entry waits, and no lost configuration is
unacknowledged; the loop engine is released unless its memory is unrepairable (R459, R464, R481, R486, R531). -/
def State.stage2Done (s : State) : Bool :=
  decide (s.stage = .stage2) && s.crown.running && s.railsGood && decide (s.power.rails[9].state = .on) && s.start.storeDone &&
  !s.start.retry && !s.crown.lost && (s.le.released || s.memBad .loop)

/-- STAGE_3_ENTRY (R459, R465, R486, R500): the Berux ports stay DISABLED until a host enables them. -/
def execStage3Entry (s : State) : Answer :=
  .next (if s.stage2Done then
    let s := s.stopRings.portsOff
    { s with
      stage := .entry
      canopy := { s.canopy with edgeStatus := 0 }
      sram := { s.sram with
        marches := s.sram.marches.filter (fun (k : March) => decide (k.mem ≠ 6) || k.transparent)
        bad := s.sram.bad.filter (fun k => decide (6 ≤ k / 4096)) }
      ports := s.ports.map (fun (x : Port) => { x with broken := false })
      start := { s.start with dies := Vector.replicate 4 .waiting } }
  else s)

/-- Every die before d has started (R465). -/
def State.earlierStarted (s : State) (d : Fin 4) : Bool :=
  (List.finRange 4).all (fun k => decide (d ≤ k) || decide (s.start.dies[k] ≠ .waiting))

/-- DIE_BRINGUP_START (R348, R464, R465): the pins are driven to OP0, and VCORE_d is enabled, which VDRAM and VLINK_d must carry. -/
def execDieBringupStart (d : Fin 4) (s : State) : Answer :=
  .next (if s.stage ≠ .entry ∨ s.start.dies[d] ≠ .waiting ∨ !s.earlierStarted d then s
  else
    let t := { s with start := { s.start with dies := s.start.dies.set d .rail } }
    if t.railReady (coreRail d) then
      (({ t with hwd := { t.hwd with dieEn := t.hwd.dieEn.set d true } }).askPins d 0).enableRail (coreRail d)
    else s)

/-- ROOT_PLL_LOCK (R465, R471): the time stamp counter is loaded from the REF count, and the clocks start with CORE_d at /20. -/
def execRootPllLock (d : Fin 4) (s : State) : Answer :=
  .next (if s.start.dies[d] ≠ .locking ∨ !s.clk.refOk then s
  else { s with
    clk := { s.clk with pll := s.clk.pll.set d true, div := s.clk.div.set d 20, stamp := s.clk.stamp.set d s.time }
    start := { s.start with dies := s.start.dies.set d .training } })

/-- ROOT_PLL_LOCK_TIMEOUT (R468). -/
def execRootPllLockTimeout (d : Fin 4) (s : State) : Answer :=
  .next (if s.start.dies[d] = .locking then s.failStart 3 7 else s)

/-- A stack has failed its channel training or its test in a start: it is reported with the die above it (R124, R580). -/
def State.stackFailsTest (s : State) (st : Fin 20) : State :=
  let s := { s with mem := { s.mem with failedStacks := s.mem.failedStacks ||| (1#32 <<< st.val) } }
  let s := (s.flag memErr 3).record 0x12 .fault false st.val [3]
  (s.report 2 (0x2000 + st.val)).report 2 (0x1000 + st.val / 5)

/-- The marches and the self-test of a die's tile sites (R64, R69, R526, R529). -/
def State.testSites (s : State) (r : BringupResult) : State :=
  let s := r.marches.foldl (fun (s : State) (m : MarchResult) => s.marched m.mem m.inst m.cells false) s
  let s := r.tiles.foldl (fun (s : State) (t : Fin 2560) => s.failSite (s.siteOf t.val)) s
  r.spares.foldl (fun (s : State) (row : Fin 80) => s.failSite (row.val * 33 + 32)) s

/-- Failed links of an edge take its spares, or fail it (R154, Table: CNP_EDGE_STATUS fields). A failed spare counts as a failed link of its
edge (log 179). -/
def State.spareEdge (s : State) (edges : List (Fin 4 × Fin 35)) (e : Fin 4) : State :=
  let old := s.canopy.edgeStatus.toNat
  let n := bits old (2 * e.val + 1) (2 * e.val) + edges.countP (fun x => x.1 == e && linkExists (.edge x.1 x.2))
  let v := old - bits old (2 * e.val + 1) (2 * e.val) * 4 ^ e.val
  let v := if n ≤ 2 then v + n * 4 ^ e.val else v + 2 * 4 ^ e.val + (if bit old (16 + e.val) then 0 else 2 ^ (16 + e.val))
  { s with canopy := { s.canopy with edgeStatus := BitVec.ofNat 32 v } }

/-- A tile as Stage 3 begins: scratchpad and threads cleared, its fence kept (R49, R65). -/
def Tile.atStage3 (x : Tile) : Tile :=
  { Tile.fresh with fenced := x.retireCause != 0, retireCause := x.retireCause, padCeTimes := x.padCeTimes }

/-- The end of an entry is recorded: CLK_RESET_CAUSE, in which a retry after an abandoned entry is a kind of its own and no restart, and the engine's
phase, recovery after a restart or re-entry (R479, R480, R482). -/
def State.noteEntry (s : State) : State :=
  let st := s.start
  match st.pendingKind with
  | some k =>
    ({ s with start := { st with
      kind := if st.retried then 7 else k, restarts := min 65535 (st.restarts + 1), pendingKind := none, retried := false } }).setPhase .recovery
  | none => ({ s with start := { st with kind := if st.retried then 7 else st.kind, retried := false } }).setPhase .service

/-- Steps 6 to 8: what is pending is applied, device memory stands zeroed, every scratchpad is cleared, the ports' counters start, and the
module enters Stage 3 (R269, R67, R122, R125, R465, R502, R530, R579). -/
def State.enterStage3 (s : State) : State :=
  let s := s.applyRemap
  let s := { s with
    stage := .stage3
    tiles := s.tiles.map (fun (e : Nat × Tile) => (e.1, e.2.atStage3))
    mem := { s.mem with
      dram := [], bad := [], reqs := [], tracker := [], openRow := [], ceTotal := 0, ueTotal := 0, patrol := [], postponed := [], refreshed := [] }
    canopy := { s.canopy with flits := [], retryTotal := 0, stallTotal := 0, replays := [], failed := [] }
    ports := s.ports.map (fun (x : Port) => { x with
      fecCorr := 0, fecUncorr := 0, crcErr := 0, replays := 0, retrainCount := 0, downCount := 0, addrErr := 0, sbDrop := 0 })
    sram := { s.sram with spares := s.sram.spares.map (fun (p : Spare) => { p with waiting := false }) }
    le := { s.le with slots := s.le.slots.map (fun (x : Slot) => { x with delayMax := 0 }) }
    hq := { s.hq with stopped := false }
    start := { s.start with abandoned := 0, retry := false, restarting := false }
    budget := { s.budget with stopped := none, granted := Vector.replicate 4 0, lingering := Vector.replicate 4 false } }
  let s := s.noteEntry.applyLate
  match s.budget.waiting with
  | some (w, m, src) => s.putShare w m src
  | none => s

/-- DIE_BRINGUP_DONE (R64, R69, R124, R125, R130, R154, R465, R468, R526, R529, R531): a die has trained its channels, tested its stacks, its
tiles and its edges, and Crown has measured its trunk; the last one ends the entry. -/
def execDieBringupDone (d : Fin 4) (r : BringupResult) (s : State) : Answer :=
  .next (if s.stage ≠ .entry ∨ s.start.dies[d] ≠ .training then s
  else
    let failed := (r.untrained ++ r.failedStacks).eraseDups
    let s := failed.foldl State.stackFailsTest s
    let s := { s with mem := { s.mem with trunkBase := s.mem.trunkBase.set d (some r.trunk), trunk := s.mem.trunk.set d (some r.trunk), trunkHigh := s.mem.trunkHigh.set d false } }
    let s := s.testSites r
    let s := (List.finRange 4).foldl (fun (s : State) (e : Fin 4) => s.spareEdge r.edges e) s
    if !failed.isEmpty ∨ s.memBad .collective ∨ s.memBad .queue ∨ bits s.canopy.edgeStatus.toNat 19 16 ≠ 0 then
      s.failStart 3 7
    else
      let s := { s with start := { s.start with dies := s.start.dies.set d .done } }
      if s.start.dies.toList.all (fun x => decide (x = .done)) then s.enterStage3 else s)

/-- ENTRY_RETRY (R330, R481): the bus has held, and at least two converters work. -/
def execEntryRetry (s : State) : Answer :=
  .next (if s.stage = .stage2 ∧ s.start.retry ∧ s.busBack ∧ s.crown.running ∧ s.mayEnable then
    ({ s with start := { s.start with retried := true } }).beginStage2
  else s)

/-! ## Clock failures (R473) -/

/-- A die whose root PLL has lost lock is lost as a compute die, and that goes into the ring log too, in a record whose type no table lists: it is a
free value (R21, R473; log 192). -/
def State.losePll (s : State) (d : Fin 4) : State := (s.drawn.record (s.fresh.toNat % 256) .fault false d.val []).loseDie d

/-- ROOT_PLL_UNLOCK (R21, R473): the die is lost as a compute die; in a start, the start fails (R468). -/
def execRootPllUnlock (d : Fin 4) (s : State) : Answer :=
  .next (if !s.clk.pll[d] then s
  else
    let s := s.flag clkErr 2
    if s.stage = .entry then (s.dieOff d).failStart 3 7 else s.losePll d)

/-- REF_LOSS (R468, R473): every die is lost, the CROWN PLL holds over, and the module has failed. -/
def execRefLoss (s : State) : Answer :=
  .next (if s.stage = .unpowered ∨ !s.clk.refOk then s
  else
    let s := { s with clk := { s.clk with refOk := false, holdover := true } }.flag clkErr 1
    let s := (List.finRange 4).foldl (fun (s : State) (d : Fin 4) => if s.clk.pll[d] then (s.flag clkErr 2).losePll d else s) s
    if s.stage = .failed then s
    else s.failUnlisted (if s.stage = .stage0 then 0 else if s.stage = .stage1 then 1 else if s.stage = .stage2 then 2 else 3))

/-- REF_RECOVERY (R473). -/
def execRefRecovery (s : State) : Answer :=
  .next (if s.stage = .unpowered ∨ s.clk.refOk then s
  else { s with clk := { s.clk with refOk := true, holdover := false, refGoodSince := s.clk.refCount.toNat } })

/-! ## The hours (R482) -/

/-- HOURS_SAVE (R482). -/
def execHoursSave (s : State) : Answer :=
  .next (if s.stage = .unpowered then s else { s with hwd := { s.hwd with savedHours := s.clk.hours } })

end Sys2Proof.Machine
end

