-- ==== Sys2Proof/Machine/Restart.lean ====
section
/-! DEFINITION. Restart, re-entry, the seal and re-arming: the commands of CLK_CTRL, CLK_SEAL and PWR_REARM and of the console
(R354, R474, R476, R479, R481). -/

namespace Sys2Proof.Machine

open Sys2Proof

/-- A refused restart or re-entry command (R479, R481). -/
def State.refuseCmd (s : State) : State := s.flag clkErr 4

/-- No DIE_OFF keeps a die off until the next power-on (R444, Table: Re-entry). -/
def State.diesAllowed (s : State) : Bool := s.hwd.dieOff.toList.all (fun x => !x)

/-- REF has been good for 1 s (R473). -/
def State.refGood (s : State) : Bool := s.clk.refOk && decide (s.clk.refGoodSince + 10 ^ 8 ≤ s.clk.refCount.toNat)

/-- A stopped module starts again at Stage 2 (R479). -/
def State.reenterAt2 (s : State) (kind : Nat) : State :=
  let s := s.restartCover
  let s := { s with
    hwd := { s.hwd with safe := false, holdReq := false }
    start := { s.start with pendingKind := some kind, restarting := false, retried := false }
    budget := { s.budget with quiesce := none, stopped := none, hold := false } }
  s.beginStage2

/-! ## Restart (R474) -/

/-- A restart is performed in Stage 3 and Stage 3 entry, and after a failed start once REF has been good for 1 s, the tray being seated and no
`test trip` running (R313, R473, R479, R481, R561). -/
def State.mayRestart (s : State) : Bool :=
  s.crown.running && s.diesAllowed && s.hwd.settled && !s.tripTesting &&
  (match s.stage with
   | .stage3 => true
   | .entry => true
   | .failed => decide (s.budget.stopped = some .failedStart) && s.refGood
   | _ => false)

/-- A module restart (R474, R479, R481): from Stage 3 by the ordered quiesce, otherwise with its forced flush of the ring log alone. -/
def State.restart (s : State) (kind : Nat) : State :=
  if !s.mayRestart then s.refuseCmd
  else
    match s.stage with
    | .stage3 =>
      let s := s.beginQuiesce .restart
      { s with start := { s.start with restarting := true, pendingKind := some kind } }
    | .entry =>
      let s := (s.flushLog true).diesDown.enterAgain
      { s with start := { s.start with pendingKind := some kind } }
    | _ => (s.flushLog true).reenterAt2 kind

/-- A restart command of another source came in this cycle and was performed (R481, R567). -/
def State.restartShared (s : State) (src : CmdSrc) : Bool := s.start.restartOf.any (fun x => decide (x.1 ≠ src ∧ x.2 = s.clk.us))

/-- A restart command of a source: of commands of several sources in one cycle, between which no tick passes, one restart comes (R481, R567;
log 207). -/
def State.restartBy (s : State) (src : CmdSrc) (kind : Nat) : State :=
  if s.restartShared src then s
  else if s.mayRestart then
    let t := s.restart kind
    { t with start := { t.start with restartOf := some (src, s.clk.us) } }
  else s.refuseCmd

/-- RESTART (R474, R479, R481, R555, R567): kind 2 by a host, 3 by the console. -/
def execRestart (src : CmdSrc) (s : State) : Answer :=
  .next (match src with
  | .host fn => if s.reaches fn then (s.setReg .A clkCtrl 2).restartBy (.host fn) 2 else s.refuseWrite fn
  | .console => s.console "restart" .s false anyTime (fun s =>
    (s.restartBy .console 3).reply (if s.restartShared .console || s.mayRestart then 0 else 3)))

/-! ## Re-entry (R479) -/

/-- A re-entry's conditions hold, the tray being seated (R313), both channels able to close the input switch (R438) and no `test trip` that blocks
every enable (R561); `byConsole` tells the
requester (Table: Re-entry). A thermal shutdown waits for the bus too, which may have been lost with it (R434); the condition of a SAFE counts as
absent from its last trip on (log 206). -/
def State.mayReenter (s : State) (byConsole : Bool) : Bool :=
  s.crown.running && s.diesAllowed && s.hwd.settled && s.hwd.chanA && s.hwd.chanB && !s.tripTesting &&
  (match s.stage, s.budget.stopped with
   | .quiesced, some .busLoss => s.busBack
   | .quiesced, some .thermal => !s.budget.hot && s.busBack
   | .failed, some (.safe code) => byConsole && !powerOnOnly code && decide (s.hwd.safeAt + 1000000 ≤ s.clk.us)
   | .failed, some .failedStart => byConsole && s.refGood
   | _, _ => false)

/-- A re-entry (R479). -/
def State.reenter (s : State) (byConsole : Bool) (kind : Nat) : State :=
  if s.mayReenter byConsole then s.reenterAt2 kind else s.refuseCmd

/-- REENTER (R430, R479, R481, R555): kind 4 by a host, 5 by the console. -/
def execReenter (src : CmdSrc) (s : State) : Answer :=
  .next (match src with
  | .host fn => if s.reaches fn then (s.setReg .A clkCtrl 1).reenter false 4 else s.refuseWrite fn
  | .console => s.console "reenter" .s false anyTime (fun s => (s.reenter true 5).reply (if s.mayReenter true then 0 else 3)))

/-- A module quiesced for the bus waits to re-enter by itself (Table: Re-entry, CLK_STATUS.auto_pending). -/
def State.autoPending (s : State) : Bool :=
  decide (s.stage = .quiesced ∧ s.budget.stopped = some .busLoss) && bit (s.mreg clkCfg) 0

/-- AUTO_REENTRY (R479): the conditions have held for 1 s. -/
def execAutoReentry (s : State) : Answer := .next (if s.autoPending && s.mayReenter false then s.reenterAt2 6 else s)

/-! ## Seal (R14, R476, R483) -/

/-- Writing 1 to CLK_SEAL.seal seals the module; once sealed, the register ignores writes as any RWL register. -/
def State.seal (s : State) (fn : Fn) (v : Nat) : State :=
  let t := s.writeRwl fn clkSeal v
  if s.sealed then t else { t with sealed := true }

/-- SEAL (R14, R476, R481). -/
def execSeal (fn : Fn) (s : State) : Answer := .next (if s.reaches fn then s.seal fn 1 else s.refuseWrite fn)

/-! ## Re-arming (R354) -/

/-- Value of PWR_REARM that names the rails of a mask (Table: PWR_REARM fields, R583). -/
def rearmWord (rails : BitVec 11) : Nat :=
  let n := rails.toNat
  bits n 3 0 + bits n 8 5 * 16 + bits n 4 4 * 256

/-- The line that names the rails of a mask (R555). -/
def rearmLine (rails : BitVec 11) : String :=
  ((List.finRange 11).filter (fun r => rails.getLsbD r.val)).foldl (fun t r => t ++ " " ++ railName r) "rearm"

/-- The mask names one of the rails that the console's commands name (R555). -/
def oneRail (rails : BitVec 11) : Bool := (List.range 10).any (fun r => rails.toNat == 2 ^ r)

/-- REARM (R354, R389, R555): `rails` is a mask by rail number; PWR_REARM reaches rails 0–8, the console one of rails 0–9. -/
def execRearm (src : CmdSrc) (rails : BitVec 11) (s : State) : Answer :=
  .next (match src with
  | .host fn =>
    if s.reaches fn then (s.setReg .A pwrRearm (BitVec.ofNat 64 (rearmWord rails))).rearm (rails &&& 0x1FF) else s.refuseWrite fn
  | .console => s.console (rearmLine rails) .s false (fun _ => if oneRail rails then 0 else 2) (fun s => (s.rearm rails).reply 0))

end Sys2Proof.Machine
end

