-- ==== Sys2Proof/Machine/Service.lean ====
section
/-! DEFINITION. Commands of the Kenpex console: reading the module, field tests, and the actions of a technician (R549–R567). -/

namespace Sys2Proof.Machine

open Sys2Proof

/-! ## The line, reading, nonces (R549–R551, R555–R557) -/

/-- SERIAL_BREAK (R550): 115200 bit/s again. -/
def execSerialBreak (s : State) : Answer := .next (if s.stage = .unpowered then s else { s with svc := { s.svc with baud := 0 } })

/-- Codes of the listed rates (Table: SVC_STATUS fields). -/
def rateCode (rate : Nat) : Option Nat :=
  if rate = 115200 then some 0 else if rate = 230400 then some 1 else if rate = 460800 then some 2 else if rate = 921600 then some 3 else none

/-- BAUD (R550): `ok` at the old rate, then the new one. -/
def execBaud (rate : Arg) (s : State) : Answer :=
  .next (s.consoleArg ("baud" ++ argText rate) .r true (rate.bind rateCode) (fun _ _ => 0) (fun k s =>
    let s := s.reply 0
    { s with svc := { s.svc with baud := k } }))

/-- CONSOLE_UNKNOWN_COMMAND (R551, R552). -/
def execConsoleUnknownCommand (line : List Byte) (s : State) : Answer :=
  .next (if !s.svc.ready then s else if s.svc.test.isSome then s.heardByte else (s.hears line).reply 1)

/-- The parts of `status` that Heartwood serves (R555). -/
def statusByHwd : StatusPart → Bool
  | .hwd => true
  | .rails => true
  | _ => false

/-- The part that `status` names (R555). -/
def partText : StatusPart → String
  | .all => ""
  | .die => " die"
  | .store => " store"
  | .hwd => " hwd"
  | .ports => " ports"
  | .rails => " rails"

/-- STATUS (R490, R552–R554, R556): also in RETIRED, and from the ROM in ROM recovery; its lines come one after another (log 213). -/
def execStatus (part : StatusPart) (s : State) : Answer :=
  .next (if !s.svc.ready then s
  else if s.svc.test.isSome then s.heardByte
  else
    let s := s.hears (ascii ("status" ++ partText part))
    if statusByHwd part || s.crown.running || s.crown.rom then s.printLines 0 (statusByHwd part) (s.statusLines part) 0 else s.reply s.crownErr)

/-- LOG_DUMP (R552, R554, R557, R581): what `log read` does with both flags set, also in RETIRED; from offset 0 where none is given. -/
def execLogDump (off : Arg) (s : State) : Answer :=
  .next (if !s.svc.ready then s
  else if s.svc.test.isSome then s.heardByte
  else
    let s := s.hears (ascii ("log dump" ++ argText off))
    let from_ := off.getD 0
    if !s.crown.running then s.reply s.crownErr
    else if from_ % 8 ≠ 0 ∨ logSize < from_ then s.reply 2
    else if s.log.mode = .clearing then s.reply 5
    else
      let s := s.flushLog true
      s.printLines 0 false (s.dump from_) 0)

/-- NONCE (R511). -/
def execNonce (s : State) : Answer :=
  .next (s.console "nonce" .r false anyTime (fun s =>
    let n := s.fresh.toNat
    ((s.issueNonce 2).say (padZero 16 (String.ofList (Nat.toDigits 16 n)))).reply 0))

/-- ACK_CONFIG (R486): a host's message or the console acknowledges a lost configuration. -/
def execAckConfig (src : CmdPath) (s : State) : Answer :=
  .next (match src with
  | .msg m => if s.reaches (srcFn m) ∧ s.crown.running then { s with crown := { s.crown with lost := false } } else s
  | .console => s.console "ack config" .t false anyTime (fun s => ({ s with crown := { s.crown with lost := false } }).reply 0))

/-! ## Field tests (R558, R559) -/

/-- Heartwood's and Crown's tests in Stage 3 only. -/
def State.inStage3 (s : State) : Nat := if s.stage = .stage3 then 0 else 3

/-- The tile is in a launch that is being prepared or runs (R527). -/
def State.inLaunch (s : State) (t : Nat) : Bool := s.hq.launches.any (fun l => l.has t && decide (l.phase ≠ .waiting))

/-- A tile under test: fenced at once where it is in no running launch, else once it is in none (R527). -/
def State.testTile (s : State) (t : Nat) : State :=
  let site := s.siteOf t
  let x := s.tile t
  let s := s.setTile t (if s.inLaunch t then { x with marchDue := true } else { x with marching := true, fenced := true })
  let s := ((s.beginMarch { mem := 0, inst := site, transparent := false }).beginMarch { mem := 1, inst := site, transparent := false }).beginMarch
    { mem := 2, inst := site, transparent := false }
  { s with svc := { s.svc with test := some (.tile t) } }

/-- A march runs on a tile already. -/
def State.tileBusy (s : State) (t : Nat) : Bool :=
  (s.tile t).marching || (s.tile t).marchDue || s.sram.marches.any (fun k => k.inst == s.siteOf t && decide (k.mem < 3))

/-- The tile that a typed identifier names (R36). -/
def typedTile (t : Arg) : Option Nat := t.bind (fun n => if n < 4096 then tileOfIdent n else none)

/-- TEST_TILE (R527, R558, R567). -/
def execTestTile (t : Arg) (s : State) : Answer :=
  .next (s.consoleArg ("test tile" ++ argText t) .s false (typedTile t)
    (fun n s => if s.stage ≠ .stage3 then 3 else if s.tileBusy n then 5 else 0)
    (fun n s => s.testTile n))

/-- What `test stack` prints of a stack: its layer temperatures, and the trunk resistance of its die as last measured (R126, R130, R558). -/
def State.stackText (s : State) (st : Fin 20) : String :=
  (s.mem.layerTemp[st]).foldl (fun t v => t ++ " " ++ intText (v / 16) ++ "C") " layers" ++ " trunk " ++
  match s.mem.trunk[st.val / 5]'(by omega) with
  | some r => decText r ++ "uohm"
  | none => "none"

/-- TEST_STACK (R118, R119, R126, R130, R558): every uncorrectable transaction of the stack is met through the patrol path. -/
def execTestStack (st : Arg) (s : State) : Answer :=
  .next (s.consoleArg ("test stack" ++ argText st) .t false (argBelow 20 st) (fun _ s => s.inStage3) (fun st s =>
    let bad := s.mem.bad.filter (fun n => decide (sliceOf (64 * n) / 128 = st.val))
    let clean := bad.isEmpty && s.mem.failedSensors[st] == 0 && !(s.mem.trunkHigh[st.val / 5]'(by omega))
    let s := bad.foldl (fun (s : State) (n : Nat) => s.dramUncorrectable (64 * n)) s
    s.printParts 2 false [(clean, s.stackText st ++ " uncorrectable " ++ decText bad.length)]))

/-- TEST_LINK (R268, R558): the counters are noted. -/
def execTestLink (p : Arg) (s : State) : Answer :=
  .next (s.consoleArg ("test link" ++ argText p) .t false (argBelow 20 p) (fun p s => if s.ports[p].state = .active then 0 else 3) (fun p s =>
    let x := s.ports[p]
    { s with svc := { s.svc with test := some (.link p x.fecUncorr x.crcErr x.fecCorr x.retrainCount false) } }))

/-- What `test link` prints of a port: its counters since the test began and the CMIS readings (R268, R558). -/
def Port.linkText (x : Port) (uncorr crc corr : BitVec 64) (retrains : BitVec 32) (received : Nat) : String :=
  " uncorrectable " ++ decText (x.fecUncorr - uncorr).toNat ++ " crc " ++ decText (x.crcErr - crc).toNat ++ " retrains " ++
  decText (x.retrainCount - retrains).toNat ++ " corrected " ++ decText (x.fecCorr - corr).toNat ++ " of " ++ decText received ++ " cable 0x" ++
  hexText (natBe 4 x.cable.toNat)

/-- TEST_LINK_END (R558): 10 s have passed, in which `received` codewords came. -/
def execTestLinkEnd (p : Fin 20) (received : Nat) (s : State) : Answer :=
  .next (match s.svc.test with
  | some (.link q uncorr crc corr retrains warned) =>
    if p ≠ q then s
    else
      let x := s.ports[p]
      s.endTest [(x.fecUncorr == uncorr && x.crcErr == crc && x.retrainCount == retrains && !warned &&
        decide ((x.fecCorr.toNat - corr.toNat) * 1000 < received), x.linkText uncorr crc corr retrains received)]
  | _ => s)

/-- Target of a rail in mV (Table: Rails, Table: Test points): a core's is the stored value in force. -/
def State.railTarget (s : State) (r : Fin 11) : Nat :=
  if h : r.val < 4 then
    let c := s.power.cores[r.val]'h
    c.vop[c.pins]
  else if r = 4 then 1100 else if r.val < 9 then 850 else 12000

/-- What `test rail` prints of a rail: state, vout, current, working and switching phases (R558). -/
def Rail.testText (x : Rail) (r : Fin 11) (mv : Nat) : String :=
  " state " ++ railText x.state ++ " vout " ++ fixText 3 mv ++ "V current " ++ decText x.current ++ "A working " ++ decText x.count ++
  " switching " ++ decText ((List.range 32).countP (fun i => (x.switching r).getLsbD i))

/-- TEST_RAIL (R558): `mv` is the voltage measured. -/
def execTestRail (r : Option (Fin 11)) (mv : Nat) (s : State) : Answer :=
  .next (s.consoleArg ("test rail" ++ r.elim "" (fun r => " " ++ railName r)) .t false (r.filter (· != 10))
    (fun r s => if s.power.rails[r].enabled then 0 else 3) (fun r s =>
    let target := s.railTarget r
    s.printParts 4 false [(decide (s.power.rails[r].state = .on ∧ mv ≤ target + 5 ∧ target ≤ mv + 5), s.power.rails[r].testText r mv)]))

/-- The bit of a phase. -/
def phaseBit (n : Fin 26) : BitVec 32 := 1#32 <<< n.val

/-- A die and a phase typed at the console (R555). -/
def typedPhase (d n : Arg) : Option (Fin 4 × Fin 26) := (argBelow 4 d).bind (fun d => (argBelow 26 n).map (fun n => (d, n)))

/-- `test phase` begins: every other working phase is in use, and the phase ramps down (R343, R345, R558). -/
def State.testPhase (s : State) (d : Fin 4) (n : Fin 26) (amps mean : Int) : State :=
  let x := s.power.rails[coreRail d].addBack
  let s := s.setRail (coreRail d) { x with working := x.working &&& ~~~phaseBit n, leaving := x.leaving ||| phaseBit n }
  { s with svc := { s.svc with test := some (.phase d n amps mean s.clk.us) } }

/-- TEST_PHASE (R343, R345, R558): in the 100 µs after the phase is back, its current is `amps` and the mean of its rail's phases `mean`, in A. -/
def execTestPhase (d n : Arg) (amps mean : Int) (s : State) : Answer :=
  .next (s.consoleArg ("test phase" ++ argText d ++ argText n) .s false (typedPhase d n)
    (fun x s => if s.stage = .stage3 ∧ s.power.rails[coreRail x.1].working.getLsbD x.2.val then 0 else 3)
    (fun x s => s.testPhase x.1 x.2 amps mean))

/-- The phase of `test phase` is added back, unless it has failed, has been taken out or its rail has gone (R345, R558). -/
def State.restorePhase (s : State) (d : Fin 4) (n : Fin 26) : State :=
  let x := s.power.rails[coreRail d]
  if x.state = .on ∧ !(x.failed ||| x.taken).getLsbD n.val then
    s.setRail (coreRail d) { x with working := x.working ||| phaseBit n, leaving := x.leaving &&& ~~~phaseBit n }
  else s

/-- A microsecond of `test phase`: the phase is added back after 1 ms, and 100 µs later its current decides (R558). -/
def State.tendPhase (s : State) (d : Fin 4) (n : Fin 26) (amps mean : Int) (since : Nat) : State :=
  if s.clk.us < since + 1000 then s
  else if s.clk.us < since + 1100 then s.restorePhase d n
  else s.endTest [(s.power.rails[coreRail d].working.getLsbD n.val && decide (-10 ≤ amps - mean ∧ amps - mean ≤ 10), " current " ++ intText amps ++
    "A mean " ++ intText mean ++ "A")]

/-- TEST_CELL (R396, R558): the next scan is a check scan. -/
def execTestCell (s : State) : Answer :=
  .next (s.console "test cell" .t false (fun s => if s.sap.awake then 0 else 3) (fun s =>
    { s with sap := { s.sap with checkNext := true }, svc := { s.svc with test := some .cell } }))

/-- TEST_BALANCE (R395, R558, R567). -/
def execTestBalance (s : State) : Answer :=
  .next (s.console "test balance" .t false (fun s => if s.sap.awake ∧ s.sap.state ≠ .draining ∧ s.sap.state ≠ .lockedOut then 0 else 3) (fun s =>
    { s with sap := { s.sap with testDue := true }, svc := { s.svc with test := some .balance } }))

/-- TEST_LOG (R558). -/
def execTestLog (s : State) : Answer :=
  .next (s.console "test log" .t false (fun s => if s.marchRuns (sramRow .log) 0 then 5 else 0) (fun s =>
    let s := s.beginMarch { mem := sramRow .log, inst := 0, transparent := true }
    { s with svc := { s.svc with test := some .log } }))

/-- The injection of `test loop` (R373, R559): at the slot's output, for 4096 samples. -/
def loopInjection (n : Fin 4) (wave : Waveform) (amp : Int) : Injection :=
  { slot := n, point := .output, wave := wave, amp := bfp amp, duration := 4096 }

/-- The injection that a slot, a waveform and an amplitude typed at the console name, none where one is missing (R559). -/
def typedLoop (n : Arg) (wave : Option Waveform) (amp : Option Int) : Option Injection :=
  match argBelow 4 n, wave, amp with
  | some n, some w, some a => some (loopInjection n w a)
  | _, _, _ => none

/-- `test loop` starts (R559): the phase, the capture, the injection. -/
def State.testLoop (s : State) (x : Injection) : State :=
  let s := s.setPhase .test
  let s := s.armCapture { slot := x.slot, every := 1, trigger := .injection, pre := 0, signals := [.y, .ref, .e, .u] }
  let s := s.startInjection x
  { s with svc := { s.svc with test := some (.loop x.slot (decide (x.slot = 0 ∧ x.wave = .step))) } }

/-- Names of the waveforms (R559). -/
def waveText : Waveform → String
  | .step => "step"
  | .square _ => "square"
  | .sweep _ _ => "sweep"
  | .prbs => "prbs"

/-- TEST_LOOP (R373, R374, R558, R559, R567). -/
def execTestLoop (n : Arg) (wave : Option Waveform) (amp : Option Int) (s : State) : Answer :=
  .next (s.consoleArg ("test loop" ++ argText n ++ wave.elim "" (fun w => " " ++ waveText w) ++ amp.elim "" (fun a => " " ++ intText a)) .s false
    (typedLoop n wave amp)
    (fun x s =>
      if !injListed s.le.slots[x.slot].values x then 2
      else if s.stage ≠ .stage3 ∨ !s.le.ok ∨ s.le.slots[x.slot].mode ≠ .auto ∨ s.sap.state ≠ .connected then 3
      else if s.le.injection.isSome then 5
      else 0)
    (fun x s => s.testLoop x))

/-! ## `test trip` (R561, R562) -/

/-- Filter times of the trips in µs (Table: Heartwood trips), none for the codes that print `n/a`. -/
def tripFilter (code : Nat) : Option Nat :=
  let l : List (Option Nat) :=
    [none, some 1000, some 10000, some 1000, some 2, some 100, some 20, some 2, some 100, some 2, some 100, none, some 1000, some 10000,
     some 1000000, some 1000, some 1000, some 1000, some 10, some 1000000, some 50000, some 200000] ++
    [some 1000, some 20, some 20000, some 100, some 10, some 20, some 2, some 10, none, none, none]
  (l[code]?).getD none

/-- When `test trip` is accepted (R561). -/
def State.tripTestOk (s : State) : Bool :=
  decide (s.stage = .quiesced ∨ s.stage = .failed ∨ s.atHold = true) && decide (s.sap.state ≠ .connected)

/-- The run goes on with the next code that has a test; those without one print `n/a`, and after the last the reply comes. -/
def State.nextTrip (s : State) (passed : Bool) : List Nat → State
  | [] => s.endCommand (if passed then 0 else 6)
  | c :: rest => match tripFilter c with
    | none => (s.say "n/a").nextTrip passed rest
    | some _ => { s with svc := { s.svc with test := some (.trip (c :: rest) 0 true passed) } }

/-- TEST_TRIP (R561): every code in ascending order, or one. -/
def execTestTrip (code : Arg) (s : State) : Answer :=
  .next (s.console ("test trip" ++ argText code) .s true
    (fun s => if code.any (fun c => decide (c = 0 ∨ 0x20 < c)) then 2 else if s.tripTestOk then 0 else 3)
    (fun s => match code with
      | some c => s.nextTrip true [c]
      | none => s.nextTrip true ((List.range 32).map (fun k => k + 1))))

/-- TRIP_TEST_STEP_END (R561): a step's decision has come `us` microseconds after its injection, and passes between the filter time and 20 µs
more. The steps are both channels, channel A, channel B; an abort byte stops the run after them (R552). -/
def execTripTestStepEnd (us : Nat) (s : State) : Answer :=
  .next (match s.svc.test with
  | some (.trip (c :: rest) step good passed) =>
    let f := (tripFilter c).getD 0
    let good := good && decide (f ≤ us ∧ us ≤ f + 20)
    if step < 2 then { s with svc := { s.svc with test := some (.trip (c :: rest) (step + 1) good passed) } }
    else
      let s := s.say (partLine (good, " code " ++ decText c ++ " " ++ decText us ++ "us"))
      if s.svc.abort then s.endCommand 7 else s.nextTrip (passed && good) rest
  | _ => s)

/-- TEST_TRIP_SWITCHES (R562): SW_A, SW_B and the precharge path in turn close alone and open again; `contacts` tells which contact
senses were right. -/
def execTestTripSwitches (contacts : BitVec 3) (s : State) : Answer :=
  .next (s.console "test trip switches" .s true (fun s => if s.tripTestOk then 0 else 3)
    (fun s => s.printParts 8 true [(contacts.getLsbD 0, " sw_a"), (contacts.getLsbD 1, " sw_b"), (contacts.getLsbD 2, " precharge")]))

/-- Rails whose crowbars are tested: those that are off, the 12 V rail only in a Stage 1 hold (R562). -/
def State.crowbarRails (s : State) : List (Fin 11) :=
  ([0, 1, 2, 3, 4, 9] : List (Fin 11)).filter (fun r => decide (s.power.rails[r].state = .off) && (decide (r ≠ 9) || s.atHold))

/-- TEST_TRIP_CROWBAR (R562): the rails' state does not change. Bits 2k and 2k + 1 of `res` tell whether rail k of the list VCORE_0–3, VDRAM,
12 V fell in time for channels A and B. -/
def execTestTripCrowbar (res : BitVec 12) (s : State) : Answer :=
  .next (s.console "test trip crowbar" .s true (fun s => if s.tripTestOk then 0 else 3)
    (fun s => s.printParts 8 true (s.crowbarRails.map (fun r =>
      let k := if r = 9 then 5 else r.val
      (res.getLsbD (2 * k) && res.getLsbD (2 * k + 1), " " ++ railName r)))))

/-! ## Actions (R345, R403, R490, R526, R532, R563, R564) -/

/-- The line of a phase command (R555). -/
def phaseLine (what : String) (d n : Arg) : String := "phase " ++ what ++ argText d ++ argText n

/-- PHASE_OFF (R344, R345, R347, R555): not during soft start, which allows no shed. -/
def execPhaseOff (d n : Arg) (s : State) : Answer :=
  .next (s.consoleArg (phaseLine "off" d n) .s false (typedPhase d n)
    (fun x s => if s.power.rails[coreRail x.1].working.getLsbD x.2.val ∧ s.power.rails[coreRail x.1].state ≠ .softStart then 0 else 3)
    (fun x s => (s.takePhase x.1 (phaseBit x.2)).reply 0))

/-- PHASE_ON (R345, R555): a phase that the console took out works again; on a rail that is off, from its next start on. -/
def execPhaseOn (d n : Arg) (s : State) : Answer :=
  .next (s.consoleArg (phaseLine "on" d n) .s false (typedPhase d n) (fun p s => if s.power.rails[coreRail p.1].taken.getLsbD p.2.val then 0 else 3)
    (fun p s =>
      let x := s.power.rails[coreRail p.1]
      let b := phaseBit p.2
      let runs : Bool := decide (x.state = .on ∨ x.state = .softStart)
      (s.setRail (coreRail p.1) { x with
        taken := x.taken &&& ~~~b, leaving := x.leaving &&& ~~~b
        working := if runs && !x.failed.getLsbD p.2.val then x.working ||| b else x.working }).reply 0))

/-- Names of the memories, in words of the model's (log 96). -/
def sramText : SramKind → String
  | .scratchpad => "scratchpad"
  | .registers => "registers"
  | .icache => "icache"
  | .berux => "berux"
  | .collective => "collective"
  | .queue => "queue"
  | .loop => "loop"
  | .crown => "crown"
  | .log => "log"
  | .secure => "secure"

/-- The memory and the instance typed at the console: the instance may be left out where there is one only (R555; log 213). -/
def typedMarch (mem : Option SramKind) (inst : Arg) : Option (SramKind × Nat) :=
  match mem, inst with
  | some m, some i => if m = .secure ∨ sramCount m ≤ i then none else some (m, i)
  | some m, none => if m = .secure ∨ sramCount m ≠ 1 then none else some (m, 0)
  | none, _ => none

/-- MARCH (R526, R532, R555): TRANSPARENT on any memory but the secure region; those of the dies need Stage 3. -/
def execMarch (mem : Option SramKind) (inst : Arg) (s : State) : Answer :=
  .next (s.consoleArg ("march" ++ mem.elim "" (fun m => " " ++ sramText m) ++ argText inst) .s false (typedMarch mem inst)
    (fun x s =>
      if sramRow x.1 < 6 ∧ s.stage ≠ .stage3 then 3
      else if s.marchRuns (sramRow x.1) x.2 then 5
      else 0)
    (fun x s =>
      let s := s.beginMarch { mem := sramRow x.1, inst := x.2, transparent := true }
      { s with svc := { s.svc with test := some (.march (sramRow x.1) x.2) } }))

/-- MARCH_SECURE (R532, R533): the command runs until the wipe has ended. -/
def execMarchSecure (s : State) : Answer :=
  .next (s.console "march secure" .s false anyTime (fun s => ({ s.wipe with svc := { s.wipe.svc with test := some .secure } })))

/-- RETIRE_TILE (R64, R65, R564). -/
def execRetireTile (t : Arg) (s : State) : Answer :=
  .next (s.consoleArg ("retire tile" ++ argText t) .s false (typedTile t) (fun _ _ => 0) (fun n s => (s.markRetire n 4).reply 0))

/-- RELEASE (R563): the Stage 1 hold ends. -/
def execRelease (s : State) : Answer :=
  .next (s.console "release" .s true (fun s => if s.atHold then 0 else 3) (fun s => ({ s with svc := { s.svc with held := false } }).reply 0))

/-- A drain returns its energy to the bus: the module lies in its tray with the bus present, Crown runs and the store is CONNECTED (R403). -/
def State.drainReturns (s : State) : Bool :=
  s.hwd.prsA && s.hwd.prsB && s.hwd.busGood && s.crown.running && decide (s.sap.state = .connected) && !s.budget.hold &&
  decide (s.stage ≠ .quiescing)

/-- DRAIN (R403, R567): during a hold or a quiesce Heartwood opens the store switches at once. -/
def execDrain (s : State) : Answer := .next (s.console "drain" .a true anyTime (fun s => (s.startDrain s.drainReturns).reply 0))

/-- RECOVER (R490, R555): the ROM begins to receive an image, `blocks` as they come, each with its CRC-16. -/
def execRecover (blocks : List (List Byte × BitVec 16)) (s : State) : Answer :=
  .next (s.console "recover" .r true (fun s => if s.crown.rom then 0 else if s.crown.running then 3 else s.crownErr) (fun s =>
    { s with svc := { s.svc with test := some (.recover blocks []) } }))

/-- A microsecond of `recover` (R451, R488, R490, R555, R567): a 1024-byte block whose CRC-16 is right is taken and acknowledged, and another asked
for again; after the last the image is checked, programmed into slot 0 and booted, which waits for a brownout warning to end. -/
def State.tendRecover (s : State) (blocks : List (List Byte × BitVec 16)) (got : List Byte) : State :=
  match blocks with
  | b :: rest =>
    let good := decide (b.1.length = 1024) && crc16 0 b.1 == b.2
    let s := s.emit (.console [if good then 0x06 else 0x15])
    { s with svc := { s.svc with test := some (.recover rest (if good then got ++ b.1 else got)) } }
  | [] =>
    if s.hwd.brownout then s
    else if imagePasses got s.crown.fused then
      let c := { s.crown with slots := s.crown.slots.set 0 (some (slotImage got)), active := 0, pendingSlot := none, dogs := s.crown.dogs.set 0 [] }
      (({ s with crown := c }).bootSlot 0).endCommand 0
    else s.endCommand 6

/-- A microsecond of the command that runs: a line is printed, a block taken, or a phase's time counted (R552, R555, R558; log 213). -/
def State.tendConsole (s : State) : State :=
  match s.svc.test with
  | some (.print code h (l :: rest) err) => ({ s with svc := { s.svc with test := some (.print code h rest err) } } : State).emit (.console l)
  | some (.print _ _ [] err) => s.endCommand err
  | some (.phase d n amps mean since) => s.tendPhase d n amps mean since
  | some (.recover blocks got) => s.tendRecover blocks got
  | _ => s

/-! ## The abort byte (R552, R567) -/

/-- A march of the console stops. -/
def State.stopMarch (s : State) (mem inst : Nat) : State :=
  { s with sram := { s.sram with marches := s.sram.marches.filter (fun k => !(k.mem == mem && k.inst == inst)) } }

/-- `test tile` stops at the end of the march element: the scratchpad is cleared, and the fence lifts unless the tile is marked. -/
def State.abortTile (s : State) (t : Nat) : State :=
  let x := s.tile t
  let site := s.siteOf t
  let s := s.setTile t (if x.marching then
      { x with pad := [], padBad := [], marching := false, fenced := x.retireCause != 0, icacheValid := false }
    else { x with marchDue := false })
  ((s.stopMarch 0 site).stopMarch 1 site).stopMarch 2 site

/-- ABORT_BYTE (R552, R567): the command that runs stops at its safe point, which is here for all but `test trip`; the commands that have none go on.
The wipe of `march secure` goes on to its last step (log 213). -/
def execAbortByte (s : State) : Answer :=
  .next (if !s.svc.ready then s
  else
    let s := s.heardByte
    match s.svc.test with
    | none => s
    | some (.tile t) => (s.abortTile t).endCommand 7
    | some (.march m i) => (s.stopMarch m i).endCommand 7
    | some .log => (s.stopMarch (sramRow .log) 0).endCommand 7
    | some (.loop _ _) => (s.setPhase .service).endCommand 7
    | some (.phase d n _ _ _) => (s.restorePhase d n).endCommand 7
    | some (.trip _ _ _ _) => { s with svc := { s.svc with abort := true } }
    | some .auth => s
    | some (.authWait _ _) => s
    | some _ => s.endCommand 7)

end Sys2Proof.Machine
end

