-- ==== Sys2Proof/Machine/RegRead.lean ====
section
/-! DEFINITION. The set-up registers as a host reads them: which offsets hold a register, of what width, and its present value (R10, R15,
R570–R573 and the register maps of the blocks). -/

namespace Sys2Proof.Machine

open Sys2Proof

/-! ## The map (R570, Table: Host-writable set-up registers, the register maps) -/

/-- A 64-bit register starts at an offset. -/
def wideReg (off : Nat) : Bool :=
  off == 0x00010 || (0x1000 ≤ off && off < 0x2000 && [0x00, 0x08, 0x10, 0x18].contains (off % 0x40)) ||
  [0x10010, 0x10018, 0x20010, 0x20018, 0x20020, 0x30010, 0x80020, 0x90010].contains off ||
  (0x31000 ≤ off && off < 0x32400 && [0x20, 0x28, 0x30, 0x38].contains (off % 0x100))

/-- W1C bits of a register (the status tables of the blocks), 0 for a register that is not W1C. -/
def w1cBits (off : Nat) : BitVec 64 :=
  if off = hqStatus ∨ off = cnpErr ∨ off = memErr then 0xF
  else if off = bxStatus ∨ off = svcErr then 0x3
  else if 0x31000 ≤ off ∧ off < 0x32400 ∧ off % 0x100 = 0x0C then 0xFF
  else if off = pwrErr then 0x7FF
  else if off = leErr ∨ off = hwdTrip then 0x1FF
  else if off = sapErr then 0xFF
  else if off = hwdWarn then 0x7
  else if off = clkErr then 0x3F
  else if off = crnErr then 0x7F
  else if off = logErr then 0x1F
  else 0

/-- Bits set in a word. -/
def popCount (w : BitVec 32) : Nat := (List.range 32).countP (fun i => w.getLsbD i)

/-- A signed number in `n` bits. -/
def twos (n : Nat) (v : Int) : Nat := (v % (2 ^ n : Nat)).toNat

/-- A sum of one bit for each true entry, entry k at bit `lo` + k. -/
def flagBits (lo : Nat) (l : List Bool) : Nat := (l.zipIdx.map (fun e => if e.1 then 2 ^ (lo + e.2) else 0)).sum

/-! ## HQ_ (R232), CNP_ (R158), MEM_ (R131) -/

/-- HQ_MAINT (Table: HQ_MAINT fields). -/
def State.maintWord (s : State) : Nat := min 255 s.awaiting * 65536 + b2n s.hq.maint * 256 + b2n s.hq.maint

/-- Registers of a queue, by their offset within it (Table: HQ_ register map). -/
def State.queueWord (s : State) (q : Fin 64) (o : Nat) : Nat :=
  let x := s.queues[q]
  if o = 0x28 then x.cause.toNat * 256 + b2n x.paused * 8 + queueCode x.state
  else if o = 0x2C then
    x.result.toNat * 65536 + bits (s.mreg (qReg q + 0x2C)) 9 8 * 256 + (match x.owner with
      | none => 0
      | some .A => 1
      | some .B => 2)
  else if o = 0x30 then x.done.toNat
  else if o = 0x34 then x.fetched.toNat
  else if o = 0x38 then x.lost.toNat
  else s.mreg (qReg q + o)

/-- MEM_STATUS (Table: MEM_STATUS fields). -/
def State.memStatusWord (s : State) : Nat :=
  popCount s.mem.failedStacks * 65536 + popCount s.mem.degradedStacks * 2048 + min 255 s.mem.repairs.length * 8 +
  s.mem.band.toList.foldl (fun m b => max m b.toNat) 0

/-- MEM_TEMP_s (Table: MEM_TEMP_s fields). -/
def State.memTempWord (s : State) (st : Fin 20) : Nat :=
  s.mem.band[st].toNat * 2 ^ 24 + popCount (s.mem.failedSensors[st].setWidth 32) * 65536 + s.mem.temp[st].toNat

/-! ## BX_ (R269) -/

/-- Codes of the port states (Table: Port states). -/
def portCode : PortState → Nat
  | .disabled => 0
  | .detect => 1
  | .train => 2
  | .negotiate => 3
  | .active => 4
  | .retrain => 5
  | .flush => 6
  | .down => 7

/-- BX_FWD_DATA: the entry of the destination in BX_FWD_INDEX, with the die of the table read. -/
def State.fwdWord (s : State) : Nat :=
  let i := s.mreg bxFwdIndex
  bits i 13 12 * 256 + s.forward (bits i 11 0)

/-- Registers of a port, by their offset within it (Table: BX_ register map). -/
def State.portWord (s : State) (p : Fin 20) (o : Nat) : Nat :=
  let x := s.ports[p]
  if o = 0x08 then
    x.lanes.toNat * 2 ^ 24 + x.cfg.toNat * 2 ^ 20 + (if x.state = .active then x.gen.toNat else 0) * 65536 + x.width.toNat * 4096 +
    x.cause.toNat * 256 + portCode x.state
  else if o = 0x10 then x.peer.toNat
  else if o = 0x18 then x.cable.toNat
  else if o = 0x20 then x.fecCorr.toNat
  else if o = 0x28 then x.fecUncorr.toNat
  else if o = 0x30 then x.crcErr.toNat
  else if o = 0x38 then x.replays.toNat
  else if o = 0x40 then x.retrainCount.toNat
  else if o = 0x44 then x.downCount.toNat
  else if o = 0x48 then x.addrErr.toNat
  else if o = 0x4C then x.sbDrop.toNat
  else s.mreg (pReg p + o)

/-! ## PWR_ (R355, R435) -/

/-- Codes of the rail states (Table: PWR_Dd_RAIL, PWR_Dd_LINK and PWR_DRAM_RAIL fields). -/
def railCode : RailState → Nat
  | .off => 0
  | .softStart => 1
  | .hiccup => 2
  | .on => 3
  | .latched => 4
  | .crowbarred => 5

/-- A rail's word. -/
def Rail.word (x : Rail) : Nat :=
  railCode x.state * 2 ^ 29 + x.attempts % 8 * 2 ^ 26 + x.shed % 4 * 2 ^ 24 + min 4095 x.current * 4096 + x.vout % 4096

/-- PWR_STATUS (Table: PWR_STATUS fields). -/
def State.pwrStatusWord (s : State) : Nat :=
  let on (r : Fin 11) : Bool := decide (s.power.rails[r].state = .on)
  flagBits 9 s.power.convOn.toList + flagBits 0 (([0, 1, 2, 3, 5, 6, 7, 8, 4] : List (Fin 11)).map on)

/-- PWR_BUDGET_STATUS (Table: PWR_BUDGET_STATUS fields). -/
def State.budgetWord (s : State) : Nat :=
  s.budget.source % 8 * 2 ^ 29 + s.budget.capCause % 8 * 2 ^ 26 + b2n s.budget.deferred.isSome * 2 ^ 25 + b2n s.matchPoint.isSome * 2 ^ 24 +
  s.cPeak / 10 * 4096 + s.budget.share / 10

/-- PWR_THERM_STATUS (Table: PWR_THERM_STATUS fields), in whole °C. -/
def State.thermWord (s : State) : Nat :=
  twos 8 (s.budget.outlet / 16) * 2 ^ 24 + twos 8 (s.budget.inlet / 16) * 65536 + b2n s.budget.coolantLoss * 2 ^ 15 + b2n s.budget.shutdown * 2 ^ 14 +
  s.budget.tceil[0].val + s.budget.tceil[1].val * 8 + s.budget.tceil[2].val * 64 + s.budget.tceil[3].val * 512

/-- Registers of a die's power, by their offset within them (Table: PWR_ register map). -/
def State.dieWord (s : State) (d : Fin 4) (o : Nat) : Nat :=
  let c := s.power.cores[d]
  let x := s.power.rails[coreRail d]
  if o = 0x00 then b2n c.forced * 512 + b2n (c.slewing && decide (s.power.rails[coreRail d].state = .on)) * 256 + c.pins.val * 8 + c.settled.val
  else if o = 0x04 then bits x.working.toNat 25 0
  else if o = 0x08 then bits (x.switching (coreRail d)).toNat 25 0
  else if o = 0x0C then x.word
  else if o = 0x10 then s.power.rails[linkRail d].word
  else if h : 0x20 ≤ o ∧ o < 0x40 ∧ o % 4 = 0 then c.vop[(o - 0x20) / 4]'(by omega)
  else 0

/-! ## LE_ (R381) -/

/-- A block-floating-point value in a register (Table: LE_CAP_DATA, LE_Sn_OUT and LE_Sn_REF fields). -/
def bfpWord (v : Bfp) : Nat := v.exp.toNat * 2 ^ 18 + v.mant.toNat

/-- Codes of the engine's phases (Table: LE_STATUS fields). -/
def phaseCode : EnginePhase → Nat
  | .startup => 0
  | .service => 1
  | .test => 2
  | .recovery => 3

/-- LE_STATUS. -/
def State.leStatusWord (s : State) : Nat :=
  s.le.route % 4 * 1024 + b2n s.le.ok * 512 + b2n s.le.injection.isSome * 256 + phaseCode s.le.phase

/-- LE_CAP_STATUS. -/
def State.capStatusWord (s : State) : Nat :=
  let c := s.le.capture
  c.state % 4 * 2 ^ 30 + (match c.setup with
    | some u => u.slot.val
    | none => 0) * 65536 + min 4096 c.samples.length

/-- LE_CAP_DATA (R374): the value stored at LE_CAP_INDEX, zero where there is none. -/
def State.capDataWord (s : State) : Nat :=
  let i := s.mreg leCapIndex
  bfpWord ((((s.le.capture.samples[bits i 11 0]?).getD [])[bits i 13 12]?).getD bfp0)

/-- Registers of a slot, by their offset within it (Table: LE_ register map); of slot 3's laws, the first (log 97). -/
def State.slotWord (s : State) (n : Fin 4) (o : Nat) : Nat :=
  let x := s.le.slots[n]
  if o = 0x00 then
    x.region.val * 1024 + b2n x.saturated * 512 + b2n (s.le.injection.any (fun j => decide (j.what.slot = n))) * 256 + modeCode x.mode
  else if o = 0x04 then x.run.toNat * 65536 + x.limit.toNat
  else if o = 0x08 then bfpWord x.laws[0].out
  else if o = 0x0C then bfpWord x.laws[0].ref
  else if o = 0x10 then x.delayMax.toNat * 65536 + x.delay.toNat
  else 0

/-! ## SAP_ (R405), HWD_ (R457) -/

/-- Codes of the store states (Table: Store states). -/
def storeCode : StoreState → Nat
  | .isolated => 0
  | .precharge => 1
  | .connected => 2
  | .draining => 3
  | .drained => 4
  | .lockedOut => 5

/-- SAP_STATUS (Table: SAP_STATUS fields). -/
def State.sapStatusWord (s : State) : Nat :=
  let x := s.sap
  x.openTap % 16 * 2 ^ 24 + b2n x.lit * 128 + b2n x.awake * 64 + b2n x.following * 32 + b2n (x.ceilingMv == 52900) * 16 +
  b2n x.drained * 8 + storeCode x.state

/-- SAP_BAL (Table: SAP_BAL fields). -/
def Store.balWord (x : Store) : Nat :=
  flagBits 17 (x.cells.toList.map (fun c => c.swFail)) + flagBits 1 (x.cells.toList.map (fun c => c.dis)) + b2n x.stackStop

/-- SAP_CELL_k (Table: SAP_CELL_k fields). -/
def Cell.word (c : Cell) : Nat := b2n c.eligible * 2 ^ 18 + b2n c.inPair * 2 ^ 17 + b2n c.valid * 2 ^ 16 + min 65535 c.mv

/-- SAP_ registers that a host does not write. -/
def State.sapWord (s : State) (o : Nat) : Nat :=
  let x := s.sap
  if o = 0x00 then s.sapStatusWord
  else if o = 0x0C then min 65535 x.ceilingMv * 65536 + min 65535 x.stackMv
  else if o = 0x10 then min 65535 x.usableJ * 65536 + min 65535 x.presentJ
  else if o = 0x14 then x.weakest % 16 * 65536 + min 65535 x.cMin
  else if o = 0x18 then x.balWord
  else if o = 0x1C then
    twos 8 x.temps[0] + twos 8 x.temps[1] * 256 + twos 8 x.temps[2] * 65536 + twos 8 x.temps[3] * 2 ^ 24
  else if h : 0x40 ≤ o ∧ o < 0x78 ∧ o % 4 = 0 then (x.cells[(o - 0x40) / 4]'(by omega)).word
  else 0

/-- HWD_STATUS (Table: HWD_STATUS fields): its presence bits are Heartwood's, and 0 before it is powered. -/
def State.hwdStatusWord (s : State) : Nat :=
  let h := s.hwd
  let on : Bool := decide (s.stage ≠ .unpowered)
  flagBits 20 h.dieEn.toList + flagBits 16 [h.precharge, h.swA, h.swB, h.inputClosed] + flagBits 12 (h.limit.toList.map (fun l => !l.isEmpty)) +
  flagBits 5 [h.freeze, h.safe, h.brownout, h.holdReq, h.dip, s.sap.awake && s.sap.pulsing, h.strobe] + flagBits 0 [h.chanA, h.chanB, on && !h.prsA, on && !h.prsB]

/-- HWD_ registers that a host does not write. -/
def State.hwdWord (s : State) (o : Nat) : Nat :=
  let h := s.hwd
  if o = 0x00 then s.hwdStatusWord
  else if o = 0x0C then min 65535 h.dips * 65536 + min 65535 h.brownouts
  else if o = 0x10 then min 65535 h.trips * 65536 + h.lastIndex % 256 * 256 + h.lastCode % 256
  else if hk : 0x20 ≤ o ∧ o < 0x40 ∧ o % 4 = 0 then
    min 65535 (h.ceil[(o - 0x20) / 4]'(by omega)) * 65536 + min 65535 (fuseCeil[(o - 0x20) / 4]'(by omega))
  else 0

/-! ## CLK_ (R482), CRN_ (R519), LOG_ (R547), SVC_ (R568) -/

/-- CLK_STATUS (Table: CLK_STATUS fields). -/
def State.clkStatusWord (s : State) : Nat :=
  b2n s.clk.holdover * 4096 + b2n s.clk.refOk * 2048 + b2n s.sealed * 1024 + b2n s.autoPending * 256 + flagBits 4 s.clk.pll.toList + stageCode s.stage

/-- CLK_ registers that a host does not write. -/
def State.clkWord (s : State) (o : Nat) : Nat :=
  if o = 0x00 then s.clkStatusWord
  else if o = 0x14 then s.resetCause
  else if o = 0x18 then s.clk.div[0] % 32 + s.clk.div[1] % 32 * 32 + s.clk.div[2] % 32 * 1024 + s.clk.div[3] % 32 * 32768
  else if o = 0x20 then s.time.toNat
  else if o = 0x28 then s.clk.hours.toNat
  else if o = 0x2C then s.clk.cycles.toNat
  else 0

/-- Codes of CRN_RING_CTRL.state. -/
def ringCode : RingMode → Nat
  | .stopped => 0
  | .starting => 1
  | .running => 2
  | .mismatch => 3

/-- A manager on a Zejor bus has been heard within 3 s (Table: CRN_ZJ_STATUS fields). -/
def State.zjAlive (s : State) (b : Fin 2) : Bool := s.budget.heard[b] != 0 && decide (s.clk.us ≤ s.budget.heard[b] + 3000000)

/-- CRN_ registers that a host does not write. -/
def State.crnWord (s : State) (o : Nat) : Nat :=
  let c := s.crown
  let v := s.imageVersion
  if o = 0x00 then
    min 255 s.hwd.tampers.toNat * 2 ^ 24 + lifeCode c.life * 256 + b2n c.trial * 16 + b2n c.pendingSlot.isSome * 8 + c.slot.val * 4 + b2n c.rom * 2 +
    b2n c.running
  else if o = 0x08 then (if c.running then v.1.toNat else 0)
  else if o = 0x0C then (if c.running then v.2 % 64 else 0) * 256 + c.fused % 64
  else if o = 0x20 then
    s.start.slotId.toNat * 2 ^ 24 + b2n c.zjDup * 2 ^ 18 + b2n (s.zjAlive 1) * 2 ^ 17 + b2n (s.zjAlive 0) * 2 ^ 16 + min 255 c.zjErr[1] * 256 +
    min 255 c.zjErr[0]
  else 0

/-- Codes of LOG_STATUS.state. -/
def logCode : LogMode → Nat
  | .recording => 0
  | .full => 1
  | .flashFailed => 2
  | .clearing => 3
  | .suspended => 4

/-- LOG_ registers that a host does not write. -/
def State.logWord (s : State) (o : Nat) : Nat :=
  let l := s.log
  if o = 0x00 then logCode l.mode * 2 ^ 29 + l.opened.length % 32 * 2 ^ 24 + min 16383 (l.used / 8)
  else if o = 0x08 then l.content.length
  else if o = 0x0C then l.lost.toNat
  else 0

/-- SVC_STATUS.test (Table: SVC_STATUS fields); commands that are no test read as none. -/
def testCode : Option RunTest → Nat
  | none => 0
  | some (.tile _) => 1
  | some (.link _ _ _ _ _ _) => 3
  | some (.phase _ _ _ _ _) => 5
  | some .cell => 6
  | some .balance => 7
  | some (.trip _ _ _ _) => 8
  | some .log => 9
  | some (.loop _ _) => 0xA
  | some (.march _ _) => 0xB
  | some .secure => 0xB
  | some (.print code _ _ _) => code
  | some (.recover _ _) => 0
  | some (.authWait _ _) => 0
  | some .auth => 0

/-- A byte was received within the last 60 s. -/
def State.session (s : State) : Bool :=
  match s.svc.lastByte with
  | some t => decide (s.clk.us ≤ t + 60000000)
  | none => false

/-- SVC_STATUS: the console can take a line while none runs (R552, R553). -/
def State.svcStatusWord (s : State) : Nat :=
  min 65535 s.svc.changes * 65536 + testCode s.svc.test * 256 + s.svc.baud % 4 * 8 + b2n s.atHold * 4 + b2n s.session * 2 +
  b2n (s.svc.ready && s.svc.test.isNone)

/-! ## A register's value -/

/-- Queue, port, die and slot whose registers an offset lies in. -/
def queueAt (off : Nat) : Fin 64 := ⟨(off - 0x1000) / 0x40 % 64, Nat.mod_lt _ (by omega)⟩
def portAt (off : Nat) : Fin 20 := ⟨(off - 0x31000) / 0x100 % 20, Nat.mod_lt _ (by omega)⟩
def dieAt (off : Nat) : Fin 4 := ⟨(off - 0x40100) / 0x40 % 4, Nat.mod_lt _ (by omega)⟩
def slotAt (off : Nat) : Fin 4 := ⟨(off - 0x50100) / 0x20 % 4, Nat.mod_lt _ (by omega)⟩

/-- A register of the HQ_, CNP_, MEM_ and BX_ blocks. -/
def State.closedWord (s : State) (fn : Fn) (off : Nat) : Nat :=
  if off = hqMaint then s.maintWord
  else if 0x1000 ≤ off ∧ off < 0x2000 then s.queueWord (queueAt off) (off % 0x40)
  else if off = 0x10008 then s.canopy.edgeStatus.toNat
  else if off = 0x10010 then s.canopy.retryTotal.toNat
  else if off = 0x10018 then s.canopy.stallTotal.toNat
  else if off = 0x20004 then s.memStatusWord
  else if off = 0x20010 then s.mem.ceTotal.toNat
  else if off = 0x20018 then s.mem.ueTotal.toNat
  else if off = 0x20020 then s.mem.ueAddr.toNat
  else if off = 0x20030 then s.mem.failedStacks.toNat
  else if off = 0x20034 then s.mem.degradedStacks.toNat
  else if h : 0x20100 ≤ off ∧ off < 0x20150 ∧ off % 4 = 0 then s.memTempWord ⟨(off - 0x20100) / 4, by omega⟩
  else if off = 0x30010 then s.fleet.epoch.toNat
  else if 0x30020 ≤ off ∧ off < 0x30040 ∧ off % 4 = 0 then s.fleet.digest.toNat / 2 ^ (8 * (off - 0x30020)) % 2 ^ 32
  else if off = 0x30044 then s.fwdWord
  else if 0x31000 ≤ off ∧ off < 0x32400 then s.portWord (portAt off) (off % 0x100)
  else (s.reg fn off).toNat

/-- A register of the other blocks. -/
def State.openWord (s : State) (fn : Fn) (off : Nat) : Nat :=
  let own := (s.reg fn off).toNat
  if !(fieldsOf off).isEmpty ∨ w1cBits off ≠ 0 then
    let r := s.rings[fnIdx fn]
    if off = crnRingCtrl then own + ringCode r.mode * 65536
    else if off = crnMboxCtrl then own + b2n r.mboxDone * 2 ^ 17 + b2n r.mboxBusy * 2 ^ 16
    else own
  else if off = 0x40000 then s.pwrStatusWord
  else if off = 0x40010 then s.power.rails[4].word
  else if off = 0x40024 then s.budgetWord
  else if off = 0x40028 then s.thermWord
  else if 0x40100 ≤ off ∧ off < 0x40200 then s.dieWord (dieAt off) (off % 0x40)
  else if off = 0x50000 then s.leStatusWord
  else if off = 0x50008 then s.capStatusWord
  else if off = 0x50010 then s.capDataWord
  else if 0x50100 ≤ off ∧ off < 0x50180 then s.slotWord (slotAt off) (off % 0x20)
  else if off / 0x10000 = 6 then s.sapWord (off % 0x10000)
  else if off / 0x10000 = 7 then s.hwdWord (off % 0x10000)
  else if off / 0x10000 = 8 then s.clkWord (off % 0x10000)
  else if off / 0x10000 = 9 then s.crnWord (off % 0x10000)
  else if off / 0x10000 = 0xA then s.logWord (off % 0x10000)
  else if off = 0xB0000 then s.svcStatusWord
  else 0

/-- The present value of the register at an offset, as a function reads it: a closed block reads as zero outside Stage 3 (R573), and so
does an offset that holds no register (R15). -/
def State.regValue (s : State) (fn : Fn) (off : Nat) : Nat :=
  if closedBlock off then (if s.stage = .stage3 then s.closedWord fn off else 0) else s.openWord fn off

/-! ## Reads (R10, R11) -/

/-- A memory read of a function in D3hot completes with Unsupported Request, which is logged (R192). -/
def State.refuseRead (s : State) (fn : Fn) : State :=
  if s.host[fnIdx fn].up ∧ s.host[fnIdx fn].d3hot then (s.emit (.unsupported fn)).emit (.aer fn) else s

/-- A 32-bit read: the lower half of a 64-bit register captures the upper half, and an upper half returns the captured one and empties the
capture, zero while its block is closed (R10, R573, R578). -/
def State.read32 (s : State) (fn : Fn) (off : Nat) : State :=
  if off % 4 ≠ 0 then s.emit (.regData fn off 0)
  else if 0xF0000 ≤ off then s.emit (.regData fn off (BitVec.ofNat 64 (s.msixWord fn off)))
  else if wideReg off then
    let v := s.regValue fn off
    ({ s with capture := insert s.capture ((fnIdx fn).val * 2 ^ 20 + off) (BitVec.ofNat 32 (v / 2 ^ 32)) }).emit
      (.regData fn off (BitVec.ofNat 64 (v % 2 ^ 32)))
  else if 4 ≤ off ∧ wideReg (off - 4) then
    let k := (fnIdx fn).val * 2 ^ 20 + (off - 4)
    match s.capture.find? (fun e => e.1 == k) with
    | some e => ({ s with capture := erase s.capture k }).emit
        (.regData fn off (if closedBlock off && s.stage != Stage.stage3 then 0 else e.2.setWidth 64))
    | none => s.emit (.regData fn off (BitVec.ofNat 64 (s.regValue fn (off - 4) / 2 ^ 32)))
  else s.emit (.regData fn off (BitVec.ofNat 64 (s.regValue fn off % 2 ^ 32)))

/-- A 64-bit read of a 64-bit register: the whole present value, which neither fills nor empties a capture (R10); of the MSI-X structures, two
words. -/
def State.read64 (s : State) (fn : Fn) (off : Nat) : State :=
  s.emit (.regData fn off (if 0xF0000 ≤ off ∧ off % 8 = 0 then BitVec.ofNat 64 (s.msixWord fn off + s.msixWord fn (off + 4) * 2 ^ 32)
    else if wideReg off then BitVec.ofNat 64 (s.regValue fn off) else 0))

/-- LOWER_HALF_READ (R10, R11, R193, R573, R578): a read of a 32-bit register answers its value, and a 64-bit one of a 64-bit register the whole of
it; it waits for every earlier BAR2 write of its port. -/
def execLowerHalfRead (fn : Fn) (off : BitVec 20) (wide : Bool) (s : State) : Answer :=
  .next (let s := s.performWrites fn
  if s.host[fnIdx fn].up && !s.host[fnIdx fn].writes.isEmpty then s
  else if !s.reaches fn then s.refuseRead fn
  else if wide then s.read64 fn off.toNat else s.read32 fn off.toNat)

/-- UPPER_HALF_READ (R10, R193, R573, R578): it waits for every earlier BAR2 write of its port. -/
def execUpperHalfRead (fn : Fn) (off : BitVec 20) (s : State) : Answer :=
  .next (let s := s.performWrites fn
  if s.host[fnIdx fn].up && !s.host[fnIdx fn].writes.isEmpty then s
  else if !s.reaches fn then s.refuseRead fn
  else s.read32 fn off.toNat)

/-- An access that R10 does not allow: neither an aligned one of 32 bits nor a 64-bit access at the start of a 64-bit register. The MSI-X structures
from 0xF_0000 on are no registers (R11). -/
def disallowed (off bytes : Nat) : Bool := decide (off < 0xF0000) && !(bytes == 4 && off % 4 == 0) && !(bytes == 8 && wideReg off)

/-- DISALLOWED_ACCESS (R11): a write is ignored, and a read returns zero in every byte. -/
def execDisallowedAccess (fn : Fn) (off : BitVec 20) (bytes : Nat) (isWrite : Bool) (s : State) : Answer :=
  .next (if !disallowed off.toNat bytes then s
  else if isWrite then (if s.reaches fn then s else s.refuseWrite fn)
  else
    let s := s.performWrites fn
    if s.host[fnIdx fn].up && !s.host[fnIdx fn].writes.isEmpty then s
    else if !s.reaches fn then s.refuseRead fn
    else s.emit (.regData fn off.toNat 0))

end Sys2Proof.Machine
end

