-- ==== Sys2Proof/Machine/Regs.lean ====
section
/-! DEFINITION. A host's writes of the set-up registers: access codes, command registers, write latches, W1C bits (R10–R16, R572–R579). -/

namespace Sys2Proof.Machine

open Sys2Proof

/-! ## What a value written does -/

/-- A write of MEM_CTRL (R120, R128, R131): with scrub_en clear the patrol pass starts from the beginning once it is set again. -/
def State.writeMemCtrl (s : State) (fn : Fn) (v : Nat) : State :=
  let s := s.putFields fn memCtrl v
  if bit v 0 then s else { s with mem := { s.mem with patrol := [] } }

/-- A write of a queue's registers (R226, R232): the commands, else a register that only the owner writes, and only while the queue is
DISABLED. -/
def State.writeQueue (s : State) (fn : Fn) (q : Fin 64) (o v : Nat) : State :=
  if o = 0x2C then s.ownCommand fn q (bits v 9 8)
  else if o = 0x24 then s.queueCommand fn q (bits v 1 0)
  else if s.queues[q].owner ≠ some fn then s.hqEvent fn 1
  else if (queueFields o).isEmpty then s
  else if s.queues[q].state ≠ .disabled then s.hqEvent fn 2
  else s.putFields fn (qReg q + o) v

/-- Rails that a value of PWR_REARM names (Table: PWR_REARM fields, R583). -/
def rearmRails (v : Nat) : BitVec 11 := BitVec.ofNat 11 (bits v 3 0 + bits v 7 4 * 32 + bits v 8 8 * 16)

/-- A write of CLK_CTRL (R474, R479, R481, R483). -/
def State.writeClkCtrl (s : State) (fn : Fn) (v : Nat) : State :=
  let c := bits v 1 0
  if c = 3 then s.badEncoding fn clkCtrl
  else
    let s := s.setReg .A clkCtrl (BitVec.ofNat 64 c)
    if c = 1 then s.reenter false 4 else if c = 2 then s.restartBy (.host fn) 2 else s

/-- A write of CLK_SEAL (R476, R483): 0 before sealing has no effect. -/
def State.writeSeal (s : State) (fn : Fn) (v : Nat) : State :=
  if bit v 0 then s.seal fn v else if s.sealed then s.writeRwl fn clkSeal v else s

/-- A write of CRN_RING_CTRL (R494, R500, R520): the ring sizes change only while the ring is stopped, and the command acts. -/
def State.writeRingCtrl (s : State) (fn : Fn) (v : Nat) : State :=
  let s := if s.rings[fnIdx fn].mode = .stopped then s.putFields fn crnRingCtrl v
    else if bits v 1 0 = 3 then s.badEncoding fn crnRingCtrl else s
  if bits v 1 0 = 3 then s else s.ringCommand fn (bits v 1 0)

/-- A queue's register stands at an offset (Table: HQ_ register map). -/
def inQueue (off : Nat) : Bool := decide (0x1000 ≤ off ∧ off < 0x2000 ∧ off % 0x40 < 0x3C)

/-- A write of a register of the HQ_, CNP_, MEM_ and BX_ blocks in Stage 3. -/
def State.writeClosed (s : State) (fn : Fn) (off v : Nat) : State :=
  if off = hqWakeReg then s.wakeQueue fn v
  else if off = hqMaint then (if bit v 0 then s.requestPause fn else s)
  else if inQueue off then s.writeQueue fn (queueAt off) (off % 0x40) v
  else if off = memCtrl then s.writeMemCtrl fn v
  else if off = bxModuleId then s.writeModuleId fn v
  else if 0x31000 ≤ off ∧ off < 0x32400 ∧ off % 0x100 = 0 then s.portWrite (portAt off) (bits v 1 0)
  else if isRwl off then s.writeRwl fn off v
  else s.putFields fn off v

/-- A write of a register of the other blocks. -/
def State.writeOpen (s : State) (fn : Fn) (off v : Nat) : State :=
  if off = pwrRearm then (s.setReg .A pwrRearm (BitVec.ofNat 64 (bits v 8 0))).rearm (rearmRails v)
  else if off = clkCtrl then s.writeClkCtrl fn v
  else if off = clkSeal then s.writeSeal fn v
  else if off = crnRingBase then (if s.rings[fnIdx fn].mode = .stopped then s.putFields fn off v else s)
  else if off = crnRingCtrl then s.writeRingCtrl fn v
  else if off = crnKickReg then (if bit v 0 then s.kick fn else s.putFields fn off v)
  else if off = crnMboxCtrl then (if bit v 0 then s.mailboxGo fn else s.putFields fn off v)
  else if off = pwrBudgetCfg ∧ !s.sealed then (s.putFields fn off v).followCfg
  else if isRwl off then s.writeRwl fn off v
  else s.putFields fn off v

/-- W1C bits that a write of 1 clears, but for those that hardware sets in the same cycle (R12, R13). -/
def State.clearBits (s : State) (fn : Fn) (off : Nat) (v hwSet : BitVec 64) : State :=
  s.setReg fn off ((s.reg fn off &&& ~~~v) ||| (hwSet &&& w1cBits off))

/-- A module restart or re-entry is under way (R579). -/
def State.restartsNow (s : State) : Bool := s.start.restarting || s.start.pendingKind.isSome

/-- A whole register is written (R12, R14, R573, R574, R579): a closed block ignores it outside Stage 3, where a write to a sealed RWL register
is recorded and one to an RWL register during a restart or re-entry waits; a register that no host writes, and an offset without one, ignore
it. -/
def State.writeReg (s : State) (fn : Fn) (off v : Nat) : State :=
  if closedBlock off && decide (s.stage ≠ .stage3) then
    if !isRwl off then s
    else if s.sealed then s.writeRwl fn off v
    else if s.restartsNow then { s with late := s.late ++ [(fn, off, BitVec.ofNat 32 v)] }
    else s
  else if w1cBits off ≠ 0 then s.clearBits fn off (BitVec.ofNat 64 v) 0
  else if (fieldsOf off).isEmpty && !inQueue off then s
  else if closedBlock off then s.writeClosed fn off v
  else s.writeOpen fn off v

/-! ## Accesses (R10) -/

/-- A closed block ignores writes, of halves too (R573). -/
def State.blockShut (s : State) (off : Nat) : Bool := closedBlock off && decide (s.stage ≠ .stage3)

/-- A 32-bit write: of the lower half of a 64-bit register into the function's latch; of an upper half together with the latch, or with the
present lower half, as one 64-bit write that empties the latch; else of a 32-bit register (R10, R578). -/
def State.write32 (s : State) (fn : Fn) (off v : Nat) : State :=
  let key (o : Nat) : Nat := (fnIdx fn).val * 2 ^ 20 + o
  if off % 4 ≠ 0 then s
  else if wideReg off then
    if s.blockShut off then s else { s with latch := insert s.latch (key off) (BitVec.ofNat 32 v) }
  else if 4 ≤ off ∧ wideReg (off - 4) then
    let lo := match s.latch.find? (fun e => e.1 == key (off - 4)) with
      | some e => e.2.toNat
      | none => s.regValue fn (off - 4) % 2 ^ 32
    ({ s with latch := erase s.latch (key (off - 4)) }).writeReg fn (off - 4) (v * 2 ^ 32 + lo)
  else s.writeReg fn off v

/-- LOWER_HALF_WRITE (R10, R578). -/
def execLowerHalfWrite (fn : Fn) (off : BitVec 20) (value : BitVec 32) (s : State) : Answer :=
  .next (if s.reaches fn then s.write32 fn off.toNat value.toNat else s.refuseWrite fn)

/-- UPPER_HALF_WRITE (R10, R578). -/
def execUpperHalfWrite (fn : Fn) (off : BitVec 20) (value : BitVec 32) (s : State) : Answer :=
  .next (if s.reaches fn then s.write32 fn off.toNat value.toNat else s.refuseWrite fn)

/-- REGISTER_WRITE (R10–R16, R574–R579): a 32-bit write, or a 64-bit write of a 64-bit register. -/
def execRegisterWrite (fn : Fn) (off : BitVec 20) (wide : Bool) (value : BitVec 64) (s : State) : Answer :=
  .next (if !s.reaches fn then s.refuseWrite fn
  else if 0xF0000 ≤ off.toNat then
    if off.toNat % (if wide then 8 else 4) ≠ 0 then s
    else
      let s := s.writeMsix fn off.toNat (value.setWidth 32).toNat
      if wide then s.writeMsix fn (off.toNat + 4) (value.toNat / 2 ^ 32) else s
  else if !wide then s.write32 fn off.toNat (value.setWidth 32).toNat
  else if wideReg off.toNat then s.writeReg fn off.toNat value.toNat
  else s)

/-- W1C_WRITE (R12, R13, R577): `hwSet` names the bits that hardware sets in the same cycle. -/
def execW1cWrite (fn : Fn) (off : BitVec 20) (value hwSet : BitVec 64) (s : State) : Answer :=
  .next (if !s.reaches fn then s.refuseWrite fn
  else if s.blockShut off.toNat || w1cBits off.toNat == 0 then s
  else s.clearBits fn off.toNat value hwSet)

/-- MEM_CTRL_WRITE (R120, R128, R131). -/
def execMemCtrlWrite (fn : Fn) (value : BitVec 32) (s : State) : Answer :=
  .next (if s.opens fn then s.writeMemCtrl fn value.toNat else s.refuseWrite fn)

end Sys2Proof.Machine
end

