-- ==== Sys2Proof/Machine/Zejor.lean ====
section
/-! DEFINITION. Zejor, the management protocol of the rack managers (R418, R504–R507). -/

namespace Sys2Proof.Machine

open Sys2Proof

/-- A Zejor frame (Table: Zejor frame). -/
def zejorFrame (dst src cmd : BitVec 8) (payload : List Byte) : List Byte :=
  let l := [dst, src, cmd] ++ natLe 1 payload.length ++ payload
  [0xA5] ++ l ++ natLe 2 (crc16 0xFFFF l).toNat

/-- The module's address: slot_id[5:0] (R319, R504). -/
def State.zejorAddr (s : State) : BitVec 8 := s.start.slotId.setWidth 8

/-- Crown listens to Zejor: from Stage 1, while its firmware runs (R504). -/
def State.listens (s : State) : Bool := s.crown.running

/-- The manager of an address: A at 0x7E, B at 0x7F (R504). -/
def managerOf (a : BitVec 8) : Option (Fin 2) := if a = 0x7E then some 0 else if a = 0x7F then some 1 else none

/-- What every valid frame does: a manager has been heard, and a frame from the module's own address is recorded (R418, R507). -/
def State.hearFrame (s : State) (bus : Fn) (sender : BitVec 8) : State :=
  let s := match managerOf sender with
    | some k => { s with budget := { s.budget with heard := s.budget.heard.set k s.clk.us, lost := s.budget.lost.set k false } }
    | none => s
  if sender = s.zejorAddr then
    (({ s with crown := { s.crown with zjDup := true } }).flag crnErr 4).record 0x73 .warning true (fnIdx bus).val []
  else s

/-- The answer to a frame addressed to the module, on its bus; a broadcast is never answered (R504, R506). -/
def State.zejorReply (s : State) (bus : Fn) (dst sender cmd : BitVec 8) (payload : List Byte) : State :=
  if dst = s.zejorAddr then s.emit (.zejor bus (zejorFrame sender dst (cmd + 0x80) payload)) else s

/-- A valid frame: it is heard, and handled where it is addressed to the module or to all (R504, R506, R507). -/
def State.zejor (s : State) (bus : Fn) (dst sender : BitVec 8) (handle : State → State) : State :=
  if !s.listens then s
  else
    let s := s.hearFrame bus sender
    if dst = s.zejorAddr ∨ dst = 0xFF then handle s else s

/-- ZEJOR_IDENT (R506): part code, serial and generation. -/
def execZejorIdent (bus : Fn) (dst sender : BitVec 8) (s : State) : Answer :=
  .next (s.zejor bus dst sender (fun s =>
    let code : List Byte := [0x43, 0x48, 0x4D, 0x2D, 0x34, 0x30, 0x32, 0x30]
    s.zejorReply bus dst sender 0x01 ([0] ++ code ++ natLe 8 Config.serial.toNat ++ [2])))

/-- Power in units of 10 W, or energy in units of 10 J, within 2 bytes. -/
def tens (v : Int) : List Byte := natLe 2 (min 65535 (v.toNat / 10))

/-- Payload of a POLL response after the status byte (Table: Zejor commands). -/
def State.pollBody (s : State) : List Byte :=
  tens s.le.draw ++ tens s.le.demand ++ tens s.budget.share ++ tens s.cPeak ++ tens s.sap.presentJ ++
  intLe 1 (s.budget.outlet / 16) ++ intLe 1 (s.hottest / 16) ++ natLe 1 (stageCode s.stage) ++
  natLe 1 (b2n s.capped + 2 * b2n s.budget.hold + 4 * b2n s.crown.reported + 8 * b2n !s.legacy)

/-- ZEJOR_POLL (R506). -/
def execZejorPoll (bus : Fn) (dst sender : BitVec 8) (s : State) : Answer :=
  .next (s.zejor bus dst sender (fun s => s.zejorReply bus dst sender 0x02 ([0] ++ s.pollBody)))

/-- ZEJOR_SHARE (R418, R506, R507): refused in native mode; taken from a manager in legacy mode. -/
def execZejorShare (bus : Fn) (dst sender : BitVec 8) (share : BitVec 16) (smooth : BitVec 8) (s : State) : Answer :=
  .next (s.zejor bus dst sender (fun s =>
    if !s.legacy then s.zejorReply bus dst sender 0x03 [3]
    else match managerOf sender with
      | none => s.zejorReply bus dst sender 0x03 [2]
      | some k =>
        if share < 50 ∨ 500 < share ∨ 2 < smooth then s.zejorReply bus dst sender 0x03 [2]
        else (s.deliverShare (10 * share.toNat) smooth.toNat (2 + k.val)).zejorReply bus dst sender 0x03 ([0] ++ natLe 2 share.toNat)))

/-- ZEJOR_UNLISTED_COMMAND (R506): answered with status 1. -/
def execZejorUnlistedCommand (bus : Fn) (dst sender cmd : BitVec 8) (s : State) : Answer :=
  .next (s.zejor bus dst sender (fun s => if cmd = 1 ∨ cmd = 2 ∨ cmd = 3 then s else s.zejorReply bus dst sender cmd [1]))

/-- ZEJOR_BAD_FRAME (R505): discarded and counted for its bus. -/
def execZejorBadFrame (bus : Fn) (s : State) : Answer :=
  .next (if s.listens then
    { s with crown := { s.crown with zjErr := s.crown.zjErr.set (fnIdx bus) (min 255 (s.crown.zjErr[fnIdx bus] + 1)) } } else s)

end Sys2Proof.Machine
end

