-- ==== Sys2Proof/Machine/Dispatch.lean ====
section
/-! DEFINITION. The meaning of each command: one arm for each constructor of `Instr`. -/

namespace Sys2Proof.Machine

open Sys2Proof

def exec (i : Instr) (s : State) : Host.Outcome State Fault Refusal :=
  match i with
  | .registerWrite fn off wide value => Sys2Proof.Machine.execRegisterWrite fn off wide value s
  | .lowerHalfWrite fn off value => Sys2Proof.Machine.execLowerHalfWrite fn off value s
  | .upperHalfWrite fn off value => Sys2Proof.Machine.execUpperHalfWrite fn off value s
  | .lowerHalfRead fn off wide => Sys2Proof.Machine.execLowerHalfRead fn off wide s
  | .upperHalfRead fn off => Sys2Proof.Machine.execUpperHalfRead fn off s
  | .disallowedAccess fn off bytes isWrite => Sys2Proof.Machine.execDisallowedAccess fn off bytes isWrite s
  | .w1cWrite fn off value hwSet => Sys2Proof.Machine.execW1cWrite fn off value hwSet s
  | .add th d a b md => Sys2Proof.Machine.execAdd th d a b md s
  | .sub th d a b md => Sys2Proof.Machine.execSub th d a b md s
  | .and th d a b md => Sys2Proof.Machine.execAnd th d a b md s
  | .or th d a b md => Sys2Proof.Machine.execOr th d a b md s
  | .xor th d a b md => Sys2Proof.Machine.execXor th d a b md s
  | .shl th d a b md => Sys2Proof.Machine.execShl th d a b md s
  | .shr th d a b md => Sys2Proof.Machine.execShr th d a b md s
  | .sra th d a b md => Sys2Proof.Machine.execSra th d a b md s
  | .min th d a b md => Sys2Proof.Machine.execMin th d a b md s
  | .max th d a b md => Sys2Proof.Machine.execMax th d a b md s
  | .minu th d a b md => Sys2Proof.Machine.execMinu th d a b md s
  | .maxu th d a b md => Sys2Proof.Machine.execMaxu th d a b md s
  | .mul th d a b md => Sys2Proof.Machine.execMul th d a b md s
  | .cmpEq th d a b md => Sys2Proof.Machine.execCmpEq th d a b md s
  | .cmpNe th d a b md => Sys2Proof.Machine.execCmpNe th d a b md s
  | .cmpLt th d a b md => Sys2Proof.Machine.execCmpLt th d a b md s
  | .cmpGe th d a b md => Sys2Proof.Machine.execCmpGe th d a b md s
  | .cmpLtu th d a b md => Sys2Proof.Machine.execCmpLtu th d a b md s
  | .cmpGeu th d a b md => Sys2Proof.Machine.execCmpGeu th d a b md s
  | .addi th d a imm => Sys2Proof.Machine.execAddi th d a imm s
  | .andi th d a imm => Sys2Proof.Machine.execAndi th d a imm s
  | .ori th d a imm => Sys2Proof.Machine.execOri th d a imm s
  | .xori th d a imm => Sys2Proof.Machine.execXori th d a imm s
  | .shli th d a imm => Sys2Proof.Machine.execShli th d a imm s
  | .shri th d a imm => Sys2Proof.Machine.execShri th d a imm s
  | .cmpi th cc d a imm => Sys2Proof.Machine.execCmpi th cc d a imm s
  | .movz th d hw imm => Sys2Proof.Machine.execMovz th d hw imm s
  | .movk th d hw imm => Sys2Proof.Machine.execMovk th d hw imm s
  | .brT th f off => Sys2Proof.Machine.execBrT th f off s
  | .brF th f off => Sys2Proof.Machine.execBrF th f off s
  | .jmp th off => Sys2Proof.Machine.execJmp th off s
  | .jal th d imm => Sys2Proof.Machine.execJal th d imm s
  | .jr th a => Sys2Proof.Machine.execJr th a s
  | .lds th sz view d base off ecc => Sys2Proof.Machine.execLds th sz view d base off ecc s
  | .sts th sz view d base off => Sys2Proof.Machine.execSts th sz view d base off s
  | .ldv th view d base off ecc => Sys2Proof.Machine.execLdv th view d base off ecc s
  | .stv th view d base off => Sys2Proof.Machine.execStv th view d base off s
  | .ldvH th view d base off ecc => Sys2Proof.Machine.execLdvH th view d base off ecc s
  | .stvH th view d base off => Sys2Proof.Machine.execStvH th view d base off s
  | .gth th d a b md ecc => Sys2Proof.Machine.execGth th d a b md ecc s
  | .sct th d a b md => Sys2Proof.Machine.execSct th d a b md s
  | .ldd th sz view d base off => Sys2Proof.Machine.execLdd th sz view d base off s
  | .std th sz view d base off => Sys2Proof.Machine.execStd th sz view d base off s
  | .ldvd th view d base off => Sys2Proof.Machine.execLdvd th view d base off s
  | .stvd th view d base off => Sys2Proof.Machine.execStvd th view d base off s
  | .dmaRd th d a b md => Sys2Proof.Machine.execDmaRd th d a b md s
  | .dmaWr th d a b md => Sys2Proof.Machine.execDmaWr th d a b md s
  | .rld th d a b md => Sys2Proof.Machine.execRld th d a b md s
  | .rst th d a b md => Sys2Proof.Machine.execRst th d a b md s
  | .rldv th d a b md => Sys2Proof.Machine.execRldv th d a b md s
  | .rstv th d a b md => Sys2Proof.Machine.execRstv th d a b md s
  | .radd th d a b md => Sys2Proof.Machine.execRadd th d a b md s
  | .swp th wide view d base off => Sys2Proof.Machine.execSwp th wide view d base off s
  | .cas th wide view d base off => Sys2Proof.Machine.execCas th wide view d base off s
  | .atomicAdd th wide view d base off => Sys2Proof.Machine.execAtomicAdd th wide view d base off s
  | .smin th wide view d base off => Sys2Proof.Machine.execSmin th wide view d base off s
  | .smax th wide view d base off => Sys2Proof.Machine.execSmax th wide view d base off s
  | .umin th wide view d base off => Sys2Proof.Machine.execUmin th wide view d base off s
  | .umax th wide view d base off => Sys2Proof.Machine.execUmax th wide view d base off s
  | .atomicAnd th wide view d base off => Sys2Proof.Machine.execAtomicAnd th wide view d base off s
  | .atomicOr th wide view d base off => Sys2Proof.Machine.execAtomicOr th wide view d base off s
  | .atomicXor th wide view d base off => Sys2Proof.Machine.execAtomicXor th wide view d base off s
  | .fadd th wide view d base off => Sys2Proof.Machine.execFadd th wide view d base off s
  | .redF32 th view d base off => Sys2Proof.Machine.execRedF32 th view d base off s
  | .redBf16 th view d base off => Sys2Proof.Machine.execRedBf16 th view d base off s
  | .redH16 th view d base off => Sys2Proof.Machine.execRedH16 th view d base off s
  | .vadd th fmt d a b md => Sys2Proof.Machine.execVadd th fmt d a b md s
  | .vsub th fmt d a b md => Sys2Proof.Machine.execVsub th fmt d a b md s
  | .vmul th fmt d a b md => Sys2Proof.Machine.execVmul th fmt d a b md s
  | .vmin th fmt d a b md => Sys2Proof.Machine.execVmin th fmt d a b md s
  | .vmax th fmt d a b md => Sys2Proof.Machine.execVmax th fmt d a b md s
  | .vabs th fmt d a b md => Sys2Proof.Machine.execVabs th fmt d a b md s
  | .vneg th fmt d a b md => Sys2Proof.Machine.execVneg th fmt d a b md s
  | .vsel th fmt d a b md => Sys2Proof.Machine.execVsel th fmt d a b md s
  | .vbcast th fmt d a b md => Sys2Proof.Machine.execVbcast th fmt d a b md s
  | .vextr th fmt d a b md => Sys2Proof.Machine.execVextr th fmt d a b md s
  | .vfma th fmt d a b md => Sys2Proof.Machine.execVfma th fmt d a b md s
  | .vrcp th fmt d a b md => Sys2Proof.Machine.execVrcp th fmt d a b md s
  | .vsqrt th fmt d a b md => Sys2Proof.Machine.execVsqrt th fmt d a b md s
  | .vrsqrt th fmt d a b md => Sys2Proof.Machine.execVrsqrt th fmt d a b md s
  | .vexp2 th fmt d a b md => Sys2Proof.Machine.execVexp2 th fmt d a b md s
  | .vsum th fmt d a b md => Sys2Proof.Machine.execVsum th fmt d a b md s
  | .vcmpEq th fmt d a b md => Sys2Proof.Machine.execVcmpEq th fmt d a b md s
  | .vcmpLt th fmt d a b md => Sys2Proof.Machine.execVcmpLt th fmt d a b md s
  | .vcmpLe th fmt d a b md => Sys2Proof.Machine.execVcmpLe th fmt d a b md s
  | .mmaG th acc clr cnt a b fa fb res => Sys2Proof.Machine.execMmaG th acc clr cnt a b fa fb res s
  | .mmaB th acc clr cnt a b fa fb res => Sys2Proof.Machine.execMmaB th acc clr cnt a b fa fb res s
  | .mmaH th acc clr cnt a b fa fb res => Sys2Proof.Machine.execMmaH th acc clr cnt a b fa fb res s
  | .mclr th d a b md => Sys2Proof.Machine.execMclr th d a b md s
  | .mrd th d a b md => Sys2Proof.Machine.execMrd th d a b md s
  | .cvt th dst d a b md => Sys2Proof.Machine.execCvt th dst d a b md s
  | .qntG4 th src d a b md => Sys2Proof.Machine.execQntG4 th src d a b md s
  | .qntG6 th src d a b md => Sys2Proof.Machine.execQntG6 th src d a b md s
  | .qntG8 th src d a b md => Sys2Proof.Machine.execQntG8 th src d a b md s
  | .dqnt th w d a b md ecc => Sys2Proof.Machine.execDqnt th w d a b md ecc s
  | .mxin th fmt d a b md ecc => Sys2Proof.Machine.execMxin th fmt d a b md ecc s
  | .mxout th fmt d a b md ecc => Sys2Proof.Machine.execMxout th fmt d a b md ecc s
  | .fence th => Sys2Proof.Machine.execFence th s
  | .bar th b md => Sys2Proof.Machine.execBar th b md s
  | .gbar th => Sys2Proof.Machine.execGbar th s
  | .waitDma th imm => Sys2Proof.Machine.execWaitDma th imm s
  | .waitEq th a b md ecc => Sys2Proof.Machine.execWaitEq th a b md ecc s
  | .waitNe th a b md ecc => Sys2Proof.Machine.execWaitNe th a b md ecc s
  | .waitGe th a b md ecc => Sys2Proof.Machine.execWaitGe th a b md ecc s
  | .halt th => Sys2Proof.Machine.execHalt th s
  | .prio th imm => Sys2Proof.Machine.execPrio th imm s
  | .rdrng th d => Sys2Proof.Machine.execRdrng th d s
  | .wrrng th a => Sys2Proof.Machine.execWrrng th a s
  | .rdtime th d => Sys2Proof.Machine.execRdtime th d s
  | .imgaddr th d imm => Sys2Proof.Machine.execImgaddr th d imm s
  | .illegalEncoding th w => Sys2Proof.Machine.execIllegalEncoding th w s
  | .starvationPromotion th => Sys2Proof.Machine.execStarvationPromotion th s
  | .faultReport q => Sys2Proof.Machine.execFaultReport q s
  | .scratchpadScrub t g ecc => Sys2Proof.Machine.execScratchpadScrub t g ecc s
  | .icacheRefetch th again => Sys2Proof.Machine.execIcacheRefetch th again s
  | .remoteScratchpadAccess id ecc => Sys2Proof.Machine.execRemoteScratchpadAccess id ecc s
  | .responseArrival id part => Sys2Proof.Machine.execResponseArrival id part s
  | .remoteRequestTimeout id part => Sys2Proof.Machine.execRemoteRequestTimeout id part s
  | .dmaComplete th => Sys2Proof.Machine.execDmaComplete th s
  | .matrixInstructionEnd t ecc => Sys2Proof.Machine.execMatrixInstructionEnd t ecc s
  | .gbarArrival t => Sys2Proof.Machine.execGbarArrival t s
  | .remapApply => Sys2Proof.Machine.execRemapApply s
  | .channelTransaction id part err ecc => Sys2Proof.Machine.execChannelTransaction id part err ecc s
  | .patrolScrubRead sl err => Sys2Proof.Machine.execPatrolScrubRead sl err s
  | .refreshCommand sl bank => Sys2Proof.Machine.execRefreshCommand sl bank s
  | .layerSensorRead st temps => Sys2Proof.Machine.execLayerSensorRead st temps s
  | .stopBandTimeout st => Sys2Proof.Machine.execStopBandTimeout st s
  | .trunkResistanceCheck d uohm amps => Sys2Proof.Machine.execTrunkResistanceCheck d uohm amps s
  | .memCtrlWrite fn value => Sys2Proof.Machine.execMemCtrlWrite fn value s
  | .flitCrcFailure link again => Sys2Proof.Machine.execFlitCrcFailure link again s
  | .requestAging id part => Sys2Proof.Machine.execRequestAging id part s
  | .bar2Read fn off len errs => Sys2Proof.Machine.execBar2Read fn off len errs s
  | .bar2Write fn off data errs => Sys2Proof.Machine.execBar2Write fn off data errs s
  | .configurationRequest fn req => Sys2Proof.Machine.execConfigurationRequest fn req s
  | .perstAssert fn => Sys2Proof.Machine.execPerstAssert fn s
  | .perstDeassert fn => Sys2Proof.Machine.execPerstDeassert fn s
  | .dlUp fn link => Sys2Proof.Machine.execDlUp fn link s
  | .dlDown fn => Sys2Proof.Machine.execDlDown fn s
  | .busMasterEnableClear fn => Sys2Proof.Machine.execBusMasterEnableClear fn s
  | .functionLevelReset fn => Sys2Proof.Machine.execFunctionLevelReset fn s
  | .d3hotEntry fn => Sys2Proof.Machine.execD3hotEntry fn s
  | .msixUnmask fn vec => Sys2Proof.Machine.execMsixUnmask fn vec s
  | .doorbellPoll q => Sys2Proof.Machine.execDoorbellPoll q s
  | .doorbellReadComplete q word => Sys2Proof.Machine.execDoorbellReadComplete q word s
  | .descriptorReadComplete q descs sram => Sys2Proof.Machine.execDescriptorReadComplete q descs sram s
  | .statusWordWrite q => Sys2Proof.Machine.execStatusWordWrite q s
  | .hqWake fn value => Sys2Proof.Machine.execHqWake fn value s
  | .nop q => Sys2Proof.Machine.execNop q s
  | .launch q errs => Sys2Proof.Machine.execLaunch q errs s
  | .launchPrepare q errs => Sys2Proof.Machine.execLaunchPrepare q errs s
  | .launchThreadsStart q => Sys2Proof.Machine.execLaunchThreadsStart q s
  | .launchTimeout q => Sys2Proof.Machine.execLaunchTimeout q s
  | .completionRecordWrite q => Sys2Proof.Machine.execCompletionRecordWrite q s
  | .copy q => Sys2Proof.Machine.execCopy q s
  | .copyComplete q data failedAt errs => Sys2Proof.Machine.execCopyComplete q data failedAt errs s
  | .wait q => Sys2Proof.Machine.execWait q s
  | .waitTimeout q => Sys2Proof.Machine.execWaitTimeout q s
  | .hint q => Sys2Proof.Machine.execHint q s
  | .hintWindowStart k => Sys2Proof.Machine.execHintWindowStart k s
  | .hintWindowEnd k => Sys2Proof.Machine.execHintWindowEnd k s
  | .markJobStart q => Sys2Proof.Machine.execMarkJobStart q s
  | .markJobEnd q => Sys2Proof.Machine.execMarkJobEnd q s
  | .markStepBoundary q errs => Sys2Proof.Machine.execMarkStepBoundary q errs s
  | .queueEnable fn q => Sys2Proof.Machine.execQueueEnable fn q s
  | .queueDrain fn q => Sys2Proof.Machine.execQueueDrain fn q s
  | .queueForce fn q => Sys2Proof.Machine.execQueueForce fn q s
  | .queueClaim fn q => Sys2Proof.Machine.execQueueClaim fn q s
  | .queueRelease fn q => Sys2Proof.Machine.execQueueRelease fn q s
  | .queueTakeover fn q => Sys2Proof.Machine.execQueueTakeover fn q s
  | .maintenancePause fn => Sys2Proof.Machine.execMaintenancePause fn s
  | .portEnable fn p => Sys2Proof.Machine.execPortEnable fn p s
  | .portDisable fn p => Sys2Proof.Machine.execPortDisable fn p s
  | .portForce fn p => Sys2Proof.Machine.execPortForce fn p s
  | .cableDetectAttempt p ans => Sys2Proof.Machine.execCableDetectAttempt p ans s
  | .trainLock p lanes precode => Sys2Proof.Machine.execTrainLock p lanes precode s
  | .trainTimeout p => Sys2Proof.Machine.execTrainTimeout p s
  | .trainingWord p flit fec => Sys2Proof.Machine.execTrainingWord p flit fec s
  | .negotiateTimeout p => Sys2Proof.Machine.execNegotiateTimeout p s
  | .retrainTrigger p why => Sys2Proof.Machine.execRetrainTrigger p why s
  | .retrainLock p lanes => Sys2Proof.Machine.execRetrainLock p lanes s
  | .retrainTimeout p => Sys2Proof.Machine.execRetrainTimeout p s
  | .portAutoRetry p => Sys2Proof.Machine.execPortAutoRetry p s
  | .dataFlit p flit fec sram => Sys2Proof.Machine.execDataFlit p flit fec sram s
  | .idleFlit p flit fec => Sys2Proof.Machine.execIdleFlit p flit fec s
  | .nakRepeat p => Sys2Proof.Machine.execNakRepeat p s
  | .linkFailureDuringFlush p cause => Sys2Proof.Machine.execLinkFailureDuringFlush p cause s
  | .bxRead p errs ecc => Sys2Proof.Machine.execBxRead p errs ecc s
  | .bxWrite p errs ecc => Sys2Proof.Machine.execBxWrite p errs ecc s
  | .bxAtomicSwap p errs => Sys2Proof.Machine.execBxAtomicSwap p errs s
  | .bxAtomicCompareAndSwap p errs => Sys2Proof.Machine.execBxAtomicCompareAndSwap p errs s
  | .bxAtomicIntegerAdd p errs => Sys2Proof.Machine.execBxAtomicIntegerAdd p errs s
  | .bxAtomicSignedMin p errs => Sys2Proof.Machine.execBxAtomicSignedMin p errs s
  | .bxAtomicSignedMax p errs => Sys2Proof.Machine.execBxAtomicSignedMax p errs s
  | .bxAtomicUnsignedMin p errs => Sys2Proof.Machine.execBxAtomicUnsignedMin p errs s
  | .bxAtomicUnsignedMax p errs => Sys2Proof.Machine.execBxAtomicUnsignedMax p errs s
  | .bxAtomicAnd p errs => Sys2Proof.Machine.execBxAtomicAnd p errs s
  | .bxAtomicOr p errs => Sys2Proof.Machine.execBxAtomicOr p errs s
  | .bxAtomicXor p errs => Sys2Proof.Machine.execBxAtomicXor p errs s
  | .bxAtomicFp32Add p errs => Sys2Proof.Machine.execBxAtomicFp32Add p errs s
  | .bxReduce p errs => Sys2Proof.Machine.execBxReduce p errs s
  | .readRsp p => Sys2Proof.Machine.execReadRsp p s
  | .writeAck p => Sys2Proof.Machine.execWriteAck p s
  | .atomicRsp p => Sys2Proof.Machine.execAtomicRsp p s
  | .collAck p => Sys2Proof.Machine.execCollAck p s
  | .beruxRequestTimeout p tag => Sys2Proof.Machine.execBeruxRequestTimeout p tag s
  | .heartbeatSend p => Sys2Proof.Machine.execHeartbeatSend p s
  | .heartbeat p => Sys2Proof.Machine.execHeartbeat p s
  | .heartbeatLoss p => Sys2Proof.Machine.execHeartbeatLoss p s
  | .capNotice p => Sys2Proof.Machine.execCapNotice p s
  | .leaseRequest p => Sys2Proof.Machine.execLeaseRequest p s
  | .leaseGrant p => Sys2Proof.Machine.execLeaseGrant p s
  | .leaseRenew p => Sys2Proof.Machine.execLeaseRenew p s
  | .leaseRenewAck p => Sys2Proof.Machine.execLeaseRenewAck p s
  | .leaseRelease p => Sys2Proof.Machine.execLeaseRelease p s
  | .promoteRequest p => Sys2Proof.Machine.execPromoteRequest p s
  | .promoteGrant p => Sys2Proof.Machine.execPromoteGrant p s
  | .promoteDeny p => Sys2Proof.Machine.execPromoteDeny p s
  | .tombstone p => Sys2Proof.Machine.execTombstone p s
  | .epochPropose p => Sys2Proof.Machine.execEpochPropose p s
  | .epochVote p => Sys2Proof.Machine.execEpochVote p s
  | .epochCommit p => Sys2Proof.Machine.execEpochCommit p s
  | .epochVoteTimeout role => Sys2Proof.Machine.execEpochVoteTimeout role s
  | .flushDrainEnd p => Sys2Proof.Machine.execFlushDrainEnd p s
  | .flushTimeout p => Sys2Proof.Machine.execFlushTimeout p s
  | .tombstoneDone p => Sys2Proof.Machine.execTombstoneDone p s
  | .cableMonitorRead p ans => Sys2Proof.Machine.execCableMonitorRead p ans s
  | .cagePresenceChange p low => Sys2Proof.Machine.execCagePresenceChange p low s
  | .cageCurrentLimit p => Sys2Proof.Machine.execCageCurrentLimit p s
  | .cagePowerRetry p => Sys2Proof.Machine.execCagePowerRetry p s
  | .allReduce q errs => Sys2Proof.Machine.execAllReduce q errs s
  | .reduceScatter q errs => Sys2Proof.Machine.execReduceScatter q errs s
  | .allGather q errs => Sys2Proof.Machine.execAllGather q errs s
  | .allToAll q errs => Sys2Proof.Machine.execAllToAll q errs s
  | .broadcast q errs => Sys2Proof.Machine.execBroadcast q errs s
  | .collectiveInstanceStart q errs => Sys2Proof.Machine.execCollectiveInstanceStart q errs s
  | .collectiveInstanceDone q => Sys2Proof.Machine.execCollectiveInstanceDone q s
  | .collectiveInstanceTimeout q => Sys2Proof.Machine.execCollectiveInstanceTimeout q s
  | .collReady p errs => Sys2Proof.Machine.execCollReady p errs s
  | .collPut p errs => Sys2Proof.Machine.execCollPut p errs s
  | .collReduce p sram errs => Sys2Proof.Machine.execCollReduce p sram errs s
  | .collCommit p => Sys2Proof.Machine.execCollCommit p s
  | .collAbort p => Sys2Proof.Machine.execCollAbort p s
  | .leaseRenewTimer k => Sys2Proof.Machine.execLeaseRenewTimer k s
  | .leaseMiss k => Sys2Proof.Machine.execLeaseMiss k s
  | .holderSelfFence k => Sys2Proof.Machine.execHolderSelfFence k s
  | .promoteRequestResend k => Sys2Proof.Machine.execPromoteRequestResend k s
  | .presenceSettled => Sys2Proof.Machine.execPresenceSettled s
  | .busContactsMake => Sys2Proof.Machine.execBusContactsMake s
  | .converterStop mv => Sys2Proof.Machine.execConverterStop mv s
  | .converterRestart mv => Sys2Proof.Machine.execConverterRestart mv s
  | .converterFault c overTemp => Sys2Proof.Machine.execConverterFault c overTemp s
  | .opPinChange d op => Sys2Proof.Machine.execOpPinChange d op s
  | .opDone d => Sys2Proof.Machine.execOpDone d s
  | .storedValueWrite d k mv => Sys2Proof.Machine.execStoredValueWrite d k mv s
  | .dividerChange d n => Sys2Proof.Machine.execDividerChange d n s
  | .phaseShed r amps => Sys2Proof.Machine.execPhaseShed r amps s
  | .shedTransitionEnd r => Sys2Proof.Machine.execShedTransitionEnd r s
  | .phaseAddBack r why => Sys2Proof.Machine.execPhaseAddBack r why s
  | .phaseFault r phase cause => Sys2Proof.Machine.execPhaseFault r phase cause s
  | .railEnable r => Sys2Proof.Machine.execRailEnable r s
  | .powerGood r => Sys2Proof.Machine.execPowerGood r s
  | .startAttemptFailure r => Sys2Proof.Machine.execStartAttemptFailure r s
  | .hiccupRetry r => Sys2Proof.Machine.execHiccupRetry r s
  | .railOvercurrent r => Sys2Proof.Machine.execRailOvercurrent r s
  | .railOvervoltage r => Sys2Proof.Machine.execRailOvervoltage r s
  | .railUndervoltage r => Sys2Proof.Machine.execRailUndervoltage r s
  | .powerStageWarm r => Sys2Proof.Machine.execPowerStageWarm r s
  | .sensePointIgnored d k => Sys2Proof.Machine.execSensePointIgnored d k s
  | .rearm src rails => Sys2Proof.Machine.execRearm src rails s
  | .railDischarged r => Sys2Proof.Machine.execRailDischarged r s
  | .slotSample n inp => Sys2Proof.Machine.execSlotSample n inp s
  | .slotOff n => Sys2Proof.Machine.execSlotOff n s
  | .slotManual n => Sys2Proof.Machine.execSlotManual n s
  | .slotAuto n => Sys2Proof.Machine.execSlotAuto n s
  | .slotScheduled n => Sys2Proof.Machine.execSlotScheduled n s
  | .tuningCommit n set v => Sys2Proof.Machine.execTuningCommit n set v s
  | .operatingValueWrite n v => Sys2Proof.Machine.execOperatingValueWrite n v s
  | .phaseSet ph => Sys2Proof.Machine.execPhaseSet ph s
  | .injectionStart inj => Sys2Proof.Machine.execInjectionStart inj s
  | .injectionEnd n => Sys2Proof.Machine.execInjectionEnd n s
  | .captureArm cap => Sys2Proof.Machine.execCaptureArm cap s
  | .converterCommandTimeout => Sys2Proof.Machine.execConverterCommandTimeout s
  | .engineParityError => Sys2Proof.Machine.execEngineParityError s
  | .smoothingModeChange forced route => Sys2Proof.Machine.execSmoothingModeChange forced route s
  | .scanStart => Sys2Proof.Machine.execScanStart s
  | .conversionWindowClose rd => Sys2Proof.Machine.execConversionWindowClose rd s
  | .balancingSlot odd => Sys2Proof.Machine.execBalancingSlot odd s
  | .checkScanWindow rd outsideAbs => Sys2Proof.Machine.execCheckScanWindow rd outsideAbs s
  | .balancingSwitchTest res => Sys2Proof.Machine.execBalancingSwitchTest res s
  | .capacitanceEstimate caps => Sys2Proof.Machine.execCapacitanceEstimate caps s
  | .storeConnectRequest => Sys2Proof.Machine.execStoreConnectRequest s
  | .prechargeComplete => Sys2Proof.Machine.execPrechargeComplete s
  | .swBClose => Sys2Proof.Machine.execSwBClose s
  | .storeIsolateRequest => Sys2Proof.Machine.execStoreIsolateRequest s
  | .monitorMessage => Sys2Proof.Machine.execMonitorMessage s
  | .monitorSleep => Sys2Proof.Machine.execMonitorSleep s
  | .monitorWakeMessage => Sys2Proof.Machine.execMonitorWakeMessage s
  | .drainButton => Sys2Proof.Machine.execDrainButton s
  | .drainReturnEnd => Sys2Proof.Machine.execDrainReturnEnd s
  | .bleedEnd => Sys2Proof.Machine.execBleedEnd s
  | .opEvaluation m => Sys2Proof.Machine.execOpEvaluation m s
  | .idleDieTimeout d => Sys2Proof.Machine.execIdleDieTimeout d s
  | .ageingTrim d => Sys2Proof.Machine.execAgeingTrim d s
  | .shareExpiry => Sys2Proof.Machine.execShareExpiry s
  | .zejorManagerLoss b => Sys2Proof.Machine.execZejorManagerLoss b s
  | .capDeferralTimeout => Sys2Proof.Machine.execCapDeferralTimeout s
  | .matchExpiry k => Sys2Proof.Machine.execMatchExpiry k s
  | .thermalLoop m => Sys2Proof.Machine.execThermalLoop m s
  | .absorbLimitUpdate => Sys2Proof.Machine.execAbsorbLimitUpdate s
  | .ballastUpdate => Sys2Proof.Machine.execBallastUpdate s
  | .holdEnd => Sys2Proof.Machine.execHoldEnd s
  | .holdRecovery => Sys2Proof.Machine.execHoldRecovery s
  | .quiesceFetchDeadline => Sys2Proof.Machine.execQuiesceFetchDeadline s
  | .quiescePowerDown => Sys2Proof.Machine.execQuiescePowerDown s
  | .recoveryPhaseEnd => Sys2Proof.Machine.execRecoveryPhaseEnd s
  | .demandAboveCeiling => Sys2Proof.Machine.execDemandAboveCeiling s
  | .demandFarAboveCeiling => Sys2Proof.Machine.execDemandFarAboveCeiling s
  | .coreMeanAboveCeiling d => Sys2Proof.Machine.execCoreMeanAboveCeiling d s
  | .coreOvervoltageCrowbar d => Sys2Proof.Machine.execCoreOvervoltageCrowbar d s
  | .coreUndervoltageTrip d => Sys2Proof.Machine.execCoreUndervoltageTrip d s
  | .vlinkOutOfRange d => Sys2Proof.Machine.execVlinkOutOfRange d s
  | .vdramOvervoltageCrowbar => Sys2Proof.Machine.execVdramOvervoltageCrowbar s
  | .vdramUndervoltageTrip => Sys2Proof.Machine.execVdramUndervoltageTrip s
  | .twelveVOvervoltage => Sys2Proof.Machine.execTwelveVOvervoltage s
  | .twelveVUndervoltage => Sys2Proof.Machine.execTwelveVUndervoltage s
  | .railStartFailure r => Sys2Proof.Machine.execRailStartFailure r s
  | .powerStageTrip r => Sys2Proof.Machine.execPowerStageTrip r s
  | .dieOverTemperature d => Sys2Proof.Machine.execDieOverTemperature d s
  | .coolantOutletTrip => Sys2Proof.Machine.execCoolantOutletTrip s
  | .cellOvervoltageTrip => Sys2Proof.Machine.execCellOvervoltageTrip s
  | .cellUndervoltageTrip => Sys2Proof.Machine.execCellUndervoltageTrip s
  | .stackOvervoltageTrip => Sys2Proof.Machine.execStackOvervoltageTrip s
  | .storeOvercurrentTrip => Sys2Proof.Machine.execStoreOvercurrentTrip s
  | .storeOverTemperatureTrip => Sys2Proof.Machine.execStoreOverTemperatureTrip s
  | .cellMonitorTrip => Sys2Proof.Machine.execCellMonitorTrip s
  | .crownStrobeLoss => Sys2Proof.Machine.execCrownStrobeLoss s
  | .storeSwitchMismatch swB => Sys2Proof.Machine.execStoreSwitchMismatch swB s
  | .busDip mv => Sys2Proof.Machine.execBusDip mv s
  | .dipProlonged => Sys2Proof.Machine.execDipProlonged s
  | .busLoss => Sys2Proof.Machine.execBusLoss s
  | .busNodeOvervoltage => Sys2Proof.Machine.execBusNodeOvervoltage s
  | .trayRemoval pinB => Sys2Proof.Machine.execTrayRemoval pinB s
  | .brownoutWarning => Sys2Proof.Machine.execBrownoutWarning s
  | .heartwoodReset => Sys2Proof.Machine.execHeartwoodReset s
  | .channelDisagreement refs => Sys2Proof.Machine.execChannelDisagreement refs s
  | .hwdClockFailure => Sys2Proof.Machine.execHwdClockFailure s
  | .ceilingWrite k v => Sys2Proof.Machine.execCeilingWrite k v s
  | .limitRelease code d => Sys2Proof.Machine.execLimitRelease code d s
  | .crownStrobe => Sys2Proof.Machine.execCrownStrobe s
  | .dipEnd => Sys2Proof.Machine.execDipEnd s
  | .inputSwitchReclose => Sys2Proof.Machine.execInputSwitchReclose s
  | .brownoutEnd => Sys2Proof.Machine.execBrownoutEnd s
  | .powerOn f => Sys2Proof.Machine.execPowerOn f s
  | .stage1Start slotId rxBreak passes lifeGood => Sys2Proof.Machine.execStage1Start slotId rxBreak passes lifeGood s
  | .firmwareRunning => Sys2Proof.Machine.execFirmwareRunning s
  | .monitorWakeTimeout => Sys2Proof.Machine.execMonitorWakeTimeout s
  | .stage2Start => Sys2Proof.Machine.execStage2Start s
  | .storeConnectTimeout => Sys2Proof.Machine.execStoreConnectTimeout s
  | .stage3Entry => Sys2Proof.Machine.execStage3Entry s
  | .dieBringupStart d => Sys2Proof.Machine.execDieBringupStart d s
  | .rootPllLock d => Sys2Proof.Machine.execRootPllLock d s
  | .rootPllLockTimeout d => Sys2Proof.Machine.execRootPllLockTimeout d s
  | .dieBringupDone d r => Sys2Proof.Machine.execDieBringupDone d r s
  | .entryRetry => Sys2Proof.Machine.execEntryRetry s
  | .rootPllUnlock d => Sys2Proof.Machine.execRootPllUnlock d s
  | .refLoss => Sys2Proof.Machine.execRefLoss s
  | .restart src => Sys2Proof.Machine.execRestart src s
  | .reenter src => Sys2Proof.Machine.execReenter src s
  | .autoReentry => Sys2Proof.Machine.execAutoReentry s
  | .seal fn => Sys2Proof.Machine.execSeal fn s
  | .crownWatchdog => Sys2Proof.Machine.execCrownWatchdog s
  | .ringStart fn => Sys2Proof.Machine.execRingStart fn s
  | .ringStop fn => Sys2Proof.Machine.execRingStop fn s
  | .crnKick fn => Sys2Proof.Machine.execCrnKick fn s
  | .ringPoll fn sram => Sys2Proof.Machine.execRingPoll fn sram s
  | .getStatus src => Sys2Proof.Machine.execGetStatus src s
  | .getNonce src => Sys2Proof.Machine.execGetNonce src s
  | .getEvents src => Sys2Proof.Machine.execGetEvents src s
  | .setShare src => Sys2Proof.Machine.execSetShare src s
  | .leRequest src n act => Sys2Proof.Machine.execLeRequest src n act s
  | .epochStage src blocks => Sys2Proof.Machine.execEpochStage src blocks s
  | .hostEpochPropose src => Sys2Proof.Machine.execHostEpochPropose src s
  | .epochInstall src epoch blocks => Sys2Proof.Machine.execEpochInstall src epoch blocks s
  | .lease src => Sys2Proof.Machine.execLease src s
  | .imageLoad src => Sys2Proof.Machine.execImageLoad src s
  | .imageLoadComplete readBackOk => Sys2Proof.Machine.execImageLoadComplete readBackOk s
  | .imageActivate src => Sys2Proof.Machine.execImageActivate src s
  | .imageConfirm src => Sys2Proof.Machine.execImageConfirm src s
  | .deploy src => Sys2Proof.Machine.execDeploy src s
  | .endService src => Sys2Proof.Machine.execEndService src s
  | .logRead src => Sys2Proof.Machine.execLogRead src s
  | .enterService src => Sys2Proof.Machine.execEnterService src s
  | .ownerRelease src => Sys2Proof.Machine.execOwnerRelease src s
  | .retireModule src => Sys2Proof.Machine.execRetireModule src s
  | .clearRingLog src => Sys2Proof.Machine.execClearRingLog src s
  | .logClearEraseDone => Sys2Proof.Machine.execLogClearEraseDone s
  | .editRetirementMap src passes => Sys2Proof.Machine.execEditRetirementMap src passes s
  | .nonceExpiry path => Sys2Proof.Machine.execNonceExpiry path s
  | .tamper sensor => Sys2Proof.Machine.execTamper sensor s
  | .zejorIdent bus dst sender => Sys2Proof.Machine.execZejorIdent bus dst sender s
  | .zejorPoll bus dst sender => Sys2Proof.Machine.execZejorPoll bus dst sender s
  | .zejorShare bus dst sender share smooth => Sys2Proof.Machine.execZejorShare bus dst sender share smooth s
  | .getVersion fn => Sys2Proof.Machine.execGetVersion fn s
  | .getCapabilities fn => Sys2Proof.Machine.execGetCapabilities fn s
  | .negotiateAlgorithms fn asym hash => Sys2Proof.Machine.execNegotiateAlgorithms fn asym hash s
  | .getDigests fn => Sys2Proof.Machine.execGetDigests fn s
  | .getCertificate fn slot off len => Sys2Proof.Machine.execGetCertificate fn slot off len s
  | .challenge fn slot nonce sram => Sys2Proof.Machine.execChallenge fn slot nonce sram s
  | .getMeasurements fn index signed nonce => Sys2Proof.Machine.execGetMeasurements fn index signed nonce s
  | .dailyTransparentMarch region => Sys2Proof.Machine.execDailyTransparentMarch region s
  | .recordClose k => Sys2Proof.Machine.execRecordClose k s
  | .logFlush => Sys2Proof.Machine.execLogFlush s
  | .pageProgramVerify ok sram => Sys2Proof.Machine.execPageProgramVerify ok sram s
  | .serialBreak => Sys2Proof.Machine.execSerialBreak s
  | .abortByte => Sys2Proof.Machine.execAbortByte s
  | .status part => Sys2Proof.Machine.execStatus part s
  | .logDump off => Sys2Proof.Machine.execLogDump off s
  | .baud rate => Sys2Proof.Machine.execBaud rate s
  | .nonce => Sys2Proof.Machine.execNonce s
  | .ackConfig src => Sys2Proof.Machine.execAckConfig src s
  | .testTile t => Sys2Proof.Machine.execTestTile t s
  | .testStack st => Sys2Proof.Machine.execTestStack st s
  | .testLink p => Sys2Proof.Machine.execTestLink p s
  | .testLinkEnd p received => Sys2Proof.Machine.execTestLinkEnd p received s
  | .testRail r mv => Sys2Proof.Machine.execTestRail r mv s
  | .testPhase d n amps mean => Sys2Proof.Machine.execTestPhase d n amps mean s
  | .testCell => Sys2Proof.Machine.execTestCell s
  | .testBalance => Sys2Proof.Machine.execTestBalance s
  | .testLog => Sys2Proof.Machine.execTestLog s
  | .testLoop n wave amp => Sys2Proof.Machine.execTestLoop n wave amp s
  | .testTrip code => Sys2Proof.Machine.execTestTrip code s
  | .testTripSwitches contacts => Sys2Proof.Machine.execTestTripSwitches contacts s
  | .testTripCrowbar res => Sys2Proof.Machine.execTestTripCrowbar res s
  | .phaseOff d n => Sys2Proof.Machine.execPhaseOff d n s
  | .phaseOn d n => Sys2Proof.Machine.execPhaseOn d n s
  | .march mem inst => Sys2Proof.Machine.execMarch mem inst s
  | .marchSecure => Sys2Proof.Machine.execMarchSecure s
  | .retireTile t => Sys2Proof.Machine.execRetireTile t s
  | .release => Sys2Proof.Machine.execRelease s
  | .drain => Sys2Proof.Machine.execDrain s
  | .recover blocks => Sys2Proof.Machine.execRecover blocks s
  | .hostCompletionTimeout q => Sys2Proof.Machine.execHostCompletionTimeout q s
  | .msixMask fn vec => Sys2Proof.Machine.execMsixMask fn vec s
  | .presencePinLow pinB => Sys2Proof.Machine.execPresencePinLow pinB s
  | .refRecovery => Sys2Proof.Machine.execRefRecovery s
  | .mailboxGo fn => Sys2Proof.Machine.execMailboxGo fn s
  | .invalidDescriptor q => Sys2Proof.Machine.execInvalidDescriptor q s
  | .unsupportedMessage src => Sys2Proof.Machine.execUnsupportedMessage src s
  | .spdmUnsupportedRequest fn code => Sys2Proof.Machine.execSpdmUnsupportedRequest fn code s
  | .zejorBadFrame bus => Sys2Proof.Machine.execZejorBadFrame bus s
  | .zejorUnlistedCommand bus dst sender cmd => Sys2Proof.Machine.execZejorUnlistedCommand bus dst sender cmd s
  | .consoleUnknownCommand line => Sys2Proof.Machine.execConsoleUnknownCommand line s
  | .factoryProvisioning cert => Sys2Proof.Machine.execFactoryProvisioning cert s
  | .marchEnd mem inst cells corr selfTestOk => Sys2Proof.Machine.execMarchEnd mem inst cells corr selfTestOk s
  | .ageingMarginReport d region permille => Sys2Proof.Machine.execAgeingMarginReport d region permille s
  | .hoursSave => Sys2Proof.Machine.execHoursSave s
  | .beruxInvalidTransaction p => Sys2Proof.Machine.execBeruxInvalidTransaction p s
  | .tripTestStepEnd us => Sys2Proof.Machine.execTripTestStepEnd us s

end Sys2Proof.Machine
end

