-- ==== Sys2Proof/Machine/Tick.lean ====
section
/-! DEFINITION. The passing of one microsecond while no command waits (R193, R471, R482, R485, R499; log 2). -/

namespace Sys2Proof.Machine

open Sys2Proof

/-- The operating hours count in units of 0.1 s (R482). -/
def Clocks.countHours (c : Clocks) : Clocks :=
  if c.hoursUs + 1 < 100000 then { c with hoursUs := c.hoursUs + 1 } else { c with hoursUs := 0, hours := c.hours + 1 }

/-- One microsecond of the clocks: 100 cycles of REF, and 12,500 of each root PLL that is locked (R471, R472). -/
def Clocks.tick (c : Clocks) : Clocks :=
  let c := c.countHours
  { c with
    us := c.us + 1
    refCount := if c.refOk then c.refCount + 100 else c.refCount
    stamp := Vector.ofFn (fun d => if c.pll[d] then c.stamp[d] + 12500 else c.stamp[d]) }

/-- A vector 65 signal that is owed goes once its 100 µs have passed (R499). -/
def State.payOwed (s : State) (fn : Fn) : State := if s.rings[fnIdx fn].owed then s.signalRing fn else s

/-- A start of a ring and events that wait for device memory go on as soon as it serves them (R494, R499; log 196). -/
def State.tendRing (s : State) (fn : Fn) : State := (if s.rings[fnIdx fn].starting then s.ringStart fn else s).flushEvents fn

/-- One microsecond passes in a powered module: the clocks count, a changed configuration is programmed, and what is owed to the host ports is
performed. -/
def State.tick (s : State) : State :=
  if s.stage = .unpowered then s
  else
    let s : State := ({ s with clk := s.clk.tick }).syncConfig
    let s := (s.performWrites .A).performWrites .B
    let s := ((s.tendRing .A).tendRing .B).tendConsole
    (s.payOwed .A).payOwed .B

end Sys2Proof.Machine
end

