-- ==== Sys2Proof/Safety.lean ====
section
/-! DEFINITION. What counts as a safe run, and the words in which the statements about a thread's instructions are put: when an
instruction can issue and complete, what it may change, and how it goes on. -/

namespace Sys2Proof.Machine

open Sys2Proof

/-- A step goes on: no fault and no refusal. -/
def goesOn (s : State) : Prop := ∃ t, step s = .next t

/-- The device memory is in its canonical form. -/
def State.memoryCanonical (s : State) : Prop := Memory.wf 0 s.mem.dram = true

/-- Device memory and every scratchpad are in their canonical form. -/
def State.memoriesCanonical (s : State) : Prop := s.memoryCanonical ∧ ∀ k, Memory.wf 0 (s.tile k).pad = true

/-! ## Instructions of a thread -/

/-- An image offset lies in the code region of the launch that runs on a tile, if one does (R184). -/
def State.inCode (s : State) (t : Nat) (pc : BitVec 32) : Prop :=
  ∀ l, s.launchOf t = some l → l.codeLo ≤ pc.toNat ∧ pc.toNat < l.codeHi

/-- The thread that a `Thr` names. -/
def State.me (s : State) (th : Thr) : Thread := s.thread th.tile th.thread

/-- A thread's instruction can issue and complete: the thread is the READY thread that the issue stage of its tile chooses, it has nothing
outstanding, and the instruction after it lies in the code region (R40, R44, R46, R184). -/
def State.canRun (s : State) (th : Thr) : Prop :=
  (s.tile th.tile).pick = some th.thread ∧ s.outstanding th.tile th.thread = [] ∧ s.inCode th.tile ((s.me th).pc + 4)

/-- Two threads differ at most in their count of issues passed over (R47). -/
def Thread.samePassed (x y : Thread) : Prop := { y with passed := x.passed } = x

/-- Two threads differ at most in that count and in what they wait for: registers, flags, masks, generator, program counter, priority,
fault cause and promotion are the same. -/
def Thread.sameRegs (x y : Thread) : Prop := { y with passed := x.passed, state := x.state, stall := x.stall, wait := x.wait } = x

/-- `t` differs from `s` in nothing but one thread, the count of issues passed over of the other threads of its tile, and the tile's last
issuer: every other tile, the tile's scratchpad, accumulators and caches, and the rest of the module are as they were. -/
def State.sameBut (s t : State) (th : Thr) : Prop :=
  { t with tiles := s.tiles } = s ∧
  (∀ k, k ≠ th.tile.val → t.tile k = s.tile k) ∧
  { t.tile th.tile with threads := (s.tile th.tile).threads, lastIssued := (s.tile th.tile).lastIssued } = s.tile th.tile ∧
  (∀ n, n ≠ th.thread → (s.thread th.tile n).samePassed (t.thread th.tile n))

/-- From `s` the thread's instruction completes in `t`: the thread is `y` one instruction further, and nothing else differs. -/
def State.retires (s t : State) (th : Thr) (y : Thread) : Prop :=
  t.me th = { y with pc := y.pc + 4, passed := 0, boosted := false } ∧ s.sameBut t th

/-- As `sameBut`, where other threads of the tile may also have stopped waiting or stalling. -/
def State.sameButWoken (s t : State) (th : Thr) : Prop :=
  { t with tiles := s.tiles } = s ∧
  (∀ k, k ≠ th.tile.val → t.tile k = s.tile k) ∧
  { t.tile th.tile with threads := (s.tile th.tile).threads, lastIssued := (s.tile th.tile).lastIssued } = s.tile th.tile ∧
  (∀ n, n ≠ th.thread → (s.thread th.tile n).sameRegs (t.thread th.tile n))

/-- As `retires`, for an instruction after which waits are examined again (R180). -/
def State.retiresWaking (s t : State) (th : Thr) (y : Thread) : Prop :=
  t.me th = { y with pc := y.pc + 4, passed := 0, boosted := false } ∧ s.sameButWoken t th

/-- From `s` the thread's instruction faults with a cause in `t`: the thread keeps its registers and its program counter and is FAULTED
(R44, R61); beside it only the running launch has changed, to which the fault is reported, and what other threads of the tile wait for. -/
def State.faults (s t : State) (th : Thr) (cause : BitVec 8) : Prop :=
  t.me th = { s.me th with state := .faulted, cause := cause, stall := none, wait := none, passed := 0, boosted := false } ∧
  { s with hq := t.hq }.sameButWoken t th

/-- A thread that issues goes on in `t` at `pc` as `y`, or faults with cause 0x01 where `pc` lies outside the code region (R184). -/
def State.goesTo (s t : State) (th : Thr) (y : Thread) (pc : BitVec 32) : Prop :=
  (s.inCode th.tile pc → t.me th = { y with pc := pc, passed := 0, boosted := false } ∧ s.sameBut t th) ∧
  (¬ s.inCode th.tile pc → (t.me th).state = .faulted ∧ (t.me th).cause = 0x01 ∧ { s with hq := t.hq }.sameButWoken t th)

/-- From `s` the thread's instruction is not eligible: in `t` the thread is STALLED for a reason with its registers, flags and program counter,
its time as a READY thread is over, and nothing else has changed (R40, R44, R47). -/
def State.stallsOn (s t : State) (th : Thr) (reason : StallCause) : Prop :=
  t.me th = { s.me th with state := .stalled, stall := some reason, passed := 0 } ∧ s.sameBut t th ∧
  ∀ n, n ≠ th.thread → s.thread th.tile n = t.thread th.tile n

/-! ## Scratchpads -/

/-- None of the words that `n` bytes from an offset touch holds an uncorrectable error (R55). -/
def Tile.cleanAt (x : Tile) (off n : Nat) : Prop := ∀ w ∈ padWords off n, w.1 ∉ x.padBad

/-- A store of `n` bytes at an offset neither covers part of an unsound word (R56) nor makes a thread that waits on an unsound word read it again
(R55, R180). -/
def Tile.storesClean (x : Tile) (off n : Nat) : Prop :=
  x.narrowBad off n = false ∧ x.rereadBad ((padWords off n).map Prod.fst) = []

/-- Scratchpad `q` is scratchpad `p` with bytes stored from an offset on, modulo 1 MiB: every other byte reads as before. -/
def padStored (p q : Keyed Byte) (off : Nat) (bytes : List Byte) : Prop :=
  (∀ (k : Nat) (h : k < bytes.length), find 0 q ((off + k) % 2 ^ 20) = bytes[k]) ∧
  ∀ i, (∀ k < bytes.length, i ≠ (off + k) % 2 ^ 20) → find 0 q i = find 0 p i

/-- From `s` the thread's instruction completes in `t` having stored bytes in its tile's scratchpad and nothing else: words covered whole lose
their error (R56), and waits are examined again (R180). -/
def State.storesPad (s t : State) (th : Thr) (off : Nat) (bytes : List Byte) : Prop :=
  ∃ q, padStored (s.tile th.tile).pad q off bytes ∧
    (s.setTile th.tile { s.tile th.tile with
      pad := q
      padBad := (s.tile th.tile).padBad.filter (fun w => !(padWords off bytes.length).contains (w, true)) }).retiresWaking t th (s.me th)

/-! ## Requests -/

/-- From `s` the thread's instruction completes in `t` having sent one request and done nothing else: the request waits behind all others
under the next number, its near parts stand in the tile's memory request tracker, and its thread goes on at once (R60, R111, R112). -/
def State.sends (s t : State) (th : Thr) (op : MemOp) (remote : Option Nat) (view : BitVec 2) (addr len : Nat) (bytes : List Byte)
    (dest : Dest) : Prop :=
  let r : MemReq := { id := s.mem.nextId, tile := th.tile, thread := th.thread, pc := (s.me th).pc, op := op, remote := remote
                      view := view, addr := addr, len := len, bytes := bytes, dest := dest, served := [], answered := []
                      expired := [], orphan := false }
  ({ s with mem := { s.mem with
      reqs := s.mem.reqs ++ [r], tracker := s.mem.tracker ++ r.arriving, nextId := s.mem.nextId + 1 } } : State).retires t th (s.me th)

/-- A tile's trackers have room for one more request of two transactions (R60). -/
def State.trackerRoom (s : State) (t : Nat) : Prop := s.memEntries t + 2 ≤ 64 ∧ s.remEntries t + 2 ≤ 32

/-! ## Vectors -/

/-- A value and flags for each lane, from three operand lanes, under a rounding. -/
abbrev LaneOp := Rounding → Nat → Nat → Nat → Nat → Nat × FFlags

/-- Some enabled lane raises a flag. -/
def lanesRaise (f : LaneFmt) (x : Thread) (md : BitVec 8) (op : Nat → Nat × FFlags) : Bool :=
  (List.range (laneCount f)).any (fun i => laneOn f x md i && (op i).2.any)

/-- The enabled lanes of `w` hold their results and the others what they held in `old` (R165). -/
def lanesHold (f : LaneFmt) (x : Thread) (md : BitVec 8) (old w : BitVec 1024) (op : Nat → Nat × FFlags) : Prop :=
  ∀ i < laneCount f, lane f w i = if laneOn f x md i then (op i).1 % 2 ^ laneWidth f else lane f old i

/-- How an instruction that can raise arithmetic flags ends (R95): as `y` with f7 set where it raised one; but where the trap bit is set as well,
FAULTED with cause 0x07 and no result. -/
def State.endsArith (s t : State) (th : Thr) (trap raised : Bool) (y : Thread) : Prop :=
  if raised && trap then
    t.me th = { s.me th with f := (s.me th).f ||| 0x80#8, rng := y.rng, state := .faulted, cause := 0x07, stall := none, wait := none
                             passed := 0, boosted := false } ∧ { s with hq := t.hq }.sameButWoken t th
  else s.retires t th { y with f := if raised then y.f ||| 0x80#8 else y.f }

/-- The rounding that a mod byte asks for, with the thread's generator and the next free value (R90, R163). -/
def roundingOf (s : State) (th : Thr) (md : BitVec 8) (mode : RMode) : Rounding :=
  { mode := mode, sat := md.getLsbD 5, rng := (s.me th).rng, free := s.free }

/-- The state in which an instruction that rounds `n` elements leaves the count of free values (R92, log 12). -/
def State.rounded (s : State) (mode : RMode) (n : Nat) : State := { s with free := s.free + if mode = .stochastic then n else 0 }

/-- The generator after such an instruction (R92). -/
def rngRounded (mode : RMode) (r : Word) (n : Nat) : Word := if mode = .stochastic then rngAfter r n else r

/-! ## Host functions -/

/-- The queues that a function owns and that run are in ERROR with a cause, their fetched work discarded and its records counted as lost; of
every other queue nothing has changed but the outcome of WAITs (R228). -/
def State.queuesLost (s t : State) (fn : Fn) (cause : BitVec 4) : Prop :=
  (∀ q : Fin 64, s.queues[q].owner = some fn → s.queues[q].state ≠ .disabled → t.queues[q] = { s.queues[q] with
    state := .error, cause := cause, lost := s.queues[q].lost + BitVec.ofNat 32 s.queues[q].inflight.length, inflight := [], polling := 0
    reading := 0, statusOwed := false }) ∧
  ∀ q : Fin 64, s.queues[q].owner ≠ some fn ∨ s.queues[q].state = .disabled →
    { t.queues[q] with inflight := s.queues[q].inflight } = s.queues[q]

/-- The queues that a function owns are DISABLED with the cause no_master, where they were not DISABLED before, with the reset values of their address, configuration and command registers, their fetched
work discarded and its records counted as lost; of every other queue nothing has changed but the outcome of WAITs (R228). -/
def State.queuesCleared (s t : State) (fn : Fn) : Prop :=
  (∀ q : Fin 64, s.queues[q].owner = some fn → (∀ o ∈ [0x00, 0x08, 0x10, 0x18, 0x20, 0x24], t.reg .A (qReg q + o) = regReset (qReg q + o)) ∧
    t.queues[q] = { s.queues[q] with
      state := .disabled, cause := if s.queues[q].state = .disabled then s.queues[q].cause else 3
      lost := s.queues[q].lost + BitVec.ofNat 32 s.queues[q].inflight.length, inflight := [], polling := 0, reading := 0, statusOwed := false }) ∧
  ∀ q : Fin 64, s.queues[q].owner ≠ some fn → { t.queues[q] with inflight := s.queues[q].inflight } = s.queues[q]

/-! ## Queues -/

/-- The address of a queue's status word (Table: Doorbell and status words). -/
def State.statusAddr (s : State) (q : Fin 64) : Nat := bits (s.reg .A (qReg q + 0x18)).toNat 63 3 * 8

/-- From `s` a queue enters ERROR with a cause (R229): its reads are given up, and the status word and then the event vector go to its owner
where that can be reached and the vector is unmasked. -/
def State.queueErrs (s t : State) (q : Fin 64) (cause : BitVec 4) : Prop :=
  { t.queues[q] with inflight := s.queues[q].inflight } =
    { s.queues[q] with state := .error, cause := cause, polling := 0, reading := 0, statusOwed := false } ∧
  ∀ fn, s.queues[q].owner = some fn → s.canMaster fn = true → s.host[fnIdx fn].tableMask = false →
    s.host[fnIdx fn].msixMask.getLsbD 64 = false →
    t.out = s.out ++ [.hostWrite fn (s.statusAddr q) (natLe 8 (4 * 2 ^ 32 + s.queues[q].fetched.toNat)) false, .msix fn 64]

/-- The descriptors that a queue's next read fetches (R199, R230, R297): as many as the doorbell shows beyond those fetched, while at most 4 are in
flight, the completion ring has room for the record of every one since the last written, and the submission ring does not wrap; none while fetching
is stopped. -/
def State.nextFetch (s : State) (q : Fin 64) : Nat :=
  let x := s.queues[q]
  if x.state = .enabled ∧ x.reading = 0 ∧ s.hq.maint = false ∧ s.hq.stopped = false ∧ s.fleet.fenced = false then
    let ahead := (x.sqTail - x.fetched).toNat
    min (min (if ahead ≤ s.sqSize q then ahead else 0) (4 - x.inflight.length))
      (min (s.cqSize q - ((x.done - x.cqHead).toNat + (x.fetched - x.done).toNat)) (s.sqSize q - x.fetched.toNat % s.sqSize q))
  else 0

/-- `t` is `s` with the read of the next descriptors of a queue sent, where there is any to fetch, its owner can be reached and its port has
tags free (R187, R199). -/
def State.fetches (s t : State) (q : Fin 64) : Prop :=
  ∀ fn, s.queues[q].owner = some fn →
    t = if s.nextFetch q = 0 ∨ s.canMaster fn = false ∨ 511 ≤ s.tagsUsed fn then s
      else { s with
        hq := { s.hq with lastFetch := s.hq.lastFetch.set (fetchTurn fn (s.qPrio q)) q }
        queues := s.queues.set q { s.queues[q] with reading := s.nextFetch q }
        out := s.out ++ [.hostRead fn (s.sqBase q + 64 * (s.queues[q].fetched.toNat % s.sqSize q)) (64 * s.nextFetch q)] }

/-- `t` is `s` after the queue engine has served some queues one after another, each as `fetches` says (R201). -/
def State.fetchesOver (s t : State) : List (Fin 64) → Prop
  | [] => t = s
  | q :: rest => ∃ u, s.fetches u q ∧ (s.queues[q].owner = none → u = s) ∧ u.fetchesOver t rest

/-! ## Messages -/

/-- Crown has a well-formed request of a type in hand from a path (R495–R497, R501). -/
def State.asks (s : State) (src : MsgSrc) (mtype : Nat) (m : List Byte) : Prop :=
  s.requestOf src = some m ∧ msgType m = mtype ∧ headerGood src m = true

/-- As `asks`, for a request that names a buffer, which can be read and holds `b`; `u` is the state in which Crown goes on (R497, R118). -/
def State.asksBuffer (s : State) (src : MsgSrc) (mtype : Nat) (m b : List Byte) (u : State) : Prop :=
  s.asks src mtype m ∧ bodyGood m 13 = true ∧ s.bufStatus m = 0 ∧ s.bufOpen m = true ∧ (s.visit (bufView m) (bufAddr m) (bufLen m)).devCheck (bufView m) (bufAddr m) (bufLen m) [] = (u, false) ∧
  b = u.devRead (bufView m) (bufAddr m) (bufLen m)

/-- An authorisation token has come on a path while no wipe runs, and Crown goes on in `u`: in the body of a mailbox's message, in the buffer that a
message names, or on the console, in a state that takes it there (R501, R510, R534, R560). -/
def State.tokenInHand (s : State) (path : AuthPath) (t : List Byte) (u : State) : Prop :=
  s.wiping = false ∧ match path with
  | .msg src => ∃ m, (s.asks src 0x0050 m ∧ msgLen m = 832 ∧ t = msgBody m ∧ u = s.endCheck src) ∨
      ((s.endCheck src).asksBuffer src 0x0050 m t u ∧ msgLen m ≠ 832 ∧ s.crown.secureBad = false)
  | .console bytes => t = bytes ∧ bytes.length = 832 ∧ s.svc.ready = true ∧ s.svc.test = none ∧ s.crown.running = true ∧
      s.crown.life ≠ .retired ∧ u = (s.hears (ascii "auth")).sayAll (hexLines bytes)

/-- A console command of a class runs now: the console is ready and idle, Crown runs where it serves the command, and the life-cycle state
allows the class (R552–R554). -/
def State.atConsole (s : State) (c : CmdClass) (byHwd : Bool) : Prop :=
  s.svc.ready = true ∧ s.svc.test = none ∧ (byHwd = false → s.crown.running = true) ∧ classAllows c s.crown.life = true

/-- A microsecond passes in a powered module to whose hosts nothing is owed: no command waits, no BAR2 write, and no ring's start or event (logs 2,
196). -/
def State.idle (s : State) : Prop :=
  s.pending = [] ∧ s.stage ≠ .unpowered ∧ ∀ k : Fin 2, s.host[k].writes = [] ∧ s.rings[k].starting = false ∧ s.rings[k].due = []

/-- A command begins to print the lines of tested parts and then its reply (R552, R558). -/
def State.prints (s : State) (code : Nat) (byHwd : Bool) (parts : List (Bool × String)) : State :=
  { s with svc := { s.svc with test := some (.print code byHwd ((parts.map partLine).map ascii) (if parts.all (fun x => x.1) then 0 else 6)) } }

/-- The state in which a command that was typed as a line runs: the line is echoed, and a command that changes the module counted (R551, R568). -/
def State.onLine (s : State) (line : String) (c : CmdClass) : State := (s.hears (ascii line)).countChange c

end Sys2Proof.Machine
end

