-- ==== Sys2Proof/Certificates/Slice0/Obligations.lean ====
section
/-! DEFINITION. The statements for the provers, family by family and then over the whole machine. -/

open Sys2Proof Sys2Proof.Machine

/-- R43, R163, R166: an instruction d := a op b of class 0x0 or d := a op imm13 of class 0x1 that can run completes: its thread holds
the result in d, or nothing new where d is s0, has gone on by one instruction, and keeps every other register, flag and mask; no other tile,
no memory and nothing else of the module changes.
R164, R166: a shift by less than 64 writes its result; a shift by 64 or more, for which no result is stated, writes the next free value
and uses it up. Nothing else of the module changes.
The model's choice, for the spec states no result of such a shift: that the result is a free value (log 30, DESIGN CHOICE). -/
def Obligations.ScalarArithmeticAndShiftResults : Prop :=
  (∀ (s : State) (th : Thr) (d a b : BitVec 5) (md : BitVec 8) (imm : BitVec 13), s.canRun th → md.extractLsb 7 4 = 0#4 →
     (∀ r ∈ [(Instr.add, fun (x y : Word) => x + y), (Instr.sub, fun x y => x - y), (Instr.and, fun x y => x &&& y),
         (Instr.or, fun x y => x ||| y), (Instr.xor, fun x y => x ^^^ y), (Instr.mul, fun x y => x * y),
         (Instr.min, fun x y => if x.toInt ≤ y.toInt then x else y), (Instr.max, fun x y => if x.toInt ≤ y.toInt then y else x),
         (Instr.minu, fun x y => if x.toNat ≤ y.toNat then x else y), (Instr.maxu, fun x y => if x.toNat ≤ y.toNat then y else x)],
       ∃ t, exec (r.1 th d a b md) s = .next t ∧ s.retires t th ((s.me th).writeS d (r.2 ((s.me th).readS a) ((s.me th).readS b)))) ∧
     (∀ r ∈ [(Instr.addi, fun (x y : Word) => x + y), (Instr.andi, fun x y => x &&& y), (Instr.ori, fun x y => x ||| y),
         (Instr.xori, fun x y => x ^^^ y)],
       ∃ t, exec (r.1 th d a imm) s = .next t ∧ s.retires t th ((s.me th).writeS d (r.2 ((s.me th).readS a) (imm.signExtend 64))))) ∧
  (∀ (s : State) (th : Thr) (d a b : BitVec 5) (md : BitVec 8) (imm : BitVec 13), s.canRun th → md.extractLsb 7 4 = 0#4 →
     (∀ r ∈ [(Instr.shl, fun (x : Word) (k : Nat) => BitVec.ofNat 64 (x.toNat * 2 ^ k)), (Instr.shr, fun x k => BitVec.ofNat 64 (x.toNat / 2 ^ k)),
         (Instr.sra, fun x k => BitVec.ofInt 64 (x.toInt / 2 ^ k))],
       let x := s.me th
       ∃ t, exec (r.1 th d a b md) s = .next t ∧
         if (x.readS b).toNat < 64 then s.retires t th (x.writeS d (r.2 (x.readS a) (x.readS b).toNat))
         else ({ s with free := s.free + 1 }).retires t th (x.writeS d (Config.freeWord s.free))) ∧
     (∀ r ∈ [(Instr.shli, fun (x : Word) (k : Nat) => BitVec.ofNat 64 (x.toNat * 2 ^ k)), (Instr.shri, fun x k => BitVec.ofNat 64 (x.toNat / 2 ^ k))],
       let x := s.me th
       ∃ t, exec (r.1 th d a imm) s = .next t ∧
         if imm.toNat < 64 then s.retires t th (x.writeS d (r.2 (x.readS a) imm.toNat))
         else ({ s with free := s.free + 1 }).retires t th (x.writeS d (Config.freeWord s.free))))

/-- R162, R166: a compare of class 0x0 or a cmpi that can run writes the flag that d[2:0] names and nothing else, where d is at most 7; a d
above 7 names no flag, and the thread faults with cause 0x01.
R40, R95: a compare that names f7 and a branch on f7 stall while a multiply-accumulate of their thread is in the matrix unit, whose end may set f7.
R48, R93, R164, R181: moves, reads of the generator, of time and of the image address, and the writes of the generator and of the
priority bit: each that can run completes with its result in its one register or field, and changes nothing else.
R160, R164, R166, R184: a branch counts its words from the branch itself; where its target lies in the code region, the thread goes on
there with its registers, and jal leaves the return offset in d. A branch not taken goes on at the next instruction. A target outside the
region faults the thread with cause 0x01.
The model's choices, which no rule of the spec states: that jr drops bits 1:0 of its register (log 32, DEDUCED), that jal has the I format and
counts imm13 in words (log 197, DESIGN CHOICE), that a compare which names f7 stalls as well as a branch (log 24, DESIGN CHOICE), and that a d above 7
makes a compare illegal (log 31, DEDUCED). -/
def Obligations.ScalarComparesMovesAndBranches : Prop :=
  (∀ (s : State) (th : Thr) (d a b : BitVec 5) (md : BitVec 8) (imm : BitVec 13), s.canRun th → md.extractLsb 7 4 = 0#4 →
     (∀ r ∈ [(Instr.cmpEq, fun (x y : Word) => decide (x = y)), (Instr.cmpNe, fun x y => decide (x ≠ y)),
         (Instr.cmpLt, fun x y => decide (x.toInt < y.toInt)), (Instr.cmpGe, fun x y => decide (y.toInt ≤ x.toInt)),
         (Instr.cmpLtu, fun x y => decide (x.toNat < y.toNat)), (Instr.cmpGeu, fun x y => decide (y.toNat ≤ x.toNat))],
       ∃ t, exec (r.1 th d a b md) s = .next t ∧
         if s.flagPending th d.toNat then s.stallsOn t th .matrixBusy
         else if d.toNat < 8 then s.retires t th ((s.me th).setFlag d.toNat (r.2 ((s.me th).readS a) ((s.me th).readS b)))
         else s.faults t th 0x01) ∧
     (∀ r ∈ [(Cond.eq, fun (x y : Word) => decide (x = y)), (Cond.ne, fun x y => decide (x ≠ y)),
         (Cond.lt, fun x y => decide (x.toInt < y.toInt)), (Cond.ge, fun x y => decide (y.toInt ≤ x.toInt)),
         (Cond.ltu, fun x y => decide (x.toNat < y.toNat)), (Cond.geu, fun x y => decide (y.toNat ≤ x.toNat))],
       ∃ t, exec (.cmpi th r.1 d a imm) s = .next t ∧
         if s.flagPending th d.toNat then s.stallsOn t th .matrixBusy
         else if d.toNat < 8 then s.retires t th ((s.me th).setFlag d.toNat (r.2 ((s.me th).readS a) (imm.signExtend 64)))
         else s.faults t th 0x01)) ∧
  (∀ (s : State) (th : Thr) (d a : BitVec 5) (hw : BitVec 2) (imm : BitVec 16) (i13 : BitVec 13), s.canRun th →
     let x := s.me th
     (∃ t, exec (.movz th d hw imm) s = .next t ∧ s.retires t th (x.writeS d (BitVec.ofNat 64 (imm.toNat * 2 ^ (16 * hw.toNat))))) ∧
     (∃ t, exec (.movk th d hw imm) s = .next t ∧ s.retires t th
       (x.writeS d (BitVec.ofNat 64 ((x.readS d).toNat / 2 ^ (16 * hw.toNat + 16) * 2 ^ (16 * hw.toNat + 16) +
         imm.toNat * 2 ^ (16 * hw.toNat) + (x.readS d).toNat % 2 ^ (16 * hw.toNat))))) ∧
     (∃ t, exec (.rdrng th d) s = .next t ∧ s.retires t th (x.writeS d x.rng)) ∧
     (∃ t, exec (.wrrng th a) s = .next t ∧ s.retires t th { x with rng := if x.readS a = 0 then 1 else x.readS a }) ∧
     (∃ t, exec (.rdtime th d) s = .next t ∧ s.retires t th (x.writeS d (s.clk.stamp[th.tile.val / 640]'(by omega)))) ∧
     (∃ t, exec (.imgaddr th d i13) s = .next t ∧ s.retires t th (x.writeS d
       (BitVec.ofNat 64 (match s.launchOf th.tile with | some l => l.imgAddr | none => 0) + i13.signExtend 64 * 64))) ∧
     (∃ t, exec (.prio th i13) s = .next t ∧ s.retires t th { x with prio := i13.getLsbD 0 })) ∧
  (∀ (s : State) (th : Thr) (d a : BitVec 5) (f : BitVec 3) (off : BitVec 20) (imm : BitVec 13), s.canRun th →
     let x := s.me th
     let far : BitVec 32 := x.pc + off.signExtend 32 * 4
     (∃ t, exec (.jmp th off) s = .next t ∧ s.goesTo t th x far) ∧
     (∃ t, exec (.brT th f off) s = .next t ∧ if s.flagPending th f.toNat then s.stallsOn t th .matrixBusy
       else s.goesTo t th x (if x.f.getLsbD f.toNat then far else x.pc + 4)) ∧
     (∃ t, exec (.brF th f off) s = .next t ∧ if s.flagPending th f.toNat then s.stallsOn t th .matrixBusy
       else s.goesTo t th x (if x.f.getLsbD f.toNat then x.pc + 4 else far)) ∧
     (∃ t, exec (.jal th d imm) s = .next t ∧ s.goesTo t th (x.writeS d (BitVec.ofNat 64 (x.pc + 4).toNat)) (x.pc + imm.signExtend 32 * 4)) ∧
     (∃ t, exec (.jr th a) s = .next t ∧
       if (x.readS a).toNat < 2 ^ 32 then s.goesTo t th x (BitVec.ofNat 32 ((x.readS a).toNat / 4 * 4))
       else s.faults t th 0x01))

/-- R50, R51, R164, R166: a scratchpad load that can run, at an aligned address whose words are sound, leaves in its register the bytes that
stand in its tile's scratchpad, little-endian, and changes nothing else; ldv.h replaces only the half that bit 4 of d selects.
R50, R51, R56, R164, R166: a scratchpad store that can run, at an aligned address where it would not cover part of an unsound word, and
while the matrix unit is free, stores its register's bytes, little-endian, at that address of its tile's scratchpad and nowhere else; its
thread's registers stand, and so does everything outside the tile.
R165, R168: a gather leaves in each enabled lane the element at that lane's address and keeps the other lanes; a scatter stores each
enabled lane at its address, the highest lane where several share one, and leaves every other byte of the scratchpad as it was.
The model's choices, which no rule of the spec states: that a load of fewer than 8 bytes extends with zeros (log 14, DESIGN CHOICE), that ldv and stv
ask alignment to 2 bytes (log 15, DEDUCED), and that d[4] of ldv.h and stv.h names the half of the register in d[3:0] (log 16, DEDUCED). -/
def Obligations.ScratchpadAccessResults : Prop :=
  (∀ (s : State) (th : Thr) (sz : AccSize) (d base : BitVec 5) (off : BitVec 12), s.canRun th →
     let x := s.me th
     let pad := (s.tile th.tile).pad
     (let a := padAddr (x.readS base) off (accBytes sz);
      a % accBytes sz = 0 → (s.tile th.tile).cleanAt a (accBytes sz) →
      ∃ t, exec (.lds th sz 0 d base off []) s = .next t ∧
         s.retires t th (x.writeS d (BitVec.ofNat 64 (leNat (readPad pad a (accBytes sz)))))) ∧
     (∀ v : Fin 16, v.val = d.toNat → let a := padAddr (x.readS base) off 128;
       a % 2 = 0 → (s.tile th.tile).cleanAt a 128 →
       ∃ t, exec (.ldv th 0 d base off []) s = .next t ∧
         s.retires t th { x with v := x.v.set v (BitVec.ofNat 1024 (leNat (readPad pad a 128))) }) ∧
     (∀ v : Fin 16, v.val = d.toNat % 16 → let a := padAddr (x.readS base) off 64;
       a % 2 = 0 → (s.tile th.tile).cleanAt a 64 →
       ∃ t, exec (.ldvH th 0 d base off []) s = .next t ∧
         s.retires t th { x with v := x.v.set v (setHalf x.v[v] (d.getLsbD 4) (readPad pad a 64)) })) ∧
  (∀ (s : State) (th : Thr) (sz : AccSize) (d base : BitVec 5) (off : BitVec 12), s.canRun th → (s.tile th.tile).matrix = none →
     let x := s.me th
     (let a := padAddr (x.readS base) off (accBytes sz);
      a % accBytes sz = 0 → (s.tile th.tile).storesClean a (accBytes sz) →
      ∃ t, exec (.sts th sz 0 d base off) s = .next t ∧ s.storesPad t th a (natLe (accBytes sz) (x.readS d).toNat)) ∧
     (∀ v : Fin 16, v.val = d.toNat → let a := padAddr (x.readS base) off 128;
       a % 2 = 0 → (s.tile th.tile).storesClean a 128 →
       ∃ t, exec (.stv th 0 d base off) s = .next t ∧ s.storesPad t th a (natLe 128 x.v[v].toNat)) ∧
     (∀ v : Fin 16, v.val = d.toNat % 16 → let a := padAddr (x.readS base) off 64;
       a % 2 = 0 → (s.tile th.tile).storesClean a 64 →
       ∃ t, exec (.stvH th 0 d base off) s = .next t ∧
         s.storesPad t th a (natLe 64 (x.v[v].toNat / 2 ^ (if d.getLsbD 4 then 512 else 0))))) ∧
  (∀ (s : State) (th : Thr) (f : LaneFmt) (d a b : BitVec 5) (dv bv : Fin 16) (md : BitVec 8), s.canRun th → gatherFmt md = some f →
     dv.val = d.toNat → bv.val = b.toNat →
     let x := s.me th
     let n := laneWidth f / 8
     let at_ (i : Nat) : Nat := gatherAddr f (x.readS a) x.v[bv] i
     (∀ i < laneCount f, laneOn f x md i = true → at_ i % n = 0) →
     ((∀ i < laneCount f, laneOn f x md i = true → (s.tile th.tile).cleanAt (at_ i) n) →
       ∃ t w, exec (.gth th d a b md []) s = .next t ∧ s.retires t th { x with v := x.v.set dv w } ∧
         ∀ i < laneCount f, lane f w i = if laneOn f x md i then leNat (readPad (s.tile th.tile).pad (at_ i) n) else lane f x.v[dv] i) ∧
     ((s.tile th.tile).matrix = none → (∀ i < laneCount f, laneOn f x md i = true → (s.tile th.tile).storesClean (at_ i) n) →
       ∃ t, exec (.sct th d a b md) s = .next t ∧
         (∃ p bad, (s.setTile th.tile { s.tile th.tile with pad := p, padBad := bad }).retiresWaking t th x) ∧
         (∀ i < laneCount f, laneOn f x md i = true → (∀ j < laneCount f, laneOn f x md j = true → i < j → at_ j ≠ at_ i) →
           readPad (t.tile th.tile).pad (at_ i) n = natLe n (lane f x.v[dv] i)) ∧
         (∀ k, (∀ i < laneCount f, laneOn f x md i = true → ∀ j < n, k ≠ at_ i + j) →
           find 0 (t.tile th.tile).pad k = find 0 (s.tile th.tile).pad k)))

/-- R60, R103–R107, R164, R169–R171: a device load, store or DMA that can run, with room in its tile's trackers and an address that its form
allows, sends one request with its address, its length, its bytes and the register that its response goes to, and its thread goes on with its
registers; device memory itself does not change yet.
R113, R173: a memory-side atomic or reduction that can run sends one request that carries its operands: d + 1 and, for compare and swap,
d + 2, the low 32 bits of them in a 4-byte form, or half a vector register for a reduction. Its old value will return to d; a reduction returns
none.
R51, R60, R164, R172: a remote scratchpad access that can run, at a tile address that names a tile and a multiple of 8, sends one request
to that tile; at an address that names no tile the thread faults with cause 0x06.
The model's choices, which no rule of the spec states: that ldvd and stvd ask alignment to 64 bytes (log 18, DEDUCED), that every remote access asks
a multiple of 8 (log 15, DEDUCED), that rstv writes all 64 bytes (log 19, DEDUCED), that field d supplies what rst and rstv write (log 209, DESIGN
CHOICE), and that the mask of an rldv counts 16-bit lanes and is read as it issues (log 174, DEDUCED). -/
def Obligations.DeviceAndRemoteAccessesSendRequests : Prop :=
  (∀ (s : State) (th : Thr) (sz : AccSize) (view : BitVec 2) (d a base : BitVec 5) (off : BitVec 12) (md : BitVec 8) (addr : Nat), s.canRun th →
     s.trackerRoom th.tile →
     let x := s.me th
     (deviceAddr view (x.readS base) (off.toInt * accBytes sz) (accBytes sz) (accBytes sz) = .ok addr →
       (∃ t, exec (.ldd th sz view d base off) s = .next t ∧ s.sends t th .load none view addr (accBytes sz) [] (.scalar d.toFin)) ∧
       (∃ t, exec (.std th sz view d base off) s = .next t ∧
         s.sends t th .store none view addr (accBytes sz) (natLe (accBytes sz) (x.readS d).toNat) .none)) ∧
     (∀ v : Fin 16, v.val = d.toNat → deviceAddr view (x.readS base) (off.toInt * 128) 128 64 = .ok addr →
       (∃ t, exec (.ldvd th view d base off) s = .next t ∧ s.sends t th .load none view addr 128 [] (.vector v)) ∧
       (∃ t, exec (.stvd th view d base off) s = .next t ∧ s.sends t th .store none view addr 128 (natLe 128 x.v[v].toNat) .none)) ∧
     (let len := (x.readS base).toNat; let pad := (x.readS d).toNat % 2 ^ 20;
      md.extractLsb 5 4 = 0#2 → md.extractLsb 7 6 = view → 64 ≤ len → len ≤ 2 ^ 20 → len % 64 = 0 → pad % 64 = 0 →
      deviceAddr view (x.readS a) 0 len 64 = .ok addr →
      (∃ t, exec (.dmaRd th d a base md) s = .next t ∧ s.sends t th (.dmaRead pad) none view addr len [] .none) ∧
      (∃ t, exec (.dmaWr th d a base md) s = .next t ∧ s.sends t th (.dmaWrite pad) none view addr len [] .none))) ∧
  (∀ (s : State) (th : Thr) (wide : Bool) (view : BitVec 2) (d base : BitVec 5) (off : BitVec 12) (addr : Nat), s.canRun th →
     s.trackerRoom th.tile →
     let x := s.me th
     let n : Nat := if wide then 8 else 4
     let cut (v : Word) : Word := if wide then v else BitVec.ofNat 64 (v.toNat % 2 ^ 32)
     (deviceAddr view (x.readS base) (off.toInt * n) n n = .ok addr →
       (d.toNat ≤ 30 → ∀ r ∈ [(Instr.swp, AtomicOp.swap), (Instr.atomicAdd, AtomicOp.add), (Instr.smin, AtomicOp.smin), (Instr.smax, AtomicOp.smax),
           (Instr.umin, AtomicOp.umin), (Instr.umax, AtomicOp.umax), (Instr.atomicAnd, AtomicOp.and), (Instr.atomicOr, AtomicOp.or),
           (Instr.atomicXor, AtomicOp.xor)],
         ∃ t, exec (r.1 th wide view d base off) s = .next t ∧
           s.sends t th (.atomic r.2 (cut (x.readS (d + 1))) 0) none view addr n [] (.scalar d.toFin)) ∧
       (d.toNat ≤ 29 → ∃ t, exec (.cas th wide view d base off) s = .next t ∧
         s.sends t th (.atomic .cas (cut (x.readS (d + 1))) (cut (x.readS (d + 2)))) none view addr n [] (.scalar d.toFin)) ∧
       (d.toNat ≤ 30 → ∃ t, exec (.fadd th wide view d base off) s = .next t ∧
         if wide then s.faults t th 0x01
         else s.sends t th (.atomic .fadd (cut (x.readS (d + 1))) 0) none view addr n [] (.scalar d.toFin))) ∧
     (∀ v : Fin 16, v.val = d.toNat % 16 → deviceAddr view (x.readS base) (off.toInt * 64) 64 64 = .ok addr →
       ∀ r ∈ [(Instr.redF32, LaneFmt.fp32), (Instr.redBf16, LaneFmt.bf16), (Instr.redH16, LaneFmt.fp16)],
         ∃ t, exec (r.1 th view d base off) s = .next t ∧ s.sends t th (.reduce r.2) none view addr 64
           (natLe 64 (x.v[v].toNat / 2 ^ (if d.getLsbD 4 then 512 else 0))) .none)) ∧
  (∀ (s : State) (th : Thr) (d a b : BitVec 5) (md : BitVec 8), s.canRun th → s.trackerRoom th.tile → md.extractLsb 7 4 = 0#4 →
     let x := s.me th
     (∀ home off, tileAddr (x.readS a) = some (home, off) → off % 8 = 0 →
       (∃ t, exec (.rld th d a b md) s = .next t ∧ s.sends t th .remLoad (some home) 0 off 8 [] (.scalar d.toFin)) ∧
       (∃ t, exec (.rst th d a b md) s = .next t ∧ s.sends t th .remStore (some home) 0 off 8 (natLe 8 (x.readS d).toNat) .none) ∧
       (∃ t, exec (.radd th d a b md) s = .next t ∧ s.sends t th (.remAdd (x.readS b)) (some home) 0 off 8 [] (.scalar d.toFin)) ∧
       (∀ v : Fin 16, v.val = d.toNat →
         (∃ t, exec (.rldv th d a b md) s = .next t ∧ s.sends t th .remLoad (some home) 0 off 64 [] (.half v (md.getLsbD 0) (maskLanes x md))) ∧
         (∃ t, exec (.rstv th d a b md) s = .next t ∧ s.sends t th .remStore (some home) 0 off 64
           (natLe 64 (x.v[v].toNat / 2 ^ (if md.getLsbD 0 then 512 else 0))) .none))) ∧
     (tileAddr (x.readS a) = none → ∀ i ∈ [Instr.rld th d a b md, Instr.rst th d a b md, Instr.radd th d a b md],
       ∃ t, exec i s = .next t ∧ s.faults t th 0x06))

/-- R81–R83, R90–R95, R163, R165: a lane-wise instruction that rounds leaves in each enabled lane of d the operation's exact result rounded
once, keeps every other lane, advances the generator under stochastic rounding alone, sets f7 where an enabled lane raised a flag, and traps
with no result where its trap bit is set then; nothing else changes.
R82, R163, R165, R166: the lane-wise instructions that do not round: minimum, maximum, absolute value, negation, selection and broadcast
write the enabled lanes of d, extraction writes one lane into scalar register d, and the compares write the mask bits of the enabled lanes.
R43, R82, R165, R166: a lane compare writes, for each enabled lane, its bit of mask m(d): bit i for a 16-bit lane and bit 2i for an FP32 lane, and
keeps every other bit; a sum leaves in lane 0 of d the exact sum of the enabled lanes rounded once, and +0 in every other lane.
The model's choices, which no rule of the spec states: that the generator advances by masked lanes too (log 33, DESIGN CHOICE) and where the
instruction traps (log 178, DEDUCED); that a minimum or maximum of unlike zeros or with a quiet NaN is a free choice among the operands and the
canonical NaN (log 27, DESIGN CHOICE); the part of the mask in vsel (log 38, DEDUCED); that vextr takes its lane number modulo the count of lanes and
leaves zeros above the lane (log 39, DESIGN CHOICE); that vbcast takes the low bits of its scalar and vsum and vbcast do not read field b (logs 209 and
197, DESIGN CHOICE); that compares keep the other mask bits (log 40, DEDUCED); that vsum leaves +0 above lane 0 (log 37, DEDUCED); the signs of zero
results (log 26, PRESUMED); that a disabled lane raises no flag (log 34, DEDUCED); and overflow under stochastic rounding (log 25, DESIGN CHOICE). -/
def Obligations.VectorResults : Prop :=
  (∀ (s : State) (th : Thr) (f : LaneFmt) (d a b : BitVec 5) (dv av bv : Fin 16) (md : BitVec 8) (mode : RMode), s.canRun th →
     dv.val = d.toNat → av.val = a.toNat → bv.val = b.toNat → rmode (md.extractLsb 7 6) = some mode →
     let x := s.me th
     let rd := roundingOf s th md mode
     let g := floatFmt f
     let n := laneCount f
     ∀ r ∈ [(Instr.vadd, ((fun rd i a b _ => g.add rd i (g.decode a) (g.decode b)) : LaneOp)),
         (Instr.vsub, fun rd i a b _ => g.add rd i (g.decode a) (g.decode b).negate),
         (Instr.vmul, fun rd i a b _ => g.mulAdd rd i (g.decode a) (g.decode b) none),
         (Instr.vfma, fun rd i a b c => g.mulAdd rd i (g.decode a) (g.decode b) (some (g.decode c))),
         (Instr.vrcp, fun rd i a _ _ => g.recip rd i (g.decode a)), (Instr.vsqrt, fun rd i a _ _ => g.sqrt rd i (g.decode a)),
         (Instr.vrsqrt, fun rd i a _ _ => g.rsqrt rd i (g.decode a)), (Instr.vexp2, fun rd i a _ _ => g.exp2 rd i (g.decode a))],
       let op (i : Nat) := r.2 rd i (lane f x.v[av] i) (lane f x.v[bv] i) (lane f x.v[dv] i)
       ∃ t w, exec (r.1 th f d a b md) s = .next t ∧ lanesHold f x md x.v[dv] w op ∧
         (s.rounded mode n).endsArith t th (md.getLsbD 4) (lanesRaise f x md op) { x with v := x.v.set dv w, rng := rngRounded mode x.rng n }) ∧
  (∀ (s : State) (th : Thr) (f : LaneFmt) (d a b : BitVec 5) (dv av bv : Fin 16) (md : BitVec 8), s.canRun th →
     dv.val = d.toNat → av.val = a.toNat → bv.val = b.toNat → md.extractLsb 7 4 = 0#4 →
     let x := s.me th
     let rd : Rounding := { mode := .nearest, sat := false, rng := x.rng, free := s.free }
     let g := floatFmt f
     let A (i : Nat) : Nat := lane f x.v[av] i
     let B (i : Nat) : Nat := lane f x.v[bv] i
     (∀ r ∈ [(Instr.vmin, laneCount f, fun i => g.pick rd i true (A i) (B i)), (Instr.vmax, laneCount f, fun i => g.pick rd i false (A i) (B i)),
         (Instr.vabs, 0, fun i => g.sign false (A i)), (Instr.vneg, 0, fun i => g.sign true (A i))],
       ∃ t w, exec (r.1 th f d a b md) s = .next t ∧ lanesHold f x md x.v[dv] w r.2.2 ∧
         ({ s with free := s.free + r.2.1 } : State).endsArith t th false (lanesRaise f x md r.2.2) { x with v := x.v.set dv w }) ∧
     (∃ t w, exec (.vsel th f d a b md) s = .next t ∧ s.retires t th { x with v := x.v.set dv w } ∧
       ∀ i < laneCount f, lane f w i =
         if laneOn f x md i then (if laneOn f x (md ||| 8) i then A i else B i) else lane f x.v[dv] i) ∧
     (∃ t w, exec (.vbcast th f d a b md) s = .next t ∧ s.retires t th { x with v := x.v.set dv w } ∧
       ∀ i < laneCount f, lane f w i = if laneOn f x md i then (x.readS a).toNat % 2 ^ laneWidth f else lane f x.v[dv] i) ∧
     (∃ t, exec (.vextr th f d a b md) s = .next t ∧
       s.retires t th (x.writeS d (BitVec.ofNat 64 (lane f x.v[av] ((x.readS b).toNat % laneCount f)))))) ∧
  (∀ (s : State) (th : Thr) (f : LaneFmt) (d a b : BitVec 5) (dv av bv : Fin 16) (md : BitVec 8), s.canRun th →
     dv.val = d.toNat → av.val = a.toNat → bv.val = b.toNat →
     let x := s.me th
     let g := floatFmt f
     (∀ m : Fin 4, m.val = d.toNat → md.extractLsb 7 4 = 0#4 →
       ∀ r ∈ [(Instr.vcmpEq, fun (o : Ordering) => o == .eq), (Instr.vcmpLt, fun o => o == .lt), (Instr.vcmpLe, fun o => o != .gt)],
       let op (i : Nat) := g.compare r.2 (lane f x.v[av] i) (lane f x.v[bv] i)
       let raised := (List.range (laneCount f)).any (fun i => laneOn f x md i && (op i).2.any)
       ∃ t w, exec (r.1 th f d a b md) s = .next t ∧ s.endsArith t th false raised { x with m := x.m.set m w } ∧
         ∀ k < 64, w.getLsbD k =
           if (f = .fp32 → k % 2 = 0) ∧ laneOn f x md (if f = .fp32 then k / 2 else k) then (op (if f = .fp32 then k / 2 else k)).1
           else x.m[m].getLsbD k) ∧
     (∀ mode, rmode (md.extractLsb 7 6) = some mode →
       let on := (List.range (laneCount f)).filter (laneOn f x md)
       let r := g.sum (roundingOf s th md mode) (on.map (fun i => g.decode (lane f x.v[av] i)))
       ∃ t, exec (.vsum th f d a b md) s = .next t ∧
         (s.rounded mode 1).endsArith t th (md.getLsbD 4) r.2.any
           { x with v := x.v.set dv (BitVec.ofNat 1024 (r.1 % 2 ^ laneWidth f)), rng := rngRounded mode x.rng 1 }))

/-- R42, R51, R77, R84, R85, R174, R176: with the matrix unit free, a multiply-accumulate with aligned operands enters it with its format, set and
chunks, its set cleared first under clr; a clear empties the set that b names; a readout enters the unit with the bytes that it will write,
which are the set's elements in their format. The thread goes on with its registers; the scratchpad does not change yet.
R42, R85–R88, R174–R176: when a multiply-accumulate leaves the matrix unit with sound operands, every element of its set holds the sum of what
it held and its chunks' contributions, in ascending order, and f7 of its thread is set where one raised a flag; when a readout leaves the unit,
its bytes stand in the scratchpad. The unit is then free, and nothing else changes but threads that go on.
The model's choices, which no rule of the spec states: that a readout's bytes and flags are fixed when it issues and its bytes reach the scratchpad when
it leaves the unit (log 41, DEDUCED), that a set or format field with a bit above its code set is illegal (log 31, DEDUCED), and that the generator
advances where a readout traps (log 178, DEDUCED). -/
def Obligations.MatrixInstructionsEnterAndLeaveTheUnit : Prop :=
  (∀ (s : State) (th : Thr) (acc : BitVec 2) (clr : Bool) (cnt : BitVec 3) (d a b : BitVec 5) (fa fb : BitVec 2) (md : BitVec 8), s.canRun th →
     (s.tile th.tile).matrix = none →
     let x := s.me th
     let y := s.tile th.tile
     let pa := (x.readS a).toNat % 2 ^ 20
     let pb := (x.readS b).toNat % 2 ^ 20
     let entered (kind : MmaKind) : Tile := { y with
       acc := if clr then y.acc.set acc.toFin [] else y.acc
       matrix := some (.mma kind acc.toFin (cnt.toNat + 1) pa pb th.thread x.pc [] none) }
     (∀ ga gb, grainCode fa = some ga → grainCode fb = some gb → pa % 64 = 0 → pb % 64 = 0 →
       ∃ t, exec (.mmaG th acc clr cnt a b fa fb 0) s = .next t ∧ (s.setTile th.tile (entered (.grain ga gb))).retires t th x) ∧
     (pa % 2 = 0 → pb % 2 = 0 →
       (∃ t, exec (.mmaB th acc clr cnt a b 0 0 0) s = .next t ∧ (s.setTile th.tile (entered .bf16)).retires t th x) ∧
       (∃ t, exec (.mmaH th acc clr cnt a b 0 0 0) s = .next t ∧ (s.setTile th.tile (entered .fp16)).retires t th x)) ∧
     (∀ k : Fin 4, k.val = b.toNat → md.extractLsb 7 4 = 0#4 →
       ∃ t, exec (.mclr th d a b md) s = .next t ∧ (s.setTile th.tile { y with acc := y.acc.set k [] }).retires t th x) ∧
     (∀ (k : Fin 4) (fc : FormatCode) (mode : RMode), k.val = b.toNat → formatCode d.toNat = some fc → rmode (md.extractLsb 7 6) = some mode →
       pa % fc.align = 0 →
       let rd := roundingOf s th md mode
       let r := match fc with
         | .float f => readoutFloat f rd y.acc[k]
         | .grain g => readoutGrain g rd y.acc[k]
       ∃ t, exec (.mrd th d a b md) s = .next t ∧
         if r.2.any && md.getLsbD 4 then (s.rounded mode 2048).endsArith t th true true { x with rng := rngRounded mode x.rng 2048 }
         else ((s.rounded mode 2048).setTile th.tile { y with matrix := some (.readout pa r.1 th.thread x.pc) }).endsArith t th false r.2.any
           { x with rng := rngRounded mode x.rng 2048 })) ∧
  (∀ (s : State) (n : Fin 2560) (th : Fin 16) (pc : BitVec 32),
     let y := s.tile n
     let rest (t : State) : Prop := { t with tiles := s.tiles } = s ∧ ∀ k, k ≠ n.val → t.tile k = s.tile k
     (∀ kind acc chunks a b done ops, y.matrix = some (.mma kind acc chunks a b th pc done none) →
       matrixRead y chunks (.mma kind acc chunks a b th pc done none) = .mma kind acc chunks a b th pc ops none →
       ∃ t, exec (.matrixInstructionEnd n []) s = .next t ∧ rest t ∧
         { t.tile n with threads := y.threads, acc := y.acc, matrix := y.matrix } = y ∧ (t.tile n).matrix = none ∧
         (∀ k, k ≠ acc → (t.tile n).acc[k] = y.acc[k]) ∧
         (∀ r < 32, ∀ c < 64, accGet (t.tile n).acc[acc] r c = (chunksInto kind ops r c (accGet y.acc[acc] r c)).1) ∧
         (∀ k : Fin 16, (y.threads[k]).sameRegs { (t.tile n).threads[k] with f := (y.threads[k]).f }) ∧
         (∀ k : Fin 16, k ≠ th → ((t.tile n).threads[k]).f = (y.threads[k]).f) ∧
         ((t.tile n).threads[th]).f = if (List.range 2048).any (fun i => (chunksInto kind ops (i / 64) (i % 64) (accGet y.acc[acc] (i / 64) (i % 64))).2.any)
           then (y.threads[th]).f ||| 0x80#8 else (y.threads[th]).f) ∧
     (∀ addr bytes, y.matrix = some (.readout addr bytes th pc) → bytes.length ≤ 2 ^ 20 → y.storesClean addr bytes.length →
       ∃ t, exec (.matrixInstructionEnd n []) s = .next t ∧ rest t ∧ padStored y.pad (t.tile n).pad addr bytes ∧
         { t.tile n with threads := y.threads, pad := y.pad, padBad := y.padBad, matrix := y.matrix } = y ∧ (t.tile n).matrix = none ∧
         ∀ k : Fin 16, (y.threads[k]).sameRegs (t.tile n).threads[k]))

/-- R75, R78–R80, R83, R96–R98, R166: conversions that can run, with aligned and sound lines: quantising writes the block's exponent, micro-exponents
and mantissas to its places in the line, an import or export writes its whole line, and every other byte of the scratchpad stands; dequantising and
converting write the enabled lanes of d. f7 is set where a flag was raised.
The model's choices, which no rule of the spec states: the formats that cvt converts among (log 43, DEDUCED), that field b numbers the block (log 44,
DEDUCED), that mxin and mxout convert whole lines (log 45, DEDUCED) at addresses that are both multiples of 64 (log 177, DEDUCED), that the generator
advances with the elements whatever they need (log 178, DEDUCED), and that the bytes of an exported block with a NaN or an infinity are free values where
R98 gives none (log 28, DESIGN CHOICE). -/
def Obligations.ConversionResults : Prop :=
  ∀ (s : State) (th : Thr) (d a b : BitVec 5) (md : BitVec 8) (mode : RMode), s.canRun th → (s.tile th.tile).matrix = none →
    rmode (md.extractLsb 7 6) = some mode → md.getLsbD 4 = false → (s.tile th.tile).padBad = [] →
    let x := s.me th
    let pad := (s.tile th.tile).pad
    let rd := roundingOf s th md mode
    let stores (t : State) (n free : Nat) (f : FFlags) (q : Keyed Byte) : Prop :=
      ({ (s.rounded mode n).setTile th.tile { s.tile th.tile with pad := q } with free := (s.rounded mode n).free + free } : State).retiresWaking t th
        { x with rng := rngRounded mode x.rng n, f := if f.any then x.f ||| 0x80#8 else x.f }
    (∀ r ∈ [(Instr.qntG4, GrainFmt.g4), (Instr.qntG6, GrainFmt.g6), (Instr.qntG8, GrainFmt.g8)], ∀ (src : LaneFmt) (av : Fin 16), av.val = a.toNat →
      let base := (x.readS d).toNat % 2 ^ 20
      let vals := (lanes src x.v[av]).map (floatFmt src).decode
      let bs := (List.range (laneCount src / 32)).map (fun j => quantise r.2 rd (32 * j) ((vals.drop (32 * j)).take 32))
      base % 64 = 0 → (src = .fp32 ∨ (b.toNat % 2 = 0 ∧ b.toNat ≤ 30)) →
      ∃ t q, exec (r.1 th src d a b md) s = .next t ∧ stores t (laneCount src) 0 (FFlags.all (bs.map Prod.snd)) q ∧
        (∀ j < laneCount src / 32, ∀ blk, bs[j]? = some blk → readBlock r.2 (readPad q base (lineSize r.2)) (b.toNat + j) = blk.1) ∧
        (∀ i, (∀ j < laneCount src / 32, i ≠ (base + b.toNat + j) % 2 ^ 20 ∧ i ≠ (base + 32 + b.toNat + j) % 2 ^ 20 ∧
          ∀ k < 4 * grainW r.2, i ≠ (base + 64 + 4 * grainW r.2 * (b.toNat + j) + k) % 2 ^ 20) → find 0 q i = find 0 pad i)) ∧
    (∀ (w : GrainFmt) (dv : Fin 16), dv.val = d.toNat → md.extractLsb 7 4 = 0#4 → (x.readS a).toNat % 64 = 0 →
      let block := readBlock w (readPad pad ((x.readS a).toNat % 2 ^ 20) (lineSize w)) b.toNat
      ∃ t v, exec (.dqnt th w d a b md []) s = .next t ∧ s.retires t th { x with v := x.v.set dv v } ∧
        ∀ i < 32, lane .fp32 v i = if laneOn .fp32 x md i
          then ((floatFmt .fp32).convert Rounding.memory i (block.value w i)).1 % 2 ^ 32 else lane .fp32 x.v[dv] i) ∧
    (∀ (fmt : BitVec 3) (fc : FormatCode) (k : MxKind), formatCode fmt.toNat = some fc → mxKind b.toNat = some k →
      let src := (x.readS a).toNat % 2 ^ 20
      let dst := (x.readS d).toNat % 2 ^ 20
      src % 64 = 0 → dst % 64 = 0 →
      (let r := importLine k fc rd (readPad pad src (mxLineSize k));
       ∃ t q, exec (.mxin th fmt d a b md []) s = .next t ∧ stores t 1024 0 r.2 q ∧ padStored pad q dst r.1) ∧
      (let r := exportLine k fc rd (readPad pad src fc.lineSize);
       ∃ t q, exec (.mxout th fmt d a b md []) s = .next t ∧ stores t 1024 1024 r.2 q ∧ padStored pad q dst r.1)) ∧
    (∀ (dst : BitVec 3) (dv av : Fin 16) (df sf : LaneFmt), dv.val = d.toNat → av.val = a.toNat → floatCode dst.toNat = some df →
      floatCode b.toNat = some sf →
      let n := if laneWidth df = laneWidth sf then laneCount df else 32
      let half := if md.getLsbD 0 then 32 else 0
      let from_ := if laneWidth df = 32 ∧ laneWidth sf = 16 then half else 0
      let to_ := if laneWidth df = 16 ∧ laneWidth sf = 32 then half else 0
      let op (i : Nat) := if to_ ≤ i ∧ i < to_ + n
        then (floatFmt df).convert rd (i - to_) ((floatFmt sf).decode (lane sf x.v[av] (i - to_ + from_)))
        else (lane df x.v[dv] i, FFlags.clear)
      ∃ t w, exec (.cvt th dst d a b md) s = .next t ∧ lanesHold df x md x.v[dv] w op ∧
        (s.rounded mode n).endsArith t th false (lanesRaise df x md op) { x with v := x.v.set dv w, rng := rngRounded mode x.rng n })

/-- R149, R177–R180: a fence, a wait or a barrier issues, and its thread goes on at once where its condition holds and otherwise waits for it with its
registers: nothing outstanding, at most n DMAs outstanding, a scratchpad word equal, unequal or at least a value, every other started thread at the
barrier or ended. A gbar waits for the launch after its fence. The thread that arrives last at a barrier releases every thread that waits there.
R44, R47, R162, R181, R186: halt leaves its thread HALTED; where it was the last started thread of its launch, the launch ends and its descriptor
ends with OK. An illegal encoding faults its thread with cause 0x01: a word of class 0xE or 0xF, and
the words of other classes that R90, R105, R163, R168 and R174 settle whatever their op is. A READY thread of normal priority passed over 64 times is promoted for its next
issue.
R46, R47: a thread that its tile's issue stage does not choose does not issue. The issue stage chooses a READY thread that is the only one of high
priority, by its bit, its promotion or its wait of 64 cycles, and, where the READY threads are of one priority, the first after the last issuer.
The model's choices, which no rule of the spec states: that a barrier number above 3 and a wait for more than 4 DMAs are illegal (logs 31 and 50,
DEDUCED), that a word which its class does not settle is illegal or not as a constant without a value says (log 180, DESIGN CHOICE; no clause speaks of
such a word), and that a thread which is not chosen leaves the state as it is (log 23, DESIGN CHOICE). -/
def Obligations.WaitsBarriersHaltsAndFaults : Prop :=
  (∀ (s : State) (th : Thr) (a b : BitVec 5) (md : BitVec 8) (imm : BitVec 13), (s.tile th.tile).pick = some th.thread → s.inCode th.tile ((s.me th).pc + 4) →
     let x := s.me th
     let waits (t : State) (done : Prop) (w : WaitCond) : Prop :=
       s.sameButWoken t th ∧
       (done → t.me th = { x with pc := x.pc + 4, passed := 0, boosted := false, wait := none }) ∧
       (¬ done → t.me th = { x with pc := x.pc + 4, passed := 0, boosted := false, state := .waiting, wait := some w })
     (∃ t, exec (.fence th) s = .next t ∧ waits t (s.outstanding th.tile th.thread = []) .fence) ∧
     (imm.toNat ≤ 4 → ∃ t, exec (.waitDma th imm) s = .next t ∧ waits t ((s.dmas th.tile th.thread).length ≤ imm.toNat) (.dma imm.toNat)) ∧
     (∃ t, exec (.gbar th) s = .next t ∧ s.sameButWoken t th ∧ t.me th = { x with
       pc := x.pc + 4, passed := 0, boosted := false, state := .waiting
       wait := some (if s.outstanding th.tile th.thread = [] then .gbar else .gbarFence) }) ∧
     (∀ n : Fin 4, n.val = b.toNat →
       let all : Prop := ∀ m, m ≠ th.thread → (s.thread th.tile m).started = true →
         (s.thread th.tile m).state = .halted ∨ (s.thread th.tile m).state = .faulted ∨ (s.thread th.tile m).wait = some (.bar n)
       md.extractLsb 7 4 = 0#4 → ∃ t, exec (.bar th b md) s = .next t ∧ waits t all (.bar n) ∧
         (all → ∀ m, m ≠ th.thread → (s.thread th.tile m).state = .waiting → (s.thread th.tile m).wait = some (.bar n) →
           (t.thread th.tile m).state = .ready)) ∧
     (md.extractLsb 7 4 ≠ 0#4 → ∀ i ∈ [Instr.bar th b md, Instr.waitEq th a b md [], Instr.waitNe th a b md [], Instr.waitGe th a b md []],
       ∃ t, exec i s = .next t ∧ s.faults t th 0x01) ∧
     (let off := (x.readS a).toNat % 2 ^ 20;
      s.outstanding th.tile th.thread = [] → off % 8 = 0 → (s.tile th.tile).cleanAt off 8 →
      let v := leNat (readPad (s.tile th.tile).pad off 8)
      let y := x.readS b
      md.extractLsb 7 4 = 0#4 →
      (∃ t, exec (.waitEq th a b md []) s = .next t ∧ waits t (v = y.toNat) (.eq off y)) ∧
      (∃ t, exec (.waitNe th a b md []) s = .next t ∧ waits t (v ≠ y.toNat) (.ne off y)) ∧
      (∃ t, exec (.waitGe th a b md []) s = .next t ∧ waits t (y.toNat ≤ v) (.ge off y)))) ∧
  (∀ (s : State) (th : Thr), (s.tile th.tile).pick = some th.thread →
     (s.launchOf th.tile = none →
       ∃ t, exec (.halt th) s = .next t ∧ t.me th = { s.me th with state := .halted, passed := 0, boosted := false } ∧ s.sameButWoken t th) ∧
     (∀ l, s.launchOf th.tile = some l → rising s.tiles = true →
       (∀ k n, l.has k = true → (k ≠ th.tile.val ∨ n ≠ th.thread) → (s.thread k n).started = true → (s.thread k n).state = .halted) →
       ∃ t, exec (.halt th) s = .next t ∧ (∀ k ∈ t.hq.launches, k.q ≠ l.q) ∧ (∀ n, (t.thread th.tile n).state = .idle) ∧
         ∀ d rest, s.queues[l.q].inflight = d :: rest → d.phase = .running →
           t.queues[l.q].inflight = { d with phase := .ended (plain 0) } :: rest) ∧
     (∀ w : BitVec 32, 14 ≤ (w.extractLsb' 28 4).toNat ∨ ((w.extractLsb' 28 4).toNat = 3 ∧ (w.extractLsb' 24 4).toNat ≠ 15 ∧ (w.extractLsb' 22 2) ≠ 0) ∨
       ((w.extractLsb' 28 4).toNat = 3 ∧ (w.extractLsb' 24 4).toNat = 15 ∧
         (16 ≤ (w.extractLsb' 18 5).toNat ∨ 16 ≤ (w.extractLsb' 8 5).toNat ∨ w.getLsbD 0 = true ∨ w.extractLsb' 4 2 ≠ 0 ∨ w.getLsbD 7 = true)) ∨
       ((w.extractLsb' 28 4).toNat ∈ [5, 7, 8, 9, 10, 11] ∧ w.extractLsb' 6 2 = 3#2) →
       ∃ t, exec (.illegalEncoding th w) s = .next t ∧ s.faults t th 0x01)) ∧
  (∀ (s : State) (th : Thr), (s.me th).state = .ready → (s.me th).prio = false → 64 ≤ (s.me th).passed →
     ∃ t, exec (.starvationPromotion th) s = .next t ∧ t.me th = { s.me th with boosted := true } ∧ s.sameBut t th) ∧
  (∀ (s : State) (th : Thr), (s.me th).state = .ready →
     ((s.tile th.tile).pick ≠ some th.thread → exec (.fence th) s = .next s) ∧
     ((∀ n, n ≠ th.thread → (s.thread th.tile n).state = .ready → (s.thread th.tile n).prio = false ∧ (s.thread th.tile n).boosted = false ∧
       (s.thread th.tile n).passed < 64) → (s.me th).high = true → (s.tile th.tile).pick = some th.thread) ∧
     ((∀ n, (s.thread th.tile n).state = .ready → (s.thread th.tile n).high = (s.me th).high) →
       (∀ n, n ≠ th.thread → (s.thread th.tile n).state = .ready →
         (th.thread - (s.tile th.tile).lastIssued - 1).val < (n - (s.tile th.tile).lastIssued - 1).val) →
       (s.tile th.tile).pick = some th.thread))

/-- R107–R119, R137–R150: a part of an access of a thread that is due travels to its home, and where the home's channel issues and it is the part's
turn there, it is performed: where its transaction is sound, a load returns the bytes that stand in device memory; a store, an atomic and a reduction
leave their bytes there, the last two computed from the old ones, and an atomic returns the old ones. Every other byte of device memory reads as
before, and beside it only the part's request, the controller's queue and open rows and the flits on their way change, and what threads stall for;
of the flits, nothing where none was on its way and the part waited at its home already.
R111, R137, R142–R145: a part that goes alone through the Canopy to a live home with room for it reaches it, behind what waits there, and nothing
else changes but the round robin of the outputs that it passes.
R65, R146–R148, R156, R172: a remote access that waits at a powered home, with none before it for a word that it names, is performed there: a load returns the bytes of the home's scratchpad, a
store leaves its bytes there, an addition leaves the sum modulo 2^64 and returns the old value; a home that was fenced when the access came performs
nothing and answers with the fenced status.
The model's choices, which no rule of the spec states: that a flit goes as far as its credits let it within the command that carries it (log 173, DESIGN
CHOICE), which of an access's parts hold entries (log 21, DESIGN CHOICE), and what counts as one source in order (log 46, DESIGN CHOICE). -/
def Obligations.RequestsArePerformedAtTheirHomes : Prop :=
  (∀ (s : State) (r : MemReq) (k : Nat), s.reqOf r.id = some r → r.remote = none → r.isDma = false → k < r.parts → r.hasServed k = false →
     s.blocked r k = false →
     let u := s.carry r k
     u.channelOpen (r.partHome k) = true → u.turnOf r k = true →
     let l := r.partAddr k
     let n := r.partLen k
     let old := readBytes s.mem.dram l n
     l / 64 ∉ s.mem.bad → l % 64 + n ≤ 64 → l + n ≤ 0x14000000000 →
     let served (t : State) (ret : List Byte) : Prop :=
       t.mem.reqs = s.mem.reqs.map (fun q => if q.id = r.id then { r with served := Machine.insert r.served k { status := .performed, bytes := ret } } else q) ∧
       (s.canopy.flits = [] → s.waits r.id k = true → t.canopy = s.canopy) ∧ find 0 t.mem.openRow (rowBank (dramRow l)) = dramRow l ∧
       { t with canopy := s.canopy, tiles := s.tiles
                mem := { t.mem with reqs := s.mem.reqs, dram := s.mem.dram, tracker := s.mem.tracker, openRow := s.mem.openRow } } = s ∧
       ∀ j, { t.tile j with threads := (s.tile j).threads } = s.tile j ∧ ∀ m : Fin 16, (s.thread j m).sameRegs (t.thread j m)
     let holds (t : State) (new : List Byte) : Prop :=
       (∀ i (h : i < new.length), find 0 t.mem.dram (l + i) = new[i]) ∧
       ∀ a, (a < l ∨ l + new.length ≤ a) → find 0 t.mem.dram a = find 0 s.mem.dram a
     (r.op = .load → ∃ t, exec (.channelTransaction r.id k .clean []) s = .next t ∧ served t old ∧ t.mem.dram = s.mem.dram) ∧
     (r.op = .store → ((r.bytes.drop (64 * k)).take 64).length = n →
       ∃ t, exec (.channelTransaction r.id k .clean []) s = .next t ∧ served t [] ∧ holds t ((r.bytes.drop (64 * k)).take 64)) ∧
     (∀ op a c, r.op = .atomic op a c → r.len = n → ∃ t, exec (.channelTransaction r.id k .clean []) s = .next t ∧ served t old ∧
       holds t (natLe n (atomicResult op n (leNat old) a.toNat c.toNat))) ∧
     (∀ f, r.op = .reduce f → n = 64 →
       ∃ t, exec (.channelTransaction r.id k .clean []) s = .next t ∧ served t [] ∧ holds t (reduceBytes f old r.bytes))) ∧
  (∀ (s : State) (r : MemReq) (k : Nat), r.partNear k = false → r.isDma = false → s.reqOf r.id = some r → s.canopy.flits = [] →
     s.waits r.id k = false → s.routeLive (.tile r.tile) (.tile (r.partHome k)) = true →
     (r.remote.isSome = true ∨ s.memEntries (r.partHome k) < 64) →
     let u := s.carry r k
     u.mem.tracker = s.mem.tracker ++
       [{ req := r.id, part := k, passed := 0, late := r.remote.isSome && (s.tile (r.partHome k)).fenced }] ∧
     { u with canopy := { u.canopy with turn := s.canopy.turn }, mem := { u.mem with tracker := s.mem.tracker } } = s) ∧
  (∀ (s : State) (r : MemReq) (home : Nat) (e : Arrived), s.reqOf r.id = some r → r.remote = some home → r.hasServed 0 = false →
     s.blocked r 0 = false → s.homeLive home = true → s.canopy.flits = [] → s.mem.tracker.find? (fun e => e.req == r.id) = some e → e.part = 0 →
     s.cameBefore r = false →
     let y := s.tile home
     let marked (t : State) (x : PartEnd) : Prop :=
       t.mem.reqs = s.mem.reqs.map (fun p => if p.id = r.id then { r with served := Machine.insert r.served 0 x } else p) ∧
       t.mem.tracker = s.mem.tracker.filter (fun e => e.req != r.id) ∧
       { t with mem := { t.mem with reqs := s.mem.reqs, tracker := s.mem.tracker }, tiles := s.tiles } = s ∧
       (∀ k, k ≠ home → t.tile k = s.tile k)
     (e.late = true → ∃ t, exec (.remoteScratchpadAccess r.id []) s = .next t ∧ t.tiles = s.tiles ∧
       marked t { status := .fenced, bytes := [] }) ∧
     (e.late = false →
       (r.op = .remLoad → y.cleanAt r.addr r.len → ∃ t, exec (.remoteScratchpadAccess r.id []) s = .next t ∧ t.tiles = s.tiles ∧
         marked t { status := .performed, bytes := readPad y.pad r.addr r.len }) ∧
       (r.op = .remStore → y.matrix = none → r.bytes.length ≤ 2 ^ 20 → y.rereadBad ((padWords r.addr r.bytes.length).map Prod.fst) = [] → ∃ t, exec (.remoteScratchpadAccess r.id []) s = .next t ∧
         marked t { status := .performed, bytes := [] } ∧ padStored y.pad (t.tile home).pad r.addr r.bytes ∧
         ∀ n : Fin 16, (y.threads[n]).sameRegs (t.tile home).threads[n]) ∧
       (∀ v, r.op = .remAdd v → y.matrix = none → y.cleanAt r.addr 8 → y.rereadBad ((padWords r.addr 8).map Prod.fst) = [] →
         let old := readPad y.pad r.addr 8
         ∃ t, exec (.remoteScratchpadAccess r.id []) s = .next t ∧ marked t { status := .performed, bytes := old } ∧
           padStored y.pad (t.tile home).pad r.addr (natLe 8 ((leNat old + v.toNat) % 2 ^ 64)) ∧
           ∀ n : Fin 16, (y.threads[n]).sameRegs (t.tile home).threads[n])))

/-- R60, R61, R141, R155–R157, R171: the response to one part of an access that returns in time frees the part's tracker entry; the last of them ends
the access and delivers its data to its thread's register, and one with an error status faults its thread. A DMA whose parts have all been answered
as performed completes, and the answer to a part of a DMA read puts its bytes in the scratchpad; a part that goes over the Canopy and has timed out
loses its own entry alone, faults its thread with cause 0x06 and sets CNP_ERR.timeout; the other parts of its access keep theirs.
R144: the request flit of a part that stands first in its buffer and has waited 32 cycles is marked to go first, and nothing else changes.
The model's choices, which no rule of the spec states: that a late fault takes a READY, STALLED or WAITING thread to FAULTED at once (log 47, DEDUCED),
that a response travels within the command that sends it (log 173, DESIGN CHOICE), and which parts of a DMA hold an entry that can time out (log 21, DESIGN
CHOICE). -/
def Obligations.ResponsesTimeoutsAndDmaEnds : Prop :=
  ∀ (s : State) (r : MemReq), s.reqOf r.id = some r →
    let gone : List MemReq := s.mem.reqs.filter (fun q => q.id != r.id)
    let left : List Arrived := s.mem.tracker.filter (fun e => e.req != r.id)
    let x := s.thread r.tile r.thread
    let runs : Prop := x.state = .ready ∨ x.state = .stalled ∨ x.state = .waiting
    let rest (t : State) : Prop := (∀ k, k ≠ r.tile → t.tile k = s.tile k) ∧
      { t.tile r.tile with threads := (s.tile r.tile).threads } = s.tile r.tile ∧
      ∀ n, n ≠ r.thread → (s.thread r.tile n).sameRegs (t.thread r.tile n)
    (∀ k e, r.isDma = false → r.ended k = some e → k ∉ r.answered → r.timedOut = false → r.orphan = false →
      (r.partNear k = true ∨ (s.routeLive (.tile (r.partHome k)) (.tile r.tile) = true ∧ s.canopy.flits = [])) →
      let last : Prop := ∀ j < r.parts, j = k ∨ j ∈ r.answered
      let freed (t : State) : Prop :=
        (last → t.mem.reqs = gone ∧ t.mem.tracker = left) ∧
        (¬ last → t.mem.tracker = s.mem.tracker ∧
          t.mem.reqs = s.mem.reqs.map (fun q => if q.id = r.id then { r with answered := addNat r.answered k } else q))
      (e.status = .performed → ∃ t, exec (.responseArrival r.id k) s = .next t ∧ freed t ∧ rest t ∧
        (last → r.status = .performed →
          (x.deliver r.dest (r.served.flatMap (fun e => e.2.bytes))).sameRegs (t.thread r.tile r.thread)) ∧
        (¬ last → x.sameRegs (t.thread r.tile r.thread)) ∧
        { t with tiles := s.tiles, canopy := { t.canopy with turn := s.canopy.turn }
                 mem := { t.mem with reqs := s.mem.reqs, tracker := s.mem.tracker } } = s) ∧
      (∀ c, statusCause e.status r.remote.isSome = some c → runs →
        ∃ t, exec (.responseArrival r.id k) s = .next t ∧ freed t ∧ rest t ∧
          t.thread r.tile r.thread = { x with state := .faulted, cause := c, stall := none, wait := none })) ∧
    (∀ k < r.parts, r.partNear k = false → k ∉ r.answered → k ∉ r.expired →
      (r.isDma = true → s.travels r.id k = true ∨ s.waits r.id k = true ∨ r.hasServed k = true) → r.orphan = false → runs →
      ∃ t, exec (.remoteRequestTimeout r.id k) s = .next t ∧ rest t ∧
        t.mem.reqs = s.mem.reqs.map (fun q => if q.id = r.id then { r with expired := addNat r.expired k } else q) ∧
        t.thread r.tile r.thread = { x with state := .faulted, cause := 0x06, stall := none, wait := none } ∧
        (t.reg .A 0x10004).getLsbD 2 = true) ∧
    (∀ th : Thr, s.mem.reqs.find? (fun q => decide (q.tile = th.tile.val ∧ q.thread = th.thread) && q.isDma) = some r → r.allAnswered = true →
      r.answer = .performed →
      ∃ t, exec (.dmaComplete th) s = .next t ∧ t.mem.reqs = gone ∧ t.mem.tracker = left ∧ rest t ∧ x.sameRegs (t.thread r.tile r.thread) ∧
        { t with tiles := s.tiles, mem := { t.mem with reqs := s.mem.reqs, tracker := s.mem.tracker } } = s) ∧
    (∀ k e pad, r.isDma = true → r.op = .dmaRead pad → r.ended k = some e → e.status = .performed → k ∉ r.answered → k ∉ r.expired →
      r.orphan = false → (r.partNear k = true ∨ (s.routeLive (.tile (r.partHome k)) (.tile r.tile) = true ∧ s.canopy.flits = [])) →
      (s.tile r.tile).matrix = none → e.bytes.length ≤ 2 ^ 20 → (s.tile r.tile).rereadBad ((padWords (pad + 64 * k) e.bytes.length).map Prod.fst) = [] →
      ∃ t, exec (.responseArrival r.id k) s = .next t ∧ padStored (s.tile r.tile).pad (t.tile r.tile).pad (pad + 64 * k) e.bytes ∧
        t.mem.reqs = s.mem.reqs.map (fun q => if q.id = r.id then { r with answered := addNat r.answered k } else q)) ∧
    (∀ k : Nat, ∃ t, exec (.requestAging r.id k) s = .next t ∧ { t with canopy := s.canopy } = s ∧ { t.canopy with flits := s.canopy.flits } = s.canopy ∧
      t.canopy.flits.length = s.canopy.flits.length ∧ ∀ (i : Nat) (f g : Flit), s.canopy.flits[i]? = some f → t.canopy.flits[i]? = some g →
        g = { f with aged := f.aged || (decide (f.req = r.id ∧ f.part = k) && !f.resp && s.canopy.first f) })

/-- R53–R58, R62, R63, R179, R212: the first fault report of a launch aborts it, and its descriptor ends with the thread fault that
the report names and the number of faults in its time, or with TIMEOUT where the launch's time had run out before that fault; the last
arrival at the launch-wide barrier releases every thread that waits there; a scrub that meets a correctable error counts it, and a second parity
error faults the fetching thread with cause 0x09. -/
def Obligations.FaultReportsBarriersAndScrubs : Prop :=
  ∀ (s : State),
    (∀ (q : Fin 64) (l : Launch) (f : FaultRep), s.hq.launches.find? (fun l => decide (l.q = q)) = some l → firstFault l.faults = some f →
      let late := l.timeoutUs ≠ 0 ∧ l.expiry < f.stamp.toNat
      ∃ t, exec (.faultReport q) s = .next t ∧ (∀ k ∈ t.hq.launches, k.q ≠ q) ∧
        (∀ k n, l.holds k = true → (t.thread k n).state = .idle) ∧ (∀ k, l.holds k = false → t.tile k = s.tile k) ∧
        ∀ d rest, s.queues[q].inflight = d :: rest → d.phase = .running → t.queues[q].inflight = { d with phase := .ended (if late then plain 6 else
          { status := 5, overlap := false, faultCount := BitVec.ofNat 32 l.timely.length
            detail0 := BitVec.ofNat 64 (tileIdent f.tile + f.thread.val * 2 ^ 16 + f.cause.toNat * 2 ^ 24 + f.pc.toNat * 2 ^ 32)
            detail1 := f.stamp } : Completion) } :: rest) ∧
    (∀ (n : Fin 2560) (l : Launch), s.launchOf n = some l → (s.tile n).arrived = true →
      (∀ e ∈ s.tiles, l.has e.1 = true → e.1 ∈ l.arrived ∨ e.1 = n.val ∨ e.2.ended = true) →
      ∃ t, exec (.gbarArrival n) s = .next t ∧
        (∀ k m, l.has k = true → (s.thread k m).wait = some .gbar → (t.thread k m).state = .ready ∧ (t.thread k m).wait = none) ∧
        (∀ k m, l.has k = false ∨ (s.thread k m).wait ≠ some .gbar → t.thread k m = s.thread k m)) ∧
    (∀ (n : Fin 2560) (l : Launch), s.launchOf n = some l → (s.tile n).arrived = true →
      (∃ e ∈ s.tiles, l.has e.1 = true ∧ e.1 ∉ l.arrived ∧ e.1 ≠ n.val ∧ e.2.ended = false) →
      ∃ t, exec (.gbarArrival n) s = .next t ∧ t.tiles = s.tiles ∧ ∀ k ∈ t.hq.launches, k.q = l.q → n.val ∈ k.arrived) ∧
    (∀ (n : Fin 2560) (g : Fin 32768) (w : Fin 4), s.homeLive n = true → (∀ v : Fin 4, 4 * g.val + v.val ∉ (s.tile n).padBad) →
      (recent s.hours 864000 (find [] (s.tile n).padCeTimes (4 * g.val + w.val))).length < 16 →
      ∃ t, exec (.scratchpadScrub n g [(w.val, .correctable)]) s = .next t ∧ { t with tiles := s.tiles } = s ∧ (∀ k, k ≠ n.val → t.tile k = s.tile k) ∧
        (t.tile n).padCe = (s.tile n).padCe + 1 ∧ (t.tile n).padCeLast = 8 * (4 * g.val + w.val) ∧
        { t.tile n with padCe := (s.tile n).padCe, padCeLast := (s.tile n).padCeLast, padCeTimes := (s.tile n).padCeTimes } = s.tile n) ∧
    (∀ (th : Thr) (again : Bool), (s.me th).state = .ready → ∃ t, exec (.icacheRefetch th again) s = .next t ∧
      (t.tile th.tile).icacheEvents = (s.tile th.tile).icacheEvents + 1 ∧
      t.me th = if again then { s.me th with state := .faulted, cause := 0x09, stall := none, wait := none } else s.me th)

/-- R120, R126–R128, R130: the patrol scrubber's read moves its slice on by one transaction; a refresh command refreshes the 4 rows of its bank with
those postponed and closes its open row, or is postponed; the layer sensors, all working, give the stack its highest reading and the band that it selects; a trunk
resistance above 130 % of the baseline, at more than 400 A, raises the check, with one record and one report of the die as degraded where it was not
raised before, and one at most so high lowers it; each of these changes nothing else, but that a sensor read may add its records and set its stack's
status bits.
R134, R152: a flit that fails its CRC on a link that exists is replayed and counted, in a run with the failed replays before it or in a new one.
The model's choices, which no rule of the spec states: that the directions of a mesh link are counted apart (log 175, DEDUCED) and those of a die-edge
link together (log 209, DESIGN CHOICE), that the first measurement in a Stage 3 entry is the baseline (log 49, DEDUCED), that a refresh which may be
postponed is, as a free value decides (log 12, DESIGN CHOICE), and what judges the sensor of an outermost layer (log 48, DEDUCED). -/
def Obligations.MemoryHousekeeping : Prop :=
  ∀ (s : State),
    (∀ sl : Fin 2560, (s.reg .A 0x20000).getLsbD 0 = true → (s.reg .A 0x20000).getLsbD 1 = false → s.channelOpen sl = true → s.channelWanted sl = false →
      let pos := find 0 s.mem.patrol sl
      (sl.val * 2 ^ 29 + pos * 64) / 64 ∉ s.mem.bad →
      ∃ t, exec (.patrolScrubRead sl .clean) s = .next t ∧
        t = { s with mem := { s.mem with patrol := insert s.mem.patrol sl ((pos + 1) % 8388608) } }) ∧
    (∀ (sl : Fin 2560) (bank : Fin 128), s.homeLive sl = true →
      let key := sl.val * 128 + bank.val
      let late := find 0 s.mem.postponed key
      ∃ t, exec (.refreshCommand sl bank) s = .next t ∧ { t with mem := s.mem } = { s with free := s.free + 1 } ∧
        ((find 0 t.mem.refreshed key = (find 0 s.mem.refreshed key + 4 * (late + 1)) % 2048 ∧ find 0 t.mem.postponed key = 0 ∧
            ∀ e ∈ t.mem.openRow, e.1 ≠ key) ∨
          (late < 4 ∧ s.bankWanted sl bank = true ∧ t.mem.refreshed = s.mem.refreshed ∧ t.mem.openRow = s.mem.openRow ∧ find 0 t.mem.postponed key = late + 1))) ∧
    (∀ (st : Fin 20) (l : List Int) (top : Int), s.homeLive (st.val * 128) = true → l.length = 8 → (∀ i < 8, sensorFailed l i = false) →
      top ∈ l → (∀ x ∈ l, x ≤ top) → ∃ t, exec (.layerSensorRead st (l.map some)) s = .next t ∧
        t.mem.temp[st] = BitVec.ofInt 16 top ∧ t.mem.layerTemp[st] = l ∧ t.mem.failedSensors[st] = 0 ∧
        t.mem.band[st] = BitVec.ofNat 3 (bandOf ((s.reg .A 0x2002C).toNat % 256) s.mem.band[st].toNat top) ∧
        { t with mem := { t.mem with temp := s.mem.temp, layerTemp := s.mem.layerTemp, failedSensors := s.mem.failedSensors, band := s.mem.band }
                 log := s.log, regs := s.regs } = s) ∧
    (∀ (d : Fin 4) (uohm amps : Nat),
      (s.mem.trunkBase[d] = none ∨ amps ≤ 400 → ∃ t, exec (.trunkResistanceCheck d uohm amps) s = .next t ∧ t = s) ∧
      (∀ base, s.mem.trunkBase[d] = some base → 400 < amps → ∃ t, exec (.trunkResistanceCheck d uohm amps) s = .next t ∧
        let u : State := { s with mem := { s.mem with
          trunk := s.mem.trunk.set d (some uohm), trunkHigh := s.mem.trunkHigh.set d (decide (130 * base < 100 * uohm)) } }
        t = if 130 * base < 100 * uohm ∧ s.mem.trunkHigh[d] = false
          then (u.record 0x17 .warning false d.val (natLe 4 uohm)).report 0x0001 (0x1000 + d.val) else u)) ∧
    (∀ (link : MeshLink) (again : Bool), linkExists link = true → linkKey link ∉ s.canopy.failed →
      let run := if again then find 0 s.canopy.replays (linkKey link) else 0
      run < 8 → ∃ t, exec (.flitCrcFailure link again) s = .next t ∧ t.canopy.retryTotal = s.canopy.retryTotal + 1 ∧
        find 0 t.canopy.replays (linkKey link) = run + 1 ∧
        (t.reg .A 0x10004).getLsbD 0 = true ∧ { t with canopy := s.canopy, regs := s.regs } = s)

/-- R10, R11: a 32-bit write to the lower half of a 64-bit register fills the writing function's latch and changes nothing else; the write of the upper
half then acts as one 64-bit write with the latch, or with the present lower half where the latch is empty, and empties the latch; a read of the lower
half returns it and captures the upper half, which the next read of the upper half returns, emptying the capture; one 64-bit read returns the whole register;
an access that R10 does not allow
changes nothing, and a read of that kind returns zero. No BAR2 write of the port waits, or a read would wait for it (R193). -/
def Obligations.RegisterHalvesAndDisallowedAccesses : Prop :=
  ∀ (s : State) (fn : Fn) (off : BitVec 20), s.reaches fn = true → s.host[fnIdx fn].writes = [] →
    let key : Nat := (if fn = .A then 0 else 2 ^ 20) + off.toNat
    (wideReg off.toNat = true → off.toNat % 8 = 0 → (0x40000 ≤ off.toNat ∨ s.stage = .stage3) →
      (∀ v : BitVec 32, ∃ t, exec (.lowerHalfWrite fn off v) s = .next t ∧ find 0 t.latch key = v ∧ { t with latch := s.latch } = s) ∧
      (∀ v : BitVec 32, ∃ t, exec (.upperHalfWrite fn (off + 4) v) s = .next t ∧
        exec (.registerWrite fn off true (BitVec.ofNat 64 (v.toNat * 2 ^ 32 +
          match s.latch.find? (fun e => e.1 == key) with
          | some e => e.2.toNat
          | none => s.regValue fn off.toNat % 2 ^ 32))) { s with latch := erase s.latch key } = .next t) ∧
      (∃ t, exec (.lowerHalfRead fn off true) s = .next t ∧ t = s.emit (.regData fn off.toNat (BitVec.ofNat 64 (s.regValue fn off.toNat)))) ∧
      (∃ t, exec (.lowerHalfRead fn off false) s = .next t ∧ { t with capture := s.capture } =
          s.emit (.regData fn off.toNat (BitVec.ofNat 64 (s.regValue fn off.toNat % 2 ^ 32))) ∧
        find 0 t.capture key = BitVec.ofNat 32 (s.regValue fn off.toNat / 2 ^ 32)) ∧
      (∃ t, exec (.upperHalfRead fn (off + 4)) s = .next t ∧ (t.capture.find? (fun e => e.1 == key)).isNone = true ∧
        { t with capture := s.capture } = s.emit (.regData fn (off + 4).toNat
          (match s.capture.find? (fun e => e.1 == key) with
           | some e => e.2.setWidth 64
           | none => BitVec.ofNat 64 (s.regValue fn off.toNat / 2 ^ 32))))) ∧
    (∀ bytes, off.toNat < 0xF0000 → bytes ≠ 4 ∨ off.toNat % 4 ≠ 0 → bytes ≠ 8 ∨ wideReg off.toNat = false →
      (∃ t, exec (.disallowedAccess fn off bytes true) s = .next t ∧ t = s) ∧
      (∃ t, exec (.disallowedAccess fn off bytes false) s = .next t ∧ t = s.emit (.regData fn off.toNat 0)))

/-- R13: a W1C bit that hardware sets in the cycle in which software writes 1 to clear it remains set. -/
def Obligations.W1cBitSetByHardwareRemains : Prop :=
  ∀ (s : State) (fn : Fn) (off : BitVec 20) (v hw : BitVec 64) (n : Nat), s.reaches fn = true → (0x40000 ≤ off.toNat ∨ s.stage = .stage3) →
    (w1cBits off.toNat).getLsbD n = true → hw.getLsbD n = true →
    ∃ t, exec (.w1cWrite fn off v hw) s = .next t ∧ (t.reg fn off.toNat).getLsbD n = true

/-- R10, R12–R16, R573, R575: a write of a W1C register clears the bits written as 1 and no others, whatever hardware does not set again; a write of a
plain register gives each field whose new encoding is listed its new value and leaves every other bit, and sets the block's bad-encoding bit where a
field's encoding is unlisted, and Crown's share and smoothing mode follow PWR_BUDGET_CFG where it gives them (R419, R421); a sealed RWL register keeps its value and the write is recorded; a closed block outside Stage 3 ignores the write, but a
sealed register's is recorded there too.
R579: an RWL write of a closed block during a restart or a re-entry, while a Stage 3 entry is to come, waits for it.
The model's choices, which no rule of the spec states: that a sealed write to a closed block is recorded though the block ignores it, and how long late
writes are kept (log 121, DEDUCED), and that the record of a locked write carries the value written (log 160, DEDUCED). -/
def Obligations.RegisterWritesFollowAccessCodes : Prop :=
  ∀ (s : State) (fn : Fn), s.reaches fn = true →
    (∀ (off : BitVec 20) (v hw : BitVec 64), (0x40000 ≤ off.toNat ∨ s.stage = .stage3) → w1cBits off.toNat ≠ 0 →
      ∃ t, exec (.w1cWrite fn off v hw) s = .next t ∧ { t with regs := s.regs } = s ∧
        t.reg fn off.toNat = (s.reg fn off.toNat &&& ~~~v) ||| (hw &&& w1cBits off.toNat) ∧
        (∀ f o, regKey f o ≠ regKey fn off.toNat → t.reg f o = s.reg f o) ∧
        (off.toNat % 4 = 0 → hw = 0 → wideReg off.toNat = false → (off.toNat < 4 ∨ wideReg (off.toNat - 4) = false) → v.toNat < 2 ^ 32 →
          exec (.registerWrite fn off false v) s = .next t)) ∧
    (∀ (off : BitVec 20) (v : BitVec 64), v.toNat < 2 ^ 32 →
      off.toNat ∈ [0x10000, 0x20028, 0x2002C, 0x30004, 0x30040, 0x40008, 0x40020, 0x5000C, 0x60008, 0x8001C, 0xA0010, 0xB0008] →
      let fs := fieldsOf off.toNat
      (s.stage = .stage3 ∨ 0x40000 ≤ off.toNat → isRwl off.toNat = false ∨ s.sealed = false →
        ∃ t u, exec (.registerWrite fn off false v) s = .next t ∧ { u with regs := s.regs } = s ∧
          (∀ f ∈ fs, bits (u.reg fn off.toNat).toNat f.hi f.lo =
            if f.listed (bits v.toNat f.hi f.lo) then bits v.toNat f.hi f.lo else bits (s.reg fn off.toNat).toNat f.hi f.lo) ∧
          (∀ n, (∀ f ∈ fs, n < f.lo ∨ f.hi < n) → (u.reg fn off.toNat).getLsbD n = (s.reg fn off.toNat).getLsbD n) ∧
          (∀ g o, regKey g o ≠ regKey fn off.toNat → u.reg g o = s.reg g o) ∧
          let w := if fs.all (fun f => f.listed (bits v.toNat f.hi f.lo)) then u else u.badEncoding fn off.toNat
          t = if off.toNat = 0x40020 then w.followCfg else w) ∧
      (s.stage = .stage3 ∨ 0x40000 ≤ off.toNat → isRwl off.toNat = true → s.sealed = true →
        ∃ t, exec (.registerWrite fn off false v) s = .next t ∧ t = s.record 0x0A .warning true off.toNat (natLe 4 v.toNat)) ∧
      (s.stage ≠ .stage3 → off.toNat < 0x40000 → isRwl off.toNat = false →
        ∃ t, exec (.registerWrite fn off false v) s = .next t ∧ t = s) ∧
      (s.stage ≠ .stage3 → off.toNat < 0x40000 → isRwl off.toNat = true → s.sealed = true →
        ∃ t, exec (.registerWrite fn off false v) s = .next t ∧ t = s.record 0x0A .warning true off.toNat (natLe 4 v.toNat)) ∧
      (s.stage ≠ .stage3 → off.toNat < 0x40000 → isRwl off.toNat = true → s.sealed = false →
          s.start.restarting = true ∨ s.start.pendingKind.isSome = true →
        ∃ t, exec (.registerWrite fn off false v) s = .next t ∧ t = { s with late := s.late ++ [(fn, off.toNat, v.setWidth 32)] })) ∧
    (s.stage = .stage3 → ∀ v : BitVec 32, ∃ t, exec (.memCtrlWrite fn v) s = .next t ∧
      t = ({ s with mem := { s.mem with patrol := if v.getLsbD 0 then s.mem.patrol else [] } }).setReg .A memCtrl
        ((s.reg .A memCtrl &&& ~~~7) ||| (v.setWidth 64 &&& 7)))

/-- R187, R192, R222, R228, R316, R466, R474: a configuration request through a trained link is answered, with retry status until Crown firmware runs in
Stage 2; perst and DL_Down put the function's queues in ERROR with cause 4 and reset the function, clearing Bus Master Enable puts them in ERROR with
cause 3, and a function-level reset or D3hot leaves them DISABLED with their registers reset; each counts the records that it loses. A link comes up at
the rate, width and mode that it trained with, where its reference clock is there, and a size or a range that a request sets is one that R187 lists.
The model's choices, which no rule of the spec states: the codes and reset values of the PCI Express settings (log 181, PRESUMED), the reset of the MSI-X
tables (log 9, PRESUMED), that a function level reset or D3hot leaves the cause no_master (log 183, DEDUCED), and that the descriptors of a queue that is
cleared count as lost whatever their state (log 128, DEDUCED). -/
def Obligations.HostPortEventsAndResets : Prop :=
  ∀ (s : State) (fn : Fn),
    let h := s.host[fnIdx fn]
    (h.up = true → s.enumerates = false → ∀ req, ∃ t, exec (.configurationRequest fn req) s = .next t ∧ t = s.emit (.config fn true)) ∧
    (h.up = true → s.enumerates = true → ∀ req, ∃ t, exec (.configurationRequest fn req) s = .next t ∧
      t = (s.setHost fn (match req with
        | .read => h
        | .busMaster => { h with bme := true }
        | .powerD0 => { h with d3hot := false }
        | .bar2Size n => if 28 ≤ n ∧ n ≤ 41 then { h with bar2Log := n } else h
        | .payload n => if n = 128 ∨ n = 256 ∨ n = 512 then { h with payload := n } else h
        | .readRequest n => if ∃ k ≤ 5, n = 128 * 2 ^ k then { h with readRequest := n } else h
        | .timeout n => if n ∈ [0, 1, 2, 5, 6] then { h with timeout := n } else h)).emit (.config fn false)) ∧
    (∃ t, exec (.perstDeassert fn) s = .next t ∧ t = s.setHost fn { h with perst := false }) ∧
    (∀ link : PortLink, s.power.rails[portRail fn].state = .on → h.perst = false → link.refclk = true → (link.rate = 5 → link.flit = true) →
      ∃ t, exec (.dlUp fn link) s = .next t ∧ t = s.setHost fn { h with up := true, link := link }) ∧
    (h.up = false → ∃ t, exec (.perstAssert fn) s = .next t ∧ t = s.setHost fn { h with perst := true }) ∧
    (h.up = true →
      let atReset : HostPort := { HostPort.reset with perst := h.perst, link := h.link }
      (∃ t, exec (.perstAssert fn) s = .next t ∧ t.host[fnIdx fn] = { atReset with perst := true } ∧ s.queuesLost t fn 4) ∧
      (∃ t, exec (.dlDown fn) s = .next t ∧ t.host[fnIdx fn] = atReset ∧ s.queuesLost t fn 4 ∧ t.out = s.out) ∧
      (h.bme = true → ∃ t, exec (.busMasterEnableClear fn) s = .next t ∧ s.queuesLost t fn 3 ∧
        { t.host[fnIdx fn] with msixPending := h.msixPending } = { h with bme := false }) ∧
      (∃ t, exec (.functionLevelReset fn) s = .next t ∧ t.host[fnIdx fn] = { atReset with up := true } ∧ s.queuesCleared t fn ∧
        (∀ j, j ∈ t.hq.jobs ↔ j ∈ s.hq.jobs ∧ j.fn ≠ fn)) ∧
      (h.d3hot = false → ∃ t, exec (.d3hotEntry fn) s = .next t ∧ t.host[fnIdx fn] = { atReset with up := true, d3hot := true } ∧
        s.queuesCleared t fn))

/-- R2, R191–R193: a BAR2 read that the window serves completes with the bytes of device memory, or with poisoned data where it meets uncorrectable data; a
BAR2 write stores its bytes and no others; where memory cannot serve an access yet, a write waits in its port and a read is not answered; an access
that the window does not serve is refused and logged.
R192, R231: masking or unmasking a vector, or the table, sets its mask and no other, and sends one message, in rising order, for each pending vector
that is unmasked then, where the function can master the bus, and clears those pending bits and no others; in D3hot a vector's mask is not
written, which is logged.
The model's choices, which no rule of the spec states: that an access which memory cannot serve at present changes nothing and stands for the moment at
which it can (log 184, DESIGN CHOICE), that an access is performed whole within its command (log 161, DEDUCED), that a read of uncorrectable data brings
free bytes (log 12, DESIGN CHOICE), and the form of the MSI-X tables (log 9, PRESUMED; log 123, DEDUCED). -/
def Obligations.WindowAccessesAndMsixMasks : Prop :=
  (∀ (s : State) (fn : Fn) (off : Nat), s.host[fnIdx fn].up = true → s.host[fnIdx fn].writes = [] →
     let v := (s.window fn off).1
     let a := (s.window fn off).2
     let served (len : Nat) : Prop := s.windowOpen fn off len = true ∧ s.farOpen (hostNode fn) v a len = true
     (∀ len, served len → s.mem.meetsBad v a len = false →
       ∃ t, exec (.bar2Read fn off len []) s = .next t ∧ t = (s.visit v a len).emit (.bar2Data fn (devRead s.mem.dram v a len) false)) ∧
     (∀ len, served len → s.mem.meetsBad v a len = true →
       ∃ t bytes, exec (.bar2Read fn off len []) s = .next t ∧ t.out.getLast? = some (.bar2Data fn bytes true) ∧ bytes.length = len) ∧
     (∀ len errs, s.windowOpen fn off len = false →
       ∃ t, exec (.bar2Read fn off len errs) s = .next t ∧ t = (s.emit (.unsupported fn)).emit (.aer fn)) ∧
     (∀ data : List (BitVec 8), data ≠ [] → served data.length → s.mem.meetsBad v a data.length = false →
       ∃ t, exec (.bar2Write fn off data []) s = .next t ∧ { t with mem := { t.mem with dram := s.mem.dram, bad := s.mem.bad } } = s.visit v a data.length ∧
         (∀ (k : Nat) (hk : k < data.length) (l : Nat), translate v (a + k) = some l → find 0 t.mem.dram l = data[k]) ∧
         (∀ l, (∀ k < data.length, translate v (a + k) ≠ some l) → find 0 t.mem.dram l = find 0 s.mem.dram l)) ∧
     (∀ len errs, s.windowOpen fn off len = true → s.farOpen (hostNode fn) v a len = false →
       ∃ t, exec (.bar2Read fn off len errs) s = .next t ∧ t = s) ∧
     (∀ (data : List (BitVec 8)) (errs : DramErrs), data ≠ [] → s.windowOpen fn off data.length = true →
       s.farOpen (hostNode fn) v a data.length = false →
       ∃ t, exec (.bar2Write fn off data errs) s = .next t ∧ t = s.setHost fn { s.host[fnIdx fn] with
         writes := [{ view := v, addr := a, data := data, errs := errs }] }) ∧
     (∀ (data : List (BitVec 8)) (errs : DramErrs), data ≠ [] → s.windowOpen fn off data.length = false →
       ∃ t, exec (.bar2Write fn off data errs) s = .next t ∧ t = s.emit (.aer fn))) ∧
  (∀ (s : State) (fn : Fn) (on : Bool) (which : Option (Fin 128)),
     let h := s.host[fnIdx fn]
     let command : Instr := if on then .msixMask fn which else .msixUnmask fn which
     let mask := match which with
       | some v => if on then h.msixMask ||| (1#128 <<< v.val) else h.msixMask &&& ~~~(1#128 <<< v.val)
       | none => h.msixMask
     let table := if which = none then on else h.tableMask
     let go (v : Nat) : Bool := h.msixPending.getLsbD v && !mask.getLsbD v && !table && s.canMaster fn
     (s.reaches fn = true ∨ (which = none ∧ h.up = true ∧ s.enumerates = true) →
       ∃ t, exec command s = .next t ∧ { t with host := s.host, out := s.out } = s ∧
         t.out = s.out ++ ((List.range 128).filter go).map (fun v => .msix fn v) ∧ t.host[fnIdx (fnOther fn)] = s.host[fnIdx (fnOther fn)] ∧
         { t.host[fnIdx fn] with msixPending := 0 } = { h with msixMask := mask, tableMask := table, msixPending := 0 } ∧
         ∀ v < 128, t.host[fnIdx fn].msixPending.getLsbD v = (h.msixPending.getLsbD v && !go v)) ∧
     (which.isSome = true → h.up = true → h.d3hot = true → exec command s = .next (s.emit (.aer fn))))

/-- R196–R199, R202, R203, R205, R229: a poll makes the status write that was held back and reads the doorbell word; its return sets the ring positions
and starts the next descriptor reads, on every queue that allows one in the order of service, or puts the queue in ERROR with cause 1 (a failed read) or 2 (more descriptors than the ring holds); fetched
descriptors join the queue in order under their indices, with one status word at most for each poll interval; HQ_WAKE wakes an ENABLED queue.
The model's choices, which no rule of the spec states: that reads which return to a queue no longer ENABLED change nothing but their count (log 125,
DEDUCED; log 182, DEDUCED), that HQ_WAKE.queue keeps the number of a wake that is ignored (log 198, DESIGN CHOICE), and which queue goes first after reset
(log 6, DESIGN CHOICE). -/
def Obligations.QueuePollsAndFetches : Prop :=
  ∀ (s : State) (q : Fin 64) (fn : Fn), s.queues[q].owner = some fn →
    let x := s.queues[q]
    let status (y : Queue) : Output := .hostWrite fn (s.statusAddr q) (natLe 8 (queueCode y.state * 2 ^ 32 + y.fetched.toNat)) false
    (x.state = .enabled → s.canMaster fn = true → s.tagsUsed fn < 512 → ∃ t, exec (.doorbellPoll q) s = .next t ∧
      t = { s with
        queues := s.queues.set q { x with
          polling := x.polling + 1, statusMade := x.statusOwed || x.statusFirst, statusOwed := x.statusOwed && x.statusFirst, statusFirst := false
          wakeDue := false }
        out := s.out ++ (if x.statusOwed && !x.statusFirst then [status x] else []) ++ [.hostRead fn (s.mreg (qReg q + 0x10) / 8 * 8) 8] }) ∧
    (x.polling ≠ 0 → x.state = .enabled ∨ x.state = .draining → ∃ t, exec (.doorbellReadComplete q none) s = .next t ∧ s.queueErrs t q 1) ∧
    (∀ w : BitVec 64, x.polling ≠ 0 → x.state = .enabled →
      let u : State := { s with queues := s.queues.set q { x with
        polling := x.polling - 1, sqTail := w.extractLsb' 0 32, cqHead := w.extractLsb' 32 32 } }
      ∃ t, exec (.doorbellReadComplete q (some w)) s = .next t ∧
        (s.sqSize q < (w.extractLsb' 0 32 - x.done).toNat → u.queueErrs t q 2) ∧
        ((w.extractLsb' 0 32 - x.done).toNat ≤ s.sqSize q → u.fetchesOver t u.fetchOrder)) ∧
    (∀ w, x.polling ≠ 0 → x.state ≠ .enabled → (w.isSome = true ∨ x.state ≠ .draining) → ∃ t, exec (.doorbellReadComplete q w) s = .next t ∧
      t = { s with queues := s.queues.set q { x with polling := x.polling - 1 } }) ∧
    (∀ ds : List (BitVec 512), ∀ e : SramErr, e.kind = .none → 0 < x.reading → x.reading ≤ ds.length → x.state = .enabled →
      let y : Queue := { x with
        reading := 0, fetched := x.fetched + BitVec.ofNat 32 x.reading, statusMade := true, statusOwed := x.statusMade || x.statusOwed
        inflight := x.inflight ++ (ds.take x.reading).mapIdx (fun i d =>
          ({ index := x.fetched + BitVec.ofNat 32 i, desc := d, phase := .fetched } : InFlight)) }
      let u : State := { s with
        queues := s.queues.set q y
        out := s.out ++ if x.statusMade || !s.canMaster fn then [] else [status y] }
      ∃ t, exec (.descriptorReadComplete q (some ds) e) s = .next t ∧ u.fetchesOver t u.fetchOrder) ∧
    (∀ (ds : Option (List (BitVec 512))) (e : SramErr), 0 < x.reading → x.state = .enabled ∨ x.state = .draining →
      ds = none ∨ (∃ l, ds = some l ∧ l.length < x.reading) ∨ e.kind = .uncorrectable ∨ e.kind = .persistent →
      ∃ t, exec (.descriptorReadComplete q ds e) s = .next t ∧ (s.sramError 5 0 e).queueErrs t q 1) ∧
    (x.statusOwed = true → x.statusFirst = false → s.canMaster fn = true → ∃ t, exec (.statusWordWrite q) s = .next t ∧ t = { s with
      queues := s.queues.set q { x with statusOwed := false, statusMade := true, statusFirst := true }, out := s.out ++ [status x] }) ∧
    (∀ (g : Fn) (v : BitVec 32), s.opens g = true → v.toNat % 64 = q.val →
      (g = fn → x.state = .enabled → ∃ t, exec (.hqWake g v) s = .next t ∧
        t = (s.setReg g hqWakeReg (BitVec.ofNat 64 q.val)).setQueue q { x with wakeDue := true }) ∧
      (g ≠ fn → ∃ t, exec (.hqWake g v) s = .next t ∧ t = (s.setReg g hqWakeReg (BitVec.ofNat 64 q.val)).setStatus g hqStatus 1))

/-- R194, R196, R222–R227: enable starts a DISABLED queue whose configuration is valid from zero counts, and records cause 6 where it is not; drain lets
fetched work end, force ends it with ABORTED; only the owner commands, an enable of a DISABLED queue by
another function recording cause 6, and releases and only an unowned queue is claimed; a takeover takes the queue of a
function that cannot serve it, DISABLED, with its registers reset and its lost records counted.
The model's choices, which no rule of the spec states: that an enable by another function sets both not_owner and the cause (log 127, DEDUCED), that the
cause returns to none at an accepted enable (log 198, DESIGN CHOICE), and that a force ends a descriptor that had ended otherwise with ABORTED too (log
128, DEDUCED). -/
def Obligations.QueueCommandsAndOwnership : Prop :=
  ∀ (s : State) (fn : Fn) (q : Fin 64), s.opens fn = true →
    let x := s.queues[q]
    let ctrl (n : Nat) : State := s.setReg .A (qReg q + 0x24) (BitVec.ofNat 64 n)
    let own (n : Nat) : State := s.setReg .A (qReg q + 0x2C) (BitVec.ofNat 64 (n * 256))
    (x.owner ≠ some fn → ∀ c ∈ [Instr.queueEnable fn q, .queueDrain fn q, .queueForce fn q],
      ∃ t, exec c s = .next t ∧
        t = (if c = .queueEnable fn q ∧ x.state = .disabled then s.setQueue q { x with cause := 6 } else s).setStatus fn hqStatus 1) ∧
    (x.owner = some fn →
      (x.state ≠ .disabled → ∃ t, exec (.queueEnable fn q) s = .next t ∧ t = (ctrl 1).setStatus fn hqStatus 2) ∧
      (x.state = .disabled → s.cfgValid q = false → ∃ t, exec (.queueEnable fn q) s = .next t ∧ t = (ctrl 1).setQueue q { x with cause := 6 }) ∧
      (x.state = .disabled → s.cfgValid q = true → ∃ t, exec (.queueEnable fn q) s = .next t ∧
        t.queues[q] = { Queue.reset q with owner := some fn, state := .enabled, paused := x.paused, result := x.result } ∧
        (s.canMaster fn = true → ∃ l, t.out = s.out ++ .hostWrite fn (s.statusAddr q) (natLe 8 (2 ^ 32)) false :: l)) ∧
      (x.state = .enabled → ∃ t, exec (.queueDrain fn q) s = .next t ∧ { t.queues[q] with inflight := x.inflight } = { x with
        state := if x.inflight = [] then .disabled else .draining, statusOwed := false }) ∧
      (x.state ≠ .disabled → x.state ≠ .aborting → ∃ t, exec (.queueForce fn q) s = .next t ∧ { t.queues[q] with inflight := x.inflight } = { x with
          state := if x.inflight = [] then .disabled else .aborting, polling := 0, reading := 0, statusOwed := false } ∧
        t.queues[q].inflight.map (fun d => (d.index, d.desc)) = x.inflight.map (fun d => (d.index, d.desc)) ∧
        (∀ d ∈ t.queues[q].inflight, ∃ c, d.phase = .ended c) ∧ (∀ l ∈ t.hq.launches, l.q ≠ q) ∧ ∀ c ∈ t.fleet.collectives, c.q ≠ q)) ∧
    (∃ t, exec (.queueClaim fn q) s = .next t ∧
      t = (own 1).setQueue q (if x.owner = none then { x with owner := some fn, result := 1 } else { x with result := 2 })) ∧
    (∃ t, exec (.queueRelease fn q) s = .next t ∧ t = (own 2).setQueue q
      (if x.owner = some fn ∧ x.state = .disabled then { x with owner := none, result := 1 } else { x with result := 2 })) ∧
    (x.owner ≠ some (fnOther fn) ∨ s.canMaster (fnOther fn) = true →
      ∃ t, exec (.queueTakeover fn q) s = .next t ∧ t = (own 3).setQueue q { x with result := 2 }) ∧
    (x.owner = some (fnOther fn) → s.canMaster (fnOther fn) = false → ∃ t, exec (.queueTakeover fn q) s = .next t ∧
      t.queues[q] = { x with
        state := .disabled, owner := some fn, result := 1, lost := x.lost + BitVec.ofNat 32 x.inflight.length, inflight := []
        polling := 0, reading := 0, statusOwed := false } ∧
      ∀ o ∈ [0x00, 0x08, 0x10, 0x18, 0x20, 0x24], t.reg .A (qReg q + o) = regReset (qReg q + o))

/-- R199, R200, R219–R222, R229, R230: the record of the oldest ended descriptor goes to its slot of the completion ring with the phase bit of its pass,
and a DRAINING or ABORTING queue without further work becomes DISABLED; a pause is taken where repairs wait, and ends with none waiting; a host
read without a completion puts the queue in ERROR with cause 1, or ends the copy that made it with HOST_ERROR.
The model's choice, which no rule of the spec states: that a read which fails takes a DRAINING queue to ERROR as well (log 182, DEDUCED). -/
def Obligations.RecordsPausesAndLostReads : Prop :=
  ∀ (s : State) (q : Fin 64) (fn : Fn), s.queues[q].owner = some fn →
    let x := s.queues[q]
    (∀ d rest c, x.inflight = d :: rest → d.phase = .ended c → s.unperformed d = false →
      s.fleet.twin.any (fun t => t.stopping && t.q == q) = false →
      ∃ t, exec (.completionRecordWrite q) s = .next t ∧ t.queues[q].done = x.done + 1 ∧
        t.queues[q].inflight.map (fun e => e.index) = rest.map (fun e => e.index) ∧
        t.queues[q].state = (if rest = [] ∧ (x.state = .draining ∨ x.state = .aborting) then .disabled else x.state) ∧
        (s.canMaster fn = true → ∃ l, t.out = s.out ++ .hostWrite fn (s.cqBase q + 32 * (x.done.toNat % s.cqSize q))
          (natLe 4 (dfield d.desc 4 4) ++ natLe 4 d.index.toNat ++ natLe 2 c.status.toNat ++
            [BitVec.ofNat 8 (dfield d.desc 0 1), BitVec.ofNat 8 ((x.done.toNat / s.cqSize q + 1) % 2 + 2 * b2n c.overlap)] ++
            natLe 4 c.faultCount.toNat ++ natLe 8 c.detail0.toNat ++ natLe 8 c.detail1.toNat) false :: l)) ∧
    (∀ g, s.opens g = true →
      (s.hq.maint = true → ∃ t, exec (.maintenancePause g) s = .next t ∧ t = s) ∧
      (s.hq.maint = false → s.retire.pending = [] → s.mem.repairs = [] →
        ∃ t, exec (.maintenancePause g) s = .next t ∧ t = s.setStatus g hqStatus 2) ∧
      (s.hq.maint = false → s.retire.pending ≠ [] ∨ s.mem.repairs ≠ [] → ∃ t, exec (.maintenancePause g) s = .next t ∧ t = { s with
        hq := { s.hq with maint := true }, queues := s.queues.map (fun (y : Queue) => { y with paused := true }) })) ∧
    (s.hq.maint = true → s.hq.launches = [] → (∀ p : Fin 64, s.queues[p].inflight = []) → ∃ t, exec .remapApply s = .next t ∧
      t.hq.maint = false ∧ (∀ p : Fin 64, t.queues[p].paused = false) ∧ t.retire.pending = [] ∧ t.retire.edits = [] ∧ t.mem.repairs = [] ∧
      (∀ row ∈ s.mem.repairs, (t.mem.rowMap.find? (fun e => e.1 == row)).isSome = true) ∧
      (s.retire.edits = [] → ∀ n ∈ s.retire.pending, (t.tile n).fenced = false ∧ (t.tile n).pad = [] ∨ ∃ m ∈ s.retire.pending, m ≠ n ∧ rowOf m = rowOf n)) ∧
    (x.polling ≠ 0 ∨ x.reading ≠ 0 → x.state = .enabled ∨ x.state = .draining → ∃ t, exec (.hostCompletionTimeout q) s = .next t ∧ s.queueErrs t q 1) ∧
    (x.polling = 0 → x.reading = 0 → ∀ d rest, x.inflight = d :: rest → d.phase = .running → dfield d.desc 0 1 = 3 → dfield d.desc 28 1 = 0 →
      ∃ t, exec (.hostCompletionTimeout q) s = .next t ∧
        t = s.setQueue q { x with inflight := { d with phase := .ended { plain 7 with detail0 := 0 } } :: rest })

/-- R19, R44, R48, R49, R63, R93, R185, R200, R210–R212: a LAUNCH with an invalid field ends with INVALID and that field's offset, and one whose image,
arguments and tiles are good joins the waiting launches; preparation gives each tile of the launch the argument block, a cleared scratchpad where that is
asked for, and freshly reset threads; the start makes the threads of the mask READY and the launch's time run,
or ends the launch where one of its tiles has been fenced; a timeout stops every thread of it. -/
def Obligations.LaunchesPrepareStartAndTimeOut : Prop :=
  ∀ (s : State) (q : Fin 64) (d : InFlight) (rest : List InFlight), s.queues[q].inflight = d :: rest →
    let endsWith (t : State) (c : Completion) : Prop :=
      t.queues = s.queues.set q { s.queues[q] with inflight := { d with phase := .ended c } :: rest }
    let view : BitVec 2 := BitVec.ofNat 2 (dfield d.desc 27 1)
    let base := dfield d.desc 8 8 % 2 ^ 41
    (d.phase = .fetched → dfield d.desc 0 1 = 2 →
      (∀ off errs, firstInvalid (launchChecks d.desc) = some off →
        ∃ t, exec (.launch q errs) s = .next t ∧ endsWith t { plain 2 with detail0 := BitVec.ofNat 64 off } ∧ { t with queues := s.queues } = s) ∧
      (firstInvalid (launchChecks d.desc) = none → mapped view base 64 = true → s.queueOpen q view base 64 = true →
        s.mem.meetsBad view base 64 = false →
        let header := devRead s.mem.dram view base 64
        imageGood header base (dfield d.desc 26 1) = true → mapped view (dfield d.desc 16 8 % 2 ^ 41) (dfield d.desc 24 2) = true →
        let l := newLaunch q d.desc header
        (∀ i < l.count, (s.tile (l.first + i)).fenced = false) →
        ∃ t, exec (.launch q []) s = .next t ∧ t.hq.launches = s.hq.launches ++ [l] ∧
          { t with hq := s.hq } = (s.visit view base 64).setQueue q { s.queues[q] with inflight := { d with phase := .running } :: rest })) ∧
    (∀ l, s.hq.launches.find? (fun k => decide (k.q = q ∧ k.phase = .waiting)) = some l → (∀ i < l.count, (s.tile (l.first + i)).fenced = false) →
      s.firstReady q = true → s.tilesIdle l = true → l.argSize ≤ 256 → s.queueOpen q l.view l.argAddr l.argSize = true →
       s.mem.meetsBad l.view l.argAddr l.argSize = false →
      ∃ t, exec (.launchPrepare q []) s = .next t ∧ { l with phase := .prepared } ∈ t.hq.launches ∧
        (∀ k, l.first ≤ k → k < l.first + l.count →
          (∀ n : Fin 16, t.thread k n = launchThread l k n) ∧ (t.tile k).icacheValid = false ∧
          (∀ (i : Nat) (_ : i < l.argSize), find 0 (t.tile k).pad (0xFFF00 + i) = (devRead s.mem.dram l.view l.argAddr l.argSize)[i]?.getD 0) ∧
          ∀ i < 2 ^ 20, i < 0xFFF00 ∨ 0xFFF00 + l.argSize ≤ i →
            find 0 (t.tile k).pad i = if l.clear then 0 else find 0 (s.tile k).pad i) ∧
        ∀ k, k < l.first ∨ l.first + l.count ≤ k → t.tile k = s.tile k) ∧
    (∀ l, s.hq.launches.find? (fun k => decide (k.q = q ∧ k.phase = .prepared)) = some l → d.phase = .running →
      (∃ i < l.count, (s.tile (l.first + i)).fenced = true) →
      ∃ t, exec (.launchThreadsStart q) s = .next t ∧ endsWith t (plain 4) ∧ ∀ k ∈ t.hq.launches, k.q ≠ q) ∧
    (∀ l, s.hq.launches.find? (fun k => decide (k.q = q ∧ k.phase = .prepared)) = some l → (∀ i < l.count, (s.tile (l.first + i)).fenced = false) →
      ∃ t, exec (.launchThreadsStart q) s = .next t ∧ { l with phase := .running, started := s.time } ∈ t.hq.launches ∧
        (∀ k, l.first ≤ k → k < l.first + l.count → ∀ n : Fin 16, t.thread k n =
          if l.mask.getLsbD n then { s.thread k n with state := .ready, started := true } else s.thread k n) ∧
        ∀ k, k < l.first ∨ l.first + l.count ≤ k → t.tile k = s.tile k) ∧
    (∀ l, s.hq.launches.find? (fun k => decide (k.q = q ∧ k.phase = .running)) = some l → l.timeoutUs ≠ 0 → d.phase = .running →
      let early := l.faults.filter (fun f => decide (f.stamp.toNat ≤ l.started.toNat + l.timeoutUs * 12500))
      ∃ t, exec (.launchTimeout q) s = .next t ∧
        endsWith t (match firstFault early with
          | some f => faultCompletion f early.length
          | none => plain 6) ∧
        (∀ k ∈ t.hq.launches, k.q ≠ q) ∧
        ∀ k, l.first ≤ k → k < l.first + l.count → ∀ n : Fin 16, (t.thread k n).state = .idle)

/-- R107, R189, R200, R207, R208, R213–R216: the oldest fetched descriptor of a queue is checked and ends, or starts and later ends, as its type says:
NOP with OK, an unlisted type with INVALID, a COPY once its bytes have moved, a WAIT when its target has come so far, and a HINT with OK once Crown holds
it; each touches only its own queue and what it moves.
R411, R413: at the start of a hinted window the hint is a demand and a preference of its dies, at its end it is gone and the charge loop's target has its
absorb headroom back unless another hint exceeds the share, and in Stage 3 Crown then evaluates every die's point.
The model's choice, which no rule of the spec states: that a copy's bytes move within the command at which it completes (log 161, DEDUCED). -/
def Obligations.DescriptorsEndAsTheirTypesSay : Prop :=
  ∀ (s : State) (q : Fin 64) (d : InFlight) (rest : List InFlight), s.queues[q].inflight = d :: rest →
    let turned (p : DescPhase) : State := s.setQueue q { s.queues[q] with inflight := { d with phase := p } :: rest }
    let type := dfield d.desc 0 1
    let free := dfield d.desc 2 1 = 0xFF
    let src := dfield d.desc 8 8
    let dst := dfield d.desc 16 8
    let len := dfield d.desc 24 4
    let dir := dfield d.desc 28 1
    let v : BitVec 2 := BitVec.ofNat 2 (dfield d.desc 29 1)
    (d.phase = .fetched →
      (type = 1 → ∃ t, exec (.nop q) s = .next t ∧
        t = turned (.ended (if free then plain 0 else { plain 2 with detail0 := 2 }))) ∧
      (type = 0 ∨ 7 < type → ∃ t, exec (.invalidDescriptor q) s = .next t ∧ t = turned (.ended (plain 2))) ∧
      (type = 6 → free → dfield d.desc 8 1 = 0 ∨ 3 < dfield d.desc 8 1 →
        ∃ t, exec (.invalidDescriptor q) s = .next t ∧ t = turned (.ended { plain 2 with detail0 := 8 })) ∧
      (type = 3 → (∀ off, firstInvalid (copyChecks d.desc) = some off →
          ∃ t, exec (.copy q) s = .next t ∧ t = turned (.ended { plain 2 with detail0 := BitVec.ofNat 64 off })) ∧
        (firstInvalid (copyChecks d.desc) = none →
          ((dir ≠ 0 ∧ mapped v src len = false) ∨ (dir ≠ 1 ∧ mapped v dst len = false) →
            ∃ t, exec (.copy q) s = .next t ∧ t = turned (.ended (plain 9))) ∧
          (dir = 0 ∨ mapped v src len = true → dir = 1 ∨ mapped v dst len = true →
            ∃ t, exec (.copy q) s = .next t ∧ t = match s.queues[q].owner with
              | some fn => if dir = 0 then (turned .running).emit (.hostRead fn src len) else turned .running
              | none => turned .running))) ∧
      (type = 4 → free → ∀ (hp : src % 2 ^ 16 < 64), s.queues[src % 2 ^ 16].owner = s.queues[q].owner →
        (∀ r : Fin 64, r ≠ q → (∀ e l, s.queues[r].inflight = e :: l → e.phase ≠ .running)) →
        ∃ t, exec (.wait q) s = .next t ∧ t = turned (match waitOutcome s.queues[src % 2 ^ 16] (dfield d.desc 12 4) with
          | some c => .ended c
          | none => .running)) ∧
      (type = 5 → firstInvalid (hintChecks d.desc) = none → ∃ t, exec (.hint q) s = .next t ∧
        t.queues = (turned (.ended (plain 0))).queues ∧ ∃ h, t.hq.hints = s.hq.hints ++ [h] ∧ h.demand = dfield d.desc 8 4 ∧
          h.from_ = s.clk.us + dfield d.desc 12 4 ∧ h.until_ = h.from_ + dfield d.desc 16 4 ∧
          h.pref.map (fun p => p.val) = (if dfield d.desc 2 1 = 0xFF then none else some (dfield d.desc 2 1)) ∧
          h.dies.toNat = dfield d.desc 20 1 ∧ h.active = false)) ∧
    (d.phase = .running →
      (type = 4 → dfield d.desc 16 4 ≠ 0 → ∃ t, exec (.waitTimeout q) s = .next t ∧ t = turned (.ended (plain 6))) ∧
      (type = 3 → len ≠ 0 → len % 4 = 0 →
        (∀ data : List (BitVec 8), dir = 0 → data.length = len → mapped v dst len = true → s.queueOpen q v dst len = true →
          s.mem.meetsBad v dst len = false →
          ∃ t, exec (.copyComplete q data none []) s = .next t ∧ t.queues = (turned (.ended (plain 0))).queues ∧
            (∀ (k : Nat) (hk : k < data.length) (l : Nat), translate v (dst + k) = some l → find 0 t.mem.dram l = data[k]) ∧
            (∀ l, (∀ k < len, translate v (dst + k) ≠ some l) → find 0 t.mem.dram l = find 0 s.mem.dram l)) ∧
        (dir = 1 → s.queueOpen q v src len = true → s.mem.meetsBad v src len = false → ∃ t, exec (.copyComplete q [] none []) s = .next t ∧
          { t with mem := s.mem } = (match s.queues[q].owner with
            | some fn => if s.canMaster fn then (turned (.ended (plain 0))).emit (.hostWrite fn dst (devRead s.mem.dram v src len) true)
              else turned (.ended (plain 0))
            | none => turned (.ended (plain 0))) ∧ t.mem = (s.visit v src len).mem) ∧
        (1 < dir → mapped v src len = true → mapped v dst len = true → s.queueOpen q v src len = true → s.queueOpen q v dst len = true →
          s.mem.meetsBad v src len = false → s.mem.meetsBad v dst len = false →
          src + len ≤ dst ∨ dst + len ≤ src →
          ∃ t, exec (.copyComplete q [] none []) s = .next t ∧ t.queues = (turned (.ended (plain 0))).queues ∧
            (∀ k < len, ∀ l, translate v (dst + k) = some l → find 0 t.mem.dram l = (devRead s.mem.dram v src len)[k]?.getD 0) ∧
            (∀ l, (∀ k < len, translate v (dst + k) ≠ some l) → find 0 t.mem.dram l = find 0 s.mem.dram l)))) ∧
    (∀ i h, s.hq.hints[i]? = some h →
      (let u : State := { s with hq := { s.hq with hints := s.hq.hints.set i { h with active := true } } }
       ∃ t, exec (.hintWindowStart i) s = .next t ∧ t = u.evaluate ∧ (s.stage ≠ .stage3 → t = u) ∧
          ∀ k : Fin 4, h.dies.getLsbD k = true → h.demand ≤ u.hintDemand k ∧ ∀ p, h.pref = some p → p ≤ u.preference k) ∧
      (let left : List Hint := s.hq.hints.eraseIdx i
       let u : State := ({ s with hq := { s.hq with hints := left } } : State).newEnergy
       ∃ t, exec (.hintWindowEnd i) s = .next t ∧ t = u.evaluate ∧ (s.stage ≠ .stage3 → t = u) ∧
          { u with le := s.le, sap := s.sap } = { s with hq := { s.hq with hints := left } } ∧
          u.le.slots[1].values.target = bfp (maxQ 3000 (storeEnergy (stackCap s.sap.cells) s.sap.ceilingMv -
            if left.any (fun g => decide (s.budget.share < g.demand)) then 0 else 1000))))

/-- R217, R218: a start MARK opens a job and marks every job open beside another as overlapping; its end MARK closes it and reports the module energy in
mJ and the time in µs since; a second start, or an end without a job, ends with JOB_ERROR, and a 65th job with JOB_TABLE_FULL; a step boundary
without a copy or a commit completes at once. -/
def Obligations.MarksOpenAndCloseJobs : Prop :=
  ∀ (s : State) (q : Fin 64) (d : InFlight) (rest : List InFlight) (fn : Fn), s.queues[q].inflight = d :: rest → d.phase = .fetched →
    dfield d.desc 0 1 = 6 → dfield d.desc 2 1 = 0xFF → s.queues[q].owner = some fn →
    let ended (u : State) (c : Completion) : State := u.setQueue q { s.queues[q] with inflight := { d with phase := .ended c } :: rest }
    let id : BitVec 32 := BitVec.ofNat 32 (dfield d.desc 12 4)
    (dfield d.desc 8 1 = 1 → ∃ t, exec (.markJobStart q) s = .next t ∧
      t = if s.hq.jobs.any (fun j => decide (j.fn = fn ∧ j.jobId = id)) then ended s (plain 0xA)
        else if 64 ≤ s.hq.jobs.length then ended s (plain 0xB)
        else ended { s with hq := { s.hq with jobs := s.hq.jobs.map (fun (j : Job) => { j with overlap := true }) ++
          [{ fn := fn, jobId := id, energy := s.hq.energy, start := s.time.toNat / 12500, overlap := decide (s.hq.jobs ≠ []) }] } } (plain 0)) ∧
    (dfield d.desc 8 1 = 2 → (∀ j ∈ s.hq.jobs, j.fn ≠ fn ∨ j.jobId ≠ id) →
      ∃ t, exec (.markJobEnd q) s = .next t ∧ t = ended s (plain 0xA)) ∧
    (dfield d.desc 8 1 = 2 → ∀ j, s.hq.jobs.find? (fun j => decide (j.fn = fn ∧ j.jobId = id)) = some j →
      ∃ t, exec (.markJobEnd q) s = .next t ∧ (∀ k, k ∈ t.hq.jobs ↔ k ∈ s.hq.jobs ∧ ¬(k.fn = fn ∧ k.jobId = id)) ∧
        t.queues = (ended s { plain 0 with
          overlap := j.overlap, detail0 := BitVec.ofNat 64 ((s.hq.energy - j.energy) / 1000)
          detail1 := BitVec.ofNat 64 (s.time.toNat / 12500 - j.start) }).queues ∧
        { t with hq := s.hq, queues := s.queues } = s) ∧
    (dfield d.desc 8 1 = 3 → s.fleet.blocks = none → s.fleet.commit = none → ∃ t, exec (.markStepBoundary q []) s = .next t ∧
      t.queues = (ended s (plain 0)).queues ∧ t.fleet.lastStep = BitVec.ofNat 64 (dfield d.desc 16 8))

/-- R238, R240–R242, R263, R265, R267, R587: a port's commands act in the states that Table: Port states lists and are flagged in the others; a cable that
answers and gives a signal on four lanes leads to TRAIN, lock on a set of lanes to NEGOTIATE with a training word sent, and the eighth identical
valid word that passes the checks to ACTIVE with the peer's identifier, port and credits and the configuration of the module, which the port keeps;
a flit that fails the checks of a flit is counted, and one with such a flit or a word that is not acceptable among them is no run of eight; every failure
on the way puts the port in DOWN with its cause.
The model's choices, which no rule of the spec states: that a negotiation which times out has the cause train_fail (log 84, DEDUCED), that no set of four
lanes has the cause lanes (log 151, DEDUCED), that a flit other than a data flit with a channel is not listed (log 150, DEDUCED), that what a port keeps
of its match is dropped with ACTIVE (log 149, DEDUCED), and that page 02h is read once before an application is selected (log 199, DESIGN CHOICE). -/
def Obligations.PortCommandsDetectionAndTraining : Prop :=
  ∀ (s : State) (p : Fin 20),
    let x := s.ports[p]
    let down (c : BitVec 4) : State := s.setPort p { x.cleared with state := .down, cause := c }
    let off : Port := { x.cleared with state := .disabled, out := [], requests := unheld [] x.requests, responses := [] }
    (∀ fn, s.opens fn = true →
      let cmd (n : Nat) : State := s.setReg .A (pReg p) (BitVec.ofNat 64 n)
      (∃ t, exec (.portEnable fn p) s = .next t ∧ t = if x.broken = false ∧ (x.state = .disabled ∨ x.state = .down)
        then (cmd 1).setPort p { x.cleared with state := .detect } else (cmd 1).flag bxStatus 1) ∧
      (x.state ∈ [.disabled, .active, .flush] ∨ (∀ o ∈ x.out, o.purpose = .gone) → ∃ t, exec (.portDisable fn p) s = .next t ∧ t = match x.state with
        | .disabled => (cmd 2).flag bxStatus 1
        | .active => (cmd 2).setPort p { x with state := .flush, flush := some { reason := 1, sent := none } }
        | .flush => cmd 2
        | _ => (cmd 2).setPort p off) ∧
      (x.state = .disabled → ∃ t, exec (.portForce fn p) s = .next t ∧ t = (cmd 3).flag bxStatus 1) ∧
      (x.state = .active → ∃ t, exec (.portForce fn p) s = .next t ∧ t.ports[p].state = .flush ∧
        t.ports[p].flush = some { reason := 4, sent := some x.txSeq }) ∧
      (x.state ∉ [.disabled, .active, .flush] → (∀ o ∈ x.out, o.purpose = .gone) → ∃ t, exec (.portForce fn p) s = .next t ∧ t = (cmd 3).setPort p off)) ∧
    (x.state = .detect → ∀ a : CableAnswer,
      (a.answered = false ∨ x.power = false → ∃ t, exec (.cableDetectAttempt p a) s = .next t ∧
        t = (s.emit (.twoWire p .p00 false)).setPort p (if x.attempts < 2 then { x with attempts := x.attempts + 1, cable := x.cable &&& ~~~1 }
          else { x.cleared with cable := x.cable &&& ~~~3, state := .down, cause := 1 })) ∧
      (a.answered = true → x.power = true → (∀ b ∈ a.apps, b = false) → ∃ t, exec (.cableDetectAttempt p a) s = .next t ∧
        t.ports[p].state = .down ∧ t.ports[p].cause = 2 ∧ t.out = s.out ++ [.twoWire p .p00 false, .twoWire p .p01 false]) ∧
      (∀ n, a.answered = true → x.power = true → a.apps[n]? = some true → (∀ i < n, a.apps[i]? = some false) →
        ∃ t, exec (.cableDetectAttempt p a) s = .next t ∧ t = { s.setPort p { x with
            cable := x.cable ||| 3, attempts := 0, app := some n
            state := if 4 ≤ (List.range 8).countP (fun i => a.signal.getLsbD i) then .train else .detect } with
          out := s.out ++ [.twoWire p .p00 false, .twoWire p .p01 false, .twoWire p .p02 false, .twoWire p .p10 true, .twoWire p .lower true] })) ∧
    (x.state = .train →
      (∃ t, exec (.trainTimeout p) s = .next t ∧ t = down 3) ∧
      ∀ lanes precode, (linkWidth lanes (s.x4Only p) = none → ∃ t, exec (.trainLock p lanes precode) s = .next t ∧ t = down 7) ∧
        (linkWidth lanes (s.x4Only p) ≠ none → ∃ t f, exec (.trainLock p lanes precode) s = .next t ∧ t.out = s.out ++ [.flit p f] ∧
          { t.ports[p] with nak := x.nak, owed := x.owed } = { x with
            own := lanes, precode := precode, state := .negotiate, word := none, same := 0, seen := false } ∧
          flitGood f = true ∧ tfield f 0 1 = 3 ∧ (f.drop 8).take 32 = t.trainingWord p)) ∧
    (x.state = .negotiate →
      (∃ t, exec (.negotiateTimeout p) s = .next t ∧ t = down 3) ∧
      ∀ f, (flitListed f .clean = true → wordGood f = false → ∃ t, exec (.trainingWord p f .clean) s = .next t ∧ t = s.setPort p { x with same := 0 }) ∧
        (flitListed f .clean = false → ∃ t, exec (.trainingWord p f .clean) s = .next t ∧ t = s.setPort p { x with
          same := 0, nak := true, discard := true, crcErr := if x.crcErr = BitVec.allOnes 64 then x.crcErr else x.crcErr + 1 }) ∧
        (flitListed f .clean = true → wordGood f = true → let w := (payload f).take 32
        (x.word ≠ some w → ∃ t, exec (.trainingWord p f .clean) s = .next t ∧ t.ports[p].state = .negotiate ∧ t.ports[p].word = some w ∧
          t.ports[p].same = 1 ∧ ∃ g, t.out = s.out ++ [.flit p g]) ∧
        (x.word = some w → 7 ≤ x.same → bit (tfield w 9 1) 0 = true →
          (∀ c, s.wordFault p w = some c → ∃ t, exec (.trainingWord p f .clean) s = .next t ∧ t.ports = (down c).ports) ∧
          (s.wordFault p w = none → ∀ lanes width, linkWidth (x.own &&& BitVec.ofNat 8 (tfield w 8 1)) (s.x4Only p) = some (lanes, width) →
            ∃ t, exec (.trainingWord p f .clean) s = .next t ∧ t.ports[p].state = .active ∧ t.ports[p].lanes = lanes ∧
              t.ports[p].width = width ∧ t.ports[p].gen = 2 ∧ t.ports[p].cfg = 3 ∧ t.ports[p].txSeq = 0 ∧ t.ports[p].rxSeq = 0 ∧
              t.ports[p].peer = BitVec.ofNat 32 (2 ^ 31 + tfield w 5 1 % 32 * 2 ^ 16 + bits (tfield w 6 2) 11 0) ∧
              t.ports[p].trained = { remote := bit (s.mreg (pReg p + 0x04)) 1, x4 := s.x4Only p, id := s.myId
                                     precode := BitVec.ofNat 8 (tfield w 10 1) } ∧
              ∀ v : Fin 6, t.ports[p].credits[v] = tfield w (12 + 2 * v.val) 2)))) ∧
    (x.state = .down → bit (s.mreg (pReg p + 0x04)) 0 = true → x.cause.toNat ∈ [1, 3, 7, 9, 10, 11] → s.stage = .stage3 →
      ∃ t, exec (.portAutoRetry p) s = .next t ∧ t = s.setPort p { x.cleared with state := .detect })

/-- R240, R256, R257, R263, R265: a trigger puts an ACTIVE port in RETRAIN, counted and flagged; lock regained returns it to ACTIVE at the width locked, and
10 ms without it put it in DOWN with cause 9; a flush whose traffic has drained, or whose time is up, sends its tombstone once, and the port is
DISABLED when that is done or when the link fails, with no request of its own left and none of another module but those held for nothing. -/
def Obligations.PortsRetrainAndFlush : Prop :=
  ∀ (s : State) (p : Fin 20),
    let x := s.ports[p]
    (x.state = .active → (recent s.clk.us 60000000 x.retrains).length < 5 → ∀ why, (why = .naks → 8 ≤ x.naks) →
      (why = .codewords → 16 < (x.badWords.filter (fun t => decide (s.clk.us < t + 1000))).length) →
      ∃ t, exec (.retrainTrigger p why) s = .next t ∧ t = (s.setPort p { x with
        state := .retrain, retrains := recent s.clk.us 60000000 x.retrains, naks := 0, badWords := []
        retrainCount := if x.retrainCount = BitVec.allOnes 32 then x.retrainCount else x.retrainCount + 1 }).flag (pReg p + 0x0C) 1) ∧
    (x.state = .retrain →
      (∀ lanes l w, linkWidth lanes x.trained.x4 = some (l, w) → ∃ t, exec (.retrainLock p lanes) s = .next t ∧ t.ports[p].state = .active ∧
        t.ports[p].own = lanes ∧ t.ports[p].lanes = l ∧ t.ports[p].width = w ∧ t.ports[p].rxSeq = x.rxSeq ∧ x.replay <+: t.ports[p].replay) ∧
      (∃ t, exec (.retrainTimeout p) s = .next t ∧ t.ports[p].state = .down ∧ t.ports[p].cause = 9 ∧ t.ports[p].replay = [] ∧
        t.ports[p].requests = unheld [] x.requests ∧ (t.reg .A (pReg p + 0x0C)).getLsbD 0 = true)) ∧
    (x.state = .flush →
      (∀ c, ∃ t, exec (.linkFailureDuringFlush p c) s = .next t ∧ t.ports[p] =
        { x.cleared with state := .disabled, cause := c, out := [], requests := unheld [] x.requests, responses := [] }) ∧
      (∀ f, x.flush = some f → f.sent = none → unansweredBy x.responses x.out = [] → x.replay = [] → (∀ v : Fin 6, x.tx[v] = []) → x.sideTx = [] →
        ∃ t g, exec (.flushDrainEnd p) s = .next t ∧ t.out = s.out ++ [.flit p g] ∧ flitGood g = true ∧ tfield g 0 1 = 2 ∧ tfield g 9 1 = 0x20 ∧
          t.ports[p].flush = some { f with sent := some x.txSeq } ∧ t.ports[p].state = .flush) ∧
      (∀ f, x.flush = some f → f.sent = none → ∃ t, exec (.flushTimeout p) s = .next t ∧ t.ports[p].state = .flush ∧
        t.ports[p].flush = some { f with sent := some x.txSeq } ∧ (t.reg .A (pReg p + 0x0C)).getLsbD 7 = true) ∧
      (∀ f n, x.flush = some f → f.sent = some n → (∀ o ∈ x.out, o.purpose = .gone) → ∃ t, exec (.tombstoneDone p) s = .next t ∧
        t = s.setPort p { x.cleared with state := .disabled, out := [], requests := unheld [] x.requests, responses := [] }))

/-- R243–R247, R249, R256: a flit with a bad CRC or an unlisted field is counted and discarded, and a nak is due; an idle flit's acknowledgement frees the flits before it and
its credits are added; a flit out of sequence delivers nothing, and one in sequence moves the expected number on, a whole request for this module
joining the port's requests; after a discard without a new flit accepted, a nak leaves again in the next flit.
The model's choices, which no rule of the spec states: which fields of a flit count as unlisted (logs 150 and 187, DEDUCED). -/
def Obligations.FlitsAreAcceptedInSequence : Prop :=
  ∀ (s : State) (p : Fin 20) (f : List (BitVec 8)),
    let x := s.ports[p]
    (x.state = .active ∨ x.state = .flush → flitListed f .clean = false → ∃ t, exec (.idleFlit p f .clean) s = .next t ∧ t = s.setPort p { x with
      nak := true, discard := true, crcErr := if x.crcErr = BitVec.allOnes 64 then x.crcErr else x.crcErr + 1 }) ∧
    (x.state = .active ∨ x.state = .flush → flitListed f .clean = true → tfield f 0 1 = 0 → bit (tfield f 1 1) 0 = false → x.sideTx = [] →
      (∀ v : Fin 6, x.tx[v] = []) →
      let kept := afterAck (BitVec.ofNat 12 (tfield f 4 2)) x.replay
      ∃ t, exec (.idleFlit p f .clean) s = .next t ∧ t.ports[p] = { x with
          replay := kept, naks := if kept.length = x.replay.length then x.naks else 0
          credits := if h : tfield f 6 2 / 8192 < 6 then x.credits.set (tfield f 6 2 / 8192) (x.credits[tfield f 6 2 / 8192] + tfield f 6 2 % 8192)
            else x.credits } ∧ { t with ports := s.ports } = s ∧ ∀ p' : Fin 20, p' ≠ p → t.ports[p'] = s.ports[p']) ∧
    (∀ e : SramErr, e.kind = .none → x.state = .active → flitListed f .clean = true → tfield f 0 1 = 1 ∨ tfield f 0 1 = 2 →
      (BitVec.ofNat 12 (tfield f 2 2) ≠ x.rxSeq → ∃ t, exec (.dataFlit p f .clean e) s = .next t ∧ t.ports[p].rxSeq = x.rxSeq ∧
        t.ports[p].discard = true ∧
        t.ports[p].requests = x.requests ∧ t.ports[p].responses = x.responses ∧ t.ports[p].side = x.side ∧ t.ports[p].part = x.part) ∧
      (BitVec.ofNat 12 (tfield f 2 2) = x.rxSeq → ∃ t, exec (.dataFlit p f .clean e) s = .next t ∧ t.ports[p].rxSeq = x.rxSeq + 1 ∧
        t.ports[p].nak = false ∧ t.ports[p].discard = false ∧
        (∀ h : List (BitVec 8), h.length = 16 → payload f = h ++ List.replicate 224 0 → tfield f 0 1 = 1 → tType h = 1 →
          tDst h = s.portId p → podOf (tSrc h) < 2 → podOf (tDst h) < 2 → x.flush = none →
          let v := bits (tfield f 1 1) 3 1
          x.part[vcOf v] = [] → t.ports[p].requests = x.requests ++ [{ vc := v, bytes := h }]))) ∧
    (∀ e : SramErr, e.kind = .uncorrectable → x.state = .active →
      ∃ t, exec (.dataFlit p f .clean e) s = .next t ∧ t.ports[p].state = .down ∧ t.ports[p].cause = 9) ∧
    (x.discard = false → exec (.nakRepeat p) s = .next s) ∧
    (x.state = .active ∨ x.state = .flush → x.discard = true → ∃ t g l, exec (.nakRepeat p) s = .next t ∧ t.out = s.out ++ .flit p g :: l ∧
      tfield g 1 1 % 2 = 1 ∧ t.ports[p].nak = false)

/-- R107, R113, R114, R252, R253: the next request of a port that may be performed is performed at the addressed memory and answered OK, a read with the
bytes, an atomic with the old value in 8 bytes; one that may not is answered with the status of the first check that fails and changes no memory.
R255, R258, R282: a response takes its request from those the port waits for and ends it; one that answers no request is discarded and counted; a
COLL request answered OK leaves its collective with one transaction less to be answered, and one that has timed out without a response ends its
collective with COLL_TIMEOUT.
The model's choices, which no rule of the spec states: the order of the checks of a request (log 152, DEDUCED), the port and the source of an answer
(logs 78 and 186, DEDUCED), that a request which memory cannot serve at present waits (log 184, DESIGN CHOICE) and one that it serves is performed whole
(log 161, DEDUCED), and that a response which answers nothing sets addr_error as well as it is counted (log 209, DESIGN CHOICE). -/
def Obligations.BeruxRequestsAndResponses : Prop :=
  (∀ (s : State) (p : Fin 20) (r : Trans) (rest : List Trans), s.pickFrom [] s.ports[p].requests = some (r, rest) →
     let b := r.bytes
     let u := s.takeRequest p r rest
     let w := u.visit (tView b) (devAddr b) (tLen b)
     let v := tView b
     let a := devAddr b
     let served (c : Instr) (m : State) (status : Nat) (data : List Byte) : Prop := ∃ t, exec c s = .next t ∧
       t = (m.noteCopy p b status).answer p b status data
     let atomics : List (Instr × Nat × AtomicOp) :=
       [(.bxAtomicSwap p [], 1, .swap), (.bxAtomicCompareAndSwap p [], 2, .cas), (.bxAtomicIntegerAdd p [], 3, .add), (.bxAtomicSignedMin p [], 4, .smin),
        (.bxAtomicSignedMax p [], 5, .smax), (.bxAtomicUnsignedMin p [], 6, .umin), (.bxAtomicUnsignedMax p [], 7, .umax), (.bxAtomicAnd p [], 8, .and),
        (.bxAtomicOr p [], 9, .or), (.bxAtomicXor p [], 10, .xor), (.bxAtomicFp32Add p [], 11, .fadd)]
     (transListed b = false → served (.beruxInvalidTransaction p) u 6 []) ∧
     (transListed b = true → u.transStatus p b ≠ 0 →
       (tType b = 1 → served (.bxRead p [] []) u (u.transStatus p b) []) ∧ (tType b = 2 → served (.bxWrite p [] []) u (u.transStatus p b) []) ∧
       (∀ e ∈ atomics, tType b = 3 → tOp b = e.2.1 → served e.1 u (u.transStatus p b) []) ∧
       (tType b = 4 → served (.bxReduce p []) u (u.transStatus p b) [])) ∧
     (u.transStatus p b = 0 → s.homeOpen p b = false → tType b = 1 → exec (.bxRead p [] []) s = .next s) ∧
     (u.transStatus p b = 0 → s.homeOpen p b = true → bit (tFlags b) 3 = false → u.mem.meetsBad v a (tLen b) = false →
       let old := leNat (devRead s.mem.dram v a (tLen b))
       (tType b = 1 → served (.bxRead p [] []) w 0 (devRead s.mem.dram v a (tLen b))) ∧
       (tType b = 2 → (tData b).length = tLen b → ∃ m, served (.bxWrite p [] []) m 0 [] ∧ { m with mem := u.mem } = u ∧
         (∀ k < tLen b, ∀ l, translate v (a + k) = some l → find 0 m.mem.dram l = (tData b)[k]?.getD 0) ∧
         (∀ l, (∀ k < tLen b, translate v (a + k) ≠ some l) → find 0 m.mem.dram l = find 0 s.mem.dram l)) ∧
       (∀ e ∈ atomics, tType b = 3 → tOp b = e.2.1 → served e.1 (w.devWrite v a (natLe (tLen b)
         (atomicResult e.2.2 (tLen b) old (tfield b 16 (tLen b)) (tfield b 24 (tLen b))))) 0 (natLe 8 old)) ∧
       (tType b = 4 → tLen b = 64 → (tData b).length = 64 → served (.bxReduce p []) (w.devWrite v a (reduceBytes
         (if tOp b = 1 then .fp32 else if tOp b = 2 then .bf16 else .fp16) (devRead s.mem.dram v a 64) (tData b))) 0 [])) ∧
     (u.transStatus p b = 0 → s.homeOpen p b = true → bit (tFlags b) 3 = true → ∀ n, tileOfIdent (bits (tAddr b) 31 20) = some n → (s.tile n).matrix = none →
       (s.tile n).padBad = [] → let off := bits (tAddr b) 19 0
       (tType b = 1 → served (.bxRead p [] []) u 0 (readPad (s.tile n).pad off (tLen b))) ∧
       (tType b = 2 → (tData b).length = tLen b → ∃ m, served (.bxWrite p [] []) m 0 [] ∧ padStored (s.tile n).pad (m.tile n).pad off (tData b)))) ∧
  (∀ (s : State) (p : Fin 20), let x := s.ports[p]
     (∀ e ∈ [(Instr.readRsp p, 0x81), (.writeAck p, 0x82), (.atomicRsp p, 0x83), (.collAck p, 0x85)],
       ∀ (r : Trans) (rest : List Trans), x.responses = r :: rest → tType r.bytes = e.2 →
         let y : Port := { x with
           responses := rest, owed := x.owed.set (vcOf r.vc) (x.owed[vcOf r.vc] + dataSlots r.bytes + 1) }
         ((∀ o ∈ x.out, o.matches r.bytes = false) → ∃ t, exec e.1 s = .next t ∧ t = (s.setPort p { y with
           addrErr := if x.addrErr = BitVec.allOnes 32 then x.addrErr else x.addrErr + 1 }).flag (pReg p + 0x0C) 4) ∧
         (∀ o, x.out.find? (fun o => o.matches r.bytes) = some o →
           let u := s.setPort p { y with out := x.out.eraseP (fun o => o.matches r.bytes) }
           (o.purpose = .gone → ∃ t, exec e.1 s = .next t ∧ t = u) ∧
           (∀ q m c, o.purpose = .coll q m → tOp r.bytes = 0 → s.coll q = some c → c.doneCount ≠ c.instances →
             ∃ t, exec e.1 s = .next t ∧ t = u.setColl { c with open_ := c.open_ - 1 }))) ∧
     (∀ (tag : BitVec 16), (unansweredBy x.responses x.out).find? (fun r => r.tag == tag) = none →
       exec (.beruxRequestTimeout p tag) s = .next s) ∧
     (∀ (tag : BitVec 16) (o : OutReq), (unansweredBy x.responses x.out).find? (fun r => r.tag == tag) = some o →
       (o.purpose = .gone → ∃ t, exec (.beruxRequestTimeout p tag) s = .next t ∧
         t = s.setPort p { x with out := answeredBy x.responses x.out ++ (unansweredBy x.responses x.out).eraseP (fun r => r.tag == tag) }) ∧
       (∀ q m c d rest, o.purpose = .coll q m → s.coll q = some c → s.queues[q].inflight = d :: rest → d.phase = .running →
         ∃ t, exec (.beruxRequestTimeout p tag) s = .next t ∧ t.coll q = none ∧
           t.queues = s.queues.set q { s.queues[q] with inflight := { d with phase := .ended { plain 0x103 with
             detail0 := BitVec.ofNat 64 (m % 2 ^ 16 + p.val * 2 ^ 24), detail1 := BitVec.ofNat 64 c.doneCount } } :: rest })))

/-- R254, R261, R262, R298, R306, R426: a heartbeat carries the epochs, digests, role, points and cap state of the module; a received one sets the port's
configuration match (0 match, 1 transition, 2 mismatch) and its time, flags a mismatch on entry, and ends its sender's matches where it carries no
cap; 3.5 ms without one make the match unknown, and on port 19 each standby that is not promoted and does not ask yet asks its witness for promotion
(R298); a cap notice is held as a match at its highest point where matching is enabled, beside one in force. -/
def Obligations.HeartbeatsAndCapNotices : Prop :=
  ∀ (s : State) (p : Fin 20),
    let x := s.ports[p]
    let peer := bits x.peer.toNat 11 0
    (x.state = .active → ∃ t, exec (.heartbeatSend p) s = .next t ∧ ∃ c, c = s.message 0x01 (s.portId p) peer
        (natLe 8 s.fleet.epoch.toNat ++ natLe 32 s.fleet.digest.toNat ++
          (match s.fleet.staged with
            | some g => natLe 8 g.epoch.toNat ++ natLe 32 g.digest.toNat
            | none => List.replicate 40 0) ++
          natLe 1 s.fleet.role ++ natLe 1 (b2n (s.crown.running && !s.hwd.freeze) + 2 * b2n s.capped) ++
          natLe 2 ((s.pointOf 0).val + (s.pointOf 1).val * 8 + (s.pointOf 2).val * 64 + (s.pointOf 3).val * 512) ++ List.replicate 4 0) ∧
        t = c.1.sendSide p c.2) ∧
    (∀ m rest, x.side = m :: rest → mType m = 0x01 →
      let same : Prop := tfield m 16 8 = s.fleet.epoch.toNat ∧ BitVec.ofNat 256 (tfield m 24 32) = s.fleet.digest
      let ahead : Prop := tfield m 16 8 = s.fleet.epoch.toNat + 1 ∧
        ∃ g, s.fleet.staged = some g ∧ g.epoch.toNat = tfield m 16 8 ∧ g.digest = BitVec.ofNat 256 (tfield m 24 32)
      let behind : Prop := s.fleet.epoch.toNat = tfield m 16 8 + 1 ∧ tfield m 56 8 = s.fleet.epoch.toNat ∧
        BitVec.ofNat 256 (tfield m 64 32) = s.fleet.digest
      (mSrc m ≠ peer → ∃ t, exec (.heartbeat p) s = .next t ∧ t = s.setPort p { x with side := rest }) ∧
      (mSrc m = peer → ∃ t, exec (.heartbeat p) s = .next t ∧
        { t.ports[p] with cfg := x.cfg } = { x with side := rest, heard := s.clk.us } ∧
        (same → t.ports[p].cfg = 0) ∧ (¬same → ahead ∨ behind → t.ports[p].cfg = 1) ∧ (¬same → ¬ahead → ¬behind → t.ports[p].cfg = 2) ∧
        (¬same → ¬ahead → ¬behind → x.cfg ≠ 2 → (t.reg .A (pReg p + 0x0C)).getLsbD 2 = true) ∧
        (same ∨ x.cfg = 2 → t.regs = s.regs ∧ t.log = s.log ∧ t.out = s.out) ∧
        (bit (tfield m 97 1) 1 = false → ∀ k ∈ t.budget.matches_, k.sender ≠ mSrc m))) ∧
    (x.state = .active → p ≠ 19 → ∃ t, exec (.heartbeatLoss p) s = .next t ∧
      t = ((s.setPort p { x with cfg := 3 }).flag (pReg p + 0x0C) 3).report 7 p) ∧
    (x.state = .active → p = 19 → ∃ t, exec (.heartbeatLoss p) s = .next t ∧
      let u := ((s.setPort p { x with cfg := 3 }).flag (pReg p + 0x0C) 3).report 7 p
      let asked : State := u.setFleet { u.fleet with standbys := s.fleet.standbys.map (fun (y : Standby) => { y with asking := y.asking || !y.promoted }) }
      t = (s.fleet.standbys.filter (fun y => !y.asking && !y.promoted)).foldl
        (fun v y => v.sendLease 0x15 y.witness (leaseBody 0 y.active v.myId 0 0)) asked) ∧
    (∀ m rest, x.side = m :: rest → mType m = 0x02 →
      let u := s.setPort p { x with side := rest }
      (bit (s.mreg pwrBudgetCfg) 8 = false → ∃ t, exec (.capNotice p) s = .next t ∧ t = u) ∧
      (bit (s.mreg pwrBudgetCfg) 8 = true → ∃ t k, exec (.capNotice p) s = .next t ∧
        t = { u with budget := { u.budget with matches_ := s.budget.matches_.filter (fun k => k.sender != mSrc m || k.applied) ++ [k] } } ∧
        k.sender = mSrc m ∧ k.applied = false ∧
        k.until_ = (if tfield m 28 4 = 0 then none else some (s.clk.us + 1000 * tfield m 28 4)) ∧
        (∃ i < 4, k.point.val = tfield m 16 2 / 8 ^ i % 8) ∧ ∀ i < 4, tfield m 16 2 / 8 ^ i % 8 ≤ k.point.val))

/-- R294–R299, R503: a witness grants a lease under the next identifier, renews a live one and acknowledges it, drops a released one, and at the third
missed renewal lets it expire; a promotion is denied and remembered while the lease lives and granted once after it has expired; a holder renews
with a rising count, keeps the time of its last acknowledged renewal, and fences itself 25 ms after that; a promoted standby reports the step and bank
that its last commit left.
The model's choices, which no rule of the spec states: that the first lease has identifier 1 (log 53, DESIGN CHOICE), that a fenced holder sends no renewal
and what a promotion waits for (log 80, DEDUCED), and the bytes of a report of a committed copy (log 155, DESIGN CHOICE). -/
def Obligations.LeasesExpireBeforePromotion : Prop :=
  ∀ (s : State) (p : Fin 20),
    let x := s.ports[p]
    (∀ m rest, x.side = m :: rest →
      let u := s.setPort p { x with side := rest }
      let module : Prop := s.hostWitness (mHolder m) (mStandby m) = none
      (mType m = 0x10 → module → mSrc m = mHolder m → s.isWitness (mHolder m) (mStandby m) = true →
        ∃ t, exec (.leaseRequest p) s = .next t ∧ ∃ l : WitnessLease, l = { id := s.fleet.nextLease, holder := mHolder m, standby := mStandby m, missed := 0, expired := false, granted := false, remembered := false } ∧
          t = (u.setFleet { s.fleet with
            nextLease := s.fleet.nextLease + 1
            witnessed := s.fleet.witnessed.filter (fun w => !(w.holder == mHolder m && w.standby == mStandby m)) ++ [l] }).sendTo 0x11 (mHolder m)
              (leaseBody l.id l.holder l.standby 0 0)) ∧
      (mType m = 0x11 → mHolder m = s.myId → ∃ t, exec (.leaseGrant p) s = .next t ∧ t = u.setFleet { s.fleet with
        holders := s.fleet.holders.map (fun (h : HolderLease) => if bits h.witness 11 0 = mSrc m ∧ h.standby = mStandby m
          then { h with id := mLease m, count := 0, sent := [], acked := 0, ackedAt := s.clk.us } else h) }) ∧
      (mType m = 0x12 → module → ∀ l, s.fleet.witnessed.find? (fun w => w.id == mLease m && w.holder == mSrc m && !w.expired) = some l →
        ∃ t, exec (.leaseRenew p) s = .next t ∧ t = (u.setFleet { s.fleet with witnessed := s.fleet.witnessed.map (fun (w : WitnessLease) =>
          if w.id = l.id then { w with missed := 0 } else w) }).sendTo 0x13 l.holder (leaseBody l.id l.holder l.standby (mCount m) 0)) ∧
      (mType m = 0x13 → ∃ t, exec (.leaseRenewAck p) s = .next t ∧ t.fleet.holders.length = s.fleet.holders.length ∧
        ∀ (i : Nat) (h : HolderLease) (a : Nat), s.fleet.holders[i]? = some h → bits h.witness 11 0 = mSrc m → h.id = mLease m →
          h.sent.find? (fun e => e.1 == mCount m) = some (mCount m, a) → ∃ k, t.fleet.holders[i]? = some k ∧ k.acked = mCount m ∧ k.ackedAt = a) ∧
      (mType m = 0x14 → module → ∃ t, exec (.leaseRelease p) s = .next t ∧ t = u.setFleet { s.fleet with
        witnessed := s.fleet.witnessed.filter (fun w => !(w.id == mLease m && w.holder == mSrc m)) }) ∧
      (mType m = 0x15 → module → ∀ l, s.fleet.witnessed.find? (fun w => w.holder == mHolder m && w.standby == mSrc m) = some l →
        ∃ t, exec (.promoteRequest p) s = .next t ∧
          let marked (k : WitnessLease) : State :=
            u.setFleet { s.fleet with witnessed := s.fleet.witnessed.map (fun w => if w.id = k.id then k else w) }
          let body := leaseBody l.id l.holder l.standby 0 l.missed
          t = if l.expired = false then (marked { l with remembered := true }).sendTo 0x17 l.standby body
            else if l.granted then u else (marked { l with granted := true }).sendTo 0x16 l.standby body) ∧
      (mType m = 0x16 → mStandby m = s.myId → s.fleet.standbys.any (fun t => decide (bits t.witness 11 0 = mSrc m ∧ t.active = mHolder m) && !t.promoted) = true →
        ∃ t, exec (.promoteGrant p) s = .next t ∧ t.fleet.role = 1 ∧
          (∃ v : State, v.fleet.copy = s.fleet.copy ∧ t = (v.reportWith 4 (mLease m).toNat (copyDetail s.fleet.copy)).tellCoordinator) ∧
          ∀ k ∈ t.fleet.standbys, bits k.witness 11 0 = mSrc m → k.active = mHolder m → k.promoted = true ∧ k.asking = false) ∧
      (mType m = 0x17 → ∃ t, exec (.promoteDeny p) s = .next t ∧ t = u)) ∧
    (∀ (i : Nat) (h : HolderLease), s.fleet.holders[i]? = some h → h.id ≠ 0 → s.fleet.fenced = false →
      (∃ t, exec (.leaseRenewTimer i) s = .next t ∧ t = (s.setFleet { s.fleet with
        holders := s.fleet.holders.set i { h with count := h.count + 1, sent := h.sent ++ [(h.count + 1, s.clk.us)] } }).sendLease 0x12 h.witness
          (leaseBody h.id s.myId h.standby (h.count + 1) 0)) ∧
      (s.clk.us < h.ackedAt + 25000 → ∃ t, exec (.holderSelfFence i) s = .next t ∧ t = s) ∧
      (h.ackedAt + 25000 ≤ s.clk.us → s.fleet.commit = none → ∃ t, exec (.holderSelfFence i) s = .next t ∧ t.fleet.fenced = true ∧ t.fleet.role = 0 ∧
        t.fleet.twin = none)) ∧
    (∀ (i : Nat) (l : WitnessLease), s.fleet.witnessed[i]? = some l → l.expired = false →
      let marked (k : WitnessLease) : State := s.setFleet { s.fleet with witnessed := s.fleet.witnessed.map (fun w => if w.id = k.id then k else w) }
      ∃ t, exec (.leaseMiss i) s = .next t ∧ t = if l.missed < 2 then marked { l with missed := l.missed + 1 }
        else if l.remembered && !l.granted then (marked { l with missed := l.missed + 1, expired := true, granted := true }).sendTo 0x16 l.standby
          (leaseBody l.id l.holder l.standby 0 3)
        else marked { l with missed := l.missed + 1, expired := true }) ∧
    (∀ (i : Nat) (t0 : Standby), s.fleet.standbys[i]? = some t0 → t0.asking = true → t0.promoted = false →
      ∃ t, exec (.promoteRequestResend i) s = .next t ∧ t = s.sendLease 0x15 t0.witness (leaseBody 0 t0.active s.myId 0 0))

/-- R257, R264, R268, R298, R303–R305, R308, R317: a tombstone from the peer takes an ACTIVE port down with cause 0xB; a member votes yes for a
proposal that matches what it has staged, is one epoch ahead and leaves it two steps, and only then; a leader votes upward once every member has voted,
with yes where all have, and not at all where its window ends first; one that asked the other pod too votes no where its own group has not voted whole
in its 20 ms, or the other pod's in 30 ms; the coordinator drops a proposal at the first no or when the window ends; a commit
along the tree is remembered with the configuration that it names; cage power follows presence, and a cable is given up at its third unanswered read.
The model's choices, which no rule of the spec states: where a module to which nothing that matches is staged takes its place in the tree (log 157,
DEDUCED), and what a port keeps of its match when it leaves ACTIVE (log 149, DEDUCED). -/
def Obligations.EpochVotesTombstonesAndCages : Prop :=
  ∀ (s : State) (p : Fin 20),
    let x := s.ports[p]
    (∀ m rest, x.side = m :: rest →
      let u := s.setPort p { x with side := rest }
      let e := mEpoch m
      let d := mDigest m
      (mType m = 0x20 → mSrc m = bits x.peer.toNat 11 0 → x.state = .active →
        ∃ t, exec (.tombstone p) s = .next t ∧ t.ports[p].state = .down ∧ t.ports[p].cause = 0xB) ∧
      (mType m = 0x30 → ∀ b0 c, s.fleet.blocks = some b0 → s.stagedFor e d = some c → s.treePlace c.blocks b0.coordinator (mSrc m) = some .member →
        (s.fleet.epoch + 1 = e ∧ s.fleet.lastStep.toNat + 2 < (mStep m).toNat → ∃ t, exec (.epochPropose p) s = .next t ∧
          t = (u.setFleet { s.fleet with voted := some (c, mStep m) }).sendTo 0x31 (mSrc m) (epochBody e d (mStep m))) ∧
        (¬(s.fleet.epoch + 1 = e ∧ s.fleet.lastStep.toNat + 2 < (mStep m).toNat) → ∃ t, exec (.epochPropose p) s = .next t ∧
          t = u.sendTo 0x31 (mSrc m) (epochBody e 0 (mStep m)))) ∧
      (mType m = 0x30 → s.fleet.blocks = none →
        ∃ t, exec (.epochPropose p) s = .next t ∧ t = u.setFleet { s.fleet with refused := s.fleet.refused + 1 }) ∧
      (mType m = 0x30 → ∀ b0, s.fleet.blocks = some b0 → s.stagedFor e d = none → ∃ t, exec (.epochPropose p) s = .next t ∧
        t = if (s.treePlace b0 b0.coordinator (mSrc m)).isSome then u.sendTo 0x31 (mSrc m) (epochBody e 0 (mStep m))
          else u.setFleet { s.fleet with refused := s.fleet.refused + 1 }) ∧
      (mType m = 0x31 → ∀ k up, s.fleet.polls.find? (fun k => k.epoch == e && k.missing.contains (mSrc m)) = some k → k.role ≠ .coordinator →
        k.up = .to up → up ≠ s.myId → ∃ t, exec (.epochVote p) s = .next t ∧
          let left := k.missing.filter (fun i => i != mSrc m)
          let no : Prop := k.refused = true ∨ k.digest ≠ d
          (left ≠ [] → ∃ r, t = u.setPoll { k with missing := left, refused := r } ∧ (r = true ↔ no)) ∧
          (left = [] → (no → t = (u.dropPoll k.role).sendTo 0x31 up (epochBody e 0 k.step)) ∧
            (¬no → t = (u.dropPoll k.role).sendTo 0x31 up (epochBody e d k.step)))) ∧
      (mType m = 0x31 → ∀ k, s.fleet.polls.find? (fun k => k.epoch == e && k.missing.contains (mSrc m)) = some k → k.role = .coordinator →
        s.poll .coordinator = some k → k.src = none →
        (k.digest ≠ d → ∃ t, exec (.epochVote p) s = .next t ∧ t.poll .coordinator = none ∧ t.fleet.commit = s.fleet.commit) ∧
        (k.digest = d → (∃ i ∈ k.missing, i ≠ mSrc m) → ∃ t, exec (.epochVote p) s = .next t ∧ ∃ j, t.poll .coordinator = some j ∧
          j = { k with missing := k.missing.filter (fun i => i != mSrc m) })) ∧
      (mType m = 0x32 → ∀ b0 c, s.fleet.blocks = some b0 → s.configFor e d = some c → s.treePlace c.blocks b0.coordinator (mSrc m) ≠ none →
        ∃ t, exec (.epochCommit p) s = .next t ∧ t.fleet.commit = some (c, mStep m))) ∧
    (∀ k, s.poll .coordinator = some k → k.src = none →
      ∃ t, exec (.epochVoteTimeout .coordinator) s = .next t ∧ t.poll .coordinator = none ∧ t.fleet.commit = s.fleet.commit) ∧
    (∀ k, s.poll .leader = some k → ∃ t, exec (.epochVoteTimeout .leader) s = .next t ∧ t = s.dropPoll .leader) ∧
    (∀ k up, s.poll .leader = none → s.poll .mirrorLeader = some k → k.missing.any (fun i => podOf i == podOf s.myId) = true → k.up = .to up → up ≠ s.myId →
      ∃ t, exec (.epochVoteTimeout .leader) s = .next t ∧ t = (s.dropPoll .mirrorLeader).sendTo 0x31 up (epochBody k.epoch 0 k.step)) ∧
    (∀ k up, s.poll .mirrorLeader = some k → k.up = .to up → up ≠ s.myId → ∃ t, exec (.epochVoteTimeout .mirrorLeader) s = .next t ∧
      t = (s.dropPoll .mirrorLeader).sendTo 0x31 up (epochBody k.epoch 0 k.step)) ∧
    (∀ low, ∃ t, exec (.cagePresenceChange p low) s = .next t ∧
      t = s.setPort p { x with present := low, power := low && !x.limited }) ∧
    (x.power = true → ∃ t, exec (.cageCurrentLimit p) s = .next t ∧ t = s.setPort p { x with power := false, limited := true }) ∧
    (x.limited = true → ∃ t, exec (.cagePowerRetry p) s = .next t ∧ t = s.setPort p { x with power := x.present, limited := false }) ∧
    (x.state = .active → x.power = true → ∀ r : CableReading, r.warn = false → r.alarm = false → r.loss &&& x.lanes = 0 →
      ∃ t, exec (.cableMonitorRead p (some r)) s = .next t ∧ t = ((s.setPort p { x with
        unanswered := 0, cable := BitVec.ofNat 32 (r.temp.toNat * 2 ^ 16 + (x.cable &&& 2).toNat + 1) }).emit (.twoWire p .lower false)).emit
          (.twoWire p .p11 false)) ∧
    (x.state = .active → x.unanswered < 2 → ∃ t, exec (.cableMonitorRead p none) s = .next t ∧
      t = (s.setPort p { x with unanswered := x.unanswered + 1, cable := x.cable &&& ~~~1 }).emit (.twoWire p .lower false)) ∧
    (x.state = .active → 2 ≤ x.unanswered → ∃ t, exec (.cableMonitorRead p none) s = .next t ∧ t.ports[p].state = .down ∧ t.ports[p].cause = 1)

/-- R272, R274, R277, R282: a COLLECTIVE of each operation is checked in order: its fields, its set and this module's place in it, its sequence
number, the fence, its routes and its buffers; the first that fails is its status; one with its set's sequence number takes it whatever the
outcome, and one that passes is held as running and waits for its instances, or for memory.
The model's choices, which no rule of the spec states: that a buffer which is not mapped ends the descriptor after the checks of R277 (log 86, DESIGN
CHOICE), and that one whose single instance memory cannot serve waits (log 184, DESIGN CHOICE). -/
def Obligations.CollectivesAreCheckedInOrder : Prop :=
  ∀ (s : State) (q : Fin 64) (d : InFlight) (rest : List InFlight), s.queues[q].inflight = d :: rest → d.phase = .fetched →
    dfield d.desc 0 1 = 7 →
    ∀ e ∈ [(Instr.allReduce q [], 1), (.reduceScatter q [], 2), (.allGather q [], 3), (.allToAll q [], 4), (.broadcast q [], 5)], dfield d.desc 8 1 = e.2 →
      let turned (p : DescPhase) : State := s.setQueue q { s.queues[q] with inflight := { d with phase := p } :: rest }
      let set := s.setOf (dfield d.desc 12 2)
      let seq : BitVec 32 := BitVec.ofNat 32 (dfield d.desc 36 4)
      (∀ off, firstInvalid (collChecks d.desc set) = some off →
        ∃ t, exec e.1 s = .next t ∧ t = turned (.ended { plain 2 with detail0 := BitVec.ofNat 64 off })) ∧
      (firstInvalid (collChecks d.desc set) = none →
        let endsAs (code : BitVec 16) (seqs : Keyed (BitVec 32)) : Prop := ∃ t c, exec e.1 s = .next t ∧ t.queues = (turned (.ended c)).queues ∧
          c.status = code ∧ t.fleet.seqs = seqs
        (set = none → endsAs 0x106 s.fleet.seqs) ∧
        (∀ x, set = some x → (s.myId ∉ x.members → endsAs 0x106 s.fleet.seqs) ∧
          (∀ me, x.members.findIdx? (fun i => i == s.myId) = some me →
            let c := newColl q d.desc x me
            let taken := insert s.fleet.seqs x.num seq
            (seq ≠ find 0 s.fleet.seqs x.num + 1 → endsAs 0x105 s.fleet.seqs) ∧
            (seq = find 0 s.fleet.seqs x.num + 1 →
              (s.fleet.fenced = true → endsAs 0x108 taken) ∧
              (s.fleet.fenced = false → s.routesMatch x.members = false → endsAs 0x107 taken) ∧
              (s.fleet.fenced = false → s.routesMatch x.members = true →
                (c.mapped = false → endsAs 9 taken) ∧
                (c.mapped = true → c.instances = 1 → s.buffersOpen c = false → ∃ t, exec e.1 s = .next t ∧ t = s) ∧
                (c.mapped = true → s.coll q = none → c.instances ≠ 1 → x.members.Nodup →
                  (∀ i ∈ x.members, i ≠ s.myId → ∃ p, s.egress i = some p ∧ s.ports[p].carries = true) →
                  ∃ t k, exec e.1 s = .next t ∧ t.queues = (turned .running).queues ∧ t.fleet.seqs = taken ∧ t.coll q = some k ∧
                    { k with ready := [], open_ := 0 } = c))))))

/-- R272, R273, R276, R280–R283: an instance starts once its trigger word has reached its number and not before; a complete one counts a boundary, shows
that every member has reached it, and the last one completes its descriptor with OK; a failure of one ends the collective, with the status that Table:
Collective statuses gives and the count of the instances done. Where the trigger word or the module's own source is uncorrectable, or where a READY that
goes out at the start has no route to its member, the start is itself such a failure. A start or an end that is not due, and one for which memory must
wait, changes nothing.
The model's choices, which no rule of the spec states: where the sums of an instance stand and when it is complete (log 81, DEDUCED), that what memory
cannot serve at present waits (log 184, DESIGN CHOICE), the buffers that a failure leaves undefined (log 156, DEDUCED), and the members that pass data on
between groups (log 189, DESIGN CHOICE). -/
def Obligations.InstancesStartEndAndFail : Prop :=
  ∀ (s : State) (q : Fin 64) (c : Collective) (d : InFlight) (rest : List InFlight), s.coll q = some c →
    s.queues[q].inflight = d :: rest → d.phase = .running →
    let failsWith (cmd : Instr) (code : BitVec 16) : Prop := ∃ t f, exec cmd s = .next t ∧ t.coll q = none ∧
      t.queues = s.queues.set q { s.queues[q] with inflight := { d with phase := .ended f } :: rest } ∧ f.status = code ∧
      f.detail1 = BitVec.ofNat 64 c.doneCount
    let alone : Prop := s.mem.sliceUeTimes = [] ∧ ∃ l, s.mem.bad = [l]
    (c.running = false → c.inst < c.instances → s.farOpen engineNode c.view c.trigger 8 = true → s.buffersOpen c = true →
      (alone → s.mem.meetsBad c.view c.trigger 8 = true → failsWith (.collectiveInstanceStart q []) 0x104) ∧
      (s.mem.meetsBad c.view c.trigger 8 = false →
        let word := leNat (devRead s.mem.dram c.view c.trigger 8)
        let own : Nat := c.src + if c.op = 3 ∨ c.op = 5 then 0 else c.me * c.chunk
        (word ≤ c.inst → ∃ t, exec (.collectiveInstanceStart q []) s = .next t ∧ t = s.visit c.view c.trigger 8) ∧
        (c.inst < word → s.mem.bad = [] → (∀ m ∈ c.others, ∃ p, s.egress (c.members.getD m 0) = some p ∧ s.ports[p].carries = true) →
          ∃ t k, exec (.collectiveInstanceStart q []) s = .next t ∧ t.coll q = some k ∧ k.inst = c.inst + 1 ∧ k.running = true ∧
            k.doneCount = c.doneCount ∧ k.ready = c.ready ∧ k.heard = c.heard) ∧
        (c.inst < word → c.op ∈ [1, 2, 3, 4] ∨ (c.op = 5 ∧ c.me = c.root) → alone → s.mem.meetsBad c.view own c.chunk = true → failsWith (.collectiveInstanceStart q []) 0x104) ∧
        (c.inst < word → c.op = 5 → 1 ≤ c.inst → s.mem.bad = [] → (∃ m ∈ c.others, s.egress (c.members.getD m 0) = none) →
          (∀ m ∈ c.others, ∀ p, s.egress (c.members.getD m 0) = some p → s.ports[p].carries = true) →
          failsWith (.collectiveInstanceStart q []) 0x100))) ∧
    (c.running = false → c.inst < c.instances → s.farOpen engineNode c.view c.trigger 8 = false ∨ s.buffersOpen c = false →
      ∃ t, exec (.collectiveInstanceStart q []) s = .next t ∧ t = s) ∧
    (c.running = true → ∃ t, exec (.collectiveInstanceStart q []) s = .next t ∧ t = s.advanceColl q [] ∧
      (c.reducedAll = false → (∀ x ∈ c.planFor c.me, x ∈ c.sent ∨ c.knows x.dest = false ∨ c.due x = false) → t = s)) ∧
    (c.complete = true → s.doneOpen c = true →
      let h : Keyed Nat := c.others.foldl (fun h m => insert h m c.inst) c.heard
      ∃ t, exec (.collectiveInstanceDone q) s = .next t ∧ t.fleet.boundaries = s.fleet.boundaries + 1 ∧
        (c.inst = c.instances → c.open_ = 0 → t.coll q = none ∧
          t.queues = s.queues.set q { s.queues[q] with inflight := { d with phase := .ended (plain 0) } :: rest }) ∧
        (c.inst ≠ c.instances ∨ c.open_ ≠ 0 → t.coll q = some { c with running := false, doneCount := c.inst, heard := h } ∧ t.queues = s.queues)) ∧
    (c.complete = false ∨ s.doneOpen c = false → ∃ t, exec (.collectiveInstanceDone q) s = .next t ∧ t = s) ∧
    (c.running = false ∨ c.timeoutUs = 0 → ∃ t, exec (.collectiveInstanceTimeout q) s = .next t ∧ t = s) ∧
    (c.running = true → c.timeoutUs ≠ 0 → failsWith (.collectiveInstanceTimeout q) 0x103) ∧
    (∀ (p : Fin 20) (r : Trans) (l : List Trans) (m : Nat), s.pickFrom [] s.ports[p].requests = some (r, l) → transListed r.bytes = true →
      tType r.bytes = 5 → s.collOf r.bytes = some c → s.senderIn r.bytes = some m →
      (tOp r.bytes = 5 → failsWith (.collAbort p) 0x10A) ∧
      (tOp r.bytes = 3 →
        (s.takeRequest p r l).collOpen p c (c.sumsAt c.inst + 4 * elements c.fmt (tAddr r.bytes)) (4 * elements c.fmt (tLen r.bytes)) = true →
        ∀ e : SramErr, e.kind = .uncorrectable → failsWith (.collReduce p e []) 0x104))

/-- R278–R281, R290, R291: READY is kept, for the running descriptor or the next; PUT stores its bytes in the destination of the running instance, or
among those that this module passes on to its group, and counts them; REDUCE adds its elements to the FP32 sums of this module's own chunk, or of one
that it passes on; COMMIT records and reports step and bank from the module that the COPY block names, is refused from any other, and where a
write of its bank was not performed; one that names no set of this module, or no bytes that its sender is to send, is answered INVALID.
The model's choices, which no rule of the spec states: that a bank with a write which was not performed cannot be committed (log 188, DEDUCED), where sums
stand (log 81, DEDUCED), what one member passes on for another and at which offsets (log 189, DESIGN CHOICE), that a REDUCE or a PUT of an instance that
has not started waits in its port (log 85, DEDUCED), and the bytes of a COMMIT's report (log 155, DESIGN CHOICE). -/
def Obligations.CollTransactionsReachTheirCollective : Prop :=
  ∀ (s : State) (p : Fin 20) (r : Trans) (l : List Trans), s.pickFrom [] s.ports[p].requests = some (r, l) → transListed r.bytes = true →
    tType r.bytes = 5 →
    let b := r.bytes
    let u := s.takeRequest p r l
    let set := tTag b / 1024
    let seq : BitVec 32 := BitVec.ofNat 32 (tfield b 16 4)
    let none_ : SramErr := { kind := .none, bank := 0, row := 0 }
    (∀ e ∈ [(Instr.collReady p [], 1), (.collPut p [], 2), (.collReduce p none_ [], 3)], tOp b = e.2 → s.senderIn b = none →
      ∃ t, exec e.1 s = .next t ∧ t = u.answer p b 6 []) ∧
    (tOp b = 1 → ∀ m, s.senderIn b = some m → (∀ c ∈ s.fleet.collectives, c.set ≠ set ∨ c.seq ≠ seq) →
      (seq = find 0 s.fleet.seqs set + 1 → ∃ t, exec (.collReady p []) s = .next t ∧
        t = (u.setFleet { s.fleet with early := insert s.fleet.early (set * 1024 + m) (seq, tfield b 20 4) }).answer p b 0 []) ∧
      (seq ≠ find 0 s.fleet.seqs set + 1 → ∃ t, exec (.collReady p []) s = .next t ∧ t = u.answer p b 6 [])) ∧
    (tOp b = 1 → ∀ m c, s.senderIn b = some m → s.fleet.collectives.find? (fun c => c.set == set && c.seq == seq) = some c → s.coll c.q = some c →
      c.running = false → ∃ t k, exec (.collReady p []) s = .next t ∧ t.coll c.q = some k ∧ find 0 k.ready m = tfield b 20 4) ∧
    (∀ m c, s.senderIn b = some m → s.collOf b = some c → s.coll c.q = some c → (tData b).length = tLen b →
      (∀ y ∈ c.planFor c.me, y ∈ c.sent ∨ c.due y = false) →
      (tOp b = 2 → c.op ∈ [3, 4, 5] → (∀ y ∈ c.planFor c.me, y ∈ c.sent) →
        (c.arriving m false (tAddr b) (tLen b) = none → ∃ t, exec (.collPut p []) s = .next t ∧ t = u.answer p b 6 []) ∧
        (∀ x, c.arriving m false (tAddr b) (tLen b) = some x →
          (c.op = 4 → x.chunk ≠ c.me → ∃ t k, exec (.collPut p []) s = .next t ∧ t.mem = s.mem ∧ t.coll c.q = some k ∧ k.had x = c.had x + tLen b ∧
            find [] k.relay x.relayKey = overlay (find [] c.relay x.relayKey) (tAddr b - c.base x) (tData b)) ∧
          (c.op ≠ 4 ∨ x.chunk = c.me → u.collOpen p c (c.dstAt c.inst + tAddr b % c.dstSize) (tLen b) = true →
            let a := c.dstAt c.inst + tAddr b
            s.mem.meetsBad c.view a (tLen b) = false → ∃ t k, exec (.collPut p []) s = .next t ∧ t.coll c.q = some k ∧ k.had x = c.had x + tLen b ∧
              (∀ k < tLen b, ∀ j, translate c.view (a + k) = some j → find 0 t.mem.dram j = (tData b)[k]?.getD 0) ∧
              (∀ j, (∀ k < tLen b, translate c.view (a + k) ≠ some j) → find 0 t.mem.dram j = find 0 s.mem.dram j)))) ∧
      (tOp b = 3 → ∀ x, c.arriving m true (tAddr b) (tLen b) = some x → c.wholeElements (tAddr b - c.base x) (tLen b) = true → c.folded = false →
        (x.chunk ≠ c.me → (∀ y ∈ c.planFor c.me, y ∈ c.sent) → (∃ k ∈ c.others, k ≠ m ∧ ∃ y ∈ c.wants k, y.reduce = true ∧ y.chunk = c.me ∧ c.whole y = false) →
          ∃ t k, exec (.collReduce p none_ []) s = .next t ∧ t.mem = s.mem ∧ t.coll c.q = some k ∧ k.had x = c.had x + tLen b ∧
            k.relay = (c.addRelay x.chunk (tAddr b - c.base x) (tData b)).relay) ∧
        (x.chunk = c.me → c.fmt = 0 → (∃ k ∈ c.others, k ≠ m ∧ ∃ y ∈ c.wants k, y.reduce = true ∧ y.chunk = c.me ∧ c.whole y = false) →
          let a := c.sumsAt c.inst + tAddr b
          u.collOpen p c a (tLen b) = true → mapped c.view a (tLen b) = true → s.mem.meetsBad c.view a (tLen b) = false →
          ∃ t k, exec (.collReduce p none_ []) s = .next t ∧ t.coll c.q = some k ∧ k.had x = c.had x + tLen b ∧
            ∀ i < tLen b / 4, devRead t.mem.dram c.view (a + 4 * i) 4 = natLe 4 ((floatFmt .fp32).add c.rounding 0
              ((floatFmt .fp32).decode (leNat (devRead s.mem.dram c.view (a + 4 * i) 4)))
              ((floatFmt .fp32).decode (leNat (((tData b).drop (4 * i)).take 4)))).1))) ∧
    (tOp b = 4 →
      let copy := some (BitVec.ofNat 64 (tfield b 16 8), BitVec.ofNat 8 (tfield b 24 1))
      ∃ t, exec (.collCommit p) s = .next t ∧
        t = if 1 < tfield b 24 1 then u.answer p b 6 []
          else if !s.namedCopy (tSrc b) then u.answer p b 5 []
          else if s.bankBroken (tfield b 24 1) then u.answer p b 2 []
          else ((u.setFleet { s.fleet with copy := copy }).reportWith 5 (tfield b 16 8) (copyDetail copy)).answer p b 0 [])

/-- R348–R354, R464, R477, R588: an enabled rail ramps, is in service once power is good, waits in hiccup after a failed attempt and latches off after
the fourth; in service an overcurrent or an overvoltage latches it off, an undervoltage outside a slew or a warm stage only sets its flag, and a bad sense point
is ignored, and reported in service; re-arming, through PWR_REARM or from the console, clears a latch and its attempts and nothing else of the rail, and a
rail that is not latched ignores it; a rail that is off counts as discharged once it has fallen; the bus converters run while the 12 V rail starts or is on. -/
def Obligations.RailsStartLatchAndRearm : Prop :=
  ∀ (s : State) (r : Fin 11),
    let x := s.power.rails[r]
    let conv (u : State) : State := { u with power := { u.power with convOn := u.power.convFault.map (fun f =>
      u.power.rails[9].enabled && decide (u.power.rails[9].state = .softStart ∨ u.power.rails[9].state = .on) && !f && u.power.convStop.isNone) } }
    (s.railReady r = true → x.enabled = false → x.state = .off → s.mayEnable = true → ∃ t, exec (.railEnable r) s = .next t ∧
      t.power.rails = s.power.rails.set r { x with
        enabled := true, armed := false, goingDown := false, state := .softStart, attempts := 1, shed := 0, shedTo := none, leaving := 0
        working := fitted r &&& ~~~(x.failed ||| x.taken) }) ∧
    (x.state = .softStart → r ≠ 10 → ∃ t, exec (.powerGood r) s = .next t ∧
      t.power.rails = s.power.rails.set r { x with state := .on, armed := true, charged := true } ∧
      ∀ h : r.val < 4, t.power.cores[r.val].settled = s.power.cores[r.val].pins ∧ t.power.cores[r.val].slewing = false ∧
        (s.start.dies[r.val] = .rail → t.start.dies[r.val] = .locking)) ∧
    (x.state = .softStart → x.attempts < 4 → ∃ t, exec (.startAttemptFailure r) s = .next t ∧
      t = ((conv (s.setRail r { x with state := .hiccup })).flag pwrErr 5).record 0x32 .warning true r.val []) ∧
    (x.state = .softStart → 4 ≤ x.attempts → ∃ t, exec (.startAttemptFailure r) s = .next t ∧
      t.power.rails[r] = { x with state := .latched } ∧ (t.reg .A pwrErr).getLsbD 6 = true ∧
      (r = 10 → t.sap.state = .lockedOut ∧ t.sap.lockout = some .precharge)) ∧
    (x.state = .hiccup → x.enabled = true → ∃ t, exec (.hiccupRetry r) s = .next t ∧ t = conv (s.setRail r { x with
      state := .softStart, attempts := x.attempts + 1, shed := 0, shedTo := none, leaving := 0, working := fitted r &&& ~~~(x.failed ||| x.taken) })) ∧
    (x.state = .on →
      (∀ e ∈ [(Instr.railOvercurrent r, 0), (.railOvervoltage r, 1)], ∃ t, exec e.1 s = .next t ∧
        t = ((conv (s.setRail r { x with state := .latched, current := 0 })).flag pwrErr e.2).flag pwrErr 6) ∧
      (∃ t, exec (.railUndervoltage r) s = .next t ∧
        t = if ∃ h : r.val < 4, s.power.cores[r.val].slewing = true then s else s.flag pwrErr 2) ∧
      (∃ t, exec (.powerStageWarm r) s = .next t ∧ t = s.flag pwrErr 10)) ∧
    (∀ (d : Fin 4) (k : Fin 5),
      let u := (s.setCore d { s.power.cores[d] with ignored := s.power.cores[d].ignored ||| (1#5 <<< k.val) }).flag pwrErr 9
      (s.power.rails[coreRail d].state = .on → ∃ t, exec (.sensePointIgnored d k) s = .next t ∧ t = u.report 1 (0x1000 + d.val)) ∧
      (s.power.rails[coreRail d].state = .softStart → ∃ t, exec (.sensePointIgnored d k) s = .next t ∧ t = u)) ∧
    (x.state ≠ .on → x.state ≠ .softStart → x.state ≠ .hiccup → 4 ≤ r.val → ∃ t, exec (.railDischarged r) s = .next t ∧
      t = s.setRail r { x with charged := false }) ∧
    (∀ h : r.val < 4, x.state = .off → s.power.rails[5 + r.val].goingDown = true → r.val = 1 ∨ r.val = 2 →
      ∃ t, exec (.railDischarged r) s = .next t ∧ t.power.rails[r].charged = false ∧ t.power.rails[5 + r.val].state ∈ [.off, .latched, .crowbarred] ∧
        t.power.rails[5 + r.val].enabled = false) ∧
    (∀ (fn : Fn) (rails : BitVec 11), s.reaches fn = true → ∃ t, exec (.rearm (.host fn) rails) s = .next t ∧
      t.power.rails[r] = if r.val < 9 ∧ rails.getLsbD r = true ∧ x.state = .latched then { x with state := .off, attempts := 0 } else x) ∧
    (s.atConsole .s false → r.val < 10 → ∃ t, exec (.rearm .console (1#11 <<< r.val)) s = .next t ∧
      t.power.rails[r] = (if x.state = .latched then { x with state := .off, attempts := 0 } else x) ∧
      ∀ k : Fin 11, k ≠ r → t.power.rails[k] = s.power.rails[k])

/-- R329, R330, R337–R344, R346, R472: the bus converters stop outside their range and restart inside it, and one that faults opens for good; a rail sheds one
level at a time below its threshold and adds every working phase back for each cause; a phase that faults leaves service; the pins go down only after
the divider, op_done follows a slew but not a trim's, a stored value out of range is refused, and so is a divider faster than the point's. `test phase`
keeps a core rail at all its phases.
The model's choices, which no rule of the spec states: that a stored voltage below 500 mV is out of range too (log 133, DEDUCED), and that a phase that has
failed stays out of service until the next power-on (log 70, DEDUCED). -/
def Obligations.ConvertersPhasesAndOperatingPoints : Prop :=
  ∀ (s : State),
    let conv (stop : Option Bool) (fault : Vector Bool 4) : State := { s with power := { s.power with
      convStop := stop, convFault := fault
      convOn := fault.map (fun f => s.power.rails[9].enabled &&
        decide (s.power.rails[9].state = .softStart ∨ s.power.rails[9].state = .on) && !f && stop.isNone) } }
    (∀ mv, ∃ t, exec (.converterStop mv) s = .next t ∧
      t = if 59000 < mv then conv (some true) s.power.convFault else if mv < 36000 then conv (some false) s.power.convFault else s) ∧
    (∀ mv up, s.power.convStop = some up → ∃ t, exec (.converterRestart mv) s = .next t ∧
      t = if (up = true ∧ 36000 ≤ mv ∧ mv < 58000) ∨ (up = false ∧ 40000 < mv ∧ mv ≤ 59000) then conv none s.power.convFault else s) ∧
    (∀ (c : Fin 4) (hot : Bool), s.power.convOn[c] = true → ∃ t, exec (.converterFault c hot) s = .next t ∧
      t.power.convFault = s.power.convFault.set c true ∧ t.power.convOn[c] = false ∧ (t.reg .A pwrErr).getLsbD 3 = true ∧
      ((s.power.convFault.set c true).toList.countP (fun f => !f) < 2 → s.stage = .stage3 → t.stage = .quiescing ∧ t.budget.stopped = some .busLoss)) ∧
    (∀ r : Fin 11, let x := s.power.rails[r]
      (∀ amps, x.state = .on → x.shedTo = none → bit (s.mreg pwrShedCfg) 0 = true → ∃ t, exec (.phaseShed r amps) s = .next t ∧
        t = if x.shed < s.lowestLevel r ∧ amps < shedCurrent r x.shed ∧ s.phasesHeld r = false then s.setRail r { x with shedTo := some (x.shed + 1), current := amps } else s) ∧
      (∀ k, x.shedTo = some k → ∃ t, exec (.shedTransitionEnd r) s = .next t ∧ t = s.setRail r { x with shed := k, shedTo := none, leaving := 0 }) ∧
      (∀ why, x.state = .on → ∃ t, exec (.phaseAddBack r why) s = .next t ∧ t = s.setRail r { x with shed := 0, shedTo := none }) ∧
      (∀ (n : Fin 32) (why : PhaseCause), x.state = .on ∨ x.state = .softStart → x.working.getLsbD n = true → 9 ≤ r.val ∨ r = 4 →
        ∃ t, exec (.phaseFault r n why) s = .next t ∧ t.power.rails = s.power.rails.set r { x with
          working := x.working &&& ~~~(1#32 <<< n.val), leaving := x.leaving &&& ~~~(1#32 <<< n.val), failed := x.failed ||| (1#32 <<< n.val) } ∧ (t.reg .A pwrErr).getLsbD 4 = true)) ∧
    (∀ d : Fin 4, let c := s.power.cores[d]
      (∀ (n : Fin 32) (why : PhaseCause), s.power.rails[coreRail d].state = .on →
        s.power.rails[coreRail d].working.getLsbD n = true → s.phases d ≤ 12 → (∀ i : Fin 6, s.power.rails[coreRail d].working.getLsbD (26 + i.val) = false) →
        ∃ t, exec (.phaseFault (coreRail d) n why) s = .next t ∧ t.hwd.dieEn[d] = false ∧ t.hq.stopped = true) ∧
      (∀ op : Fin 8, c.forced = false → s.hwd.freeze = false →
        (s.clk.div[d] ≠ 0 → s.clk.div[d] < pointDiv op → op < c.pins → ∃ t, exec (.opPinChange d op) s = .next t ∧ t = s) ∧
        (pointDiv op ≤ s.clk.div[d] ∨ c.pins ≤ op ∨ s.clk.div[d] = 0 → ∃ t, exec (.opPinChange d op) s = .next t ∧ t.power.cores[d].pins = op ∧
          t.power.cores[d].asked = op ∧ (op ≠ c.pins → t.power.cores[d].slewing = decide (s.power.rails[coreRail d].state = .on)) ∧
          { t with power := s.power } = s)) ∧
      (c.slewing = true → ∃ t, exec (.opDone d) s = .next t ∧ t = s.setCore d (if c.trimSlew then { c with slewing := false, trimSlew := false }
        else { c with slewing := false, settled := c.pins, low := c.pins })) ∧
      (∀ (k : Fin 8) (mv : Nat), c.slewing = false ∨ c.trimSlew = true → ∃ t, exec (.storedValueWrite d k mv) s = .next t ∧
        (mv < 500 ∨ 850 < mv → t = s.flag pwrErr 8) ∧
        (500 ≤ mv → mv ≤ 850 → { t with power := s.power } = s ∧ t.power.cores[d].vop = c.vop.set k mv ∧ t.power.cores[d].pins = c.pins ∧
          (k ≠ c.pins → t.power.cores[d].slewing = c.slewing))) ∧
      (∀ n : Fin 32, s.clk.pll[d] = true → n.val ∈ [20, 16, 14, 12, 10, 9, 8, 7] → ∃ t, exec (.dividerChange d n) s = .next t ∧
        t = if n.val < pointDiv (min c.settled (min c.low c.pins)).val then s.flag clkErr 5
          else { s with clk := { s.clk with div := s.clk.div.set d n.val } }))

/-- R364, R366–R368, R370–R374, R376, R378, R379, R421, R423: a mode command waits for the sample instant where Table: Slot modes lists it for the
present mode, and is refused otherwise; at its sample a slot with a bad input faults, a late one keeps its output, an OFF one issues its safe value, a
MANUAL one its manual values, slot 0's routed between store and ballast with its current over the bus voltage; tuning values change only in OFF, MANUAL
or an idle set; and a parity error stops every slot and isolates the store.
R374, R382: a capture whose parameters are listed is armed, and one whose trigger is a command starts by it, with the samples that it holds from before; a
capture or a route that is not listed is ignored and flagged.
The model's choices, which no rule of the spec states: that a slot in FAULT drops its commands and has its safe value as manual value (log 201, DESIGN
CHOICE), that arming a capture a second time is the command that starts it, and at once where nothing from before is kept (log 210, DESIGN CHOICE), that a
converter reads whole resolution steps (log 200, DESIGN CHOICE), and what keeps the store converter from following (log 193, DEDUCED). -/
def Obligations.LoopEngineRunsItsSlots : Prop :=
  ∀ (s : State), s.svc.test = none →
    (∀ n : Fin 4, let x := s.le.slots[n]
      let wait (m : SlotMode) : State := s.setSlot n { x with commands := x.commands ++ [m] }
      (s.le.ok = true → ∃ t, exec (.slotOff n) s = .next t ∧ t = wait .off) ∧
      (s.le.ok = true → x.mode ∈ [.off, .auto, .scheduled, .fault] → ∃ t, exec (.slotManual n) s = .next t ∧ t = wait .manual) ∧
      (s.le.ok = true → x.mode = .manual → ∃ t, exec (.slotAuto n) s = .next t ∧ t = wait .auto) ∧
      (s.le.ok = true → x.mode ∈ [.manual, .auto] → s.le.phase ≠ .service → ∃ t, exec (.slotScheduled n) s = .next t ∧ t = wait .scheduled) ∧
      (s.le.ok = false → ∃ t, exec (.slotOff n) s = .next t ∧ t = s.flag leErr 5) ∧
      (s.le.ok = false ∨ x.mode ∈ [.manual, .track] → ∃ t, exec (.slotManual n) s = .next t ∧ t = s.flag leErr 5) ∧
      (s.le.ok = false ∨ x.mode ≠ .manual → ∃ t, exec (.slotAuto n) s = .next t ∧ t = s.flag leErr 5) ∧
      (s.le.ok = false ∨ x.mode ∉ [.manual, .auto] ∨ s.le.phase = .service → ∃ t, exec (.slotScheduled n) s = .next t ∧ t = s.flag leErr 5) ∧
      (∀ i : EngineInputs, s.le.ok = false → ∃ t, exec (.slotSample n i) s = .next t ∧ t = s) ∧
      (s.le.ok = true → ∀ i : EngineInputs, let v : ℚ := (i.get 0 : ℚ) / 1000
        let free : Prop := ∀ d, s.sap.drain = some d → d.returning = false
        (∀ c ∈ channelsOf n s.power.convOn, i.bad.getLsbD c = true → ∃ t, exec (.slotSample n i) s = .next t ∧ t.le.slots[n].mode = .fault ∧
          t.le.slots[n].commands = [] ∧ (n = 0 → free → t.le.command = 0 ∧ t.le.ballast = 0) ∧
          ∀ k : Fin 4, t.le.slots[n].laws[k].out = safeValue n x.laws[k].out) ∧
        ((∀ c ∈ channelsOf n s.power.convOn, i.bad.getLsbD c = false ∧ i.atEnd c = false) → x.commands = [] → x.commit = [] → x.thenAuto = false →
          (i.late = true → ∃ t, exec (.slotSample n i) s = .next t ∧ t.le.slots[n].laws = x.laws ∧ t.le.command = s.le.command ∧
            (t.reg .A leErr).getLsbD 7 = true) ∧
          (i.late = false → x.mode = .off → ∃ t, exec (.slotSample n i) s = .next t ∧ t.le.slots[n].mode = .off ∧
            (∀ k : Fin 4, t.le.slots[n].laws[k].out = safeValue n x.laws[k].out) ∧
            (n = 0 → free → t.le.command = 0 ∧ t.le.ballast = 0 ∧ (v ≠ 0 → t.le.iCmd = 0))) ∧
          (i.late = false → x.mode = .manual → x.fromDraw = false → ∃ t, exec (.slotSample n i) s = .next t ∧
            ((t.le.slots[n].mode = .fault ∧ (n = 0 → free → t.le.command = 0 ∧ t.le.ballast = 0)) ∨ (t.le.slots[n].mode = .manual ∧
              (∀ k : Fin 4, (n ≠ 3 → k = 0) → (n = 3 → s.power.convOn[k] = true) → t.le.slots[n].laws[k].out = x.manual[k]) ∧
              let u := x.manual[0].value
              let a : ℚ := s.le.absorb
              let gives (cmd bal : ℚ) : Prop := t.le.command = cmd ∧ t.le.ballast = bal ∧ (v ≠ 0 → t.le.iCmd = cmd / v)
              (n = 0 → s.sap.drain = none → s.le.route = 0 → gives (if s.noStore then 0 else u) 0) ∧
              (n = 0 → s.sap.drain = none → s.le.route = 1 → gives 0 (maxQ 0 (-u))) ∧
              (n = 0 → s.sap.drain = none → s.le.route = 2 → gives (maxQ u (-a)) (maxQ 0 (-u - a)))))) ∧
          (n = 0 → i.late = false → ∀ d, s.sap.drain = some d → ∃ t, exec (.slotSample n i) s = .next t ∧ ∃ e, t.sap.drain = some e ∧
            e.returning = d.returning ∧ t.le.command = if d.returning then e.watts else 0))) ∧
      (∀ (k : Fin 4) (v : Tuning), let can : Prop := x.mode ∈ [.off, .manual] ∨ (s.le.phase ≠ .service ∧ x.mode = .scheduled ∧ k ≠ x.region ∧ k ≠ 0)
        (can → v.cycles ≤ cycleBound n → ∃ t, exec (.tuningCommit n k v) s = .next t ∧ t = s.setSlot n { x with commit := x.commit ++ [(k, v)] }) ∧
        (can → cycleBound n < v.cycles → ∃ t, exec (.tuningCommit n k v) s = .next t ∧ t = s.flag leErr 5) ∧
        (¬ can → ∃ t, exec (.tuningCommit n k v) s = .next t ∧
          t = (s.flag leErr 5).record 0x34 .warning false n.val [BitVec.ofNat 8 (modeCode x.mode)])) ∧
      (∀ v : OperatingValues, ∃ t, exec (.operatingValueWrite n v) s = .next t ∧ t.le.slots[n].values = v ∧ t.le.absorb = v.absorb ∧
        (∀ m : Fin 4, m ≠ n → { t.le.slots[m] with values := s.le.slots[m].values } = s.le.slots[m]) ∧ { t with le := s.le } = s) ∧
      (∀ j, s.le.injection = some j → ∃ t, exec (.injectionEnd n) s = .next t ∧
        t = if j.what.slot = n then { s with le := { s.le with injection := none } } else s)) ∧
    (∀ ph, ph ≠ .service → ∃ t, exec (.phaseSet ph) s = .next t ∧ t = { s with le := { s.le with phase := ph } }) ∧
    (∃ t, exec (.phaseSet .service) s = .next t ∧ t.le.phase = .service ∧ t.le.injection = none ∧ ∀ n : Fin 4, t.le.slots[n].mode ≠ .scheduled ∧
      (s.le.slots[n].mode = .scheduled → t.le.slots[n].mode = .auto)) ∧
    (∀ j : Injection, let x := s.le.slots[j.slot]
      (injListed x.values j = false → ∃ t, exec (.injectionStart j) s = .next t ∧ t = s.flag leErr 4) ∧
      (injListed x.values j = true → s.le.phase = .service ∨ x.mode ∉ [.auto, .scheduled] ∨ s.le.injection ≠ none →
        ∃ t, exec (.injectionStart j) s = .next t ∧ t = s.flag leErr 5) ∧
      (injListed x.values j = true → s.le.phase ≠ .service → x.mode ∈ [.auto, .scheduled] → s.le.injection = none →
        ∃ t, exec (.injectionStart j) s = .next t ∧ t.le.injection = some (InjRun.start j) ∧ { t with le := s.le } = s)) ∧
    (∀ c : CaptureSetup, 1 ≤ c.every → c.every ≤ 256 → c.pre ≤ 4095 → c.signals.length ≤ 4 →
      let old := s.le.capture
      (old.state ≠ 1 ∨ old.setup ≠ some c → ∃ t, exec (.captureArm c) s = .next t ∧
        t = { s with le := { s.le with capture := if c.trigger = .command ∧ c.pre = 0
          then { state := 2, setup := some c, skip := 0, samples := [], left := 4096 }
          else { state := 1, setup := some c, skip := 0, samples := [], left := 0 } } }) ∧
      (old.state = 1 → old.setup = some c → ∃ t, exec (.captureArm c) s = .next t ∧
        t = { s with le := { s.le with capture := if c.trigger = .command
          then { old with state := 2, left := 4096 - min c.pre old.samples.length } else old } })) ∧
    (∀ c : CaptureSetup, c.every = 0 ∨ 256 < c.every ∨ 4095 < c.pre ∨ 4 < c.signals.length → ∃ t, exec (.captureArm c) s = .next t ∧ t = s.flag leErr 4) ∧
    (∃ t, exec .converterCommandTimeout s = .next t ∧
      t = { s with le := { s.le with convStopped := true }, sap := { s.sap with following := false } }) ∧
    (s.le.ok = true → ∃ t, exec .engineParityError s = .next t ∧ t.le.ok = false ∧ t.le.command = 0 ∧ t.le.convStopped = true ∧
      (t.reg .A leErr).getLsbD 8 = true ∧ t.hwd.swA = false ∧ t.hwd.swB = false ∧
      ∀ n k : Fin 4, t.le.slots[n].laws[k].out = safeValue n s.le.slots[n].laws[k].out) ∧
    (∀ forced, ∃ t, exec (.smoothingModeChange forced 3) s = .next t ∧ t = s.flag leErr 4) ∧
    (∀ (forced : Bool) (route : BitVec 2), route ≠ 3 → ∃ t, exec (.smoothingModeChange forced route) s = .next t ∧
      t = if s.budget.hold = false ∧ route = s.budget.smooth ∧ (forced = true ∨ absQ s.le.slots[0].laws[0].out.value ≤ 100)
        then { s with le := { s.le with route := s.budget.smooth } } else s)

/-- R384–R386, R389, R400, R401, R403: the store connects by precharge, SW_A and SW_B in that order and only while nothing forbids it; isolation opens both
switches and ends what was connecting; a drain bleeds with the switches open, and at its end the store is DRAINED, or LOCKED_OUT where it came from there;
a sleeping monitor stops its work and isolates the store; below 192 F the store has reached the end of its life.
The model's choices, which no rule of the spec states: that C_stack is rounded to the nearest hundredth of a farad (log 129, DEDUCED), that the end of life
is reported once (log 142, DEDUCED), and that the end of a bleed leaves the indicator dark (log 203, DEDUCED). -/
def Obligations.StoreConnectsIsolatesAndDrains : Prop :=
  ∀ (s : State),
    let open_ (t : State) : Prop := t.hwd.swA = false ∧ t.hwd.swB = false ∧ t.hwd.precharge = false ∧ t.sap.following = false ∧
      t.sap.state ∉ [.precharge, .connected] ∧ (s.sap.state ∈ [.precharge, .connected] → t.sap.state = .isolated)
    (s.crown.running = true → s.mayConnect = true → s.sap.state ∈ [.isolated, .drained] → ∃ t, exec .storeConnectRequest s = .next t ∧
      t.sap = { s.sap with state := .precharge } ∧ t.hwd = { s.hwd with precharge := true } ∧ t.power.rails[10].state = .softStart ∧
      t.power.rails[10].attempts = 1 ∧ { t with sap := s.sap, hwd := s.hwd, power := s.power } = s) ∧
    (s.crown.running = false ∨ s.mayConnect = false ∨ s.sap.state ∉ [.isolated, .drained] → ∃ t, exec .storeConnectRequest s = .next t ∧ t = s) ∧
    (s.sap.state = .precharge → s.power.rails[10].state = .softStart → s.mayEnable = true → ∃ t, exec .prechargeComplete s = .next t ∧
      t.hwd = { s.hwd with swA := true } ∧ t.sap = { s.sap with swAClosing := true } ∧ t.power.rails[10].state = .on) ∧
    (s.sap.state = .precharge → s.sap.swAClosing = true → s.mayEnable = true → ∃ t, exec .swBClose s = .next t ∧
      t.sap = { s.sap with state := .connected, swAClosing := false } ∧
      t.hwd = { s.hwd with swB := true, precharge := false } ∧ t.power.rails[10].enabled = false) ∧
    (s.crown.running = true → ∃ t, exec .storeIsolateRequest s = .next t ∧ open_ t) ∧
    (s.sap.state ∉ [.draining, .drained] → ∃ t, exec .drainButton s = .next t ∧ t.sap.state = .draining ∧ t.sap.bleed = true ∧
      t.hwd.swA = false ∧ t.hwd.swB = false ∧ t.sap.drain = some { fromLocked := decide (s.sap.state = .lockedOut), lockArose := false, returning := false, watts := 0, slope := 0 }) ∧
    (s.sap.state ∈ [.draining, .drained] → ∃ t, exec .drainButton s = .next t ∧ t = s) ∧
    (∀ d, s.sap.drain = some d → d.returning = true → ∃ t, exec .drainReturnEnd s = .next t ∧ t.sap.bleed = true ∧ t.hwd.swA = false ∧
      t.hwd.swB = false ∧ t.sap.drain = some { d with returning := false }) ∧
    (s.sap.bleed = true → ∀ d, s.sap.drain = some d → s.sap.state = .draining → ∃ t, exec .bleedEnd s = .next t ∧
      t = { s with sap := { s.sap with
        bleed := false, drained := true, drain := none, lit := false, state := if d.fromLocked || d.lockArose then .lockedOut else .drained } }) ∧
    (s.sap.awake = true → s.crown.running = true → ∃ t, exec .monitorMessage s = .next t ∧ t.sap = { s.sap with slept := false } ∧
      (s.sap.slept = true → (t.reg .A sapErr).getLsbD 6 = true) ∧ (s.sap.slept = false → t = s)) ∧
    (s.sap.awake = true ∨ s.sap.waking = true → s.svc.test = none → ∃ t, exec .monitorSleep s = .next t ∧ open_ t ∧ t.sap.awake = false ∧
      t.sap.waking = false ∧ t.sap.slept = true ∧ t.sap.shuttle = 0 ∧ t.sap.bleed = (s.sap.bleed || s.sap.drain.isSome) ∧
      ∀ k : Fin 14, t.sap.cells[k].eligible = false) ∧
    (s.sap.awake = false → s.sap.waking = false → s.stage ∉ [.unpowered, .stage0] → ∃ t, exec .monitorWakeMessage s = .next t ∧
      t.sap = { s.sap with slept := false, waking := true, check := false, checkNext := false, scans := 0 }) ∧
    (∀ caps : List Nat, s.crown.running = true → caps.length = 14 → 0 ∉ caps → ∃ t, exec (.capacitanceEstimate caps) s = .next t ∧
      (∀ k : Fin 14, t.sap.cells[k].cap = caps[k.val]?.getD 0) ∧ t.sap.cMin ∈ caps ∧ (∀ c ∈ caps, t.sap.cMin ≤ c) ∧
      caps[t.sap.weakest - 1]? = some t.sap.cMin ∧ (∀ n : Fin 4, t.le.slots[n].values.cStack = stackCap t.sap.cells) ∧
      t.sap.endOfLife = (s.sap.endOfLife || decide (t.sap.cMin < 1920)))

/-- R388, R390–R399: a scan's readings enter the registers and its permissions block charging at 3.8 V on a cell and discharging at 2.5 V; a slot connects the
farthest eligible cell of its parity; a suspect scan holds its cells and calls a check scan, which finds an open tap by a step of more than 200 mV and
pairs its cells, or a cell that still reads outside its limits and locks the store out, or nothing and frees the cells; a switch test marks each failed pair. A
check scan has no balancing slots.
The model's choices, which no rule of the spec states: the parity of the first scan's slots (log 60, DESIGN CHOICE), that a lockout is reached from every
state of the store (log 139, DEDUCED), and by which sum checks a check scan classifies (log 140, DEDUCED). -/
def Obligations.StoreScansClassifyAndBalance : Prop :=
  ∀ (s : State),
    (s.sap.awake = true ∨ s.sap.waking = true → ∃ t, exec .scanStart s = .next t ∧ { t with sap := s.sap } = s ∧ t.sap.shuttle = 0 ∧
      t.sap.converting = true ∧ t.sap.slotsDone = 0 ∧ t.sap.oddFirst = !s.sap.oddFirst ∧ t.sap.cells = s.sap.cells ∧ t.sap.checkNext = (s.sap.checkNext && !t.sap.check) ∧
      t.sap.check = (s.sap.checkNext || (decide (10 * bits (s.mreg sapCfg) 15 8 ≤ s.sap.scans + 1) && !s.sap.waking))) ∧
    (∀ rd : CellReadings, s.sap.awake = true → rd.cells.length = 14 → s.sap.openTap = 0 → (∀ k : Fin 14, s.sap.cells[k].inPair = false) →
      (rd.cells.sum : Int) - rd.stack ≤ 150 → (rd.stack : Int) - rd.cells.sum ≤ 150 → ∃ t, exec (.conversionWindowClose rd) s = .next t ∧
        (∀ k : Fin 14, t.sap.cells[k].mv = rd.cells[k.val]?.getD 0 ∧ t.sap.cells[k].valid = true ∧
          (rd.cells[k.val]?.getD 0 < 2200 ∨ 4000 < rd.cells[k.val]?.getD 0 → t.sap.cells[k].held = true ∧ t.sap.suspect = true ∧
            t.sap.cells[k].eligible = false) ∧
          (t.sap.cells[k].eligible = true → s.mayBalance k = true)) ∧
        t.sap.stackMv = rd.stack ∧ t.sap.lit = decide (33000 < rd.stack) ∧ t.sap.converting = false ∧ t.sap.sumOk = true ∧ t.sap.sumFails = 0 ∧ t.sap.baseline = rd.cells ∧
        (t.sap.chargeBlocked = true ↔ (∃ v ∈ rd.cells, 3800 ≤ v) ∨ s.sap.ceilingMv ≤ rd.stack ∨ t.sap.suspect = true) ∧
        (t.sap.dischargeBlocked = true ↔ (∃ v ∈ rd.cells, v ≤ 2500) ∨ rd.stack ≤ 35000)) ∧
    (∀ rd : CellReadings, s.sap.awake = true → rd.cells.length = 14 → 150 < ((rd.cells.sum : Int) - rd.stack).natAbs → 2 ≤ s.sap.sumFails →
      s.sap.lockout = none → s.sap.state ≠ .draining → ∃ t, exec (.conversionWindowClose rd) s = .next t ∧ t.sap.state = .lockedOut ∧
        t.sap.lockout = some .measurement ∧ (t.reg .A sapErr).getLsbD 3 = true) ∧
    (∀ odd, s.sap.converting = true → ∃ t, exec (.balancingSlot odd) s = .next t ∧ t = s) ∧
    (∀ odd, s.sap.awake = true → s.sap.check = false → s.sap.converting = false → s.sap.slotsDone < 7 →
      (odd = (s.sap.oddFirst == (s.sap.slotsDone % 2 == 0)) → ∃ t, exec (.balancingSlot odd) s = .next t ∧
        t = { s with sap := { s.sap with slotsDone := s.sap.slotsDone + 1, shuttle := t.sap.shuttle } } ∧
        (t.sap.shuttle = 0 → ∀ k : Fin 14, decide (k.val % 2 = 0) = odd → s.sap.cells[k].eligible = false ∨ s.mayBalance k = false) ∧
        (∀ k : Fin 14, t.sap.shuttle = k.val + 1 → decide (k.val % 2 = 0) = odd ∧ s.sap.cells[k].eligible = true ∧ s.mayBalance k = true ∧
          ∀ j : Fin 14, decide (j.val % 2 = 0) = odd → s.sap.cells[j].eligible = true → s.mayBalance j = true →
            (s.sap.deviation s.sap.baseline j).natAbs ≤ (s.sap.deviation s.sap.baseline k).natAbs)) ∧
      (odd ≠ (s.sap.oddFirst == (s.sap.slotsDone % 2 == 0)) → ∃ t, exec (.balancingSlot odd) s = .next t ∧ t = s)) ∧
    (∀ (rd : CellReadings) (out : Bool), s.sap.awake = true → s.sap.waking = false → s.sap.check = true → s.sap.converting = false → s.sap.fresh = false → s.svc.test = none →
      rd.cells.length = 14 → s.sap.baseline.length = 14 →
      let taps := openTaps s.sap.baseline rd.cells
      let ok : Prop := s.sap.sumOk = true ∧ (s.sap.sumWas = true ∨ s.sap.recheck = true)
      (¬ ok → ∃ t, exec (.checkScanWindow rd out) s = .next t ∧
        t = { s with sap := { s.sap with check := false, slotsDone := 7, recheck := true, suspect := true, chargeBlocked := true, checkNext := true } }) ∧
      (ok → taps = [] → (∀ k : Fin 14, s.sap.outside s.sap.baseline k = false) →
        ∃ t, exec (.checkScanWindow rd out) s = .next t ∧ t.sap.check = false ∧ t.sap.recheck = false ∧ t.sap.suspect = false ∧ t.sap.state = s.sap.state ∧
          ∀ k : Fin 14, t.sap.cells[k] = { s.sap.cells[k] with held := false }) ∧
      (ok → ∀ k, taps = [k] → s.sap.openTap = 0 → k ∉ s.sap.tapsFound → s.sap.state = .isolated → ∃ t, exec (.checkScanWindow rd out) s = .next t ∧
        t.sap.openTap = k ∧ t.sap.ceilingMv = 52900 ∧ (t.reg .A sapErr).getLsbD 1 = true ∧ t.sap.state = .isolated ∧
        ∀ j : Fin 14, j.val + 1 = k ∨ j.val = k → t.sap.cells[j].inPair = true ∧ t.sap.cells[j].dis = true) ∧
      (ok → taps = [] → (∃ k : Fin 14, s.sap.outside s.sap.baseline k = true) → s.sap.lockout = none → s.sap.state ≠ .draining →
        ∃ t, exec (.checkScanWindow rd out) s = .next t ∧ t.sap.state = .lockedOut ∧ t.sap.lockout = some .cellFault ∧
          (t.reg .A sapErr).getLsbD 2 = true ∧ t.hwd.swA = false ∧ t.hwd.swB = false)) ∧
    (∀ res : List SwitchTest, s.sap.awake = true → s.svc.test = none → res.length = 14 →
      (s.sap.check = true ∨ s.sap.suspect = true → ∃ t, exec (.balancingSwitchTest res) s = .next t ∧ t = { s with sap := { s.sap with testDue := true } }) ∧
      (s.sap.check = false → s.sap.suspect = false → ∃ t, exec (.balancingSwitchTest res) s = .next t ∧ t.sap.testDue = false ∧
        ∀ (k : Fin 14) (r : SwitchTest), res[k.val]? = some r →
          (5000 < r.tapUa → t.sap.stackStop = true ∧ t.sap.cells[k].swFail = true) ∧
          (r.tapUa ≤ 5000 → 400 ≤ r.shuttleMa → r.shuttleMa ≤ 600 → r.deltaMv < 20 → t.sap.cells[k] = s.sap.cells[k]) ∧
          (r.tapUa ≤ 5000 → r.shuttleMa < 400 ∨ 600 < r.shuttleMa ∨ 20 ≤ r.deltaMv → t.sap.cells[k].swFail = true ∧ t.sap.cells[k].dis = true)))

/-- R408–R415, R418, R419, R422–R424, R426, R586: an evaluation leaves every running die at or below its preference, its top point and the ceilings, and
grants no more; an idle die goes to OP0; a trim moves the eight stored values of a die by the change of its trim, within 30 mV, and withdraws a point;
an expired share falls to the fallback fraction; a cap that waited applies; an expired match goes; absorb limit and ballast follow the store and c_peak.
The model's choices, which no rule of the spec states: which limits the search for a point tries (log 134, DEDUCED), when a point is withdrawn for ageing
(log 143, DEDUCED), which events an evaluation answers at once (log 195, DEDUCED), and the cuts to whole watts (log 129, DEDUCED). -/
def Obligations.BudgetEvaluatesTrimsAndExpires : Prop :=
  ∀ (s : State),
    let run (d : Fin 4) : Prop := s.hwd.dieEn[d] = true ∧ s.power.cores[d].forced = false
    (∀ m : PowerMeasure, s.crown.running = true → ∃ t, exec (.opEvaluation m) s = .next t ∧
      t.budget.demPeak = m.demPeak ∧ t.budget.demMean = m.demMean ∧ (∀ d : Fin 4, t.budget.pdie[d] = (m.pdie[d.val]?).getD 0) ∧
      (s.stage = .stage3 → ∀ d : Fin 4, t.budget.granted[d] = min (t.preference d) (t.pointOf d) ∧ (run d → t.pointOf d ≤ t.preference d ∧
        t.pointOf d ≤ t.budget.top[d] ∧ t.pointOf d ≤ t.capPoint d ∧
        (t.budget.deferred = none → t.budget.hold = false ∨ t.budget.coolantLoss = true → t.pointOf d ≤ t.budget.tceil[d])))) ∧
    (∀ d : Fin 4, s.hq.launches.any (fun l => l.onDie d) = false → ∃ t, exec (.idleDieTimeout d) s = .next t ∧ t.budget.lingering[d] = false ∧
      (s.stage = .stage3 → s.crown.running = true → run d → s.prefs d = [] → t.pointOf d = 0)) ∧
    (∀ (d : Fin 4) (region : Fin 5) (m : Int), ∃ t, exec (.ageingMarginReport d region m) s = .next t ∧ t = { s with budget := { s.budget with
      margin := s.budget.margin.set d (some (match s.budget.margin[d] with | some k => min k m | none => m)) } }) ∧
    (∀ (d : Fin 4) (m : Int), s.crown.running = true → s.power.cores[d].slewing = false ∨ s.power.cores[d].trimSlew = true →
      s.budget.margin[d] = some m → ∃ t, exec (.ageingTrim d) s = .next t ∧
        (let above := if 80 < m then s.budget.above8[d] + 1 else 0
         let step : Int := if m < 20 then 10 else if m ≤ 40 then 5 else if 7 ≤ above then -5 else 0
         let old := s.budget.trim[d]
         let new : Int := max (-30) (min 30 (old + step))
         t.budget.trim[d] = new ∧ t.budget.above8[d] = above ∧ t.budget.margin[d] = none ∧
         t.budget.top[d] = (if 30 ≤ old ∧ s.budget.top[d] = 7 ∧ m < 40 then 6 else if 30 ≤ old ∧ s.budget.top[d] = 6 ∧ m < 20 then 5 else s.budget.top[d]) ∧
         (new = old → t.power.cores[d].vop = s.power.cores[d].vop) ∧
         (new ≠ old → ∀ k : Fin 8, let v := min 850 ((s.power.cores[d].vop[k] : Int) + (new - old)).toNat
           t.power.cores[d].vop[k] = if 500 ≤ v then v else s.power.cores[d].vop[k]) ∧
         ∀ e : Fin 4, e ≠ d → t.power.cores[e].vop = s.power.cores[e].vop)) ∧
    (s.crown.running = true → s.budget.source ≠ 0 → s.budget.source ≠ 4 → s.budget.source = 1 ∨ (s.budget.lost[0] && s.budget.lost[1]) = true →
      ∃ t, exec .shareExpiry s = .next t ∧ t.budget.source = 4 ∧ t.budget.share = s.budget.share * (bits (s.mreg pwrBudgetCfg) 11 9 + 1) / 8 ∧
        t.budget.smooth = bits (s.mreg pwrBudgetCfg) 5 4 ∧ ∀ n : Fin 4, t.le.slots[n].values.share = t.budget.share) ∧
    (∀ b : Fn, ∃ t, exec (.zejorManagerLoss b) s = .next t ∧ t = { s with budget := { s.budget with lost := s.budget.lost.set (fnIdx b) true } }) ∧
    (∀ caps cause, s.budget.deferred = some (caps, cause) → ∃ t, exec .capDeferralTimeout s = .next t ∧ t.budget.caps = caps ∧ t.budget.deferred = none ∧
      ∀ (d : Fin 4) (p : Fin 8), caps[d] = some p → s.power.cores[d].forced = false → t.pointOf d ≤ p) ∧
    (s.budget.deferred = none → ∃ t, exec .capDeferralTimeout s = .next t ∧ t = s) ∧
    (∀ (i : Nat) (m : Match), s.budget.matches_[i]? = some m → m.until_.isSome = true → ∃ t, exec (.matchExpiry i) s = .next t ∧
      t.budget.matches_ = s.budget.matches_.eraseIdx i) ∧
    (s.le.route = 2 → s.crown.running = true → ∃ t, exec .absorbLimitUpdate s = .next t ∧
      (let w : Nat := if s.noStore then 0 else 3 * min 1000 (s.sap.usableJ - s.sap.presentJ)
       t.le.absorb = w ∧ (∀ n : Fin 4, t.le.slots[n].values.absorb = w) ∧ { t with le := s.le } = s)) ∧
    (s.crown.running = true → ∃ t, exec .ballastUpdate s = .next t ∧ { t with budget := { t.budget with duty := s.budget.duty } } = s ∧
      ∀ d : Fin 4, t.budget.duty[d] ≤ 1000 ∧ (s.mayBallast d = false → t.budget.duty[d] = 0) ∧
        (0 < s.fullBallast d → s.fullBallast d * t.budget.duty[d] / 1000 ≤ max 0 s.le.ballast))

/-- R127, R408, R425, R428–R434, R474, R478: Crown's thermal loop lowers a die's ceiling by one point for each run at an entry, drops every ceiling and
stops ballast when the coolant is lost, and stops the module at a shutdown temperature, as a stack that stays in the stop band does; a hold ends in the
quiesce or in recovery with the share that waited; the quiesce forces what is left, flushes the ports, and ends with the dies down and the store isolated,
or in a new entry for a restart.
The model's choices, which no rule of the spec states: the inputs of a die's thermal loop (log 144, DEDUCED), the records of a restart's quiesce (log 99,
DEDUCED), when the leases go (log 89, DEDUCED), that VDRAM goes down in a restart's quiesce (log 146, DEDUCED), and that a lost die lets a quiesce go on
(log 138, DEDUCED). -/
def Obligations.ThermalLoopHoldAndQuiesce : Prop :=
  ∀ (s : State),
    (∀ m : ThermalMeasure, s.crown.running = true →
      let lost : Prop := 352 < m.outlet - m.inlet ∨ risingOutlet (((m.outlet, s.budget.demMean) :: s.budget.outlets).take 21) = true
      let stop : Prop := (∃ x ∈ m.die, (1680 : Int) ≤ x) ∨ 960 ≤ m.outlet
      ∃ t, exec (.thermalLoop m) s = .next t ∧ t.budget.inlet = m.inlet ∧ t.budget.outlet = m.outlet ∧
        (s.budget.coolantLoss = false → lost → t.budget.coolantLoss = true ∧ ∀ d : Fin 4, t.budget.tceil[d] = 0 ∧ t.budget.duty[d] = 0) ∧
        (s.budget.coolantLoss = false → ¬ lost → ∀ d : Fin 4,
          (s.throttle m d = true → t.budget.throttled[d] = true ∧ t.budget.tceil[d].val = s.budget.tceil[d].val - 1) ∧
          (s.throttle m d = false → s.cooler m d 48 = false → t.budget.throttled[d] = false ∧ t.budget.tceil[d] = s.budget.tceil[d] ∧ t.budget.coldRuns[d] = 0) ∧
          (s.throttle m d = false → s.cooler m d 48 = true → (s.budget.coldRuns[d] < 10 → t.budget.tceil[d] = s.budget.tceil[d] ∧
              t.budget.coldRuns[d] = s.budget.coldRuns[d] + 1) ∧
            (10 ≤ s.budget.coldRuns[d] → t.budget.tceil[d].val = min 7 (s.budget.tceil[d].val + 1)))) ∧
        (stop → s.stage = .stage3 → t.stage = .quiescing ∧ t.budget.stopped = some .thermal ∧ t.hq.stopped = true) ∧
        (stop → s.stage = .entry → t.stage = .quiesced ∧ t.budget.stopped = some .thermal ∧ ∀ d : Fin 4, t.hwd.dieEn[d] = false) ∧
        (stop → s.stage ∈ [.quiescing, .quiesced] → t.stage = s.stage ∧ t.budget.stopped = some .thermal) ∧
        (¬ stop → t.stage = s.stage)) ∧
    (∀ st : Fin 20, (s.mem.band[st] = 4 → s.crown.running = true → s.stage = .stage3 → ∃ t, exec (.stopBandTimeout st) s = .next t ∧
        t.stage = .quiescing ∧ t.budget.stopped = some .thermal ∧ t.budget.hot = true) ∧
      (s.mem.band[st] ≠ 4 → ∃ t, exec (.stopBandTimeout st) s = .next t ∧ t = s)) ∧
    (s.budget.hold = true → s.stage = .stage3 → ∃ t, exec .holdEnd s = .next t ∧ t.stage = .quiescing ∧ t.budget.quiesce = some .draining ∧
      t.budget.stopped = some .busLoss ∧ t.hq.stopped = true) ∧
    (s.budget.hold = false → ∃ t, exec .holdEnd s = .next t ∧ t = s) ∧
    (s.budget.hold = true → s.stage = .stage3 → s.hwd.inputClosed = true → s.crown.running = true → ∃ t, exec .holdRecovery s = .next t ∧
      t.budget.hold = false ∧ t.hwd.holdReq = false ∧ t.le.phase = .recovery ∧
      (s.budget.waiting = none → t.budget.share = s.budget.share) ∧
      ∀ w k src, s.budget.waiting = some (w, k, src) → t.budget.share = w ∧ t.budget.smooth = k ∧ t.budget.source = src ∧ t.budget.waiting = none) ∧
    (s.le.phase = .recovery → s.stage = .stage3 → ∃ t, exec .recoveryPhaseEnd s = .next t ∧ t.le.phase = .service ∧ t.le.injection = none ∧
      { t with le := s.le } = s) ∧
    (s.stage = .quiescing → s.budget.quiesce = some .draining → ∃ t, exec .quiesceFetchDeadline s = .next t ∧ t.stage = .quiescing ∧
      t.budget.quiesce = some .flushing ∧ (∀ h ∈ t.fleet.holders, h.id = 0) ∧ ∀ p : Fin 20, s.ports[p].state = .active → t.ports[p].state = .flush ∧
        t.ports[p].flush = some { reason := 3, sent := none }) ∧
    (s.stage = .quiescing → s.budget.quiesce = some .flushing → ∃ t, exec .quiescePowerDown s = .next t ∧ (∀ d : Fin 4, t.hwd.dieEn[d] = false) ∧
      (∀ p : Fin 20, t.ports[p].state = .disabled) ∧ t.budget.quiesce = none ∧ t.budget.hold = false ∧
      (s.start.restarting = false → t.stage = .quiesced ∧ t.hwd.swA = false ∧ t.hwd.swB = false ∧ t.sap.state ≠ .connected) ∧
      (s.start.restarting = true → (∀ d : Fin 4, s.hwd.dieOff[d] = false) → t.stage = .entry ∧ t.mem.dram = [] ∧
        ∀ q : Fin 64, t.queues[q].state = .disabled))

/-- R350, R353, R442, R444, R446, R447, R454, R456: every trip of Heartwood is counted and kept with its code and its part, and has its outcome: LIMIT
holds the die's pins at OP0 and its divider at /20, DIE_OFF takes the die out of service for good, ISOLATE opens the store switches, RAIL_OFF removes a
rail and those that depend on it, and SAFE drops every enable and stops the module; undervoltage trips act only on an armed rail.
The model's choices, which no rule of the spec states: the index of a trip that names no die or rail and the numbers of the start-failure rows (log 137,
DEDUCED), the stage that reads 0b111 under SAFE (log 79, DEDUCED), which SAFE stays the stop of record (log 206, DEDUCED), and that DIE_OFF fails a start
(log 138, DEDUCED). -/
def Obligations.TripsAreRecordedWithTheirOutcomes : Prop :=
  ∀ (s : State), s.hwdOn = true →
    let tripped (t : State) (code index : Nat) : Prop := t.hwd.lastCode = code ∧ t.hwd.lastIndex = index ∧ t.hwd.trips = min 65535 (s.hwd.trips + 1)
    let limited (t : State) (d : Fin 4) (code : Nat) : Prop := t.power.cores[d].forced = true ∧ t.power.cores[d].pins = 0 ∧ code ∈ t.hwd.limit[d] ∧
      (s.clk.pll[d] = true → t.clk.div[d] = 20)
    let off (t : State) (d : Fin 4) : Prop := t.hwd.dieOff[d] = true ∧ t.hwd.dieEn[d] = false ∧ t.clk.div[d] = 0 ∧
      t.power.rails[coreRail d].enabled = false ∧ (s.stage = .stage3 → t.hq.stopped = true) ∧ (s.stage ∈ [.stage2, .entry] → t.stage = .failed)
    let isolated (t : State) : Prop := t.hwd.swA = false ∧ t.hwd.swB = false ∧ t.hwd.precharge = false ∧ t.sap.state ∉ [.precharge, .connected] ∧
      (s.budget.hold = true → ∀ d : Fin 4, t.hwd.dieEn[d] = false)
    let safe (t : State) (code : Nat) : Prop := t.hwd.safe = true ∧ t.hwd.swA = false ∧ t.hwd.swB = false ∧ (∀ d : Fin 4, t.hwd.dieEn[d] = false) ∧
      (∀ r : Fin 11, t.power.rails[r].enabled = false) ∧ t.stage = .failed ∧ t.budget.stopped = some (s.safeStop code) ∧
      ((∀ old, s.budget.stopped = some (.safe old) → powerOnOnly old = false) → s.safeStop code = .safe code)
    (∃ t, exec .demandAboveCeiling s = .next t ∧ tripped t 0x01 0 ∧ ∀ d : Fin 4, limited t d 0x01) ∧
    (∃ t, exec .coolantOutletTrip s = .next t ∧ tripped t 0x0E 0 ∧ ∀ d : Fin 4, t.hwd.dieOff[d] = true ∧ t.hwd.dieEn[d] = false) ∧
    (∀ d : Fin 4,
      (∃ t, exec (.coreMeanAboveCeiling d) s = .next t ∧ tripped t 0x03 d ∧ limited t d 0x03 ∧
        (s.budget.deferred = none → ∀ e : Fin 4, e ≠ d → t.power.cores[e] = s.power.cores[e])) ∧
      (∃ t, exec (.coreOvervoltageCrowbar d) s = .next t ∧ tripped t 0x04 d ∧ off t d ∧ t.power.rails[coreRail d].state = .crowbarred ∧
        (t.reg .A pwrErr).getLsbD 7 = true) ∧
      (s.power.rails[coreRail d].armed = true → ∃ t, exec (.coreUndervoltageTrip d) s = .next t ∧ tripped t 0x05 d ∧ off t d) ∧
      (s.power.rails[coreRail d].armed = false → ∃ t, exec (.coreUndervoltageTrip d) s = .next t ∧ t = s) ∧
      (s.power.rails[linkRail d].armed = true → ∃ t, exec (.vlinkOutOfRange d) s = .next t ∧ tripped t 0x06 d ∧ off t d) ∧
      (s.power.rails[linkRail d].armed = false → ∃ t, exec (.vlinkOutOfRange d) s = .next t ∧ t = s) ∧
      (∃ t, exec (.dieOverTemperature d) s = .next t ∧ tripped t 0x0D d ∧ off t d) ∧
      (∀ r ∈ [coreRail d, linkRail d], ∃ t, exec (.powerStageTrip r) s = .next t ∧ tripped t 0x0C r ∧ off t d)) ∧
    (∀ e ∈ [(Instr.demandFarAboveCeiling, 0x02), (.vdramOvervoltageCrowbar, 0x07), (.twelveVOvervoltage, 0x09), (.busNodeOvervoltage, 0x1A),
        (.channelDisagreement true, 0x1E), (.channelDisagreement false, 0x1E)], ∃ t, exec e.1 s = .next t ∧ tripped t e.2 0 ∧ safe t e.2) ∧
    (∃ t, exec .vdramOvervoltageCrowbar s = .next t ∧ t.power.rails[4].state = .crowbarred) ∧
    (∃ t, exec .twelveVOvervoltage s = .next t ∧ t.power.rails[9].state = .crowbarred) ∧
    (∃ t, exec .busNodeOvervoltage s = .next t ∧ t.hwd.inputClosed = false) ∧
    (∀ refs, ∃ t, exec (.channelDisagreement refs) s = .next t ∧ t.hwd.chanA = false ∧ t.hwd.chanB = false) ∧
    (∀ e ∈ [(Instr.vdramUndervoltageTrip, 0x08, (4 : Fin 11)), (.twelveVUndervoltage, 0x0A, 9)],
      (s.power.rails[e.2.2].armed = true → ∃ t, exec e.1 s = .next t ∧ tripped t e.2.1 0 ∧ safe t e.2.1) ∧
      (s.power.rails[e.2.2].armed = false → ∃ t, exec e.1 s = .next t ∧ t = s)) ∧
    (∀ r ∈ [(4 : Fin 11), 9], ∃ t, exec (.powerStageTrip r) s = .next t ∧ tripped t 0x0C r ∧ safe t 0x0C) ∧
    (∃ t, exec (.powerStageTrip 10) s = .next t ∧ t = s) ∧
    (∀ r : Fin 11, s.power.rails[r].enabled = true → s.power.rails[r].armed = false → ∃ t, exec (.railStartFailure r) s = .next t ∧ tripped t 0x0B r ∧
      (∀ k ∈ r :: dependents r, t.power.rails[k].enabled = false) ∧ (s.stage ∈ [.stage2, .entry] → r ≠ 10 → t.stage = .failed)) ∧
    (∀ e ∈ [(Instr.cellOvervoltageTrip, 0x0F), (.cellUndervoltageTrip, 0x10), (.stackOvervoltageTrip, 0x11), (.storeOvercurrentTrip, 0x12),
        (.storeOverTemperatureTrip, 0x13), (.storeSwitchMismatch true, 0x16), (.storeSwitchMismatch false, 0x16)],
      ∃ t, exec e.1 s = .next t ∧ tripped t e.2 0 ∧ isolated t) ∧
    (∀ b, ∃ t, exec (.storeSwitchMismatch b) s = .next t ∧ t.hwd.refuseConnect = true) ∧
    (s.sap.awake = true ∨ s.sap.fell = true → ∃ t, exec .cellMonitorTrip s = .next t ∧ tripped t 0x14 0 ∧ isolated t) ∧
    (s.sap.awake = false → s.sap.fell = false → ∃ t, exec .cellMonitorTrip s = .next t ∧ t = s)

/-- R412, R431, R438, R439, R441–R443, R445, R448–R454, R457, R460: a missed strobe freezes the points and the next one makes the raises that were
refused, as far as Crown's check passes, as the end of a LIMIT does; a dip ends following and asks for the hold, at once without the store; a bus
loss opens the input switch and brings the hold, or without the store every die goes off; an entry that either of them ends counts once as abandoned;
a raise goes no higher than the phases, the ceilings and the cap of its die allow; LIMIT ends with its cause; a brownout stops programming; removal
and Heartwood's reset leave the module unpowered, and the clock's failure leaves it fail-safe; Crown may tighten a ceiling within its range and never
loosen one.
The model's choices, which no rule of the spec states: the cause that the notice after a release carries (log 147, DEDUCED), that the tray's removal ends
in one step (log 148, DEDUCED), whether a Heartwood reset leaves the domain its power (log 168, DEDUCED), and the stage that a fail-safe module reads
(log 79, DEDUCED). -/
def Obligations.StrobesDipsAndCeilings : Prop :=
  ∀ (s : State),
    (s.hwdOn = true →
      (s.hwd.watch = true → s.hwd.freeze = false → ∃ t, exec .crownStrobeLoss s = .next t ∧ t.hwd.freeze = true ∧ t.hwd.strobe = false ∧
        t.hwd.lastCode = 0x15 ∧ (s.hwd.holdReq = true → s.budget.hold = false → ∀ d : Fin 4, t.power.cores[d].forced = true ∧ t.power.cores[d].pins = 0)) ∧
      (s.crown.running = true → ∃ t, exec .crownStrobe s = .next t ∧ t.hwd.watch = true ∧ t.hwd.strobe = true ∧ t.hwd.freeze = false ∧
        (s.hwd.freeze = false → t = { s with hwd := { s.hwd with watch := true, strobe := true } }) ∧
        (s.hwd.freeze = true → s.hwd.holdReq = false → ∀ d : Fin 4, let c := s.power.cores[d]
          let goal (e : Fin 4) : Fin 8 := min s.power.cores[e].asked (s.boundPoint e)
          (c.forced = true ∨ goal d ≤ c.pins → t.power.cores[d].pins = c.pins) ∧ c.pins ≤ t.power.cores[d].pins ∧
          (c.forced = false → c.pins < goal d → t.power.cores[d].pins ≤ goal d ∧
            ((∀ e : Fin 4, e ≠ d → s.power.cores[e].forced = true ∨ goal e ≤ s.power.cores[e].pins) →
              s.fits d (goal d) (0, 0) = true → t.power.cores[d].pins = goal d))) ∧
        (s.hwd.freeze = true → s.hwd.holdReq = true → s.stage = .stage3 → t.budget.hold = true)) ∧
      (∀ mv, s.hwd.dip = false → ∃ t, exec (.busDip mv) s = .next t ∧ t.hwd.dip = true ∧ t.hwd.dips = min 65535 (s.hwd.dips + 1) ∧
        t.hwd.busGood = false ∧ t.sap.following = false ∧
        (s.stage ∈ [.stage2, .entry] → t.start.abandoned = s.start.abandoned + (if s.start.retry then 0 else 1)) ∧
        (s.sap.state = .connected → t.hwd.lastCode = 0x17 ∧ t.hwd.holdReq = s.hwd.holdReq) ∧
        (s.sap.state ≠ .connected → t.hwd.lastCode = 0x18 ∧ t.hwd.holdReq = true ∧
          (s.stage = .stage3 → s.crown.running = true → s.hwd.freeze = false → t.budget.hold = true))) ∧
      (s.hwd.dip = true → ∃ t, exec .dipProlonged s = .next t ∧ t.hwd.lastCode = 0x18 ∧ t.hwd.holdReq = true ∧
        (s.stage = .stage3 → s.crown.running = true → s.hwd.freeze = false → t.budget.hold = true) ∧
        (s.hwd.freeze = true → ∀ d : Fin 4, t.power.cores[d].forced = true ∧ t.power.cores[d].pins = 0)) ∧
      (∃ t, exec .busLoss s = .next t ∧ t.hwd.inputClosed = false ∧ t.hwd.busGood = false ∧ t.hwd.lastCode = 0x19 ∧
        (s.stage ∈ [.stage2, .entry] → t.start.abandoned = s.start.abandoned + (if s.start.retry then 0 else 1)) ∧
        (s.stage ∉ [.stage3, .quiescing] ∨ s.sap.state = .connected → t.hwd.holdReq = true ∧
          (s.stage ≠ .stage3 → ∀ d : Fin 4, 0x19 ∈ t.hwd.limit[d] ∧ t.power.cores[d].forced = true) ∧
          (s.stage = .stage3 → s.crown.running = true → s.hwd.freeze = false → t.budget.hold = true ∧ t.stage = .stage3)) ∧
        (s.stage ∈ [.stage3, .quiescing] → s.sap.state ≠ .connected → ∀ d : Fin 4, t.hwd.dieOff[d] = true ∧ t.hwd.dieEn[d] = false)) ∧
      (s.hwd.brownout = false → ∃ t, exec .brownoutWarning s = .next t ∧ t.hwd.brownout = true ∧ t.hwd.mark = true ∧
        t.hwd.brownouts = min 65535 (s.hwd.brownouts + 1) ∧ t.log.mode ≠ .recording) ∧
      (∃ t, exec .hwdClockFailure s = .next t ∧ t.hwd.clockBad = true ∧ t.hwd.chanA = false ∧ t.hwd.chanB = false ∧ t.hwd.inputClosed = false ∧
        t.hwd.swA = false ∧ t.hwd.swB = false ∧ t.stage = .failed ∧ (∀ d : Fin 4, t.hwd.dieEn[d] = false) ∧ ∀ r : Fin 11, t.power.rails[r].enabled = false)) ∧
    (s.stage ≠ .unpowered → ∃ t, exec .heartwoodReset s = .next t ∧ t.stage = .unpowered ∧ t.start.hwdReset = (s.hwd.busGood || s.hwd.inputClosed) ∧
      t.hwd.brownout = false ∧ t.hwd.mark = s.hwd.mark ∧ t.crown.running = false ∧
      (s.hwdOn = true → t.hwd.lastCode = 0x1D) ∧ ∀ r : Fin 11, t.power.rails[r].enabled = false) ∧
    (∀ (pinB : Bool), s.stage ≠ .unpowered → ∃ t, exec (.trayRemoval pinB) s = .next t ∧ t.stage = .unpowered ∧ t.hwd.removed = true ∧
      t.start.hwdReset = false ∧ t.hwd.settled = false ∧ t.hwd.prsA = (s.hwd.prsA && pinB) ∧ t.hwd.prsB = (s.hwd.prsB && !pinB) ∧ t.crown.running = false ∧
      ∀ r : Fin 11, t.power.rails[r].enabled = false) ∧
    (s.hwd.dip = false → ∃ t, exec .dipProlonged s = .next t ∧ t = s) ∧
    (∃ t, exec .dipEnd s = .next t ∧ t = { s with hwd := { s.hwd with dip := false }, sap := { s.sap with holding := false } }) ∧
    (∃ t, exec .inputSwitchReclose s = .next t ∧ t = { s with hwd := { s.hwd with
      busGood := true, holdReq := s.hwd.holdReq && s.budget.hold, inputClosed := s.hwd.inputClosed || (decide (s.stage = .stage3 ∨ s.stage = .quiescing) && s.mayEnable) } }) ∧
    (s.hwd.brownout = false → ∃ t, exec .brownoutEnd s = .next t ∧ t = s) ∧
    (s.hwd.brownout = true → ∃ t, exec .brownoutEnd s = .next t ∧ t.hwd = { s.hwd with brownout := false, mark := false } ∧ t.log.fillers = [] ∧
      (s.log.fillers ≠ [] → (t.reg .A logErr).getLsbD 4 = true) ∧
      (s.log.fillers = [] → s.log.forced = false → t = { s with
        hwd := { s.hwd with brownout := false, mark := false }
        log := { s.log with mode := if s.log.mode = .suspended then s.log.resume else s.log.mode } })) ∧
    (∀ (code : BitVec 8) (d : Fin 4),
      let stays : Prop := (code = 0x18 ∨ code = 0x19) ∧ (s.hwd.freeze = true ∨ (s.budget.hold = false ∧ s.hwd.busGood = false))
      (code.toNat ∉ s.hwd.limit[d] ∨ stays → ∃ t, exec (.limitRelease code d) s = .next t ∧ t = s) ∧
      (code.toNat ∈ s.hwd.limit[d] → ¬ stays → s.hwd.freeze = false → ∃ t, exec (.limitRelease code d) s = .next t ∧
        t.hwd.limit[d] = s.hwd.limit[d].filter (fun c => c != code.toNat) ∧
        ((∀ c ∈ s.hwd.limit[d], c = code.toNat) → t.power.cores[d].forced = false ∧ (s.power.cores[d].forced = true →
          let u := s.unlimit d code.toNat
          let old := s.power.cores[d].pins
          let new := t.power.cores[d].pins
          let goal : Fin 8 := min s.power.cores[d].asked (u.boundPoint d)
          (s.crown.running = false → new = old) ∧
          (s.crown.running = true → (new = old ∨ (old < new ∧ new ≤ goal ∧ u.fits d new (0, 0) = true)) ∧
            ∀ p, old < p → p ≤ goal → u.fits d p (0, 0) = true → p ≤ new))) ∧
        ((∃ c ∈ s.hwd.limit[d], c ≠ code.toNat) → t.power.cores[d] = s.power.cores[d]))) ∧
    (s.crown.running = true → s.hwdOn = true → ∀ (k : Fin 8) (v : BitVec 16),
      let n := v.toNat
      let ok : Prop := if k = 5 ∨ k = 7 then s.hwd.ceil[k] ≤ n else n ≤ s.hwd.ceil[k]
      let lo : Nat := ([100, 600, 90, 50, 3800, 2250, 50000, 39500][k.val]?).getD 0
      let hi : Nat := ([600, 850, 110, 65, 3950, 2500, 53800, 45000][k.val]?).getD 0
      (ok → lo ≤ n → n ≤ hi → k ≠ 5 ∨ (s.sap.state = .connected ∧ ∀ c : Fin 14, 2500 ≤ s.sap.cells[c].mv) →
        ∃ t, exec (.ceilingWrite k v) s = .next t ∧ t.hwd.ceil = s.hwd.ceil.set k n) ∧
      (ok → lo ≤ n → n ≤ hi → k = 5 → s.sap.state ≠ .connected → ∃ t, exec (.ceilingWrite k v) s = .next t ∧ t = s) ∧
      (¬ ok ∨ n < lo ∨ hi < n → ∃ t, exec (.ceilingWrite k v) s = .next t ∧ t.hwd.ceil = s.hwd.ceil ∧ (t.reg .A hwdWarn).getLsbD 2 = true ∧
        t = (s.flag hwdWarn 2).record 0x0A .warning true (0x70020 + 4 * k.val) (natLe 4 n)))

/-- R313, R348, R398, R403, R414, R459–R465, R468, R471, R473, R481, R482, R486, R489, R508, R526, R563: a powered tray with its contacts made starts in
Stage 0 with its kept hours and the store in the state of its record and its bleed; Stage 1 takes the newer good copy of the configuration partition and
boots an image or recovery, and with no good copy of the partition goes on with empty maps, zero trims, no lockout and no keys, after which Stage 3 is refused until the
loss is acknowledged; the boot ROM has Crown's memories marched, and hands over only once they have ended; the firmware starts
the stored voltages and the first share, Stage 2 closes the input switch and starts the 12 V rail, and Stage 3 entry brings the dies up in order until the
last one ends it with device memory and scratchpads clear; a failed test, a timeout or a lost clock fails the start, and an abandoned entry is tried
again.
The model's choices, which no rule of the spec states: that the bus is within range at a power-on (log 106, DESIGN CHOICE), which contents of the partition
go with the maps and how a loss comes about and is kept (log 108, DEDUCED), when Crown writes the partition and which fields it holds (log 208, DESIGN
CHOICE), how long a pending image is a trial (log 101, DEDUCED), the sticky word's power domain (log 168, DEDUCED), which entries count as restarts (log 109,
DEDUCED), the cause in a failure record that no table numbers (log 104, DEDUCED) and the type of a lost die's record (log 192, DEDUCED), both free
values, the numbers of the start failures (log 137, DEDUCED), failed spares of an edge (log 179, DESIGN CHOICE), and that the boot waits for its marches
(log 212, DEDUCED). -/
def Obligations.StagesRunFromPowerOnToStageThree : Prop :=
  ∀ (s : State),
    (∃ t, exec .busContactsMake s = .next t ∧ t = { s with hwd := { s.hwd with startPath := s.hwd.prsA && s.hwd.prsB } }) ∧
    (∀ b : Bool, ∃ t, exec (.presencePinLow b) s = .next t ∧ t = { s with hwd := { s.hwd with
      prsA := s.hwd.prsA || !b, prsB := s.hwd.prsB || b, startPath := (s.hwd.prsA || !b) && (s.hwd.prsB || b) } }) ∧
    (s.hwd.prsA = true → s.hwd.prsB = true → ∃ t, exec .presenceSettled s = .next t ∧ t = { s with hwd := { s.hwd with settled := true } }) ∧
    (∀ f : FuseRead, s.stage = .unpowered → s.hwd.startPath = true → ∃ t, exec (.powerOn f) s = .next t ∧ t.stage = .stage0 ∧
      t.clk.hours = s.hwd.savedHours ∧ t.clk.cycles = s.clk.cycles + 1 ∧ t.log.flash = s.log.flash ∧ t.retire = s.retire ∧ t.crown.running = false ∧
      t.crown.fused = s.crown.fused ∧ t.crown.owner = s.crown.owner ∧ (∀ r : Fin 11, t.power.rails[r].enabled = false) ∧
      (s.crown.life = .service → t.crown.life = .deployed) ∧ (s.crown.life ≠ .service → t.crown.life = s.crown.life) ∧
      t.sap.state = (if s.sap.lockout ≠ none ∧ s.sap.lockout ≠ some .precharge then .lockedOut else if s.sap.bleed then .draining
        else if s.sap.drained then .drained else .isolated) ∧ t.hwd.fuseBad = f.differ ∧ (f.differ = true → t.hwd.lastCode = 0x20) ∧
      (s.start.hwdReset = true → t.reg .A clkSticky = s.reg .A clkSticky)) ∧
    (∀ (k : BitVec 6) (b life : Bool) (passes : BitVec 2), s.stage = .stage0 → s.hwd.fuseBad = false → s.hwd.clockBad = false →
      s.crown.dogs[s.crown.slot].length < 3 →
      ∃ t, exec (.stage1Start k b passes life) s = .next t ∧ t.stage = .stage1 ∧ t.start.slotId = k ∧ t.svc.held = b ∧ t.crown.running = false ∧
        (∀ n : Fin 2, t.crown.copies[n] = if passes.getLsbD n = true then s.crown.copies[n] else none) ∧
        (∀ (n : Fin 2) (x : ConfigCopy), passes.getLsbD n = true → s.crown.copies[n] = some x →
          (∀ (m : Fin 2) (y : ConfigCopy), m ≠ n → passes.getLsbD m = true → s.crown.copies[m] = some y → y.seq < x.seq) →
          let p := x.part
          let lives : Bool := life && decide (p.life = .deployed ∨ p.life = .service)
          t.crown.lost = p.lost ∧ t.retire = p.retire ∧ t.mem.rowMap = p.rowMap ∧ t.mem.repairs = p.repairs ∧ t.mem.sparesUsed = p.sparesUsed ∧
          t.mem.noSpare = p.noSpare ∧ t.sram.spares = p.spares ∧ t.budget.trim = p.trim ∧ t.fleet.epoch = p.epoch ∧ t.fleet.digest = p.digest ∧
          t.fleet.blocks = p.blocks ∧ t.log.clear = p.clear ∧ t.sap.lockout = (if p.lockout = some .precharge then none else p.lockout) ∧
          t.crown.identity = p.identity ∧ t.crown.cert = p.cert ∧ (t.crown.life = .deployed → t.crown.owner = p.owner) ∧
          t.crown.life = (if s.crown.life = .blank ∨ s.crown.life = .retired then s.crown.life else if lives then .deployed else .provisioned)) ∧
        ((∀ n : Fin 2, passes.getLsbD n = true → s.crown.copies[n] = none) → t.crown.lost = true ∧ .configLost ∈ t.crown.notes ∧ t.retire.map = [] ∧
          t.mem.rowMap = [] ∧ t.mem.repairs = [] ∧
          t.sram.spares = [] ∧ (∀ d : Fin 4, t.budget.trim[d] = 0) ∧ t.sap.lockout = none ∧ t.sap.state ≠ .lockedOut ∧ t.fleet.blocks = none ∧
          t.log.clear = none ∧ t.crown.owner = none ∧ t.crown.identity = false ∧ t.crown.cert = [] ∧
          t.crown.life = (if s.crown.life = .blank ∨ s.crown.life = .retired then s.crown.life else .provisioned)) ∧
        (let first := s.crown.pendingSlot.getD s.crown.active
         (s.slotPasses first = true → t.crown.rom = false ∧ t.crown.slot = first ∧ t.crown.trial = decide (s.crown.pendingSlot = some first) ∧
           t.crown.image = s.crown.slots[first]) ∧
         (s.slotPasses first = false → s.slotPasses (1 - first) = true → t.crown.rom = false ∧ t.crown.slot = 1 - first ∧
           t.crown.image = s.crown.slots[1 - first] ∧ (t.reg .A crnErr).getLsbD 1 = true) ∧
         (s.slotPasses first = false → s.slotPasses (1 - first) = false → t.crown.rom = true ∧ t.crown.image = none)) ∧
        (∀ m : March, 7 ≤ m.mem → (m ∈ t.sram.marches ↔ m ∈ [({ mem := sramRow .secure, inst := 0, transparent := false } : March),
          { mem := sramRow .secure, inst := 0, transparent := false, zero := true }, { mem := sramRow .crown, inst := 0, transparent := false },
          { mem := sramRow .log, inst := 0, transparent := false }]))) ∧
    ((∃ m ∈ s.sram.marches, 7 ≤ m.mem) → ∃ t, exec .firmwareRunning s = .next t ∧ t = s) ∧
    (s.bootable = true → ∃ t, exec .firmwareRunning s = .next t ∧ t.crown.running = true ∧ t.crown.notes = [] ∧
      t.crown.unwrapped = (s.crown.identity && !s.crown.secureBad && s.crown.life != .blank && s.crown.life != .retired) ∧
      t.crown.derived = !s.crown.secureBad ∧
      (s.start.ran = true → (t.reg .A crnErr).getLsbD 6 = true ∧
        (s.hwd.holdReq = false ∨ s.stage ≠ .stage3 ∨ s.hwd.freeze = true → t.power = s.power ∧ t.budget = s.budget) ∧
        (s.hwd.holdReq = true → s.stage = .stage3 → s.hwd.freeze = false → t.budget.hold = true)) ∧
      (s.start.ran = false → t.start.ran = true ∧ t.sap.ceilingMv = (if s.sap.openTap = 0 then 53200 else 52900) ∧
        (∀ d : Fin 4, t.power.cores[d].vop = fuseVop.map (fun (v : Nat) => (min 850 ((v : Int) + s.budget.trim[d])).toNat)) ∧
        (s.budget.source = 0 → t.budget.share = 5000 * (bits (s.mreg pwrBudgetCfg) 11 9 + 1) / 8))) ∧
    (s.bootable = false → ∃ t, exec .firmwareRunning s = .next t ∧ t = s) ∧
    (s.stage = .stage1 → s.crown.running = true → ∃ t, exec .monitorWakeTimeout s = .next t ∧ t = { s with start := { s.start with monitorDone := true } }) ∧
    (let ready : Prop := s.stage = .stage1 ∧ s.crown.running = true ∧ s.start.monitorDone = true ∧ s.hwd.settled = true ∧ s.svc.held = false ∧
       s.crown.life ≠ .retired ∧ s.mayEnable = true
     (ready → ∃ t, exec .stage2Start s = .next t ∧ t.stage = .stage2 ∧ t.hwd.inputClosed = true ∧ t.sap.testDue = true ∧
       t.hwd.holdReq = (s.hwd.holdReq && s.budget.hold) ∧
       t.start.storeDone = decide (s.sap.state = .connected ∨ s.sap.state = .lockedOut) ∧
       (s.power.rails[9].enabled = false → s.power.rails[9].state = .off → t.power.rails[9].enabled = true ∧ t.power.rails[9].state = .softStart)) ∧
     (¬ ready → ∃ t, exec .stage2Start s = .next t ∧ t = s)) ∧
    (s.stage = .stage2 → ∃ t, exec .storeConnectTimeout s = .next t ∧ t = { s with start := { s.start with storeDone := true } }) ∧
    (s.stage2Done = true → ∃ t, exec .stage3Entry s = .next t ∧ t.stage = .entry ∧ (∀ d : Fin 4, t.start.dies[d] = .waiting) ∧
      (∀ p : Fin 20, t.ports[p].state = .disabled) ∧
      ∀ k : Fin 2, t.rings[k].mode = .stopped ∧ t.rings[k].due = [] ∧ t.rings[k].starting = false) ∧
    (s.stage2Done = false ∨ s.crown.lost = true → ∃ t, exec .stage3Entry s = .next t ∧ t = s) ∧
    (∀ d : Fin 4,
      (s.stage = .entry → s.start.dies[d] = .waiting → (∀ k : Fin 4, k < d → s.start.dies[k] ≠ .waiting) → s.power.rails[4].state = .on →
        s.power.rails[linkRail d].state = .on → s.hwd.dieOff[d] = false → ∃ t, exec (.dieBringupStart d) s = .next t ∧ t.start.dies[d] = .rail ∧
          t.hwd.dieEn[d] = true ∧ (s.power.cores[d].forced = false → t.power.cores[d].pins = 0) ∧
          (s.power.rails[coreRail d].enabled = false → s.power.rails[coreRail d].state = .off → s.mayEnable = true →
            t.power.rails[coreRail d].enabled = true ∧ t.power.rails[coreRail d].state = .softStart)) ∧
      (s.start.dies[d] = .locking → s.clk.refOk = true → ∃ t, exec (.rootPllLock d) s = .next t ∧ t = { s with
        clk := { s.clk with pll := s.clk.pll.set d true, div := s.clk.div.set d 20, stamp := s.clk.stamp.set d s.time }
        start := { s.start with dies := s.start.dies.set d .training } }) ∧
      (s.start.dies[d] = .locking → ∃ t, exec (.rootPllLockTimeout d) s = .next t ∧ t.stage = .failed ∧ t.budget.stopped = some .failedStart) ∧
      (∀ r : BringupResult, s.stage = .entry → s.start.dies[d] = .training →
        (r.untrained ≠ [] ∨ r.failedStacks ≠ [] → ∃ t, exec (.dieBringupDone d r) s = .next t ∧ t.stage = .failed ∧
          ∀ st ∈ r.untrained ++ r.failedStacks, t.mem.failedStacks.getLsbD st.val = true) ∧
        (r.untrained = [] → r.failedStacks = [] → r.marches = [] → r.tiles = [] → r.spares = [] → r.edges = [] → s.memBad .collective = false →
          s.memBad .queue = false → (∀ e : Fin 4, bits s.canopy.edgeStatus.toNat (2 * e.val + 1) (2 * e.val) ≤ 2) →
          bits s.canopy.edgeStatus.toNat 19 16 = 0 → ∃ t, exec (.dieBringupDone d r) s = .next t ∧
            ((∃ e : Fin 4, e ≠ d ∧ s.start.dies[e] ≠ .done) → t = { s with
              mem := { s.mem with trunkBase := s.mem.trunkBase.set d (some r.trunk), trunk := s.mem.trunk.set d (some r.trunk), trunkHigh := s.mem.trunkHigh.set d false }
              start := { s.start with dies := s.start.dies.set d .done } }) ∧
            ((∀ e : Fin 4, e ≠ d → s.start.dies[e] = .done) → t.stage = .stage3 ∧ t.mem.dram = [] ∧ t.mem.reqs = [] ∧ t.hq.stopped = false ∧
              t.budget.stopped = none ∧ t.start.abandoned = 0 ∧ (∀ k, (t.tile k).pad = []) ∧
              t.mem.trunkBase[d] = some r.trunk ∧ (∀ p : Fin 20, t.ports[p].replays = 0 ∧ t.ports[p].crcErr = 0 ∧ t.ports[p].downCount = 0) ∧
              (s.start.retried = true → t.start.kind = 7) ∧ t.start.restarts = (if s.start.pendingKind.isSome then min 65535 (s.start.restarts + 1) else s.start.restarts) ∧
              t.le.phase = if s.start.pendingKind.isSome then .recovery else .service))) ∧
      (s.clk.pll[d] = true → ∃ t, exec (.rootPllUnlock d) s = .next t ∧ t.hwd.dieEn[d] = false ∧ t.clk.div[d] = 0 ∧ (t.reg .A clkErr).getLsbD 2 = true ∧
        (s.stage = .entry → t.stage = .failed) ∧ (s.stage ≠ .entry → t.hq.stopped = true ∧
          (let u := s.flag clkErr 2
           t = (u.drawn.record (u.fresh.toNat % 256) .fault false d.val []).loseDie d)))) ∧
    (s.stage = .stage2 → s.start.retry = true → s.busBack = true → s.crown.running = true → s.mayEnable = true → ∃ t, exec .entryRetry s = .next t ∧
      t.stage = .stage2 ∧ t.start.retry = false ∧ t.start.retried = true ∧ t.start.pendingKind = s.start.pendingKind ∧ t.hwd.inputClosed = true) ∧
    (s.stage ≠ .unpowered → s.clk.refOk = true → ∃ t, exec .refLoss s = .next t ∧ t.clk.refOk = false ∧ t.clk.holdover = true ∧
      (t.reg .A clkErr).getLsbD 1 = true ∧ (∀ d : Fin 4, s.clk.pll[d] = true → t.hwd.dieEn[d] = false) ∧
      (s.stage ≠ .failed → t.stage = .failed)) ∧
    (s.stage ≠ .unpowered → s.clk.refOk = false → ∃ t, exec .refRecovery s = .next t ∧ t = { s with
      clk := { s.clk with refOk := true, holdover := false, refGoodSince := s.clk.refCount.toNat } }) ∧
    (s.stage ≠ .unpowered → ∃ t, exec .hoursSave s = .next t ∧ t = { s with hwd := { s.hwd with savedHours := s.clk.hours } })

/-- R14, R354, R474–R476, R479–R481, R491, R492, R500, R513, R533: a restart quiesces Stage 3, begins a Stage 3 entry again or starts a failed module from
Stage 2, and a re-entry starts a stopped one whose conditions hold, each with its cause and with every port DISABLED; a refused one changes nothing but its
flag; of commands of several sources in one cycle one is performed; the seal is set once; re-arming clears latches, from the console one rail's; a watchdog or tamper restart of Crown stops both rings, wipes the secure region and leaves queues, tiles and device memory alone.
The model's choices, which no rule of the spec states: when restart commands fall in one cycle (log 207, DESIGN CHOICE), from when a SAFE's condition counts as
absent and that a thermal shutdown waits for the bus too (log 206, DEDUCED), the records of a restart's quiesce (log 99, DEDUCED), and what a Crown restart
keeps and by which vector it is signalled (logs 90 and 105, DEDUCED). -/
def Obligations.RestartsReentriesAndSeals : Prop :=
  ∀ (s : State),
    let at2 (t : State) (kind : Nat) : Prop := t.stage = .stage2 ∧ t.start.pendingKind = some kind ∧ t.hwd.safe = false ∧ t.budget.stopped = none ∧
      t.hwd.inputClosed = (s.hwd.inputClosed || (s.hwd.chanA && s.hwd.chanB && !s.hwd.removed && !s.hwd.fuseBad)) ∧ t.start.retried = false ∧
      t.mem.dram = [] ∧ (∀ p : Fin 20, t.ports[p].state = .disabled) ∧ ∀ q : Fin 64, t.queues[q].state = .disabled
    let restarted (t : State) (kind : Nat) : Prop := t.start.pendingKind = some kind ∧
      (s.stage = .stage3 → t.stage = .quiescing ∧ t.start.restarting = true ∧ t.hq.stopped = true ∧ t.budget.quiesce = some .draining) ∧
      (s.stage = .entry → t.stage = .entry ∧ (∀ d : Fin 4, t.start.dies[d] = .waiting ∧ t.hwd.dieEn[d] = false) ∧ t.mem.dram = [] ∧
        t.start.retried = false ∧ ∀ p : Fin 20, t.ports[p].state = .disabled) ∧
      (s.stage = .failed → at2 t kind)
    let atConsole : Prop := s.svc.ready = true ∧ s.svc.test = none ∧ s.crown.running = true ∧ s.crown.life = .service
    let twin (src : CmdSrc) : Prop := ∃ other, s.start.restartOf = some (other, s.clk.us) ∧ other ≠ src
    (∀ fn,
      (s.reaches fn = true → twin (.host fn) → ∃ t, exec (.restart (.host fn)) s = .next t ∧ t = s.setReg .A clkCtrl 2) ∧
      (s.reaches fn = true → ¬ twin (.host fn) → s.mayRestart = true → ∃ t, exec (.restart (.host fn)) s = .next t ∧ restarted t 2) ∧
      (s.reaches fn = true → ¬ twin (.host fn) → s.mayRestart = false → ∃ t, exec (.restart (.host fn)) s = .next t ∧ t = (s.setReg .A clkCtrl 2).flag clkErr 4) ∧
      (s.reaches fn = true → s.mayReenter false = true → ∃ t, exec (.reenter (.host fn)) s = .next t ∧ at2 t 4) ∧
      (s.reaches fn = true → s.mayReenter false = false → ∃ t, exec (.reenter (.host fn)) s = .next t ∧ t = (s.setReg .A clkCtrl 1).flag clkErr 4) ∧
      (s.reaches fn = true → s.sealed = false → ∃ t, exec (.seal fn) s = .next t ∧ t.sealed = true) ∧
      (s.reaches fn = true → s.sealed = true → ∃ t, exec (.seal fn) s = .next t ∧ t = s.record 0x0A .warning true clkSeal [1, 0, 0, 0]) ∧
      (s.reaches fn = false → ∀ c ∈ [Instr.restart (.host fn), .reenter (.host fn), .seal fn, .rearm (.host fn) 0x1FF],
        ∃ t, exec c s = .next t ∧ t = s.refuseWrite fn)) ∧
    (atConsole → twin .console → ∃ t, exec (.restart .console) s = .next t ∧ t.stage = s.stage ∧ t.start = s.start) ∧
    (atConsole → ¬ twin .console → s.mayRestart = true → ∃ t, exec (.restart .console) s = .next t ∧ restarted t 3) ∧
    (atConsole → ¬ twin .console → s.mayRestart = false → ∃ t, exec (.restart .console) s = .next t ∧ t.stage = s.stage ∧ t.start = s.start ∧
      (t.reg .A clkErr).getLsbD 4 = true) ∧
    (atConsole → s.mayReenter true = true → ∃ t, exec (.reenter .console) s = .next t ∧ at2 t 5) ∧
    (s.autoPending = true → s.mayReenter false = true → ∃ t, exec .autoReentry s = .next t ∧ at2 t 6) ∧
    (s.autoPending = false ∨ s.mayReenter false = false → ∃ t, exec .autoReentry s = .next t ∧ t = s) ∧
    (∀ (src : CmdSrc) (rails : BitVec 11), (src = .console → atConsole ∧ ∃ r : Fin 10, rails = 1#11 <<< r.val) → (∀ fn, src = .host fn → s.reaches fn = true) →
      ∃ t, exec (.rearm src rails) s = .next t ∧ ∀ r : Fin 11, t.power.rails[r] =
        if rails.getLsbD r.val = true ∧ (src = .console ∨ r.val < 9) ∧ s.power.rails[r].state = .latched
        then { s.power.rails[r] with state := .off, attempts := 0 } else s.power.rails[r]) ∧
    (∀ rails : BitVec 11, atConsole → (∀ r : Fin 10, rails ≠ 1#11 <<< r.val) → ∃ t, exec (.rearm .console rails) s = .next t ∧ t.power = s.power) ∧
    (let gone (t : State) : Prop := t.crown.running = false ∧ t.wiping = true ∧ t.crown.unwrapped = false ∧ t.crown.derived = false ∧
       t.crown.checking = [] ∧ (∀ k : Fin 2, t.rings[k].mode = .stopped ∧ t.rings[k].due = [] ∧ t.rings[k].starting = false) ∧
       (s.stage ≠ .entry → t.stage = s.stage ∧ t.queues = s.queues ∧ t.tiles = s.tiles ∧ t.mem = s.mem ∧ t.power = s.power)
     (s.crown.running = true → ∃ t, exec .crownWatchdog s = .next t ∧ gone t ∧ (t.reg .A crnErr).getLsbD 2 = true ∧
       t.crown.pendingSlot = (if s.crown.trial then none else s.crown.pendingSlot)) ∧
     (∀ x : TamperSensor, s.stage ≠ .unpowered → s.stage ≠ .stage0 → ∃ t, exec (.tamper x) s = .next t ∧ gone t ∧
       (t.reg .A crnErr).getLsbD 5 = true ∧ t.hwd.tampers = (if s.hwd.tampers = BitVec.allOnes 32 then s.hwd.tampers else s.hwd.tampers + 1)))

/-- R295, R300–R303, R305, R307, R417, R419, R494–R503, R511, R518, R522: a ring starts where the host's block allows the generation and stops with its
request in progress answered; Crown takes the slots that req_prod shows; a mailbox is taken once and answered in place; an unlisted type is answered
UNSUPPORTED and a malformed request INVALID; and each listed message of status, nonce, events, share, loop, fleet and lease has its effect and its answer.
The model's choices, which no rule of the spec states: what Crown does with a ring or a buffer that memory does not serve (log 196, DESIGN CHOICE), which
fields of a message must be zero (log 169, DEDUCED), the bytes of LE_REQUEST and its answer (log 94, DESIGN CHOICE), the bytes that an event's detail and
the answer of a refused message leave open (log 12, DESIGN CHOICE), the layout of an event's detail (log 155, DESIGN CHOICE), which bodies of the canonical
blocks are operands (log 190, DEDUCED), and that the source of a host's LEASE is not looked at (log 209, DESIGN CHOICE). -/
def Obligations.RingsAndMailboxesAnswerRequests : Prop :=
  ∀ (s : State),
    (∀ fn,
      (s.reaches fn = false → ∀ c ∈ [Instr.ringStart fn, .ringStop fn, .crnKick fn, .mailboxGo fn], ∃ t, exec c s = .next t ∧ t = s.refuseWrite fn) ∧
      (s.reaches fn = true →
        (s.rings[fnIdx fn].mode = .stopped → s.crown.running = true → s.deviceReady = true → ∃ t, exec (.ringStart fn) s = .next t ∧
          let u := s.noteRingCmd fn 1
          let waits : Prop := u.rangeLive (u.ringView fn) (u.ringBase fn) 64 = true ∧ u.rangeOpen (u.ringView fn) (u.ringBase fn) 64 = false
          let block := (u.forgetRead (.ring fn)).hostMask fn
          (waits → t = u.setRing fn { s.rings[fnIdx fn] with starting := true }) ∧
          (¬ waits → t.rings[fnIdx fn].starting = false ∧
            (bit block.2 2 = true → t.rings[fnIdx fn].mode = .running ∧ t.rings[fnIdx fn].reqCons = 0 ∧ t.rings[fnIdx fn].rspProd = 0 ∧
              t.rings[fnIdx fn].due = []) ∧
            (bit block.2 2 = false → t.rings[fnIdx fn].mode = .mismatch ∧ (t.reg .A crnErr).getLsbD 3 = true))) ∧
        (s.rings[fnIdx fn].mode ≠ .stopped → ∃ t, exec (.ringStart fn) s = .next t ∧ t = s.noteRingCmd fn 1) ∧
        (∃ t, exec (.ringStop fn) s = .next t ∧ { t with rings := s.rings } = s.noteRingCmd fn 2 ∧
          let r := s.rings[fnIdx fn]
          t.rings = s.rings.set (fnIdx fn) (if r.mode = .running ∧ (r.requests ≠ [] ∨ r.replies ≠ []) then
              { r with stopping := true, requests := r.requests.take 1 }
            else { r with mode := .stopped, requests := [], replies := [], kicked := false, stopping := false, due := [], starting := false })) ∧
        (∃ t, exec (.crnKick fn) s = .next t ∧ t = (s.setReg fn crnKickReg 1).setRing fn { s.rings[fnIdx fn] with kicked := true }) ∧
        (s.rings[fnIdx fn].mboxBusy = false → s.crown.running = true → ∃ t, exec (.mailboxGo fn) s = .next t ∧
          t.rings = s.rings.set (fnIdx fn) { s.rings[fnIdx fn] with mboxBusy := true, mboxDone := false }) ∧
        (s.rings[fnIdx fn].mboxBusy = true → ∃ t, exec (.mailboxGo fn) s = .next t ∧ t = s)) ∧
      (∀ e : SramErr, s.crown.running = true →
        (fatalSram e = true → ∃ t, exec (.ringPoll fn e) s = .next t ∧ t.crown.running = false) ∧
        (e.kind = .none → s.ringUp fn = true → s.rings[fnIdx fn].stopping = false → s.rings[fnIdx fn].replies = [] →
          s.rings[fnIdx fn].due = [] →
          let view := s.ringView fn
          let base := s.ringBase fn
          (s.rangeOpen view base 64 = false → ∃ t, exec (.ringPoll fn e) s = .next t ∧ t = s) ∧
          (s.rangeOpen view base 64 = true → ∃ t, exec (.ringPoll fn e) s = .next t ∧
            let read := (s.visit view base 64).devCheck view base 64 []
            let prod := BitVec.ofNat 32 (leNat (read.1.devRead view (base + 8) 4))
            let ahead := (prod - s.rings[fnIdx fn].reqCons).toNat
            let want := if read.2 = true ∨ 2 ^ s.reqLog2 fn < ahead then 0 else ahead
            let n := if read.1.slotsOpen fn want then want else 0
            let c := read.1.readSlots fn read.1.rings[fnIdx fn].reqCons.toNat n
            t.rings[fnIdx fn] = { c.1.rings[fnIdx fn] with requests := c.1.rings[fnIdx fn].requests ++ c.2
                                                           reqCons := c.1.rings[fnIdx fn].reqCons + BitVec.ofNat 32 n, kicked := false })))) ∧
    (∀ (src : MsgSrc) (m : List Byte), s.requestOf src = some m →
      (msgType m ∉ requestTypes → ∃ t, exec (.unsupportedMessage src) s = .next t ∧ t = s.answerMsg src (if msgType m = 0x8000 then 2 else 1) []) ∧
      (msgType m ∈ requestTypes → ∃ t, exec (.unsupportedMessage src) s = .next t ∧ t = s) ∧
      (∀ e ∈ [(Instr.getStatus src, 0x0001), (.getNonce src, 0x0002), (.getEvents src, 0x0003), (.setShare src, 0x0010), (.hostEpochPropose src, 0x0021),
          (.lease src, 0x0030), (.imageLoad src, 0x0040), (.imageActivate src, 0x0041), (.imageConfirm src, 0x0042), (.deploy src, 0x0051),
          (.endService (.msg src), 0x0052), (.logRead src, 0x0060)],
        (msgType m = e.2 → headerGood src m = false → s.hwd.brownout = false ∨ e.2 ≠ 0x0040 → ∃ t, exec e.1 s = .next t ∧ t = s.answerMsg src 2 []) ∧
        (msgType m ≠ e.2 → ∃ t, exec e.1 s = .next t ∧ t = s))) ∧
    (∀ (fn : Fn) (m : List Byte), s.asks (.mbox fn) 0x0001 m → bodyGood m 0 = true → ∃ t, exec (.getStatus (.mbox fn)) s = .next t ∧
      t.rings[fnIdx fn].mboxBusy = false ∧ t.rings[fnIdx fn].mboxDone = true ∧
      (t.mboxBytes fn).take 68 = msgHeader 1 0x0001 52 0 (msgSeq m) ++ s.statusBody) ∧
    (∀ (src : MsgSrc) (m : List Byte),
      (s.asks src 0x0001 m → bodyGood m 0 = true → ∃ t, exec (.getStatus src) s = .next t ∧ t = s.answerMsg src 0 s.statusBody) ∧
      (s.asks src 0x0002 m → bodyGood m 0 = true → ∃ t, exec (.getNonce src) s = .next t ∧
        t = ({ s.drawn with crown := { s.crown with nonces := s.crown.nonces.set (msgPath src) (some s.fresh) } }).answerMsg src 0
          (natLe 8 s.fresh.toNat)) ∧
      (s.asks src 0x0003 m → bodyGood m 0 = true → ∃ t, exec (.getEvents src) s = .next t ∧ t.rings[fnIdx (srcFn src)].held = []) ∧
      (s.asks src 0x0010 m → bodyGood m 8 = true →
        let w := tfield m 16 4
        let k := tfield m 20 1
        (w < 500 ∨ 5000 < w ∨ 2 < k ∨ tfield m 21 1 ≠ 0 → ∃ t, exec (.setShare src) s = .next t ∧ t = s.answerMsg src 2 []) ∧
        (500 ≤ w → w ≤ 5000 → k ≤ 2 → tfield m 21 1 = 0 →
          (s.legacy = true → ∃ t, exec (.setShare src) s = .next t ∧ t = s.answerMsg src 4 []) ∧
          (s.legacy = false → ∃ t, exec (.setShare src) s = .next t ∧
            (s.stage = .stage3 → s.budget.hold = false → t.budget.share = w ∧ t.budget.smooth = k ∧ t.budget.source = 1 ∧ t.budget.shareAt = s.clk.us) ∧
            t.budget.agent = tfield m 22 2 ∧
            (s.stage = .stage3 → s.budget.hold = true → t.budget.share = s.budget.share ∧ t.budget.waiting = some (w, k, 1)) ∧
            (s.stage = .quiescing → t.budget = { s.budget with agent := tfield m 22 2 }) ∧
            (s.stage ∉ [.stage3, .quiescing] → t.budget = { s.budget with waiting := some (w, k, 1), agent := tfield m 22 2 })))) ∧
      (s.asks src 0x0011 m → ∀ (n : Fin 4) (a : LeAction),
        (∀ k : Nat, s.le.ok = false → ∃ t, exec (.leRequest src k a) s = .next t ∧ t = s.answerMsg src 4 []) ∧
        (∀ k : Nat, 4 ≤ k → s.le.ok = true → ∃ t, exec (.leRequest src k a) s = .next t ∧ t = s.answerMsg src 2 []) ∧
        (s.le.ok = true → s.actionListed n a = false → ∃ t, exec (.leRequest src n a) s = .next t ∧ t = (s.flag leErr 4).answerMsg src 2 []) ∧
        (s.le.ok = true → s.actionListed n a = true → ∃ t, exec (.leRequest src n a) s = .next t ∧
          t = (s.slotAction n a).answerMsg src 0 ((s.slotAction n a).slotBody n))) ∧
      (∀ (b : List Byte) (u : State) (said : Blocks), s.asksBuffer src 0x0020 m b u →
        (∀ k, blocksIn b said = some k → blocksGood k = true ∧ ∃ t, exec (.epochStage src said) s = .next t ∧
          t = (u.setFleet { u.fleet with staged := some { epoch := u.fleet.epoch + 1, digest := digestOf b, blocks := k } }).answerMsg src 0
            (natLe 8 (u.fleet.epoch + 1).toNat ++ natLe 32 (digestOf b).toNat)) ∧
        (blocksIn b said = none → ∃ t, exec (.epochStage src said) s = .next t ∧ t = u.answerRefused src)) ∧
      (s.asks src 0x0021 m → bodyGood m 8 = true → s.poll .coordinator = none →
        (∀ c, s.fleet.staged = some c → s.coordinates = true → ∃ t, exec (.hostEpochPropose src) s = .next t ∧
          t = s.propose c (BitVec.ofNat 64 (tfield m 16 8)) (some src)) ∧
        (s.fleet.staged = none ∨ s.coordinates = false → ∃ t, exec (.hostEpochPropose src) s = .next t ∧ t = s.answerRefused src)) ∧
      (∀ (b : List Byte) (u : State) (e : BitVec 64) (said : Blocks), s.asksBuffer src 0x0022 m b u →
        (u.roleAbsent = true → ∀ k, blocksIn b said = some k → ∃ t, exec (.epochInstall src e said) s = .next t ∧
          t = (u.activate { epoch := e, digest := digestOf b, blocks := k }).answerMsg src 0 (natLe 8 e.toNat ++ natLe 32 (digestOf b).toNat)) ∧
        (u.roleAbsent = false ∨ blocksIn b said = none → ∃ t, exec (.epochInstall src e said) s = .next t ∧ t = u.answerRefused src)) ∧
      (s.asks src 0x0030 m → bodyGood m 40 = true →
        let l := (msgBody m).take 40
        (leaseGood l = false → ∃ t, exec (.lease src) s = .next t ∧ t = s.answerMsg src 2 []) ∧
        (leaseGood l = true → mDst l ≠ s.myId → ∃ t, exec (.lease src) s = .next t ∧ t = (s.sendTo (mType l) (mDst l) (l.drop 16)).answerMsg src 0 []))) ∧
    (∀ p : CmdSrc, ∃ t, exec (.nonceExpiry p) s = .next t ∧ t = { s with crown := { s.crown with nonces := s.crown.nonces.set (noncePath p) none } })

/-- R487–R492, R508–R512, R518, R545: an image that passes its check is programmed into the inactive slot, becomes pending with its read-back, boots by
IMAGE_ACTIVATE and is confirmed after 60 s, when the fused counter rises; a token that passes performs its action and one that does not is recorded and
refused; a token that comes during a wipe waits for its end, and with a failed secure region every one is refused with STATE; the life cycle moves from
BLANK through PROVISIONED and DEPLOYED to SERVICE and back, or to RETIRED; a clear leaves the cleared record alone and takes its mark out of the
configuration partition.
The model's choices, which no rule of the spec states: what an erase of the slot that runs does to its trial (log 208, DESIGN CHOICE), when an image is
erased and confirmed (log 67, DEDUCED), in which order a token is checked and what its answers hold (logs 58, 64 and 65, DEDUCED), the hours that a
completed clear does not know (log 12, DESIGN CHOICE), and what stands for a check in progress (log 212, DEDUCED). -/
def Obligations.ImagesTokensAndLifeCycle : Prop :=
  ∀ (s : State),
    (∀ (src : MsgSrc) (m : List Byte),
      (s.hwd.brownout = true → ∃ t, exec (.imageLoad src) s = .next t ∧ t = s) ∧
      (∀ l, s.hwd.brownout = false → s.crown.load = some l → s.asks src 0x0040 m → bodyGood m 13 = true → ∃ t, exec (.imageLoad src) s = .next t ∧
        t = if l.src = src then s else s.answerMsg src 3 []) ∧
      (∀ (b : List Byte) (u : State), s.hwd.brownout = false → s.crown.load = none → s.asksBuffer src 0x0040 m b u →
        let k : Fin 2 := 1 - u.crown.active
        (imagePasses b u.crown.fused = true → ∃ t, exec (.imageLoad src) s = .next t ∧ t.crown.slots = u.crown.slots.set k none ∧ (u.crown.slot = k → t.crown.trial = false) ∧ t.crown.dogs[k] = [] ∧
          t.crown.load = some { src := src, slot := k, image := slotImage b, seq := msgSeq m } ∧ t.crown.pendingSlot ≠ some k) ∧
        (imagePasses b u.crown.fused = false → ∃ t, exec (.imageLoad src) s = .next t ∧ t = (u.eraseSlot k).answerMsg src 6 [])) ∧
      (s.asks src 0x0041 m → bodyGood m 0 = true →
        (s.activateRefused = true → ∃ t, exec (.imageActivate src) s = .next t ∧ t = s.answerMsg src 4 []) ∧
        (∀ k, s.crown.pendingSlot = some k → s.activateRefused = false → s.crown.dogs[s.crown.slot].length < 3 → s.slotPasses k = true →
          ∃ t, exec (.imageActivate src) s = .next t ∧ t.crown.running = false ∧ t.crown.slot = k ∧ t.crown.trial = true)) ∧
      (s.asks src 0x0042 m → bodyGood m 0 = true →
        (s.crown.trial = false ∨ s.clk.us < s.crown.trialAt + 60000000 → ∃ t, exec (.imageConfirm src) s = .next t ∧ t = s.answerMsg src 4 []) ∧
        (s.crown.trial = true → s.crown.trialAt + 60000000 ≤ s.clk.us → ∃ t, exec (.imageConfirm src) s = .next t ∧
          t.crown = { s.crown with trial := false, active := s.crown.slot, pendingSlot := none, fused := max s.crown.fused (s.slotVersion s.crown.slot).2 })) ∧
      (s.asks src 0x0051 m → bodyGood m 13 = true → s.crown.life ≠ .provisioned → ∃ t, exec (.deploy src) s = .next t ∧ t = s.answerMsg src 4 []) ∧
      (∀ (b : List Byte) (u : State), s.asksBuffer src 0x0051 m b u → s.crown.life = .provisioned → u.crown = s.crown →
        (b.length ≠ 384 → ∃ t, exec (.deploy src) s = .next t ∧ t = u.answerMsg src 2 []) ∧
        (b.length = 384 → ∃ t, exec (.deploy src) s = .next t ∧ t.crown.life = .deployed ∧ t.crown.owner = some (digestOf b))) ∧
      (s.asks src 0x0052 m → bodyGood m 0 = true →
        (s.crown.life = .service → ∃ t, exec (.endService (.msg src)) s = .next t ∧ t.crown.life = .deployed) ∧
        (s.crown.life ≠ .service → ∃ t, exec (.endService (.msg src)) s = .next t ∧ t = s.answerMsg src 4 []))) ∧
    (s.atConsole .s false → ∃ t, exec (.endService .console) s = .next t ∧ t.crown.life = .deployed ∧
      t.svc.changes = min 65535 (s.svc.changes + 1)) ∧
    (∀ (l : ImageLoad), s.crown.load = some l → s.hwd.brownout = false → s.crown.running = true →
      (∃ t, exec (.imageLoadComplete true) s = .next t ∧ t.crown.load = none ∧ t.crown.slots = s.crown.slots.set l.slot (some l.image) ∧
        t.crown.pendingSlot = some l.slot) ∧
      (∃ t, exec (.imageLoadComplete false) s = .next t ∧ t.crown = { s.crown with load := none })) ∧
    (∀ ok, s.crown.load = none ∨ s.hwd.brownout = true → ∃ t, exec (.imageLoadComplete ok) s = .next t ∧ t = s) ∧
    (∀ cert, s.crown.running = true → s.crown.life = .blank → ∃ t, exec (.factoryProvisioning cert) s = .next t ∧
      t.crown.life = .provisioned ∧ t.crown.identity = true ∧ t.crown.cert = cert) ∧
    (∀ (path : AuthPath) (k : List Byte) (u : State), s.tokenInHand path k u →
      let a := tokenAction k
      let st := u.tokenStatus (tokenPath path) k
      let spent (t : State) : Prop := t.crown.nonces[tokenPath path] = none
      let mine (c : Instr) : Prop := c = .enterService path ∧ a = 1 ∨ c = .ownerRelease path ∧ a = 2 ∨ c = .retireModule path ∧ a = 3 ∨
        c = .clearRingLog path ∧ a = 0x10 ∧ s.clearWaits path = false ∧ s.hwd.brownout = false ∨ ∃ p, c = .editRetirementMap path p ∧ a = 0x11
      (∀ c, mine c → st ≠ 0 → ∃ t, exec c s = .next t ∧
        t = ((u.spendNonce (tokenPath path) k).record 0x75 .warning false a (natLe 2 st)).answerToken path st) ∧
      (a = 1 → st = 0 → ∃ t, exec (.enterService path) s = .next t ∧ spent t ∧ t.crown.life = .service) ∧
      (a = 2 → st = 0 → ∃ t, exec (.ownerRelease path) s = .next t ∧ spent t ∧ t.crown.life = .provisioned ∧ t.crown.owner = none) ∧
      (a = 3 → st = 0 → ∃ t, exec (.retireModule path) s = .next t ∧ spent t ∧ t.crown.life = .retired ∧ t.crown.identity = false ∧
        t.crown.unwrapped = false) ∧
      (a = 0x10 → st = 0 → s.clearWaits path = false → s.hwd.brownout = false → u.log.clear = none → ∃ t, exec (.clearRingLog path) s = .next t ∧ spent t ∧
        t.log.mode = .clearing ∧ ∃ mark, t.log.clear = some mark ∧ mark.path = (tokenPath path).val ∧ mark.nonce = BitVec.ofNat 64 (tfield k 16 8)) ∧
      (∀ p : BitVec 8, a = 0x11 → st = 0 →
        let allowed : Prop := ∀ i < 8, editOp k i = 2 → u.restorable (editTarget k i) (p.getLsbD i) = true
        (allowed → ∃ t, exec (.editRetirementMap path p) s = .next t ∧ spent t ∧ ∀ i < 8,
          (editOp k i = 1 → (t.tile (editTarget k i)).retireCause ≠ 0) ∧ (editOp k i = 2 → editTarget k i ∈ t.retire.edits)) ∧
        (¬ allowed → ∃ t, exec (.editRetirementMap path p) s = .next t ∧
          t = ((u.spendNonce (tokenPath path) k).record 0x75 .warning false 0x11 (natLe 2 4)).answerToken path 4))) ∧
    (∀ (src : MsgSrc) (m : List Byte), s.asks src 0x0050 m →
      (s.wiping = true → ∀ c ∈ [Instr.enterService (.msg src), .ownerRelease (.msg src), .retireModule (.msg src), .editRetirementMap (.msg src) 0],
        ∃ t, exec c s = .next t ∧ src ∈ t.crown.checking ∧ t = { s with crown := { s.crown with checking := t.crown.checking } }) ∧
      (s.wiping = false → s.crown.secureBad = true → msgLen m ≠ 832 →
        ∀ c ∈ [Instr.enterService (.msg src), .ownerRelease (.msg src), .retireModule (.msg src), .editRetirementMap (.msg src) 0],
          ∃ t, exec c s = .next t ∧ t = ({ s with crown := { s.crown with checking := s.crown.checking.filter (fun x => x != src) } }).answerMsg src 4 [])) ∧
    (∀ (bytes : List Byte) (p : BitVec 8), s.atConsole .r false → s.wiping = true →
      ∀ e ∈ [(Instr.enterService (.console bytes), 1, 0#8), (.ownerRelease (.console bytes), 2, 0), (.retireModule (.console bytes), 3, 0),
          (.editRetirementMap (.console bytes) p, 0x11, p)],
        tokenAction bytes = e.2.1 → ∃ t, exec e.1 s = .next t ∧ t.svc.test = some (.authWait bytes e.2.2) ∧ t.crown = s.crown) ∧
    (∀ k, s.log.clear = some k → s.crown.running = true → s.hwd.brownout = false → ∃ t, exec .logClearEraseDone s = .next t ∧
      t.log.flash = (s.clearedRec k).bytes ∧ t.log.tail = [] ∧ t.log.mode = .recording ∧ t.log.clear = none ∧ t.crown.clearing = none ∧
      ∃ n x, newestCopy t.crown.copies = some n ∧ t.crown.copies[n] = some x ∧ x.part.clear = none) ∧
    (s.log.clear = none → ∃ t, exec .logClearEraseDone s = .next t ∧ t = s)

/-- R522–R531, R539–R546, R581: an open record closes after its time, a flush hands every closed record to the flash, a page that verifies is marked
written and a second failed one fails the flash; a read copies the partition from its offset; the daily march takes the regions in turn, MARCH_C meets every
stuck cell, every cell that cannot rise or fall, every cell that two addresses reach and every cell that one of another row disturbs, in a spare row too; the
end of a march counts what it corrected, uses spares for the cells that no spare covers yet, gives up a defective spare row, marks an unrepairable memory,
and lifts the fence of a tested tile that is not marked; ZERO_CHECK fails the secure region by any cell that it meets, and else Crown unwraps its key.
The model's choices, which no rule of the spec states: which record an uncorrectable word of the buffer discards (log 95, DESIGN CHOICE) and what becomes of
one cut off in flash (log 211, DEDUCED), the reserved flags of LOG_READ (log 169, DEDUCED), that the factory has used no spares (log 7, DESIGN CHOICE), what
a failing spare row in use brings (log 191, DEDUCED), and which cells a spare covers and which words a march corrects (log 212, DEDUCED). -/
def Obligations.LogRecordsAreWrittenAndMarchesEnd : Prop :=
  ∀ (s : State),
    (∀ (i : Nat) (r : LogRec), s.crown.running = true → s.log.opened[i]? = some r →
      let due : Prop := r.hours.toNat + 600 * bits (s.mreg logCfg) 15 8 ≤ s.clk.hours.toNat ∨ r.last.toNat + 600 ≤ s.clk.hours.toNat
      (due → ∃ t, exec (.recordClose i) s = .next t ∧ t = { s with log := { s.log with
        opened := s.log.opened.eraseIdx i, closed := s.log.closed ++ [{ what := r, entered := s.clk.hours, placed := none }] } }) ∧
      (¬ due → ∃ t, exec (.recordClose i) s = .next t ∧ t = s)) ∧
    (s.crown.running = true → s.flushDue = true → ∃ t, exec .logFlush s = .next t ∧ t.log.flash = s.log.flash ∧
      (s.log.mode = .recording → t.log.mode ≠ .full → (∀ e ∈ t.log.closed, e.placed.isSome = true) ∧
        t.log.program = s.log.program ++ (s.log.closed.filter (fun e => e.placed.isNone)).flatMap (fun e => e.what.bytes))) ∧
    (s.flushDue = false → ∃ t, exec .logFlush s = .next t ∧ t = s) ∧
    (s.programs = true → ∀ e : SramErr,
      (e.kind = .none →
        (∃ t, exec (.pageProgramVerify true e) s = .next t ∧ t.log.flash = s.log.flash ++ s.log.program.take s.log.pageLeft ∧
          t.log.program = s.log.program.drop s.log.pageLeft ∧ t.log.verifyFails = 0) ∧
        (s.log.verifyFails = 0 → ∃ t, exec (.pageProgramVerify false e) s = .next t ∧ t = { s with log := { s.log with verifyFails := 1 } }) ∧
        (1 ≤ s.log.verifyFails → ∃ t, exec (.pageProgramVerify false e) s = .next t ∧ t.log.mode = .flashFailed ∧ t.log.flash = s.log.flash ∧
          (t.reg .A logErr).getLsbD 2 = true)) ∧
      (fatalSram e = true → ∀ ok, ∃ t, exec (.pageProgramVerify ok e) s = .next t ∧ (t.reg .A logErr).getLsbD 1 = true ∧
        let whole (k : LogEntry) : Prop := ∀ p, k.placed = some p → s.log.flash.length + 8 * k.what.units ≤ p
        ((∃ k ∈ s.log.closed, whole k) → t.log.flash = s.log.flash) ∧
        ((∀ k ∈ s.log.closed, ¬ whole k) → s.log.opened.length < 16 → t.log.flash = s.log.passCut.flash))) ∧
    (s.programs = false → ∀ ok e, ∃ t, exec (.pageProgramVerify ok e) s = .next t ∧ t = s) ∧
    (∀ (src : MsgSrc) (m : List Byte), s.asks src 0x0060 m → bodyGood m 21 = true →
      let off := tfield m 32 4
      let flags := tfield m 36 1
      (s.bufStatus m ≠ 0 → ∃ t, exec (.logRead src) s = .next t ∧ t = s.answerMsg src (s.bufStatus m) []) ∧
      (s.bufStatus m = 0 → s.bufOpen m = false → ∃ t, exec (.logRead src) s = .next t ∧ t = s) ∧
      (s.bufStatus m = 0 → s.bufOpen m = true → off % 8 ≠ 0 ∨ 4 ≤ flags → ∃ t, exec (.logRead src) s = .next t ∧ t = s.answerMsg src 2 []) ∧
      (s.bufStatus m = 0 → s.bufOpen m = true → off % 8 = 0 → flags < 4 → s.log.clear.isSome = true → ∃ t, exec (.logRead src) s = .next t ∧ t = s.answerMsg src 3 []) ∧
      (s.bufStatus m = 0 → s.bufOpen m = true → off % 8 = 0 → flags = 0 → s.log.clear = none → s.log.content.length ≤ off + bufLen m →
        let l := s.log.content.drop off
        let u := (s.visit (bufView m) (bufAddr m) l.length).storeChecked (bufView m) (bufAddr m) l []
        ∃ t, exec (.logRead src) s = .next t ∧ t = (u.1.forgetRead src).answerMsg src 0
          (natLe 4 l.length ++ natLe 4 (max off s.log.content.length) ++ natLe 4 s.log.content.length ++
            natLe 4 u.1.log.lost.toNat ++ natLe 4 0))) ∧
    (∀ region : Fin 20,
      (s.stage = .stage3 → s.crown.running = true → s.sram.daily = region.val → ∃ t, exec (.dailyTransparentMarch region) s = .next t ∧
        t.sram.daily = (region.val + 1) % 20 ∧
        ∀ i < 128, (s.tile (128 * region.val + i)).fenced = false → t.marchRuns 0 (s.siteOf (128 * region.val + i)) = true) ∧
      (s.sram.daily ≠ region.val → ∃ t, exec (.dailyTransparentMarch region) s = .next t ∧ t = s)) ∧
    (∀ (k : SramKind) (inst : Nat) (cells : List FailCell) (corr : List Nat) (ok : Bool),
      (s.marchRuns (sramRow k) inst = false → ∃ t, exec (.marchEnd k inst cells corr ok) s = .next t ∧ t = s) ∧
      (∀ x, s.sram.marches.find? (fun j => j.mem == sramRow k && j.inst == inst) = some x →
        let left := s.sram.marches.erase x
        let met (c : FailCell) : Prop := cellExists k inst c = true ∧ s.sram.covers k inst c = false
        (s.mayEnd x = false → ∃ t, exec (.marchEnd k inst cells corr ok) s = .next t ∧ t = s) ∧
        (s.mayEnd x = true → x.zero = true → ∃ t, exec (.marchEnd k inst cells corr ok) s = .next t ∧ t.sram.bad = s.sram.bad ∧
          (s.notZero inst cells = true → t.crown.secureBad = true ∧ t.crown.unwrapped = false) ∧
          (s.notZero inst cells = false → s.crown.running = false → t = { s with sram := { s.sram with marches := left } }) ∧
          (s.notZero inst cells = false → s.crown.running = true → s.crown.asked = [] → s.svc.test = none → t = { s with
            sram := { s.sram with marches := left }
            crown := { s.crown with
              derived := !s.crown.secureBad
              unwrapped := s.crown.identity && !s.crown.secureBad && s.crown.life != .blank && s.crown.life != .retired } })) ∧
        (s.mayEnd x = true → x.zero = false → ∃ t, exec (.marchEnd k inst cells corr ok) s = .next t ∧ t.sram.marches = left ∧
          (cells = [] → x.transparent = true → t.sram.spares = s.sram.spares ∧ t.sram.bad = s.sram.bad) ∧
          (cells = [] → x.transparent = false → sramRow k * 4096 + inst ∉ t.sram.bad ∧
            ∀ p ∈ t.sram.spares, p.mem = sramRow k → p.inst = inst → p.waiting = false) ∧
          (∀ w, cells = [] → corr = [w] → x.transparent = true →
            (k ≠ .scratchpad → find 0 t.sram.ce (sramRow k * 4096 + inst) = find 0 s.sram.ce (sramRow k * 4096 + inst) + 1) ∧
            (k = .scratchpad → ∀ n, s.siteUse inst = .tile n → t.tile n = (s.padCorrect n (w % 32768)).tile n)) ∧
          (∀ c, cells = [c] → cellFound c x.transparent = false ∨ cellExists k inst c = false ∨ s.sram.covers k inst c = true → x.transparent = true →
            t.sram.spares = s.sram.spares ∧ t.sram.bad = s.sram.bad) ∧
          (∀ c, cells = [c] → met c → cellFound c x.transparent = true → c.spare = false →
            (k ∈ [.icache, .berux, .collective, .crown, .log, .secure] → ∀ n rest,
              (s.findCells k inst cells x.transparent).1.sram.freeSlots k inst c.bank true = n :: rest →
              { mem := sramRow k, inst := inst, bank := c.bank, isRow := true, index := c.row, slot := n, waiting := x.transparent } ∈ t.sram.spares) ∧
            (k ∈ [.registers, .queue, .loop] → sramRow k * 4096 + inst ∈ t.sram.bad)) ∧
          (∀ c, cells = [c] → met c → cellFound c false = true → c.spare = true → x.transparent = false →
            (sramRow k, inst, c.bank, c.row) ∈ t.sram.badSpares ∧
            ∀ p ∈ t.sram.spares, p.mem = sramRow k → p.inst = inst → p.bank = c.bank → p.isRow = true → p.slot ≠ c.row) ∧
          (∀ n, sramRow k < 3 → x.transparent = false → s.siteUse inst = .tile n → cells = [] → ok = true →
            (∀ j ∈ left, j.inst = inst → j.mem < 3 → j.transparent = true) →
            (t.tile n).pad = [] ∧ (t.tile n).marching = false ∧ (t.tile n).fenced = ((s.tile n).retireCause != 0))))) ∧
    (∀ (c : FailCell), ((∃ v, c.defect = .stuck v) ∨ c.defect = .noRise ∨ c.defect = .noFall → cellFound c false = true) ∧
      (∀ spare row col, rowPlace spare row ≠ rowPlace c.spare c.row →
        c.defect = .decoder spare row ∨ c.defect = .coupled spare row col → cellFound c false = true) ∧
      (c.spare = true → cellFound c true = false) ∧ (c.spare = false → (∃ v, c.defect = .stuck v) → cellFound c true = true))

/-- R418, R504–R507, R514–R517: a Zejor frame counts as heard from its manager and is answered where it names the module alone, a share is taken from a
manager in legacy mode only, and a bad frame is discarded and counted; an SPDM exchange goes by version, capabilities and algorithms, answers an error out
of its order, after a reset and without an identity, and gives digests, certificates, challenge and measurements; a request that comes during a wipe waits for
its end.
The model's choices, which no rule of the spec states: the bytes of the responses and the order in which a request is checked (log 93, PRESUMED), the bytes
that are nowhere stated (log 12, DESIGN CHOICE), that a lost wrapped key counts as no identity (log 108, DEDUCED), and that of the requests CHALLENGE alone
meets an error of the secure region (log 212, DEDUCED). -/
def Obligations.ManagersAndAttestationAreAnswered : Prop :=
  ∀ (s : State),
    (s.crown.running = true → ∀ (bus : Fn) (dst sender : BitVec 8),
      let heard := s.hearFrame bus sender
      let own := s.start.slotId.setWidth 8
      let answer (cmd : BitVec 8) (l : List Byte) : State := heard.emit (.zejor bus (zejorFrame sender dst (cmd + 0x80) l))
      (sender = 0x7E → heard.budget.heard[0] = s.clk.us ∧ heard.budget.lost[0] = false) ∧
      (sender = 0x7F → heard.budget.heard[1] = s.clk.us ∧ heard.budget.lost[1] = false) ∧
      (sender = own → heard.crown.zjDup = true ∧ (heard.reg .A crnErr).getLsbD 4 = true) ∧
      (dst ≠ own → ∀ c ∈ [Instr.zejorIdent bus dst sender, .zejorPoll bus dst sender, .zejorUnlistedCommand bus dst sender 0x44],
        ∃ t, exec c s = .next t ∧ t = heard) ∧
      (dst = own →
        (∃ t, exec (.zejorIdent bus dst sender) s = .next t ∧ t = answer 0x01
          (([0, 0x43, 0x48, 0x4D, 0x2D, 0x34, 0x30, 0x32, 0x30] : List Byte) ++ natLe 8 Config.serial.toNat ++ [2])) ∧
        (∃ t, exec (.zejorPoll bus dst sender) s = .next t ∧ t = answer 0x02 (([0] : List Byte) ++ heard.pollBody)) ∧
        (∀ cmd, cmd ∉ [1, 2, 3] → ∃ t, exec (.zejorUnlistedCommand bus dst sender cmd) s = .next t ∧ t = answer cmd [1])) ∧
      (∀ (share : BitVec 16) (smooth : BitVec 8),
        (dst = own → s.legacy = false → ∃ t, exec (.zejorShare bus dst sender share smooth) s = .next t ∧ t = answer 0x03 [3]) ∧
        (dst = own → s.legacy = true → (sender ≠ 0x7E ∧ sender ≠ 0x7F) ∨ share < 50 ∨ 500 < share ∨ 2 < smooth →
          ∃ t, exec (.zejorShare bus dst sender share smooth) s = .next t ∧ t = answer 0x03 [2]) ∧
        (dst = own ∨ dst = 0xFF → s.legacy = true → sender = 0x7E ∨ sender = 0x7F → 50 ≤ share → share ≤ 500 → smooth ≤ 2 → s.stage = .stage3 →
          s.budget.hold = false → ∃ t, exec (.zejorShare bus dst sender share smooth) s = .next t ∧ t.budget.share = 10 * share.toNat ∧
            t.budget.smooth = smooth.toNat ∧ t.budget.source = (if sender = 0x7E then 2 else 3))) ∧
      (∃ t, exec (.zejorBadFrame bus) s = .next t ∧ t = { s with crown := { s.crown with
        zjErr := s.crown.zjErr.set (fnIdx bus) (min 255 (s.crown.zjErr[fnIdx bus] + 1)) } })) ∧
    (∀ fn, s.doeServes fn = true →
      let x := s.crown.spdm[fnIdx fn]
      let put (y : SpdmState) : State := { s with crown := { s.crown with spdm := s.crown.spdm.set (fnIdx fn) y } }
      let sent (t : State) (l : List Byte) : Prop := t.out = s.out ++ [Output.spdm fn l]
      let tells (t : State) (l : List Byte) : Prop := t = s.emit (.spdm fn l)
      (∀ (slot : BitVec 4) (off len : BitVec 16) (index : BitVec 8) (b : Bool) (n : BitVec 256) (a h : BitVec 32) (e : SramErr), s.wiping = true →
        ∀ c ∈ [(Instr.getVersion fn, SpdmRequest.version), (.getCapabilities fn, .capabilities), (.negotiateAlgorithms fn a h, .algorithms a h),
            (.getDigests fn, .digests), (.getCertificate fn slot off len, .certificate slot off len), (.challenge fn slot n e, .challenge slot e),
            (.getMeasurements fn index b n, .measurements index b), (.spdmUnsupportedRequest fn 0x66, .other 0x66)],
          ∃ t, exec c.1 s = .next t ∧ t = { s with crown := { s.crown with asked := s.crown.asked ++ [(fn, c.2)] } }) ∧
      (s.wiping = false → ∃ t, exec (.getVersion fn) s = .next t ∧ t = (put .version).emit (.spdm fn [0x10, 0x04, 0, 0, 0, 1, 0x00, 0x12])) ∧
      (∀ (slot : BitVec 4) (off len : BitVec 16) (index : BitVec 8) (b : Bool) (n : BitVec 256) (a h : BitVec 32) (e : SramErr), s.wiping = false →
        let rest : List Instr := [.negotiateAlgorithms fn a h, .getDigests fn, .getCertificate fn slot off len, .challenge fn slot n e,
          .getMeasurements fn index b n]
        (x = .resynch → ∀ c ∈ [Instr.getCapabilities fn, .spdmUnsupportedRequest fn 0x66] ++ rest, ∃ t, exec c s = .next t ∧ tells t [0x12, 0x7F, 0x43, 0]) ∧
        (x = .start → ∃ t, exec (.getCapabilities fn) s = .next t ∧ tells t [0x12, 0x7F, 0x04, 0]) ∧
        (x = .start → s.noIdentity = false → ∀ c ∈ rest, ∃ t, exec c s = .next t ∧ tells t [0x12, 0x7F, 0x04, 0]) ∧
        (x ≠ .resynch → s.noIdentity = true → ∀ c ∈ [Instr.spdmUnsupportedRequest fn 0x66] ++ rest,
          ∃ t, exec c s = .next t ∧ tells t [0x12, 0x7F, 0x05, 0]) ∧
        (x = .capabilities ∨ x = .algorithms → s.noIdentity = true → ∃ t, exec (.getCapabilities fn) s = .next t ∧ tells t [0x12, 0x7F, 0x05, 0]) ∧
        (x = .version → ∃ t, exec (.getCapabilities fn) s = .next t ∧ t.crown = (put .capabilities).crown ∧
          ∃ l, l.length = 8 ∧ sent t (([0x12, 0x61, 0, 0, 0, 20, 0, 0, 0x16, 0, 0, 0] : List Byte) ++ l)) ∧
        (x = .capabilities → s.noIdentity = false → ∃ t, exec (.negotiateAlgorithms fn a h) s = .next t ∧ t.crown = (put .algorithms).crown ∧
          ∃ k ∈ [0, 4, 8], (k = 4 → a.getLsbD 2 = true) ∧ (k = 8 → a.getLsbD 3 = true) ∧ (k = 0 → a.getLsbD 2 = false ∧ a.getLsbD 3 = false) ∧
            sent t (([0x12, 0x63, 0, 0, 36, 0, 1, 0, 2, 0, 0, 0] : List Byte) ++ natLe 4 k ++ natLe 4 (if h.getLsbD 0 then 1 else 0) ++
              List.replicate 16 0)) ∧
        (x = .algorithms → s.noIdentity = false →
          (∃ t, exec (.getDigests fn) s = .next t ∧ tells t (([0x12, 0x01, 0, 1] : List Byte) ++ sha256 s.chain)) ∧
          (slot ≠ 0 ∨ s.chain.length ≤ off.toNat → ∃ t, exec (.getCertificate fn slot off len) s = .next t ∧ tells t [0x12, 0x7F, 0x01, 0]) ∧
          (slot = 0 → off.toNat < s.chain.length → ∃ t, exec (.getCertificate fn slot off len) s = .next t ∧
            let part := (s.chain.drop off.toNat).take len.toNat
            tells t (([0x12, 0x02, 0, 0] : List Byte) ++ natLe 2 part.length ++ natLe 2 (s.chain.length - off.toNat - part.length) ++ part)) ∧
          (slot ≠ 0 → ∃ t, exec (.challenge fn slot n e) s = .next t ∧ tells t [0x12, 0x7F, 0x01, 0]) ∧
          (slot = 0 → fatalSram e = true → ∃ t, exec (.challenge fn slot n e) s = .next t ∧ t.crown.running = false ∧ t.crown.unwrapped = false ∧
            t.wiping = true) ∧
          (slot = 0 → fatalSram e = false → ∃ t, exec (.challenge fn slot n e) s = .next t ∧ t.crown = s.crown ∧
            ∃ l, l.length = 418 ∧ sent t (([0x12, 0x03, 0, 1] : List Byte) ++ sha256 s.chain ++ l)) ∧
          (6 < index.toNat → index ≠ 255 → ∃ t, exec (.getMeasurements fn index b n) s = .next t ∧ tells t [0x12, 0x7F, 0x01, 0]) ∧
          (index.toNat ≤ 6 ∨ index = 255 → ∃ t, exec (.getMeasurements fn index b n) s = .next t ∧ t.crown = s.crown ∧
            let which := if index = 0 then [] else if index = 255 then [1, 2, 3, 4, 5, 6] else [index.toNat]
            let blocks := which.flatMap s.block
            ∃ l, l.length = (if b then 418 else 34) ∧ sent t (([0x12, 0x60, if index = 0 then 6 else 0, 0] : List Byte) ++
              natLe 1 which.length ++ natLe 3 blocks.length ++ blocks ++ l)))) ∧
      (∀ code : BitVec 8, code.toNat ∉ [0x81, 0x82, 0x83, 0x84, 0xE0, 0xE1, 0xE3] → x ≠ .resynch → s.noIdentity = false → s.wiping = false →
        ∃ t, exec (.spdmUnsupportedRequest fn code) s = .next t ∧ tells t [0x12, 0x7F, 0x07, code]))

/-- R345, R403, R486, R488, R490, R511, R532, R549–R557, R560, R563, R564, R567, R568: the console takes one command at a time, of a class that the life-cycle
state allows and while what serves it runs, and replies to each; an argument that is missing or out of range is an error; every command of a class that
changes the module is counted; and each listed command of reading, rates, nonces, phases, marches, tiles, release, drain and recovery has its effect: lines
are printed one after another, and an image is received block by block, checked, programmed and booted.
The model's choices, which no rule of the spec states: the lines' words (log 96, DESIGN CHOICE), the echo and the prompt (log 114, DESIGN CHOICE), the pace of
lines and blocks and XMODEM's framing (log 213, DESIGN CHOICE), which refused commands count as changes (log 115, DEDUCED), what waits for a brownout
warning (log 116, DEDUCED), the stage that a march needs (log 118, DEDUCED), and how a phase is taken out (log 205, DESIGN CHOICE). -/
def Obligations.ConsoleCommandsAreAnswered : Prop :=
  ∀ (s : State),
    let h (line : String) : State := s.hears (ascii line)
    let table : List (Instr × String × CmdClass × Bool) :=
      [(.restart .console, "restart", .s, false), (.reenter .console, "reenter", .s, false),
       (.rearm .console 1, "rearm vcore0", .s, false), (.endService .console, "end service", .s, false),
       (.baud (some 115200), "baud 115200", .r, true), (.nonce, "nonce", .r, false), (.ackConfig .console, "ack config", .t, false),
       (.testTile (some 0), "test tile 0", .s, false), (.testStack (some 0), "test stack 0", .t, false), (.testLink (some 0), "test link 0", .t, false),
       (.testRail (some 0) 750, "test rail vcore0", .t, false), (.testPhase (some 0) (some 0) 0 0, "test phase 0 0", .s, false),
       (.testCell, "test cell", .t, false), (.testBalance, "test balance", .t, false), (.testLog, "test log", .t, false),
       (.testLoop (some 0) (some .step) (some 100), "test loop 0 step 100", .s, false), (.testTrip none, "test trip", .s, true),
       (.testTripSwitches 7, "test trip switches", .s, true), (.testTripCrowbar 0, "test trip crowbar", .s, true),
       (.phaseOff (some 0) (some 0), "phase off 0 0", .s, false), (.phaseOn (some 0) (some 0), "phase on 0 0", .s, false),
       (.march (some .log) (some 0), "march log 0", .s, false), (.marchSecure, "march secure", .s, false),
       (.retireTile (some 0), "retire tile 0", .s, false), (.release, "release", .s, true), (.drain, "drain", .a, true),
       (.recover [], "recover", .r, true)]
    let wrong : List (Instr × String × CmdClass × Bool) :=
      [(.baud none, "baud", .r, true), (.baud (some 9600), "baud 9600", .r, true), (.testTile none, "test tile", .s, false),
       (.testTile (some 4096), "test tile 4096", .s, false), (.testStack none, "test stack", .t, false), (.testStack (some 20), "test stack 20", .t, false),
       (.testLink none, "test link", .t, false), (.testLink (some 20), "test link 20", .t, false), (.testRail none 0, "test rail", .t, false),
       (.testPhase (some 4) (some 0) 0 0, "test phase 4 0", .s, false), (.testPhase (some 0) none 0 0, "test phase 0", .s, false),
       (.testLoop (some 4) (some .step) (some 1), "test loop 4 step 1", .s, false), (.testLoop (some 0) none none, "test loop 0", .s, false),
       (.testTrip (some 33), "test trip 33", .s, true), (.phaseOff (some 0) (some 26), "phase off 0 26", .s, false),
       (.phaseOn none none, "phase on", .s, false), (.march none none, "march", .s, false), (.march (some .icache) none, "march icache", .s, false),
       (.retireTile none, "retire tile", .s, false)]
    (∀ e ∈ wrong, s.atConsole e.2.2.1 e.2.2.2 → ∃ t, exec e.1 s = .next t ∧ t = (h e.2.1).reply 2) ∧
    (∀ e ∈ table,
      (s.svc.ready = false → ∃ t, exec e.1 s = .next t ∧ t = s) ∧
      (s.svc.ready = true → s.svc.test.isSome = true → ∃ t, exec e.1 s = .next t ∧ t = s.heardByte) ∧
      (s.svc.ready = true → s.svc.test = none →
        (e.2.2.2 = false → s.crown.running = false → ∃ t, exec e.1 s = .next t ∧
          t = (h e.2.1).reply (if s.memBad .crown ∨ s.memBad .log then 6 else 8)) ∧
        (e.2.2.2 = true ∨ s.crown.running = true → classAllows e.2.2.1 s.crown.life = false → ∃ t, exec e.1 s = .next t ∧ t = (h e.2.1).reply 4))) ∧
    (s.stage ≠ .unpowered → ∃ t, exec .serialBreak s = .next t ∧ t = { s with svc := { s.svc with baud := 0 } }) ∧
    (∀ (line : String) (c : CmdClass), let u := s.onLine line c
      u.out.take (s.out.length + 1) = s.out ++ [.console (ascii line)] ∧ (u.svc.changes = if c = .s ∨ c = .a then min 65535 (s.svc.changes + 1) else s.svc.changes) ∧
      ((c = .s ∨ c = .a) → (u.reg .A svcErr).getLsbD 1 = true)) ∧
    (s.svc.ready = true → s.svc.test = none →
      (∀ l, ∃ t, exec (.consoleUnknownCommand l) s = .next t ∧ t = (s.hears l).reply 1) ∧
      (∀ part : StatusPart, let h := s.hears (ascii ("status" ++ partText part))
        let byHwd : Bool := decide (part = .hwd ∨ part = .rails)
        (s.crown.running = true ∨ s.crown.rom = true ∨ byHwd = true → ∃ t, exec (.status part) s = .next t ∧
          t = { h with svc := { h.svc with test := some (.print 0 byHwd ((h.statusLines part).map ascii) 0) } }) ∧
        (s.crown.running = false → s.crown.rom = false → byHwd = false → ∃ t, exec (.status part) s = .next t ∧
          t = h.reply (if s.memBad .crown ∨ s.memBad .log then 6 else 8))) ∧
      (∀ arg : Arg, s.crown.running = true → let h := s.hears (ascii ("log dump" ++ argText arg))
        let off := arg.getD 0
        (off % 8 ≠ 0 ∨ logSize < off → ∃ t, exec (.logDump arg) s = .next t ∧ t = h.reply 2) ∧
        (off % 8 = 0 → off ≤ logSize → s.log.mode = .clearing → ∃ t, exec (.logDump arg) s = .next t ∧ t = h.reply 5) ∧
        (off % 8 = 0 → off ≤ logSize → s.log.mode ≠ .clearing → ∃ t, exec (.logDump arg) s = .next t ∧
          let u := h.flushLog true
          t = { u with svc := { u.svc with test := some (.print 0 false ((u.dump off).map ascii) 0) } }))) ∧
    (s.idle →
      (∀ code byHwd l rest err, s.svc.test = some (.print code byHwd (l :: rest) err) → ∃ t, step s = .next t ∧ .console l ∈ t.out ∧
        t.svc = { s.svc with test := some (.print code byHwd rest err) }) ∧
      (∀ code byHwd err, s.svc.test = some (.print code byHwd [] err) → ∃ t, step s = .next t ∧ .console (ascii (errText err)) ∈ t.out ∧
        t.svc.test = none) ∧
      (∀ (b : List Byte × BitVec 16) (rest : List (List Byte × BitVec 16)) (got : List Byte), s.svc.test = some (.recover (b :: rest) got) → ∃ t, step s = .next t ∧
        t.svc.test = some (.recover rest (if b.1.length = 1024 ∧ crc16 0 b.1 = b.2 then got ++ b.1 else got))) ∧
      (∀ got, s.svc.test = some (.recover [] got) →
        (s.hwd.brownout = true → ∃ t, step s = .next t ∧ t.svc = s.svc ∧ t.crown.slots = s.crown.slots) ∧
        (s.hwd.brownout = false → imagePasses got s.crown.fused = true → ∃ t, step s = .next t ∧ t.svc.test = none ∧
          t.crown.slots = s.crown.slots.set 0 (some (slotImage got)) ∧ t.crown.active = 0 ∧ t.crown.slot = 0 ∧ t.crown.rom = false ∧ t.crown.trial = false) ∧
        (s.hwd.brownout = false → imagePasses got s.crown.fused = false → ∃ t, step s = .next t ∧ t.svc.test = none ∧
          .console (ascii "err 6 failed") ∈ t.out ∧ t.crown.slots = s.crown.slots))) ∧
    (s.atConsole .r true →
      (∀ e ∈ [(115200, 0), (230400, 1), (460800, 2), (921600, 3)], ∃ t, exec (.baud (some e.1)) s = .next t ∧
        let u := h ("baud " ++ decText e.1)
        t = { u.reply 0 with svc := { u.svc with baud := e.2 } }) ∧
      (∀ rate, rate ∉ [115200, 230400, 460800, 921600] → ∃ t, exec (.baud (some rate)) s = .next t ∧ t = (h ("baud " ++ decText rate)).reply 2) ∧
      (∀ blocks, let u := h "recover"
        (s.crown.rom = false → ∃ t, exec (.recover blocks) s = .next t ∧
          t = u.reply (if s.crown.running then 3 else if s.memBad .crown ∨ s.memBad .log then 6 else 8)) ∧
        (s.crown.rom = true → ∃ t, exec (.recover blocks) s = .next t ∧ t = { u with svc := { u.svc with test := some (.recover blocks []) } }))) ∧
    (s.atConsole .r false → ∃ t, exec .nonce s = .next t ∧ t.crown = { s.crown with nonces := s.crown.nonces.set 2 (some s.fresh) } ∧
      ∃ l : List Byte, t.out = s.out ++ [.console (ascii "nonce"), .console l, .console (ascii "ok"), .console (ascii "kx> ")]) ∧
    (s.atConsole .t false → ∃ t, exec (.ackConfig .console) s = .next t ∧ let u := h "ack config"
      t = ({ u with crown := { u.crown with lost := false } } : State).reply 0) ∧
    (∀ m, s.reaches (srcFn m) = true → s.crown.running = true → ∃ t, exec (.ackConfig (.msg m)) s = .next t ∧
      t = { s with crown := { s.crown with lost := false } }) ∧
    (s.atConsole .a true → ∃ t, exec .drain s = .next t ∧ let u := s.onLine "drain" .a
      t.svc.changes = u.svc.changes ∧
      (s.sap.state ∉ [.draining, .drained] → t.sap.state = .draining ∧
        t.sap.drain = some { fromLocked := decide (s.sap.state = .lockedOut), lockArose := false, returning := u.drainReturns, watts := 0, slope := 0 } ∧
        (u.drainReturns = false → t.hwd.swA = false ∧ t.hwd.swB = false ∧ t.sap.bleed = true)) ∧
      (s.sap.state ∈ [.draining, .drained] → t = u.reply 0)) ∧
    (s.atConsole .s true → (s.atHold = true → ∃ t, exec .release s = .next t ∧ let u := s.onLine "release" .s
        t = ({ u with svc := { u.svc with held := false } } : State).reply 0) ∧
      (s.atHold = false → ∃ t, exec .release s = .next t ∧ t = (h "release").reply 3)) ∧
    (s.atConsole .s false →
      (∀ (d : Fin 4) (n : Fin 26), let x := s.power.rails[coreRail d]
        (x.working.getLsbD n = true → x.state ≠ .softStart → 12 < x.count → s.stage ≠ .stage3 → ∃ t, exec (.phaseOff (some d.val) (some n.val)) s = .next t ∧
          t.power.rails = s.power.rails.set (coreRail d) { x with
            working := x.working &&& ~~~(1#32 <<< n.val), taken := x.taken ||| (1#32 <<< n.val)
            leaving := if x.state = .on then x.leaving ||| (1#32 <<< n.val &&& x.switching (coreRail d)) else x.leaving }) ∧
        (x.working.getLsbD n = false ∨ x.state = .softStart → ∃ t, exec (.phaseOff (some d.val) (some n.val)) s = .next t ∧ t = (h (phaseLine "off" (some d.val) (some n.val))).reply 3) ∧
        (x.taken.getLsbD n = true → ∃ t, exec (.phaseOn (some d.val) (some n.val)) s = .next t ∧ t.power.rails = s.power.rails.set (coreRail d)
          { x with taken := x.taken &&& ~~~(1#32 <<< n.val), leaving := x.leaving &&& ~~~(1#32 <<< n.val)
                   working := if (x.state = .on ∨ x.state = .softStart) ∧ x.failed.getLsbD n = false then x.working ||| (1#32 <<< n.val) else x.working }) ∧
        (x.taken.getLsbD n = false → ∃ t, exec (.phaseOn (some d.val) (some n.val)) s = .next t ∧ t = (h (phaseLine "on" (some d.val) (some n.val))).reply 3)) ∧
      (∀ (k : SramKind) (i : Nat), let line := "march " ++ sramText k ++ " " ++ decText i
        (k = .secure ∨ sramCount k ≤ i → ∃ t, exec (.march (some k) (some i)) s = .next t ∧ t = (h line).reply 2) ∧
        (k ≠ .secure → i < sramCount k → s.stage = .stage3 → s.marchRuns (sramRow k) i = false → ∃ t, exec (.march (some k) (some i)) s = .next t ∧ let u := s.onLine line .s
          t = { u with sram := { u.sram with marches := u.sram.marches ++ [{ mem := sramRow k, inst := i, transparent := true }] }
                       svc := { u.svc with test := some (.march (sramRow k) i) } }) ∧
        (k ≠ .secure → sramCount k = 1 → s.stage = .stage3 → s.marchRuns (sramRow k) 0 = false → ∃ t, exec (.march (some k) none) s = .next t ∧
          t.svc.test = some (.march (sramRow k) 0) ∧ t.marchRuns (sramRow k) 0 = true)) ∧
      (∃ t, exec .marchSecure s = .next t ∧ t.crown.nonces = Vector.replicate 3 none ∧ t.crown.spdm = Vector.replicate 2 .resynch ∧
        t.crown.unwrapped = false ∧ t.crown.derived = false ∧ t.crown.checking = [] ∧ t.svc.test = some .secure ∧
        { mem := 9, inst := 0, transparent := false, zero := true } ∈ t.sram.marches) ∧
      (∀ (t0 : BitVec 12), let c : Instr := .retireTile (some t0.toNat)
        (tileOfIdent t0.toNat = none → ∃ t, exec c s = .next t ∧ t = (h ("retire tile " ++ decText t0.toNat)).reply 2) ∧
        (∀ n, tileOfIdent t0.toNat = some n → ∃ t, exec c s = .next t ∧ (t.tile n).retireCause ≠ 0)))

/-- R268, R343, R395, R396, R527, R552, R558, R559, R561, R562, R567: a field test starts where its conditions hold and replies otherwise; a tile under test is
fenced and marched, a link's counters are noted and judged 10 s later, rails and phases are measured, the store's and the log's tests run, the loop test
injects into its slot, each trip code is tried in three steps against its filter time, and an abort byte stops what can be stopped: between the codes of
`test trip`, with the phase of `test phase` added back, and at once where the model gives a command no other safe point.
The model's choices, which no rule of the spec states: the words that name what was measured (log 96, DESIGN CHOICE), when lines print and which safe points
there are (log 213, DESIGN CHOICE), which samples judge a loop test (log 112, DESIGN CHOICE), and the echo (log 114, DESIGN CHOICE). -/
def Obligations.FieldTestsRunAndEnd : Prop :=
  ∀ (s : State),
    let h (line : String) : State := s.hears (ascii line)
    let testing (u : State) (x : RunTest) : State := { u with svc := { u.svc with test := some x } }
    (s.atConsole .s false →
      (∀ t0 : BitVec 12, let line := "test tile " ++ decText t0.toNat
        let c : Instr := .testTile (some t0.toNat)
        (tileOfIdent t0.toNat = none → ∃ t, exec c s = .next t ∧ t = (h line).reply 2) ∧
        (∀ n, tileOfIdent t0.toNat = some n →
          (s.stage ≠ .stage3 → ∃ t, exec c s = .next t ∧ t = (h line).reply 3) ∧
          (s.stage = .stage3 → s.tileBusy n = true → ∃ t, exec c s = .next t ∧ t = (h line).reply 5) ∧
          (s.stage = .stage3 → s.tileBusy n = false → ∃ t, exec c s = .next t ∧ t.svc.test = some (.tile n) ∧
            (∀ k < 3, { mem := k, inst := s.siteOf n, transparent := false } ∈ t.sram.marches) ∧
            (s.inLaunch n = true → t.tile n = { s.tile n with marchDue := true }) ∧
            (s.inLaunch n = false → t.tile n = { s.tile n with marching := true, fenced := true })))) ∧
      (∀ (d : Fin 4) (n : Fin 26) (amps mean : Int), let line := "test phase " ++ decText d.val ++ " " ++ decText n.val
        let c : Instr := .testPhase (some d.val) (some n.val) amps mean
        let x := s.power.rails[coreRail d]
        (s.stage = .stage3 → x.working.getLsbD n = true → ∃ t, exec c s = .next t ∧
          t = testing ((s.onLine line .s).setRail (coreRail d) { x with
            shed := 0, shedTo := none, working := x.working &&& ~~~(1#32 <<< n.val), leaving := x.leaving ||| (1#32 <<< n.val) })
            (.phase d n amps mean s.clk.us)) ∧
        (s.stage ≠ .stage3 ∨ x.working.getLsbD n = false → ∃ t, exec c s = .next t ∧ t = (h line).reply 3)) ∧
      (∀ (n : Fin 4) (wave : Waveform) (amp : Int), let line := "test loop " ++ decText n.val ++ " " ++ waveText wave ++ " " ++ intText amp
        let c : Instr := .testLoop (some n.val) (some wave) (some amp)
        let ready : Prop := s.stage = .stage3 ∧ s.le.ok = true ∧ s.le.slots[n].mode = .auto ∧ s.sap.state = .connected
        let inj : Injection := { slot := n, point := .output, wave := wave, amp := bfp amp, duration := 4096 }
        (injListed s.le.slots[n].values inj = false → ∃ t, exec c s = .next t ∧ t = (h line).reply 2) ∧
        (injListed s.le.slots[n].values inj = true → ¬ ready → ∃ t, exec c s = .next t ∧ t = (h line).reply 3) ∧
        (injListed s.le.slots[n].values inj = true → ready → s.le.injection.isSome = true → ∃ t, exec c s = .next t ∧ t = (h line).reply 5) ∧
        (injListed s.le.slots[n].values inj = true → ready → s.le.injection = none → ∃ t, exec c s = .next t ∧
          t.le.phase = .test ∧ t.svc.test = some (.loop n (decide (n = 0 ∧ wave = .step))) ∧ t.le.injection.isSome = true ∧
          { t with le := s.le, svc := s.svc } = { s.onLine line .s with svc := s.svc }))) ∧
    (s.idle → ∀ (d : Fin 4) (n : Fin 26) (amps mean : Int) (since : Nat), s.svc.test = some (.phase d n amps mean since) →
      let x := s.power.rails[coreRail d]
      (s.clk.us + 1 < since + 1000 → ∃ t, step s = .next t ∧ t.svc = s.svc ∧ t.power = s.power) ∧
      (since + 1000 ≤ s.clk.us + 1 → s.clk.us + 1 < since + 1100 → x.state = .on → (x.failed ||| x.taken).getLsbD n = false →
        ∃ t, step s = .next t ∧ t.svc = s.svc ∧ t.power.rails[coreRail d] = { x with
          working := x.working ||| (1#32 <<< n.val), leaving := x.leaving &&& ~~~(1#32 <<< n.val) }) ∧
      (since + 1100 ≤ s.clk.us + 1 → ∃ t, step s = .next t ∧ t.svc.test = none ∧ t.power = s.power ∧
        .console (ascii (if x.working.getLsbD n = true ∧ -10 ≤ amps - mean ∧ amps - mean ≤ 10 then "ok" else "err 6 failed")) ∈ t.out)) ∧
    (s.atConsole .t false →
      (∀ st : Fin 20, let u := h ("test stack " ++ decText st.val)
        let c : Instr := .testStack (some st.val)
        (s.stage ≠ .stage3 → ∃ t, exec c s = .next t ∧ t = u.reply 3) ∧
        (s.stage = .stage3 → (∀ n ∈ s.mem.bad, sliceOf (64 * n) / 128 ≠ st.val) → ∃ t, exec c s = .next t ∧
          t = u.prints 2 false [(s.mem.failedSensors[st] == 0 && !s.mem.trunkHigh[st.val / 5], s.stackText st ++ " uncorrectable " ++ decText 0)])) ∧
      (∀ p : Fin 20, let x := s.ports[p]
        let u := h ("test link " ++ decText p.val)
        (x.state = .active → ∃ t, exec (.testLink (some p.val)) s = .next t ∧
          t = testing u (.link p x.fecUncorr x.crcErr x.fecCorr x.retrainCount false)) ∧
        (x.state ≠ .active → ∃ t, exec (.testLink (some p.val)) s = .next t ∧ t = u.reply 3)) ∧
      (∀ (r : Fin 11) (mv : Nat), let u := h ("test rail " ++ railName r)
        let c : Instr := .testRail (some r) mv
        (r = 10 → ∃ t, exec c s = .next t ∧ t = u.reply 2) ∧
        (r ≠ 10 → s.power.rails[r].enabled = false → ∃ t, exec c s = .next t ∧ t = u.reply 3) ∧
        (r ≠ 10 → s.power.rails[r].enabled = true → ∃ t, exec c s = .next t ∧
          t = u.prints 4 false [(decide (s.power.rails[r].state = .on ∧ mv ≤ s.railTarget r + 5 ∧ s.railTarget r ≤ mv + 5),
            s.power.rails[r].testText r mv)])) ∧
      (s.sap.awake = true → ∃ t, exec .testCell s = .next t ∧ let u := h "test cell"
        t = { testing u .cell with sap := { u.sap with checkNext := true } }) ∧
      (s.sap.awake = false → ∃ t, exec .testCell s = .next t ∧ t = (h "test cell").reply 3) ∧
      (s.sap.awake = true → s.sap.state ∉ [.draining, .lockedOut] → ∃ t, exec .testBalance s = .next t ∧ let u := h "test balance"
        t = { testing u .balance with sap := { u.sap with testDue := true } }) ∧
      (s.sap.awake = false ∨ s.sap.state ∈ [.draining, .lockedOut] → ∃ t, exec .testBalance s = .next t ∧ t = (h "test balance").reply 3) ∧
      (s.marchRuns 8 0 = true → ∃ t, exec .testLog s = .next t ∧ t = (h "test log").reply 5) ∧
      (s.marchRuns 8 0 = false → ∃ t, exec .testLog s = .next t ∧ let u := h "test log"
        t = { testing u .log with sram := { u.sram with marches := u.sram.marches ++ [{ mem := 8, inst := 0, transparent := true }] } })) ∧
    (∀ (p q : Fin 20) (uncorr crc corr : BitVec 64) (retrains : BitVec 32) (warned : Bool) (received : Nat),
      s.svc.test = some (.link q uncorr crc corr retrains warned) →
        (p ≠ q → ∃ t, exec (.testLinkEnd p received) s = .next t ∧ t = s) ∧
        (p = q → ∃ t, exec (.testLinkEnd p received) s = .next t ∧ t = ({ s with svc := { s.svc with test := none, abort := false } } : State).verdicts
          [(s.ports[p].fecUncorr == uncorr && s.ports[p].crcErr == crc && s.ports[p].retrainCount == retrains && !warned &&
            decide ((s.ports[p].fecCorr.toNat - corr.toNat) * 1000 < received), s.ports[p].linkText uncorr crc corr retrains received)])) ∧
    (s.atConsole .s true →
      (s.tripTestOk = false → ∀ c ∈ [(Instr.testTrip none, "test trip"), (.testTrip (some 0x01), "test trip 1"), (.testTripSwitches 7, "test trip switches"),
          (.testTripCrowbar 0, "test trip crowbar")], ∃ t, exec c.1 s = .next t ∧ t = (h c.2).reply 3) ∧
      (∀ c : Nat, c = 0 ∨ 0x20 < c → ∃ t, exec (.testTrip (some c)) s = .next t ∧ t = (h ("test trip" ++ (" " ++ decText c))).reply 2) ∧
      (s.tripTestOk = true →
        (∀ c : Nat, 0 < c → c ≤ 0x20 → let u := s.onLine ("test trip" ++ (" " ++ decText c)) .s
          (tripFilter c = none → ∃ t, exec (.testTrip (some c)) s = .next t ∧
            t = (({ u.say "n/a" with svc := { u.svc with test := none, abort := false } } : State).reply 0)) ∧
          ((tripFilter c).isSome = true → ∃ t, exec (.testTrip (some c)) s = .next t ∧ t = testing u (.trip [c] 0 true true))) ∧
        (∃ t, exec (.testTrip none) s = .next t ∧ t = testing (s.onLine "test trip" .s) (.trip ((List.range 32).map (fun k => k + 1)) 0 true true)) ∧
        (∀ b : BitVec 3, ∃ t, exec (.testTripSwitches b) s = .next t ∧ t.tripTesting = true ∧ t = (s.onLine "test trip switches" .s).prints 8 true
          [(b.getLsbD 0, " sw_a"), (b.getLsbD 1, " sw_b"), (b.getLsbD 2, " precharge")]) ∧
        (∀ b : BitVec 12, ∃ t, exec (.testTripCrowbar b) s = .next t ∧ t.tripTesting = true ∧
          t = (s.onLine "test trip crowbar" .s).prints 8 true (s.crowbarRails.map (fun r =>
            let k := if r = 9 then 5 else r.val
            (b.getLsbD (2 * k) && b.getLsbD (2 * k + 1), " " ++ railName r)))))) ∧
    (∀ (c : Nat) (rest : List Nat) (step : Nat) (good passed : Bool) (us f : Nat), s.svc.test = some (.trip (c :: rest) step good passed) →
      tripFilter c = some f →
        let right := good && decide (f ≤ us ∧ us ≤ f + 20)
        let part := partLine (right, " code " ++ decText c ++ " " ++ decText us ++ "us")
        (step < 2 → ∃ t, exec (.tripTestStepEnd us) s = .next t ∧ t = testing s (.trip (c :: rest) (step + 1) right passed)) ∧
        (2 ≤ step → s.svc.abort = true → ∃ t, exec (.tripTestStepEnd us) s = .next t ∧
          t = (({ s.say part with svc := { s.svc with test := none, abort := false } } : State).reply 7)) ∧
        (2 ≤ step → s.svc.abort = false → rest = [] → ∃ t, exec (.tripTestStepEnd us) s = .next t ∧
          t = (({ s.say part with svc := { s.svc with test := none, abort := false } } : State).reply (if passed && right then 0 else 6))) ∧
        (2 ≤ step → s.svc.abort = false → ∀ e l, rest = e :: l → (tripFilter e).isSome = true → ∃ t, exec (.tripTestStepEnd us) s = .next t ∧
          t = testing (s.say part) (.trip rest 0 true (passed && right)))) ∧
    (s.svc.ready = false → ∃ t, exec .abortByte s = .next t ∧ t = s) ∧
    (s.svc.ready = true →
      (s.svc.test = none → ∃ t, exec .abortByte s = .next t ∧ t = s.heardByte) ∧
      (∀ n, s.svc.test = some (.tile n) → ∃ t, exec .abortByte s = .next t ∧ t.svc.test = none ∧ (∀ k < 3, t.marchRuns k (s.siteOf n) = false) ∧
        ((s.tile n).marching = true → (t.tile n).pad = [] ∧ (t.tile n).fenced = ((s.tile n).retireCause != 0))) ∧
      (∀ m i, s.svc.test = some (.march m i) → ∃ t, exec .abortByte s = .next t ∧ t.svc.test = none ∧ t.marchRuns m i = false) ∧
      (s.svc.test = some .log → ∃ t, exec .abortByte s = .next t ∧ t.svc.test = none ∧ t.marchRuns 8 0 = false) ∧
      (∀ n b, s.svc.test = some (.loop n b) → ∃ t, exec .abortByte s = .next t ∧ t.svc.test = none ∧ t.le.phase = .service ∧ t.le.injection = none) ∧
      (∀ d n amps mean since, s.svc.test = some (.phase d n amps mean since) → ∃ t, exec .abortByte s = .next t ∧ t.svc.test = none ∧
        (s.power.rails[coreRail d].state = .on → (s.power.rails[coreRail d].failed ||| s.power.rails[coreRail d].taken).getLsbD n = false →
          t.power.rails[coreRail d].working = s.power.rails[coreRail d].working ||| (1#32 <<< n.val))) ∧
      (∀ l k good passed, s.svc.test = some (.trip l k good passed) → ∃ t, exec .abortByte s = .next t ∧
        let u := s.heardByte
        t = { u with svc := { u.svc with abort := true } }) ∧
      (∀ x, s.svc.test = some x → x ∈ [.cell, .balance, .secure] ∨ (∃ code b l err, x = .print code b l err) ∨ (∃ l got, x = .recover l got) ∨
          (∃ p a b c d w, x = .link p a b c d w) →
        ∃ t, exec .abortByte s = .next t ∧
          let u := s.heardByte
          t = (({ u with svc := { u.svc with test := none, abort := false } } : State).reply 7)) ∧
      (∀ x, s.svc.test = some x → x = .auth ∨ (∃ l p, x = .authWait l p) → ∃ t, exec .abortByte s = .next t ∧ t = s.heardByte))

/-- A step takes the command at the front of the queue and is that command's effect on the state with the queue's rest. -/
def Obligations.StepRunsTheFrontCommand : Prop :=
  ∀ (c : Instr) (s : State), step { s with pending := c :: s.pending } = exec c s

/-- On an empty queue one microsecond passes in a powered module, and nothing in an unpowered one: the model's choice (log 2, DESIGN CHOICE). The rates are
those of R471 and R482: REF counts 100 cycles, a locked die's time stamp 12,500, and the operating hours one unit in 100,000 microseconds. Where no BAR2
write, no ring's start or event and no console command waits for its turn, nothing else changes but that a vector 65 signal that is owed goes once 100 µs
have passed since the last one; outside Stage 3 the BAR2 writes that wait are discarded and logged. What such waiting work does within a microsecond is the
model's choice too (logs 184, 196 and 213, DESIGN CHOICE). -/
def Obligations.IdleStepIsOneMicrosecond : Prop :=
  ∀ (s : State), s.pending = [] → ∃ t, step s = .next t ∧ (s.stage = .unpowered → t = s) ∧
    (s.stage ≠ .unpowered → t.clk.us = s.clk.us + 1 ∧
      t.clk.refCount = (if s.clk.refOk then s.clk.refCount + 100 else s.clk.refCount) ∧
      (∀ d : Fin 4, t.clk.stamp[d] = if s.clk.pll[d] then s.clk.stamp[d] + 12500 else s.clk.stamp[d]) ∧
      (s.clk.hoursUs + 1 < 100000 → t.clk.hours = s.clk.hours ∧ t.clk.hoursUs = s.clk.hoursUs + 1) ∧
      (100000 ≤ s.clk.hoursUs + 1 → t.clk.hours = s.clk.hours + 1 ∧ t.clk.hoursUs = 0) ∧ t.pending = [] ∧
      (s.stage ≠ .stage3 → ∀ fn : Fn, t.host[fnIdx fn].writes = [] ∧ (s.host[fnIdx fn].writes ≠ [] → .aer fn ∈ t.out)) ∧
      (s.idle → (∀ x, s.svc.test = some x → (∀ code b l err, x ≠ .print code b l err) ∧ (∀ l got, x ≠ .recover l got) ∧
          ∀ d n amps mean since, x ≠ .phase d n amps mean since) →
        t.tiles = s.tiles ∧ t.mem = s.mem ∧ t.queues = s.queues ∧ t.ports = s.ports ∧ t.regs = s.regs ∧ t.svc = s.svc ∧
        (s.rings[0].owed = false → s.rings[1].owed = false → t.out = s.out ∧ t.rings = s.rings ∧ t.host = s.host) ∧
        (∀ (fn : Fn) (at_ : Nat), s.rings[fnIdx fn].owed = true → s.rings[fnIdx fn].signalled = some at_ →
          (s.clk.us + 1 < at_ + 100 → t.rings[fnIdx fn] = s.rings[fnIdx fn]) ∧
          (at_ + 100 ≤ s.clk.us + 1 → t.rings[fnIdx fn] = { s.rings[fnIdx fn] with signalled := some (s.clk.us + 1), owed := false } ∧
            (s.rings[1 - fnIdx fn].owed = false → t.out = (s.signal fn 65).out ∧ t.host = (s.signal fn 65).host)))))

/-- Right after reset no command waits, the module is unpowered and unsealed, every register reads its reset value, every queue is DISABLED and owned by
function A below number 32 and by B from there on, every port is DISABLED, every rail and die is off, the store is ISOLATED with its switches open, both
rings are stopped, the life cycle is BLANK, and every memory is in its canonical form. What the non-volatile memories of a new module hold is the model's
choice (log 7, DESIGN CHOICE), and that it is BLANK the model's reading of CRN_STATUS (log 73, DEDUCED). -/
def Obligations.ResetHoldsTheSpecsValues : Prop :=
  let s := State.reset
  s.pending = [] ∧ s.stage = .unpowered ∧ s.sealed = false ∧ (∀ fn off, s.reg fn off = regReset off) ∧
  (∀ q : Fin 64, s.queues[q].state = .disabled ∧ s.queues[q].owner = some (if q.val < 32 then .A else .B)) ∧
  (∀ p : Fin 20, s.ports[p].state = .disabled) ∧ (∀ r : Fin 11, s.power.rails[r].enabled = false ∧ s.power.rails[r].state = .off) ∧
  (∀ d : Fin 4, s.hwd.dieEn[d] = false ∧ s.clk.div[d] = 0) ∧ s.hwd.swA = false ∧ s.hwd.swB = false ∧ s.sap.state = .isolated ∧
  (∀ k : Fin 2, s.rings[k].mode = .stopped) ∧ s.crown.life = .blank ∧ s.crown.identity = false ∧ s.crown.owner = none ∧
  (∀ k, (s.tile k).pad = []) ∧ s.memoriesCanonical

/-- Every command completes, and none changes the queue of waiting commands: the model's choice, for the spec gives its block no queue. Where the spec leaves
a value open, that value is free (log 12, DESIGN CHOICE), and a command for an event that is not due leaves the state as it was (log 23, DESIGN CHOICE). -/
def Obligations.NoCommandTouchesTheQueue : Prop :=
  ∀ (c : Instr) (s : State), ∃ t, exec c s = .next t ∧ t.pending = s.pending

/-- Every step keeps device memory and the scratchpads in their canonical form: addresses rise, and no entry holds what an unlisted one reads as. -/
def Obligations.MemoriesStayCanonical : Prop :=
  ∀ (s t : State), s.memoriesCanonical → step s = .next t → t.memoriesCanonical

/-- R476, R488, R492, R513: over every step the fused counter of image versions and the count of tamper events never fall, and a sealed module stays sealed
until it is powered on again. -/
def Obligations.FusedCounterAndSealNeverFall : Prop :=
  ∀ (s t : State), step s = .next t → s.crown.fused ≤ t.crown.fused ∧ s.hwd.tampers ≤ t.hwd.tampers ∧
    (s.sealed = true → t.sealed = true ∨ (s.stage = .unpowered ∧ t.stage = .stage0))

/-- R85, R87: whenever every contribution after a clear has its q within 40 of the first one's and there are at most 2^20 of them, the accumulation is exact: S
stays clear and V × 2^A is the exact sum. The premises that |P| is below 2^25 and q_0 within ±2000 are the model's reading of R85 and of the operand formats
(log 159, DEDUCED); they keep the 12-bit anchor in range. -/
def Obligations.AccumulationIsExact : Prop :=
  ∀ (l : List (Int × Int)) (q0 : Int), l.length ≤ 2 ^ 20 → -2000 ≤ q0 → q0 ≤ 2000 → (∀ c, l.head? = some c → c.2 = q0) →
    (∀ c ∈ l, -2 ^ 25 < c.1 ∧ c.1 < 2 ^ 25 ∧ q0 - 40 ≤ c.2 ∧ c.2 ≤ q0 + 40) →
    let x := l.foldl (fun (x : AccElem) c => x.add c.1 c.2) AccElem.cleared
    x.sticky = false ∧ x.nan = false ∧ x.posInf = false ∧ x.negInf = false ∧
      ((x.v.toInt : ℚ) * (2 : ℚ) ^ x.a.toInt = (l.map (fun c => (c.1 : ℚ) * (2 : ℚ) ^ c.2)).sum)

/-- R14: a write to a sealed RWL register completes and leaves every register unchanged, and writes a locked-write record that carries the offset: the open
record of that register counts the repeat, and where none is open a new one is opened. -/
def Obligations.SealedRegistersIgnoreAndRecordWrites : Prop :=
  ∀ (s : State) (fn : Fn) (off : BitVec 20) (v : BitVec 64), s.reaches fn = true → s.sealed = true → isRwl off.toNat = true →
    v.toNat < 2 ^ 32 →
    let mine (r : LogRec) : Prop := r.typ = 0x0A ∧ r.subject = BitVec.ofNat 32 off.toNat
    let new : LogRec := { typ := 0x0A, cls := .warning, repeats := true, cycle := s.clk.cycles.setWidth 8, hours := s.clk.hours, count := 1, last := s.clk.hours, subject := BitVec.ofNat 32 off.toNat, detail := natLe 4 v.toNat }
    ((∃ r ∈ s.log.opened, mine r) → ∃ t, exec (.registerWrite fn off false v) s = .next t ∧ { t with log := s.log } = s ∧
      ∀ (i : Nat) (r : LogRec), s.log.opened[i]? = some r → mine r → t.log.opened[i]? = some { r with
        count := if r.count = BitVec.allOnes 32 then r.count else r.count + 1, last := s.clk.hours }) ∧
    ((∀ r ∈ s.log.opened, ¬ mine r) → s.log.takes new = true → ∃ t, exec (.registerWrite fn off false v) s = .next t ∧ { t with log := s.log } = s ∧
      t.log.opened.getLast? = some new)

/-- R119: a write that covers all 64 bytes of a transaction clears an uncorrectable error in that transaction, in whichever view it is made. -/
def Obligations.WholeTransactionWritesClearErrors : Prop :=
  ∀ (s : State) (view : BitVec 2) (a n : Nat) (bytes : List Byte),
    (∀ k < 64, ∃ i < bytes.length, translate view (a + i) = some (64 * n + k)) →
    n ∉ (s.devWrite view a bytes).mem.bad

/-- R88: a contribution with a NaN operand, and a product of zero and infinity, set NaN and raise invalid; an infinite product sets the infinity of its sign;
where both infinities are then set, NaN is set and invalid raised; an element whose NaN is set ignores further contributions, until it is cleared, when
no NaN or infinity is set. -/
def Obligations.NansAndInfinitiesAccumulate : Prop :=
  ∀ (x : AccElem) (fa fb : GrainFmt) (ba bb : GrainBlock),
    AccElem.cleared.nan = false ∧ AccElem.cleared.posInf = false ∧ AccElem.cleared.negInf = false ∧
    (x.nan = true → (∀ a b : FVal, productPair x a b = (x, FFlags.clear)) ∧ grainPair fa fb x ba bb = (x, FFlags.clear)) ∧
    (x.nan = false →
      (∀ (k : Bool) (a : FVal), ∀ r ∈ [productPair x (.nan k) a, productPair x a (.nan k)], r.1 = { x with nan := true, empty := false } ∧ r.2.invalid = true) ∧
      (ba.e = 0xFF ∨ bb.e = 0xFF → (grainPair fa fb x ba bb).1 = { x with nan := true, empty := false } ∧ (grainPair fa fb x ba bb).2.invalid = true) ∧
      (∀ (n k : Bool) (e : Int), ∀ r ∈ [productPair x (.inf n) (.num k 0 e), productPair x (.num k 0 e) (.inf n)],
        r.1 = { x with nan := true, empty := false } ∧ r.2.invalid = true) ∧
      (∀ (n k : Bool) (m : Nat) (e : Int), m ≠ 0 →
        ∀ r ∈ [productPair x (.inf n) (.num k m e), productPair x (.num k m e) (.inf n), productPair x (.inf n) (.inf k)],
          r.1.posInf = (x.posInf || (n == k)) ∧ r.1.negInf = (x.negInf || (n != k)) ∧
          r.1.nan = ((x.posInf || (n == k)) && (x.negInf || (n != k))) ∧ r.2.invalid = r.1.nan ∧
          { r.1 with nan := false, posInf := x.posInf, negInf := x.negInf, empty := x.empty } = x))
end

