-- ==== Sys2Proof/Laws/Memory.lean ====
section
/-! SUPPORT. Laws of the keyed lists: what a read after a write gives, and that every operation keeps the canonical form of a
memory. -/

namespace Sys2Proof.Machine

variable {α : Type}

/-- Every key of a list lies above `k`. -/
def above (k : Nat) (m : Keyed α) : Prop := ∀ e ∈ m, k < e.1

theorem rising_cons (j : Nat) (b : α) (m : Keyed α) : rising ((j, b) :: m) = true ↔ above j m ∧ rising m = true := by
  induction m generalizing j b with
  | nil => simp [rising, above]
  | cons e m ih =>
    obtain ⟨k, c⟩ := e
    have ih' := ih k c
    simp only [rising, Bool.and_eq_true, decide_eq_true_eq, above, List.mem_cons, forall_eq_or_imp] at *
    constructor
    · rintro ⟨h, hr⟩
      exact ⟨⟨h, fun e he => Nat.lt_trans h ((ih'.1 hr).1 e he)⟩, hr⟩
    · rintro ⟨⟨h, _⟩, hr⟩
      exact ⟨h, hr⟩

theorem find_of_above {dflt : α} {m : Keyed α} {k : Nat} (h : above k m) : find dflt m k = dflt := by
  induction m with
  | nil => rfl
  | cons e m ih =>
    obtain ⟨j, b⟩ := e
    have hj : k < j := h (j, b) (by simp)
    have : j ≠ k := by omega
    simp only [find, this, if_false]
    exact ih (fun e he => h e (by simp [he]))

theorem find_insert_self (dflt : α) (m : Keyed α) (k : Nat) (a : α) : find dflt (insert m k a) k = a := by
  induction m with
  | nil => simp [insert, find]
  | cons e m ih =>
    obtain ⟨j, b⟩ := e
    simp only [insert]
    split
    · simp [find]
    · split
      · simp [find]
      · rename_i h1 h2
        have : j ≠ k := fun h => h2 h.symm
        simp [find, this, ih]

theorem find_insert_ne (dflt : α) (m : Keyed α) {k i : Nat} (a : α) (h : i ≠ k) : find dflt (insert m k a) i = find dflt m i := by
  induction m with
  | nil => simp [insert, find, h.symm]
  | cons e m ih =>
    obtain ⟨j, b⟩ := e
    simp only [insert]
    split
    · simp [find, h.symm]
    · split
      · rename_i h1 h2
        subst h2
        simp [find, h.symm]
      · simp only [find, ih]

/-- A read after a write of a keyed list. -/
theorem find_insert (dflt : α) (m : Keyed α) (k i : Nat) (a : α) :
    find dflt (insert m k a) i = if i = k then a else find dflt m i := by
  split
  · rename_i h; subst h; exact find_insert_self ..
  · exact find_insert_ne _ _ _ ‹_›

theorem insert_insert (m : Keyed α) (k : Nat) (a b : α) : insert (insert m k a) k b = insert m k b := by
  induction m with
  | nil => simp [insert]
  | cons e m ih =>
    obtain ⟨j, c⟩ := e
    simp only [insert]
    split
    · simp [insert]
    · split
      · simp [insert]
      · rename_i h1 h2
        simp [insert, h1, h2, ih]

theorem find_erase_self (dflt : α) (m : Keyed α) (k : Nat) : find dflt (erase m k) k = dflt := by
  induction m with
  | nil => rfl
  | cons e m ih =>
    obtain ⟨j, b⟩ := e
    by_cases hj : j = k
    · simpa [erase, hj] using ih
    · simp only [erase, List.filter_cons, bne_iff_ne, ne_eq, hj, not_false_eq_true, if_true, find, if_false]
      exact ih

theorem find_erase_ne (dflt : α) (m : Keyed α) {k i : Nat} (h : i ≠ k) : find dflt (erase m k) i = find dflt m i := by
  induction m with
  | nil => rfl
  | cons e m ih =>
    obtain ⟨j, b⟩ := e
    by_cases hj : j = k
    · subst hj
      simpa [erase, find, h.symm] using ih
    · simp only [erase, List.filter_cons, bne_iff_ne, ne_eq, hj, not_false_eq_true, if_true, find]
      simp only [erase] at ih
      rw [ih]

theorem above_insert {m : Keyed α} {j k : Nat} {a : α} (h : above j m) (hk : j < k) : above j (insert m k a) := by
  induction m with
  | nil => simp [insert, above, hk]
  | cons e m ih =>
    obtain ⟨i, b⟩ := e
    have hi : j < i := h (i, b) (by simp)
    have hm : above j m := fun e he => h e (by simp [he])
    simp only [insert]
    split
    · intro e he
      simp only [List.mem_cons] at he
      rcases he with rfl | rfl | he
      · exact hk
      · exact hi
      · exact hm e he
    · split
      · intro e he
        simp only [List.mem_cons] at he
        rcases he with rfl | he
        · exact hk
        · exact hm e he
      · intro e he
        simp only [List.mem_cons] at he
        rcases he with rfl | he
        · exact hi
        · exact ih hm e he

theorem above_erase {m : Keyed α} {j k : Nat} (h : above j m) : above j (erase m k) := by
  intro e he
  exact h e (List.mem_of_mem_filter he)

/-- A write keeps the keys rising. -/
theorem rising_insert {m : Keyed α} {k : Nat} {a : α} (h : rising m = true) : rising (insert m k a) = true := by
  induction m with
  | nil => simp [insert, rising]
  | cons e m ih =>
    obtain ⟨j, b⟩ := e
    have hr := (rising_cons j b m).1 h
    simp only [insert]
    split
    · rename_i hk
      rw [rising_cons]
      refine ⟨?_, h⟩
      intro e he
      simp only [List.mem_cons] at he
      rcases he with rfl | he
      · exact hk
      · exact Nat.lt_trans hk (hr.1 e he)
    · split
      · rename_i h1 h2
        subst h2
        exact (rising_cons ..).2 ⟨hr.1, hr.2⟩
      · rw [rising_cons]
        exact ⟨above_insert hr.1 (by omega), ih hr.2⟩

/-- Removing an entry keeps the keys rising. -/
theorem rising_erase {m : Keyed α} {k : Nat} (h : rising m = true) : rising (erase m k) = true := by
  induction m with
  | nil => rfl
  | cons e m ih =>
    obtain ⟨j, b⟩ := e
    have hr := (rising_cons j b m).1 h
    have he : erase ((j, b) :: m) k = if j ≠ k then (j, b) :: erase m k else erase m k := by
      by_cases hj : j = k <;> simp [erase, hj]
    rw [he]
    split
    · exact (rising_cons ..).2 ⟨above_erase hr.1, ih hr.2⟩
    · exact ih hr.2

theorem mem_insert {m : Keyed α} {k : Nat} {a : α} {e : Nat × α} (h : e ∈ insert m k a) : e = (k, a) ∨ e ∈ m := by
  induction m with
  | nil => simpa [insert] using h
  | cons x m ih =>
    obtain ⟨j, b⟩ := x
    simp only [insert] at h
    split at h
    · simpa using h
    · split at h
      · simp only [List.mem_cons] at h ⊢
        rcases h with h | h
        · exact .inl h
        · exact .inr (.inr h)
      · simp only [List.mem_cons] at h ⊢
        rcases h with h | h
        · exact .inr (.inl h)
        · exact (ih h).imp id .inr

theorem mem_erase {m : Keyed α} {k : Nat} {e : Nat × α} (h : e ∈ erase m k) : e ∈ m := List.mem_of_mem_filter h

variable [DecidableEq α]

/-- A read after a write of a memory. -/
theorem find_store (dflt : α) (m : Keyed α) (k i : Nat) (a : α) :
    find dflt (store dflt m k a) i = if i = k then a else find dflt m i := by
  unfold store
  split
  · rename_i ha
    split
    · rename_i hi; subst hi; rw [find_erase_self, ha]
    · exact find_erase_ne _ _ ‹_›
  · exact find_insert ..

/-- A write leaves every other cell alone, in any list. -/
theorem find_store_ne (dflt : α) (m : Keyed α) {k i : Nat} (a : α) (h : i ≠ k) : find dflt (store dflt m k a) i = find dflt m i := by
  unfold store
  split
  · exact find_erase_ne _ _ h
  · exact find_insert_ne _ _ _ h

/-- A write keeps the canonical form. -/
theorem wf_store {dflt : α} {m : Keyed α} (k : Nat) (a : α) (h : Memory.wf dflt m = true) : Memory.wf dflt (store dflt m k a) = true := by
  simp only [Memory.wf, Bool.and_eq_true, List.all_eq_true, decide_eq_true_eq] at h ⊢
  unfold store
  split
  · exact ⟨rising_erase h.1, fun e he => h.2 e (mem_erase he)⟩
  · rename_i ha
    refine ⟨rising_insert h.1, fun e he => ?_⟩
    rcases mem_insert he with rfl | he
    · exact ha
    · exact h.2 e he

/-- Any number of writes keep it. -/
theorem wf_foldl_store {β : Type} {dflt : α} (k : β → Nat) (a : β → α) (l : List β) {m : Keyed α} (h : Memory.wf dflt m = true) :
    Memory.wf dflt (l.foldl (fun d e => store dflt d (k e) (a e)) m) = true := by
  induction l generalizing m with
  | nil => exact h
  | cons e l ih => exact ih (wf_store _ _ h)

/-- Storing bytes keeps it. -/
theorem wf_writeBytes {m : Keyed Byte} (a : Nat) (l : List Byte) (h : Memory.wf 0 m = true) : Memory.wf 0 (writeBytes m a l) = true := by
  induction l generalizing m a with
  | nil => exact h
  | cons b l ih => exact ih _ (wf_store _ _ h)

/-- Storing bytes leaves every other byte alone. -/
theorem find_writeBytes_ne (m : Keyed Byte) (a i : Nat) (l : List Byte) (h : i < a ∨ a + l.length ≤ i) :
    find 0 (writeBytes m a l) i = find 0 m i := by
  induction l generalizing m a with
  | nil => rfl
  | cons b l ih =>
    simp only [writeBytes, List.length_cons] at h ⊢
    rw [ih _ _ (by omega), find_store_ne _ _ _ (by omega)]

theorem wf_nil (dflt : α) : Memory.wf dflt ([] : Keyed α) = true := rfl

end Sys2Proof.Machine
end

