-- ==== Sys2Proof/Laws/State.lean ====
section
/-! SUPPORT. What each named update of the state changes: one lemma for each field that it leaves alone. -/

namespace Sys2Proof.Machine

open Sys2Proof

variable (s : State)

@[simp] theorem State.popped_free (rest : List Instr) : (s.popped rest).free = s.free := rfl
@[simp] theorem State.popped_out (rest : List Instr) : (s.popped rest).out = s.out := rfl
@[simp] theorem State.popped_regs (rest : List Instr) : (s.popped rest).regs = s.regs := rfl
@[simp] theorem State.popped_latch (rest : List Instr) : (s.popped rest).latch = s.latch := rfl
@[simp] theorem State.popped_capture (rest : List Instr) : (s.popped rest).capture = s.capture := rfl
@[simp] theorem State.popped_late (rest : List Instr) : (s.popped rest).late = s.late := rfl
@[simp] theorem State.popped_sealed (rest : List Instr) : (s.popped rest).sealed = s.sealed := rfl
@[simp] theorem State.popped_stage (rest : List Instr) : (s.popped rest).stage = s.stage := rfl
@[simp] theorem State.popped_clk (rest : List Instr) : (s.popped rest).clk = s.clk := rfl
@[simp] theorem State.popped_tiles (rest : List Instr) : (s.popped rest).tiles = s.tiles := rfl
@[simp] theorem State.popped_mem (rest : List Instr) : (s.popped rest).mem = s.mem := rfl
@[simp] theorem State.popped_canopy (rest : List Instr) : (s.popped rest).canopy = s.canopy := rfl
@[simp] theorem State.popped_retire (rest : List Instr) : (s.popped rest).retire = s.retire := rfl
@[simp] theorem State.popped_host (rest : List Instr) : (s.popped rest).host = s.host := rfl
@[simp] theorem State.popped_queues (rest : List Instr) : (s.popped rest).queues = s.queues := rfl
@[simp] theorem State.popped_hq (rest : List Instr) : (s.popped rest).hq = s.hq := rfl
@[simp] theorem State.popped_log (rest : List Instr) : (s.popped rest).log = s.log := rfl
@[simp] theorem State.popped_ports (rest : List Instr) : (s.popped rest).ports = s.ports := rfl
@[simp] theorem State.popped_fleet (rest : List Instr) : (s.popped rest).fleet = s.fleet := rfl
@[simp] theorem State.popped_power (rest : List Instr) : (s.popped rest).power = s.power := rfl
@[simp] theorem State.popped_le (rest : List Instr) : (s.popped rest).le = s.le := rfl
@[simp] theorem State.popped_sap (rest : List Instr) : (s.popped rest).sap = s.sap := rfl
@[simp] theorem State.popped_budget (rest : List Instr) : (s.popped rest).budget = s.budget := rfl
@[simp] theorem State.popped_hwd (rest : List Instr) : (s.popped rest).hwd = s.hwd := rfl
@[simp] theorem State.popped_start (rest : List Instr) : (s.popped rest).start = s.start := rfl
@[simp] theorem State.popped_sram (rest : List Instr) : (s.popped rest).sram = s.sram := rfl
@[simp] theorem State.popped_rings (rest : List Instr) : (s.popped rest).rings = s.rings := rfl
@[simp] theorem State.popped_crown (rest : List Instr) : (s.popped rest).crown = s.crown := rfl
@[simp] theorem State.popped_svc (rest : List Instr) : (s.popped rest).svc = s.svc := rfl

@[simp] theorem State.pushFront_free (c : Instr) : (s.pushFront c).free = s.free := rfl
@[simp] theorem State.pushFront_out (c : Instr) : (s.pushFront c).out = s.out := rfl
@[simp] theorem State.pushFront_regs (c : Instr) : (s.pushFront c).regs = s.regs := rfl
@[simp] theorem State.pushFront_latch (c : Instr) : (s.pushFront c).latch = s.latch := rfl
@[simp] theorem State.pushFront_capture (c : Instr) : (s.pushFront c).capture = s.capture := rfl
@[simp] theorem State.pushFront_late (c : Instr) : (s.pushFront c).late = s.late := rfl
@[simp] theorem State.pushFront_sealed (c : Instr) : (s.pushFront c).sealed = s.sealed := rfl
@[simp] theorem State.pushFront_stage (c : Instr) : (s.pushFront c).stage = s.stage := rfl
@[simp] theorem State.pushFront_clk (c : Instr) : (s.pushFront c).clk = s.clk := rfl
@[simp] theorem State.pushFront_tiles (c : Instr) : (s.pushFront c).tiles = s.tiles := rfl
@[simp] theorem State.pushFront_mem (c : Instr) : (s.pushFront c).mem = s.mem := rfl
@[simp] theorem State.pushFront_canopy (c : Instr) : (s.pushFront c).canopy = s.canopy := rfl
@[simp] theorem State.pushFront_retire (c : Instr) : (s.pushFront c).retire = s.retire := rfl
@[simp] theorem State.pushFront_host (c : Instr) : (s.pushFront c).host = s.host := rfl
@[simp] theorem State.pushFront_queues (c : Instr) : (s.pushFront c).queues = s.queues := rfl
@[simp] theorem State.pushFront_hq (c : Instr) : (s.pushFront c).hq = s.hq := rfl
@[simp] theorem State.pushFront_log (c : Instr) : (s.pushFront c).log = s.log := rfl
@[simp] theorem State.pushFront_ports (c : Instr) : (s.pushFront c).ports = s.ports := rfl
@[simp] theorem State.pushFront_fleet (c : Instr) : (s.pushFront c).fleet = s.fleet := rfl
@[simp] theorem State.pushFront_power (c : Instr) : (s.pushFront c).power = s.power := rfl
@[simp] theorem State.pushFront_le (c : Instr) : (s.pushFront c).le = s.le := rfl
@[simp] theorem State.pushFront_sap (c : Instr) : (s.pushFront c).sap = s.sap := rfl
@[simp] theorem State.pushFront_budget (c : Instr) : (s.pushFront c).budget = s.budget := rfl
@[simp] theorem State.pushFront_hwd (c : Instr) : (s.pushFront c).hwd = s.hwd := rfl
@[simp] theorem State.pushFront_start (c : Instr) : (s.pushFront c).start = s.start := rfl
@[simp] theorem State.pushFront_sram (c : Instr) : (s.pushFront c).sram = s.sram := rfl
@[simp] theorem State.pushFront_rings (c : Instr) : (s.pushFront c).rings = s.rings := rfl
@[simp] theorem State.pushFront_crown (c : Instr) : (s.pushFront c).crown = s.crown := rfl
@[simp] theorem State.pushFront_svc (c : Instr) : (s.pushFront c).svc = s.svc := rfl

@[simp] theorem State.drawn_pending : (s.drawn).pending = s.pending := rfl
@[simp] theorem State.drawn_out : (s.drawn).out = s.out := rfl
@[simp] theorem State.drawn_regs : (s.drawn).regs = s.regs := rfl
@[simp] theorem State.drawn_latch : (s.drawn).latch = s.latch := rfl
@[simp] theorem State.drawn_capture : (s.drawn).capture = s.capture := rfl
@[simp] theorem State.drawn_late : (s.drawn).late = s.late := rfl
@[simp] theorem State.drawn_sealed : (s.drawn).sealed = s.sealed := rfl
@[simp] theorem State.drawn_stage : (s.drawn).stage = s.stage := rfl
@[simp] theorem State.drawn_clk : (s.drawn).clk = s.clk := rfl
@[simp] theorem State.drawn_tiles : (s.drawn).tiles = s.tiles := rfl
@[simp] theorem State.drawn_mem : (s.drawn).mem = s.mem := rfl
@[simp] theorem State.drawn_canopy : (s.drawn).canopy = s.canopy := rfl
@[simp] theorem State.drawn_retire : (s.drawn).retire = s.retire := rfl
@[simp] theorem State.drawn_host : (s.drawn).host = s.host := rfl
@[simp] theorem State.drawn_queues : (s.drawn).queues = s.queues := rfl
@[simp] theorem State.drawn_hq : (s.drawn).hq = s.hq := rfl
@[simp] theorem State.drawn_log : (s.drawn).log = s.log := rfl
@[simp] theorem State.drawn_ports : (s.drawn).ports = s.ports := rfl
@[simp] theorem State.drawn_fleet : (s.drawn).fleet = s.fleet := rfl
@[simp] theorem State.drawn_power : (s.drawn).power = s.power := rfl
@[simp] theorem State.drawn_le : (s.drawn).le = s.le := rfl
@[simp] theorem State.drawn_sap : (s.drawn).sap = s.sap := rfl
@[simp] theorem State.drawn_budget : (s.drawn).budget = s.budget := rfl
@[simp] theorem State.drawn_hwd : (s.drawn).hwd = s.hwd := rfl
@[simp] theorem State.drawn_start : (s.drawn).start = s.start := rfl
@[simp] theorem State.drawn_sram : (s.drawn).sram = s.sram := rfl
@[simp] theorem State.drawn_rings : (s.drawn).rings = s.rings := rfl
@[simp] theorem State.drawn_crown : (s.drawn).crown = s.crown := rfl
@[simp] theorem State.drawn_svc : (s.drawn).svc = s.svc := rfl

@[simp] theorem State.drawnN_pending (n : Nat) : (s.drawnN n).pending = s.pending := rfl
@[simp] theorem State.drawnN_out (n : Nat) : (s.drawnN n).out = s.out := rfl
@[simp] theorem State.drawnN_regs (n : Nat) : (s.drawnN n).regs = s.regs := rfl
@[simp] theorem State.drawnN_latch (n : Nat) : (s.drawnN n).latch = s.latch := rfl
@[simp] theorem State.drawnN_capture (n : Nat) : (s.drawnN n).capture = s.capture := rfl
@[simp] theorem State.drawnN_late (n : Nat) : (s.drawnN n).late = s.late := rfl
@[simp] theorem State.drawnN_sealed (n : Nat) : (s.drawnN n).sealed = s.sealed := rfl
@[simp] theorem State.drawnN_stage (n : Nat) : (s.drawnN n).stage = s.stage := rfl
@[simp] theorem State.drawnN_clk (n : Nat) : (s.drawnN n).clk = s.clk := rfl
@[simp] theorem State.drawnN_tiles (n : Nat) : (s.drawnN n).tiles = s.tiles := rfl
@[simp] theorem State.drawnN_mem (n : Nat) : (s.drawnN n).mem = s.mem := rfl
@[simp] theorem State.drawnN_canopy (n : Nat) : (s.drawnN n).canopy = s.canopy := rfl
@[simp] theorem State.drawnN_retire (n : Nat) : (s.drawnN n).retire = s.retire := rfl
@[simp] theorem State.drawnN_host (n : Nat) : (s.drawnN n).host = s.host := rfl
@[simp] theorem State.drawnN_queues (n : Nat) : (s.drawnN n).queues = s.queues := rfl
@[simp] theorem State.drawnN_hq (n : Nat) : (s.drawnN n).hq = s.hq := rfl
@[simp] theorem State.drawnN_log (n : Nat) : (s.drawnN n).log = s.log := rfl
@[simp] theorem State.drawnN_ports (n : Nat) : (s.drawnN n).ports = s.ports := rfl
@[simp] theorem State.drawnN_fleet (n : Nat) : (s.drawnN n).fleet = s.fleet := rfl
@[simp] theorem State.drawnN_power (n : Nat) : (s.drawnN n).power = s.power := rfl
@[simp] theorem State.drawnN_le (n : Nat) : (s.drawnN n).le = s.le := rfl
@[simp] theorem State.drawnN_sap (n : Nat) : (s.drawnN n).sap = s.sap := rfl
@[simp] theorem State.drawnN_budget (n : Nat) : (s.drawnN n).budget = s.budget := rfl
@[simp] theorem State.drawnN_hwd (n : Nat) : (s.drawnN n).hwd = s.hwd := rfl
@[simp] theorem State.drawnN_start (n : Nat) : (s.drawnN n).start = s.start := rfl
@[simp] theorem State.drawnN_sram (n : Nat) : (s.drawnN n).sram = s.sram := rfl
@[simp] theorem State.drawnN_rings (n : Nat) : (s.drawnN n).rings = s.rings := rfl
@[simp] theorem State.drawnN_crown (n : Nat) : (s.drawnN n).crown = s.crown := rfl
@[simp] theorem State.drawnN_svc (n : Nat) : (s.drawnN n).svc = s.svc := rfl

@[simp] theorem State.emit_pending (o : Output) : (s.emit o).pending = s.pending := rfl
@[simp] theorem State.emit_free (o : Output) : (s.emit o).free = s.free := rfl
@[simp] theorem State.emit_regs (o : Output) : (s.emit o).regs = s.regs := rfl
@[simp] theorem State.emit_latch (o : Output) : (s.emit o).latch = s.latch := rfl
@[simp] theorem State.emit_capture (o : Output) : (s.emit o).capture = s.capture := rfl
@[simp] theorem State.emit_late (o : Output) : (s.emit o).late = s.late := rfl
@[simp] theorem State.emit_sealed (o : Output) : (s.emit o).sealed = s.sealed := rfl
@[simp] theorem State.emit_stage (o : Output) : (s.emit o).stage = s.stage := rfl
@[simp] theorem State.emit_clk (o : Output) : (s.emit o).clk = s.clk := rfl
@[simp] theorem State.emit_tiles (o : Output) : (s.emit o).tiles = s.tiles := rfl
@[simp] theorem State.emit_mem (o : Output) : (s.emit o).mem = s.mem := rfl
@[simp] theorem State.emit_canopy (o : Output) : (s.emit o).canopy = s.canopy := rfl
@[simp] theorem State.emit_retire (o : Output) : (s.emit o).retire = s.retire := rfl
@[simp] theorem State.emit_host (o : Output) : (s.emit o).host = s.host := rfl
@[simp] theorem State.emit_queues (o : Output) : (s.emit o).queues = s.queues := rfl
@[simp] theorem State.emit_hq (o : Output) : (s.emit o).hq = s.hq := rfl
@[simp] theorem State.emit_log (o : Output) : (s.emit o).log = s.log := rfl
@[simp] theorem State.emit_ports (o : Output) : (s.emit o).ports = s.ports := rfl
@[simp] theorem State.emit_fleet (o : Output) : (s.emit o).fleet = s.fleet := rfl
@[simp] theorem State.emit_power (o : Output) : (s.emit o).power = s.power := rfl
@[simp] theorem State.emit_le (o : Output) : (s.emit o).le = s.le := rfl
@[simp] theorem State.emit_sap (o : Output) : (s.emit o).sap = s.sap := rfl
@[simp] theorem State.emit_budget (o : Output) : (s.emit o).budget = s.budget := rfl
@[simp] theorem State.emit_hwd (o : Output) : (s.emit o).hwd = s.hwd := rfl
@[simp] theorem State.emit_start (o : Output) : (s.emit o).start = s.start := rfl
@[simp] theorem State.emit_sram (o : Output) : (s.emit o).sram = s.sram := rfl
@[simp] theorem State.emit_rings (o : Output) : (s.emit o).rings = s.rings := rfl
@[simp] theorem State.emit_crown (o : Output) : (s.emit o).crown = s.crown := rfl
@[simp] theorem State.emit_svc (o : Output) : (s.emit o).svc = s.svc := rfl

@[simp] theorem State.hostWrite_pending (fn : Fn) (a : Nat) (l : List Byte) (x : Bool) : (s.hostWrite fn a l x).pending = s.pending := rfl
@[simp] theorem State.hostWrite_free (fn : Fn) (a : Nat) (l : List Byte) (x : Bool) : (s.hostWrite fn a l x).free = s.free := rfl
@[simp] theorem State.hostWrite_regs (fn : Fn) (a : Nat) (l : List Byte) (x : Bool) : (s.hostWrite fn a l x).regs = s.regs := rfl
@[simp] theorem State.hostWrite_latch (fn : Fn) (a : Nat) (l : List Byte) (x : Bool) : (s.hostWrite fn a l x).latch = s.latch := rfl
@[simp] theorem State.hostWrite_capture (fn : Fn) (a : Nat) (l : List Byte) (x : Bool) : (s.hostWrite fn a l x).capture = s.capture := rfl
@[simp] theorem State.hostWrite_late (fn : Fn) (a : Nat) (l : List Byte) (x : Bool) : (s.hostWrite fn a l x).late = s.late := rfl
@[simp] theorem State.hostWrite_sealed (fn : Fn) (a : Nat) (l : List Byte) (x : Bool) : (s.hostWrite fn a l x).sealed = s.sealed := rfl
@[simp] theorem State.hostWrite_stage (fn : Fn) (a : Nat) (l : List Byte) (x : Bool) : (s.hostWrite fn a l x).stage = s.stage := rfl
@[simp] theorem State.hostWrite_clk (fn : Fn) (a : Nat) (l : List Byte) (x : Bool) : (s.hostWrite fn a l x).clk = s.clk := rfl
@[simp] theorem State.hostWrite_tiles (fn : Fn) (a : Nat) (l : List Byte) (x : Bool) : (s.hostWrite fn a l x).tiles = s.tiles := rfl
@[simp] theorem State.hostWrite_mem (fn : Fn) (a : Nat) (l : List Byte) (x : Bool) : (s.hostWrite fn a l x).mem = s.mem := rfl
@[simp] theorem State.hostWrite_canopy (fn : Fn) (a : Nat) (l : List Byte) (x : Bool) : (s.hostWrite fn a l x).canopy = s.canopy := rfl
@[simp] theorem State.hostWrite_retire (fn : Fn) (a : Nat) (l : List Byte) (x : Bool) : (s.hostWrite fn a l x).retire = s.retire := rfl
@[simp] theorem State.hostWrite_host (fn : Fn) (a : Nat) (l : List Byte) (x : Bool) : (s.hostWrite fn a l x).host = s.host := rfl
@[simp] theorem State.hostWrite_queues (fn : Fn) (a : Nat) (l : List Byte) (x : Bool) : (s.hostWrite fn a l x).queues = s.queues := rfl
@[simp] theorem State.hostWrite_hq (fn : Fn) (a : Nat) (l : List Byte) (x : Bool) : (s.hostWrite fn a l x).hq = s.hq := rfl
@[simp] theorem State.hostWrite_log (fn : Fn) (a : Nat) (l : List Byte) (x : Bool) : (s.hostWrite fn a l x).log = s.log := rfl
@[simp] theorem State.hostWrite_ports (fn : Fn) (a : Nat) (l : List Byte) (x : Bool) : (s.hostWrite fn a l x).ports = s.ports := rfl
@[simp] theorem State.hostWrite_fleet (fn : Fn) (a : Nat) (l : List Byte) (x : Bool) : (s.hostWrite fn a l x).fleet = s.fleet := rfl
@[simp] theorem State.hostWrite_power (fn : Fn) (a : Nat) (l : List Byte) (x : Bool) : (s.hostWrite fn a l x).power = s.power := rfl
@[simp] theorem State.hostWrite_le (fn : Fn) (a : Nat) (l : List Byte) (x : Bool) : (s.hostWrite fn a l x).le = s.le := rfl
@[simp] theorem State.hostWrite_sap (fn : Fn) (a : Nat) (l : List Byte) (x : Bool) : (s.hostWrite fn a l x).sap = s.sap := rfl
@[simp] theorem State.hostWrite_budget (fn : Fn) (a : Nat) (l : List Byte) (x : Bool) : (s.hostWrite fn a l x).budget = s.budget := rfl
@[simp] theorem State.hostWrite_hwd (fn : Fn) (a : Nat) (l : List Byte) (x : Bool) : (s.hostWrite fn a l x).hwd = s.hwd := rfl
@[simp] theorem State.hostWrite_start (fn : Fn) (a : Nat) (l : List Byte) (x : Bool) : (s.hostWrite fn a l x).start = s.start := rfl
@[simp] theorem State.hostWrite_sram (fn : Fn) (a : Nat) (l : List Byte) (x : Bool) : (s.hostWrite fn a l x).sram = s.sram := rfl
@[simp] theorem State.hostWrite_rings (fn : Fn) (a : Nat) (l : List Byte) (x : Bool) : (s.hostWrite fn a l x).rings = s.rings := rfl
@[simp] theorem State.hostWrite_crown (fn : Fn) (a : Nat) (l : List Byte) (x : Bool) : (s.hostWrite fn a l x).crown = s.crown := rfl
@[simp] theorem State.hostWrite_svc (fn : Fn) (a : Nat) (l : List Byte) (x : Bool) : (s.hostWrite fn a l x).svc = s.svc := rfl

@[simp] theorem State.setReg_pending (fn : Fn) (off : Nat) (v : BitVec 64) : (s.setReg fn off v).pending = s.pending := rfl
@[simp] theorem State.setReg_free (fn : Fn) (off : Nat) (v : BitVec 64) : (s.setReg fn off v).free = s.free := rfl
@[simp] theorem State.setReg_out (fn : Fn) (off : Nat) (v : BitVec 64) : (s.setReg fn off v).out = s.out := rfl
@[simp] theorem State.setReg_latch (fn : Fn) (off : Nat) (v : BitVec 64) : (s.setReg fn off v).latch = s.latch := rfl
@[simp] theorem State.setReg_capture (fn : Fn) (off : Nat) (v : BitVec 64) : (s.setReg fn off v).capture = s.capture := rfl
@[simp] theorem State.setReg_late (fn : Fn) (off : Nat) (v : BitVec 64) : (s.setReg fn off v).late = s.late := rfl
@[simp] theorem State.setReg_sealed (fn : Fn) (off : Nat) (v : BitVec 64) : (s.setReg fn off v).sealed = s.sealed := rfl
@[simp] theorem State.setReg_stage (fn : Fn) (off : Nat) (v : BitVec 64) : (s.setReg fn off v).stage = s.stage := rfl
@[simp] theorem State.setReg_clk (fn : Fn) (off : Nat) (v : BitVec 64) : (s.setReg fn off v).clk = s.clk := rfl
@[simp] theorem State.setReg_tiles (fn : Fn) (off : Nat) (v : BitVec 64) : (s.setReg fn off v).tiles = s.tiles := rfl
@[simp] theorem State.setReg_mem (fn : Fn) (off : Nat) (v : BitVec 64) : (s.setReg fn off v).mem = s.mem := rfl
@[simp] theorem State.setReg_canopy (fn : Fn) (off : Nat) (v : BitVec 64) : (s.setReg fn off v).canopy = s.canopy := rfl
@[simp] theorem State.setReg_retire (fn : Fn) (off : Nat) (v : BitVec 64) : (s.setReg fn off v).retire = s.retire := rfl
@[simp] theorem State.setReg_host (fn : Fn) (off : Nat) (v : BitVec 64) : (s.setReg fn off v).host = s.host := rfl
@[simp] theorem State.setReg_queues (fn : Fn) (off : Nat) (v : BitVec 64) : (s.setReg fn off v).queues = s.queues := rfl
@[simp] theorem State.setReg_hq (fn : Fn) (off : Nat) (v : BitVec 64) : (s.setReg fn off v).hq = s.hq := rfl
@[simp] theorem State.setReg_log (fn : Fn) (off : Nat) (v : BitVec 64) : (s.setReg fn off v).log = s.log := rfl
@[simp] theorem State.setReg_ports (fn : Fn) (off : Nat) (v : BitVec 64) : (s.setReg fn off v).ports = s.ports := rfl
@[simp] theorem State.setReg_fleet (fn : Fn) (off : Nat) (v : BitVec 64) : (s.setReg fn off v).fleet = s.fleet := rfl
@[simp] theorem State.setReg_power (fn : Fn) (off : Nat) (v : BitVec 64) : (s.setReg fn off v).power = s.power := rfl
@[simp] theorem State.setReg_le (fn : Fn) (off : Nat) (v : BitVec 64) : (s.setReg fn off v).le = s.le := rfl
@[simp] theorem State.setReg_sap (fn : Fn) (off : Nat) (v : BitVec 64) : (s.setReg fn off v).sap = s.sap := rfl
@[simp] theorem State.setReg_budget (fn : Fn) (off : Nat) (v : BitVec 64) : (s.setReg fn off v).budget = s.budget := rfl
@[simp] theorem State.setReg_hwd (fn : Fn) (off : Nat) (v : BitVec 64) : (s.setReg fn off v).hwd = s.hwd := rfl
@[simp] theorem State.setReg_start (fn : Fn) (off : Nat) (v : BitVec 64) : (s.setReg fn off v).start = s.start := rfl
@[simp] theorem State.setReg_sram (fn : Fn) (off : Nat) (v : BitVec 64) : (s.setReg fn off v).sram = s.sram := rfl
@[simp] theorem State.setReg_rings (fn : Fn) (off : Nat) (v : BitVec 64) : (s.setReg fn off v).rings = s.rings := rfl
@[simp] theorem State.setReg_crown (fn : Fn) (off : Nat) (v : BitVec 64) : (s.setReg fn off v).crown = s.crown := rfl
@[simp] theorem State.setReg_svc (fn : Fn) (off : Nat) (v : BitVec 64) : (s.setReg fn off v).svc = s.svc := rfl

@[simp] theorem State.flag_pending (off n : Nat) : (s.flag off n).pending = s.pending := rfl
@[simp] theorem State.flag_free (off n : Nat) : (s.flag off n).free = s.free := rfl
@[simp] theorem State.flag_out (off n : Nat) : (s.flag off n).out = s.out := rfl
@[simp] theorem State.flag_latch (off n : Nat) : (s.flag off n).latch = s.latch := rfl
@[simp] theorem State.flag_capture (off n : Nat) : (s.flag off n).capture = s.capture := rfl
@[simp] theorem State.flag_late (off n : Nat) : (s.flag off n).late = s.late := rfl
@[simp] theorem State.flag_sealed (off n : Nat) : (s.flag off n).sealed = s.sealed := rfl
@[simp] theorem State.flag_stage (off n : Nat) : (s.flag off n).stage = s.stage := rfl
@[simp] theorem State.flag_clk (off n : Nat) : (s.flag off n).clk = s.clk := rfl
@[simp] theorem State.flag_tiles (off n : Nat) : (s.flag off n).tiles = s.tiles := rfl
@[simp] theorem State.flag_mem (off n : Nat) : (s.flag off n).mem = s.mem := rfl
@[simp] theorem State.flag_canopy (off n : Nat) : (s.flag off n).canopy = s.canopy := rfl
@[simp] theorem State.flag_retire (off n : Nat) : (s.flag off n).retire = s.retire := rfl
@[simp] theorem State.flag_host (off n : Nat) : (s.flag off n).host = s.host := rfl
@[simp] theorem State.flag_queues (off n : Nat) : (s.flag off n).queues = s.queues := rfl
@[simp] theorem State.flag_hq (off n : Nat) : (s.flag off n).hq = s.hq := rfl
@[simp] theorem State.flag_log (off n : Nat) : (s.flag off n).log = s.log := rfl
@[simp] theorem State.flag_ports (off n : Nat) : (s.flag off n).ports = s.ports := rfl
@[simp] theorem State.flag_fleet (off n : Nat) : (s.flag off n).fleet = s.fleet := rfl
@[simp] theorem State.flag_power (off n : Nat) : (s.flag off n).power = s.power := rfl
@[simp] theorem State.flag_le (off n : Nat) : (s.flag off n).le = s.le := rfl
@[simp] theorem State.flag_sap (off n : Nat) : (s.flag off n).sap = s.sap := rfl
@[simp] theorem State.flag_budget (off n : Nat) : (s.flag off n).budget = s.budget := rfl
@[simp] theorem State.flag_hwd (off n : Nat) : (s.flag off n).hwd = s.hwd := rfl
@[simp] theorem State.flag_start (off n : Nat) : (s.flag off n).start = s.start := rfl
@[simp] theorem State.flag_sram (off n : Nat) : (s.flag off n).sram = s.sram := rfl
@[simp] theorem State.flag_rings (off n : Nat) : (s.flag off n).rings = s.rings := rfl
@[simp] theorem State.flag_crown (off n : Nat) : (s.flag off n).crown = s.crown := rfl
@[simp] theorem State.flag_svc (off n : Nat) : (s.flag off n).svc = s.svc := rfl

@[simp] theorem State.setStatus_pending (fn : Fn) (off n : Nat) : (s.setStatus fn off n).pending = s.pending := rfl
@[simp] theorem State.setStatus_free (fn : Fn) (off n : Nat) : (s.setStatus fn off n).free = s.free := rfl
@[simp] theorem State.setStatus_out (fn : Fn) (off n : Nat) : (s.setStatus fn off n).out = s.out := rfl
@[simp] theorem State.setStatus_latch (fn : Fn) (off n : Nat) : (s.setStatus fn off n).latch = s.latch := rfl
@[simp] theorem State.setStatus_capture (fn : Fn) (off n : Nat) : (s.setStatus fn off n).capture = s.capture := rfl
@[simp] theorem State.setStatus_late (fn : Fn) (off n : Nat) : (s.setStatus fn off n).late = s.late := rfl
@[simp] theorem State.setStatus_sealed (fn : Fn) (off n : Nat) : (s.setStatus fn off n).sealed = s.sealed := rfl
@[simp] theorem State.setStatus_stage (fn : Fn) (off n : Nat) : (s.setStatus fn off n).stage = s.stage := rfl
@[simp] theorem State.setStatus_clk (fn : Fn) (off n : Nat) : (s.setStatus fn off n).clk = s.clk := rfl
@[simp] theorem State.setStatus_tiles (fn : Fn) (off n : Nat) : (s.setStatus fn off n).tiles = s.tiles := rfl
@[simp] theorem State.setStatus_mem (fn : Fn) (off n : Nat) : (s.setStatus fn off n).mem = s.mem := rfl
@[simp] theorem State.setStatus_canopy (fn : Fn) (off n : Nat) : (s.setStatus fn off n).canopy = s.canopy := rfl
@[simp] theorem State.setStatus_retire (fn : Fn) (off n : Nat) : (s.setStatus fn off n).retire = s.retire := rfl
@[simp] theorem State.setStatus_host (fn : Fn) (off n : Nat) : (s.setStatus fn off n).host = s.host := rfl
@[simp] theorem State.setStatus_queues (fn : Fn) (off n : Nat) : (s.setStatus fn off n).queues = s.queues := rfl
@[simp] theorem State.setStatus_hq (fn : Fn) (off n : Nat) : (s.setStatus fn off n).hq = s.hq := rfl
@[simp] theorem State.setStatus_log (fn : Fn) (off n : Nat) : (s.setStatus fn off n).log = s.log := rfl
@[simp] theorem State.setStatus_ports (fn : Fn) (off n : Nat) : (s.setStatus fn off n).ports = s.ports := rfl
@[simp] theorem State.setStatus_fleet (fn : Fn) (off n : Nat) : (s.setStatus fn off n).fleet = s.fleet := rfl
@[simp] theorem State.setStatus_power (fn : Fn) (off n : Nat) : (s.setStatus fn off n).power = s.power := rfl
@[simp] theorem State.setStatus_le (fn : Fn) (off n : Nat) : (s.setStatus fn off n).le = s.le := rfl
@[simp] theorem State.setStatus_sap (fn : Fn) (off n : Nat) : (s.setStatus fn off n).sap = s.sap := rfl
@[simp] theorem State.setStatus_budget (fn : Fn) (off n : Nat) : (s.setStatus fn off n).budget = s.budget := rfl
@[simp] theorem State.setStatus_hwd (fn : Fn) (off n : Nat) : (s.setStatus fn off n).hwd = s.hwd := rfl
@[simp] theorem State.setStatus_start (fn : Fn) (off n : Nat) : (s.setStatus fn off n).start = s.start := rfl
@[simp] theorem State.setStatus_sram (fn : Fn) (off n : Nat) : (s.setStatus fn off n).sram = s.sram := rfl
@[simp] theorem State.setStatus_rings (fn : Fn) (off n : Nat) : (s.setStatus fn off n).rings = s.rings := rfl
@[simp] theorem State.setStatus_crown (fn : Fn) (off n : Nat) : (s.setStatus fn off n).crown = s.crown := rfl
@[simp] theorem State.setStatus_svc (fn : Fn) (off n : Nat) : (s.setStatus fn off n).svc = s.svc := rfl

@[simp] theorem State.setTile_pending (t : Nat) (x : Tile) : (s.setTile t x).pending = s.pending := rfl
@[simp] theorem State.setTile_free (t : Nat) (x : Tile) : (s.setTile t x).free = s.free := rfl
@[simp] theorem State.setTile_out (t : Nat) (x : Tile) : (s.setTile t x).out = s.out := rfl
@[simp] theorem State.setTile_regs (t : Nat) (x : Tile) : (s.setTile t x).regs = s.regs := rfl
@[simp] theorem State.setTile_latch (t : Nat) (x : Tile) : (s.setTile t x).latch = s.latch := rfl
@[simp] theorem State.setTile_capture (t : Nat) (x : Tile) : (s.setTile t x).capture = s.capture := rfl
@[simp] theorem State.setTile_late (t : Nat) (x : Tile) : (s.setTile t x).late = s.late := rfl
@[simp] theorem State.setTile_sealed (t : Nat) (x : Tile) : (s.setTile t x).sealed = s.sealed := rfl
@[simp] theorem State.setTile_stage (t : Nat) (x : Tile) : (s.setTile t x).stage = s.stage := rfl
@[simp] theorem State.setTile_clk (t : Nat) (x : Tile) : (s.setTile t x).clk = s.clk := rfl
@[simp] theorem State.setTile_mem (t : Nat) (x : Tile) : (s.setTile t x).mem = s.mem := rfl
@[simp] theorem State.setTile_canopy (t : Nat) (x : Tile) : (s.setTile t x).canopy = s.canopy := rfl
@[simp] theorem State.setTile_retire (t : Nat) (x : Tile) : (s.setTile t x).retire = s.retire := rfl
@[simp] theorem State.setTile_host (t : Nat) (x : Tile) : (s.setTile t x).host = s.host := rfl
@[simp] theorem State.setTile_queues (t : Nat) (x : Tile) : (s.setTile t x).queues = s.queues := rfl
@[simp] theorem State.setTile_hq (t : Nat) (x : Tile) : (s.setTile t x).hq = s.hq := rfl
@[simp] theorem State.setTile_log (t : Nat) (x : Tile) : (s.setTile t x).log = s.log := rfl
@[simp] theorem State.setTile_ports (t : Nat) (x : Tile) : (s.setTile t x).ports = s.ports := rfl
@[simp] theorem State.setTile_fleet (t : Nat) (x : Tile) : (s.setTile t x).fleet = s.fleet := rfl
@[simp] theorem State.setTile_power (t : Nat) (x : Tile) : (s.setTile t x).power = s.power := rfl
@[simp] theorem State.setTile_le (t : Nat) (x : Tile) : (s.setTile t x).le = s.le := rfl
@[simp] theorem State.setTile_sap (t : Nat) (x : Tile) : (s.setTile t x).sap = s.sap := rfl
@[simp] theorem State.setTile_budget (t : Nat) (x : Tile) : (s.setTile t x).budget = s.budget := rfl
@[simp] theorem State.setTile_hwd (t : Nat) (x : Tile) : (s.setTile t x).hwd = s.hwd := rfl
@[simp] theorem State.setTile_start (t : Nat) (x : Tile) : (s.setTile t x).start = s.start := rfl
@[simp] theorem State.setTile_sram (t : Nat) (x : Tile) : (s.setTile t x).sram = s.sram := rfl
@[simp] theorem State.setTile_rings (t : Nat) (x : Tile) : (s.setTile t x).rings = s.rings := rfl
@[simp] theorem State.setTile_crown (t : Nat) (x : Tile) : (s.setTile t x).crown = s.crown := rfl
@[simp] theorem State.setTile_svc (t : Nat) (x : Tile) : (s.setTile t x).svc = s.svc := rfl

@[simp] theorem State.setThread_pending (t : Nat) (n : Fin 16) (x : Thread) : (s.setThread t n x).pending = s.pending := rfl
@[simp] theorem State.setThread_free (t : Nat) (n : Fin 16) (x : Thread) : (s.setThread t n x).free = s.free := rfl
@[simp] theorem State.setThread_out (t : Nat) (n : Fin 16) (x : Thread) : (s.setThread t n x).out = s.out := rfl
@[simp] theorem State.setThread_regs (t : Nat) (n : Fin 16) (x : Thread) : (s.setThread t n x).regs = s.regs := rfl
@[simp] theorem State.setThread_latch (t : Nat) (n : Fin 16) (x : Thread) : (s.setThread t n x).latch = s.latch := rfl
@[simp] theorem State.setThread_capture (t : Nat) (n : Fin 16) (x : Thread) : (s.setThread t n x).capture = s.capture := rfl
@[simp] theorem State.setThread_late (t : Nat) (n : Fin 16) (x : Thread) : (s.setThread t n x).late = s.late := rfl
@[simp] theorem State.setThread_sealed (t : Nat) (n : Fin 16) (x : Thread) : (s.setThread t n x).sealed = s.sealed := rfl
@[simp] theorem State.setThread_stage (t : Nat) (n : Fin 16) (x : Thread) : (s.setThread t n x).stage = s.stage := rfl
@[simp] theorem State.setThread_clk (t : Nat) (n : Fin 16) (x : Thread) : (s.setThread t n x).clk = s.clk := rfl
@[simp] theorem State.setThread_mem (t : Nat) (n : Fin 16) (x : Thread) : (s.setThread t n x).mem = s.mem := rfl
@[simp] theorem State.setThread_canopy (t : Nat) (n : Fin 16) (x : Thread) : (s.setThread t n x).canopy = s.canopy := rfl
@[simp] theorem State.setThread_retire (t : Nat) (n : Fin 16) (x : Thread) : (s.setThread t n x).retire = s.retire := rfl
@[simp] theorem State.setThread_host (t : Nat) (n : Fin 16) (x : Thread) : (s.setThread t n x).host = s.host := rfl
@[simp] theorem State.setThread_queues (t : Nat) (n : Fin 16) (x : Thread) : (s.setThread t n x).queues = s.queues := rfl
@[simp] theorem State.setThread_hq (t : Nat) (n : Fin 16) (x : Thread) : (s.setThread t n x).hq = s.hq := rfl
@[simp] theorem State.setThread_log (t : Nat) (n : Fin 16) (x : Thread) : (s.setThread t n x).log = s.log := rfl
@[simp] theorem State.setThread_ports (t : Nat) (n : Fin 16) (x : Thread) : (s.setThread t n x).ports = s.ports := rfl
@[simp] theorem State.setThread_fleet (t : Nat) (n : Fin 16) (x : Thread) : (s.setThread t n x).fleet = s.fleet := rfl
@[simp] theorem State.setThread_power (t : Nat) (n : Fin 16) (x : Thread) : (s.setThread t n x).power = s.power := rfl
@[simp] theorem State.setThread_le (t : Nat) (n : Fin 16) (x : Thread) : (s.setThread t n x).le = s.le := rfl
@[simp] theorem State.setThread_sap (t : Nat) (n : Fin 16) (x : Thread) : (s.setThread t n x).sap = s.sap := rfl
@[simp] theorem State.setThread_budget (t : Nat) (n : Fin 16) (x : Thread) : (s.setThread t n x).budget = s.budget := rfl
@[simp] theorem State.setThread_hwd (t : Nat) (n : Fin 16) (x : Thread) : (s.setThread t n x).hwd = s.hwd := rfl
@[simp] theorem State.setThread_start (t : Nat) (n : Fin 16) (x : Thread) : (s.setThread t n x).start = s.start := rfl
@[simp] theorem State.setThread_sram (t : Nat) (n : Fin 16) (x : Thread) : (s.setThread t n x).sram = s.sram := rfl
@[simp] theorem State.setThread_rings (t : Nat) (n : Fin 16) (x : Thread) : (s.setThread t n x).rings = s.rings := rfl
@[simp] theorem State.setThread_crown (t : Nat) (n : Fin 16) (x : Thread) : (s.setThread t n x).crown = s.crown := rfl
@[simp] theorem State.setThread_svc (t : Nat) (n : Fin 16) (x : Thread) : (s.setThread t n x).svc = s.svc := rfl

@[simp] theorem State.writeScalar_pending (th : Thr) (d : BitVec 5) (v : Word) : (s.writeScalar th d v).pending = s.pending := rfl
@[simp] theorem State.writeScalar_free (th : Thr) (d : BitVec 5) (v : Word) : (s.writeScalar th d v).free = s.free := rfl
@[simp] theorem State.writeScalar_out (th : Thr) (d : BitVec 5) (v : Word) : (s.writeScalar th d v).out = s.out := rfl
@[simp] theorem State.writeScalar_regs (th : Thr) (d : BitVec 5) (v : Word) : (s.writeScalar th d v).regs = s.regs := rfl
@[simp] theorem State.writeScalar_latch (th : Thr) (d : BitVec 5) (v : Word) : (s.writeScalar th d v).latch = s.latch := rfl
@[simp] theorem State.writeScalar_capture (th : Thr) (d : BitVec 5) (v : Word) : (s.writeScalar th d v).capture = s.capture := rfl
@[simp] theorem State.writeScalar_late (th : Thr) (d : BitVec 5) (v : Word) : (s.writeScalar th d v).late = s.late := rfl
@[simp] theorem State.writeScalar_sealed (th : Thr) (d : BitVec 5) (v : Word) : (s.writeScalar th d v).sealed = s.sealed := rfl
@[simp] theorem State.writeScalar_stage (th : Thr) (d : BitVec 5) (v : Word) : (s.writeScalar th d v).stage = s.stage := rfl
@[simp] theorem State.writeScalar_clk (th : Thr) (d : BitVec 5) (v : Word) : (s.writeScalar th d v).clk = s.clk := rfl
@[simp] theorem State.writeScalar_mem (th : Thr) (d : BitVec 5) (v : Word) : (s.writeScalar th d v).mem = s.mem := rfl
@[simp] theorem State.writeScalar_canopy (th : Thr) (d : BitVec 5) (v : Word) : (s.writeScalar th d v).canopy = s.canopy := rfl
@[simp] theorem State.writeScalar_retire (th : Thr) (d : BitVec 5) (v : Word) : (s.writeScalar th d v).retire = s.retire := rfl
@[simp] theorem State.writeScalar_host (th : Thr) (d : BitVec 5) (v : Word) : (s.writeScalar th d v).host = s.host := rfl
@[simp] theorem State.writeScalar_queues (th : Thr) (d : BitVec 5) (v : Word) : (s.writeScalar th d v).queues = s.queues := rfl
@[simp] theorem State.writeScalar_hq (th : Thr) (d : BitVec 5) (v : Word) : (s.writeScalar th d v).hq = s.hq := rfl
@[simp] theorem State.writeScalar_log (th : Thr) (d : BitVec 5) (v : Word) : (s.writeScalar th d v).log = s.log := rfl
@[simp] theorem State.writeScalar_ports (th : Thr) (d : BitVec 5) (v : Word) : (s.writeScalar th d v).ports = s.ports := rfl
@[simp] theorem State.writeScalar_fleet (th : Thr) (d : BitVec 5) (v : Word) : (s.writeScalar th d v).fleet = s.fleet := rfl
@[simp] theorem State.writeScalar_power (th : Thr) (d : BitVec 5) (v : Word) : (s.writeScalar th d v).power = s.power := rfl
@[simp] theorem State.writeScalar_le (th : Thr) (d : BitVec 5) (v : Word) : (s.writeScalar th d v).le = s.le := rfl
@[simp] theorem State.writeScalar_sap (th : Thr) (d : BitVec 5) (v : Word) : (s.writeScalar th d v).sap = s.sap := rfl
@[simp] theorem State.writeScalar_budget (th : Thr) (d : BitVec 5) (v : Word) : (s.writeScalar th d v).budget = s.budget := rfl
@[simp] theorem State.writeScalar_hwd (th : Thr) (d : BitVec 5) (v : Word) : (s.writeScalar th d v).hwd = s.hwd := rfl
@[simp] theorem State.writeScalar_start (th : Thr) (d : BitVec 5) (v : Word) : (s.writeScalar th d v).start = s.start := rfl
@[simp] theorem State.writeScalar_sram (th : Thr) (d : BitVec 5) (v : Word) : (s.writeScalar th d v).sram = s.sram := rfl
@[simp] theorem State.writeScalar_rings (th : Thr) (d : BitVec 5) (v : Word) : (s.writeScalar th d v).rings = s.rings := rfl
@[simp] theorem State.writeScalar_crown (th : Thr) (d : BitVec 5) (v : Word) : (s.writeScalar th d v).crown = s.crown := rfl
@[simp] theorem State.writeScalar_svc (th : Thr) (d : BitVec 5) (v : Word) : (s.writeScalar th d v).svc = s.svc := rfl

@[simp] theorem State.writeFlag_pending (th : Thr) (k : Fin 8) (v : Bool) : (s.writeFlag th k v).pending = s.pending := rfl
@[simp] theorem State.writeFlag_free (th : Thr) (k : Fin 8) (v : Bool) : (s.writeFlag th k v).free = s.free := rfl
@[simp] theorem State.writeFlag_out (th : Thr) (k : Fin 8) (v : Bool) : (s.writeFlag th k v).out = s.out := rfl
@[simp] theorem State.writeFlag_regs (th : Thr) (k : Fin 8) (v : Bool) : (s.writeFlag th k v).regs = s.regs := rfl
@[simp] theorem State.writeFlag_latch (th : Thr) (k : Fin 8) (v : Bool) : (s.writeFlag th k v).latch = s.latch := rfl
@[simp] theorem State.writeFlag_capture (th : Thr) (k : Fin 8) (v : Bool) : (s.writeFlag th k v).capture = s.capture := rfl
@[simp] theorem State.writeFlag_late (th : Thr) (k : Fin 8) (v : Bool) : (s.writeFlag th k v).late = s.late := rfl
@[simp] theorem State.writeFlag_sealed (th : Thr) (k : Fin 8) (v : Bool) : (s.writeFlag th k v).sealed = s.sealed := rfl
@[simp] theorem State.writeFlag_stage (th : Thr) (k : Fin 8) (v : Bool) : (s.writeFlag th k v).stage = s.stage := rfl
@[simp] theorem State.writeFlag_clk (th : Thr) (k : Fin 8) (v : Bool) : (s.writeFlag th k v).clk = s.clk := rfl
@[simp] theorem State.writeFlag_mem (th : Thr) (k : Fin 8) (v : Bool) : (s.writeFlag th k v).mem = s.mem := rfl
@[simp] theorem State.writeFlag_canopy (th : Thr) (k : Fin 8) (v : Bool) : (s.writeFlag th k v).canopy = s.canopy := rfl
@[simp] theorem State.writeFlag_retire (th : Thr) (k : Fin 8) (v : Bool) : (s.writeFlag th k v).retire = s.retire := rfl
@[simp] theorem State.writeFlag_host (th : Thr) (k : Fin 8) (v : Bool) : (s.writeFlag th k v).host = s.host := rfl
@[simp] theorem State.writeFlag_queues (th : Thr) (k : Fin 8) (v : Bool) : (s.writeFlag th k v).queues = s.queues := rfl
@[simp] theorem State.writeFlag_hq (th : Thr) (k : Fin 8) (v : Bool) : (s.writeFlag th k v).hq = s.hq := rfl
@[simp] theorem State.writeFlag_log (th : Thr) (k : Fin 8) (v : Bool) : (s.writeFlag th k v).log = s.log := rfl
@[simp] theorem State.writeFlag_ports (th : Thr) (k : Fin 8) (v : Bool) : (s.writeFlag th k v).ports = s.ports := rfl
@[simp] theorem State.writeFlag_fleet (th : Thr) (k : Fin 8) (v : Bool) : (s.writeFlag th k v).fleet = s.fleet := rfl
@[simp] theorem State.writeFlag_power (th : Thr) (k : Fin 8) (v : Bool) : (s.writeFlag th k v).power = s.power := rfl
@[simp] theorem State.writeFlag_le (th : Thr) (k : Fin 8) (v : Bool) : (s.writeFlag th k v).le = s.le := rfl
@[simp] theorem State.writeFlag_sap (th : Thr) (k : Fin 8) (v : Bool) : (s.writeFlag th k v).sap = s.sap := rfl
@[simp] theorem State.writeFlag_budget (th : Thr) (k : Fin 8) (v : Bool) : (s.writeFlag th k v).budget = s.budget := rfl
@[simp] theorem State.writeFlag_hwd (th : Thr) (k : Fin 8) (v : Bool) : (s.writeFlag th k v).hwd = s.hwd := rfl
@[simp] theorem State.writeFlag_start (th : Thr) (k : Fin 8) (v : Bool) : (s.writeFlag th k v).start = s.start := rfl
@[simp] theorem State.writeFlag_sram (th : Thr) (k : Fin 8) (v : Bool) : (s.writeFlag th k v).sram = s.sram := rfl
@[simp] theorem State.writeFlag_rings (th : Thr) (k : Fin 8) (v : Bool) : (s.writeFlag th k v).rings = s.rings := rfl
@[simp] theorem State.writeFlag_crown (th : Thr) (k : Fin 8) (v : Bool) : (s.writeFlag th k v).crown = s.crown := rfl
@[simp] theorem State.writeFlag_svc (th : Thr) (k : Fin 8) (v : Bool) : (s.writeFlag th k v).svc = s.svc := rfl

@[simp] theorem State.noteIssue_pending (t : Nat) (n : Fin 16) : (s.noteIssue t n).pending = s.pending := rfl
@[simp] theorem State.noteIssue_free (t : Nat) (n : Fin 16) : (s.noteIssue t n).free = s.free := rfl
@[simp] theorem State.noteIssue_out (t : Nat) (n : Fin 16) : (s.noteIssue t n).out = s.out := rfl
@[simp] theorem State.noteIssue_regs (t : Nat) (n : Fin 16) : (s.noteIssue t n).regs = s.regs := rfl
@[simp] theorem State.noteIssue_latch (t : Nat) (n : Fin 16) : (s.noteIssue t n).latch = s.latch := rfl
@[simp] theorem State.noteIssue_capture (t : Nat) (n : Fin 16) : (s.noteIssue t n).capture = s.capture := rfl
@[simp] theorem State.noteIssue_late (t : Nat) (n : Fin 16) : (s.noteIssue t n).late = s.late := rfl
@[simp] theorem State.noteIssue_sealed (t : Nat) (n : Fin 16) : (s.noteIssue t n).sealed = s.sealed := rfl
@[simp] theorem State.noteIssue_stage (t : Nat) (n : Fin 16) : (s.noteIssue t n).stage = s.stage := rfl
@[simp] theorem State.noteIssue_clk (t : Nat) (n : Fin 16) : (s.noteIssue t n).clk = s.clk := rfl
@[simp] theorem State.noteIssue_mem (t : Nat) (n : Fin 16) : (s.noteIssue t n).mem = s.mem := rfl
@[simp] theorem State.noteIssue_canopy (t : Nat) (n : Fin 16) : (s.noteIssue t n).canopy = s.canopy := rfl
@[simp] theorem State.noteIssue_retire (t : Nat) (n : Fin 16) : (s.noteIssue t n).retire = s.retire := rfl
@[simp] theorem State.noteIssue_host (t : Nat) (n : Fin 16) : (s.noteIssue t n).host = s.host := rfl
@[simp] theorem State.noteIssue_queues (t : Nat) (n : Fin 16) : (s.noteIssue t n).queues = s.queues := rfl
@[simp] theorem State.noteIssue_hq (t : Nat) (n : Fin 16) : (s.noteIssue t n).hq = s.hq := rfl
@[simp] theorem State.noteIssue_log (t : Nat) (n : Fin 16) : (s.noteIssue t n).log = s.log := rfl
@[simp] theorem State.noteIssue_ports (t : Nat) (n : Fin 16) : (s.noteIssue t n).ports = s.ports := rfl
@[simp] theorem State.noteIssue_fleet (t : Nat) (n : Fin 16) : (s.noteIssue t n).fleet = s.fleet := rfl
@[simp] theorem State.noteIssue_power (t : Nat) (n : Fin 16) : (s.noteIssue t n).power = s.power := rfl
@[simp] theorem State.noteIssue_le (t : Nat) (n : Fin 16) : (s.noteIssue t n).le = s.le := rfl
@[simp] theorem State.noteIssue_sap (t : Nat) (n : Fin 16) : (s.noteIssue t n).sap = s.sap := rfl
@[simp] theorem State.noteIssue_budget (t : Nat) (n : Fin 16) : (s.noteIssue t n).budget = s.budget := rfl
@[simp] theorem State.noteIssue_hwd (t : Nat) (n : Fin 16) : (s.noteIssue t n).hwd = s.hwd := rfl
@[simp] theorem State.noteIssue_start (t : Nat) (n : Fin 16) : (s.noteIssue t n).start = s.start := rfl
@[simp] theorem State.noteIssue_sram (t : Nat) (n : Fin 16) : (s.noteIssue t n).sram = s.sram := rfl
@[simp] theorem State.noteIssue_rings (t : Nat) (n : Fin 16) : (s.noteIssue t n).rings = s.rings := rfl
@[simp] theorem State.noteIssue_crown (t : Nat) (n : Fin 16) : (s.noteIssue t n).crown = s.crown := rfl
@[simp] theorem State.noteIssue_svc (t : Nat) (n : Fin 16) : (s.noteIssue t n).svc = s.svc := rfl

@[simp] theorem State.setQueue_pending (q : Fin 64) (x : Queue) : (s.setQueue q x).pending = s.pending := rfl
@[simp] theorem State.setQueue_free (q : Fin 64) (x : Queue) : (s.setQueue q x).free = s.free := rfl
@[simp] theorem State.setQueue_out (q : Fin 64) (x : Queue) : (s.setQueue q x).out = s.out := rfl
@[simp] theorem State.setQueue_regs (q : Fin 64) (x : Queue) : (s.setQueue q x).regs = s.regs := rfl
@[simp] theorem State.setQueue_latch (q : Fin 64) (x : Queue) : (s.setQueue q x).latch = s.latch := rfl
@[simp] theorem State.setQueue_capture (q : Fin 64) (x : Queue) : (s.setQueue q x).capture = s.capture := rfl
@[simp] theorem State.setQueue_late (q : Fin 64) (x : Queue) : (s.setQueue q x).late = s.late := rfl
@[simp] theorem State.setQueue_sealed (q : Fin 64) (x : Queue) : (s.setQueue q x).sealed = s.sealed := rfl
@[simp] theorem State.setQueue_stage (q : Fin 64) (x : Queue) : (s.setQueue q x).stage = s.stage := rfl
@[simp] theorem State.setQueue_clk (q : Fin 64) (x : Queue) : (s.setQueue q x).clk = s.clk := rfl
@[simp] theorem State.setQueue_tiles (q : Fin 64) (x : Queue) : (s.setQueue q x).tiles = s.tiles := rfl
@[simp] theorem State.setQueue_mem (q : Fin 64) (x : Queue) : (s.setQueue q x).mem = s.mem := rfl
@[simp] theorem State.setQueue_canopy (q : Fin 64) (x : Queue) : (s.setQueue q x).canopy = s.canopy := rfl
@[simp] theorem State.setQueue_retire (q : Fin 64) (x : Queue) : (s.setQueue q x).retire = s.retire := rfl
@[simp] theorem State.setQueue_host (q : Fin 64) (x : Queue) : (s.setQueue q x).host = s.host := rfl
@[simp] theorem State.setQueue_hq (q : Fin 64) (x : Queue) : (s.setQueue q x).hq = s.hq := rfl
@[simp] theorem State.setQueue_log (q : Fin 64) (x : Queue) : (s.setQueue q x).log = s.log := rfl
@[simp] theorem State.setQueue_ports (q : Fin 64) (x : Queue) : (s.setQueue q x).ports = s.ports := rfl
@[simp] theorem State.setQueue_fleet (q : Fin 64) (x : Queue) : (s.setQueue q x).fleet = s.fleet := rfl
@[simp] theorem State.setQueue_power (q : Fin 64) (x : Queue) : (s.setQueue q x).power = s.power := rfl
@[simp] theorem State.setQueue_le (q : Fin 64) (x : Queue) : (s.setQueue q x).le = s.le := rfl
@[simp] theorem State.setQueue_sap (q : Fin 64) (x : Queue) : (s.setQueue q x).sap = s.sap := rfl
@[simp] theorem State.setQueue_budget (q : Fin 64) (x : Queue) : (s.setQueue q x).budget = s.budget := rfl
@[simp] theorem State.setQueue_hwd (q : Fin 64) (x : Queue) : (s.setQueue q x).hwd = s.hwd := rfl
@[simp] theorem State.setQueue_start (q : Fin 64) (x : Queue) : (s.setQueue q x).start = s.start := rfl
@[simp] theorem State.setQueue_sram (q : Fin 64) (x : Queue) : (s.setQueue q x).sram = s.sram := rfl
@[simp] theorem State.setQueue_rings (q : Fin 64) (x : Queue) : (s.setQueue q x).rings = s.rings := rfl
@[simp] theorem State.setQueue_crown (q : Fin 64) (x : Queue) : (s.setQueue q x).crown = s.crown := rfl
@[simp] theorem State.setQueue_svc (q : Fin 64) (x : Queue) : (s.setQueue q x).svc = s.svc := rfl

@[simp] theorem State.settleWaits_pending : (s.settleWaits).pending = s.pending := rfl
@[simp] theorem State.settleWaits_free : (s.settleWaits).free = s.free := rfl
@[simp] theorem State.settleWaits_out : (s.settleWaits).out = s.out := rfl
@[simp] theorem State.settleWaits_regs : (s.settleWaits).regs = s.regs := rfl
@[simp] theorem State.settleWaits_latch : (s.settleWaits).latch = s.latch := rfl
@[simp] theorem State.settleWaits_capture : (s.settleWaits).capture = s.capture := rfl
@[simp] theorem State.settleWaits_late : (s.settleWaits).late = s.late := rfl
@[simp] theorem State.settleWaits_sealed : (s.settleWaits).sealed = s.sealed := rfl
@[simp] theorem State.settleWaits_stage : (s.settleWaits).stage = s.stage := rfl
@[simp] theorem State.settleWaits_clk : (s.settleWaits).clk = s.clk := rfl
@[simp] theorem State.settleWaits_tiles : (s.settleWaits).tiles = s.tiles := rfl
@[simp] theorem State.settleWaits_mem : (s.settleWaits).mem = s.mem := rfl
@[simp] theorem State.settleWaits_canopy : (s.settleWaits).canopy = s.canopy := rfl
@[simp] theorem State.settleWaits_retire : (s.settleWaits).retire = s.retire := rfl
@[simp] theorem State.settleWaits_host : (s.settleWaits).host = s.host := rfl
@[simp] theorem State.settleWaits_hq : (s.settleWaits).hq = s.hq := rfl
@[simp] theorem State.settleWaits_log : (s.settleWaits).log = s.log := rfl
@[simp] theorem State.settleWaits_ports : (s.settleWaits).ports = s.ports := rfl
@[simp] theorem State.settleWaits_fleet : (s.settleWaits).fleet = s.fleet := rfl
@[simp] theorem State.settleWaits_power : (s.settleWaits).power = s.power := rfl
@[simp] theorem State.settleWaits_le : (s.settleWaits).le = s.le := rfl
@[simp] theorem State.settleWaits_sap : (s.settleWaits).sap = s.sap := rfl
@[simp] theorem State.settleWaits_budget : (s.settleWaits).budget = s.budget := rfl
@[simp] theorem State.settleWaits_hwd : (s.settleWaits).hwd = s.hwd := rfl
@[simp] theorem State.settleWaits_start : (s.settleWaits).start = s.start := rfl
@[simp] theorem State.settleWaits_sram : (s.settleWaits).sram = s.sram := rfl
@[simp] theorem State.settleWaits_rings : (s.settleWaits).rings = s.rings := rfl
@[simp] theorem State.settleWaits_crown : (s.settleWaits).crown = s.crown := rfl
@[simp] theorem State.settleWaits_svc : (s.settleWaits).svc = s.svc := rfl

@[simp] theorem State.setHost_pending (fn : Fn) (h : HostPort) : (s.setHost fn h).pending = s.pending := rfl
@[simp] theorem State.setHost_free (fn : Fn) (h : HostPort) : (s.setHost fn h).free = s.free := rfl
@[simp] theorem State.setHost_out (fn : Fn) (h : HostPort) : (s.setHost fn h).out = s.out := rfl
@[simp] theorem State.setHost_regs (fn : Fn) (h : HostPort) : (s.setHost fn h).regs = s.regs := rfl
@[simp] theorem State.setHost_latch (fn : Fn) (h : HostPort) : (s.setHost fn h).latch = s.latch := rfl
@[simp] theorem State.setHost_capture (fn : Fn) (h : HostPort) : (s.setHost fn h).capture = s.capture := rfl
@[simp] theorem State.setHost_late (fn : Fn) (h : HostPort) : (s.setHost fn h).late = s.late := rfl
@[simp] theorem State.setHost_sealed (fn : Fn) (h : HostPort) : (s.setHost fn h).sealed = s.sealed := rfl
@[simp] theorem State.setHost_stage (fn : Fn) (h : HostPort) : (s.setHost fn h).stage = s.stage := rfl
@[simp] theorem State.setHost_clk (fn : Fn) (h : HostPort) : (s.setHost fn h).clk = s.clk := rfl
@[simp] theorem State.setHost_tiles (fn : Fn) (h : HostPort) : (s.setHost fn h).tiles = s.tiles := rfl
@[simp] theorem State.setHost_mem (fn : Fn) (h : HostPort) : (s.setHost fn h).mem = s.mem := rfl
@[simp] theorem State.setHost_canopy (fn : Fn) (h : HostPort) : (s.setHost fn h).canopy = s.canopy := rfl
@[simp] theorem State.setHost_retire (fn : Fn) (h : HostPort) : (s.setHost fn h).retire = s.retire := rfl
@[simp] theorem State.setHost_queues (fn : Fn) (h : HostPort) : (s.setHost fn h).queues = s.queues := rfl
@[simp] theorem State.setHost_hq (fn : Fn) (h : HostPort) : (s.setHost fn h).hq = s.hq := rfl
@[simp] theorem State.setHost_log (fn : Fn) (h : HostPort) : (s.setHost fn h).log = s.log := rfl
@[simp] theorem State.setHost_ports (fn : Fn) (h : HostPort) : (s.setHost fn h).ports = s.ports := rfl
@[simp] theorem State.setHost_fleet (fn : Fn) (h : HostPort) : (s.setHost fn h).fleet = s.fleet := rfl
@[simp] theorem State.setHost_power (fn : Fn) (h : HostPort) : (s.setHost fn h).power = s.power := rfl
@[simp] theorem State.setHost_le (fn : Fn) (h : HostPort) : (s.setHost fn h).le = s.le := rfl
@[simp] theorem State.setHost_sap (fn : Fn) (h : HostPort) : (s.setHost fn h).sap = s.sap := rfl
@[simp] theorem State.setHost_budget (fn : Fn) (h : HostPort) : (s.setHost fn h).budget = s.budget := rfl
@[simp] theorem State.setHost_hwd (fn : Fn) (h : HostPort) : (s.setHost fn h).hwd = s.hwd := rfl
@[simp] theorem State.setHost_start (fn : Fn) (h : HostPort) : (s.setHost fn h).start = s.start := rfl
@[simp] theorem State.setHost_sram (fn : Fn) (h : HostPort) : (s.setHost fn h).sram = s.sram := rfl
@[simp] theorem State.setHost_rings (fn : Fn) (h : HostPort) : (s.setHost fn h).rings = s.rings := rfl
@[simp] theorem State.setHost_crown (fn : Fn) (h : HostPort) : (s.setHost fn h).crown = s.crown := rfl
@[simp] theorem State.setHost_svc (fn : Fn) (h : HostPort) : (s.setHost fn h).svc = s.svc := rfl

@[simp] theorem State.setRail_pending (r : Fin 11) (x : Rail) : (s.setRail r x).pending = s.pending := rfl
@[simp] theorem State.setRail_free (r : Fin 11) (x : Rail) : (s.setRail r x).free = s.free := rfl
@[simp] theorem State.setRail_out (r : Fin 11) (x : Rail) : (s.setRail r x).out = s.out := rfl
@[simp] theorem State.setRail_regs (r : Fin 11) (x : Rail) : (s.setRail r x).regs = s.regs := rfl
@[simp] theorem State.setRail_latch (r : Fin 11) (x : Rail) : (s.setRail r x).latch = s.latch := rfl
@[simp] theorem State.setRail_capture (r : Fin 11) (x : Rail) : (s.setRail r x).capture = s.capture := rfl
@[simp] theorem State.setRail_late (r : Fin 11) (x : Rail) : (s.setRail r x).late = s.late := rfl
@[simp] theorem State.setRail_sealed (r : Fin 11) (x : Rail) : (s.setRail r x).sealed = s.sealed := rfl
@[simp] theorem State.setRail_stage (r : Fin 11) (x : Rail) : (s.setRail r x).stage = s.stage := rfl
@[simp] theorem State.setRail_clk (r : Fin 11) (x : Rail) : (s.setRail r x).clk = s.clk := rfl
@[simp] theorem State.setRail_tiles (r : Fin 11) (x : Rail) : (s.setRail r x).tiles = s.tiles := rfl
@[simp] theorem State.setRail_mem (r : Fin 11) (x : Rail) : (s.setRail r x).mem = s.mem := rfl
@[simp] theorem State.setRail_canopy (r : Fin 11) (x : Rail) : (s.setRail r x).canopy = s.canopy := rfl
@[simp] theorem State.setRail_retire (r : Fin 11) (x : Rail) : (s.setRail r x).retire = s.retire := rfl
@[simp] theorem State.setRail_host (r : Fin 11) (x : Rail) : (s.setRail r x).host = s.host := rfl
@[simp] theorem State.setRail_queues (r : Fin 11) (x : Rail) : (s.setRail r x).queues = s.queues := rfl
@[simp] theorem State.setRail_hq (r : Fin 11) (x : Rail) : (s.setRail r x).hq = s.hq := rfl
@[simp] theorem State.setRail_log (r : Fin 11) (x : Rail) : (s.setRail r x).log = s.log := rfl
@[simp] theorem State.setRail_ports (r : Fin 11) (x : Rail) : (s.setRail r x).ports = s.ports := rfl
@[simp] theorem State.setRail_fleet (r : Fin 11) (x : Rail) : (s.setRail r x).fleet = s.fleet := rfl
@[simp] theorem State.setRail_le (r : Fin 11) (x : Rail) : (s.setRail r x).le = s.le := rfl
@[simp] theorem State.setRail_sap (r : Fin 11) (x : Rail) : (s.setRail r x).sap = s.sap := rfl
@[simp] theorem State.setRail_budget (r : Fin 11) (x : Rail) : (s.setRail r x).budget = s.budget := rfl
@[simp] theorem State.setRail_hwd (r : Fin 11) (x : Rail) : (s.setRail r x).hwd = s.hwd := rfl
@[simp] theorem State.setRail_start (r : Fin 11) (x : Rail) : (s.setRail r x).start = s.start := rfl
@[simp] theorem State.setRail_sram (r : Fin 11) (x : Rail) : (s.setRail r x).sram = s.sram := rfl
@[simp] theorem State.setRail_rings (r : Fin 11) (x : Rail) : (s.setRail r x).rings = s.rings := rfl
@[simp] theorem State.setRail_crown (r : Fin 11) (x : Rail) : (s.setRail r x).crown = s.crown := rfl
@[simp] theorem State.setRail_svc (r : Fin 11) (x : Rail) : (s.setRail r x).svc = s.svc := rfl

@[simp] theorem State.setCore_pending (d : Fin 4) (c : Core) : (s.setCore d c).pending = s.pending := rfl
@[simp] theorem State.setCore_free (d : Fin 4) (c : Core) : (s.setCore d c).free = s.free := rfl
@[simp] theorem State.setCore_out (d : Fin 4) (c : Core) : (s.setCore d c).out = s.out := rfl
@[simp] theorem State.setCore_regs (d : Fin 4) (c : Core) : (s.setCore d c).regs = s.regs := rfl
@[simp] theorem State.setCore_latch (d : Fin 4) (c : Core) : (s.setCore d c).latch = s.latch := rfl
@[simp] theorem State.setCore_capture (d : Fin 4) (c : Core) : (s.setCore d c).capture = s.capture := rfl
@[simp] theorem State.setCore_late (d : Fin 4) (c : Core) : (s.setCore d c).late = s.late := rfl
@[simp] theorem State.setCore_sealed (d : Fin 4) (c : Core) : (s.setCore d c).sealed = s.sealed := rfl
@[simp] theorem State.setCore_stage (d : Fin 4) (c : Core) : (s.setCore d c).stage = s.stage := rfl
@[simp] theorem State.setCore_clk (d : Fin 4) (c : Core) : (s.setCore d c).clk = s.clk := rfl
@[simp] theorem State.setCore_tiles (d : Fin 4) (c : Core) : (s.setCore d c).tiles = s.tiles := rfl
@[simp] theorem State.setCore_mem (d : Fin 4) (c : Core) : (s.setCore d c).mem = s.mem := rfl
@[simp] theorem State.setCore_canopy (d : Fin 4) (c : Core) : (s.setCore d c).canopy = s.canopy := rfl
@[simp] theorem State.setCore_retire (d : Fin 4) (c : Core) : (s.setCore d c).retire = s.retire := rfl
@[simp] theorem State.setCore_host (d : Fin 4) (c : Core) : (s.setCore d c).host = s.host := rfl
@[simp] theorem State.setCore_queues (d : Fin 4) (c : Core) : (s.setCore d c).queues = s.queues := rfl
@[simp] theorem State.setCore_hq (d : Fin 4) (c : Core) : (s.setCore d c).hq = s.hq := rfl
@[simp] theorem State.setCore_log (d : Fin 4) (c : Core) : (s.setCore d c).log = s.log := rfl
@[simp] theorem State.setCore_ports (d : Fin 4) (c : Core) : (s.setCore d c).ports = s.ports := rfl
@[simp] theorem State.setCore_fleet (d : Fin 4) (c : Core) : (s.setCore d c).fleet = s.fleet := rfl
@[simp] theorem State.setCore_le (d : Fin 4) (c : Core) : (s.setCore d c).le = s.le := rfl
@[simp] theorem State.setCore_sap (d : Fin 4) (c : Core) : (s.setCore d c).sap = s.sap := rfl
@[simp] theorem State.setCore_budget (d : Fin 4) (c : Core) : (s.setCore d c).budget = s.budget := rfl
@[simp] theorem State.setCore_hwd (d : Fin 4) (c : Core) : (s.setCore d c).hwd = s.hwd := rfl
@[simp] theorem State.setCore_start (d : Fin 4) (c : Core) : (s.setCore d c).start = s.start := rfl
@[simp] theorem State.setCore_sram (d : Fin 4) (c : Core) : (s.setCore d c).sram = s.sram := rfl
@[simp] theorem State.setCore_rings (d : Fin 4) (c : Core) : (s.setCore d c).rings = s.rings := rfl
@[simp] theorem State.setCore_crown (d : Fin 4) (c : Core) : (s.setCore d c).crown = s.crown := rfl
@[simp] theorem State.setCore_svc (d : Fin 4) (c : Core) : (s.setCore d c).svc = s.svc := rfl

@[simp] theorem State.setPort_pending (p : Fin 20) (x : Port) : (s.setPort p x).pending = s.pending := rfl
@[simp] theorem State.setPort_free (p : Fin 20) (x : Port) : (s.setPort p x).free = s.free := rfl
@[simp] theorem State.setPort_out (p : Fin 20) (x : Port) : (s.setPort p x).out = s.out := rfl
@[simp] theorem State.setPort_regs (p : Fin 20) (x : Port) : (s.setPort p x).regs = s.regs := rfl
@[simp] theorem State.setPort_latch (p : Fin 20) (x : Port) : (s.setPort p x).latch = s.latch := rfl
@[simp] theorem State.setPort_capture (p : Fin 20) (x : Port) : (s.setPort p x).capture = s.capture := rfl
@[simp] theorem State.setPort_late (p : Fin 20) (x : Port) : (s.setPort p x).late = s.late := rfl
@[simp] theorem State.setPort_sealed (p : Fin 20) (x : Port) : (s.setPort p x).sealed = s.sealed := rfl
@[simp] theorem State.setPort_stage (p : Fin 20) (x : Port) : (s.setPort p x).stage = s.stage := rfl
@[simp] theorem State.setPort_clk (p : Fin 20) (x : Port) : (s.setPort p x).clk = s.clk := rfl
@[simp] theorem State.setPort_tiles (p : Fin 20) (x : Port) : (s.setPort p x).tiles = s.tiles := rfl
@[simp] theorem State.setPort_mem (p : Fin 20) (x : Port) : (s.setPort p x).mem = s.mem := rfl
@[simp] theorem State.setPort_canopy (p : Fin 20) (x : Port) : (s.setPort p x).canopy = s.canopy := rfl
@[simp] theorem State.setPort_retire (p : Fin 20) (x : Port) : (s.setPort p x).retire = s.retire := rfl
@[simp] theorem State.setPort_host (p : Fin 20) (x : Port) : (s.setPort p x).host = s.host := rfl
@[simp] theorem State.setPort_queues (p : Fin 20) (x : Port) : (s.setPort p x).queues = s.queues := rfl
@[simp] theorem State.setPort_hq (p : Fin 20) (x : Port) : (s.setPort p x).hq = s.hq := rfl
@[simp] theorem State.setPort_log (p : Fin 20) (x : Port) : (s.setPort p x).log = s.log := rfl
@[simp] theorem State.setPort_fleet (p : Fin 20) (x : Port) : (s.setPort p x).fleet = s.fleet := rfl
@[simp] theorem State.setPort_power (p : Fin 20) (x : Port) : (s.setPort p x).power = s.power := rfl
@[simp] theorem State.setPort_le (p : Fin 20) (x : Port) : (s.setPort p x).le = s.le := rfl
@[simp] theorem State.setPort_sap (p : Fin 20) (x : Port) : (s.setPort p x).sap = s.sap := rfl
@[simp] theorem State.setPort_budget (p : Fin 20) (x : Port) : (s.setPort p x).budget = s.budget := rfl
@[simp] theorem State.setPort_hwd (p : Fin 20) (x : Port) : (s.setPort p x).hwd = s.hwd := rfl
@[simp] theorem State.setPort_start (p : Fin 20) (x : Port) : (s.setPort p x).start = s.start := rfl
@[simp] theorem State.setPort_sram (p : Fin 20) (x : Port) : (s.setPort p x).sram = s.sram := rfl
@[simp] theorem State.setPort_rings (p : Fin 20) (x : Port) : (s.setPort p x).rings = s.rings := rfl
@[simp] theorem State.setPort_crown (p : Fin 20) (x : Port) : (s.setPort p x).crown = s.crown := rfl
@[simp] theorem State.setPort_svc (p : Fin 20) (x : Port) : (s.setPort p x).svc = s.svc := rfl

@[simp] theorem State.setSlot_pending (n : Fin 4) (x : Slot) : (s.setSlot n x).pending = s.pending := rfl
@[simp] theorem State.setSlot_free (n : Fin 4) (x : Slot) : (s.setSlot n x).free = s.free := rfl
@[simp] theorem State.setSlot_out (n : Fin 4) (x : Slot) : (s.setSlot n x).out = s.out := rfl
@[simp] theorem State.setSlot_regs (n : Fin 4) (x : Slot) : (s.setSlot n x).regs = s.regs := rfl
@[simp] theorem State.setSlot_latch (n : Fin 4) (x : Slot) : (s.setSlot n x).latch = s.latch := rfl
@[simp] theorem State.setSlot_capture (n : Fin 4) (x : Slot) : (s.setSlot n x).capture = s.capture := rfl
@[simp] theorem State.setSlot_late (n : Fin 4) (x : Slot) : (s.setSlot n x).late = s.late := rfl
@[simp] theorem State.setSlot_sealed (n : Fin 4) (x : Slot) : (s.setSlot n x).sealed = s.sealed := rfl
@[simp] theorem State.setSlot_stage (n : Fin 4) (x : Slot) : (s.setSlot n x).stage = s.stage := rfl
@[simp] theorem State.setSlot_clk (n : Fin 4) (x : Slot) : (s.setSlot n x).clk = s.clk := rfl
@[simp] theorem State.setSlot_tiles (n : Fin 4) (x : Slot) : (s.setSlot n x).tiles = s.tiles := rfl
@[simp] theorem State.setSlot_mem (n : Fin 4) (x : Slot) : (s.setSlot n x).mem = s.mem := rfl
@[simp] theorem State.setSlot_canopy (n : Fin 4) (x : Slot) : (s.setSlot n x).canopy = s.canopy := rfl
@[simp] theorem State.setSlot_retire (n : Fin 4) (x : Slot) : (s.setSlot n x).retire = s.retire := rfl
@[simp] theorem State.setSlot_host (n : Fin 4) (x : Slot) : (s.setSlot n x).host = s.host := rfl
@[simp] theorem State.setSlot_queues (n : Fin 4) (x : Slot) : (s.setSlot n x).queues = s.queues := rfl
@[simp] theorem State.setSlot_hq (n : Fin 4) (x : Slot) : (s.setSlot n x).hq = s.hq := rfl
@[simp] theorem State.setSlot_log (n : Fin 4) (x : Slot) : (s.setSlot n x).log = s.log := rfl
@[simp] theorem State.setSlot_ports (n : Fin 4) (x : Slot) : (s.setSlot n x).ports = s.ports := rfl
@[simp] theorem State.setSlot_fleet (n : Fin 4) (x : Slot) : (s.setSlot n x).fleet = s.fleet := rfl
@[simp] theorem State.setSlot_power (n : Fin 4) (x : Slot) : (s.setSlot n x).power = s.power := rfl
@[simp] theorem State.setSlot_sap (n : Fin 4) (x : Slot) : (s.setSlot n x).sap = s.sap := rfl
@[simp] theorem State.setSlot_budget (n : Fin 4) (x : Slot) : (s.setSlot n x).budget = s.budget := rfl
@[simp] theorem State.setSlot_hwd (n : Fin 4) (x : Slot) : (s.setSlot n x).hwd = s.hwd := rfl
@[simp] theorem State.setSlot_start (n : Fin 4) (x : Slot) : (s.setSlot n x).start = s.start := rfl
@[simp] theorem State.setSlot_sram (n : Fin 4) (x : Slot) : (s.setSlot n x).sram = s.sram := rfl
@[simp] theorem State.setSlot_rings (n : Fin 4) (x : Slot) : (s.setSlot n x).rings = s.rings := rfl
@[simp] theorem State.setSlot_crown (n : Fin 4) (x : Slot) : (s.setSlot n x).crown = s.crown := rfl
@[simp] theorem State.setSlot_svc (n : Fin 4) (x : Slot) : (s.setSlot n x).svc = s.svc := rfl

@[simp] theorem State.setFleet_pending (f : Fleet) : (s.setFleet f).pending = s.pending := rfl
@[simp] theorem State.setFleet_free (f : Fleet) : (s.setFleet f).free = s.free := rfl
@[simp] theorem State.setFleet_out (f : Fleet) : (s.setFleet f).out = s.out := rfl
@[simp] theorem State.setFleet_regs (f : Fleet) : (s.setFleet f).regs = s.regs := rfl
@[simp] theorem State.setFleet_latch (f : Fleet) : (s.setFleet f).latch = s.latch := rfl
@[simp] theorem State.setFleet_capture (f : Fleet) : (s.setFleet f).capture = s.capture := rfl
@[simp] theorem State.setFleet_late (f : Fleet) : (s.setFleet f).late = s.late := rfl
@[simp] theorem State.setFleet_sealed (f : Fleet) : (s.setFleet f).sealed = s.sealed := rfl
@[simp] theorem State.setFleet_stage (f : Fleet) : (s.setFleet f).stage = s.stage := rfl
@[simp] theorem State.setFleet_clk (f : Fleet) : (s.setFleet f).clk = s.clk := rfl
@[simp] theorem State.setFleet_tiles (f : Fleet) : (s.setFleet f).tiles = s.tiles := rfl
@[simp] theorem State.setFleet_mem (f : Fleet) : (s.setFleet f).mem = s.mem := rfl
@[simp] theorem State.setFleet_canopy (f : Fleet) : (s.setFleet f).canopy = s.canopy := rfl
@[simp] theorem State.setFleet_retire (f : Fleet) : (s.setFleet f).retire = s.retire := rfl
@[simp] theorem State.setFleet_host (f : Fleet) : (s.setFleet f).host = s.host := rfl
@[simp] theorem State.setFleet_queues (f : Fleet) : (s.setFleet f).queues = s.queues := rfl
@[simp] theorem State.setFleet_hq (f : Fleet) : (s.setFleet f).hq = s.hq := rfl
@[simp] theorem State.setFleet_log (f : Fleet) : (s.setFleet f).log = s.log := rfl
@[simp] theorem State.setFleet_ports (f : Fleet) : (s.setFleet f).ports = s.ports := rfl
@[simp] theorem State.setFleet_power (f : Fleet) : (s.setFleet f).power = s.power := rfl
@[simp] theorem State.setFleet_le (f : Fleet) : (s.setFleet f).le = s.le := rfl
@[simp] theorem State.setFleet_sap (f : Fleet) : (s.setFleet f).sap = s.sap := rfl
@[simp] theorem State.setFleet_budget (f : Fleet) : (s.setFleet f).budget = s.budget := rfl
@[simp] theorem State.setFleet_hwd (f : Fleet) : (s.setFleet f).hwd = s.hwd := rfl
@[simp] theorem State.setFleet_start (f : Fleet) : (s.setFleet f).start = s.start := rfl
@[simp] theorem State.setFleet_sram (f : Fleet) : (s.setFleet f).sram = s.sram := rfl
@[simp] theorem State.setFleet_rings (f : Fleet) : (s.setFleet f).rings = s.rings := rfl
@[simp] theorem State.setFleet_crown (f : Fleet) : (s.setFleet f).crown = s.crown := rfl
@[simp] theorem State.setFleet_svc (f : Fleet) : (s.setFleet f).svc = s.svc := rfl

@[simp] theorem State.setRing_pending (fn : Fn) (r : Ring) : (s.setRing fn r).pending = s.pending := rfl
@[simp] theorem State.setRing_free (fn : Fn) (r : Ring) : (s.setRing fn r).free = s.free := rfl
@[simp] theorem State.setRing_out (fn : Fn) (r : Ring) : (s.setRing fn r).out = s.out := rfl
@[simp] theorem State.setRing_regs (fn : Fn) (r : Ring) : (s.setRing fn r).regs = s.regs := rfl
@[simp] theorem State.setRing_latch (fn : Fn) (r : Ring) : (s.setRing fn r).latch = s.latch := rfl
@[simp] theorem State.setRing_capture (fn : Fn) (r : Ring) : (s.setRing fn r).capture = s.capture := rfl
@[simp] theorem State.setRing_late (fn : Fn) (r : Ring) : (s.setRing fn r).late = s.late := rfl
@[simp] theorem State.setRing_sealed (fn : Fn) (r : Ring) : (s.setRing fn r).sealed = s.sealed := rfl
@[simp] theorem State.setRing_stage (fn : Fn) (r : Ring) : (s.setRing fn r).stage = s.stage := rfl
@[simp] theorem State.setRing_clk (fn : Fn) (r : Ring) : (s.setRing fn r).clk = s.clk := rfl
@[simp] theorem State.setRing_tiles (fn : Fn) (r : Ring) : (s.setRing fn r).tiles = s.tiles := rfl
@[simp] theorem State.setRing_mem (fn : Fn) (r : Ring) : (s.setRing fn r).mem = s.mem := rfl
@[simp] theorem State.setRing_canopy (fn : Fn) (r : Ring) : (s.setRing fn r).canopy = s.canopy := rfl
@[simp] theorem State.setRing_retire (fn : Fn) (r : Ring) : (s.setRing fn r).retire = s.retire := rfl
@[simp] theorem State.setRing_host (fn : Fn) (r : Ring) : (s.setRing fn r).host = s.host := rfl
@[simp] theorem State.setRing_queues (fn : Fn) (r : Ring) : (s.setRing fn r).queues = s.queues := rfl
@[simp] theorem State.setRing_hq (fn : Fn) (r : Ring) : (s.setRing fn r).hq = s.hq := rfl
@[simp] theorem State.setRing_log (fn : Fn) (r : Ring) : (s.setRing fn r).log = s.log := rfl
@[simp] theorem State.setRing_ports (fn : Fn) (r : Ring) : (s.setRing fn r).ports = s.ports := rfl
@[simp] theorem State.setRing_fleet (fn : Fn) (r : Ring) : (s.setRing fn r).fleet = s.fleet := rfl
@[simp] theorem State.setRing_power (fn : Fn) (r : Ring) : (s.setRing fn r).power = s.power := rfl
@[simp] theorem State.setRing_le (fn : Fn) (r : Ring) : (s.setRing fn r).le = s.le := rfl
@[simp] theorem State.setRing_sap (fn : Fn) (r : Ring) : (s.setRing fn r).sap = s.sap := rfl
@[simp] theorem State.setRing_budget (fn : Fn) (r : Ring) : (s.setRing fn r).budget = s.budget := rfl
@[simp] theorem State.setRing_hwd (fn : Fn) (r : Ring) : (s.setRing fn r).hwd = s.hwd := rfl
@[simp] theorem State.setRing_start (fn : Fn) (r : Ring) : (s.setRing fn r).start = s.start := rfl
@[simp] theorem State.setRing_sram (fn : Fn) (r : Ring) : (s.setRing fn r).sram = s.sram := rfl
@[simp] theorem State.setRing_crown (fn : Fn) (r : Ring) : (s.setRing fn r).crown = s.crown := rfl
@[simp] theorem State.setRing_svc (fn : Fn) (r : Ring) : (s.setRing fn r).svc = s.svc := rfl

@[simp] theorem State.setSpdm_pending (fn : Fn) (x : SpdmState) : (s.setSpdm fn x).pending = s.pending := rfl
@[simp] theorem State.setSpdm_free (fn : Fn) (x : SpdmState) : (s.setSpdm fn x).free = s.free := rfl
@[simp] theorem State.setSpdm_out (fn : Fn) (x : SpdmState) : (s.setSpdm fn x).out = s.out := rfl
@[simp] theorem State.setSpdm_regs (fn : Fn) (x : SpdmState) : (s.setSpdm fn x).regs = s.regs := rfl
@[simp] theorem State.setSpdm_latch (fn : Fn) (x : SpdmState) : (s.setSpdm fn x).latch = s.latch := rfl
@[simp] theorem State.setSpdm_capture (fn : Fn) (x : SpdmState) : (s.setSpdm fn x).capture = s.capture := rfl
@[simp] theorem State.setSpdm_late (fn : Fn) (x : SpdmState) : (s.setSpdm fn x).late = s.late := rfl
@[simp] theorem State.setSpdm_sealed (fn : Fn) (x : SpdmState) : (s.setSpdm fn x).sealed = s.sealed := rfl
@[simp] theorem State.setSpdm_stage (fn : Fn) (x : SpdmState) : (s.setSpdm fn x).stage = s.stage := rfl
@[simp] theorem State.setSpdm_clk (fn : Fn) (x : SpdmState) : (s.setSpdm fn x).clk = s.clk := rfl
@[simp] theorem State.setSpdm_tiles (fn : Fn) (x : SpdmState) : (s.setSpdm fn x).tiles = s.tiles := rfl
@[simp] theorem State.setSpdm_mem (fn : Fn) (x : SpdmState) : (s.setSpdm fn x).mem = s.mem := rfl
@[simp] theorem State.setSpdm_canopy (fn : Fn) (x : SpdmState) : (s.setSpdm fn x).canopy = s.canopy := rfl
@[simp] theorem State.setSpdm_retire (fn : Fn) (x : SpdmState) : (s.setSpdm fn x).retire = s.retire := rfl
@[simp] theorem State.setSpdm_host (fn : Fn) (x : SpdmState) : (s.setSpdm fn x).host = s.host := rfl
@[simp] theorem State.setSpdm_queues (fn : Fn) (x : SpdmState) : (s.setSpdm fn x).queues = s.queues := rfl
@[simp] theorem State.setSpdm_hq (fn : Fn) (x : SpdmState) : (s.setSpdm fn x).hq = s.hq := rfl
@[simp] theorem State.setSpdm_log (fn : Fn) (x : SpdmState) : (s.setSpdm fn x).log = s.log := rfl
@[simp] theorem State.setSpdm_ports (fn : Fn) (x : SpdmState) : (s.setSpdm fn x).ports = s.ports := rfl
@[simp] theorem State.setSpdm_fleet (fn : Fn) (x : SpdmState) : (s.setSpdm fn x).fleet = s.fleet := rfl
@[simp] theorem State.setSpdm_power (fn : Fn) (x : SpdmState) : (s.setSpdm fn x).power = s.power := rfl
@[simp] theorem State.setSpdm_le (fn : Fn) (x : SpdmState) : (s.setSpdm fn x).le = s.le := rfl
@[simp] theorem State.setSpdm_sap (fn : Fn) (x : SpdmState) : (s.setSpdm fn x).sap = s.sap := rfl
@[simp] theorem State.setSpdm_budget (fn : Fn) (x : SpdmState) : (s.setSpdm fn x).budget = s.budget := rfl
@[simp] theorem State.setSpdm_hwd (fn : Fn) (x : SpdmState) : (s.setSpdm fn x).hwd = s.hwd := rfl
@[simp] theorem State.setSpdm_start (fn : Fn) (x : SpdmState) : (s.setSpdm fn x).start = s.start := rfl
@[simp] theorem State.setSpdm_sram (fn : Fn) (x : SpdmState) : (s.setSpdm fn x).sram = s.sram := rfl
@[simp] theorem State.setSpdm_rings (fn : Fn) (x : SpdmState) : (s.setSpdm fn x).rings = s.rings := rfl
@[simp] theorem State.setSpdm_svc (fn : Fn) (x : SpdmState) : (s.setSpdm fn x).svc = s.svc := rfl

@[simp] theorem State.devWrite_pending (view : BitVec 2) (a : Nat) (l : List Byte) : (s.devWrite view a l).pending = s.pending := rfl
@[simp] theorem State.devWrite_free (view : BitVec 2) (a : Nat) (l : List Byte) : (s.devWrite view a l).free = s.free := rfl
@[simp] theorem State.devWrite_out (view : BitVec 2) (a : Nat) (l : List Byte) : (s.devWrite view a l).out = s.out := rfl
@[simp] theorem State.devWrite_regs (view : BitVec 2) (a : Nat) (l : List Byte) : (s.devWrite view a l).regs = s.regs := rfl
@[simp] theorem State.devWrite_latch (view : BitVec 2) (a : Nat) (l : List Byte) : (s.devWrite view a l).latch = s.latch := rfl
@[simp] theorem State.devWrite_capture (view : BitVec 2) (a : Nat) (l : List Byte) : (s.devWrite view a l).capture = s.capture := rfl
@[simp] theorem State.devWrite_late (view : BitVec 2) (a : Nat) (l : List Byte) : (s.devWrite view a l).late = s.late := rfl
@[simp] theorem State.devWrite_sealed (view : BitVec 2) (a : Nat) (l : List Byte) : (s.devWrite view a l).sealed = s.sealed := rfl
@[simp] theorem State.devWrite_stage (view : BitVec 2) (a : Nat) (l : List Byte) : (s.devWrite view a l).stage = s.stage := rfl
@[simp] theorem State.devWrite_clk (view : BitVec 2) (a : Nat) (l : List Byte) : (s.devWrite view a l).clk = s.clk := rfl
@[simp] theorem State.devWrite_tiles (view : BitVec 2) (a : Nat) (l : List Byte) : (s.devWrite view a l).tiles = s.tiles := rfl
@[simp] theorem State.devWrite_canopy (view : BitVec 2) (a : Nat) (l : List Byte) : (s.devWrite view a l).canopy = s.canopy := rfl
@[simp] theorem State.devWrite_retire (view : BitVec 2) (a : Nat) (l : List Byte) : (s.devWrite view a l).retire = s.retire := rfl
@[simp] theorem State.devWrite_host (view : BitVec 2) (a : Nat) (l : List Byte) : (s.devWrite view a l).host = s.host := rfl
@[simp] theorem State.devWrite_queues (view : BitVec 2) (a : Nat) (l : List Byte) : (s.devWrite view a l).queues = s.queues := rfl
@[simp] theorem State.devWrite_hq (view : BitVec 2) (a : Nat) (l : List Byte) : (s.devWrite view a l).hq = s.hq := rfl
@[simp] theorem State.devWrite_log (view : BitVec 2) (a : Nat) (l : List Byte) : (s.devWrite view a l).log = s.log := rfl
@[simp] theorem State.devWrite_ports (view : BitVec 2) (a : Nat) (l : List Byte) : (s.devWrite view a l).ports = s.ports := rfl
@[simp] theorem State.devWrite_fleet (view : BitVec 2) (a : Nat) (l : List Byte) : (s.devWrite view a l).fleet = s.fleet := rfl
@[simp] theorem State.devWrite_power (view : BitVec 2) (a : Nat) (l : List Byte) : (s.devWrite view a l).power = s.power := rfl
@[simp] theorem State.devWrite_le (view : BitVec 2) (a : Nat) (l : List Byte) : (s.devWrite view a l).le = s.le := rfl
@[simp] theorem State.devWrite_sap (view : BitVec 2) (a : Nat) (l : List Byte) : (s.devWrite view a l).sap = s.sap := rfl
@[simp] theorem State.devWrite_budget (view : BitVec 2) (a : Nat) (l : List Byte) : (s.devWrite view a l).budget = s.budget := rfl
@[simp] theorem State.devWrite_hwd (view : BitVec 2) (a : Nat) (l : List Byte) : (s.devWrite view a l).hwd = s.hwd := rfl
@[simp] theorem State.devWrite_start (view : BitVec 2) (a : Nat) (l : List Byte) : (s.devWrite view a l).start = s.start := rfl
@[simp] theorem State.devWrite_sram (view : BitVec 2) (a : Nat) (l : List Byte) : (s.devWrite view a l).sram = s.sram := rfl
@[simp] theorem State.devWrite_rings (view : BitVec 2) (a : Nat) (l : List Byte) : (s.devWrite view a l).rings = s.rings := rfl
@[simp] theorem State.devWrite_crown (view : BitVec 2) (a : Nat) (l : List Byte) : (s.devWrite view a l).crown = s.crown := rfl
@[simp] theorem State.devWrite_svc (view : BitVec 2) (a : Nat) (l : List Byte) : (s.devWrite view a l).svc = s.svc := rfl

/-! What they change. -/

@[simp] theorem State.popped_pending (rest : List Instr) : (s.popped rest).pending = rest := rfl
@[simp] theorem State.pushFront_pending (c : Instr) : (s.pushFront c).pending = c :: s.pending := rfl
@[simp] theorem State.drawn_free : s.drawn.free = s.free + 1 := rfl
@[simp] theorem State.drawnN_free (n : Nat) : (s.drawnN n).free = s.free + n := rfl
@[simp] theorem State.emit_out (o : Output) : (s.emit o).out = s.out ++ [o] := rfl
@[simp] theorem State.setQueue_queues (q : Fin 64) (x : Queue) : (s.setQueue q x).queues = s.queues.set q x := rfl
@[simp] theorem State.setHost_host (fn : Fn) (h : HostPort) : (s.setHost fn h).host = s.host.set (fnIdx fn) h := rfl
@[simp] theorem State.setPort_ports (p : Fin 20) (x : Port) : (s.setPort p x).ports = s.ports.set p x := rfl
@[simp] theorem State.setRail_rails (r : Fin 11) (x : Rail) : (s.setRail r x).power.rails = s.power.rails.set r x := rfl
@[simp] theorem State.setRail_cores (r : Fin 11) (x : Rail) : (s.setRail r x).power.cores = s.power.cores := rfl
@[simp] theorem State.setCore_cores (d : Fin 4) (c : Core) : (s.setCore d c).power.cores = s.power.cores.set d c := rfl
@[simp] theorem State.setCore_rails (d : Fin 4) (c : Core) : (s.setCore d c).power.rails = s.power.rails := rfl
@[simp] theorem State.setSlot_slots (n : Fin 4) (x : Slot) : (s.setSlot n x).le.slots = s.le.slots.set n x := rfl
@[simp] theorem State.setFleet_fleet (f : Fleet) : (s.setFleet f).fleet = f := rfl
@[simp] theorem State.setRing_rings (fn : Fn) (r : Ring) : (s.setRing fn r).rings = s.rings.set (fnIdx fn) r := rfl

/-! Setting what is there already changes nothing, and a later update of one field hides an earlier one. -/

@[simp] theorem State.popped_popped (a b : List Instr) : (s.popped a).popped b = s.popped b := rfl
@[simp] theorem State.pushFront_popped (c : Instr) : (s.pushFront c).popped s.pending = s := rfl

/-! Tiles and threads. -/

@[simp] theorem State.setTile_tile (t k : Nat) (x : Tile) : (s.setTile t x).tile k = if k = t then x else s.tile k := by
  simp [State.tile, State.setTile, find_insert]

theorem State.setTile_setTile (t : Nat) (x y : Tile) : (s.setTile t x).setTile t y = s.setTile t y := by
  simp [State.setTile, insert_insert]

theorem State.setThread_tile (t k : Nat) (n : Fin 16) (x : Thread) :
    (s.setThread t n x).tile k = if k = t then { s.tile t with threads := (s.tile t).threads.set n x } else s.tile k := by
  simp [State.setThread]

theorem State.setThread_thread (t k : Nat) (n m : Fin 16) (x : Thread) :
    (s.setThread t n x).thread k m = if k = t ∧ m = n then x else s.thread k m := by
  simp only [State.thread, State.setThread_tile]
  by_cases hk : k = t
  · subst hk
    by_cases hm : m = n
    · subst hm; simp
    · have : n.val ≠ m.val := fun h => hm (Fin.ext h.symm)
      simp [hm, this]
  · simp [hk]

@[simp] theorem State.setThread_thread_self (t : Nat) (n : Fin 16) (x : Thread) : (s.setThread t n x).thread t n = x := by
  simp [State.setThread_thread]

/-! Registers. -/

theorem State.setReg_reg (fn : Fn) (off : Nat) (v : BitVec 64) : (s.setReg fn off v).reg fn off = v := by
  simp [State.reg, State.setReg, find_store]

theorem State.setReg_reg_ne (fn gn : Fn) (off o : Nat) (v : BitVec 64) (h : regKey gn o ≠ regKey fn off) :
    (s.setReg fn off v).reg gn o = s.reg gn o := by
  simp only [State.reg, State.setReg]
  unfold store
  split
  · exact find_erase_ne _ _ h
  · exact find_insert_ne _ _ _ h

end Sys2Proof.Machine
end

