-- ==== Sys2Proof/Laws/Issue.lean ====
section
/-! SUPPORT. What the issue of an instruction can do: one lemma for each way in which it ends. -/

namespace Sys2Proof.Machine

open Sys2Proof

theorem State.sameBut_refl (s : State) (th : Thr) : s.sameBut s th :=
  ⟨rfl, fun _ _ => rfl, rfl, fun _ _ => rfl⟩

theorem State.sameBut_trans {s t u : State} {th : Thr} (h : s.sameBut t th) (k : t.sameBut u th) : s.sameBut u th := by
  obtain ⟨h1, h2, h3, h4⟩ := h
  obtain ⟨k1, k2, k3, k4⟩ := k
  refine ⟨?_, fun i hi => (k2 i hi).trans (h2 i hi), ?_, fun n hn => ?_⟩
  · rw [← h1, ← k1]
  · rw [← h3, ← k3]
  · have a := h4 n hn
    have b := k4 n hn
    unfold Thread.samePassed at *
    rw [← a, ← b]

theorem State.sameBut_setThread (s : State) (th : Thr) (x : Thread) : s.sameBut (s.setThread th.tile th.thread x) th := by
  refine ⟨rfl, fun k hk => ?_, ?_, fun n hn => ?_⟩
  · simp [State.setThread_tile, hk]
  · simp [State.setThread_tile]
  · simp [State.setThread_thread, hn, Thread.samePassed]

theorem State.noteIssue_tile (s : State) (t k : Nat) (n : Fin 16) :
    (s.noteIssue t n).tile k = if k = t then (s.noteIssue t n).tile t else s.tile k := by
  unfold State.noteIssue
  by_cases h : k = t <;> simp [h]

theorem State.noteIssue_self (s : State) (t : Nat) (n : Fin 16) :
    (s.noteIssue t n).thread t n = { s.thread t n with passed := 0, boosted := false } := by
  simp only [State.thread, State.noteIssue, State.setTile_tile, if_true, Fin.getElem_fin, Vector.getElem_set_self, Vector.getElem_map]
  split <;> rfl

theorem State.noteIssue_other (s : State) (t : Nat) (n m : Fin 16) (h : m ≠ n) :
    (s.thread t m).samePassed ((s.noteIssue t n).thread t m) := by
  have h' : n.val ≠ m.val := fun e => h (Fin.ext e.symm)
  simp only [State.thread, State.noteIssue, State.setTile_tile, if_true, Fin.getElem_fin, Vector.getElem_map]
  rw [Vector.getElem_set_ne _ _ h']
  simp only [Vector.getElem_map]
  split <;> rfl

theorem State.sameBut_noteIssue (s : State) (th : Thr) : s.sameBut (s.noteIssue th.tile th.thread) th := by
  refine ⟨rfl, fun k hk => ?_, ?_, fun n hn => State.noteIssue_other _ _ _ _ hn⟩
  · rw [State.noteIssue_tile]; simp [hk]
  · simp [State.noteIssue]

theorem State.launchOf_eq {s t : State} (h : t.hq = s.hq) (k : Nat) : t.launchOf k = s.launchOf k := by
  simp [State.launchOf, h]

theorem State.goto_inside (s : State) (t : Nat) (n : Fin 16) (pc : BitVec 32) (h : s.inCode t pc) :
    s.goto t n pc = s.setThread t n { s.thread t n with pc := pc } := by
  unfold State.goto
  cases hl : s.launchOf t with
  | none => simp
  | some l => have := h l hl; simp [this.1, this.2]

theorem State.thread_idx (s : State) (t : Nat) (n : Fin 16) : s.thread t n = (s.tile t).threads[n] := rfl

/-- A thread that has issued goes on at an offset of the code region. -/
theorem State.noteIssue_goto (u : State) (th : Thr) (pc : BitVec 32) (hc : u.inCode th.tile pc) :
    ((u.noteIssue th.tile th.thread).goto th.tile th.thread pc).me th = { u.me th with pc := pc, passed := 0, boosted := false } ∧
    u.sameBut ((u.noteIssue th.tile th.thread).goto th.tile th.thread pc) th := by
  have hc' : (u.noteIssue th.tile th.thread).inCode th.tile pc := by
    intro l hl
    exact hc l (by rw [← hl]; exact (State.launchOf_eq rfl _).symm)
  rw [State.goto_inside _ _ _ _ hc']
  constructor
  · simp [State.me, State.noteIssue_self]
  · exact State.sameBut_trans (State.sameBut_noteIssue _ th) (State.sameBut_setThread _ th _)

/-- An instruction that completes: its thread goes on at the next instruction. -/
theorem State.issue_done {s u : State} {th : Thr} {body : Thread → State → Issued} (hr : (s.tile th.tile).pick = some th.thread)
    (hc : u.inCode th.tile ((s.me th).pc + 4)) (hpc : (u.me th).pc = (s.me th).pc) (hb : body (s.me th) s = .done u) :
    u.retires (s.issue th body) th (u.me th) := by
  have hi : s.issue th body = (u.noteIssue th.tile th.thread).goto th.tile th.thread ((s.me th).pc + 4) := by
    unfold State.issue
    simp only [State.me] at hr hb ⊢
    simp only [ne_eq, hr, not_true_eq_false, if_false, hb]
  have := State.noteIssue_goto u th _ hc
  rw [hi]
  exact ⟨by rw [hpc]; exact this.1, this.2⟩

/-- An instruction that completes with its own thread changed and nothing else. -/
theorem State.issue_retires {s u : State} {th : Thr} {body : Thread → State → Issued} {y : Thread} (hr : (s.tile th.tile).pick = some th.thread)
    (hc : u.inCode th.tile ((s.me th).pc + 4)) (hpc : y.pc = (s.me th).pc)
    (hb : body (s.me th) s = .done (u.setThread th.tile th.thread y)) : u.retires (s.issue th body) th y := by
  have hm : (u.setThread th.tile th.thread y).me th = y := by simp [State.me]
  have hc' : (u.setThread th.tile th.thread y).inCode th.tile ((s.me th).pc + 4) := by
    intro l hl
    exact hc l (by rw [← hl]; exact (State.launchOf_eq rfl _).symm)
  have h := State.issue_done hr hc' (by rw [hm]; exact hpc) hb
  rw [hm] at h
  exact ⟨h.1, State.sameBut_trans (State.sameBut_setThread u th y) h.2⟩

/-- An instruction that branches to an offset of the code region. -/
theorem State.issue_branch {s u : State} {th : Thr} {body : Thread → State → Issued} {pc : BitVec 32}
    (hr : (s.tile th.tile).pick = some th.thread) (hc : u.inCode th.tile pc) (hb : body (s.me th) s = .branch u pc) :
    (s.issue th body).me th = { u.me th with pc := pc, passed := 0, boosted := false } ∧ u.sameBut (s.issue th body) th := by
  have hi : s.issue th body = (u.noteIssue th.tile th.thread).goto th.tile th.thread pc := by
    unfold State.issue
    simp only [State.me] at hr hb ⊢
    simp only [ne_eq, hr, not_true_eq_false, if_false, hb]
  rw [hi]
  exact State.noteIssue_goto u th pc hc

/-- With nothing outstanding no register is awaited. -/
theorem need_ready {s : State} {th : Thr} (h : s.outstanding th.tile th.thread = []) (ss : List (BitVec 5)) (vs : List (Fin 16)) (k : Issued) :
    need s th ss vs k = k := by
  simp [need, State.scalarPending, State.vectorPending, h]

@[simp] theorem Thread.writeS_pc (x : Thread) (d : BitVec 5) (v : Word) : (x.writeS d v).pc = x.pc := by
  unfold Thread.writeS; split <;> rfl
@[simp] theorem Thread.setFlag_pc (x : Thread) (k : Nat) (b : Bool) : (x.setFlag k b).pc = x.pc := rfl


/-! ## Waits examined again -/

/-- What re-examining the waits of a tile does: threads that waited or stalled may go on; nothing else changes. -/
def State.onlyWakes (s u : State) (t : Nat) : Prop :=
  { u with tiles := s.tiles } = s ∧ (∀ k, k ≠ t → u.tile k = s.tile k) ∧
  { u.tile t with threads := (s.tile t).threads } = s.tile t ∧
  (∀ n, u.thread t n = s.thread t n ∨
    ((s.thread t n).state = .waiting ∨ (s.thread t n).state = .stalled) ∧ (s.thread t n).sameRegs (u.thread t n))

theorem State.onlyWakes_refl (s : State) (t : Nat) : s.onlyWakes s t := ⟨rfl, fun _ _ => rfl, rfl, fun _ => .inl rfl⟩

theorem Thread.sameRegs_refl (x : Thread) : x.sameRegs x := rfl

theorem Thread.sameRegs_trans {x y z : Thread} (h : x.sameRegs y) (k : y.sameRegs z) : x.sameRegs z := by
  unfold Thread.sameRegs at *
  rw [← h, ← k]

theorem Thread.samePassed_regs {x y : Thread} (h : x.samePassed y) : x.sameRegs y := by
  unfold Thread.samePassed at h
  unfold Thread.sameRegs
  rw [← h]

theorem State.onlyWakes_trans {s u v : State} {t : Nat} (h : s.onlyWakes u t) (k : u.onlyWakes v t) : s.onlyWakes v t := by
  obtain ⟨h1, h2, h3, h4⟩ := h
  obtain ⟨k1, k2, k3, k4⟩ := k
  refine ⟨?_, fun i hi => (k2 i hi).trans (h2 i hi), ?_, fun n => ?_⟩
  · rw [← h1, ← k1]
  · rw [← h3, ← k3]
  · rcases k4 n with e | ⟨e, r⟩
    · rw [e]; exact h4 n
    · rcases h4 n with e' | ⟨e', r'⟩
      · rw [e'] at e r; exact .inr ⟨e, r⟩
      · exact .inr ⟨e', Thread.sameRegs_trans r' r⟩

theorem State.onlyWakes_setThread (s : State) (t : Nat) (n : Fin 16) (y : Thread)
    (hs : (s.thread t n).state = .waiting ∨ (s.thread t n).state = .stalled) (hy : (s.thread t n).sameRegs y) :
    s.onlyWakes (s.setThread t n y) t := by
  refine ⟨rfl, fun k hk => ?_, ?_, fun m => ?_⟩
  · simp [State.setThread_tile, hk]
  · simp [State.setThread_tile]
  · by_cases hm : m = n
    · subst hm
      rw [State.setThread_thread_self]
      exact .inr ⟨hs, hy⟩
    · left
      simp [State.setThread_thread, hm]

theorem State.settleThread_onlyWakes (s : State) (t : Nat) (n : Fin 16) : s.onlyWakes (s.settleThread t n) t := by
  unfold State.settleThread
  simp only
  split
  · split
    · exact State.onlyWakes_refl ..
    · exact State.onlyWakes_setThread _ _ _ _ (.inr (by assumption)) rfl
  · split
    · exact State.onlyWakes_setThread _ _ _ _ (.inl (by assumption)) rfl
    · exact State.onlyWakes_refl ..
  · split
    · exact State.onlyWakes_setThread _ _ _ _ (.inl (by assumption)) rfl
    · exact State.onlyWakes_refl ..
  · exact State.onlyWakes_refl ..

theorem State.releaseBar_onlyWakes (s : State) (t : Nat) (n : Fin 4) : s.onlyWakes (s.releaseBar t n) t := by
  unfold State.releaseBar
  simp only
  split
  · refine ⟨rfl, fun k hk => by simp [hk], by simp, fun m => ?_⟩
    simp only [State.thread, State.setTile_tile, if_true, Fin.getElem_fin, Vector.getElem_map]
    split
    · rename_i h
      exact .inr ⟨.inl h.1, rfl⟩
    · exact .inl rfl
  · exact State.onlyWakes_refl ..

theorem State.foldl_onlyWakes {α : Type} (t : Nat) (f : State → α → State) (hf : ∀ (s : State) (a : α), s.onlyWakes (f s a) t) (l : List α) (s : State) :
    s.onlyWakes (l.foldl f s) t := by
  induction l generalizing s with
  | nil => exact State.onlyWakes_refl ..
  | cons a l ih => exact State.onlyWakes_trans (hf s a) (ih _)

/-- Re-examining a tile's waits lets threads go on and changes nothing else. -/
theorem State.settle_onlyWakes (s : State) (t : Nat) : s.onlyWakes (s.settle t) t :=
  State.onlyWakes_trans (State.foldl_onlyWakes t _ (fun s n => State.releaseBar_onlyWakes s t n) _ s)
    (State.foldl_onlyWakes t _ (fun s n => State.settleThread_onlyWakes s t n) _ _)

/-- A thread that neither waits nor stalls stands as it was. -/
theorem State.settle_me (s : State) (th : Thr) (h : (s.me th).state ≠ .waiting) (k : (s.me th).state ≠ .stalled) :
    (s.settle th.tile).me th = s.me th := by
  rcases (State.settle_onlyWakes s th.tile).2.2.2 th.thread with e | ⟨e, _⟩
  · exact e
  · rcases e with e | e
    · exact absurd e h
    · exact absurd e k

theorem State.sameBut_wakes {s u v : State} {th : Thr} (h : s.sameBut u th) (k : u.onlyWakes v th.tile) : s.sameButWoken v th := by
  obtain ⟨h1, h2, h3, h4⟩ := h
  obtain ⟨k1, k2, k3, k4⟩ := k
  refine ⟨?_, fun i hi => (k2 i hi).trans (h2 i hi), ?_, fun n hn => ?_⟩
  · rw [← h1, ← k1]
  · rw [← h3, ← k3]
  · have a := Thread.samePassed_regs (h4 n hn)
    rcases k4 n with e | ⟨_, r⟩
    · rw [e]; exact a
    · exact Thread.sameRegs_trans a r

/-- An instruction that completes and after which waits are examined again. -/
theorem State.issue_wrote {s u : State} {th : Thr} {body : Thread → State → Issued} (hr : (s.tile th.tile).pick = some th.thread)
    (hc : u.inCode th.tile ((s.me th).pc + 4)) (hpc : (u.me th).pc = (s.me th).pc) (hs : (u.me th).state = .ready)
    (hb : body (s.me th) s = .wrote u) : u.retiresWaking (s.issue th body) th (u.me th) := by
  have hi : s.issue th body = ((u.noteIssue th.tile th.thread).goto th.tile th.thread ((s.me th).pc + 4)).settle th.tile := by
    unfold State.issue
    simp only [State.me] at hr hb ⊢
    simp only [ne_eq, hr, not_true_eq_false, if_false, hb]
  have h := State.noteIssue_goto u th _ hc
  rw [hi]
  refine ⟨?_, State.sameBut_wakes h.2 (State.settle_onlyWakes _ _)⟩
  rw [State.settle_me, h.1, hpc] <;> rw [h.1] <;> simp [hs]

theorem State.sameBut_hq {s u : State} {th : Thr} (h : s.sameBut u th) (q : HostEngine) : { s with hq := q }.sameBut { u with hq := q } th := by
  obtain ⟨h1, h2, h3, h4⟩ := h
  exact ⟨by rw [← h1], h2, h3, h4⟩

theorem State.threadFault_same (s : State) (th : Thr) (cause : BitVec 8) (pc : BitVec 32) :
    (s.threadFault th.tile th.thread cause pc).me th = { s.me th with state := .faulted, cause := cause, stall := none, wait := none } ∧
    ({ s with hq := (s.threadFault th.tile th.thread cause pc).hq } : State).sameBut (s.threadFault th.tile th.thread cause pc) th := by
  have hf : s.threadFault th.tile th.thread cause pc =
      ({ s with hq := (s.threadFault th.tile th.thread cause pc).hq } : State).setThread th.tile th.thread
        { s.me th with state := .faulted, cause := cause, stall := none, wait := none } := rfl
  constructor
  · rw [hf]; simp [State.me]
  · rw [hf]; exact State.sameBut_setThread _ th _

/-- An instruction that faults its thread. -/
theorem State.issue_fault {s u : State} {th : Thr} {body : Thread → State → Issued} {c : BitVec 8} (hr : (s.tile th.tile).pick = some th.thread)
    (hb : body (s.me th) s = .fault u c) :
    (s.issue th body).me th =
      { u.me th with state := .faulted, cause := c, stall := none, wait := none, passed := 0, boosted := false } ∧
    ({ u with hq := (s.issue th body).hq } : State).sameButWoken (s.issue th body) th := by
  have hi : s.issue th body = ((u.noteIssue th.tile th.thread).threadFault th.tile th.thread c (s.me th).pc).settle th.tile := by
    unfold State.issue
    simp only [State.me] at hr hb ⊢
    simp only [ne_eq, hr, not_true_eq_false, if_false, hb]
  have h := State.threadFault_same (u.noteIssue th.tile th.thread) th c (s.me th).pc
  have hw := State.settle_onlyWakes ((u.noteIssue th.tile th.thread).threadFault th.tile th.thread c (s.me th).pc) th.tile
  have hq : (s.issue th body).hq = ((u.noteIssue th.tile th.thread).threadFault th.tile th.thread c (s.me th).pc).hq := by
    rw [hi]
    simpa using congrArg State.hq hw.1
  refine ⟨?_, ?_⟩
  · rw [hi, State.settle_me, h.1]
    · simp [State.me, State.noteIssue_self]
    · rw [h.1]; simp
    · rw [h.1]; simp
  · rw [hq, hi]
    exact State.sameBut_wakes (State.sameBut_trans (State.sameBut_hq (State.sameBut_noteIssue u th) _) h.2) hw

end Sys2Proof.Machine
end

