-- ==== Sys2Proof/WellFormed.lean ====
section
/-! DEFINITION. Which commands can come: where an operand's type holds more than what the spec lists, the check says what is left out.
`exec` is total all the same. -/

namespace Sys2Proof

/-- Readings of 14 cells and 4 sensors (R390). -/
def CellReadings.wellFormed (rd : CellReadings) : Bool := rd.cells.length == 14 && rd.temps.length == 4

/-- A measurement names 4 dies and 11 rails (R412). -/
def PowerMeasure.wellFormed (m : PowerMeasure) : Bool :=
  m.pdie.length == 4 && m.busy.length == 4 && m.amps.length == 11 && m.volts.length == 11

/-- Temperatures of 4 dies and of the power stages of 10 rails (R428). -/
def ThermalMeasure.wellFormed (m : ThermalMeasure) : Bool := m.die.length == 4 && m.stage.length == 10

/-- A token at the console is 448 bytes with a modulus of 384 (R560). -/
def AuthPath.wellFormed : AuthPath → Bool
  | .msg _ => true
  | .console bytes => bytes.length == 832

/-- A command is well formed. -/
def Instr.wellFormed : Instr → Bool
  | .trainingWord _ flit _ => flit.length == 256
  | .dataFlit _ flit _ _ => flit.length == 256
  | .idleFlit _ flit _ => flit.length == 256
  | .layerSensorRead _ temps => temps.length == 8
  | .slotSample _ inp => inp.ch.length == 10
  | .conversionWindowClose rd => rd.wellFormed
  | .checkScanWindow rd _ => rd.wellFormed
  | .balancingSwitchTest res => res.length == 14
  | .capacitanceEstimate caps => caps.length == 14
  | .opEvaluation m => m.wellFormed
  | .thermalLoop m => m.wellFormed
  | .dividerChange _ n => decide (7 ≤ n.val ∧ n.val ≤ 20)
  | .bar2Read _ _ len _ => decide (1 ≤ len ∧ len ≤ 4096)
  | .bar2Write _ _ data _ => decide (1 ≤ data.length ∧ data.length ≤ 4096)
  | .descriptorReadComplete _ descs _ => descs.all (fun l => decide (1 ≤ l.length ∧ l.length ≤ 4))
  | .enterService src => src.wellFormed
  | .ownerRelease src => src.wellFormed
  | .retireModule src => src.wellFormed
  | .clearRingLog src => src.wellFormed
  | .editRetirementMap src _ => src.wellFormed
  | .march mem inst => decide (mem ≠ some .secure) && inst.all (fun i => decide (i < 2640))
  | .consoleUnknownCommand line => decide (line.length ≤ 128)
  | _ => true

end Sys2Proof
end

