-- ==== Sys2Proof/Tests/Slice0.lean ====
section
/-! SUPPORT. Checks of the model on small states, and for every statement with hypotheses states and operands that meet them. -/

set_option maxRecDepth 100000
set_option linter.unusedTactic false
set_option Elab.async false

namespace Sys2Proof.Tests

open Sys2Proof Sys2Proof.Machine

/-! ## Witnesses: how they are put together -/

theorem wit_some {α : Type} {o : Option α} {p : α → Prop} (h : o.isSome = true) (hp : p (o.get h)) : ∃ x, o = some x ∧ p x := ⟨_, by simp, hp⟩
theorem wit_pair {α β : Type} {o : Option (α × β)} {p : α → β → Prop} (h : o.isSome = true) (hp : p (o.get h).1 (o.get h).2) :
    ∃ x y, o = some (x, y) ∧ p x y := ⟨_, _, by simp, hp⟩
theorem wit_cons {α : Type} {l : List α} {p : α → List α → Prop} (h : l ≠ []) (hp : p (l.head h) l.tail) : ∃ x r, l = x :: r ∧ p x r :=
  ⟨_, _, by simp, hp⟩
theorem wit_mem {α : Type} {l : List α} {p : α → Prop} (i : Nat) (h : i < l.length) (hp : p l[i]) : ∃ e ∈ l, p e := ⟨_, by simp, hp⟩
theorem wit_asks {s : State} {src : MsgSrc} {k : Nat} {p : List Byte → Prop} (h : (s.requestOf src).isSome = true)
    (h1 : msgType ((s.requestOf src).get h) = k ∧ headerGood src ((s.requestOf src).get h) = true) (hp : p ((s.requestOf src).get h)) :
    ∃ m, s.asks src k m ∧ p m := ⟨_, ⟨by simp, h1⟩, hp⟩
theorem wit_console {s : State} {c : CmdClass} {b : Bool} {p : Prop}
    (h : s.svc.ready = true ∧ s.svc.test = none ∧ (b = false → s.crown.running = true) ∧ classAllows c s.crown.life = true)
    (hp : p) : s.atConsole c b ∧ p := ⟨h, hp⟩
theorem wit_atConsole {s : State} {c : CmdClass} {b : Bool}
    (h : s.svc.ready = true ∧ s.svc.test = none ∧ (b = false → s.crown.running = true) ∧ classAllows c s.crown.life = true) :
    s.atConsole c b := h
theorem wit_canRun {s : State} {th : Thr} (h : (s.tile th.tile).pick = some th.thread) (h1 : s.outstanding th.tile th.thread = []) (h2 : (match s.launchOf th.tile with
    | none => true
    | some l => decide (l.codeLo ≤ ((s.me th).pc + 4).toNat ∧ ((s.me th).pc + 4).toNat < l.codeHi)) = true) : s.canRun th := by
  refine ⟨h, h1, fun l hl => ?_⟩
  rw [hl] at h2
  simpa using h2
theorem wit_inCode {s : State} {t : Nat} {pc : BitVec 32} (h2 : (match s.launchOf t with
    | none => true
    | some l => decide (l.codeLo ≤ pc.toNat ∧ pc.toNat < l.codeHi)) = true) : s.inCode t pc := by
  intro l hl
  rw [hl] at h2
  simpa using h2
theorem wit_asksBuffer {s : State} {src : MsgSrc} {k : Nat} {p : List Byte → List Byte → State → Prop} (h : (s.requestOf src).isSome = true)
    (h1 : msgType ((s.requestOf src).get h) = k ∧ headerGood src ((s.requestOf src).get h) = true ∧ bodyGood ((s.requestOf src).get h) 13 = true ∧
      s.bufStatus ((s.requestOf src).get h) = 0 ∧ s.bufOpen ((s.requestOf src).get h) = true)
    (h2 : ((s.visit (bufView ((s.requestOf src).get h)) (bufAddr ((s.requestOf src).get h)) (bufLen ((s.requestOf src).get h))).devCheck (bufView ((s.requestOf src).get h)) (bufAddr ((s.requestOf src).get h)) (bufLen ((s.requestOf src).get h)) []).2 = false)
    (hp : let m := (s.requestOf src).get h
      let u := ((s.visit (bufView m) (bufAddr m) (bufLen m)).devCheck (bufView m) (bufAddr m) (bufLen m) []).1
      p m (u.devRead (bufView m) (bufAddr m) (bufLen m)) u) :
    ∃ m, ∃ b, ∃ u, s.asksBuffer src k m b u ∧ p m b u :=
  ⟨_, _, _, ⟨⟨by simp, h1.1, h1.2.1⟩, h1.2.2.1, h1.2.2.2.1, h1.2.2.2.2, Prod.ext rfl h2, rfl⟩, hp⟩
theorem wit_ok {ε α : Type} {o : Except ε α} {p : α → Prop} (h : o.toOption.isSome = true) (hp : p (o.toOption.get h)) : ∃ x, o = .ok x ∧ p x := by
  refine ⟨_, ?_, hp⟩
  cases o with
  | error e => simp [Except.toOption] at h
  | ok v => rfl
theorem wit_ok0 {ε α : Type} {o : Except ε α} (h : o.toOption.isSome = true) : ∃ x, o = .ok x := by
  cases o with
  | error e => simp [Except.toOption] at h
  | ok v => exact ⟨v, rfl⟩
theorem wit_noOtherRuns {s : State} {q : Fin 64}
    (h : ∀ r : Fin 64, r ≠ q → (match s.queues[r].inflight with | e :: _ => decide (e.phase ≠ .running) | [] => true) = true) :
    ∀ r : Fin 64, r ≠ q → (∀ e l, s.queues[r].inflight = e :: l → e.phase ≠ .running) := by
  intro r hr e l hl
  have h := h r hr
  rw [hl] at h
  simpa using h
theorem wit_allHalted {s : State} {l : Launch} {th : Thr}
    (h : ∀ k < l.first + l.count, ∀ n : Fin 16, (k ≠ th.tile.val ∨ n ≠ th.thread) → (s.thread k n).started = true → (s.thread k n).state = .halted) :
    ∀ k n, l.has k = true → (k ≠ th.tile.val ∨ n ≠ th.thread) → (s.thread k n).started = true → (s.thread k n).state = .halted :=
  fun k n hk => h k (by simp only [Launch.has, decide_eq_true_eq] at hk; exact hk.2) n

/-! ## Witnesses: sample states -/

namespace B
def onRail (r : Fin 11) : Rail := { Rail.reset with state := .on, enabled := true, attempts := 1, armed := true, charged := true, working := fitted r }
/-- in service -/
def svc : State :=
  let r := State.reset
  { r with
    stage := .stage3
    clk := { r.clk with refOk := true, pll := Vector.replicate 4 true, div := #v[9, 9, 9, 9], us := 1000000, hours := 5000, refCount := 100000000 }
    crown := { r.crown with running := true, life := .service }
    hwd := { r.hwd with chanA := true, chanB := true, prsA := true, prsB := true, settled := true, startPath := true, inputClosed := true, dieEn := Vector.replicate 4 true, busGood := true, watch := true, strobe := true, swA := true, swB := true }
    power := { r.power with rails := Vector.ofFn (fun k => if k = 10 then Rail.reset else onRail k), convOn := Vector.replicate 4 true, cores := Vector.replicate 4 { Core.reset with pins := 5, asked := 5, settled := 5 } }
    host := Vector.replicate 2 { HostPort.reset with perst := false, up := true, bme := true }
    le := { r.le with released := true, ok := true, phase := .service }
    sap := { r.sap with state := .connected, awake := true, presentJ := 4000, usableJ := 5000, ceilingMv := 53200, following := true, cells := Vector.replicate 14 { Cell.reset with mv := 3600, valid := true } }
    budget := { r.budget with share := 3000, source := 1, pdie := #v[300, 300, 300, 300], demPeak := 2000, demMean := 1800, inlet := 480, outlet := 600 }
    hq := { r.hq with stopped := false }
    svc := { r.svc with ready := true } }
end B
def thr0 : Thread := { Thread.idle with
  pc := 0x40, state := .ready, prio := true, started := true, rng := 0x123456789ABCDEF
  s := #v[0, 0x100, 3, -1, 0x8000000000000005, 0x00700200, 0x2000, 64, 0x40400000C0000000, 0x1000000000, 100, 0x10000, 0x48, 2^63, 5, 130, 4096, 8, 0xFFF80, 17, 1, 2, 0xFFFFFFFF, 0, 9, 10, 11, 12, 13, 14, 15, 0x3333]
  v := Vector.ofFn (fun k => BitVec.ofNat 1024 ((0x3F8040003E80C0003F003F8042F6E979 + k.val * 0x7F800001000200030004) * (2^512 + 2^384 + 2 ^ 128 + 1) * (k.val + 1)))
  f := 0x2C, m := #v[-1, 0x5555, 0xF0F0F0F0F0F0F0F0, 3] }
def tile0 : Tile := { Tile.fresh with
  threads := Vector.ofFn (fun k => if k.val = 3 then thr0 else if k.val = 4 then { thr0 with prio := false, passed := 70 } else if k.val = 5 then { thr0 with state := .waiting, wait := some (.bar 1) } else Thread.idle)
  pad := (List.range 160).map (fun k => (0x100 + k, BitVec.ofNat 8 (k * 37 % 255 + 1))) ++ [(0x2000, 9), (0xFFFFF, 7)] }
def launch0 : Launch := { q := 3, phase := .running, first := 0, count := 10, mask := -1, clear := false, opPref := 0, view := 0, imgAddr := 0x100000, argAddr := 0, argSize := 0, codeLo := 0, codeHi := 0x60, entry := 0, seed := 1, timeoutUs := 0, faults := [], arrived := [], started := 0 }
def sTile : State := { B.svc with tiles := [(5, tile0), (7, { tile0 with matrix := none })], free := 3, clk := { B.svc.clk with stamp := #v[77, 2, 3, 4] } }
def inL (s : State) (l : Launch) : State := { s with hq := { s.hq with launches := [l] }, queues := s.queues.set 3 { s.queues[3] with state := .enabled } }
def sr (o v : Nat) (s : State) : State := { s with regs := store (regReset o) s.regs (regKey .A o) (BitVec.ofNat 64 v) }
def blk : Blocks := { kind := 1, groups0 := 2, groups1 := 0, coordinator := 0x014, roles := [(0x014, 1), (0x015, 1), (0x016, 1), (0x017, 2)], twins := [{ active := 0x014, standby := 0x017, witness := 0x015 }, { active := 0x015, standby := 0x017, witness := 0x016 }, { active := 0x014, standby := 0x015, witness := 0x016 }], sets := [{ num := 3, members := [0x014, 0x015, 0x016], staging := 0x800000, stagingSize := 0x10000 }], copyMode := 0, interval := 0, ranges := [] }
def act (peer : Nat) : Port := { Port.reset with state := .active, power := true, present := true, txSeq := 10, rxSeq := 4, peer := BitVec.ofNat 32 (0x80030000 + peer), credits := Vector.replicate 6 1000, cfg := 0 }
def me0 (s : State) : State := sr bxModuleId (2^31 + 0x015) { s with fleet := { s.fleet with blocks := some blk, epoch := 4, digest := 99, staged := some { epoch := 5, digest := 100, blocks := blk }, role := 1, nextLease := 7 }
                                                                     ports := (Vector.ofFn (fun k => if k.val = 0 then act 0x016 else if k.val = 17 then act 0x014 else act 0x020)) }
def pt (p : Fin 20) (f : Port → Port) (s : State) : State := { s with ports := s.ports.set p (f s.ports[p]) }
def sb (t src dst : Nat) (body : List Byte) : List Byte := natLe 1 2 ++ natLe 1 t ++ natLe 2 (16 + body.length) ++ natLe 3 (src + dst * 4096) ++ natLe 1 0 ++ natLe 4 9 ++ natLe 4 5 ++ body
def arr (p : Fin 20) (m : List Byte) (s : State) : State := pt p (fun x => { x with side := [m, [1]] }) s
def S0 : State := me0 B.svc

/-! ## The manual's worked examples -/

/-- The 32 FP32 values of the example of the quantised block (03_grain_arithmetic.md). -/
def exampleValues : List Nat :=
  [0x3F400000, 0xBFC00000, 0x3E99999A, 0x00000000, 0x3F8CCCCD, 0xBE4CCCCD, 0x3EE66666, 0x3F666666,
   0x3E4CCCCD, 0xBDE147AE, 0x3D4CCCCD, 0x3E2E147B, 0xBE428F5C, 0x3CA3D70A, 0x3DA3D70A, 0xBE0F5C29,
   0x00000000, 0x00000000, 0x00000000, 0x00000000, 0x00000000, 0x00000000, 0x00000000, 0x00000000,
   0x3F19999A, 0xBF333333, 0x3F000000, 0xBF0CCCCD, 0x3F266666, 0x3E99999A, 0xBECCCCCD, 0x3DCCCCCD]

def exampleBlock : GrainBlock := (quantise .g4 Rounding.memory 0 (exampleValues.map (floatFmt .fp32).decode)).1

/-- Table: Quantising the example block, and byte 32 of the line. -/
theorem test_quantise_example : exampleBlock.e = 0x7F ∧ exampleBlock.u = [0, 3, 3, 1] ∧ microByte exampleBlock.u = 0x7C := by decide +kernel

/-- Table: Mantissa bytes of block 0. -/
theorem test_quantise_mantissas : mantBytes 4 exampleBlock.m =
    [0xA3, 0x01, 0xF4, 0x42, 0xC6, 0x52, 0x1A, 0xC3, 0x00, 0x00, 0x00, 0x00, 0xA5, 0xC4, 0x25, 0x1D] := by decide +kernel

def exampleDot : AccElem :=
  (grainPair .g4 .g4 AccElem.cleared exampleBlock { e := 0x7F, u := [0, 0, 0, 0], m := List.replicate 32 4 }).1

/-- Worked example: a dot product read out to bfloat16. -/
theorem test_dot_product_example : exampleDot.v = 2400 * 2 ^ 40 ∧ exampleDot.a.toInt = -50 ∧ exampleDot.sticky = false := by decide +kernel

theorem test_dot_product_readout : (readElem (floatFmt .fp32) Rounding.memory 0 exampleDot).1 = 0x40160000 ∧
    (readElem (floatFmt .bf16) Rounding.memory 0 exampleDot).1 = 0x4016 := by decide +kernel

/-- Table: Translation of 0x0D2_4680_1A40. -/
theorem test_three_views : Machine.translate 0 0x0D246801A40 = some (1682 * 2 ^ 29 + 0x06801A40) ∧
    Machine.translate 1 0x0D246801A40 = some (1665 * 2 ^ 29 + 0x048D0A40) ∧ Machine.translate 2 0x0D246801A40 = some (1254 * 2 ^ 29 + 0x15070A40) := by decide +kernel

/-- Tiles 0x992 and 0x05D1 of the manual's examples; regions run from 0 to 4. -/
theorem test_tile_identifiers : tileOfIdent 0x992 = some 1682 ∧ tileOfIdent 0x05D1 = some 1105 ∧ tileOfIdent 0x280 = none := by decide +kernel

/-- Table: First cable-warning record; byte 3 is its CRC-8. -/
theorem test_record_example :
    let r : LogRec := { typ := 0x22, cls := .warning, repeats := true, cycle := 0xD2, hours := 12345678, count := 36000, last := 12381677, subject := 12, detail := [4] }
    r.bytes.take 3 = [0x82, 0x22, 0xD2] ∧ r.bytes.drop 4 = [0x4E, 0x61, 0xBC, 0, 0xA0, 0x8C, 0, 0, 0xED, 0xED, 0xBC, 0, 12, 0, 0, 0, 4, 0, 0, 0] := by decide +kernel

/-! ## Commands that cannot come -/

theorem test_ill_formed :
    Instr.wellFormed (.trainingWord 0 [] .clean) = false ∧ Instr.wellFormed (.dataFlit 0 [] .clean { kind := .none, bank := 0, row := 0 }) = false ∧
    Instr.wellFormed (.idleFlit 0 [1] .clean) = false ∧ Instr.wellFormed (.layerSensorRead 0 [some 1, some 2]) = false ∧
    Instr.wellFormed (.balancingSwitchTest []) = false ∧ Instr.wellFormed (.capacitanceEstimate [1]) = false ∧
    Instr.wellFormed (.dividerChange 0 6) = false ∧ Instr.wellFormed (.bar2Read .A 0 0 []) = false ∧ Instr.wellFormed (.bar2Write .A 0 [] []) = false ∧
    Instr.wellFormed (.descriptorReadComplete 0 (some []) { kind := .none, bank := 0, row := 0 }) = false ∧ Instr.wellFormed (.march (some .secure) (some 0)) = false ∧
    Instr.wellFormed (.consoleUnknownCommand (List.replicate 129 0)) = false := by decide +kernel

theorem test_ill_formed_readings :
    Instr.wellFormed (.conversionWindowClose { cells := [], stack := 0, temps := [0, 0, 0, 0] }) = false ∧
    Instr.wellFormed (.opEvaluation { pdie := [1], demPeak := 0, demMean := 0, busy := [], amps := [], volts := [] }) = false ∧
    Instr.wellFormed (.thermalLoop { die := [1], inlet := 0, outlet := 0, stage := [] }) = false := by decide +kernel

theorem test_ill_formed_tokens : Instr.wellFormed (.enterService (.console [])) = false ∧ Instr.wellFormed (.ownerRelease (.console [])) = false ∧
    Instr.wellFormed (.retireModule (.console [1])) = false ∧ Instr.wellFormed (.clearRingLog (.console [])) = false ∧
    Instr.wellFormed (.editRetirementMap (.console []) 0) = false := by decide +kernel

/-! ## Single steps -/

/-- The state after a command. -/
def after (c : Instr) (s : State) : State :=
  match exec c s with
  | .next t => t
  | _ => s

/-- Thread 3 of tile 5. -/
def th53 : Thr := ⟨5, 3⟩
def reg (s : State) (n : Fin 32) : Word := (s.me th53).s[n]

/-- 3 + (−1) (R166). -/
theorem test_add : reg (after (.add th53 10 2 3 0) sTile) 10 = 2 := by decide +kernel
theorem test_add_s0 : reg (after (.add th53 0 2 3 0) sTile) 0 = 0 := by decide +kernel
theorem test_sub_wraps : reg (after (.sub th53 3 0 2 0) sTile) 3 = 0xFFFFFFFFFFFFFFFD := by decide +kernel
/-- The signed and the unsigned minimum of 3 and −1 differ. -/
theorem test_min : reg (after (.min th53 10 2 3 0) sTile) 10 = 0xFFFFFFFFFFFFFFFF ∧ reg (after (.minu th53 10 2 3 0) sTile) 10 = 3 := by decide +kernel
theorem test_sra : reg (after (.sra th53 10 3 2 0) sTile) 10 = 0xFFFFFFFFFFFFFFFF ∧ reg (after (.shr th53 10 3 2 0) sTile) 10 = 0x1FFFFFFFFFFFFFFF := by decide +kernel
/-- movk replaces one halfword. -/
theorem test_movk : reg (after (.movk th53 3 1 0x1234) sTile) 3 = 0xFFFFFFFF1234FFFF := by decide +kernel
/-- −1 is less than 3 as a signed number and not as an unsigned one; flag 1. -/
theorem test_cmp : ((after (.cmpLt th53 1 3 2 0) sTile).me th53).f.getLsbD 1 = true ∧ ((after (.cmpLtu th53 1 3 2 0) sTile).me th53).f.getLsbD 1 = false := by decide +kernel
/-- A flag number above 7 is an illegal instruction (log 31). -/
theorem test_cmp_no_flag : ((after (.cmpEq th53 9 2 2 0) sTile).me th53).state = .faulted ∧ ((after (.cmpEq th53 9 2 2 0) sTile).me th53).cause = 0x01 := by decide +kernel
/-- A jump counts words from itself (R160). -/
theorem test_jmp : ((after (.jmp th53 2) sTile).me th53).pc = 0x48 ∧ ((after (.jmp th53 (-1)) sTile).me th53).pc = 0x3C := by decide +kernel
/-- Bytes 0x100 and 0x101 of the scratchpad hold 1 and 38, little-endian (R50). -/
theorem test_lds : reg (after (.lds th53 .b2 0 10 1 0 []) sTile) 10 = 0x2601 := by decide +kernel
/-- The address is s1 + 1 × 2 (R164). -/
theorem test_lds_offset : reg (after (.lds th53 .b2 0 10 1 1 []) sTile) 10 = 0x704B := by decide +kernel
/-- A store of 2 bytes of −1 at 0x100. -/
theorem test_sts : readPad ((after (.sts th53 .b2 0 3 1 0) sTile).tile 5).pad 0x0FF 4 = [0, 0xFF, 0xFF, 75] := by decide +kernel
/-- An address that is not aligned faults with cause 0x03 and stores nothing. -/
theorem test_sts_unaligned : ((after (.sts th53 .b4 0 3 2 0) sTile).me th53).state = .faulted ∧
    ((after (.sts th53 .b4 0 3 2 0) sTile).tile 5).pad = (sTile.tile 5).pad := by decide +kernel

/-- BX_MODULE_ID takes 0x8000_0035, and ignores 0x8000_0040 once the module is sealed (Worked example: identifying and sealing). -/
theorem test_module_id : (after (.registerWrite .A 0x30000 false 0x80000035) B.svc).reg .A 0x30000 = 0x80000035 := by decide +kernel
theorem test_sealed_module_id :
    let s := after (.registerWrite .B 0x30000 false 0x80000040) (after (.registerWrite .A 0x80010 false 1) B.svc)
    s.reg .A 0x30000 = B.svc.reg .A 0x30000 ∧ s.log.opened.any (fun r => r.typ == 0x0A && r.subject == 0x30000) = true ∧ s.sealed = true := by decide +kernel
/-- No width but 4 and 8 bytes at its own alignment is allowed (R10): a read answers zero and a write changes nothing. -/
theorem test_disallowed : (after (.disallowedAccess .A 0x30000 2 true) B.svc).regs = B.svc.regs := by decide +kernel
/-- A rail that trips on overcurrent latches off and sets PWR_ERR (R350). -/
theorem test_rail_overcurrent : (after (.railOvercurrent 4) B.svc).power.rails[4].state = .latched ∧
    (after (.railOvercurrent 4) B.svc).reg .A pwrErr ≠ 0 := by decide +kernel
/-- Port commands outside their states set a flag and do nothing else (R238). -/
theorem test_port_enable : (after (.portEnable .A 3) B.svc).ports[3].state = .detect := by decide +kernel

/-! ## The step and the queue -/

theorem test_step_pops : ∃ t, step { State.reset with pending := [.perstAssert .A, .dlDown .B] } = .next t ∧ t.pending = [.dlDown .B] := by
  refine ⟨_, rfl, ?_⟩
  decide +kernel
theorem test_idle_unpowered : step State.reset = .next State.reset := rfl

/-! ## Witnesses of the general statements -/

theorem witness_MemoriesStayCanonical : State.reset.memoriesCanonical ∧ ∃ t, step State.reset = .next t :=
  ⟨⟨by unfold State.memoryCanonical; decide +kernel, fun _ => rfl⟩, _, rfl⟩
theorem witness_FusedCounterAndSealNeverFall : ∃ t, step { B.svc with sealed := true } = .next t := ⟨_, rfl⟩
theorem witness_AccumulationIsExact : let l : List (Int × Int) := [(3, -10), (2 ^ 25 - 1, 30), (-2 ^ 25 + 1, -50)]
    l.length ≤ 2 ^ 20 ∧ (∀ c, l.head? = some c → c.2 = -10) ∧ ∀ c ∈ l, -2 ^ 25 < c.1 ∧ c.1 < 2 ^ 25 ∧ -10 - 40 ≤ c.2 ∧ c.2 ≤ -10 + 40 := by
  refine ⟨by decide, fun c h => ?_, by decide⟩
  simp at h
  rw [← h]
theorem witness_WholeTransactionWritesClearErrors : ∀ k < 64, ∃ i < (List.replicate 64 (0 : Byte)).length, Machine.translate 0 (128 + i) = some (64 * 2 + k) := by decide +kernel
theorem witness_NansAndInfinitiesAccumulate : AccElem.cleared.nan = false ∧ { AccElem.cleared with nan := true }.nan = true ∧ GrainBlock.nan.e = 0xFF := by decide

/-! ## Witnesses: the hypotheses of each statement -/

namespace W10

def sts : List State := [sTile, inL sTile launch0, inL sTile { launch0 with codeHi := 0x44 }]

theorem witness_ScalarArithmeticAndShiftResults_1 :
    (∃ (s : State) (th : Thr), s.canRun th ∧ ∃ md : BitVec 8, md.extractLsb 7 4 = 0#4) :=
  ⟨(sts.getD 0 State.reset), ⟨({ tile := 5, thread := 3 }), ⟨(wit_canRun (by decide +kernel) (by decide +kernel) (by decide +kernel)), ⟨(0x00#8), (by decide +kernel)⟩⟩⟩⟩

theorem witness_ScalarArithmeticAndShiftResults_2 :
    (∃ (s : State) (th : Thr), s.canRun th ∧ ∃ md : BitVec 8, md.extractLsb 7 4 = 0#4) :=
  ⟨(sts.getD 0 State.reset), ⟨({ tile := 5, thread := 3 }), ⟨(wit_canRun (by decide +kernel) (by decide +kernel) (by decide +kernel)), ⟨(0x00#8), (by decide +kernel)⟩⟩⟩⟩

end W10

namespace W12

def sts : List State := [sTile, inL sTile launch0, inL sTile { launch0 with codeHi := 0x48 }]

theorem witness_ScalarComparesMovesAndBranches_1 :
    (∃ (s : State) (th : Thr), s.canRun th ∧ ∃ md : BitVec 8, md.extractLsb 7 4 = 0#4) :=
  ⟨(sts.getD 0 State.reset), ⟨({ tile := 5, thread := 3 }), ⟨(wit_canRun (by decide +kernel) (by decide +kernel) (by decide +kernel)), ⟨(0x00#8), (by decide +kernel)⟩⟩⟩⟩

theorem witness_ScalarComparesMovesAndBranches_2 :
    (∃ (s : State) (th : Thr), s.canRun th) :=
  ⟨(sts.getD 0 State.reset), ⟨({ tile := 5, thread := 3 }), (wit_canRun (by decide +kernel) (by decide +kernel) (by decide +kernel))⟩⟩

theorem witness_ScalarComparesMovesAndBranches_3 :
    (∃ (s : State) (th : Thr), s.canRun th) :=
  ⟨(sts.getD 0 State.reset), ⟨({ tile := 5, thread := 3 }), (wit_canRun (by decide +kernel) (by decide +kernel) (by decide +kernel))⟩⟩

end W12

namespace W15

def sts : List State := [sTile, sTile.setTile 5 { tile0 with padBad := [33] }]

theorem witness_ScratchpadAccessResults_1 :
    (∃ (s : State) (th : Thr), s.canRun th ∧ let x := s.me th; ∃ (sz : AccSize) (base : BitVec 5) (off : BitVec 12), let a := padAddr (x.readS base) off (accBytes sz); a % accBytes sz = 0 ∧ (s.tile th.tile).cleanAt a (accBytes sz)) ∧
    (∃ (s : State) (th : Thr), s.canRun th ∧ ∃ (d : BitVec 5) (v : Fin 16), v.val = d.toNat ∧ let x := s.me th; ∃ (base : BitVec 5) (off : BitVec 12), let a := padAddr (x.readS base) off 128; a % 2 = 0 ∧ (s.tile th.tile).cleanAt a 128) ∧
    (∃ (s : State) (th : Thr), s.canRun th ∧ ∃ (d : BitVec 5) (v : Fin 16), v.val = d.toNat % 16 ∧ let x := s.me th; ∃ (base : BitVec 5) (off : BitVec 12), let a := padAddr (x.readS base) off 64; a % 2 = 0 ∧ (s.tile th.tile).cleanAt a 64) :=
  ⟨⟨(sts.getD 0 State.reset), ⟨({ tile := 5, thread := 3 }), ⟨(wit_canRun (by decide +kernel) (by decide +kernel) (by decide +kernel)), ⟨(Sys2Proof.AccSize.b1), ⟨(0x01#5), ⟨(0x000#12), ⟨(by decide +kernel), (by unfold Tile.cleanAt; decide +kernel)⟩⟩⟩⟩⟩⟩⟩,
    ⟨(sts.getD 0 State.reset), ⟨({ tile := 5, thread := 3 }), ⟨(wit_canRun (by decide +kernel) (by decide +kernel) (by decide +kernel)), ⟨(0x01#5), ⟨(1), ⟨(by decide +kernel), ⟨(0x01#5), ⟨(0x000#12), ⟨(by decide +kernel), (by unfold Tile.cleanAt; decide +kernel)⟩⟩⟩⟩⟩⟩⟩⟩⟩,
    ⟨(sts.getD 0 State.reset), ⟨({ tile := 5, thread := 3 }), ⟨(wit_canRun (by decide +kernel) (by decide +kernel) (by decide +kernel)), ⟨(0x01#5), ⟨(1), ⟨(by decide +kernel), ⟨(0x01#5), ⟨(0x000#12), ⟨(by decide +kernel), (by unfold Tile.cleanAt; decide +kernel)⟩⟩⟩⟩⟩⟩⟩⟩⟩⟩

theorem witness_ScratchpadAccessResults_2 :
    (∃ (s : State) (th : Thr) (sz : AccSize) (base : BitVec 5) (off : BitVec 12), s.canRun th ∧ (s.tile th.tile).matrix = none ∧ let x := s.me th; let a := padAddr (x.readS base) off (accBytes sz); a % accBytes sz = 0 ∧ (s.tile th.tile).storesClean a (accBytes sz)) ∧
    (∃ (s : State) (th : Thr) (d base : BitVec 5) (off : BitVec 12), s.canRun th ∧ (s.tile th.tile).matrix = none ∧ let x := s.me th; ∃ v : Fin 16, v.val = d.toNat ∧ let a := padAddr (x.readS base) off 128; a % 2 = 0 ∧ (s.tile th.tile).storesClean a 128) ∧
    (∃ (s : State) (th : Thr) (d base : BitVec 5) (off : BitVec 12), s.canRun th ∧ (s.tile th.tile).matrix = none ∧ let x := s.me th; ∃ v : Fin 16, v.val = d.toNat % 16 ∧ let a := padAddr (x.readS base) off 64; a % 2 = 0 ∧ (s.tile th.tile).storesClean a 64) :=
  ⟨⟨sts.getD 0 State.reset, ⟨5, 3⟩, .b1, 0x01#5, 0x000#12, wit_canRun (by decide +kernel) (by decide +kernel) (by decide +kernel), by decide +kernel, by decide +kernel, by unfold Tile.storesClean; decide +kernel⟩,
    ⟨sts.getD 0 State.reset, ⟨5, 3⟩, 0x01#5, 0x01#5, 0x000#12, wit_canRun (by decide +kernel) (by decide +kernel) (by decide +kernel), by decide +kernel, 1, by decide +kernel, by decide +kernel, by unfold Tile.storesClean; decide +kernel⟩,
    ⟨sts.getD 0 State.reset, ⟨5, 3⟩, 0x01#5, 0x01#5, 0x000#12, wit_canRun (by decide +kernel) (by decide +kernel) (by decide +kernel), by decide +kernel, 1, by decide +kernel, by decide +kernel, by unfold Tile.storesClean; decide +kernel⟩⟩

end W15

namespace W17

def vIdx (w : Nat) (f : Nat → Nat) : BitVec 1024 := BitVec.ofNat 1024 ((List.range (1024/w)).foldl (fun a i => a + f i * 2 ^ (w*i)) 0)
def tG : Tile := { tile0 with threads := tile0.threads.set 3 { thr0 with v := ((thr0.v.set 5 (vIdx 16 (fun i => i / 2))).set 6 (vIdx 32 (fun i => 37 * i % 11))).set 7 0 } }
def sts : List State := [sTile.setTile 5 tG, sTile.setTile 5 { tG with padBad := [40], pad := tile0.pad }]

theorem witness_ScratchpadAccessResults_3 :
    (∃ (s : State) (th : Thr), s.canRun th ∧ ∃ (f : LaneFmt) (md : BitVec 8), gatherFmt md = some f ∧ ∃ (d : BitVec 5) (dv : Fin 16), dv.val = d.toNat ∧ ∃ (b : BitVec 5) (bv : Fin 16), bv.val = b.toNat ∧ let x := s.me th; ∃ a : BitVec 5, let at_ (i : Nat) : Nat := gatherAddr f (x.readS a) x.v[bv] i; let n := laneWidth f / 8; (∀ i < laneCount f, laneOn f x md i = true → at_ i % n = 0) ∧ (∀ i < laneCount f, laneOn f x md i = true → (s.tile th.tile).cleanAt (at_ i) n)) ∧
    (∃ (s : State) (th : Thr) (f : LaneFmt) (d a b : BitVec 5) (dv bv : Fin 16) (md : BitVec 8), s.canRun th ∧ gatherFmt md = some f ∧ dv.val = d.toNat ∧ bv.val = b.toNat ∧ let x := s.me th; let n := laneWidth f / 8; let at_ (i : Nat) : Nat := gatherAddr f (x.readS a) x.v[bv] i; (∀ i < laneCount f, laneOn f x md i = true → at_ i % n = 0) ∧ (s.tile th.tile).matrix = none ∧ (∀ i < laneCount f, laneOn f x md i = true → (s.tile th.tile).storesClean (at_ i) n)) :=
  ⟨⟨(sts.getD 0 State.reset), ⟨({ tile := 5, thread := 3 }), ⟨(wit_canRun (by (try unfold Tile.cleanAt); decide +kernel) (by (try unfold Tile.cleanAt); decide +kernel) (by (try unfold Tile.cleanAt); decide +kernel)), ⟨(Sys2Proof.LaneFmt.fp32), ⟨(0x00#8), ⟨(by (try unfold Tile.cleanAt); decide +kernel), ⟨(0x01#5), ⟨(1), ⟨(by (try unfold Tile.cleanAt); decide +kernel), ⟨(0x07#5), ⟨(7), ⟨(by (try unfold Tile.cleanAt); decide +kernel), ⟨(0x01#5), (by (try unfold Tile.cleanAt); decide +kernel)⟩⟩⟩⟩⟩⟩⟩⟩⟩⟩⟩⟩⟩,
    ⟨sts.getD 0 State.reset, ⟨5, 3⟩, .fp32, 0x01#5, 0x01#5, 0x07#5, 1, 7, 0x00#8, wit_canRun (by decide +kernel) (by decide +kernel) (by decide +kernel), by decide +kernel, by decide +kernel, by decide +kernel, by decide +kernel, by decide +kernel, by unfold Tile.storesClean; decide +kernel⟩⟩

end W17

namespace W18

def tD : Tile := { tile0 with threads := tile0.threads.set 3 { thr0 with s := ((thr0.s.set 20 0x2040).set 21 0x13FFFFFFFC0) } }
def sts : List State := [sTile.setTile 5 tD, inL (sTile.setTile 5 tD) launch0]

theorem witness_DeviceAndRemoteAccessesSendRequests_1 :
    (∃ (s : State) (th : Thr), s.canRun th ∧ s.trackerRoom th.tile ∧ let x := s.me th; ∃ (sz : AccSize) (view : BitVec 2) (base : BitVec 5) (off : BitVec 12) (addr : Nat), deviceAddr view (x.readS base) (off.toInt * accBytes sz) (accBytes sz) (accBytes sz) = .ok addr) ∧
    (∃ (s : State) (th : Thr), s.canRun th ∧ s.trackerRoom th.tile ∧ ∃ (d : BitVec 5) (v : Fin 16), v.val = d.toNat ∧ let x := s.me th; ∃ (view : BitVec 2) (base : BitVec 5) (off : BitVec 12) (addr : Nat), deviceAddr view (x.readS base) (off.toInt * 128) 128 64 = .ok addr) ∧
    (∃ (s : State) (th : Thr), s.canRun th ∧ s.trackerRoom th.tile ∧ ∃ md : BitVec 8, md.extractLsb 5 4 = 0#2 ∧ ∃ view : BitVec 2, md.extractLsb 7 6 = view ∧ let x := s.me th; ∃ base : BitVec 5, let len := (x.readS base).toNat; 64 ≤ len ∧ len ≤ 2 ^ 20 ∧ len % 64 = 0 ∧ ∃ d : BitVec 5, let pad := (x.readS d).toNat % 2 ^ 20; pad % 64 = 0 ∧ ∃ (a : BitVec 5) (addr : Nat), deviceAddr view (x.readS a) 0 len 64 = .ok addr) :=
  ⟨⟨(sts.getD 0 State.reset), ⟨({ tile := 5, thread := 3 }), ⟨(wit_canRun (by decide +kernel) (by decide +kernel) (by decide +kernel)), ⟨(by unfold State.trackerRoom; decide +kernel), ⟨(Sys2Proof.AccSize.b1), ⟨(0x0#2), ⟨(0x00#5), ⟨(0x000#12), ⟨(0), (by decide +kernel)⟩⟩⟩⟩⟩⟩⟩⟩⟩,
    ⟨(sts.getD 0 State.reset), ⟨({ tile := 5, thread := 3 }), ⟨(wit_canRun (by decide +kernel) (by decide +kernel) (by decide +kernel)), ⟨(by unfold State.trackerRoom; decide +kernel), ⟨(0x00#5), ⟨(0), ⟨(by decide +kernel), ⟨(0x0#2), ⟨(0x00#5), ⟨(0x000#12), ⟨(0), (by decide +kernel)⟩⟩⟩⟩⟩⟩⟩⟩⟩⟩⟩,
    ⟨(sts.getD 0 State.reset), ⟨({ tile := 5, thread := 3 }), ⟨(wit_canRun (by decide +kernel) (by decide +kernel) (by decide +kernel)), ⟨(by unfold State.trackerRoom; decide +kernel), ⟨(0x00#8), ⟨(by decide +kernel), ⟨_, rfl, ⟨(0x01#5), ⟨(by decide +kernel), ⟨(by decide +kernel), ⟨(by decide +kernel), ⟨(0x00#5), ⟨(by decide +kernel), ⟨(0x00#5), ⟨(0), (by decide +kernel)⟩⟩⟩⟩⟩⟩⟩⟩⟩⟩⟩⟩⟩⟩⟩⟩

theorem witness_DeviceAndRemoteAccessesSendRequests_2 :
    (∃ (s : State) (th : Thr), s.canRun th ∧ s.trackerRoom th.tile ∧ ∃ wide : Bool, let n : Nat := if wide then 8 else 4; let x := s.me th; ∃ (view : BitVec 2) (base : BitVec 5) (off : BitVec 12) (addr : Nat), deviceAddr view (x.readS base) (off.toInt * n) n n = .ok addr ∧ ∃ d : BitVec 5, d.toNat ≤ 30) ∧
    (∃ (s : State) (th : Thr), s.canRun th ∧ s.trackerRoom th.tile ∧ ∃ wide : Bool, let n : Nat := if wide then 8 else 4; let x := s.me th; ∃ (view : BitVec 2) (base : BitVec 5) (off : BitVec 12) (addr : Nat), deviceAddr view (x.readS base) (off.toInt * n) n n = .ok addr ∧ ∃ d : BitVec 5, d.toNat ≤ 29) ∧
    (∃ (s : State) (th : Thr), s.canRun th ∧ s.trackerRoom th.tile ∧ ∃ (d : BitVec 5) (v : Fin 16), v.val = d.toNat % 16 ∧ let x := s.me th; ∃ (view : BitVec 2) (base : BitVec 5) (off : BitVec 12) (addr : Nat), deviceAddr view (x.readS base) (off.toInt * 64) 64 64 = .ok addr) :=
  ⟨⟨(sts.getD 0 State.reset), ⟨({ tile := 5, thread := 3 }), ⟨(wit_canRun (by decide +kernel) (by decide +kernel) (by decide +kernel)), ⟨(by unfold State.trackerRoom; decide +kernel), ⟨(false), ⟨(0x0#2), ⟨(0x00#5), ⟨(0x000#12), ⟨(0), ⟨(by decide +kernel), ⟨(0x00#5), (by decide +kernel)⟩⟩⟩⟩⟩⟩⟩⟩⟩⟩⟩,
    ⟨(sts.getD 0 State.reset), ⟨({ tile := 5, thread := 3 }), ⟨(wit_canRun (by decide +kernel) (by decide +kernel) (by decide +kernel)), ⟨(by unfold State.trackerRoom; decide +kernel), ⟨(false), ⟨(0x0#2), ⟨(0x00#5), ⟨(0x000#12), ⟨(0), ⟨(by decide +kernel), ⟨(0x00#5), (by decide +kernel)⟩⟩⟩⟩⟩⟩⟩⟩⟩⟩⟩,
    ⟨(sts.getD 0 State.reset), ⟨({ tile := 5, thread := 3 }), ⟨(wit_canRun (by decide +kernel) (by decide +kernel) (by decide +kernel)), ⟨(by unfold State.trackerRoom; decide +kernel), ⟨(0x00#5), ⟨(0), ⟨(by decide +kernel), ⟨(0x0#2), ⟨(0x00#5), ⟨(0x000#12), ⟨(0), (by decide +kernel)⟩⟩⟩⟩⟩⟩⟩⟩⟩⟩⟩⟩

theorem witness_DeviceAndRemoteAccessesSendRequests_3 :
    (∃ (s : State) (th : Thr), s.canRun th ∧ s.trackerRoom th.tile ∧ ∃ md : BitVec 8, md.extractLsb 7 4 = 0#4 ∧ ∃ (home off : _), let x := s.me th; ∃ a : BitVec 5, tileAddr (x.readS a) = some (home, off) ∧ off % 8 = 0 ∧ ∃ (d : BitVec 5) (v : Fin 16), v.val = d.toNat) ∧
    (∃ (s : State) (th : Thr), s.canRun th ∧ s.trackerRoom th.tile ∧ ∃ md : BitVec 8, md.extractLsb 7 4 = 0#4 ∧ let x := s.me th; ∃ a : BitVec 5, tileAddr (x.readS a) = none) :=
  ⟨⟨(sts.getD 0 State.reset), ⟨({ tile := 5, thread := 3 }), ⟨(wit_canRun (by decide +kernel) (by decide +kernel) (by decide +kernel)), ⟨(by unfold State.trackerRoom; decide +kernel), ⟨(0x00#8), ⟨(by decide +kernel), ⟨(0), ⟨(8192), ⟨(0x06#5), ⟨(by decide +kernel), ⟨(by decide +kernel), ⟨(0x00#5), ⟨(0), (by decide +kernel)⟩⟩⟩⟩⟩⟩⟩⟩⟩⟩⟩⟩⟩,
    ⟨(sts.getD 0 State.reset), ⟨({ tile := 5, thread := 3 }), ⟨(wit_canRun (by decide +kernel) (by decide +kernel) (by decide +kernel)), ⟨(by unfold State.trackerRoom; decide +kernel), ⟨(0x00#8), ⟨(by decide +kernel), ⟨(0x15#5), (by decide +kernel)⟩⟩⟩⟩⟩⟩⟩⟩

end W18

namespace W21

def tV : Tile := { tile0 with threads := tile0.threads.set 3 { thr0 with v := thr0.v.set 1 (BitVec.ofNat 1024 (0x7F8000013F8000004049000000000000BF800000C0490FDB00000001FF800000 * (2^256+1))) } }
def sts : List State := [sTile.setTile 5 tV, inL (sTile.setTile 5 tV) launch0]

theorem witness_VectorResults_1 :
    (∃ (s : State) (th : Thr), s.canRun th ∧ ∃ (d : BitVec 5) (dv : Fin 16), dv.val = d.toNat ∧ ∃ (a : BitVec 5) (av : Fin 16), av.val = a.toNat ∧ ∃ (b : BitVec 5) (bv : Fin 16), bv.val = b.toNat ∧ ∃ (md : BitVec 8) (mode : RMode), rmode (md.extractLsb 7 6) = some mode) :=
  ⟨(sts.getD 0 State.reset), ⟨({ tile := 5, thread := 3 }), ⟨(wit_canRun (by decide +kernel) (by decide +kernel) (by decide +kernel)), ⟨(0x01#5), ⟨(1), ⟨(by decide +kernel), ⟨(0x01#5), ⟨(1), ⟨(by decide +kernel), ⟨(0x01#5), ⟨(1), ⟨(by decide +kernel), ⟨(0x02#8), ⟨_, rfl⟩⟩⟩⟩⟩⟩⟩⟩⟩⟩⟩⟩⟩⟩

end W21

namespace W22

def tV : Tile := { tile0 with threads := tile0.threads.set 3 { thr0 with v := thr0.v.set 1 (BitVec.ofNat 1024 (0x7F8000013F8000004049000000000000BF800000C0490FDB00000001FF800000 * (2^256+1))) } }
def sts : List State := [sTile.setTile 5 tV, inL (sTile.setTile 5 tV) launch0]

theorem witness_VectorResults_2 :
    (∃ (s : State) (th : Thr), s.canRun th ∧ ∃ (d : BitVec 5) (dv : Fin 16), dv.val = d.toNat ∧ ∃ (a : BitVec 5) (av : Fin 16), av.val = a.toNat ∧ ∃ (b : BitVec 5) (bv : Fin 16), bv.val = b.toNat ∧ ∃ md : BitVec 8, md.extractLsb 7 4 = 0#4) :=
  ⟨(sts.getD 0 State.reset), ⟨({ tile := 5, thread := 3 }), ⟨(wit_canRun (by decide +kernel) (by decide +kernel) (by decide +kernel)), ⟨(0x01#5), ⟨(1), ⟨(by decide +kernel), ⟨(0x01#5), ⟨(1), ⟨(by decide +kernel), ⟨(0x01#5), ⟨(1), ⟨(by decide +kernel), ⟨(0x02#8), (by decide +kernel)⟩⟩⟩⟩⟩⟩⟩⟩⟩⟩⟩⟩⟩

theorem witness_VectorResults_3 :
    (∃ (s : State) (th : Thr), s.canRun th ∧ ∃ (d : BitVec 5) (dv : Fin 16), dv.val = d.toNat ∧ ∃ (a : BitVec 5) (av : Fin 16), av.val = a.toNat ∧ ∃ (b : BitVec 5) (bv : Fin 16), bv.val = b.toNat ∧ ∃ m : Fin 4, m.val = d.toNat ∧ ∃ md : BitVec 8, md.extractLsb 7 4 = 0#4) ∧
    (∃ (s : State) (th : Thr), s.canRun th ∧ ∃ (d : BitVec 5) (dv : Fin 16), dv.val = d.toNat ∧ ∃ (a : BitVec 5) (av : Fin 16), av.val = a.toNat ∧ ∃ (b : BitVec 5) (bv : Fin 16), bv.val = b.toNat ∧ ∃ (md : BitVec 8) (mode : _), rmode (md.extractLsb 7 6) = some mode) :=
  ⟨⟨(sts.getD 0 State.reset), ⟨({ tile := 5, thread := 3 }), ⟨(wit_canRun (by decide +kernel) (by decide +kernel) (by decide +kernel)), ⟨(0x01#5), ⟨(1), ⟨(by decide +kernel), ⟨(0x01#5), ⟨(1), ⟨(by decide +kernel), ⟨(0x01#5), ⟨(1), ⟨(by decide +kernel), ⟨(1), ⟨(by decide +kernel), ⟨(0x02#8), (by decide +kernel)⟩⟩⟩⟩⟩⟩⟩⟩⟩⟩⟩⟩⟩⟩⟩,
    ⟨(sts.getD 0 State.reset), ⟨({ tile := 5, thread := 3 }), ⟨(wit_canRun (by decide +kernel) (by decide +kernel) (by decide +kernel)), ⟨(0x01#5), ⟨(1), ⟨(by decide +kernel), ⟨(0x01#5), ⟨(1), ⟨(by decide +kernel), ⟨(0x01#5), ⟨(1), ⟨(by decide +kernel), ⟨(0x02#8), ⟨_, rfl⟩⟩⟩⟩⟩⟩⟩⟩⟩⟩⟩⟩⟩⟩⟩

end W22

namespace W24

def tM : Tile := { tile0 with acc := tile0.acc.set 2 [(0, { AccElem.cleared with v := 2^70 + 5, a := -30, empty := false }), (65, { AccElem.cleared with v := -3, a := 0, empty := false, sticky := true })]
                              threads := tile0.threads.set 3 { thr0 with s := (thr0.s.set 7 0x40).set 8 0x2001 } }
def sts : List State := [sTile.setTile 5 tM, inL (sTile.setTile 5 tM) launch0]

theorem witness_MatrixInstructionsEnterAndLeaveTheUnit_1 :
    (∃ (s : State) (th : Thr), s.canRun th ∧ (s.tile th.tile).matrix = none ∧ ∃ (fa : BitVec 2) (ga : _), grainCode fa = some ga ∧ ∃ (fb : BitVec 2) (gb : _), grainCode fb = some gb ∧ let x := s.me th; ∃ a : BitVec 5, let pa := (x.readS a).toNat % 2 ^ 20; pa % 64 = 0 ∧ ∃ b : BitVec 5, let pb := (x.readS b).toNat % 2 ^ 20; pb % 64 = 0) ∧
    (∃ (s : State) (th : Thr), s.canRun th ∧ (s.tile th.tile).matrix = none ∧ let x := s.me th; ∃ a : BitVec 5, let pa := (x.readS a).toNat % 2 ^ 20; pa % 2 = 0 ∧ ∃ b : BitVec 5, let pb := (x.readS b).toNat % 2 ^ 20; pb % 2 = 0) ∧
    (∃ (s : State) (th : Thr), s.canRun th ∧ (s.tile th.tile).matrix = none ∧ ∃ (b : BitVec 5) (k : Fin 4), k.val = b.toNat ∧ ∃ md : BitVec 8, md.extractLsb 7 4 = 0#4) ∧
    (∃ (s : State) (th : Thr), s.canRun th ∧ (s.tile th.tile).matrix = none ∧ ∃ (b : BitVec 5) (k : Fin 4), k.val = b.toNat ∧ ∃ (d : BitVec 5) (fc : FormatCode), formatCode d.toNat = some fc ∧ ∃ (md : BitVec 8) (mode : RMode), rmode (md.extractLsb 7 6) = some mode ∧ let x := s.me th; ∃ a : BitVec 5, let pa := (x.readS a).toNat % 2 ^ 20; pa % fc.align = 0) :=
  ⟨⟨(sts.getD 0 State.reset), ⟨({ tile := 5, thread := 3 }), ⟨(wit_canRun (by decide +kernel) (by decide +kernel) (by decide +kernel)), ⟨(by decide +kernel), ⟨(0x1#2), (wit_some (by decide +kernel) ⟨(0x1#2), (wit_some (by decide +kernel) ⟨(0x01#5), ⟨(by decide +kernel), ⟨(0x01#5), (by decide +kernel)⟩⟩⟩)⟩)⟩⟩⟩⟩⟩,
    ⟨(sts.getD 0 State.reset), ⟨({ tile := 5, thread := 3 }), ⟨(wit_canRun (by decide +kernel) (by decide +kernel) (by decide +kernel)), ⟨(by decide +kernel), ⟨(0x01#5), ⟨(by decide +kernel), ⟨(0x01#5), (by decide +kernel)⟩⟩⟩⟩⟩⟩⟩,
    ⟨(sts.getD 0 State.reset), ⟨({ tile := 5, thread := 3 }), ⟨(wit_canRun (by decide +kernel) (by decide +kernel) (by decide +kernel)), ⟨(by decide +kernel), ⟨(0x01#5), ⟨(1), ⟨(by decide +kernel), ⟨(0x00#8), (by decide +kernel)⟩⟩⟩⟩⟩⟩⟩⟩,
    ⟨(sts.getD 0 State.reset), ⟨({ tile := 5, thread := 3 }), ⟨(wit_canRun (by decide +kernel) (by decide +kernel) (by decide +kernel)), ⟨(by decide +kernel), ⟨(0x01#5), ⟨(1), ⟨(by decide +kernel), ⟨(0x01#5), (wit_some (by decide +kernel) ⟨(0x00#8), (wit_some (by decide +kernel) ⟨(0x01#5), (by decide +kernel)⟩)⟩)⟩⟩⟩⟩⟩⟩⟩⟩⟩

end W24

namespace W25

def tM (j : Option MatrixJob) : Tile := { tile0 with acc := tile0.acc.set 2 [(0, { AccElem.cleared with v := 2^70 + 5, a := -30, empty := false })], matrix := j
                                                     threads := tile0.threads.set 3 { thr0 with state := .stalled, stall := some .matrixBusy } }
def sts : List State := [sTile.setTile 5 (tM (some (.mma .bf16 2 1 0x100 0x108 3 0x20 [] none))), sTile.setTile 5 (tM (some (.readout 0x100 [1,2,3,4,5,6,7] 3 0x20))), sTile.setTile 5 (tM (some (.readout 0xFFFFE [1,2,3,4,5,6,7] 4 0x20)))]

theorem witness_MatrixInstructionsEnterAndLeaveTheUnit_2 :
    (∃ (s : State) (n : Fin 2560) (kind acc chunks a b done : _), let y := s.tile n; ∃ (th : Fin 16) (pc : BitVec 32), y.matrix = some (.mma kind acc chunks a b th pc done none) ∧ ∃ (ops : _), matrixRead y chunks (.mma kind acc chunks a b th pc done none) = .mma kind acc chunks a b th pc ops none) ∧
    (∃ (s : State) (n : Fin 2560) (th : Fin 16) (pc : BitVec 32), let y := s.tile n; ∃ addr bytes, y.matrix = some (.readout addr bytes th pc) ∧ bytes.length ≤ 2 ^ 20 ∧ y.storesClean addr bytes.length) :=
  ⟨⟨(sts.getD 0 State.reset), ⟨(5), ⟨_, _, _, _, _, _, _, _, rfl, ⟨_, rfl⟩⟩⟩⟩,
    ⟨sts.getD 1 State.reset, 5, _, _, _, _, rfl, by decide +kernel, by unfold Tile.storesClean; decide +kernel⟩⟩

end W25

namespace W26

def tM : Tile := { tile0 with threads := tile0.threads.set 3 { thr0 with s := ((thr0.s.set 7 0x100).set 8 0x2040) } }
def sts : List State := [sTile.setTile 5 tM]

theorem witness_ConversionResults :
    (∃ (s : State) (th : Thr), s.canRun th ∧ (s.tile th.tile).matrix = none ∧ ∃ (md : BitVec 8) (mode : RMode), rmode (md.extractLsb 7 6) = some mode ∧ md.getLsbD 4 = false ∧ (s.tile th.tile).padBad = [] ∧ ∃ (a : BitVec 5) (av : Fin 16), av.val = a.toNat ∧ let x := s.me th; ∃ d : BitVec 5, let base := (x.readS d).toNat % 2 ^ 20; base % 64 = 0 ∧ ∃ (b : BitVec 5) (src : LaneFmt), (src = .fp32 ∨ (b.toNat % 2 = 0 ∧ b.toNat ≤ 30))) ∧
    (∃ (s : State) (th : Thr), s.canRun th ∧ (s.tile th.tile).matrix = none ∧ ∃ (md : BitVec 8) (mode : RMode), rmode (md.extractLsb 7 6) = some mode ∧ md.getLsbD 4 = false ∧ (s.tile th.tile).padBad = [] ∧ ∃ (d : BitVec 5) (dv : Fin 16), dv.val = d.toNat ∧ md.extractLsb 7 4 = 0#4 ∧ let x := s.me th; ∃ a : BitVec 5, (x.readS a).toNat % 64 = 0) ∧
    (∃ (s : State) (th : Thr), s.canRun th ∧ (s.tile th.tile).matrix = none ∧ ∃ (md : BitVec 8) (mode : RMode), rmode (md.extractLsb 7 6) = some mode ∧ md.getLsbD 4 = false ∧ (s.tile th.tile).padBad = [] ∧ ∃ (fmt : BitVec 3) (fc : FormatCode), formatCode fmt.toNat = some fc ∧ ∃ (b : BitVec 5) (k : MxKind), mxKind b.toNat = some k ∧ let x := s.me th; ∃ a : BitVec 5, let src := (x.readS a).toNat % 2 ^ 20; src % 64 = 0 ∧ ∃ d : BitVec 5, let dst := (x.readS d).toNat % 2 ^ 20; dst % 64 = 0) ∧
    (∃ (s : State) (th : Thr), s.canRun th ∧ (s.tile th.tile).matrix = none ∧ ∃ (md : BitVec 8) (mode : RMode), rmode (md.extractLsb 7 6) = some mode ∧ md.getLsbD 4 = false ∧ (s.tile th.tile).padBad = [] ∧ ∃ (d : BitVec 5) (dv : Fin 16), dv.val = d.toNat ∧ ∃ (a : BitVec 5) (av : Fin 16), av.val = a.toNat ∧ ∃ (dst : BitVec 3) (df : LaneFmt), floatCode dst.toNat = some df ∧ ∃ (b : BitVec 5) (sf : LaneFmt), floatCode b.toNat = some sf) :=
  ⟨⟨(sts.getD 0 State.reset), ⟨({ tile := 5, thread := 3 }), ⟨(wit_canRun (by decide +kernel) (by decide +kernel) (by decide +kernel)), ⟨(by decide +kernel), ⟨(0x00#8), (wit_some (by decide +kernel) ⟨(by decide +kernel), ⟨(by decide +kernel), ⟨(0x02#5), ⟨(2), ⟨(by decide +kernel), ⟨(0x07#5), ⟨(by decide +kernel), ⟨(0x02#5), ⟨(Sys2Proof.LaneFmt.fp32), (by decide +kernel)⟩⟩⟩⟩⟩⟩⟩⟩⟩)⟩⟩⟩⟩⟩,
    ⟨(sts.getD 0 State.reset), ⟨({ tile := 5, thread := 3 }), ⟨(wit_canRun (by decide +kernel) (by decide +kernel) (by decide +kernel)), ⟨(by decide +kernel), ⟨(0x00#8), (wit_some (by decide +kernel) ⟨(by decide +kernel), ⟨(by decide +kernel), ⟨(0x02#5), ⟨(2), ⟨(by decide +kernel), ⟨(by decide +kernel), ⟨(0x07#5), (by decide +kernel)⟩⟩⟩⟩⟩⟩⟩)⟩⟩⟩⟩⟩,
    ⟨(sts.getD 0 State.reset), ⟨({ tile := 5, thread := 3 }), ⟨(wit_canRun (by decide +kernel) (by decide +kernel) (by decide +kernel)), ⟨(by decide +kernel), ⟨(0x00#8), (wit_some (by decide +kernel) ⟨(by decide +kernel), ⟨(by decide +kernel), ⟨(0x0#3), (wit_some (by decide +kernel) ⟨(0x02#5), (wit_some (by decide +kernel) ⟨(0x07#5), ⟨(by decide +kernel), ⟨(0x07#5), (by decide +kernel)⟩⟩⟩)⟩)⟩⟩⟩)⟩⟩⟩⟩⟩,
    ⟨(sts.getD 0 State.reset), ⟨({ tile := 5, thread := 3 }), ⟨(wit_canRun (by decide +kernel) (by decide +kernel) (by decide +kernel)), ⟨(by decide +kernel), ⟨(0x00#8), (wit_some (by decide +kernel) ⟨(by decide +kernel), ⟨(by decide +kernel), ⟨(0x02#5), ⟨(2), ⟨(by decide +kernel), ⟨(0x02#5), ⟨(2), ⟨(by decide +kernel), ⟨(0x0#3), (wit_some (by decide +kernel) ⟨(0x02#5), ⟨_, rfl⟩⟩)⟩⟩⟩⟩⟩⟩⟩⟩⟩)⟩⟩⟩⟩⟩⟩

end W26

namespace W27

def mk (th3 : Thread) (l : List (Nat × Thread)) : Tile := { tile0 with threads := (Vector.ofFn (fun k => if k.val = 3 then th3 else match l.find? (fun e => e.1 == k.val) with | some e => e.2 | none => Thread.idle)) }
def wB : Thread := { thr0 with state := .waiting, wait := some (.bar 1) }
def req (i : Nat) (op : MemOp) (th : Fin 16) : MemReq := { id := i, tile := 5, thread := th, pc := 0, op := op, remote := none, view := 0, addr := 0x1000, len := 64, bytes := [], dest := .none, served := [], answered := [], expired := [], orphan := false }
def sts : List State := [sTile.setTile 5 (mk thr0 [(4, wB), (6, { thr0 with state := .halted })]), inL (sTile.setTile 5 (mk thr0 [(4, wB)])) launch0, sTile.setTile 5 (mk { thr0 with wait := none } []),
  inL (sTile.setTile 5 (mk thr0 [])) launch0,
  { sTile.setTile 5 (mk thr0 []) with mem := { sTile.mem with reqs := [req 1 (.dmaRead 0) 3, req 2 .store 3, req 3 .load 4, req 4 (.dmaRead 0) 3], nextId := 5 } }, sTile.setTile 5 (mk { thr0 with passed := 80, boosted := true, s := (thr0.s.set 7 0x108).set 8 0x38C7A18D68421EFB } [])]

theorem witness_WaitsBarriersHaltsAndFaults_1 :
    (∃ (s : State) (th : Thr) (imm : BitVec 13), (s.tile th.tile).pick = some th.thread ∧ s.inCode th.tile ((s.me th).pc + 4) ∧ imm.toNat ≤ 4) ∧
    (∃ (s : State) (th : Thr) (b : BitVec 5) (md : BitVec 8), (s.tile th.tile).pick = some th.thread ∧ s.inCode th.tile ((s.me th).pc + 4) ∧ ∃ n : Fin 4, n.val = b.toNat ∧ md.extractLsb 7 4 = 0#4) ∧
    (∃ (s : State) (th : Thr) (md : BitVec 8), (s.tile th.tile).pick = some th.thread ∧ s.inCode th.tile ((s.me th).pc + 4) ∧ md.extractLsb 7 4 ≠ 0#4) ∧
    (∃ (s : State) (th : Thr) (a : BitVec 5) (md : BitVec 8), (s.tile th.tile).pick = some th.thread ∧ s.inCode th.tile ((s.me th).pc + 4) ∧ let x := s.me th; let off := (x.readS a).toNat % 2 ^ 20; s.outstanding th.tile th.thread = [] ∧ off % 8 = 0 ∧ (s.tile th.tile).cleanAt off 8 ∧ md.extractLsb 7 4 = 0#4) :=
  ⟨⟨sts.getD 0 State.reset, ⟨5, 3⟩, 4, by decide +kernel, wit_inCode (by decide +kernel), by decide +kernel⟩,
    ⟨sts.getD 1 State.reset, ⟨5, 3⟩, 3, 0, by decide +kernel, wit_inCode (by decide +kernel), 3, by decide +kernel⟩,
    ⟨sts.getD 1 State.reset, ⟨5, 3⟩, 0x10, by decide +kernel, wit_inCode (by decide +kernel), by decide +kernel⟩,
    ⟨sts.getD 0 State.reset, ⟨5, 3⟩, 0, 0, by decide +kernel, wit_inCode (by decide +kernel), by decide +kernel, by decide +kernel, by unfold Tile.cleanAt; decide +kernel, by decide +kernel⟩⟩

end W27

namespace W28

def mk (th3 : Thread) (l : List (Nat × Thread)) : Tile := { tile0 with threads := (Vector.ofFn (fun k => if k.val = 3 then th3 else match l.find? (fun e => e.1 == k.val) with | some e => e.2 | none => Thread.idle)) }
def wB : Thread := { thr0 with state := .waiting, wait := some (.bar 1) }
def hlt : Thread := { thr0 with state := .halted }
def inF (s : State) : State := { s with queues := s.queues.set 3 { s.queues[3] with inflight := [{ index := 4, desc := 7, phase := .running }, { index := 5, desc := 8, phase := .fetched }] } }
def sts : List State := [sTile.setTile 5 (mk thr0 [(4, wB), (6, { thr0 with state := .halted })]), inL (sTile.setTile 5 (mk thr0 [(4, wB), (6, thr0)])) launch0,
  inF (inL { sTile with tiles := [(5, mk thr0 [(4, hlt), (6, hlt)]), (7, mk hlt []), (900, tile0)] } launch0), inL { sTile with tiles := [(5, mk thr0 [(4, hlt), (6, hlt)])] } launch0,
   sTile.setTile 5 (mk { thr0 with passed := 80, boosted := false, prio := false } []), sTile.setTile 5 (mk { thr0 with prio := false } [(6, thr0)]), sTile.setTile 5 (mk thr0 [(9, thr0)])]

theorem witness_WaitsBarriersHaltsAndFaults_2 :
    (∃ (s : State) (th : Thr), (s.me th).state = .ready ∧ (s.me th).prio = false ∧ 64 ≤ (s.me th).passed) ∧
    (∃ (s : State) (th : Thr), (s.tile th.tile).pick = some th.thread ∧ s.launchOf th.tile = none) ∧
    (∃ (s : State) (th : Thr), (s.tile th.tile).pick = some th.thread ∧ ∃ l, s.launchOf th.tile = some l ∧ rising s.tiles = true ∧ (∀ k n, l.has k = true → (k ≠ th.tile.val ∨ n ≠ th.thread) → (s.thread k n).started = true → (s.thread k n).state = .halted)) ∧
    (∃ (s : State) (th : Thr), (s.me th).state = .ready ∧ (s.tile th.tile).pick ≠ some th.thread) ∧
    (∃ (s : State) (th : Thr), (s.me th).state = .ready ∧ (∀ n, n ≠ th.thread → (s.thread th.tile n).state = .ready → (s.thread th.tile n).prio = false ∧ (s.thread th.tile n).boosted = false ∧ (s.thread th.tile n).passed < 64) ∧ (s.me th).high = true) ∧
    (∃ (s : State) (th : Thr), (s.me th).state = .ready ∧ (∀ n, (s.thread th.tile n).state = .ready → (s.thread th.tile n).high = (s.me th).high) ∧ (∀ n, n ≠ th.thread → (s.thread th.tile n).state = .ready → (th.thread - (s.tile th.tile).lastIssued - 1).val < (n - (s.tile th.tile).lastIssued - 1).val)) ∧
    (∃ (s : State) (th : Thr), (s.tile th.tile).pick = some th.thread ∧ ∃ w : BitVec 32, (14 ≤ (w.extractLsb' 28 4).toNat ∨ ((w.extractLsb' 28 4).toNat = 3 ∧ (w.extractLsb' 24 4).toNat ≠ 15 ∧ (w.extractLsb' 22 2) ≠ 0) ∨ ((w.extractLsb' 28 4).toNat = 3 ∧ (w.extractLsb' 24 4).toNat = 15 ∧ (16 ≤ (w.extractLsb' 18 5).toNat ∨ 16 ≤ (w.extractLsb' 8 5).toNat ∨ w.getLsbD 0 = true ∨ w.extractLsb' 4 2 ≠ 0 ∨ w.getLsbD 7 = true)) ∨ ((w.extractLsb' 28 4).toNat ∈ [5, 7, 8, 9, 10, 11] ∧ w.extractLsb' 6 2 = 3#2))) :=
  ⟨⟨(sts.getD 4 State.reset), ⟨({ tile := 5, thread := 3 }), (by decide +kernel)⟩⟩,
    ⟨sts.getD 0 State.reset, ⟨5, 3⟩, by decide +kernel⟩,
    ⟨sts.getD 2 State.reset, ⟨5, 3⟩, by decide +kernel, wit_some (by decide +kernel) ⟨by decide +kernel, wit_allHalted (by decide +kernel)⟩⟩,
    ⟨sts.getD 5 State.reset, ⟨5, 3⟩, by decide +kernel⟩,
    ⟨sts.getD 5 State.reset, ⟨5, 6⟩, by decide +kernel⟩,
    ⟨sts.getD 6 State.reset, ⟨5, 3⟩, by decide +kernel⟩,
    ⟨sts.getD 0 State.reset, ⟨5, 3⟩, by decide +kernel, 0xE0000000, by decide +kernel⟩⟩

end W28

namespace W29

def req (i : Nat) (op : MemOp) (a n : Nat) (b : List Byte) : MemReq := { id := i, tile := 5, thread := 3, pc := 0, op := op, remote := none, view := 0, addr := a, len := n, bytes := b, dest := .scalar 9, served := [], answered := [], expired := [], orphan := false }
def rs : List MemReq := [req 1 .load 0x1008 8 [], req 2 .store 0x1010 4 [1,2,3,4], req 3 (.atomic .add 5 0) 0x1000 8 [], req 4 (.atomic .cas 5 0x04030201) 0x1004 4 [], req 5 (.reduce .fp32) 0x1000 64 ((List.range 64).map (BitVec.ofNat 8)),
   req 6 .store 0x2000 128 ((List.range 128).map (BitVec.ofNat 8)), { req 7 .load 0x8000001000 128 [] with view := 1 }, req 8 (.atomic .fadd 0x40490FDB 0) 0x1000 4 [], req 9 (.atomic .umax 0x40490FDB 0) 0x1000 8 [], req 10 (.atomic .swap 0x40490FDB 0) 0x13FFFFFFFF8 8 []]
def sM : State := { sTile with mem := { sTile.mem with dram := [(0x1000, 1), (0x1002, 3), (0x1008, 9), (0x1009, 200), (0x100F, 77), (0x103F, 63)] } }
def sts : List State := rs.map (fun r => { sM with mem := { sM.mem with reqs := [r] } })

theorem witness_RequestsArePerformedAtTheirHomes_1 :
    (∃ (s : State) (r : MemReq) (k : Nat), s.reqOf r.id = some r ∧ r.remote = none ∧ r.isDma = false ∧ k < r.parts ∧ r.hasServed k = false ∧ s.blocked r k = false ∧ let u := s.carry r k; u.channelOpen (r.partHome k) = true ∧ u.turnOf r k = true ∧ let l := r.partAddr k; let n := r.partLen k; l / 64 ∉ s.mem.bad ∧ l % 64 + n ≤ 64 ∧ l + n ≤ 0x14000000000 ∧ r.op = .load) ∧
    (∃ (s : State) (r : MemReq) (k : Nat), s.reqOf r.id = some r ∧ r.remote = none ∧ r.isDma = false ∧ k < r.parts ∧ r.hasServed k = false ∧ s.blocked r k = false ∧ let u := s.carry r k; u.channelOpen (r.partHome k) = true ∧ u.turnOf r k = true ∧ let l := r.partAddr k; let n := r.partLen k; l / 64 ∉ s.mem.bad ∧ l % 64 + n ≤ 64 ∧ l + n ≤ 0x14000000000 ∧ r.op = .store ∧ ((r.bytes.drop (64 * k)).take 64).length = n) ∧
    (∃ (s : State) (r : MemReq) (k : Nat), s.reqOf r.id = some r ∧ r.remote = none ∧ r.isDma = false ∧ k < r.parts ∧ r.hasServed k = false ∧ s.blocked r k = false ∧ let u := s.carry r k; u.channelOpen (r.partHome k) = true ∧ u.turnOf r k = true ∧ let l := r.partAddr k; let n := r.partLen k; l / 64 ∉ s.mem.bad ∧ l % 64 + n ≤ 64 ∧ l + n ≤ 0x14000000000 ∧ ∃ op a c, r.op = .atomic op a c ∧ r.len = n) ∧
    (∃ (s : State) (r : MemReq) (k : Nat), s.reqOf r.id = some r ∧ r.remote = none ∧ r.isDma = false ∧ k < r.parts ∧ r.hasServed k = false ∧ s.blocked r k = false ∧ let u := s.carry r k; u.channelOpen (r.partHome k) = true ∧ u.turnOf r k = true ∧ let l := r.partAddr k; let n := r.partLen k; l / 64 ∉ s.mem.bad ∧ l % 64 + n ≤ 64 ∧ l + n ≤ 0x14000000000 ∧ ∃ f, r.op = .reduce f ∧ n = 64) ∧
    (∃ (s : State) (r : MemReq) (k : Nat), r.partNear k = false ∧ r.isDma = false ∧ s.reqOf r.id = some r ∧ s.canopy.flits = [] ∧ s.waits r.id k = false ∧ s.routeLive (.tile r.tile) (.tile (r.partHome k)) = true ∧ (r.remote.isSome = true ∨ s.memEntries (r.partHome k) < 64)) :=
  ⟨⟨sts.getD 0 State.reset, rs[0], 0, by decide +kernel⟩,
    ⟨sts.getD 1 State.reset, rs[1], 0, by decide +kernel⟩,
    ⟨sts.getD 2 State.reset, rs[2], 0, by refine ⟨?_, ?_, ?_, ?_, ?_, ?_, ?_, ?_, ?_, ?_, ?_, _, _, _, rfl, ?_⟩ <;> decide +kernel⟩,
    ⟨sts.getD 4 State.reset, rs[4], 0, by refine ⟨?_, ?_, ?_, ?_, ?_, ?_, ?_, ?_, ?_, ?_, ?_, _, rfl, ?_⟩ <;> decide +kernel⟩,
    ⟨sts.getD 0 State.reset, rs[0], 0, by decide +kernel⟩⟩

end W29

namespace W30

def req (i : Nat) (op : MemOp) (a n : Nat) (b : List Byte) : MemReq := { id := i, tile := 5, thread := 3, pc := 0, op := op, remote := some 7, view := 0, addr := a, len := n, bytes := b, dest := .scalar 9, served := [], answered := [], expired := [], orphan := false }
def rs : List MemReq := [req 1 .remLoad 0x100 8 [], req 2 .remStore 0x100 8 [1,2,3,4,5,6,7,8], req 3 (.remAdd 5) 0x108 8 [], req 4 .remLoad 0x100 64 [], req 5 .remStore 0xFFFE0 64 (List.replicate 64 8)]
def wt : Thread := { thr0 with state := .waiting, wait := some (.ne 0x100 5) }
def arr (i : Nat) : Arrived := { req := i, part := 0, passed := 0, late := false }
def sts : List State := rs.flatMap (fun r => let s : State := { sTile with mem := { sTile.mem with reqs := [r], tracker := [arr r.id] } }; [s, { s.setTile 7 { tile0 with fenced := true } with mem := { s.mem with tracker := [{ arr r.id with late := true }] } }, s.setTile 7 { tile0 with padBad := [32], threads := tile0.threads.set 9 wt}, s.setTile 7 { tile0 with matrix := some (.readout 0 [] 1 0) }])

theorem witness_RequestsArePerformedAtTheirHomes_2 :
    (∃ (s : State) (r : MemReq) (home : Nat) (e : Arrived), s.reqOf r.id = some r ∧ r.remote = some home ∧ r.hasServed 0 = false ∧ s.blocked r 0 = false ∧ s.homeLive home = true ∧ s.canopy.flits = [] ∧ s.mem.tracker.find? (fun e => e.req == r.id) = some e ∧ e.part = 0 ∧ s.cameBefore r = false ∧ e.late = true) ∧
    (∃ (s : State) (r : MemReq) (home : Nat) (e : Arrived), s.reqOf r.id = some r ∧ r.remote = some home ∧ r.hasServed 0 = false ∧ s.blocked r 0 = false ∧ s.homeLive home = true ∧ s.canopy.flits = [] ∧ s.mem.tracker.find? (fun e => e.req == r.id) = some e ∧ e.part = 0 ∧ s.cameBefore r = false ∧ let y := s.tile home; e.late = false ∧ r.op = .remLoad ∧ y.cleanAt r.addr r.len) ∧
    (∃ (s : State) (r : MemReq) (home : Nat) (e : Arrived), s.reqOf r.id = some r ∧ r.remote = some home ∧ r.hasServed 0 = false ∧ s.blocked r 0 = false ∧ s.homeLive home = true ∧ s.canopy.flits = [] ∧ s.mem.tracker.find? (fun e => e.req == r.id) = some e ∧ e.part = 0 ∧ s.cameBefore r = false ∧ let y := s.tile home; e.late = false ∧ r.op = .remStore ∧ y.matrix = none ∧ r.bytes.length ≤ 2 ^ 20 ∧ y.rereadBad ((padWords r.addr r.bytes.length).map Prod.fst) = []) ∧
    (∃ (s : State) (r : MemReq) (home : Nat) (e : Arrived), s.reqOf r.id = some r ∧ r.remote = some home ∧ r.hasServed 0 = false ∧ s.blocked r 0 = false ∧ s.homeLive home = true ∧ s.canopy.flits = [] ∧ s.mem.tracker.find? (fun e => e.req == r.id) = some e ∧ e.part = 0 ∧ s.cameBefore r = false ∧ let y := s.tile home; e.late = false ∧ ∃ v, r.op = .remAdd v ∧ y.matrix = none ∧ y.cleanAt r.addr 8 ∧ y.rereadBad ((padWords r.addr 8).map Prod.fst) = []) :=
  ⟨⟨sts.getD 1 State.reset, rs[0], 7, { arr 1 with late := true }, by decide +kernel⟩,
    ⟨sts.getD 0 State.reset, rs[0], 7, arr 1, by refine ⟨?_, ?_, ?_, ?_, ?_, ?_, ?_, ?_, ?_, ?_, ?_, by unfold Tile.cleanAt; decide +kernel⟩ <;> decide +kernel⟩,
    ⟨sts.getD 4 State.reset, rs[1], 7, arr 2, by decide +kernel⟩,
    ⟨sts.getD 8 State.reset, rs[2], 7, arr 3, by refine ⟨?_, ?_, ?_, ?_, ?_, ?_, ?_, ?_, ?_, ?_, _, rfl, ?_, by unfold Tile.cleanAt; decide +kernel, ?_⟩ <;> decide +kernel⟩⟩

end W30

namespace W31

def ok (b : List Byte) : PartEnd := { status := .performed, bytes := b }
def req (i : Nat) (op : MemOp) (a n : Nat) : MemReq := { id := i, tile := 5, thread := 3, pc := 0, op := op, remote := none, view := 0, addr := a, len := n, bytes := [], dest := .scalar 9, served := [(0, ok [1,2,3,4,5,6,7,8])], answered := [], expired := [], orphan := false }
def rs : List MemReq := [req 1 .load 0x1008 8, { req 2 .load 0x1000 8 with served := [(0, { status := .badDram, bytes := [] })] }, { req 3 .load 0x1000 64 with dest := .vector 2, served := [] }, req 4 (.dmaRead 0x400) 0x1000 64, { req 4 (.dmaRead 0x400) 0x1000 64 with answered := [0] }]
def sts : List State := rs.map (fun r => { sTile with mem := { sTile.mem with reqs := [r] } })

theorem witness_ResponsesTimeoutsAndDmaEnds :
    (∃ (s : State) (r : MemReq), s.reqOf r.id = some r ∧ ∃ k e, r.isDma = false ∧ r.ended k = some e ∧ k ∉ r.answered ∧ r.timedOut = false ∧ r.orphan = false ∧ (r.partNear k = true ∨ (s.routeLive (.tile (r.partHome k)) (.tile r.tile) = true ∧ s.canopy.flits = [])) ∧ e.status = .performed) ∧
    (∃ (s : State) (r : MemReq), s.reqOf r.id = some r ∧ let x := s.thread r.tile r.thread; let runs : Prop := x.state = .ready ∨ x.state = .stalled ∨ x.state = .waiting; ∃ k e, r.isDma = false ∧ r.ended k = some e ∧ k ∉ r.answered ∧ r.timedOut = false ∧ r.orphan = false ∧ (r.partNear k = true ∨ (s.routeLive (.tile (r.partHome k)) (.tile r.tile) = true ∧ s.canopy.flits = [])) ∧ ∃ c, statusCause e.status r.remote.isSome = some c ∧ runs) ∧
    (∃ (s : State) (r : MemReq), s.reqOf r.id = some r ∧ ∃ th : Thr, s.mem.reqs.find? (fun q => decide (q.tile = th.tile.val ∧ q.thread = th.thread) && q.isDma) = some r ∧ r.allAnswered = true ∧ r.answer = .performed) ∧
    (∃ (s : State) (r : MemReq), s.reqOf r.id = some r ∧ let x := s.thread r.tile r.thread; let runs : Prop := x.state = .ready ∨ x.state = .stalled ∨ x.state = .waiting; ∃ k, k < r.parts ∧ r.partNear k = false ∧ k ∉ r.answered ∧ k ∉ r.expired ∧ (r.isDma = true → s.travels r.id k = true ∨ s.waits r.id k = true ∨ r.hasServed k = true) ∧ r.orphan = false ∧ runs) ∧
    (∃ (s : State) (r : MemReq), s.reqOf r.id = some r ∧ ∃ k e pad, r.isDma = true ∧ r.op = .dmaRead pad ∧ r.ended k = some e ∧ e.status = .performed ∧ k ∉ r.answered ∧ k ∉ r.expired ∧ r.orphan = false ∧ (r.partNear k = true ∨ (s.routeLive (.tile (r.partHome k)) (.tile r.tile) = true ∧ s.canopy.flits = [])) ∧ (s.tile r.tile).matrix = none ∧ e.bytes.length ≤ 2 ^ 20 ∧ (s.tile r.tile).rereadBad ((padWords (pad + 64 * k) e.bytes.length).map Prod.fst) = []) :=
  ⟨⟨sts.getD 0 State.reset, rs[0], by decide +kernel, 0, _, by decide +kernel, rfl, by decide +kernel⟩,
    ⟨sts.getD 1 State.reset, rs[1], by decide +kernel, 0, _, by decide +kernel, rfl, by decide +kernel, by decide +kernel, by decide +kernel, by decide +kernel, _, rfl, by decide +kernel⟩,
    ⟨sts.getD 4 State.reset, rs[4], by decide +kernel, ⟨5, 3⟩, by decide +kernel⟩,
    ⟨sts.getD 2 State.reset, rs[2], by decide +kernel, 0, by decide +kernel⟩,
    ⟨sts.getD 3 State.reset, rs[3], by decide +kernel, 0, _, 0x400, by decide +kernel, rfl, rfl, by decide +kernel⟩⟩

end W31

namespace W32

def mk (th3 : Thread) (l : List (Nat × Thread)) : Tile := { tile0 with threads := (Vector.ofFn (fun k => if k.val = 3 then th3 else match l.find? (fun e => e.1 == k.val) with | some e => e.2 | none => Thread.idle)) }
def gb : Thread := { thr0 with state := .waiting, wait := some .gbar }
def inF (s : State) : State := { s with queues := s.queues.set 3 { s.queues[3] with state := .enabled, inflight := [{ index := 4, desc := 7, phase := .running }, { index := 5, desc := 8, phase := .fetched }] } }
def f1 : FaultRep := { tile := 5, thread := 3, cause := 6, pc := 0x40, stamp := 1000 }
def f2 : FaultRep := { tile := 7, thread := 2, cause := 3, pc := 0x44, stamp := 900 }
def s3 (l : Launch) : State := inF (inL { sTile with tiles := [(5, mk gb []), (7, mk gb [(4, gb)]), (900, tile0)] } l)
def lf : Launch := { launch0 with faults := [f1, f2] }
def la : Launch := { launch0 with arrived := [7] }
def sts : List State := [sTile, s3 lf, s3 la, s3 launch0, sTile.setTile 5 { tile0 with padCe := 3, padCeTimes := [(4, [1])], icacheEvents := 5 }]

theorem witness_FaultReportsBarriersAndScrubs :
    (∃ (s : State) (q : Fin 64) (l : Launch), s.hq.launches.find? (fun l => decide (l.q = q)) = some l ∧ ∃ f : FaultRep, firstFault l.faults = some f) ∧
    (∃ (s : State) (n : Fin 2560) (l : Launch), s.launchOf n = some l ∧ (s.tile n).arrived = true ∧ (∀ e ∈ s.tiles, l.has e.1 = true → e.1 ∈ l.arrived ∨ e.1 = n.val ∨ e.2.ended = true)) ∧
    (∃ (s : State) (n : Fin 2560) (l : Launch), s.launchOf n = some l ∧ (s.tile n).arrived = true ∧ (∃ e ∈ s.tiles, l.has e.1 = true ∧ e.1 ∉ l.arrived ∧ e.1 ≠ n.val ∧ e.2.ended = false)) ∧
    (∃ (s : State) (th : Thr), (s.me th).state = .ready) ∧
    (∃ (s : State), ∃ (n : Fin 2560) (g : Fin 32768) (w : Fin 4), s.homeLive n = true ∧ (∀ v : Fin 4, 4 * g.val + v.val ∉ (s.tile n).padBad) ∧ (recent s.hours 864000 (find [] (s.tile n).padCeTimes (4 * g.val + w.val))).length < 16) :=
  ⟨⟨(sts.getD 1 State.reset), ⟨(3), (wit_some (by decide +kernel) ⟨_, rfl⟩)⟩⟩,
    ⟨(sts.getD 2 State.reset), ⟨(5), (wit_some (by decide +kernel) (by decide +kernel))⟩⟩,
    ⟨(sts.getD 1 State.reset), ⟨(5), (wit_some (by decide +kernel) ⟨(by decide +kernel), (wit_mem 1 (by decide +kernel) (by decide +kernel))⟩)⟩⟩,
    ⟨(sts.getD 0 State.reset), ⟨({ tile := 5, thread := 3 }), (by decide +kernel)⟩⟩,
    ⟨sts.getD 0 State.reset, 5, 0, 0, by decide +kernel⟩⟩

end W32

namespace W33

def sts : List State := [sTile, { sTile with regs := store (regReset 0x20000) [] (regKey .A 0x20000) 1 }, { sTile with mem := { sTile.mem with postponed := [(128, 2), (129, 4)], refreshed := [(128, 2047)], reqs := [{ id := 1, tile := 5, thread := 3, pc := 0, op := .load, remote := none, view := 0, addr := 2^29, len := 8, bytes := [], dest := .scalar 1, served := [], answered := [], expired := [], orphan := false }], trunkBase := #v[some 100, none, some 5, none] } }]

theorem witness_MemoryHousekeeping :
    (∃ s : State, (s.reg .A 0x20000).getLsbD 0 = true ∧ (s.reg .A 0x20000).getLsbD 1 = false ∧ ∃ sl : Fin 2560, s.homeLive sl = true ∧ let pos := find 0 s.mem.patrol sl; (sl.val * 2 ^ 29 + pos * 64) / 64 ∉ s.mem.bad) ∧
    (∃ (s : State) (sl : Fin 2560), s.homeLive sl = true) ∧
    (∃ (s : State) (st : Fin 20), s.homeLive (st.val * 128) = true ∧ ∃ l : List Int, l.length = 8 ∧ (∀ i < 8, sensorFailed l i = false) ∧ ∃ top : Int, top ∈ l ∧ (∀ x ∈ l, x ≤ top)) ∧
    (∃ (s : State) (d : Fin 4) (base : _), s.mem.trunkBase[d] = some base ∧ ∃ amps : Nat, 400 < amps) ∧
    (∃ (s : State), ∃ (d : Fin 4) (amps : Nat), (s.mem.trunkBase[d] = none ∨ amps ≤ 400)) ∧
    (∃ (s : State), ∃ (link : MeshLink) (again : Bool), linkExists link = true ∧ linkKey link ∉ s.canopy.failed ∧ let run := if again then find 0 s.canopy.replays (linkKey link) else 0; run < 8) ∧
    (∃ (s : State), ∃ sl : Fin 2560, (s.reg .A 0x20000).getLsbD 0 = true ∧ (s.reg .A 0x20000).getLsbD 1 = false ∧ s.channelOpen sl = true ∧ s.channelWanted sl = false ∧ let pos := find 0 s.mem.patrol sl; (sl.val * 2 ^ 29 + pos * 64) / 64 ∉ s.mem.bad) :=
  ⟨⟨(sts.getD 0 State.reset), ⟨(by decide +kernel), ⟨(by decide +kernel), ⟨(5), (by decide +kernel)⟩⟩⟩⟩,
    ⟨(sts.getD 0 State.reset), ⟨(5), (by decide +kernel)⟩⟩,
    ⟨(sts.getD 0 State.reset), ⟨(0), ⟨(by decide +kernel), ⟨([20, 21, 22, 23, 24, 25, 26, 27]), ⟨(by decide +kernel), ⟨(by decide +kernel), (wit_mem 7 (by decide +kernel) (by decide +kernel))⟩⟩⟩⟩⟩⟩,
    ⟨(sts.getD 2 State.reset), ⟨(0), (wit_some (by decide +kernel) ⟨(401), (by decide +kernel)⟩)⟩⟩,
    ⟨sts.getD 0 State.reset, 0, 500, by decide +kernel⟩,
    ⟨sts.getD 0 State.reset, .mesh 3 4 2, true, by decide +kernel⟩,
    ⟨sts.getD 0 State.reset, 5, by decide +kernel⟩⟩

end W33

namespace W34

def r0 (s : State) (o v : Nat) : State := { s with regs := store (regReset o) s.regs (regKey .A o) (BitVec.ofNat 64 v) }
def sts : List State := [B.svc, { B.svc with latch := [(0x28, 5), (0x10010, 7), (0x40000, 9), (2^20 + 0x40000, 9)], capture := [(0x40000, 77), (0x30008, 3)] }, { B.svc with stage := .stage1 }, { B.svc with sealed := true }]

theorem witness_RegisterHalvesAndDisallowedAccesses :
    (∃ (s : State) (fn : Fn) (off : BitVec 20), s.reaches fn = true ∧ s.host[fnIdx fn].writes = [] ∧ wideReg off.toNat = true ∧ off.toNat % 8 = 0 ∧ (0x40000 ≤ off.toNat ∨ s.stage = .stage3)) ∧
    (∃ (s : State) (fn : Fn) (off : BitVec 20), s.reaches fn = true ∧ s.host[fnIdx fn].writes = [] ∧ ∃ bytes, off.toNat < 0xF0000 ∧ (bytes ≠ 4 ∨ off.toNat % 4 ≠ 0) ∧ (bytes ≠ 8 ∨ wideReg off.toNat = false)) :=
  ⟨⟨sts.getD 0 State.reset, .A, 0x01000#20, by decide +kernel⟩,
    ⟨sts.getD 0 State.reset, .A, 0x01000, by decide +kernel, by decide +kernel, 2, by decide +kernel⟩⟩

end W34

namespace W35

def sts : List State := [B.svc, { B.svc with stage := .stage1 }, { B.svc with sealed := true }]

theorem witness_W1cBitSetByHardwareRemains :
    (∃ (s : State) (fn : Fn), s.reaches fn = true ∧ ∃ off : BitVec 20, (0x40000 ≤ off.toNat ∨ s.stage = .stage3) ∧ ∃ n : Nat, (w1cBits off.toNat).getLsbD n = true ∧ ∃ hw : BitVec 64, hw.getLsbD n = true) :=
  ⟨(sts.getD 0 State.reset), ⟨(Sys2Proof.Fn.A), ⟨(by decide +kernel), ⟨(0x00000#20), ⟨(by decide +kernel), ⟨(0), ⟨(by decide +kernel), ⟨(0x00000000ffffffff#64), (by decide +kernel)⟩⟩⟩⟩⟩⟩⟩⟩

end W35

namespace W36

def sts : List State := [B.svc, { B.svc with stage := .stage1 }, { B.svc with sealed := true }, { B.svc with stage := .stage2, start := { B.svc.start with restarting := true } }, { B.svc with stage := .stage2, sealed := true }]
def offs : List Nat := [0x10000, 0x20028, 0x2002C, 0x30004, 0x30040, 0x40008, 0x40020, 0x5000C, 0x60008, 0x8001C, 0xA0010, 0xB0008]

theorem witness_RegisterWritesFollowAccessCodes :
    (∃ (s : State) (fn : Fn), s.reaches fn = true ∧ ∃ off : BitVec 20, (0x40000 ≤ off.toNat ∨ s.stage = .stage3) ∧ w1cBits off.toNat ≠ 0) ∧
    (∃ (s : State) (fn : Fn), s.reaches fn = true ∧ ∃ v : BitVec 64, v.toNat < 2 ^ 32 ∧ ∃ off : BitVec 20, off.toNat ∈ [0x10000, 0x20028, 0x2002C, 0x30004, 0x30040, 0x40008, 0x40020, 0x5000C, 0x60008, 0x8001C, 0xA0010, 0xB0008] ∧ (s.stage = .stage3 ∨ 0x40000 ≤ off.toNat) ∧ (isRwl off.toNat = false ∨ s.sealed = false)) ∧
    (∃ (s : State) (fn : Fn), s.reaches fn = true ∧ ∃ v : BitVec 64, v.toNat < 2 ^ 32 ∧ ∃ off : BitVec 20, off.toNat ∈ [0x10000, 0x20028, 0x2002C, 0x30004, 0x30040, 0x40008, 0x40020, 0x5000C, 0x60008, 0x8001C, 0xA0010, 0xB0008] ∧ (s.stage = .stage3 ∨ 0x40000 ≤ off.toNat) ∧ isRwl off.toNat = true ∧ s.sealed = true) ∧
    (∃ (s : State) (fn : Fn), s.reaches fn = true ∧ ∃ v : BitVec 64, v.toNat < 2 ^ 32 ∧ ∃ off : BitVec 20, off.toNat ∈ [0x10000, 0x20028, 0x2002C, 0x30004, 0x30040, 0x40008, 0x40020, 0x5000C, 0x60008, 0x8001C, 0xA0010, 0xB0008] ∧ s.stage ≠ .stage3 ∧ off.toNat < 0x40000 ∧ isRwl off.toNat = false) ∧
    (∃ (s : State) (fn : Fn), s.reaches fn = true ∧ s.stage = .stage3) ∧
    (∃ (s : State) (fn : Fn), s.reaches fn = true ∧ ∃ (off : BitVec 20) (v : BitVec 64), v.toNat < 2 ^ 32 ∧ off.toNat ∈ [0x10000, 0x20028, 0x2002C, 0x30004, 0x30040, 0x40008, 0x40020, 0x5000C, 0x60008, 0x8001C, 0xA0010, 0xB0008] ∧ s.stage ≠ .stage3 ∧ off.toNat < 0x40000 ∧ isRwl off.toNat = true ∧ s.sealed = true) ∧
    (∃ (s : State) (fn : Fn), s.reaches fn = true ∧ ∃ (off : BitVec 20) (v : BitVec 64), v.toNat < 2 ^ 32 ∧ off.toNat ∈ [0x10000, 0x20028, 0x2002C, 0x30004, 0x30040, 0x40008, 0x40020, 0x5000C, 0x60008, 0x8001C, 0xA0010, 0xB0008] ∧ s.stage ≠ .stage3 ∧ off.toNat < 0x40000 ∧ isRwl off.toNat = true ∧ s.sealed = false ∧ (s.start.restarting = true ∨ s.start.pendingKind.isSome = true)) :=
  ⟨⟨(sts.getD 0 State.reset), ⟨(Sys2Proof.Fn.A), ⟨(by decide +kernel), ⟨(0x10004#20), (by decide +kernel)⟩⟩⟩⟩,
    ⟨(sts.getD 0 State.reset), ⟨(Sys2Proof.Fn.A), ⟨(by decide +kernel), ⟨(0x0000000000000000#64), ⟨(by decide +kernel), ⟨(0x10000#20), (by decide +kernel)⟩⟩⟩⟩⟩⟩,
    ⟨(sts.getD 2 State.reset), ⟨(Sys2Proof.Fn.A), ⟨(by decide +kernel), ⟨(0x0000000000000000#64), ⟨(by decide +kernel), ⟨(0x10000#20), (by decide +kernel)⟩⟩⟩⟩⟩⟩,
    ⟨(sts.getD 3 State.reset), ⟨(Sys2Proof.Fn.A), ⟨(by decide +kernel), ⟨(0x0000000000000000#64), ⟨(by decide +kernel), ⟨(0x30040#20), (by decide +kernel)⟩⟩⟩⟩⟩⟩,
    ⟨(sts.getD 0 State.reset), ⟨(Sys2Proof.Fn.A), (by decide +kernel)⟩⟩,
    ⟨sts.getD 4 State.reset, .A, by decide +kernel, 0x10000, 0, by decide +kernel⟩,
    ⟨sts.getD 3 State.reset, .A, by decide +kernel, 0x10000, 0, by decide +kernel⟩⟩

end W36

namespace W37

def hp (f : HostPort → HostPort) (s : State) : State := { s with host := s.host.map f }
def q3 (s : State) : State := { s with queues := (s.queues.set 3 { s.queues[3] with state := .enabled, inflight := [{ index := 4, desc := 7, phase := .running }, { index := 5, desc := 8, phase := .fetched }], polling := 1 }).set 40 { s.queues[40] with state := .draining, reading := 2, statusOwed := true } }
def job (f : Fn) : Job := { fn := f, jobId := 3, energy := 2, start := 1, overlap := false }
def base : List State := [B.svc, q3 B.svc, { q3 B.svc with hq := { B.svc.hq with jobs := [job .A, job .B] } }, hp (fun h => { h with up := false }) B.svc, hp (fun h => { h with perst := true, up := false }) B.svc, hp (fun h => { h with d3hot := true }) (q3 B.svc), hp (fun h => { h with bme := false }) B.svc, { B.svc with stage := .stage1, crown := { B.svc.crown with running := false } }, hp (fun h => { h with msixPending := 6, tableMask := false }) (q3 B.svc),
   { q3 B.svc with regs := store 0 [] (regKey .A 0x100C8) 5 }, { inL (q3 sTile) launch0 with mem := B.svc.mem }]

theorem witness_HostPortEventsAndResets :
    (∃ (s : State) (fn : Fn), let h := s.host[fnIdx fn]; h.up = true ∧ s.enumerates = false) ∧
    (∃ (s : State) (fn : Fn), let h := s.host[fnIdx fn]; h.up = true ∧ s.enumerates = true) ∧
    (∃ (s : State) (fn : Fn), let h := s.host[fnIdx fn]; h.up = false) ∧
    (∃ (s : State) (fn : Fn), let h := s.host[fnIdx fn]; h.up = true ∧ h.bme = true) ∧
    (∃ (s : State) (fn : Fn), let h := s.host[fnIdx fn]; h.up = true ∧ h.d3hot = false) ∧
    (∃ (s : State) (fn : Fn), let h := s.host[fnIdx fn]; ∃ link : PortLink, s.power.rails[portRail fn].state = .on ∧ h.perst = false ∧ link.refclk = true ∧ (link.rate = 5 → link.flit = true)) :=
  ⟨⟨(base.getD 7 State.reset), ⟨(Sys2Proof.Fn.A), (by decide +kernel)⟩⟩,
    ⟨(base.getD 0 State.reset), ⟨(Sys2Proof.Fn.A), (by decide +kernel)⟩⟩,
    ⟨(base.getD 3 State.reset), ⟨(Sys2Proof.Fn.A), (by decide +kernel)⟩⟩,
    ⟨(base.getD 0 State.reset), ⟨(Sys2Proof.Fn.A), (by decide +kernel)⟩⟩,
    ⟨(base.getD 0 State.reset), ⟨(Sys2Proof.Fn.A), (by decide +kernel)⟩⟩,
    ⟨base.getD 0 State.reset, .A, { rate := 5, width := 3, flit := true, refclk := true }, by decide +kernel⟩⟩

end W37

namespace W38

def sM : State := { B.svc with mem := { B.svc.mem with dram := [(0, 1), (3, 3), (0x1000, 1), (0x1002, 3), (0x1008, 9), (0x1009, 200), (0x100F, 77), (0x103F, 63)] } }
def sts : List State := [B.svc, sM, { sM with mem := { sM.mem with bad := [0x40] } }, { sM with stage := .stage2 }, { sM with host := sM.host.map (fun h => { h with bar2Log := 41, tableMask := false, msixMask := 0xFF0, msixPending := 0x130 }) }, { B.svc with host := B.svc.host.map (fun h => { h with d3hot := true }) }, { B.svc with mem := { B.svc.mem with band := Vector.replicate 20 4 } }]

theorem witness_WindowAccessesAndMsixMasks_1 :
    (∃ (s : State) (fn : Fn) (off : Nat), s.host[fnIdx fn].up = true ∧ s.host[fnIdx fn].writes = [] ∧ let v := (s.window fn off).1; let a := (s.window fn off).2; let served (len : Nat) : Prop := s.windowOpen fn off len = true ∧ s.farOpen (hostNode fn) v a len = true; ∃ len, served len ∧ s.mem.meetsBad v a len = false) ∧
    (∃ (s : State) (fn : Fn) (off : Nat), s.host[fnIdx fn].up = true ∧ s.host[fnIdx fn].writes = [] ∧ let v := (s.window fn off).1; let a := (s.window fn off).2; let served (len : Nat) : Prop := s.windowOpen fn off len = true ∧ s.farOpen (hostNode fn) v a len = true; ∃ len, served len ∧ s.mem.meetsBad v a len = true) ∧
    (∃ (s : State) (fn : Fn) (off : Nat), s.host[fnIdx fn].up = true ∧ s.host[fnIdx fn].writes = [] ∧ ∃ len, s.windowOpen fn off len = false) ∧
    (∃ (s : State) (fn : Fn) (off : Nat), s.host[fnIdx fn].up = true ∧ s.host[fnIdx fn].writes = [] ∧ let v := (s.window fn off).1; let a := (s.window fn off).2; let served (len : Nat) : Prop := s.windowOpen fn off len = true ∧ s.farOpen (hostNode fn) v a len = true; ∃ data : List (BitVec 8), data ≠ [] ∧ served data.length ∧ s.mem.meetsBad v a data.length = false) ∧
    (∃ (s : State) (fn : Fn) (off : Nat), s.host[fnIdx fn].up = true ∧ s.host[fnIdx fn].writes = [] ∧ let v := (s.window fn off).1; let a := (s.window fn off).2; ∃ len, s.windowOpen fn off len = true ∧ s.farOpen (hostNode fn) v a len = false) ∧
    (∃ (s : State) (fn : Fn) (off : Nat), s.host[fnIdx fn].up = true ∧ s.host[fnIdx fn].writes = [] ∧ let v := (s.window fn off).1; let a := (s.window fn off).2; ∃ (data : List (BitVec 8)), data ≠ [] ∧ s.windowOpen fn off data.length = true ∧ s.farOpen (hostNode fn) v a data.length = false) ∧
    (∃ (s : State) (fn : Fn) (off : Nat), s.host[fnIdx fn].up = true ∧ s.host[fnIdx fn].writes = [] ∧ ∃ (data : List (BitVec 8)), data ≠ [] ∧ s.windowOpen fn off data.length = false) :=
  ⟨⟨sts.getD 0 State.reset, .A, 0, by decide +kernel, by decide +kernel, 64, by decide +kernel⟩,
    ⟨sts.getD 2 State.reset, .A, 4096, by decide +kernel, by decide +kernel, 1, by decide +kernel⟩,
    ⟨sts.getD 3 State.reset, .A, 0, by decide +kernel, by decide +kernel, 0, by decide +kernel⟩,
    ⟨sts.getD 0 State.reset, .A, 0, by decide +kernel, by decide +kernel, [1, 2, 3], by decide +kernel⟩,
    ⟨(sts.getD 6 State.reset), .A, 0, by decide +kernel, by decide +kernel, 64, by decide +kernel⟩,
    ⟨(sts.getD 6 State.reset), .A, 0, by decide +kernel, by decide +kernel, [1, 2, 3], by decide +kernel⟩,
    ⟨sts.getD 3 State.reset, .A, 0, by decide +kernel, by decide +kernel, [1, 2, 3], by decide +kernel⟩⟩

theorem witness_WindowAccessesAndMsixMasks_2 :
    (∃ (s : State) (fn : Fn) (which : Option (Fin 128)), let h := s.host[fnIdx fn]; (s.reaches fn = true ∨ (which = none ∧ h.up = true ∧ s.enumerates = true))) ∧
    (∃ (s : State) (fn : Fn) (which : Option (Fin 128)), let h := s.host[fnIdx fn]; which.isSome = true ∧ h.up = true ∧ h.d3hot = true) :=
  ⟨⟨sts.getD 0 State.reset, .A, some 4, by decide +kernel⟩,
    ⟨sts.getD 5 State.reset, .A, some 4, by decide +kernel⟩⟩

end W38

namespace W40

def q3 (x : Queue → Queue) (s : State) : State := { s with queues := s.queues.set 3 (x { s.queues[3] with state := .enabled, sqTail := 6, cqHead := 0, fetched := 4, done := 4 }), regs := [(regKey .A (qReg 3), 0x10000), (regKey .A (qReg 3 + 8), 0x20000), (regKey .A (qReg 3 + 16), 0x30000), (regKey .A (qReg 3 + 24), 0x40000), (regKey .A (qReg 3 + 32), 0x00080466)] }
def fl (n : Nat) (p : DescPhase) : InFlight := { index := BitVec.ofNat 32 n, desc := BitVec.ofNat 512 (7 + n * 2^32), phase := p }
def c5 : Completion := { plain 0 with detail0 := 5 }
def base : List State := [q3 id B.svc, q3 (fun x => { x with polling := 1 }) B.svc, q3 (fun x => { x with polling := 1, state := .draining }) B.svc, q3 (fun x => { x with statusOwed := true, statusMade := true }) B.svc, q3 (fun x => { x with reading := 2 }) B.svc,
  q3 (fun x => { x with reading := 1, statusMade := true, inflight := [fl 3 .running] }) B.svc, q3 (fun x => { x with state := .error }) B.svc, q3 (fun x => { x with polling := 1 }) { B.svc with hq := { B.svc.hq with maint := true } },
  { q3 (fun x => { x with polling := 1, statusOwed := true }) B.svc with host := B.svc.host.map (fun h => { h with bme := true, tableMask := false, msixMask := 0 }) },
  { q3 (fun x => { x with reading := 3 }) B.svc with host := B.svc.host.map (fun h => { h with bme := true, tableMask := false, msixMask := 0 }) },
  q3 (fun x => { x with state := .disabled }) B.svc, q3 (fun x => { x with state := .draining, inflight := [fl 3 .running] }) B.svc, q3 (fun x => { x with inflight := [fl 4 .running, fl 5 .fetched] }) (inL sTile launch0),
  q3 (fun x => { x with owner := none, state := .disabled }) B.svc, q3 (fun x => { x with owner := some .B, inflight := [fl 4 .running, fl 5 .fetched] }) B.svc,
  { q3 (fun x => { x with owner := some .B, inflight := [fl 4 .running, fl 5 .fetched] }) B.svc with host := B.svc.host.set 1 { B.svc.host[1] with bme := false } },
  q3 (fun x => { x with inflight := [fl 4 (.ended c5), fl 5 .fetched] }) B.svc, q3 (fun x => { x with state := .draining, inflight := [fl 4 (.ended c5)] }) B.svc, q3 (fun x => { x with state := .aborting, done := 127, inflight := [fl 4 (.ended { plain 0xD with overlap := true })] }) B.svc,
  { q3 id B.svc with retire := { B.svc.retire with pending := [5, 9] }, mem := { B.svc.mem with repairs := [44, 45] } },
  { q3 id sTile with retire := { B.svc.retire with pending := [5, 9] }, mem := { B.svc.mem with repairs := [44, 45] }, hq := { B.svc.hq with maint := true } },
  { q3 id sTile with retire := { B.svc.retire with pending := [5, 69, 7] }, hq := { B.svc.hq with maint := true } },
  q3 (fun x => { x with inflight := [{ fl 4 .running with desc := 3 }] }) B.svc]

theorem witness_QueuePollsAndFetches :
    (∃ (s : State) (q : Fin 64) (fn : Fn), s.queues[q].owner = some fn ∧ let x := s.queues[q]; x.polling ≠ 0 ∧ x.state = .enabled) ∧
    (∃ (s : State) (q : Fin 64) (fn : Fn), s.queues[q].owner = some fn ∧ ∃ g : Fn, s.opens g = true ∧ ∃ v : BitVec 32, v.toNat % 64 = q.val ∧ g = fn ∧ let x := s.queues[q]; x.state = .enabled) ∧
    (∃ (s : State) (q : Fin 64) (fn : Fn), s.queues[q].owner = some fn ∧ ∃ g : Fn, s.opens g = true ∧ ∃ v : BitVec 32, v.toNat % 64 = q.val ∧ g ≠ fn) ∧
    (∃ (s : State) (q : Fin 64) (fn : Fn), s.queues[q].owner = some fn ∧ let x := s.queues[q]; x.state = .enabled ∧ s.canMaster fn = true ∧ s.tagsUsed fn < 512) ∧
    (∃ (s : State) (q : Fin 64) (fn : Fn), s.queues[q].owner = some fn ∧ let x := s.queues[q]; x.polling ≠ 0 ∧ (x.state = .enabled ∨ x.state = .draining)) ∧
    (∃ (s : State) (q : Fin 64) (fn : Fn), s.queues[q].owner = some fn ∧ let x := s.queues[q]; ∃ w : Option (BitVec 64), x.polling ≠ 0 ∧ x.state ≠ .enabled ∧ (w.isSome = true ∨ x.state ≠ .draining)) ∧
    (∃ (s : State) (q : Fin 64) (fn : Fn), s.queues[q].owner = some fn ∧ let x := s.queues[q]; ∃ ds : List (BitVec 512), ∃ e : SramErr, e.kind = .none ∧ 0 < x.reading ∧ x.reading ≤ ds.length ∧ x.state = .enabled) ∧
    (∃ (s : State) (q : Fin 64) (fn : Fn), s.queues[q].owner = some fn ∧ let x := s.queues[q]; ∃ (ds : Option (List (BitVec 512))) (e : SramErr), 0 < x.reading ∧ (x.state = .enabled ∨ x.state = .draining) ∧ (ds = none ∨ (∃ l, ds = some l ∧ l.length < x.reading) ∨ e.kind = .uncorrectable ∨ e.kind = .persistent)) ∧
    (∃ (s : State) (q : Fin 64) (fn : Fn), s.queues[q].owner = some fn ∧ let x := s.queues[q]; x.statusOwed = true ∧ x.statusFirst = false ∧ s.canMaster fn = true) :=
  ⟨⟨(base.getD 1 State.reset), ⟨(3), (wit_some (by decide +kernel) (by decide +kernel))⟩⟩,
    ⟨(base.getD 0 State.reset), ⟨(3), (wit_some (by decide +kernel) ⟨(Sys2Proof.Fn.A), ⟨(by decide +kernel), ⟨(0x00000003#32), (by decide +kernel)⟩⟩⟩)⟩⟩,
    ⟨(base.getD 0 State.reset), ⟨(3), (wit_some (by decide +kernel) ⟨(Sys2Proof.Fn.B), ⟨(by decide +kernel), ⟨(0x00000003#32), (by decide +kernel)⟩⟩⟩)⟩⟩,
    ⟨base.getD 0 State.reset, 3, _, rfl, by decide +kernel⟩,
    ⟨base.getD 2 State.reset, 3, _, rfl, by decide +kernel⟩,
    ⟨base.getD 2 State.reset, 3, _, rfl, some 5, by decide +kernel⟩,
    ⟨base.getD 4 State.reset, 3, _, rfl, [3, 7, 9], { kind := .none, bank := 0, row := 0 }, by decide +kernel⟩,
    ⟨base.getD 4 State.reset, 3, _, rfl, none, { kind := .none, bank := 0, row := 0 }, by decide +kernel⟩,
    ⟨base.getD 3 State.reset, 3, _, rfl, by decide +kernel⟩⟩

theorem witness_QueueCommandsAndOwnership :
    (∃ (s : State) (fn : Fn), s.opens fn = true ∧ ∃ q : Fin 64, let x := s.queues[q]; x.owner ≠ some fn) ∧
    (∃ (s : State) (fn : Fn), s.opens fn = true ∧ ∃ q : Fin 64, let x := s.queues[q]; x.owner = some fn ∧ x.state = .disabled ∧ s.cfgValid q = false) ∧
    (∃ (s : State) (fn : Fn), s.opens fn = true ∧ ∃ q : Fin 64, let x := s.queues[q]; x.owner = some fn ∧ x.state = .disabled ∧ s.cfgValid q = true) ∧
    (∃ (s : State) (fn : Fn), s.opens fn = true ∧ ∃ q : Fin 64, let x := s.queues[q]; x.owner = some fn ∧ x.state = .enabled) ∧
    (∃ (s : State) (fn : Fn), s.opens fn = true ∧ ∃ q : Fin 64, let x := s.queues[q]; x.owner = some fn ∧ x.state ≠ .disabled ∧ x.state ≠ .aborting) ∧
    (∃ (s : State) (fn : Fn), s.opens fn = true ∧ ∃ q : Fin 64, let x := s.queues[q]; (x.owner ≠ some (fnOther fn) ∨ s.canMaster (fnOther fn) = true)) ∧
    (∃ (s : State) (fn : Fn), s.opens fn = true ∧ ∃ q : Fin 64, let x := s.queues[q]; x.owner = some (fnOther fn) ∧ s.canMaster (fnOther fn) = false) :=
  ⟨⟨(base.getD 0 State.reset), ⟨(Sys2Proof.Fn.A), ⟨(by decide +kernel), ⟨(40), (by decide +kernel)⟩⟩⟩⟩,
    ⟨(base.getD 0 State.reset), ⟨(Sys2Proof.Fn.A), ⟨(by decide +kernel), ⟨(4), (by decide +kernel)⟩⟩⟩⟩,
    ⟨(base.getD 10 State.reset), ⟨(Sys2Proof.Fn.A), ⟨(by decide +kernel), ⟨(3), (by decide +kernel)⟩⟩⟩⟩,
    ⟨(base.getD 0 State.reset), ⟨(Sys2Proof.Fn.A), ⟨(by decide +kernel), ⟨(3), (by decide +kernel)⟩⟩⟩⟩,
    ⟨(base.getD 0 State.reset), ⟨(Sys2Proof.Fn.A), ⟨(by decide +kernel), ⟨(3), (by decide +kernel)⟩⟩⟩⟩,
    ⟨(base.getD 0 State.reset), ⟨(Sys2Proof.Fn.A), ⟨(by decide +kernel), ⟨(3), (by decide +kernel)⟩⟩⟩⟩,
    ⟨(base.getD 15 State.reset), ⟨(Sys2Proof.Fn.A), ⟨(by decide +kernel), ⟨(3), (by decide +kernel)⟩⟩⟩⟩⟩

theorem witness_RecordsPausesAndLostReads :
    (∃ (s : State) (q : Fin 64) (fn : Fn), s.queues[q].owner = some fn ∧ ∃ (g : _), s.opens g = true ∧ s.hq.maint = true) ∧
    (∃ (s : State) (q : Fin 64) (fn : Fn), s.queues[q].owner = some fn ∧ ∃ (g : _), s.opens g = true ∧ s.hq.maint = false ∧ s.retire.pending = [] ∧ s.mem.repairs = []) ∧
    (∃ (s : State) (q : Fin 64) (fn : Fn), s.queues[q].owner = some fn ∧ ∃ (g : _), s.opens g = true ∧ s.hq.maint = false ∧ (s.retire.pending ≠ [] ∨ s.mem.repairs ≠ [])) ∧
    (∃ (s : State) (q : Fin 64) (fn : Fn), s.queues[q].owner = some fn ∧ s.hq.maint = true ∧ s.hq.launches = [] ∧ (∀ p : Fin 64, s.queues[p].inflight = [])) ∧
    (∃ (s : State) (q : Fin 64) (fn : Fn), s.queues[q].owner = some fn ∧ let x := s.queues[q]; x.polling = 0 ∧ x.reading = 0 ∧ ∃ (d rest : _), x.inflight = d :: rest ∧ d.phase = .running ∧ dfield d.desc 0 1 = 3 ∧ dfield d.desc 28 1 = 0) ∧
    (∃ (s : State) (q : Fin 64) (fn : Fn), s.queues[q].owner = some fn ∧ let x := s.queues[q]; ∃ d rest c, x.inflight = d :: rest ∧ d.phase = .ended c ∧ (c.status = 0xD ∨ s.unperformed d = false) ∧ s.fleet.twin.any (fun t => t.stopping && t.q == q) = false) ∧
    (∃ (s : State) (q : Fin 64) (fn : Fn), s.queues[q].owner = some fn ∧ let x := s.queues[q]; (x.polling ≠ 0 ∨ x.reading ≠ 0) ∧ (x.state = .enabled ∨ x.state = .draining)) :=
  ⟨⟨(base.getD 7 State.reset), ⟨(3), (wit_some (by decide +kernel) ⟨(Sys2Proof.Fn.A), (by decide +kernel)⟩)⟩⟩,
    ⟨(base.getD 0 State.reset), ⟨(3), (wit_some (by decide +kernel) ⟨(Sys2Proof.Fn.A), (by decide +kernel)⟩)⟩⟩,
    ⟨(base.getD 19 State.reset), ⟨(3), (wit_some (by decide +kernel) ⟨(Sys2Proof.Fn.A), (by decide +kernel)⟩)⟩⟩,
    ⟨(base.getD 7 State.reset), ⟨(3), (wit_some (by decide +kernel) (by decide +kernel))⟩⟩,
    ⟨(base.getD 22 State.reset), ⟨(3), (wit_some (by decide +kernel) ⟨(by decide +kernel), ⟨(by decide +kernel), (wit_cons (by decide +kernel) (by decide +kernel))⟩⟩)⟩⟩,
    ⟨base.getD 16 State.reset, 3, _, rfl, _, _, _, rfl, rfl, by decide +kernel⟩,
    ⟨base.getD 1 State.reset, 3, _, rfl, by decide +kernel⟩⟩

end W40

namespace W43

def q3 (x : Queue → Queue) (s : State) : State := { s with queues := s.queues.set 3 (x { s.queues[3] with state := .enabled, sqTail := 6, cqHead := 0, fetched := 4, done := 4 }) }
def dsc (l : List (Nat × Nat)) : BitVec 512 := BitVec.ofNat 512 (l.foldl (fun a e => a + e.2 * 2 ^ (8 * e.1)) 0)
def fl (d : BitVec 512) (p : DescPhase) : InFlight := { index := 4, desc := d, phase := p }
def dl : BitVec 512 := dsc [(0, 2), (2, 0xFF), (8, 0x100000), (16, 0x200000), (24, 16), (26, 0), (28, 0xF), (32, 5), (34, 2), (36, 0)]
def hdr : List Byte := natLe 4 0xC4E00602 ++ [2, 0] ++ natLe 2 64 ++ natLe 4 64 ++ natLe 4 256 ++ natLe 4 0 ++ natLe 4 0 ++ natLe 4 1 ++ natLe 4 0 ++ natLe 4 64
def dram0 : Keyed Byte := (((List.range 64).map (fun k => (0x100000 + k, hdr.getD k 0))) ++ (List.range 256).map (fun k => (0x200000 + k, BitVec.ofNat 8 (k % 255 + 1)))).filter (fun e => e.2 != 0)
def sL (d : BitVec 512) (p : DescPhase) (s : State) : State := q3 (fun x => { x with inflight := [fl d p, { fl 7 .fetched with index := 5 }] }) { s with mem := { s.mem with dram := dram0 } }
def l1 (s : State) : Launch := newLaunch 3 dl (devRead s.mem.dram 0 0x100000 64)
def lw (ph : LaunchPhase) (f : Launch → Launch) (s : State) : State := { s with hq := { s.hq with launches := [{ f (l1 s) with phase := ph }], ready := if ph = .waiting then [3] else [] } }
def clean : State := { sTile with tiles := [(5, { tile0 with threads := Vector.replicate 16 Thread.idle }), (9, tile0)] }
def base : List State := [sL dl .fetched B.svc, sL (dsc [(0, 2), (2, 0xFF), (8, 0x100001)]) .fetched B.svc, sL (dsc [(0, 2), (2, 2), (8, 0x100000), (34, 1)]) .fetched B.svc,
   lw .waiting id (sL dl .running clean), lw .waiting (fun l => { l with clear := true }) (sL dl .running clean), lw .prepared (fun l => { l with mask := 0x8005 }) (sL dl .running sTile),
   lw .running (fun l => { l with timeoutUs := 50, started := 10 }) (sL dl .running sTile),
   lw .running (fun l => { l with timeoutUs := 50, started := 10, faults := [{ tile := 5, thread := 3, cause := 6, pc := 0x40, stamp := 625011 }] }) (sL dl .running sTile),
   lw .running (fun l => { l with timeoutUs := 50, started := 10, faults := [{ tile := 5, thread := 3, cause := 6, pc := 0x40, stamp := 625010 }, { tile := 6, thread := 3, cause := 6, pc := 0x40, stamp := 625000 }] }) (sL dl .running sTile),
   lw .running (fun l => { l with mask := 0x8005 }) (sL dl .running clean), lw .prepared id (sL dl .running (clean.setTile 6 { tile0 with fenced := true }))]

theorem witness_LaunchesPrepareStartAndTimeOut :
    (∃ (s : State) (q : Fin 64) (d : InFlight) (rest : List InFlight), s.queues[q].inflight = d :: rest ∧ d.phase = .fetched ∧ dfield d.desc 0 1 = 2 ∧ ∃ (off : _), firstInvalid (launchChecks d.desc) = some off) ∧
    (∃ (s : State) (q : Fin 64) (d : InFlight) (rest : List InFlight), s.queues[q].inflight = d :: rest ∧ ∃ (l : _), (s.hq.launches.find? (fun k => decide (k.q = q ∧ k.phase = .running)) = some l) ∧ l.timeoutUs ≠ 0 ∧ d.phase = .running) ∧
    (∃ (s : State) (q : Fin 64) (d : InFlight) (rest : List InFlight), s.queues[q].inflight = d :: rest ∧ let view : BitVec 2 := BitVec.ofNat 2 (dfield d.desc 27 1); let base := dfield d.desc 8 8 % 2 ^ 41; d.phase = .fetched ∧ dfield d.desc 0 1 = 2 ∧ firstInvalid (launchChecks d.desc) = none ∧ mapped view base 64 = true ∧ s.queueOpen q view base 64 = true ∧ s.mem.meetsBad view base 64 = false ∧ let header := devRead s.mem.dram view base 64; imageGood header base (dfield d.desc 26 1) = true ∧ mapped view (dfield d.desc 16 8 % 2 ^ 41) (dfield d.desc 24 2) = true ∧ let l := newLaunch q d.desc header; (∀ i < l.count, (s.tile (l.first + i)).fenced = false)) ∧
    (∃ (s : State) (q : Fin 64) (d : InFlight) (rest : List InFlight), s.queues[q].inflight = d :: rest ∧ ∃ l, s.hq.launches.find? (fun k => decide (k.q = q ∧ k.phase = .waiting)) = some l ∧ (∀ i < l.count, (s.tile (l.first + i)).fenced = false) ∧ s.firstReady q = true ∧ s.tilesIdle l = true ∧ l.argSize ≤ 256 ∧ s.queueOpen q l.view l.argAddr l.argSize = true ∧ s.mem.meetsBad l.view l.argAddr l.argSize = false) ∧
    (∃ (s : State) (q : Fin 64) (d : InFlight) (rest : List InFlight), s.queues[q].inflight = d :: rest ∧ ∃ l, s.hq.launches.find? (fun k => decide (k.q = q ∧ k.phase = .prepared)) = some l ∧ d.phase = .running ∧ (∃ i < l.count, (s.tile (l.first + i)).fenced = true)) ∧
    (∃ (s : State) (q : Fin 64) (d : InFlight) (rest : List InFlight), s.queues[q].inflight = d :: rest ∧ ∃ l, s.hq.launches.find? (fun k => decide (k.q = q ∧ k.phase = .prepared)) = some l ∧ (∀ i < l.count, (s.tile (l.first + i)).fenced = false)) :=
  ⟨⟨(base.getD 1 State.reset), ⟨(3), (wit_cons (by decide +kernel) ⟨(by decide +kernel), ⟨(by decide +kernel), ⟨_, rfl⟩⟩⟩)⟩⟩,
    ⟨(base.getD 6 State.reset), ⟨(3), (wit_cons (by decide +kernel) (wit_some (by decide +kernel) (by decide +kernel)))⟩⟩,
    ⟨base.getD 0 State.reset, 3, _, _, rfl, by decide +kernel⟩,
    ⟨base.getD 3 State.reset, 3, _, _, rfl, wit_some (by decide +kernel) (by decide +kernel)⟩,
    ⟨base.getD 10 State.reset, 3, _, _, rfl, _, rfl, by decide +kernel⟩,
    ⟨base.getD 5 State.reset, 3, _, _, rfl, _, rfl, by decide +kernel⟩⟩

end W43

namespace W44

def q3 (x : Queue → Queue) (s : State) : State := { s with queues := s.queues.set 3 (x { s.queues[3] with state := .enabled, sqTail := 6, cqHead := 0, fetched := 4, done := 4 }) }
def dsc (l : List (Nat × Nat)) : BitVec 512 := BitVec.ofNat 512 (l.foldl (fun a e => a + e.2 * 2 ^ (8 * e.1)) 0)
def fl (d : BitVec 512) (p : DescPhase) : InFlight := { index := 4, desc := d, phase := p }
def dl : BitVec 512 := dsc [(0, 2), (2, 0xFF), (8, 0x100000), (16, 0x200000), (24, 16), (26, 0), (28, 0xF), (32, 5), (34, 2), (36, 0)]
def hdr : List Byte := natLe 4 0xC4E00602 ++ [2, 0] ++ natLe 2 64 ++ natLe 4 64 ++ natLe 4 256 ++ natLe 4 0 ++ natLe 4 0 ++ natLe 4 1 ++ natLe 4 0 ++ natLe 4 64
def dram0 : Keyed Byte := (((List.range 64).map (fun k => (0x100000 + k, hdr.getD k 0))) ++ (List.range 256).map (fun k => (0x200000 + k, BitVec.ofNat 8 (k % 255 + 1)))).filter (fun e => e.2 != 0)
def sL (d : BitVec 512) (p : DescPhase) (s : State) : State := q3 (fun x => { x with inflight := [fl d p, { fl 7 .fetched with index := 5 }] }) { s with mem := { s.mem with dram := dram0 } }
def l1 (s : State) : Launch := newLaunch 3 dl (devRead s.mem.dram 0 0x100000 64)
def lw (ph : LaunchPhase) (f : Launch → Launch) (s : State) : State := { s with hq := { s.hq with launches := [{ f (l1 s) with phase := ph }] } }
def clean : State := { sTile with tiles := [(5, { tile0 with threads := Vector.replicate 16 Thread.idle }), (9, tile0)] }
def st (d : BitVec 512) (p : DescPhase) : State := sL d p B.svc
def ns (s : State) : State := { s with host := s.host.map (fun h => { h with bme := true }) }
def base44 : List State := [st (dsc [(0, 1), (2, 0xFF)]) .fetched, st 1 .fetched, st 0 .fetched, st 9 .fetched, st (dsc [(0, 6), (2, 0xFF), (8, 4)]) .fetched,
  st (dsc [(0, 3), (2, 0xFF), (8, 0x100000), (16, 0x300000), (24, 64), (28, 2)]) .fetched, ns (st (dsc [(0, 3), (2, 0xFF), (8, 0x100000), (16, 0x300000), (24, 64), (28, 0)]) .fetched), st (dsc [(0, 3), (2, 0xFF), (8, 2^60), (16, 0x300000), (24, 64), (28, 1)]) .fetched, st (dsc [(0, 3), (2, 0xFF), (8, 2^60), (16, 0x300002), (24, 64), (28, 1)]) .fetched,
  st (dsc [(0, 4), (2, 0xFF), (8, 5), (12, 3)]) .fetched, st (dsc [(0, 4), (2, 0xFF), (8, 3), (12, 3)]) .fetched, st (dsc [(0, 4), (2, 0xFF), (8, 5), (12, 0), (16, 4)]) .running,
  st (dsc [(0, 5), (2, 0xFF), (8, 500), (12, 100), (16, 200), (20, 3)]) .fetched, st (dsc [(0, 5), (2, 4), (8, 500), (12, 100), (16, 200), (20, 3)]) .fetched,
  st (dsc [(0, 3), (2, 0xFF), (8, 0x100000), (16, 0x300000), (24, 64), (28, 2)]) .running, ns (st (dsc [(0, 3), (2, 0xFF), (8, 0x100000), (16, 0x300000), (24, 64), (28, 0)]) .running), ns (st (dsc [(0, 3), (2, 0xFF), (8, 0x100000), (16, 0x300000), (24, 64), (28, 1)]) .running), st (dsc [(0, 3), (2, 0xFF), (8, 0x100000), (16, 0x300000), (24, 64), (28, 1)]) .running,
  { st (dsc [(0, 1)]) .running with stage := .stage2, hq := { B.svc.hq with hints := [{ pref := none, demand := 5, from_ := 1, until_ := 4, dies := 1, active := false }, { pref := none, demand := 5, from_ := 1, until_ := 4, dies := 2, active := true }] } }]

theorem witness_DescriptorsEndAsTheirTypesSay :
    (∃ (s : State) (q : Fin 64) (d : InFlight) (rest : List InFlight), s.queues[q].inflight = d :: rest ∧ d.phase = .fetched ∧ let type := dfield d.desc 0 1; type = 1) ∧
    (∃ (s : State) (q : Fin 64) (d : InFlight) (rest : List InFlight), s.queues[q].inflight = d :: rest ∧ d.phase = .fetched ∧ let type := dfield d.desc 0 1; (type = 0 ∨ 7 < type)) ∧
    (∃ (s : State) (q : Fin 64) (d : InFlight) (rest : List InFlight), s.queues[q].inflight = d :: rest ∧ d.phase = .fetched ∧ let type := dfield d.desc 0 1; type = 6 ∧ let free := dfield d.desc 2 1 = 0xFF; free ∧ (dfield d.desc 8 1 = 0 ∨ 3 < dfield d.desc 8 1)) ∧
    (∃ (s : State) (q : Fin 64) (d : InFlight) (rest : List InFlight), s.queues[q].inflight = d :: rest ∧ d.phase = .fetched ∧ let type := dfield d.desc 0 1; type = 3 ∧ ∃ (off : _), firstInvalid (copyChecks d.desc) = some off) ∧
    (∃ (s : State) (q : Fin 64) (d : InFlight) (rest : List InFlight), s.queues[q].inflight = d :: rest ∧ d.phase = .fetched ∧ let type := dfield d.desc 0 1; type = 3 ∧ firstInvalid (copyChecks d.desc) = none ∧ let v : BitVec 2 := BitVec.ofNat 2 (dfield d.desc 29 1); let dir := dfield d.desc 28 1; let len := dfield d.desc 24 4; let dst := dfield d.desc 16 8; let src := dfield d.desc 8 8; ((dir ≠ 0 ∧ mapped v src len = false) ∨ (dir ≠ 1 ∧ mapped v dst len = false))) ∧
    (∃ (s : State) (q : Fin 64) (d : InFlight) (rest : List InFlight), s.queues[q].inflight = d :: rest ∧ d.phase = .fetched ∧ let type := dfield d.desc 0 1; type = 3 ∧ firstInvalid (copyChecks d.desc) = none ∧ let v : BitVec 2 := BitVec.ofNat 2 (dfield d.desc 29 1); let dir := dfield d.desc 28 1; let len := dfield d.desc 24 4; let src := dfield d.desc 8 8; (dir = 0 ∨ mapped v src len = true) ∧ let dst := dfield d.desc 16 8; (dir = 1 ∨ mapped v dst len = true)) ∧
    (∃ (s : State) (q : Fin 64) (d : InFlight) (rest : List InFlight), s.queues[q].inflight = d :: rest ∧ d.phase = .fetched ∧ let type := dfield d.desc 0 1; type = 4 ∧ let free := dfield d.desc 2 1 = 0xFF; free ∧ let src := dfield d.desc 8 8; ∃ hp : src % 2 ^ 16 < 64, s.queues[src % 2 ^ 16].owner = s.queues[q].owner ∧ (∀ r : Fin 64, r ≠ q → (∀ e l, s.queues[r].inflight = e :: l → e.phase ≠ .running))) ∧
    (∃ (s : State) (q : Fin 64) (d : InFlight) (rest : List InFlight), s.queues[q].inflight = d :: rest ∧ d.phase = .fetched ∧ let type := dfield d.desc 0 1; type = 5 ∧ firstInvalid (hintChecks d.desc) = none) ∧
    (∃ (s : State) (q : Fin 64) (d : InFlight) (rest : List InFlight), s.queues[q].inflight = d :: rest ∧ d.phase = .running ∧ let type := dfield d.desc 0 1; type = 4 ∧ dfield d.desc 16 4 ≠ 0) ∧
    (∃ (s : State) (q : Fin 64) (d : InFlight) (rest : List InFlight), s.queues[q].inflight = d :: rest ∧ s.stage ≠ .stage3 ∧ ∃ (i : Nat) (h : _), s.hq.hints[i]? = some h) ∧
    (∃ (s : State) (q : Fin 64) (d : InFlight) (rest : List InFlight), s.queues[q].inflight = d :: rest ∧ let type := dfield d.desc 0 1; let dst := dfield d.desc 16 8; let len := dfield d.desc 24 4; let dir := dfield d.desc 28 1; let v : BitVec 2 := BitVec.ofNat 2 (dfield d.desc 29 1); d.phase = .running ∧ type = 3 ∧ len ≠ 0 ∧ len % 4 = 0 ∧ ∃ data : List (BitVec 8), dir = 0 ∧ data.length = len ∧ mapped v dst len = true ∧ s.queueOpen q v dst len = true ∧ s.mem.meetsBad v dst len = false) ∧
    (∃ (s : State) (q : Fin 64) (d : InFlight) (rest : List InFlight), s.queues[q].inflight = d :: rest ∧ let type := dfield d.desc 0 1; let src := dfield d.desc 8 8; let len := dfield d.desc 24 4; let dir := dfield d.desc 28 1; let v : BitVec 2 := BitVec.ofNat 2 (dfield d.desc 29 1); d.phase = .running ∧ type = 3 ∧ len ≠ 0 ∧ len % 4 = 0 ∧ dir = 1 ∧ s.queueOpen q v src len = true ∧ s.mem.meetsBad v src len = false) ∧
    (∃ (s : State) (q : Fin 64) (d : InFlight) (rest : List InFlight), s.queues[q].inflight = d :: rest ∧ let type := dfield d.desc 0 1; let src := dfield d.desc 8 8; let dst := dfield d.desc 16 8; let len := dfield d.desc 24 4; let dir := dfield d.desc 28 1; let v : BitVec 2 := BitVec.ofNat 2 (dfield d.desc 29 1); d.phase = .running ∧ type = 3 ∧ len ≠ 0 ∧ len % 4 = 0 ∧ 1 < dir ∧ mapped v src len = true ∧ mapped v dst len = true ∧ s.queueOpen q v src len = true ∧ s.queueOpen q v dst len = true ∧ s.mem.meetsBad v src len = false ∧ s.mem.meetsBad v dst len = false ∧ (src + len ≤ dst ∨ dst + len ≤ src)) :=
  ⟨⟨(base44.getD 0 State.reset), ⟨(3), (wit_cons (by decide +kernel) (by decide +kernel))⟩⟩,
    ⟨(base44.getD 2 State.reset), ⟨(3), (wit_cons (by decide +kernel) (by decide +kernel))⟩⟩,
    ⟨(base44.getD 4 State.reset), ⟨(3), (wit_cons (by decide +kernel) (by decide +kernel))⟩⟩,
    ⟨(base44.getD 8 State.reset), ⟨(3), (wit_cons (by decide +kernel) ⟨(by decide +kernel), ⟨(by decide +kernel), ⟨_, rfl⟩⟩⟩)⟩⟩,
    ⟨(base44.getD 7 State.reset), ⟨(3), (wit_cons (by decide +kernel) (by decide +kernel))⟩⟩,
    ⟨(base44.getD 5 State.reset), ⟨(3), (wit_cons (by decide +kernel) (by decide +kernel))⟩⟩,
    ⟨(base44.getD 9 State.reset), ⟨(3), (wit_cons (by decide +kernel) ⟨(by decide +kernel), ⟨(by decide +kernel), ⟨(by decide +kernel), ⟨(by decide +kernel), ⟨(by decide +kernel), (wit_noOtherRuns (by decide +kernel))⟩⟩⟩⟩⟩)⟩⟩,
    ⟨(base44.getD 12 State.reset), ⟨(3), (wit_cons (by decide +kernel) (by decide +kernel))⟩⟩,
    ⟨(base44.getD 11 State.reset), ⟨(3), (wit_cons (by decide +kernel) (by decide +kernel))⟩⟩,
    ⟨(base44.getD 18 State.reset), ⟨(3), (wit_cons (by decide +kernel) ⟨(by decide +kernel), ⟨(0), ⟨_, rfl⟩⟩⟩)⟩⟩,
    ⟨base44.getD 15 State.reset, 3, _, _, rfl, by decide +kernel, by decide +kernel, by decide +kernel, by decide +kernel, List.replicate 64 7, by decide +kernel⟩,
    ⟨base44.getD 16 State.reset, 3, _, _, rfl, by decide +kernel⟩,
    ⟨base44.getD 14 State.reset, 3, _, _, rfl, by decide +kernel⟩⟩

end W44

namespace W45

def q3 (x : Queue → Queue) (s : State) : State := { s with queues := s.queues.set 3 (x { s.queues[3] with state := .enabled, sqTail := 6, cqHead := 0, fetched := 4, done := 4 }) }
def dsc (l : List (Nat × Nat)) : BitVec 512 := BitVec.ofNat 512 (l.foldl (fun a e => a + e.2 * 2 ^ (8 * e.1)) 0)
def fl (d : BitVec 512) (p : DescPhase) : InFlight := { index := 4, desc := d, phase := p }
def st (d : BitVec 512) (l : List Job) : State := q3 (fun x => { x with inflight := [fl d .fetched, { fl 7 .fetched with index := 5 }] }) { sTile with hq := { sTile.hq with jobs := l, energy := 5000000 } }
def job (f : Fn) (n : Nat) : Job := { fn := f, jobId := BitVec.ofNat 32 n, energy := 2000, start := 0, overlap := false }
def mk (k id : Nat) : BitVec 512 := dsc [(0, 6), (2, 0xFF), (8, k), (12, id), (16, 77)]
def sts : List State := [st (mk 1 5) [], st (mk 1 5) [job .B 5], st (mk 1 5) [job .A 5], st (mk 1 5) ((List.range 64).map (fun k => job .A (k + 10))), st (mk 2 5) [job .A 5, job .B 5], st (mk 2 5) [job .B 5], st (mk 3 5) []]

theorem witness_MarksOpenAndCloseJobs :
    (∃ (s : State) (q : Fin 64) (d : InFlight) (rest : List InFlight), s.queues[q].inflight = d :: rest ∧ d.phase = .fetched ∧ dfield d.desc 0 1 = 6 ∧ dfield d.desc 2 1 = 0xFF ∧ ∃ fn : Fn, s.queues[q].owner = some fn ∧ dfield d.desc 8 1 = 1) ∧
    (∃ (s : State) (q : Fin 64) (d : InFlight) (rest : List InFlight), s.queues[q].inflight = d :: rest ∧ d.phase = .fetched ∧ dfield d.desc 0 1 = 6 ∧ dfield d.desc 2 1 = 0xFF ∧ ∃ fn : Fn, s.queues[q].owner = some fn ∧ dfield d.desc 8 1 = 2 ∧ let id : BitVec 32 := BitVec.ofNat 32 (dfield d.desc 12 4); (∀ j ∈ s.hq.jobs, j.fn ≠ fn ∨ j.jobId ≠ id)) ∧
    (∃ (s : State) (q : Fin 64) (d : InFlight) (rest : List InFlight), s.queues[q].inflight = d :: rest ∧ d.phase = .fetched ∧ dfield d.desc 0 1 = 6 ∧ dfield d.desc 2 1 = 0xFF ∧ ∃ fn : Fn, s.queues[q].owner = some fn ∧ dfield d.desc 8 1 = 2 ∧ ∃ (j : _), let id : BitVec 32 := BitVec.ofNat 32 (dfield d.desc 12 4); (s.hq.jobs.find? (fun j => decide (j.fn = fn ∧ j.jobId = id)) = some j)) ∧
    (∃ (s : State) (q : Fin 64) (d : InFlight) (rest : List InFlight), s.queues[q].inflight = d :: rest ∧ d.phase = .fetched ∧ dfield d.desc 0 1 = 6 ∧ dfield d.desc 2 1 = 0xFF ∧ ∃ fn : Fn, s.queues[q].owner = some fn ∧ dfield d.desc 8 1 = 3 ∧ s.fleet.blocks = none ∧ s.fleet.commit = none) :=
  ⟨⟨(sts.getD 0 State.reset), ⟨(3), (wit_cons (by decide +kernel) ⟨(by decide +kernel), ⟨(by decide +kernel), ⟨(by decide +kernel), (wit_some (by decide +kernel) (by decide +kernel))⟩⟩⟩)⟩⟩,
    ⟨(sts.getD 5 State.reset), ⟨(3), (wit_cons (by decide +kernel) ⟨(by decide +kernel), ⟨(by decide +kernel), ⟨(by decide +kernel), (wit_some (by decide +kernel) (by decide +kernel))⟩⟩⟩)⟩⟩,
    ⟨(sts.getD 4 State.reset), ⟨(3), (wit_cons (by decide +kernel) ⟨(by decide +kernel), ⟨(by decide +kernel), ⟨(by decide +kernel), (wit_some (by decide +kernel) ⟨(by decide +kernel), ⟨_, rfl⟩⟩)⟩⟩⟩)⟩⟩,
    ⟨(sts.getD 6 State.reset), ⟨(3), (wit_cons (by decide +kernel) ⟨(by decide +kernel), ⟨(by decide +kernel), ⟨(by decide +kernel), (wit_some (by decide +kernel) (by decide +kernel))⟩⟩⟩)⟩⟩⟩

end W45

namespace W46

def sr (o v : Nat) (s : State) : State := { s with regs := store (regReset o) s.regs (regKey .A o) (BitVec.ofNat 64 v) }
def me0 : State := sr bxModuleId (2^31 + 0x015) B.svc
def pt (f : Port → Port) (s : State) : State := { s with ports := s.ports.set 2 (f s.ports[2]) }
def word (id port lanes flags : Nat) : List Byte := natLe 4 0xC4B80001 ++ natLe 1 4 ++ natLe 1 port ++ natLe 2 id ++ natLe 1 lanes ++ natLe 1 flags ++ natLe 2 0 ++ (List.range 6).flatMap (fun k => natLe 2 (3072 + k)) ++ List.replicate 8 0
def w1 := word 0x016 3 0xFF 1
def flits : List (List Byte) := [flitOf 3 0 0 5 7 w1, flitOf 3 0 0 5 7 (word 0x015 3 0xFF 1), flitOf 3 0 0 5 7 (word 0x016 3 0x0E 1), flitOf 3 0 0 5 7 (word 0x016 3 0xF0 1), flitOf 3 0 0 5 7 (word 0xC16 3 0xF0 1), flitOf 0 0 0 5 7 [], []]
def neg (n : Nat) (w : List Byte) : State := pt (fun x => { x with state := .negotiate, own := 0xFF, same := n, word := some w }) me0
def base : List State := [me0, pt (fun x => { x with state := .down, cause := 3 }) me0, pt (fun x => { x with state := .down, cause := 3 }) (sr (pReg 2 + 4) 1 me0), pt (fun x => { x with broken := true }) me0, pt (fun x => { x with state := .active, txSeq := 9, replay := [(8, 1, 0, [1])], sideTx := [[1, 2]] }) me0,
   pt (fun x => { x with state := .flush }) me0, pt (fun x => { x with state := .retrain }) me0, pt (fun x => { x with state := .detect, power := true, present := true }) me0, pt (fun x => { x with state := .detect, attempts := 2, power := true }) me0, pt (fun x => { x with state := .detect, power := false }) me0,
   pt (fun x => { x with state := .train }) me0, pt (fun x => { x with state := .train }) (sr (pReg 2 + 4) 4 me0), neg 0 [], neg 7 w1, neg 7 (word 0x015 3 0xFF 1), neg 7 (word 0x016 3 0x0E 1), neg 7 (word 0x016 3 0xF0 1), pt (fun x => { x with own := 0x0F }) (neg 7 (word 0x016 3 0xF0 1)), neg 7 (word 0xC16 3 0xF0 1),  { neg 7 w1 with regs := B.svc.regs }]

theorem witness_PortCommandsDetectionAndTraining :
    (∃ (s : State) (fn : _), s.opens fn = true ∧ ∃ p : Fin 20, let x := s.ports[p]; x.state = .disabled) ∧
    (∃ (s : State) (fn : _), s.opens fn = true ∧ ∃ p : Fin 20, let x := s.ports[p]; x.state = .active) ∧
    (∃ (s : State) (p : Fin 20), let x := s.ports[p]; x.state = .detect ∧ ∃ a : CableAnswer, (a.answered = false ∨ x.power = false)) ∧
    (∃ (s : State) (p : Fin 20), let x := s.ports[p]; x.state = .train ∧ ∃ (lanes : _), linkWidth lanes (s.x4Only p) = none) ∧
    (∃ (s : State) (p : Fin 20), let x := s.ports[p]; x.state = .train ∧ ∃ (lanes : _), linkWidth lanes (s.x4Only p) ≠ none) ∧
    (∃ (s : State) (p : Fin 20), let x := s.ports[p]; x.state = .down ∧ bit (s.mreg (pReg p + 0x04)) 0 = true ∧ x.cause.toNat ∈ [1, 3, 7, 9, 10, 11] ∧ s.stage = .stage3) ∧
    (∃ (s : State) (p : Fin 20), let x := s.ports[p]; ∃ fn, s.opens fn = true ∧ (x.state ∈ [.disabled, .active, .flush] ∨ (∀ o ∈ x.out, o.purpose = .gone))) ∧
    (∃ (s : State) (p : Fin 20), let x := s.ports[p]; ∃ fn, s.opens fn = true ∧ x.state ∉ [.disabled, .active, .flush] ∧ (∀ o ∈ x.out, o.purpose = .gone)) ∧
    (∃ (s : State) (p : Fin 20), let x := s.ports[p]; x.state = .detect ∧ ∃ a : CableAnswer, a.answered = true ∧ x.power = true ∧ (∀ b ∈ a.apps, b = false)) ∧
    (∃ (s : State) (p : Fin 20), let x := s.ports[p]; x.state = .detect ∧ ∃ a : CableAnswer, ∃ n : Nat, a.answered = true ∧ x.power = true ∧ a.apps[n]? = some true ∧ (∀ i < n, a.apps[i]? = some false)) ∧
    (∃ (s : State) (p : Fin 20), let x := s.ports[p]; x.state = .negotiate ∧ ∃ f, flitListed f .clean = false) ∧
    (∃ (s : State) (p : Fin 20), let x := s.ports[p]; x.state = .negotiate ∧ ∃ f, flitListed f .clean = true ∧ wordGood f = true ∧ let w := (payload f).take 32; x.word ≠ some w) ∧
    (∃ (s : State) (p : Fin 20), let x := s.ports[p]; x.state = .negotiate ∧ ∃ f, flitListed f .clean = true ∧ wordGood f = true ∧ let w := (payload f).take 32; x.word = some w ∧ 7 ≤ x.same ∧ bit (tfield w 9 1) 0 = true ∧ ∃ c, s.wordFault p w = some c) ∧
    (∃ (s : State) (p : Fin 20), let x := s.ports[p]; x.state = .negotiate ∧ ∃ f, flitListed f .clean = true ∧ wordGood f = true ∧ let w := (payload f).take 32; x.word = some w ∧ 7 ≤ x.same ∧ bit (tfield w 9 1) 0 = true ∧ s.wordFault p w = none ∧ ∃ lanes width, linkWidth (x.own &&& BitVec.ofNat 8 (tfield w 8 1)) (s.x4Only p) = some (lanes, width)) ∧
    (∃ (s : State) (p : Fin 20), let x := s.ports[p]; x.state = .negotiate ∧ ∃ f, flitListed f .clean = true ∧ wordGood f = false) :=
  ⟨⟨(base.getD 0 State.reset), ⟨(Sys2Proof.Fn.A), ⟨(by decide +kernel), ⟨(2), (by decide +kernel)⟩⟩⟩⟩,
    ⟨(base.getD 4 State.reset), ⟨(Sys2Proof.Fn.A), ⟨(by decide +kernel), ⟨(2), (by decide +kernel)⟩⟩⟩⟩,
    ⟨(base.getD 7 State.reset), ⟨(2), ⟨(by decide +kernel), ⟨({ answered := false, apps := [true], signal := 0xff#8 }), (by decide +kernel)⟩⟩⟩⟩,
    ⟨(base.getD 10 State.reset), ⟨(2), ⟨(by decide +kernel), ⟨(0x7e#8), (by decide +kernel)⟩⟩⟩⟩,
    ⟨(base.getD 10 State.reset), ⟨(2), ⟨(by decide +kernel), ⟨(0xff#8), (by decide +kernel)⟩⟩⟩⟩,
    ⟨(base.getD 1 State.reset), ⟨(2), (by decide +kernel)⟩⟩,
    ⟨base.getD 4 State.reset, 2, .A, by decide +kernel⟩,
    ⟨base.getD 1 State.reset, 2, .A, by decide +kernel⟩,
    ⟨base.getD 7 State.reset, 2, by decide +kernel, { answered := true, apps := [false], signal := 0xFF }, by decide +kernel⟩,
    ⟨base.getD 7 State.reset, 2, by decide +kernel, { answered := true, apps := [false, true], signal := 0xFF }, 1, by decide +kernel⟩,
    ⟨base.getD 12 State.reset, 2, by decide +kernel, [], by decide +kernel⟩,
    ⟨base.getD 12 State.reset, 2, by decide +kernel, flits.getD 0 [], by decide +kernel⟩,
    ⟨base.getD 14 State.reset, 2, by decide +kernel, flits.getD 1 [], by refine ⟨?_, ?_, ?_, ?_, ?_, _, rfl⟩ <;> decide +kernel⟩,
    ⟨base.getD 13 State.reset, 2, by decide +kernel, flits.getD 0 [], by refine ⟨?_, ?_, ?_, ?_, ?_, ?_, _, _, rfl⟩ <;> decide +kernel⟩,
    ⟨base.getD 12 State.reset, 2, by decide +kernel, flits.getD 5 [], by decide +kernel⟩⟩

end W46

namespace W47

def sr (o v : Nat) (s : State) : State := { s with regs := store (regReset o) s.regs (regKey .A o) (BitVec.ofNat 64 v) }
def me0 : State := sr bxModuleId (2^31 + 0x015) B.svc
def pt (f : Port → Port) (s : State) : State := { s with ports := s.ports.set 2 (f s.ports[2]) }
def word (id port lanes flags : Nat) : List Byte := natLe 4 0xC4B80001 ++ natLe 1 4 ++ natLe 1 port ++ natLe 2 id ++ natLe 1 lanes ++ natLe 1 flags ++ natLe 2 0 ++ (List.range 6).flatMap (fun k => natLe 2 (3072 + k)) ++ List.replicate 8 0
def w1 := word 0x016 3 0xFF 1
def flits : List (List Byte) := [flitOf 3 0 0 5 7 w1, flitOf 3 0 0 5 7 (word 0x015 3 0xFF 1), flitOf 3 0 0 5 7 (word 0x016 3 0x0E 1), flitOf 3 0 0 5 7 (word 0x016 3 0xF0 1), flitOf 3 0 0 5 7 (word 0xC16 3 0xF0 1), flitOf 0 0 0 5 7 [], []]
def neg (n : Nat) (w : List Byte) : State := pt (fun x => { x with state := .negotiate, own := 0xFF, same := n, word := some w }) me0
def sts : List State := [me0, pt (fun x => { x with state := .active, retrains := [0, 1], naks := 8, badWords := (List.range 18).map (fun k => 999990 - k) }) me0, pt (fun x => { x with state := .active, retrains := [1,2,3,4,5] }) me0, pt (fun x => { x with state := .retrain, replay := [(8, 1, 0, [1])], requests := [{ vc := 1, bytes := header 1 0 64 5 6 0 7 0 }, { vc := 1, bytes := header 1 1 64 5 6 0 7 0 }] }) me0,
  pt (fun x => { x with state := .flush, flush := some { reason := 1, sent := none }, txSeq := 7 }) me0, pt (fun x => { x with state := .flush, flush := some { reason := 1, sent := none }, txSeq := 7, out := [{ tag := 5, dest := 3, ttype := 1, purpose := .gone }], replay := [(6, 1, 0, [1])] }) me0, pt (fun x => { x with state := .flush, flush := some { reason := 4, sent := some 7 }, txSeq := 8 }) me0]

theorem witness_PortsRetrainAndFlush :
    (∃ (s : State) (p : Fin 20), let x := s.ports[p]; x.state = .active ∧ (recent s.clk.us 60000000 x.retrains).length < 5 ∧ ∃ why : RetrainCause, (why = .naks → 8 ≤ x.naks) ∧ (why = .codewords → 16 < (x.badWords.filter (fun t => decide (s.clk.us < t + 1000))).length)) ∧
    (∃ (s : State) (p : Fin 20), let x := s.ports[p]; x.state = .retrain ∧ ∃ lanes l w, linkWidth lanes x.trained.x4 = some (l, w)) ∧
    (∃ (s : State) (p : Fin 20), let x := s.ports[p]; x.state = .flush ∧ ∃ f, x.flush = some f ∧ f.sent = none ∧ unansweredBy x.responses x.out = [] ∧ x.replay = [] ∧ (∀ v : Fin 6, x.tx[v] = []) ∧ x.sideTx = []) ∧
    (∃ (s : State) (p : Fin 20), let x := s.ports[p]; x.state = .flush ∧ ∃ f n, x.flush = some f ∧ f.sent = some n ∧ (∀ o ∈ x.out, o.purpose = .gone)) :=
  ⟨⟨(sts.getD 1 State.reset), ⟨(2), ⟨(by decide +kernel), ⟨(by decide +kernel), ⟨(Sys2Proof.RetrainCause.naks), (by decide +kernel)⟩⟩⟩⟩⟩,
    ⟨sts.getD 3 State.reset, 2, by decide +kernel, 0xFF, _, _, rfl⟩,
    ⟨sts.getD 4 State.reset, 2, by decide +kernel, wit_some (by decide +kernel) (by decide +kernel)⟩,
    ⟨sts.getD 6 State.reset, 2, by decide +kernel, _, _, rfl, rfl, by decide +kernel⟩⟩

end W47

namespace W48

def sr (o v : Nat) (s : State) : State := { s with regs := store (regReset o) s.regs (regKey .A o) (BitVec.ofNat 64 v) }
def me0 : State := sr bxModuleId (2^31 + 0x015) B.svc
def pt (f : Port → Port) (s : State) : State := { s with ports := s.ports.set 2 (f s.ports[2]) }
def word (id port lanes flags : Nat) : List Byte := natLe 4 0xC4B80001 ++ natLe 1 4 ++ natLe 1 port ++ natLe 2 id ++ natLe 1 lanes ++ natLe 1 flags ++ natLe 2 0 ++ (List.range 6).flatMap (fun k => natLe 2 (3072 + k)) ++ List.replicate 8 0
def w1 := word 0x016 3 0xFF 1
def neg (n : Nat) (w : List Byte) : State := pt (fun x => { x with state := .negotiate, own := 0xFF, same := n, word := some w }) me0
def hq : List Byte := header 1 0 64 0x016 0x015 0 7 0x1000
def badf : List Byte := (flitOf 1 2 4 5 7 hq).set 9 0x77
def flits : List (List Byte) := [flitOf 0 0 0 8 (2*8192+5) [], flitOf 0 0 0 9 (7*8192+5) [], flitOf 1 2 4 8 0 hq, flitOf 1 2 5 8 0 hq, flitOf 1 2 4 8 0 (header 1 0 64 0x016 0x017 0 7 0x1000), flitOf 2 0 4 8 0 (List.replicate 40 1), badf, []]
def act : Port := { Port.reset with state := .active, txSeq := 10, replay := [(8, 1, 0, [1]), (9, 1, 0, [2])], rxSeq := 4, naks := 3, nak := true }
def sts : List State := [pt (fun _ => act) me0, pt (fun _ => { act with state := .flush }) me0, pt (fun _ => { act with owed := #v[0, 3, 0, 0, 2, 0], part := #v[[], [[1]], [], [], [], []] }) me0, pt (fun _ => { act with rxSeq := 5, tx := #v[[{ started := true, slots := [[1, 2]] }], [], [], [], [], []], credits := #v[100, 0, 0, 0, 0, 0] }) me0, pt (fun _ => { act with discard := true }) me0]

theorem witness_FlitsAreAcceptedInSequence :
    (∃ (s : State) (p : Fin 20), let x := s.ports[p]; (x.state = .active ∨ x.state = .flush) ∧ ∃ f : List (BitVec 8), flitListed f .clean = true ∧ tfield f 0 1 = 0 ∧ bit (tfield f 1 1) 0 = false ∧ x.sideTx = [] ∧ (∀ v : Fin 6, x.tx[v] = [])) ∧
    (∃ e : SramErr, e.kind = .none ∧ ∃ (s : State) (p : Fin 20), let x := s.ports[p]; x.state = .active ∧ ∃ f : List (BitVec 8), flitListed f .clean = true ∧ (tfield f 0 1 = 1 ∨ tfield f 0 1 = 2) ∧ BitVec.ofNat 12 (tfield f 2 2) ≠ x.rxSeq) ∧
    (∃ e : SramErr, e.kind = .none ∧ ∃ (s : State) (p : Fin 20), let x := s.ports[p]; x.state = .active ∧ ∃ f : List (BitVec 8), flitListed f .clean = true ∧ (tfield f 0 1 = 1 ∨ tfield f 0 1 = 2) ∧ BitVec.ofNat 12 (tfield f 2 2) = x.rxSeq) ∧
    (∃ e : SramErr, e.kind = .uncorrectable ∧ ∃ (s : State) (p : Fin 20), let x := s.ports[p]; x.state = .active) ∧
    (∃ (s : State) (p : Fin 20) (f : List (BitVec 8)), let x := s.ports[p]; (x.state = .active ∨ x.state = .flush) ∧ flitListed f .clean = false) ∧
    (∃ (s : State) (p : Fin 20), let x := s.ports[p]; x.discard = false) ∧
    (∃ (s : State) (p : Fin 20), let x := s.ports[p]; (x.state = .active ∨ x.state = .flush) ∧ x.discard = true) :=
  ⟨⟨(sts.getD 0 State.reset), ⟨(2), ⟨(by decide +kernel), ⟨([0x00#8, 0x00#8, 0x00#8, 0x00#8, 0x08#8, 0x00#8, 0x05#8, 0x40#8, 0x00#8, 0x00#8, 0x00#8, 0x00#8, 0x00#8, 0x00#8, 0x00#8, 0x00#8, 0x00#8, 0x00#8, 0x00#8, 0x00#8, 0x00#8, 0x00#8, 0x00#8, 0x00#8, 0x00#8, 0x00#8, 0x00#8, 0x00#8, 0x00#8, 0x00#8, 0x00#8, 0x00#8, 0x00#8, 0x00#8, 0x00#8, 0x00#8, 0x00#8, 0x00#8, 0x00#8, 0x00#8, 0x00#8, 0x00#8, 0x00#8, 0x00#8, 0x00#8, 0x00#8, 0x00#8, 0x00#8, 0x00#8, 0x00#8, 0x00#8, 0x00#8, 0x00#8, 0x00#8, 0x00#8, 0x00#8, 0x00#8, 0x00#8, 0x00#8, 0x00#8, 0x00#8, 0x00#8, 0x00#8, 0x00#8, 0x00#8, 0x00#8, 0x00#8, 0x00#8, 0x00#8, 0x00#8, 0x00#8, 0x00#8, 0x00#8, 0x00#8, 0x00#8, 0x00#8, 0x00#8, 0x00#8, 0x00#8, 0x00#8, 0x00#8, 0x00#8, 0x00#8, 0x00#8, 0x00#8, 0x00#8, 0x00#8, 0x00#8, 0x00#8, 0x00#8, 0x00#8, 0x00#8, 0x00#8, 0x00#8, 0x00#8, 0x00#8, 0x00#8, 0x00#8, 0x00#8, 0x00#8, 0x00#8, 0x00#8, 0x00#8, 0x00#8, 0x00#8, 0x00#8, 0x00#8, 0x00#8, 0x00#8, 0x00#8, 0x00#8, 0x00#8, 0x00#8, 0x00#8, 0x00#8, 0x00#8, 0x00#8, 0x00#8, 0x00#8, 0x00#8, 0x00#8, 0x00#8, 0x00#8, 0x00#8, 0x00#8, 0x00#8, 0x00#8, 0x00#8, 0x00#8, 0x00#8, 0x00#8, 0x00#8, 0x00#8, 0x00#8, 0x00#8, 0x00#8, 0x00#8, 0x00#8, 0x00#8, 0x00#8, 0x00#8, 0x00#8, 0x00#8, 0x00#8, 0x00#8, 0x00#8, 0x00#8, 0x00#8, 0x00#8, 0x00#8, 0x00#8, 0x00#8, 0x00#8, 0x00#8, 0x00#8, 0x00#8, 0x00#8, 0x00#8, 0x00#8, 0x00#8, 0x00#8, 0x00#8, 0x00#8, 0x00#8, 0x00#8, 0x00#8, 0x00#8, 0x00#8, 0x00#8, 0x00#8, 0x00#8, 0x00#8, 0x00#8, 0x00#8, 0x00#8, 0x00#8, 0x00#8, 0x00#8, 0x00#8, 0x00#8, 0x00#8, 0x00#8, 0x00#8, 0x00#8, 0x00#8, 0x00#8, 0x00#8, 0x00#8, 0x00#8, 0x00#8, 0x00#8, 0x00#8, 0x00#8, 0x00#8, 0x00#8, 0x00#8, 0x00#8, 0x00#8, 0x00#8, 0x00#8, 0x00#8, 0x00#8, 0x00#8, 0x00#8, 0x00#8, 0x00#8, 0x00#8, 0x00#8, 0x00#8, 0x00#8, 0x00#8, 0x00#8, 0x00#8, 0x00#8, 0x00#8, 0x00#8, 0x00#8, 0x00#8, 0x00#8, 0x00#8, 0x00#8, 0x00#8, 0x00#8, 0x00#8, 0x00#8, 0x00#8, 0x00#8, 0x00#8, 0x00#8, 0x00#8, 0x00#8, 0x00#8, 0x00#8, 0x00#8, 0x00#8, 0x00#8, 0x00#8, 0x00#8, 0x00#8, 0x00#8, 0x00#8, 0x00#8, 0x00#8, 0x00#8, 0x00#8, 0x00#8, 0x00#8, 0x00#8, 0xaa#8, 0xc4#8, 0xc3#8, 0x52#8, 0x35#8, 0x9f#8, 0x7f#8, 0x15#8]), (by decide +kernel)⟩⟩⟩⟩,
    ⟨({ kind := Sys2Proof.EccErr.none, bank := 0x0000#16, row := 0x0000#16 }), ⟨(by decide +kernel), ⟨(sts.getD 0 State.reset), ⟨(2), ⟨(by decide +kernel), ⟨([0x01#8, 0x02#8, 0x05#8, 0x00#8, 0x08#8, 0x00#8, 0x00#8, 0x00#8, 0x01#8, 0x00#8, 0x40#8, 0x00#8, 0x16#8, 0x50#8, 0x01#8, 0x00#8, 0x07#8, 0x00#8, 0x00#8, 0x10#8, 0x00#8, 0x00#8, 0x00#8, 0x00#8, 0x00#8, 0x00#8, 0x00#8, 0x00#8, 0x00#8, 0x00#8, 0x00#8, 0x00#8, 0x00#8, 0x00#8, 0x00#8, 0x00#8, 0x00#8, 0x00#8, 0x00#8, 0x00#8, 0x00#8, 0x00#8, 0x00#8, 0x00#8, 0x00#8, 0x00#8, 0x00#8, 0x00#8, 0x00#8, 0x00#8, 0x00#8, 0x00#8, 0x00#8, 0x00#8, 0x00#8, 0x00#8, 0x00#8, 0x00#8, 0x00#8, 0x00#8, 0x00#8, 0x00#8, 0x00#8, 0x00#8, 0x00#8, 0x00#8, 0x00#8, 0x00#8, 0x00#8, 0x00#8, 0x00#8, 0x00#8, 0x00#8, 0x00#8, 0x00#8, 0x00#8, 0x00#8, 0x00#8, 0x00#8, 0x00#8, 0x00#8, 0x00#8, 0x00#8, 0x00#8, 0x00#8, 0x00#8, 0x00#8, 0x00#8, 0x00#8, 0x00#8, 0x00#8, 0x00#8, 0x00#8, 0x00#8, 0x00#8, 0x00#8, 0x00#8, 0x00#8, 0x00#8, 0x00#8, 0x00#8, 0x00#8, 0x00#8, 0x00#8, 0x00#8, 0x00#8, 0x00#8, 0x00#8, 0x00#8, 0x00#8, 0x00#8, 0x00#8, 0x00#8, 0x00#8, 0x00#8, 0x00#8, 0x00#8, 0x00#8, 0x00#8, 0x00#8, 0x00#8, 0x00#8, 0x00#8, 0x00#8, 0x00#8, 0x00#8, 0x00#8, 0x00#8, 0x00#8, 0x00#8, 0x00#8, 0x00#8, 0x00#8, 0x00#8, 0x00#8, 0x00#8, 0x00#8, 0x00#8, 0x00#8, 0x00#8, 0x00#8, 0x00#8, 0x00#8, 0x00#8, 0x00#8, 0x00#8, 0x00#8, 0x00#8, 0x00#8, 0x00#8, 0x00#8, 0x00#8, 0x00#8, 0x00#8, 0x00#8, 0x00#8, 0x00#8, 0x00#8, 0x00#8, 0x00#8, 0x00#8, 0x00#8, 0x00#8, 0x00#8, 0x00#8, 0x00#8, 0x00#8, 0x00#8, 0x00#8, 0x00#8, 0x00#8, 0x00#8, 0x00#8, 0x00#8, 0x00#8, 0x00#8, 0x00#8, 0x00#8, 0x00#8, 0x00#8, 0x00#8, 0x00#8, 0x00#8, 0x00#8, 0x00#8, 0x00#8, 0x00#8, 0x00#8, 0x00#8, 0x00#8, 0x00#8, 0x00#8, 0x00#8, 0x00#8, 0x00#8, 0x00#8, 0x00#8, 0x00#8, 0x00#8, 0x00#8, 0x00#8, 0x00#8, 0x00#8, 0x00#8, 0x00#8, 0x00#8, 0x00#8, 0x00#8, 0x00#8, 0x00#8, 0x00#8, 0x00#8, 0x00#8, 0x00#8, 0x00#8, 0x00#8, 0x00#8, 0x00#8, 0x00#8, 0x00#8, 0x00#8, 0x00#8, 0x00#8, 0x00#8, 0x00#8, 0x00#8, 0x00#8, 0x00#8, 0x00#8, 0x00#8, 0x00#8, 0x00#8, 0x00#8, 0x00#8, 0x00#8, 0x00#8, 0x00#8, 0x00#8, 0x00#8, 0x00#8, 0x00#8, 0x00#8, 0x00#8, 0x00#8, 0x00#8, 0x00#8, 0x00#8, 0x00#8, 0xf4#8, 0x4e#8, 0x5c#8, 0xe5#8, 0x96#8, 0xd9#8, 0x17#8, 0xbe#8]), (by decide +kernel)⟩⟩⟩⟩⟩⟩,
    ⟨({ kind := Sys2Proof.EccErr.none, bank := 0x0000#16, row := 0x0000#16 }), ⟨(by decide +kernel), ⟨(sts.getD 0 State.reset), ⟨(2), ⟨(by decide +kernel), ⟨([0x01#8, 0x02#8, 0x04#8, 0x00#8, 0x08#8, 0x00#8, 0x00#8, 0x00#8, 0x01#8, 0x00#8, 0x40#8, 0x00#8, 0x16#8, 0x50#8, 0x01#8, 0x00#8, 0x07#8, 0x00#8, 0x00#8, 0x10#8, 0x00#8, 0x00#8, 0x00#8, 0x00#8, 0x00#8, 0x00#8, 0x00#8, 0x00#8, 0x00#8, 0x00#8, 0x00#8, 0x00#8, 0x00#8, 0x00#8, 0x00#8, 0x00#8, 0x00#8, 0x00#8, 0x00#8, 0x00#8, 0x00#8, 0x00#8, 0x00#8, 0x00#8, 0x00#8, 0x00#8, 0x00#8, 0x00#8, 0x00#8, 0x00#8, 0x00#8, 0x00#8, 0x00#8, 0x00#8, 0x00#8, 0x00#8, 0x00#8, 0x00#8, 0x00#8, 0x00#8, 0x00#8, 0x00#8, 0x00#8, 0x00#8, 0x00#8, 0x00#8, 0x00#8, 0x00#8, 0x00#8, 0x00#8, 0x00#8, 0x00#8, 0x00#8, 0x00#8, 0x00#8, 0x00#8, 0x00#8, 0x00#8, 0x00#8, 0x00#8, 0x00#8, 0x00#8, 0x00#8, 0x00#8, 0x00#8, 0x00#8, 0x00#8, 0x00#8, 0x00#8, 0x00#8, 0x00#8, 0x00#8, 0x00#8, 0x00#8, 0x00#8, 0x00#8, 0x00#8, 0x00#8, 0x00#8, 0x00#8, 0x00#8, 0x00#8, 0x00#8, 0x00#8, 0x00#8, 0x00#8, 0x00#8, 0x00#8, 0x00#8, 0x00#8, 0x00#8, 0x00#8, 0x00#8, 0x00#8, 0x00#8, 0x00#8, 0x00#8, 0x00#8, 0x00#8, 0x00#8, 0x00#8, 0x00#8, 0x00#8, 0x00#8, 0x00#8, 0x00#8, 0x00#8, 0x00#8, 0x00#8, 0x00#8, 0x00#8, 0x00#8, 0x00#8, 0x00#8, 0x00#8, 0x00#8, 0x00#8, 0x00#8, 0x00#8, 0x00#8, 0x00#8, 0x00#8, 0x00#8, 0x00#8, 0x00#8, 0x00#8, 0x00#8, 0x00#8, 0x00#8, 0x00#8, 0x00#8, 0x00#8, 0x00#8, 0x00#8, 0x00#8, 0x00#8, 0x00#8, 0x00#8, 0x00#8, 0x00#8, 0x00#8, 0x00#8, 0x00#8, 0x00#8, 0x00#8, 0x00#8, 0x00#8, 0x00#8, 0x00#8, 0x00#8, 0x00#8, 0x00#8, 0x00#8, 0x00#8, 0x00#8, 0x00#8, 0x00#8, 0x00#8, 0x00#8, 0x00#8, 0x00#8, 0x00#8, 0x00#8, 0x00#8, 0x00#8, 0x00#8, 0x00#8, 0x00#8, 0x00#8, 0x00#8, 0x00#8, 0x00#8, 0x00#8, 0x00#8, 0x00#8, 0x00#8, 0x00#8, 0x00#8, 0x00#8, 0x00#8, 0x00#8, 0x00#8, 0x00#8, 0x00#8, 0x00#8, 0x00#8, 0x00#8, 0x00#8, 0x00#8, 0x00#8, 0x00#8, 0x00#8, 0x00#8, 0x00#8, 0x00#8, 0x00#8, 0x00#8, 0x00#8, 0x00#8, 0x00#8, 0x00#8, 0x00#8, 0x00#8, 0x00#8, 0x00#8, 0x00#8, 0x00#8, 0x00#8, 0x00#8, 0x00#8, 0x00#8, 0x00#8, 0x00#8, 0x00#8, 0x00#8, 0x00#8, 0x00#8, 0x00#8, 0x00#8, 0x00#8, 0x00#8, 0x00#8, 0x00#8, 0x00#8, 0x00#8, 0x00#8, 0x00#8, 0x00#8, 0xcb#8, 0x06#8, 0xa7#8, 0x51#8, 0x67#8, 0x1f#8, 0xd8#8, 0x3b#8]), (by decide +kernel)⟩⟩⟩⟩⟩⟩,
    ⟨({ kind := Sys2Proof.EccErr.uncorrectable, bank := 0x0000#16, row := 0x0000#16 }), ⟨(by decide +kernel), ⟨(sts.getD 0 State.reset), ⟨(2), (by decide +kernel)⟩⟩⟩⟩,
    ⟨sts.getD 0 State.reset, 2, [1], by decide +kernel⟩,
    ⟨sts.getD 0 State.reset, 2, by decide +kernel⟩,
    ⟨sts.getD 4 State.reset, 2, by decide +kernel⟩⟩

end W48

namespace W49

def sr (o v : Nat) (s : State) : State := { s with regs := store (regReset o) s.regs (regKey .A o) (BitVec.ofNat 64 v) }
def me0 : State := sr bxModuleId (2^31 + 0x015) B.svc
def pt (f : Port → Port) (s : State) : State := { s with ports := s.ports.set 2 (f s.ports[2]) }
def word (id port lanes flags : Nat) : List Byte := natLe 4 0xC4B80001 ++ natLe 1 4 ++ natLe 1 port ++ natLe 2 id ++ natLe 1 lanes ++ natLe 1 flags ++ natLe 2 0 ++ (List.range 6).flatMap (fun k => natLe 2 (3072 + k)) ++ List.replicate 8 0
def w1 := word 0x016 3 0xFF 1
def neg (n : Nat) (w : List Byte) : State := pt (fun x => { x with state := .negotiate, own := 0xFF, same := n, word := some w }) me0
def tr (b : List Byte) : Trans := { vc := 1, bytes := b }
def hs : List (List Byte) := [header 1 0 64 0x016 0x015 0 7 0x1000, header 1 0 63 0x016 0x015 0 7 0x1000, header 2 0 64 0x016 0x015 0 7 0x1008 ++ (List.range 64).map (BitVec.ofNat 8), header 4 0 64 0x016 0x015 2 7 0x1000 ++ (List.range 64).map (BitVec.ofNat 8),
   header 1 8 64 0x016 0x015 0 7 0x00500100, header 2 8 64 0x016 0x015 0 7 0x00500100 ++ (List.range 64).map (BitVec.ofNat 8), header 1 0 64 0x016 0x015 0 7 (2^40 + 2^39), header 4 0 64 0x016 0x015 2 7 0x1004, header 2 0 64 0x016 0x015 0 7 0x1001 ++ List.replicate 64 3, header 0x44 0 64 0x016 0x015 0 7 0x1001] ++
   (List.range 11).flatMap (fun k => [header 3 0 4 0x016 0x015 (k + 1) 7 0x1004 ++ natLe 8 0x40490FDB ++ natLe 8 0x9001, header 3 0 8 0x016 0x015 (k + 1) 7 0x1008 ++ natLe 8 0x40490FDB ++ natLe 8 0, header 3 0 8 0x016 0x015 (k + 1) 7 (2^40 + 2^39) ++ natLe 8 0x40490FDB ++ natLe 8 0])
def act : Port := { Port.reset with state := .active, txSeq := 10, rxSeq := 4, peer := 0x80030016, trained := { remote := true, x4 := false, id := 0x015, precode := 0 }, credits := Vector.replicate 6 1000 }
def sM : State := sr (pReg 2 + 4) 2 (pt (fun _ => act) (sr bxModuleId (2^31 + 0x015) { sTile with mem := { sTile.mem with dram := [(0x1000, 1), (0x1004, 1), (0x1005, 0x90), (0x1008, 9), (0x1009, 200), (0x100F, 77), (0x103F, 63)] } }))
def sts : List State := hs.flatMap (fun h => [pt (fun x => { x with requests := [tr h, tr [1]] }) sM, pt (fun x => { x with requests := [tr h], trained := { x.trained with remote := false } }) sM]) ++
  [pt (fun x => { x with requests := [tr (hs.getD 0 [])] }) { sM with mem := { sM.mem with band := Vector.replicate 20 4 } }]

theorem witness_BeruxRequestsAndResponses_1 :
    (∃ (s : State) (p : Fin 20) (r : Trans) (rest : List Trans), s.pickFrom [] s.ports[p].requests = some (r, rest) ∧ let b := r.bytes; transListed b = false) ∧
    (∃ (s : State) (p : Fin 20) (r : Trans) (rest : List Trans), s.pickFrom [] s.ports[p].requests = some (r, rest) ∧ let b := r.bytes; transListed b = true ∧ let u := s.takeRequest p r rest; u.transStatus p b ≠ 0 ∧ tType b = 1) ∧
    (∃ (s : State) (p : Fin 20) (r : Trans) (rest : List Trans), s.pickFrom [] s.ports[p].requests = some (r, rest) ∧ let b := r.bytes; transListed b = true ∧ let u := s.takeRequest p r rest; u.transStatus p b ≠ 0 ∧ tType b = 2) ∧
    (∃ (s : State) (p : Fin 20) (r : Trans) (rest : List Trans), s.pickFrom [] s.ports[p].requests = some (r, rest) ∧ let b := r.bytes; transListed b = true ∧ let u := s.takeRequest p r rest; u.transStatus p b ≠ 0 ∧ tType b = 3 ∧ let atomics : List (Instr × Nat × AtomicOp) := [(.bxAtomicSwap p [], 1, .swap), (.bxAtomicCompareAndSwap p [], 2, .cas), (.bxAtomicIntegerAdd p [], 3, .add), (.bxAtomicSignedMin p [], 4, .smin), (.bxAtomicSignedMax p [], 5, .smax), (.bxAtomicUnsignedMin p [], 6, .umin), (.bxAtomicUnsignedMax p [], 7, .umax), (.bxAtomicAnd p [], 8, .and), (.bxAtomicOr p [], 9, .or), (.bxAtomicXor p [], 10, .xor), (.bxAtomicFp32Add p [], 11, .fadd)]; ∃ e ∈ atomics, tOp b = e.2.1) ∧
    (∃ (s : State) (p : Fin 20) (r : Trans) (rest : List Trans), s.pickFrom [] s.ports[p].requests = some (r, rest) ∧ let b := r.bytes; transListed b = true ∧ let u := s.takeRequest p r rest; u.transStatus p b ≠ 0 ∧ tType b = 4) ∧
    (∃ (s : State) (p : Fin 20) (r : Trans) (rest : List Trans), s.pickFrom [] s.ports[p].requests = some (r, rest) ∧ let b := r.bytes; let u := s.takeRequest p r rest; u.transStatus p b = 0 ∧ s.homeOpen p b = false ∧ tType b = 1) ∧
    (∃ (s : State) (p : Fin 20) (r : Trans) (rest : List Trans), s.pickFrom [] s.ports[p].requests = some (r, rest) ∧ let b := r.bytes; let u := s.takeRequest p r rest; let v := tView b; let a := devAddr b; u.transStatus p b = 0 ∧ s.homeOpen p b = true ∧ bit (tFlags b) 3 = false ∧ u.mem.meetsBad v a (tLen b) = false ∧ tType b = 1) ∧
    (∃ (s : State) (p : Fin 20) (r : Trans) (rest : List Trans), s.pickFrom [] s.ports[p].requests = some (r, rest) ∧ let b := r.bytes; let u := s.takeRequest p r rest; let v := tView b; let a := devAddr b; u.transStatus p b = 0 ∧ s.homeOpen p b = true ∧ bit (tFlags b) 3 = false ∧ u.mem.meetsBad v a (tLen b) = false ∧ tType b = 2 ∧ (tData b).length = tLen b) ∧
    (∃ (s : State) (p : Fin 20) (r : Trans) (rest : List Trans), s.pickFrom [] s.ports[p].requests = some (r, rest) ∧ let b := r.bytes; let u := s.takeRequest p r rest; let v := tView b; let a := devAddr b; let atomics : List (Instr × Nat × AtomicOp) := [(.bxAtomicSwap p [], 1, .swap), (.bxAtomicCompareAndSwap p [], 2, .cas), (.bxAtomicIntegerAdd p [], 3, .add), (.bxAtomicSignedMin p [], 4, .smin), (.bxAtomicSignedMax p [], 5, .smax), (.bxAtomicUnsignedMin p [], 6, .umin), (.bxAtomicUnsignedMax p [], 7, .umax), (.bxAtomicAnd p [], 8, .and), (.bxAtomicOr p [], 9, .or), (.bxAtomicXor p [], 10, .xor), (.bxAtomicFp32Add p [], 11, .fadd)]; u.transStatus p b = 0 ∧ s.homeOpen p b = true ∧ bit (tFlags b) 3 = false ∧ u.mem.meetsBad v a (tLen b) = false ∧ ∃ e, e ∈ atomics ∧ tType b = 3 ∧ tOp b = e.2.1) ∧
    (∃ (s : State) (p : Fin 20) (r : Trans) (rest : List Trans), s.pickFrom [] s.ports[p].requests = some (r, rest) ∧ let b := r.bytes; let u := s.takeRequest p r rest; let v := tView b; let a := devAddr b; u.transStatus p b = 0 ∧ s.homeOpen p b = true ∧ bit (tFlags b) 3 = false ∧ u.mem.meetsBad v a (tLen b) = false ∧ tType b = 4 ∧ tLen b = 64 ∧ (tData b).length = 64) ∧
    (∃ (s : State) (p : Fin 20) (r : Trans) (rest : List Trans), s.pickFrom [] s.ports[p].requests = some (r, rest) ∧ let b := r.bytes; let u := s.takeRequest p r rest; u.transStatus p b = 0 ∧ s.homeOpen p b = true ∧ bit (tFlags b) 3 = true ∧ ∃ n, tileOfIdent (bits (tAddr b) 31 20) = some n ∧ (s.tile n).matrix = none ∧ (s.tile n).padBad = [] ∧ tType b = 1) ∧
    (∃ (s : State) (p : Fin 20) (r : Trans) (rest : List Trans), s.pickFrom [] s.ports[p].requests = some (r, rest) ∧ let b := r.bytes; let u := s.takeRequest p r rest; u.transStatus p b = 0 ∧ s.homeOpen p b = true ∧ bit (tFlags b) 3 = true ∧ ∃ n, tileOfIdent (bits (tAddr b) 31 20) = some n ∧ (s.tile n).matrix = none ∧ (s.tile n).padBad = [] ∧ tType b = 2 ∧ (tData b).length = tLen b) :=
  ⟨⟨(sts.getD 2 State.reset), ⟨(2), (wit_pair (by decide +kernel) (by decide +kernel))⟩⟩,
    ⟨(sts.getD 1 State.reset), ⟨(2), (wit_pair (by decide +kernel) (by decide +kernel))⟩⟩,
    ⟨(sts.getD 5 State.reset), ⟨(2), (wit_pair (by decide +kernel) (by decide +kernel))⟩⟩,
    ⟨(sts.getD 21 State.reset), ⟨(2), (wit_pair (by decide +kernel) ⟨(by decide +kernel), ⟨(by decide +kernel), ⟨(by decide +kernel), (wit_mem 0 (by decide +kernel) (by decide +kernel))⟩⟩⟩)⟩⟩,
    ⟨(sts.getD 7 State.reset), ⟨(2), (wit_pair (by decide +kernel) (by decide +kernel))⟩⟩,
    ⟨sts.getD 86 State.reset, 2, wit_pair (by decide +kernel) (by decide +kernel)⟩,
    ⟨sts.getD 0 State.reset, 2, wit_pair (by decide +kernel) (by decide +kernel)⟩,
    ⟨sts.getD 4 State.reset, 2, wit_pair (by decide +kernel) (by decide +kernel)⟩,
    ⟨sts.getD 20 State.reset, 2, wit_pair (by decide +kernel) ⟨by decide +kernel, by decide +kernel, by decide +kernel, by decide +kernel, (.bxAtomicSwap 2 [], 1, .swap), by decide +kernel⟩⟩,
    ⟨sts.getD 6 State.reset, 2, wit_pair (by decide +kernel) (by decide +kernel)⟩,
    ⟨sts.getD 8 State.reset, 2, wit_pair (by decide +kernel) ⟨by decide +kernel, by decide +kernel, by decide +kernel, 5, by decide +kernel⟩⟩,
    ⟨sts.getD 10 State.reset, 2, wit_pair (by decide +kernel) ⟨by decide +kernel, by decide +kernel, by decide +kernel, 5, by decide +kernel⟩⟩⟩

end W49

namespace W50

def cl (f : Collective → Collective) : Collective := f { q := 3, op := 1, fmt := 0, view := 0, toZero := false, set := 3, members := [0x014, 0x015, 0x016], me := 1, root := 0, src := 0x1000, dst := 0x2000, chunk := 64, seq := 6, timeoutUs := 50, instances := 4, trigger := 0x3000, doneAddr := 0, staging := 0x800000, stagingSize := 0x10000, inst := 1, running := true, doneCount := 0, ready := [], heard := [], got := [], sent := [], relay := [], folded := false, open_ := 2 }
def withC (c : Collective) (s : State) : State := { s with fleet := { s.fleet with collectives := [c] }, queues := s.queues.set 3 { s.queues[3] with state := .enabled, inflight := [{ index := 4, desc := 7, phase := .running }] } }
def o1 (k : OutFor) : OutReq := { tag := 77, dest := 0x016, ttype := 1, purpose := k }
def rsp (t st : Nat) : Trans := { vc := 3, bytes := header t 0 (if t = 0x81 then 64 else if t = 0x83 then 8 else 0) 0x016 0x015 st 77 0 ++ List.replicate (if t = 0x81 then 64 else if t = 0x83 then 8 else 0) 1 }
def sts : List State := [0x81, 0x82, 0x83, 0x85].flatMap (fun t => [OutFor.gone, .coll 3 2, .twin 3 false].flatMap (fun k => [0, 5].flatMap (fun st =>
  [withC (cl id) (pt 0 (fun x => { x with responses := [rsp t st], out := [{ o1 k with ttype := BitVec.ofNat 8 (t - 0x80) }] }) S0), withC (cl id) (pt 0 (fun x => { x with responses := [rsp t st], addrErr := 3, out := [{ o1 k with ttype := BitVec.ofNat 8 (t - 0x80), tag := 78 }] }) S0)])))

theorem witness_BeruxRequestsAndResponses_2 :
    (∃ (s : State) (p : Fin 20) (r : Trans) (rest : List Trans), let x := s.ports[p]; x.responses = r :: rest ∧ ∃ e ∈ [(Instr.readRsp p, 0x81), (.writeAck p, 0x82), (.atomicRsp p, 0x83), (.collAck p, 0x85)], tType r.bytes = e.2 ∧ (∀ o ∈ x.out, o.matches r.bytes = false)) ∧
    (∃ (s : State) (p : Fin 20) (r : Trans) (rest : List Trans), let x := s.ports[p]; x.responses = r :: rest ∧ ∃ e ∈ [(Instr.readRsp p, 0x81), (.writeAck p, 0x82), (.atomicRsp p, 0x83), (.collAck p, 0x85)], tType r.bytes = e.2 ∧ ∃ (o : _), x.out.find? (fun o => o.matches r.bytes) = some o ∧ o.purpose = .gone) ∧
    (∃ (s : State) (p : Fin 20) (r : Trans) (rest : List Trans), let x := s.ports[p]; x.responses = r :: rest ∧ ∃ e ∈ [(Instr.readRsp p, 0x81), (.writeAck p, 0x82), (.atomicRsp p, 0x83), (.collAck p, 0x85)], tType r.bytes = e.2 ∧ ∃ (o : _), x.out.find? (fun o => o.matches r.bytes) = some o ∧ ∃ (q m : _), o.purpose = .coll q m ∧ tOp r.bytes = 0 ∧ ∃ (c : _), s.coll q = some c ∧ c.doneCount ≠ c.instances) ∧
    (∃ (s : State) (p : Fin 20), let x := s.ports[p]; ∃ (tag : BitVec 16), (unansweredBy x.responses x.out).find? (fun r => r.tag == tag) = none) ∧
    (∃ (s : State) (p : Fin 20), let x := s.ports[p]; ∃ (tag : BitVec 16) (o : OutReq), (unansweredBy x.responses x.out).find? (fun r => r.tag == tag) = some o ∧ o.purpose = .gone) ∧
    (∃ (s : State) (p : Fin 20), let x := s.ports[p]; ∃ (tag : BitVec 16) (o : OutReq), (unansweredBy x.responses x.out).find? (fun r => r.tag == tag) = some o ∧ ∃ q m c d rest, o.purpose = .coll q m ∧ s.coll q = some c ∧ s.queues[q].inflight = d :: rest ∧ d.phase = .running) :=
  ⟨⟨(sts.getD 1 State.reset), ⟨(0), (wit_cons (by decide +kernel) (wit_mem 0 (by decide +kernel) (by decide +kernel)))⟩⟩,
    ⟨(sts.getD 0 State.reset), ⟨(0), (wit_cons (by decide +kernel) (wit_mem 0 (by decide +kernel) ⟨(by decide +kernel), (wit_some (by decide +kernel) (by decide +kernel))⟩))⟩⟩,
    ⟨(sts.getD 4 State.reset), ⟨(0), (wit_cons (by decide +kernel) (wit_mem 0 (by decide +kernel) ⟨(by decide +kernel), (wit_some (by decide +kernel) ⟨(3), ⟨(2), ⟨(by decide +kernel), ⟨(by decide +kernel), (wit_some (by decide +kernel) (by decide +kernel))⟩⟩⟩⟩)⟩))⟩⟩,
    ⟨sts.getD 0 State.reset, 1, 0x004d#16, by decide +kernel⟩,
    ⟨sts.getD 1 State.reset, 0, 0x004e#16, wit_some (by decide +kernel) (by decide +kernel)⟩,
    ⟨sts.getD 5 State.reset, 0, 0x004e#16, wit_some (by decide +kernel) ⟨3, 2, _, _, _, by decide +kernel, by rfl, by rfl, by decide +kernel⟩⟩⟩

end W50

namespace W51

def hb (src : Nat) (e d se sd : Nat) (fl : Nat) : List Byte := sb 1 src 0x015 (natLe 8 e ++ natLe 32 d ++ natLe 8 se ++ natLe 32 sd ++ natLe 1 1 ++ natLe 1 fl ++ natLe 2 0o123 ++ natLe 4 0)
def cn (src : Nat) (pts dur : Nat) : List Byte := sb 2 src 0x015 (natLe 2 pts ++ natLe 2 0 ++ natLe 8 5 ++ natLe 4 dur)
def ms : List (List Byte) := [hb 0x016 4 99 0 0 0, hb 0x016 5 100 0 0 0, hb 0x016 3 98 4 99 2, hb 0x016 4 98 0 0 0, hb 0x020 4 98 0 0 0, cn 0x016 0o1234 100, cn 0x016 0o4321 0]
def km : Machine.Match := { sender := 0x016, point := 3, until_ := none, applied := true }
def base (s : State) : List State := s :: ms.flatMap (fun m => [arr 0 m s, arr 0 m (sr pwrBudgetCfg 0x100 s), arr 0 m (pt 0 (fun x => { x with cfg := 2 }) { s with budget := { s.budget with matches_ := [km, { km with sender := 0x014 }] } })])
def sts : List State := [arr 0 (cn 0x016 0o1234 100) (sr pwrBudgetCfg 0 S0)] ++ base S0 ++ base { S0 with fleet := { S0.fleet with staged := none } }

theorem witness_HeartbeatsAndCapNotices :
    (∃ (s : State) (p : Fin 20) (m rest : _), let x := s.ports[p]; x.side = m :: rest ∧ mType m = 0x01 ∧ let peer := bits x.peer.toNat 11 0; mSrc m ≠ peer) ∧
    (∃ (s : State) (p : Fin 20) (m rest : _), let x := s.ports[p]; x.side = m :: rest ∧ mType m = 0x01 ∧ let peer := bits x.peer.toNat 11 0; mSrc m = peer) ∧
    (∃ (s : State) (p : Fin 20), let x := s.ports[p]; x.state = .active ∧ p ≠ 19) ∧
    (∃ (s : State) (p : Fin 20) (m rest : _), let x := s.ports[p]; x.side = m :: rest ∧ mType m = 0x02 ∧ bit (s.mreg pwrBudgetCfg) 8 = false) ∧
    (∃ (s : State) (p : Fin 20) (m rest : _), let x := s.ports[p]; x.side = m :: rest ∧ mType m = 0x02 ∧ bit (s.mreg pwrBudgetCfg) 8 = true) ∧
    (∃ (s : State) (p : Fin 20), let x := s.ports[p]; x.state = .active ∧ p = 19) :=
  ⟨⟨(sts.getD 14 State.reset), ⟨(0), (wit_cons (by decide +kernel) (by decide +kernel))⟩⟩,
    ⟨(sts.getD 2 State.reset), ⟨(0), (wit_cons (by decide +kernel) (by decide +kernel))⟩⟩,
    ⟨(sts.getD 0 State.reset), ⟨(0), (by decide +kernel)⟩⟩,
    ⟨(sts.getD 0 State.reset), ⟨(0), (wit_cons (by decide +kernel) (by decide +kernel))⟩⟩,
    ⟨(sts.getD 17 State.reset), ⟨(0), (wit_cons (by decide +kernel) (by decide +kernel))⟩⟩,
    ⟨pt 19 (fun x => { x with state := .active }) S0, 19, by decide +kernel⟩⟩

end W51

namespace W52

def lb (t src id h st cnt : Nat) : List Byte := sb t src 0x015 (natLe 8 id ++ natLe 2 h ++ natLe 2 st ++ natLe 4 cnt ++ natLe 2 10 ++ natLe 6 0)
def ms : List (List Byte) := [lb 0x10 0x014 0 0x014 0x017 0, lb 0x10 0x016 0 0x014 0x017 0, lb 0x11 0x016 9 0x015 0x017 0, lb 0x12 0x014 5 0x014 0x017 3, lb 0x12 0x014 6 0x014 0x017 3, lb 0x13 0x016 9 0x015 0x017 2, lb 0x14 0x014 5 0x014 0x017 0, lb 0x15 0x017 0 0x014 0x017 0, lb 0x16 0x016 0 0x014 0x015 0, lb 0x17 0x016 0 0x014 0x015 0]
def wl : WitnessLease := { id := 5, holder := 0x014, standby := 0x017, missed := 1, expired := false, granted := false, remembered := false }
def hl : HolderLease := { id := 9, witness := 0x016, standby := 0x017, count := 2, sent := [(1, 980000), (2, 990000)], acked := 0, ackedAt := 975001 }
def fl (f : Fleet → Fleet) (s : State) : State := { s with fleet := f s.fleet }
def vs : List State := [S0, fl (fun f => { f with witnessed := [wl] }) S0, fl (fun f => { f with witnessed := [{ wl with missed := 2 }] }) S0, fl (fun f => { f with witnessed := [{ wl with missed := 2, remembered := true }] }) S0, fl (fun f => { f with witnessed := [{ wl with missed := 3, expired := true }] }) S0, fl (fun f => { f with witnessed := [{ wl with missed := 3, expired := true, granted := true }] }) S0,
   fl (fun f => { f with holders := [hl, { hl with witness := 0x014, id := 9 }], standbys := [{ active := 0x014, witness := 0x016, asking := true, promoted := false }, { active := 0x013, witness := 0x016, asking := true, promoted := false }] }) S0,
   fl (fun f => { f with holders := [{ hl with ackedAt := 975000 }], twin := some { q := 3, step := 4, dest := 0x017, committed := false, stopping := false, open_ := 0 } }) S0,  fl (fun f => { f with holders := [{ hl with id := 0, sent := [] }] }) S0]
def sts : List State := vs.flatMap (fun s => s :: ms.map (fun m => arr 0 m s))

theorem witness_LeasesExpireBeforePromotion :
    (∃ (s : State) (p : Fin 20) (m rest : _), let x := s.ports[p]; x.side = m :: rest ∧ mType m = 0x10 ∧ let module : Prop := s.hostWitness (mHolder m) (mStandby m) = none; module ∧ mSrc m = mHolder m ∧ s.isWitness (mHolder m) (mStandby m) = true) ∧
    (∃ (s : State) (p : Fin 20) (m rest : _), let x := s.ports[p]; x.side = m :: rest ∧ mType m = 0x11 ∧ mHolder m = s.myId) ∧
    (∃ (s : State) (p : Fin 20) (m rest : _), let x := s.ports[p]; x.side = m :: rest ∧ mType m = 0x12 ∧ let module : Prop := s.hostWitness (mHolder m) (mStandby m) = none; module ∧ ∃ (l : _), s.fleet.witnessed.find? (fun w => w.id == mLease m && w.holder == mSrc m && !w.expired) = some l) ∧
    (∃ (s : State) (p : Fin 20) (m rest : _), let x := s.ports[p]; x.side = m :: rest ∧ mType m = 0x13) ∧
    (∃ (s : State) (p : Fin 20) (m rest : _), let x := s.ports[p]; x.side = m :: rest ∧ mType m = 0x14 ∧ let module : Prop := s.hostWitness (mHolder m) (mStandby m) = none; module) ∧
    (∃ (s : State) (p : Fin 20) (m rest : _), let x := s.ports[p]; x.side = m :: rest ∧ mType m = 0x15 ∧ let module : Prop := s.hostWitness (mHolder m) (mStandby m) = none; module ∧ ∃ (l : _), s.fleet.witnessed.find? (fun w => w.holder == mHolder m && w.standby == mSrc m) = some l) ∧
    (∃ (s : State) (p : Fin 20) (m rest : _), let x := s.ports[p]; x.side = m :: rest ∧ mType m = 0x16 ∧ mStandby m = s.myId ∧ (s.fleet.standbys.any (fun t => decide (bits t.witness 11 0 = mSrc m ∧ t.active = mHolder m) && !t.promoted) = true)) ∧
    (∃ (s : State) (p : Fin 20) (m rest : _), let x := s.ports[p]; x.side = m :: rest ∧ mType m = 0x17) ∧
    (∃ (s : State) (i : Nat) (h : HolderLease), s.fleet.holders[i]? = some h ∧ h.id ≠ 0 ∧ s.fleet.fenced = false ∧ s.clk.us < h.ackedAt + 25000) ∧
    (∃ (s : State) (i : Nat) (h : HolderLease), s.fleet.holders[i]? = some h ∧ h.id ≠ 0 ∧ s.fleet.fenced = false ∧ h.ackedAt + 25000 ≤ s.clk.us ∧ s.fleet.commit = none) ∧
    (∃ (s : State) (i : Nat) (l : WitnessLease), s.fleet.witnessed[i]? = some l ∧ l.expired = false) ∧
    (∃ (s : State) (i : Nat) (t0 : Standby), s.fleet.standbys[i]? = some t0 ∧ t0.asking = true ∧ t0.promoted = false) :=
  ⟨⟨(sts.getD 1 State.reset), ⟨(0), (wit_cons (by decide +kernel) (by decide +kernel))⟩⟩,
    ⟨(sts.getD 3 State.reset), ⟨(0), (wit_cons (by decide +kernel) (by decide +kernel))⟩⟩,
    ⟨(sts.getD 15 State.reset), ⟨(0), (wit_cons (by decide +kernel) ⟨(by decide +kernel), ⟨(by decide +kernel), ⟨_, rfl⟩⟩⟩)⟩⟩,
    ⟨(sts.getD 6 State.reset), ⟨(0), (wit_cons (by decide +kernel) (by decide +kernel))⟩⟩,
    ⟨(sts.getD 7 State.reset), ⟨(0), (wit_cons (by decide +kernel) (by decide +kernel))⟩⟩,
    ⟨(sts.getD 19 State.reset), ⟨(0), (wit_cons (by decide +kernel) ⟨(by decide +kernel), ⟨(by decide +kernel), ⟨_, rfl⟩⟩⟩)⟩⟩,
    ⟨(sts.getD 75 State.reset), ⟨(0), (wit_cons (by decide +kernel) (by decide +kernel))⟩⟩,
    ⟨(sts.getD 10 State.reset), ⟨(0), (wit_cons (by decide +kernel) (by decide +kernel))⟩⟩,
    ⟨(sts.getD 66 State.reset), ⟨(0), (wit_some (by decide +kernel) (by decide +kernel))⟩⟩,
    ⟨(sts.getD 77 State.reset), ⟨(0), (wit_some (by decide +kernel) (by decide +kernel))⟩⟩,
    ⟨(sts.getD 11 State.reset), ⟨(0), (wit_some (by decide +kernel) (by decide +kernel))⟩⟩,
    ⟨(sts.getD 66 State.reset), ⟨(0), (wit_some (by decide +kernel) (by decide +kernel))⟩⟩⟩

end W52

namespace W53

def eb (t src e d st : Nat) : List Byte := sb t src 0x015 (natLe 8 e ++ natLe 32 d ++ natLe 8 st)
def ms : List (List Byte) := [sb 0x20 0x016 0x015 (natLe 16 0), sb 0x20 0x017 0x015 (natLe 16 0), eb 0x30 0x014 5 100 9, eb 0x30 0x014 5 100 2, eb 0x30 0x014 6 100 9, eb 0x30 0x016 5 100 9, eb 0x31 0x016 5 100 9, eb 0x31 0x016 5 0 9, eb 0x32 0x014 5 100 9, eb 0x32 0x016 5 100 9]
def pl (r : VoteRole) (miss : List Nat) : Poll := { role := r, epoch := 5, digest := 100, step := 9, missing := miss, refused := false, up := .nowhere, src := none }
def fl (f : Fleet → Fleet) (s : State) : State := { s with fleet := f s.fleet }
def vs : List State := [S0, fl (fun f => { f with polls := [pl .coordinator [0x014, 0x016]] }) S0, fl (fun f => { f with polls := [pl .coordinator [0x016]] }) S0, fl (fun f => { f with blocks := none }) S0, fl (fun f => { f with lastStep := 8, polls := [pl .leader [0x016], pl .coordinator [0x016, 0x017]] }) S0, fl (fun f => { f with polls := [{ pl .leader [0x016] with up := .to 0x014 }] }) S0,
  fl (fun f => { f with polls := [{ pl .mirrorLeader [0x016] with up := .to 0x014 }] }) S0]
def c0 : List State := [S0, pt 0 (fun x => { x with limited := true, power := false }) S0, pt 0 (fun x => { x with present := false, power := false }) S0, pt 0 (fun x => { x with unanswered := 2, cable := 3 }) S0]
def sts : List State := c0 ++ vs.flatMap (fun s => s :: ms.map (fun m => arr 0 m s))

theorem witness_EpochVotesTombstonesAndCages :
    (∃ (s : State) (p : Fin 20) (m rest : _), let x := s.ports[p]; x.side = m :: rest ∧ mType m = 0x20 ∧ mSrc m = bits x.peer.toNat 11 0 ∧ x.state = .active) ∧
    (∃ (s : State) (p : Fin 20) (m rest : _), let x := s.ports[p]; x.side = m :: rest ∧ mType m = 0x30 ∧ ∃ (b0 : _), s.fleet.blocks = some b0 ∧ ∃ (c : _), let d := mDigest m; let e := mEpoch m; s.stagedFor e d = some c ∧ s.treePlace c.blocks b0.coordinator (mSrc m) = some .member ∧ (s.fleet.epoch + 1 = e ∧ s.fleet.lastStep.toNat + 2 < (mStep m).toNat)) ∧
    (∃ (s : State) (p : Fin 20) (m rest : _), let x := s.ports[p]; x.side = m :: rest ∧ mType m = 0x30 ∧ ∃ (b0 : _), s.fleet.blocks = some b0 ∧ ∃ (c : _), let d := mDigest m; let e := mEpoch m; s.stagedFor e d = some c ∧ s.treePlace c.blocks b0.coordinator (mSrc m) = some .member ∧ (¬(s.fleet.epoch + 1 = e ∧ s.fleet.lastStep.toNat + 2 < (mStep m).toNat))) ∧
    (∃ (s : State) (p : Fin 20) (m rest : _), let x := s.ports[p]; x.side = m :: rest ∧ mType m = 0x30 ∧ s.fleet.blocks = none) ∧
    (∃ (s : State) (p : Fin 20) (m rest : _), let x := s.ports[p]; x.side = m :: rest ∧ mType m = 0x31 ∧ ∃ (k : _), let e := mEpoch m; s.fleet.polls.find? (fun k => k.epoch == e && k.missing.contains (mSrc m)) = some k ∧ k.role = .coordinator ∧ s.poll .coordinator = some k ∧ k.src = none ∧ let d := mDigest m; k.digest ≠ d) ∧
    (∃ (s : State) (p : Fin 20) (m rest : _), let x := s.ports[p]; x.side = m :: rest ∧ mType m = 0x31 ∧ ∃ (k : _), let e := mEpoch m; s.fleet.polls.find? (fun k => k.epoch == e && k.missing.contains (mSrc m)) = some k ∧ k.role = .coordinator ∧ s.poll .coordinator = some k ∧ k.src = none ∧ let d := mDigest m; k.digest = d ∧ (∃ i ∈ k.missing, i ≠ mSrc m)) ∧
    (∃ (s : State) (p : Fin 20), let x := s.ports[p]; x.limited = true) ∧
    (∃ (s : State) (p : Fin 20), let x := s.ports[p]; x.state = .active ∧ x.power = true ∧ ∃ r : CableReading, r.warn = false ∧ r.alarm = false ∧ r.loss &&& x.lanes = 0) ∧
    (∃ (s : State) (p : Fin 20), let x := s.ports[p]; x.state = .active ∧ x.unanswered < 2) ∧
    (∃ (s : State) (p : Fin 20), let x := s.ports[p]; x.state = .active ∧ 2 ≤ x.unanswered) ∧
    (∃ (s : State) (p : Fin 20), let x := s.ports[p]; ∃ m rest, x.side = m :: rest ∧ let e := mEpoch m; let d := mDigest m; mType m = 0x30 ∧ ∃ b0, s.fleet.blocks = some b0 ∧ s.stagedFor e d = none) ∧
    (∃ (s : State) (p : Fin 20), let x := s.ports[p]; ∃ m rest, x.side = m :: rest ∧ let e := mEpoch m; mType m = 0x31 ∧ ∃ k up, s.fleet.polls.find? (fun k => k.epoch == e && k.missing.contains (mSrc m)) = some k ∧ k.role ≠ .coordinator ∧ k.up = .to up ∧ up ≠ s.myId) ∧
    (∃ (s : State) (p : Fin 20), let x := s.ports[p]; ∃ m rest, x.side = m :: rest ∧ let e := mEpoch m; let d := mDigest m; mType m = 0x32 ∧ ∃ b0 c, s.fleet.blocks = some b0 ∧ s.configFor e d = some c ∧ s.treePlace c.blocks b0.coordinator (mSrc m) ≠ none) ∧
    (∃ (s : State), ∃ k, s.poll .leader = some k) ∧
    (∃ (s : State), ∃ k up, s.poll .leader = none ∧ s.poll .mirrorLeader = some k ∧ k.missing.any (fun i => podOf i == podOf s.myId) = true ∧ k.up = .to up ∧ up ≠ s.myId) :=
  ⟨⟨(sts.getD 5 State.reset), ⟨(0), (wit_cons (by decide +kernel) (by decide +kernel))⟩⟩,
    ⟨(sts.getD 7 State.reset), ⟨(0), (wit_cons (by decide +kernel) ⟨(by decide +kernel), (wit_some (by decide +kernel) (wit_some (by decide +kernel) (by decide +kernel)))⟩)⟩⟩,
    ⟨(sts.getD 8 State.reset), ⟨(0), (wit_cons (by decide +kernel) ⟨(by decide +kernel), (wit_some (by decide +kernel) (wit_some (by decide +kernel) (by decide +kernel)))⟩)⟩⟩,
    ⟨(sts.getD 40 State.reset), ⟨(0), (wit_cons (by decide +kernel) (by decide +kernel))⟩⟩,
    ⟨(sts.getD 23 State.reset), ⟨(0), (wit_cons (by decide +kernel) ⟨(by decide +kernel), (wit_some (by decide +kernel) (by decide +kernel))⟩)⟩⟩,
    ⟨(sts.getD 22 State.reset), ⟨(0), (wit_cons (by decide +kernel) ⟨(by decide +kernel), (wit_some (by decide +kernel) ⟨(by decide +kernel), ⟨(by decide +kernel), ⟨(by decide +kernel), ⟨(by decide +kernel), (wit_mem 0 (by decide +kernel) (by decide +kernel))⟩⟩⟩⟩)⟩)⟩⟩,
    ⟨(sts.getD 1 State.reset), ⟨(0), (by decide +kernel)⟩⟩,
    ⟨(sts.getD 0 State.reset), ⟨(0), ⟨(by decide +kernel), ⟨(by decide +kernel), ⟨({ temp := 0x1234#16, warn := false, alarm := false, flags := 0x11#8, loss := 0x00#8 }), (by decide +kernel)⟩⟩⟩⟩⟩,
    ⟨(sts.getD 0 State.reset), ⟨(0), (by decide +kernel)⟩⟩,
    ⟨(sts.getD 3 State.reset), ⟨(0), (by decide +kernel)⟩⟩,
    ⟨sts.getD 9 State.reset, 0, _, _, rfl, by decide +kernel, blk, by decide +kernel⟩,
    ⟨sts.getD 66 State.reset, 0, _, _, rfl, by decide +kernel, { pl .leader [0x016] with up := .to 0x014 }, 0x014, by decide +kernel⟩,
    ⟨sts.getD 13 State.reset, 0, _, _, rfl, by decide +kernel, blk, { epoch := 5, digest := 100, blocks := blk }, by decide +kernel⟩,
    ⟨sts.getD 59 State.reset, _, rfl⟩,
    ⟨sts.getD 70 State.reset, _, _, by decide +kernel, rfl, by decide +kernel, rfl, by decide +kernel⟩⟩

end W53

namespace W54

def dsc (l : List (Nat × Nat)) : BitVec 512 := BitVec.ofNat 512 (l.foldl (fun a e => a + e.2 * 2 ^ (8 * e.1)) 0)
def dq (f : List (Nat × Nat)) : BitVec 512 := dsc ([(0, 7), (2, 0xFF), (12, 3), (16, 0x1000), (24, 0x2000), (32, 64), (36, 6), (40, 50), (44, 4), (48, 0x3000), (56, 0x00500000)] ++ f)
def inq (d : BitVec 512) (s : State) : State := { s with queues := s.queues.set 3 { s.queues[3] with state := .enabled, inflight := [{ index := 4, desc := d, phase := .fetched }, { index := 5, desc := 7, phase := .fetched }] } }
def fl (f : Fleet → Fleet) (s : State) : State := { s with fleet := f s.fleet }
def sqn (n : Nat) (s : State) : State := fl (fun f => { f with seqs := [(3, BitVec.ofNat 32 n)] }) s
def ops : List (List (Nat × Nat)) := [[(8, 1), (9, 0)], [(8, 1), (9, 5)], [(8, 2), (9, 1)], [(8, 3), (9, 0xFF)], [(8, 4), (9, 0xFF)], [(8, 5), (9, 0xFF), (14, 1)], [(8, 5), (9, 0xFF), (14, 0)]]
def sts : List State := ops.flatMap (fun o => let d := dq o; [inq d (sqn 5 S0), inq d (sqn 7 S0), inq d (fl (fun f => { f with fenced := true }) (sqn 5 S0)), inq d (pt 0 (fun x => { x with cfg := 2 }) (sqn 5 S0)), inq d (fl (fun f => { f with blocks := none }) (sqn 5 S0)),
   inq d (sr bxModuleId (2^31 + 0x017) (sqn 5 S0)), inq (dq (o ++ [(21, 1)])) (sqn 5 S0), inq (dq (o ++ [(20, 0x80), (21, 1)])) (sqn 5 S0), inq (dq (o ++ [(26, 1)])) (sqn 5 S0)]) ++
  [inq (dsc [(0, 7), (2, 0xFF), (8, 1), (12, 3), (16, 0x1000), (24, 0x2000), (32, 64), (36, 6), (40, 50), (44, 1)]) (sqn 5 { S0 with mem := { S0.mem with band := Vector.replicate 20 4 } })]

theorem witness_CollectivesAreCheckedInOrder :
    (∃ (s : State) (q : Fin 64) (d : InFlight) (rest : List InFlight), s.queues[q].inflight = d :: rest ∧ d.phase = .fetched ∧ dfield d.desc 0 1 = 7 ∧ ∃ e ∈ [(Instr.allReduce q, 1), (.reduceScatter q, 2), (.allGather q, 3), (.allToAll q, 4), (.broadcast q, 5)], dfield d.desc 8 1 = e.2 ∧ ∃ (off : _), let set := s.setOf (dfield d.desc 12 2); firstInvalid (collChecks d.desc set) = some off) ∧
    (∃ (s : State) (q : Fin 64) (d : InFlight) (rest : List InFlight), s.queues[q].inflight = d :: rest ∧ d.phase = .fetched ∧ dfield d.desc 0 1 = 7 ∧ ∃ e ∈ [(Instr.allReduce q, 1), (.reduceScatter q, 2), (.allGather q, 3), (.allToAll q, 4), (.broadcast q, 5)], dfield d.desc 8 1 = e.2 ∧ let set := s.setOf (dfield d.desc 12 2); firstInvalid (collChecks d.desc set) = none ∧ set = none) ∧
    (∃ (s : State) (q : Fin 64) (d : InFlight) (rest : List InFlight), s.queues[q].inflight = d :: rest ∧ d.phase = .fetched ∧ dfield d.desc 0 1 = 7 ∧ ∃ e ∈ [(Instr.allReduce q, 1), (.reduceScatter q, 2), (.allGather q, 3), (.allToAll q, 4), (.broadcast q, 5)], dfield d.desc 8 1 = e.2 ∧ let set := s.setOf (dfield d.desc 12 2); firstInvalid (collChecks d.desc set) = none ∧ ∃ (x : _), set = some x ∧ s.myId ∉ x.members) ∧
    (∃ (s : State) (q : Fin 64) (d : InFlight) (rest : List InFlight), s.queues[q].inflight = d :: rest ∧ d.phase = .fetched ∧ dfield d.desc 0 1 = 7 ∧ ∃ e ∈ [(Instr.allReduce q, 1), (.reduceScatter q, 2), (.allGather q, 3), (.allToAll q, 4), (.broadcast q, 5)], dfield d.desc 8 1 = e.2 ∧ let set := s.setOf (dfield d.desc 12 2); firstInvalid (collChecks d.desc set) = none ∧ ∃ (x : _), set = some x ∧ ∃ (me : _), x.members.findIdx? (fun i => i == s.myId) = some me ∧ let c := newColl q d.desc x me; c.mapped = true ∧ let seq : BitVec 32 := BitVec.ofNat 32 (dfield d.desc 36 4); seq ≠ find 0 s.fleet.seqs x.num + 1) ∧
    (∃ (s : State) (q : Fin 64) (d : InFlight) (rest : List InFlight), s.queues[q].inflight = d :: rest ∧ d.phase = .fetched ∧ dfield d.desc 0 1 = 7 ∧ ∃ e ∈ [(Instr.allReduce q, 1), (.reduceScatter q, 2), (.allGather q, 3), (.allToAll q, 4), (.broadcast q, 5)], dfield d.desc 8 1 = e.2 ∧ let set := s.setOf (dfield d.desc 12 2); firstInvalid (collChecks d.desc set) = none ∧ ∃ (x : _), set = some x ∧ ∃ (me : _), x.members.findIdx? (fun i => i == s.myId) = some me ∧ let c := newColl q d.desc x me; c.mapped = true ∧ let seq : BitVec 32 := BitVec.ofNat 32 (dfield d.desc 36 4); seq = find 0 s.fleet.seqs x.num + 1 ∧ s.fleet.fenced = true) ∧
    (∃ (s : State) (q : Fin 64) (d : InFlight) (rest : List InFlight), s.queues[q].inflight = d :: rest ∧ d.phase = .fetched ∧ dfield d.desc 0 1 = 7 ∧ ∃ e ∈ [(Instr.allReduce q, 1), (.reduceScatter q, 2), (.allGather q, 3), (.allToAll q, 4), (.broadcast q, 5)], dfield d.desc 8 1 = e.2 ∧ let set := s.setOf (dfield d.desc 12 2); firstInvalid (collChecks d.desc set) = none ∧ ∃ (x : _), set = some x ∧ ∃ (me : _), x.members.findIdx? (fun i => i == s.myId) = some me ∧ let c := newColl q d.desc x me; c.mapped = true ∧ let seq : BitVec 32 := BitVec.ofNat 32 (dfield d.desc 36 4); seq = find 0 s.fleet.seqs x.num + 1 ∧ s.fleet.fenced = false ∧ s.routesMatch x.members = false) ∧
    (∃ (s : State) (q : Fin 64) (d : InFlight) (rest : List InFlight), s.queues[q].inflight = d :: rest ∧ d.phase = .fetched ∧ dfield d.desc 0 1 = 7 ∧ ∃ e ∈ [(Instr.allReduce q, 1), (.reduceScatter q, 2), (.allGather q, 3), (.allToAll q, 4), (.broadcast q, 5)], dfield d.desc 8 1 = e.2 ∧ let set := s.setOf (dfield d.desc 12 2); firstInvalid (collChecks d.desc set) = none ∧ ∃ (x : _), set = some x ∧ ∃ (me : _), x.members.findIdx? (fun i => i == s.myId) = some me ∧ let c := newColl q d.desc x me; c.mapped = true ∧ let seq : BitVec 32 := BitVec.ofNat 32 (dfield d.desc 36 4); seq = find 0 s.fleet.seqs x.num + 1 ∧ s.fleet.fenced = false ∧ s.routesMatch x.members = true ∧ s.coll q = none ∧ c.instances ≠ 1 ∧ x.members.Nodup ∧ (∀ i ∈ x.members, i ≠ s.myId → ∃ p, s.egress i = some p ∧ s.ports[p].carries = true)) ∧
    (∃ (s : State) (q : Fin 64) (d : InFlight) (rest : List InFlight), s.queues[q].inflight = d :: rest ∧ d.phase = .fetched ∧ dfield d.desc 0 1 = 7 ∧ ∃ e, e ∈ [(Instr.allReduce q [], 1), (.reduceScatter q [], 2), (.allGather q [], 3), (.allToAll q [], 4), (.broadcast q [], 5)] ∧ dfield d.desc 8 1 = e.2 ∧ let set := s.setOf (dfield d.desc 12 2); let seq : BitVec 32 := BitVec.ofNat 32 (dfield d.desc 36 4); firstInvalid (collChecks d.desc set) = none ∧ ∃ x, set = some x ∧ ∃ me, x.members.findIdx? (fun i => i == s.myId) = some me ∧ let c := newColl q d.desc x me; seq = find 0 s.fleet.seqs x.num + 1 ∧ s.fleet.fenced = false ∧ s.routesMatch x.members = true ∧ c.mapped = false) ∧
    (∃ (s : State) (q : Fin 64) (d : InFlight) (rest : List InFlight), s.queues[q].inflight = d :: rest ∧ d.phase = .fetched ∧ dfield d.desc 0 1 = 7 ∧ ∃ e, e ∈ [(Instr.allReduce q [], 1), (.reduceScatter q [], 2), (.allGather q [], 3), (.allToAll q [], 4), (.broadcast q [], 5)] ∧ dfield d.desc 8 1 = e.2 ∧ let set := s.setOf (dfield d.desc 12 2); let seq : BitVec 32 := BitVec.ofNat 32 (dfield d.desc 36 4); firstInvalid (collChecks d.desc set) = none ∧ ∃ x, set = some x ∧ ∃ me, x.members.findIdx? (fun i => i == s.myId) = some me ∧ let c := newColl q d.desc x me; seq = find 0 s.fleet.seqs x.num + 1 ∧ s.fleet.fenced = false ∧ s.routesMatch x.members = true ∧ c.mapped = true ∧ c.instances = 1 ∧ s.buffersOpen c = false) :=
  ⟨⟨(sts.getD 9 State.reset), ⟨(3), (wit_cons (by decide +kernel) ⟨(by decide +kernel), ⟨(by decide +kernel), (wit_mem 0 (by decide +kernel) ⟨(by decide +kernel), ⟨_, rfl⟩⟩)⟩⟩)⟩⟩,
    ⟨(sts.getD 4 State.reset), ⟨(3), (wit_cons (by decide +kernel) ⟨(by decide +kernel), ⟨(by decide +kernel), (wit_mem 0 (by decide +kernel) (by decide +kernel))⟩⟩)⟩⟩,
    ⟨(sts.getD 5 State.reset), ⟨(3), (wit_cons (by decide +kernel) ⟨(by decide +kernel), ⟨(by decide +kernel), (wit_mem 0 (by decide +kernel) ⟨(by decide +kernel), ⟨(by decide +kernel), (wit_some (by decide +kernel) (by decide +kernel))⟩⟩)⟩⟩)⟩⟩,
    ⟨(sts.getD 1 State.reset), ⟨(3), (wit_cons (by decide +kernel) ⟨(by decide +kernel), ⟨(by decide +kernel), (wit_mem 0 (by decide +kernel) ⟨(by decide +kernel), ⟨(by decide +kernel), (wit_some (by decide +kernel) (wit_some (by decide +kernel) (by decide +kernel)))⟩⟩)⟩⟩)⟩⟩,
    ⟨(sts.getD 2 State.reset), ⟨(3), (wit_cons (by decide +kernel) ⟨(by decide +kernel), ⟨(by decide +kernel), (wit_mem 0 (by decide +kernel) ⟨(by decide +kernel), ⟨(by decide +kernel), (wit_some (by decide +kernel) (wit_some (by decide +kernel) (by decide +kernel)))⟩⟩)⟩⟩)⟩⟩,
    ⟨(sts.getD 3 State.reset), ⟨(3), (wit_cons (by decide +kernel) ⟨(by decide +kernel), ⟨(by decide +kernel), (wit_mem 0 (by decide +kernel) ⟨(by decide +kernel), ⟨(by decide +kernel), (wit_some (by decide +kernel) (wit_some (by decide +kernel) (by decide +kernel)))⟩⟩)⟩⟩)⟩⟩,
    ⟨(sts.getD 0 State.reset), ⟨(3), (wit_cons (by decide +kernel) ⟨(by decide +kernel), ⟨(by decide +kernel), (wit_mem 0 (by decide +kernel) ⟨(by decide +kernel), ⟨(by decide +kernel), (wit_some (by decide +kernel) (wit_some (by decide +kernel) (by decide +kernel)))⟩⟩)⟩⟩)⟩⟩,
    ⟨sts.getD 7 State.reset, 3, _, _, rfl, by decide +kernel, by decide +kernel, (.allReduce 3 [], 1), by decide +kernel, by decide +kernel, by decide +kernel, { num := 3, members := [0x014, 0x015, 0x016], staging := 0x800000, stagingSize := 0x10000 }, by decide +kernel, 1, by decide +kernel⟩,
    ⟨sts.getD 63 State.reset, 3, _, _, rfl, by decide +kernel, by decide +kernel, (.allReduce 3 [], 1), by decide +kernel, by decide +kernel, by decide +kernel, { num := 3, members := [0x014, 0x015, 0x016], staging := 0x800000, stagingSize := 0x10000 }, by decide +kernel, 1, by decide +kernel⟩⟩

end W54

namespace W55

def cl (f : Collective → Collective) : Collective := f { q := 3, op := 1, fmt := 0, view := 0, toZero := false, set := 3, members := [0x014, 0x015, 0x016], me := 1, root := 0, src := 0x1000, dst := 0x2000, chunk := 64, seq := 6, timeoutUs := 50, instances := 4, trigger := 0x3000, doneAddr := 0x00500000, staging := 0x800000, stagingSize := 0x10000, inst := 1, running := true, doneCount := 0, ready := [], heard := [], got := [], sent := [], relay := [], folded := false, open_ := 2 }
def all (c : Collective) : Collective := { c with sent := c.planFor c.me }
def withC (c : Collective) (s : State) : State := { s with fleet := { s.fleet with collectives := [c], seqs := [(3, 6)] }, queues := s.queues.set 3 { s.queues[3] with state := .enabled, inflight := [{ index := 4, desc := 7, phase := .running }, { index := 5, desc := 7, phase := .fetched }] }, mem := { s.mem with dram := [(0x2040, 0x80), (0x2041, 0x3F), (0x3000, 2)] } }
def ct (op len off : Nat) (data : List Byte) (src : Nat) : Trans := { vc := 2, bytes := header 5 0 len src 0x015 op (3 * 1024 + 6 * 2 + 1) off ++ data }
def rdy (seq inst src : Nat) : Trans := { vc := 2, bytes := header 5 0 16 src 0x015 1 (3 * 1024 + 6 * 2 + 1) 0 ++ natLe 4 seq ++ natLe 4 inst ++ natLe 8 0 }
def d64 : List Byte := (List.range 64).map (fun k => BitVec.ofNat 8 (k * 5))
def ts : List Trans := [rdy 6 2 0x016, rdy 7 1 0x016, rdy 8 1 0x016, rdy 6 2 0x020, ct 2 64 0 d64 0x016, ct 2 64 128 d64 0x016, ct 2 64 0 d64 0x014, ct 3 64 0 d64 0x016, ct 3 16 48 (d64.take 16) 0x014, ct 3 64 0 d64 0x020, ct 4 16 0 ((natLe 8 0) ++ natLe 8 3) 0x016, { vc := 2, bytes := header 5 0 32 0x016 0x015 4 0 0 ++ natLe 8 0 ++ natLe 8 1 ++ natLe 8 9 ++ natLe 8 0 }, ct 5 16 0 (natLe 16 0) 0x016]
def rq (t : Trans) (s : State) : State := pt 0 (fun x => { x with requests := [t] }) s
def fin (c : Collective) : Collective := let c := all { c with op := 3, fmt := 0xFF }; { c with got := (c.others.flatMap c.wants).map (fun x => (x, 64)) }
def cs : List Collective := [cl all, cl (fun c => { c with running := false }), cl (fun c => { c with running := false, inst := 2, doneCount := 2 }), cl fin, cl (fun c => { fin c with inst := 4, open_ := 0, doneCount := 3 }), cl (fun c => { fin c with inst := 4, doneCount := 3 }), cl (fun c => { c with op := 5, fmt := 0xFF, running := false, members := [0x015], me := 0, root := 1 }),
   cl (fun c => all { c with op := 3, fmt := 0xFF }), cl (fun c => all { c with op := 5, fmt := 0xFF, root := 2 }), cl (fun c => all { c with op := 4, fmt := 0xFF }), cl (fun c => all { c with op := 2 })]
def two : List Nat := [0x014, 0x015, 0x026, 0x025]
def bad (l : List Nat) (s : State) : State := { s with mem := { s.mem with bad := l } }
/-- Members of two groups: member 0 sends through this module what it has for member 3. -/
def rc (op : Nat) (f : BitVec 8) : Collective := cl (fun c => all { c with op := op, fmt := f, members := two })
def sR (op : Nat) (f : BitVec 8) (t : Trans) : State := rq t (withC (rc op f) { S0 with fleet := { S0.fleet with blocks := some { blk with groups0 := 6, sets := [{ num := 3, members := two, staging := 0x800000, stagingSize := 0x10000 }] } } })
def base : List State := cs.flatMap (fun c => withC c S0 :: ts.map (fun t => rq t (withC c S0)))
def sts : List State := base ++ ts.map (fun t => rq t (withC (cl id) { S0 with fleet := { S0.fleet with collectives := [], blocks := some { blk with copyMode := 1, twins := [{ active := 0x016, standby := 0x015, witness := 0x014 }] } } })) ++ [sR 4 0xFF (ct 2 64 448 d64 0x014), sR 1 0 (ct 3 64 256 d64 0x014)]

theorem witness_InstancesStartEndAndFail :
    (∃ (s : State) (q : Fin 64) (c : Collective), s.coll q = some c ∧ ∃ (d : InFlight) (rest : List InFlight), s.queues[q].inflight = d :: rest ∧ d.phase = .running ∧ c.running = true ∧ c.timeoutUs ≠ 0) ∧
    (∃ (s : State) (q : Fin 64) (c : Collective), s.coll q = some c ∧ ∃ (d : InFlight) (rest : List InFlight), s.queues[q].inflight = d :: rest ∧ d.phase = .running ∧ ∃ (p : Fin 20) (r : Trans) (l : List Trans), s.pickFrom [] s.ports[p].requests = some (r, l) ∧ transListed r.bytes = true ∧ tType r.bytes = 5 ∧ s.collOf r.bytes = some c ∧ ∃ m : Nat, s.senderIn r.bytes = some m ∧ tOp r.bytes = 5) ∧
    (∃ (s : State) (q : Fin 64) (c : Collective) (d : InFlight) (rest : List InFlight), s.coll q = some c ∧ s.queues[q].inflight = d :: rest ∧ d.phase = .running ∧ ∃ (p : Fin 20) (r : Trans) (l : List Trans) (m : Nat), s.pickFrom [] s.ports[p].requests = some (r, l) ∧ transListed r.bytes = true ∧ tType r.bytes = 5 ∧ s.collOf r.bytes = some c ∧ s.senderIn r.bytes = some m ∧ tOp r.bytes = 3 ∧ (s.takeRequest p r l).collOpen p c (c.sumsAt c.inst + 4 * elements c.fmt (tAddr r.bytes)) (4 * elements c.fmt (tLen r.bytes)) = true ∧ ∃ e : SramErr, e.kind = .uncorrectable) ∧
    (∃ (s : State) (q : Fin 64) (c : Collective) (d : InFlight) (rest : List InFlight), s.coll q = some c ∧ s.queues[q].inflight = d :: rest ∧ d.phase = .running ∧ let alone : Prop := s.mem.sliceUeTimes = [] ∧ ∃ l, s.mem.bad = [l]; c.running = false ∧ c.inst < c.instances ∧ s.farOpen engineNode c.view c.trigger 8 = true ∧ s.buffersOpen c = true ∧ alone ∧ s.mem.meetsBad c.view c.trigger 8 = true) ∧
    (∃ (s : State) (q : Fin 64) (c : Collective) (d : InFlight) (rest : List InFlight), s.coll q = some c ∧ s.queues[q].inflight = d :: rest ∧ d.phase = .running ∧ c.running = false ∧ c.inst < c.instances ∧ s.farOpen engineNode c.view c.trigger 8 = true ∧ s.buffersOpen c = true ∧ s.mem.meetsBad c.view c.trigger 8 = false ∧ let word := leNat (devRead s.mem.dram c.view c.trigger 8); word ≤ c.inst) ∧
    (∃ (s : State) (q : Fin 64) (c : Collective) (d : InFlight) (rest : List InFlight), s.coll q = some c ∧ s.queues[q].inflight = d :: rest ∧ d.phase = .running ∧ c.running = false ∧ c.inst < c.instances ∧ s.farOpen engineNode c.view c.trigger 8 = true ∧ s.buffersOpen c = true ∧ s.mem.meetsBad c.view c.trigger 8 = false ∧ let word := leNat (devRead s.mem.dram c.view c.trigger 8); c.inst < word ∧ s.mem.bad = [] ∧ (∀ m ∈ c.others, ∃ p, s.egress (c.members.getD m 0) = some p ∧ s.ports[p].carries = true)) ∧
    (∃ (s : State) (q : Fin 64) (c : Collective) (d : InFlight) (rest : List InFlight), s.coll q = some c ∧ s.queues[q].inflight = d :: rest ∧ d.phase = .running ∧ let alone : Prop := s.mem.sliceUeTimes = [] ∧ ∃ l, s.mem.bad = [l]; c.running = false ∧ c.inst < c.instances ∧ s.farOpen engineNode c.view c.trigger 8 = true ∧ s.buffersOpen c = true ∧ s.mem.meetsBad c.view c.trigger 8 = false ∧ let word := leNat (devRead s.mem.dram c.view c.trigger 8); let own : Nat := c.src + if c.op = 3 ∨ c.op = 5 then 0 else c.me * c.chunk; c.inst < word ∧ (c.op ∈ [1, 2, 3, 4] ∨ (c.op = 5 ∧ c.me = c.root)) ∧ alone ∧ s.mem.meetsBad c.view own c.chunk = true) ∧
    (∃ (s : State) (q : Fin 64) (c : Collective) (d : InFlight) (rest : List InFlight), s.coll q = some c ∧ s.queues[q].inflight = d :: rest ∧ d.phase = .running ∧ c.running = false ∧ c.inst < c.instances ∧ s.farOpen engineNode c.view c.trigger 8 = true ∧ s.buffersOpen c = true ∧ s.mem.meetsBad c.view c.trigger 8 = false ∧ let word := leNat (devRead s.mem.dram c.view c.trigger 8); c.inst < word ∧ c.op = 5 ∧ 1 ≤ c.inst ∧ s.mem.bad = [] ∧ (∃ m ∈ c.others, s.egress (c.members.getD m 0) = none) ∧ (∀ m ∈ c.others, ∀ p, s.egress (c.members.getD m 0) = some p → s.ports[p].carries = true)) ∧
    (∃ (s : State) (q : Fin 64) (c : Collective) (d : InFlight) (rest : List InFlight), s.coll q = some c ∧ s.queues[q].inflight = d :: rest ∧ d.phase = .running ∧ c.running = false ∧ c.inst < c.instances ∧ (s.farOpen engineNode c.view c.trigger 8 = false ∨ s.buffersOpen c = false)) ∧
    (∃ (s : State) (q : Fin 64) (c : Collective) (d : InFlight) (rest : List InFlight), s.coll q = some c ∧ s.queues[q].inflight = d :: rest ∧ d.phase = .running ∧ c.complete = true ∧ s.doneOpen c = true) ∧
    (∃ (s : State) (q : Fin 64) (c : Collective) (d : InFlight) (rest : List InFlight), s.coll q = some c ∧ s.queues[q].inflight = d :: rest ∧ d.phase = .running ∧ (c.complete = false ∨ s.doneOpen c = false)) ∧
    (∃ (s : State) (q : Fin 64) (c : Collective) (d : InFlight) (rest : List InFlight), s.coll q = some c ∧ s.queues[q].inflight = d :: rest ∧ d.phase = .running ∧ (c.running = false ∨ c.timeoutUs = 0)) :=
  ⟨⟨(sts.getD 0 State.reset), ⟨(3), (wit_some (by decide +kernel) (wit_cons (by decide +kernel) (by decide +kernel)))⟩⟩,
    ⟨(sts.getD 13 State.reset), ⟨(3), (wit_some (by decide +kernel) (wit_cons (by decide +kernel) ⟨(by decide +kernel), ⟨(0), (wit_pair (by decide +kernel) ⟨(by decide +kernel), ⟨(by decide +kernel), ⟨(by decide +kernel), (wit_some (by decide +kernel) (by decide +kernel))⟩⟩⟩)⟩⟩))⟩⟩,
    ⟨sts.getD 8 State.reset, 3, _, _, _, rfl, rfl, by decide +kernel, 0, _, _, 2, rfl, by refine ⟨?_, ?_, ?_, ?_, ?_, ?_, { kind := .uncorrectable, bank := 0, row := 0 }, rfl⟩ <;> decide +kernel⟩,
    ⟨bad [192] (sts.getD 14 State.reset), 3, _, _, _, rfl, rfl, by decide +kernel, by decide +kernel, by decide +kernel, by decide +kernel, by decide +kernel, ⟨by decide +kernel, _, rfl⟩, by decide +kernel⟩,
    ⟨sts.getD 28 State.reset, 3, _, _, _, rfl, rfl, by decide +kernel, by decide +kernel⟩,
    ⟨sts.getD 14 State.reset, 3, _, _, _, rfl, rfl, by decide +kernel, by decide +kernel⟩,
    ⟨bad [65] (sts.getD 14 State.reset), 3, _, _, _, rfl, rfl, by decide +kernel, by decide +kernel, by decide +kernel, by decide +kernel, ⟨by decide +kernel, by decide +kernel, by decide +kernel, by decide +kernel, ⟨by decide +kernel, _, rfl⟩, by decide +kernel⟩⟩,
    ⟨withC (cl (fun c => { c with op := 5, fmt := 0xFF, root := 2, running := false, members := [0x014, 0x015, 0x216] })) S0, 3, _, _, _, rfl, rfl, by decide +kernel, by decide +kernel, by decide +kernel, by decide +kernel, ⟨by decide +kernel, by decide +kernel, by decide +kernel, by decide +kernel, ⟨by decide +kernel, by decide +kernel, by decide +kernel, by decide +kernel⟩⟩⟩,
    ⟨(let s := sts.getD 14 State.reset; { s with mem := { s.mem with band := s.mem.band.set 0 4 } }), 3, _, _, _, rfl, rfl, by decide +kernel, by decide +kernel⟩,
    ⟨sts.getD 42 State.reset, 3, _, _, _, rfl, rfl, by decide +kernel, by decide +kernel⟩,
    ⟨sts.getD 0 State.reset, 3, _, _, _, rfl, rfl, by decide +kernel, by decide +kernel⟩,
    ⟨sts.getD 14 State.reset, 3, _, _, _, rfl, rfl, by decide +kernel, by decide +kernel⟩⟩

theorem witness_CollTransactionsReachTheirCollective :
    (∃ (s : State) (p : Fin 20) (r : Trans) (l : List Trans), s.pickFrom [] s.ports[p].requests = some (r, l) ∧ transListed r.bytes = true ∧ tType r.bytes = 5 ∧ let b := r.bytes; let none_ : SramErr := { kind := .none, bank := 0, row := 0 }; ∃ e, e ∈ [(Instr.collReady p [], 1), (.collPut p [], 2), (.collReduce p none_ [], 3)] ∧ tOp b = e.2 ∧ s.senderIn b = none) ∧
    (∃ (s : State) (p : Fin 20) (r : Trans) (l : List Trans), s.pickFrom [] s.ports[p].requests = some (r, l) ∧ transListed r.bytes = true ∧ tType r.bytes = 5 ∧ let b := r.bytes; tOp b = 1 ∧ ∃ (m : _), s.senderIn b = some m ∧ let seq : BitVec 32 := BitVec.ofNat 32 (tfield b 16 4); let set := tTag b / 1024; (∀ c ∈ s.fleet.collectives, c.set ≠ set ∨ c.seq ≠ seq) ∧ seq = find 0 s.fleet.seqs set + 1) ∧
    (∃ (s : State) (p : Fin 20) (r : Trans) (l : List Trans), s.pickFrom [] s.ports[p].requests = some (r, l) ∧ transListed r.bytes = true ∧ tType r.bytes = 5 ∧ let b := r.bytes; tOp b = 1 ∧ ∃ (m : _), s.senderIn b = some m ∧ let seq : BitVec 32 := BitVec.ofNat 32 (tfield b 16 4); let set := tTag b / 1024; (∀ c ∈ s.fleet.collectives, c.set ≠ set ∨ c.seq ≠ seq) ∧ seq ≠ find 0 s.fleet.seqs set + 1) ∧
    (∃ (s : State) (p : Fin 20) (r : Trans) (l : List Trans), s.pickFrom [] s.ports[p].requests = some (r, l) ∧ transListed r.bytes = true ∧ tType r.bytes = 5 ∧ let b := r.bytes; tOp b = 1 ∧ ∃ (m : _), s.senderIn b = some m ∧ ∃ (c : _), let seq : BitVec 32 := BitVec.ofNat 32 (tfield b 16 4); let set := tTag b / 1024; s.fleet.collectives.find? (fun c => c.set == set && c.seq == seq) = some c ∧ s.coll c.q = some c ∧ c.running = false) ∧
    (∃ (s : State) (p : Fin 20) (r : Trans) (l : List Trans), s.pickFrom [] s.ports[p].requests = some (r, l) ∧ transListed r.bytes = true ∧ tType r.bytes = 5 ∧ let b := r.bytes; tOp b = 4) ∧
    (∃ (s : State) (p : Fin 20) (r : Trans) (l : List Trans), s.pickFrom [] s.ports[p].requests = some (r, l) ∧ transListed r.bytes = true ∧ tType r.bytes = 5 ∧ let b := r.bytes; let u := s.takeRequest p r l; ∃ m c, s.senderIn b = some m ∧ s.collOf b = some c ∧ s.coll c.q = some c ∧ (tData b).length = tLen b ∧ (∀ y ∈ c.planFor c.me, y ∈ c.sent ∨ c.due y = false) ∧ tOp b = 2 ∧ c.op ∈ [3, 4, 5] ∧ u.collOpen p c (c.dstAt c.inst + tAddr b % c.dstSize) (tLen b) = true ∧ (∀ y ∈ c.planFor c.me, y ∈ c.sent) ∧ c.arriving m false (tAddr b) (tLen b) = none) ∧
    (∃ (s : State) (p : Fin 20) (r : Trans) (l : List Trans), s.pickFrom [] s.ports[p].requests = some (r, l) ∧ transListed r.bytes = true ∧ tType r.bytes = 5 ∧ let b := r.bytes; let u := s.takeRequest p r l; ∃ m c, s.senderIn b = some m ∧ s.collOf b = some c ∧ s.coll c.q = some c ∧ (tData b).length = tLen b ∧ (∀ y ∈ c.planFor c.me, y ∈ c.sent ∨ c.due y = false) ∧ tOp b = 2 ∧ c.op ∈ [3, 4, 5] ∧ u.collOpen p c (c.dstAt c.inst + tAddr b % c.dstSize) (tLen b) = true ∧ (∀ y ∈ c.planFor c.me, y ∈ c.sent) ∧ ∃ x, c.arriving m false (tAddr b) (tLen b) = some x ∧ c.op = 4 ∧ x.chunk ≠ c.me) ∧
    (∃ (s : State) (p : Fin 20) (r : Trans) (l : List Trans), s.pickFrom [] s.ports[p].requests = some (r, l) ∧ transListed r.bytes = true ∧ tType r.bytes = 5 ∧ let b := r.bytes; let u := s.takeRequest p r l; ∃ m c, s.senderIn b = some m ∧ s.collOf b = some c ∧ s.coll c.q = some c ∧ (tData b).length = tLen b ∧ (∀ y ∈ c.planFor c.me, y ∈ c.sent ∨ c.due y = false) ∧ tOp b = 2 ∧ c.op ∈ [3, 4, 5] ∧ u.collOpen p c (c.dstAt c.inst + tAddr b % c.dstSize) (tLen b) = true ∧ (∀ y ∈ c.planFor c.me, y ∈ c.sent) ∧ ∃ x, c.arriving m false (tAddr b) (tLen b) = some x ∧ (c.op ≠ 4 ∨ x.chunk = c.me) ∧ let a := c.dstAt c.inst + tAddr b; s.mem.meetsBad c.view a (tLen b) = false) ∧
    (∃ (s : State) (p : Fin 20) (r : Trans) (l : List Trans), s.pickFrom [] s.ports[p].requests = some (r, l) ∧ transListed r.bytes = true ∧ tType r.bytes = 5 ∧ let b := r.bytes; ∃ m c, s.senderIn b = some m ∧ s.collOf b = some c ∧ s.coll c.q = some c ∧ (tData b).length = tLen b ∧ (∀ y ∈ c.planFor c.me, y ∈ c.sent ∨ c.due y = false) ∧ tOp b = 3 ∧ ∃ x, c.arriving m true (tAddr b) (tLen b) = some x ∧ c.wholeElements (tAddr b - c.base x) (tLen b) = true ∧ c.folded = false ∧ x.chunk ≠ c.me ∧ (∀ y ∈ c.planFor c.me, y ∈ c.sent) ∧ (∃ k ∈ c.others, k ≠ m ∧ ∃ y ∈ c.wants k, y.reduce = true ∧ y.chunk = c.me ∧ c.whole y = false)) ∧
    (∃ (s : State) (p : Fin 20) (r : Trans) (l : List Trans), s.pickFrom [] s.ports[p].requests = some (r, l) ∧ transListed r.bytes = true ∧ tType r.bytes = 5 ∧ let b := r.bytes; let u := s.takeRequest p r l; ∃ m c, s.senderIn b = some m ∧ s.collOf b = some c ∧ s.coll c.q = some c ∧ (tData b).length = tLen b ∧ (∀ y ∈ c.planFor c.me, y ∈ c.sent ∨ c.due y = false) ∧ tOp b = 3 ∧ ∃ x, c.arriving m true (tAddr b) (tLen b) = some x ∧ c.wholeElements (tAddr b - c.base x) (tLen b) = true ∧ c.folded = false ∧ x.chunk = c.me ∧ c.fmt = 0 ∧ (∃ k ∈ c.others, k ≠ m ∧ ∃ y ∈ c.wants k, y.reduce = true ∧ y.chunk = c.me ∧ c.whole y = false) ∧ let a := c.sumsAt c.inst + tAddr b; u.collOpen p c a (tLen b) = true ∧ mapped c.view a (tLen b) = true ∧ s.mem.meetsBad c.view a (tLen b) = false) :=
  ⟨⟨sts.getD 4 State.reset, 0, wit_pair (by decide +kernel) ⟨by decide +kernel, by decide +kernel, _, List.Mem.head _, by decide +kernel⟩⟩,
    ⟨(sts.getD 2 State.reset), ⟨(0), (wit_pair (by decide +kernel) ⟨(by decide +kernel), ⟨(by decide +kernel), ⟨(by decide +kernel), (wit_some (by decide +kernel) (by decide +kernel))⟩⟩⟩)⟩⟩,
    ⟨(sts.getD 3 State.reset), ⟨(0), (wit_pair (by decide +kernel) ⟨(by decide +kernel), ⟨(by decide +kernel), ⟨(by decide +kernel), (wit_some (by decide +kernel) (by decide +kernel))⟩⟩⟩)⟩⟩,
    ⟨(sts.getD 15 State.reset), ⟨(0), (wit_pair (by decide +kernel) ⟨(by decide +kernel), ⟨(by decide +kernel), ⟨(by decide +kernel), (wit_some (by decide +kernel) (wit_some (by decide +kernel) (by decide +kernel)))⟩⟩⟩)⟩⟩,
    ⟨(sts.getD 11 State.reset), ⟨(0), (wit_pair (by decide +kernel) (by decide +kernel))⟩⟩,
    ⟨sts.getD 103 State.reset, 0, wit_pair (by decide +kernel) ⟨by decide +kernel, by decide +kernel, 2, cs.getD 7 (cl id), by refine ⟨?_, ?_, ?_, ?_, ?_, ?_, ?_, ?_, ?_⟩ <;> decide +kernel⟩⟩,
    ⟨sts.getD 167 State.reset, 0, wit_pair (by decide +kernel) ⟨by decide +kernel, by decide +kernel, 0, rc 4 0xFF, by refine ⟨?_, ?_, ?_, ?_, ?_, ?_, ?_, ?_, ?_, { dest := 1, reduce := false, origin := 0, chunk := 3 }, ?_⟩ <;> decide +kernel⟩⟩,
    ⟨sts.getD 104 State.reset, 0, wit_pair (by decide +kernel) ⟨by decide +kernel, by decide +kernel, 2, cs.getD 7 (cl id), by refine ⟨?_, ?_, ?_, ?_, ?_, ?_, ?_, ?_, ?_, { dest := 1, reduce := false, origin := 2, chunk := 2 }, ?_⟩ <;> decide +kernel⟩⟩,
    ⟨sts.getD 168 State.reset, 0, wit_pair (by decide +kernel) ⟨by decide +kernel, by decide +kernel, 0, rc 1 0, by refine ⟨?_, ?_, ?_, ?_, ?_, ?_, { dest := 1, reduce := true, origin := 0, chunk := 3 }, ?_⟩ <;> decide +kernel⟩⟩,
    ⟨sts.getD 8 State.reset, 0, wit_pair (by decide +kernel) ⟨by decide +kernel, by decide +kernel, 2, cl all, by refine ⟨?_, ?_, ?_, ?_, ?_, ?_, { dest := 1, reduce := true, origin := 2, chunk := 1 }, ?_⟩ <;> decide +kernel⟩⟩⟩

end W55

namespace W57

def rl (r : Fin 11) (f : Rail → Rail) (s : State) : State := { s with power := { s.power with rails := s.power.rails.set r (f s.power.rails[r]) } }
def c0 (d : Fin 4) (f : Core → Core) (s : State) : State := { s with power := { s.power with cores := s.power.cores.set d (f s.power.cores[d]) } }
def S0 : State := B.svc
def all (f : Rail → Rail) (s : State) : List State := ([0, 1, 2, 3, 4, 5, 7, 9, 10] : List (Fin 11)).map (fun r => rl r f s)
def sts : List State := [S0, c0 1 (fun c => { c with ignored := 1, slewing := true, pins := 3 }) S0] ++ all (fun x => { x with state := .softStart, attempts := 1 }) S0 ++ all (fun x => { x with state := .softStart, attempts := 4 }) S0 ++ all (fun x => { x with state := .hiccup, attempts := 2, failed := 5, taken := 8 }) S0 ++
  all (fun x => { x with state := .off, enabled := false, attempts := 2, failed := 5, taken := 8 }) S0 ++ all (fun x => { x with state := .latched, attempts := 4, current := 5 }) S0 ++ all (fun x => { x with state := .softStart, attempts := 4 }) { S0 with stage := .stage2, start := { S0.start with dies := #v[.rail, .rail, .locking, .rail] } }
  ++ all (fun x => { x with state := .off, enabled := false }) { S0 with stage := .stage1, sap := { S0.sap with state := .precharge } } ++ [rl 6 (fun x => { x with goingDown := true }) (rl 1 (fun x => { x with state := .off, charged := true }) S0), rl 7 (fun x => { x with goingDown := true, state := .latched }) (rl 2 (fun x => { x with state := .off, charged := true }) { S0 with stage := .quiesced })]

theorem witness_RailsStartLatchAndRearm :
    (∃ (s : State) (r : Fin 11), s.railReady r = true ∧ let x := s.power.rails[r]; x.enabled = false ∧ x.state = .off ∧ s.mayEnable = true) ∧
    (∃ (s : State) (r : Fin 11), let x := s.power.rails[r]; x.state = .softStart ∧ r ≠ 10) ∧
    (∃ (s : State) (r : Fin 11), let x := s.power.rails[r]; x.state = .softStart ∧ x.attempts < 4) ∧
    (∃ (s : State) (r : Fin 11), let x := s.power.rails[r]; x.state = .softStart ∧ 4 ≤ x.attempts) ∧
    (∃ (s : State) (r : Fin 11), let x := s.power.rails[r]; x.state = .hiccup ∧ x.enabled = true) ∧
    (∃ (s : State) (r : Fin 11), let x := s.power.rails[r]; x.state = .on) ∧
    (∃ (s : State) (d : Fin 4), s.power.rails[coreRail d].state = .on ∧ ∃ k : Fin 5, s.power.cores[d].ignored.getLsbD k = false) ∧
    (∃ (s : State) (r : Fin 11), let x := s.power.rails[r]; x.state ≠ .on ∧ x.state ≠ .softStart ∧ x.state ≠ .hiccup ∧ 4 ≤ r.val) ∧
    (∃ (s : State) (r : Fin 11) (h : r.val < 4), let x := s.power.rails[r]; x.state = .off ∧ s.power.rails[5 + r.val].goingDown = true ∧ (r.val = 1 ∨ r.val = 2)) ∧
    (∃ (s : State), ∃ (d : Fin 4), s.power.rails[coreRail d].state = .softStart) ∧
    (∃ (s : State), ∃ (fn : Fn), s.reaches fn = true) ∧
    (∃ (s : State) (r : Fin 11), s.atConsole .s false ∧ r.val < 10) :=
  ⟨⟨(sts.getD 56 State.reset), ⟨(10), (by decide +kernel)⟩⟩,
    ⟨(sts.getD 2 State.reset), ⟨(0), (by decide +kernel)⟩⟩,
    ⟨(sts.getD 2 State.reset), ⟨(0), (by decide +kernel)⟩⟩,
    ⟨(sts.getD 11 State.reset), ⟨(0), (by decide +kernel)⟩⟩,
    ⟨(sts.getD 20 State.reset), ⟨(0), (by decide +kernel)⟩⟩,
    ⟨(sts.getD 0 State.reset), ⟨(0), (by decide +kernel)⟩⟩,
    ⟨(sts.getD 0 State.reset), ⟨(0), ⟨(by decide +kernel), ⟨(0), (by decide +kernel)⟩⟩⟩⟩,
    ⟨(sts.getD 0 State.reset), ⟨(10), (by decide +kernel)⟩⟩,
    ⟨(sts.getD 65 State.reset), ⟨(1), ⟨(by decide +kernel), (by decide +kernel)⟩⟩⟩,
    ⟨sts.getD 2 State.reset, 0, by decide +kernel⟩,
    ⟨S0, .A, by decide +kernel⟩,
    ⟨S0, 2, wit_console (by decide +kernel) (by decide +kernel)⟩⟩

end W57

namespace W58

def rl (r : Fin 11) (f : Rail → Rail) (s : State) : State := { s with power := { s.power with rails := s.power.rails.set r (f s.power.rails[r]) } }
def c0 (d : Fin 4) (f : Core → Core) (s : State) : State := { s with power := { s.power with cores := s.power.cores.set d (f s.power.cores[d]) } }
def S0 : State := B.svc
def pw (f : Power → Power) (s : State) : State := { s with power := f s.power }
def sr (o v : Nat) (s : State) : State := { s with regs := store (regReset o) s.regs (regKey .A o) (BitVec.ofNat 64 v) }
def sts : List State := [S0, pw (fun p => { p with convStop := some true, convOn := Vector.replicate 4 false }) S0, pw (fun p => { p with convStop := some false, convFault := #v[true, false, false, false] }) S0, pw (fun p => { p with convFault := #v[true, true, false, false], convOn := #v[false, false, true, true] }) S0,
   rl 0 (fun x => { x with shed := 1 }) S0, rl 0 (fun x => { x with shedTo := some 2 }) S0, rl 5 (fun x => { x with shed := 1, shedTo := some 2 }) S0, rl 0 (fun x => { x with working := 0xFFF }) S0, rl 1 (fun x => { x with working := 0x1FFF }) S0,
   c0 1 (fun c => { c with slewing := true, pins := 3 }) S0, c0 1 (fun c => { c with slewing := true, trimSlew := true, pins := 3 }) S0, c0 0 (fun c => { c with forced := true }) S0, { S0 with hwd := { S0.hwd with freeze := true } }, { S0 with clk := { S0.clk with div := #v[0, 20, 7, 12] } },
   { S0 with stage := .stage2, clk := { S0.clk with pll := #v[true, false, true, true] } }, sr pwrShedCfg 0 S0, rl 4 (fun x => { x with state := .off }) S0]

theorem witness_ConvertersPhasesAndOperatingPoints :
    (∃ (s : State) (up : _), s.power.convStop = some up) ∧
    (∃ (s : State) (c : Fin 4), s.power.convOn[c] = true) ∧
    (∃ (s : State) (r : Fin 11), let x := s.power.rails[r]; x.state = .on ∧ x.shedTo = none ∧ bit (s.mreg pwrShedCfg) 0 = true) ∧
    (∃ (s : State) (r : Fin 11) (k : _), let x := s.power.rails[r]; x.shedTo = some k) ∧
    (∃ (s : State) (r : Fin 11), let x := s.power.rails[r]; x.state = .on) ∧
    (∃ (s : State) (r : Fin 11), let x := s.power.rails[r]; (x.state = .on ∨ x.state = .softStart) ∧ ∃ n : Fin 32, x.working.getLsbD n = true ∧ (9 ≤ r.val ∨ r = 4)) ∧
    (∃ (s : State) (d : Fin 4), s.power.rails[coreRail d].state = .on ∧ ∃ n : Fin 32, s.power.rails[coreRail d].working.getLsbD n = true ∧ s.phases d ≤ 12 ∧ (∀ i : Fin 6, s.power.rails[coreRail d].working.getLsbD (26 + i.val) = false)) ∧
    (∃ (s : State) (d : Fin 4), let c := s.power.cores[d]; c.forced = false ∧ s.hwd.freeze = false ∧ s.clk.div[d] ≠ 0 ∧ ∃ op : Fin 8, s.clk.div[d] < pointDiv op ∧ op < c.pins) ∧
    (∃ (s : State) (d : Fin 4), let c := s.power.cores[d]; c.forced = false ∧ s.hwd.freeze = false ∧ ∃ op : Fin 8, (pointDiv op ≤ s.clk.div[d] ∨ c.pins ≤ op ∨ s.clk.div[d] = 0)) ∧
    (∃ (s : State) (d : Fin 4), let c := s.power.cores[d]; c.slewing = true) ∧
    (∃ (s : State) (d : Fin 4), let c := s.power.cores[d]; (c.slewing = false ∨ c.trimSlew = true)) ∧
    (∃ (s : State) (d : Fin 4), s.clk.pll[d] = true ∧ ∃ n : Fin 32, n.val ∈ [20, 16, 14, 12, 10, 9, 8, 7]) :=
  ⟨⟨(sts.getD 1 State.reset), ⟨_, rfl⟩⟩,
    ⟨(sts.getD 0 State.reset), ⟨(0), (by decide +kernel)⟩⟩,
    ⟨(sts.getD 0 State.reset), ⟨(0), (by decide +kernel)⟩⟩,
    ⟨(sts.getD 5 State.reset), ⟨(0), ⟨_, rfl⟩⟩⟩,
    ⟨(sts.getD 0 State.reset), ⟨(0), (by decide +kernel)⟩⟩,
    ⟨(sts.getD 0 State.reset), ⟨(4), ⟨(by decide +kernel), ⟨(0), (by decide +kernel)⟩⟩⟩⟩,
    ⟨(sts.getD 7 State.reset), ⟨(0), ⟨(by decide +kernel), ⟨(0), (by decide +kernel)⟩⟩⟩⟩,
    ⟨(sts.getD 0 State.reset), ⟨(0), ⟨(by decide +kernel), ⟨(by decide +kernel), ⟨(by decide +kernel), ⟨(0), (by decide +kernel)⟩⟩⟩⟩⟩⟩,
    ⟨(sts.getD 0 State.reset), ⟨(0), ⟨(by decide +kernel), ⟨(by decide +kernel), ⟨(5), (by decide +kernel)⟩⟩⟩⟩⟩,
    ⟨(sts.getD 9 State.reset), ⟨(1), (by decide +kernel)⟩⟩,
    ⟨(sts.getD 0 State.reset), ⟨(0), (by decide +kernel)⟩⟩,
    ⟨(sts.getD 0 State.reset), ⟨(0), ⟨(by decide +kernel), ⟨(12), (by decide +kernel)⟩⟩⟩⟩⟩

end W58

namespace W59

def lef (f : LoopEngine → LoopEngine) (s : State) : State := { s with le := f s.le }
def sl (n : Fin 4) (f : Slot → Slot) (s : State) : State := { s with le := { s.le with slots := s.le.slots.set n (f s.le.slots[n]) } }
def slA (f : Slot → Slot) (s : State) : State := { s with le := { s.le with slots := s.le.slots.map f } }
def S0 : State := B.svc
def man (v : Int) (x : Slot) : Slot := { x with mode := .manual, manual := Vector.replicate 4 (bfp v) }
def sts : List State := [S0, slA (man (-300)) S0, lef (fun l => { l with route := 1 }) (slA (man (-300)) S0), lef (fun l => { l with route := 2, absorb := 100 }) (slA (man (-300)) S0), lef (fun l => { l with route := 2, absorb := 100 }) (slA (man 200) S0), slA (fun x => { x with mode := .auto }) S0,
   slA (fun x => { x with mode := .scheduled, region := 2 }) (lef (fun l => { l with phase := .test }) S0), lef (fun l => { l with phase := .test }) (slA (fun x => { x with mode := .auto }) S0), lef (fun l => { l with phase := .test, injection := some { InjRun.start { slot := 0, point := .output, wave := .step, amp := bfp 5, duration := 10 } with done := 3 } }) (slA (fun x => { x with mode := .auto }) S0),
   slA (fun x => { x with mode := .fault }) S0, slA (fun x => { x with mode := .track, held := .auto }) S0, slA (fun x => { x with mode := .auto, commands := [.manual] }) S0, lef (fun l => { l with ok := false }) S0, { S0 with budget := { S0.budget with hold := true } }, slA (fun x => { x with laws := x.laws.map (fun y => { y with out := bfp 500 }) }) S0,
   { slA (fun x => { x with laws := x.laws.map (fun y => { y with out := bfp 500 }), mode := .off }) S0 with budget := { S0.budget with smooth := 1 } }]
def ei : EngineInputs := { ch := [50000, 1500, 500, 20, 30, 45, 600, 600, 600, 600], following := true, bad := 0, late := false, cycles := 50 }

theorem witness_LoopEngineRunsItsSlots :
    (∃ s : State, s.svc.test = none ∧ ∃ n : Fin 4, let x := s.le.slots[n]; let now := x.commands.getLast?.getD x.mode; ∃ e ∈ [(Instr.slotOff n, SlotMode.off), (.slotManual n, .manual), (.slotAuto n, .auto), (.slotScheduled n, .scheduled)], let listed : Prop := e.2 = .off ∨ (e.2 = .manual ∧ now ∈ [.off, .auto, .scheduled, .fault]) ∨ (e.2 = .auto ∧ now = .manual) ∨ (e.2 = .scheduled ∧ now ∈ [.manual, .auto] ∧ s.le.phase ≠ .service); (s.le.ok = false ∨ ¬listed)) ∧
    (∃ s : State, s.svc.test = none ∧ s.le.ok = true ∧ ∃ n : Fin 4, ∃ c ∈ channelsOf n s.power.convOn, ∃ i : EngineInputs, i.bad.getLsbD c = true) ∧
    (∃ s : State, s.svc.test = none ∧ ∃ (j : _), s.le.injection = some j) ∧
    (∃ s : State, s.svc.test = none ∧ ∃ ph : EnginePhase, ph ≠ .service) ∧
    (∃ s : State, s.svc.test = none ∧ ∃ j : Injection, let x := s.le.slots[j.slot]; injListed x.values j = false) ∧
    (∃ s : State, s.svc.test = none ∧ ∃ j : Injection, let x := s.le.slots[j.slot]; injListed x.values j = true ∧ (s.le.phase = .service ∨ x.mode ∉ [.auto, .scheduled] ∨ s.le.injection ≠ none)) ∧
    (∃ s : State, s.svc.test = none ∧ ∃ j : Injection, let x := s.le.slots[j.slot]; injListed x.values j = true ∧ s.le.phase ≠ .service ∧ x.mode ∈ [.auto, .scheduled] ∧ s.le.injection = none) ∧
    (∃ (s : State), s.svc.test = none ∧ ∃ n : Fin 4, let x := s.le.slots[n]; s.le.ok = true ∧ x.mode ∈ [.off, .auto, .scheduled, .fault]) ∧
    (∃ (s : State), s.svc.test = none ∧ ∃ n : Fin 4, let x := s.le.slots[n]; s.le.ok = true ∧ x.mode ∈ [.manual, .auto] ∧ s.le.phase ≠ .service) ∧
    (∃ (s : State), s.svc.test = none ∧ ∃ n : Fin 4, let x := s.le.slots[n]; (s.le.ok = false ∨ x.mode ∈ [.manual, .track])) ∧
    (∃ (s : State), s.svc.test = none ∧ ∃ n : Fin 4, let x := s.le.slots[n]; (s.le.ok = false ∨ x.mode ≠ .manual)) ∧
    (∃ (s : State), s.svc.test = none ∧ ∃ n : Fin 4, let x := s.le.slots[n]; (s.le.ok = false ∨ x.mode ∉ [.manual, .auto] ∨ s.le.phase = .service)) ∧
    (∃ (s : State), s.svc.test = none ∧ ∃ n : Fin 4, let x := s.le.slots[n]; s.le.ok = true ∧ ∃ i : EngineInputs, (∀ c ∈ channelsOf n s.power.convOn, i.bad.getLsbD c = false ∧ i.atEnd c = false) ∧ x.commands = [] ∧ x.commit = [] ∧ x.thenAuto = false ∧ i.late = true) ∧
    (∃ (s : State), s.svc.test = none ∧ ∃ n : Fin 4, let x := s.le.slots[n]; s.le.ok = true ∧ ∃ i : EngineInputs, (∀ c ∈ channelsOf n s.power.convOn, i.bad.getLsbD c = false ∧ i.atEnd c = false) ∧ x.commands = [] ∧ x.commit = [] ∧ x.thenAuto = false ∧ i.late = false ∧ x.mode = .off) ∧
    (∃ (s : State), s.svc.test = none ∧ ∃ n : Fin 4, let x := s.le.slots[n]; s.le.ok = true ∧ ∃ i : EngineInputs, (∀ c ∈ channelsOf n s.power.convOn, i.bad.getLsbD c = false ∧ i.atEnd c = false) ∧ x.commands = [] ∧ x.commit = [] ∧ x.thenAuto = false ∧ i.late = false ∧ x.mode = .manual ∧ x.fromDraw = false) ∧
    (∃ (s : State), s.svc.test = none ∧ ∃ n : Fin 4, let x := s.le.slots[n]; s.le.ok = true ∧ ∃ i : EngineInputs, (∀ c ∈ channelsOf n s.power.convOn, i.bad.getLsbD c = false ∧ i.atEnd c = false) ∧ x.commands = [] ∧ x.commit = [] ∧ x.thenAuto = false ∧ n = 0 ∧ i.late = false ∧ ∃ d, s.sap.drain = some d) ∧
    (∃ (s : State), s.svc.test = none ∧ ∃ n : Fin 4, let x := s.le.slots[n]; ∃ (k : Fin 4) (v : Tuning), let can : Prop := x.mode ∈ [.off, .manual] ∨ (s.le.phase ≠ .service ∧ x.mode = .scheduled ∧ k ≠ x.region ∧ k ≠ 0); can ∧ v.cycles ≤ cycleBound n) ∧
    (∃ (s : State), s.svc.test = none ∧ ∃ n : Fin 4, let x := s.le.slots[n]; ∃ (k : Fin 4) (v : Tuning), let can : Prop := x.mode ∈ [.off, .manual] ∨ (s.le.phase ≠ .service ∧ x.mode = .scheduled ∧ k ≠ x.region ∧ k ≠ 0); can ∧ cycleBound n < v.cycles) ∧
    (∃ (s : State), s.svc.test = none ∧ ∃ n : Fin 4, let x := s.le.slots[n]; ∃ (k : Fin 4), let can : Prop := x.mode ∈ [.off, .manual] ∨ (s.le.phase ≠ .service ∧ x.mode = .scheduled ∧ k ≠ x.region ∧ k ≠ 0); ¬ can) ∧
    (∃ (s : State), s.svc.test = none ∧ ∃ c : CaptureSetup, 1 ≤ c.every ∧ c.every ≤ 256 ∧ c.pre ≤ 4095 ∧ c.signals.length ≤ 4 ∧ let old := s.le.capture; (old.state ≠ 1 ∨ old.setup ≠ some c)) ∧
    (∃ (s : State), s.svc.test = none ∧ ∃ c : CaptureSetup, 1 ≤ c.every ∧ c.every ≤ 256 ∧ c.pre ≤ 4095 ∧ c.signals.length ≤ 4 ∧ let old := s.le.capture; old.state = 1 ∧ old.setup = some c) ∧
    (∃ (s : State), s.svc.test = none ∧ ∃ c : CaptureSetup, (c.every = 0 ∨ 256 < c.every ∨ 4095 < c.pre ∨ 4 < c.signals.length)) ∧
    (∃ (s : State), s.svc.test = none ∧ ∃ (route : BitVec 2), route ≠ 3) :=
  ⟨⟨(sts.getD 0 State.reset), ⟨(by decide +kernel), ⟨(0), (wit_mem 2 (by decide +kernel) (by decide +kernel))⟩⟩⟩,
    ⟨(sts.getD 0 State.reset), ⟨(by decide +kernel), ⟨(by decide +kernel), ⟨(0), (wit_mem 0 (by decide +kernel) ⟨({ ch := [50000, 1500, 500, 20, 30, 45, 600, 600, 600, 600], following := true, bad := 0x001#10, late := false, cycles := 50 }), (by decide +kernel)⟩)⟩⟩⟩⟩,
    ⟨(sts.getD 8 State.reset), ⟨(by decide +kernel), ⟨_, rfl⟩⟩⟩,
    ⟨(sts.getD 0 State.reset), ⟨(by decide +kernel), ⟨(Sys2Proof.EnginePhase.startup), (by decide +kernel)⟩⟩⟩,
    ⟨(sts.getD 0 State.reset), ⟨(by decide +kernel), ⟨({ slot := 2, point := Sys2Proof.InjPoint.target, wave := Sys2Proof.Waveform.square 0, amp := { mant := 0x0a000#18, exp := 0x33#6 }, duration := 10 }), (by decide +kernel)⟩⟩⟩,
    ⟨(sts.getD 0 State.reset), ⟨(by decide +kernel), ⟨({ slot := 0, point := Sys2Proof.InjPoint.output, wave := Sys2Proof.Waveform.step, amp := { mant := 0x0a000#18, exp := 0x33#6 }, duration := 10 }), (by decide +kernel)⟩⟩⟩,
    ⟨(sts.getD 6 State.reset), ⟨(by decide +kernel), ⟨({ slot := 0, point := Sys2Proof.InjPoint.output, wave := Sys2Proof.Waveform.step, amp := { mant := 0x0a000#18, exp := 0x33#6 }, duration := 10 }), (by decide +kernel)⟩⟩⟩,
    ⟨sts.getD 0 State.reset, by decide +kernel, 0, by decide +kernel⟩,
    ⟨sts.getD 7 State.reset, by decide +kernel, 0, by decide +kernel⟩,
    ⟨sts.getD 1 State.reset, by decide +kernel, 0, by decide +kernel⟩,
    ⟨sts.getD 0 State.reset, by decide +kernel, 0, by decide +kernel⟩,
    ⟨sts.getD 0 State.reset, by decide +kernel, 0, by decide +kernel⟩,
    ⟨sts.getD 0 State.reset, by decide +kernel, 0, by decide +kernel, { ch := [50000, 1500, 500, 20, 30, 45, 600, 600, 600, 600], following := true, bad := 0x000#10, late := true, cycles := 50 }, by decide +kernel⟩,
    ⟨sts.getD 0 State.reset, by decide +kernel, 0, by decide +kernel, { ch := [50000, 1500, 500, 20, 30, 45, 600, 600, 600, 600], following := true, bad := 0x000#10, late := false, cycles := 50 }, by decide +kernel⟩,
    ⟨sts.getD 1 State.reset, by decide +kernel, 0, by decide +kernel, { ch := [50000, 1500, 500, 20, 30, 45, 600, 600, 600, 600], following := true, bad := 0x000#10, late := false, cycles := 50 }, by decide +kernel⟩,
    ⟨(let s := sts.getD 1 State.reset; { s with sap := { s.sap with drain := some { fromLocked := false, lockArose := false, returning := true, watts := 10, slope := 0 } } }), by decide +kernel, 0, by decide +kernel, { ch := [50000, 1500, 500, 20, 30, 45, 600, 600, 600, 600], following := true, bad := 0x000#10, late := false, cycles := 50 }, by decide +kernel, by decide +kernel, by decide +kernel, by decide +kernel, by decide +kernel, by decide +kernel, _, rfl⟩,
    ⟨sts.getD 0 State.reset, by decide +kernel, 0, 1, { kp := bfp 1, ki := bfp 1, kf := bfp 1, kd := bfp 1, neg := false, tauUs := 0, cycles := 10 }, by decide +kernel⟩,
    ⟨sts.getD 0 State.reset, by decide +kernel, 0, 1, { kp := bfp 1, ki := bfp 1, kf := bfp 1, kd := bfp 1, neg := false, tauUs := 0, cycles := 1000 }, by decide +kernel⟩,
    ⟨sts.getD 5 State.reset, by decide +kernel, 0, 1, by decide +kernel⟩,
    ⟨sts.getD 0 State.reset, by decide +kernel, { slot := 0, every := 1, trigger := .command, pre := 100, signals := [] }, by decide +kernel⟩,
    ⟨lef (fun l => { l with capture := { l.capture with state := 1, setup := some { slot := 0, every := 1, trigger := .command, pre := 100, signals := [] } } }) S0, by decide +kernel, { slot := 0, every := 1, trigger := .command, pre := 100, signals := [] }, by decide +kernel⟩,
    ⟨sts.getD 0 State.reset, by decide +kernel, { slot := 0, every := 257, trigger := .command, pre := 100, signals := [] }, by decide +kernel⟩,
    ⟨sts.getD 0 State.reset, by decide +kernel, 2, by decide +kernel⟩⟩

end W59

namespace W60

def st (f : Store → Store) (s : State) : State := { s with sap := f s.sap }
def S0 : State := { B.svc with sap := { B.svc.sap with fresh := false, baseline := List.replicate 14 3600, sumOk := true, sumWas := true, cells := Vector.ofFn (fun k => { Cell.reset with mv := 3600 + k.val, valid := true, eligible := decide (k.val % 3 ≠ 0) }) } }
def iso : State := st (fun x => { x with state := .isolated, following := false }) { S0 with hwd := { S0.hwd with swA := false, swB := false } }
def pre : State := { st (fun x => { x with state := .precharge }) iso with hwd := { iso.hwd with precharge := true }, power := { iso.power with rails := iso.power.rails.set 10 { Rail.reset with state := .softStart, enabled := true, attempts := 1 } } }
def dr (f r l : Bool) : Drain := { fromLocked := f, lockArose := l, returning := r, watts := 0, slope := 0 }
def sts : List State := [S0, iso, pre, st (fun x => { x with swAClosing := true }) { pre with hwd := { pre.hwd with swA := true } }, st (fun x => { x with state := .drained }) iso, st (fun x => { x with state := .lockedOut, lockout := some .cellFault }) iso, st (fun x => { x with state := .draining, drain := some (dr false true false) }) S0, st (fun x => { x with state := .draining, bleed := true, drain := some (dr false false false) }) iso, st (fun x => { x with state := .draining, bleed := true, drain := some (dr false false true) }) iso,
  st (fun x => { x with awake := false }) S0, st (fun x => { x with awake := false, waking := true }) iso, st (fun x => { x with slept := true }) S0, { S0 with crown := { S0.crown with running := false } }, { iso with crown := { S0.crown with running := false } }, st (fun x => { x with endOfLife := true }) S0, { st (fun x => { x with awake := false }) iso with stage := .stage1 }, { st (fun x => { x with awake := false }) iso with stage := .stage0 },
  st (fun x => { x with state := .draining, drain := some (dr true true false) }) S0]

theorem witness_StoreConnectsIsolatesAndDrains :
    (∃ s : State, s.crown.running = true ∧ s.mayConnect = true ∧ s.sap.state ∈ [.isolated, .drained]) ∧
    (∃ s : State, (s.crown.running = false ∨ s.mayConnect = false ∨ s.sap.state ∉ [.isolated, .drained])) ∧
    (∃ s : State, s.sap.state ∉ [.draining, .drained]) ∧
    (∃ s : State, s.sap.state ∈ [.draining, .drained]) ∧
    (∃ (s : State) (d : _), s.sap.drain = some d ∧ d.returning = true) ∧
    (∃ s : State, s.sap.bleed = true ∧ ∃ (d : _), s.sap.drain = some d ∧ s.sap.state = .draining) ∧
    (∃ s : State, s.sap.awake = true ∧ s.crown.running = true) ∧
    (∃ s : State, (s.sap.awake = true ∨ s.sap.waking = true) ∧ s.svc.test = none) ∧
    (∃ s : State, s.sap.awake = false ∧ s.sap.waking = false ∧ s.stage ∉ [.unpowered, .stage0]) ∧
    (∃ s : State, s.crown.running = true ∧ ∃ caps : List Nat, caps.length = 14 ∧ 0 ∉ caps) ∧
    (∃ (s : State), s.sap.state = .precharge ∧ s.power.rails[10].state = .softStart ∧ s.mayEnable = true) ∧
    (∃ (s : State), s.sap.state = .precharge ∧ s.sap.swAClosing = true ∧ s.mayEnable = true) :=
  ⟨⟨(sts.getD 1 State.reset), (by decide +kernel)⟩,
    ⟨(sts.getD 0 State.reset), (by decide +kernel)⟩,
    ⟨(sts.getD 0 State.reset), (by decide +kernel)⟩,
    ⟨(sts.getD 4 State.reset), (by decide +kernel)⟩,
    ⟨(sts.getD 6 State.reset), (wit_some (by decide +kernel) (by decide +kernel))⟩,
    ⟨(sts.getD 7 State.reset), ⟨(by decide +kernel), (wit_some (by decide +kernel) (by decide +kernel))⟩⟩,
    ⟨(sts.getD 0 State.reset), (by decide +kernel)⟩,
    ⟨(sts.getD 0 State.reset), (by decide +kernel)⟩,
    ⟨(sts.getD 9 State.reset), (by decide +kernel)⟩,
    ⟨(sts.getD 0 State.reset), ⟨(by decide +kernel), ⟨([2500, 2500, 2500, 2500, 2500, 2500, 2500, 2500, 2500, 2500, 2500, 2500, 2500, 2500]), (by decide +kernel)⟩⟩⟩,
    ⟨sts.getD 2 State.reset, by decide +kernel⟩,
    ⟨sts.getD 3 State.reset, by decide +kernel⟩⟩

end W60

namespace W61

def st (f : Store → Store) (s : State) : State := { s with sap := f s.sap }
def S0a : State := { B.svc with sap := { B.svc.sap with baseline := List.replicate 14 3600, sumOk := true, sumWas := true, cells := Vector.ofFn (fun k => { Cell.reset with mv := 3600 + k.val, valid := true, eligible := decide (k.val % 3 ≠ 0) }) } }
def S0b : State := { B.svc with sap := { B.svc.sap with fresh := false, baseline := List.replicate 14 3600, sumOk := true, sumWas := true, cells := Vector.ofFn (fun k => { Cell.reset with mv := 3600 + k.val, valid := true, eligible := decide (k.val % 3 ≠ 0) }) } }
def iso (S0 : State) : State := st (fun x => { x with state := .isolated, following := false }) { S0 with hwd := { S0.hwd with swA := false, swB := false } }
def pre (S0 : State) : State := { st (fun x => { x with state := .precharge }) (iso S0) with hwd := { (iso S0).hwd with precharge := true }, power := { (iso S0).power with rails := (iso S0).power.rails.set 10 { Rail.reset with state := .softStart, enabled := true, attempts := 1 } } }
def dr (f r l : Bool) : Drain := { fromLocked := f, lockArose := l, returning := r, watts := 0, slope := 0 }
def big (S0 : State) : State := st (fun x => { x with slotsDone := 2, oddFirst := true, baseline := (List.range 14).map (fun k => 3000 + 40 * k), stackMv := 45000 }) S0
def mk (S0 : State) : List State := [S0, (iso S0), (big S0), st (fun x => { x with slotsDone := 3 }) (big S0), st (fun x => { x with cells := Vector.replicate 14 { Cell.reset with mv := 3600, valid := true } }) S0, st (fun x => { x with sumFails := 2, lockout := none }) S0, st (fun x => { x with sumFails := 2, lockout := none }) (iso S0), st (fun x => { x with checkNext := true }) S0, st (fun x => { x with scans := 99 }) S0, st (fun x => { x with waking := true, awake := false, checkNext := true, scans := 98 }) (iso S0),
  st (fun x => { x with check := true, suspect := true, cells := x.cells.map (fun c => { c with held := true }) }) S0, st (fun x => { x with check := true, sumOk := false }) S0, st (fun x => { x with check := true }) (iso S0), st (fun x => { x with check := true, baseline := (List.replicate 13 3600) ++ [4100] }) S0, st (fun x => { x with check := true, baseline := (List.replicate 13 3600) ++ [4100] }) (iso S0), st (fun x => { x with openTap := 3, check := true }) (iso S0), st (fun x => { x with chargeBlocked := true, testDue := true }) S0]
def sts : List State := mk S0a ++ mk S0b
def rd (l : List Nat) (n : Nat) : CellReadings := { cells := l, stack := n, temps := [20, 21, 22, 23] }
def tk (a b c : Nat) : SwitchTest := { shuttleMa := a, deltaMv := b, tapUa := c }

theorem witness_StoreScansClassifyAndBalance :
    (∃ s : State, (s.sap.awake = true ∨ s.sap.waking = true)) ∧
    (∃ s : State, s.sap.awake = true ∧ ∃ rd : CellReadings, rd.cells.length = 14 ∧ s.sap.openTap = 0 ∧ (∀ k : Fin 14, s.sap.cells[k].inPair = false) ∧ (rd.cells.sum : Int) - rd.stack ≤ 150 ∧ (rd.stack : Int) - rd.cells.sum ≤ 150) ∧
    (∃ s : State, s.sap.awake = true ∧ ∃ rd : CellReadings, rd.cells.length = 14 ∧ 150 < ((rd.cells.sum : Int) - rd.stack).natAbs ∧ 2 ≤ s.sap.sumFails ∧ s.sap.lockout = none ∧ s.sap.state ≠ .draining) ∧
    (∃ s : State, s.sap.awake = true ∧ s.svc.test = none ∧ ∃ res : List SwitchTest, res.length = 14 ∧ (s.sap.check = true ∨ s.sap.suspect = true)) ∧
    (∃ s : State, s.sap.awake = true ∧ s.svc.test = none ∧ ∃ res : List SwitchTest, res.length = 14 ∧ s.sap.check = false ∧ s.sap.suspect = false) ∧
    (∃ (s : State), s.sap.converting = true) ∧
    (∃ (s : State), ∃ odd, s.sap.awake = true ∧ s.sap.check = false ∧ s.sap.converting = false ∧ s.sap.slotsDone < 7 ∧ odd = (s.sap.oddFirst == (s.sap.slotsDone % 2 == 0))) ∧
    (∃ (s : State), ∃ odd, s.sap.awake = true ∧ s.sap.check = false ∧ s.sap.converting = false ∧ s.sap.slotsDone < 7 ∧ odd ≠ (s.sap.oddFirst == (s.sap.slotsDone % 2 == 0))) ∧
    (∃ (s : State), ∃ (rd : CellReadings), s.sap.awake = true ∧ s.sap.waking = false ∧ s.sap.check = true ∧ s.sap.converting = false ∧ s.sap.fresh = false ∧ s.svc.test = none ∧ rd.cells.length = 14 ∧ s.sap.baseline.length = 14 ∧ let ok : Prop := s.sap.sumOk = true ∧ (s.sap.sumWas = true ∨ s.sap.recheck = true); ¬ ok) ∧
    (∃ (s : State), ∃ (rd : CellReadings), s.sap.awake = true ∧ s.sap.waking = false ∧ s.sap.check = true ∧ s.sap.converting = false ∧ s.sap.fresh = false ∧ s.svc.test = none ∧ rd.cells.length = 14 ∧ s.sap.baseline.length = 14 ∧ let taps := openTaps s.sap.baseline rd.cells; let ok : Prop := s.sap.sumOk = true ∧ (s.sap.sumWas = true ∨ s.sap.recheck = true); ok ∧ taps = [] ∧ (∀ k : Fin 14, s.sap.outside s.sap.baseline k = false)) ∧
    (∃ (s : State), ∃ (rd : CellReadings), s.sap.awake = true ∧ s.sap.waking = false ∧ s.sap.check = true ∧ s.sap.converting = false ∧ s.sap.fresh = false ∧ s.svc.test = none ∧ rd.cells.length = 14 ∧ s.sap.baseline.length = 14 ∧ let taps := openTaps s.sap.baseline rd.cells; let ok : Prop := s.sap.sumOk = true ∧ (s.sap.sumWas = true ∨ s.sap.recheck = true); ok ∧ ∃ k, taps = [k] ∧ s.sap.openTap = 0 ∧ k ∉ s.sap.tapsFound ∧ s.sap.state = .isolated) ∧
    (∃ (s : State), ∃ (rd : CellReadings), s.sap.awake = true ∧ s.sap.waking = false ∧ s.sap.check = true ∧ s.sap.converting = false ∧ s.sap.fresh = false ∧ s.svc.test = none ∧ rd.cells.length = 14 ∧ s.sap.baseline.length = 14 ∧ let taps := openTaps s.sap.baseline rd.cells; let ok : Prop := s.sap.sumOk = true ∧ (s.sap.sumWas = true ∨ s.sap.recheck = true); ok ∧ taps = [] ∧ (∃ k : Fin 14, s.sap.outside s.sap.baseline k = true) ∧ s.sap.lockout = none ∧ s.sap.state ≠ .draining) :=
  ⟨⟨(sts.getD 0 State.reset), (by decide +kernel)⟩,
    ⟨(sts.getD 0 State.reset), ⟨(by decide +kernel), ⟨({ cells := [3600, 3600, 3600, 3600, 3600, 3600, 3600, 3600, 3600, 3600, 3600, 3600, 3600, 3600], stack := 50400, temps := [20, 21, 22, 23] }), (by decide +kernel)⟩⟩⟩,
    ⟨(sts.getD 5 State.reset), ⟨(by decide +kernel), ⟨({ cells := [3600, 3600, 3600, 3600, 3600, 3600, 3600, 3600, 3600, 3600, 3600, 3600, 3600, 3600], stack := 50000, temps := [20, 21, 22, 23] }), (by decide +kernel)⟩⟩⟩,
    ⟨(sts.getD 10 State.reset), ⟨(by decide +kernel), ⟨(by decide +kernel), ⟨([{ shuttleMa := 500, deltaMv := 5, tapUa := 10 }, { shuttleMa := 500, deltaMv := 5, tapUa := 10 }, { shuttleMa := 500, deltaMv := 5, tapUa := 10 }, { shuttleMa := 500, deltaMv := 5, tapUa := 10 }, { shuttleMa := 500, deltaMv := 5, tapUa := 10 }, { shuttleMa := 500, deltaMv := 5, tapUa := 10 }, { shuttleMa := 500, deltaMv := 5, tapUa := 10 }, { shuttleMa := 500, deltaMv := 5, tapUa := 10 }, { shuttleMa := 500, deltaMv := 5, tapUa := 10 }, { shuttleMa := 500, deltaMv := 5, tapUa := 10 }, { shuttleMa := 500, deltaMv := 5, tapUa := 10 }, { shuttleMa := 500, deltaMv := 5, tapUa := 10 }, { shuttleMa := 500, deltaMv := 5, tapUa := 10 }, { shuttleMa := 500, deltaMv := 5, tapUa := 10 }]), (by decide +kernel)⟩⟩⟩⟩,
    ⟨(sts.getD 0 State.reset), ⟨(by decide +kernel), ⟨(by decide +kernel), ⟨([{ shuttleMa := 500, deltaMv := 5, tapUa := 10 }, { shuttleMa := 500, deltaMv := 5, tapUa := 10 }, { shuttleMa := 500, deltaMv := 5, tapUa := 10 }, { shuttleMa := 500, deltaMv := 5, tapUa := 10 }, { shuttleMa := 500, deltaMv := 5, tapUa := 10 }, { shuttleMa := 500, deltaMv := 5, tapUa := 10 }, { shuttleMa := 500, deltaMv := 5, tapUa := 10 }, { shuttleMa := 500, deltaMv := 5, tapUa := 10 }, { shuttleMa := 500, deltaMv := 5, tapUa := 10 }, { shuttleMa := 500, deltaMv := 5, tapUa := 10 }, { shuttleMa := 500, deltaMv := 5, tapUa := 10 }, { shuttleMa := 500, deltaMv := 5, tapUa := 10 }, { shuttleMa := 500, deltaMv := 5, tapUa := 10 }, { shuttleMa := 500, deltaMv := 5, tapUa := 10 }]), (by decide +kernel)⟩⟩⟩⟩,
    ⟨st (fun x => { x with converting := true }) (sts.getD 0 State.reset), by decide +kernel⟩,
    ⟨sts.getD 0 State.reset, false, by decide +kernel⟩,
    ⟨sts.getD 0 State.reset, true, by decide +kernel⟩,
    ⟨sts.getD 28 State.reset, { cells := [3600, 3600, 3600, 3600, 3600, 3600, 3600, 3600, 3600, 3600, 3600, 3600, 3600, 3600], stack := 50400, temps := [20, 21, 22, 23] }, by decide +kernel⟩,
    ⟨sts.getD 27 State.reset, { cells := [3600, 3600, 3600, 3600, 3600, 3600, 3600, 3600, 3600, 3600, 3600, 3600, 3600, 3600], stack := 50400, temps := [20, 21, 22, 23] }, by decide +kernel⟩,
    ⟨sts.getD 29 State.reset, { cells := [3600, 3600, 3600, 3600, 3600, 3900, 3300, 3600, 3600, 3600, 3600, 3600, 3600, 3600], stack := 50400, temps := [20, 21, 22, 23] }, by decide +kernel, by decide +kernel, by decide +kernel, by decide +kernel, ⟨by decide +kernel, by decide +kernel, by decide +kernel, by decide +kernel, by decide +kernel, 6, by decide +kernel⟩⟩,
    ⟨sts.getD 30 State.reset, { cells := [3600, 3600, 3600, 3600, 3600, 3600, 3600, 3600, 3600, 3600, 3600, 3600, 3600, 3600], stack := 50400, temps := [20, 21, 22, 23] }, by decide +kernel, by decide +kernel, by decide +kernel, by decide +kernel, ⟨by decide +kernel, by decide +kernel, by decide +kernel, by decide +kernel, by decide +kernel, by decide +kernel, ⟨13, by decide +kernel⟩, by decide +kernel⟩⟩⟩

end W61

namespace W62a

def mm : Machine.Match := { sender := 3, point := 2, until_ := some 5, applied := true }
def sts : List State :=
  let s := B.svc
  [s, { s with stage := .entry }, { s with crown := { s.crown with running := false } },
   { s with budget := { s.budget with margin := #v[some 10, some 30, some 50, some 90], trim := #v[0, 30, 29, -30], above8 := #v[0, 3, 7, 9], top := #v[7,7,6,5] } },
   { s with budget := { s.budget with margin := #v[some 10, some 15, some 50, some 90], trim := #v[30, 30, 29, 0], above8 := #v[0, 3, 7, 9], top := #v[6,7,6,5], source := 3, lost := #v[true,true], lingering := #v[true,true,true,true], deferred := some (#v[some 3, none, some 7, some 0], 1), matches_ := [mm] } },
   { s with budget := { s.budget with deferred := some (#v[some 3, none, some 7, some 0], 1), hold := true, waiting := some (2500, 1, 1) }, le := { s.le with route := 2, ballast := 900 }, hwd := { s.hwd with holdReq := true } },
   { s with budget := { s.budget with coldRuns := #v[9, 10, 11, 0], tceil := #v[3,6,7,0], hold := true }, le := { s.le with route := 2, ballast := -5, phase := .recovery }, mem := { s.mem with band := (s.mem.band.set 0 4).set 10 2 } },
   { s with stage := .quiescing, budget := { s.budget with quiesce := some .draining }, ports := s.ports.set 3 { s.ports[3] with state := .active } },
   { s with stage := .quiescing, budget := { s.budget with quiesce := some .flushing }, ports := s.ports.set 3 { s.ports[3] with state := .active } },
   { s with stage := .quiescing, start := { s.start with restarting := true }, budget := { s.budget with quiesce := some .flushing }, ports := s.ports.set 3 { s.ports[3] with state := .active } }]

theorem witness_BudgetEvaluatesTrimsAndExpires :
    (∃ s : State, s.crown.running = true) ∧
    (∃ (s : State) (d : Fin 4), s.hq.launches.any (fun l => l.onDie d) = false) ∧
    (∃ s : State, s.crown.running = true ∧ ∃ d : Fin 4, (s.power.cores[d].slewing = false ∨ s.power.cores[d].trimSlew = true) ∧ ∃ m : Int, s.budget.margin[d] = some m) ∧
    (∃ s : State, s.crown.running = true ∧ s.budget.source ≠ 0 ∧ s.budget.source ≠ 4 ∧ (s.budget.source = 1 ∨ (s.budget.lost[0] && s.budget.lost[1]) = true)) ∧
    (∃ (s : State) (caps cause : _), s.budget.deferred = some (caps, cause)) ∧
    (∃ s : State, s.budget.deferred = none) ∧
    (∃ (s : State) (i : Nat) (m : Match), s.budget.matches_[i]? = some m ∧ m.until_.isSome = true) ∧
    (∃ s : State, s.le.route = 2 ∧ s.crown.running = true) :=
  ⟨⟨(sts.getD 0 State.reset), (by decide +kernel)⟩,
    ⟨(sts.getD 0 State.reset), ⟨(0), (by decide +kernel)⟩⟩,
    ⟨(sts.getD 3 State.reset), ⟨(by decide +kernel), ⟨(0), ⟨(by decide +kernel), ⟨_, rfl⟩⟩⟩⟩⟩,
    ⟨(sts.getD 0 State.reset), (by decide +kernel)⟩,
    ⟨(sts.getD 4 State.reset), ⟨_, _, rfl⟩⟩,
    ⟨(sts.getD 0 State.reset), (by decide +kernel)⟩,
    ⟨(sts.getD 4 State.reset), ⟨(0), (wit_some (by decide +kernel) (by decide +kernel))⟩⟩,
    ⟨(sts.getD 5 State.reset), (by decide +kernel)⟩⟩

theorem witness_ThermalLoopHoldAndQuiesce :
    (∃ s : State, s.crown.running = true) ∧
    (∃ (s : State) (st : Fin 20), s.mem.band[st] = 4 ∧ s.crown.running = true ∧ s.stage = .stage3) ∧
    (∃ (s : State) (st : Fin 20), s.mem.band[st] ≠ 4) ∧
    (∃ s : State, s.budget.hold = false) ∧
    (∃ s : State, s.budget.hold = true ∧ s.stage = .stage3 ∧ s.hwd.inputClosed = true ∧ s.crown.running = true) ∧
    (∃ s : State, s.le.phase = .recovery ∧ s.stage = .stage3) ∧
    (∃ s : State, s.stage = .quiescing ∧ s.budget.quiesce = some .draining) ∧
    (∃ s : State, s.stage = .quiescing ∧ s.budget.quiesce = some .flushing) :=
  ⟨⟨(sts.getD 0 State.reset), (by decide +kernel)⟩,
    ⟨(sts.getD 6 State.reset), ⟨(0), (by decide +kernel)⟩⟩,
    ⟨(sts.getD 0 State.reset), ⟨(0), (by decide +kernel)⟩⟩,
    ⟨(sts.getD 0 State.reset), (by decide +kernel)⟩,
    ⟨(sts.getD 5 State.reset), (by decide +kernel)⟩,
    ⟨(sts.getD 6 State.reset), (by decide +kernel)⟩,
    ⟨(sts.getD 7 State.reset), (by decide +kernel)⟩,
    ⟨(sts.getD 8 State.reset), (by decide +kernel)⟩⟩

end W62a

namespace W63

def sts : List State :=
  let s := B.svc
  [s, { s with stage := .entry, sap := { s.sap with state := .isolated } }, { s with stage := .stage2, start := { s.start with abandoned := 2 } },
   { s with crown := { s.crown with running := false }, budget := { s.budget with hold := true }, sap := { s.sap with state := .precharge, awake := false } },
   { s with power := { s.power with rails := Vector.ofFn (fun k => { s.power.rails[k] with armed := false, enabled := decide (k ≠ 3) }), cores := s.power.cores.set 1 { s.power.cores[1] with forced := true } }, hwd := { s.hwd with freeze := true, holdReq := true, dip := true, brownout := true, limit := #v[[0x18], [0x01], [0x01, 0x03], []] } },
   { s with budget := { s.budget with deferred := some (#v[some 3, none, some 7, some 0], 1) }, svc := { s.svc with test := some (.trip [1] 0 true true) }, hwd := { s.hwd with holdReq := true }, log := { s.log with mode := .suspended } },
   { s with stage := .quiescing, sap := { s.sap with state := .isolated }, hwd := { s.hwd with dip := true, limit := #v[[0x18], [0x01], [0x01, 0x18], []] }, power := { s.power with cores := s.power.cores.map (fun c => { c with forced := true, pins := 0 }) } },
   { s with stage := .stage3, sap := { s.sap with state := .isolated }, hwd := { s.hwd with trips := 65535, limit := #v[[0x18, 0x18], [0x19], [0x01, 0x18], []] }, power := { s.power with cores := s.power.cores.map (fun c => { c with forced := true, pins := 0 }) } },
   { s with stage := .unpowered }, { s with stage := .quiesced, hwd := { s.hwd with freeze := true, brownout := true }, log := { s.log with mode := .suspended, resume := .full } }, { s with hwd := { s.hwd with freeze := true, inputClosed := false }, sap := { s.sap with cells := s.sap.cells.set 3 { s.sap.cells[3] with mv := 2400 } } } ]

theorem witness_TripsAreRecordedWithTheirOutcomes :
    (∃ s : State, s.hwdOn = true ∧ ∃ d : Fin 4, s.power.rails[coreRail d].armed = true) ∧
    (∃ s : State, s.hwdOn = true ∧ ∃ d : Fin 4, s.power.rails[coreRail d].armed = false) ∧
    (∃ s : State, s.hwdOn = true ∧ ∃ d : Fin 4, s.power.rails[linkRail d].armed = true) ∧
    (∃ s : State, s.hwdOn = true ∧ ∃ d : Fin 4, s.power.rails[linkRail d].armed = false) ∧
    (∃ s : State, s.hwdOn = true ∧ ∃ e ∈ [(Instr.vdramUndervoltageTrip, 0x08, (4 : Fin 11)), (.twelveVUndervoltage, 0x0A, 9)], s.power.rails[e.2.2].armed = true) ∧
    (∃ s : State, s.hwdOn = true ∧ ∃ e ∈ [(Instr.vdramUndervoltageTrip, 0x08, (4 : Fin 11)), (.twelveVUndervoltage, 0x0A, 9)], s.power.rails[e.2.2].armed = false) ∧
    (∃ s : State, s.hwdOn = true ∧ ∃ r : Fin 11, s.power.rails[r].enabled = true ∧ s.power.rails[r].armed = false) ∧
    (∃ (s : State), s.hwdOn = true ∧ (s.sap.awake = true ∨ s.sap.fell = true)) ∧
    (∃ (s : State), s.hwdOn = true ∧ s.sap.awake = false ∧ s.sap.fell = false) :=
  ⟨⟨(sts.getD 0 State.reset), ⟨(by decide +kernel), ⟨(0), (by decide +kernel)⟩⟩⟩,
    ⟨(sts.getD 4 State.reset), ⟨(by decide +kernel), ⟨(0), (by decide +kernel)⟩⟩⟩,
    ⟨(sts.getD 0 State.reset), ⟨(by decide +kernel), ⟨(0), (by decide +kernel)⟩⟩⟩,
    ⟨(sts.getD 4 State.reset), ⟨(by decide +kernel), ⟨(0), (by decide +kernel)⟩⟩⟩,
    ⟨(sts.getD 0 State.reset), ⟨(by decide +kernel), (wit_mem 0 (by decide +kernel) (by decide +kernel))⟩⟩,
    ⟨(sts.getD 4 State.reset), ⟨(by decide +kernel), (wit_mem 0 (by decide +kernel) (by decide +kernel))⟩⟩,
    ⟨(sts.getD 4 State.reset), ⟨(by decide +kernel), ⟨(0), (by decide +kernel)⟩⟩⟩,
    ⟨sts.getD 0 State.reset, by decide +kernel⟩,
    ⟨sts.getD 3 State.reset, by decide +kernel⟩⟩

theorem witness_StrobesDipsAndCeilings :
    (∃ s : State, s.hwdOn = true ∧ s.hwd.watch = true ∧ s.hwd.freeze = false) ∧
    (∃ s : State, s.hwdOn = true ∧ s.hwd.dip = false) ∧
    (∃ s : State, s.hwdOn = true ∧ s.hwd.dip = true) ∧
    (∃ s : State, s.hwdOn = true ∧ s.hwd.brownout = false) ∧
    (∃ s : State, s.stage ≠ .unpowered) ∧
    (∃ s : State, s.hwd.brownout = true) ∧
    (∃ s : State, s.crown.running = true ∧ s.hwdOn = true ∧ ∃ v : BitVec 16, let n := v.toNat; ∃ k : Fin 8, let ok : Prop := if k = 5 ∨ k = 7 then s.hwd.ceil[k] ≤ n else n ≤ s.hwd.ceil[k]; ok ∧ let lo : Nat := ([100, 600, 90, 50, 3800, 2250, 50000, 39500][k.val]?).getD 0; lo ≤ n ∧ let hi : Nat := ([600, 850, 110, 65, 3950, 2500, 53800, 45000][k.val]?).getD 0; n ≤ hi ∧ (k ≠ 5 ∨ (s.sap.state = .connected ∧ ∀ c : Fin 14, 2500 ≤ s.sap.cells[c].mv))) ∧
    (∃ s : State, s.crown.running = true ∧ s.hwdOn = true ∧ ∃ v : BitVec 16, let n := v.toNat; ∃ k : Fin 8, let ok : Prop := if k = 5 ∨ k = 7 then s.hwd.ceil[k] ≤ n else n ≤ s.hwd.ceil[k]; ok ∧ let lo : Nat := ([100, 600, 90, 50, 3800, 2250, 50000, 39500][k.val]?).getD 0; lo ≤ n ∧ let hi : Nat := ([600, 850, 110, 65, 3950, 2500, 53800, 45000][k.val]?).getD 0; n ≤ hi ∧ k = 5 ∧ s.sap.state ≠ .connected) ∧
    (∃ s : State, s.crown.running = true ∧ s.hwdOn = true ∧ ∃ k : Fin 8, let hi : Nat := ([600, 850, 110, 65, 3950, 2500, 53800, 45000][k.val]?).getD 0; let lo : Nat := ([100, 600, 90, 50, 3800, 2250, 50000, 39500][k.val]?).getD 0; ∃ v : BitVec 16, let n := v.toNat; let ok : Prop := if k = 5 ∨ k = 7 then s.hwd.ceil[k] ≤ n else n ≤ s.hwd.ceil[k]; (¬ ok ∨ n < lo ∨ hi < n)) ∧
    (∃ (s : State), ∃ (code : BitVec 8) (d : Fin 4), let stays : Prop := (code = 0x18 ∨ code = 0x19) ∧ (s.hwd.freeze = true ∨ (s.budget.hold = false ∧ s.hwd.busGood = false)); (code.toNat ∉ s.hwd.limit[d] ∨ stays)) ∧
    (∃ (s : State), ∃ (code : BitVec 8) (d : Fin 4), let stays : Prop := (code = 0x18 ∨ code = 0x19) ∧ (s.hwd.freeze = true ∨ (s.budget.hold = false ∧ s.hwd.busGood = false)); code.toNat ∈ s.hwd.limit[d] ∧ ¬ stays ∧ s.hwd.freeze = false) :=
  ⟨⟨(sts.getD 0 State.reset), (by decide +kernel)⟩,
    ⟨(sts.getD 0 State.reset), (by decide +kernel)⟩,
    ⟨(sts.getD 4 State.reset), (by decide +kernel)⟩,
    ⟨(sts.getD 0 State.reset), (by decide +kernel)⟩,
    ⟨(sts.getD 0 State.reset), (by decide +kernel)⟩,
    ⟨(sts.getD 4 State.reset), (by decide +kernel)⟩,
    ⟨(sts.getD 0 State.reset), ⟨(by decide +kernel), ⟨(by decide +kernel), ⟨(0x0064#16), ⟨(0), (by decide +kernel)⟩⟩⟩⟩⟩,
    ⟨(sts.getD 1 State.reset), ⟨(by decide +kernel), ⟨(by decide +kernel), ⟨(0x08ca#16), ⟨(5), (by decide +kernel)⟩⟩⟩⟩⟩,
    ⟨(sts.getD 0 State.reset), ⟨(by decide +kernel), ⟨(by decide +kernel), ⟨(0), ⟨(0x0000#16), (by decide +kernel)⟩⟩⟩⟩⟩,
    ⟨sts.getD 0 State.reset, 0x18#8, 0, by decide +kernel⟩,
    ⟨sts.getD 6 State.reset, 0x18#8, 0, by decide +kernel⟩⟩

end W63

namespace W64

def sts : List State :=
  let s := B.svc
  let r := State.reset
  let boot : State := { r with stage := .stage0, crown := { r.crown with pendingSlot := some 1, slots := #v[some { version := 1, svn := 3, digest := 0 }, some { version := 2, svn := 5, digest := 1 }], fused := 2 } }
  let en : State := { s with stage := .entry, start := { s.start with dies := #v[.done, .done, .done, .training] }, power := { s.power with rails := s.power.rails.set 3 Rail.reset } }
  [{ r with hwd := { r.hwd with prsA := true, prsB := true, startPath := true, savedHours := 77 }, crown := { r.crown with life := .service, fused := 4 }, sap := { r.sap with bleed := true } },
   { r with hwd := { r.hwd with startPath := true }, log := { r.log with flash := [1,2,3] }, crown := { r.crown with life := .deployed, owner := some 4 } },
   boot, { boot with crown := { boot.crown with fused := 4 } }, { boot with crown := { boot.crown with fused := 4, pendingSlot := none } }, { boot with crown := { boot.crown with fused := 7 } },
   { boot with stage := .stage1, budget := { boot.budget with trim := #v[10, -10, 30, 0] }, sap := { boot.sap with openTap := 3 }, crown := { boot.crown with notes := [.watchdog 0 1 2, .serviceEnd, .tamper .mesh] } },
   { boot with stage := .stage1, start := { boot.start with ran := true } },
   { s with stage := .stage1, start := { s.start with monitorDone := true }, power := Power.reset },
   { s with stage := .stage1, svc := { s.svc with held := true } },
   { s with stage := .stage2, start := { s.start with storeDone := true } }, { s with stage := .stage2, start := { s.start with storeDone := true, retry := true } },
   en, { en with start := { en.start with pendingKind := some 2 } }, { en with start := { en.start with dies := #v[.done, .rail, .waiting, .training] } },
   { en with start := { en.start with dies := #v[.locking, .done, .waiting, .waiting] }, power := { en.power with rails := en.power.rails.set 2 Rail.reset, cores := en.power.cores.map (fun c => { c with pins := 3, asked := 3 }) } },
   { en with start := { en.start with dies := #v[.locking, .done, .rail, .waiting] }, tiles := [(3, { Tile.fresh with pad := [(1, 2)] })] },
   s, { s with clk := { s.clk with refOk := false } }, { s with clk := { s.clk with pll := #v[true, false, true, false] } }, { s with stage := .quiesced } ]

theorem witness_StagesRunFromPowerOnToStageThree :
    (∃ s : State, s.hwd.prsA = true ∧ s.hwd.prsB = true) ∧
    (∃ s : State, s.stage = .unpowered ∧ s.hwd.startPath = true) ∧
    (∃ s : State, s.bootable = true) ∧
    (∃ s : State, s.bootable = false) ∧
    (∃ s : State, s.stage = .stage1 ∧ s.crown.running = true) ∧
    (∃ s : State, let ready : Prop := s.stage = .stage1 ∧ s.crown.running = true ∧ s.start.monitorDone = true ∧ s.hwd.settled = true ∧ s.svc.held = false ∧ s.crown.life ≠ .retired ∧ s.mayEnable = true; ready) ∧
    (∃ s : State, let ready : Prop := s.stage = .stage1 ∧ s.crown.running = true ∧ s.start.monitorDone = true ∧ s.hwd.settled = true ∧ s.svc.held = false ∧ s.crown.life ≠ .retired ∧ s.mayEnable = true; ¬ ready) ∧
    (∃ s : State, s.stage2Done = true) ∧
    (∃ s : State, s.stage = .entry ∧ ∃ d : Fin 4, s.start.dies[d] = .waiting ∧ (∀ k : Fin 4, k < d → s.start.dies[k] ≠ .waiting) ∧ s.power.rails[4].state = .on ∧ s.power.rails[linkRail d].state = .on ∧ s.hwd.dieOff[d] = false) ∧
    (∃ (s : State) (d : Fin 4), s.start.dies[d] = .locking ∧ s.clk.refOk = true) ∧
    (∃ (s : State) (d : Fin 4), s.clk.pll[d] = true) ∧
    (∃ s : State, s.stage ≠ .unpowered ∧ s.clk.refOk = true) ∧
    (∃ s : State, s.stage ≠ .unpowered ∧ s.clk.refOk = false) ∧
    (∃ (s : State), (s.stage2Done = false ∨ s.crown.lost = true)) ∧
    (∃ (s : State), ∃ d : Fin 4, ∃ r : BringupResult, s.stage = .entry ∧ s.start.dies[d] = .training ∧ (r.untrained ≠ [] ∨ r.failedStacks ≠ [])) ∧
    (∃ (s : State), ∃ d : Fin 4, ∃ r : BringupResult, s.stage = .entry ∧ s.start.dies[d] = .training ∧ r.untrained = [] ∧ r.failedStacks = [] ∧ r.marches = [] ∧ r.tiles = [] ∧ r.spares = [] ∧ r.edges = [] ∧ s.memBad .collective = false ∧ s.memBad .queue = false ∧ (∀ e : Fin 4, bits s.canopy.edgeStatus.toNat (2 * e.val + 1) (2 * e.val) ≤ 2) ∧ bits s.canopy.edgeStatus.toNat 19 16 = 0) ∧
    (∃ (s : State), s.stage = .stage0 ∧ s.hwd.fuseBad = false ∧ s.hwd.clockBad = false ∧ s.crown.dogs[s.crown.slot].length < 3) ∧
    (∃ (s : State), s.stage = .stage2 ∧ s.start.retry = true ∧ s.busBack = true ∧ s.crown.running = true ∧ s.mayEnable = true) ∧
    (∃ (s : State), (∃ m ∈ s.sram.marches, 7 ≤ m.mem)) :=
  ⟨⟨(sts.getD 0 State.reset), (by decide +kernel)⟩,
    ⟨(sts.getD 0 State.reset), (by decide +kernel)⟩,
    ⟨(sts.getD 6 State.reset), (by decide +kernel)⟩,
    ⟨(sts.getD 0 State.reset), (by decide +kernel)⟩,
    ⟨(sts.getD 8 State.reset), (by decide +kernel)⟩,
    ⟨(sts.getD 8 State.reset), (by decide +kernel)⟩,
    ⟨(sts.getD 0 State.reset), (by decide +kernel)⟩,
    ⟨(sts.getD 10 State.reset), (by decide +kernel)⟩,
    ⟨(sts.getD 14 State.reset), ⟨(by decide +kernel), ⟨(2), (by decide +kernel)⟩⟩⟩,
    ⟨(sts.getD 15 State.reset), ⟨(0), (by decide +kernel)⟩⟩,
    ⟨(sts.getD 8 State.reset), ⟨(0), (by decide +kernel)⟩⟩,
    ⟨(sts.getD 8 State.reset), (by decide +kernel)⟩,
    ⟨(sts.getD 2 State.reset), (by decide +kernel)⟩,
    ⟨sts.getD 0 State.reset, by decide +kernel⟩,
    ⟨sts.getD 12 State.reset, 3, { untrained := [15], failedStacks := [], marches := [], tiles := [], spares := [], edges := [], trunk := 100 }, by decide +kernel⟩,
    ⟨sts.getD 12 State.reset, 3, { untrained := [], failedStacks := [], marches := [], tiles := [], spares := [], edges := [], trunk := 100 }, by decide +kernel⟩,
    ⟨sts.getD 2 State.reset, by decide +kernel⟩,
    ⟨sts.getD 11 State.reset, by decide +kernel⟩,
    ⟨(let s := sts.getD 4 State.reset; { s with sram := { s.sram with marches := [{ mem := 7, inst := 0, transparent := false }] } }), by decide +kernel⟩⟩

end W64

namespace W65

def sts : List State :=
  let s := B.svc
  let c : State := { s with clk := { s.clk with refCount := 300000000 } }
  [s, { s with crown := { s.crown with running := false } }, { s with stage := .entry, start := { s.start with dies := Vector.replicate 4 .training } },
   { c with stage := .failed, budget := { s.budget with stopped := some .failedStart }, mem := { s.mem with dram := [(5, 6)] } },
   { c with stage := .failed, budget := { s.budget with stopped := some (.safe 0x02) } }, { c with stage := .failed, budget := { s.budget with stopped := some (.safe 0x07) } },
   { s with stage := .quiesced, budget := { s.budget with stopped := some .busLoss } }, { s with stage := .quiesced, budget := { s.budget with stopped := some .thermal } },
   { s with stage := .quiesced, budget := { s.budget with stopped := some .thermal, hot := true } },
   { s with sealed := true, power := { s.power with rails := (s.power.rails.set 3 { B.onRail 3 with state := .latched }).set 10 { Rail.reset with state := .latched } }, sap := { s.sap with state := .lockedOut, lockout := some .precharge } },
   { s with host := Vector.replicate 2 { HostPort.reset with up := true, d3hot := true } },
   { s with crown := { s.crown with trial := true, pendingSlot := some 1, dogs := #v[[1, 2, 3], []] }, hwd := { s.hwd with tampers := BitVec.allOnes 32 }, svc := { s.svc with test := some (.loop 0 true) } },
   { s with stage := .quiesced, regs := store (regReset clkCfg) [] (regKey .A clkCfg) 1, budget := { s.budget with stopped := some .busLoss } }, State.reset ]

theorem witness_RestartsReentriesAndSeals :
    (∃ (s : State) (fn : _), s.reaches fn = true ∧ s.mayReenter false = true) ∧
    (∃ (s : State) (fn : _), s.reaches fn = true ∧ s.mayReenter false = false) ∧
    (∃ (s : State) (fn : _), s.reaches fn = true ∧ s.sealed = false) ∧
    (∃ (s : State) (fn : _), s.reaches fn = true ∧ s.sealed = true) ∧
    (∃ (s : State) (fn : _), s.reaches fn = false) ∧
    (∃ s : State, let atConsole : Prop := s.svc.ready = true ∧ s.svc.test = none ∧ s.crown.running = true ∧ s.crown.life = .service; atConsole ∧ s.mayRestart = true) ∧
    (∃ s : State, let atConsole : Prop := s.svc.ready = true ∧ s.svc.test = none ∧ s.crown.running = true ∧ s.crown.life = .service; atConsole ∧ s.mayReenter true = true) ∧
    (∃ s : State, s.autoPending = true ∧ s.mayReenter false = true) ∧
    (∃ s : State, (s.autoPending = false ∨ s.mayReenter false = false)) ∧
    (∃ (s : State) (src : CmdSrc) (rails : BitVec 11), let atConsole : Prop := s.svc.ready = true ∧ s.svc.test = none ∧ s.crown.running = true ∧ s.crown.life = .service; (src = .console → atConsole ∧ rails ≠ 0) ∧ (∀ fn, src = .host fn → s.reaches fn = true)) ∧
    (∃ s : State, s.crown.running = true) ∧
    (∃ s : State, s.stage ≠ .unpowered ∧ s.stage ≠ .stage0) ∧
    (∃ (s : State), let twin (src : CmdSrc) : Prop := ∃ other, s.start.restartOf = some (other, s.clk.us) ∧ other ≠ src; ∃ fn, s.reaches fn = true ∧ twin (.host fn)) ∧
    (∃ (s : State), let twin (src : CmdSrc) : Prop := ∃ other, s.start.restartOf = some (other, s.clk.us) ∧ other ≠ src; ∃ fn, s.reaches fn = true ∧ ¬ twin (.host fn) ∧ s.mayRestart = true) ∧
    (∃ (s : State), let twin (src : CmdSrc) : Prop := ∃ other, s.start.restartOf = some (other, s.clk.us) ∧ other ≠ src; ∃ fn, s.reaches fn = true ∧ ¬ twin (.host fn) ∧ s.mayRestart = false) ∧
    (∃ (s : State), let atConsole : Prop := s.svc.ready = true ∧ s.svc.test = none ∧ s.crown.running = true ∧ s.crown.life = .service; let twin (src : CmdSrc) : Prop := ∃ other, s.start.restartOf = some (other, s.clk.us) ∧ other ≠ src; atConsole ∧ twin .console) ∧
    (∃ (s : State), let atConsole : Prop := s.svc.ready = true ∧ s.svc.test = none ∧ s.crown.running = true ∧ s.crown.life = .service; let twin (src : CmdSrc) : Prop := ∃ other, s.start.restartOf = some (other, s.clk.us) ∧ other ≠ src; atConsole ∧ ¬ twin .console ∧ s.mayRestart = true) ∧
    (∃ (s : State), let atConsole : Prop := s.svc.ready = true ∧ s.svc.test = none ∧ s.crown.running = true ∧ s.crown.life = .service; let twin (src : CmdSrc) : Prop := ∃ other, s.start.restartOf = some (other, s.clk.us) ∧ other ≠ src; atConsole ∧ ¬ twin .console ∧ s.mayRestart = false) ∧
    (∃ (s : State), let atConsole : Prop := s.svc.ready = true ∧ s.svc.test = none ∧ s.crown.running = true ∧ s.crown.life = .service; ∃ (src : CmdSrc) (rails : BitVec 11), (src = .console → atConsole ∧ ∃ r : Fin 10, rails = 1#11 <<< r.val) ∧ (∀ fn, src = .host fn → s.reaches fn = true)) ∧
    (∃ (s : State), let atConsole : Prop := s.svc.ready = true ∧ s.svc.test = none ∧ s.crown.running = true ∧ s.crown.life = .service; ∃ rails : BitVec 11, atConsole ∧ (∀ r : Fin 10, rails ≠ 1#11 <<< r.val)) :=
  ⟨⟨(sts.getD 6 State.reset), ⟨(Sys2Proof.Fn.A), (by decide +kernel)⟩⟩,
    ⟨(sts.getD 0 State.reset), ⟨(Sys2Proof.Fn.A), (by decide +kernel)⟩⟩,
    ⟨(sts.getD 0 State.reset), ⟨(Sys2Proof.Fn.A), (by decide +kernel)⟩⟩,
    ⟨(sts.getD 9 State.reset), ⟨(Sys2Proof.Fn.A), (by decide +kernel)⟩⟩,
    ⟨(sts.getD 10 State.reset), ⟨(Sys2Proof.Fn.A), (by decide +kernel)⟩⟩,
    ⟨(sts.getD 0 State.reset), (by decide +kernel)⟩,
    ⟨(sts.getD 3 State.reset), (by decide +kernel)⟩,
    ⟨(sts.getD 12 State.reset), (by decide +kernel)⟩,
    ⟨(sts.getD 0 State.reset), (by decide +kernel)⟩,
    ⟨(sts.getD 0 State.reset), ⟨(Sys2Proof.CmdSrc.console), ⟨(0x001#11), ⟨(by decide +kernel), (fun fn => match fn with | .A => (by decide +kernel) | .B => (by decide +kernel))⟩⟩⟩⟩,
    ⟨(sts.getD 0 State.reset), (by decide +kernel)⟩,
    ⟨(sts.getD 0 State.reset), (by decide +kernel)⟩,
    ⟨(let s := sts.getD 0 State.reset; { s with start := { s.start with restartOf := some (.console, s.clk.us) } }), .A, by decide +kernel, .console, by decide +kernel⟩,
    ⟨sts.getD 0 State.reset, .A, by decide +kernel, fun ⟨o, h, _⟩ => absurd (congrArg Option.isSome h) (by simp only [Option.isSome_some]; decide +kernel), by decide +kernel⟩,
    ⟨sts.getD 1 State.reset, .A, by decide +kernel, fun ⟨o, h, _⟩ => absurd (congrArg Option.isSome h) (by simp only [Option.isSome_some]; decide +kernel), by decide +kernel⟩,
    ⟨(let s := sts.getD 0 State.reset; { s with start := { s.start with restartOf := some (.host .B, s.clk.us) } }), by decide +kernel, .host .B, by decide +kernel⟩,
    ⟨sts.getD 0 State.reset, by decide +kernel, fun ⟨o, h, _⟩ => absurd (congrArg Option.isSome h) (by simp only [Option.isSome_some]; decide +kernel), by decide +kernel⟩,
    ⟨sts.getD 6 State.reset, by decide +kernel, fun ⟨o, h, _⟩ => absurd (congrArg Option.isSome h) (by simp only [Option.isSome_some]; decide +kernel), by decide +kernel⟩,
    ⟨sts.getD 0 State.reset, .console, 1#11, fun _ => ⟨by decide +kernel, 0, by decide +kernel⟩, fun fn => match fn with | .A => (by decide +kernel) | .B => (by decide +kernel)⟩,
    ⟨sts.getD 0 State.reset, 0x400#11, by decide +kernel, by decide +kernel⟩⟩

end W65

namespace W66

def msg (t : Nat) (len : Nat) (body : List Byte) : List Byte := [2, 0] ++ natLe 2 t ++ natLe 2 len ++ [0, 0] ++ natLe 4 77 ++ natLe 4 0 ++ body
def viaRing (s : State) (m : List Byte) : State := { s with rings := s.rings.set 0 { s.rings[0] with mode := .running, requests := [m, m] } }
def viaBox (s : State) (m : List Byte) : State := ({ s with rings := s.rings.set 1 { s.rings[1] with mboxBusy := true, held := [(1, 2, [])] } } : State).setMbox .B m
def ms : List (List Byte) := [msg 1 0 [], msg 1 4 [0,0,0,0], msg 2 0 [], msg 3 0 [], msg 0x10 8 (natLe 4 2500 ++ [1, 0, 0, 0]), msg 0x10 8 (natLe 4 250 ++ [1, 0, 0, 0]), msg 0x11 0 [],
  msg 0x20 13 (natLe 8 4096 ++ natLe 4 64 ++ [0,0,0,0,0]), msg 0x21 8 (natLe 8 9), msg 0x22 13 (natLe 8 4096 ++ natLe 4 64 ++ [0,0,0,0,0]), msg 0x22 16 (natLe 8 4096 ++ natLe 4 64 ++ [0,0,0,0]), msg 0x20 16 (natLe 8 4096 ++ natLe 4 64 ++ [0,0,0,0]),
  msg 0x30 40 ([2, 0x11] ++ natLe 2 40 ++ List.replicate 36 1), msg 0x30 40 (List.replicate 40 3), msg 0x8000 0 [], msg 0x77 0 [], msg 1 2000 [], msg 2 900 [], msg 0x40 900 [], msg 0x60 900 [], msg 0x52 900 []]
def sts : List State :=
  let s := B.svc
  let ss : List State := [s]
  (ms.flatMap (fun m => [viaRing s m, viaBox s m])) ++
  [{ s with rings := s.rings.set 0 { s.rings[0] with mode := .mismatch } }, { s with mem := { s.mem with dram := [(0, 0x17), (2, 0xC0), (3, 0xC4), (4, 4)] } },
   { s with crown := { s.crown with running := false } }, { s with host := Vector.replicate 2 HostPort.reset },
   { s with rings := s.rings.set 0 { s.rings[0] with mode := .running }, mem := { s.mem with dram := [(8, 3), (4096, 7)] } },
   { viaRing s (msg 0x10 8 (natLe 4 2500 ++ [1, 0, 0, 0])) with budget := { s.budget with hold := true } }, viaBox { s with stage := .stage2 } (msg 0x10 8 (natLe 4 2500 ++ [1, 0, 0, 0])),
   viaBox { s with stage := .quiescing } (msg 0x10 8 (natLe 4 2500 ++ [1, 0, 0, 0])), viaBox { s with regs := store (regReset pwrBudgetCfg) [] (regKey .A pwrBudgetCfg) 1 } (msg 0x10 8 (natLe 4 2500 ++ [1, 0, 0, 0])),
   { viaRing s (msg 0x11 0 []) with le := { s.le with ok := false } } ]
def b0 : Blocks := { kind := 1, groups0 := 1, groups1 := 0, coordinator := 0, roles := [], twins := [], sets := [], copyMode := 0, interval := 0, ranges := [] }
/-- Canonical blocks at address 4096: a topology body of one byte, and four empty bodies. -/
def canon : Keyed Byte := [(4096, 2), (4097, 1), (4100, 1), (4104, 9), (4105, 2), (4106, 2), (4113, 2), (4114, 3), (4121, 2), (4122, 4), (4129, 2), (4130, 5)]
def said (kind : Nat) : Blocks := { kind := kind, groups0 := 1, groups1 := 0, coordinator := 0, roles := [], twins := [], sets := [], copyMode := 0, interval := 0, ranges := [] }
def sts2 : List State :=
  let s := B.svc
  let st : Staged := { epoch := 3, digest := 4, blocks := b0 }
  sts ++ [viaBox { s with fleet := { s.fleet with blocks := some b0, staged := some st } } (msg 0x21 8 (natLe 8 9)), viaBox { s with fleet := { s.fleet with blocks := some { b0 with coordinator := 5 }, staged := some st } } (msg 0x21 8 (natLe 8 9)),
    viaBox { s with fleet := { s.fleet with blocks := some { b0 with coordinator := 5, roles := [(0, 1)] }, staged := some st } } (msg 0x22 16 (natLe 8 4096 ++ natLe 4 64 ++ [0,0,0,0])),
    viaRing { s with mem := { s.mem with dram := canon } } (msg 0x20 13 (natLe 8 4096 ++ natLe 4 41 ++ [0,0,0,0,0])), viaRing { s with mem := { s.mem with dram := canon } } (msg 0x22 13 (natLe 8 4096 ++ natLe 4 41 ++ [0,0,0,0,0]))]

theorem witness_RingsAndMailboxesAnswerRequests :
    (∃ (s : State) (fn : _), s.reaches fn = false) ∧
    (∃ (s : State) (fn : _), s.reaches fn = true ∧ s.rings[fnIdx fn].mode = .stopped ∧ s.crown.running = true ∧ s.deviceReady = true) ∧
    (∃ (s : State) (fn : _), s.reaches fn = true ∧ s.rings[fnIdx fn].mode ≠ .stopped) ∧
    (∃ (s : State) (fn : _), s.reaches fn = true ∧ s.rings[fnIdx fn].mboxBusy = false ∧ s.crown.running = true) ∧
    (∃ (s : State) (fn : _), s.reaches fn = true ∧ s.rings[fnIdx fn].mboxBusy = true) ∧
    (∃ s : State, s.crown.running = true ∧ ∃ e : SramErr, fatalSram e = true) ∧
    (∃ (s : State) (src : MsgSrc) (m : List Byte), s.requestOf src = some m ∧ msgType m ∉ requestTypes) ∧
    (∃ (s : State) (src : MsgSrc) (m : List Byte), s.requestOf src = some m ∧ msgType m ∈ requestTypes) ∧
    (∃ (s : State) (src : MsgSrc) (m : List Byte), s.requestOf src = some m ∧ ∃ e ∈ [(Instr.getStatus src, 0x0001), (.getNonce src, 0x0002), (.getEvents src, 0x0003), (.setShare src, 0x0010), (.hostEpochPropose src, 0x0021), (.lease src, 0x0030), (.imageLoad src, 0x0040), (.imageActivate src, 0x0041), (.imageConfirm src, 0x0042), (.deploy src, 0x0051), (.endService (.msg src), 0x0052), (.logRead src, 0x0060)], msgType m ≠ e.2) ∧
    (∃ (s : State) (fn : Fn) (m : List Byte), s.asks (.mbox fn) 0x0001 m ∧ bodyGood m 0 = true) ∧
    (∃ (s : State) (src : MsgSrc) (m : List Byte), s.asks src 0x0001 m ∧ bodyGood m 0 = true) ∧
    (∃ (s : State) (src : MsgSrc) (m : List Byte), s.asks src 0x0002 m ∧ bodyGood m 0 = true) ∧
    (∃ (s : State) (src : MsgSrc) (m : List Byte), s.asks src 0x0003 m ∧ bodyGood m 0 = true) ∧
    (∃ (s : State) (src : MsgSrc) (m : List Byte), s.asks src 0x0010 m ∧ bodyGood m 8 = true ∧ let k := tfield m 20 1; let w := tfield m 16 4; (w < 500 ∨ 5000 < w ∨ 2 < k ∨ tfield m 21 1 ≠ 0)) ∧
    (∃ (s : State) (src : MsgSrc) (m : List Byte), s.asks src 0x0010 m ∧ bodyGood m 8 = true ∧ let w := tfield m 16 4; 500 ≤ w ∧ w ≤ 5000 ∧ let k := tfield m 20 1; k ≤ 2 ∧ tfield m 21 1 = 0 ∧ s.legacy = true) ∧
    (∃ (s : State) (src : MsgSrc) (m : List Byte), s.asks src 0x0010 m ∧ bodyGood m 8 = true ∧ let w := tfield m 16 4; 500 ≤ w ∧ w ≤ 5000 ∧ let k := tfield m 20 1; k ≤ 2 ∧ tfield m 21 1 = 0 ∧ s.legacy = false) ∧
    (∃ (s : State) (src : MsgSrc) (m : List Byte), s.asks src 0x0011 m ∧ s.le.ok = false) ∧
    (∃ (s : State) (src : MsgSrc) (m : List Byte), s.asks src 0x0011 m ∧ s.le.ok = true ∧ ∃ (n : Fin 4) (a : LeAction), s.actionListed n a = false) ∧
    (∃ (s : State) (src : MsgSrc) (m : List Byte), s.asks src 0x0011 m ∧ s.le.ok = true ∧ ∃ (n : Fin 4) (a : LeAction), s.actionListed n a = true) ∧
    (∃ (s : State) (src : MsgSrc) (m : List Byte), s.asks src 0x0021 m ∧ bodyGood m 8 = true ∧ s.poll .coordinator = none ∧ ∃ (c : _), s.fleet.staged = some c ∧ s.coordinates = true) ∧
    (∃ (s : State) (src : MsgSrc) (m : List Byte), s.asks src 0x0021 m ∧ bodyGood m 8 = true ∧ s.poll .coordinator = none ∧ (s.fleet.staged = none ∨ s.coordinates = false)) ∧
    (∃ (s : State) (src : MsgSrc) (m : List Byte), s.asks src 0x0030 m ∧ bodyGood m 40 = true ∧ let l := (msgBody m).take 40; leaseGood l = false) ∧
    (∃ (s : State) (src : MsgSrc) (m : List Byte), s.asks src 0x0030 m ∧ bodyGood m 40 = true ∧ let l := (msgBody m).take 40; leaseGood l = true ∧ mDst l ≠ s.myId) ∧
    (∃ (s : State), ∃ (src : MsgSrc) (m : List Byte), ∃ (b : List Byte) (u : State) (said : Blocks), s.asksBuffer src 0x0020 m b u ∧ ∃ k, blocksIn b said = some k) ∧
    (∃ (s : State), ∃ (src : MsgSrc) (m : List Byte), ∃ (b : List Byte) (u : State) (said : Blocks), s.asksBuffer src 0x0020 m b u ∧ blocksIn b said = none) ∧
    (∃ (s : State), ∃ (src : MsgSrc) (m : List Byte), ∃ (b : List Byte) (u : State) (said : Blocks), s.asksBuffer src 0x0022 m b u ∧ u.roleAbsent = true ∧ ∃ k, blocksIn b said = some k) ∧
    (∃ (s : State), ∃ (src : MsgSrc) (m : List Byte), ∃ (b : List Byte) (u : State) (said : Blocks), s.asksBuffer src 0x0022 m b u ∧ (u.roleAbsent = false ∨ blocksIn b said = none)) ∧
    (∃ (s : State), ∃ (src : MsgSrc) (m : List Byte), s.requestOf src = some m ∧ ∃ e, e ∈ [(Instr.getStatus src, 0x0001), (.getNonce src, 0x0002), (.getEvents src, 0x0003), (.setShare src, 0x0010), (.hostEpochPropose src, 0x0021), (.lease src, 0x0030), (.imageLoad src, 0x0040), (.imageActivate src, 0x0041), (.imageConfirm src, 0x0042), (.deploy src, 0x0051), (.endService (.msg src), 0x0052), (.logRead src, 0x0060)] ∧ msgType m = e.2 ∧ headerGood src m = false ∧ (s.hwd.brownout = false ∨ e.2 ≠ 0x0040)) ∧
    (∃ (s : State), ∃ fn, ∃ e : SramErr, s.crown.running = true ∧ e.kind = .none ∧ s.ringUp fn = true ∧ s.rings[fnIdx fn].stopping = false ∧ s.rings[fnIdx fn].replies = [] ∧ s.rings[fnIdx fn].due = [] ∧ let view := s.ringView fn; let base := s.ringBase fn; s.rangeOpen view base 64 = false) ∧
    (∃ (s : State), ∃ fn, ∃ e : SramErr, s.crown.running = true ∧ e.kind = .none ∧ s.ringUp fn = true ∧ s.rings[fnIdx fn].stopping = false ∧ s.rings[fnIdx fn].replies = [] ∧ s.rings[fnIdx fn].due = [] ∧ let view := s.ringView fn; let base := s.ringBase fn; s.rangeOpen view base 64 = true) ∧
    (∃ (s : State), ∃ (src : MsgSrc) (m : List Byte), s.asks src 0x0011 m ∧ ∃ k : Nat, 4 ≤ k ∧ s.le.ok = true) :=
  ⟨⟨(sts2.getD 45 State.reset), ⟨(Sys2Proof.Fn.A), (by decide +kernel)⟩⟩,
    ⟨(sts2.getD 0 State.reset), ⟨(Sys2Proof.Fn.B), (by decide +kernel)⟩⟩,
    ⟨(sts2.getD 0 State.reset), ⟨(Sys2Proof.Fn.A), (by decide +kernel)⟩⟩,
    ⟨(sts2.getD 0 State.reset), ⟨(Sys2Proof.Fn.A), (by decide +kernel)⟩⟩,
    ⟨(sts2.getD 1 State.reset), ⟨(Sys2Proof.Fn.B), (by decide +kernel)⟩⟩,
    ⟨(sts2.getD 0 State.reset), ⟨(by decide +kernel), ⟨({ kind := Sys2Proof.EccErr.uncorrectable, bank := 0x0000#16, row := 0x0000#16 }), (by decide +kernel)⟩⟩⟩,
    ⟨(sts2.getD 28 State.reset), ⟨(Sys2Proof.MsgSrc.ring (Sys2Proof.Fn.A)), (wit_some (by decide +kernel) (by decide +kernel))⟩⟩,
    ⟨(sts2.getD 0 State.reset), ⟨(Sys2Proof.MsgSrc.ring (Sys2Proof.Fn.A)), (wit_some (by decide +kernel) (by decide +kernel))⟩⟩,
    ⟨(sts2.getD 0 State.reset), ⟨(Sys2Proof.MsgSrc.ring (Sys2Proof.Fn.A)), (wit_some (by decide +kernel) (wit_mem 1 (by decide +kernel) (by decide +kernel)))⟩⟩,
    ⟨(sts2.getD 1 State.reset), ⟨(Sys2Proof.Fn.B), (wit_asks (by decide +kernel) (by decide +kernel) (by decide +kernel))⟩⟩,
    ⟨(sts2.getD 0 State.reset), ⟨(Sys2Proof.MsgSrc.ring (Sys2Proof.Fn.A)), (wit_asks (by decide +kernel) (by decide +kernel) (by decide +kernel))⟩⟩,
    ⟨(sts2.getD 4 State.reset), ⟨(Sys2Proof.MsgSrc.ring (Sys2Proof.Fn.A)), (wit_asks (by decide +kernel) (by decide +kernel) (by decide +kernel))⟩⟩,
    ⟨(sts2.getD 6 State.reset), ⟨(Sys2Proof.MsgSrc.ring (Sys2Proof.Fn.A)), (wit_asks (by decide +kernel) (by decide +kernel) (by decide +kernel))⟩⟩,
    ⟨(sts2.getD 10 State.reset), ⟨(Sys2Proof.MsgSrc.ring (Sys2Proof.Fn.A)), (wit_asks (by decide +kernel) (by decide +kernel) (by decide +kernel))⟩⟩,
    ⟨(sts2.getD 50 State.reset), ⟨(Sys2Proof.MsgSrc.mbox (Sys2Proof.Fn.B)), (wit_asks (by decide +kernel) (by decide +kernel) (by decide +kernel))⟩⟩,
    ⟨(sts2.getD 8 State.reset), ⟨(Sys2Proof.MsgSrc.ring (Sys2Proof.Fn.A)), (wit_asks (by decide +kernel) (by decide +kernel) (by decide +kernel))⟩⟩,
    ⟨(sts2.getD 51 State.reset), ⟨(Sys2Proof.MsgSrc.ring (Sys2Proof.Fn.A)), (wit_asks (by decide +kernel) (by decide +kernel) (by decide +kernel))⟩⟩,
    ⟨(sts2.getD 12 State.reset), ⟨(Sys2Proof.MsgSrc.ring (Sys2Proof.Fn.A)), (wit_asks (by decide +kernel) (by decide +kernel) ⟨(by decide +kernel), ⟨(0), ⟨(Sys2Proof.LeAction.inject { slot := 2, point := Sys2Proof.InjPoint.output, wave := Sys2Proof.Waveform.step, amp := { mant := 0x00000#18, exp := 0x00#6 }, duration := 90000 }), (by decide +kernel)⟩⟩⟩)⟩⟩,
    ⟨(sts2.getD 12 State.reset), ⟨(Sys2Proof.MsgSrc.ring (Sys2Proof.Fn.A)), (wit_asks (by decide +kernel) (by decide +kernel) ⟨(by decide +kernel), ⟨(0), ⟨(Sys2Proof.LeAction.off), (by decide +kernel)⟩⟩⟩)⟩⟩,
    ⟨(sts2.getD 52 State.reset), ⟨(Sys2Proof.MsgSrc.mbox (Sys2Proof.Fn.B)), (wit_asks (by decide +kernel) (by decide +kernel) ⟨(by decide +kernel), ⟨(by decide +kernel), (wit_some (by decide +kernel) (by decide +kernel))⟩⟩)⟩⟩,
    ⟨(sts2.getD 16 State.reset), ⟨(Sys2Proof.MsgSrc.ring (Sys2Proof.Fn.A)), (wit_asks (by decide +kernel) (by decide +kernel) (by decide +kernel))⟩⟩,
    ⟨(sts2.getD 26 State.reset), ⟨(Sys2Proof.MsgSrc.ring (Sys2Proof.Fn.A)), (wit_asks (by decide +kernel) (by decide +kernel) (by decide +kernel))⟩⟩,
    ⟨(sts2.getD 24 State.reset), ⟨(Sys2Proof.MsgSrc.ring (Sys2Proof.Fn.A)), (wit_asks (by decide +kernel) (by decide +kernel) (by decide +kernel))⟩⟩,
    ⟨sts2.getD 55 State.reset, .ring .A, _, _, _, said 1, ⟨⟨rfl, by decide +kernel⟩, by decide +kernel, by decide +kernel, by decide +kernel, Prod.ext rfl (by decide +kernel), rfl⟩, _, rfl⟩,
    ⟨sts2.getD 14 State.reset, .ring .A, _, _, _, said 1, ⟨⟨rfl, by decide +kernel⟩, by decide +kernel, by decide +kernel, by decide +kernel, Prod.ext rfl (by decide +kernel), rfl⟩, by decide +kernel⟩,
    ⟨sts2.getD 56 State.reset, .ring .A, _, _, _, said 1, ⟨⟨rfl, by decide +kernel⟩, by decide +kernel, by decide +kernel, by decide +kernel, Prod.ext rfl (by decide +kernel), rfl⟩, by decide +kernel, _, rfl⟩,
    ⟨sts2.getD 18 State.reset, .ring .A, _, _, _, said 1, ⟨⟨rfl, by decide +kernel⟩, by decide +kernel, by decide +kernel, by decide +kernel, Prod.ext rfl (by decide +kernel), rfl⟩, by decide +kernel⟩,
    ⟨sts2.getD 32 State.reset, .ring .A, wit_some (by decide +kernel) ⟨_, List.getElem_mem (n := 0) (by decide +kernel), by decide +kernel⟩⟩,
    ⟨(let s := sts2.getD 0 State.reset; { s with mem := { s.mem with band := Vector.replicate 20 4 } }), .A, { kind := .none, bank := 0x0000#16, row := 0x0000#16 }, by decide +kernel⟩,
    ⟨sts2.getD 0 State.reset, .A, { kind := .none, bank := 0x0000#16, row := 0x0000#16 }, by decide +kernel⟩,
    ⟨sts2.getD 12 State.reset, .ring .A, _, ⟨rfl, by decide +kernel⟩, 4, by decide +kernel⟩⟩

end W66

namespace W67

def msg (t : Nat) (len : Nat) (body : List Byte) : List Byte := [2, 0] ++ natLe 2 t ++ natLe 2 len ++ [0, 0] ++ natLe 4 77 ++ natLe 4 0 ++ body
def viaRing (s : State) (m : List Byte) : State := { s with rings := s.rings.set 0 { s.rings[0] with mode := .running, requests := [m, m] } }
def viaBox (s : State) (m : List Byte) : State := ({ s with rings := s.rings.set 1 { s.rings[1] with mboxBusy := true, held := [(1, 2, [])] } } : State).setMbox .B m
def buf (n : Nat) : List Byte := natLe 8 4096 ++ natLe 4 n ++ [0,0,0,0]
def tok (a : Nat) (extra : List Byte) : List Byte := let l := natLe 4 0xC4A00017 ++ natLe 2 a ++ [0,0] ++ natLe 8 Config.serial.toNat ++ natLe 8 5 ++ natLe 4 9999 ++ extra
  l ++ List.replicate (832 - l.length) 0
def ms : List (List Byte) := [msg 0x40 16 (buf 64), msg 0x41 0 [], msg 0x42 0 [], msg 0x51 16 (buf 64), msg 0x51 16 (buf 384), msg 0x52 0 [], msg 0x50 16 (buf 832)]
def toks : List (List Byte) := [tok 1 [], tok 2 [], tok 3 [], tok 0x10 [], tok 0x11 [], tok 0x11 [3, 0, 1, 0, 4, 0, 2, 0]]
def withNonce (s : State) : State := { s with crown := { s.crown with nonces := Vector.replicate 3 (some 5), owner := some (digestOf (List.replicate 384 0)) } }
def sts : List State :=
  let s := withNonce B.svc
  let p : State := { s with crown := { s.crown with life := .provisioned } }
  let d : State := { s with crown := { s.crown with life := .deployed } }
  let img : SlotImage := { version := 2, svn := 5, digest := 1 }
  let tr : State := { s with crown := { s.crown with pendingSlot := some 1, slots := s.crown.slots.set 1 (some img), trial := true, slot := 1, trialAt := 0 }, clk := { s.clk with us := 70000000 } }
  let ld : State := { s with crown := { s.crown with load := some { src := .ring .A, slot := 1, image := img, seq := 77 } } }
  ([s, p, d, tr, { tr with clk := s.clk }, ld].flatMap (fun (s : State) => ms.flatMap (fun m => [viaRing s m, viaBox s m]))) ++
  [s, ld, { ld with hwd := { s.hwd with brownout := true } }, viaRing ld (msg 0x40 16 (buf 64)), { s with crown := { s.crown with life := .blank } },
   { s with log := { s.log with clear := some { path := 1, nonce := 5, erased := 3, firstHours := 1, lastHours := 2 } } }] ++ toks.map (fun t => viaBox s (msg 0x50 832 t)) ++ toks.map (fun t => viaBox d (msg 0x50 832 t))

theorem witness_ImagesTokensAndLifeCycle :
    (∃ (s : State) (src : MsgSrc) (m : List Byte), s.asks src 0x0041 m ∧ bodyGood m 0 = true ∧ s.activateRefused = true) ∧
    (∃ (s : State) (src : MsgSrc) (m : List Byte), s.asks src 0x0042 m ∧ bodyGood m 0 = true ∧ (s.crown.trial = false ∨ s.clk.us < s.crown.trialAt + 60000000)) ∧
    (∃ (s : State) (src : MsgSrc) (m : List Byte), s.asks src 0x0042 m ∧ bodyGood m 0 = true ∧ s.crown.trial = true ∧ s.crown.trialAt + 60000000 ≤ s.clk.us) ∧
    (∃ (s : State) (src : MsgSrc) (m : List Byte), s.asks src 0x0051 m ∧ bodyGood m 13 = true ∧ s.crown.life ≠ .provisioned) ∧
    (∃ (s : State) (src : MsgSrc) (m b : List Byte) (u : State), s.asksBuffer src 0x0051 m b u ∧ s.crown.life = .provisioned ∧ u.crown = s.crown ∧ b.length ≠ 384) ∧
    (∃ (s : State) (src : MsgSrc) (m b : List Byte) (u : State), s.asksBuffer src 0x0051 m b u ∧ s.crown.life = .provisioned ∧ u.crown = s.crown ∧ b.length = 384) ∧
    (∃ (s : State) (src : MsgSrc) (m : List Byte), s.asks src 0x0052 m ∧ bodyGood m 0 = true ∧ s.crown.life = .service) ∧
    (∃ (s : State) (src : MsgSrc) (m : List Byte), s.asks src 0x0052 m ∧ bodyGood m 0 = true ∧ s.crown.life ≠ .service) ∧
    (∃ s : State, s.atConsole .s false) ∧
    (∃ (s : State) (l : ImageLoad), s.crown.load = some l ∧ s.hwd.brownout = false ∧ s.crown.running = true) ∧
    (∃ s : State, (s.crown.load = none ∨ s.hwd.brownout = true)) ∧
    (∃ s : State, s.crown.running = true ∧ s.crown.life = .blank) ∧
    (∃ (s : State), ∃ (path : AuthPath) (k : List Byte) (u : State), s.tokenInHand path k u ∧ let a := tokenAction k; let st := u.tokenStatus (tokenPath path) k; let mine (c : Instr) : Prop := c = .enterService path ∧ a = 1 ∨ c = .ownerRelease path ∧ a = 2 ∨ c = .retireModule path ∧ a = 3 ∨ c = .clearRingLog path ∧ a = 0x10 ∧ s.clearWaits path = false ∧ s.hwd.brownout = false ∨ ∃ p, c = .editRetirementMap path p ∧ a = 0x11; ∃ c, mine c ∧ st ≠ 0) ∧
    (∃ (s : State) (k : _), s.log.clear = some k ∧ s.crown.running = true ∧ s.hwd.brownout = false) ∧
    (∃ s : State, s.log.clear = none) ∧
    (∃ (s : State), ∃ (src : MsgSrc) (m : List Byte), ∃ l, s.hwd.brownout = false ∧ s.crown.load = some l ∧ s.asks src 0x0040 m ∧ bodyGood m 13 = true) ∧
    (∃ (s : State), s.hwd.brownout = false ∧ s.crown.load = none ∧ ∃ (src : MsgSrc) (m : List Byte), ∃ (b : List Byte) (u : State), s.asksBuffer src 0x0040 m b u ∧ imagePasses b u.crown.fused = false) ∧
    (∃ (s : State), ∃ (src : MsgSrc) (m : List Byte), s.asks src 0x0041 m ∧ bodyGood m 0 = true ∧ ∃ k, s.crown.pendingSlot = some k ∧ s.activateRefused = false ∧ s.crown.dogs[s.crown.slot].length < 3 ∧ s.slotPasses k = true) ∧
    (∃ (s : State), ∃ (src : MsgSrc) (m : List Byte), s.asks src 0x0050 m ∧ s.wiping = true) ∧
    (∃ (s : State), ∃ (src : MsgSrc) (m : List Byte), s.asks src 0x0050 m ∧ s.wiping = false ∧ s.crown.secureBad = true ∧ msgLen m ≠ 832) ∧
    (∃ (s : State), ∃ (bytes : List Byte) (p : BitVec 8), s.atConsole .r false ∧ s.wiping = true ∧ ∃ e, e ∈ [(Instr.enterService (.console bytes), 1, 0#8), (.ownerRelease (.console bytes), 2, 0), (.retireModule (.console bytes), 3, 0), (.editRetirementMap (.console bytes) p, 0x11, p)] ∧ tokenAction bytes = e.2.1) :=
  ⟨⟨(sts.getD 2 State.reset), ⟨(Sys2Proof.MsgSrc.ring (Sys2Proof.Fn.A)), (wit_asks (by decide +kernel) (by decide +kernel) (by decide +kernel))⟩⟩,
    ⟨(sts.getD 4 State.reset), ⟨(Sys2Proof.MsgSrc.ring (Sys2Proof.Fn.A)), (wit_asks (by decide +kernel) (by decide +kernel) (by decide +kernel))⟩⟩,
    ⟨(sts.getD 46 State.reset), ⟨(Sys2Proof.MsgSrc.ring (Sys2Proof.Fn.A)), (wit_asks (by decide +kernel) (by decide +kernel) (by decide +kernel))⟩⟩,
    ⟨(sts.getD 6 State.reset), ⟨(Sys2Proof.MsgSrc.ring (Sys2Proof.Fn.A)), (wit_asks (by decide +kernel) (by decide +kernel) (by decide +kernel))⟩⟩,
    ⟨(sts.getD 20 State.reset), (.ring .A), (wit_asksBuffer (by decide +kernel) (by decide +kernel) (by decide +kernel) ⟨(by decide +kernel), rfl, (by decide +kernel)⟩)⟩,
    ⟨(sts.getD 22 State.reset), (.ring .A), (wit_asksBuffer (by decide +kernel) (by decide +kernel) (by decide +kernel) ⟨(by decide +kernel), rfl, (by decide +kernel)⟩)⟩,
    ⟨(sts.getD 10 State.reset), ⟨(Sys2Proof.MsgSrc.ring (Sys2Proof.Fn.A)), (wit_asks (by decide +kernel) (by decide +kernel) (by decide +kernel))⟩⟩,
    ⟨(sts.getD 24 State.reset), ⟨(Sys2Proof.MsgSrc.ring (Sys2Proof.Fn.A)), (wit_asks (by decide +kernel) (by decide +kernel) (by decide +kernel))⟩⟩,
    ⟨(sts.getD 0 State.reset), wit_atConsole (by decide +kernel)⟩,
    ⟨(sts.getD 70 State.reset), (wit_some (by decide +kernel) (by decide +kernel))⟩,
    ⟨(sts.getD 0 State.reset), (by decide +kernel)⟩,
    ⟨(sts.getD 88 State.reset), (by decide +kernel)⟩,
    ⟨sts.getD 0 State.reset, .console ([0, 0, 0, 0, 1] ++ List.replicate 827 0), _, _, ⟨by decide +kernel, rfl, by refine ⟨?_, ?_, ?_, ?_, ?_, rfl⟩ <;> decide +kernel⟩, .enterService _, Or.inl ⟨rfl, by decide +kernel⟩, by decide +kernel⟩,
    ⟨(sts.getD 89 State.reset), (wit_some (by decide +kernel) (by decide +kernel))⟩,
    ⟨(sts.getD 0 State.reset), (by decide +kernel)⟩,
    ⟨sts.getD 70 State.reset, .ring .A, _, _, by decide +kernel, rfl, ⟨rfl, by decide +kernel, by decide +kernel⟩, by decide +kernel⟩,
    ⟨sts.getD 0 State.reset, by decide +kernel, by decide +kernel, .ring .A, wit_asksBuffer (by decide +kernel) (by decide +kernel) (by decide +kernel) (by decide +kernel)⟩,
    ⟨sts.getD 44 State.reset, .ring .A, wit_asks (by decide +kernel) (by decide +kernel) ⟨by decide +kernel, wit_some (by decide +kernel) (by decide +kernel)⟩⟩,
    ⟨(let s := sts.getD 12 State.reset; { s with sram := { s.sram with marches := [{ mem := 9, inst := 0, transparent := false }] } }), .ring .A, _, ⟨rfl, by decide +kernel⟩, by decide +kernel⟩,
    ⟨(let s := viaRing (sts.getD 0 State.reset) (msg 0x50 16 (buf 832)); { s with crown := { s.crown with secureBad := true } }), .ring .A, _, ⟨rfl, by decide +kernel⟩, by decide +kernel⟩,
    ⟨(let s := sts.getD 0 State.reset; { s with sram := { s.sram with marches := [{ mem := 9, inst := 0, transparent := false }] } }), toks.getD 0 [], 0, wit_atConsole (by decide +kernel), by decide +kernel, _, List.Mem.head _, by decide +kernel⟩⟩

end W67

namespace W68

def msg (t : Nat) (len : Nat) (body : List Byte) : List Byte := [2, 0] ++ natLe 2 t ++ natLe 2 len ++ [0, 0] ++ natLe 4 77 ++ natLe 4 0 ++ body
def viaRing (s : State) (m : List Byte) : State := { s with rings := s.rings.set 0 { s.rings[0] with mode := .running, requests := [m, m] } }
def viaBox (s : State) (m : List Byte) : State := ({ s with rings := s.rings.set 1 { s.rings[1] with mboxBusy := true, held := [(1, 2, [])] } } : State).setMbox .B m
def rd (a n off fl : Nat) : List Byte := msg 0x60 21 (natLe 8 a ++ natLe 4 n ++ [0,0,0,0] ++ natLe 4 off ++ [BitVec.ofNat 8 fl])
def ms : List (List Byte) := [rd 4096 64 0 0, rd 4096 64 0 1, rd 4096 64 3 0, rd 4096 64 8 0, rd 4096 64 8 5, rd (2^60) 64 0 0, rd 4096 64 800 0]
def rec0 : LogRec := { typ := 5, cls := .warning, repeats := true, cycle := 0, hours := 100, count := 1, last := 4000, subject := 0, detail := [] }
def rec1 : LogRec := { rec0 with hours := 4999, typ := 0x22 }
def ent (p : Option Nat) : LogEntry := { what := { rec0 with repeats := false }, entered := 10, placed := p }
def sts : List State :=
  let s := B.svc
  let s1 : State := { s with log := { s.log with opened := [rec0, rec1], closed := [ent none, ent none], flash := List.replicate 24 0 } }
  let pr : State := { s with log := { s.log with closed := [ent (some 8), ent (some 24)], program := List.replicate 300 7 } }
  let cl : State := { s with log := { s.log with clear := some { path := 1, nonce := 5, erased := 3, firstHours := 1, lastHours := 2 } } }
  let m (k i : Nat) (b : Bool) : March := { mem := k, inst := i, transparent := b }
  ([s1, cl].flatMap (fun (s : State) => ms.flatMap (fun m => [viaRing s m, viaBox s m]))) ++
  [s, s1, { s1 with log := { s1.log with lost := 4, lostSince := 3 } }, pr, { pr with log := { pr.log with verifyFails := 1, lostSince := 2 } }, { s1 with clk := { s1.clk with hours := 10 } },
   { s with sram := { s.sram with daily := 19, marches := [m 0 7 true, m 3 2 true, m 4 1 true, m 8 0 true, m 1 7 true] } }, { s with tiles := [(5, { Tile.fresh with fenced := true, retireCause := 3 })], sram := { s.sram with daily := 0, marches := [m 0 7 false, m 1 1 false, m 6 0 false, m 5 0 false, m 9 0 true] } },
   { s with tiles := [(7, { Tile.fresh with marching := true, fenced := true, pad := [(3, 4)] })], svc := { s.svc with test := some (.tile 7) }, sram := { s.sram with marches := [m 0 7 false], bad := [7] } },
   { s with tiles := [(7, { Tile.fresh with marching := true, fenced := true, pad := [(3, 4)] })], svc := { s.svc with test := some (.tile 7) }, sram := { s.sram with marches := [m 2 7 false], bad := [7] } },
   { s with svc := { s.svc with test := some .log }, sram := { s.sram with marches := [m 8 0 true, m 2 7 false, m 3 0 false, m 4 0 false, m 7 0 false, m 9 0 false, m 5 0 false, m 1 0 false], bad := [7, 8*4096, 3*4096] } }]

theorem witness_LogRecordsAreWrittenAndMarchesEnd :
    (∃ s : State, s.crown.running = true ∧ ∃ (i : Nat) (r : LogRec), s.log.opened[i]? = some r ∧ let due : Prop := r.hours.toNat + 600 * bits (s.mreg logCfg) 15 8 ≤ s.clk.hours.toNat ∨ r.last.toNat + 600 ≤ s.clk.hours.toNat; due) ∧
    (∃ s : State, s.crown.running = true ∧ ∃ (i : Nat) (r : LogRec), s.log.opened[i]? = some r ∧ let due : Prop := r.hours.toNat + 600 * bits (s.mreg logCfg) 15 8 ≤ s.clk.hours.toNat ∨ r.last.toNat + 600 ≤ s.clk.hours.toNat; ¬ due) ∧
    (∃ s : State, s.crown.running = true ∧ s.flushDue = true) ∧
    (∃ s : State, s.flushDue = false) ∧
    (∃ s : State, s.programs = true ∧ ∃ e : SramErr, e.kind = .none ∧ s.log.verifyFails = 0) ∧
    (∃ s : State, s.programs = true ∧ ∃ e : SramErr, e.kind = .none ∧ 1 ≤ s.log.verifyFails) ∧
    (∃ s : State, s.programs = true ∧ ∃ e : SramErr, fatalSram e = true) ∧
    (∃ s : State, s.programs = false) ∧
    (∃ (s : State) (src : MsgSrc) (m : List Byte), s.asks src 0x0060 m ∧ bodyGood m 21 = true ∧ s.bufStatus m ≠ 0) ∧
    (∃ s : State, s.stage = .stage3 ∧ s.crown.running = true ∧ ∃ region : Fin 20, s.sram.daily = region.val) ∧
    (∃ (s : State) (region : Fin 20), s.sram.daily ≠ region.val) ∧
    (∃ (s : State) (k : SramKind) (inst : Nat), s.marchRuns (sramRow k) inst = false) ∧
    (∃ (s : State) (k : SramKind) (inst : Nat) (x : _), s.sram.marches.find? (fun j => j.mem == sramRow k && j.inst == inst) = some x ∧ s.mayEnd x = false) ∧
    (∃ (c : FailCell), ((∃ v, c.defect = .stuck v) ∨ c.defect = .noRise ∨ c.defect = .noFall)) ∧
    (∃ (c : FailCell), c.spare = true) ∧
    (∃ (c : FailCell), c.spare = false ∧ (∃ v, c.defect = .stuck v)) ∧
    (∃ (s : State), ∃ (src : MsgSrc) (m : List Byte), s.asks src 0x0060 m ∧ bodyGood m 21 = true ∧ s.bufStatus m = 0 ∧ s.bufOpen m = false) ∧
    (∃ (s : State), ∃ (src : MsgSrc) (m : List Byte), s.asks src 0x0060 m ∧ bodyGood m 21 = true ∧ let off := tfield m 32 4; let flags := tfield m 36 1; s.bufStatus m = 0 ∧ s.bufOpen m = true ∧ (off % 8 ≠ 0 ∨ 4 ≤ flags)) ∧
    (∃ (s : State), ∃ (src : MsgSrc) (m : List Byte), s.asks src 0x0060 m ∧ bodyGood m 21 = true ∧ let off := tfield m 32 4; let flags := tfield m 36 1; s.bufStatus m = 0 ∧ s.bufOpen m = true ∧ off % 8 = 0 ∧ flags < 4 ∧ s.log.clear.isSome = true) ∧
    (∃ (s : State), ∃ (src : MsgSrc) (m : List Byte), s.asks src 0x0060 m ∧ bodyGood m 21 = true ∧ let off := tfield m 32 4; let flags := tfield m 36 1; s.bufStatus m = 0 ∧ s.bufOpen m = true ∧ off % 8 = 0 ∧ flags = 0 ∧ s.log.clear = none ∧ s.log.content.length ≤ off + bufLen m) ∧
    (∃ (s : State), ∃ (k : SramKind) (inst : Nat), ∃ x, s.sram.marches.find? (fun j => j.mem == sramRow k && j.inst == inst) = some x ∧ s.mayEnd x = true ∧ x.zero = true) ∧
    (∃ (s : State), ∃ (k : SramKind) (inst : Nat), ∃ x, s.sram.marches.find? (fun j => j.mem == sramRow k && j.inst == inst) = some x ∧ s.mayEnd x = true ∧ x.zero = false) ∧
    (∃ (c : FailCell), ∃ spare row col, rowPlace spare row ≠ rowPlace c.spare c.row ∧ (c.defect = .decoder spare row ∨ c.defect = .coupled spare row col)) :=
  ⟨⟨(sts.getD 0 State.reset), ⟨(by decide +kernel), ⟨(0), (wit_some (by decide +kernel) (by decide +kernel))⟩⟩⟩,
    ⟨(sts.getD 33 State.reset), ⟨(by decide +kernel), ⟨(0), (wit_some (by decide +kernel) (by decide +kernel))⟩⟩⟩,
    ⟨(sts.getD 0 State.reset), (by decide +kernel)⟩,
    ⟨(sts.getD 14 State.reset), (by decide +kernel)⟩,
    ⟨(sts.getD 31 State.reset), ⟨(by decide +kernel), ⟨({ kind := Sys2Proof.EccErr.none, bank := 0x0000#16, row := 0x0000#16 }), (by decide +kernel)⟩⟩⟩,
    ⟨(sts.getD 32 State.reset), ⟨(by decide +kernel), ⟨({ kind := Sys2Proof.EccErr.none, bank := 0x0000#16, row := 0x0000#16 }), (by decide +kernel)⟩⟩⟩,
    ⟨(sts.getD 31 State.reset), ⟨(by decide +kernel), ⟨({ kind := Sys2Proof.EccErr.uncorrectable, bank := 0x0000#16, row := 0x0000#16 }), (by decide +kernel)⟩⟩⟩,
    ⟨(sts.getD 0 State.reset), (by decide +kernel)⟩,
    ⟨(sts.getD 10 State.reset), ⟨(Sys2Proof.MsgSrc.ring (Sys2Proof.Fn.A)), (wit_asks (by decide +kernel) (by decide +kernel) (by decide +kernel))⟩⟩,
    ⟨(sts.getD 0 State.reset), ⟨(by decide +kernel), ⟨(by decide +kernel), ⟨(0), (by decide +kernel)⟩⟩⟩⟩,
    ⟨(sts.getD 0 State.reset), ⟨(1), (by decide +kernel)⟩⟩,
    ⟨(sts.getD 0 State.reset), ⟨(Sys2Proof.SramKind.scratchpad), ⟨(0), (by decide +kernel)⟩⟩⟩,
    ⟨(sts.getD 35 State.reset), ⟨(Sys2Proof.SramKind.scratchpad), ⟨(7), (wit_some (by decide +kernel) (by decide +kernel))⟩⟩⟩,
    ⟨{ bank := 0, row := 3, col := 5, spare := true, defect := .noRise }, .inr (.inl rfl)⟩,
    ⟨{ bank := 0, row := 3, col := 5, spare := true, defect := .noRise }, rfl⟩,
    ⟨{ bank := 0, row := 3, col := 5, spare := false, defect := .stuck true }, rfl, _, rfl⟩,
    ⟨(let s := sts.getD 4 State.reset; { s with mem := { s.mem with band := Vector.replicate 20 4 } }), .ring .A, wit_asks (by decide +kernel) (by decide +kernel) (by decide +kernel)⟩,
    ⟨sts.getD 4 State.reset, .ring .A, wit_asks (by decide +kernel) (by decide +kernel) (by decide +kernel)⟩,
    ⟨sts.getD 14 State.reset, .ring .A, wit_asks (by decide +kernel) (by decide +kernel) (by decide +kernel)⟩,
    ⟨sts.getD 0 State.reset, .ring .A, wit_asks (by decide +kernel) (by decide +kernel) (by decide +kernel)⟩,
    ⟨(let s := sts.getD 0 State.reset; { s with sram := { s.sram with marches := [{ mem := 9, inst := 0, transparent := false, zero := true }] } }), .secure, 0, _, rfl, by decide +kernel⟩,
    ⟨sts.getD 34 State.reset, .scratchpad, 7, _, rfl, by decide +kernel⟩,
    ⟨{ bank := 0, row := 3, col := 2, spare := false, defect := .decoder true 1 }, true, 1, 0, by decide +kernel⟩⟩

end W68

namespace W69

def sts : List State :=
  let s := B.svc
  let leg : State := { s with regs := store (regReset pwrBudgetCfg) [] (regKey .A pwrBudgetCfg) 1, start := { s.start with slotId := 5 } }
  let sp (x : SpdmState) : State := { s with crown := { s.crown with spdm := Vector.replicate 2 x, cert := [1,2,3,4,5,6,7,8,9], identity := true } }
  [s, leg, { leg with budget := { s.budget with hold := true } }, sp .start, sp .version, sp .capabilities, sp .algorithms, sp .resynch, { sp .algorithms with crown := { (sp .algorithms).crown with secureBad := true } }]

theorem witness_ManagersAndAttestationAreAnswered :
    (∃ s : State, s.crown.running = true ∧ ∃ sender : BitVec 8, sender = 0x7E) ∧
    (∃ s : State, s.crown.running = true ∧ ∃ sender : BitVec 8, sender = 0x7F) ∧
    (∃ s : State, s.crown.running = true ∧ let own := s.start.slotId.setWidth 8; ∃ sender : BitVec 8, sender = own) ∧
    (∃ s : State, s.crown.running = true ∧ let own := s.start.slotId.setWidth 8; ∃ dst : BitVec 8, dst ≠ own) ∧
    (∃ s : State, s.crown.running = true ∧ let own := s.start.slotId.setWidth 8; ∃ dst : BitVec 8, dst = own ∧ ∃ (cmd : _), cmd ∉ [1, 2, 3]) ∧
    (∃ s : State, s.crown.running = true ∧ let own := s.start.slotId.setWidth 8; ∃ dst : BitVec 8, dst = own ∧ s.legacy = false) ∧
    (∃ s : State, s.crown.running = true ∧ let own := s.start.slotId.setWidth 8; ∃ dst : BitVec 8, dst = own ∧ s.legacy = true ∧ ∃ (sender : BitVec 8) (share : BitVec 16) (smooth : BitVec 8), ((sender ≠ 0x7E ∧ sender ≠ 0x7F) ∨ share < 50 ∨ 500 < share ∨ 2 < smooth)) ∧
    (∃ s : State, s.crown.running = true ∧ let own := s.start.slotId.setWidth 8; ∃ dst : BitVec 8, (dst = own ∨ dst = 0xFF) ∧ s.legacy = true ∧ ∃ sender : BitVec 8, (sender = 0x7E ∨ sender = 0x7F) ∧ ∃ share : BitVec 16, 50 ≤ share ∧ share ≤ 500 ∧ ∃ smooth : BitVec 8, smooth ≤ 2 ∧ s.stage = .stage3 ∧ s.budget.hold = false) ∧
    (∃ (s : State), ∃ fn, s.doeServes fn = true ∧ s.wiping = true) ∧
    (∃ (s : State), ∃ fn, s.doeServes fn = true ∧ let x := s.crown.spdm[fnIdx fn]; s.wiping = false ∧ x = .resynch) ∧
    (∃ (s : State), ∃ fn, s.doeServes fn = true ∧ let x := s.crown.spdm[fnIdx fn]; s.wiping = false ∧ x = .start ∧ s.noIdentity = false) ∧
    (∃ (s : State), ∃ fn, s.doeServes fn = true ∧ let x := s.crown.spdm[fnIdx fn]; s.wiping = false ∧ x ≠ .resynch ∧ s.noIdentity = true) ∧
    (∃ (s : State), ∃ fn, s.doeServes fn = true ∧ let x := s.crown.spdm[fnIdx fn]; s.wiping = false ∧ (x = .capabilities ∨ x = .algorithms) ∧ s.noIdentity = true) ∧
    (∃ (s : State), ∃ fn, s.doeServes fn = true ∧ let x := s.crown.spdm[fnIdx fn]; s.wiping = false ∧ x = .version) ∧
    (∃ (s : State), ∃ fn, s.doeServes fn = true ∧ let x := s.crown.spdm[fnIdx fn]; s.wiping = false ∧ x = .capabilities ∧ s.noIdentity = false) ∧
    (∃ (s : State), ∃ fn, s.doeServes fn = true ∧ let x := s.crown.spdm[fnIdx fn]; ∃ (slot : BitVec 4) (off : BitVec 16), s.wiping = false ∧ x = .algorithms ∧ s.noIdentity = false ∧ (slot ≠ 0 ∨ s.chain.length ≤ off.toNat)) ∧
    (∃ (s : State), ∃ fn, s.doeServes fn = true ∧ let x := s.crown.spdm[fnIdx fn]; ∃ (slot : BitVec 4) (off : BitVec 16), s.wiping = false ∧ x = .algorithms ∧ s.noIdentity = false ∧ slot = 0 ∧ off.toNat < s.chain.length) ∧
    (∃ (s : State), ∃ fn, s.doeServes fn = true ∧ let x := s.crown.spdm[fnIdx fn]; ∃ (slot : BitVec 4), s.wiping = false ∧ x = .algorithms ∧ s.noIdentity = false ∧ slot ≠ 0) ∧
    (∃ (s : State), ∃ fn, s.doeServes fn = true ∧ let x := s.crown.spdm[fnIdx fn]; ∃ (slot : BitVec 4) (e : SramErr), s.wiping = false ∧ x = .algorithms ∧ s.noIdentity = false ∧ slot = 0 ∧ fatalSram e = true) ∧
    (∃ (s : State), ∃ fn, s.doeServes fn = true ∧ let x := s.crown.spdm[fnIdx fn]; ∃ (slot : BitVec 4) (e : SramErr), s.wiping = false ∧ x = .algorithms ∧ s.noIdentity = false ∧ slot = 0 ∧ fatalSram e = false) ∧
    (∃ (s : State), ∃ fn, s.doeServes fn = true ∧ let x := s.crown.spdm[fnIdx fn]; ∃ (index : BitVec 8), s.wiping = false ∧ x = .algorithms ∧ s.noIdentity = false ∧ 6 < index.toNat ∧ index ≠ 255) ∧
    (∃ (s : State), ∃ fn, s.doeServes fn = true ∧ let x := s.crown.spdm[fnIdx fn]; ∃ (index : BitVec 8), s.wiping = false ∧ x = .algorithms ∧ s.noIdentity = false ∧ (index.toNat ≤ 6 ∨ index = 255)) ∧
    (∃ (s : State), ∃ fn, s.doeServes fn = true ∧ let x := s.crown.spdm[fnIdx fn]; ∃ code : BitVec 8, code.toNat ∉ [0x81, 0x82, 0x83, 0x84, 0xE0, 0xE1, 0xE3] ∧ x ≠ .resynch ∧ s.noIdentity = false ∧ s.wiping = false) :=
  ⟨⟨(sts.getD 0 State.reset), ⟨(by decide +kernel), ⟨(0x7e#8), (by decide +kernel)⟩⟩⟩,
    ⟨(sts.getD 0 State.reset), ⟨(by decide +kernel), ⟨(0x7f#8), (by decide +kernel)⟩⟩⟩,
    ⟨(sts.getD 0 State.reset), ⟨(by decide +kernel), ⟨(0x00#8), (by decide +kernel)⟩⟩⟩,
    ⟨(sts.getD 0 State.reset), ⟨(by decide +kernel), ⟨(0x05#8), (by decide +kernel)⟩⟩⟩,
    ⟨(sts.getD 0 State.reset), ⟨(by decide +kernel), ⟨(0x00#8), ⟨(by decide +kernel), ⟨(0), (by decide +kernel)⟩⟩⟩⟩⟩,
    ⟨(sts.getD 0 State.reset), ⟨(by decide +kernel), ⟨(0x00#8), (by decide +kernel)⟩⟩⟩,
    ⟨(sts.getD 1 State.reset), ⟨(by decide +kernel), ⟨(0x05#8), ⟨(by decide +kernel), ⟨(by decide +kernel), ⟨(0x00#8), ⟨(0x0000#16), ⟨(0x00#8), (by decide +kernel)⟩⟩⟩⟩⟩⟩⟩⟩,
    ⟨(sts.getD 1 State.reset), ⟨(by decide +kernel), ⟨(0x05#8), ⟨(by decide +kernel), ⟨(by decide +kernel), ⟨(0x7e#8), ⟨(by decide +kernel), ⟨(0x003c#16), ⟨(by decide +kernel), ⟨(by decide +kernel), ⟨(0x00#8), (by decide +kernel)⟩⟩⟩⟩⟩⟩⟩⟩⟩⟩⟩,
    ⟨(let s := sts.getD 3 State.reset; { s with sram := { s.sram with marches := [{ mem := 9, inst := 0, transparent := false }] } }), .A, by decide +kernel⟩,
    ⟨sts.getD 7 State.reset, .A, by decide +kernel, by decide +kernel⟩,
    ⟨sts.getD 3 State.reset, .A, by decide +kernel, by decide +kernel⟩,
    ⟨sts.getD 8 State.reset, .A, by decide +kernel, by decide +kernel⟩,
    ⟨sts.getD 8 State.reset, .A, by decide +kernel, by decide +kernel⟩,
    ⟨sts.getD 4 State.reset, .A, by decide +kernel, by decide +kernel⟩,
    ⟨sts.getD 5 State.reset, .A, by decide +kernel, by decide +kernel⟩,
    ⟨sts.getD 6 State.reset, .A, by decide +kernel, 0, 0x003c#16, by decide +kernel⟩,
    ⟨sts.getD 6 State.reset, .A, by decide +kernel, 0, 0, by decide +kernel⟩,
    ⟨sts.getD 6 State.reset, .A, by decide +kernel, 1, by decide +kernel⟩,
    ⟨sts.getD 6 State.reset, .A, by decide +kernel, 0, { kind := .uncorrectable, bank := 0, row := 0 }, by decide +kernel⟩,
    ⟨sts.getD 6 State.reset, .A, by decide +kernel, 0, { kind := .none, bank := 0, row := 0 }, by decide +kernel⟩,
    ⟨sts.getD 6 State.reset, .A, by decide +kernel, 7, by decide +kernel⟩,
    ⟨sts.getD 6 State.reset, .A, by decide +kernel, 0, by decide +kernel⟩,
    ⟨sts.getD 3 State.reset, .A, by decide +kernel, 0, by decide +kernel⟩⟩

end W69

namespace W70

def run (x : RunTest) : State := { B.svc with svc := { B.svc.svc with test := some x } }
def sts : List State :=
  let s := B.svc
  let life (l : Life) : State := { s with crown := { s.crown with life := l } }
  let notRun : State := { s with crown := { s.crown with running := false } }
  let fenced : State := { s with svc := { s.svc with held := true, changes := 65535 }, stage := .stage1 }
  let ph : State := { s with stage := .stage1, power := { s.power with rails := s.power.rails.set 0 { s.power.rails[0] with taken := 3, working := s.power.rails[0].working &&& ~~~ 3#32 } } }
  [s, life .blank, life .provisioned, life .deployed, life .retired, { s with svc := { s.svc with ready := false } }, { s with svc := { s.svc with test := some .cell } },
   notRun, { notRun with crown := { notRun.crown with rom := true } }, { notRun with crown := { notRun.crown with rom := true }, hwd := { s.hwd with brownout := true } },
   { s with log := { s.log with mode := .clearing } }, fenced, ph, { s with sap := { s.sap with state := .drained } }, { s with sap := { s.sap with state := .lockedOut }, crown := { s.crown with lost := true } },
   { s with sap := { s.sap with state := .draining } }, { s with sram := { s.sram with marches := [{ mem := 8, inst := 0, transparent := true }] } },
   { s with rings := s.rings.set 0 { s.rings[0] with mode := .running }, crown := { s.crown with lost := true } }, { s with stage := .unpowered }]

theorem witness_ConsoleCommandsAreAnswered :
    (∃ s : State, s.svc.ready = false) ∧
    (∃ s : State, s.svc.ready = true ∧ s.svc.test.isSome = true) ∧
    (∃ (s : State), let table : List (Instr × String × CmdClass × Bool) := [(.restart .console, "restart", .s, false), (.reenter .console, "reenter", .s, false), (.rearm .console 1, "rearm vcore0", .s, false), (.endService .console, "end service", .s, false), (.baud (some 115200), "baud 115200", .r, true), (.nonce, "nonce", .r, false), (.ackConfig .console, "ack config", .t, false), (.testTile (some 0), "test tile 0", .s, false), (.testStack (some 0), "test stack 0", .t, false), (.testLink (some 0), "test link 0", .t, false), (.testRail (some 0) 750, "test rail vcore0", .t, false), (.testPhase (some 0) (some 0) 0 0, "test phase 0 0", .s, false), (.testCell, "test cell", .t, false), (.testBalance, "test balance", .t, false), (.testLog, "test log", .t, false), (.testLoop (some 0) (some .step) (some 100), "test loop 0 step 100", .s, false), (.testTrip none, "test trip", .s, true), (.testTripSwitches 7, "test trip switches", .s, true), (.testTripCrowbar 0, "test trip crowbar", .s, true), (.phaseOff (some 0) (some 0), "phase off 0 0", .s, false), (.phaseOn (some 0) (some 0), "phase on 0 0", .s, false), (.march (some .log) (some 0), "march log 0", .s, false), (.marchSecure, "march secure", .s, false), (.retireTile (some 0), "retire tile 0", .s, false), (.release, "release", .s, true), (.drain, "drain", .a, true), (.recover [], "recover", .r, true)]; ∃ e, e ∈ table ∧ s.svc.ready = true ∧ s.svc.test = none ∧ e.2.2.2 = false ∧ s.crown.running = false) ∧
    (∃ (s : State), let table : List (Instr × String × CmdClass × Bool) := [(.restart .console, "restart", .s, false), (.reenter .console, "reenter", .s, false), (.rearm .console 1, "rearm vcore0", .s, false), (.endService .console, "end service", .s, false), (.baud (some 115200), "baud 115200", .r, true), (.nonce, "nonce", .r, false), (.ackConfig .console, "ack config", .t, false), (.testTile (some 0), "test tile 0", .s, false), (.testStack (some 0), "test stack 0", .t, false), (.testLink (some 0), "test link 0", .t, false), (.testRail (some 0) 750, "test rail vcore0", .t, false), (.testPhase (some 0) (some 0) 0 0, "test phase 0 0", .s, false), (.testCell, "test cell", .t, false), (.testBalance, "test balance", .t, false), (.testLog, "test log", .t, false), (.testLoop (some 0) (some .step) (some 100), "test loop 0 step 100", .s, false), (.testTrip none, "test trip", .s, true), (.testTripSwitches 7, "test trip switches", .s, true), (.testTripCrowbar 0, "test trip crowbar", .s, true), (.phaseOff (some 0) (some 0), "phase off 0 0", .s, false), (.phaseOn (some 0) (some 0), "phase on 0 0", .s, false), (.march (some .log) (some 0), "march log 0", .s, false), (.marchSecure, "march secure", .s, false), (.retireTile (some 0), "retire tile 0", .s, false), (.release, "release", .s, true), (.drain, "drain", .a, true), (.recover [], "recover", .r, true)]; ∃ e, e ∈ table ∧ s.svc.ready = true ∧ s.svc.test = none ∧ (e.2.2.2 = true ∨ s.crown.running = true) ∧ classAllows e.2.2.1 s.crown.life = false) ∧
    (∃ s : State, s.stage ≠ .unpowered) ∧
    (∃ (_ : State) (_ : String) (c : CmdClass), (c = .s ∨ c = .a)) ∧
    (∃ s : State, s.svc.ready = true ∧ s.svc.test = none ∧ s.crown.running = true ∧ ∃ (off : _), (off % 8 ≠ 0 ∨ logSize < off)) ∧
    (∃ s : State, s.svc.ready = true ∧ s.svc.test = none ∧ s.crown.running = true ∧ ∃ (off : _), off % 8 = 0 ∧ off ≤ logSize ∧ s.log.mode = .clearing) ∧
    (∃ s : State, s.svc.ready = true ∧ s.svc.test = none ∧ s.crown.running = true ∧ ∃ (off : _), off % 8 = 0 ∧ off ≤ logSize ∧ s.log.mode ≠ .clearing) ∧
    (∃ s : State, s.atConsole .r true ∧ ∃ (rate : _), rate ∉ [115200, 230400, 460800, 921600]) ∧
    (∃ s : State, s.atConsole .r true ∧ s.crown.rom = false) ∧
    (∃ s : State, s.atConsole .r true ∧ s.crown.rom = true ∧ s.hwd.brownout = false ∧ ∃ (image : _), imagePasses image s.crown.fused = false) ∧
    (∃ s : State, s.atConsole .r false) ∧
    (∃ s : State, s.atConsole .t false) ∧
    (∃ (s : State) (m : _), s.reaches (srcFn m) = true ∧ s.crown.running = true) ∧
    (∃ s : State, s.atConsole .a true) ∧
    (∃ s : State, s.atConsole .s false ∧ ∃ d : Fin 4, let x := s.power.rails[coreRail d]; ∃ n : Fin 26, x.taken.getLsbD n = true) ∧
    (∃ s : State, s.atConsole .s false ∧ ∃ d : Fin 4, let x := s.power.rails[coreRail d]; ∃ n : Fin 26, x.taken.getLsbD n = false) ∧
    (∃ s : State, s.atConsole .s false ∧ ∃ (k : SramKind) (i : Nat), (k = .secure ∨ sramCount k ≤ i)) ∧
    (∃ s : State, s.atConsole .s false ∧ ∃ k : SramKind, k ≠ .secure ∧ ∃ i : Nat, i < sramCount k ∧ s.stage = .stage3 ∧ s.marchRuns (sramRow k) i = false) ∧
    (∃ s : State, s.atConsole .s false ∧ ∃ t0 : BitVec 12, tileOfIdent t0.toNat = none) ∧
    (∃ s : State, s.atConsole .s false ∧ ∃ (t0 : BitVec 12) (n : _), tileOfIdent t0.toNat = some n) ∧
    (∃ (s : State), s.atConsole .s false ∧ ∃ (d : Fin 4) (n : Fin 26), let x := s.power.rails[coreRail d]; x.working.getLsbD n = true ∧ x.state ≠ .softStart ∧ 12 < x.count ∧ s.stage ≠ .stage3) ∧
    (∃ (s : State), s.atConsole .s false ∧ ∃ (d : Fin 4) (n : Fin 26), let x := s.power.rails[coreRail d]; (x.working.getLsbD n = false ∨ x.state = .softStart)) ∧
    (∃ (s : State), let wrong : List (Instr × String × CmdClass × Bool) := [(.baud none, "baud", .r, true), (.baud (some 9600), "baud 9600", .r, true), (.testTile none, "test tile", .s, false), (.testTile (some 4096), "test tile 4096", .s, false), (.testStack none, "test stack", .t, false), (.testStack (some 20), "test stack 20", .t, false), (.testLink none, "test link", .t, false), (.testLink (some 20), "test link 20", .t, false), (.testRail none 0, "test rail", .t, false), (.testPhase (some 4) (some 0) 0 0, "test phase 4 0", .s, false), (.testPhase (some 0) none 0 0, "test phase 0", .s, false), (.testLoop (some 4) (some .step) (some 1), "test loop 4 step 1", .s, false), (.testLoop (some 0) none none, "test loop 0", .s, false), (.testTrip (some 33), "test trip 33", .s, true), (.phaseOff (some 0) (some 26), "phase off 0 26", .s, false), (.phaseOn none none, "phase on", .s, false), (.march none none, "march", .s, false), (.march (some .icache) none, "march icache", .s, false), (.retireTile none, "retire tile", .s, false)]; ∃ e, e ∈ wrong ∧ s.atConsole e.2.2.1 e.2.2.2) ∧
    (∃ (s : State), s.svc.ready = true ∧ s.svc.test = none ∧ ∃ part : StatusPart, let byHwd : Bool := decide (part = .hwd ∨ part = .rails); (s.crown.running = true ∨ s.crown.rom = true ∨ byHwd = true)) ∧
    (∃ (s : State), s.svc.ready = true ∧ s.svc.test = none ∧ ∃ part : StatusPart, let byHwd : Bool := decide (part = .hwd ∨ part = .rails); s.crown.running = false ∧ s.crown.rom = false ∧ byHwd = false) ∧
    (∃ (s : State), s.idle ∧ ∃ code byHwd l rest err, s.svc.test = some (.print code byHwd (l :: rest) err)) ∧
    (∃ (s : State), s.idle ∧ ∃ code byHwd err, s.svc.test = some (.print code byHwd [] err)) ∧
    (∃ (s : State), s.idle ∧ ∃ (b : List Byte × BitVec 16) (rest : List (List Byte × BitVec 16)) (got : List Byte), s.svc.test = some (.recover (b :: rest) got)) ∧
    (∃ (s : State), s.idle ∧ ∃ got, s.svc.test = some (.recover [] got) ∧ s.hwd.brownout = true) ∧
    (∃ (s : State), s.idle ∧ ∃ got, s.svc.test = some (.recover [] got) ∧ s.hwd.brownout = false ∧ imagePasses got s.crown.fused = false) ∧
    (∃ (s : State), s.atConsole .s true ∧ s.atHold = true) ∧
    (∃ (s : State), s.atConsole .s true ∧ s.atHold = false) ∧
    (∃ (s : State), s.atConsole .s false ∧ ∃ (k : SramKind), k ≠ .secure ∧ sramCount k = 1 ∧ s.stage = .stage3 ∧ s.marchRuns (sramRow k) 0 = false) :=
  ⟨⟨(sts.getD 5 State.reset), (by decide +kernel)⟩,
    ⟨(sts.getD 6 State.reset), (by decide +kernel)⟩,
    ⟨sts.getD 7 State.reset, _, List.Mem.head _, by decide +kernel⟩,
    ⟨sts.getD 1 State.reset, _, List.Mem.head _, by decide +kernel⟩,
    ⟨(sts.getD 0 State.reset), (by decide +kernel)⟩,
    ⟨(sts.getD 0 State.reset), "drain", .a, by decide⟩,
    ⟨(sts.getD 0 State.reset), ⟨(by decide +kernel), ⟨(by decide +kernel), ⟨(by decide +kernel), ⟨(3), (by decide +kernel)⟩⟩⟩⟩⟩,
    ⟨(sts.getD 10 State.reset), ⟨(by decide +kernel), ⟨(by decide +kernel), ⟨(by decide +kernel), ⟨(0), (by decide +kernel)⟩⟩⟩⟩⟩,
    ⟨(sts.getD 0 State.reset), ⟨(by decide +kernel), ⟨(by decide +kernel), ⟨(by decide +kernel), ⟨(0), (by decide +kernel)⟩⟩⟩⟩⟩,
    ⟨(sts.getD 0 State.reset), (wit_console (by decide +kernel) ⟨(0), (by decide +kernel)⟩)⟩,
    ⟨(sts.getD 0 State.reset), (wit_console (by decide +kernel) (by decide +kernel))⟩,
    ⟨(sts.getD 8 State.reset), (wit_console (by decide +kernel) ⟨(by decide +kernel), ⟨(by decide +kernel), ⟨([]), (by decide +kernel)⟩⟩⟩)⟩,
    ⟨(sts.getD 0 State.reset), wit_atConsole (by decide +kernel)⟩,
    ⟨(sts.getD 0 State.reset), wit_atConsole (by decide +kernel)⟩,
    ⟨(sts.getD 0 State.reset), ⟨(Sys2Proof.MsgSrc.ring (Sys2Proof.Fn.A)), (by decide +kernel)⟩⟩,
    ⟨(sts.getD 0 State.reset), wit_atConsole (by decide +kernel)⟩,
    ⟨(sts.getD 12 State.reset), (wit_console (by decide +kernel) ⟨(0), ⟨(0), (by decide +kernel)⟩⟩)⟩,
    ⟨(sts.getD 0 State.reset), (wit_console (by decide +kernel) ⟨(0), ⟨(0), (by decide +kernel)⟩⟩)⟩,
    ⟨(sts.getD 0 State.reset), (wit_console (by decide +kernel) ⟨(Sys2Proof.SramKind.scratchpad), ⟨(1000000), (by decide +kernel)⟩⟩)⟩,
    ⟨(sts.getD 0 State.reset), (wit_console (by decide +kernel) ⟨(Sys2Proof.SramKind.scratchpad), ⟨(by decide +kernel), ⟨(0), (by decide +kernel)⟩⟩⟩)⟩,
    ⟨(sts.getD 0 State.reset), (wit_console (by decide +kernel) ⟨(0xfff#12), (by decide +kernel)⟩)⟩,
    ⟨(sts.getD 0 State.reset), (wit_console (by decide +kernel) ⟨(0x000#12), ⟨_, rfl⟩⟩)⟩,
    ⟨sts.getD 11 State.reset, wit_console (by decide +kernel) ⟨0, 0, by decide +kernel⟩⟩,
    ⟨sts.getD 12 State.reset, wit_console (by decide +kernel) ⟨0, 0, by decide +kernel⟩⟩,
    ⟨sts.getD 0 State.reset, _, List.Mem.head _, wit_atConsole (by decide +kernel)⟩,
    ⟨sts.getD 0 State.reset, by decide +kernel, by decide +kernel, .all, by decide +kernel⟩,
    ⟨sts.getD 7 State.reset, by decide +kernel, by decide +kernel, .all, by decide +kernel⟩,
    ⟨run (.print 1 false [[65]] 0), by unfold State.idle; decide +kernel, 1, false, [65], [], 0, rfl⟩,
    ⟨run (.print 1 false [] 0), by unfold State.idle; decide +kernel, 1, false, 0, rfl⟩,
    ⟨run (.recover [([1], 7)] []), by unfold State.idle; decide +kernel, ([1], 7), [], [], rfl⟩,
    ⟨(let s := run (.recover [] [1]); { s with hwd := { s.hwd with brownout := true } }), by unfold State.idle; decide +kernel, [1], by decide +kernel⟩,
    ⟨run (.recover [] [1]), by unfold State.idle; decide +kernel, [1], by decide +kernel⟩,
    ⟨(let s := sts.getD 11 State.reset; { s with start := { s.start with ran := true, monitorDone := true } }), wit_console (by decide +kernel) (by decide +kernel)⟩,
    ⟨sts.getD 0 State.reset, wit_console (by decide +kernel) (by decide +kernel)⟩,
    ⟨sts.getD 0 State.reset, wit_console (by decide +kernel) ⟨.log, by decide +kernel⟩⟩⟩

end W70

namespace W71

def runs (x : RunTest) (us : Nat) (abort : Bool) : State := { B.svc with svc := { B.svc.svc with test := some x, abort := abort }, clk := { B.svc.clk with us := us } }
def sts : List State :=
  let s := B.svc
  let m (k i : Nat) (b : Bool) : March := { mem := k, inst := i, transparent := b }
  let q : State := { s with stage := .quiesced, sap := { s.sap with state := .isolated } }
  let link : State := { s with ports := s.ports.set 0 { s.ports[0] with state := .active, fecCorr := 7, retrainCount := 2 } }
  let run (x : RunTest) (u : State) : State := { u with svc := { u.svc with test := some x } }
  let busy : State := { s with sram := { s.sram with marches := [m 0 7 false, m 8 0 true] } }
  let auto : State := { s with le := { s.le with slots := Vector.ofFn (fun k => { s.le.slots[k] with mode := .auto, values := { s.le.slots[k].values with umax := bfp 1000 } }) } }
  [s, q, { s with power := { s.power with rails := s.power.rails.set 9 Rail.reset } }, link, busy, auto, { auto with le := { auto.le with injection := some { what := { slot := 0, point := .output, wave := .step, amp := bfp 5, duration := 10 }, done := 0, turn := 0, freq := 0, ratio := 1 } } },
   { s with stage := .stage2 }, { s with sap := { s.sap with awake := false } }, { s with sap := { s.sap with state := .draining } }, { s with svc := { s.svc with ready := false } },
   { s with mem := { s.mem with trunkHigh := #v[true, false, false, false] } },
   run (.link 0 0 0 7 2 false) link, run (.link 0 0 0 7 1 false) link, run (.link 0 0 0 7 2 true) link,
   run (.trip [1] 0 true true) s, run (.trip [1] 2 true true) s, run (.trip [1, 2] 2 true true) s, run (.trip [1, 0x0A] 2 true true) s, run (.trip [5, 6] 1 false true) s,
   run (.tile 7) { s with tiles := [(7, { Tile.fresh with marching := true, fenced := true, pad := [(3, 4)] })], sram := { s.sram with marches := [m 0 7 false, m 1 7 false, m 2 7 false] } },
   run (.tile 7) { s with tiles := [(7, { Tile.fresh with marching := true, retireCause := 3, fenced := true, pad := [(3, 4)] })], sram := { s.sram with marches := [m 2 7 false] } },
   run (.tile 7) { s with tiles := [(7, { Tile.fresh with marchDue := true })] },
   run (.march 3 2) { s with sram := { s.sram with marches := [m 3 2 true, m 4 2 true] } }, run (.loop 0 true) { auto with le := { auto.le with phase := .test } }, run .log busy, run .cell s]

theorem witness_FieldTestsRunAndEnd :
    (∃ s : State, s.atConsole .s false ∧ ∃ t0 : BitVec 12, tileOfIdent t0.toNat = none) ∧
    (∃ s : State, s.atConsole .s false ∧ ∃ (t0 : BitVec 12) (n : _), tileOfIdent t0.toNat = some n ∧ s.stage ≠ .stage3) ∧
    (∃ s : State, s.atConsole .s false ∧ ∃ (t0 : BitVec 12) (n : _), tileOfIdent t0.toNat = some n ∧ s.stage = .stage3 ∧ s.tileBusy n = true) ∧
    (∃ s : State, s.atConsole .s false ∧ ∃ (t0 : BitVec 12) (n : _), tileOfIdent t0.toNat = some n ∧ s.stage = .stage3 ∧ s.tileBusy n = false) ∧
    (∃ s : State, s.atConsole .s false ∧ ∃ n : Fin 4, let ready : Prop := s.stage = .stage3 ∧ s.le.ok = true ∧ s.le.slots[n].mode = .auto ∧ s.sap.state = .connected; ready ∧ ∃ (wave : Waveform) (amp : Int), let inj : Injection := { slot := n, point := .output, wave := wave, amp := bfp amp, duration := 4096 }; injListed s.le.slots[n].values inj = false) ∧
    (∃ s : State, s.atConsole .s false ∧ ∃ n : Fin 4, let ready : Prop := s.stage = .stage3 ∧ s.le.ok = true ∧ s.le.slots[n].mode = .auto ∧ s.sap.state = .connected; ready ∧ ∃ (wave : Waveform) (amp : Int), let inj : Injection := { slot := n, point := .output, wave := wave, amp := bfp amp, duration := 4096 }; injListed s.le.slots[n].values inj = true ∧ s.le.injection.isSome = true) ∧
    (∃ s : State, s.atConsole .s false ∧ ∃ n : Fin 4, let ready : Prop := s.stage = .stage3 ∧ s.le.ok = true ∧ s.le.slots[n].mode = .auto ∧ s.sap.state = .connected; ready ∧ ∃ (wave : Waveform) (amp : Int), let inj : Injection := { slot := n, point := .output, wave := wave, amp := bfp amp, duration := 4096 }; injListed s.le.slots[n].values inj = true ∧ s.le.injection = none) ∧
    (∃ s : State, s.atConsole .t false ∧ s.stage ≠ .stage3) ∧
    (∃ s : State, s.atConsole .t false ∧ s.stage = .stage3 ∧ ∃ st : Fin 20, (∀ n ∈ s.mem.bad, sliceOf (64 * n) / 128 ≠ st.val)) ∧
    (∃ s : State, s.atConsole .t false ∧ ∃ p : Fin 20, let x := s.ports[p]; x.state = .active) ∧
    (∃ s : State, s.atConsole .t false ∧ ∃ p : Fin 20, let x := s.ports[p]; x.state ≠ .active) ∧
    (∃ s : State, s.atConsole .t false ∧ ∃ r : Fin 11, r = 10) ∧
    (∃ s : State, s.atConsole .t false ∧ ∃ r : Fin 11, r ≠ 10 ∧ s.power.rails[r].enabled = false) ∧
    (∃ s : State, s.atConsole .t false ∧ ∃ r : Fin 11, r ≠ 10 ∧ s.power.rails[r].enabled = true) ∧
    (∃ s : State, s.atConsole .t false ∧ s.sap.awake = false) ∧
    (∃ s : State, s.atConsole .t false ∧ s.sap.awake = true ∧ s.sap.state ∉ [.draining, .lockedOut]) ∧
    (∃ s : State, s.atConsole .t false ∧ (s.sap.awake = false ∨ s.sap.state ∈ [.draining, .lockedOut])) ∧
    (∃ s : State, s.atConsole .t false ∧ s.marchRuns 8 0 = true) ∧
    (∃ s : State, s.atConsole .t false ∧ s.marchRuns 8 0 = false) ∧
    (∃ (s : State) (q : Fin 20) (uncorr crc corr : BitVec 64) (retrains : BitVec 32) (warned : Bool), s.svc.test = some (.link q uncorr crc corr retrains warned) ∧ ∃ p : Fin 20, p ≠ q) ∧
    (∃ (s : State) (q : Fin 20) (uncorr crc corr : BitVec 64) (retrains : BitVec 32) (warned : Bool), s.svc.test = some (.link q uncorr crc corr retrains warned) ∧ ∃ p : Fin 20, p = q) ∧
    (∃ s : State, s.atConsole .s true ∧ s.tripTestOk = false) ∧
    (∃ s : State, s.atConsole .s true ∧ ∃ c : BitVec 8, (c = 0 ∨ 0x20 < c)) ∧
    (∃ (s : State) (c : Nat) (rest : List Nat) (step : Nat) (good passed : Bool), s.svc.test = some (.trip (c :: rest) step good passed) ∧ ∃ f : Nat, tripFilter c = some f ∧ step < 2) ∧
    (∃ s : State, s.svc.ready = false) ∧
    (∃ s : State, s.svc.ready = true ∧ s.svc.test = none) ∧
    (∃ s : State, s.svc.ready = true ∧ ∃ (n : _), s.svc.test = some (.tile n)) ∧
    (∃ s : State, s.svc.ready = true ∧ ∃ (m i : _), s.svc.test = some (.march m i)) ∧
    (∃ s : State, s.svc.ready = true ∧ ∃ (n b : _), s.svc.test = some (.loop n b)) ∧
    (∃ (s : State), s.atConsole .s false ∧ ∃ (d : Fin 4) (n : Fin 26), let x := s.power.rails[coreRail d]; s.stage = .stage3 ∧ x.working.getLsbD n = true) ∧
    (∃ (s : State), s.atConsole .s false ∧ ∃ (d : Fin 4) (n : Fin 26), let x := s.power.rails[coreRail d]; (s.stage ≠ .stage3 ∨ x.working.getLsbD n = false)) ∧
    (∃ (s : State), s.atConsole .s false ∧ ∃ (n : Fin 4) (wave : Waveform) (amp : Int), let ready : Prop := s.stage = .stage3 ∧ s.le.ok = true ∧ s.le.slots[n].mode = .auto ∧ s.sap.state = .connected; let inj : Injection := { slot := n, point := .output, wave := wave, amp := bfp amp, duration := 4096 }; injListed s.le.slots[n].values inj = true ∧ ¬ ready) ∧
    (∃ (s : State), s.idle ∧ ∃ (d : Fin 4) (n : Fin 26) (amps mean : Int) (since : Nat), s.svc.test = some (.phase d n amps mean since) ∧ s.clk.us + 1 < since + 1000) ∧
    (∃ (s : State), s.idle ∧ ∃ (d : Fin 4) (n : Fin 26) (amps mean : Int) (since : Nat), s.svc.test = some (.phase d n amps mean since) ∧ let x := s.power.rails[coreRail d]; since + 1000 ≤ s.clk.us + 1 ∧ s.clk.us + 1 < since + 1100 ∧ x.state = .on ∧ (x.failed ||| x.taken).getLsbD n = false) ∧
    (∃ (s : State), s.idle ∧ ∃ (d : Fin 4) (n : Fin 26) (amps mean : Int) (since : Nat), s.svc.test = some (.phase d n amps mean since) ∧ since + 1100 ≤ s.clk.us + 1) ∧
    (∃ (s : State), s.atConsole .s true ∧ s.tripTestOk = true ∧ ∃ c : Nat, 0 < c ∧ c ≤ 0x20 ∧ tripFilter c = none) ∧
    (∃ (s : State), s.atConsole .s true ∧ s.tripTestOk = true ∧ ∃ c : Nat, 0 < c ∧ c ≤ 0x20 ∧ (tripFilter c).isSome = true) ∧
    (∃ (s : State), ∃ (c : Nat) (rest : List Nat) (step : Nat) (good passed : Bool) (f : Nat), s.svc.test = some (.trip (c :: rest) step good passed) ∧ tripFilter c = some f ∧ 2 ≤ step ∧ s.svc.abort = true) ∧
    (∃ (s : State), ∃ (c : Nat) (rest : List Nat) (step : Nat) (good passed : Bool) (f : Nat), s.svc.test = some (.trip (c :: rest) step good passed) ∧ tripFilter c = some f ∧ 2 ≤ step ∧ s.svc.abort = false ∧ rest = []) ∧
    (∃ (s : State), ∃ (c : Nat) (rest : List Nat) (step : Nat) (good passed : Bool) (f : Nat), s.svc.test = some (.trip (c :: rest) step good passed) ∧ tripFilter c = some f ∧ 2 ≤ step ∧ s.svc.abort = false ∧ ∃ e l, rest = e :: l ∧ (tripFilter e).isSome = true) ∧
    (∃ (s : State), s.svc.ready = true ∧ s.svc.test = some .log) ∧
    (∃ (s : State), s.svc.ready = true ∧ ∃ d n amps mean since, s.svc.test = some (.phase d n amps mean since)) ∧
    (∃ (s : State), s.svc.ready = true ∧ ∃ l k good passed, s.svc.test = some (.trip l k good passed)) ∧
    (∃ (s : State), s.svc.ready = true ∧ ∃ x, s.svc.test = some x ∧ (x ∈ [.cell, .balance, .secure] ∨ (∃ code b l err, x = .print code b l err) ∨ (∃ l got, x = .recover l got) ∨ (∃ p a b c d w, x = .link p a b c d w))) ∧
    (∃ (s : State), s.svc.ready = true ∧ ∃ x, s.svc.test = some x ∧ (x = .auth ∨ (∃ l p, x = .authWait l p))) :=
  ⟨⟨(sts.getD 0 State.reset), (wit_console (by decide +kernel) ⟨(0xfff#12), (by decide +kernel)⟩)⟩,
    ⟨(sts.getD 1 State.reset), (wit_console (by decide +kernel) ⟨(0x000#12), (wit_some (by decide +kernel) (by decide +kernel))⟩)⟩,
    ⟨(sts.getD 4 State.reset), (wit_console (by decide +kernel) ⟨(0x007#12), (wit_some (by decide +kernel) (by decide +kernel))⟩)⟩,
    ⟨(sts.getD 0 State.reset), (wit_console (by decide +kernel) ⟨(0x000#12), (wit_some (by decide +kernel) (by decide +kernel))⟩)⟩,
    ⟨(sts.getD 5 State.reset), (wit_console (by decide +kernel) ⟨(0), ⟨(by decide +kernel), ⟨(Sys2Proof.Waveform.square 0), ⟨(-20), (by decide +kernel)⟩⟩⟩⟩)⟩,
    ⟨(sts.getD 6 State.reset), (wit_console (by decide +kernel) ⟨(0), ⟨(by decide +kernel), ⟨(Sys2Proof.Waveform.step), ⟨(-20), (by decide +kernel)⟩⟩⟩⟩)⟩,
    ⟨(sts.getD 5 State.reset), (wit_console (by decide +kernel) ⟨(0), ⟨(by decide +kernel), ⟨(Sys2Proof.Waveform.step), ⟨(-20), (by decide +kernel)⟩⟩⟩⟩)⟩,
    ⟨(sts.getD 1 State.reset), (wit_console (by decide +kernel) (by decide +kernel))⟩,
    ⟨(sts.getD 0 State.reset), (wit_console (by decide +kernel) ⟨(by decide +kernel), ⟨(0), (by decide +kernel)⟩⟩)⟩,
    ⟨(sts.getD 3 State.reset), (wit_console (by decide +kernel) ⟨(0), (by decide +kernel)⟩)⟩,
    ⟨(sts.getD 0 State.reset), (wit_console (by decide +kernel) ⟨(0), (by decide +kernel)⟩)⟩,
    ⟨(sts.getD 0 State.reset), (wit_console (by decide +kernel) ⟨(10), (by decide +kernel)⟩)⟩,
    ⟨(sts.getD 2 State.reset), (wit_console (by decide +kernel) ⟨(9), (by decide +kernel)⟩)⟩,
    ⟨(sts.getD 0 State.reset), (wit_console (by decide +kernel) ⟨(0), (by decide +kernel)⟩)⟩,
    ⟨(sts.getD 8 State.reset), (wit_console (by decide +kernel) (by decide +kernel))⟩,
    ⟨(sts.getD 0 State.reset), (wit_console (by decide +kernel) (by decide +kernel))⟩,
    ⟨(sts.getD 8 State.reset), (wit_console (by decide +kernel) (by decide +kernel))⟩,
    ⟨(sts.getD 4 State.reset), (wit_console (by decide +kernel) (by decide +kernel))⟩,
    ⟨(sts.getD 0 State.reset), (wit_console (by decide +kernel) (by decide +kernel))⟩,
    ⟨(sts.getD 12 State.reset), ⟨(0), ⟨(0x0000000000000000#64), ⟨(0x0000000000000000#64), ⟨(0x0000000000000007#64), ⟨(0x00000002#32), ⟨(false), ⟨(by decide +kernel), ⟨(1), (by decide +kernel)⟩⟩⟩⟩⟩⟩⟩⟩⟩,
    ⟨(sts.getD 12 State.reset), ⟨(0), ⟨(0x0000000000000000#64), ⟨(0x0000000000000000#64), ⟨(0x0000000000000007#64), ⟨(0x00000002#32), ⟨(false), ⟨(by decide +kernel), ⟨(0), (by decide +kernel)⟩⟩⟩⟩⟩⟩⟩⟩⟩,
    ⟨(sts.getD 0 State.reset), (wit_console (by decide +kernel) (by decide +kernel))⟩,
    ⟨(sts.getD 0 State.reset), (wit_console (by decide +kernel) ⟨(0x00#8), (by decide +kernel)⟩)⟩,
    ⟨(sts.getD 15 State.reset), ⟨_, _, _, _, _, rfl, (wit_some (by decide +kernel) (by decide +kernel))⟩⟩,
    ⟨(sts.getD 10 State.reset), (by decide +kernel)⟩,
    ⟨(sts.getD 0 State.reset), (by decide +kernel)⟩,
    ⟨(sts.getD 20 State.reset), ⟨(by decide +kernel), ⟨_, rfl⟩⟩⟩,
    ⟨(sts.getD 23 State.reset), ⟨(by decide +kernel), ⟨_, _, rfl⟩⟩⟩,
    ⟨(sts.getD 24 State.reset), ⟨(by decide +kernel), ⟨(0), ⟨(true), (by decide +kernel)⟩⟩⟩⟩,
    ⟨sts.getD 0 State.reset, wit_console (by decide +kernel) ⟨0, 0, by decide +kernel⟩⟩,
    ⟨sts.getD 1 State.reset, wit_console (by decide +kernel) ⟨0, 0, by decide +kernel⟩⟩,
    ⟨(let s := sts.getD 5 State.reset; { s with stage := .quiesced }), wit_console (by decide +kernel) ⟨0, .step, -20, by decide +kernel⟩⟩,
    ⟨runs (.phase 0 0 20 25 0) 500 false, by unfold State.idle; decide +kernel, 0, 0, 20, 25, 0, rfl, by decide +kernel⟩,
    ⟨runs (.phase 0 0 20 25 0) 1050 false, by unfold State.idle; decide +kernel, 0, 0, 20, 25, 0, rfl, by decide +kernel⟩,
    ⟨runs (.phase 0 0 20 25 0) 1200 false, by unfold State.idle; decide +kernel, 0, 0, 20, 25, 0, rfl, by decide +kernel⟩,
    ⟨sts.getD 1 State.reset, wit_console (by decide +kernel) ⟨by decide +kernel, 0x0b, by decide +kernel⟩⟩,
    ⟨sts.getD 1 State.reset, wit_console (by decide +kernel) ⟨by decide +kernel, 0x01, by decide +kernel⟩⟩,
    ⟨runs (.trip [1] 2 true true) 0 true, 1, [], 2, true, true, _, rfl, rfl, by decide +kernel⟩,
    ⟨runs (.trip [1] 2 true true) 0 false, 1, [], 2, true, true, _, rfl, rfl, by decide +kernel⟩,
    ⟨runs (.trip [1, 2] 2 true true) 0 false, 1, [2], 2, true, true, _, rfl, rfl, by decide +kernel, by decide +kernel, 2, [], by decide +kernel⟩,
    ⟨runs .log 0 false, by decide +kernel⟩,
    ⟨runs (.phase 0 0 20 25 0) 0 false, by decide +kernel, 0, 0, 20, 25, 0, rfl⟩,
    ⟨runs (.trip [1] 2 true true) 0 false, by decide +kernel, [1], 2, true, true, rfl⟩,
    ⟨runs .cell 0 false, by decide +kernel, _, rfl, Or.inl (by decide +kernel)⟩,
    ⟨runs .auth 0 false, by decide +kernel, _, rfl, Or.inl rfl⟩⟩

end W71

namespace W81

def sts : List State := [B.svc, { B.svc with clk := { B.svc.clk with hoursUs := 99999, refOk := false } }, State.reset, { B.svc with rings := B.svc.rings.map (fun r => { r with owed := true }) }, { B.svc with clk := { B.svc.clk with hoursUs := 100005 } }]

theorem witness_IdleStepIsOneMicrosecond :
    (∃ s : State, s.pending = []) :=
  ⟨(sts.getD 0 State.reset), (by decide +kernel)⟩

end W81

namespace W87

def r0 : LogRec := { typ := 0x0A, cls := .warning, repeats := true, cycle := 3, hours := 1, count := 5, last := 2, subject := 0x40008, detail := natLe 4 7 }
def sts : List State := [{ B.svc with sealed := true }, { B.svc with sealed := true, log := { B.svc.log with opened := [{ r0 with typ := 3 }, r0] } }, { B.svc with sealed := true, stage := .stage2 }, { B.svc with sealed := true, log := { B.svc.log with opened := [{ r0 with count := -1 }, { r0 with subject := 4 }] } }]

theorem witness_SealedRegistersIgnoreAndRecordWrites :
    (∃ (s : State) (fn : Fn), s.reaches fn = true ∧ s.sealed = true ∧ ∃ off : BitVec 20, isRwl off.toNat = true ∧ (0x40000 ≤ off.toNat ∨ s.stage = .stage3) ∧ ∃ v : BitVec 64, v.toNat < 2 ^ 32 ∧ let mine (r : LogRec) : Prop := r.typ = 0x0A ∧ r.subject = BitVec.ofNat 32 off.toNat; (∃ r ∈ s.log.opened, mine r)) ∧
    (∃ (s : State) (fn : Fn), s.reaches fn = true ∧ s.sealed = true ∧ ∃ off : BitVec 20, isRwl off.toNat = true ∧ (0x40000 ≤ off.toNat ∨ s.stage = .stage3) ∧ ∃ v : BitVec 64, v.toNat < 2 ^ 32 ∧ let mine (r : LogRec) : Prop := r.typ = 0x0A ∧ r.subject = BitVec.ofNat 32 off.toNat; (∀ r ∈ s.log.opened, ¬ mine r) ∧ let new : LogRec := { typ := 0x0A, cls := .warning, repeats := true, cycle := s.clk.cycles.setWidth 8, hours := s.clk.hours, count := 1, last := s.clk.hours, subject := BitVec.ofNat 32 off.toNat, detail := natLe 4 v.toNat }; s.log.takes new = true) :=
  ⟨⟨(sts.getD 1 State.reset), ⟨(Sys2Proof.Fn.A), ⟨(by decide +kernel), ⟨(by decide +kernel), ⟨(0x40008#20), ⟨(by decide +kernel), ⟨(by decide +kernel), ⟨(0x0000000000000000#64), ⟨(by decide +kernel), (wit_mem 1 (by decide +kernel) (by decide +kernel))⟩⟩⟩⟩⟩⟩⟩⟩⟩,
    ⟨(sts.getD 0 State.reset), ⟨(Sys2Proof.Fn.A), ⟨(by decide +kernel), ⟨(by decide +kernel), ⟨(0x10000#20), ⟨(by decide +kernel), ⟨(by decide +kernel), ⟨(0x0000000000000000#64), (by decide +kernel)⟩⟩⟩⟩⟩⟩⟩⟩⟩

end W87

end Sys2Proof.Tests
end

section
/-! SUPPORT. Writes of the set-up registers: what a write of fields leaves in each bit, and where a whole write of a register
goes (R10, R12–R16, R573, R575). -/

namespace Sys2Proof.Machine

open Sys2Proof

/-! ## The map -/

theorem wideReg_aligned {o : Nat} (h : wideReg o = true) : o % 8 = 0 ∧ o < 0xF0000 := by
  simp only [wideReg, Bool.or_eq_true, Bool.and_eq_true, beq_iff_eq, decide_eq_true_eq, List.contains_iff_mem, List.mem_cons,
    List.not_mem_nil, or_false] at h
  omega

theorem wideReg_next {o : Nat} (h : wideReg o = true) : wideReg (o + 4) = false := by
  by_contra hn
  have := wideReg_aligned h
  have := wideReg_aligned (Bool.not_eq_false _ ▸ hn)
  omega

theorem w1cBits_low {o : Nat} (h : w1cBits o ≠ 0) : o < 0xF0000 := by
  by_contra hn
  refine h ?_
  simp only [w1cBits, hqStatus, cnpErr, memErr, bxStatus, svcErr, pwrErr, leErr, hwdTrip, sapErr, hwdWarn, clkErr, crnErr, logErr]
  repeat rw [if_neg (by omega)]

theorem isRwl_cases {o : Nat} (h : isRwl o = true) :
    o ∈ [0x10000, 0x20028, 0x2002C, 0x30000, 0x30004, 0x40008, 0x40020, 0x60008, 0x8000C, 0x80010, 0xA0010, 0xB0008] ∨
    (0x31000 ≤ o ∧ o < 0x32400 ∧ (o % 0x100 = 0x04 ∨ o % 0x100 = 0x14)) := by
  simpa [isRwl, and_assoc, or_assoc] using h

/-- A 32-bit register that a host writes by its fields alone: no half of a 64-bit register, no W1C register, and neither of the queues nor of the
MSI-X structures. -/
def plainReg (o : Nat) : Prop :=
  o % 4 = 0 ∧ o < 0xF0000 ∧ wideReg o = false ∧ (o < 4 ∨ wideReg (o - 4) = false) ∧ w1cBits o = 0 ∧ (fieldsOf o).isEmpty = false

theorem isRwl_plainReg {o : Nat} (h : isRwl o = true) : plainReg o := by
  rcases isRwl_cases h with h | ⟨hlo, hhi, hm⟩
  · clear * - h
    revert o
    unfold plainReg
    decide
  · refine ⟨by omega, by omega, ?_, ?_, ?_, ?_⟩
    · simp [wideReg]; omega
    · simp [wideReg]; omega
    · simp only [w1cBits, hqStatus, cnpErr, memErr, bxStatus, svcErr, pwrErr, leErr, hwdTrip, sapErr, hwdWarn, clkErr, crnErr, logErr]
      repeat rw [if_neg (by omega)]
    · have hf : fieldsOf o = portFields (o % 0x100) := by
        unfold fieldsOf
        iterate 11 rw [if_neg (by omega)]
        rw [if_pos (by omega)]
      rw [hf]
      rcases hm with hm | hm <;> rw [hm] <;> rfl

/-! ## Fields -/

theorem testBit_bits (v hi lo n : Nat) : (bits v hi lo).testBit n = (decide (n < hi + 1 - lo) && v.testBit (lo + n)) := by
  rw [bits, Nat.testBit_mod_two_pow, Nat.testBit_div_two_pow, Nat.add_comm n]

theorem bits_lt (v hi lo : Nat) : bits v hi lo < 2 ^ (hi + 1 - lo) := Nat.mod_lt _ (Nat.two_pow_pos _)

/-- Bit n lies in a field. -/
def Field.covers (f : Field) (n : Nat) : Prop := f.lo ≤ n ∧ n ≤ f.hi

/-- Two fields have no bit in common. -/
abbrev Field.apart (f g : Field) : Prop := f.hi < g.lo ∨ g.hi < f.lo

/-- A value with a field replaced, as a number made of what lies above, in and below the field. -/
theorem merged_eq (old v hi lo : Nat) :
    old - bits old hi lo * 2 ^ lo + v * 2 ^ lo = 2 ^ lo * (2 ^ (hi + 1 - lo) * (old / 2 ^ lo / 2 ^ (hi + 1 - lo)) + v) + old % 2 ^ lo := by
  have hold : 2 ^ lo * (2 ^ (hi + 1 - lo) * (old / 2 ^ lo / 2 ^ (hi + 1 - lo)) + bits old hi lo) + old % 2 ^ lo = old := by
    rw [bits, Nat.div_add_mod, Nat.div_add_mod]
  generalize 2 ^ (hi + 1 - lo) * (old / 2 ^ lo / 2 ^ (hi + 1 - lo)) = a at hold ⊢
  generalize bits old hi lo = b at hold ⊢
  generalize old % 2 ^ lo = c at hold ⊢
  subst hold
  rw [Nat.mul_add, Nat.mul_add, Nat.mul_comm b, Nat.mul_comm v]
  omega

/-- A bit of a value that a write of one field leaves (R15, R16). -/
theorem testBit_mergeField (old new n : Nat) {f : Field} (h : f.lo ≤ f.hi) :
    (mergeField old new f).testBit n =
      if f.lo ≤ n ∧ n ≤ f.hi ∧ f.listed (bits new f.hi f.lo) then new.testBit n else old.testBit n := by
  unfold mergeField
  by_cases hl : f.listed (bits new f.hi f.lo) = true
  · rw [if_pos hl, merged_eq, Nat.testBit_two_pow_mul_add _ (Nat.mod_lt _ (Nat.two_pow_pos _)),
      Nat.testBit_two_pow_mul_add _ (bits_lt _ _ _)]
    by_cases h1 : n < f.lo
    · rw [if_pos h1, if_neg (by omega), Nat.testBit_mod_two_pow]
      simp [h1]
    · by_cases h2 : n ≤ f.hi
      · rw [if_neg h1, if_pos (by omega), if_pos ⟨by omega, h2, hl⟩, testBit_bits, decide_eq_true (by omega : n - f.lo < f.hi + 1 - f.lo)]
        rw [show f.lo + (n - f.lo) = n by omega, Bool.true_and]
      · rw [if_neg h1, if_neg (by omega), if_neg (by omega), Nat.testBit_div_two_pow, Nat.testBit_div_two_pow]
        congr 1
        omega
  · rw [if_neg hl, if_neg (fun hc => hl hc.2.2)]

/-- The value that a write leaves in a register with some fields (R15, R16). -/
def mergeFields (fs : List Field) (old new : Nat) : Nat := fs.foldl (fun o f => mergeField o new f) old

theorem testBit_mergeFields_outside {fs : List Field} (hw : ∀ f ∈ fs, f.lo ≤ f.hi) {old new n : Nat}
    (hn : ∀ f ∈ fs, n < f.lo ∨ f.hi < n) : (mergeFields fs old new).testBit n = old.testBit n := by
  induction fs generalizing old with
  | nil => rfl
  | cons f fs ih =>
    have hf := hn f (by simp)
    rw [mergeFields, List.foldl_cons, ← mergeFields, ih (fun g hg => hw g (by simp [hg])) (fun g hg => hn g (by simp [hg])),
      testBit_mergeField _ _ _ (hw f (by simp)), if_neg (by omega)]

theorem testBit_mergeFields_inside {fs : List Field} (hw : ∀ f ∈ fs, f.lo ≤ f.hi) (ha : fs.Pairwise Field.apart) {old new n : Nat} {f : Field}
    (hf : f ∈ fs) (hn : f.lo ≤ n ∧ n ≤ f.hi) :
    (mergeFields fs old new).testBit n = if f.listed (bits new f.hi f.lo) then new.testBit n else old.testBit n := by
  induction fs generalizing old with
  | nil => simp at hf
  | cons g fs ih =>
    obtain ⟨hg, ha⟩ := List.pairwise_cons.1 ha
    have hw' : ∀ k ∈ fs, k.lo ≤ k.hi := fun k hk => hw k (by simp [hk])
    rw [mergeFields, List.foldl_cons, ← mergeFields]
    rcases List.mem_cons.1 hf with rfl | hf
    · rw [testBit_mergeFields_outside hw' (fun k hk => by have := hg k hk; unfold Field.apart at this; omega),
        testBit_mergeField _ _ _ (hw f (by simp))]
      simp [hn]
    · have hout : ¬ (g.lo ≤ n ∧ n ≤ g.hi ∧ g.listed (bits new g.hi g.lo)) := by
        have := hg f hf
        unfold Field.apart at this
        rintro ⟨h1, h2, -⟩
        omega
      rw [ih hw' ha hf, testBit_mergeField _ _ _ (hw g (by simp)), if_neg hout]

/-- The state in which a write of a register's fields leaves the registers, but for the bad-encoding bit. -/
def State.fieldsPut (s : State) (fn : Fn) (off v : Nat) : State :=
  s.setReg fn off (BitVec.ofNat 64 (mergeFields (fieldsOf off) (s.reg fn off).toNat v))

theorem State.putFields_eq (s : State) (fn : Fn) (off v : Nat) :
    s.putFields fn off v = if (fieldsOf off).all (fun f => f.listed (bits v f.hi f.lo)) then s.fieldsPut fn off v
      else (s.fieldsPut fn off v).badEncoding fn off := rfl

/-- The fields of a register lie in its 64 bits and apart from one another. -/
def fieldsApart (off : Nat) : Prop :=
  (∀ f ∈ fieldsOf off, f.lo ≤ f.hi) ∧ (∀ f ∈ fieldsOf off, f.hi < 64) ∧ (fieldsOf off).Pairwise Field.apart

theorem State.fieldsPut_field {s : State} {fn : Fn} {off v : Nat} (h : fieldsApart off) {f : Field} (hf : f ∈ fieldsOf off) :
    bits ((s.fieldsPut fn off v).reg fn off).toNat f.hi f.lo =
      if f.listed (bits v f.hi f.lo) then bits v f.hi f.lo else bits (s.reg fn off).toNat f.hi f.lo := by
  obtain ⟨hw, h64, ha⟩ := h
  have hlt := h64 f hf
  refine Nat.eq_of_testBit_eq fun i => ?_
  rw [apply_ite (fun x : Nat => x.testBit i)]
  simp only [testBit_bits, State.fieldsPut, State.setReg_reg, BitVec.toNat_ofNat, Nat.testBit_mod_two_pow]
  by_cases hi : i < f.hi + 1 - f.lo
  · rw [testBit_mergeFields_inside hw ha hf (by omega)]
    have : f.lo + i < 64 := by omega
    split <;> simp [hi, this]
  · simp [hi]

theorem State.fieldsPut_reserved {s : State} {fn : Fn} {off v : Nat} (h : fieldsApart off) {n : Nat}
    (hn : ∀ f ∈ fieldsOf off, n < f.lo ∨ f.hi < n) : ((s.fieldsPut fn off v).reg fn off).getLsbD n = (s.reg fn off).getLsbD n := by
  simp only [State.fieldsPut, State.setReg_reg, BitVec.getLsbD_ofNat, testBit_mergeFields_outside h.1 hn, BitVec.testBit_toNat]
  by_cases h64 : n < 64
  · simp [h64]
  · simp [h64, BitVec.getLsbD_of_ge _ _ (Nat.le_of_not_lt h64)]

/-! ## The record of a locked write -/

theorem regKey_logErr_ne {fn : Fn} {off : Nat} (h : perFunction off = false) (ho : off ≠ logErr) : regKey fn off ≠ regKey .A logErr := by
  rw [regKey, h, regKey]
  exact ho

/-- A warning's record changes the log, and where the log does not take it LOG_ERR.lost is set (R540). -/
theorem State.record_warning_cases (s : State) (typ : Nat) (rep : Bool) (subject : Nat) (detail : List Byte) :
    ∃ l, s.record typ .warning rep subject detail = { s with log := l } ∨
      s.record typ .warning rep subject detail = ({ s with log := l } : State).flag logErr 1 := by
  by_cases hopen : rep = true ∧ s.log.opened.any (fun r => r.typ = BitVec.ofNat 8 typ ∧ r.subject = BitVec.ofNat 32 subject) = true
  · exact ⟨_, .inl (if_pos hopen)⟩
  · by_cases htakes : s.log.takes (s.newRecord typ .warning rep subject detail) = true
    · exact ⟨_, .inl ((if_neg hopen).trans ((if_pos htakes).trans (if_neg (by decide))))⟩
    · exact ⟨_, .inr ((if_neg hopen).trans (if_neg htakes))⟩

theorem State.record_warning_reg (s : State) (typ : Nat) (rep : Bool) (subject : Nat) (detail : List Byte) {fn : Fn} {off : Nat}
    (h : regKey fn off ≠ regKey .A logErr) : (s.record typ .warning rep subject detail).reg fn off = s.reg fn off := by
  obtain ⟨l, e | e⟩ := s.record_warning_cases typ rep subject detail
  · rw [e]; rfl
  · rw [e]; exact State.setReg_reg_ne _ _ _ _ _ _ h

/-! ## Where a write goes -/

theorem State.write32_narrow {s : State} {fn : Fn} {o v : Nat} (h4 : o % 4 = 0) (hw : wideReg o = false)
    (hlo : o < 4 ∨ wideReg (o - 4) = false) : s.write32 fn o v = s.writeReg fn o v := by
  have : ¬ (4 ≤ o ∧ wideReg (o - 4) = true) := by
    rintro ⟨hle, ht⟩
    rcases hlo with hlo | hlo
    · omega
    · rw [hlo] at ht; cases ht
  simp [State.write32, h4, hw, this]

theorem exec_registerWrite_narrow {s : State} {fn : Fn} (hr : s.reaches fn = true) {off : BitVec 20} (ho : off.toNat < 0xF0000) {v : BitVec 64}
    (hv : v.toNat < 2 ^ 32) : exec (.registerWrite fn off false v) s = .next (s.write32 fn off.toNat v.toNat) := by
  have hm : v.toNat % 2 ^ 32 = v.toNat := Nat.mod_eq_of_lt hv
  simp only [exec, execRegisterWrite, hr, Bool.not_true, Bool.false_eq_true, if_false, Nat.not_le.2 ho, Bool.not_false, if_true,
    BitVec.toNat_setWidth, hm]

theorem exec_registerWrite_plainReg {s : State} {fn : Fn} (hr : s.reaches fn = true) {off : BitVec 20} (ho : plainReg off.toNat) {v : BitVec 64}
    (hv : v.toNat < 2 ^ 32) : exec (.registerWrite fn off false v) s = .next (s.writeReg fn off.toNat v.toNat) := by
  obtain ⟨h4, hlt, hw, hlo, -, -⟩ := ho
  rw [exec_registerWrite_narrow hr hlt hv, State.write32_narrow h4 hw hlo]

/-- A block outside the closed ones, or any block in Stage 3, takes writes. -/
theorem State.takes_writes {s : State} {o : Nat} (h : 0x40000 ≤ o ∨ s.stage = .stage3) :
    (closedBlock o && decide (s.stage ≠ .stage3)) = false := by
  rcases h with h | h
  · simp [closedBlock, h]
  · simp [h]

theorem State.writeReg_shut {s : State} {fn : Fn} {o v : Nat} (hs : s.stage ≠ .stage3) (ho : o < 0x40000) :
    s.writeReg fn o v = if !isRwl o then s
      else if s.sealed then s.writeRwl fn o v
      else if s.restartsNow then { s with late := s.late ++ [(fn, o, BitVec.ofNat 32 v)] }
      else s := by
  have : (closedBlock o && decide (s.stage ≠ .stage3)) = true := by simp [closedBlock, hs, ho]
  rw [State.writeReg, if_pos this]

theorem State.writeReg_fields {s : State} {fn : Fn} {o v : Nat} (h : 0x40000 ≤ o ∨ s.stage = .stage3) (hp : plainReg o) :
    s.writeReg fn o v = if closedBlock o then s.writeClosed fn o v else s.writeOpen fn o v := by
  obtain ⟨-, -, -, -, hw, hf⟩ := hp
  rw [State.writeReg, State.takes_writes h]
  simp [hw, hf]

theorem State.writeRwl_sealed {s : State} (hs : s.sealed = true) (fn : Fn) (o v : Nat) :
    s.writeRwl fn o v = s.record 0x0A .warning true o (natLe 4 v) := if_pos hs

theorem State.writeModuleId_sealed {s : State} (hs : s.sealed = true) (fn : Fn) (v : Nat) :
    s.writeModuleId fn v = s.record 0x0A .warning true bxModuleId (natLe 4 v) := by
  have hr : (s.record 0x0A .warning true bxModuleId (natLe 4 v)).reg .A bxModuleId = s.reg .A bxModuleId :=
    State.record_warning_reg _ _ _ _ _ (regKey_logErr_ne rfl (by decide))
  simp only [State.writeModuleId, State.writeRwl_sealed hs, State.myId, State.idValid, State.mreg, hr, and_self, if_true]

theorem State.writeSeal_sealed {s : State} (hs : s.sealed = true) (fn : Fn) (v : Nat) :
    s.writeSeal fn v = s.record 0x0A .warning true clkSeal (natLe 4 v) := by
  simp only [State.writeSeal, State.seal, hs, if_true, State.writeRwl_sealed hs, ite_self]

theorem State.writeClosed_rwl {s : State} (fn : Fn) {o : Nat} (v : Nat) (h : isRwl o = true) (ho : o < 0x40000) :
    s.writeClosed fn o v = if o = bxModuleId then s.writeModuleId fn v else s.writeRwl fn o v := by
  have hc := isRwl_cases h
  have hq : inQueue o = false := by
    simp only [List.mem_cons, List.not_mem_nil, or_false] at hc
    simp only [inQueue, decide_eq_false_iff_not]
    omega
  simp only [List.mem_cons, List.not_mem_nil, or_false] at hc
  simp only [State.writeClosed, hqWakeReg, hqMaint, memCtrl, bxModuleId, hq, h, if_true, Bool.false_eq_true, if_false]
  rw [if_neg (by omega), if_neg (by omega), if_neg (by omega)]
  split
  · rfl
  · rw [if_neg (by omega)]

theorem State.writeOpen_rwl {s : State} (fn : Fn) {o : Nat} (v : Nat) (h : isRwl o = true) :
    s.writeOpen fn o v = if o = clkSeal then s.writeSeal fn v
      else if o = pwrBudgetCfg ∧ !s.sealed then (s.putFields fn o v).followCfg
      else s.writeRwl fn o v := by
  have hc := isRwl_cases h
  simp only [List.mem_cons, List.not_mem_nil, or_false] at hc
  simp only [State.writeOpen, pwrRearm, clkCtrl, clkSeal, crnRingBase, crnRingCtrl, crnKickReg, crnMboxCtrl, h, if_true]
  rw [if_neg (by omega), if_neg (by omega)]
  split
  · rfl
  · iterate 4 rw [if_neg (by omega)]

/-- A write to a sealed RWL register is recorded, in whatever stage it comes (R14). -/
theorem State.writeReg_sealed {s : State} (fn : Fn) {o : Nat} (v : Nat) (hs : s.sealed = true) (h : isRwl o = true) :
    s.writeReg fn o v = s.record 0x0A .warning true o (natLe 4 v) := by
  by_cases hshut : s.stage ≠ .stage3 ∧ o < 0x40000
  · rw [State.writeReg_shut hshut.1 hshut.2, h, hs]
    exact State.writeRwl_sealed hs fn o v
  · rw [State.writeReg_fields (by by_cases h3 : s.stage = .stage3 <;> simp_all) (isRwl_plainReg h)]
    by_cases ho : o < 0x40000
    · rw [if_pos (by simpa [closedBlock] using ho), State.writeClosed_rwl fn v h ho]
      split
      · rename_i he; rw [he]; exact State.writeModuleId_sealed hs fn v
      · exact State.writeRwl_sealed hs fn o v
    · rw [if_neg (by simpa [closedBlock] using ho), State.writeOpen_rwl fn v h]
      split
      · rename_i he; rw [he]; exact State.writeSeal_sealed hs fn v
      · rw [if_neg (by simp [hs])]
        exact State.writeRwl_sealed hs fn o v

end Sys2Proof.Machine
end

section
/-! The obligations about the set-up registers: W1C bits, sealed registers, halves of 64-bit registers, and access codes. -/

namespace Sys2Proof.Machine

open Sys2Proof

/-! ## W1C bits (R12, R13) -/

theorem exec_w1cWrite {s : State} {fn : Fn} (hr : s.reaches fn = true) {off : BitVec 20} (hopen : 0x40000 ≤ off.toNat ∨ s.stage = .stage3)
    (hw : w1cBits off.toNat ≠ 0) (v hwSet : BitVec 64) : exec (.w1cWrite fn off v hwSet) s = .next (s.clearBits fn off.toNat v hwSet) := by
  have hshut : s.blockShut off.toNat = false := State.takes_writes hopen
  simp only [exec, execW1cWrite, hr, hshut, Bool.not_true, Bool.false_eq_true, if_false, Bool.false_or, beq_iff_eq, hw]

theorem State.clearBits_reg (s : State) (fn : Fn) (off : Nat) (v hwSet : BitVec 64) :
    (s.clearBits fn off v hwSet).reg fn off = (s.reg fn off &&& ~~~v) ||| (hwSet &&& w1cBits off) := State.setReg_reg ..

/-- A whole write of a W1C register clears bits as a W1C write does in whose cycle hardware sets none. -/
theorem State.writeReg_w1c {s : State} {fn : Fn} {o v : Nat} (hopen : 0x40000 ≤ o ∨ s.stage = .stage3) (hw : w1cBits o ≠ 0) :
    s.writeReg fn o v = s.clearBits fn o (BitVec.ofNat 64 v) 0 := by
  rw [State.writeReg, State.takes_writes hopen, if_neg Bool.false_ne_true, if_pos hw]

/-- Settles O14: the bits that hardware sets join the register after those written as 1 have left it. -/
theorem w1cBitSetByHardwareRemains : Obligations.W1cBitSetByHardwareRemains := by
  unfold Obligations.W1cBitSetByHardwareRemains
  intro s fn off v hw n hr hopen hbit hset
  have hne : w1cBits off.toNat ≠ 0 := by
    intro h
    simp [h] at hbit
  refine ⟨_, exec_w1cWrite hr hopen hne v hw, ?_⟩
  rw [State.clearBits_reg, BitVec.getLsbD_or, BitVec.getLsbD_and (x := hw), hset, hbit]
  simp

/-! ## Locked writes (R14) -/

/-- An open record of an event's type and subject counts its repetition (R538). -/
theorem State.record_open {s : State} {typ : Nat} {cls : LogClass} {subject : Nat} {detail : List Byte} (htyp : typ ≠ 0x54)
    (h : ∃ r ∈ s.log.opened, r.typ = BitVec.ofNat 8 typ ∧ r.subject = BitVec.ofNat 32 subject) :
    s.record typ cls true subject detail = { s with log := { s.log with opened := s.log.opened.map (fun r =>
      if r.typ = BitVec.ofNat 8 typ ∧ r.subject = BitVec.ofNat 32 subject then
        { r with count := if r.count = BitVec.allOnes 32 then r.count else r.count + 1, last := s.clk.hours }
      else r) } } := by
  have hany : s.log.opened.any (fun r => r.typ = BitVec.ofNat 8 typ ∧ r.subject = BitVec.ofNat 32 subject) = true := by
    simpa using h
  unfold State.record
  dsimp only
  rw [if_pos ⟨rfl, hany⟩]
  simp only [htyp, if_false]

/-- A warning of which no record is open opens one, where the log takes it (R538, R540). -/
theorem State.record_opens {s : State} {typ subject : Nat} {detail : List Byte}
    (h : ∀ r ∈ s.log.opened, ¬ (r.typ = BitVec.ofNat 8 typ ∧ r.subject = BitVec.ofNat 32 subject))
    (ht : s.log.takes (s.newRecord typ .warning true subject detail) = true) :
    ∃ l, s.record typ .warning true subject detail = { s with log := l } ∧
      l.opened.getLast? = some (s.newRecord typ .warning true subject detail) := by
  have hany : ¬ (true = true ∧ s.log.opened.any (fun r => r.typ = BitVec.ofNat 8 typ ∧ r.subject = BitVec.ofNat 32 subject) = true) := by
    simpa using h
  exact ⟨_, (if_neg hany).trans ((if_pos ht).trans (if_neg (by decide))), List.getLast?_concat⟩

/-- Settles O58: a sealed register's write is a locked-write record and nothing else. -/
theorem sealedRegistersIgnoreAndRecordWrites : Obligations.SealedRegistersIgnoreAndRecordWrites := by
  unfold Obligations.SealedRegistersIgnoreAndRecordWrites
  intro s fn off v hr hs hrwl hv mine new
  have hexec : exec (.registerWrite fn off false v) s = .next (s.record 0x0A .warning true off.toNat (natLe 4 v.toNat)) := by
    rw [exec_registerWrite_plainReg hr (isRwl_plainReg hrwl) hv, State.writeReg_sealed fn _ hs hrwl]
  constructor
  · intro hopen
    refine ⟨_, hexec, ?_⟩
    rw [State.record_open (by decide) hopen]
    refine ⟨rfl, fun i r hi hm => ?_⟩
    exact (List.getElem?_map ..).trans (by rw [hi]; exact congrArg some (if_pos hm))
  · intro hnone htakes
    obtain ⟨l, hl, hlast⟩ := State.record_opens hnone htakes
    refine ⟨_, hexec, ?_⟩
    rw [hl]
    exact ⟨rfl, hlast⟩

/-! ## Halves of 64-bit registers (R10, R11) -/

theorem fnIdx_key (fn : Fn) (o : Nat) : (fnIdx fn).val * 2 ^ 20 + o = (if fn = .A then 0 else 2 ^ 20) + o := by
  cases fn <;> rfl

theorem find?_erase_self {α : Type} (m : Keyed α) (k : Nat) : (erase m k).find? (fun e => e.1 == k) = none := by
  simp [erase, List.find?_eq_none]

/-- The upper half of a 64-bit register stands 4 bytes above it. -/
theorem upper_toNat {off : BitVec 20} (h : wideReg off.toNat = true) : (off + 4).toNat = off.toNat + 4 := by
  have := (wideReg_aligned h).2
  rw [BitVec.toNat_add]
  change (off.toNat + 4) % 2 ^ 20 = _
  omega

/-- What a write of the upper half of a 64-bit register takes as the lower half: the function's latch, or the present lower half (R10). -/
def State.lowerFor (s : State) (fn : Fn) (o : Nat) : Nat :=
  match s.latch.find? (fun e => e.1 == (fnIdx fn).val * 2 ^ 20 + o) with
  | some e => e.2.toNat
  | none => s.regValue fn o % 2 ^ 32

theorem State.lowerFor_lt (s : State) (fn : Fn) (o : Nat) : s.lowerFor fn o < 2 ^ 32 := by
  unfold State.lowerFor
  split
  · exact BitVec.isLt _
  · exact Nat.mod_lt _ (by decide)

theorem State.write32_lower {s : State} {fn : Fn} {o v : Nat} (hw : wideReg o = true) (hopen : 0x40000 ≤ o ∨ s.stage = .stage3) :
    s.write32 fn o v = { s with latch := insert s.latch ((fnIdx fn).val * 2 ^ 20 + o) (BitVec.ofNat 32 v) } := by
  have h4 : o % 4 = 0 := by have := (wideReg_aligned hw).1; omega
  have hshut : s.blockShut o = false := State.takes_writes hopen
  simp [State.write32, h4, hw, hshut]

theorem State.write32_upper {s : State} {fn : Fn} {o v : Nat} (hw : wideReg o = true) :
    s.write32 fn (o + 4) v =
      ({ s with latch := erase s.latch ((fnIdx fn).val * 2 ^ 20 + o) } : State).writeReg fn o (v * 2 ^ 32 + s.lowerFor fn o) := by
  have h4 : (o + 4) % 4 = 0 := by have := (wideReg_aligned hw).1; omega
  have hup : ¬ wideReg (o + 4) = true := by rw [wideReg_next hw]; decide
  unfold State.write32
  rw [if_neg (by omega), if_neg hup, if_pos ⟨by omega, hw⟩]
  rfl

theorem exec_registerWrite_wide {s : State} {fn : Fn} (hr : s.reaches fn = true) {off : BitVec 20} (hw : wideReg off.toNat = true) (v : BitVec 64) :
    exec (.registerWrite fn off true v) s = .next (s.writeReg fn off.toNat v.toNat) := by
  have hlt := (wideReg_aligned hw).2
  simp only [exec, execRegisterWrite, hr, hw, Bool.not_true, Bool.false_eq_true, if_false, Nat.not_le.2 hlt, if_true]

theorem State.performWrites_none {s : State} {fn : Fn} (h : s.host[fnIdx fn].writes = []) : s.performWrites fn = s := by
  rw [State.performWrites, h, if_pos List.isEmpty_nil]

/-- A read of a function whose port holds no BAR2 write is answered at once. -/
theorem exec_lowerHalfRead {s : State} {fn : Fn} (hr : s.reaches fn = true) (hq : s.host[fnIdx fn].writes = []) (off : BitVec 20) (wide : Bool) :
    exec (.lowerHalfRead fn off wide) s = .next (if wide then s.read64 fn off.toNat else s.read32 fn off.toNat) := by
  simp only [exec, execLowerHalfRead, State.performWrites_none hq, hq, hr, List.isEmpty_nil, Bool.not_true, Bool.and_false,
    Bool.false_eq_true, if_false]

theorem exec_upperHalfRead {s : State} {fn : Fn} (hr : s.reaches fn = true) (hq : s.host[fnIdx fn].writes = []) (off : BitVec 20) :
    exec (.upperHalfRead fn off) s = .next (s.read32 fn off.toNat) := by
  simp only [exec, execUpperHalfRead, State.performWrites_none hq, hq, hr, List.isEmpty_nil, Bool.not_true, Bool.and_false,
    Bool.false_eq_true, if_false]

theorem exec_disallowedAccess {s : State} {fn : Fn} (hr : s.reaches fn = true) (hq : s.host[fnIdx fn].writes = []) {off : BitVec 20} {bytes : Nat}
    (hd : disallowed off.toNat bytes = true) (isWrite : Bool) :
    exec (.disallowedAccess fn off bytes isWrite) s = .next (if isWrite then s else s.emit (.regData fn off.toNat 0)) := by
  simp only [exec, execDisallowedAccess, State.performWrites_none hq, hq, hr, hd, List.isEmpty_nil, Bool.not_true, Bool.and_false,
    Bool.false_eq_true, if_false, if_true]

theorem State.read64_wide {s : State} {fn : Fn} {o : Nat} (hw : wideReg o = true) :
    s.read64 fn o = s.emit (.regData fn o (BitVec.ofNat 64 (s.regValue fn o))) := by
  have := (wideReg_aligned hw).2
  rw [State.read64, if_neg (by omega), if_pos hw]

theorem State.read32_lower {s : State} {fn : Fn} {o : Nat} (hw : wideReg o = true) :
    s.read32 fn o = ({ s with capture := insert s.capture ((fnIdx fn).val * 2 ^ 20 + o) (BitVec.ofNat 32 (s.regValue fn o / 2 ^ 32)) } : State).emit
      (.regData fn o (BitVec.ofNat 64 (s.regValue fn o % 2 ^ 32))) := by
  have := wideReg_aligned hw
  rw [State.read32, if_neg (by omega), if_neg (by omega), if_pos hw]

theorem State.read32_upper {s : State} {fn : Fn} {o : Nat} (hw : wideReg o = true) (hopen : 0x40000 ≤ o ∨ s.stage = .stage3) :
    s.read32 fn (o + 4) = match s.capture.find? (fun e => e.1 == (fnIdx fn).val * 2 ^ 20 + o) with
      | some e => ({ s with capture := erase s.capture ((fnIdx fn).val * 2 ^ 20 + o) } : State).emit (.regData fn (o + 4) (e.2.setWidth 64))
      | none => s.emit (.regData fn (o + 4) (BitVec.ofNat 64 (s.regValue fn o / 2 ^ 32))) := by
  have := wideReg_aligned hw
  have hup : ¬ wideReg (o + 4) = true := by rw [wideReg_next hw]; decide
  have hshut : (closedBlock (o + 4) && s.stage != .stage3) = false := by
    rcases hopen with h | h
    · simp [closedBlock, show 0x40000 ≤ o + 4 by omega]
    · simp [h]
  rw [State.read32, if_neg (by omega), if_neg (by omega), if_neg hup, if_pos ⟨by omega, hw⟩]
  simp only [Nat.add_sub_cancel, hshut]
  rfl

/-- Settles O13: each access is the one form of `write32`, `read32`, `read64` or `disallowed` that its offset and size select. -/
theorem registerHalvesAndDisallowedAccesses : Obligations.RegisterHalvesAndDisallowedAccesses := by
  unfold Obligations.RegisterHalvesAndDisallowedAccesses
  intro s fn off hr hq key
  have hkey : key = (fnIdx fn).val * 2 ^ 20 + off.toNat := (fnIdx_key fn off.toNat).symm
  clear_value key
  subst hkey
  constructor
  · intro hw _ hopen
    have hlt := (wideReg_aligned hw).2
    refine ⟨fun v => ?_, fun v => ?_, ?_, ?_, ?_⟩
    · refine ⟨{ s with latch := insert s.latch ((fnIdx fn).val * 2 ^ 20 + off.toNat) v }, ?_, find_insert_self .., rfl⟩
      simp only [exec, execLowerHalfWrite, hr, if_true, State.write32_lower hw hopen, BitVec.ofNat_toNat, BitVec.setWidth_eq]
    · have hlow := s.lowerFor_lt fn off.toNat
      have hval : (BitVec.ofNat 64 (v.toNat * 2 ^ 32 + s.lowerFor fn off.toNat)).toNat = v.toNat * 2 ^ 32 + s.lowerFor fn off.toNat := by
        rw [BitVec.toNat_ofNat]
        have := v.isLt
        omega
      refine ⟨({ s with latch := erase s.latch ((fnIdx fn).val * 2 ^ 20 + off.toNat) } : State).writeReg fn off.toNat
        (v.toNat * 2 ^ 32 + s.lowerFor fn off.toNat), ?_, ?_⟩
      · simp only [exec, execUpperHalfWrite, hr, if_true, upper_toNat hw, State.write32_upper hw]
      · have hr' : ({ s with latch := erase s.latch ((fnIdx fn).val * 2 ^ 20 + off.toNat) } : State).reaches fn = true := hr
        change exec (.registerWrite fn off true (BitVec.ofNat 64 (v.toNat * 2 ^ 32 + s.lowerFor fn off.toNat))) _ = _
        rw [exec_registerWrite_wide hr' hw, hval]
    · exact ⟨_, exec_lowerHalfRead hr hq off true, State.read64_wide hw⟩
    · refine ⟨_, exec_lowerHalfRead hr hq off false, ?_⟩
      simp only [Bool.false_eq_true, if_false, State.read32_lower hw]
      exact ⟨rfl, find_insert_self ..⟩
    · refine ⟨_, exec_upperHalfRead hr hq (off + 4), ?_⟩
      rw [upper_toNat hw, State.read32_upper hw hopen]
      cases hc : s.capture.find? (fun e => e.1 == (fnIdx fn).val * 2 ^ 20 + off.toNat) with
      | none => exact ⟨Option.isNone_iff_eq_none.2 hc, rfl⟩
      | some e => exact ⟨Option.isNone_iff_eq_none.2 (find?_erase_self ..), rfl⟩
  · intro bytes hlt h4 h8
    have hd : disallowed off.toNat bytes = true := by
      simp only [disallowed, Bool.and_eq_true, Bool.not_eq_true', decide_eq_true_eq, Bool.and_eq_false_iff, beq_eq_false_iff_ne, hlt, true_and]
      exact ⟨h4, h8⟩
    exact ⟨⟨_, exec_disallowedAccess hr hq hd true, rfl⟩, ⟨_, exec_disallowedAccess hr hq hd false, rfl⟩⟩

end Sys2Proof.Machine
end

section
/-! The obligation about access codes: W1C, plain, sealed, closed and late writes, and MEM_CTRL. -/

namespace Sys2Proof.Machine

open Sys2Proof

/-- The registers whose writes O15 describes field by field. -/
def listedRegs : List Nat :=
  [0x10000, 0x20028, 0x2002C, 0x30004, 0x30040, 0x40008, 0x40020, 0x5000C, 0x60008, 0x8001C, 0xA0010, 0xB0008]

theorem plainReg_of_listed {o : Nat} (h : o ∈ listedRegs) : plainReg o := by
  unfold plainReg
  revert o
  decide

theorem fieldsApart_of_listed {o : Nat} (h : o ∈ listedRegs) : fieldsApart o := by
  unfold fieldsApart
  revert o
  decide

theorem fieldsOf_memCtrl : fieldsOf memCtrl = [anyField 2 2, anyField 1 1, anyField 0 0] := rfl

theorem fieldsApart_memCtrl : fieldsApart memCtrl := by
  unfold fieldsApart
  decide

/-- A write of a closed block's listed register in Stage 3, not sealed, is a write of its fields. -/
theorem State.writeClosed_listed {s : State} (fn : Fn) {o : Nat} (v : Nat) (h : o ∈ listedRegs) (ho : o < 0x40000)
    (hs : isRwl o = false ∨ s.sealed = false) : s.writeClosed fn o v = s.putFields fn o v := by
  cases hrwl : isRwl o with
  | true =>
    have hid : o ≠ bxModuleId := by
      clear hrwl hs
      revert o
      decide
    have hseal : ¬ s.sealed = true := by simpa [hrwl] using hs
    rw [State.writeClosed_rwl fn v hrwl ho, if_neg hid, State.writeRwl, if_neg hseal]
  | false =>
    have hfwd : o = bxFwdIndex := by
      clear hs
      revert o
      decide
    subst hfwd
    rfl

/-- Likewise of the other blocks, where a write of PWR_BUDGET_CFG is followed by Crown's share and mode (R419, R421). -/
theorem State.writeOpen_listed {s : State} (fn : Fn) {o : Nat} (v : Nat) (h : o ∈ listedRegs) (ho : 0x40000 ≤ o)
    (hs : isRwl o = false ∨ s.sealed = false) :
    s.writeOpen fn o v = if o = pwrBudgetCfg then (s.putFields fn o v).followCfg else s.putFields fn o v := by
  cases hrwl : isRwl o with
  | true =>
    have hseal : s.sealed = false := by simpa [hrwl] using hs
    have hne : o ≠ clkSeal := by
      clear hrwl hs ho
      revert o
      decide
    rw [State.writeOpen_rwl fn v hrwl, if_neg hne, State.writeRwl, hseal]
    simp
  | false =>
    have hreg : o = leCapIndex ∨ o = clkSticky := by
      clear hs
      revert o
      decide
    rcases hreg with rfl | rfl <;> rfl

theorem State.writeReg_listed {s : State} (fn : Fn) {o : Nat} (v : Nat) (h : o ∈ listedRegs) (hopen : 0x40000 ≤ o ∨ s.stage = .stage3)
    (hs : isRwl o = false ∨ s.sealed = false) :
    s.writeReg fn o v = if o = pwrBudgetCfg then (s.putFields fn o v).followCfg else s.putFields fn o v := by
  rw [State.writeReg_fields hopen (plainReg_of_listed h)]
  by_cases ho : o < 0x40000
  · have hne : o ≠ pwrBudgetCfg := by unfold pwrBudgetCfg; omega
    have hc : closedBlock o = true := decide_eq_true ho
    rw [if_pos hc, if_neg hne, State.writeClosed_listed fn v h ho hs]
  · have hc : closedBlock o = false := decide_eq_false ho
    rw [hc, if_neg Bool.false_ne_true, State.writeOpen_listed fn v h (Nat.le_of_not_lt ho) hs]

/-- MEM_CTRL's three fields are its three low bits, and every encoding of each is listed. -/
theorem State.fieldsPut_memCtrl (s : State) (v : BitVec 32) :
    s.fieldsPut .A memCtrl v.toNat = s.setReg .A memCtrl ((s.reg .A memCtrl &&& ~~~7) ||| (v.setWidth 64 &&& 7)) := by
  have hval : (s.fieldsPut .A memCtrl v.toNat).reg .A memCtrl = (s.reg .A memCtrl &&& ~~~7) ||| (v.setWidth 64 &&& 7) := by
    refine BitVec.eq_of_getLsbD_eq fun n hn => ?_
    have h7 : (7#64).getLsbD n = decide (n < 3) := by
      revert n
      decide
    have hr : ((s.reg .A memCtrl &&& ~~~7) ||| (v.setWidth 64 &&& 7)).getLsbD n =
        if n < 3 then v.getLsbD n else (s.reg .A memCtrl).getLsbD n := by
      rw [BitVec.getLsbD_or, BitVec.getLsbD_and, BitVec.getLsbD_and, BitVec.getLsbD_not]
      change ((s.reg .A memCtrl).getLsbD n && (decide (n < 64) && !(7#64).getLsbD n) || (v.setWidth 64).getLsbD n && (7#64).getLsbD n) = _
      rw [h7]
      by_cases h3 : n < 3 <;> simp [h3, hn]
    rw [hr]
    by_cases h3 : n < 3
    · rw [if_pos h3]
      have hf : anyField n n ∈ fieldsOf memCtrl := by
        obtain rfl | rfl | rfl : n = 0 ∨ n = 1 ∨ n = 2 := by omega
        all_goals simp [fieldsOf_memCtrl]
      have hb := State.fieldsPut_field (s := s) (fn := .A) (v := v.toNat) fieldsApart_memCtrl hf
      have h0 := congrArg (fun x : Nat => x.testBit 0) hb
      simpa only [anyField, if_true, testBit_bits, Nat.add_zero, Nat.add_sub_cancel_left, Nat.zero_lt_one, decide_true, Bool.true_and,
        BitVec.testBit_toNat] using h0
    · rw [if_neg h3]
      refine State.fieldsPut_reserved fieldsApart_memCtrl fun f hf => ?_
      simp only [fieldsOf_memCtrl, List.mem_cons, List.not_mem_nil, or_false] at hf
      rcases hf with rfl | rfl | rfl <;> simp only [anyField] <;> omega
  rw [← hval, State.fieldsPut, State.setReg_reg]

theorem State.writeMemCtrl_eq (s : State) (fn : Fn) (v : BitVec 32) :
    s.writeMemCtrl fn v.toNat = ({ s with mem := { s.mem with patrol := if v.getLsbD 0 then s.mem.patrol else [] } } : State).setReg .A memCtrl
      ((s.reg .A memCtrl &&& ~~~7) ||| (v.setWidth 64 &&& 7)) := by
  have hput : s.putFields fn memCtrl v.toNat = s.fieldsPut .A memCtrl v.toNat := by
    have hall : (fieldsOf memCtrl).all (fun f => f.listed (bits v.toNat f.hi f.lo)) = true := by
      rw [fieldsOf_memCtrl]
      rfl
    have hkey : regKey fn memCtrl = regKey .A memCtrl := by
      cases fn <;> decide
    rw [State.putFields_eq, if_pos hall]
    simp only [State.fieldsPut, State.setReg, State.reg, hkey]
  have hbit : bit v.toNat 0 = v.getLsbD 0 := by
    rw [← BitVec.testBit_toNat, bit, Nat.testBit_eq_decide_div_mod_eq]
    rfl
  rw [State.writeMemCtrl, hput, State.fieldsPut_memCtrl, hbit]
  by_cases h : v.getLsbD 0 = true
  · simp only [h, if_true]
  · simp only [h]
    rfl

/-- Settles O15, each clause by the form of `writeReg` that its hypotheses select. -/
theorem registerWritesFollowAccessCodes : Obligations.RegisterWritesFollowAccessCodes := by
  unfold Obligations.RegisterWritesFollowAccessCodes
  intro s fn hr
  refine ⟨fun off v hw hopen hbits => ?_, fun off v hv hmem => ?_, fun h3 v => ⟨_, ?_, State.writeMemCtrl_eq s fn v⟩⟩
  · refine ⟨_, exec_w1cWrite hr hopen hbits v hw, rfl, State.clearBits_reg .., fun f o ho => State.setReg_reg_ne _ _ _ _ _ _ ho, ?_⟩
    rintro h4 rfl hwide hlow hv
    rw [exec_registerWrite_narrow hr (w1cBits_low hbits) hv, State.write32_narrow h4 hwide hlow, State.writeReg_w1c hopen hbits, BitVec.ofNat_toNat, BitVec.setWidth_eq]
  · have hp : plainReg off.toNat := plainReg_of_listed hmem
    have ha : fieldsApart off.toNat := fieldsApart_of_listed hmem
    have hexec := exec_registerWrite_plainReg hr hp hv
    refine ⟨fun hopen hs => ?_, fun _ hrwl hs => ?_, fun h3 hlo hrwl => ?_, fun _ _ hrwl hs => ?_, fun h3 hlo hrwl hs hlate => ?_⟩
    · refine ⟨_, s.fieldsPut fn off.toNat v.toNat, hexec, rfl, fun f hf => State.fieldsPut_field ha hf, fun n hn => State.fieldsPut_reserved ha hn,
        fun g o ho => State.setReg_reg_ne _ _ _ _ _ _ ho, ?_⟩
      rw [State.writeReg_listed fn _ hmem hopen.symm hs, State.putFields_eq]
    · exact ⟨_, hexec, State.writeReg_sealed fn _ hs hrwl⟩
    · exact ⟨_, hexec, by rw [State.writeReg_shut h3 hlo, hrwl]; rfl⟩
    · exact ⟨_, hexec, State.writeReg_sealed fn _ hs hrwl⟩
    · have hnow : s.restartsNow = true := by
        rw [State.restartsNow, Bool.or_eq_true]
        exact hlate
      refine ⟨_, hexec, ?_⟩
      rw [State.writeReg_shut h3 hlo, hrwl, hs, hnow]
      rfl
  · have hopens : s.opens fn = true := by simp [State.opens, hr, h3]
    simp only [exec, execMemCtrlWrite, hopens, if_true]

end Sys2Proof.Machine
end

section
/-! SUPPORT. Device memory as an access from outside meets it: the views, the transactions of an access, what a visit of the
controllers changes, and a read or write that meets no uncorrectable data (R102–R110, R117–R119). -/

namespace Sys2Proof.Machine

open Sys2Proof

/-! ## Views -/

section
variable {a l : Nat}

theorem translate_linear : translate 0 a = some l ↔ a < 0x14000000000 ∧ l = a := by
  by_cases h : mappedEnd ≤ a
  · simp only [translate, if_pos h, reduceCtorEq, false_iff]
    simp only [mappedEnd] at h
    omega
  · simp only [mappedEnd] at h
    simp only [translate, mappedEnd, if_neg h, if_true, Option.some.injEq]
    omega

theorem translate_sliced : translate 1 a = some l ↔
    a < 0x14000000000 ∧ l = (bits a 40 36 * 128 + bits a 18 12) * 2 ^ 29 + (bits a 35 19 * 4096 + bits a 11 0) := by
  by_cases h : mappedEnd ≤ a
  · simp only [translate, if_pos h, reduceCtorEq, false_iff]
    simp only [mappedEnd] at h
    omega
  · have h0 : (1 : BitVec 2) ≠ 0 := by decide
    simp only [mappedEnd] at h
    simp only [translate, mappedEnd, if_neg h, if_neg h0, if_true, Option.some.injEq, Nat.add_assoc]
    omega

theorem translate_paged : translate 2 a = some l ↔
    a < 0x14000000000 ∧ l = (a / 4096 % 2560 % 20 * 128 + a / 4096 % 2560 / 20) * 2 ^ 29 + (a / 4096 / 2560 * 4096 + bits a 11 0) := by
  by_cases h : mappedEnd ≤ a
  · simp only [translate, if_pos h, reduceCtorEq, false_iff]
    simp only [mappedEnd] at h
    omega
  · have h0 : (2 : BitVec 2) ≠ 0 := by decide
    have h1 : (2 : BitVec 2) ≠ 1 := by decide
    simp only [mappedEnd] at h
    simp only [translate, mappedEnd, if_neg h, if_neg h0, if_neg h1, if_true, Option.some.injEq, Nat.add_assoc]
    omega

theorem translate_reserved : translate 3 a = none := by
  unfold translate
  split
  · rfl
  · rfl

end

/-- The four selectors of a view. -/
theorem view_cases (v : BitVec 2) : v = 0 ∨ v = 1 ∨ v = 2 ∨ v = 3 := by
  revert v
  decide

/-- Slice, row and column of a tile-local address are its own: slice region and column, page, and byte within the page. -/
theorem place_injective {u w q d u' w' q' d' : Nat} (hw : w < 128) (hq : q < 2 ^ 17) (hd : d < 4096) (hw' : w' < 128) (hq' : q' < 2 ^ 17)
    (hd' : d' < 4096) (h : (u * 128 + w) * 2 ^ 29 + (q * 4096 + d) = (u' * 128 + w') * 2 ^ 29 + (q' * 4096 + d')) :
    u = u' ∧ w = w' ∧ q = q' ∧ d = d' := by
  omega

/-- An address is put together from the fields of the sliced view (R104). -/
theorem bits_whole {a : Nat} (h : a < 2 ^ 41) : a = bits a 40 36 * 2 ^ 36 + bits a 35 19 * 2 ^ 19 + bits a 18 12 * 2 ^ 12 + bits a 11 0 := by
  have h0 : bits a 11 0 = a % 4096 := by rw [bits, Nat.pow_zero, Nat.div_one]; rfl
  have h1 : bits a 18 12 = a / 4096 % 128 := rfl
  have h2 : bits a 35 19 = a / 4096 / 128 % 131072 := by rw [Nat.div_div_eq_div_mul]; rfl
  have h3 : bits a 40 36 = a / 4096 / 128 / 131072 % 32 := by rw [Nat.div_div_eq_div_mul, Nat.div_div_eq_div_mul]; rfl
  rw [h0, h1, h2, h3]
  omega

/-- No two device addresses of a view are one byte (R104–R106). -/
theorem translate_injective {v : BitVec 2} {x y l : Nat} (hx : translate v x = some l) (hy : translate v y = some l) : x = y := by
  rcases view_cases v with rfl | rfl | rfl | rfl
  · rw [translate_linear] at hx hy
    omega
  · rw [translate_sliced] at hx hy
    obtain ⟨hu, hw, hq, hd⟩ := place_injective (bits_lt ..) (bits_lt ..) (bits_lt ..) (bits_lt ..) (bits_lt ..) (bits_lt ..) (hx.2.symm.trans hy.2)
    rw [bits_whole (by omega : x < 2 ^ 41), bits_whole (by omega : y < 2 ^ 41), hu, hw, hq, hd]
  · rw [translate_paged] at hx hy
    have hd : ∀ a, bits a 11 0 = a % 4096 := fun a => by rw [bits, Nat.pow_zero, Nat.div_one]; rfl
    rw [hd] at hx hy
    obtain ⟨hu, hw, hq, hd⟩ := place_injective (by omega) (by omega) (by omega) (by omega) (by omega) (by omega) (hx.2.symm.trans hy.2)
    omega
  · rw [translate_reserved] at hx
    cases hx

/-- The bytes of a 64-byte run of a view lie in one transaction (R107). -/
theorem translate_run {v : BitVec 2} {x l : Nat} (h : translate v x = some l) : translate v (x / 64 * 64) = some (l / 64 * 64) := by
  rcases view_cases v with rfl | rfl | rfl | rfl
  · rw [translate_linear] at h ⊢
    omega
  · rw [translate_sliced] at h ⊢
    simp only [bits] at h ⊢
    omega
  · rw [translate_paged] at h ⊢
    simp only [bits] at h ⊢
    omega
  · rw [translate_reserved] at h
    cases h

/-- The transaction of a byte of an access is one of the access's. -/
theorem mem_transactions {v : BitVec 2} {a len k l : Nat} (hk : k < len) (h : translate v (a + k) = some l) :
    l / 64 ∈ transactions v a len := by
  rw [transactions, if_neg (by omega), List.mem_filterMap]
  refine ⟨(a + k) / 64 - a / 64, List.mem_range.2 (by omega), ?_⟩
  rw [show (a / 64 + ((a + k) / 64 - a / 64)) * 64 = (a + k) / 64 * 64 by omega, translate_run h, Option.map_some,
    Nat.mul_div_cancel _ (by decide)]

theorem runs_transaction {v : BitVec 2} {a len : Nat} (h : len ≠ 0) {r : Nat × Nat × Bool} (hr : r ∈ runs v a len) :
    r.2.1 ∈ transactions v a len := by
  obtain ⟨i, hi, hm⟩ := List.mem_filterMap.1 hr
  rw [transactions, if_neg h, List.mem_filterMap]
  refine ⟨i, hi, ?_⟩
  obtain ⟨l, hl, rfl⟩ := Option.map_eq_some_iff.1 hm
  rw [hl, Option.map_some]

/-! ## Visits of the controllers (R109) -/

/-- A visit of controllers changes their open rows and the places of what waits there, and nothing else. -/
theorem State.visit_frame (s : State) (v : BitVec 2) (a len : Nat) :
    ∃ rows places, s.visit v a len = { s with mem := { s.mem with openRow := rows, tracker := places } } := by
  unfold State.visit
  generalize transactions v a len = ts
  induction ts generalizing s with
  | nil => exact ⟨_, _, rfl⟩
  | cons t ts ih =>
    obtain ⟨rows, places, h⟩ := ih (s.visited t)
    exact ⟨rows, places, h⟩

section
variable (s : State) (v w : BitVec 2) (a len : Nat)

@[simp] theorem State.visit_bad : (s.visit v a len).mem.bad = s.mem.bad := by
  obtain ⟨_, _, h⟩ := s.visit_frame v a len
  rw [h]

@[simp] theorem State.visit_dram : (s.visit v a len).mem.dram = s.mem.dram := by
  obtain ⟨_, _, h⟩ := s.visit_frame v a len
  rw [h]

@[simp] theorem State.visit_tiles : (s.visit v a len).tiles = s.tiles := by
  obtain ⟨_, _, h⟩ := s.visit_frame v a len
  rw [h]

@[simp] theorem State.visit_queues : (s.visit v a len).queues = s.queues := by
  obtain ⟨_, _, h⟩ := s.visit_frame v a len
  rw [h]

@[simp] theorem State.visit_hq : (s.visit v a len).hq = s.hq := by
  obtain ⟨_, _, h⟩ := s.visit_frame v a len
  rw [h]

@[simp] theorem State.visit_host : (s.visit v a len).host = s.host := by
  obtain ⟨_, _, h⟩ := s.visit_frame v a len
  rw [h]

theorem State.visit_meetsBad (b n : Nat) : (s.visit v a len).mem.meetsBad w b n = s.mem.meetsBad w b n := by
  rw [MemState.meetsBad, MemState.meetsBad, State.visit_bad]

end

/-- What stands in a host port has no part in a controller's turn. -/
theorem State.setHost_visit (s : State) (fn : Fn) (h : HostPort) (v : BitVec 2) (a len : Nat) :
    (s.setHost fn h).visit v a len = (s.visit v a len).setHost fn h := by
  unfold State.visit
  generalize transactions v a len = ts
  induction ts generalizing s with
  | nil => rfl
  | cons t ts ih => exact ih (s.visited t)

theorem State.setHost_visitTurns (s : State) (fn : Fn) (h : HostPort) (ts : List Nat) : (s.setHost fn h).visitTurns ts = s.visitTurns ts := by
  induction ts generalizing s with
  | nil => rfl
  | cons t ts ih => exact congrArg (s.visitTurn t && ·) (ih (s.visited t))

theorem State.setHost_farOpen (s : State) (fn : Fn) (h : HostPort) (src : Nat → Node) (v : BitVec 2) (a len : Nat) :
    (s.setHost fn h).farOpen src v a len = s.farOpen src v a len := by
  unfold State.farOpen State.farTurns
  rw [State.setHost_visitTurns]
  rfl

/-! ## Reads (R117, R118) -/

/-- One transaction of a checked read: an uncorrectable one is recorded. -/
def checkOne (acc : State × Bool) (t : Nat) : State × Bool :=
  if acc.1.mem.bad.contains t then (acc.1.dramUncorrectable (t * 64), true) else acc

theorem foldl_checkOne_sound {s : State} {ts : List Nat} (b : Bool) (h : ts.any (fun t => s.mem.bad.contains t) = false) :
    ts.foldl checkOne (s, b) = (s, b) := by
  induction ts with
  | nil => rfl
  | cons t ts ih =>
    rw [List.any_cons, Bool.or_eq_false_iff] at h
    rw [List.foldl_cons, checkOne, h.1]
    exact ih h.2

theorem foldl_checkOne_true (ts : List Nat) (s : State) : (ts.foldl checkOne (s, true)).2 = true := by
  induction ts generalizing s with
  | nil => rfl
  | cons t ts ih =>
    rw [List.foldl_cons, checkOne]
    split <;> exact ih _

theorem foldl_checkOne_bad {s : State} {ts : List Nat} (h : ts.any (fun t => s.mem.bad.contains t) = true) :
    (ts.foldl checkOne (s, false)).2 = true := by
  induction ts with
  | nil => cases h
  | cons t ts ih =>
    rw [List.foldl_cons, checkOne]
    by_cases ht : s.mem.bad.contains t = true
    · rw [if_pos ht]
      exact foldl_checkOne_true ts _
    · rw [if_neg ht]
      rw [List.any_cons, Bool.eq_false_iff.2 ht, Bool.false_or] at h
      exact ih h

/-- A read that meets no uncorrectable data and no new error finds nothing. -/
theorem State.devCheck_sound {s : State} {v : BitVec 2} {a len : Nat} (h : s.mem.meetsBad v a len = false) :
    s.devCheck v a len [] = (s, false) := foldl_checkOne_sound false h

theorem State.devCheck_bad {s : State} {v : BitVec 2} {a len : Nat} (h : s.mem.meetsBad v a len = true) :
    (s.devCheck v a len []).2 = true := foldl_checkOne_bad h

/-! ## Writes (R110, R119) -/

section
variable {β : Type} {key : β → Nat} {val : β → Byte} {l : List β} {i : Nat}

theorem find_foldl_store_other (m : Keyed Byte) (h : ∀ e ∈ l, key e ≠ i) :
    find 0 (l.foldl (fun d e => store 0 d (key e) (val e)) m) i = find 0 m i := by
  induction l generalizing m with
  | nil => rfl
  | cons e l ih =>
    rw [List.foldl_cons, ih _ (fun k hk => h k (by simp [hk])), find_store_ne _ _ _ (h e (by simp)).symm]

/-- Where every entry for a cell holds one value, the cell holds it after all have been stored. -/
theorem find_foldl_store_mem (m : Keyed Byte) {b : Byte} (hv : ∀ e ∈ l, key e = i → val e = b) (h : ∃ e ∈ l, key e = i) :
    find 0 (l.foldl (fun d e => store 0 d (key e) (val e)) m) i = b := by
  induction l generalizing m with
  | nil => simp at h
  | cons e l ih =>
    rw [List.foldl_cons]
    by_cases hl : ∃ k ∈ l, key k = i
    · exact ih _ (fun k hk => hv k (by simp [hk])) hl
    · obtain ⟨k, hk, hki⟩ := h
      have he : key e = i := by
        rcases List.mem_cons.1 hk with rfl | hk
        · exact hki
        · exact absurd ⟨k, hk, hki⟩ hl
      rw [find_foldl_store_other _ (fun k hk hki => hl ⟨k, hk, hki⟩), find_store, if_pos he.symm, hv e (by simp) he]

end

theorem mem_zip_range {α : Type} {l : List α} {e : Nat × α} : e ∈ List.zip (List.range l.length) l ↔ ∃ h : e.1 < l.length, l[e.1] = e.2 := by
  rw [List.mem_iff_getElem]
  constructor
  · rintro ⟨n, hn, rfl⟩
    have hlt : n < l.length := by simpa using hn
    exact ⟨by simpa using hlt, by simp⟩
  · rintro ⟨h, he⟩
    exact ⟨e.1, by simpa using h, by simp [he]⟩

/-- A write that meets no uncorrectable data stores its mapped bytes, and no others. -/
theorem MemState.write_sound {m : MemState} {v : BitVec 2} {a : Nat} {bytes : List Byte} (h : m.meetsBad v a bytes.length = false) :
    (∀ (k : Nat) (hk : k < bytes.length) (l : Nat), translate v (a + k) = some l → find 0 (m.write v a bytes).dram l = bytes[k]) ∧
    (∀ l, (∀ k < bytes.length, translate v (a + k) ≠ some l) → find 0 (m.write v a bytes).dram l = find 0 m.dram l) := by
  have hbad : ∀ k < bytes.length, ∀ l, translate v (a + k) = some l → l / 64 ∉ m.bad := by
    intro k hk l hl hm
    have := List.any_eq_false.1 h _ (mem_transactions hk hl)
    exact this (List.contains_iff_mem.2 hm)
  constructor
  · intro k hk l hl
    refine find_foldl_store_mem m.dram ?_ ⟨(k, bytes[k]), ?_, ?_⟩
    · intro e he hkey
      obtain ⟨hz, hmap⟩ := List.mem_filter.1 he
      obtain ⟨hlt, hval⟩ := mem_zip_range.1 hz
      cases ht : translate v (a + e.1) with
      | none => rw [ht] at hmap; cases hmap
      | some j =>
        rw [ht, Option.getD_some] at hkey
        have : a + e.1 = a + k := translate_injective (ht.trans (congrArg some hkey)) hl
        have : e.1 = k := by omega
        subst this
        exact hval.symm
    · refine List.mem_filter.2 ⟨mem_zip_range.2 ⟨hk, rfl⟩, ?_⟩
      rw [hl]
      have := hbad k hk l hl
      simp [this]
    · rw [hl, Option.getD_some]
  · intro l hl
    refine find_foldl_store_other m.dram fun e he hkey => ?_
    obtain ⟨hz, hmap⟩ := List.mem_filter.1 he
    obtain ⟨hlt, -⟩ := mem_zip_range.1 hz
    cases ht : translate v (a + e.1) with
    | none => rw [ht] at hmap; cases hmap
    | some j =>
      rw [ht, Option.getD_some] at hkey
      exact hl e.1 hlt (ht.trans (congrArg some hkey))

theorem State.storeChecked_sound {s : State} {v : BitVec 2} {a : Nat} {bytes : List Byte} (hne : bytes ≠ [])
    (h : s.mem.meetsBad v a bytes.length = false) : s.storeChecked v a bytes [] = (s.devWrite v a bytes, false) := by
  have hlen : bytes.length ≠ 0 := by simpa using hne
  have hnone : (runs v a bytes.length).filter (fun r => s.mem.bad.contains r.2.1 && !r.2.2) = [] := by
    refine List.filter_eq_nil_iff.2 fun r hr hb => ?_
    rw [Bool.and_eq_true] at hb
    exact List.any_eq_false.1 h _ (runs_transaction hlen hr) hb.1
  have hmeet : s.meetErrs (partly v a bytes.length) [] = s := rfl
  simp only [State.storeChecked, hmeet, hnone, List.foldl_nil, List.isEmpty_nil, Bool.not_true]

end Sys2Proof.Machine
end

section
/-! The obligation about BAR2 accesses and the masks of MSI-X vectors. -/

namespace Sys2Proof.Machine

open Sys2Proof

/-! ## BAR2 (R191–R193) -/

section
variable {s : State} {fn : Fn} {off : Nat} (hup : s.host[fnIdx fn].up = true) (hq : s.host[fnIdx fn].writes = [])
include hup hq

/-- A read that finds no earlier write of its port waiting. -/
theorem exec_bar2Read (len : Nat) (errs : DramErrs) : exec (.bar2Read fn off len errs) s =
    .next (if !s.windowOpen fn off len then (s.emit (.unsupported fn)).emit (.aer fn)
      else if !s.farOpen (hostNode fn) (s.window fn off).1 (s.window fn off).2 len then s
      else
        let c := (s.visit (s.window fn off).1 (s.window fn off).2 len).devCheck (s.window fn off).1 (s.window fn off).2 len errs
        if c.2 then (c.1.drawnN len).emit (.bar2Data fn (c.1.freeBytes len) true)
        else c.1.emit (.bar2Data fn (c.1.devRead (s.window fn off).1 (s.window fn off).2 len) false)) := by
  simp only [exec, execBar2Read, State.performWrites_none hq, hup, hq, List.isEmpty_nil, Bool.not_true, Bool.false_eq_true, if_false]

/-- A write that finds none waiting stands alone in its port, from which it is performed where memory serves it. -/
theorem exec_bar2Write {data : List Byte} (errs : DramErrs) (hne : data ≠ []) : exec (.bar2Write fn off data errs) s =
    .next (if !s.windowOpen fn off data.length then s.emit (.aer fn)
      else (s.setHost fn { s.host[fnIdx fn] with
        writes := [{ view := (s.window fn off).1, addr := (s.window fn off).2, data := data, errs := errs }] }).performWrites fn) := by
  have hd : data.isEmpty = false := by simpa using hne
  simp only [exec, execBar2Write, hup, hq, hd, Bool.not_true, Bool.false_eq_true, or_self, if_false, List.nil_append]

end

theorem State.setHost_setHost (s : State) (fn : Fn) (h k : HostPort) : (s.setHost fn h).setHost fn k = s.setHost fn k := by
  simp [State.setHost]

theorem State.setHost_self {s : State} {fn : Fn} {h : HostPort} (e : s.host[fnIdx fn] = h) : s.setHost fn h = s := by
  subst e
  simp [State.setHost]

@[simp] theorem State.setHost_at (s : State) (fn : Fn) (h : HostPort) : (s.setHost fn h).host[fnIdx fn] = h := by
  simp [State.setHost]

theorem fnIdx_other (fn : Fn) : (fnIdx fn).val ≠ (fnIdx (fnOther fn)).val := by
  cases fn <;> decide

theorem State.setHost_other (s : State) (fn : Fn) (h : HostPort) :
    (s.setHost fn h).host[fnIdx (fnOther fn)] = s.host[fnIdx (fnOther fn)] :=
  Vector.getElem_set_ne (fnIdx fn).isLt (fnIdx (fnOther fn)).isLt (fnIdx_other fn)

theorem State.stage3_of_windowOpen {s : State} {fn : Fn} {off len : Nat} (h : s.windowOpen fn off len = true) : s.stage = .stage3 := by
  simp only [State.windowOpen, State.opens, Bool.and_eq_true, decide_eq_true_eq] at h
  exact h.1.1.2

theorem State.performIn_cons (u : State) (fn : Fn) (w : HostWrite) (rest : List HostWrite) :
    u.performIn fn (w :: rest) = if u.farOpen (hostNode fn) w.view w.addr w.data.length then
        (((u.visit w.view w.addr w.data.length).storeChecked w.view w.addr w.data w.errs).1).performIn fn rest
      else u.setHost fn { u.host[fnIdx fn] with writes := w :: rest } := rfl

/-- The one write that a port holds in Stage 3: performed where memory serves it, else kept. -/
theorem State.performWrites_one {s : State} {fn : Fn} {h : HostPort} {w : HostWrite} (h3 : s.stage = .stage3) (hw : h.writes = [w]) :
    (s.setHost fn h).performWrites fn = if s.farOpen (hostNode fn) w.view w.addr w.data.length then
        ((((s.setHost fn h).visit w.view w.addr w.data.length).storeChecked w.view w.addr w.data w.errs).1).performIn fn []
      else s.setHost fn { h with writes := [w] } := by
  have hstage : ¬ (s.setHost fn h).stage ≠ .stage3 := not_not_intro h3
  rw [State.performWrites, State.setHost_at, hw, if_neg (by simp), if_neg hstage, State.performIn_cons, State.setHost_farOpen,
    State.setHost_at, State.setHost_setHost]

/-- A write that memory serves and that meets no uncorrectable data leaves its port empty again. -/
theorem State.performIn_nil_sound {s : State} {fn : Fn} {h : HostPort} {v : BitVec 2} {a : Nat} {data : List Byte}
    (hh : { h with writes := [] } = s.host[fnIdx fn]) (hne : data ≠ []) (hb : s.mem.meetsBad v a data.length = false) :
    ((((s.setHost fn h).visit v a data.length).storeChecked v a data []).1).performIn fn [] = (s.visit v a data.length).devWrite v a data := by
  have hb' : ((s.setHost fn h).visit v a data.length).mem.meetsBad v a data.length = false := by
    rw [State.visit_meetsBad]
    exact hb
  rw [State.storeChecked_sound hne hb', State.setHost_visit, State.performIn]
  have hat : (((s.visit v a data.length).setHost fn h).devWrite v a data).host[fnIdx fn] = h := State.setHost_at _ _ _
  have hcomm : ((s.visit v a data.length).setHost fn h).devWrite v a data = ((s.visit v a data.length).devWrite v a data).setHost fn h := rfl
  rw [hat, hh, hcomm, State.setHost_setHost]
  refine State.setHost_self ?_
  rw [State.devWrite_host, State.visit_host]

/-! ## MSI-X (R192, R231) -/

/-- A vector's message is due: it is pending and unmasked, and the function can master the bus. -/
def State.vectorDue (s : State) (fn : Fn) (v : Nat) : Bool :=
  s.host[fnIdx fn].msixPending.getLsbD v && !s.host[fnIdx fn].msixMask.getLsbD v && !s.host[fnIdx fn].tableMask && s.canMaster fn

/-- The message of a vector goes where it is due, and its pending bit is cleared. -/
def State.sendDue (s : State) (fn : Fn) (v : Nat) : State :=
  let h := s.host[fnIdx fn]
  if h.msixPending.getLsbD v ∧ !h.msixMask.getLsbD v ∧ !h.tableMask ∧ s.canMaster fn then
    (s.setHost fn { h with msixPending := h.msixPending &&& ~~~(1#128 <<< v) }).emit (.msix fn v)
  else s

theorem State.setMasks_eq (s : State) (fn : Fn) (mask : BitVec 128) (table : Bool) :
    s.setMasks fn mask table =
      (List.range 128).foldl (fun s v => s.sendDue fn v) (s.setHost fn { s.host[fnIdx fn] with msixMask := mask, tableMask := table }) := rfl

/-- `t` is `s` after the messages of some vectors have gone: nothing has changed but the output and the function's pending bits, those of what
has gone being clear. -/
def State.sentDue (s t : State) (fn : Fn) (vs : List Nat) : Prop :=
  { t with host := s.host, out := s.out } = s ∧ t.out = s.out ++ vs.map (fun v => .msix fn v) ∧
  t.host[fnIdx (fnOther fn)] = s.host[fnIdx (fnOther fn)] ∧
  { t.host[fnIdx fn] with msixPending := 0 } = { s.host[fnIdx fn] with msixPending := 0 } ∧
  ∀ v < 128, t.host[fnIdx fn].msixPending.getLsbD v = (s.host[fnIdx fn].msixPending.getLsbD v && !vs.contains v)

theorem State.sentDue_refl (s : State) (fn : Fn) : s.sentDue s fn [] := by
  refine ⟨rfl, (List.append_nil _).symm, rfl, rfl, fun v _ => ?_⟩
  simp

theorem State.sentDue_trans {s t u : State} {fn : Fn} {vs ws : List Nat} (h : s.sentDue t fn vs) (k : t.sentDue u fn ws) :
    s.sentDue u fn (vs ++ ws) := by
  obtain ⟨h1, h2, h3, h4, h5⟩ := h
  obtain ⟨k1, k2, k3, k4, k5⟩ := k
  refine ⟨?_, ?_, k3.trans h3, k4.trans h4, fun v hv => ?_⟩
  · rw [← h1, ← k1]
  · rw [k2, h2, List.map_append, List.append_assoc]
  · rw [k5 v hv, h5 v hv, List.contains_append, Bool.not_or, Bool.and_assoc]

theorem State.sendDue_sent (s : State) (fn : Fn) (v : Nat) : s.sentDue (s.sendDue fn v) fn (if s.vectorDue fn v then [v] else []) := by
  unfold State.sendDue
  by_cases h : s.vectorDue fn v = true
  · have h' := h
    simp only [State.vectorDue, Bool.and_eq_true, and_assoc] at h'
    rw [if_pos h', if_pos h]
    refine ⟨rfl, rfl, s.setHost_other fn _, ?_, fun w hw => ?_⟩
    · rw [State.emit_host, State.setHost_at]
    · rw [State.emit_host, State.setHost_at, BitVec.getLsbD_and, BitVec.getLsbD_not]
      have hbit : (1#128 <<< v).getLsbD w = [v].contains w := by
        change (BitVec.twoPow 128 v).getLsbD w = _
        rw [BitVec.getLsbD_twoPow]
        by_cases hv : v = w
        · subst hv
          simp [hw]
        · simp [hv, Ne.symm hv]
      rw [hbit, decide_eq_true hw, Bool.true_and]
  · have h' := h
    simp only [State.vectorDue, Bool.and_eq_true, and_assoc] at h'
    rw [if_neg h', if_neg h]
    exact s.sentDue_refl fn

/-- What has gone makes no other vector due. -/
theorem State.vectorDue_sent {s t : State} {fn : Fn} {vs : List Nat} (h : s.sentDue t fn vs) {v : Nat} (hv : v < 128) (hn : v ∉ vs) :
    t.vectorDue fn v = s.vectorDue fn v := by
  obtain ⟨-, -, -, h4, h5⟩ := h
  have hp := h5 v hv
  have hc : vs.contains v = false := by simpa using hn
  rw [hc, Bool.not_false, Bool.and_true] at hp
  have hm := congrArg HostPort.msixMask h4
  have ht := congrArg HostPort.tableMask h4
  have hup := congrArg HostPort.up h4
  have hbme := congrArg HostPort.bme h4
  have hd3 := congrArg HostPort.d3hot h4
  simp only at hm ht hup hbme hd3
  simp only [State.vectorDue, State.canMaster, hp, hm, ht, hup, hbme, hd3]

theorem State.foldl_sendDue_sent (fn : Fn) (l : List Nat) (s : State) (hl : l.Nodup) (hlt : ∀ v ∈ l, v < 128) :
    s.sentDue (l.foldl (fun s v => s.sendDue fn v) s) fn (l.filter (s.vectorDue fn)) := by
  induction l generalizing s with
  | nil => exact s.sentDue_refl fn
  | cons v l ih =>
    obtain ⟨hv, hl⟩ := List.nodup_cons.1 hl
    have h1 := s.sendDue_sent fn v
    have h2 := ih (s.sendDue fn v) hl (fun w hw => hlt w (by simp [hw]))
    have hsame : l.filter ((s.sendDue fn v).vectorDue fn) = l.filter (s.vectorDue fn) := by
      refine List.filter_congr fun w hw => State.vectorDue_sent h1 (hlt w (by simp [hw])) ?_
      split
      · simp only [List.mem_singleton]
        rintro rfl
        exact hv hw
      · simp
    have hcons : (v :: l).filter (s.vectorDue fn) = (if s.vectorDue fn v then [v] else []) ++ l.filter (s.vectorDue fn) := by
      rw [List.filter_cons]
      split <;> rfl
    rw [hcons, ← hsame]
    exact State.sentDue_trans h1 h2

/-- A write of a function's masks sends what it makes due, in rising order. -/
theorem State.setMasks_sent (s : State) (fn : Fn) (mask : BitVec 128) (table : Bool) :
    let u := s.setHost fn { s.host[fnIdx fn] with msixMask := mask, tableMask := table }
    u.sentDue (s.setMasks fn mask table) fn ((List.range 128).filter (u.vectorDue fn)) := by
  intro u
  rw [State.setMasks_eq]
  exact State.foldl_sendDue_sent fn _ u List.nodup_range (fun v hv => List.mem_range.1 hv)

/-- A function's masks are written: the vectors' messages go in rising order, as the masks and its pending bits say. -/
theorem State.setMasks_clause {s : State} {fn : Fn} {h : HostPort} (hh : s.host[fnIdx fn] = h) (mask : BitVec 128) (table : Bool) {go : Nat → Bool}
    (hgo : ∀ v, go v = (h.msixPending.getLsbD v && !mask.getLsbD v && !table && s.canMaster fn)) {t : State} (ht : s.setMasks fn mask table = t) :
    { t with host := s.host, out := s.out } = s ∧ t.out = s.out ++ ((List.range 128).filter go).map (fun v => .msix fn v) ∧
    t.host[fnIdx (fnOther fn)] = s.host[fnIdx (fnOther fn)] ∧
    { t.host[fnIdx fn] with msixPending := 0 } = { h with msixMask := mask, tableMask := table, msixPending := 0 } ∧
    ∀ v < 128, t.host[fnIdx fn].msixPending.getLsbD v = (h.msixPending.getLsbD v && !go v) := by
  subst hh ht
  have hdue : (s.setHost fn { s.host[fnIdx fn] with msixMask := mask, tableMask := table }).vectorDue fn = go := by
    funext v
    rw [hgo, State.vectorDue, State.setHost_at, State.canMaster, State.setHost_at]
    rfl
  obtain ⟨h1, h2, h3, h4, h5⟩ := State.setMasks_sent s fn mask table
  rw [hdue] at h2 h5
  refine ⟨?_, h2, ?_, ?_, fun v hv => ?_⟩
  · have := congrArg (fun x : State => { x with host := s.host }) h1
    exact this
  · exact h3.trans (s.setHost_other fn _)
  · rw [h4, State.setHost_at]
  · rw [h5 v hv, State.setHost_at]
    have hc : ((List.range 128).filter go).contains v = go v := by
      rw [Bool.eq_iff_iff, List.contains_iff_mem, List.mem_filter, List.mem_range]
      exact ⟨fun h => h.2, fun h => ⟨hv, h⟩⟩
    rw [hc]

theorem exec_msix (on : Bool) (fn : Fn) (which : Option (Fin 128)) (s : State) :
    exec (if on then Instr.msixMask fn which else .msixUnmask fn which) s = .next (s.msixMasked fn which on) := by
  cases on <;> rfl

/-- Settles O17, each access by what its window serves and memory answers, each mask by the function's MSI-X state before and after. -/
theorem windowAccessesAndMsixMasks : Obligations.WindowAccessesAndMsixMasks := by
  unfold Obligations.WindowAccessesAndMsixMasks
  refine ⟨fun s fn off hup hq => ?_, fun s fn on which => ?_⟩
  · intro v a served
    refine ⟨fun len hs hb => ?_, fun len hs hb => ?_, fun len errs hw => ?_, fun data hne hs hb => ?_, fun len errs hw hf => ?_,
      fun data errs hne hw hf => ?_, fun data errs hne hw => ?_⟩
    · obtain ⟨hw, hf⟩ := hs
      have hb' : (s.visit v a len).mem.meetsBad v a len = false := (State.visit_meetsBad ..).trans hb
      refine ⟨_, exec_bar2Read hup hq len [], ?_⟩
      rw [hw, hf]
      simp only [Bool.not_true, Bool.false_eq_true, if_false]
      rw [State.devCheck_sound hb', if_neg Bool.false_ne_true, State.devRead, State.visit_dram]
    · obtain ⟨hw, hf⟩ := hs
      have hb' : (s.visit v a len).mem.meetsBad v a len = true := (State.visit_meetsBad ..).trans hb
      let c := ((s.visit v a len).devCheck v a len []).1
      refine ⟨(c.drawnN len).emit (.bar2Data fn (c.freeBytes len) true), c.freeBytes len, ?_, List.getLast?_concat, by simp [State.freeBytes]⟩
      rw [exec_bar2Read hup hq, hw, hf]
      simp only [Bool.not_true, Bool.false_eq_true, if_false]
      rw [if_pos (State.devCheck_bad hb')]
    · refine ⟨_, exec_bar2Read hup hq len errs, ?_⟩
      rw [hw]
      rfl
    · obtain ⟨hw, hf⟩ := hs
      have hb' : (s.visit v a data.length).mem.meetsBad v a data.length = false := (State.visit_meetsBad ..).trans hb
      have hh : { s.host[fnIdx fn] with writes := [] } = s.host[fnIdx fn] := by rw [← hq]
      obtain ⟨hstored, hkept⟩ := MemState.write_sound hb'
      rw [State.visit_dram] at hkept
      refine ⟨(s.visit v a data.length).devWrite v a data, ?_, ?_, hstored, hkept⟩
      · rw [exec_bar2Write hup hq [] hne, hw, if_neg (by decide), State.performWrites_one (State.stage3_of_windowOpen hw) rfl, if_pos hf]
        exact congrArg Host.Outcome.next (State.performIn_nil_sound (v := v) (a := a) hh hne hb)
      · obtain ⟨rows, places, hv⟩ := s.visit_frame v a data.length
        rw [hv]
        rfl
    · refine ⟨_, exec_bar2Read hup hq len errs, ?_⟩
      rw [hw, hf]
      rfl
    · refine ⟨_, exec_bar2Write hup hq errs hne, ?_⟩
      rw [hw, if_neg (by decide), State.performWrites_one (State.stage3_of_windowOpen hw) rfl, hf, if_neg Bool.false_ne_true]
    · refine ⟨_, exec_bar2Write hup hq errs hne, ?_⟩
      rw [hw]
      rfl
  · intro h command mask table go
    constructor
    · intro hopen
      refine ⟨_, exec_msix on fn which s, ?_⟩
      cases which with
      | some v =>
        have hr : s.reaches fn = true := hopen.resolve_right (fun hc => by cases hc.1)
        refine State.setMasks_clause rfl mask table (fun _ => rfl) ?_
        simp only [State.msixMasked, hr, if_true]
        rfl
      | none =>
        have hr : s.host[fnIdx fn].up = true ∧ s.enumerates = true := by
          rcases hopen with hr | ⟨-, hr⟩
          · simp only [State.reaches, Bool.and_eq_true] at hr
            exact ⟨hr.1.1, hr.2⟩
          · exact hr
        refine State.setMasks_clause rfl mask table (fun _ => rfl) ?_
        simp only [State.msixMasked, hr, and_self, if_true]
        rfl
    · intro hsome hup hd3
      obtain ⟨v, rfl⟩ := Option.isSome_iff_exists.1 hsome
      have hr : s.reaches fn = false := by
        have hd : s.host[fnIdx fn].d3hot = true := hd3
        simp only [State.reaches, hd, Bool.not_true, Bool.and_false, Bool.false_and]
      have hboth : s.host[fnIdx fn].up = true ∧ s.host[fnIdx fn].d3hot = true := ⟨hup, hd3⟩
      rw [exec_msix]
      simp only [State.msixMasked, hr, Bool.false_eq_true, if_false, State.refuseWrite, hboth, and_self, if_true]

end Sys2Proof.Machine
end

section
/-! SUPPORT. What launches do to tiles and queues: a record's frame, scratchpad writes, tiles changed one after another, and the end of
the descriptor in front of its queue. -/

namespace Sys2Proof.Machine

open Sys2Proof

/-! ## The ring log -/

/-- A flush changes the log and LOG_ERR alone. -/
theorem State.flushLog_frame (s : State) (forced : Bool) : ∃ l r, s.flushLog forced = { s with log := l, regs := r } := by
  unfold State.flushLog
  dsimp only
  generalize hl : LogState.flush _ _ _ = l'
  split <;> split <;> exact ⟨_, _, rfl⟩

/-- A record changes the log and LOG_ERR alone. -/
theorem State.record_frame (s : State) (typ : Nat) (cls : LogClass) (rep : Bool) (subject : Nat) (detail : List Byte) :
    ∃ l r, s.record typ cls rep subject detail = { s with log := l, regs := r } := by
  by_cases hopen : rep = true ∧ s.log.opened.any (fun r => r.typ = BitVec.ofNat 8 typ ∧ r.subject = BitVec.ofNat 32 subject) = true
  · exact ⟨_, _, if_pos hopen⟩
  · by_cases htakes : s.log.takes (s.newRecord typ cls rep subject detail) = true
    · by_cases hfault : cls = .fault
      · obtain ⟨l, r, h⟩ := State.flushLog_frame _ true
        exact ⟨l, r, (if_neg hopen).trans ((if_pos htakes).trans ((if_pos hfault).trans h))⟩
      · exact ⟨_, _, (if_neg hopen).trans ((if_pos htakes).trans (if_neg hfault))⟩
    · exact ⟨_, _, (if_neg hopen).trans (if_neg htakes)⟩

/-! ## Scratchpads -/

theorem find_writePad_other (m : Keyed Byte) (off i : Nat) (l : List Byte) (h : ∀ k < l.length, i ≠ (off + k) % padSize) :
    find 0 (writePad m off l) i = find 0 m i := by
  induction l generalizing m off with
  | nil => rfl
  | cons b l ih =>
    have h0 : i ≠ off % padSize := h 0 (by simp)
    rw [writePad, ih, find_store_ne _ _ _ h0]
    intro k hk
    have := h (k + 1) (by simpa using hk)
    rwa [show off + (k + 1) = off + 1 + k by omega] at this

theorem find_writePad_at (m : Keyed Byte) {off k : Nat} {l : List Byte} (hfit : off + l.length ≤ padSize) (hk : k < l.length) :
    find 0 (writePad m off l) (off + k) = l[k] := by
  induction l generalizing m off k with
  | nil => simp at hk
  | cons b l ih =>
    simp only [List.length_cons] at hfit hk
    have hmod : ∀ j, j < padSize → j % padSize = j := fun j hj => Nat.mod_eq_of_lt hj
    cases k with
    | zero =>
      rw [Nat.add_zero, writePad, find_writePad_other, hmod off (by omega), find_store, if_pos rfl]
      · rfl
      · intro j hj
        rw [hmod _ (by omega)]
        omega
    | succ k =>
      rw [writePad, show off + (k + 1) = off + 1 + k by omega, ih _ (by omega) (by omega)]
      rfl

theorem devRead_length (m : Keyed Byte) (v : BitVec 2) (a n : Nat) : (devRead m v a n).length = n := by
  induction n generalizing a with
  | zero => rfl
  | succ n ih => rw [devRead, List.length_cons, ih]

/-- What a scratchpad write leaves of its tile, and of the module: the bytes are stored, and threads, fence and code cache stay. -/
def State.padWritten (s u : State) (t off : Nat) (bytes : List Byte) : Prop :=
  (u.tile t).pad = writePad (s.tile t).pad off bytes ∧ (u.tile t).icacheValid = (s.tile t).icacheValid ∧
  (∀ k, k ≠ t → u.tile k = s.tile k) ∧ u.hq = s.hq

theorem State.matrixCatchUp_padWritten (s : State) (t : Nat) : s.padWritten (s.matrixCatchUp t) t 0 [] := by
  unfold State.matrixCatchUp
  dsimp only
  split
  · split
    · refine ⟨?_, ?_, fun k hk => ?_, rfl⟩
      · rw [State.setTile_tile, if_pos rfl]; rfl
      · rw [State.setTile_tile, if_pos rfl]
      · rw [State.setTile_tile, if_neg hk]; rfl
    · exact ⟨rfl, rfl, fun _ _ => rfl, rfl⟩
  · exact ⟨rfl, rfl, fun _ _ => rfl, rfl⟩

theorem State.padUncorrectable_padWritten (s : State) (t w : Nat) : s.padWritten (s.padUncorrectable t w) t 0 [] := by
  unfold State.padUncorrectable
  obtain ⟨l, r, h⟩ := State.record_frame (s.setTile t { s.tile t with padUeLast := 8 * w }) 0x10 .fault false (tileIdent t) (natLe 4 (8 * w))
  dsimp only
  rw [h]
  have htile : ∀ k, ({ s.setTile t { s.tile t with padUeLast := 8 * w } with log := l, regs := r } : State).tile k =
      if k = t then { s.tile t with padUeLast := 8 * w } else s.tile k := fun k => State.setTile_tile s t k _
  refine ⟨?_, ?_, fun k hk => ?_, rfl⟩
  · rw [htile, if_pos rfl]; rfl
  · rw [htile, if_pos rfl]
  · rw [htile, if_neg hk]

theorem State.padWritten_trans {s u v : State} {t off : Nat} {bytes : List Byte} (h : s.padWritten u t off bytes) (k : u.padWritten v t 0 []) :
    s.padWritten v t off bytes := by
  obtain ⟨h1, h2, h3, h4⟩ := h
  obtain ⟨k1, k2, k3, k4⟩ := k
  exact ⟨k1.trans h1, k2.trans h2, fun i hi => (k3 i hi).trans (h3 i hi), k4.trans h4⟩

theorem State.padWrite_padWritten (s : State) (t off : Nat) (bytes : List Byte) : s.padWritten (s.padWrite t off bytes) t off bytes := by
  have hcatch := s.matrixCatchUp_padWritten t
  unfold State.padWrite
  dsimp only
  generalize s.matrixCatchUp t = u at hcatch
  obtain ⟨h1, h2, h3, h4⟩ := hcatch
  generalize Tile.rereadBad _ _ = ws
  generalize (u.tile t).padBad.filter _ = bad
  have hset : s.padWritten (u.setTile t { u.tile t with pad := writePad (u.tile t).pad off bytes, padBad := bad }) t off bytes := by
    refine ⟨?_, ?_, fun k hk => ?_, h4⟩
    · rw [State.setTile_tile, if_pos rfl, h1]; rfl
    · rw [State.setTile_tile, if_pos rfl]; exact h2
    · rw [State.setTile_tile, if_neg hk]; exact h3 k hk
  generalize u.setTile t _ = v at hset
  induction ws generalizing v with
  | nil => exact hset
  | cons w ws ih => exact ih _ (State.padWritten_trans hset (State.padUncorrectable_padWritten v t w))

/-! ## Tiles changed one after another -/

theorem State.foldl_tiles {f : State → Nat → State} {P : Nat → Tile → Tile → Prop}
    (hf : ∀ s t, P t (s.tile t) ((f s t).tile t) ∧ ∀ k, k ≠ t → (f s t).tile k = s.tile k) (s : State) (first n : Nat) :
    (∀ k, first ≤ k → k < first + n → P k (s.tile k) (((List.range n).foldl (fun s i => f s (first + i)) s).tile k)) ∧
    ∀ k, k < first ∨ first + n ≤ k → ((List.range n).foldl (fun s i => f s (first + i)) s).tile k = s.tile k := by
  induction n with
  | zero => exact ⟨fun k h1 h2 => by omega, fun _ _ => rfl⟩
  | succ n ih =>
    obtain ⟨hin, hout⟩ := ih
    rw [List.range_succ, List.foldl_append, List.foldl_cons, List.foldl_nil]
    generalize (List.range n).foldl (fun s i => f s (first + i)) s = u at hin hout
    obtain ⟨hp, hother⟩ := hf u (first + n)
    refine ⟨fun k h1 h2 => ?_, fun k hk => ?_⟩
    · by_cases hk : k = first + n
      · subst hk
        rw [← hout _ (Or.inr (Nat.le_refl _))]
        exact hp
      · rw [hother k hk]
        exact hin k h1 (by omega)
    · rw [hother k (by omega)]
      exact hout k (by omega)

/-- One of some tiles is fenced, or none is. -/
theorem anyFenced_false {s : State} {first n : Nat} (h : ∀ i < n, (s.tile (first + i)).fenced = false) :
    (List.range n).any (fun i => (s.tile (first + i)).fenced) = false := by
  rw [List.any_eq_false]
  intro i hi
  rw [h i (List.mem_range.1 hi)]
  decide

theorem anyFenced_true {s : State} {first n : Nat} (h : ∃ i < n, (s.tile (first + i)).fenced = true) :
    (List.range n).any (fun i => (s.tile (first + i)).fenced) = true := by
  obtain ⟨i, hi, hf⟩ := h
  exact List.any_eq_true.2 ⟨i, List.mem_range.2 hi, hf⟩

/-! ## The descriptor in front of its queue -/

section
variable {s : State} {q : Fin 64} {d : InFlight} {rest : List InFlight} (hq : s.queues[q].inflight = d :: rest)
include hq

theorem State.front_of_fetched {type : Nat} (hp : d.phase = .fetched) (ht : dfield d.desc 0 1 = type) : s.front q type = some d := by
  rw [State.front, hq]
  exact if_pos ⟨hp, ht⟩

theorem State.complete_front (c : Completion) (hp : ∀ k, d.phase ≠ .ended k) :
    s.complete q c = s.setQueue q { s.queues[q] with inflight := { d with phase := .ended c } :: rest } := by
  unfold State.complete
  dsimp only
  rw [hq]
  dsimp only
  split
  · rename_i k hk
    exact absurd hk (hp k)
  · rfl

theorem State.startFront_front : s.startFront q = s.setQueue q { s.queues[q] with inflight := { d with phase := .running } :: rest } := by
  unfold State.startFront
  dsimp only
  rw [hq]

end

/-! ## The end of a launch -/

theorem State.endLaunch_launches (s : State) (l : Launch) (aborted : Bool) :
    (s.endLaunch l aborted).hq.launches = s.hq.launches.filter (fun k => decide (k.q ≠ l.q)) := rfl

theorem find_quiet (l : Launch) (aborted : Bool) (m : Keyed Tile) {k : Nat} (hk : l.holds k = true) :
    find Tile.fresh (m.map (fun e => if l.holds e.1 then (e.1, e.2.quiet aborted) else e)) k = Tile.fresh ∨
    ∃ x : Tile, find Tile.fresh (m.map (fun e => if l.holds e.1 then (e.1, e.2.quiet aborted) else e)) k = x.quiet aborted := by
  induction m with
  | nil => exact Or.inl rfl
  | cons e m ih =>
    obtain ⟨j, x⟩ := e
    have hskip : ∀ (y : Tile) (r : Keyed Tile), j ≠ k → find Tile.fresh ((j, y) :: r) k = find Tile.fresh r k := fun y r hj => if_neg hj
    rw [List.map_cons]
    by_cases hj : j = k
    · subst hj
      exact Or.inr ⟨x, by rw [if_pos hk]; exact if_pos rfl⟩
    · split
      · rw [hskip _ _ hj]; exact ih
      · rw [hskip _ _ hj]; exact ih

/-- The threads of a tile that an ended launch held are IDLE (R45). -/
theorem State.endLaunch_idle (s : State) (l : Launch) (aborted : Bool) {k : Nat} (hk : l.holds k = true) (n : Fin 16) :
    ((s.endLaunch l aborted).thread k n).state = .idle := by
  unfold State.thread State.tile State.endLaunch
  dsimp only
  obtain h | ⟨x, h⟩ := find_quiet l aborted s.tiles hk
  · rw [h]
    simp [Tile.fresh, Thread.idle]
  · rw [h]
    simp [Tile.quiet]

end Sys2Proof.Machine
end

section
/-! PROOFS. Launches (O21): a LAUNCH is checked and joins the waiting launches, its tiles are prepared, its threads start, and its time runs out. -/

namespace Sys2Proof.Machine

open Sys2Proof

/-! ## A LAUNCH is checked -/

section
variable {s : State} {q : Fin 64} {d : InFlight} {rest : List InFlight} (hq : s.queues[q].inflight = d :: rest)
include hq

theorem exec_launch_invalid (hp : d.phase = .fetched) (ht : dfield d.desc 0 1 = 2) {off : Nat} (hbad : firstInvalid (launchChecks d.desc) = some off)
    (errs : DramErrs) : exec (.launch q errs) s =
      .next (s.setQueue q { s.queues[q] with inflight := { d with phase := .ended (invalidAt off) } :: rest }) := by
  rw [show exec (.launch q errs) s = execLaunch q errs s from rfl, execLaunch, State.front_of_fetched hq hp ht]
  dsimp only
  rw [hbad]
  dsimp only
  rw [State.complete_front hq _ fun k hk => by rw [hp] at hk; cases hk]

theorem exec_launch_good (hp : d.phase = .fetched) (ht : dfield d.desc 0 1 = 2) (hgood : firstInvalid (launchChecks d.desc) = none) (errs : DramErrs) :
    exec (.launch q errs) s = .next (s.admitLaunch q d.desc errs) := by
  rw [show exec (.launch q errs) s = execLaunch q errs s from rfl, execLaunch, State.front_of_fetched hq hp ht]
  dsimp only
  rw [hgood]

theorem State.admitLaunch_good {view : BitVec 2} {base : Nat} {header : List Byte} {l : Launch} (hview : BitVec.ofNat 2 (dfield d.desc 27 1) = view)
    (hbase : dfield d.desc 8 8 % 2 ^ 41 = base) (hheader : Machine.devRead s.mem.dram view base 64 = header) (hl : newLaunch q d.desc header = l)
    (hmap : mapped view base 64 = true) (hopen : s.queueOpen q view base 64 = true) (hsound : s.mem.meetsBad view base 64 = false)
    (himage : imageGood header base (dfield d.desc 26 1) = true) (hargs : mapped view (dfield d.desc 16 8 % 2 ^ 41) (dfield d.desc 24 2) = true)
    (hfit : ∀ i < l.count, (s.tile (l.first + i)).fenced = false) :
    s.admitLaunch q d.desc [] =
      let v := (s.visit view base 64).setQueue q { s.queues[q] with inflight := { d with phase := .running } :: rest }
      { v with hq := ({ s.hq with launches := s.hq.launches ++ [l] } : HostEngine).noteReady } := by
  have hread : (s.visit view base 64).devRead view base 64 = header := by
    rw [← hheader, State.devRead, State.visit_dram]
  have hfront : (s.visit view base 64).queues[q].inflight = d :: rest := by
    rw [State.visit_queues]
    exact hq
  have htiles : (List.range l.count).any (fun i => ((s.visit view base 64).tile (l.first + i)).fenced) = false :=
    anyFenced_false fun i hi => by rw [State.tile, State.visit_tiles]; exact hfit i hi
  unfold State.admitLaunch
  dsimp only
  rw [hview, hbase, State.devCheck_sound ((State.visit_meetsBad ..).trans hsound), hread, hmap, hopen, himage, hargs, hl, htiles,
    State.startFront_front hfront]
  simp [State.setQueue]

end

/-! ## Preparation (R49, R185) -/

/-- The argument block fits its place in the scratchpad, and its bytes are read as they stand. -/
theorem State.argBlock_sound {s : State} {l : Launch} (h : s.mem.meetsBad l.view l.argAddr l.argSize = false) :
    s.argBlock l [] = (s, Machine.devRead s.mem.dram l.view l.argAddr l.argSize) := by
  unfold State.argBlock
  rw [State.devCheck_sound h]
  rfl

/-- The tile t' that preparation for launch l, with the argument block args, makes of tile k as it was. -/
def preparedFrom (l : Launch) (args : List Byte) (k : Nat) (x x' : Tile) : Prop :=
  x'.threads = Vector.ofFn (launchThread l k) ∧ x'.icacheValid = false ∧
  x'.pad = writePad (if l.clear then [] else x.pad) argBase args

theorem State.prepareTile_tiles (l : Launch) (args : List Byte) (s : State) (t : Nat) :
    preparedFrom l args t (s.tile t) ((s.prepareTile l args t).tile t) ∧ ∀ k, k ≠ t → (s.prepareTile l args t).tile k = s.tile k := by
  unfold State.prepareTile
  dsimp only
  generalize hx : (if l.clear then ({ s.tile t with icacheValid := false, pad := [], padBad := [] } : Tile)
    else { s.tile t with icacheValid := false }) = x
  have hpad : x.pad = if l.clear then [] else (s.tile t).pad := by
    rw [← hx]
    split <;> rfl
  have hcache : x.icacheValid = false := by
    rw [← hx]
    split <;> rfl
  obtain ⟨hw, hc, hother, -⟩ := (s.setTile t x).padWrite_padWritten t argBase args
  rw [State.setTile_tile, if_pos rfl] at hw hc
  refine ⟨?_, fun k hk => ?_⟩
  · rw [State.setTile_tile, if_pos rfl]
    exact ⟨rfl, hc.trans hcache, hw.trans (by rw [hpad])⟩
  · rw [State.setTile_tile, if_neg hk, hother k hk, State.setTile_tile, if_neg hk]

theorem State.prepareTile_hq (s : State) (l : Launch) (args : List Byte) (t : Nat) : (s.prepareTile l args t).hq = s.hq :=
  (State.padWrite_padWritten _ t argBase args).2.2.2

theorem State.foldl_hq {f : State → Nat → State} (hf : ∀ s t, (f s t).hq = s.hq) (s : State) (ts : List Nat) : (ts.foldl f s).hq = s.hq := by
  induction ts generalizing s with
  | nil => rfl
  | cons t ts ih => exact (ih (f s t)).trans (hf s t)

/-- A launch that takes the place of its queue's launch is among the launches. -/
theorem State.mem_setLaunch {s : State} {l l' : Launch} (hl : l ∈ s.hq.launches) (hq : l.q = l'.q) : l' ∈ (s.setLaunch l').hq.launches :=
  List.mem_map.2 ⟨l, hl, if_pos hq⟩

theorem preparedFrom.thread {l : Launch} {args : List Byte} {k : Nat} {x x' : Tile} (h : preparedFrom l args k x x') (n : Fin 16) :
    x'.threads[n] = launchThread l k n := by
  obtain ⟨hthreads, -, -⟩ := h
  rw [hthreads]
  exact Vector.getElem_ofFn _

/-- The bytes of a prepared scratchpad: the argument block at its place, and elsewhere 0 or what was there. -/
theorem preparedFrom.pad {l : Launch} {args : List Byte} {k : Nat} {x x' : Tile} (h : preparedFrom l args k x x') (hfit : args.length ≤ 256) :
    (∀ i < args.length, find 0 x'.pad (argBase + i) = args[i]?.getD 0) ∧
    ∀ i, i < argBase ∨ argBase + args.length ≤ i → find 0 x'.pad i = if l.clear then 0 else find 0 x.pad i := by
  obtain ⟨-, -, hpad⟩ := h
  have hin : argBase + args.length ≤ padSize := by
    simp only [argBase, padSize]
    omega
  rw [hpad]
  refine ⟨fun i hi => ?_, fun i hi => ?_⟩
  · rw [find_writePad_at _ hin hi, List.getElem?_eq_getElem hi, Option.getD_some]
  · rw [find_writePad_other]
    · split
      · rfl
      · rfl
    · intro j hj
      rw [Nat.mod_eq_of_lt (by omega)]
      omega

/-- A launch that is found by its queue and phase is among the launches. -/
theorem HostEngine.find_launch {h : HostEngine} {q : Fin 64} {p : LaunchPhase} {l : Launch}
    (hl : h.launches.find? (fun k => decide (k.q = q ∧ k.phase = p)) = some l) : l ∈ h.launches ∧ l.q = q ∧ l.phase = p :=
  ⟨List.mem_of_find?_eq_some hl, by simpa using List.find?_some hl⟩

section
variable {s : State} {q : Fin 64} {l : Launch}

theorem exec_launchPrepare_sound (hl : s.hq.launches.find? (fun k => decide (k.q = q ∧ k.phase = .waiting)) = some l)
    (hfit : ∀ i < l.count, (s.tile (l.first + i)).fenced = false) (hfirst : s.firstReady q = true) (hidle : s.tilesIdle l = true)
    (hopen : s.queueOpen q l.view l.argAddr l.argSize = true) (hsound : s.mem.meetsBad l.view l.argAddr l.argSize = false) :
    exec (.launchPrepare q []) s = .next (
      let v := ((List.range l.count).foldl (fun u i => u.prepareTile l (devRead s.mem.dram l.view l.argAddr l.argSize) (l.first + i))
        (s.visit l.view l.argAddr l.argSize)).setLaunch { l with phase := .prepared }
      { v with hq := ({ v.hq with lastStart := q } : HostEngine).noteReady }) := by
  rw [show exec (.launchPrepare q []) s = execLaunchPrepare q [] s from rfl, execLaunchPrepare, hl]
  dsimp only
  rw [anyFenced_false hfit, hfirst, hidle, hopen, State.argBlock_sound ((State.visit_meetsBad ..).trans hsound), State.visit_dram]
  rfl

/-! ## Start and end -/

theorem exec_launchThreadsStart_fenced (hl : s.hq.launches.find? (fun k => decide (k.q = q ∧ k.phase = .prepared)) = some l)
    (hfenced : ∃ i < l.count, (s.tile (l.first + i)).fenced = true) :
    exec (.launchThreadsStart q) s = .next ((s.endLaunch l true).complete q (plain 4)) := by
  rw [show exec (.launchThreadsStart q) s = execLaunchThreadsStart q s from rfl, execLaunchThreadsStart, hl]
  dsimp only
  rw [if_pos (anyFenced_true hfenced)]

theorem exec_launchThreadsStart_fit (hl : s.hq.launches.find? (fun k => decide (k.q = q ∧ k.phase = .prepared)) = some l)
    (hfit : ∀ i < l.count, (s.tile (l.first + i)).fenced = false) : ∃ b,
    exec (.launchThreadsStart q) s = .next ((List.range l.count).foldl
      (fun u i => u.setTile (l.first + i) ((u.tile (l.first + i)).start l.mask))
      { s.setLaunch { l with phase := .running, started := s.time } with budget := b }) := by
  rw [show exec (.launchThreadsStart q) s = execLaunchThreadsStart q s from rfl, execLaunchThreadsStart, hl]
  dsimp only
  rw [anyFenced_false hfit]
  exact ⟨_, rfl⟩

/-- What ends a launch whose time has run out (R212): its first fault in time, or TIMEOUT. -/
def Launch.late (l : Launch) : Completion :=
  match firstFault (l.faults.filter (fun f => decide (f.stamp.toNat ≤ l.started.toNat + l.timeoutUs * 12500))) with
  | some f => faultCompletion f (l.faults.filter (fun f => decide (f.stamp.toNat ≤ l.started.toNat + l.timeoutUs * 12500))).length
  | none => plain 6

theorem exec_launchTimeout_late (hl : s.hq.launches.find? (fun k => decide (k.q = q ∧ k.phase = .running)) = some l) (ht : l.timeoutUs ≠ 0) :
    exec (.launchTimeout q) s = .next ((s.endLaunch l true).complete q l.late) := by
  have htimely : l.timely = l.faults.filter (fun f => decide (f.stamp.toNat ≤ l.started.toNat + l.timeoutUs * 12500)) := if_neg ht
  rw [show exec (.launchTimeout q) s = execLaunchTimeout q s from rfl, execLaunchTimeout, hl, Launch.late]
  dsimp only
  rw [if_neg ht, htimely]
  cases firstFault (l.faults.filter (fun f => decide (f.stamp.toNat ≤ l.started.toNat + l.timeoutUs * 12500))) with
  | none => rfl
  | some f => rfl

end

/-- A launch that ends its running descriptor: the queue holds its completion, and no launch of the queue remains. -/
theorem State.endLaunch_complete {s : State} {q : Fin 64} {d : InFlight} {rest : List InFlight} (hq : s.queues[q].inflight = d :: rest)
    (hp : d.phase = .running) (l : Launch) (c : Completion) : (s.endLaunch l true).complete q c =
      (s.endLaunch l true).setQueue q { s.queues[q] with inflight := { d with phase := .ended c } :: rest } :=
  State.complete_front (s := s.endLaunch l true) hq c fun k hk => by rw [hp] at hk; cases hk

theorem State.endLaunch_launches_ne {s : State} {q : Fin 64} {l : Launch} (hlq : l.q = q) {k : Launch}
    (hk : k ∈ (s.endLaunch l true).hq.launches) : k.q ≠ q := by
  rw [State.endLaunch_launches, List.mem_filter, hlq] at hk
  exact of_decide_eq_true hk.2

/-- A launch past its wait holds its tiles. -/
theorem Launch.holds_of_phase {l : Launch} (hp : l.phase ≠ .waiting) {k : Nat} (h1 : l.first ≤ k) (h2 : k < l.first + l.count) : l.holds k = true := by
  simp [Launch.holds, Launch.has, hp, h1, h2]

theorem Tile.start_threads (x : Tile) (mask : BitVec 16) (n : Fin 16) : (x.start mask).threads[n] =
    if mask.getLsbD n then { x.threads[n] with state := .ready, started := true } else x.threads[n] :=
  Vector.getElem_ofFn _

/-- Settles O21, following a LAUNCH from its checks over its preparation and its start to its timeout. -/
theorem launchesPrepareStartAndTimeOut : Obligations.LaunchesPrepareStartAndTimeOut := by
  unfold Obligations.LaunchesPrepareStartAndTimeOut
  intro s q d rest hq endsWith view base
  refine ⟨fun hp ht => ⟨fun off errs hbad => ?_, ?_⟩, ?_, ?_, ?_, ?_⟩
  · exact ⟨_, exec_launch_invalid hq hp ht hbad errs, rfl, rfl⟩
  · intro hgood hmap hopen hsound header himage hargs l hfit
    refine ⟨_, (exec_launch_good hq hp ht hgood []).trans (congrArg _ (State.admitLaunch_good hq rfl rfl rfl rfl hmap hopen hsound himage hargs hfit)),
      rfl, ?_⟩
    have hhq : (s.visit view base 64).hq = s.hq := State.visit_hq ..
    dsimp only [State.setQueue]
    rw [← hhq]
  · intro l hl hfit hfirst hidle hsize hopen hsound
    obtain ⟨hmem, hlq, -⟩ := HostEngine.find_launch hl
    obtain ⟨hin, hout⟩ := (s.visit l.view l.argAddr l.argSize).foldl_tiles
      (State.prepareTile_tiles l (devRead s.mem.dram l.view l.argAddr l.argSize)) l.first l.count
    have htile : ∀ k, (s.visit l.view l.argAddr l.argSize).tile k = s.tile k := fun k => by rw [State.tile, State.visit_tiles]; rfl
    refine ⟨_, exec_launchPrepare_sound hl hfit hfirst hidle hopen hsound, ?_, fun k h1 h2 => ?_, fun k hk => (hout k hk).trans (htile k)⟩
    · refine State.mem_setLaunch (l := l) ?_ rfl
      rw [State.foldl_hq fun u i => State.prepareTile_hq u l _ (l.first + i), State.visit_hq]
      exact hmem
    · have hprep := hin k h1 h2
      rw [htile] at hprep
      have hlen := devRead_length s.mem.dram l.view l.argAddr l.argSize
      obtain ⟨hargs, hrest⟩ := hprep.pad (by omega)
      rw [hlen] at hargs hrest
      exact ⟨hprep.thread, hprep.2.1, hargs, fun i _ hi => hrest i hi⟩
  · intro l hl hp hfenced
    obtain ⟨-, hlq, -⟩ := HostEngine.find_launch hl
    refine ⟨_, (exec_launchThreadsStart_fenced hl hfenced).trans (congrArg _ (State.endLaunch_complete hq hp l _)), rfl,
      fun k hk => State.endLaunch_launches_ne hlq hk⟩
  · intro l hl hfit
    obtain ⟨hmem, hlq, -⟩ := HostEngine.find_launch hl
    obtain ⟨b, hb⟩ := exec_launchThreadsStart_fit hl hfit
    obtain ⟨hin, hout⟩ := State.foldl_tiles (f := fun u t => u.setTile t ((u.tile t).start l.mask)) (P := fun _ x x' => x' = x.start l.mask)
      (fun u t => ⟨by rw [State.setTile_tile, if_pos rfl], fun k hk => by rw [State.setTile_tile, if_neg hk]⟩)
      { s.setLaunch { l with phase := .running, started := s.time } with budget := b } l.first l.count
    refine ⟨_, hb, ?_, fun k h1 h2 n => ?_, hout⟩
    · rw [State.foldl_hq (f := fun u i => u.setTile (l.first + i) ((u.tile (l.first + i)).start l.mask)) fun _ _ => rfl]
      exact State.mem_setLaunch hmem rfl
    · rw [State.thread, hin k h1 h2]
      exact Tile.start_threads _ _ n
  · intro l hl ht hp early
    obtain ⟨-, hlq, hphase⟩ := HostEngine.find_launch hl
    refine ⟨_, (exec_launchTimeout_late hl ht).trans (congrArg _ (State.endLaunch_complete hq hp l _)), rfl,
      fun k hk => State.endLaunch_launches_ne hlq hk, fun k h1 h2 n => ?_⟩
    exact State.endLaunch_idle s l true (Launch.holds_of_phase (by rw [hphase]; decide) h1 h2) n

end Sys2Proof.Machine
end

section
/-! SUPPORT. The state of the module's own control: stage, start, Heartwood, budget, power and the states of the Berux ports. Signals, reports, records
and the ends of the engines' work leave it alone, and a port that stops changes its own state there and nothing else. -/

namespace Sys2Proof.Machine

open Sys2Proof

/-- What decides on starts, restarts and re-entries, and the state of every port: the part of the state that the engines' own work leaves alone. -/
structure Control where
  stage : Stage
  start : Startup
  clk : Clocks
  power : Power
  budget : Budget
  hwd : Hwd
  test : Option RunTest
  running : Bool
  pendingSlot : Option (Fin 2)
  stopped : Bool
  ports : Vector PortState 20

def State.control (s : State) : Control :=
  { stage := s.stage, start := s.start, clk := s.clk, power := s.power, budget := s.budget, hwd := s.hwd, test := s.svc.test
    running := s.crown.running, pendingSlot := s.crown.pendingSlot, stopped := s.hq.stopped, ports := s.ports.map Port.state }

section
variable {s t : State} (h : t.control = s.control)
include h

theorem State.stage_of_control : t.stage = s.stage := congrArg Control.stage h
theorem State.start_of_control : t.start = s.start := congrArg Control.start h
theorem State.clk_of_control : t.clk = s.clk := congrArg Control.clk h
theorem State.power_of_control : t.power = s.power := congrArg Control.power h
theorem State.budget_of_control : t.budget = s.budget := congrArg Control.budget h
theorem State.hwd_of_control : t.hwd = s.hwd := congrArg Control.hwd h
theorem State.test_of_control : t.svc.test = s.svc.test := congrArg Control.test h
theorem State.running_of_control : t.crown.running = s.crown.running := congrArg Control.running h

end

theorem control_ite {c : Prop} [Decidable c] {s t u : State} (ht : t.control = s.control) (hu : u.control = s.control) :
    (if c then t else u).control = s.control := by
  split
  · exact ht
  · exact hu

theorem control_foldl {α : Type} {f : State → α → State} (hf : ∀ s a, (f s a).control = s.control) (l : List α) (s : State) :
    (l.foldl f s).control = s.control := by
  induction l generalizing s with
  | nil => rfl
  | cons a l ih => exact (ih (f s a)).trans (hf s a)

/-! ## Records, signals and reports -/

section
variable (s : State)

@[simp] theorem State.control_record (typ : Nat) (cls : LogClass) (rep : Bool) (subject : Nat) (detail : List Byte) :
    (s.record typ cls rep subject detail).control = s.control := by
  obtain ⟨_, _, h⟩ := s.record_frame typ cls rep subject detail
  rw [h]
  rfl

@[simp] theorem State.control_flushLog (forced : Bool) : (s.flushLog forced).control = s.control := by
  obtain ⟨_, _, h⟩ := s.flushLog_frame forced
  rw [h]
  rfl

@[simp] theorem State.control_visit (v : BitVec 2) (a len : Nat) : (s.visit v a len).control = s.control := by
  obtain ⟨_, _, h⟩ := s.visit_frame v a len
  rw [h]
  rfl

@[simp] theorem State.control_emit (o : Output) : (s.emit o).control = s.control := rfl
@[simp] theorem State.control_drawnN (n : Nat) : (s.drawnN n).control = s.control := rfl
@[simp] theorem State.control_setQueue (q : Fin 64) (x : Queue) : (s.setQueue q x).control = s.control := rfl
@[simp] theorem State.control_setTile (t : Nat) (x : Tile) : (s.setTile t x).control = s.control := rfl
@[simp] theorem State.control_setFleet (f : Fleet) : (s.setFleet f).control = s.control := rfl

@[simp] theorem State.control_signal (fn : Fn) (vec : Nat) : (s.signal fn vec).control = s.control := by
  unfold State.signal
  exact control_ite rfl (control_ite rfl rfl)

@[simp] theorem State.control_signalBoth : s.signalBoth.control = s.control := by
  simp [State.signalBoth]

@[simp] theorem State.control_signalRing (fn : Fn) : (s.signalRing fn).control = s.control := by
  unfold State.signalRing
  exact control_ite rfl ((State.control_signal ..).trans rfl)

theorem State.control_ringPut {fn : Fn} {msg : List Byte} {t : State} (h : s.ringPut fn msg = some t) : t.control = s.control := by
  unfold State.ringPut at h
  dsimp only at h
  split at h
  · cases h
  · cases h
    refine Eq.trans ?_ ((State.control_visit (s.visit (s.ringView fn) (s.ringBase fn) 64) (s.ringView fn) (s.rspSlot fn) 256).trans
      (State.control_visit ..))
    generalize State.visit _ _ _ 256 = u
    rfl

@[simp] theorem State.control_putEvent (fn : Fn) (msg : List Byte) : (s.putEvent fn msg).control = s.control := by
  unfold State.putEvent
  cases h : s.ringPut fn msg with
  | some t => exact (State.control_signalRing ..).trans (State.control_ringPut s h)
  | none => rfl

@[simp] theorem State.control_ringEvent (fn : Fn) (mtype : Nat) (body : List Byte) : (s.ringEvent fn mtype body).control = s.control := by
  unfold State.ringEvent
  exact control_ite rfl (control_ite rfl ((State.control_putEvent ..).trans rfl))

@[simp] theorem State.control_reportTo (code index : Nat) (detail : List Byte) (fn : Fn) : (s.reportTo code index detail fn).control = s.control := by
  unfold State.reportTo
  exact control_ite ((State.control_ringEvent ..).trans rfl) rfl

@[simp] theorem State.control_report (code index : Nat) : (s.report code index).control = s.control := by
  rw [State.report, State.reportWith, State.control_reportTo, State.control_reportTo]
  rfl

/-! ## Flits, messages and requests of the ports -/

theorem State.control_setPort {p : Fin 20} {x : Port} (h : x.state = s.ports[p].state) : (s.setPort p x).control = s.control := by
  have hports : (s.ports.set p x).map Port.state = s.ports.map Port.state := by
    have hp : s.ports[p].state = (s.ports.map Port.state)[p.val] := (Vector.getElem_map ..).symm
    rw [Vector.map_set, h, hp]
    exact Vector.set_getElem_self ..
  unfold State.control State.setPort
  dsimp only
  rw [hports]

/-- The state of a port that is set. -/
theorem State.control_setPort_state (p : Fin 20) (x : Port) :
    (s.setPort p x).control = { s.control with ports := s.control.ports.set p x.state } := by
  unfold State.control State.setPort
  dsimp only
  rw [Vector.map_set]

/-! ## Flits, messages and requests of the ports -/

@[simp] theorem State.control_sendFlit (p : Fin 20) (ftype : BitVec 8) (vc : Nat) (seq : BitVec 12) (payload : List Byte) :
    (s.sendFlit p ftype vc seq payload).control = s.control := by
  unfold State.sendFlit
  exact (State.control_emit ..).trans (State.control_setPort s rfl)

@[simp] theorem State.control_sendKept (p : Fin 20) (ftype : BitVec 8) (vc : Nat) (payload : List Byte) :
    (s.sendKept p ftype vc payload).control = s.control := by
  unfold State.sendKept
  exact (State.control_sendFlit ..).trans (State.control_setPort s rfl)

theorem State.control_pumpOne {p : Fin 20} {t : State} (h : s.pumpOne p = some t) : t.control = s.control := by
  have hmessage : ∀ m rest, (s.sendMessage p m rest).control = s.control :=
    fun m rest => (State.control_sendKept ..).trans (State.control_setPort s rfl)
  have hdata : ∀ v, (s.sendData p v).control = s.control := fun v => (State.control_sendKept ..).trans (State.control_setPort s rfl)
  unfold State.pumpOne at h
  dsimp only at h
  split at h
  · cases h
  · split at h
    · cases h
      exact hmessage ..
    · split at h
      · cases h
        exact hmessage ..
      · cases h
        exact hdata _
    · cases h
      exact hdata _
    · cases h

@[simp] theorem State.control_pump (p : Fin 20) : (s.pump p).control = s.control := by
  unfold State.pump
  generalize 512 = n
  induction n generalizing s with
  | zero => rfl
  | succ n ih =>
    unfold State.pumpN
    cases h : s.pumpOne p with
    | none => rfl
    | some t => exact (ih t).trans (s.control_pumpOne h)

@[simp] theorem State.control_sendTrans (p : Fin 20) (v : Fin 6) (bytes : List Byte) : (s.sendTrans p v bytes).control = s.control := by
  unfold State.sendTrans
  exact (State.control_pump ..).trans (State.control_setPort s rfl)

theorem State.control_sendRequest {p : Fin 20} {ttype flags dest op tag addr : Nat} {data : List Byte} {why : OutFor} :
    ((s.sendRequest p ttype flags dest op tag addr data why).getD s).control = s.control := by
  unfold State.sendRequest
  dsimp only
  split
  · exact (State.control_sendTrans ..).trans (State.control_setPort s rfl)
  · rfl

@[simp] theorem State.control_sendSide (p : Fin 20) (m : List Byte) : (s.sendSide p m).control = s.control := by
  unfold State.sendSide
  exact (State.control_pump ..).trans (State.control_setPort s rfl)

@[simp] theorem State.control_sendTo (mtype dest : Nat) (body : List Byte) : (s.sendTo mtype dest body).control = s.control := by
  unfold State.sendTo
  cases s.egress dest with
  | none => rfl
  | some p => exact control_ite ((State.control_sendSide ..).trans rfl) rfl

@[simp] theorem State.control_leaseEvent (fn : Fn) (m : List Byte) : (s.leaseEvent fn m).control = s.control := by
  unfold State.leaseEvent
  exact control_ite (State.control_ringEvent ..) rfl

@[simp] theorem State.control_sendLease (mtype w : Nat) (body : List Byte) : (s.sendLease mtype w body).control = s.control := by
  unfold State.sendLease
  refine control_ite ?_ (State.control_sendTo ..)
  split
  · exact (State.control_leaseEvent ..).trans rfl
  · rfl

@[simp] theorem State.control_orphans (is : OutFor → Bool) : (s.orphans is).control = s.control := by
  unfold State.control State.orphans
  dsimp only
  rw [Vector.map_map]
  rfl

@[simp] theorem State.control_cutCopy : s.cutCopy.control = s.control := by
  have hports := State.control_setPort (p := 19) (x := { s.ports[(19 : Fin 20)] with
      tx := s.ports[(19 : Fin 20)].tx.set 0 (s.ports[(19 : Fin 20)].tx[(0 : Fin 6)].filter (fun t => !t.ofCopy))
      out := s.ports[(19 : Fin 20)].out.filter (fun r => !(r.purpose.isTwin &&
        ((s.ports[(19 : Fin 20)].tx[(0 : Fin 6)].filter TxTrans.ofCopy).flatMap
          (fun t => (t.slots.take 1).map (fun h => leNat ((h.drop 8).take 2)))).contains r.tag.toNat)) }) s rfl
  exact hports

/-! ## Tiles and device memory -/

@[simp] theorem State.control_matrixCatchUp (t : Nat) : (s.matrixCatchUp t).control = s.control := by
  unfold State.matrixCatchUp
  dsimp only
  split
  · exact control_ite rfl rfl
  · rfl

@[simp] theorem State.control_padUncorrectable (t w : Nat) : (s.padUncorrectable t w).control = s.control := by
  unfold State.padUncorrectable
  exact (State.control_record ..).trans rfl

@[simp] theorem State.control_padWrite (t off : Nat) (bytes : List Byte) : (s.padWrite t off bytes).control = s.control := by
  unfold State.padWrite
  exact (control_foldl (fun u w => State.control_padUncorrectable u t w) _ _).trans ((State.control_setTile ..).trans (State.control_matrixCatchUp ..))

@[simp] theorem State.control_settle (t : Nat) : (s.settle t).control = s.control := by
  have hbar : ∀ (u : State) (n : Fin 4), (u.releaseBar t n).control = u.control := fun u n => control_ite rfl rfl
  have hthread : ∀ (u : State) (n : Fin 16), (u.settleThread t n).control = u.control := by
    intro u n
    unfold State.settleThread
    dsimp only
    split
    · exact control_ite rfl rfl
    · exact control_ite rfl rfl
    · exact control_ite rfl rfl
    · rfl
  unfold State.settle
  exact (control_foldl hthread _ _).trans (control_foldl hbar _ _)

@[simp] theorem State.control_undefine (v : BitVec 2) (a n : Nat) : (s.undefine v a n).control = s.control := rfl

@[simp] theorem State.control_spoil (c : Collective) : (s.spoil c).control = s.control := by
  unfold State.spoil
  have hfree := (State.control_undefine (s.undefine c.view c.dst ((if c.instances = 1 then 1 else 2) * c.dstSize)) c.view c.staging c.stagingSize).trans
    (State.control_undefine ..)
  refine control_ite hfree ?_
  split
  · exact (State.control_settle ..).trans ((State.control_padWrite ..).trans ((State.control_drawnN ..).trans hfree))
  · exact hfree

/-! ## The ends of the engines' work -/

@[simp] theorem State.control_complete (q : Fin 64) (c : Completion) : (s.complete q c).control = s.control := by
  unfold State.complete
  dsimp only
  split
  · rfl
  · split
    · rfl
    · rfl

@[simp] theorem State.control_sendAborts (c : Collective) (code : Nat) : (s.sendAborts c code).control = s.control := by
  unfold State.sendAborts
  refine control_foldl (fun u i => ?_) _ _
  split
  · exact u.control_sendRequest
  · rfl

@[simp] theorem State.control_failColl (q : Fin 64) (code detail : Nat) : (s.failColl q code detail).control = s.control := by
  unfold State.failColl
  split
  · rfl
  · exact (State.control_complete ..).trans ((State.control_setFleet ..).trans ((State.control_orphans ..).trans
      ((State.control_spoil ..).trans (control_ite rfl (State.control_sendAborts ..)))))

@[simp] theorem State.control_activateTwins (b : Blocks) : (s.activateTwins b).control = s.control := by
  unfold State.activateTwins
  exact (control_foldl (fun u t => State.control_sendLease u ..) _ _).trans (control_foldl (fun u h => State.control_sendLease u ..) _ _)

@[simp] theorem State.control_activate (c : Staged) : (s.activate c).control = s.control := by
  unfold State.activate
  exact (State.control_report ..).trans (State.control_activateTwins ..)

@[simp] theorem State.control_activateAt (step : BitVec 64) : (s.activateAt step).control = s.control := by
  unfold State.activateAt
  split
  · exact control_ite rfl (control_ite ((State.control_record ..).trans (State.control_activate ..)) (State.control_activate ..))
  · rfl

@[simp] theorem State.control_endStep (q : Fin 64) (step : BitVec 64) (status : Nat) : (s.endStep q step status).control = s.control := by
  unfold State.endStep
  exact (State.control_complete ..).trans (State.control_activateAt ..)

@[simp] theorem State.control_endTwin (ok : Bool) : (s.endTwin ok).control = s.control := by
  unfold State.endTwin
  split
  · rfl
  · have hcut := (State.control_orphans _ OutFor.isTwin).trans
      (control_ite (c := ok = true) (t := s) (s := s) rfl s.control_cutCopy)
    exact control_ite hcut ((State.control_endStep ..).trans hcut)

@[simp] theorem State.control_endColl (q : Fin 64) : (s.endColl q).control = s.control := by
  unfold State.endColl
  split
  · rfl
  · exact control_ite (State.control_complete ..) rfl

@[simp] theorem State.control_endRequest (p : Fin 20) (r : OutReq) (e : Ending) : (s.endRequest p r e).control = s.control := by
  unfold State.endRequest
  split
  · rfl
  · refine control_ite ?_ (State.control_failColl ..)
    split
    · exact State.control_endColl ..
    · rfl
  · split
    · rfl
    · exact control_ite (State.control_endTwin ..) (control_ite (State.control_endTwin ..) rfl)

@[simp] theorem State.control_closeOut (p : Fin 20) (e : Ending) (responses : List Trans) (out : List OutReq) :
    (s.closeOut p e responses out).control = s.control := by
  induction responses generalizing s out with
  | nil => exact control_foldl (fun u r => State.control_endRequest u p r e) out s
  | cons t rest ih =>
    unfold State.closeOut
    split
    · exact (ih ..).trans (State.control_endRequest ..)
    · exact ih ..

end

/-! ## Ports that stop -/

/-- A port that stops is DISABLED, and nothing else of the control changes. -/
theorem State.control_portOff (s : State) (p : Fin 20) :
    (s.portOff p).control = { s.control with ports := s.control.ports.set p .disabled } := by
  unfold State.portOff
  exact (State.control_closeOut ..).trans (State.control_setPort_state ..)

/-- Every port is DISABLED after a stop of all of them, and nothing else of the control changes. -/
theorem State.control_portsOff (s : State) : s.portsOff.control = { s.control with ports := Vector.replicate 20 .disabled } := by
  have hfold : ∀ (l : List (Fin 20)) (u : State), ∃ v, (l.foldl (fun (s : State) (p : Fin 20) =>
      if s.ports[p].state = .disabled then s else s.portOff p) u).control = { u.control with ports := v } ∧
      ∀ p, (p ∈ l ∨ u.control.ports[p] = .disabled) → v[p] = .disabled := by
    intro l
    induction l with
    | nil => exact fun u => ⟨_, rfl, fun p hp => hp.resolve_left (by simp)⟩
    | cons a l ih =>
      intro u
      have hstep : ∃ w, (if u.ports[a].state = .disabled then u else u.portOff a).control = { u.control with ports := w } ∧
          ∀ p, (p = a ∨ u.control.ports[p] = .disabled) → w[p] = .disabled := by
        split
        · rename_i hoff
          refine ⟨_, rfl, fun p hp => hp.elim (fun hpa => ?_) id⟩
          subst hpa
          simpa [State.control] using hoff
        · refine ⟨_, u.control_portOff a, fun p hp => ?_⟩
          by_cases hpa : p = a
          · subst hpa
            simp
          · have hne : a.val ≠ p.val := fun h => hpa (Fin.ext h.symm)
            rw [Fin.getElem_fin, Vector.getElem_set_ne _ _ hne]
            exact hp.resolve_left hpa
      obtain ⟨w, hw, hoff⟩ := hstep
      obtain ⟨v, hv, hall⟩ := ih (if u.ports[a].state = .disabled then u else u.portOff a)
      rw [hw] at hv hall
      refine ⟨v, hv, fun p hp => hall p ?_⟩
      rcases hp with hp | hp
      · rcases List.mem_cons.1 hp with rfl | hp
        · exact Or.inr (hoff _ (Or.inl rfl))
        · exact Or.inl hp
      · exact Or.inr (hoff p (Or.inr hp))
  obtain ⟨v, hv, hall⟩ := hfold (List.finRange 20) s
  have hrep : v = Vector.replicate 20 .disabled := by
    ext i hi
    simpa using hall ⟨i, hi⟩ (Or.inl (List.mem_finRange _))
  rw [← hrep]
  exact hv

/-! ## Host ports that go down -/

section
variable (s : State)

@[simp] theorem State.control_discardWork (q : Fin 64) : (s.discardWork q).control = s.control := by
  have habort : (s.abortLaunch q).control = s.control := by
    unfold State.abortLaunch
    split
    · rfl
    · rfl
  have hstop : ∀ u : State, (u.stopCopy q).control = u.control := fun u => control_ite u.control_cutCopy rfl
  unfold State.discardWork State.endWork
  refine Eq.trans ?_ ((hstop ((s.abortLaunch q).orphans fun o => o.isColl q)).trans ((State.control_orphans ..).trans habort))
  generalize State.stopCopy _ q = u
  rfl

@[simp] theorem State.control_loseQueue (fn : Fn) (cause : BitVec 4) (q : Fin 64) : (s.loseQueue fn cause q).control = s.control := by
  unfold State.loseQueue
  have hset : ∀ x, ((s.discardWork q).setQueue q x).control = s.control := fun x => (State.control_setQueue ..).trans (State.control_discardWork ..)
  exact control_ite (control_ite (hset _) ((State.control_signal ..).trans (hset _))) rfl

@[simp] theorem State.control_resetFunction (fn : Fn) : (s.resetFunction fn).control = s.control := by
  unfold State.resetFunction
  exact control_foldl (f := fun (u : State) o => u.setReg fn o 0) (fun _ _ => rfl) _ _

@[simp] theorem State.control_settleWaits : s.settleWaits.control = s.control := rfl

@[simp] theorem State.control_loseQueues (fn : Fn) (cause : BitVec 4) : (s.loseQueues fn cause).control = s.control := by
  unfold State.loseQueues
  exact (State.control_settleWaits _).trans (control_foldl (fun u q => State.control_loseQueue u fn cause q) _ _)

/-- A function that goes to DL_Down leaves the control alone. -/
@[simp] theorem State.control_linkDown (fn : Fn) : (s.linkDown fn).control = s.control := by
  unfold State.linkDown
  exact control_ite ((State.control_resetFunction ..).trans (State.control_loseQueues ..)) rfl

end

end Sys2Proof.Machine
end

section
/-! SUPPORT. The dies' power-down, and the starts of a restart and of a re-entry (R474, R477, R479, R481). -/

namespace Sys2Proof.Machine

open Sys2Proof

/-! ## What decides on restarts and re-entries -/

section
variable {s t : State} (h : t.control = s.control)
include h

theorem State.tripTesting_of_control : t.tripTesting = s.tripTesting := by
  unfold State.tripTesting
  rw [State.test_of_control h]

theorem State.mayRestart_of_control : t.mayRestart = s.mayRestart := by
  unfold State.mayRestart State.diesAllowed State.refGood
  rw [State.tripTesting_of_control h, State.running_of_control h, State.hwd_of_control h, State.stage_of_control h, State.budget_of_control h,
    State.clk_of_control h]

theorem State.mayReenter_of_control (byConsole : Bool) : t.mayReenter byConsole = s.mayReenter byConsole := by
  unfold State.mayReenter State.diesAllowed State.refGood State.busBack State.convCount
  rw [State.tripTesting_of_control h, State.running_of_control h, State.hwd_of_control h, State.stage_of_control h, State.budget_of_control h,
    State.clk_of_control h, State.power_of_control h]

theorem State.restartShared_of_control (src : CmdSrc) : t.restartShared src = s.restartShared src := by
  unfold State.restartShared
  rw [State.start_of_control h, State.clk_of_control h]

end

theorem State.tripTesting_of_mayRestart {s : State} (h : s.mayRestart = true) : s.tripTesting = false := by
  simp only [State.mayRestart, Bool.and_eq_true, Bool.not_eq_true'] at h
  obtain ⟨⟨-, htest⟩, -⟩ := h
  exact htest

theorem State.tripTesting_of_mayReenter {s : State} {byConsole : Bool} (h : s.mayReenter byConsole = true) : s.tripTesting = false := by
  simp only [State.mayReenter, Bool.and_eq_true, Bool.not_eq_true'] at h
  obtain ⟨⟨-, htest⟩, -⟩ := h
  exact htest

/-! ## The dies go (R477) -/

theorem State.dropLink_control (s : State) (d : Fin 4) : ∃ power, (s.dropLink d).control = { s.control with power := power } :=
  ⟨_, control_ite (s := s.setRail (linkRail d) s.power.rails[linkRail d].remove) (State.control_linkDown ..)
    (control_ite (State.control_linkDown ..) rfl)⟩

theorem State.dieDown_control (s : State) (d : Fin 4) (keepLink : Bool) : ∃ clk power, (s.dieDown d keepLink).control =
    { s.control with hwd := { s.hwd with dieEn := s.hwd.dieEn.set d false }, clk := clk, power := power } := by
  unfold State.dieDown
  dsimp only
  split
  · exact ⟨_, _, rfl⟩
  · split
    · exact ⟨_, _, rfl⟩
    · obtain ⟨power, h⟩ := (s.dieOff d).dropLink_control d
      exact ⟨_, power, h⟩

/-- The power-down of the dies takes every enable away; of the control it changes clocks and rails beside that. -/
theorem State.diesDown_control (s : State) : ∃ clk power, s.diesDown.control =
    { s.control with hwd := { s.hwd with dieEn := Vector.replicate 4 false }, clk := clk, power := power } := by
  have hfold : ∀ (l : List (Fin 4)) (u : State), ∃ clk power v, (l.foldl (fun (s : State) (d : Fin 4) =>
      s.dieDown d (decide (d = 0 ∨ d = 3) && decide (s.power.rails[linkRail d].state = .on) && !s.hwd.dieOff[d])) u).control =
      { u.control with hwd := { u.hwd with dieEn := v }, clk := clk, power := power } ∧
      ∀ d, (d ∈ l ∨ u.hwd.dieEn[d] = false) → v[d] = false := by
    intro l
    induction l with
    | nil => exact fun u => ⟨_, _, _, rfl, fun d hd => hd.resolve_left (by simp)⟩
    | cons a l ih =>
      intro u
      generalize hk : (decide (a = 0 ∨ a = 3) && decide (u.power.rails[linkRail a].state = .on) && !u.hwd.dieOff[a]) = keep
      obtain ⟨clk, power, hstep⟩ := u.dieDown_control a keep
      obtain ⟨clk', power', v, hv, hall⟩ := ih (u.dieDown a keep)
      have hhwd : (u.dieDown a keep).hwd = { u.hwd with dieEn := u.hwd.dieEn.set a false } := congrArg Control.hwd hstep
      rw [hstep, hhwd] at hv
      rw [hhwd] at hall
      rw [List.foldl_cons, hk]
      refine ⟨clk', power', v, hv, fun d hd => hall d ?_⟩
      rcases hd with hd | hd
      · rcases List.mem_cons.1 hd with rfl | hd
        · exact Or.inr (Vector.getElem_set_self ..)
        · exact Or.inl hd
      · by_cases hda : a.val = d.val
        · exact Or.inr (by simp [hda])
        · exact Or.inr (by simpa [Vector.getElem_set_ne _ _ hda] using hd)
  obtain ⟨clk, power, v, hv, hall⟩ := hfold (List.finRange 4) s
  have hrep : v = Vector.replicate 4 false := by
    ext i hi
    simpa using hall ⟨i, hi⟩ (Or.inl (List.mem_finRange _))
  unfold State.diesDown
  rw [← hrep]
  dsimp only
  generalize (List.finRange 4).foldl _ s = u at hv
  have hrail : ∀ r x, (u.setRail r x).control = { u.control with power := (u.setRail r x).power } := fun _ _ => rfl
  rw [hv] at hrail
  split
  · exact ⟨clk, _, hrail ..⟩
  · exact ⟨clk, _, hrail ..⟩

/-! ## Stage 2 begins, after a re-entry or a restart that covers the module -/

theorem State.control_restartCover (s : State) :
    s.restartCover.control = { s.control with stopped := true, ports := Vector.replicate 20 .disabled } := by
  have hoff := State.control_portsOff s.stopRings
  unfold State.restartCover
  generalize s.stopRings.portsOff = u at hoff
  exact congrArg (fun c : Control => { c with stopped := true }) hoff

theorem State.restartCover_queues (s : State) (q : Fin 64) : s.restartCover.queues[q].state = .disabled := by
  unfold State.restartCover
  dsimp only
  rw [Fin.getElem_fin, Vector.getElem_ofFn]
  rfl

theorem State.enableRail_frame (s : State) (r : Fin 11) : ∃ power, s.enableRail r = { s with power := power } := by
  unfold State.enableRail
  dsimp only
  split
  · exact ⟨_, rfl⟩
  · exact ⟨_, rfl⟩

theorem State.beginStage2_frame (s : State) : ∃ le sap sram power, s.beginStage2 = { s with
    stage := .stage2
    hwd := { s.hwd with inputClosed := s.hwd.inputClosed || s.mayEnable, holdReq := s.hwd.holdReq && s.budget.hold }
    start := { s.start with storeDone := s.storeSettled, dies := Vector.replicate 4 .waiting, retry := false }
    le := le, sap := sap, sram := sram, power := power } := by
  unfold State.beginStage2
  dsimp only
  split
  · obtain ⟨power, h⟩ := State.enableRail_frame (State.setPhase _ .startup) 9
    rw [h]
    exact ⟨_, _, _, _, rfl⟩
  · obtain ⟨power, h⟩ := State.enableRail_frame _ 9
    rw [h]
    exact ⟨_, _, _, _, rfl⟩

/-- t has begun Stage 2 again after s, with a restart's or re-entry's cause (R479). -/
def State.beganAgain (s t : State) (kind : Nat) : Prop :=
  t.stage = .stage2 ∧ t.start.pendingKind = some kind ∧ t.hwd.safe = false ∧ t.budget.stopped = none ∧
  t.hwd.inputClosed = (s.hwd.inputClosed || (s.hwd.chanA && s.hwd.chanB && !s.hwd.removed && !s.hwd.fuseBad)) ∧ t.start.retried = false ∧
  t.mem.dram = [] ∧ (∀ p : Fin 20, t.ports[p].state = .disabled) ∧ ∀ q : Fin 64, t.queues[q].state = .disabled

theorem State.beganAgain_reenterAt2 {s : State} (htest : s.tripTesting = false) (kind : Nat) : s.beganAgain (s.reenterAt2 kind) kind := by
  have hcover := s.control_restartCover
  have hqueues := s.restartCover_queues
  have hdram : s.restartCover.mem.dram = [] := rfl
  unfold State.reenterAt2
  dsimp only
  generalize s.restartCover = u at hcover hqueues hdram
  have hhwd : u.hwd = s.hwd := congrArg Control.hwd hcover
  have htrip : u.tripTesting = false := by
    rw [← htest]
    unfold State.tripTesting
    rw [show u.svc.test = s.svc.test from congrArg Control.test hcover]
  have hports : ∀ p : Fin 20, u.ports[p].state = .disabled := by
    intro p
    have hp : (u.ports.map Port.state)[p] = (Vector.replicate 20 PortState.disabled)[p] := congrArg (fun c => c.ports[p]) hcover
    simpa using hp
  generalize hv : ({ u with
    hwd := { u.hwd with safe := false, holdReq := false }
    start := { u.start with pendingKind := some kind, restarting := false, retried := false }
    budget := { u.budget with quiesce := none, stopped := none, hold := false } } : State) = v
  have hmay : v.mayEnable = (s.hwd.chanA && s.hwd.chanB && !s.hwd.removed && !s.hwd.fuseBad) := by
    subst hv
    have htrip' : ({ u with
      hwd := { u.hwd with safe := false, holdReq := false }
      start := { u.start with pendingKind := some kind, restarting := false, retried := false }
      budget := { u.budget with quiesce := none, stopped := none, hold := false } } : State).tripTesting = false := htrip
    unfold State.mayEnable
    rw [htrip']
    dsimp only
    rw [hhwd]
    simp
  obtain ⟨le, sap, sram, power, h⟩ := v.beginStage2_frame
  rw [h, hmay]
  subst hv
  refine ⟨rfl, rfl, rfl, rfl, ?_, rfl, hdram, hports, hqueues⟩
  dsimp only
  rw [hhwd]

theorem State.beganAgain_of_control {s u t : State} {kind : Nat} (h : u.control = s.control) (ht : u.beganAgain t kind) : s.beganAgain t kind := by
  unfold State.beganAgain at ht ⊢
  rwa [State.hwd_of_control h] at ht

/-! ## A restart (R474) -/

theorem State.control_beginQuiesce {s : State} (h : s.stage = .stage3) (cause : StopCause) : (s.beginQuiesce cause).control =
    { s.control with stage := .quiescing, stopped := true, budget := { s.budget with quiesce := some .draining, stopped := some cause } } := by
  unfold State.beginQuiesce
  rw [if_neg (not_not_intro h)]
  exact (State.control_report ..).trans (State.control_record ..)

/-- t is what a restart makes of s, by the stage in which it comes. -/
def State.restartedTo (s t : State) (kind : Nat) : Prop :=
  t.start.pendingKind = some kind ∧
  (s.stage = .stage3 → t.stage = .quiescing ∧ t.start.restarting = true ∧ t.hq.stopped = true ∧ t.budget.quiesce = some .draining) ∧
  (s.stage = .entry → t.stage = .entry ∧ (∀ d : Fin 4, t.start.dies[d] = .waiting ∧ t.hwd.dieEn[d] = false) ∧ t.mem.dram = [] ∧
    t.start.retried = false ∧ ∀ p : Fin 20, t.ports[p].state = .disabled) ∧
  (s.stage = .failed → s.beganAgain t kind)

/-- A Stage 3 entry that begins again after the dies' power-down: its dies wait without their enables, and ports and device memory are reset. -/
theorem State.enterAgain_diesDown (s : State) : let t := s.diesDown.enterAgain
    t.stage = .entry ∧ (∀ d : Fin 4, t.start.dies[d] = .waiting ∧ t.hwd.dieEn[d] = false) ∧ t.mem.dram = [] ∧ t.start.retried = false ∧
    ∀ p : Fin 20, t.ports[p].state = .disabled := by
  obtain ⟨clk, power, hdown⟩ := s.diesDown_control
  have hcover := s.diesDown.control_restartCover
  rw [hdown] at hcover
  have hdram : s.diesDown.restartCover.mem.dram = [] := rfl
  unfold State.enterAgain
  dsimp only
  generalize s.diesDown.restartCover = u at hcover hdram
  have hen : u.hwd.dieEn = Vector.replicate 4 false := congrArg (fun c => c.hwd.dieEn) hcover
  refine ⟨rfl, fun d => ⟨Vector.getElem_replicate .., ?_⟩, hdram, rfl, fun p => ?_⟩
  · rw [hen]
    exact Vector.getElem_replicate ..
  · have hp : (u.ports.map Port.state)[p] = (Vector.replicate 20 PortState.disabled)[p] := congrArg (fun c => c.ports[p]) hcover
    simpa using hp

theorem State.restartedTo_restart {s : State} (hmay : s.mayRestart = true) (kind : Nat) : s.restartedTo (s.restart kind) kind := by
  have htest := State.tripTesting_of_mayRestart hmay
  have hflush := s.control_flushLog true
  have hfailed : s.beganAgain ((s.flushLog true).reenterAt2 kind) kind :=
    State.beganAgain_of_control hflush (State.beganAgain_reenterAt2 ((State.tripTesting_of_control hflush).trans htest) kind)
  unfold State.restart
  rw [hmay, if_neg (by decide)]
  split
  · rename_i hstage
    have hquiesce := State.control_beginQuiesce hstage .restart
    dsimp only
    generalize s.beginQuiesce .restart = u at hquiesce
    refine ⟨rfl, fun _ => ⟨congrArg Control.stage hquiesce, rfl, congrArg Control.stopped hquiesce, congrArg (fun c => c.budget.quiesce) hquiesce⟩,
      fun h => ?_, fun h => ?_⟩
    · rw [hstage] at h
      cases h
    · rw [hstage] at h
      cases h
  · rename_i hstage
    have hagain := (s.flushLog true).enterAgain_diesDown
    dsimp only at hagain ⊢
    generalize (s.flushLog true).diesDown.enterAgain = u at hagain
    refine ⟨rfl, fun h => ?_, fun _ => hagain, fun h => ?_⟩
    · rw [hstage] at h
      cases h
    · rw [hstage] at h
      cases h
  · rename_i h3 he
    obtain ⟨hstage, hkind, hrest⟩ := hfailed
    exact ⟨hkind, fun h => absurd h h3, fun h => absurd h he, fun _ => ⟨hstage, hkind, hrest⟩⟩

theorem State.restartedTo_of_control {s u t : State} {kind : Nat} (h : u.control = s.control) (ht : u.restartedTo t kind) : s.restartedTo t kind := by
  unfold State.restartedTo at ht ⊢
  rw [State.stage_of_control h] at ht
  obtain ⟨hkind, h3, he, hf⟩ := ht
  exact ⟨hkind, h3, he, fun hs => State.beganAgain_of_control h (hf hs)⟩

/-- A restart command of another source came in this cycle and was performed. -/
theorem State.restartShared_iff (s : State) (src : CmdSrc) :
    s.restartShared src = true ↔ ∃ other, s.start.restartOf = some (other, s.clk.us) ∧ other ≠ src := by
  unfold State.restartShared
  constructor
  · intro h
    obtain ⟨x, hx, hp⟩ := Option.any_eq_true _ _ |>.1 h
    obtain ⟨hne, hus⟩ := of_decide_eq_true hp
    exact ⟨x.1, by rw [hx, ← hus], hne⟩
  · rintro ⟨other, hx, hne⟩
    rw [hx]
    exact decide_eq_true ⟨hne, rfl⟩

section
variable {s : State} {src : CmdSrc} {kind : Nat}

theorem State.restartBy_shared (h : s.restartShared src = true) : s.restartBy src kind = s := if_pos h

theorem State.restartedTo_restartBy (h : s.restartShared src = false) (hmay : s.mayRestart = true) :
    s.restartedTo (s.restartBy src kind) kind := by
  unfold State.restartBy
  rw [if_neg (by rw [h]; decide), if_pos hmay]
  exact State.restartedTo_restart hmay kind

theorem State.restartBy_refused (h : s.restartShared src = false) (hmay : s.mayRestart = false) : s.restartBy src kind = s.flag clkErr 4 :=
  (if_neg (by rw [h]; decide)).trans (if_neg (by rw [hmay]; decide))

end

end Sys2Proof.Machine
end

section
/-! SUPPORT. What the console, re-arming and a Crown restart do to the state (R354, R474, R475, R491, R500, R551, R568). -/

namespace Sys2Proof.Machine

open Sys2Proof

/-! ## The console in field service -/

/-- The console takes commands of class S: no command runs, the firmware runs, and the module is in its SERVICE state. -/
def State.servesConsole (s : State) : Prop :=
  s.svc.ready = true ∧ s.svc.test = none ∧ s.crown.running = true ∧ s.crown.life = .service

section
variable {s : State} (hserves : s.servesConsole) (line : String) {check : State → Nat} (run : State → State)
include hserves

/-- A command of class S that may start runs after its echo and its count, which leave the control alone. -/
theorem State.console_runs (hcheck : ∀ u, check u = 0) : ∃ u, u.control = s.control ∧ s.console line .s false check run = run u := by
  obtain ⟨hready, htest, hrun, hlife⟩ := hserves
  have hcrown : (s.hears (ascii line)).crown = s.crown := rfl
  refine ⟨(s.hears (ascii line)).countChange .s, control_ite (control_ite (State.control_signalBoth ..) rfl) rfl, ?_⟩
  unfold State.console
  dsimp only
  rw [hready, htest, hcrown, hrun, hlife, hcheck]
  rfl

/-- A command whose check fails is answered with its error alone. -/
theorem State.console_refused {n : Nat} (hn : n ≠ 0) (hcheck : ∀ u, check u = n) :
    s.console line .s false check run = (s.hears (ascii line)).reply n := by
  obtain ⟨hready, htest, hrun, hlife⟩ := hserves
  have hcrown : (s.hears (ascii line)).crown = s.crown := rfl
  unfold State.console
  dsimp only
  rw [hready, htest, hcrown, hrun, hlife, hcheck, if_pos hn]
  rfl

end

theorem State.flag_getLsbD (s : State) (off : Nat) {n : Nat} (h : n < 64) : ((s.flag off n).reg .A off).getLsbD n = true := by
  rw [State.flag, State.setStatus, State.setReg_reg]
  simp [h]

/-! ## Re-arming (R354) -/

/-- A rail as re-arming leaves it: one that has latched is OFF with no attempts counted. -/
def Rail.rearmed (x : Rail) : Rail := if x.state = .latched then { x with state := .off, attempts := 0 } else x

theorem Rail.rearmed_of_latched {x : Rail} (h : x.state = .latched) : x.rearmed = { x with state := .off, attempts := 0 } := if_pos h

theorem Rail.rearmed_of_ne {x : Rail} (h : x.state ≠ .latched) : x.rearmed = x := if_neg h

theorem Rail.rearmed_rearmed (x : Rail) : x.rearmed.rearmed = x.rearmed := by
  by_cases h : x.state = .latched
  · rw [Rail.rearmed_of_latched h]
    exact Rail.rearmed_of_ne nofun
  · rw [Rail.rearmed_of_ne h, Rail.rearmed_of_ne h]

theorem State.rearmRail_rail (s : State) (r k : Fin 11) :
    (s.rearmRail r).power.rails[k] = if k = r then s.power.rails[k].rearmed else s.power.rails[k] := by
  have hset : (s.rearmRail r).power.rails = s.power.rails.set r s.power.rails[r].rearmed := by
    by_cases h : s.power.rails[r].state = .latched
    · rw [State.rearmRail, if_neg (not_not_intro h), Rail.rearmed_of_latched h]
      dsimp only
      split
      · rfl
      · rfl
    · rw [State.rearmRail, if_pos h, Rail.rearmed_of_ne h]
      exact (Vector.set_getElem_self ..).symm
  rw [hset]
  by_cases hk : k = r
  · subst hk
    rw [if_pos rfl]
    exact Vector.getElem_set_self ..
  · rw [if_neg hk, Fin.getElem_fin, Vector.getElem_set_ne _ _ fun h => hk (Fin.ext h.symm)]
    rfl

theorem State.foldl_rearmRail (s : State) (on : Fin 11 → Bool) (l : List (Fin 11)) (k : Fin 11) :
    (l.foldl (fun (s : State) (r : Fin 11) => if on r then s.rearmRail r else s) s).power.rails[k] =
      if k ∈ l ∧ on k = true then s.power.rails[k].rearmed else s.power.rails[k] := by
  induction l generalizing s with
  | nil => rfl
  | cons a l ih =>
    have hstep : (if on a then s.rearmRail a else s).power.rails[k] =
        if k = a ∧ on k = true then s.power.rails[k].rearmed else s.power.rails[k] := by
      by_cases ha : on a = true
      · rw [if_pos ha, State.rearmRail_rail]
        by_cases hk : k = a
        · rw [if_pos hk, if_pos ⟨hk, hk ▸ ha⟩]
        · rw [if_neg hk, if_neg fun h => hk h.1]
      · rw [if_neg ha, if_neg fun h : k = a ∧ on k = true => ha (h.1 ▸ h.2)]
    rw [List.foldl_cons, ih, hstep]
    generalize s.power.rails[k] = x
    by_cases hon : on k = true
    · by_cases hk : k = a
      · simp [← hk, hon, Rail.rearmed_rearmed]
      · simp [hk, hon]
    · simp [hon]

/-- Re-arming changes the latched rails of its mask and no others. -/
theorem State.rearm_rail (s : State) (rails : BitVec 11) (k : Fin 11) :
    (s.rearm rails).power.rails[k] = if rails.getLsbD k.val = true ∧ s.power.rails[k].state = .latched
      then { s.power.rails[k] with state := .off, attempts := 0 } else s.power.rails[k] := by
  rw [State.rearm, State.foldl_rearmRail s fun r => rails.getLsbD r.val]
  by_cases hbit : rails.getLsbD k.val = true
  · rw [if_pos ⟨List.mem_finRange k, hbit⟩, Rail.rearmed]
    simp only [hbit, true_and]
  · rw [if_neg fun h => hbit h.2, if_neg fun h => hbit h.1]

theorem oneRail_iff (rails : BitVec 11) : oneRail rails = true ↔ ∃ r : Fin 10, rails = 1#11 <<< r.val := by
  have hshift : ∀ r : Fin 10, (1#11 <<< r.val).toNat = 2 ^ r.val := by decide
  unfold oneRail
  rw [List.any_eq_true]
  constructor
  · rintro ⟨r, hr, h⟩
    refine ⟨⟨r, List.mem_range.1 hr⟩, BitVec.eq_of_toNat_eq ?_⟩
    rw [hshift]
    exact beq_iff_eq.1 h
  · rintro ⟨r, rfl⟩
    exact ⟨r.val, List.mem_range.2 r.isLt, beq_iff_eq.2 (hshift r)⟩

theorem getLsbD_hostRails (rails : BitVec 11) (r : Fin 11) :
    (rails &&& 0x1FF).getLsbD r.val = true ↔ rails.getLsbD r.val = true ∧ r.val < 9 := by
  have hmask : ∀ r : Fin 11, (0x1FF#11).getLsbD r.val = decide (r.val < 9) := by decide
  have hr : (0x1FF : BitVec 11).getLsbD r.val = decide (r.val < 9) := hmask r
  rw [BitVec.getLsbD_and, hr, Bool.and_eq_true, decide_eq_true_iff]

/-! ## A Crown restart (R474, R475, R500) -/

theorem State.dropLoopTest_frame (s : State) : ∃ le, s.dropLoopTest = { s with le := le } := by
  unfold State.dropLoopTest
  split
  · exact ⟨_, rfl⟩
  · exact ⟨_, rfl⟩

theorem State.crownGone_frame (s : State) : ∃ svc out, s.crownGone = { s with svc := svc, out := out } := by
  unfold State.crownGone
  split
  · exact ⟨_, _, rfl⟩
  · exact ⟨_, _, rfl⟩

/-- What the choice of a slot leaves of Crown: it runs no firmware, holds no key, and its pending slot stays. -/
theorem State.selectSlot_frame (s : State) : ∃ crown regs, s.selectSlot = { s with crown := crown, regs := regs } ∧
    crown.running = s.crown.running ∧ crown.unwrapped = s.crown.unwrapped ∧ crown.derived = s.crown.derived ∧ crown.checking = s.crown.checking ∧
    crown.pendingSlot = s.crown.pendingSlot := by
  unfold State.selectSlot
  dsimp only
  split
  · exact ⟨_, _, rfl, rfl, rfl, rfl, rfl, rfl⟩
  · split
    · exact ⟨_, _, rfl, rfl, rfl, rfl, rfl, rfl⟩
    · split
      · exact ⟨_, _, rfl, rfl, rfl, rfl, rfl, rfl⟩
      · exact ⟨_, _, rfl, rfl, rfl, rfl, rfl, rfl⟩

/-- t is s with Crown gone: its rings stopped, its secure region under a wipe, and outside Stage 3 entry queues, tiles, device memory and power as
they were. -/
def State.crownWent (s t : State) : Prop :=
  t.crown.running = false ∧ t.wiping = true ∧ t.crown.unwrapped = false ∧ t.crown.derived = false ∧
  t.crown.checking = [] ∧ (∀ k : Fin 2, t.rings[k].mode = .stopped ∧ t.rings[k].due = [] ∧ t.rings[k].starting = false) ∧
  (s.stage ≠ .entry → t.stage = s.stage ∧ t.queues = s.queues ∧ t.tiles = s.tiles ∧ t.mem = s.mem ∧ t.power = s.power)

/-- Crown in its boot ROM: no firmware, no key and no key check, and the secure region under its wipe. -/
theorem State.bootRom_frame (s : State) (restart : Bool) : ∃ crown regs sram, s.bootRom restart = { s with crown := crown, regs := regs, sram := sram } ∧
    crown.running = false ∧ crown.unwrapped = false ∧ crown.derived = false ∧ crown.checking = [] ∧ crown.pendingSlot = s.crown.pendingSlot ∧
    sram.marches.any (fun k => k.mem == sramRow .secure) = true := by
  unfold State.bootRom
  dsimp only
  obtain ⟨crown, regs, h, hrun, hunwrap, hderive, hcheck, hslot⟩ := State.selectSlot_frame _
  rw [h]
  refine ⟨crown, regs, _, rfl, hrun, hunwrap, hderive, hcheck, hslot, ?_⟩
  simp

/-- An abandoned Stage 3 entry leaves Crown's pending slot and Heartwood's count of tampers, and in any other stage nothing is abandoned. -/
theorem State.dropEntry_keeps (s : State) : s.dropEntry.crown.pendingSlot = s.crown.pendingSlot ∧ s.dropEntry.hwd.tampers = s.hwd.tampers ∧
    (s.stage ≠ .entry → s.dropEntry = s) := by
  obtain ⟨clk, power, hdown⟩ := s.diesDown_control
  unfold State.dropEntry
  generalize s.diesDown = u at hdown
  split
  · rename_i hentry
    exact ⟨congrArg Control.pendingSlot hdown, congrArg (fun c => c.hwd.tampers) hdown, fun h => absurd hentry h⟩
  · exact ⟨rfl, rfl, fun _ => rfl⟩

theorem State.crownRestart_went (s : State) : s.crownWent s.crownRestart ∧ s.crownRestart.crown.pendingSlot = s.crown.pendingSlot ∧
    s.crownRestart.hwd.tampers = s.hwd.tampers := by
  obtain ⟨le, hle⟩ := s.dropLoopTest_frame
  obtain ⟨svc, out, hgone⟩ := s.dropLoopTest.crownGone_frame
  rw [hle] at hgone
  have hkeep := s.dropLoopTest.crownGone.dropEntry_keeps
  unfold State.crownRestart
  dsimp only
  rw [hle, hgone] at hkeep ⊢
  obtain ⟨hslot, htampers, hsame⟩ := hkeep
  generalize State.dropEntry _ = u at hslot htampers hsame
  obtain ⟨crown, regs, sram, h, hrun, hunwrap, hderive, hcheck, hpending, hwipe⟩ := State.bootRom_frame _ true
  rw [h]
  refine ⟨⟨hrun, hwipe, hunwrap, hderive, hcheck, fun k => ?_, fun hstage => ?_⟩, hpending.trans hslot, htampers⟩
  · have hring : ∀ rs : Vector Ring 2, (rs.map Ring.crownLost)[k] = rs[k].crownLost := fun _ => Vector.getElem_map ..
    dsimp only
    rw [hring]
    exact ⟨rfl, rfl, rfl⟩
  · rw [hsame hstage]
    exact ⟨rfl, rfl, rfl, rfl, rfl⟩

end Sys2Proof.Machine
end

section
/-! PROOFS. Restarts, re-entries, the seal, re-arming and Crown restarts (O44). -/

namespace Sys2Proof.Machine

open Sys2Proof

/-! ## Commands of the hosts -/

section
variable {s : State} {fn : Fn}

theorem exec_restart_host (h : s.reaches fn = true) : exec (.restart (.host fn)) s = .next ((s.setReg .A clkCtrl 2).restartBy (.host fn) 2) :=
  congrArg _ (if_pos h)

theorem exec_reenter_host (h : s.reaches fn = true) : exec (.reenter (.host fn)) s = .next ((s.setReg .A clkCtrl 1).reenter false 4) :=
  congrArg _ (if_pos h)

theorem exec_rearm_host (h : s.reaches fn = true) (rails : BitVec 11) : exec (.rearm (.host fn) rails) s =
    .next ((s.setReg .A pwrRearm (BitVec.ofNat 64 (rearmWord rails))).rearm (rails &&& 0x1FF)) :=
  congrArg _ (if_pos h)

theorem exec_seal (h : s.reaches fn = true) : exec (.seal fn) s = .next (s.seal fn 1) := congrArg _ (if_pos h)

theorem State.seal_first (h : s.sealed = false) (v : Nat) : (s.seal fn v).sealed = true := by
  rw [State.seal, h]
  rfl

theorem State.seal_again (h : s.sealed = true) : s.seal fn 1 = s.record 0x0A .warning true clkSeal [1, 0, 0, 0] := by
  have hw : s.writeRwl fn clkSeal 1 = s.record 0x0A .warning true clkSeal [1, 0, 0, 0] := if_pos h
  rw [State.seal, if_pos h, hw]

/-- Commands of a host that does not reach the module are refused. -/
theorem exec_unreached (h : s.reaches fn = false) : ∀ c ∈ [Instr.restart (.host fn), .reenter (.host fn), .seal fn, .rearm (.host fn) 0x1FF],
    exec c s = .next (s.refuseWrite fn) := by
  have hno : ¬ s.reaches fn = true := by
    rw [h]
    decide
  intro c hc
  simp only [List.mem_cons, List.not_mem_nil, or_false] at hc
  rcases hc with rfl | rfl | rfl | rfl
  · exact congrArg _ (if_neg hno)
  · exact congrArg _ (if_neg hno)
  · exact congrArg _ (if_neg hno)
  · exact congrArg _ (if_neg hno)

end

theorem exec_autoReentry (s : State) : exec .autoReentry s = .next (if s.autoPending && s.mayReenter false then s.reenterAt2 6 else s) := rfl

/-- A re-entry whose conditions hold begins Stage 2 again (R479). -/
theorem State.beganAgain_reenter {s u : State} {byConsole : Bool} (hu : u.control = s.control) (hmay : s.mayReenter byConsole = true) (kind : Nat) :
    s.beganAgain (u.reenter byConsole kind) kind := by
  have hmay' : u.mayReenter byConsole = true := (State.mayReenter_of_control hu byConsole).trans hmay
  rw [State.reenter, if_pos hmay']
  exact State.beganAgain_of_control hu (State.beganAgain_reenterAt2 (State.tripTesting_of_mayReenter hmay') kind)

theorem State.reenter_refused {s : State} {byConsole : Bool} (h : s.mayReenter byConsole = false) (kind : Nat) :
    s.reenter byConsole kind = s.flag clkErr 4 := by
  rw [State.reenter, h]
  rfl

/-! ## Commands of the console -/

section
variable {s : State} (hserves : s.servesConsole)
include hserves

theorem exec_restart_console : ∃ (u : State) (n : Nat), u.control = s.control ∧ exec (.restart .console) s = .next ((u.restartBy .console 3).reply n) := by
  obtain ⟨u, hu, hrun⟩ := State.console_runs hserves "restart" (check := anyTime) (fun s => (s.restartBy .console 3).reply
    (if s.restartShared .console || s.mayRestart then 0 else 3)) fun _ => rfl
  exact ⟨u, _, hu, congrArg _ hrun⟩

theorem exec_reenter_console : ∃ (u : State) (n : Nat), u.control = s.control ∧ exec (.reenter .console) s = .next ((u.reenter true 5).reply n) := by
  obtain ⟨u, hu, hrun⟩ := State.console_runs hserves "reenter" (check := anyTime) (fun s => (s.reenter true 5).reply
    (if s.mayReenter true then 0 else 3)) fun _ => rfl
  exact ⟨u, _, hu, congrArg _ hrun⟩

theorem exec_rearm_console {rails : BitVec 11} (h : oneRail rails = true) :
    ∃ u : State, u.control = s.control ∧ exec (.rearm .console rails) s = .next ((u.rearm rails).reply 0) := by
  obtain ⟨u, hu, hrun⟩ := State.console_runs hserves (rearmLine rails) (check := fun _ => if oneRail rails then 0 else 2)
    (fun s => (s.rearm rails).reply 0) fun _ => if_pos h
  exact ⟨u, hu, congrArg _ hrun⟩

theorem exec_rearm_console_refused {rails : BitVec 11} (h : oneRail rails = false) :
    exec (.rearm .console rails) s = .next ((s.hears (ascii (rearmLine rails))).reply 2) :=
  congrArg _ (State.console_refused hserves (rearmLine rails) _ (by decide) fun _ => if_neg (by rw [h]; decide))

theorem State.restart_console_shared (h : s.restartShared .console = true) :
    ∃ t, exec (.restart .console) s = .next t ∧ t.stage = s.stage ∧ t.start = s.start := by
  obtain ⟨u, n, hu, hexec⟩ := exec_restart_console hserves
  rw [State.restartBy_shared ((State.restartShared_of_control hu _).trans h)] at hexec
  exact ⟨_, hexec, State.stage_of_control hu, State.start_of_control hu⟩

theorem State.restart_console_performed (h : s.restartShared .console = false) (hmay : s.mayRestart = true) :
    ∃ t, exec (.restart .console) s = .next t ∧ s.restartedTo t 3 := by
  obtain ⟨u, n, hu, hexec⟩ := exec_restart_console hserves
  have hdone := State.restartedTo_of_control hu (State.restartedTo_restartBy (kind := 3) ((State.restartShared_of_control hu .console).trans h)
    ((State.mayRestart_of_control hu).trans hmay))
  exact ⟨_, hexec, hdone⟩

theorem State.restart_console_refused (h : s.restartShared .console = false) (hmay : s.mayRestart = false) :
    ∃ t, exec (.restart .console) s = .next t ∧ t.stage = s.stage ∧ t.start = s.start ∧ (t.reg .A clkErr).getLsbD 4 = true := by
  obtain ⟨u, n, hu, hexec⟩ := exec_restart_console hserves
  rw [State.restartBy_refused ((State.restartShared_of_control hu _).trans h) ((State.mayRestart_of_control hu).trans hmay)] at hexec
  exact ⟨_, hexec, State.stage_of_control hu, State.start_of_control hu, u.flag_getLsbD clkErr (by decide)⟩

end

/-- Re-arming clears the latched rails that its source reaches: PWR_REARM reaches rails 0 to 8, the console the one rail that it names. -/
theorem State.exec_rearm_rails {s : State} {src : CmdSrc} {rails : BitVec 11}
    (hconsole : src = .console → s.servesConsole ∧ ∃ r : Fin 10, rails = 1#11 <<< r.val) (hhost : ∀ fn, src = .host fn → s.reaches fn = true) :
    ∃ t, exec (.rearm src rails) s = .next t ∧ ∀ r : Fin 11, t.power.rails[r] =
      if rails.getLsbD r.val = true ∧ (src = .console ∨ r.val < 9) ∧ s.power.rails[r].state = .latched
      then { s.power.rails[r] with state := .off, attempts := 0 } else s.power.rails[r] := by
  cases src with
  | host fn =>
    refine ⟨_, exec_rearm_host (hhost fn rfl) rails, fun r => (State.rearm_rail _ _ r).trans (if_congr ?_ rfl rfl)⟩
    simp only [getLsbD_hostRails, reduceCtorEq, false_or, and_assoc]
    exact Iff.rfl
  | console =>
    obtain ⟨hserves, hone⟩ := hconsole rfl
    obtain ⟨u, hu, hexec⟩ := exec_rearm_console hserves ((oneRail_iff rails).2 hone)
    refine ⟨_, hexec, fun r => (State.rearm_rail u rails r).trans ?_⟩
    rw [State.power_of_control hu]
    simp only [true_or, true_and]

/-! ## Restarts of Crown -/

theorem exec_crownWatchdog_went {s : State} (h : s.crown.running = true) : ∃ t, exec .crownWatchdog s = .next t ∧ s.crownWent t ∧
    (t.reg .A crnErr).getLsbD 2 = true ∧ t.crown.pendingSlot = if s.crown.trial then none else s.crown.pendingSlot := by
  refine ⟨_, congrArg Host.Outcome.next (if_neg (by rw [h]; decide)), ?_⟩
  dsimp only
  generalize hu : ({ s with crown := _ } : State) = u
  obtain ⟨hwent, hslot, -⟩ := u.crownRestart_went
  subst hu
  exact ⟨hwent, State.flag_getLsbD _ _ (by decide), hslot⟩

theorem exec_tamper_went {s : State} (x : TamperSensor) (h1 : s.stage ≠ .unpowered) (h2 : s.stage ≠ .stage0) : ∃ t, exec (.tamper x) s = .next t ∧
    s.crownWent t ∧ (t.reg .A crnErr).getLsbD 5 = true ∧
    t.hwd.tampers = if s.hwd.tampers = BitVec.allOnes 32 then s.hwd.tampers else s.hwd.tampers + 1 := by
  refine ⟨_, congrArg Host.Outcome.next (if_neg (not_or.2 ⟨h1, h2⟩)), ?_⟩
  dsimp only
  generalize hu : ({ s with hwd := _, crown := _ } : State) = u
  obtain ⟨hwent, -, htampers⟩ := u.crownRestart_went
  subst hu
  exact ⟨hwent, State.flag_getLsbD _ _ (by decide), htampers⟩

/-- Settles O44: restarts and re-entries by what their engines' work leaves of the control, re-arming rail by rail, and Crown's restarts by what each of
their steps changes. -/
theorem restartsReentriesAndSeals : Obligations.RestartsReentriesAndSeals := by
  unfold Obligations.RestartsReentriesAndSeals
  intro s at2 restarted atConsole twin
  have hshared : ∀ src, ¬ twin src → s.restartShared src = false :=
    fun src h => Bool.eq_false_iff.2 fun hs => h ((State.restartShared_iff s src).1 hs)
  have hset : ∀ v, (s.setReg .A clkCtrl v).control = s.control := fun _ => rfl
  refine ⟨fun fn => ⟨fun h htwin => ?_, fun h htwin hmay => ?_, fun h htwin hmay => ?_, fun h hmay => ?_, fun h hmay => ?_, fun h hs => ?_,
    fun h hs => ?_, fun h c hc => ⟨_, exec_unreached h c hc, rfl⟩⟩, ?_, ?_, ?_, ?_, ?_, ?_, ?_, ?_, ?_, ?_⟩
  · exact ⟨_, exec_restart_host h, State.restartBy_shared ((State.restartShared_of_control (hset 2) _).trans ((State.restartShared_iff s _).2 htwin))⟩
  · exact ⟨_, exec_restart_host h, State.restartedTo_of_control (hset 2) (State.restartedTo_restartBy
      ((State.restartShared_of_control (hset 2) _).trans (hshared _ htwin)) ((State.mayRestart_of_control (hset 2)).trans hmay))⟩
  · exact ⟨_, exec_restart_host h, State.restartBy_refused ((State.restartShared_of_control (hset 2) _).trans (hshared _ htwin))
      ((State.mayRestart_of_control (hset 2)).trans hmay)⟩
  · exact ⟨_, exec_reenter_host h, State.beganAgain_reenter (hset 1) hmay 4⟩
  · exact ⟨_, exec_reenter_host h, State.reenter_refused ((State.mayReenter_of_control (hset 1) false).trans hmay) 4⟩
  · exact ⟨_, exec_seal h, State.seal_first hs 1⟩
  · exact ⟨_, exec_seal h, State.seal_again hs⟩
  · exact fun hserves htwin => State.restart_console_shared hserves ((State.restartShared_iff s _).2 htwin)
  · exact fun hserves htwin hmay => State.restart_console_performed hserves (hshared _ htwin) hmay
  · exact fun hserves htwin hmay => State.restart_console_refused hserves (hshared _ htwin) hmay
  · intro hserves hmay
    obtain ⟨u, n, hu, hexec⟩ := exec_reenter_console hserves
    have hbegan := State.beganAgain_reenter hu hmay 5
    exact ⟨_, hexec, hbegan⟩
  · intro hauto hmay
    rw [exec_autoReentry, if_pos (Bool.and_eq_true_iff.2 ⟨hauto, hmay⟩)]
    exact ⟨_, rfl, State.beganAgain_reenterAt2 (State.tripTesting_of_mayReenter hmay) 6⟩
  · intro h
    rw [exec_autoReentry, if_neg fun hb => ?_]
    · exact ⟨_, rfl, rfl⟩
    · obtain ⟨h1, h2⟩ := Bool.and_eq_true_iff.1 hb
      rcases h with h | h
      · rw [h] at h1
        cases h1
      · rw [h] at h2
        cases h2
  · exact fun src rails hconsole hhost => State.exec_rearm_rails hconsole hhost
  · intro rails hserves hnone
    have hno : oneRail rails = false := Bool.eq_false_iff.2 fun h => ((oneRail_iff rails).1 h).elim hnone
    exact ⟨_, exec_rearm_console_refused hserves hno, rfl⟩
  · exact exec_crownWatchdog_went
  · exact exec_tamper_went

end Sys2Proof.Machine
end

section
/-! The scalar arithmetic, logic and shift instructions (R43, R163, R164, R166). -/

namespace Sys2Proof.Machine

open Sys2Proof

/-! ## An instruction that can run -/

theorem modHigh_zero {md : BitVec 8} (h : md.extractLsb 7 4 = 0#4) : modHigh md = 0 := h

theorem need_canRun {s : State} {th : Thr} (h : s.canRun th) (ss : List (BitVec 5)) (vs : List (Fin 16)) (k : Issued) : need s th ss vs k = k :=
  need_ready h.2.1 ss vs k

/-- Whoever changes no launch changes no code region. -/
theorem State.inCode_of_hq {s u : State} (h : u.hq = s.hq) {t : Nat} {pc : BitVec 32} (hc : s.inCode t pc) : u.inCode t pc :=
  fun l hl => hc l ((State.launchOf_eq h t).symm.trans hl)

/-- An instruction that writes one scalar register. -/
theorem State.issue_writeScalar {s u : State} {th : Thr} {body : Thread → State → Issued} {d : BitVec 5} {v : Word} (hr : s.canRun th)
    (hu : u.me th = s.me th) (hq : u.hq = s.hq) (hb : body (s.me th) s = .done (u.writeScalar th d v)) :
    u.retires (s.issue th body) th ((s.me th).writeS d v) := by
  have hw : u.writeScalar th d v = u.setThread th.tile th.thread ((s.me th).writeS d v) := by rw [← hu]; rfl
  exact State.issue_retires hr.1 (State.inCode_of_hq hq hr.2.2) (Thread.writeS_pc _ _ _) (hb.trans (congrArg Issued.done hw))

theorem scalarOp_retires {s : State} {th : Thr} (hr : s.canRun th) (d a b : BitVec 5) {md : BitVec 8} (hm : md.extractLsb 7 4 = 0#4)
    (f : Word → Word → Word) : s.retires (scalarOp th d a b md f s) th ((s.me th).writeS d (f ((s.me th).readS a) ((s.me th).readS b))) := by
  refine State.issue_writeScalar hr rfl rfl ?_
  rw [if_neg (not_not.2 (modHigh_zero hm)), need_canRun hr]

theorem scalarImm_retires {s : State} {th : Thr} (hr : s.canRun th) (d a : BitVec 5) (imm : BitVec 13) (f : Word → Word → Word) :
    s.retires (scalarImm th d a imm f s) th ((s.me th).writeS d (f ((s.me th).readS a) (imm.signExtend 64))) :=
  State.issue_writeScalar hr rfl rfl (need_canRun hr _ _ _)

/-! ## Results -/

/-- Whether a comparison of two words is strict makes no difference where equal words give the same. -/
theorem ite_le_eq_ite_lt {α β : Type} [LinearOrder β] {f : Word → β} (hf : Function.Injective f) (x y : Word) {u v : α} (h : x = y → u = v) :
    (if f x ≤ f y then u else v) = if f x < f y then u else v := by
  rcases lt_trichotomy (f x) (f y) with hlt | heq | hgt
  · rw [if_pos hlt.le, if_pos hlt]
  · rw [if_pos heq.le, if_neg heq.not_lt, h (hf heq)]
  · rw [if_neg hgt.not_ge, if_neg hgt.not_gt]

theorem toInt_injective : Function.Injective (BitVec.toInt : Word → Int) := fun _ _ => BitVec.eq_of_toInt_eq

theorem toNat_injective : Function.Injective (BitVec.toNat : Word → Nat) := fun _ _ => BitVec.eq_of_toNat_eq

theorem ite_slt {α : Type} (x y : Word) {u v : α} (h : x = y → u = v) : (if x.slt y then u else v) = if x.toInt ≤ y.toInt then u else v := by
  rw [ite_le_eq_ite_lt toInt_injective x y h]
  simp only [BitVec.slt, decide_eq_true_eq]

theorem ite_ult {α : Type} (x y : Word) {u v : α} (h : x = y → u = v) : (if x.ult y then u else v) = if x.toNat ≤ y.toNat then u else v := by
  rw [ite_le_eq_ite_lt toNat_injective x y h]
  simp only [BitVec.ult, decide_eq_true_eq]

theorem shiftLeft_eq_mul (x : Word) (k : Nat) : x <<< k = BitVec.ofNat 64 (x.toNat * 2 ^ k) :=
  BitVec.eq_of_toNat_eq (by rw [BitVec.toNat_shiftLeft, BitVec.toNat_ofNat, Nat.shiftLeft_eq])

theorem shiftRight_eq_div (x : Word) (k : Nat) : x >>> k = BitVec.ofNat 64 (x.toNat / 2 ^ k) :=
  BitVec.eq_of_toNat_eq (by
    rw [BitVec.toNat_ushiftRight, BitVec.toNat_ofNat, Nat.shiftRight_eq_div_pow, Nat.mod_eq_of_lt ((Nat.div_le_self _ _).trans_lt x.isLt)])

theorem sshiftRight_eq_div (x : Word) (k : Nat) : x.sshiftRight k = BitVec.ofInt 64 (x.toInt / 2 ^ k) := by
  rw [BitVec.sshiftRight, Int.shiftRight_eq_div_pow]
  norm_cast

/-! ## Shifts -/

/-- What a shift of an operand by an amount writes, and in which state. -/
theorem retires_shiftResult {s t : State} {th : Thr} {d : BitVec 5} {f : Word → Nat → Word} {v amount : Word}
    (h : (shiftResult s f v amount).2.retires t th ((s.me th).writeS d (shiftResult s f v amount).1)) :
    if amount.toNat < 64 then s.retires t th ((s.me th).writeS d (f v amount.toNat))
    else ({ s with free := s.free + 1 } : State).retires t th ((s.me th).writeS d (Config.freeWord s.free)) := by
  unfold shiftResult at h
  split at h
  · rwa [if_pos ‹_›]
  · rwa [if_neg ‹_›]

theorem shiftResult_me (s : State) (th : Thr) (f : Word → Nat → Word) (v amount : Word) : (shiftResult s f v amount).2.me th = s.me th := by
  unfold shiftResult
  split <;> rfl

theorem shiftResult_hq (s : State) (f : Word → Nat → Word) (v amount : Word) : (shiftResult s f v amount).2.hq = s.hq := by
  unfold shiftResult
  split <;> rfl

theorem shiftOp_retires {s : State} {th : Thr} (hr : s.canRun th) (d a b : BitVec 5) {md : BitVec 8} (hm : md.extractLsb 7 4 = 0#4)
    (f : Word → Nat → Word) :
    if ((s.me th).readS b).toNat < 64 then
      s.retires (shiftOp th d a b md f s) th ((s.me th).writeS d (f ((s.me th).readS a) ((s.me th).readS b).toNat))
    else ({ s with free := s.free + 1 } : State).retires (shiftOp th d a b md f s) th ((s.me th).writeS d (Config.freeWord s.free)) := by
  refine retires_shiftResult (State.issue_writeScalar hr (shiftResult_me _ _ _ _ _) (shiftResult_hq _ _ _ _) ?_)
  rw [if_neg (not_not.2 (modHigh_zero hm)), need_canRun hr]

/-- An immediate below 64 is an amount of its own value, and any other, extended, is 64 or more (R164). -/
theorem toNat_imm13 (imm : BitVec 13) : (imm13 imm).toNat = if imm.toNat < 4096 then imm.toNat else imm.toNat + (2 ^ 64 - 2 ^ 13) := by
  rw [imm13, BitVec.toNat_signExtend, BitVec.toNat_setWidth_of_le (by decide), BitVec.msb_eq_decide]
  by_cases h : imm.toNat < 4096
  · rw [if_pos h, if_neg (by simpa using h), Nat.add_zero]
  · rw [if_neg h, if_pos (by simpa using h)]

theorem shiftImm_retires {s : State} {th : Thr} (hr : s.canRun th) (d a : BitVec 5) (imm : BitVec 13) (f : Word → Nat → Word) :
    if imm.toNat < 64 then s.retires (shiftImm th d a imm f s) th ((s.me th).writeS d (f ((s.me th).readS a) imm.toNat))
    else ({ s with free := s.free + 1 } : State).retires (shiftImm th d a imm f s) th ((s.me th).writeS d (Config.freeWord s.free)) := by
  have h : if (imm13 imm).toNat < 64 then s.retires (shiftImm th d a imm f s) th ((s.me th).writeS d (f ((s.me th).readS a) (imm13 imm).toNat))
      else ({ s with free := s.free + 1 } : State).retires (shiftImm th d a imm f s) th ((s.me th).writeS d (Config.freeWord s.free)) :=
    retires_shiftResult (State.issue_writeScalar hr (shiftResult_me _ _ _ _ _) (shiftResult_hq _ _ _ _) (need_canRun hr _ _ _))
  by_cases himm : imm.toNat < 4096
  · rwa [toNat_imm13, if_pos himm] at h
  · rw [toNat_imm13, if_neg himm, if_neg (by omega)] at h
    rwa [if_neg (by omega)]

/-- Settles O1: each operation is `scalarOp`, `scalarImm`, `shiftOp` or `shiftImm` of the function that it names. -/
theorem scalarArithmeticAndShiftResults : Obligations.ScalarArithmeticAndShiftResults := by
  unfold Obligations.ScalarArithmeticAndShiftResults
  refine ⟨fun s th d a b md imm hr hm => ⟨?_, ?_⟩, fun s th d a b md imm hr hm => ⟨?_, ?_⟩⟩
  · have hop := fun f => scalarOp_retires hr d a b hm f
    simp only [List.forall_mem_cons, List.not_mem_nil, false_imp_iff, implies_true, and_true]
    refine ⟨⟨_, rfl, hop _⟩, ⟨_, rfl, hop _⟩, ⟨_, rfl, hop _⟩, ⟨_, rfl, hop _⟩, ⟨_, rfl, hop _⟩, ⟨_, rfl, hop _⟩, ⟨_, rfl, ?_⟩, ⟨_, rfl, ?_⟩,
      ⟨_, rfl, ?_⟩, ⟨_, rfl, ?_⟩⟩
    · rw [← ite_slt _ _ id]; exact hop _
    · rw [← ite_slt _ _ Eq.symm]; exact hop _
    · rw [← ite_ult _ _ id]; exact hop _
    · rw [← ite_ult _ _ Eq.symm]; exact hop _
  · have himm := fun f => scalarImm_retires hr d a imm f
    simp only [List.forall_mem_cons, List.not_mem_nil, false_imp_iff, implies_true, and_true]
    exact ⟨⟨_, rfl, himm _⟩, ⟨_, rfl, himm _⟩, ⟨_, rfl, himm _⟩, ⟨_, rfl, himm _⟩⟩
  · have hop := fun f => shiftOp_retires hr d a b hm f
    simp only [List.forall_mem_cons, List.not_mem_nil, false_imp_iff, implies_true, and_true, ← shiftLeft_eq_mul, ← shiftRight_eq_div,
      ← sshiftRight_eq_div]
    exact ⟨⟨_, rfl, hop _⟩, ⟨_, rfl, hop _⟩, ⟨_, rfl, hop _⟩⟩
  · have himm := fun f => shiftImm_retires hr d a imm f
    simp only [List.forall_mem_cons, List.not_mem_nil, false_imp_iff, implies_true, and_true, ← shiftLeft_eq_mul, ← shiftRight_eq_div]
    exact ⟨⟨_, rfl, himm _⟩, ⟨_, rfl, himm _⟩⟩

end Sys2Proof.Machine
end

section
/-! The scalar compares, moves and branches (R40, R48, R93, R95, R160, R162, R164, R166, R181, R184). -/

namespace Sys2Proof.Machine

open Sys2Proof

/-! ## How an instruction that stalls, faults or branches ends -/

/-- An instruction that cannot issue. -/
theorem State.issue_stall {s : State} {th : Thr} {body : Thread → State → Issued} {c : StallCause} (hr : (s.tile th.tile).pick = some th.thread)
    (hb : body (s.me th) s = .stall c) : s.stallsOn (s.issue th body) th c := by
  have hi : s.issue th body = s.setThread th.tile th.thread { s.me th with state := .stalled, stall := some c, passed := 0 } := by
    unfold State.issue
    simp only [State.me] at hr hb ⊢
    simp only [ne_eq, hr, not_true_eq_false, if_false, hb]
  rw [hi]
  refine ⟨State.setThread_thread_self _ _ _ _, State.sameBut_setThread _ _ _, fun n hn => ?_⟩
  rw [State.setThread_thread, if_neg (fun h => hn h.2)]

/-- An instruction that faults its thread and has done nothing else. -/
theorem State.issue_faults {s : State} {th : Thr} {body : Thread → State → Issued} {c : BitVec 8} (hr : (s.tile th.tile).pick = some th.thread)
    (hb : body (s.me th) s = .fault s c) : s.faults (s.issue th body) th c := State.issue_fault hr hb

theorem State.goto_outside {s : State} {t : Nat} {n : Fin 16} {pc : BitVec 32} (h : ¬ s.inCode t pc) :
    s.goto t n pc = ((s.setThread t n { s.thread t n with pc := pc }).threadFault t n 0x01 (s.thread t n).pc).settle t := by
  unfold State.inCode at h
  push Not at h
  obtain ⟨l, hl, hout⟩ := h
  unfold State.goto
  dsimp only
  rw [hl, if_neg (by simpa using hout)]

/-- An instruction that leaves its thread as `y` and branches. -/
theorem State.issue_goesTo {s u : State} {th : Thr} {body : Thread → State → Issued} {pc : BitVec 32} {y : Thread}
    (hr : (s.tile th.tile).pick = some th.thread) (hq : u.hq = s.hq) (hy : u.me th = y) (hu : s.sameBut u th)
    (hb : body (s.me th) s = .branch u pc) : s.goesTo (s.issue th body) th y pc := by
  subst hy
  refine ⟨fun hc => ?_, fun hc => ?_⟩
  · obtain ⟨hme, hsame⟩ := State.issue_branch hr (State.inCode_of_hq hq hc) hb
    exact ⟨hme, State.sameBut_trans hu hsame⟩
  · have hi : s.issue th body = (u.noteIssue th.tile th.thread).goto th.tile th.thread pc := by
      unfold State.issue
      simp only [State.me] at hr hb ⊢
      simp only [ne_eq, hr, not_true_eq_false, if_false, hb]
    have hout : ¬ (u.noteIssue th.tile th.thread).inCode th.tile pc := fun h => hc (State.inCode_of_hq (s := u.noteIssue th.tile th.thread) hq.symm h)
    rw [hi, State.goto_outside hout]
    generalize hv : (u.noteIssue th.tile th.thread).setThread th.tile th.thread _ = v
    have hsv : s.sameBut v th := by
      rw [← hv]
      exact State.sameBut_trans hu (State.sameBut_trans (State.sameBut_noteIssue u th) (State.sameBut_setThread _ th _))
    obtain ⟨hme, hfault⟩ := State.threadFault_same v th 0x01 ((u.noteIssue th.tile th.thread).thread th.tile th.thread).pc
    have hwakes := State.settle_onlyWakes (v.threadFault th.tile th.thread 0x01 ((u.noteIssue th.tile th.thread).thread th.tile th.thread).pc) th.tile
    have hhq := congrArg State.hq hwakes.1
    dsimp only at hhq
    rw [State.settle_me _ _ (by rw [hme]; exact ThreadState.noConfusion) (by rw [hme]; exact ThreadState.noConfusion), hme, hhq]
    exact ⟨rfl, rfl, State.sameBut_wakes (State.sameBut_trans (State.sameBut_hq hsv _) hfault) hwakes⟩

/-- An instruction that goes on at the next one. -/
theorem State.issue_goesOn {s : State} {th : Thr} {body : Thread → State → Issued} (hr : s.canRun th) (hb : body (s.me th) s = .done s) :
    s.goesTo (s.issue th body) th (s.me th) ((s.me th).pc + 4) :=
  ⟨fun hc => State.issue_done hr.1 hc rfl hb, fun hc => absurd hr.2.2 hc⟩

/-- An instruction that changes its own thread alone. -/
theorem State.issue_setThread {s : State} {th : Thr} {body : Thread → State → Issued} {y : Thread} (hr : s.canRun th) (hpc : y.pc = (s.me th).pc)
    (hb : body (s.me th) s = .done (s.setThread th.tile th.thread y)) : s.retires (s.issue th body) th y :=
  State.issue_retires hr.1 hr.2.2 hpc hb

/-! ## Compares -/

theorem flagReg_some {d : BitVec 5} (h : d.toNat < 8) : flagReg d = some ⟨d.toNat, h⟩ := dif_pos h

theorem flagReg_none {d : BitVec 5} (h : ¬ d.toNat < 8) : flagReg d = none := dif_neg h

theorem flagPending_lt {s : State} {th : Thr} {n : Nat} (h : s.flagPending th n = true) : n < 8 := by
  simp only [State.flagPending, Bool.and_eq_true, beq_iff_eq] at h
  omega

/-- How a compare ends whose flag is complete, pending or none. -/
theorem State.issue_compare {s : State} {th : Thr} {body : Thread → State → Issued} {d : BitVec 5} {r : Bool} (hr : s.canRun th)
    (hflag : ∀ k : Fin 8, flagReg d = some k → body (s.me th) s = needFlag s th k.val (.done (s.writeFlag th k r)))
    (hnone : flagReg d = none → body (s.me th) s = illegal s) :
    if s.flagPending th d.toNat then s.stallsOn (s.issue th body) th .matrixBusy
    else if d.toNat < 8 then s.retires (s.issue th body) th ((s.me th).setFlag d.toNat r)
    else s.faults (s.issue th body) th 0x01 := by
  by_cases hd : d.toNat < 8
  · have hb := hflag _ (flagReg_some hd)
    rw [needFlag] at hb
    split
    · rw [if_pos ‹_›] at hb
      exact State.issue_stall hr.1 hb
    · rw [if_neg ‹_›] at hb
      exact State.issue_setThread hr rfl hb
  · rw [if_neg (fun h => hd (flagPending_lt h)), if_neg hd]
    exact State.issue_faults hr.1 (hnone (flagReg_none hd))

theorem compareOp_ends {s : State} {th : Thr} (hr : s.canRun th) (c : Cond) (d a b : BitVec 5) {md : BitVec 8} (hm : md.extractLsb 7 4 = 0#4) :
    if s.flagPending th d.toNat then s.stallsOn (compareOp th c d a b md s) th .matrixBusy
    else if d.toNat < 8 then s.retires (compareOp th c d a b md s) th ((s.me th).setFlag d.toNat (condHolds c ((s.me th).readS a) ((s.me th).readS b)))
    else s.faults (compareOp th c d a b md s) th 0x01 := by
  refine State.issue_compare hr (fun k hk => ?_) (fun hk => ?_)
  · rw [hk]
    exact (if_neg (not_not.2 (modHigh_zero hm))).trans (congrArg _ (need_canRun hr _ _ _))
  · rw [hk]

theorem cmpi_ends {s : State} {th : Thr} (hr : s.canRun th) (c : Cond) (d a : BitVec 5) (imm : BitVec 13) :
    ∃ t, exec (.cmpi th c d a imm) s = .next t ∧
      if s.flagPending th d.toNat then s.stallsOn t th .matrixBusy
      else if d.toNat < 8 then s.retires t th ((s.me th).setFlag d.toNat (condHolds c ((s.me th).readS a) (imm.signExtend 64)))
      else s.faults t th 0x01 := by
  refine ⟨_, rfl, State.issue_compare hr (fun k hk => ?_) (fun hk => ?_)⟩
  · rw [hk]
    exact congrArg (needFlag s th k.val) (need_canRun hr _ _ _)
  · rw [hk]

theorem condHolds_lt (x y : Word) : condHolds .lt x y = decide (x.toInt < y.toInt) := rfl
theorem condHolds_ltu (x y : Word) : condHolds .ltu x y = decide (x.toNat < y.toNat) := rfl
theorem condHolds_eq (x y : Word) : condHolds .eq x y = decide (x = y) := rfl
theorem condHolds_ne (x y : Word) : condHolds .ne x y = decide (x ≠ y) := (decide_not (p := x = y)).symm
theorem condHolds_ge (x y : Word) : condHolds .ge x y = decide (y.toInt ≤ x.toInt) :=
  (decide_not (p := x.toInt < y.toInt)).symm.trans (decide_eq_decide.2 not_lt)
theorem condHolds_geu (x y : Word) : condHolds .geu x y = decide (y.toNat ≤ x.toNat) :=
  (decide_not (p := x.toNat < y.toNat)).symm.trans (decide_eq_decide.2 not_lt)

/-! ## Fields and targets -/

theorem wideField_toNat (hw : BitVec 2) (imm : BitVec 16) : (wideField hw imm).toNat = imm.toNat * 2 ^ (16 * hw.toNat) := by
  have hpow : imm.toNat * 2 ^ (16 * hw.toNat) < 2 ^ 64 := by
    calc imm.toNat * 2 ^ (16 * hw.toNat) < 2 ^ 16 * 2 ^ (16 * hw.toNat) := Nat.mul_lt_mul_of_pos_right imm.isLt (by positivity)
      _ = 2 ^ (16 + 16 * hw.toNat) := (pow_add _ _ _).symm
      _ ≤ 2 ^ 64 := Nat.pow_le_pow_right (by decide) (by have := hw.isLt; omega)
  rw [wideField, BitVec.toNat_shiftLeft, BitVec.toNat_setWidth_of_le (by decide), Nat.shiftLeft_eq, Nat.mod_eq_of_lt hpow]

/-- A word whose bits [lo + 15 : lo] give way to 16 others. -/
theorem replaced_field (v : Word) (hw : BitVec 2) (imm : BitVec 16) :
    (v &&& ~~~(wideField hw 0xFFFF)) ||| wideField hw imm =
      BitVec.ofNat 64 (v.toNat / 2 ^ (16 * hw.toNat + 16) * 2 ^ (16 * hw.toNat + 16) + imm.toNat * 2 ^ (16 * hw.toNat) + v.toNat % 2 ^ (16 * hw.toNat)) := by
  generalize hlo : 16 * hw.toNat = lo
  have hfield : imm.toNat * 2 ^ lo + v.toNat % 2 ^ lo < 2 ^ (lo + 16) := by
    have h1 := imm.isLt
    have h2 := Nat.mod_lt v.toNat (Nat.two_pow_pos lo)
    have h3 : (imm.toNat + 1) * 2 ^ lo ≤ 2 ^ 16 * 2 ^ lo := Nat.mul_le_mul_right _ h1
    rw [pow_add]
    linarith
  apply BitVec.eq_of_getLsbD_eq
  intro i hi
  have hbits : ∀ w : BitVec 16, (wideField hw w).getLsbD i = (decide (lo ≤ i) && w.getLsbD (i - lo)) := by
    intro w
    rw [← BitVec.testBit_toNat, wideField_toNat, hlo, Nat.testBit_mul_two_pow, BitVec.testBit_toNat]
  have hones : (0xFFFF : BitVec 16).getLsbD (i - lo) = decide (i - lo < 16) := BitVec.getLsbD_allOnes
  rw [BitVec.getLsbD_or, BitVec.getLsbD_and, BitVec.getLsbD_not, hbits, hbits, hones, BitVec.getLsbD_ofNat, add_assoc, mul_comm (_ / _),
    Nat.testBit_two_pow_mul_add _ hfield, mul_comm imm.toNat, Nat.testBit_two_pow_mul_add _ (Nat.mod_lt _ (Nat.two_pow_pos lo)),
    Nat.testBit_mod_two_pow, Nat.testBit_div_two_pow, BitVec.testBit_toNat, BitVec.testBit_toNat, BitVec.testBit_toNat]
  by_cases h1 : i < lo
  · simp [h1, hi, show i < lo + 16 by omega, show ¬ lo ≤ i by omega]
  · by_cases h2 : i < lo + 16
    · simp [h1, h2, hi, show lo ≤ i by omega, show i - lo < 16 by omega]
    · have h3 : imm.getLsbD (i - lo) = false := BitVec.getLsbD_of_ge _ _ (by omega)
      simp [h2, h3, hi, show lo ≤ i by omega, show ¬ i - lo < 16 by omega, show i - (lo + 16) + (lo + 16) = i by omega]

theorem branchTarget_eq {n : Nat} (pc : BitVec 32) (words : BitVec n) : branchTarget pc words = pc + words.signExtend 32 * 4 := by
  rw [branchTarget]
  exact congrArg _ (BitVec.shiftLeft_eq_mul_twoPow _ _)

/-- A register's offset with bits 1:0 dropped. -/
theorem dropped_low_bits (v : Word) : v.setWidth 32 &&& ~~~3#32 = BitVec.ofNat 32 (v.toNat / 4 * 4) := by
  apply BitVec.eq_of_getLsbD_eq
  intro i hi
  have hlow : (3#32).getLsbD i = decide (i < 2) := by
    rw [← BitVec.testBit_toNat, show (3#32).toNat = 2 ^ 2 - 1 from rfl, Nat.testBit_two_pow_sub_one]
  rw [BitVec.getLsbD_and, BitVec.getLsbD_not, hlow, BitVec.getLsbD_setWidth, BitVec.getLsbD_ofNat, show 4 = 2 ^ 2 from rfl, Nat.testBit_mul_two_pow,
    Nat.testBit_div_two_pow, BitVec.testBit_toNat]
  by_cases h2 : i < 2
  · simp [h2, show ¬ 2 ≤ i by omega]
  · simp [h2, hi, show 2 ≤ i by omega, show i - 2 + 2 = i by omega]

/-! ## Branches -/

theorem branchOn_ends {s : State} {th : Thr} (hr : s.canRun th) (f : BitVec 3) (off : BitVec 20) (want : Bool) :
    if s.flagPending th f.toNat then s.stallsOn (branchOn th f off want s) th .matrixBusy
    else s.goesTo (branchOn th f off want s) th (s.me th)
      (if (s.me th).f.getLsbD f.toNat = want then (s.me th).pc + off.signExtend 32 * 4 else (s.me th).pc + 4) := by
  split
  · exact State.issue_stall hr.1 (if_pos ‹_›)
  · rename_i hflag
    by_cases hw : (s.me th).f.getLsbD f.toNat = want
    · rw [if_pos hw, ← branchTarget_eq]
      exact State.issue_goesTo hr.1 rfl rfl (State.sameBut_refl _ _) ((if_neg hflag).trans (if_pos hw))
    · rw [if_neg hw]
      exact State.issue_goesOn hr ((if_neg hflag).trans (if_neg hw))

/-- Settles O2: a compare, a move or a branch by the way in which its issue ends. -/
theorem scalarComparesMovesAndBranches : Obligations.ScalarComparesMovesAndBranches := by
  unfold Obligations.ScalarComparesMovesAndBranches
  refine ⟨fun s th d a b md imm hr hm => ⟨?_, ?_⟩, fun s th d a hw imm i13 hr => ?_, fun s th d a f off imm hr => ?_⟩
  · have hop := fun c => compareOp_ends hr c d a b hm
    simp only [List.forall_mem_cons, List.not_mem_nil, false_imp_iff, implies_true, and_true, ← condHolds_eq, ← condHolds_ne, ← condHolds_lt,
      ← condHolds_ge, ← condHolds_ltu, ← condHolds_geu]
    exact ⟨⟨_, rfl, hop .eq⟩, ⟨_, rfl, hop .ne⟩, ⟨_, rfl, hop .lt⟩, ⟨_, rfl, hop .ge⟩, ⟨_, rfl, hop .ltu⟩, ⟨_, rfl, hop .geu⟩⟩
  · have hop := fun c => cmpi_ends hr c d a imm
    simp only [List.forall_mem_cons, List.not_mem_nil, false_imp_iff, implies_true, and_true, ← condHolds_eq, ← condHolds_ne, ← condHolds_lt,
      ← condHolds_ge, ← condHolds_ltu, ← condHolds_geu]
    exact ⟨hop .eq, hop .ne, hop .lt, hop .ge, hop .ltu, hop .geu⟩
  · have hwrite : ∀ v, s.retires (s.issue th (fun _ s => need s th [d] [] (.done (s.writeScalar th d v)))) th ((s.me th).writeS d v) := fun v =>
      State.issue_writeScalar hr rfl rfl (need_canRun hr _ _ _)
    refine ⟨⟨_, rfl, ?_⟩, ⟨_, rfl, ?_⟩, ⟨_, rfl, ?_⟩, ⟨_, rfl, ?_⟩, ⟨_, rfl, ?_⟩, ⟨_, rfl, ?_⟩, ⟨_, rfl, ?_⟩⟩
    · rw [← wideField_toNat, BitVec.ofNat_toNat, BitVec.setWidth_eq]
      exact hwrite _
    · rw [← replaced_field]
      exact State.issue_writeScalar hr rfl rfl (need_canRun hr _ _ _)
    · exact State.issue_writeScalar hr rfl rfl (need_canRun hr _ _ _)
    · exact State.issue_setThread hr rfl (need_canRun hr _ _ _)
    · refine State.issue_writeScalar hr rfl rfl ((need_canRun hr _ _ _).trans ?_)
      rw [getElem?_pos, Option.getD_some]
    · exact State.issue_writeScalar hr rfl rfl (need_canRun hr _ _ _)
    · exact State.issue_setThread hr rfl rfl
  · refine ⟨⟨_, rfl, ?_⟩, ⟨_, rfl, ?_⟩, ⟨_, rfl, ?_⟩, ⟨_, rfl, ?_⟩, ⟨_, rfl, ?_⟩⟩
    · rw [← branchTarget_eq]
      exact State.issue_goesTo hr.1 rfl rfl (State.sameBut_refl _ _) rfl
    · exact branchOn_ends hr f off true
    · have h := branchOn_ends hr f off false
      simp only [← Bool.not_eq_true, ite_not] at h
      exact h
    · rw [← branchTarget_eq, BitVec.ofNat_toNat]
      exact State.issue_goesTo (u := s.writeScalar th d _) hr.1 rfl (State.setThread_thread_self _ _ _ _) (State.sameBut_setThread _ _ _) (need_canRun hr _ _ _)
    · split
      · rename_i hlt
        rw [← dropped_low_bits]
        exact State.issue_goesTo hr.1 rfl rfl (State.sameBut_refl _ _) ((need_canRun hr _ _ _).trans (if_pos hlt))
      · exact State.issue_faults hr.1 ((need_canRun hr _ _ _).trans (if_neg ‹_›))

end Sys2Proof.Machine
end

section
/-! Bytes of numbers, lanes of vector registers, and what reads of a scratchpad give after writes of it (R17, R43, R50, R164). -/

namespace Sys2Proof.Machine

open Sys2Proof

/-! ## Little-endian bytes (R17) -/

@[simp] theorem natLe_length (n v : Nat) : (natLe n v).length = n := by
  induction n generalizing v with
  | zero => rfl
  | succ n ih => rw [natLe, List.length_cons, ih]

theorem leNat_lt (l : List Byte) : leNat l < 2 ^ (8 * l.length) := by
  induction l with
  | nil => exact Nat.one_pos
  | cons b l ih =>
    have hb := b.isLt
    rw [leNat, List.length_cons, Nat.mul_succ, pow_add]
    omega

/-- The low bytes of a number depend on its low bits alone. -/
theorem natLe_mod (n v : Nat) : natLe n (v % 2 ^ (8 * n)) = natLe n v := by
  induction n generalizing v with
  | zero => rfl
  | succ n ih =>
    have hlow : v % 2 ^ (8 * (n + 1)) % 256 = v % 256 := Nat.mod_mod_of_dvd _ (pow_dvd_pow 2 (show 8 ≤ 8 * (n + 1) by omega))
    have hhigh : v % 2 ^ (8 * (n + 1)) / 256 = v / 256 % 2 ^ (8 * n) := by
      rw [Nat.mul_succ, pow_add, mul_comm (2 ^ (8 * n)), show 2 ^ 8 = 256 from rfl, Nat.mod_mul_right_div_self]
    rw [natLe, natLe, hhigh, ih]
    exact congrArg (· :: _) (BitVec.eq_of_toNat_eq (by rw [BitVec.toNat_ofNat, BitVec.toNat_ofNat]; exact hlow))

theorem leNat_natLe (n v : Nat) : leNat (natLe n v) = v % 2 ^ (8 * n) := by
  induction n generalizing v with
  | zero => rw [Nat.mul_zero, pow_zero, Nat.mod_one]; rfl
  | succ n ih =>
    rw [natLe, leNat, ih, BitVec.toNat_ofNat, Nat.mul_succ, pow_add, mul_comm (2 ^ (8 * n)), Nat.mod_mul]
    rfl

/-! ## Lanes (R43) -/

theorem lane_lt (f : LaneFmt) (v : BitVec 1024) (i : Nat) : lane f v i < 2 ^ laneWidth f := Nat.mod_lt _ (Nat.two_pow_pos _)

theorem packNat_lt (w : Nat) (l : List Nat) : packNat w l < 2 ^ (w * l.length) := by
  induction l with
  | nil => exact Nat.one_pos
  | cons x l ih =>
    have hx := Nat.mod_lt x (Nat.two_pow_pos w)
    rw [packNat, List.length_cons, Nat.mul_succ, pow_add, mul_comm (2 ^ (w * l.length))]
    calc x % 2 ^ w + 2 ^ w * packNat w l < 2 ^ w * 1 + 2 ^ w * packNat w l := by omega
      _ = 2 ^ w * (1 + packNat w l) := (Nat.mul_add _ _ _).symm
      _ ≤ 2 ^ w * 2 ^ (w * l.length) := Nat.mul_le_mul_left _ (by omega)

theorem packNat_digit (w : Nat) {l : List Nat} {i : Nat} (h : i < l.length) : packNat w l / 2 ^ (w * i) % 2 ^ w = l[i] % 2 ^ w := by
  induction l generalizing i with
  | nil => simp at h
  | cons x l ih =>
    have hx := Nat.mod_lt x (Nat.two_pow_pos w)
    cases i with
    | zero => rw [packNat, Nat.mul_zero, pow_zero, Nat.div_one, Nat.add_mul_mod_self_left, Nat.mod_mod]; rfl
    | succ i =>
      rw [packNat, Nat.mul_succ, add_comm (w * i), pow_add, ← Nat.div_div_eq_div_mul, Nat.add_mul_div_left _ _ (Nat.two_pow_pos w), Nat.div_eq_of_lt hx,
        Nat.zero_add]
      exact ih (by simpa using h)

theorem laneWidth_laneCount (f : LaneFmt) : laneWidth f * laneCount f = 1024 := by cases f <;> rfl

theorem lane_packLanes {f : LaneFmt} {l : List Nat} (hl : l.length = laneCount f) {i : Nat} (hi : i < l.length) :
    lane f (packLanes f l) i = l[i] % 2 ^ laneWidth f := by
  have hlt := packNat_lt (laneWidth f) l
  rw [hl, laneWidth_laneCount] at hlt
  rw [lane, packLanes, BitVec.toNat_ofNat, Nat.mod_eq_of_lt hlt, packNat_digit _ hi]

/-- The lanes of a register of which the enabled ones took new values. -/
theorem lane_mergeLanes (f : LaneFmt) (x : Thread) (md : BitVec 8) (old : BitVec 1024) (new : List Nat) {i : Nat} (hi : i < laneCount f) :
    lane f (mergeLanes f x md old new) i = if laneOn f x md i then new.getD i 0 % 2 ^ laneWidth f else lane f old i := by
  rw [mergeLanes, lane_packLanes (by rw [List.length_map, List.length_range]) (by rwa [List.length_map, List.length_range]), List.getElem_map,
    List.getElem_range]
  split
  · rfl
  · exact Nat.mod_eq_of_lt (lane_lt f old i)

theorem getD_map_range {n i : Nat} (h : i < n) (g : Nat → Nat) : ((List.range n).map g).getD i 0 = g i := by
  rw [List.getD_eq_getElem _ _ (by rwa [List.length_map, List.length_range]), List.getElem_map, List.getElem_range]

theorem vecReg_eq {d : BitVec 5} {v : Fin 16} (h : v.val = d.toNat) : vecReg d = some v := by
  rw [vecReg, dif_pos (by omega : d.toNat < 16)]
  exact congrArg some (Fin.ext h.symm)

/-- The vector register that bits [3:0] of a field name (R173). -/
theorem halfReg_eq {d : BitVec 5} {v : Fin 16} (h : v.val = d.toNat % 16) : halfReg d = (v, d.getLsbD 4) := by
  have hv : (d.extractLsb 3 0).toFin = v := Fin.ext (by
    rw [BitVec.val_toFin, BitVec.extractLsb_toNat, Nat.shiftRight_zero, h])
  rw [halfReg, hv]

/-- Half of a vector register, as the bytes of what lies above the other half or of the whole. -/
theorem halfBytes_eq (v : BitVec 1024) (upper : Bool) : halfBytes v upper = natLe 64 (v.toNat / 2 ^ (if upper then 512 else 0)) := by
  cases upper with
  | true => rfl
  | false => exact (natLe_mod 64 v.toNat).trans (congrArg _ (Nat.div_one _).symm)

/-! ## Scratchpad bytes -/

@[simp] theorem readPad_length (m : Keyed Byte) (off n : Nat) : (readPad m off n).length = n := by
  rw [readPad, List.length_map, List.length_range]

/-- A byte that a write of at most 1 MiB covers. -/
theorem find_writePad_mod (m : Keyed Byte) (off : Nat) {l : List Byte} (hfit : l.length ≤ padSize) {k : Nat} (hk : k < l.length) :
    find 0 (writePad m off l) ((off + k) % padSize) = l[k] := by
  induction l generalizing m off k with
  | nil => simp at hk
  | cons b l ih =>
    rw [List.length_cons] at hfit hk
    cases k with
    | zero =>
      rw [Nat.add_zero, writePad, find_writePad_other, find_store, if_pos rfl]
      · rfl
      · intro j hj
        simp only [padSize] at hfit ⊢
        omega
    | succ k =>
      rw [writePad, show off + (k + 1) = off + 1 + k by omega]
      exact ih _ _ (by omega) (by omega)

theorem padStored_writePad (m : Keyed Byte) (off : Nat) {l : List Byte} (hfit : l.length ≤ padSize) : padStored m (writePad m off l) off l :=
  ⟨fun _ hk => find_writePad_mod m off hfit hk, fun i hi => find_writePad_other m off i l hi⟩

theorem readPad_eq {m : Keyed Byte} {off n : Nat} {l : List Byte} (hl : l.length = n)
    (h : ∀ (k : Nat) (hk : k < l.length), find 0 m ((off + k) % padSize) = l[k]) : readPad m off n = l := by
  refine List.ext_getElem (by rw [readPad_length, hl]) fun i h1 h2 => ?_
  simp only [readPad, List.getElem_map, List.getElem_range]
  exact h i h2

/-- What is stored can be read back. -/
theorem readPad_writePad_same (m : Keyed Byte) (off : Nat) {l : List Byte} {n : Nat} (hn : l.length = n) (hfit : n ≤ padSize) :
    readPad (writePad m off l) off n = l :=
  readPad_eq hn fun _ hk => find_writePad_mod m off (hn.trans_le hfit) hk

/-- Some writes one after another, each of some bytes from an offset on. -/
def writePads (m : Keyed Byte) (l : List (Nat × List Byte)) : Keyed Byte := l.foldl (fun m e => writePad m e.1 e.2) m

theorem find_writePads_other (m : Keyed Byte) (l : List (Nat × List Byte)) (i : Nat)
    (h : ∀ e ∈ l, ∀ k < e.2.length, i ≠ (e.1 + k) % padSize) : find 0 (writePads m l) i = find 0 m i := by
  induction l generalizing m with
  | nil => rfl
  | cons e l ih =>
    rw [List.forall_mem_cons] at h
    exact (ih _ h.2).trans (find_writePad_other m e.1 i e.2 h.1)

/-- Of some writes, one that no later one overlaps is read back. -/
theorem readPad_writePads (m : Keyed Byte) {l k : List (Nat × List Byte)} {e : Nat × List Byte} (hfit : e.2.length ≤ padSize)
    (h : ∀ e' ∈ k, ∀ i < e.2.length, ∀ j < e'.2.length, (e.1 + i) % padSize ≠ (e'.1 + j) % padSize) :
    readPad (writePads m (l ++ e :: k)) e.1 e.2.length = e.2 := by
  refine readPad_eq rfl fun i hi => ?_
  rw [writePads, List.foldl_append, List.foldl_cons]
  rw [← writePads, find_writePads_other _ _ _ fun e' he' j hj => h e' he' i hi j hj]
  exact find_writePad_mod _ _ hfit hi

/-! ## Words of a scratchpad (R53) -/

/-- The one word that an aligned access of at most 8 bytes touches. -/
theorem padWords_one {a n : Nat} (hn : n = 2 ∨ n = 4 ∨ n = 8) (ha : a % n = 0) : (padWords a n).map Prod.fst = [a / 8 % padWordCount] := by
  have hone : (a % 8 + n + 7) / 8 = 1 := by
    rcases hn with rfl | rfl | rfl <;> omega
  rw [padWords, hone]
  rfl

end Sys2Proof.Machine
end

section
/-! Loads, stores, gathers and scatters of the scratchpad (R50–R56, R164–R168). -/

namespace Sys2Proof.Machine

open Sys2Proof

/-! ## Reads and writes that meet no error -/

theorem State.wordsCheck_sound {s : State} {t : Nat} {words : List Nat} (h : ∀ w ∈ words, w ∉ (s.tile t).padBad) :
    s.wordsCheck t words [] = (s, false) := by
  have hnone : words.filter (fun w => (s.tile t).padBad.contains w) = [] :=
    List.filter_eq_nil_iff.2 fun w hw => by simpa using h w hw
  have hevents : s.padEvents t words [] = s := rfl
  unfold State.wordsCheck
  dsimp only
  rw [hevents, hnone]
  rfl

theorem State.padCheck_clean {s : State} {t off n : Nat} (h : (s.tile t).cleanAt off n) : s.padCheck t off n [] = (s, false) :=
  State.wordsCheck_sound fun w hw => by
    obtain ⟨e, he, rfl⟩ := List.mem_map.1 hw
    exact h e he

theorem State.matrixCatchUp_free {s : State} {t : Nat} (h : (s.tile t).matrix = none) : s.matrixCatchUp t = s := by
  unfold State.matrixCatchUp
  dsimp only
  rw [h]

/-- Where no waiting thread would read an unsound word, none would with fewer unsound words. -/
theorem Tile.rereadBad_mono {x y : Tile} {written : List Nat} (hth : y.threads = x.threads) (hbad : ∀ w ∈ y.padBad, w ∈ x.padBad)
    (h : x.rereadBad written = []) : y.rereadBad written = [] := by
  unfold Tile.rereadBad at h ⊢
  rw [List.filterMap_eq_nil_iff] at h ⊢
  intro z hz
  have hx := h z (hth ▸ hz)
  revert hx
  cases z.wait.bind WaitCond.word with
  | none => exact id
  | some w =>
    simp only [ite_eq_right_iff, reduceCtorEq, imp_false, not_and, Bool.not_eq_true, List.contains_iff_mem]
    exact fun hx h1 h2 => hx h1 (hbad w h2)

/-- The tile after a write of its scratchpad that meets no error. -/
def Tile.padPut (x : Tile) (off : Nat) (bytes : List Byte) : Tile :=
  { x with pad := writePad x.pad off bytes
           padBad := x.padBad.filter (fun w => !(padWords off bytes.length).contains (w, true)) }

theorem contains_covered (l : List (Nat × Bool)) (w : Nat) : ((l.filter (fun e => e.2)).map Prod.fst).contains w = l.contains (w, true) := by
  rw [Bool.eq_iff_iff, List.contains_iff_mem, List.contains_iff_mem]
  simp

theorem State.padWrite_clean {s : State} {t off : Nat} {bytes : List Byte} (hfree : (s.tile t).matrix = none)
    (h : (s.tile t).rereadBad ((padWords off bytes.length).map Prod.fst) = []) :
    s.padWrite t off bytes = s.setTile t ((s.tile t).padPut off bytes) := by
  unfold State.padWrite
  rw [State.matrixCatchUp_free hfree]
  have hnone : ((s.tile t).padPut off bytes).rereadBad ((padWords off bytes.length).map Prod.fst) = [] :=
    Tile.rereadBad_mono (x := s.tile t) rfl (fun w hw => (List.mem_filter.1 hw).1) h
  simp only [contains_covered]
  change (((s.tile t).padPut off bytes).rereadBad _).foldl _ _ = _
  rw [hnone]
  rfl

/-! ## Loads -/

/-- A load of the scratchpad that meets no error gives its bytes to what follows. -/
theorem loadPad_clean {s : State} {th : Thr} {a n align : Nat} {put : State → List Byte → Issued} (ha : a % align = 0)
    (hc : (s.tile th.tile).cleanAt a n) : loadPad th a n align [] s put = put s (readPad (s.tile th.tile).pad a n) := by
  unfold loadPad
  rw [if_neg (not_not.2 ha), State.padCheck_clean hc]
  rfl

theorem lds_retires {s : State} {th : Thr} (hr : s.canRun th) (sz : AccSize) (d base : BitVec 5) (off : BitVec 12)
    (ha : padAddr ((s.me th).readS base) off (accBytes sz) % accBytes sz = 0)
    (hc : (s.tile th.tile).cleanAt (padAddr ((s.me th).readS base) off (accBytes sz)) (accBytes sz)) :
    ∃ t, exec (.lds th sz 0 d base off []) s = .next t ∧ s.retires t th ((s.me th).writeS d
      (BitVec.ofNat 64 (leNat (readPad (s.tile th.tile).pad (padAddr ((s.me th).readS base) off (accBytes sz)) (accBytes sz))))) := by
  refine ⟨_, rfl, State.issue_writeScalar hr rfl rfl ?_⟩
  rw [if_neg (not_not.2 rfl), need_canRun hr, loadPad_clean ha hc]

theorem ldv_retires {s : State} {th : Thr} (hr : s.canRun th) {d : BitVec 5} {v : Fin 16} (hv : v.val = d.toNat) (base : BitVec 5) (off : BitVec 12)
    (ha : padAddr ((s.me th).readS base) off 128 % 2 = 0) (hc : (s.tile th.tile).cleanAt (padAddr ((s.me th).readS base) off 128) 128) :
    ∃ t, exec (.ldv th 0 d base off []) s = .next t ∧ s.retires t th { s.me th with
      v := (s.me th).v.set v (BitVec.ofNat 1024 (leNat (readPad (s.tile th.tile).pad (padAddr ((s.me th).readS base) off 128) 128))) } := by
  refine ⟨_, rfl, State.issue_setThread hr rfl ?_⟩
  rw [vecReg_eq hv]
  dsimp only
  rw [if_neg (not_not.2 rfl), need_canRun hr, loadPad_clean ha hc]
  rfl

theorem ldvH_retires {s : State} {th : Thr} (hr : s.canRun th) {d : BitVec 5} {v : Fin 16} (hv : v.val = d.toNat % 16) (base : BitVec 5)
    (off : BitVec 12) (ha : padAddr ((s.me th).readS base) off 64 % 2 = 0)
    (hc : (s.tile th.tile).cleanAt (padAddr ((s.me th).readS base) off 64) 64) :
    ∃ t, exec (.ldvH th 0 d base off []) s = .next t ∧ s.retires t th { s.me th with
      v := (s.me th).v.set v (setHalf (s.me th).v[v] (d.getLsbD 4) (readPad (s.tile th.tile).pad (padAddr ((s.me th).readS base) off 64) 64)) } := by
  refine ⟨_, rfl, State.issue_setThread hr rfl ?_⟩
  simp only [halfReg_eq hv]
  rw [if_neg (not_not.2 rfl), need_canRun hr, loadPad_clean ha hc]
  rfl

/-! ## Stores -/

/-- The issue stage chooses READY threads alone (R46). -/
theorem Tile.pick_ready {x : Tile} {n : Fin 16} (h : x.pick = some n) : x.threads[n].state = .ready := by
  have hmem : n ∈ x.order.filter (fun n => decide (x.threads[n].state = .ready)) := by
    unfold Tile.pick at h
    dsimp only at h
    split at h
    · rename_i hfind
      exact Option.some.inj h ▸ List.mem_of_find?_eq_some hfind
    · exact List.mem_of_head? h
  simpa using (List.mem_filter.1 hmem).2

theorem State.canRun_ready {s : State} {th : Thr} (hr : s.canRun th) : (s.me th).state = .ready := Tile.pick_ready hr.1

/-- `u` is `s` with one tile changed: as a list of tiles the two may differ in more, as tiles they do not. -/
def State.tileBecomes (s u : State) (t : Nat) (y : Tile) : Prop :=
  { u with tiles := s.tiles } = s ∧ ∀ k, u.tile k = if k = t then y else s.tile k

theorem State.tileBecomes_refl (s : State) (t : Nat) : s.tileBecomes s t (s.tile t) :=
  ⟨rfl, fun k => by split; (subst k; rfl); rfl⟩

theorem State.tileBecomes_setTile {s u : State} {t : Nat} {x : Tile} (h : s.tileBecomes u t x) (y : Tile) : s.tileBecomes (u.setTile t y) t y := by
  refine ⟨h.1, fun k => ?_⟩
  rw [State.setTile_tile, h.2]
  split <;> rfl

/-- What an instruction that retires has done depends on the tiles of the state it retires from, not on their list. -/
theorem State.retiresWaking_of_tileBecomes {s u t : State} {th : Thr} {x : Thread} {y : Tile} (h : s.tileBecomes u th.tile y)
    (hu : u.retiresWaking t th x) : (s.setTile th.tile y).retiresWaking t th x := by
  obtain ⟨hme, h1, h2, h3, h4⟩ := hu
  have htile : ∀ k, (s.setTile th.tile y).tile k = u.tile k := fun k => (State.setTile_tile s _ k y).trans (h.2 k).symm
  have hthread : ∀ n, (s.setTile th.tile y).thread th.tile n = u.thread th.tile n := fun n => by rw [State.thread, State.thread, htile]
  refine ⟨hme, ?_, fun k hk => (h2 k hk).trans (htile k).symm, by rw [htile]; exact h3, fun n hn => by rw [hthread]; exact h4 n hn⟩
  have hrest := h.1
  rw [← h1] at hrest
  simpa [State.setTile] using congrArg (State.setTile · th.tile y) hrest

/-- An instruction that leaves its tile changed, but no thread, and after which waits are examined again. -/
theorem State.issue_tileWrote {s u : State} {th : Thr} {body : Thread → State → Issued} {y : Tile} (hr : s.canRun th)
    (hu : s.tileBecomes u th.tile y) (hy : y.threads = (s.tile th.tile).threads) (hb : body (s.me th) s = .wrote u) :
    (s.setTile th.tile y).retiresWaking (s.issue th body) th (s.me th) := by
  have hme : u.me th = s.me th := by simp only [State.me, State.thread, hu.2, if_true, hy]
  have hq : u.hq = s.hq := by simpa using congrArg State.hq hu.1
  have h := State.issue_wrote hr.1 (State.inCode_of_hq hq hr.2.2) (by rw [hme]) (by rw [hme]; exact State.canRun_ready hr) hb
  rw [hme] at h
  exact State.retiresWaking_of_tileBecomes hu h

theorem State.issue_storesPad {s : State} {th : Thr} {body : Thread → State → Issued} {a align : Nat} {bytes : List Byte} (hr : s.canRun th)
    (hfree : (s.tile th.tile).matrix = none) (ha : a % align = 0) (hfit : bytes.length ≤ padSize)
    (hc : (s.tile th.tile).storesClean a bytes.length) (hb : body (s.me th) s = storePad th a align bytes s) :
    s.storesPad (s.issue th body) th a bytes := by
  rw [storePad, if_neg (not_not.2 ha), if_neg (by rw [hc.1]; decide), State.padWrite_clean hfree hc.2] at hb
  exact ⟨_, padStored_writePad _ _ hfit, State.issue_tileWrote hr (State.tileBecomes_setTile (State.tileBecomes_refl _ _) _) rfl hb⟩

theorem accBytes_le (sz : AccSize) : accBytes sz ≤ padSize := by cases sz <;> decide

theorem sts_stores {s : State} {th : Thr} (hr : s.canRun th) (hfree : (s.tile th.tile).matrix = none) (sz : AccSize) (d base : BitVec 5)
    (off : BitVec 12) (ha : padAddr ((s.me th).readS base) off (accBytes sz) % accBytes sz = 0)
    (hc : (s.tile th.tile).storesClean (padAddr ((s.me th).readS base) off (accBytes sz)) (accBytes sz)) :
    ∃ t, exec (.sts th sz 0 d base off) s = .next t ∧
      s.storesPad t th (padAddr ((s.me th).readS base) off (accBytes sz)) (natLe (accBytes sz) ((s.me th).readS d).toNat) := by
  refine ⟨_, rfl, State.issue_storesPad hr hfree ha ?_ ?_ ?_⟩
  · rw [natLe_length]; exact accBytes_le sz
  · rwa [natLe_length]
  · rw [if_neg (not_not.2 rfl), need_canRun hr]

theorem stv_stores {s : State} {th : Thr} (hr : s.canRun th) (hfree : (s.tile th.tile).matrix = none) {d : BitVec 5} {v : Fin 16}
    (hv : v.val = d.toNat) (base : BitVec 5) (off : BitVec 12) (ha : padAddr ((s.me th).readS base) off 128 % 2 = 0)
    (hc : (s.tile th.tile).storesClean (padAddr ((s.me th).readS base) off 128) 128) :
    ∃ t, exec (.stv th 0 d base off) s = .next t ∧
      s.storesPad t th (padAddr ((s.me th).readS base) off 128) (natLe 128 (s.me th).v[v].toNat) := by
  refine ⟨_, rfl, State.issue_storesPad hr hfree ha ?_ ?_ ?_⟩
  · rw [natLe_length]; decide
  · rwa [natLe_length]
  · rw [vecReg_eq hv]
    dsimp only
    rw [if_neg (not_not.2 rfl), need_canRun hr]
    rfl

theorem stvH_stores {s : State} {th : Thr} (hr : s.canRun th) (hfree : (s.tile th.tile).matrix = none) {d : BitVec 5} {v : Fin 16}
    (hv : v.val = d.toNat % 16) (base : BitVec 5) (off : BitVec 12) (ha : padAddr ((s.me th).readS base) off 64 % 2 = 0)
    (hc : (s.tile th.tile).storesClean (padAddr ((s.me th).readS base) off 64) 64) :
    ∃ t, exec (.stvH th 0 d base off) s = .next t ∧ s.storesPad t th (padAddr ((s.me th).readS base) off 64)
      (natLe 64 ((s.me th).v[v].toNat / 2 ^ (if d.getLsbD 4 then 512 else 0))) := by
  refine ⟨_, rfl, State.issue_storesPad hr hfree ha ?_ ?_ ?_⟩
  · rw [natLe_length]; decide
  · rwa [natLe_length]
  · simp only [halfReg_eq hv]
    rw [if_neg (not_not.2 rfl), need_canRun hr]
    exact congrArg (storePad th _ 2 · s) (halfBytes_eq _ _)

/-! ## Gathers and scatters -/

/-- Bytes of a lane. -/
theorem laneBytes_cases (f : LaneFmt) : laneWidth f / 8 = 2 ∨ laneWidth f / 8 = 4 ∨ laneWidth f / 8 = 8 := by
  cases f
  · exact .inr (.inl rfl)
  · exact .inl rfl
  · exact .inl rfl

theorem laneWidth_bytes (f : LaneFmt) : 8 * (laneWidth f / 8) = laneWidth f := by cases f <;> rfl

theorem gatherAddr_lt (f : LaneFmt) (base : Word) (offs : BitVec 1024) (i : Nat) : gatherAddr f base offs i < padSize :=
  Nat.mod_lt _ (by decide)

/-- The word of a lane's access. -/
theorem padWords_lane {f : LaneFmt} {a : Nat} (ha : a % (laneWidth f / 8) = 0) (hlt : a < padSize) :
    (padWords a (laneWidth f / 8)).map Prod.fst = [a / 8] := by
  have hword : a / 8 < padWordCount := Nat.div_lt_of_lt_mul hlt
  rw [padWords_one (laneBytes_cases f) ha, Nat.mod_eq_of_lt hword]

theorem mem_gatherLanes {f : LaneFmt} {x : Thread} {md : BitVec 8} {base : Word} {offs : BitVec 1024} {e : Nat × Nat} :
    e ∈ gatherLanes f x md base offs ↔ e.1 < laneCount f ∧ laneOn f x md e.1 = true ∧ e.2 = gatherAddr f base offs e.1 := by
  unfold gatherLanes
  constructor
  · intro h
    obtain ⟨i, hi, rfl⟩ := List.mem_map.1 h
    obtain ⟨hlt, hon⟩ := List.mem_filter.1 hi
    exact ⟨List.mem_range.1 hlt, hon, rfl⟩
  · rintro ⟨hlt, hon, ha⟩
    exact List.mem_map.2 ⟨e.1, List.mem_filter.2 ⟨List.mem_range.2 hlt, hon⟩, Prod.ext rfl ha.symm⟩

theorem any_gatherLanes {f : LaneFmt} {x : Thread} {md : BitVec 8} {base : Word} {offs : BitVec 1024} {p : Nat → Bool}
    (h : ∀ i < laneCount f, laneOn f x md i = true → p (gatherAddr f base offs i) = false) :
    (gatherLanes f x md base offs).any (fun e => p e.2) = false := by
  rw [List.any_eq_false]
  intro e he
  obtain ⟨hlt, hon, ha⟩ := mem_gatherLanes.1 he
  rw [ha, h _ hlt hon]
  decide

theorem gth_retires {s : State} {th : Thr} {f : LaneFmt} {d b : BitVec 5} {dv bv : Fin 16} {md : BitVec 8} (hr : s.canRun th)
    (hf : gatherFmt md = some f) (hd : dv.val = d.toNat) (hb : bv.val = b.toNat) (a : BitVec 5)
    (halign : ∀ i < laneCount f, laneOn f (s.me th) md i = true → gatherAddr f ((s.me th).readS a) (s.me th).v[bv] i % (laneWidth f / 8) = 0)
    (hclean : ∀ i < laneCount f, laneOn f (s.me th) md i = true →
      (s.tile th.tile).cleanAt (gatherAddr f ((s.me th).readS a) (s.me th).v[bv] i) (laneWidth f / 8)) :
    ∃ t w, exec (.gth th d a b md []) s = .next t ∧ s.retires t th { s.me th with v := (s.me th).v.set dv w } ∧
      ∀ i < laneCount f, lane f w i = if laneOn f (s.me th) md i then
        leNat (readPad (s.tile th.tile).pad (gatherAddr f ((s.me th).readS a) (s.me th).v[bv] i) (laneWidth f / 8)) else lane f (s.me th).v[dv] i := by
  refine ⟨_, mergeLanes f (s.me th) md (s.me th).v[dv] ((List.range (laneCount f)).map (fun i =>
    leNat (readPad (s.tile th.tile).pad (gatherAddr f ((s.me th).readS a) (s.me th).v[bv] i) (laneWidth f / 8)))), rfl,
    State.issue_setThread hr rfl ?_, fun i hi => ?_⟩
  · have haligned := any_gatherLanes (offs := (s.me th).v[bv]) (p := fun a => decide (a % (laneWidth f / 8) ≠ 0)) (fun i hi hon => by simpa using halign i hi hon)
    have hsound : s.wordsCheck th.tile ((gatherLanes f (s.me th) md ((s.me th).readS a) (s.me th).v[bv]).map (fun e => e.2 / 8)) [] = (s, false) := by
      refine State.wordsCheck_sound fun w hw => ?_
      obtain ⟨e, he, rfl⟩ := List.mem_map.1 hw
      obtain ⟨hlt, hon, haddr⟩ := mem_gatherLanes.1 he
      have hword := padWords_lane (halign _ hlt hon) (gatherAddr_lt _ _ _ _)
      obtain ⟨w, hw, hfst⟩ := List.mem_map.1 (hword ▸ List.mem_singleton_self _)
      rw [haddr, ← hfst]
      exact hclean _ hlt hon w hw
    simp only [hf, vecReg_eq hd, vecReg_eq hb]
    rw [need_canRun hr, if_neg (by rw [haligned]; decide), hsound]
    rfl
  · rw [lane_mergeLanes _ _ _ _ _ hi, getD_map_range hi, Nat.mod_eq_of_lt]
    have := leNat_lt (readPad (s.tile th.tile).pad (gatherAddr f ((s.me th).readS a) (s.me th).v[bv] i) (laneWidth f / 8))
    rwa [readPad_length, laneWidth_bytes] at this

/-- The writes of a scatter. -/
def scatterWrites (f : LaneFmt) (v : BitVec 1024) (l : List (Nat × Nat)) : List (Nat × List Byte) :=
  l.map (fun e => (e.2, natLe (laneWidth f / 8) (lane f v e.1)))

/-- A scatter that meets no error stores its lanes one after another, and may make words sound. -/
theorem scatter_clean {t : Nat} (f : LaneFmt) (v : BitVec 1024) (l : List (Nat × Nat)) {s u : State} {y : Tile} (hu : s.tileBecomes u t y)
    (hfree : y.matrix = none) (h : ∀ e ∈ l, y.rereadBad ((padWords e.2 (laneWidth f / 8)).map Prod.fst) = []) :
    ∃ bad, s.tileBecomes (scatter t f v u l) t { y with pad := writePads y.pad (scatterWrites f v l), padBad := bad } := by
  induction l generalizing u y with
  | nil => exact ⟨y.padBad, hu⟩
  | cons e l ih =>
    obtain ⟨i, a⟩ := e
    rw [List.forall_mem_cons] at h
    have hy : u.tile t = y := (hu.2 t).trans (if_pos rfl)
    have hwrite : u.padWrite t a (natLe (laneWidth f / 8) (lane f v i)) = u.setTile t (y.padPut a (natLe (laneWidth f / 8) (lane f v i))) := by
      rw [State.padWrite_clean (by rw [hy]; exact hfree) (by rw [hy, natLe_length]; exact h.1), hy]
    rw [scatter, hwrite]
    exact ih (State.tileBecomes_setTile hu _) hfree fun e he => Tile.rereadBad_mono (x := y) rfl (fun w hw => (List.mem_filter.1 hw).1) (h.2 e he)

theorem mem_scatterWrites {f : LaneFmt} {v : BitVec 1024} {l : List (Nat × Nat)} {e : Nat × List Byte} (h : e ∈ scatterWrites f v l) :
    ∃ p ∈ l, e = (p.2, natLe (laneWidth f / 8) (lane f v p.1)) := by
  obtain ⟨p, hp, rfl⟩ := List.mem_map.1 h
  exact ⟨p, hp, rfl⟩

/-- Aligned accesses of one size at different addresses have no byte in common. -/
theorem aligned_apart {n a b i j : Nat} (ha : a % n = 0) (hb : b % n = 0) (hne : a ≠ b) (hi : i < n) (hj : j < n) : a + i ≠ b + j := by
  intro h
  have hai : (a + i) / n = a / n := by rw [Nat.add_div_eq_of_add_mod_lt (by rw [ha, Nat.mod_eq_of_lt hi]; omega), Nat.div_eq_of_lt hi, Nat.add_zero]
  have hbj : (b + j) / n = b / n := by rw [Nat.add_div_eq_of_add_mod_lt (by rw [hb, Nat.mod_eq_of_lt hj]; omega), Nat.div_eq_of_lt hj, Nat.add_zero]
  have hq : a / n = b / n := by rw [← hai, ← hbj, h]
  exact hne (by rw [← Nat.div_add_mod a n, ← Nat.div_add_mod b n, ha, hb, hq])

/-- A byte of an aligned access lies in the scratchpad without wrapping. -/
theorem aligned_fits {f : LaneFmt} {a i : Nat} (ha : a % (laneWidth f / 8) = 0) (hlt : a < padSize) (hi : i < laneWidth f / 8) : (a + i) % padSize = a + i := by
  refine Nat.mod_eq_of_lt ?_
  simp only [padSize] at hlt ⊢
  rcases laneBytes_cases f with h | h | h <;> rw [h] at ha hi <;> omega

theorem sct_retires {s : State} {th : Thr} {f : LaneFmt} {d b : BitVec 5} {dv bv : Fin 16} {md : BitVec 8} (hr : s.canRun th)
    (hf : gatherFmt md = some f) (hd : dv.val = d.toNat) (hb : bv.val = b.toNat) (a : BitVec 5) (hfree : (s.tile th.tile).matrix = none)
    (halign : ∀ i < laneCount f, laneOn f (s.me th) md i = true → gatherAddr f ((s.me th).readS a) (s.me th).v[bv] i % (laneWidth f / 8) = 0)
    (hclean : ∀ i < laneCount f, laneOn f (s.me th) md i = true →
      (s.tile th.tile).storesClean (gatherAddr f ((s.me th).readS a) (s.me th).v[bv] i) (laneWidth f / 8)) :
    ∃ t bad, exec (.sct th d a b md) s = .next t ∧ (s.setTile th.tile { s.tile th.tile with
      pad := writePads (s.tile th.tile).pad (scatterWrites f (s.me th).v[dv] (gatherLanes f (s.me th) md ((s.me th).readS a) (s.me th).v[bv]))
      padBad := bad }).retiresWaking t th (s.me th) := by
  have haligned := any_gatherLanes (offs := (s.me th).v[bv]) (p := fun a => decide (a % (laneWidth f / 8) ≠ 0)) (fun i hi hon => by simpa using halign i hi hon)
  have hwhole := any_gatherLanes (offs := (s.me th).v[bv]) (p := fun a => (s.tile th.tile).narrowBad a (laneWidth f / 8)) (fun i hi hon => (hclean i hi hon).1)
  obtain ⟨bad, hu⟩ := scatter_clean f (s.me th).v[dv] (gatherLanes f (s.me th) md ((s.me th).readS a) (s.me th).v[bv])
    (State.tileBecomes_refl s th.tile) hfree fun e he => by
      obtain ⟨hlt, hon, haddr⟩ := mem_gatherLanes.1 he
      rw [haddr]
      exact (hclean _ hlt hon).2
  refine ⟨_, bad, rfl, State.issue_tileWrote hr hu rfl ?_⟩
  simp only [hf, vecReg_eq hd, vecReg_eq hb]
  rw [need_canRun hr, if_neg (by rw [haligned]; decide), if_neg (by rw [hwhole]; decide)]

theorem lanes_rising (f : LaneFmt) (x : Thread) (md : BitVec 8) (base : Word) (offs : BitVec 1024) :
    (gatherLanes f x md base offs).Pairwise (fun p q => p.1 < q.1) :=
  List.pairwise_map.2 (List.Pairwise.filter _ List.pairwise_lt_range)

/-- Of the enabled lanes of a scatter, one at whose address no higher one stores is read back. -/
theorem readPad_scatter {f : LaneFmt} {x : Thread} {md : BitVec 8} {base : Word} {offs v : BitVec 1024} (p : Keyed Byte)
    (halign : ∀ i < laneCount f, laneOn f x md i = true → gatherAddr f base offs i % (laneWidth f / 8) = 0) {i : Nat} (hi : i < laneCount f)
    (hon : laneOn f x md i = true) (hlast : ∀ j < laneCount f, laneOn f x md j = true → i < j → gatherAddr f base offs j ≠ gatherAddr f base offs i) :
    readPad (writePads p (scatterWrites f v (gatherLanes f x md base offs))) (gatherAddr f base offs i) (laneWidth f / 8) =
      natLe (laneWidth f / 8) (lane f v i) := by
  have hmem : (i, gatherAddr f base offs i) ∈ gatherLanes f x md base offs := mem_gatherLanes.2 ⟨hi, hon, rfl⟩
  obtain ⟨l, k, hl⟩ := List.append_of_mem hmem
  have hrising := lanes_rising f x md base offs
  rw [hl] at hrising
  have hsplit : scatterWrites f v (gatherLanes f x md base offs) =
      scatterWrites f v l ++ (gatherAddr f base offs i, natLe (laneWidth f / 8) (lane f v i)) :: scatterWrites f v k := by
    rw [hl]
    exact List.map_append
  have hread := readPad_writePads p (l := scatterWrites f v l) (k := scatterWrites f v k)
    (e := (gatherAddr f base offs i, natLe (laneWidth f / 8) (lane f v i))) ?_ ?_
  · rw [hsplit]
    simpa using hread
  · rw [natLe_length]
    rcases laneBytes_cases f with h | h | h <;> rw [h] <;> decide
  · intro e he m hm n hn
    obtain ⟨q, hq, rfl⟩ := mem_scatterWrites he
    rw [natLe_length] at hm hn
    obtain ⟨hlt, hqon, haddr⟩ := mem_gatherLanes.1 (hl ▸ List.mem_append_right l (List.mem_cons_of_mem _ hq))
    have hlater : i < q.1 := (List.pairwise_cons.1 (List.pairwise_append.1 hrising).2.1).1 q hq
    rw [haddr, aligned_fits (halign _ hi hon) (gatherAddr_lt _ _ _ _) hm, aligned_fits (halign _ hlt hqon) (gatherAddr_lt _ _ _ _) hn]
    exact aligned_apart (halign _ hi hon) (halign _ hlt hqon) (hlast _ hlt hqon hlater).symm hm hn

/-- A scatter leaves every byte that no enabled lane stores. -/
theorem find_scatter_other {f : LaneFmt} {x : Thread} {md : BitVec 8} {base : Word} {offs v : BitVec 1024} (p : Keyed Byte)
    (halign : ∀ i < laneCount f, laneOn f x md i = true → gatherAddr f base offs i % (laneWidth f / 8) = 0) {k : Nat}
    (h : ∀ i < laneCount f, laneOn f x md i = true → ∀ j < laneWidth f / 8, k ≠ gatherAddr f base offs i + j) :
    find 0 (writePads p (scatterWrites f v (gatherLanes f x md base offs))) k = find 0 p k := by
  refine find_writePads_other p _ k fun e he j hj => ?_
  obtain ⟨q, hq, rfl⟩ := mem_scatterWrites he
  obtain ⟨hlt, hon, haddr⟩ := mem_gatherLanes.1 hq
  rw [natLe_length] at hj
  rw [haddr, aligned_fits (halign _ hlt hon) (gatherAddr_lt _ _ _ _) hj]
  exact h _ hlt hon j hj

theorem State.retiresWaking_pad {s t : State} {th : Thr} {x : Thread} {y : Tile} (h : (s.setTile th.tile y).retiresWaking t th x) :
    (t.tile th.tile).pad = y.pad := by
  obtain ⟨-, -, -, htile, -⟩ := h
  rw [State.setTile_tile, if_pos rfl] at htile
  simpa using congrArg Tile.pad htile

/-- Settles O3, each access by the bytes that its form names. -/
theorem scratchpadAccessResults : Obligations.ScratchpadAccessResults := by
  unfold Obligations.ScratchpadAccessResults
  refine ⟨fun s th sz d base off hr => ⟨fun ha hc => lds_retires hr sz d base off ha hc, fun v hv ha hc => ldv_retires hr hv base off ha hc,
      fun v hv ha hc => ldvH_retires hr hv base off ha hc⟩,
    fun s th sz d base off hr hfree => ⟨fun ha hc => sts_stores hr hfree sz d base off ha hc, fun v hv ha hc => stv_stores hr hfree hv base off ha hc,
      fun v hv ha hc => stvH_stores hr hfree hv base off ha hc⟩,
    fun s th f d a b dv bv md hr hf hd hb => ?_⟩
  intro x n at_ halign
  refine ⟨fun hclean => gth_retires hr hf hd hb a halign hclean, fun hfree hclean => ?_⟩
  obtain ⟨t, bad, hexec, hretires⟩ := sct_retires hr hf hd hb a hfree halign hclean
  refine ⟨t, hexec, ⟨_, bad, hretires⟩, fun i hi hon hlast => ?_, fun k hk => ?_⟩
  · rw [State.retiresWaking_pad hretires]
    exact readPad_scatter _ halign hi hon hlast
  · rw [State.retiresWaking_pad hretires]
    exact find_scatter_other _ halign hk

end Sys2Proof.Machine
end

section
/-! Device memory, atomic and remote accesses: each sends one request (R60, R103–R107, R113, R164, R169–R173). -/

namespace Sys2Proof.Machine

open Sys2Proof

/-- An instruction whose mod byte is checked and whose operands are ready (R163). -/
theorem modChecked {s : State} {th : Thr} (hr : s.canRun th) {md : BitVec 8} (hm : md.extractLsb 7 4 = 0#4) (ss : List (BitVec 5))
    (vs : List (Fin 16)) (k : Issued) : (if modHigh md ≠ 0 then illegal s else need s th ss vs k) = k :=
  (if_neg (not_not.2 (modHigh_zero hm))).trans (need_canRun hr ss vs k)

/-! ## Room for a request -/

theorem MemReq.opens_le (r : MemReq) (near : Bool) : r.opens near ≤ r.parts := by
  unfold MemReq.opens
  split
  · exact Nat.zero_le _
  · exact List.countP_le_length.trans_eq List.length_range

/-- A thread with nothing outstanding finds room for a request of at most two transactions where its tile's trackers have it (R60). -/
theorem State.stalled_tracker {s : State} {th : Thr} (hr : s.canRun th) (hroom : s.trackerRoom th.tile) {r : MemReq} (hparts : r.parts ≤ 2) :
    s.stalled th.tile th.thread r.tracker = false := by
  have hnear := r.opens_le true
  have hfar := r.opens_le false
  have hloads : s.loads th.tile th.thread = 0 := by rw [State.loads, hr.2.1]; rfl
  obtain ⟨hmem, hrem⟩ := hroom
  simp only [State.stalled, MemReq.tracker, hloads, Bool.or_eq_false_iff, Bool.and_eq_false_iff, decide_eq_false_iff_not]
  exact ⟨⟨by omega, by omega⟩, .inr (by omega)⟩

/-- A request of at most 128 bytes has at most two parts. -/
theorem MemReq.parts_le_two {r : MemReq} (h : r.len ≤ 128) : r.parts ≤ 2 := by
  unfold MemReq.parts
  split <;> omega

/-- An instruction that sends one request. -/
theorem State.issue_sends {s : State} {th : Thr} {body : Thread → State → Issued} {op : MemOp} {remote : Option Nat} {view : BitVec 2}
    {addr len : Nat} {bytes : List Byte} {dest : Dest} (hr : s.canRun th)
    (hb : body (s.me th) s = .done (s.request (newReq th (s.me th).pc op remote view addr len bytes dest))) :
    s.sends (s.issue th body) th op remote view addr len bytes dest :=
  State.issue_done (u := s.request _) hr.1 hr.2.2 rfl hb

section
variable {s : State} {th : Thr} {op : MemOp} {remote : Option Nat} {view : BitVec 2} {addr len : Nat} {bytes : List Byte} {dest : Dest}

/-- The request of an access is sent where the trackers have room. -/
theorem send_room (hr : s.canRun th) (hroom : s.trackerRoom th.tile) (hlen : len ≤ 128) :
    send s (newReq th (s.me th).pc op remote view addr len bytes dest) = .done (s.request (newReq th (s.me th).pc op remote view addr len bytes dest)) := by
  have h := State.stalled_tracker hr hroom (MemReq.parts_le_two (r := newReq th (s.me th).pc op remote view addr len bytes dest) hlen)
  exact if_neg (by rw [Bool.not_eq_true]; exact h)

/-- An access of device memory at an address that its form allows. -/
theorem State.issue_sendDevice {body : Thread → State → Issued} {at_ : AddrResult} (hr : s.canRun th) (hroom : s.trackerRoom th.tile)
    (hlen : len ≤ 128) (hat : at_ = .ok addr)
    (hb : body (s.me th) s = sendDevice s at_ (fun a => newReq th (s.me th).pc op none view a len bytes dest)) :
    s.sends (s.issue th body) th op none view addr len bytes dest := by
  subst hat
  exact State.issue_sends hr (hb.trans (send_room hr hroom hlen))

/-- A remote access at a tile address that names a tile. -/
theorem State.issue_sendRemote {body : Thread → State → Issued} {v : Word} {home off : Nat} (hr : s.canRun th) (hroom : s.trackerRoom th.tile)
    (hlen : len ≤ 128) (hat : tileAddr v = some (home, off)) (hoff : off % 8 = 0)
    (hb : body (s.me th) s = sendRemote th (s.me th) s v op len bytes dest) :
    s.sends (s.issue th body) th op (some home) 0 off len bytes dest := by
  refine State.issue_sends hr (hb.trans ?_)
  rw [sendRemote, hat]
  exact (if_neg (not_not.2 hoff)).trans (send_room hr hroom hlen)

/-- A remote access at an address that names no tile. -/
theorem State.issue_sendNowhere {body : Thread → State → Issued} {v : Word} (hr : s.canRun th) (hat : tileAddr v = none)
    (hb : body (s.me th) s = sendRemote th (s.me th) s v op len bytes dest) : s.faults (s.issue th body) th 0x06 := by
  refine State.issue_faults hr.1 (hb.trans ?_)
  rw [sendRemote, hat]

end

/-! ## Device memory -/

theorem accBytes_le_8 (sz : AccSize) : accBytes sz ≤ 128 := by cases sz <;> decide

theorem deviceAddr_view {view : BitVec 2} {base : Word} {disp : Int} {len align addr : Nat} (h : deviceAddr view base disp len align = .ok addr) :
    view ≠ 3 := by
  rintro rfl
  cases h

/-- The operand form of a DMA holds, so that it is sent: its thread has none outstanding (R170, R171). -/
theorem startDma_sends {s : State} {th : Thr} (hr : s.canRun th) (d a b : BitVec 5) {md : BitVec 8} {view : BitVec 2} {addr : Nat} (op : Nat → MemOp)
    (hmod : md.extractLsb 5 4 = 0#2) (hview : md.extractLsb 7 6 = view) (hmin : 64 ≤ ((s.me th).readS b).toNat)
    (hmax : ((s.me th).readS b).toNat ≤ 2 ^ 20) (hlen : ((s.me th).readS b).toNat % 64 = 0) (hpad : ((s.me th).readS d).toNat % 2 ^ 20 % 64 = 0)
    (hat : deviceAddr view ((s.me th).readS a) 0 ((s.me th).readS b).toNat 64 = .ok addr) :
    s.sends (startDma th d a b md op s) th (op (((s.me th).readS d).toNat % 2 ^ 20)) none view addr ((s.me th).readS b).toNat [] .none := by
  subst hview
  have hno : s.dmas th.tile th.thread = [] := by rw [State.dmas, hr.2.1]; rfl
  have hform : ¬ (md.extractLsb 5 4 ≠ 0 ∨ modRound md = 3) := not_or.2 ⟨not_not.2 hmod, deviceAddr_view hat⟩
  have hfit : ¬ (((s.me th).readS b).toNat < 64 ∨ padSize < ((s.me th).readS b).toNat ∨ ((s.me th).readS b).toNat % 64 ≠ 0 ∨
      ((s.me th).readS d).toNat % padSize % 64 ≠ 0) := by
    rw [padSize]
    omega
  refine State.issue_sends hr ?_
  dsimp only
  rw [if_neg hform, need_canRun hr, if_neg hfit]
  unfold modRound
  rw [hat, hno]
  rfl

/-! ## Atomics and reductions -/

/-- What an operand of an atomic is cut to: the low 32 bits in a 4-byte form (R173). -/
def atomicCut (wide : Bool) (v : Word) : Word := if wide then v else BitVec.ofNat 64 (v.toNat % 2 ^ 32)

theorem low_word (v : Word) : v &&& 0xFFFFFFFF#64 = BitVec.ofNat 64 (v.toNat % 2 ^ 32) := by
  refine BitVec.eq_of_toNat_eq ?_
  have hlt : v.toNat % 2 ^ 32 < 2 ^ 64 := (Nat.mod_lt _ (by decide)).trans (by decide)
  rw [BitVec.toNat_and, BitVec.toNat_ofNat, BitVec.toNat_ofNat, Nat.mod_eq_of_lt hlt]
  exact Nat.and_two_pow_sub_one_eq_mod _ 32

theorem atomicCut_zero (wide : Bool) : atomicCut wide 0 = 0 := by cases wide <;> rfl

theorem startAtomic_sends {s : State} {th : Thr} (hr : s.canRun th) (hroom : s.trackerRoom th.tile) (op : AtomicOp) (wide : Bool) {view : BitVec 2}
    {d base : BitVec 5} {off : BitVec 12} {addr n : Nat} (hn : n = if wide then 8 else 4) (hd : d.toNat ≤ if op = .cas then 29 else 30)
    (hat : deviceAddr view ((s.me th).readS base) (off.toInt * n) n n = .ok addr) :
    s.sends (startAtomic th op wide view d base off s) th
      (.atomic op (atomicCut wide ((s.me th).readS (d + 1))) (atomicCut wide (if op = .cas then (s.me th).readS (d + 2) else 0))) none view addr n []
      (.scalar d.toFin) := by
  refine State.issue_sendDevice hr hroom ?_ hat ?_
  · rw [hn]
    split <;> decide
  · dsimp only
    rw [if_neg (Nat.not_lt.2 hd), need_canRun hr, hn]
    simp only [low_word]
    rfl

/-- An atomic other than a compare and swap carries one operand. -/
theorem startAtomic_one {s : State} {th : Thr} (hr : s.canRun th) (hroom : s.trackerRoom th.tile) {op : AtomicOp} (hop : op ≠ .cas) (wide : Bool)
    {view : BitVec 2} {d base : BitVec 5} {off : BitVec 12} {addr n : Nat} (hn : n = if wide then 8 else 4) (hd : d.toNat ≤ 30)
    (hat : deviceAddr view ((s.me th).readS base) (off.toInt * n) n n = .ok addr) :
    s.sends (startAtomic th op wide view d base off s) th (.atomic op (atomicCut wide ((s.me th).readS (d + 1))) 0) none view addr n []
      (.scalar d.toFin) := by
  have h := startAtomic_sends hr hroom op wide hn (hd.trans_eq (if_neg hop).symm) hat
  rwa [if_neg hop, atomicCut_zero] at h

/-- A compare and swap carries two. -/
theorem startAtomic_two {s : State} {th : Thr} (hr : s.canRun th) (hroom : s.trackerRoom th.tile) (wide : Bool) {view : BitVec 2} {d base : BitVec 5}
    {off : BitVec 12} {addr n : Nat} (hn : n = if wide then 8 else 4) (hd : d.toNat ≤ 29)
    (hat : deviceAddr view ((s.me th).readS base) (off.toInt * n) n n = .ok addr) :
    s.sends (startAtomic th .cas wide view d base off s) th
      (.atomic .cas (atomicCut wide ((s.me th).readS (d + 1))) (atomicCut wide ((s.me th).readS (d + 2)))) none view addr n [] (.scalar d.toFin) := by
  have h := startAtomic_sends hr hroom .cas wide hn (hd.trans_eq (if_pos rfl).symm) hat
  rwa [if_pos rfl] at h

theorem startReduce_sends {s : State} {th : Thr} (hr : s.canRun th) (hroom : s.trackerRoom th.tile) (f : LaneFmt) {view : BitVec 2} {d base : BitVec 5}
    {off : BitVec 12} {addr : Nat} {v : Fin 16} (hv : v.val = d.toNat % 16)
    (hat : deviceAddr view ((s.me th).readS base) (off.toInt * 64) 64 64 = .ok addr) :
    s.sends (startReduce th f view d base off s) th (.reduce f) none view addr 64
      (natLe 64 ((s.me th).v[v].toNat / 2 ^ (if d.getLsbD 4 then 512 else 0))) .none := by
  rw [← halfBytes_eq]
  refine State.issue_sendDevice hr hroom (by decide) hat ?_
  simp only [halfReg_eq hv]
  exact need_canRun hr _ _ _

/-- Settles O4, each access by the one request that its form sends. -/
theorem deviceAndRemoteAccessesSendRequests : Obligations.DeviceAndRemoteAccessesSendRequests := by
  unfold Obligations.DeviceAndRemoteAccessesSendRequests
  refine ⟨fun s th sz view d a base off md addr hr hroom => ⟨fun hat => ⟨?_, ?_⟩, fun v hv hat => ⟨?_, ?_⟩, ?_⟩,
    fun s th wide view d base off addr hr hroom => ⟨fun hat => ⟨fun hd => ?_, fun hd => ?_, fun hd => ?_⟩, fun v hv hat => ?_⟩,
    fun s th d a b md hr hroom hm => ⟨fun home off hat hoff => ⟨?_, ?_, ?_, fun v hv => ⟨?_, ?_⟩⟩, fun hat => ?_⟩⟩
  · exact ⟨_, rfl, State.issue_sendDevice hr hroom (accBytes_le_8 sz) hat (need_canRun hr _ _ _)⟩
  · exact ⟨_, rfl, State.issue_sendDevice hr hroom (accBytes_le_8 sz) hat (need_canRun hr _ _ _)⟩
  · refine ⟨_, rfl, State.issue_sendDevice hr hroom (by decide) hat ?_⟩
    rw [vecReg_eq hv]
    exact need_canRun hr _ _ _
  · refine ⟨_, rfl, State.issue_sendDevice hr hroom (by decide) hat ?_⟩
    rw [vecReg_eq hv]
    exact need_canRun hr _ _ _
  · intro len pad hmod hview hmin hmax hlen hpad hat
    exact ⟨⟨_, rfl, startDma_sends hr d a base .dmaRead hmod hview hmin hmax hlen hpad hat⟩,
      ⟨_, rfl, startDma_sends hr d a base .dmaWrite hmod hview hmin hmax hlen hpad hat⟩⟩
  · have hone := fun {op : AtomicOp} (hop : op ≠ .cas) => startAtomic_one hr hroom hop wide rfl hd hat
    simp only [List.forall_mem_cons, List.not_mem_nil, false_imp_iff, implies_true, and_true]
    exact ⟨⟨_, rfl, hone (by decide)⟩, ⟨_, rfl, hone (by decide)⟩, ⟨_, rfl, hone (by decide)⟩, ⟨_, rfl, hone (by decide)⟩, ⟨_, rfl, hone (by decide)⟩,
      ⟨_, rfl, hone (by decide)⟩, ⟨_, rfl, hone (by decide)⟩, ⟨_, rfl, hone (by decide)⟩, ⟨_, rfl, hone (by decide)⟩⟩
  · exact ⟨_, rfl, startAtomic_two hr hroom wide rfl hd hat⟩
  · cases wide with
    | true => exact ⟨s.issue th (fun _ s => illegal s), rfl, State.issue_faults hr.1 rfl⟩
    | false => exact ⟨_, rfl, startAtomic_one hr hroom (by decide) false rfl hd hat⟩
  · have hred := fun f => startReduce_sends hr hroom f hv hat
    simp only [List.forall_mem_cons, List.not_mem_nil, false_imp_iff, implies_true, and_true]
    exact ⟨⟨_, rfl, hred _⟩, ⟨_, rfl, hred _⟩, ⟨_, rfl, hred _⟩⟩
  · exact ⟨_, rfl, State.issue_sendRemote hr hroom (by decide) hat hoff (modChecked hr hm _ _ _)⟩
  · exact ⟨_, rfl, State.issue_sendRemote hr hroom (by decide) hat hoff (modChecked hr hm _ _ _)⟩
  · exact ⟨_, rfl, State.issue_sendRemote hr hroom (by decide) hat hoff (modChecked hr hm _ _ _)⟩
  · refine ⟨_, rfl, State.issue_sendRemote hr hroom (by decide) hat hoff ?_⟩
    rw [vecReg_eq hv]
    exact modChecked hr hm _ _ _
  · refine ⟨_, rfl, State.issue_sendRemote hr hroom (by decide) hat hoff ?_⟩
    rw [vecReg_eq hv, ← halfBytes_eq]
    exact modChecked hr hm _ _ _
  · simp only [List.forall_mem_cons, List.not_mem_nil, false_imp_iff, implies_true, and_true]
    exact ⟨⟨_, rfl, State.issue_sendNowhere hr hat (modChecked hr hm _ _ _)⟩,
      ⟨_, rfl, State.issue_sendNowhere hr hat (modChecked hr hm _ _ _)⟩,
      ⟨_, rfl, State.issue_sendNowhere hr hat (modChecked hr hm _ _ _)⟩⟩

end Sys2Proof.Machine
end

section
/-! The vector instructions: lanes that round, lanes that do not, compares and sums (R43, R81–R83, R90–R95, R163–R166). -/

namespace Sys2Proof.Machine

open Sys2Proof

/-! ## How an instruction that may raise flags ends (R95) -/

theorem State.sameBut_woken {s t u : State} {th : Thr} (h : s.sameBut t th) (k : t.sameButWoken u th) : s.sameButWoken u th := by
  obtain ⟨h1, h2, h3, h4⟩ := h
  obtain ⟨k1, k2, k3, k4⟩ := k
  refine ⟨?_, fun i hi => (k2 i hi).trans (h2 i hi), ?_, fun n hn => Thread.sameRegs_trans (Thread.samePassed_regs (h4 n hn)) (k4 n hn)⟩
  · rw [← h1, ← k1]
  · rw [← h3, ← k3]

theorem State.retires_of_sameBut {s u t : State} {th : Thr} {y : Thread} (h : s.sameBut u th) (k : u.retires t th y) : s.retires t th y :=
  ⟨k.1, State.sameBut_trans h k.2⟩

/-- The flags of some operations together are raised where one of them raised one. -/
theorem FFlags.any_all (l : List FFlags) : (FFlags.all l).any = l.any FFlags.any := by
  have hor : ∀ a b : FFlags, (a.or b).any = (a.any || b.any) := by
    intro a b
    simp only [FFlags.or, FFlags.any]
    cases a.invalid <;> cases a.divide <;> cases a.overflow <;> simp [Bool.or_comm, Bool.or_left_comm]
  have hfold : ∀ a : FFlags, (l.foldl FFlags.or a).any = (a.any || l.any FFlags.any) := by
    induction l with
    | nil => intro a; simp
    | cons b l ih => intro a; rw [List.foldl_cons, ih, hor, List.any_cons, Bool.or_assoc]
  exact hfold FFlags.clear

theorem Thread.raise_eq (x : Thread) (fl : FFlags) : x.raise fl = { x with f := if fl.any then x.f ||| 0x80#8 else x.f } := by
  unfold Thread.raise
  split <;> rfl

section
variable {s v u : State} {th : Thr} {body : Thread → State → Issued} {trap : Bool} {fl : FFlags} {result : State → Issued} {y : Thread}

/-- An instruction that raised a flag under its trap bit: its thread keeps all but f7 and the generator. -/
theorem State.issue_finish_trap (hr : s.canRun th) (hvu : v.sameBut u th) (hme : u.me th = { v.me th with rng := y.rng })
    (hb : body (s.me th) s = finish u th trap fl result) (hraised : (fl.any && trap) = true) : v.endsArith (s.issue th body) th trap fl.any y := by
  rw [finish, if_pos hraised] at hb
  obtain ⟨hthread, hsame⟩ := State.issue_fault hr.1 hb
  have hany : fl.any = true := (Bool.and_eq_true_iff.1 hraised).1
  rw [State.endsArith, if_pos hraised]
  refine ⟨?_, State.sameBut_woken (State.sameBut_hq (State.sameBut_trans hvu (State.sameBut_setThread u th _)) _) hsame⟩
  rw [hthread, State.me, State.setThread_thread_self, Thread.raise_eq, hany]
  rw [State.me] at hme
  rw [hme]
  rfl

/-- One that raised none, or whose trap bit is clear, ends with its result. -/
theorem State.issue_finish_done {w : State} (hr : s.canRun th) (hvw : v.sameBut w th) (hq : w.hq = s.hq) (hpc : y.pc = (s.me th).pc)
    (hme : w.me th = { y with f := if fl.any then y.f ||| 0x80#8 else y.f }) (hb : body (s.me th) s = finish u th trap fl result)
    (hnot : (fl.any && trap) = false) (hres : result (u.setThread th.tile th.thread ((u.me th).raise fl)) = .done w) :
    v.endsArith (s.issue th body) th trap fl.any y := by
  have hdone : body (s.me th) s = .done w := by
    rw [hb, finish, if_neg (by rw [hnot]; decide)]
    exact hres
  rw [State.endsArith, if_neg (by rw [hnot]; decide)]
  have h := State.issue_done hr.1 (State.inCode_of_hq hq hr.2.2) (by rw [hme]; exact hpc) hdone
  rw [hme] at h
  exact State.retires_of_sameBut hvw h

/-- One whose result goes to its own thread: `g` puts it there, whatever the flags hold. -/
theorem State.issue_finish {g : Thread → Thread} (hr : s.canRun th) (hvu : v.sameBut u th) (hq : u.hq = s.hq)
    (hme : u.me th = { v.me th with rng := y.rng }) (hpc : y.pc = (s.me th).pc) (hf : y.f = (v.me th).f)
    (hg : ∀ b, g { v.me th with rng := y.rng, f := b } = { y with f := b })
    (hres : ∀ z : State, result z = .done (z.setThread th.tile th.thread (g (z.me th))))
    (hb : body (s.me th) s = finish u th trap fl result) : v.endsArith (s.issue th body) th trap fl.any y := by
  cases hraised : fl.any && trap with
  | true => exact State.issue_finish_trap hr hvu hme hb hraised
  | false =>
    refine State.issue_finish_done (w := (u.setThread th.tile th.thread ((u.me th).raise fl)).setThread th.tile th.thread
      (g ((u.setThread th.tile th.thread ((u.me th).raise fl)).me th))) hr ?_ hq hpc ?_ hb hraised (hres _)
    · exact State.sameBut_trans hvu (State.sameBut_trans (State.sameBut_setThread u th _) (State.sameBut_setThread _ th _))
    · rw [State.me, State.setThread_thread_self, State.me, State.setThread_thread_self, Thread.raise_eq, hme, hf]
      exact hg _

end

/-! ## Lanes -/

theorem laneResults_holds (f : LaneFmt) (x : Thread) (md : BitVec 8) (old : BitVec 1024) (op : Nat → Nat × FFlags) :
    lanesHold f x md old (laneResults f x md old op).1 op := by
  intro i hi
  unfold laneResults
  dsimp only
  rw [lane_packLanes (by simp) (by simpa using hi)]
  simp only [List.getElem_map, List.getElem_range]
  split
  · rfl
  · exact Nat.mod_eq_of_lt (lane_lt f old i)

theorem laneResults_raise (f : LaneFmt) (x : Thread) (md : BitVec 8) (old : BitVec 1024) (op : Nat → Nat × FFlags) :
    (laneResults f x md old op).2.any = lanesRaise f x md op := by
  unfold laneResults lanesRaise
  rw [FFlags.any_all, List.any_map, List.any_map]
  congr 1
  funext i
  simp only [Function.comp]
  cases laneOn f x md i <;> rfl

/-! ## The rounding of an instruction -/

theorem modRounding_eq {s : State} {th : Thr} {md : BitVec 8} {mode : RMode} (h : rmode (md.extractLsb 7 6) = some mode) :
    modRounding md (s.me th) s = some (roundingOf s th md mode) := by
  unfold modRounding modRound
  rw [h]
  rfl

section
variable (s : State) (th : Thr) (md : BitVec 8) (mode : RMode) (n : Nat)

/-- The generator advances and free values are used up under stochastic rounding alone (R92). -/
theorem State.afterRounding_sameBut : (s.rounded mode n).sameBut (s.afterRounding th.tile th.thread (roundingOf s th md mode) n) th := by
  unfold State.afterRounding State.rounded roundingOf
  by_cases h : mode = .stochastic
  · simp only [if_pos h]
    exact State.sameBut_setThread ({ s with free := s.free + n } : State) th _
  · simp only [if_neg h]
    exact State.sameBut_refl _ _

theorem State.afterRounding_me : (s.afterRounding th.tile th.thread (roundingOf s th md mode) n).me th =
    { s.me th with rng := rngRounded mode (s.me th).rng n } := by
  unfold State.afterRounding rngRounded roundingOf
  by_cases h : mode = .stochastic
  · simp only [if_pos h]
    exact State.setThread_thread_self s _ _ _
  · simp only [if_neg h]

theorem State.afterRounding_hq : (s.afterRounding th.tile th.thread (roundingOf s th md mode) n).hq = s.hq := by
  unfold State.afterRounding
  split <;> rfl

end

section
variable {s : State} {th : Thr} {f : LaneFmt} {d a b : BitVec 5} {dv av bv : Fin 16} {md : BitVec 8}

theorem roundedLanes_ends {mode : RMode} (hr : s.canRun th) (hd : dv.val = d.toNat) (ha : av.val = a.toNat) (hb : bv.val = b.toNat)
    (hmode : rmode (md.extractLsb 7 6) = some mode) (op : LaneOp) :
    ∃ w, lanesHold f (s.me th) md (s.me th).v[dv] w
        (fun i => op (roundingOf s th md mode) i (lane f (s.me th).v[av] i) (lane f (s.me th).v[bv] i) (lane f (s.me th).v[dv] i)) ∧
      (s.rounded mode (laneCount f)).endsArith (roundedLanes th f d a b md op s) th (md.getLsbD 4)
        (lanesRaise f (s.me th) md
          (fun i => op (roundingOf s th md mode) i (lane f (s.me th).v[av] i) (lane f (s.me th).v[bv] i) (lane f (s.me th).v[dv] i)))
        { s.me th with v := (s.me th).v.set dv w, rng := rngRounded mode (s.me th).rng (laneCount f) } := by
  refine ⟨_, laneResults_holds f (s.me th) md (s.me th).v[dv] _, ?_⟩
  rw [← laneResults_raise f (s.me th) md (s.me th).v[dv]]
  refine State.issue_finish (u := s.afterRounding th.tile th.thread (roundingOf s th md mode) (laneCount f))
    (g := fun z => { z with v := z.v.set dv (laneResults f (s.me th) md (s.me th).v[dv] _).1 }) hr (State.afterRounding_sameBut s th md mode _)
    (State.afterRounding_hq s th md mode _) (State.afterRounding_me s th md mode _) rfl rfl (fun _ => rfl) (fun _ => rfl) ?_
  simp only [vecReg_eq hd, vecReg_eq ha, vecReg_eq hb, modRounding_eq hmode]
  exact need_canRun hr _ _ _

theorem plainLanes_ends (hr : s.canRun th) (hd : dv.val = d.toNat) (ha : av.val = a.toNat) (hb : bv.val = b.toNat) (hm : md.extractLsb 7 4 = 0#4)
    (free : Nat) (op : Rounding → Nat → Nat → Nat → Nat × FFlags) (res : Nat → Nat × FFlags)
    (hres : res = fun i => op { mode := .nearest, sat := false, rng := (s.me th).rng, free := s.free } i (lane f (s.me th).v[av] i)
      (lane f (s.me th).v[bv] i)) :
    ∃ w, lanesHold f (s.me th) md (s.me th).v[dv] w res ∧
      ({ s with free := s.free + free } : State).endsArith (plainLanes th f d a b md free op s) th false (lanesRaise f (s.me th) md res)
        { s.me th with v := (s.me th).v.set dv w } := by
  refine ⟨_, laneResults_holds f (s.me th) md (s.me th).v[dv] _, ?_⟩
  rw [← laneResults_raise f (s.me th) md (s.me th).v[dv]]
  refine State.issue_finish (u := { s with free := s.free + free })
    (g := fun z => { z with v := z.v.set dv (laneResults f (s.me th) md (s.me th).v[dv] _).1 }) hr (State.sameBut_refl _ _) rfl rfl rfl rfl
    (fun _ => rfl) (fun _ => rfl) ?_
  subst hres
  simp only [vecReg_eq hd, vecReg_eq ha, vecReg_eq hb]
  exact modChecked hr hm _ _ _

/-! ## Selection, broadcast and extraction -/

theorem vsel_retires (hr : s.canRun th) (hd : dv.val = d.toNat) (ha : av.val = a.toNat) (hb : bv.val = b.toNat) (hm : md.extractLsb 7 4 = 0#4) :
    ∃ t w, exec (.vsel th f d a b md) s = .next t ∧ s.retires t th { s.me th with v := (s.me th).v.set dv w } ∧
      ∀ i < laneCount f, lane f w i = if laneOn f (s.me th) md i then
        (if laneOn f (s.me th) (md ||| 8) i then lane f (s.me th).v[av] i else lane f (s.me th).v[bv] i) else lane f (s.me th).v[dv] i := by
  refine ⟨_, mergeLanes f (s.me th) md (s.me th).v[dv] ((List.range (laneCount f)).map (fun i =>
    lane f (if laneOn f (s.me th) (md ||| 8) i then (s.me th).v[av] else (s.me th).v[bv]) i)), rfl, State.issue_setThread hr rfl ?_, fun i hi => ?_⟩
  · simp only [vecReg_eq hd, vecReg_eq ha, vecReg_eq hb]
    exact modChecked hr hm _ _ _
  · rw [lane_mergeLanes _ _ _ _ _ hi, getD_map_range hi, Nat.mod_eq_of_lt (lane_lt _ _ _), apply_ite (lane f · i)]

theorem vbcast_retires (hr : s.canRun th) (hd : dv.val = d.toNat) (hb : bv.val = b.toNat) (hm : md.extractLsb 7 4 = 0#4) :
    ∃ t w, exec (.vbcast th f d a b md) s = .next t ∧ s.retires t th { s.me th with v := (s.me th).v.set dv w } ∧
      ∀ i < laneCount f, lane f w i =
        if laneOn f (s.me th) md i then ((s.me th).readS a).toNat % 2 ^ laneWidth f else lane f (s.me th).v[dv] i := by
  refine ⟨_, mergeLanes f (s.me th) md (s.me th).v[dv] (List.replicate (laneCount f) (((s.me th).readS a).toNat % 2 ^ laneWidth f)), rfl,
    State.issue_setThread hr rfl ?_, fun i hi => ?_⟩
  · simp only [vecReg_eq hd, vecReg_eq hb]
    exact modChecked hr hm _ _ _
  · rw [lane_mergeLanes _ _ _ _ _ hi, List.getD_eq_getElem _ _ (by rwa [List.length_replicate]), List.getElem_replicate, Nat.mod_mod]

theorem vextr_retires (hr : s.canRun th) (ha : av.val = a.toNat) (hm : md.extractLsb 7 4 = 0#4) :
    ∃ t, exec (.vextr th f d a b md) s = .next t ∧
      s.retires t th ((s.me th).writeS d (BitVec.ofNat 64 (lane f (s.me th).v[av] (((s.me th).readS b).toNat % laneCount f)))) := by
  refine ⟨_, rfl, State.issue_writeScalar hr rfl rfl ?_⟩
  simp only [vecReg_eq ha]
  exact modChecked hr hm _ _ _

end

/-! ## Compares -/

/-- A word with one bit written. -/
def putBit (v : BitVec 64) (k : Nat) (b : Bool) : BitVec 64 := if b then v ||| (1#64 <<< k) else v &&& ~~~(1#64 <<< k)

theorem getLsbD_putBit (v : BitVec 64) (j : Nat) (b : Bool) {k : Nat} (hk : k < 64) :
    (putBit v j b).getLsbD k = if k = j then b else v.getLsbD k := by
  have hone : (1#64 <<< j).getLsbD k = decide (k = j) := by
    rw [BitVec.getLsbD_shiftLeft, BitVec.getLsbD_one]
    by_cases h : k = j
    · simp [h, h ▸ hk]
    · have hpast : ¬k < j → k - j ≠ 0 := by omega
      by_cases hlt : k < j <;> simp [h, hk, hlt, hpast]
  unfold putBit
  cases b with
  | true =>
    rw [if_pos rfl, BitVec.getLsbD_or, hone]
    by_cases h : k = j <;> simp [h]
  | false =>
    rw [if_neg (by decide), BitVec.getLsbD_and, BitVec.getLsbD_not, hone]
    by_cases h : k = j <;> simp [h, hk]

/-- Words with some bits written one after another, each at a place of its own. -/
def putBits (v : BitVec 64) (place : Nat → Nat) (b : Nat → Bool) (l : List Nat) : BitVec 64 := l.foldl (fun v i => putBit v (place i) (b i)) v

theorem getLsbD_putBits {place : Nat → Nat} (hplace : Function.Injective place) (v : BitVec 64) (b : Nat → Bool) (l : List Nat) {k : Nat} (hk : k < 64) :
    (∀ i ∈ l, place i = k → (putBits v place b l).getLsbD k = b i) ∧ ((∀ i ∈ l, place i ≠ k) → (putBits v place b l).getLsbD k = v.getLsbD k) := by
  induction l generalizing v with
  | nil => exact ⟨fun i hi => absurd hi List.not_mem_nil, fun _ => rfl⟩
  | cons j l ih =>
    obtain ⟨hin, hout⟩ := ih (putBit v (place j) (b j))
    refine ⟨fun i hi hik => ?_, fun hnone => ?_⟩
    · by_cases hil : i ∈ l
      · exact hin i hil hik
      · have hij : i = j := (List.mem_cons.1 hi).resolve_right hil
        subst hij
        refine (hout fun m hm hmk => hil ?_).trans ?_
        · rwa [hplace (hik.trans hmk.symm)]
        · rw [getLsbD_putBit _ _ _ hk, if_pos hik.symm]
    · rw [List.forall_mem_cons] at hnone
      refine (hout hnone.2).trans ?_
      rw [getLsbD_putBit _ _ _ hk, if_neg hnone.1.symm]

/-- The mask bit of a lane (R43). -/
def laneBit (f : LaneFmt) (i : Nat) : Nat := if f = .fp32 then 2 * i else i

theorem laneBit_injective (f : LaneFmt) : Function.Injective (laneBit f) := by
  intro i j h
  unfold laneBit at h
  split at h <;> omega

/-- Which lane a mask bit belongs to, if any. -/
theorem laneBit_eq_iff {f : LaneFmt} {i k : Nat} :
    laneBit f i = k ↔ (f = .fp32 → k % 2 = 0) ∧ i = if f = .fp32 then k / 2 else k := by
  unfold laneBit
  by_cases h : f = .fp32
  · simp only [h, if_true, true_imp_iff]; omega
  · simp only [h, if_false, false_imp_iff, true_and]

theorem laneBit_lt {f : LaneFmt} {i : Nat} (h : laneBit f i < 64) : i < laneCount f := by
  cases f <;> simp [laneBit, laneCount] at h ⊢ <;> omega

theorem maskReg_eq {d : BitVec 5} {m : Fin 4} (h : m.val = d.toNat) : maskReg d = some m := by
  rw [maskReg, dif_pos (by omega : d.toNat < 4)]
  exact congrArg some (Fin.ext h.symm)

section
variable {s : State} {th : Thr} {f : LaneFmt} {d a b : BitVec 5} {dv av bv : Fin 16} {md : BitVec 8}

theorem laneCompare_ends {m : Fin 4} (hr : s.canRun th) (hd : m.val = d.toNat) (ha : av.val = a.toNat) (hb : bv.val = b.toNat)
    (hm : md.extractLsb 7 4 = 0#4) (test : Ordering → Bool) (op : Nat → Bool × FFlags)
    (hop : op = fun i => (floatFmt f).compare test (lane f (s.me th).v[av] i) (lane f (s.me th).v[bv] i)) :
    ∃ w, s.endsArith (laneCompare th f d a b md test s) th false
        ((List.range (laneCount f)).any (fun i => laneOn f (s.me th) md i && (op i).2.any)) { s.me th with m := (s.me th).m.set m w } ∧
      ∀ k < 64, w.getLsbD k =
        if (f = .fp32 → k % 2 = 0) ∧ laneOn f (s.me th) md (if f = .fp32 then k / 2 else k) then (op (if f = .fp32 then k / 2 else k)).1
        else (s.me th).m[m].getLsbD k := by
  refine ⟨putBits (s.me th).m[m] (laneBit f) (fun i => (op i).1) ((List.range (laneCount f)).filter (laneOn f (s.me th) md)), ?_, fun k hk => ?_⟩
  · rw [← List.any_filter]
    have hany : ((List.range (laneCount f)).filter (laneOn f (s.me th) md)).any (fun i => (op i).2.any) =
        (FFlags.all ((((List.range (laneCount f)).filter (laneOn f (s.me th) md)).map (fun i => (i, op i))).map (fun r => r.2.2))).any := by
      rw [FFlags.any_all, List.any_map, List.any_map]
      rfl
    rw [hany]
    refine State.issue_finish (u := s) (g := fun z => { z with m := z.m.set m _ }) hr (State.sameBut_refl _ _) rfl rfl rfl rfl
      (fun _ => rfl) (fun _ => rfl) ?_
    subst hop
    simp only [maskReg_eq hd, vecReg_eq ha, vecReg_eq hb]
    refine (modChecked hr hm _ _ _).trans ?_
    unfold putBits
    rw [List.foldl_map]
    rfl
  · obtain ⟨hin, hout⟩ := getLsbD_putBits (laneBit_injective f) (s.me th).m[m] (fun i => (op i).1)
      ((List.range (laneCount f)).filter (laneOn f (s.me th) md)) hk
    by_cases h : (f = .fp32 → k % 2 = 0) ∧ laneOn f (s.me th) md (if f = .fp32 then k / 2 else k) = true
    · rw [if_pos h]
      have hbit := laneBit_eq_iff.2 ⟨h.1, rfl⟩
      exact hin _ (List.mem_filter.2 ⟨List.mem_range.2 (laneBit_lt (hbit.trans_lt hk)), h.2⟩) hbit
    · rw [if_neg h]
      refine hout fun i hi hik => h ?_
      obtain ⟨heven, hi'⟩ := laneBit_eq_iff.1 hik
      exact ⟨heven, hi' ▸ (List.mem_filter.1 hi).2⟩

/-! ## Sums -/

theorem packLanes_one (f : LaneFmt) (n : Nat) : packLanes f [n] = BitVec.ofNat 1024 (n % 2 ^ laneWidth f) := by
  rw [packLanes, packNat, packNat, Nat.mul_zero, Nat.add_zero]

theorem vsum_ends {mode : RMode} (hr : s.canRun th) (hd : dv.val = d.toNat) (ha : av.val = a.toNat) (hb : bv.val = b.toNat)
    (hmode : rmode (md.extractLsb 7 6) = some mode) (r : Nat × FFlags)
    (hsum : r = (floatFmt f).sum (roundingOf s th md mode)
      (((List.range (laneCount f)).filter (laneOn f (s.me th) md)).map (fun i => (floatFmt f).decode (lane f (s.me th).v[av] i)))) :
    ∃ t, exec (.vsum th f d a b md) s = .next t ∧ (s.rounded mode 1).endsArith t th (md.getLsbD 4) r.2.any { s.me th with
      v := (s.me th).v.set dv (BitVec.ofNat 1024 (r.1 % 2 ^ laneWidth f)), rng := rngRounded mode (s.me th).rng 1 } := by
  rw [← packLanes_one]
  refine ⟨_, rfl, State.issue_finish (u := s.afterRounding th.tile th.thread (roundingOf s th md mode) 1)
    (g := fun z => { z with v := z.v.set dv (packLanes f [r.1]) }) hr (State.afterRounding_sameBut s th md mode _)
    (State.afterRounding_hq s th md mode _) (State.afterRounding_me s th md mode _) rfl rfl (fun _ => rfl) (fun _ => rfl) ?_⟩
  simp only [vecReg_eq hd, vecReg_eq ha, vecReg_eq hb, modRounding_eq hmode]
  rw [need_canRun hr, hsum]
  rfl

end

/-- Settles O5, each instruction by its lanes and the way in which it ends. -/
theorem vectorResults : Obligations.VectorResults := by
  unfold Obligations.VectorResults
  refine ⟨fun s th f d a b dv av bv md mode hr hd ha hb hmode => ?_, fun s th f d a b dv av bv md hr hd ha hb hm => ⟨?_, ?_, ?_, ?_⟩,
    fun s th f d a b dv av bv md hr hd ha hb => ⟨fun m hdm hm => ?_, fun mode hmode => ?_⟩⟩
  · have hlanes : ∀ (i : Instr) (op : LaneOp), exec i s = .next (roundedLanes th f d a b md op s) → _ := fun i op he =>
      (roundedLanes_ends (f := f) hr hd ha hb hmode op).imp fun w hw => (⟨he, hw⟩ : exec i s = _ ∧ _)
    simp only [List.forall_mem_cons, List.not_mem_nil, false_imp_iff, implies_true, and_true]
    exact ⟨⟨_, hlanes (.vadd th f d a b md) _ rfl⟩, ⟨_, hlanes (.vsub th f d a b md) _ rfl⟩, ⟨_, hlanes (.vmul th f d a b md) _ rfl⟩,
      ⟨_, hlanes (.vfma th f d a b md) _ rfl⟩, ⟨_, hlanes (.vrcp th f d a b md) _ rfl⟩, ⟨_, hlanes (.vsqrt th f d a b md) _ rfl⟩,
      ⟨_, hlanes (.vrsqrt th f d a b md) _ rfl⟩, ⟨_, hlanes (.vexp2 th f d a b md) _ rfl⟩⟩
  · have hlanes : ∀ (i : Instr) (free : Nat) (op : Rounding → Nat → Nat → Nat → Nat × FFlags),
        exec i s = .next (plainLanes th f d a b md free op s) → _ := fun i free op he =>
      (plainLanes_ends (f := f) hr hd ha hb hm free op _ rfl).imp fun w hw => (⟨he, hw⟩ : exec i s = _ ∧ _)
    simp only [List.forall_mem_cons, List.not_mem_nil, false_imp_iff, implies_true, and_true]
    exact ⟨⟨_, hlanes (.vmin th f d a b md) _ _ rfl⟩, ⟨_, hlanes (.vmax th f d a b md) _ _ rfl⟩, ⟨_, hlanes (.vabs th f d a b md) _ _ rfl⟩,
      ⟨_, hlanes (.vneg th f d a b md) _ _ rfl⟩⟩
  · exact vsel_retires hr hd ha hb hm
  · exact vbcast_retires hr hd hb hm
  · exact vextr_retires hr ha hm
  · have hcompare : ∀ (i : Instr) (test : Ordering → Bool), exec i s = .next (laneCompare th f d a b md test s) → _ := fun i test he =>
      (laneCompare_ends (f := f) hr hdm ha hb hm test _ rfl).imp fun w hw => (⟨he, hw⟩ : exec i s = _ ∧ _)
    simp only [List.forall_mem_cons, List.not_mem_nil, false_imp_iff, implies_true, and_true]
    exact ⟨⟨_, hcompare (.vcmpEq th f d a b md) _ rfl⟩, ⟨_, hcompare (.vcmpLt th f d a b md) _ rfl⟩, ⟨_, hcompare (.vcmpLe th f d a b md) _ rfl⟩⟩
  · exact vsum_ends hr hd ha hb hmode _ rfl

end Sys2Proof.Machine
end

section
/-! Instructions of the matrix unit: how they enter it and how they leave it (R42, R84–R89, R174–R176). -/

namespace Sys2Proof.Machine

open Sys2Proof

/-! ## Entering -/

theorem needMatrix_free {s : State} {th : Thr} (h : (s.tile th.tile).matrix = none) (k : Issued) : needMatrix s th k = k := by
  rw [needMatrix, h]
  rfl

section
variable {s : State} {th : Thr}

/-- An instruction that changes its tile but none of its threads. -/
theorem State.issue_setTile {body : Thread → State → Issued} {y : Tile} (hr : s.canRun th) (hy : y.threads = (s.tile th.tile).threads)
    (hb : body (s.me th) s = .done (s.setTile th.tile y)) : (s.setTile th.tile y).retires (s.issue th body) th (s.me th) := by
  have hme : (s.setTile th.tile y).me th = s.me th := by
    rw [State.me, State.thread, State.setTile_tile, if_pos rfl, hy]
    rfl
  have h := State.issue_done (u := s.setTile th.tile y) hr.1 (State.inCode_of_hq rfl hr.2.2) (congrArg Thread.pc hme) hb
  rwa [hme] at h

theorem startMma_enters {body : Thread → State → Issued} {kind : MmaKind} {align : Nat} {acc : BitVec 2} {clr : Bool} {cnt : BitVec 3} {a b : BitVec 5}
    (hr : s.canRun th) (hfree : (s.tile th.tile).matrix = none) (ha : ((s.me th).readS a).toNat % 2 ^ 20 % align = 0)
    (hb : ((s.me th).readS b).toNat % 2 ^ 20 % align = 0) (hbody : body (s.me th) s = startMma th kind align acc clr cnt a b s) :
    (s.setTile th.tile { s.tile th.tile with
      acc := if clr then (s.tile th.tile).acc.set acc.toFin [] else (s.tile th.tile).acc
      matrix := some (.mma kind acc.toFin (cnt.toNat + 1) (((s.me th).readS a).toNat % 2 ^ 20) (((s.me th).readS b).toNat % 2 ^ 20) th.thread
        (s.me th).pc [] none) }).retires (s.issue th body) th (s.me th) := by
  refine State.issue_setTile hr rfl ?_
  rw [hbody, startMma, needMatrix_free hfree, need_canRun hr]
  have haligned : ¬(((s.me th).readS a).toNat % padSize % align ≠ 0 ∨ ((s.me th).readS b).toNat % padSize % align ≠ 0) := by
    rw [not_or, not_not, not_not]
    exact ⟨ha, hb⟩
  refine (if_neg haligned).trans ?_
  cases clr <;> rfl

theorem mclr_clears {d a b : BitVec 5} {md : BitVec 8} {k : Fin 4} (hr : s.canRun th) (hfree : (s.tile th.tile).matrix = none) (hk : k.val = b.toNat)
    (hm : md.extractLsb 7 4 = 0#4) :
    ∃ t, exec (.mclr th d a b md) s = .next t ∧
      (s.setTile th.tile { s.tile th.tile with acc := (s.tile th.tile).acc.set k [] }).retires t th (s.me th) := by
  refine ⟨_, rfl, State.issue_setTile hr rfl ?_⟩
  simp only [maskReg_eq hk, modHigh_zero hm, needMatrix_free hfree, ne_eq, not_true_eq_false, if_false]

/-- An instruction comes into the matrix unit. -/
def State.enterMatrix (s : State) (t : Nat) (j : MatrixJob) : State := s.setTile t { s.tile t with matrix := some j }

theorem State.thread_enterMatrix (s : State) (t : Nat) (n : Fin 16) (j : MatrixJob) : (s.enterMatrix t j).thread t n = s.thread t n := by
  simp only [State.enterMatrix, State.thread, State.setTile_tile, if_true]

/-- Putting the same instruction into the matrix unit of two states keeps what they differ in. -/
theorem State.sameBut_enterMatrix {u : State} (h : s.sameBut u th) (j : MatrixJob) : (s.enterMatrix th.tile j).sameBut (u.enterMatrix th.tile j) th := by
  obtain ⟨hrest, htiles, htile, hthreads⟩ := h
  refine ⟨?_, fun k hk => ?_, ?_, fun n hn => ?_⟩
  · conv_rhs => rw [← hrest]
    rfl
  · rw [State.enterMatrix, State.enterMatrix, State.setTile_tile, if_neg hk, State.setTile_tile, if_neg hk]
    exact htiles k hk
  · simp only [State.enterMatrix, State.setTile_tile, if_true]
    conv_rhs => rw [← htile]
  · rw [State.thread_enterMatrix, State.thread_enterMatrix]
    exact hthreads n hn

theorem mrd_ends {d a b : BitVec 5} {md : BitVec 8} {k : Fin 4} {fc : FormatCode} {mode : RMode} (hr : s.canRun th)
    (hfree : (s.tile th.tile).matrix = none) (hk : k.val = b.toNat) (hfc : formatCode d.toNat = some fc)
    (hmode : rmode (md.extractLsb 7 6) = some mode) (ha : ((s.me th).readS a).toNat % 2 ^ 20 % fc.align = 0) (r : List Byte × FFlags)
    (hread : r = match fc with
      | .float f => readoutFloat f (roundingOf s th md mode) (s.tile th.tile).acc[k]
      | .grain g => readoutGrain g (roundingOf s th md mode) (s.tile th.tile).acc[k]) :
    ∃ t, exec (.mrd th d a b md) s = .next t ∧
      if r.2.any && md.getLsbD 4 then
        (s.rounded mode 2048).endsArith t th true true { s.me th with rng := rngRounded mode (s.me th).rng 2048 }
      else ((s.rounded mode 2048).setTile th.tile { s.tile th.tile with
          matrix := some (.readout (((s.me th).readS a).toNat % 2 ^ 20) r.1 th.thread (s.me th).pc) }).endsArith t th false r.2.any
        { s.me th with rng := rngRounded mode (s.me th).rng 2048 } := by
  let u := s.afterRounding th.tile th.thread (roundingOf s th md mode) 2048
  let job := MatrixJob.readout (((s.me th).readS a).toNat % 2 ^ 20) r.1 th.thread (s.me th).pc
  have haligned : ¬((s.me th).readS a).toNat % padSize % fc.align ≠ 0 := not_not.2 ha
  refine ⟨_, rfl, ?_⟩
  generalize hbody : (fun (x : Thread) (s : State) => _ : Thread → State → Issued) = body
  have hb : body (s.me th) s = finish u th (md.getLsbD 4) r.2 (fun z => .done (z.enterMatrix th.tile job)) := by
    subst hread hbody
    simp only [hfc, maskReg_eq hk, modRounding_eq hmode, needMatrix_free hfree, need_canRun hr]
    exact if_neg haligned
  have hu : (s.rounded mode 2048).sameBut u th := State.afterRounding_sameBut s th md mode _
  have hume : u.me th = { s.me th with rng := rngRounded mode (s.me th).rng 2048 } := State.afterRounding_me s th md mode _
  cases hraised : r.2.any && md.getLsbD 4 with
  | true =>
    rw [if_pos rfl]
    have htrap := State.issue_finish_trap (y := { s.me th with rng := rngRounded mode (s.me th).rng 2048 }) hr hu hume hb hraised
    rwa [(Bool.and_eq_true_iff.1 hraised).1, (Bool.and_eq_true_iff.1 hraised).2] at htrap
  | false =>
    rw [if_neg Bool.false_ne_true]
    have hdone := State.issue_finish_done (v := (s.rounded mode 2048).enterMatrix th.tile job)
      (y := { s.me th with rng := rngRounded mode (s.me th).rng 2048 }) hr
      (State.sameBut_enterMatrix (State.sameBut_trans hu (State.sameBut_setThread u th ((u.me th).raise r.2))) _)
      (State.afterRounding_hq s th md mode _) rfl ?_ hb hraised rfl
    · rw [State.endsArith, if_neg (by rw [Bool.and_false]; decide)]
      rwa [State.endsArith, if_neg (by rw [hraised]; decide)] at hdone
    · rw [State.me, State.thread_enterMatrix, State.setThread_thread_self, Thread.raise_eq, hume]

end

/-! ## Leaving -/

/-- Stores of one fold, each cell with the value of its own key. -/
theorem find_foldl_store {α : Type} [DecidableEq α] (dflt : α) (g : Nat → α) (l : List Nat) (m : Keyed α) (k : Nat) :
    find dflt (l.foldl (fun m i => store dflt m i (g i)) m) k = if k ∈ l then g k else find dflt m k := by
  induction l generalizing m with
  | nil => simp
  | cons i l ih =>
    rw [List.foldl_cons, ih, find_store]
    by_cases hl : k ∈ l
    · rw [if_pos hl, if_pos (List.mem_cons_of_mem i hl)]
    · rw [if_neg hl]
      by_cases hi : k = i
      · subst hi; rw [if_pos rfl, if_pos List.mem_cons_self]
      · rw [if_neg hi, if_neg (by simp [hi, hl])]

/-- The elements and the flags of an accumulation, apart. -/
theorem accumulate_eq (kind : MmaKind) (chunks : List (List Byte × List Byte)) (set : Keyed AccElem) :
    accumulate kind chunks set =
      ((List.range 2048).foldl (fun m i => store AccElem.cleared m i
          (chunksInto kind chunks (i / 64) (i % 64) (accGet set (i / 64) (i % 64))).1) set,
        FFlags.all ((List.range 2048).map (fun i => (chunksInto kind chunks (i / 64) (i % 64) (accGet set (i / 64) (i % 64))).2))) := by
  have hpair : ∀ (l : List Nat) (m : Keyed AccElem) (fl : FFlags),
      l.foldl (fun acc i =>
        let (y, f) := chunksInto kind chunks (i / 64) (i % 64) (accGet set (i / 64) (i % 64))
        (store AccElem.cleared acc.1 i y, acc.2.or f)) (m, fl) =
      (l.foldl (fun m i => store AccElem.cleared m i (chunksInto kind chunks (i / 64) (i % 64) (accGet set (i / 64) (i % 64))).1) m,
        (l.map (fun i => (chunksInto kind chunks (i / 64) (i % 64) (accGet set (i / 64) (i % 64))).2)).foldl FFlags.or fl) := by
    intro l
    induction l with
    | nil => exact fun _ _ => rfl
    | cons i l ih => exact fun m fl => ih _ _
  exact hpair _ _ _

theorem accGet_accumulate (kind : MmaKind) (chunks : List (List Byte × List Byte)) (set : Keyed AccElem) {r c : Nat} (hr : r < 32) (hc : c < 64) :
    accGet (accumulate kind chunks set).1 r c = (chunksInto kind chunks r c (accGet set r c)).1 := by
  have hrow : (64 * r + c) / 64 = r := by omega
  have hcol : (64 * r + c) % 64 = c := by omega
  have hmem : 64 * r + c ∈ List.range 2048 := List.mem_range.2 (by omega)
  rw [accumulate_eq, accGet, find_foldl_store, if_pos hmem, hrow, hcol]

theorem accumulate_raise (kind : MmaKind) (chunks : List (List Byte × List Byte)) (set : Keyed AccElem) :
    (accumulate kind chunks set).2.any =
      (List.range 2048).any (fun i => (chunksInto kind chunks (i / 64) (i % 64) (accGet set (i / 64) (i % 64))).2.any) := by
  rw [accumulate_eq, FFlags.any_all, List.any_map]
  rfl

/-- From `s` tile `n` becomes `y` in `t`, and its waits are examined again: other tiles and the rest of the module stand. -/
def State.tileSettles (s t : State) (n : Nat) (y : Tile) : Prop :=
  { t with tiles := s.tiles } = s ∧ (∀ k, k ≠ n → t.tile k = s.tile k) ∧ { t.tile n with threads := y.threads } = y ∧
    ∀ k : Fin 16, (y.threads[k]).sameRegs (t.tile n).threads[k]

theorem State.tileSettles_settle {s u : State} {n : Nat} {y : Tile} (hu : s.tileBecomes u n y) : s.tileSettles (u.settle n) n y := by
  obtain ⟨hrest, htiles, htile, hthreads⟩ := State.settle_onlyWakes u n
  have hy : u.tile n = y := (hu.2 n).trans (if_pos rfl)
  refine ⟨?_, fun k hk => (htiles k hk).trans ((hu.2 k).trans (if_neg hk)), hy ▸ htile, fun k => ?_⟩
  · conv_rhs => rw [← hu.1, ← hrest]
  · rw [← hy]
    rcases hthreads k with h | h
    · exact (congrArg _ h).mpr (Thread.sameRegs_refl _)
    · exact h.2

section
variable {s : State} {n : Fin 2560} {th : Fin 16} {pc : BitVec 32}

theorem mma_leaves {kind : MmaKind} {acc : Fin 4} {chunks a b : Nat} {done ops : List (List Byte × List Byte)}
    (hjob : (s.tile n).matrix = some (.mma kind acc chunks a b th pc done none))
    (hread : matrixRead (s.tile n) chunks (.mma kind acc chunks a b th pc done none) = .mma kind acc chunks a b th pc ops none) :
    ∃ t, exec (.matrixInstructionEnd n []) s = .next t ∧ s.tileSettles t n { s.tile n with
      matrix := none
      acc := (s.tile n).acc.set acc (accumulate kind ops (s.tile n).acc[acc]).1
      threads := (s.tile n).threads.set th (((s.tile n).threads[th]).raise (accumulate kind ops (s.tile n).acc[acc]).2) } := by
  refine ⟨_, ?_, State.tileSettles_settle (State.tileBecomes_setTile (State.tileBecomes_refl s n) _)⟩
  change execMatrixInstructionEnd n [] s = _
  unfold execMatrixInstructionEnd
  simp only [hjob, State.padEvents, List.foldl_nil, hread]
  simp only [State.setThread, State.thread, State.setTile_tile, if_true, State.setTile_setTile]

theorem readout_leaves {addr : Nat} {bytes : List Byte} (hjob : (s.tile n).matrix = some (.readout addr bytes th pc))
    (hclean : (s.tile n).storesClean addr bytes.length) :
    ∃ t, exec (.matrixInstructionEnd n []) s = .next t ∧ s.tileSettles t n (({ s.tile n with matrix := none } : Tile).padPut addr bytes) := by
  refine ⟨_, ?_, State.tileSettles_settle (State.tileBecomes_setTile (State.tileBecomes_refl s n) _)⟩
  change execMatrixInstructionEnd n [] s = _
  unfold execMatrixInstructionEnd
  have hfree : (s.setTile n { s.tile n with matrix := none }).tile n = { s.tile n with matrix := none } := by rw [State.setTile_tile, if_pos rfl]
  simp only [hjob, hclean.1, Bool.false_eq_true, if_false]
  rw [State.padWrite_clean (by rw [hfree]) (by rw [hfree]; exact hclean.2), hfree, State.setTile_setTile]

end

/-- Settles O6, the entering of each instruction first, then the two ways in which one leaves the unit. -/
theorem matrixInstructionsEnterAndLeaveTheUnit : Obligations.MatrixInstructionsEnterAndLeaveTheUnit := by
  unfold Obligations.MatrixInstructionsEnterAndLeaveTheUnit
  refine ⟨fun s th acc clr cnt d a b fa fb md hr hfree => ⟨fun ga gb hfa hfb ha hb => ?_, fun ha hb => ⟨?_, ?_⟩, fun k hk hm => ?_,
    fun k fc mode hk hfc hmode ha => ?_⟩, fun s n th pc => ⟨fun kind acc chunks a b done ops hjob hread => ?_, fun addr bytes hjob hlen hclean => ?_⟩⟩
  · exact ⟨_, rfl, startMma_enters hr hfree ha hb (by simp only [hfa, hfb]; rfl)⟩
  · exact ⟨_, rfl, startMma_enters hr hfree ha hb rfl⟩
  · exact ⟨_, rfl, startMma_enters hr hfree ha hb rfl⟩
  · exact mclr_clears hr hfree hk hm
  · exact mrd_ends hr hfree hk hfc hmode ha _ rfl
  · obtain ⟨t, ht, hrest, htiles, htile, hthreads⟩ := mma_leaves hjob hread
    refine ⟨t, ht, ?_⟩
    have hacc := congrArg Tile.acc htile
    have hmatrix := congrArg Tile.matrix htile
    have hraised := accumulate_raise kind ops (s.tile n).acc[acc]
    have hother : ∀ k : Fin 16, k ≠ th → ((s.tile n).threads.set th (((s.tile n).threads[th]).raise (accumulate kind ops (s.tile n).acc[acc]).2))[k] =
        (s.tile n).threads[k] := fun k hk => by simp [Fin.val_inj, Ne.symm hk]
    have hown : ((s.tile n).threads.set th (((s.tile n).threads[th]).raise (accumulate kind ops (s.tile n).acc[acc]).2))[th] =
        { (s.tile n).threads[th] with f := if (accumulate kind ops (s.tile n).acc[acc]).2.any then ((s.tile n).threads[th]).f ||| 0x80#8
                                           else ((s.tile n).threads[th]).f } := by
      rw [← Thread.raise_eq]
      simp
    refine ⟨⟨hrest, htiles⟩, ?_, hmatrix, fun k hk => ?_, fun r hr c hc => ?_, fun k => ?_, fun k hk => ?_, ?_⟩
    · exact congrArg (fun z : Tile => { z with threads := (s.tile n).threads, acc := (s.tile n).acc, matrix := (s.tile n).matrix }) htile
    · rw [hacc]
      simp [Fin.val_inj, Ne.symm hk]
    · rw [hacc]
      simpa using accGet_accumulate kind ops (s.tile n).acc[acc] hr hc
    · have hk := hthreads k
      by_cases h : k = th
      · subst h
        rw [hown] at hk
        exact congrArg (fun z : Thread => { z with f := ((s.tile n).threads[k]).f }) hk
      · rw [hother k h] at hk
        exact congrArg (fun z : Thread => { z with f := ((s.tile n).threads[k]).f }) hk
    · have hf := congrArg Thread.f (hthreads k)
      rw [hother k hk] at hf
      exact hf
    · have hf := congrArg Thread.f (hthreads th)
      rw [hown] at hf
      refine hf.trans ?_
      rw [hraised]
  · obtain ⟨t, ht, hrest, htiles, htile, hthreads⟩ := readout_leaves hjob hclean
    refine ⟨t, ht, ?_⟩
    have hpad := congrArg Tile.pad htile
    have hmatrix := congrArg Tile.matrix htile
    refine ⟨⟨hrest, htiles⟩, ?_, ?_, hmatrix, hthreads⟩
    · rw [hpad]
      exact padStored_writePad _ _ hlen
    · exact congrArg (fun z : Tile => { z with threads := (s.tile n).threads, pad := (s.tile n).pad, padBad := (s.tile n).padBad, matrix := (s.tile n).matrix }) htile

end Sys2Proof.Machine
end

section
/-! Fault reports, the launch-wide barrier, scrubs and refetches (R53–R58, R62, R63, R179, R212). -/

namespace Sys2Proof.Machine

open Sys2Proof

/-! ## Lists with keys -/

/-- A map of the values of a keyed list that keeps what an unlisted key reads as. -/
theorem find_map {α : Type} (dflt : α) (m : Keyed α) {f : Nat × α → Nat × α} {g : Nat → α → α} (hf : ∀ e, f e = (e.1, g e.1 e.2)) {k : Nat}
    (hg : g k dflt = dflt) : find dflt (m.map f) k = g k (find dflt m k) := by
  induction m with
  | nil => exact hg.symm
  | cons e m ih =>
    obtain ⟨j, a⟩ := e
    rw [List.map_cons, hf, find, find, ih]
    by_cases h : j = k
    · rw [if_pos h, if_pos h, h]
    · rw [if_neg h, if_neg h]

theorem mem_addNat (l : List Nat) (k i : Nat) : i ∈ addNat l k ↔ i = k ∨ i ∈ l := by
  induction l with
  | nil => simp [addNat]
  | cons j l ih =>
    rw [addNat]
    split
    · rw [List.mem_cons]
    · split
      · rename_i h; subst h; simp
      · rw [List.mem_cons, ih, List.mem_cons]; exact or_left_comm

/-! ## Fault reports -/

theorem State.complete_tiles (s : State) (q : Fin 64) (c : Completion) : (s.complete q c).tiles = s.tiles := by
  unfold State.complete
  dsimp only
  split
  · rfl
  · split <;> rfl

theorem State.complete_launches (s : State) (q : Fin 64) (c : Completion) : (s.complete q c).hq.launches = s.hq.launches := by
  unfold State.complete
  dsimp only
  split
  · rfl
  · split <;> rfl

/-- The tiles that an ended launch does not hold stand. -/
theorem State.endLaunch_tile (s : State) (l : Launch) (aborted : Bool) {k : Nat} (hk : l.holds k = false) : (s.endLaunch l aborted).tile k = s.tile k := by
  have hfind := find_map Tile.fresh s.tiles (f := fun e => if l.holds e.1 then (e.1, e.2.quiet aborted) else e)
    (g := fun j x => if l.holds j then x.quiet aborted else x) (fun e => by split <;> rfl) (k := k) (by rw [hk]; rfl)
  rw [hk] at hfind
  exact hfind

theorem faultReport_eq {s : State} {q : Fin 64} {l : Launch} {f : FaultRep} (hl : s.hq.launches.find? (fun l => decide (l.q = q)) = some l)
    (hf : firstFault l.faults = some f) : exec (.faultReport q) s = .next ((s.endLaunch l true).complete q
      (if l.timeoutUs ≠ 0 ∧ l.expiry < f.stamp.toNat then plain 6 else faultCompletion f l.timely.length)) := by
  change execFaultReport q s = _
  unfold execFaultReport
  rw [hl]
  dsimp only
  rw [hf]
  dsimp only
  split <;> rfl

/-! ## The launch-wide barrier -/

theorem Tile.releaseGbar_fresh : Tile.fresh.releaseGbar = Tile.fresh := by
  simp [Tile.releaseGbar, Tile.fresh, Thread.idle]

theorem State.thread_releaseGbar {s t : State} {k : Nat} (h : t.tile k = (s.tile k).releaseGbar) (m : Fin 16) :
    t.thread k m = if (s.thread k m).wait = some .gbar then { s.thread k m with state := .ready, wait := none } else s.thread k m := by
  rw [State.thread, h]
  exact Vector.getElem_map _ _

section
variable {s : State} {n : Fin 2560} {l : Launch} (hl : s.launchOf n = some l) (harrived : (s.tile n).arrived = true)
include hl harrived

/-- The last arrival at the barrier. -/
theorem gbarArrival_last (hall : ∀ e ∈ s.tiles, l.has e.1 = true → e.1 ∈ l.arrived ∨ e.1 = n.val ∨ e.2.ended = true) :
    ∃ t, exec (.gbarArrival n) s = .next t ∧ ∀ k, t.tile k = if l.has k then (s.tile k).releaseGbar else s.tile k := by
  have hdone : s.tiles.all (fun e => !l.has e.1 || (addNat l.arrived n.val).contains e.1 || e.2.ended) = true := by
    rw [List.all_eq_true]
    intro e he
    cases hhas : l.has e.1 with
    | false => rfl
    | true =>
      have hin := hall e he hhas
      simp only [Bool.not_true, Bool.false_or, Bool.or_eq_true, List.contains_iff_mem, mem_addNat]
      tauto
  refine ⟨({ s with tiles := s.tiles.map (fun (e : Nat × Tile) => if l.has e.1 then (e.1, e.2.releaseGbar) else e) } : State).setLaunch
    { l with arrived := [] }, ?_, fun k => ?_⟩
  · change execGbarArrival n s = _
    unfold execGbarArrival
    rw [hl]
    dsimp only
    rw [harrived, if_neg (by decide)]
    exact congrArg Host.Outcome.next (if_pos hdone)
  · exact find_map Tile.fresh s.tiles (g := fun j x => if l.has j then x.releaseGbar else x) (fun e => by split <;> rfl)
      (by split; exact Tile.releaseGbar_fresh; rfl)

/-- An arrival before the last. -/
theorem gbarArrival_waits (hsome : ∃ e ∈ s.tiles, l.has e.1 = true ∧ e.1 ∉ l.arrived ∧ e.1 ≠ n.val ∧ e.2.ended = false) :
    exec (.gbarArrival n) s = .next (s.setLaunch { l with arrived := addNat l.arrived n.val }) := by
  have hdone : ¬s.tiles.all (fun e => !l.has e.1 || (addNat l.arrived n.val).contains e.1 || e.2.ended) = true := by
    obtain ⟨e, he, hhas, hout, hne, hended⟩ := hsome
    refine fun h => absurd (List.all_eq_true.1 h e he) ?_
    simp only [hhas, hended, Bool.not_true, Bool.false_or, Bool.or_false, List.contains_iff_mem, mem_addNat]
    tauto
  change execGbarArrival n s = _
  unfold execGbarArrival
  rw [hl]
  dsimp only
  rw [harrived, if_neg (by decide)]
  exact congrArg Host.Outcome.next (if_neg hdone)

end

theorem State.setLaunch_mem {s : State} {l k : Launch} (hk : k ∈ (s.setLaunch l).hq.launches) (hq : k.q = l.q) : k = l := by
  obtain ⟨j, hj, rfl⟩ := List.mem_map.1 hk
  by_cases hj : j.q = l.q
  · rw [if_pos hj]
  · rw [if_neg hj] at hq
    exact absurd hq hj

/-! ## Scrubs -/

theorem padWords_granule (g : Fin 32768) : padWords (32 * g.val) 32 = (List.range 4).map (fun i => (4 * g.val + i, true)) := by
  have hcount : (32 * g.val % 8 + 32 + 7) / 8 = 4 := by omega
  rw [padWords, hcount]
  refine List.map_congr_left fun i hi => ?_
  have hlt := List.mem_range.1 hi
  refine Prod.ext ?_ (decide_eq_true ?_)
  · dsimp only [padWordCount]; omega
  · omega

/-- A correctable error of a word that has not met fifteen others lately. -/
theorem State.padCorrect_few {s : State} {t w : Nat} (h : (recent s.hours 864000 (find [] (s.tile t).padCeTimes w)).length < 16) :
    s.padCorrect t w = s.setTile t { s.tile t with
      padCe := (s.tile t).padCe + 1
      padCeLast := 8 * w
      padCeTimes := insert (s.tile t).padCeTimes w (recent s.hours 864000 (find [] (s.tile t).padCeTimes w)) } := by
  unfold State.padCorrect
  exact if_neg (Nat.not_le.2 h)

theorem scrub_corrects {s : State} {n : Fin 2560} {g : Fin 32768} {w : Fin 4} (hlive : s.homeLive n = true)
    (hsound : ∀ v : Fin 4, 4 * g.val + v.val ∉ (s.tile n).padBad)
    (hfew : (recent s.hours 864000 (find [] (s.tile n).padCeTimes (4 * g.val + w.val))).length < 16) :
    exec (.scratchpadScrub n g [(w.val, .correctable)]) s = .next (s.padCorrect n (4 * g.val + w.val)) := by
  have hwords : ((padWords (32 * g.val) 32).map Prod.fst)[w.val]? = some (4 * g.val + w.val) := by
    rw [padWords_granule, List.map_map]
    simp [w.isLt]
  have hpad : ((s.padCorrect n (4 * g.val + w.val)).tile n).padBad = (s.tile n).padBad := by
    rw [State.padCorrect_few hfew, State.setTile_tile, if_pos rfl]
  have hnone : ((padWords (32 * g.val) 32).map Prod.fst).filter (fun v => (s.tile n).padBad.contains v) = [] := by
    rw [List.filter_eq_nil_iff, padWords_granule, List.map_map]
    intro v hv
    obtain ⟨i, hi, rfl⟩ := List.mem_map.1 hv
    rw [List.contains_iff_mem]
    exact hsound ⟨i, List.mem_range.1 hi⟩
  change execScratchpadScrub n g _ s = _
  unfold execScratchpadScrub
  rw [if_pos hlive, State.padCheck, State.wordsCheck, State.padEvents, List.foldl_cons, List.foldl_nil]
  dsimp only
  rw [hwords]
  dsimp only [State.padEvent]
  rw [hpad, hnone]
  rfl

/-! ## Refetches -/

theorem State.icacheEvents_woken {s t : State} {th : Thr} (h : s.sameButWoken t th) :
    (t.tile th.tile).icacheEvents = (s.tile th.tile).icacheEvents := by
  obtain ⟨-, -, htile, -⟩ := h
  have hevents := congrArg Tile.icacheEvents htile
  exact hevents

/-- A fault that reaches a READY thread after its instruction issued. -/
theorem State.lateFault_ready {s : State} {th : Thr} (h : (s.me th).state = .ready) (c : BitVec 8) (pc : BitVec 32) :
    ((s.lateFault th.tile th.thread c pc).settle th.tile).me th = { s.me th with state := .faulted, cause := c, stall := none, wait := none } ∧
      (((s.lateFault th.tile th.thread c pc).settle th.tile).tile th.tile).icacheEvents = (s.tile th.tile).icacheEvents := by
  obtain ⟨hme, hsame⟩ := State.threadFault_same s th c pc
  have hlate : s.lateFault th.tile th.thread c pc = s.threadFault th.tile th.thread c pc := by
    rw [State.me] at h
    rw [State.lateFault, h]
  rw [hlate]
  have hevents := State.icacheEvents_woken (State.sameBut_wakes hsame (State.settle_onlyWakes _ th.tile))
  refine ⟨?_, hevents⟩
  rw [State.settle_me _ _ (by rw [hme]; exact nofun) (by rw [hme]; exact nofun), hme]

theorem icacheRefetch_eq (s : State) (th : Thr) (again : Bool) :
    ∃ u, u = s.setTile th.tile { s.tile th.tile with icacheEvents := (s.tile th.tile).icacheEvents + 1 } ∧ u.me th = s.me th ∧
      exec (.icacheRefetch th again) s = .next (if again then (u.lateFault th.tile th.thread 0x09 (u.me th).pc).settle th.tile else u) := by
  refine ⟨_, rfl, ?_, rfl⟩
  rw [State.me, State.thread, State.setTile_tile, if_pos rfl]
  rfl

/-- Settles O11, clause by clause. -/
theorem faultReportsBarriersAndScrubs : Obligations.FaultReportsBarriersAndScrubs := by
  unfold Obligations.FaultReportsBarriersAndScrubs
  intro s
  refine ⟨fun q l f hl hf => ?_, fun n l hl harrived hall => ?_, fun n l hl harrived hsome => ?_, fun n g w hlive hsound hfew => ?_, fun th again hready => ?_⟩
  · have hlq : l.q = q := by simpa using List.find?_some hl
    refine ⟨_, faultReport_eq hl hf, fun k hk => ?_, fun k n hk => ?_, fun k hk => ?_, fun d rest hd hp => ?_⟩
    · rw [State.complete_launches] at hk
      exact State.endLaunch_launches_ne hlq hk
    · rw [State.thread, State.tile, State.complete_tiles]
      exact State.endLaunch_idle s l true hk n
    · rw [State.tile, State.complete_tiles]
      exact State.endLaunch_tile s l true hk
    · rw [State.endLaunch_complete hd hp]
      simp [faultCompletion]
  · obtain ⟨t, ht, htile⟩ := gbarArrival_last hl harrived hall
    refine ⟨t, ht, fun k m hk hw => ?_, fun k m hk => ?_⟩
    · rw [State.thread_releaseGbar ((htile k).trans (if_pos hk)), if_pos hw]
      exact ⟨rfl, rfl⟩
    · cases hhas : l.has k with
      | true => rw [State.thread_releaseGbar ((htile k).trans (if_pos hhas)), if_neg (hk.resolve_left (by rw [hhas]; decide))]
      | false => rw [State.thread, htile, hhas, if_neg (by decide), State.thread]
  · refine ⟨_, gbarArrival_waits hl harrived hsome, rfl, fun k hk hq => ?_⟩
    rw [State.setLaunch_mem hk hq]
    exact (mem_addNat _ _ _).2 (.inl rfl)
  · refine ⟨_, scrub_corrects hlive hsound hfew, ?_⟩
    rw [State.padCorrect_few hfew]
    refine ⟨rfl, fun k hk => by rw [State.setTile_tile, if_neg hk], ?_⟩
    simp only [State.setTile_tile, if_true, and_self]
  · obtain ⟨u, hu, hme, hexec⟩ := icacheRefetch_eq s th again
    have hevents : (u.tile th.tile).icacheEvents = (s.tile th.tile).icacheEvents + 1 := by rw [hu, State.setTile_tile, if_pos rfl]
    refine ⟨_, hexec, ?_⟩
    cases again with
    | false => exact ⟨hevents, hme⟩
    | true =>
      obtain ⟨hfaulted, htile⟩ := State.lateFault_ready (hme ▸ hready) 0x09 (u.me th).pc
      exact ⟨htile.trans hevents, by rw [← hme]; exact hfaulted⟩

end Sys2Proof.Machine
end

section
/-! How packets travel through the Canopy: the frame of every move, and the way of a flit that goes alone (R137–R145). -/

namespace Sys2Proof.Machine

open Sys2Proof

/-! ## What travelling changes -/

/-- Nothing has changed but flits, turns and stalls of the Canopy and what waits at the homes. -/
def State.onlyCarries (s u : State) : Prop := { u with canopy := s.canopy, mem := { u.mem with tracker := s.mem.tracker } } = s

theorem State.onlyCarries_refl (s : State) : s.onlyCarries s := rfl

theorem State.onlyCarries_trans {s u v : State} (h : s.onlyCarries u) (k : u.onlyCarries v) : s.onlyCarries v := by
  unfold State.onlyCarries at *
  conv_rhs => rw [← h, ← k]

theorem State.onlyCarries_reqs {s u : State} (h : s.onlyCarries u) : u.mem.reqs = s.mem.reqs := by
  have hreqs := congrArg (fun v : State => v.mem.reqs) h
  exact hreqs

theorem State.onlyCarries_reqOf {s u : State} (h : s.onlyCarries u) (id : Nat) : u.reqOf id = s.reqOf id := by
  rw [State.reqOf, State.onlyCarries_reqs h, State.reqOf]

theorem State.onlyCarries_tiles {s u : State} (h : s.onlyCarries u) : u.tiles = s.tiles := by
  have htiles := congrArg State.tiles h
  exact htiles

theorem State.onlyCarries_hwd {s u : State} (h : s.onlyCarries u) : u.hwd = s.hwd := by
  have hhwd := congrArg State.hwd h
  exact hhwd

theorem State.moveFlit_onlyCarries (s : State) (f : Flit) : s.onlyCarries (s.moveFlit f) := by
  unfold State.moveFlit
  dsimp only
  split
  · rfl
  · split
    · rfl
    · split <;> rfl

theorem State.flow_onlyCarries (s : State) (n : Nat) : s.onlyCarries (s.flow n) := by
  induction n generalizing s with
  | zero => rfl
  | succ n ih =>
    rw [State.flow]
    split
    · exact State.onlyCarries_trans (State.moveFlit_onlyCarries _ _) (ih _)
    · rfl

theorem State.settleFlits_onlyCarries (s : State) : s.onlyCarries s.settleFlits :=
  State.onlyCarries_trans (State.flow_onlyCarries s _) rfl

theorem State.sendPart_onlyCarries (s : State) (r : MemReq) (k : Nat) : s.onlyCarries (s.sendPart r k) := by
  unfold State.sendPart
  split
  · rfl
  · split
    · split <;> rfl
    · dsimp only
      split <;> rfl

theorem State.carry_onlyCarries (s : State) (r : MemReq) (k : Nat) : s.onlyCarries (s.carry r k) :=
  State.onlyCarries_trans (State.sendPart_onlyCarries s r k) (State.settleFlits_onlyCarries _)

theorem State.sendBack_onlyCarries (s : State) (r : MemReq) (k : Nat) : s.onlyCarries (s.sendBack r k) :=
  State.onlyCarries_trans (u := { s with canopy := { s.canopy with flits := s.canopy.flits ++ _ } }) rfl (State.settleFlits_onlyCarries _)

/-! ## A flit that goes alone -/

/-- The state with other turns and other flits. -/
def State.withFlits (s : State) (turn : Keyed Nat) (flits : List Flit) : State := { s with canopy := { s.canopy with turn := turn, flits := flits } }

theorem Canopy.first_alone {c : Canopy} {f : Flit} (h : c.flits = [f]) : c.first f = true := by
  simp [Canopy.first, h]

section
variable {s : State} {f : Flit} (hf : s.canopy.flits = [f])
include hf

theorem State.wins_alone (haged : f.aged = false) (htakes : s.takes f = true) : s.wins f = true := by
  simp [State.wins, hf, Canopy.first_alone hf, htakes, haged]

theorem State.flow_step (haged : f.aged = false) (htakes : s.takes f = true) (n : Nat) : s.flow (n + 1) = (s.moveFlit f).flow n := by
  simp [State.flow, hf, Canopy.first_alone hf, htakes, State.wins_alone hf haged htakes]

theorem State.takes_ahead {k : Nat} {ks : List Nat} (hk : f.ahead = k :: ks) : s.takes f = true := by
  have hcount : s.canopy.flits.countP (fun g => g.here == k && g.resp == f.resp) ≤ 1 := by
    rw [hf]
    exact List.countP_le_length
  rw [State.takes, hk]
  exact decide_eq_true (by omega)

theorem State.moveFlit_ahead {k : Nat} {ks : List Nat} (hk : f.ahead = k :: ks) :
    s.moveFlit f = { s with canopy := { s.canopy with
      turn := store 0 s.canopy.turn f.next (f.here % 8), flits := [{ f with here := k, ahead := ks, aged := false }] } } := by
  rw [State.moveFlit, hf, hk]
  simp

theorem State.moveFlit_response (hend : f.ahead = []) (hresp : f.resp = true) :
    s.moveFlit f = s.withFlits (store 0 s.canopy.turn f.next (f.here % 8)) [] := by
  rw [State.moveFlit, hf, hend]
  simp [State.withFlits, hresp]

theorem State.moveFlit_request {r : MemReq} (hend : f.ahead = []) (hresp : f.resp = false) (hreq : s.reqOf f.req = some r) :
    s.moveFlit f = (s.withFlits (store 0 s.canopy.turn f.next (f.here % 8)) []).reach r f.part := by
  have hreq' : ∀ c, ({ s with canopy := c } : State).reqOf f.req = some r := fun _ => hreq
  rw [State.moveFlit, hf, hend]
  simp [State.withFlits, hreq', hresp]

end

/-- A flit alone in the Canopy reaches the router of its home. -/
theorem State.flow_alone (ahead : List Nat) {s : State} {f : Flit} (hahead : f.ahead = ahead) (hf : s.canopy.flits = [f]) (haged : f.aged = false)
    (n : Nat) : ∃ here turn, s.flow (ahead.length + n) = (s.withFlits turn [{ f with here := here, ahead := [] }]).flow n := by
  induction ahead generalizing s f with
  | nil =>
    refine ⟨f.here, s.canopy.turn, ?_⟩
    have hself : { f with here := f.here, ahead := [] } = f := by rw [← hahead]
    rw [hself, State.withFlits, ← hf, List.length_nil, Nat.zero_add]
  | cons k ks ih =>
    have hmove := State.moveFlit_ahead hf hahead
    obtain ⟨here, turn, h⟩ := ih (s := s.moveFlit f) (f := { f with here := k, ahead := ks, aged := false }) rfl (by rw [hmove]) rfl
    refine ⟨here, turn, ?_⟩
    have hlen : (k :: ks).length + n = (ks.length + n) + 1 := by rw [List.length_cons]; omega
    rw [hlen, State.flow_step hf haged (State.takes_ahead hf hahead), h, hmove, ← haged]
    rfl

/-- Where no flit is left, none is stuck. -/
theorem State.settleFlits_empty {s u : State} (h : s.flow ((s.canopy.flits.map (fun f => f.ahead.length + 1)).sum) = u) (hu : u.canopy.flits = []) :
    s.settleFlits = u := by
  unfold State.settleFlits
  dsimp only
  rw [h, hu, List.filter_nil, List.map_nil, List.eraseDups_nil, List.length_nil, BitVec.add_zero, ← hu]

section
variable {s : State} {f : Flit} (hf : s.canopy.flits = [f]) (haged : f.aged = false)
include hf haged

theorem State.flow_leaves : ∃ here turn, s.flow ((s.canopy.flits.map (fun f => f.ahead.length + 1)).sum) =
    (s.withFlits turn [{ f with here := here, ahead := [] }]).flow 1 := by
  rw [hf, List.map_cons, List.map_nil, List.sum_cons, List.sum_nil, Nat.add_zero]
  exact State.flow_alone f.ahead rfl hf haged 1

omit hf in
theorem State.flow_exits {here : Nat} {turn : Keyed Nat} (htakes : (s.withFlits turn [{ f with here := here, ahead := [] }]).takes
    { f with here := here, ahead := [] } = true) : (s.withFlits turn [{ f with here := here, ahead := [] }]).flow 1 =
      (s.withFlits turn [{ f with here := here, ahead := [] }]).moveFlit { f with here := here, ahead := [] } :=
  State.flow_step (f := { f with here := here, ahead := [] }) rfl haged htakes 0

/-- A response alone in the Canopy leaves it. -/
theorem State.settleFlits_response (hresp : f.resp = true) : ∃ turn, s.settleFlits = s.withFlits turn [] := by
  obtain ⟨here, turn, h⟩ := State.flow_leaves hf haged
  rw [State.flow_exits haged (by simp [State.takes, hresp]), State.moveFlit_response (f := { f with here := here, ahead := [] }) rfl rfl hresp] at h
  exact ⟨_, State.settleFlits_empty h rfl⟩

/-- A request alone in the Canopy reaches its home, where that has room. -/
theorem State.settleFlits_request {r : MemReq} (hresp : f.resp = false) (hreq : s.reqOf f.req = some r)
    (hroom : r.remote.isSome = true ∨ s.memEntries (r.partHome f.part) < 64) : ∃ turn, s.settleFlits = (s.withFlits turn []).reach r f.part := by
  obtain ⟨here, turn, h⟩ := State.flow_leaves hf haged
  have hreq' : ∀ turn l, (s.withFlits turn l).reqOf f.req = some r := fun _ _ => hreq
  have hroom' : ∀ turn l, r.remote.isSome = true ∨ (s.withFlits turn l).memEntries (r.partHome f.part) < 64 := fun _ _ => hroom
  rw [State.flow_exits haged (by simpa [State.takes, hresp, hreq'] using hroom' _ _),
    State.moveFlit_request (f := { f with here := here, ahead := [] }) rfl rfl hresp (hreq' _ _)] at h
  exact ⟨_, State.settleFlits_empty h rfl⟩

end

end Sys2Proof.Machine
end

section
/-! Requests performed at their homes: transactions of the controllers, requests on their way, remote scratchpad accesses (R107–R119, R137–R150, R172). -/

namespace Sys2Proof.Machine

open Sys2Proof

/-! ## Waits examined again at several tiles -/

/-- From `s` only threads that wait or stall have changed, by going on, in whatever tile. -/
def State.onlyThreadsWake (s t : State) : Prop :=
  { t with tiles := s.tiles } = s ∧
    ∀ j, { t.tile j with threads := (s.tile j).threads } = s.tile j ∧ ∀ m : Fin 16, (s.thread j m).sameRegs (t.thread j m)

theorem State.onlyThreadsWake_of_onlyWakes {s t : State} {n : Nat} (h : s.onlyWakes t n) : s.onlyThreadsWake t := by
  obtain ⟨hrest, htiles, htile, hthreads⟩ := h
  refine ⟨hrest, fun j => ?_⟩
  by_cases hj : j = n
  · subst hj
    refine ⟨htile, fun m => ?_⟩
    rcases hthreads m with h | h
    · rw [h]; exact Thread.sameRegs_refl _
    · exact h.2
  · simp only [State.thread, htiles j hj]
    exact ⟨trivial, fun _ => Thread.sameRegs_refl _⟩

theorem State.onlyThreadsWake_trans {s t u : State} (h : s.onlyThreadsWake t) (k : t.onlyThreadsWake u) : s.onlyThreadsWake u := by
  obtain ⟨hrest, htile⟩ := h
  obtain ⟨krest, ktile⟩ := k
  refine ⟨?_, fun j => ⟨?_, fun m => Thread.sameRegs_trans ((htile j).2 m) ((ktile j).2 m)⟩⟩
  · conv_rhs => rw [← hrest, ← krest]
  · have h1 := (htile j).1
    have h2 := (ktile j).1
    rw [← h2] at h1
    exact h1

theorem State.freed_wakes (s : State) (r : MemReq) (k : Nat) : s.onlyThreadsWake (s.freed r k) :=
  State.onlyThreadsWake_trans (State.onlyThreadsWake_of_onlyWakes (State.settle_onlyWakes _ _))
    (State.onlyThreadsWake_of_onlyWakes (State.settle_onlyWakes _ _))

/-! ## Bytes of one transaction -/

theorem State.dramCheck_clean {s : State} {l : Nat} (h : l / 64 ∉ s.mem.bad) : s.dramCheck l .clean = (s, false) := by
  have hnone : s.dramEvent l .clean = s := if_pos (by decide)
  rw [State.dramCheck, hnone, if_neg (by rwa [List.contains_iff_mem])]

section
variable {m : MemState} {l : Nat} {bytes : List Byte} (hbad : l / 64 ∉ m.bad) (hone : l % 64 + bytes.length ≤ 64)
include hbad hone

/-- A write within one sound transaction leaves the codes of every transaction. -/
theorem MemState.write_one_frame : m.write 0 l bytes = { m with dram := (m.write 0 l bytes).dram } := by
  have hcovered : ∀ t ∈ m.bad, (coveredTransactions 0 l bytes.length).contains t = false := by
    intro t ht
    rw [Bool.eq_false_iff, ne_eq, List.contains_iff_mem, coveredTransactions, List.mem_filterMap]
    rintro ⟨i, -, hi⟩
    dsimp only at hi
    split at hi
    · obtain ⟨a, ha, rfl⟩ := Option.map_eq_some_iff.1 hi
      obtain ⟨-, rfl⟩ := translate_linear.1 ha
      refine hbad ?_
      have hsame : (l / 64 + i) * 64 / 64 = l / 64 := by omega
      rwa [← hsame]
    · cases hi
  have hkept : m.bad.filter (fun t => !(coveredTransactions 0 l bytes.length).contains t) = m.bad :=
    List.filter_eq_self.2 fun t ht => by rw [hcovered t ht]; rfl
  conv_lhs => rw [MemState.write]
  simp only [MemState.write, hkept]

theorem MemState.write_one (hmapped : l + bytes.length ≤ 0x14000000000) :
    (∀ i (h : i < bytes.length), find 0 (m.write 0 l bytes).dram (l + i) = bytes[i]) ∧
      ∀ a, (a < l ∨ l + bytes.length ≤ a) → find 0 (m.write 0 l bytes).dram a = find 0 m.dram a := by
  have hsound : m.meetsBad 0 l bytes.length = false := by
    rw [MemState.meetsBad, List.any_eq_false]
    intro t ht
    rw [transactions] at ht
    split at ht
    · cases ht
    · obtain ⟨i, hi, hm⟩ := List.mem_filterMap.1 ht
      obtain ⟨a, ha, rfl⟩ := Option.map_eq_some_iff.1 hm
      obtain ⟨-, rfl⟩ := translate_linear.1 ha
      have hrange := List.mem_range.1 hi
      have hsame : (l / 64 + i) * 64 / 64 = l / 64 := by omega
      rw [hsame, List.contains_iff_mem]
      exact hbad
  obtain ⟨hin, hout⟩ := MemState.write_sound hsound
  refine ⟨fun i hi => hin i hi (l + i) (translate_linear.2 ⟨by omega, rfl⟩), fun a ha => hout a fun k hk h => ?_⟩
  have := (translate_linear.1 h).2
  omega

end

theorem reduceBytes_length (f : LaneFmt) (old new : List Byte) : (reduceBytes f old new).length = 64 := by
  unfold reduceBytes
  rw [List.length_flatMap]
  simp only [natLe_length]
  cases f <;> rfl

/-! ## A part served -/

/-- From `s` part k of a request has been served with the bytes `ret`: what of the state that touches. -/
def State.partServed (s t : State) (r : MemReq) (k : Nat) (ret : List Byte) : Prop :=
  t.mem.reqs = s.mem.reqs.map (fun q => if q.id = r.id then { r with served := Machine.insert r.served k { status := .performed, bytes := ret } } else q) ∧
  (s.canopy.flits = [] → s.waits r.id k = true → t.canopy = s.canopy) ∧ find 0 t.mem.openRow (rowBank (dramRow (r.partAddr k))) = dramRow (r.partAddr k) ∧
  { t with canopy := s.canopy, tiles := s.tiles
           mem := { t.mem with reqs := s.mem.reqs, dram := s.mem.dram, tracker := s.mem.tracker, openRow := s.mem.openRow } } = s ∧
  ∀ j, { t.tile j with threads := (s.tile j).threads } = s.tile j ∧ ∀ m : Fin 16, (s.thread j m).sameRegs (t.thread j m)

theorem State.carry_waits {s : State} {r : MemReq} {k : Nat} (hflits : s.canopy.flits = []) (hwaits : s.waits r.id k = true) : s.carry r k = s := by
  have hsend : s.sendPart r k = s := if_pos (.inl hwaits)
  rw [State.carry, hsend]
  exact State.settleFlits_empty (by rw [hflits]; rfl) hflits

section
variable {s : State} {r : MemReq} {k : Nat}

theorem State.onlyThreadsWake_mem {s t : State} (h : s.onlyThreadsWake t) : t.mem = s.mem := by
  have hmem := congrArg State.mem h.1
  exact hmem

theorem State.onlyThreadsWake_canopy {s t : State} (h : s.onlyThreadsWake t) : t.canopy = s.canopy := by
  have hcanopy := congrArg State.canopy h.1
  exact hcanopy

theorem State.served_frame {u v t : State} {reqs : List MemReq} {dram : Keyed Byte} {tracker : List Arrived} {opened : Keyed Nat} (hcarry : s.onlyCarries u)
    (hv : v = { u with mem := { u.mem with reqs := reqs, dram := dram, tracker := tracker, openRow := opened } })
    (hrest : { t with tiles := v.tiles } = v) : { t with
      canopy := s.canopy
      tiles := s.tiles
      mem := { t.mem with reqs := s.mem.reqs, dram := s.mem.dram, tracker := s.mem.tracker, openRow := s.mem.openRow } } = s := by
  have hsame := congrArg (fun z : State => { z with
    canopy := s.canopy
    tiles := s.tiles
    mem := { z.mem with reqs := s.mem.reqs, dram := s.mem.dram, tracker := s.mem.tracker, openRow := s.mem.openRow } }) hrest
  have hback := congrArg (fun z : State => { z with
    tiles := s.tiles
    mem := { z.mem with reqs := s.mem.reqs, dram := s.mem.dram, openRow := s.mem.openRow } }) hcarry
  subst hv
  exact hsame.trans hback

/-- What a controller changes of the state when it serves a part, with the bytes that it leaves there. -/
theorem State.servedPart_frame (u : State) (r : MemReq) (k : Nat) (d : Keyed Byte) (q : MemReq) : ∃ tracker opened,
    find 0 opened (rowBank (dramRow (r.partAddr k))) = dramRow (r.partAddr k) ∧
    ({ u.servedPart r k with mem := { (u.servedPart r k).mem with dram := d } } : State).setReq q = { u with mem := { u.mem with
      reqs := u.mem.reqs.map (fun p => if p.id = q.id then q else p), dram := d, tracker := tracker, openRow := opened } } :=
  ⟨_, _, find_insert_self _ _ _ _, rfl⟩

theorem State.partServed_freed (ret : List Byte) (d : Keyed Byte) {v : State}
    (hv : v = ({ (s.carry r k).servedPart r k with mem := { ((s.carry r k).servedPart r k).mem with dram := d } } : State).setReq (r.serve k ret)) :
    s.partServed (v.freed r k) r k ret ∧ (v.freed r k).mem.dram = d := by
  have hcarry := State.carry_onlyCarries s r k
  obtain ⟨tracker, opened, hopened, hframe⟩ := State.servedPart_frame (s.carry r k) r k d (r.serve k ret)
  rw [hframe, State.onlyCarries_reqs hcarry] at hv
  have hwake := State.freed_wakes v r k
  have hmem := State.onlyThreadsWake_mem hwake
  have hcanopy := State.onlyThreadsWake_canopy hwake
  obtain ⟨hrest, htiles⟩ := hwake
  generalize v.freed r k = t at *
  refine ⟨⟨?_, fun hflits hwaits => ?_, ?_, State.served_frame hcarry hv hrest, fun j => ?_⟩, ?_⟩
  · rw [hmem, hv]
    rfl
  · rw [hcanopy, hv]
    have hcarried := congrArg State.canopy (State.carry_waits hflits hwaits)
    exact hcarried
  · rw [hmem, hv]
    exact hopened
  · have hvtile : ∀ j, v.tile j = s.tile j := fun j => by
      rw [hv, State.tile, State.tile, ← State.onlyCarries_tiles hcarry]
    have hj := htiles j
    simp only [State.thread, hvtile] at hj ⊢
    exact hj
  · rw [hmem, hv]

/-- A part in its turn, of an access that is not a DMA. -/
theorem channelTransaction_eq (hreq : s.reqOf r.id = some r) (hlocal : r.remote = none) (hdma : r.isDma = false) (hk : k < r.parts)
    (hserved : r.hasServed k = false) (hblocked : s.blocked r k = false) (hopen : (s.carry r k).channelOpen (r.partHome k) = true)
    (hturn : (s.carry r k).turnOf r k = true) : exec (.channelTransaction r.id k .clean []) s =
      .next ((((s.carry r k).servedPart r k).performPart r k (r.partAddr k) .clean []).freed r k) := by
  have hdue : ¬(r.remote.isSome ∨ r.parts ≤ k ∨ r.hasServed k ∨ (r.isDma ∧ r.status ≠ .performed) ∨ s.blocked r k) := by
    simp [hlocal, hdma, hserved, hblocked, hk]
  change execChannelTransaction _ _ _ _ _ = _
  unfold execChannelTransaction
  rw [hreq]
  dsimp only
  rw [if_neg hdue, hopen, hturn]
  rfl

/-- The bank serves a part whose transaction is sound. -/
theorem State.readFirst_sound {v : State} {l : Nat} {f : State → List Byte → State × List Byte} (h : l / 64 ∉ v.mem.bad) :
    v.readFirst r k l .clean f =
      (f v (readBytes v.mem.dram l (r.partLen k))).1.setReq (r.serve k (f v (readBytes v.mem.dram l (r.partLen k))).2) := by
  unfold State.readFirst
  dsimp only
  rw [State.dramCheck_clean h]
  rfl

theorem State.storePart_sound {v : State} {l : Nat} {bytes : List Byte} (h : l / 64 ∉ v.mem.bad) :
    v.storePart r k l .clean bytes = (v.devWrite 0 l bytes).setReq (r.serve k []) := by
  unfold State.storePart
  split
  · rfl
  · exact State.readFirst_sound h

end

section
variable {s : State} {r : MemReq} {k : Nat}

theorem State.servedPart_dram (s : State) (r : MemReq) (k : Nat) : ((s.carry r k).servedPart r k).mem.dram = s.mem.dram := by
  have hdram := congrArg (fun z : State => z.mem.dram) (State.carry_onlyCarries s r k)
  exact hdram

theorem State.servedPart_bad (s : State) (r : MemReq) (k : Nat) : ((s.carry r k).servedPart r k).mem.bad = s.mem.bad := by
  have hbad := congrArg (fun z : State => z.mem.bad) (State.carry_onlyCarries s r k)
  exact hbad

variable (hreq : s.reqOf r.id = some r) (hlocal : r.remote = none) (hdma : r.isDma = false) (hk : k < r.parts)
  (hserved : r.hasServed k = false) (hblocked : s.blocked r k = false) (hopen : (s.carry r k).channelOpen (r.partHome k) = true)
  (hturn : (s.carry r k).turnOf r k = true)
include hreq hlocal hdma hk hserved hblocked hopen hturn

/-- A part that leaves device memory as it was. -/
theorem channelTransaction_reads {ret : List Byte} (hperform : ((s.carry r k).servedPart r k).performPart r k (r.partAddr k) .clean [] =
    ((s.carry r k).servedPart r k).setReq (r.serve k ret)) :
    ∃ t, exec (.channelTransaction r.id k .clean []) s = .next t ∧ s.partServed t r k ret ∧ t.mem.dram = s.mem.dram := by
  refine ⟨_, channelTransaction_eq hreq hlocal hdma hk hserved hblocked hopen hturn, ?_⟩
  rw [hperform]
  refine State.partServed_freed ret s.mem.dram ?_
  rw [← State.servedPart_dram s r k]

/-- A part that stores bytes of its transaction in device memory. -/
theorem channelTransaction_writes {ret bytes : List Byte} (hperform : ((s.carry r k).servedPart r k).performPart r k (r.partAddr k) .clean [] =
    (((s.carry r k).servedPart r k).devWrite 0 (r.partAddr k) bytes).setReq (r.serve k ret)) (hbad : r.partAddr k / 64 ∉ s.mem.bad)
    (hone : r.partAddr k % 64 + bytes.length ≤ 64) (hmapped : r.partAddr k + bytes.length ≤ 0x14000000000) :
    ∃ t, exec (.channelTransaction r.id k .clean []) s = .next t ∧ s.partServed t r k ret ∧
      (∀ i (h : i < bytes.length), find 0 t.mem.dram (r.partAddr k + i) = bytes[i]) ∧
      ∀ a, (a < r.partAddr k ∨ r.partAddr k + bytes.length ≤ a) → find 0 t.mem.dram a = find 0 s.mem.dram a := by
  rw [← State.servedPart_bad s r k] at hbad
  refine ⟨_, channelTransaction_eq hreq hlocal hdma hk hserved hblocked hopen hturn, ?_⟩
  rw [hperform, State.devWrite, MemState.write_one_frame hbad hone]
  obtain ⟨hpart, hdram⟩ := State.partServed_freed (s := s) (r := r) (k := k) ret
    (((s.carry r k).servedPart r k).mem.write 0 (r.partAddr k) bytes).dram rfl
  rw [hdram, ← State.servedPart_dram s r k]
  exact ⟨hpart, MemState.write_one hbad hone hmapped⟩

end

/-! ## A part alone on its way -/

theorem State.carry_alone {s : State} {r : MemReq} {k : Nat} (hfar : r.partNear k = false) (hdma : r.isDma = false) (hreq : s.reqOf r.id = some r)
    (hflits : s.canopy.flits = []) (hwaits : s.waits r.id k = false) (hlive : s.routeLive (.tile r.tile) (.tile (r.partHome k)) = true)
    (hroom : r.remote.isSome = true ∨ s.memEntries (r.partHome k) < 64) : ∃ turn, s.carry r k = (s.withFlits turn []).reach r k := by
  have htravels : s.travels r.id k = false := by rw [State.travels, hflits]; rfl
  have hcredit : ∀ i, s.canopy.credit i false = true := fun i => by rw [Canopy.credit, hflits]; rfl
  have hsend : ∃ here ahead, s.sendPart r k = { s with canopy := { s.canopy with
      flits := [{ resp := false, req := r.id, part := k, here := here, ahead := ahead, aged := false }] } } := by
    refine ⟨((s.route (.tile r.tile) (r.homeNode k)).map (fun e => inputKey e.1 e.2)).headD 0,
      ((s.route (.tile r.tile) (r.homeNode k)).map (fun e => inputKey e.1 e.2)).tail, ?_⟩
    unfold State.sendPart
    rw [if_neg (by rw [hwaits, htravels]; decide), if_neg (by rw [hfar]; decide)]
    dsimp only
    rw [if_pos ⟨hlive, hcredit _, by rw [hdma]; exact fun h => absurd h Bool.false_ne_true⟩, hflits]
    rfl
  obtain ⟨here, ahead, hsent⟩ := hsend
  obtain ⟨turn, h⟩ := State.settleFlits_request (s := s.sendPart r k) (r := r) (by rw [hsent]) rfl rfl
    (by rw [hsent]; exact hreq) (by rw [hsent]; exact hroom)
  refine ⟨turn, ?_⟩
  rw [State.carry, h, hsent]
  rfl

/-! ## Remote scratchpad accesses -/

/-- From `s` a remote access has ended at its home as `x`: it waits there no longer, and only the home's tile may differ beside. -/
def State.remoteEnded (s t : State) (r : MemReq) (home : Nat) (x : PartEnd) : Prop :=
  t.mem.reqs = s.mem.reqs.map (fun p => if p.id = r.id then { r with served := Machine.insert r.served 0 x } else p) ∧
  t.mem.tracker = s.mem.tracker.filter (fun e => e.req != r.id) ∧
  { t with mem := { t.mem with reqs := s.mem.reqs, tracker := s.mem.tracker }, tiles := s.tiles } = s ∧
  (∀ k, k ≠ home → t.tile k = s.tile k)

theorem State.remoteEnded_kept (s : State) (r : MemReq) (home : Nat) (x : PartEnd) :
    s.remoteEnded ((s.leave r.id).setReq { r with served := Machine.insert r.served 0 x }) r home x :=
  ⟨rfl, rfl, rfl, fun _ _ => rfl⟩

/-- One that left its bytes in the home's scratchpad, after which waits there are examined again. -/
theorem State.remoteEnded_written {s u : State} (r : MemReq) {home : Nat} (x : PartEnd) {y : Tile} (hu : (s.leave r.id).tileBecomes u home y) :
    s.remoteEnded ((u.settle home).setReq { r with served := Machine.insert r.served 0 x }) r home x ∧
      ((u.settle home).setReq { r with served := Machine.insert r.served 0 x }).tile home = (u.settle home).tile home := by
  obtain ⟨hrest, htiles, -, -⟩ := State.tileSettles_settle hu
  generalize u.settle home = t at *
  have hmem := congrArg State.mem hrest
  have hframe := congrArg (fun z : State => { z with mem := { z.mem with reqs := s.mem.reqs, tracker := s.mem.tracker } }) hrest
  refine ⟨⟨?_, ?_, hframe, htiles⟩, rfl⟩
  · change t.mem.reqs.map _ = _
    rw [show t.mem = (s.leave r.id).mem from hmem]
    rfl
  · change t.mem.tracker = _
    rw [show t.mem = (s.leave r.id).mem from hmem]
    rfl

section
variable {s : State} {r : MemReq} {home : Nat} {e : Arrived} (hreq : s.reqOf r.id = some r) (hremote : r.remote = some home)
  (hserved : r.hasServed 0 = false) (hblocked : s.blocked r 0 = false) (hlive : s.homeLive home = true) (hflits : s.canopy.flits = [])
  (hwaits : s.mem.tracker.find? (fun e => e.req == r.id) = some e) (hpart : e.part = 0) (hcame : s.cameBefore r = false)
include hreq hremote hserved hblocked hlive hflits hwaits hpart hcame

theorem remoteAccess_eq : exec (.remoteScratchpadAccess r.id []) s =
    .next (if e.late then (s.leave r.id).setReq (r.failed 0 .fenced) else (s.leave r.id).performRemote r home []) := by
  have hwaiting : s.waits r.id 0 = true := by
    refine List.any_eq_true.2 ⟨e, List.mem_of_find?_eq_some hwaits, ?_⟩
    have hid := List.find?_some hwaits
    rw [Bool.and_eq_true]
    exact ⟨hid, beq_iff_eq.2 hpart⟩
  change execRemoteScratchpadAccess _ _ _ = _
  unfold execRemoteScratchpadAccess
  rw [hreq]
  dsimp only
  rw [hremote]
  dsimp only
  rw [if_neg (by rw [hserved, hblocked]; decide), State.carry_waits hflits hwaiting, hwaits]
  dsimp only
  rw [if_neg (by rw [hlive, hcame]; decide)]

end

section
variable {s : State} {r : MemReq} {home : Nat}

theorem State.performRemote_load (hop : r.op = .remLoad) (hclean : (s.tile home).cleanAt r.addr r.len) :
    s.performRemote r home [] = s.setReq (r.serve 0 (readPad (s.tile home).pad r.addr r.len)) := by
  unfold State.performRemote
  rw [hop]
  dsimp only
  rw [State.padCheck_clean hclean]
  rfl

theorem State.performRemote_store (hop : r.op = .remStore) :
    s.performRemote r home [] = ((s.padWrite home r.addr r.bytes).settle home).setReq (r.serve 0 []) := by
  rw [State.performRemote, hop]

theorem State.performRemote_add {v : Word} (hop : r.op = .remAdd v) (hclean : (s.tile home).cleanAt r.addr 8) :
    s.performRemote r home [] =
      ((s.padWrite home r.addr (natLe 8 ((leNat (readPad (s.tile home).pad r.addr 8) + v.toNat) % 2 ^ 64))).settle home).setReq
        (r.serve 0 (readPad (s.tile home).pad r.addr 8)) := by
  unfold State.performRemote
  rw [hop]
  dsimp only
  rw [State.padCheck_clean hclean, if_neg Bool.false_ne_true, ← natLe_mod 8]

end

/-- Bytes stored in a home's scratchpad, after which waits there are examined again. -/
theorem State.remote_stores {s : State} (r : MemReq) {home : Nat} {bytes : List Byte} (x : PartEnd) (hfree : (s.tile home).matrix = none)
    (hlen : bytes.length ≤ padSize) (hreread : (s.tile home).rereadBad ((padWords r.addr bytes.length).map Prod.fst) = []) {t : State}
    (ht : t = (((s.leave r.id).padWrite home r.addr bytes).settle home).setReq { r with served := Machine.insert r.served 0 x }) :
    s.remoteEnded t r home x ∧ padStored (s.tile home).pad (t.tile home).pad r.addr bytes ∧
      ∀ n : Fin 16, ((s.tile home).threads[n]).sameRegs (t.tile home).threads[n] := by
  have hwrite : (s.leave r.id).padWrite home r.addr bytes = (s.leave r.id).setTile home ((s.tile home).padPut r.addr bytes) :=
    State.padWrite_clean (s := s.leave r.id) hfree hreread
  rw [hwrite] at ht
  have hbecomes := State.tileBecomes_setTile (State.tileBecomes_refl (s.leave r.id) home) ((s.tile home).padPut r.addr bytes)
  obtain ⟨hended, htile⟩ := State.remoteEnded_written r x hbecomes
  obtain ⟨-, -, hpad, hthreads⟩ := State.tileSettles_settle hbecomes
  rw [← ht] at hended htile
  rw [← htile] at hpad hthreads
  have hstored := congrArg Tile.pad hpad
  refine ⟨hended, ?_, hthreads⟩
  rw [show (t.tile home).pad = writePad (s.tile home).pad r.addr bytes from hstored]
  exact padStored_writePad _ _ hlen

/-- Settles O9, by what a controller leaves in memory, the way of a part alone, and the ends of remote accesses. -/
theorem requestsArePerformedAtTheirHomes : Obligations.RequestsArePerformedAtTheirHomes := by
  unfold Obligations.RequestsArePerformedAtTheirHomes
  refine ⟨fun s r k hreq hlocal hdma hk hserved hblocked hopen hturn hbad hone hmapped => ⟨fun hop => ?_, fun hop hlen => ?_, fun op a c hop hlen => ?_, fun f hop hlen => ?_⟩,
    fun s r k hfar hdma hreq hflits hwaits hlive hroom => ?_, fun s r home e hreq hremote hserved hblocked hlive hflits hwaits hpart hcame =>
      ⟨fun hlate => ?_, fun hlate => ⟨fun hop hclean => ?_, fun hop hfree hlen hreread => ?_, fun v hop hfree hclean hreread => ?_⟩⟩⟩
  · refine channelTransaction_reads hreq hlocal hdma hk hserved hblocked hopen hturn ?_
    rw [State.performPart, hop, ← State.servedPart_dram s r k]
    exact State.readFirst_sound (by rwa [State.servedPart_bad])
  · refine channelTransaction_writes hreq hlocal hdma hk hserved hblocked hopen hturn ?_ hbad (by rwa [hlen]) (by rwa [hlen])
    rw [State.performPart, hop]
    exact State.storePart_sound (by rwa [State.servedPart_bad])
  · refine channelTransaction_writes hreq hlocal hdma hk hserved hblocked hopen hturn ?_ hbad (by rwa [natLe_length]) (by rwa [natLe_length])
    rw [State.performPart, hop, ← State.servedPart_dram s r k, hlen]
    exact State.readFirst_sound (by rwa [State.servedPart_bad])
  · refine channelTransaction_writes hreq hlocal hdma hk hserved hblocked hopen hturn ?_ hbad (by rw [reduceBytes_length]; omega)
      (by rw [reduceBytes_length]; omega)
    rw [State.performPart, hop, ← State.servedPart_dram s r k]
    exact State.readFirst_sound (by rwa [State.servedPart_bad])
  · obtain ⟨turn, hu⟩ := State.carry_alone hfar hdma hreq hflits hwaits hlive hroom
    have hcanopy : ({ s.canopy with flits := [] } : Canopy) = s.canopy := by rw [← hflits]
    rw [hu]
    refine ⟨rfl, ?_⟩
    change { s with canopy := { s.canopy with flits := [] } } = s
    rw [hcanopy]
  · refine ⟨_, remoteAccess_eq hreq hremote hserved hblocked hlive hflits hwaits hpart hcame, ?_⟩
    rw [hlate]
    exact ⟨rfl, State.remoteEnded_kept s r home _⟩
  · refine ⟨_, remoteAccess_eq hreq hremote hserved hblocked hlive hflits hwaits hpart hcame, ?_⟩
    rw [hlate, State.performRemote_load (s := s.leave r.id) hop hclean]
    exact ⟨rfl, State.remoteEnded_kept s r home _⟩
  · refine ⟨_, remoteAccess_eq hreq hremote hserved hblocked hlive hflits hwaits hpart hcame, ?_⟩
    rw [hlate, State.performRemote_store (s := s.leave r.id) hop]
    exact State.remote_stores r _ hfree hlen hreread rfl
  · refine ⟨_, remoteAccess_eq hreq hremote hserved hblocked hlive hflits hwaits hpart hcame, ?_⟩
    rw [hlate, if_neg Bool.false_ne_true]
    exact State.remote_stores r _ hfree (by rw [natLe_length]; decide) (by rwa [natLe_length]) (State.performRemote_add hop hclean)

end Sys2Proof.Machine
end

section
/-! Responses, timeouts and the ends of DMAs (R60, R61, R141, R144, R155–R157, R171). -/

namespace Sys2Proof.Machine

open Sys2Proof

/-! ## The way of a response -/

theorem State.sendBack_alone {s : State} (r : MemReq) (k : Nat) (hflits : s.canopy.flits = []) : ∃ turn, s.sendBack r k = s.withFlits turn [] := by
  have hempty : ∀ turn, (s.withFlits turn []) = ({ s with canopy := { s.canopy with turn := turn } } : State) := fun turn => by
    rw [State.withFlits, ← hflits]
  unfold State.sendBack
  dsimp only
  rw [hflits, List.nil_append]
  exact State.settleFlits_response (f := { resp := true, req := r.id, part := k, here := _, ahead := _, aged := false }) rfl rfl rfl

/-- The response to part k has come to its tile, near or alone through the Canopy: only turns of the Canopy have passed on. -/
theorem State.returned {s : State} {r : MemReq} {k : Nat} (hway : r.partNear k = true ∨ (s.routeLive (.tile (r.partHome k)) (.tile r.tile) = true ∧ s.canopy.flits = [])) :
    ¬((!r.partNear k) = true ∧ (!s.routeLive (r.homeNode k) (.tile r.tile)) = true) ∧
      ∃ turn, (if r.partNear k then s else s.sendBack r k) = { s with canopy := { s.canopy with turn := turn } } := by
  rcases hway with hnear | ⟨hlive, hflits⟩
  · exact ⟨by rw [hnear]; simp, s.canopy.turn, by rw [if_pos hnear]⟩
  · refine ⟨by rw [MemReq.homeNode, hlive]; simp, ?_⟩
    by_cases hnear : r.partNear k = true
    · exact ⟨s.canopy.turn, by rw [if_pos hnear]⟩
    · obtain ⟨turn, h⟩ := State.sendBack_alone r k hflits
      refine ⟨turn, ?_⟩
      rw [if_neg hnear, h, State.withFlits, ← hflits]

/-! ## What happens to the thread of a request -/

/-- Beside thread `n` of a tile nothing of the tiles has changed, but that other threads of the tile may go on. -/
def State.tilesRest (s t : State) (tile : Nat) (n : Fin 16) : Prop :=
  (∀ k, k ≠ tile → t.tile k = s.tile k) ∧ { t.tile tile with threads := (s.tile tile).threads } = s.tile tile ∧
    ∀ m, m ≠ n → (s.thread tile m).sameRegs (t.thread tile m)

/-- The tile in which one thread is replaced. -/
def Tile.withThread (y : Tile) (n : Fin 16) (x : Thread) : Tile := { y with threads := y.threads.set n x }

theorem Tile.withThread_self (y : Tile) (n : Fin 16) : y.withThread n y.threads[n] = y := by
  rw [Tile.withThread]
  exact congrArg (fun v => { y with threads := v }) (Vector.set_getElem_self _)

theorem Tile.withThread_thread (y : Tile) (n m : Fin 16) (x : Thread) : (y.withThread n x).threads[m] = if m = n then x else y.threads[m] := by
  by_cases h : m = n
  · subst h; simp [Tile.withThread]
  · simp [Tile.withThread, h, Fin.val_inj, Ne.symm h]

theorem State.tileSettles_withThread {s t : State} {tile : Nat} {n : Fin 16} {x : Thread}
    (h : s.tileSettles t tile ((s.tile tile).withThread n x)) : s.tilesRest t tile n ∧ x.sameRegs (t.thread tile n) := by
  obtain ⟨-, htiles, htile, hthreads⟩ := h
  refine ⟨⟨htiles, ?_, fun m hm => ?_⟩, ?_⟩
  · have hsame := congrArg (fun z : Tile => { z with threads := (s.tile tile).threads }) htile
    exact hsame
  · have hother := hthreads m
    rw [Tile.withThread_thread, if_neg hm] at hother
    exact hother
  · have hown := hthreads n
    rw [Tile.withThread_thread, if_pos rfl] at hown
    exact hown

theorem State.settle_thread {s : State} {tile : Nat} {n : Fin 16} (hw : (s.thread tile n).state ≠ .waiting) (hs : (s.thread tile n).state ≠ .stalled) :
    (s.settle tile).thread tile n = s.thread tile n := by
  obtain ⟨-, -, -, hthreads⟩ := State.settle_onlyWakes s tile
  rcases hthreads n with h | ⟨h, -⟩
  · exact h
  · exact absurd h (by simp [hw, hs])

/-- A late fault of a thread that still runs. -/
theorem State.lateFault_runs {s : State} {tile : Nat} {n : Fin 16} {c : BitVec 8} {pc : BitVec 32}
    (h : (s.thread tile n).state = .ready ∨ (s.thread tile n).state = .stalled ∨ (s.thread tile n).state = .waiting) :
    ∃ hq, s.lateFault tile n c pc = ({ s with hq := hq } : State).setTile tile ((s.tile tile).withThread n
      { s.thread tile n with state := .faulted, cause := c, stall := none, wait := none }) := by
  refine ⟨(s.threadFault tile n c pc).hq, ?_⟩
  rw [State.lateFault]
  rcases h with h | h | h <;> rw [h] <;> rfl

/-- A thread gets what it waited for, and waits are examined again. -/
theorem State.setThread_settles (s : State) (tile : Nat) (n : Fin 16) (x : Thread) :
    { (s.setThread tile n x).settle tile with tiles := s.tiles } = s ∧ s.tilesRest ((s.setThread tile n x).settle tile) tile n ∧
      x.sameRegs (((s.setThread tile n x).settle tile).thread tile n) := by
  have h : s.tileSettles ((s.setThread tile n x).settle tile) tile ((s.tile tile).withThread n x) :=
    State.tileSettles_settle (State.tileBecomes_setTile (State.tileBecomes_refl s tile) _)
  exact ⟨h.1, State.tileSettles_withThread h⟩

/-- Waits are examined again, and nothing else happens. -/
theorem State.settles (s : State) (tile : Nat) (n : Fin 16) :
    { s.settle tile with tiles := s.tiles } = s ∧ s.tilesRest (s.settle tile) tile n ∧ (s.thread tile n).sameRegs ((s.settle tile).thread tile n) := by
  have h : s.tileSettles (s.settle tile) tile (s.tile tile) := State.tileSettles_settle (State.tileBecomes_refl s tile)
  rw [← Tile.withThread_self (s.tile tile) n] at h
  exact ⟨h.1, State.tileSettles_withThread h⟩

theorem State.lateFault_settles {s : State} {tile : Nat} {n : Fin 16} (c : BitVec 8) (pc : BitVec 32)
    (h : (s.thread tile n).state = .ready ∨ (s.thread tile n).state = .stalled ∨ (s.thread tile n).state = .waiting) :
    (∃ hq, { (s.lateFault tile n c pc).settle tile with tiles := s.tiles } = { s with hq := hq }) ∧
      s.tilesRest ((s.lateFault tile n c pc).settle tile) tile n ∧
      ((s.lateFault tile n c pc).settle tile).thread tile n = { s.thread tile n with state := .faulted, cause := c, stall := none, wait := none } := by
  obtain ⟨hq, hlate⟩ := State.lateFault_runs (c := c) (pc := pc) h
  have hset : s.lateFault tile n c pc = ({ s with hq := hq } : State).setThread tile n
      { s.thread tile n with state := .faulted, cause := c, stall := none, wait := none } := hlate
  have hown : (s.lateFault tile n c pc).thread tile n = { s.thread tile n with state := .faulted, cause := c, stall := none, wait := none } := by
    rw [hset, State.setThread_thread_self]
  obtain ⟨hrest, htiles, -⟩ := State.setThread_settles ({ s with hq := hq } : State) tile n
    { s.thread tile n with state := .faulted, cause := c, stall := none, wait := none }
  rw [← hset] at hrest htiles
  refine ⟨⟨hq, hrest⟩, htiles, ?_⟩
  rw [State.settle_thread (by rw [hown]; exact nofun) (by rw [hown]; exact nofun), hown]

/-! ## Responses -/

section
variable {s : State} {r : MemReq} {k : Nat} {e : PartEnd} (hreq : s.reqOf r.id = some r) (hended : r.ended k = some e) (hnew : k ∉ r.answered)
  (hway : r.partNear k = true ∨ (s.routeLive (.tile (r.partHome k)) (.tile r.tile) = true ∧ s.canopy.flits = []))
include hreq hended hnew hway

/-- A response in time: the entries that it frees, and what it does to its thread or its scratchpad. -/
theorem responseArrival_eq (hexpired : k ∉ r.expired) (horphan : r.orphan = false) {last : Bool}
    (hlast : (!r.isDma && (List.range r.parts).all (addNat r.answered k).contains) = last) :
    ∃ turn, ∀ u, (u = if last then ({ s with canopy := { s.canopy with turn := turn } } : State).dropReq r.id
        else ({ s with canopy := { s.canopy with turn := turn } } : State).setReq { r with answered := addNat r.answered k }) →
      exec (.responseArrival r.id k) s = .next (
        if r.isDma then (u.dmaArrive { r with answered := addNat r.answered k } k e).settle r.tile
        else u.respond { r with answered := addNat r.answered k } e.status last) := by
  obtain ⟨hlive, turn, hback⟩ := State.returned hway
  refine ⟨turn, fun u hu => ?_⟩
  subst hu hlast
  change execResponseArrival _ _ _ = _
  unfold execResponseArrival
  rw [hreq]
  dsimp only
  rw [hended]
  dsimp only
  rw [if_neg (not_or.2 ⟨by simpa using hnew, hlive⟩), hback, if_neg (by simpa using hexpired), if_neg (by rw [horphan]; decide)]
  rfl

/-- The response to a part of a thread's access: its entry is free, and with the last of them the access is over. -/
theorem responseArrival_access (hdma : r.isDma = false) (htime : r.timedOut = false) (horphan : r.orphan = false) :
    ∃ turn reqs tracker last, (last = true ↔ ∀ j < r.parts, j = k ∨ j ∈ r.answered) ∧
      (last = true → reqs = s.mem.reqs.filter (fun q => q.id != r.id) ∧ tracker = s.mem.tracker.filter (fun e => e.req != r.id)) ∧
      (last = false → tracker = s.mem.tracker ∧
        reqs = s.mem.reqs.map (fun q => if q.id = r.id then { r with answered := addNat r.answered k } else q)) ∧
      exec (.responseArrival r.id k) s = .next (({ s with
        canopy := { s.canopy with turn := turn }, mem := { s.mem with reqs := reqs, tracker := tracker } } : State).respond
          { r with answered := addNat r.answered k } e.status last) := by
  have hexpired : k ∉ r.expired := by
    rw [MemReq.timedOut, Bool.not_eq_false', List.isEmpty_iff] at htime
    rw [htime]
    exact List.not_mem_nil
  have hlast : (List.range r.parts).all (addNat r.answered k).contains = true ↔ ∀ j < r.parts, j = k ∨ j ∈ r.answered := by
    simp [mem_addNat]
  have hbool : (!r.isDma && (List.range r.parts).all (addNat r.answered k).contains) = (List.range r.parts).all (addNat r.answered k).contains := by
    rw [hdma]
    rfl
  obtain ⟨turn, hexec⟩ := responseArrival_eq hreq hended hnew hway hexpired horphan hbool
  rw [hdma] at hexec
  cases hall : (List.range r.parts).all (addNat r.answered k).contains with
  | true =>
    rw [hall] at hexec hlast
    exact ⟨turn, _, _, true, hlast, fun _ => ⟨rfl, rfl⟩, fun h => absurd h (by decide), hexec _ rfl⟩
  | false =>
    rw [hall] at hexec hlast
    exact ⟨turn, _, _, false, hlast, fun h => absurd h (by decide), fun _ => ⟨rfl, rfl⟩, hexec _ rfl⟩

end

/-- A response of a performed part examines waits again, after the data has reached its register with the last one. -/
theorem State.respond_performed {s : State} {r : MemReq} (last : Bool) : ∃ x, { s.respond r .performed last with tiles := s.tiles } = s ∧
    s.tilesRest (s.respond r .performed last) r.tile r.thread ∧ x.sameRegs ((s.respond r .performed last).thread r.tile r.thread) ∧
    x = if last = true ∧ r.status = .performed then (s.thread r.tile r.thread).deliver r.dest (r.served.flatMap (fun e => e.2.bytes))
        else s.thread r.tile r.thread := by
  unfold State.respond
  dsimp only [statusCause]
  split
  · exact ⟨_, (State.setThread_settles s r.tile r.thread _).1, (State.setThread_settles s r.tile r.thread _).2.1,
      (State.setThread_settles s r.tile r.thread _).2.2, rfl⟩
  · exact ⟨_, (State.settles s r.tile r.thread).1, (State.settles s r.tile r.thread).2.1, (State.settles s r.tile r.thread).2.2, rfl⟩

theorem State.respond_failed {s : State} {r : MemReq} {st : RespStatus} {c : BitVec 8} (hc : statusCause st r.remote.isSome = some c) (last : Bool) :
    s.respond r st last = (s.lateFault r.tile r.thread c r.pc).settle r.tile := by
  rw [State.respond, hc]

/-- The entries that a response frees, in the words of the statement. -/
theorem State.freed_entries {s t : State} {r : MemReq} {k : Nat} {reqs : List MemReq} {tracker : List Arrived} {last : Bool}
    (hlast : last = true ↔ ∀ j < r.parts, j = k ∨ j ∈ r.answered)
    (hover : last = true → reqs = s.mem.reqs.filter (fun q => q.id != r.id) ∧ tracker = s.mem.tracker.filter (fun e => e.req != r.id))
    (hmore : last = false → tracker = s.mem.tracker ∧
      reqs = s.mem.reqs.map (fun q => if q.id = r.id then { r with answered := addNat r.answered k } else q))
    (hmem : t.mem = { s.mem with reqs := reqs, tracker := tracker }) :
    ((∀ j < r.parts, j = k ∨ j ∈ r.answered) → t.mem.reqs = s.mem.reqs.filter (fun q => q.id != r.id) ∧
      t.mem.tracker = s.mem.tracker.filter (fun e => e.req != r.id)) ∧
    (¬(∀ j < r.parts, j = k ∨ j ∈ r.answered) → t.mem.tracker = s.mem.tracker ∧
      t.mem.reqs = s.mem.reqs.map (fun q => if q.id = r.id then { r with answered := addNat r.answered k } else q)) := by
  rw [hmem]
  refine ⟨fun h => hover (hlast.2 h), fun h => hmore ?_⟩
  rw [Bool.eq_false_iff]
  exact fun htrue => h (hlast.1 htrue)

/-! ## Timeouts -/

theorem remoteRequestTimeout_eq {s : State} {r : MemReq} {k : Nat} (hreq : s.reqOf r.id = some r) (hk : k < r.parts) (hfar : r.partNear k = false)
    (hnew : k ∉ r.answered) (hexp : k ∉ r.expired) (hdma : r.isDma = true → s.travels r.id k = true ∨ s.waits r.id k = true ∨ r.hasServed k = true)
    (horphan : r.orphan = false) : exec (.remoteRequestTimeout r.id k) s =
      .next ((((s.setReq { r with expired := addNat r.expired k }).flag cnpErr 2).lateFault r.tile r.thread 0x06 r.pc).settle r.tile) := by
  have hdue : ¬(r.parts ≤ k ∨ r.partNear k ∨ r.answered.contains k ∨ r.expired.contains k ∨
      (r.isDma ∧ !s.travels r.id k ∧ !s.waits r.id k ∧ !r.hasServed k)) := by
    simp only [not_or, not_and, List.contains_iff_mem, Nat.not_le, hfar, Bool.not_eq_true', Bool.not_eq_false]
    refine ⟨hk, by decide, hnew, hexp, fun h htravels hwaits => ?_⟩
    rcases hdma h with h | h | h
    · rw [htravels] at h; cases h
    · rw [hwaits] at h; cases h
    · exact h
  change execRemoteRequestTimeout _ _ _ = _
  unfold execRemoteRequestTimeout
  rw [hreq]
  dsimp only
  rw [if_neg hdue, horphan]
  rfl

theorem State.flag_set (s : State) (off n : Nat) (hn : n < 64) : ((s.flag off n).reg .A off).getLsbD n = true := by
  rw [State.flag, State.setStatus, State.setReg_reg]
  simp [hn]

/-! ## DMAs -/

theorem dmaComplete_eq {s : State} {r : MemReq} {th : Thr}
    (hth : s.mem.reqs.find? (fun q => decide (q.tile = th.tile.val ∧ q.thread = th.thread) && q.isDma) = some r) (hall : r.allAnswered = true)
    (hans : r.answer = .performed) : exec (.dmaComplete th) s = .next ((s.dropReq r.id).settle r.tile) := by
  change execDmaComplete _ _ = _
  unfold execDmaComplete
  rw [hth]
  dsimp only
  rw [hans]
  exact congrArg Host.Outcome.next (if_pos hall)

/-- The bytes of a part of a DMA read reach the scratchpad, and waits are examined again. -/
theorem State.dmaArrive_settles {s : State} {r : MemReq} {k pad : Nat} {e : PartEnd} (hop : r.op = .dmaRead pad) (hdone : e.status = .performed)
    (hfree : (s.tile r.tile).matrix = none) (hlen : e.bytes.length ≤ padSize)
    (hreread : (s.tile r.tile).rereadBad ((padWords (pad + 64 * k) e.bytes.length).map Prod.fst) = []) :
    { (s.dmaArrive r k e).settle r.tile with tiles := s.tiles } = s ∧
      padStored (s.tile r.tile).pad (((s.dmaArrive r k e).settle r.tile).tile r.tile).pad (pad + 64 * k) e.bytes := by
  have harrive : s.dmaArrive r k e = s.setTile r.tile ((s.tile r.tile).padPut (pad + 64 * k) e.bytes) := by
    rw [State.dmaArrive, hop]
    dsimp only
    rw [if_pos hdone, State.padWrite_clean hfree hreread]
  rw [harrive]
  obtain ⟨hrest, -, htile, -⟩ := State.tileSettles_settle (State.tileBecomes_setTile (State.tileBecomes_refl s r.tile)
    ((s.tile r.tile).padPut (pad + 64 * k) e.bytes))
  generalize State.settle _ _ = t at hrest htile
  have hpad := congrArg Tile.pad htile
  refine ⟨hrest, ?_⟩
  rw [show (t.tile r.tile).pad = writePad (s.tile r.tile).pad (pad + 64 * k) e.bytes from hpad]
  exact padStored_writePad _ _ hlen

/-! ## Aging -/

theorem Flit.aged_when (f : Flit) (p q : Prop) [Decidable p] [Decidable q] (resp first : Bool) :
    (if p ∧ q ∧ !resp ∧ first then { f with aged := true } else f) = { f with aged := f.aged || (decide (p ∧ q) && !resp && first) } := by
  have hsame : (decide (p ∧ q) && !resp && first) = decide (p ∧ q ∧ !resp ∧ first) := by
    simp [Bool.decide_and, Bool.and_assoc]
  rw [hsame]
  by_cases h : p ∧ q ∧ !resp ∧ first
  · rw [if_pos h, decide_eq_true h, Bool.or_true]
  · rw [if_neg h, decide_eq_false h, Bool.or_false]

/-- Settles O10, each end of a request in turn. -/
theorem responsesTimeoutsAndDmaEnds : Obligations.ResponsesTimeoutsAndDmaEnds := by
  unfold Obligations.ResponsesTimeoutsAndDmaEnds
  intro s r hreq
  refine ⟨fun k e hdma hended hnew htime horphan hway => ⟨fun hdone => ?_, fun c hc hruns => ?_⟩, fun k hk hfar hnew hexp hdma horphan hruns => ?_,
    fun th hth hall hans => ?_, fun k e pad hdma hop hended hdone hnew hexp horphan hway hfree hlen hreread => ?_, fun k => ?_⟩
  · obtain ⟨turn, reqs, tracker, last, hlast, hover, hmore, hexec⟩ := responseArrival_access hreq hended hnew hway hdma htime horphan
    rw [hdone] at hexec
    obtain ⟨x, hrest, htiles, hthread, hx⟩ := State.respond_performed (s := { s with
      canopy := { s.canopy with turn := turn }, mem := { s.mem with reqs := reqs, tracker := tracker } })
      (r := { r with answered := addNat r.answered k }) last
    generalize State.respond _ _ _ _ = t at hexec hrest htiles hthread
    have hmem := congrArg State.mem hrest
    have hframe := congrArg (fun z : State => { z with
      canopy := { z.canopy with turn := s.canopy.turn }, mem := { z.mem with reqs := s.mem.reqs, tracker := s.mem.tracker } }) hrest
    refine ⟨t, hexec, State.freed_entries hlast hover hmore hmem, htiles, fun hall hst => ?_, fun hmiss => ?_, hframe⟩
    · rw [hx, if_pos ⟨hlast.2 hall, hst⟩] at hthread
      exact hthread
    · rw [hx, if_neg (fun h => hmiss (hlast.1 h.1))] at hthread
      exact hthread
  · obtain ⟨turn, reqs, tracker, last, hlast, hover, hmore, hexec⟩ := responseArrival_access hreq hended hnew hway hdma htime horphan
    rw [State.respond_failed (r := { r with answered := addNat r.answered k }) hc] at hexec
    obtain ⟨⟨hq, hrest⟩, htiles, hthread⟩ := State.lateFault_settles (s := { s with
      canopy := { s.canopy with turn := turn }, mem := { s.mem with reqs := reqs, tracker := tracker } }) c r.pc hruns
    generalize State.settle _ _ = t at hexec hrest htiles hthread
    have hmem := congrArg State.mem hrest
    exact ⟨t, hexec, State.freed_entries hlast hover hmore hmem, htiles, hthread⟩
  · have hexec := remoteRequestTimeout_eq hreq hk hfar hnew hexp hdma horphan
    obtain ⟨⟨hq, hrest⟩, htiles, hthread⟩ := State.lateFault_settles (s := (s.setReq { r with expired := addNat r.expired k }).flag cnpErr 2)
      0x06 r.pc hruns
    generalize State.settle _ _ = t at hexec hrest htiles hthread
    have hreqs := congrArg (fun z : State => z.mem.reqs) hrest
    have hregs := congrArg State.regs hrest
    refine ⟨t, hexec, htiles, hreqs, hthread, ?_⟩
    rw [State.reg, show t.regs = _ from hregs]
    exact State.flag_set _ cnpErr 2 (by decide)
  · have hexec := dmaComplete_eq hth hall hans
    obtain ⟨hrest, htiles, hthread⟩ := State.settles (s.dropReq r.id) r.tile r.thread
    generalize State.settle _ _ = t at hexec hrest htiles hthread
    have hreqs := congrArg (fun z : State => z.mem.reqs) hrest
    have htracker := congrArg (fun z : State => z.mem.tracker) hrest
    have hframe := congrArg (fun z : State => { z with mem := { z.mem with reqs := s.mem.reqs, tracker := s.mem.tracker } }) hrest
    exact ⟨t, hexec, hreqs, htracker, htiles, hthread, hframe⟩
  · obtain ⟨turn, hexec⟩ := responseArrival_eq hreq hended hnew hway hexp horphan (last := false) (by rw [hdma]; rfl)
    rw [hdma] at hexec
    let u : State := ({ s with canopy := { s.canopy with turn := turn } } : State).setReq { r with answered := addNat r.answered k }
    obtain ⟨hrest, hpad⟩ := State.dmaArrive_settles (s := u) (r := { r with answered := addNat r.answered k }) hop hdone hfree hlen hreread
    have harrived := hexec u rfl
    rw [if_pos rfl] at harrived
    generalize State.settle _ _ = t at harrived hrest hpad
    have hreqs := congrArg (fun z : State => z.mem.reqs) hrest
    exact ⟨t, harrived, hpad, hreqs⟩
  · refine ⟨_, rfl, rfl, rfl, List.length_map _, fun i f g hf hg => ?_⟩
    have hmap : (s.canopy.flits.map _)[i]? = some g := hg
    rw [List.getElem?_map, hf, Option.map_some, Option.some_inj] at hmap
    rw [← hmap]
    exact Flit.aged_when f _ _ _ _

end Sys2Proof.Machine
end

section
/-! The two memories that every step keeps canonical, as one view of the state, and what the operations on tiles do to it. -/

namespace Sys2Proof.Machine

open Sys2Proof

/-! ## The view -/

/-- The scratchpads of the tiles of a list. -/
def padsOf (tiles : Keyed Tile) : Nat → Keyed Byte := fun k => (find Tile.fresh tiles k).pad

/-- Bytes in their canonical form: a byte that is not listed reads 0. -/
def BytesCanonical (m : Keyed Byte) : Prop := Memory.wf 0 m = true

/-- Scratchpads in their canonical form. -/
def PadsCanonical (p : Nat → Keyed Byte) : Prop := ∀ k, BytesCanonical (p k)

/-- The memories of a state are canonical. -/
@[simp, reducible] def State.canonical (s : State) : Prop := BytesCanonical s.mem.dram ∧ PadsCanonical (padsOf s.tiles)

/-- Two states hold the same bytes in device memory and in every scratchpad. -/
@[simp, reducible] def State.sameMemories (s t : State) : Prop := t.mem.dram = s.mem.dram ∧ padsOf t.tiles = padsOf s.tiles

theorem State.memoriesCanonical_iff (s : State) : s.memoriesCanonical ↔ s.canonical := Iff.rfl

theorem State.canonical_of_same {s t : State} (h : s.sameMemories t) (hs : s.canonical) : t.canonical := by
  obtain ⟨hd, hp⟩ := h
  rw [State.canonical, hd, hp]
  exact hs

/-- What an answer leaves, where it leaves a state. -/
def Ends (p : State → Prop) : Answer → Prop
  | .next t => p t
  | _ => True

@[simp] theorem Ends_next (p : State → Prop) (t : State) : Ends p (.next t) ↔ p t := Iff.rfl

@[simp] theorem PadsCanonical_update {p : Nat → Keyed Byte} (t : Nat) {m : Keyed Byte} (h : PadsCanonical p) (hm : BytesCanonical m) :
    PadsCanonical (Function.update p t m) := by
  intro k
  rw [Function.update_apply]
  split
  · exact hm
  · exact h k

@[simp] theorem BytesCanonical_empty : BytesCanonical [] := rfl

@[simp] theorem PadsCanonical_empty : PadsCanonical (fun _ => []) := fun _ => rfl

@[simp] theorem BytesCanonical_ite (c : Prop) [Decidable c] (d e : Keyed Byte) :
    BytesCanonical (if c then d else e) ↔ if c then BytesCanonical d else BytesCanonical e := by
  split <;> rfl

@[simp] theorem PadsCanonical_ite (c : Prop) [Decidable c] (p q : Nat → Keyed Byte) :
    PadsCanonical (if c then p else q) ↔ if c then PadsCanonical p else PadsCanonical q := by
  split <;> rfl

/-- Tiles with empty scratchpads. -/
theorem padsOf_empty {tiles : Keyed Tile} (h : ∀ e ∈ tiles, e.2.pad = []) : padsOf tiles = fun _ => [] := by
  funext k
  unfold padsOf
  induction tiles with
  | nil => rfl
  | cons e tiles ih =>
    rw [List.forall_mem_cons] at h
    rw [find]
    split
    · exact h.1
    · exact ih h.2

@[simp] theorem padsOf_nil : padsOf [] = fun _ => [] := rfl

/-- A map of tiles that keeps the scratchpads. -/
theorem padsOf_map {tiles : Keyed Tile} {f : Nat × Tile → Nat × Tile} (hf : ∀ e, (f e).1 = e.1 ∧ (f e).2.pad = e.2.pad) :
    padsOf (tiles.map f) = padsOf tiles := by
  funext k
  unfold padsOf
  induction tiles with
  | nil => rfl
  | cons e tiles ih =>
    obtain ⟨hkey, hpad⟩ := hf e
    obtain ⟨j, x⟩ := e
    rw [List.map_cons, ← Prod.mk.eta (p := f (j, x)), hkey, find, find]
    split
    · exact hpad
    · exact ih

@[simp] theorem dram_ite (c : Prop) [Decidable c] (s t : State) : (if c then s else t).mem.dram = if c then s.mem.dram else t.mem.dram :=
  apply_ite (fun u : State => u.mem.dram) c s t

@[simp] theorem pads_ite (c : Prop) [Decidable c] (s t : State) :
    padsOf (if c then s else t).tiles = if c then padsOf s.tiles else padsOf t.tiles :=
  apply_ite (fun u : State => padsOf u.tiles) c s t

theorem ite_canonical {c : Prop} [Decidable c] {s t : State} (hs : s.canonical) (ht : t.canonical) : (if c then s else t).canonical := by
  split
  · exact hs
  · exact ht

@[simp] theorem fst_ite {α β : Type} (c : Prop) [Decidable c] (x y : α × β) : (if c then x else y).1 = if c then x.1 else y.1 :=
  apply_ite Prod.fst c x y

/-! ## Instructions -/

/-- What an instruction does when it issues leaves only states with a property. -/
def Issued.holds (p : State → Prop) : Issued → Prop
  | .done s => p s
  | .wrote s => p s
  | .branch s _ => p s
  | .stall _ => True
  | .fault s _ => p s
  | .wait s _ => p s
  | .halt s => p s

section
variable (p : State → Prop) (s : State)

@[simp] theorem Issued.holds_done : (Issued.done s).holds p ↔ p s := Iff.rfl
@[simp] theorem Issued.holds_wrote : (Issued.wrote s).holds p ↔ p s := Iff.rfl
@[simp] theorem Issued.holds_branch (pc : BitVec 32) : (Issued.branch s pc).holds p ↔ p s := Iff.rfl
@[simp] theorem Issued.holds_stall (c : StallCause) : (Issued.stall c).holds p ↔ True := Iff.rfl
@[simp] theorem Issued.holds_fault (c : BitVec 8) : (Issued.fault s c).holds p ↔ p s := Iff.rfl
@[simp] theorem Issued.holds_wait (w : WaitCond) : (Issued.wait s w).holds p ↔ p s := Iff.rfl
@[simp] theorem Issued.holds_halt : (Issued.halt s).holds p ↔ p s := Iff.rfl

end

@[simp] theorem Issued.holds_ite (p : State → Prop) (c : Prop) [Decidable c] (a b : Issued) :
    (if c then a else b).holds p ↔ if c then a.holds p else b.holds p := by
  split <;> rfl

/-! ## Tiles -/

@[simp] theorem State.tile_pad (s : State) (k : Nat) : (s.tile k).pad = padsOf s.tiles k := rfl

@[simp] theorem padsOf_insert (tiles : Keyed Tile) (t : Nat) (x : Tile) : padsOf (insert tiles t x) = Function.update (padsOf tiles) t x.pad := by
  funext k
  rw [padsOf, find_insert, Function.update_apply]
  split <;> rfl

@[simp] theorem State.setTile_pads (s : State) (t : Nat) (x : Tile) : padsOf (s.setTile t x).tiles = Function.update (padsOf s.tiles) t x.pad :=
  padsOf_insert _ _ _

@[simp] theorem State.setThread_sameMemories (s : State) (t : Nat) (n : Fin 16) (x : Thread) : s.sameMemories (s.setThread t n x) := by
  simp [State.setThread]

/-! ## Folds -/

/-- A fold of which no step changes the memories. -/
@[simp] theorem foldl_sameMemories {α : Type} (f : State → α → State) (hf : ∀ (s : State) a, s.sameMemories (f s a)) (l : List α) (s : State) :
    s.sameMemories (l.foldl f s) := by
  induction l generalizing s with
  | nil => simp
  | cons a l ih =>
    obtain ⟨hd, hp⟩ := ih (f s a)
    rw [List.foldl_cons]
    exact ⟨hd.trans (hf s a).1, hp.trans (hf s a).2⟩

/-- A fold that starts from a state with the same memories, and of which no step changes them. -/
theorem foldl_sameMemories_from {α : Type} {f : State → α → State} {s u : State} (hu : s.sameMemories u) (hf : ∀ (s : State) a, s.sameMemories (f s a))
    (l : List α) : s.sameMemories (l.foldl f u) := by
  obtain ⟨hd, hp⟩ := foldl_sameMemories f hf l u
  exact ⟨hd.trans hu.1, hp.trans hu.2⟩

@[simp] theorem foldl_canonical {α : Type} (f : State → α → State) (l : List α) (s : State) (hf : ∀ (s : State) a, s.canonical → (f s a).canonical) (hs : s.canonical) :
    (l.foldl f s).canonical := by
  induction l generalizing s with
  | nil => exact hs
  | cons a l ih => exact ih _ (hf s a hs)

/-- A fold that carries a state and something else, and of which no step changes the memories. -/
@[simp] theorem foldl_fst_sameMemories {α β : Type} (f : State × β → α → State × β) (hf : ∀ (x : State × β) a, x.1.sameMemories (f x a).1) (l : List α) (x : State × β) :
    x.1.sameMemories (l.foldl f x).1 := by
  induction l generalizing x with
  | nil => simp
  | cons a l ih =>
    obtain ⟨hd, hp⟩ := ih (f x a)
    rw [List.foldl_cons]
    exact ⟨hd.trans (hf x a).1, hp.trans (hf x a).2⟩

@[simp] theorem foldl_fst_canonical {α β : Type} (f : State × β → α → State × β) (l : List α) (x : State × β)
    (hf : ∀ (x : State × β) a, x.1.canonical → (f x a).1.canonical) (hx : x.1.canonical) : (l.foldl f x).1.canonical :=
  List.foldlRecOn (motive := fun x : State × β => x.1.canonical) l f hx fun x hx a _ => hf x a hx

end Sys2Proof.Machine
end

section
/-! Operations that the meanings share, the scratchpad and the issue of instructions: what they do to the two memories. -/

namespace Sys2Proof.Machine

open Sys2Proof

/-! ## The named operations over the state that the meanings share -/

@[simp] theorem State.signal_sameMemories (s : State) (fn : Fn) (vec : ℕ) : s.sameMemories (s.signal fn vec) := by
  simp [State.signal]

@[simp] theorem State.signalBoth_sameMemories (s : State) : s.sameMemories s.signalBoth := by
  simp [State.signalBoth]

@[simp] theorem State.flushLog_sameMemories (s : State) (forced : Bool) : s.sameMemories (s.flushLog forced) := by
  simp [State.flushLog]

@[simp] theorem State.writeFillers_sameMemories (s : State) : s.sameMemories s.writeFillers := by
  simp [State.writeFillers]

@[simp] theorem State.record_sameMemories (s : State) (typ : ℕ) (cls : LogClass) (repeats : Bool) (subject : ℕ) (detail : List Byte) :
    s.sameMemories (s.record typ cls repeats subject detail) := by
  simp [State.record]

@[simp] theorem State.reportLost_sameMemories (s : State) : s.sameMemories s.reportLost := by
  simp [State.reportLost]

theorem MemState.write_wf {m : MemState} (view : BitVec 2) (a : Nat) (bytes : List Byte) (h : BytesCanonical m.dram) :
    BytesCanonical (m.write view a bytes).dram :=
  wf_foldl_store _ _ _ h

@[simp] theorem State.devWrite_canonical (s : State) (view : BitVec 2) (a : Nat) (bytes : List Byte) (h : s.canonical) :
    (s.devWrite view a bytes).canonical :=
  ⟨MemState.write_wf view a bytes h.1, h.2⟩

@[simp] theorem State.signalRing_sameMemories (s : State) (fn : Fn) : s.sameMemories (s.signalRing fn) := by
  simp [State.signalRing]

theorem State.ringPut_canonical {s t : State} {fn : Fn} {msg : List Byte} (h : s.canonical) (ht : s.ringPut fn msg = some t) : t.canonical := by
  unfold State.ringPut at ht
  dsimp only at ht
  split at ht
  · cases ht
  · cases ht
    simp [h]

@[simp] theorem State.loseEvent_sameMemories (s : State) (fn : Fn) : s.sameMemories (s.loseEvent fn) := ⟨rfl, rfl⟩

@[simp] theorem State.putEvent_canonical (s : State) (fn : Fn) (msg : List Byte) (h : s.canonical) : (s.putEvent fn msg).canonical := by
  unfold State.putEvent
  split
  · rename_i ht
    simp [State.ringPut_canonical h ht]
  · simp [h]

@[simp] theorem State.ringEvent_canonical (s : State) (fn : Fn) (mtype : ℕ) (body : List Byte) (h : s.canonical) :
    (s.ringEvent fn mtype body).canonical := by
  simp [State.ringEvent, h]

@[simp] theorem State.reportTo_canonical (s : State) (code index : ℕ) (detail : List Byte) (fn : Fn) (h : s.canonical) :
    (s.reportTo code index detail fn).canonical := by
  simp [State.reportTo, h]

@[simp] theorem State.reportWith_canonical (s : State) (code index : ℕ) (detail : List Byte) (h : s.canonical) :
    (s.reportWith code index detail).canonical := by
  simp [State.reportWith, h]

@[simp] theorem State.report_canonical (s : State) (code index : ℕ) (h : s.canonical) : (s.report code index).canonical := by
  simp [State.report, h]

@[simp] theorem State.sramError_sameMemories (s : State) (row inst : ℕ) (e : SramErr) : s.sameMemories (s.sramError row inst e) := by
  unfold State.sramError
  split <;> simp

@[simp] theorem State.strand_canonical (s : State) (t : ℕ) (h : s.canonical) : (s.strand t).canonical := by
  simp [State.strand, h]

@[simp] theorem State.markRetire_canonical (s : State) (t cause : ℕ) (h : s.canonical) : (s.markRetire t cause).canonical := by
  simp [State.markRetire, h]

@[simp] theorem State.writeStatus_sameMemories (s : State) (q : Fin 64) : s.sameMemories (s.writeStatus q) := by
  unfold State.writeStatus
  dsimp only
  split <;> simp

@[simp] theorem State.setQueueState_sameMemories (s : State) (q : Fin 64) (st : QueueState) : s.sameMemories (s.setQueueState q st) := by
  simp [State.setQueueState]

@[simp] theorem State.queueError_sameMemories (s : State) (q : Fin 64) (cause : BitVec 4) : s.sameMemories (s.queueError q cause) := by
  unfold State.queueError
  dsimp only
  split <;> simp

@[simp] theorem State.complete_sameMemories (s : State) (q : Fin 64) (c : Completion) : s.sameMemories (s.complete q c) := by
  unfold State.complete
  dsimp only
  repeat' split
  all_goals simp

@[simp] theorem State.endLaunch_sameMemories (s : State) (l : Launch) (aborted : Bool) : s.sameMemories (s.endLaunch l aborted) :=
  ⟨rfl, padsOf_map fun e => by split <;> exact ⟨rfl, rfl⟩⟩

@[simp] theorem State.abortLaunch_sameMemories (s : State) (q : Fin 64) : s.sameMemories (s.abortLaunch q) := by
  unfold State.abortLaunch
  split <;> simp

@[simp] theorem State.orphans_sameMemories (s : State) (is : OutFor → Bool) : s.sameMemories (s.orphans is) := ⟨rfl, rfl⟩

@[simp] theorem State.cutCopy_sameMemories (s : State) : s.sameMemories s.cutCopy := ⟨rfl, rfl⟩

@[simp] theorem State.stopCopy_sameMemories (s : State) (q : Fin 64) : s.sameMemories (s.stopCopy q) := by
  simp [State.stopCopy]

@[simp] theorem State.endWork_sameMemories (s : State) (q : Fin 64) (c : Completion) : s.sameMemories (s.endWork q c) := by
  simp [State.endWork]

@[simp] theorem State.failQueue_sameMemories (s : State) (q : Fin 64) : s.sameMemories (s.failQueue q) := by
  unfold State.failQueue
  split <;> simp

@[simp] theorem State.failQueues_sameMemories (s : State) : s.sameMemories s.failQueues := by
  simp [State.failQueues]

@[simp] theorem State.dieOff_sameMemories (s : State) (d : Fin 4) : s.sameMemories (s.dieOff d) := ⟨rfl, rfl⟩

@[simp] theorem State.loseDie_canonical (s : State) (d : Fin 4) (h : s.canonical) : (s.loseDie d).canonical := by
  simp [State.loseDie, h]

@[simp] theorem State.failStack_canonical (s : State) (st : Fin 20) (h : s.canonical) : (s.failStack st).canonical := by
  simp [State.failStack, h]

@[simp] theorem State.failStackAt_canonical (s : State) (st : ℕ) (h : s.canonical) : (s.failStackAt st).canonical := by
  unfold State.failStackAt
  split <;> simp [h]

@[simp] theorem State.markRow_canonical (s : State) (row : ℕ) (h : s.canonical) : (s.markRow row).canonical := by
  simp [State.markRow, h]

@[simp] theorem State.dramCorrect_canonical (s : State) (l : ℕ) (h : s.canonical) : (s.dramCorrect l).canonical := by
  simp [State.dramCorrect, h]

@[simp] theorem State.failIfSpread_canonical (s : State) (st : ℕ) (h : s.canonical) : (s.failIfSpread st).canonical := by
  simp [State.failIfSpread, h]

@[simp] theorem State.dramUncorrectable_canonical (s : State) (l : ℕ) (h : s.canonical) : (s.dramUncorrectable l).canonical := by
  simp [State.dramUncorrectable, h]

@[simp] theorem State.dramFound_canonical (s : State) (l : ℕ) (persists : Bool) (h : s.canonical) : (s.dramFound l persists).canonical := by
  simp [State.dramFound, h]

@[simp] theorem State.dramEvent_canonical (s : State) (l : ℕ) (err : DramErr) (h : s.canonical) : (s.dramEvent l err).canonical := by
  simp [State.dramEvent, h]

@[simp] theorem State.dramCheck_canonical (s : State) (l : ℕ) (err : DramErr) (h : s.canonical) : (s.dramCheck l err).1.canonical := by
  unfold State.dramCheck
  simp [h]

@[simp] theorem State.meetErrs_canonical (s : State) (ts : List ℕ) (errs : DramErrs) (h : s.canonical) : (s.meetErrs ts errs).canonical := by
  unfold State.meetErrs
  refine foldl_canonical _ _ _ (fun s a h => ?_) (by simp [h])
  split <;> simp [h]

@[simp] theorem State.devCheck_canonical (s : State) (view : BitVec 2) (a len : ℕ) (errs : DramErrs) (h : s.canonical) :
    (s.devCheck view a len errs).1.canonical := by
  unfold State.devCheck
  refine foldl_fst_canonical _ _ _ (fun x t hx => ?_) (by simp [h])
  split
  · simp [hx]
  · exact hx

@[simp] theorem State.drainEvents_canonical (s : State) (fn : Fn) (n : Nat) (h : s.canonical) : (s.drainEvents fn n).canonical := by
  induction n generalizing s with
  | zero => exact h
  | succ n ih =>
    rw [State.drainEvents]
    dsimp only
    split
    · exact h
    · split
      · exact h
      · split
        · exact ih _ (by simp [h])
        · split
          · exact h
          · exact ih _ (by simp [h])

@[simp] theorem State.flushEvents_canonical (s : State) (fn : Fn) (h : s.canonical) : (s.flushEvents fn).canonical := by
  simp [State.flushEvents, h]

/-! ## The scratchpad -/

@[simp] theorem State.matrixCatchUp_sameMemories (s : State) (t : ℕ) : s.sameMemories (s.matrixCatchUp t) := by
  unfold State.matrixCatchUp
  dsimp only
  split <;> simp

@[simp] theorem State.padCorrect_canonical (s : State) (t w : ℕ) (h : s.canonical) : (s.padCorrect t w).canonical := by
  simp [State.padCorrect, h]

@[simp] theorem State.padUncorrectable_sameMemories (s : State) (t w : ℕ) : s.sameMemories (s.padUncorrectable t w) := by
  simp [State.padUncorrectable]

@[simp] theorem State.padEvent_canonical (s : State) (t w : ℕ) (ecc : EccErr) (h : s.canonical) : (s.padEvent t w ecc).canonical := by
  unfold State.padEvent
  split <;> simp [h]

@[simp] theorem State.padEvents_canonical (s : State) (t : ℕ) (words : List ℕ) (ecc : PadErrs) (h : s.canonical) :
    (s.padEvents t words ecc).canonical := by
  unfold State.padEvents
  refine foldl_canonical _ _ _ (fun s a h => ?_) (by simp [h])
  split <;> simp [h]

@[simp] theorem State.wordsCheck_canonical (s : State) (t : ℕ) (words : List ℕ) (ecc : PadErrs) (h : s.canonical) :
    (s.wordsCheck t words ecc).1.canonical := by
  simp [State.wordsCheck, h]

@[simp] theorem State.padCheck_canonical (s : State) (t off n : ℕ) (ecc : PadErrs) (h : s.canonical) : (s.padCheck t off n ecc).1.canonical := by
  simp [State.padCheck, h]

theorem wf_writePad {m : Keyed Byte} (off : Nat) (bytes : List Byte) (h : BytesCanonical m) : BytesCanonical (writePad m off bytes) := by
  induction bytes generalizing m off with
  | nil => exact h
  | cons b bytes ih => exact ih _ (wf_store _ _ h)

@[simp] theorem State.padWrite_canonical (s : State) (t off : Nat) (bytes : List Byte) (h : s.canonical) : (s.padWrite t off bytes).canonical := by
  have hcaught : (s.matrixCatchUp t).canonical := by simp [h]
  unfold State.padWrite
  refine foldl_canonical _ _ _ (fun s w h => by simp [h]) ?_
  simp only [State.canonical, State.setTile_mem, State.setTile_pads]
  exact ⟨hcaught.1, PadsCanonical_update t hcaught.2 (wf_writePad _ _ (hcaught.2 t))⟩

/-! ## How an instruction of a thread issues -/

@[simp] theorem State.settleThread_sameMemories (s : State) (t : ℕ) (n : Fin 16) : s.sameMemories (s.settleThread t n) := by
  unfold State.settleThread
  dsimp only
  split <;> simp

@[simp] theorem State.releaseBar_sameMemories (s : State) (t : ℕ) (n : Fin 4) : s.sameMemories (s.releaseBar t n) := by
  simp [State.releaseBar]

@[simp] theorem State.settle_sameMemories (s : State) (t : ℕ) : s.sameMemories (s.settle t) := by
  simp [State.settle]

@[simp] theorem State.threadFault_sameMemories (s : State) (t : ℕ) (n : Fin 16) (cause : BitVec 8) (pc : BitVec 32) :
    s.sameMemories (s.threadFault t n cause pc) := by
  simp [State.threadFault]

@[simp] theorem State.lateFault_sameMemories (s : State) (t : ℕ) (n : Fin 16) (cause : BitVec 8) (pc : BitVec 32) :
    s.sameMemories (s.lateFault t n cause pc) := by
  unfold State.lateFault
  split <;> simp

@[simp] theorem State.noteIssue_sameMemories (s : State) (t : ℕ) (n : Fin 16) : s.sameMemories (s.noteIssue t n) := by
  simp [State.noteIssue]

@[simp] theorem State.goto_sameMemories (s : State) (t : ℕ) (n : Fin 16) (pc : BitVec 32) : s.sameMemories (s.goto t n pc) := by
  simp [State.goto]

/-- An instruction keeps the memories canonical where what it does as it issues does. -/
theorem State.issue_canonical {s : State} (th : Thr) {body : Thread → State → Issued} (h : s.canonical)
    (hbody : ∀ x, (body x s).holds State.canonical) : (s.issue th body).canonical := by
  unfold State.issue
  dsimp only
  have hdone := hbody (s.thread th.tile th.thread)
  split
  · exact h
  · split
    · rename_i hb; rw [hb, Issued.holds] at hdone; simp [hdone]
    · rename_i hb; rw [hb, Issued.holds] at hdone; simp [hdone]
    · rename_i hb; rw [hb, Issued.holds] at hdone; simp [hdone]
    · simp [h]
    · rename_i hb; rw [hb, Issued.holds] at hdone; simp [hdone]
    · rename_i hb
      rw [hb, Issued.holds] at hdone
      split <;> simp [hdone]
    · rename_i hb; rw [hb, Issued.holds] at hdone; simp [hdone]

@[simp] theorem need_holds (p : State → Prop) (s : State) (th : Thr) (ss : List (BitVec 5)) (vs : List (Fin 16)) (k : Issued) (h : k.holds p) :
    (need s th ss vs k).holds p := by
  simp [need, h]

@[simp] theorem needFlag_holds (p : State → Prop) (s : State) (th : Thr) (f : Nat) (k : Issued) (h : k.holds p) : (needFlag s th f k).holds p := by
  simp [needFlag, h]

@[simp] theorem needMatrix_holds (p : State → Prop) (s : State) (th : Thr) (k : Issued) (h : k.holds p) : (needMatrix s th k).holds p := by
  simp [needMatrix, h]

/-! ## The Canopy -/

@[simp] theorem State.reach_sameMemories (s : State) (r : MemReq) (part : ℕ) : s.sameMemories (s.reach r part) := ⟨rfl, rfl⟩

@[simp] theorem State.moveFlit_sameMemories (s : State) (f : Flit) : s.sameMemories (s.moveFlit f) := by
  unfold State.moveFlit
  dsimp only
  repeat' split
  all_goals simp

@[simp] theorem State.flow_sameMemories (s : State) (n : Nat) : s.sameMemories (s.flow n) := by
  induction n generalizing s with
  | zero => exact ⟨rfl, rfl⟩
  | succ n ih =>
    rw [State.flow]
    split
    · simp [ih]
    · simp

@[simp] theorem State.settleFlits_sameMemories (s : State) : s.sameMemories s.settleFlits := by
  simp [State.settleFlits]

@[simp] theorem State.sendPart_sameMemories (s : State) (r : MemReq) (part : ℕ) : s.sameMemories (s.sendPart r part) := by
  simp [State.sendPart]

@[simp] theorem State.carry_sameMemories (s : State) (r : MemReq) (part : ℕ) : s.sameMemories (s.carry r part) := by
  simp [State.carry]

@[simp] theorem State.sendBack_sameMemories (s : State) (r : MemReq) (part : ℕ) : s.sameMemories (s.sendBack r part) := by
  simp [State.sendBack]

/-! ## Arithmetic flags and traps -/

@[simp] theorem State.afterRounding_sameMemories (s : State) (t : ℕ) (k : Fin 16) (r : Rounding) (n : ℕ) :
    s.sameMemories (s.afterRounding t k r n) := by
  simp [State.afterRounding]

@[simp] theorem finish_holds (s : State) (th : Thr) (trap : Bool) (f : FFlags) (result : State → Issued) (h : s.canonical)
    (hresult : ∀ s : State, s.canonical → (result s).holds State.canonical) : (finish s th trap f result).holds State.canonical := by
  have hset : (s.setThread th.tile th.thread ((s.thread th.tile th.thread).raise f)).canonical := by simp [h]
  unfold finish
  split
  · exact hset
  · exact hresult _ hset

end Sys2Proof.Machine
end

section
/-! Instructions of threads and what happens to their requests: what they do to the two memories. -/

namespace Sys2Proof.Machine

open Sys2Proof

/-! ## The scalar instructions -/

@[simp] theorem illegal_holds (s : State) (h : s.canonical) : (illegal s).holds State.canonical := by
  simp [illegal, h]

@[simp] theorem State.writeScalar_sameMemories (s : State) (th : Thr) (d : BitVec 5) (v : Word) : s.sameMemories (s.writeScalar th d v) := by
  simp [State.writeScalar]

@[simp] theorem State.writeFlag_sameMemories (s : State) (th : Thr) (k : Fin 8) (v : Bool) : s.sameMemories (s.writeFlag th k v) := by
  simp [State.writeFlag]

@[simp] theorem scalarOp_canonical (th : Thr) (d a b : BitVec 5) (md : BitVec 8) (f : Word → Word → Word) (s : State) (h : s.canonical) :
    (scalarOp th d a b md f s).canonical := by
  unfold scalarOp
  refine State.issue_canonical th h fun x => ?_
  simp [h]

@[simp] theorem scalarImm_canonical (th : Thr) (d a : BitVec 5) (imm : BitVec 13) (f : Word → Word → Word) (s : State) (h : s.canonical) :
    (scalarImm th d a imm f s).canonical := by
  unfold scalarImm
  refine State.issue_canonical th h fun x => ?_
  simp [h]

@[simp] theorem shiftResult_sameMemories (s : State) (f : Word → ℕ → Word) (v amount : Word) : s.sameMemories (shiftResult s f v amount).2 := by
  unfold shiftResult
  split <;> simp

@[simp] theorem shiftOp_canonical (th : Thr) (d a b : BitVec 5) (md : BitVec 8) (f : Word → ℕ → Word) (s : State) (h : s.canonical) :
    (shiftOp th d a b md f s).canonical := by
  unfold shiftOp
  refine State.issue_canonical th h fun x => ?_
  simp [h]

@[simp] theorem shiftImm_canonical (th : Thr) (d a : BitVec 5) (imm : BitVec 13) (f : Word → ℕ → Word) (s : State) (h : s.canonical) :
    (shiftImm th d a imm f s).canonical := by
  unfold shiftImm
  refine State.issue_canonical th h fun x => ?_
  simp [h]

@[simp] theorem compareOp_canonical (th : Thr) (c : Cond) (d a b : BitVec 5) (md : BitVec 8) (s : State) (h : s.canonical) :
    (compareOp th c d a b md s).canonical := by
  unfold compareOp
  refine State.issue_canonical th h fun x => ?_
  split <;> simp [h]

@[simp] theorem execAdd_canonical (th : Thr) (d a b : BitVec 5) (md : BitVec 8) (s : State) (h : s.canonical) :
    Ends State.canonical (execAdd th d a b md s) := by
  simp [execAdd, h]

@[simp] theorem execSub_canonical (th : Thr) (d a b : BitVec 5) (md : BitVec 8) (s : State) (h : s.canonical) :
    Ends State.canonical (execSub th d a b md s) := by
  simp [execSub, h]

@[simp] theorem execAnd_canonical (th : Thr) (d a b : BitVec 5) (md : BitVec 8) (s : State) (h : s.canonical) :
    Ends State.canonical (execAnd th d a b md s) := by
  simp [execAnd, h]

@[simp] theorem execOr_canonical (th : Thr) (d a b : BitVec 5) (md : BitVec 8) (s : State) (h : s.canonical) :
    Ends State.canonical (execOr th d a b md s) := by
  simp [execOr, h]

@[simp] theorem execXor_canonical (th : Thr) (d a b : BitVec 5) (md : BitVec 8) (s : State) (h : s.canonical) :
    Ends State.canonical (execXor th d a b md s) := by
  simp [execXor, h]

@[simp] theorem execShl_canonical (th : Thr) (d a b : BitVec 5) (md : BitVec 8) (s : State) (h : s.canonical) :
    Ends State.canonical (execShl th d a b md s) := by
  simp [execShl, h]

@[simp] theorem execShr_canonical (th : Thr) (d a b : BitVec 5) (md : BitVec 8) (s : State) (h : s.canonical) :
    Ends State.canonical (execShr th d a b md s) := by
  simp [execShr, h]

@[simp] theorem execSra_canonical (th : Thr) (d a b : BitVec 5) (md : BitVec 8) (s : State) (h : s.canonical) :
    Ends State.canonical (execSra th d a b md s) := by
  simp [execSra, h]

@[simp] theorem execMin_canonical (th : Thr) (d a b : BitVec 5) (md : BitVec 8) (s : State) (h : s.canonical) :
    Ends State.canonical (execMin th d a b md s) := by
  simp [execMin, h]

@[simp] theorem execMax_canonical (th : Thr) (d a b : BitVec 5) (md : BitVec 8) (s : State) (h : s.canonical) :
    Ends State.canonical (execMax th d a b md s) := by
  simp [execMax, h]

@[simp] theorem execMinu_canonical (th : Thr) (d a b : BitVec 5) (md : BitVec 8) (s : State) (h : s.canonical) :
    Ends State.canonical (execMinu th d a b md s) := by
  simp [execMinu, h]

@[simp] theorem execMaxu_canonical (th : Thr) (d a b : BitVec 5) (md : BitVec 8) (s : State) (h : s.canonical) :
    Ends State.canonical (execMaxu th d a b md s) := by
  simp [execMaxu, h]

@[simp] theorem execMul_canonical (th : Thr) (d a b : BitVec 5) (md : BitVec 8) (s : State) (h : s.canonical) :
    Ends State.canonical (execMul th d a b md s) := by
  simp [execMul, h]

@[simp] theorem execCmpEq_canonical (th : Thr) (d a b : BitVec 5) (md : BitVec 8) (s : State) (h : s.canonical) :
    Ends State.canonical (execCmpEq th d a b md s) := by
  simp [execCmpEq, h]

@[simp] theorem execCmpNe_canonical (th : Thr) (d a b : BitVec 5) (md : BitVec 8) (s : State) (h : s.canonical) :
    Ends State.canonical (execCmpNe th d a b md s) := by
  simp [execCmpNe, h]

@[simp] theorem execCmpLt_canonical (th : Thr) (d a b : BitVec 5) (md : BitVec 8) (s : State) (h : s.canonical) :
    Ends State.canonical (execCmpLt th d a b md s) := by
  simp [execCmpLt, h]

@[simp] theorem execCmpGe_canonical (th : Thr) (d a b : BitVec 5) (md : BitVec 8) (s : State) (h : s.canonical) :
    Ends State.canonical (execCmpGe th d a b md s) := by
  simp [execCmpGe, h]

@[simp] theorem execCmpLtu_canonical (th : Thr) (d a b : BitVec 5) (md : BitVec 8) (s : State) (h : s.canonical) :
    Ends State.canonical (execCmpLtu th d a b md s) := by
  simp [execCmpLtu, h]

@[simp] theorem execCmpGeu_canonical (th : Thr) (d a b : BitVec 5) (md : BitVec 8) (s : State) (h : s.canonical) :
    Ends State.canonical (execCmpGeu th d a b md s) := by
  simp [execCmpGeu, h]

@[simp] theorem execAddi_canonical (th : Thr) (d a : BitVec 5) (imm : BitVec 13) (s : State) (h : s.canonical) :
    Ends State.canonical (execAddi th d a imm s) := by
  simp [execAddi, h]

@[simp] theorem execAndi_canonical (th : Thr) (d a : BitVec 5) (imm : BitVec 13) (s : State) (h : s.canonical) :
    Ends State.canonical (execAndi th d a imm s) := by
  simp [execAndi, h]

@[simp] theorem execOri_canonical (th : Thr) (d a : BitVec 5) (imm : BitVec 13) (s : State) (h : s.canonical) :
    Ends State.canonical (execOri th d a imm s) := by
  simp [execOri, h]

@[simp] theorem execXori_canonical (th : Thr) (d a : BitVec 5) (imm : BitVec 13) (s : State) (h : s.canonical) :
    Ends State.canonical (execXori th d a imm s) := by
  simp [execXori, h]

@[simp] theorem execShli_canonical (th : Thr) (d a : BitVec 5) (imm : BitVec 13) (s : State) (h : s.canonical) :
    Ends State.canonical (execShli th d a imm s) := by
  simp [execShli, h]

@[simp] theorem execShri_canonical (th : Thr) (d a : BitVec 5) (imm : BitVec 13) (s : State) (h : s.canonical) :
    Ends State.canonical (execShri th d a imm s) := by
  simp [execShri, h]

@[simp] theorem execCmpi_canonical (th : Thr) (cc : Cond) (d a : BitVec 5) (imm : BitVec 13) (s : State) (h : s.canonical) :
    Ends State.canonical (execCmpi th cc d a imm s) := by
  refine State.issue_canonical th h fun x => ?_
  split <;> simp [h]

@[simp] theorem execMovz_canonical (th : Thr) (d : BitVec 5) (hw : BitVec 2) (imm : BitVec 16) (s : State) (h : s.canonical) :
    Ends State.canonical (execMovz th d hw imm s) := by
  refine State.issue_canonical th h fun x => ?_
  simp [h]

@[simp] theorem execMovk_canonical (th : Thr) (d : BitVec 5) (hw : BitVec 2) (imm : BitVec 16) (s : State) (h : s.canonical) :
    Ends State.canonical (execMovk th d hw imm s) := by
  refine State.issue_canonical th h fun x => ?_
  simp [h]

@[simp] theorem branchOn_canonical (th : Thr) (f : BitVec 3) (off : BitVec 20) (want : Bool) (s : State) (h : s.canonical) :
    (branchOn th f off want s).canonical := by
  unfold branchOn
  refine State.issue_canonical th h fun x => ?_
  simp [h]

@[simp] theorem execBrT_canonical (th : Thr) (f : BitVec 3) (off : BitVec 20) (s : State) (h : s.canonical) :
    Ends State.canonical (execBrT th f off s) := by
  simp [execBrT, h]

@[simp] theorem execBrF_canonical (th : Thr) (f : BitVec 3) (off : BitVec 20) (s : State) (h : s.canonical) :
    Ends State.canonical (execBrF th f off s) := by
  simp [execBrF, h]

@[simp] theorem execJmp_canonical (th : Thr) (off : BitVec 20) (s : State) (h : s.canonical) : Ends State.canonical (execJmp th off s) := by
  refine State.issue_canonical th h fun x => ?_
  simp [h]

@[simp] theorem execJal_canonical (th : Thr) (d : BitVec 5) (imm : BitVec 13) (s : State) (h : s.canonical) :
    Ends State.canonical (execJal th d imm s) := by
  refine State.issue_canonical th h fun x => ?_
  simp [h]

@[simp] theorem execJr_canonical (th : Thr) (a : BitVec 5) (s : State) (h : s.canonical) : Ends State.canonical (execJr th a s) := by
  refine State.issue_canonical th h fun x => ?_
  simp [h]

/-! ## Scratchpad loads, stores, gathers and scatters -/

@[simp] theorem loadPad_holds (th : Thr) (a n align : Nat) (ecc : PadErrs) (s : State) (put : State → List Byte → Issued) (h : s.canonical)
    (hput : ∀ (s : State) bytes, s.canonical → (put s bytes).holds State.canonical) : (loadPad th a n align ecc s put).holds State.canonical := by
  have hchecked : (s.padCheck th.tile a n ecc).1.canonical := by simp [h]
  unfold loadPad
  dsimp only
  repeat' split
  · exact h
  · exact hchecked
  · exact hput _ _ hchecked

@[simp] theorem storePad_holds (th : Thr) (a align : ℕ) (bytes : List Byte) (s : State) (h : s.canonical) :
    (storePad th a align bytes s).holds State.canonical := by
  unfold storePad
  simp [h]

@[simp] theorem State.writeVector_sameMemories (s : State) (th : Thr) (d : Fin 16) (v : BitVec 1024) : s.sameMemories (s.writeVector th d v) := by
  simp [State.writeVector]

@[simp] theorem execLds_canonical (th : Thr) (sz : AccSize) (view : BitVec 2) (d base : BitVec 5) (off : BitVec 12) (ecc : PadErrs) (s : State) (h : s.canonical) :
    Ends State.canonical (execLds th sz view d base off ecc s) := by
  refine State.issue_canonical th h fun x => ?_
  simp [h]

@[simp] theorem execSts_canonical (th : Thr) (sz : AccSize) (view : BitVec 2) (d base : BitVec 5) (off : BitVec 12) (s : State) (h : s.canonical) :
    Ends State.canonical (execSts th sz view d base off s) := by
  refine State.issue_canonical th h fun x => ?_
  simp [h]

@[simp] theorem execLdv_canonical (th : Thr) (view : BitVec 2) (d base : BitVec 5) (off : BitVec 12) (ecc : PadErrs) (s : State) (h : s.canonical) :
    Ends State.canonical (execLdv th view d base off ecc s) := by
  refine State.issue_canonical th h fun x => ?_
  split <;> simp [h]

@[simp] theorem execLdvH_canonical (th : Thr) (view : BitVec 2) (d base : BitVec 5) (off : BitVec 12) (ecc : PadErrs) (s : State) (h : s.canonical) :
    Ends State.canonical (execLdvH th view d base off ecc s) := by
  refine State.issue_canonical th h fun x => ?_
  simp [h]

@[simp] theorem execStv_canonical (th : Thr) (view : BitVec 2) (d base : BitVec 5) (off : BitVec 12) (s : State) (h : s.canonical) :
    Ends State.canonical (execStv th view d base off s) := by
  refine State.issue_canonical th h fun x => ?_
  split <;> simp [h]

@[simp] theorem execStvH_canonical (th : Thr) (view : BitVec 2) (d base : BitVec 5) (off : BitVec 12) (s : State) (h : s.canonical) :
    Ends State.canonical (execStvH th view d base off s) := by
  refine State.issue_canonical th h fun x => ?_
  simp [h]

@[simp] theorem execGth_canonical (th : Thr) (d a b : BitVec 5) (md : BitVec 8) (ecc : PadErrs) (s : State) (h : s.canonical) :
    Ends State.canonical (execGth th d a b md ecc s) := by
  refine State.issue_canonical th h fun x => ?_
  split <;> simp [h]

@[simp] theorem scatter_canonical (t : Nat) (f : LaneFmt) (v : BitVec 1024) (s : State) (l : List (Nat × Nat)) (h : s.canonical) :
    (scatter t f v s l).canonical := by
  induction l generalizing s with
  | nil => exact h
  | cons e l ih => exact ih _ (by simp [h])

@[simp] theorem execSct_canonical (th : Thr) (d a b : BitVec 5) (md : BitVec 8) (s : State) (h : s.canonical) :
    Ends State.canonical (execSct th d a b md s) := by
  refine State.issue_canonical th h fun x => ?_
  split <;> simp [h]

/-! ## Device-memory accesses, DMA, remote scratchpad accesses, memory-side atomics and reductions -/

@[simp] theorem State.request_sameMemories (s : State) (r : MemReq) : s.sameMemories (s.request r) := ⟨rfl, rfl⟩

@[simp] theorem send_holds (s : State) (r : MemReq) (h : s.canonical) : (send s r).holds State.canonical := by
  unfold send
  simp [h]

@[simp] theorem sendDevice_holds (s : State) (addr : AddrResult) (req : ℕ → MemReq) (h : s.canonical) :
    (sendDevice s addr req).holds State.canonical := by
  unfold sendDevice
  split <;> simp [h]

@[simp] theorem execLdd_canonical (th : Thr) (sz : AccSize) (view : BitVec 2) (d base : BitVec 5) (off : BitVec 12) (s : State) (h : s.canonical) :
    Ends State.canonical (execLdd th sz view d base off s) := by
  refine State.issue_canonical th h fun x => ?_
  simp [h]

@[simp] theorem execStd_canonical (th : Thr) (sz : AccSize) (view : BitVec 2) (d base : BitVec 5) (off : BitVec 12) (s : State) (h : s.canonical) :
    Ends State.canonical (execStd th sz view d base off s) := by
  refine State.issue_canonical th h fun x => ?_
  simp [h]

@[simp] theorem execLdvd_canonical (th : Thr) (view : BitVec 2) (d base : BitVec 5) (off : BitVec 12) (s : State) (h : s.canonical) :
    Ends State.canonical (execLdvd th view d base off s) := by
  refine State.issue_canonical th h fun x => ?_
  split <;> simp [h]

@[simp] theorem execStvd_canonical (th : Thr) (view : BitVec 2) (d base : BitVec 5) (off : BitVec 12) (s : State) (h : s.canonical) :
    Ends State.canonical (execStvd th view d base off s) := by
  refine State.issue_canonical th h fun x => ?_
  split <;> simp [h]

@[simp] theorem startDma_canonical (th : Thr) (d a b : BitVec 5) (md : BitVec 8) (op : ℕ → MemOp) (s : State) (h : s.canonical) :
    (startDma th d a b md op s).canonical := by
  unfold startDma
  refine State.issue_canonical th h fun x => ?_
  dsimp only
  repeat' split
  all_goals simp [h]

@[simp] theorem execDmaRd_canonical (th : Thr) (d a b : BitVec 5) (md : BitVec 8) (s : State) (h : s.canonical) :
    Ends State.canonical (execDmaRd th d a b md s) := by
  simp [execDmaRd, h]

@[simp] theorem execDmaWr_canonical (th : Thr) (d a b : BitVec 5) (md : BitVec 8) (s : State) (h : s.canonical) :
    Ends State.canonical (execDmaWr th d a b md s) := by
  simp [execDmaWr, h]

@[simp] theorem sendRemote_holds (th : Thr) (x : Thread) (s : State) (addr : Word) (op : MemOp) (len : ℕ) (bytes : List Byte) (dest : Dest) (h : s.canonical) :
    (sendRemote th x s addr op len bytes dest).holds State.canonical := by
  unfold sendRemote
  split <;> simp [h]

@[simp] theorem execRld_canonical (th : Thr) (d a _b : BitVec 5) (md : BitVec 8) (s : State) (h : s.canonical) :
    Ends State.canonical (execRld th d a _b md s) := by
  refine State.issue_canonical th h fun x => ?_
  simp [h]

@[simp] theorem execRst_canonical (th : Thr) (d a _b : BitVec 5) (md : BitVec 8) (s : State) (h : s.canonical) :
    Ends State.canonical (execRst th d a _b md s) := by
  refine State.issue_canonical th h fun x => ?_
  simp [h]

@[simp] theorem execRldv_canonical (th : Thr) (d a _b : BitVec 5) (md : BitVec 8) (s : State) (h : s.canonical) :
    Ends State.canonical (execRldv th d a _b md s) := by
  refine State.issue_canonical th h fun x => ?_
  split <;> simp [h]

@[simp] theorem execRstv_canonical (th : Thr) (d a _b : BitVec 5) (md : BitVec 8) (s : State) (h : s.canonical) :
    Ends State.canonical (execRstv th d a _b md s) := by
  refine State.issue_canonical th h fun x => ?_
  split <;> simp [h]

@[simp] theorem execRadd_canonical (th : Thr) (d a b : BitVec 5) (md : BitVec 8) (s : State) (h : s.canonical) :
    Ends State.canonical (execRadd th d a b md s) := by
  refine State.issue_canonical th h fun x => ?_
  simp [h]

@[simp] theorem startAtomic_canonical (th : Thr) (op : AtomicOp) (wide : Bool) (view : BitVec 2) (d base : BitVec 5) (off : BitVec 12) (s : State) (h : s.canonical) :
    (startAtomic th op wide view d base off s).canonical := by
  unfold startAtomic
  refine State.issue_canonical th h fun x => ?_
  simp [h]

@[simp] theorem execSwp_canonical (th : Thr) (wide : Bool) (view : BitVec 2) (d base : BitVec 5) (off : BitVec 12) (s : State) (h : s.canonical) :
    Ends State.canonical (execSwp th wide view d base off s) := by
  simp [execSwp, h]

@[simp] theorem execCas_canonical (th : Thr) (wide : Bool) (view : BitVec 2) (d base : BitVec 5) (off : BitVec 12) (s : State) (h : s.canonical) :
    Ends State.canonical (execCas th wide view d base off s) := by
  simp [execCas, h]

@[simp] theorem execAtomicAdd_canonical (th : Thr) (wide : Bool) (view : BitVec 2) (d base : BitVec 5) (off : BitVec 12) (s : State) (h : s.canonical) :
    Ends State.canonical (execAtomicAdd th wide view d base off s) := by
  simp [execAtomicAdd, h]

@[simp] theorem execSmin_canonical (th : Thr) (wide : Bool) (view : BitVec 2) (d base : BitVec 5) (off : BitVec 12) (s : State) (h : s.canonical) :
    Ends State.canonical (execSmin th wide view d base off s) := by
  simp [execSmin, h]

@[simp] theorem execSmax_canonical (th : Thr) (wide : Bool) (view : BitVec 2) (d base : BitVec 5) (off : BitVec 12) (s : State) (h : s.canonical) :
    Ends State.canonical (execSmax th wide view d base off s) := by
  simp [execSmax, h]

@[simp] theorem execUmin_canonical (th : Thr) (wide : Bool) (view : BitVec 2) (d base : BitVec 5) (off : BitVec 12) (s : State) (h : s.canonical) :
    Ends State.canonical (execUmin th wide view d base off s) := by
  simp [execUmin, h]

@[simp] theorem execUmax_canonical (th : Thr) (wide : Bool) (view : BitVec 2) (d base : BitVec 5) (off : BitVec 12) (s : State) (h : s.canonical) :
    Ends State.canonical (execUmax th wide view d base off s) := by
  simp [execUmax, h]

@[simp] theorem execAtomicAnd_canonical (th : Thr) (wide : Bool) (view : BitVec 2) (d base : BitVec 5) (off : BitVec 12) (s : State) (h : s.canonical) :
    Ends State.canonical (execAtomicAnd th wide view d base off s) := by
  simp [execAtomicAnd, h]

@[simp] theorem execAtomicOr_canonical (th : Thr) (wide : Bool) (view : BitVec 2) (d base : BitVec 5) (off : BitVec 12) (s : State) (h : s.canonical) :
    Ends State.canonical (execAtomicOr th wide view d base off s) := by
  simp [execAtomicOr, h]

@[simp] theorem execAtomicXor_canonical (th : Thr) (wide : Bool) (view : BitVec 2) (d base : BitVec 5) (off : BitVec 12) (s : State) (h : s.canonical) :
    Ends State.canonical (execAtomicXor th wide view d base off s) := by
  simp [execAtomicXor, h]

@[simp] theorem execFadd_canonical (th : Thr) (wide : Bool) (view : BitVec 2) (d base : BitVec 5) (off : BitVec 12) (s : State) (h : s.canonical) :
    Ends State.canonical (execFadd th wide view d base off s) := by
  unfold execFadd
  split
  · refine State.issue_canonical th h fun x => ?_
    simp [h]
  · simp [h]

@[simp] theorem startReduce_canonical (th : Thr) (f : LaneFmt) (view : BitVec 2) (d base : BitVec 5) (off : BitVec 12) (s : State) (h : s.canonical) :
    (startReduce th f view d base off s).canonical := by
  unfold startReduce
  refine State.issue_canonical th h fun x => ?_
  simp [h]

@[simp] theorem execRedF32_canonical (th : Thr) (view : BitVec 2) (d base : BitVec 5) (off : BitVec 12) (s : State) (h : s.canonical) :
    Ends State.canonical (execRedF32 th view d base off s) := by
  simp [execRedF32, h]

@[simp] theorem execRedBf16_canonical (th : Thr) (view : BitVec 2) (d base : BitVec 5) (off : BitVec 12) (s : State) (h : s.canonical) :
    Ends State.canonical (execRedBf16 th view d base off s) := by
  simp [execRedBf16, h]

@[simp] theorem execRedH16_canonical (th : Thr) (view : BitVec 2) (d base : BitVec 5) (off : BitVec 12) (s : State) (h : s.canonical) :
    Ends State.canonical (execRedH16 th view d base off s) := by
  simp [execRedH16, h]

/-! ## Fences, barriers, waits and thread control -/

@[simp] theorem execFence_canonical (th : Thr) (s : State) (h : s.canonical) : Ends State.canonical (execFence th s) := by
  refine State.issue_canonical th h fun x => ?_
  simp [h]

@[simp] theorem execBar_canonical (th : Thr) (b : BitVec 5) (md : BitVec 8) (s : State) (h : s.canonical) :
    Ends State.canonical (execBar th b md s) := by
  refine State.issue_canonical th h fun x => ?_
  split <;> simp [h]

@[simp] theorem execGbar_canonical (th : Thr) (s : State) (h : s.canonical) : Ends State.canonical (execGbar th s) := by
  refine State.issue_canonical th h fun x => ?_
  simp [h]

@[simp] theorem execWaitDma_canonical (th : Thr) (imm : BitVec 13) (s : State) (h : s.canonical) : Ends State.canonical (execWaitDma th imm s) := by
  refine State.issue_canonical th h fun x => ?_
  simp [h]

@[simp] theorem waitWord_canonical (th : Thr) (a b : BitVec 5) (md : BitVec 8) (ecc : PadErrs) (cond : ℕ → Word → WaitCond) (s : State) (h : s.canonical) :
    (waitWord th a b md ecc cond s).canonical := by
  unfold waitWord
  refine State.issue_canonical th h fun x => ?_
  simp [h]

@[simp] theorem execWaitEq_canonical (th : Thr) (a b : BitVec 5) (md : BitVec 8) (ecc : PadErrs) (s : State) (h : s.canonical) :
    Ends State.canonical (execWaitEq th a b md ecc s) := by
  simp [execWaitEq, h]

@[simp] theorem execWaitNe_canonical (th : Thr) (a b : BitVec 5) (md : BitVec 8) (ecc : PadErrs) (s : State) (h : s.canonical) :
    Ends State.canonical (execWaitNe th a b md ecc s) := by
  simp [execWaitNe, h]

@[simp] theorem execWaitGe_canonical (th : Thr) (a b : BitVec 5) (md : BitVec 8) (ecc : PadErrs) (s : State) (h : s.canonical) :
    Ends State.canonical (execWaitGe th a b md ecc s) := by
  simp [execWaitGe, h]

@[simp] theorem State.endIfDone_sameMemories (s : State) (t : ℕ) : s.sameMemories (s.endIfDone t) := by
  unfold State.endIfDone
  split <;> simp

@[simp] theorem execHalt_canonical (th : Thr) (s : State) (h : s.canonical) : Ends State.canonical (execHalt th s) := by
  have hissued := State.issue_canonical th (body := fun _ s => .halt s) h fun _ => h
  simp [execHalt, hissued]

@[simp] theorem execPrio_canonical (th : Thr) (imm : BitVec 13) (s : State) (h : s.canonical) : Ends State.canonical (execPrio th imm s) := by
  refine State.issue_canonical th h fun x => ?_
  simp [h]

@[simp] theorem execRdrng_canonical (th : Thr) (d : BitVec 5) (s : State) (h : s.canonical) : Ends State.canonical (execRdrng th d s) := by
  refine State.issue_canonical th h fun x => ?_
  simp [h]

@[simp] theorem execWrrng_canonical (th : Thr) (a : BitVec 5) (s : State) (h : s.canonical) : Ends State.canonical (execWrrng th a s) := by
  refine State.issue_canonical th h fun x => ?_
  simp [h]

@[simp] theorem execRdtime_canonical (th : Thr) (d : BitVec 5) (s : State) (h : s.canonical) : Ends State.canonical (execRdtime th d s) := by
  refine State.issue_canonical th h fun x => ?_
  simp [h]

@[simp] theorem execImgaddr_canonical (th : Thr) (d : BitVec 5) (imm : BitVec 13) (s : State) (h : s.canonical) :
    Ends State.canonical (execImgaddr th d imm s) := by
  refine State.issue_canonical th h fun x => ?_
  simp [h]

@[simp] theorem execIllegalEncoding_canonical (th : Thr) (w : BitVec 32) (s : State) (h : s.canonical) :
    Ends State.canonical (execIllegalEncoding th w s) := by
  unfold execIllegalEncoding
  split
  · refine State.issue_canonical th h fun x => ?_
    simp [h]
  · simp [h]

@[simp] theorem execStarvationPromotion_canonical (th : Thr) (s : State) (h : s.canonical) : Ends State.canonical (execStarvationPromotion th s) := by
  simp [execStarvationPromotion, h]

@[simp] theorem execIcacheRefetch_canonical (th : Thr) (again : Bool) (s : State) (h : s.canonical) :
    Ends State.canonical (execIcacheRefetch th again s) := by
  simp [execIcacheRefetch, h]

/-! ## What happens to requests and launches after their instructions have issued -/

@[simp] theorem State.setReq_sameMemories (s : State) (r : MemReq) : s.sameMemories (s.setReq r) := ⟨rfl, rfl⟩

@[simp] theorem State.dropReq_sameMemories (s : State) (id : ℕ) : s.sameMemories (s.dropReq id) := ⟨rfl, rfl⟩

@[simp] theorem State.servedPart_sameMemories (s : State) (r : MemReq) (k : ℕ) : s.sameMemories (s.servedPart r k) := ⟨rfl, rfl⟩

@[simp] theorem State.readFirst_canonical (s : State) (r : MemReq) (k l : Nat) (err : DramErr) (f : State → List Byte → State × List Byte) (h : s.canonical)
    (hf : ∀ (s : State) bytes, s.canonical → (f s bytes).1.canonical) : (s.readFirst r k l err f).canonical := by
  have hchecked : (s.dramCheck l err).1.canonical := by simp [h]
  unfold State.readFirst
  dsimp only
  split
  · simp [hchecked]
  · simp [hf _ _ hchecked]

@[simp] theorem State.storePart_canonical (s : State) (r : MemReq) (k l : ℕ) (err : DramErr) (bytes : List Byte) (h : s.canonical) :
    (s.storePart r k l err bytes).canonical := by
  simp +contextual [State.storePart, h]

@[simp] theorem State.performPart_canonical (s : State) (r : MemReq) (k l : ℕ) (err : DramErr) (ecc : PadErrs) (h : s.canonical) :
    (s.performPart r k l err ecc).canonical := by
  unfold State.performPart
  split <;> simp +contextual [h]

@[simp] theorem State.freed_sameMemories (s : State) (r : MemReq) (k : ℕ) : s.sameMemories (s.freed r k) := by
  simp [State.freed]

@[simp] theorem execChannelTransaction_canonical (id part : ℕ) (err : DramErr) (ecc : PadErrs) (s : State) (h : s.canonical) :
    Ends State.canonical (execChannelTransaction id part err ecc s) := by
  unfold execChannelTransaction
  split <;> simp [h]

@[simp] theorem State.performRemote_canonical (s : State) (r : MemReq) (home : ℕ) (ecc : PadErrs) (h : s.canonical) :
    (s.performRemote r home ecc).canonical := by
  unfold State.performRemote
  split <;> simp [h]

@[simp] theorem State.leave_sameMemories (s : State) (id : ℕ) : s.sameMemories (s.leave id) := ⟨rfl, rfl⟩

@[simp] theorem execRemoteScratchpadAccess_canonical (id : ℕ) (ecc : PadErrs) (s : State) (h : s.canonical) :
    Ends State.canonical (execRemoteScratchpadAccess id ecc s) := by
  unfold execRemoteScratchpadAccess
  dsimp only
  repeat' split
  all_goals simp [h]

@[simp] theorem State.respond_sameMemories (s : State) (r : MemReq) (st : RespStatus) (last : Bool) : s.sameMemories (s.respond r st last) := by
  unfold State.respond
  split <;> simp

@[simp] theorem State.dmaArrive_canonical (s : State) (r : MemReq) (part : ℕ) (e : PartEnd) (h : s.canonical) : (s.dmaArrive r part e).canonical := by
  unfold State.dmaArrive
  split <;> simp [h]

@[simp] theorem execResponseArrival_canonical (id part : ℕ) (s : State) (h : s.canonical) : Ends State.canonical (execResponseArrival id part s) := by
  unfold execResponseArrival
  repeat' split
  all_goals simp [h]

@[simp] theorem execRemoteRequestTimeout_canonical (id part : ℕ) (s : State) (h : s.canonical) :
    Ends State.canonical (execRemoteRequestTimeout id part s) := by
  unfold execRemoteRequestTimeout
  split <;> simp [h]

@[simp] theorem State.giveUp_sameMemories (s : State) (r : MemReq) : s.sameMemories (s.giveUp r) := by
  simp [State.giveUp]

@[simp] theorem execDmaComplete_canonical (th : Thr) (s : State) (h : s.canonical) : Ends State.canonical (execDmaComplete th s) := by
  unfold execDmaComplete
  repeat' split
  all_goals simp [h]

@[simp] theorem execRequestAging_canonical (id part : ℕ) (s : State) (h : s.canonical) : Ends State.canonical (execRequestAging id part s) := by
  simp [execRequestAging, h]

@[simp] theorem State.setLaunch_sameMemories (s : State) (l : Launch) : s.sameMemories (s.setLaunch l) := ⟨rfl, rfl⟩

@[simp] theorem execGbarArrival_canonical (t : Fin 2560) (s : State) (h : s.canonical) : Ends State.canonical (execGbarArrival t s) := by
  have hpads : ∀ (l : Launch) (tiles : Keyed Tile), padsOf (tiles.map fun e => if l.has e.1 then (e.1, e.2.releaseGbar) else e) = padsOf tiles := fun l tiles =>
    padsOf_map fun e => by split <;> exact ⟨rfl, rfl⟩
  unfold execGbarArrival
  split <;> simp [h, hpads]

@[simp] theorem execFaultReport_canonical (q : Fin 64) (s : State) (h : s.canonical) : Ends State.canonical (execFaultReport q s) := by
  unfold execFaultReport
  repeat' split
  all_goals simp [h]

@[simp] theorem execScratchpadScrub_canonical (t : Fin 2560) (g : Fin 32768) (ecc : PadErrs) (s : State) (h : s.canonical) :
    Ends State.canonical (execScratchpadScrub t g ecc s) := by
  simp [execScratchpadScrub, h]

/-! ## The stacked memory's own events and the Canopy's link errors -/

@[simp] theorem execPatrolScrubRead_canonical (sl : Fin 2560) (err : DramErr) (s : State) (h : s.canonical) :
    Ends State.canonical (execPatrolScrubRead sl err s) := by
  simp [execPatrolScrubRead, h]

@[simp] theorem execRefreshCommand_canonical (sl : Fin 2560) (bank : Fin 128) (s : State) (h : s.canonical) :
    Ends State.canonical (execRefreshCommand sl bank s) := by
  simp [execRefreshCommand, h]

@[simp] theorem State.setBand_sameMemories (s : State) (st : Fin 20) (b : ℕ) : s.sameMemories (s.setBand st b) := by
  simp [State.setBand]

@[simp] theorem execLayerSensorRead_canonical (st : Fin 20) (temps : List (Option ℤ)) (s : State) (h : s.canonical) :
    Ends State.canonical (execLayerSensorRead st temps s) := by
  unfold execLayerSensorRead
  dsimp only
  repeat' split
  all_goals simp [h]

@[simp] theorem execTrunkResistanceCheck_canonical (d : Fin 4) (uohm amps : ℕ) (s : State) (h : s.canonical) :
    Ends State.canonical (execTrunkResistanceCheck d uohm amps s) := by
  unfold execTrunkResistanceCheck
  split <;> simp [h]

@[simp] theorem State.failLink_canonical (s : State) (k : MeshLink) (h : s.canonical) : (s.failLink k).canonical := by
  simp +contextual [State.failLink, h]

@[simp] theorem execFlitCrcFailure_canonical (link : MeshLink) (again : Bool) (s : State) (h : s.canonical) :
    Ends State.canonical (execFlitCrcFailure link again s) := by
  simp [execFlitCrcFailure, h]

@[simp] theorem State.applyRetirement_canonical (s : State) (t : ℕ) (h : s.canonical) : (s.applyRetirement t).canonical := by
  simp +contextual [State.applyRetirement, h]

@[simp] theorem State.applyEdit_canonical (s : State) (t : ℕ) (h : s.canonical) : (s.applyEdit t).canonical := by
  simp +contextual [State.applyEdit, h]

@[simp] theorem MemState.foldl_applyRepair_dram (m : MemState) (l : List Nat) : (l.foldl MemState.applyRepair m).dram = m.dram := by
  induction l generalizing m with
  | nil => rfl
  | cons row l ih => exact ih _

@[simp] theorem State.applyRemap_canonical (s : State) (h : s.canonical) : s.applyRemap.canonical := by
  have hedited := foldl_canonical State.applyEdit s.retire.edits { s with retire := { s.retire with edits := [] } } (fun s t h => by simp [h]) h
  unfold State.applyRemap
  simp only [State.canonical, MemState.foldl_applyRepair_dram]
  refine foldl_canonical State.applyRetirement _ _ (fun s t h => by simp [h]) ?_
  exact hedited

end Sys2Proof.Machine
end

section
/-! Work queues, launches, descriptors and the host ports: what they do to the two memories. -/

namespace Sys2Proof.Machine

open Sys2Proof

/-! ## Work queues -/

@[simp] theorem State.refuseWrite_sameMemories (s : State) (fn : Fn) : s.sameMemories (s.refuseWrite fn) := by
  simp [State.refuseWrite]

@[simp] theorem State.hqEvent_sameMemories (s : State) (fn : Fn) (n : ℕ) : s.sameMemories (s.hqEvent fn n) := ⟨rfl, rfl⟩

@[simp] theorem State.resetCfg_sameMemories (s : State) (q : Fin 64) : s.sameMemories (s.resetCfg q) := by
  simp [State.resetCfg]

@[simp] theorem execDoorbellPoll_canonical (q : Fin 64) (s : State) (h : s.canonical) : Ends State.canonical (execDoorbellPoll q s) := by
  unfold execDoorbellPoll
  dsimp only
  split <;> simp [h]

@[simp] theorem State.tryFetch_sameMemories (s : State) (q : Fin 64) : s.sameMemories (s.tryFetch q) := by
  unfold State.tryFetch
  split <;> simp

@[simp] theorem State.fetchAll_sameMemories (s : State) : s.sameMemories s.fetchAll := by
  simp [State.fetchAll]

@[simp] theorem State.readFails_sameMemories (s : State) (q : Fin 64) : s.sameMemories (s.readFails q) := by
  unfold State.readFails
  split <;> simp

@[simp] theorem execDoorbellReadComplete_canonical (q : Fin 64) (word : Option (BitVec 64)) (s : State) (h : s.canonical) :
    Ends State.canonical (execDoorbellReadComplete q word s) := by
  unfold execDoorbellReadComplete
  split <;> simp [h]

@[simp] theorem State.statusAfterFetch_sameMemories (s : State) (q : Fin 64) : s.sameMemories (s.statusAfterFetch q) := by
  simp [State.statusAfterFetch]

@[simp] theorem execDescriptorReadComplete_canonical (q : Fin 64) (descs : Option (List (BitVec 512))) (sram : SramErr) (s : State) (h : s.canonical) :
    Ends State.canonical (execDescriptorReadComplete q descs sram s) := by
  unfold execDescriptorReadComplete
  split <;> simp [h]

@[simp] theorem execStatusWordWrite_canonical (q : Fin 64) (s : State) (h : s.canonical) : Ends State.canonical (execStatusWordWrite q s) := by
  simp [execStatusWordWrite, h]

@[simp] theorem State.wakeQueue_sameMemories (s : State) (fn : Fn) (value : ℕ) : s.sameMemories (s.wakeQueue fn value) := by
  unfold State.wakeQueue
  dsimp only
  repeat' split
  all_goals simp

@[simp] theorem execHqWake_canonical (fn : Fn) (value : BitVec 32) (s : State) (h : s.canonical) : Ends State.canonical (execHqWake fn value s) := by
  simp [execHqWake, h]

@[simp] theorem State.settleQueue_sameMemories (s : State) (q : Fin 64) : s.sameMemories (s.settleQueue q) := by
  unfold State.settleQueue
  dsimp only
  repeat' split
  all_goals simp

@[simp] theorem State.writeRecord_sameMemories (s : State) (q : Fin 64) (d : InFlight) (rest : List InFlight) (c : Completion) :
    s.sameMemories (s.writeRecord q d rest c) := by
  unfold State.writeRecord
  dsimp only
  split <;> simp

@[simp] theorem execCompletionRecordWrite_canonical (q : Fin 64) (s : State) (h : s.canonical) :
    Ends State.canonical (execCompletionRecordWrite q s) := by
  unfold execCompletionRecordWrite
  repeat' split
  all_goals simp [h]

@[simp] theorem State.forceQueue_sameMemories (s : State) (q : Fin 64) : s.sameMemories (s.forceQueue q) := by
  simp [State.forceQueue]

@[simp] theorem State.enableQueue_sameMemories (s : State) (fn : Fn) (q : Fin 64) : s.sameMemories (s.enableQueue fn q) := by
  simp [State.enableQueue]

@[simp] theorem State.drainQueue_sameMemories (s : State) (q : Fin 64) : s.sameMemories (s.drainQueue q) := by
  unfold State.drainQueue
  split <;> simp

@[simp] theorem State.forceCommand_sameMemories (s : State) (q : Fin 64) : s.sameMemories (s.forceCommand q) := by
  unfold State.forceCommand
  split <;> simp

@[simp] theorem State.queueCommand_sameMemories (s : State) (fn : Fn) (q : Fin 64) (cmd : ℕ) : s.sameMemories (s.queueCommand fn q cmd) := by
  simp [State.queueCommand]

@[simp] theorem execQueueEnable_canonical (fn : Fn) (q : Fin 64) (s : State) (h : s.canonical) : Ends State.canonical (execQueueEnable fn q s) := by
  simp [execQueueEnable, h]

@[simp] theorem execQueueDrain_canonical (fn : Fn) (q : Fin 64) (s : State) (h : s.canonical) : Ends State.canonical (execQueueDrain fn q s) := by
  simp [execQueueDrain, h]

@[simp] theorem execQueueForce_canonical (fn : Fn) (q : Fin 64) (s : State) (h : s.canonical) : Ends State.canonical (execQueueForce fn q s) := by
  simp [execQueueForce, h]

@[simp] theorem State.discardWork_sameMemories (s : State) (q : Fin 64) : s.sameMemories (s.discardWork q) := by
  simp [State.discardWork]

@[simp] theorem State.ownResult_sameMemories (s : State) (q : Fin 64) (done : Bool) : s.sameMemories (s.ownResult q done) := ⟨rfl, rfl⟩

@[simp] theorem State.releaseQueue_sameMemories (s : State) (fn : Fn) (q : Fin 64) : s.sameMemories (s.releaseQueue fn q) := by
  simp [State.releaseQueue]

@[simp] theorem State.claimQueue_sameMemories (s : State) (fn : Fn) (q : Fin 64) : s.sameMemories (s.claimQueue fn q) := by
  simp [State.claimQueue]

@[simp] theorem State.takeQueue_sameMemories (s : State) (fn : Fn) (q : Fin 64) : s.sameMemories (s.takeQueue fn q) := by
  simp [State.takeQueue]

@[simp] theorem State.ownCommand_sameMemories (s : State) (fn : Fn) (q : Fin 64) (cmd : ℕ) : s.sameMemories (s.ownCommand fn q cmd) := by
  simp [State.ownCommand]

@[simp] theorem execQueueClaim_canonical (fn : Fn) (q : Fin 64) (s : State) (h : s.canonical) : Ends State.canonical (execQueueClaim fn q s) := by
  simp [execQueueClaim, h]

@[simp] theorem execQueueRelease_canonical (fn : Fn) (q : Fin 64) (s : State) (h : s.canonical) : Ends State.canonical (execQueueRelease fn q s) := by
  simp [execQueueRelease, h]

@[simp] theorem execQueueTakeover_canonical (fn : Fn) (q : Fin 64) (s : State) (h : s.canonical) :
    Ends State.canonical (execQueueTakeover fn q s) := by
  simp [execQueueTakeover, h]

@[simp] theorem State.requestPause_sameMemories (s : State) (fn : Fn) : s.sameMemories (s.requestPause fn) := by
  simp [State.requestPause]

@[simp] theorem execMaintenancePause_canonical (fn : Fn) (s : State) (h : s.canonical) : Ends State.canonical (execMaintenancePause fn s) := by
  simp [execMaintenancePause, h]

@[simp] theorem execRemapApply_canonical (s : State) (h : s.canonical) : Ends State.canonical (execRemapApply s) := by
  simp [execRemapApply, h]

/-! ## LAUNCH -/

@[simp] theorem State.startFront_sameMemories (s : State) (q : Fin 64) : s.sameMemories (s.startFront q) := by
  unfold State.startFront
  dsimp only
  split <;> simp

@[simp] theorem State.admitLaunch_canonical (s : State) (q : Fin 64) (d : BitVec 512) (errs : DramErrs) (h : s.canonical) :
    (s.admitLaunch q d errs).canonical := by
  have hchecked : ∀ v a, ((s.visit v a 64).devCheck v a 64 errs).1.canonical := fun v a => by simp [h]
  unfold State.admitLaunch
  simp [h, hchecked]

@[simp] theorem execLaunch_canonical (q : Fin 64) (errs : DramErrs) (s : State) (h : s.canonical) : Ends State.canonical (execLaunch q errs s) := by
  unfold execLaunch
  repeat' split
  all_goals simp [h]

@[simp] theorem State.prepareTile_canonical (s : State) (l : Launch) (args : List Byte) (t : ℕ) (h : s.canonical) :
    (s.prepareTile l args t).canonical := by
  unfold State.prepareTile
  split <;> simp [h]

@[simp] theorem State.argBlock_canonical (s : State) (l : Launch) (errs : DramErrs) (h : s.canonical) : (s.argBlock l errs).1.canonical := by
  simp [State.argBlock, h]

@[simp] theorem execLaunchPrepare_canonical (q : Fin 64) (errs : DramErrs) (s : State) (h : s.canonical) :
    Ends State.canonical (execLaunchPrepare q errs s) := by
  unfold execLaunchPrepare
  split <;> simp +contextual [h]

@[simp] theorem Tile.start_pad (x : Tile) (mask : BitVec 16) : (x.start mask).pad = x.pad := rfl

@[simp] theorem execLaunchThreadsStart_canonical (q : Fin 64) (s : State) (h : s.canonical) : Ends State.canonical (execLaunchThreadsStart q s) := by
  unfold execLaunchThreadsStart
  split
  · exact h
  · split
    · simp [h]
    · exact foldl_canonical _ _ _ (fun s i h => by simp [h]) h

@[simp] theorem execLaunchTimeout_canonical (q : Fin 64) (s : State) (h : s.canonical) : Ends State.canonical (execLaunchTimeout q s) := by
  unfold execLaunchTimeout
  repeat' split
  all_goals simp [h]

/-! ## NOP, COPY, WAIT, HINT and job MARK descriptors, and descriptors of no listed type -/

@[simp] theorem execNop_canonical (q : Fin 64) (s : State) (h : s.canonical) : Ends State.canonical (execNop q s) := by
  unfold execNop
  repeat' split
  all_goals simp [h]

@[simp] theorem execInvalidDescriptor_canonical (q : Fin 64) (s : State) (h : s.canonical) : Ends State.canonical (execInvalidDescriptor q s) := by
  unfold execInvalidDescriptor
  repeat' split
  all_goals simp [h]

@[simp] theorem execCopy_canonical (q : Fin 64) (s : State) (h : s.canonical) : Ends State.canonical (execCopy q s) := by
  unfold execCopy
  dsimp only
  repeat' split
  all_goals simp [h]

@[simp] theorem State.endCopy_canonical (s : State) (q : Fin 64) (host : Option ℕ) (bad : Option (ℕ × ℕ)) (h : s.canonical) :
    (s.endCopy q host bad).canonical := by
  unfold State.endCopy
  split <;> simp [h]

@[simp] theorem State.copyBytes_sameMemories (s : State) (v : BitVec 2) (src dst n : ℕ) : s.sameMemories (s.copyBytes v src dst n).1 := by
  unfold State.copyBytes
  split <;> simp

@[simp] theorem execCopyComplete_canonical (q : Fin 64) (data : List (BitVec 8)) (failedAt : Option ℕ) (errs : DramErrs) (s : State) (h : s.canonical) :
    Ends State.canonical (execCopyComplete q data failedAt errs s) := by
  unfold execCopyComplete
  dsimp only
  split
  · exact h
  · split
    · exact h
    · split
      · exact h
      · generalize hmet : State.meetErrs _ _ _ = t
        have ht : t.canonical := by
          rw [← hmet]
          refine State.meetErrs_canonical _ _ _ ?_
          repeat' split
          all_goals simp [h]
        repeat' split
        all_goals simp [ht]

@[simp] theorem execHostCompletionTimeout_canonical (q : Fin 64) (s : State) (h : s.canonical) :
    Ends State.canonical (execHostCompletionTimeout q s) := by
  unfold execHostCompletionTimeout
  split <;> simp [h]

@[simp] theorem execWait_canonical (q : Fin 64) (s : State) (h : s.canonical) : Ends State.canonical (execWait q s) := by
  unfold execWait
  dsimp only
  repeat' split
  all_goals simp [h]

@[simp] theorem execWaitTimeout_canonical (q : Fin 64) (s : State) (h : s.canonical) : Ends State.canonical (execWaitTimeout q s) := by
  unfold execWaitTimeout
  split <;> simp [h]

@[simp] theorem execMarkJobStart_canonical (q : Fin 64) (s : State) (h : s.canonical) : Ends State.canonical (execMarkJobStart q s) := by
  unfold execMarkJobStart
  repeat' split
  all_goals simp [h]

@[simp] theorem execMarkJobEnd_canonical (q : Fin 64) (s : State) (h : s.canonical) : Ends State.canonical (execMarkJobEnd q s) := by
  unfold execMarkJobEnd
  dsimp only
  repeat' split
  all_goals simp [h]

/-! ## The two host ports -/

@[simp] theorem execConfigurationRequest_canonical (fn : Fn) (req : CfgReq) (s : State) (h : s.canonical) :
    Ends State.canonical (execConfigurationRequest fn req s) := by
  simp [execConfigurationRequest, h]

@[simp] theorem State.loseQueue_sameMemories (s : State) (fn : Fn) (cause : BitVec 4) (q : Fin 64) : s.sameMemories (s.loseQueue fn cause q) := by
  simp [State.loseQueue]

@[simp] theorem State.loseQueues_sameMemories (s : State) (fn : Fn) (cause : BitVec 4) : s.sameMemories (s.loseQueues fn cause) := by
  simp [State.loseQueues]

@[simp] theorem State.clearQueues_sameMemories (s : State) (fn : Fn) : s.sameMemories (s.clearQueues fn) := by
  simp [State.clearQueues]

@[simp] theorem State.resetFunction_sameMemories (s : State) (fn : Fn) : s.sameMemories (s.resetFunction fn) := ⟨rfl, rfl⟩

@[simp] theorem State.linkDown_sameMemories (s : State) (fn : Fn) : s.sameMemories (s.linkDown fn) := by
  simp [State.linkDown]

@[simp] theorem execPerstAssert_canonical (fn : Fn) (s : State) (h : s.canonical) : Ends State.canonical (execPerstAssert fn s) := by
  simp [execPerstAssert, h]

@[simp] theorem execPerstDeassert_canonical (fn : Fn) (s : State) (h : s.canonical) : Ends State.canonical (execPerstDeassert fn s) := by
  simp [execPerstDeassert, h]

@[simp] theorem execDlUp_canonical (fn : Fn) (link : PortLink) (s : State) (h : s.canonical) : Ends State.canonical (execDlUp fn link s) := by
  simp [execDlUp, h]

@[simp] theorem execDlDown_canonical (fn : Fn) (s : State) (h : s.canonical) : Ends State.canonical (execDlDown fn s) := by
  simp [execDlDown, h]

@[simp] theorem execBusMasterEnableClear_canonical (fn : Fn) (s : State) (h : s.canonical) :
    Ends State.canonical (execBusMasterEnableClear fn s) := by
  simp [execBusMasterEnableClear, h]

@[simp] theorem State.dropJobs_sameMemories (s : State) (fn : Fn) : s.sameMemories (s.dropJobs fn) := ⟨rfl, rfl⟩

@[simp] theorem execFunctionLevelReset_canonical (fn : Fn) (s : State) (h : s.canonical) : Ends State.canonical (execFunctionLevelReset fn s) := by
  simp [execFunctionLevelReset, h]

@[simp] theorem execD3hotEntry_canonical (fn : Fn) (s : State) (h : s.canonical) : Ends State.canonical (execD3hotEntry fn s) := by
  simp [execD3hotEntry, h]

@[simp] theorem State.storeChecked_canonical (s : State) (v : BitVec 2) (a : ℕ) (bytes : List Byte) (errs : DramErrs) (h : s.canonical) :
    (s.storeChecked v a bytes errs).1.canonical := by
  unfold State.storeChecked
  refine foldl_canonical _ _ _ (fun s a h => ?_) (by simp [h])
  simp [h]

@[simp] theorem State.performIn_canonical (s : State) (fn : Fn) (l : List HostWrite) (h : s.canonical) : (s.performIn fn l).canonical := by
  induction l generalizing s with
  | nil => simp [State.performIn, h]
  | cons w l ih =>
    rw [State.performIn]
    split
    · exact ih _ (by simp [h])
    · simp [h]

@[simp] theorem State.performWrites_canonical (s : State) (fn : Fn) (h : s.canonical) : (s.performWrites fn).canonical := by
  simp [State.performWrites, h]

@[simp] theorem execBar2Read_canonical (fn : Fn) (off len : ℕ) (errs : DramErrs) (s : State) (h : s.canonical) :
    Ends State.canonical (execBar2Read fn off len errs s) := by
  simp [execBar2Read, h]

@[simp] theorem execBar2Write_canonical (fn : Fn) (off : ℕ) (data : List (BitVec 8)) (errs : DramErrs) (s : State) (h : s.canonical) :
    Ends State.canonical (execBar2Write fn off data errs s) := by
  simp [execBar2Write, h]

@[simp] theorem State.setMasks_sameMemories (s : State) (fn : Fn) (mask : BitVec 128) (table : Bool) : s.sameMemories (s.setMasks fn mask table) := by
  simp [State.setMasks]

@[simp] theorem State.msixMasked_sameMemories (s : State) (fn : Fn) (vec : Option (Fin 128)) (on : Bool) :
    s.sameMemories (s.msixMasked fn vec on) := by
  unfold State.msixMasked
  split <;> simp

@[simp] theorem execMsixMask_canonical (fn : Fn) (vec : Option (Fin 128)) (s : State) (h : s.canonical) :
    Ends State.canonical (execMsixMask fn vec s) := by
  simp [execMsixMask, h]

@[simp] theorem execMsixUnmask_canonical (fn : Fn) (vec : Option (Fin 128)) (s : State) (h : s.canonical) :
    Ends State.canonical (execMsixUnmask fn vec s) := by
  simp [execMsixUnmask, h]

@[simp] theorem State.writeMsix_sameMemories (s : State) (fn : Fn) (off v : ℕ) : s.sameMemories (s.writeMsix fn off v) := by
  simp [State.writeMsix]

end Sys2Proof.Machine
end

section
/-! What links send, the power system's shared operations, the console's prints and the loop engine: what they do to the two memories. -/

namespace Sys2Proof.Machine

open Sys2Proof

/-! ## What a Berux port sends -/

@[simp] theorem State.sendFlit_sameMemories (s : State) (p : Fin 20) (ftype : BitVec 8) (vc : ℕ) (seq : BitVec 12) (payload : List Byte) :
    s.sameMemories (s.sendFlit p ftype vc seq payload) := ⟨rfl, rfl⟩

@[simp] theorem State.sendIdle_sameMemories (s : State) (p : Fin 20) : s.sameMemories (s.sendIdle p) := ⟨rfl, rfl⟩

@[simp] theorem State.replayAll_sameMemories (s : State) (p : Fin 20) : s.sameMemories (s.replayAll p) := by
  simp [State.replayAll]

@[simp] theorem State.sendData_sameMemories (s : State) (p : Fin 20) (v : Fin 6) : s.sameMemories (s.sendData p v) := ⟨rfl, rfl⟩

@[simp] theorem State.sendMessage_sameMemories (s : State) (p : Fin 20) (m : List Byte) (rest : List (List Byte)) :
    s.sameMemories (s.sendMessage p m rest) := ⟨rfl, rfl⟩

theorem State.pumpOne_sameMemories {s t : State} {p : Fin 20} (h : s.pumpOne p = some t) : s.sameMemories t := by
  unfold State.pumpOne at h
  dsimp only at h
  repeat' split at h
  all_goals cases h
  all_goals simp

@[simp] theorem State.pumpN_sameMemories (s : State) (p : Fin 20) (n : Nat) : s.sameMemories (s.pumpN p n) := by
  induction n generalizing s with
  | zero => exact ⟨rfl, rfl⟩
  | succ n ih =>
    rw [State.pumpN]
    split
    · rename_i t ht
      obtain ⟨hd, hp⟩ := State.pumpOne_sameMemories ht
      simp [ih, hd, hp]
    · simp

@[simp] theorem State.pump_sameMemories (s : State) (p : Fin 20) : s.sameMemories (s.pump p) := by
  simp [State.pump]

@[simp] theorem State.pumpOrIdle_sameMemories (s : State) (p : Fin 20) : s.sameMemories (s.pumpOrIdle p) := by
  simp [State.pumpOrIdle]

@[simp] theorem State.sendTrans_sameMemories (s : State) (p : Fin 20) (v : Fin 6) (bytes : List Byte) : s.sameMemories (s.sendTrans p v bytes) := by
  simp [State.sendTrans]

@[simp] theorem State.sendSide_sameMemories (s : State) (p : Fin 20) (m : List Byte) : s.sameMemories (s.sendSide p m) := by
  simp [State.sendSide]

@[simp] theorem State.freeSlots_sameMemories (s : State) (p : Fin 20) (v : Fin 6) (n : ℕ) : s.sameMemories (s.freeSlots p v n) := ⟨rfl, rfl⟩

@[simp] theorem State.addrError_sameMemories (s : State) (p : Fin 20) : s.sameMemories (s.addrError p) := ⟨rfl, rfl⟩

@[simp] theorem State.answer_sameMemories (s : State) (p : Fin 20) (req : List Byte) (status : ℕ) (data : List Byte) :
    s.sameMemories (s.answer p req status data) := by
  unfold State.answer
  split <;> simp

@[simp] theorem State.message_sameMemories (s : State) (mtype src dest : ℕ) (body : List Byte) :
    s.sameMemories (s.message mtype src dest body).1 := ⟨rfl, rfl⟩

@[simp] theorem State.sendTo_sameMemories (s : State) (mtype dest : ℕ) (body : List Byte) : s.sameMemories (s.sendTo mtype dest body) := by
  unfold State.sendTo
  split <;> simp

/-! ## What several parts of the power system do -/

@[simp] theorem State.setPins_sameMemories (s : State) (d : Fin 4) (p : Fin 8) : s.sameMemories (s.setPins d p) := by
  simp [State.setPins]

@[simp] theorem State.askPins_sameMemories (s : State) (d : Fin 4) (p : Fin 8) : s.sameMemories (s.askPins d p) := by
  unfold State.askPins
  dsimp only
  repeat' split
  all_goals simp

@[simp] theorem State.setDiv_sameMemories (s : State) (d : Fin 4) (n : ℕ) : s.sameMemories (s.setDiv d n) := by
  simp [State.setDiv]

@[simp] theorem State.lowerDie_sameMemories (s : State) (d : Fin 4) (p : Fin 8) : s.sameMemories (s.lowerDie d p) := by
  simp [State.lowerDie]

@[simp] theorem State.isolate_sameMemories (s : State) : s.sameMemories s.isolate := ⟨rfl, rfl⟩

@[simp] theorem State.limitDie_sameMemories (s : State) (d : Fin 4) (code : ℕ) : s.sameMemories (s.limitDie d code) := by
  simp [State.limitDie]

@[simp] theorem State.unlimit_sameMemories (s : State) (d : Fin 4) (code : ℕ) : s.sameMemories (s.unlimit d code) := by
  simp [State.unlimit]

@[simp] theorem State.enterHold_canonical (s : State) (h : s.canonical) : s.enterHold.canonical := by
  simp [State.enterHold, h]

@[simp] theorem State.beginQuiesce_canonical (s : State) (cause : StopCause) (h : s.canonical) : (s.beginQuiesce cause).canonical := by
  simp [State.beginQuiesce, h]

/-! ## Crown's ceilings, admission to an operating point, and caps -/

@[simp] theorem State.capNotice_sameMemories (s : State) (points : Fin 4 → Fin 8) (cause : ℕ) (late : Bool) :
    s.sameMemories (s.capNotice points cause late) := by
  simp [State.capNotice]

@[simp] theorem State.applyCaps_sameMemories (s : State) (caps : Vector (Option (Fin 8)) 4) (cause : ℕ) :
    s.sameMemories (s.applyCaps caps cause) := by
  unfold State.applyCaps
  refine foldl_sameMemories_from (by simp) (fun s a => ?_) _
  split <;> simp

@[simp] theorem State.decideCaps_sameMemories (s : State) (caps : Vector (Option (Fin 8)) 4) (cause : ℕ) :
    s.sameMemories (s.decideCaps caps cause) := by
  simp [State.decideCaps]

@[simp] theorem State.reviewCaps_sameMemories (s : State) : s.sameMemories s.reviewCaps := by
  simp [State.reviewCaps]

@[simp] theorem State.raiseTo_sameMemories (s : State) (d : Fin 4) (t : Fin 8) (sofar : ℚ × ℚ) : s.sameMemories (s.raiseTo d t sofar).1 := by
  unfold State.raiseTo
  dsimp only
  split <;> simp

@[simp] theorem State.raiseDies_sameMemories (s : State) : s.sameMemories s.raiseDies := by
  unfold State.raiseDies
  refine List.foldlRecOn (motive := fun x : State × (ℚ × ℚ) => s.sameMemories x.1) _ _ ⟨rfl, rfl⟩ fun x hx d _ => ?_
  simp [hx.1, hx.2]

@[simp] theorem State.liftCaps_sameMemories (s : State) : s.sameMemories s.liftCaps := by
  simp [State.liftCaps]

@[simp] theorem State.evaluate_sameMemories (s : State) : s.sameMemories s.evaluate := by
  simp [State.evaluate]

/-! ## What the Kenpex console prints, and how a command that runs over several steps ends -/

@[simp] theorem State.say_sameMemories (s : State) (t : String) : s.sameMemories (s.say t) := ⟨rfl, rfl⟩

@[simp] theorem State.sayAll_sameMemories (s : State) (l : List String) : s.sameMemories (s.sayAll l) := by
  simp [State.sayAll]

@[simp] theorem State.reply_sameMemories (s : State) (n : ℕ) : s.sameMemories (s.reply n) := ⟨rfl, rfl⟩

@[simp] theorem State.endCommand_sameMemories (s : State) (n : ℕ) : s.sameMemories (s.endCommand n) := ⟨rfl, rfl⟩

@[simp] theorem State.verdicts_sameMemories (s : State) (parts : List (Bool × String)) : s.sameMemories (s.verdicts parts) := by
  simp [State.verdicts]

@[simp] theorem State.endTest_sameMemories (s : State) (parts : List (Bool × String)) : s.sameMemories (s.endTest parts) := by
  simp [State.endTest]

@[simp] theorem State.printLines_sameMemories (s : State) (code : ℕ) (byHwd : Bool) (lines : List String) (err : ℕ) :
    s.sameMemories (s.printLines code byHwd lines err) := ⟨rfl, rfl⟩

@[simp] theorem State.printParts_sameMemories (s : State) (code : ℕ) (byHwd : Bool) (parts : List (Bool × String)) :
    s.sameMemories (s.printParts code byHwd parts) := ⟨rfl, rfl⟩

@[simp] theorem State.crownGone_sameMemories (s : State) : s.sameMemories s.crownGone := by
  simp [State.crownGone]

/-! ## The loop engine -/

@[simp] theorem State.slotCommand_sameMemories (s : State) (n : Fin 4) (m : SlotMode) : s.sameMemories (s.slotCommand n m) := by
  simp [State.slotCommand]

@[simp] theorem execSlotOff_canonical (n : Fin 4) (s : State) (h : s.canonical) : Ends State.canonical (execSlotOff n s) := by
  simp [execSlotOff, h]

@[simp] theorem execSlotManual_canonical (n : Fin 4) (s : State) (h : s.canonical) : Ends State.canonical (execSlotManual n s) := by
  simp [execSlotManual, h]

@[simp] theorem execSlotAuto_canonical (n : Fin 4) (s : State) (h : s.canonical) : Ends State.canonical (execSlotAuto n s) := by
  simp [execSlotAuto, h]

@[simp] theorem execSlotScheduled_canonical (n : Fin 4) (s : State) (h : s.canonical) : Ends State.canonical (execSlotScheduled n s) := by
  simp [execSlotScheduled, h]

@[simp] theorem State.slotFault_sameMemories (s : State) (n : Fin 4) (channel : ℕ) : s.sameMemories (s.slotFault n channel) := by
  simp [State.slotFault]

@[simp] theorem State.commandCurrent_sameMemories (s : State) (cmd : ℚ) : s.sameMemories (s.commandCurrent cmd) := by
  simp [State.commandCurrent]

@[simp] theorem State.noteOut_sameMemories (s : State) (cmd bal : ℚ) : s.sameMemories (s.noteOut cmd bal) := ⟨rfl, rfl⟩

@[simp] theorem State.routeOut_sameMemories (s : State) (u : ℚ) : s.sameMemories (s.routeOut u) := by
  simp [State.routeOut]

@[simp] theorem State.addEnergy_sameMemories (s : State) (i : EngineInputs) : s.sameMemories (s.addEnergy i) := ⟨rfl, rfl⟩

@[simp] theorem State.noteEnergy_sameMemories (s : State) (e : ℚ) : s.sameMemories (s.noteEnergy e) := ⟨rfl, rfl⟩

@[simp] theorem State.noteSaturation_sameMemories (s : State) (n : Fin 4) (clamped : Bool) : s.sameMemories (s.noteSaturation n clamped) := by
  simp [State.noteSaturation]

@[simp] theorem State.injStep_sameMemories (s : State) (n : Fin 4) : s.sameMemories (s.injStep n) := by
  unfold State.injStep
  split <;> simp

@[simp] theorem State.leaveInjection_sameMemories (s : State) (n : Fin 4) : s.sameMemories (s.leaveInjection n) := by
  unfold State.leaveInjection
  split <;> simp

@[simp] theorem State.afterIssue_sameMemories (s : State) (n : Fin 4) (i : EngineInputs) (rs : List (Fin 4 × LawResult)) :
    s.sameMemories (s.afterIssue n i rs) := by
  unfold State.afterIssue
  split <;> simp

@[simp] theorem State.issueSafe_sameMemories (s : State) (n : Fin 4) (i : EngineInputs) : s.sameMemories (s.issueSafe n i) := by
  simp [State.issueSafe]

@[simp] theorem State.compute_sameMemories (s : State) (n : Fin 4) (i : EngineInputs) : s.sameMemories (s.compute n i) := by
  simp [State.compute]

@[simp] theorem State.noteBus_sameMemories (s : State) (i : EngineInputs) : s.sameMemories (s.noteBus i) := ⟨rfl, rfl⟩

@[simp] theorem State.drainStep_sameMemories (s : State) (i : EngineInputs) : s.sameMemories (s.drainStep i) := by
  unfold State.drainStep
  split <;> simp

@[simp] theorem State.slotSample_sameMemories (s : State) (n : Fin 4) (inp : EngineInputs) : s.sameMemories (s.slotSample n inp) := by
  unfold State.slotSample
  dsimp only
  repeat' split
  all_goals simp

@[simp] theorem State.reviewFall_sameMemories (s old : State) : s.sameMemories (s.reviewFall old) := by
  simp [State.reviewFall]

@[simp] theorem State.setPhase_sameMemories (s : State) (ph : EnginePhase) : s.sameMemories (s.setPhase ph) := by
  simp [State.setPhase]

@[simp] theorem State.endLoopTest_sameMemories (s : State) : s.sameMemories s.endLoopTest := by
  unfold State.endLoopTest
  split <;> simp

@[simp] theorem execSlotSample_canonical (n : Fin 4) (inp : EngineInputs) (s : State) (h : s.canonical) :
    Ends State.canonical (execSlotSample n inp s) := by
  simp [execSlotSample, h]

@[simp] theorem State.commitTuning_sameMemories (s : State) (n set : Fin 4) (v : Tuning) : s.sameMemories (s.commitTuning n set v) := by
  simp [State.commitTuning]

@[simp] theorem execTuningCommit_canonical (n set : Fin 4) (v : Tuning) (s : State) (h : s.canonical) :
    Ends State.canonical (execTuningCommit n set v s) := by
  simp [execTuningCommit, h]

@[simp] theorem State.writeValues_sameMemories (s : State) (n : Fin 4) (v : OperatingValues) : s.sameMemories (s.writeValues n v) := ⟨rfl, rfl⟩

@[simp] theorem execOperatingValueWrite_canonical (n : Fin 4) (v : OperatingValues) (s : State) (h : s.canonical) :
    Ends State.canonical (execOperatingValueWrite n v s) := by
  simp [execOperatingValueWrite, h]

@[simp] theorem execPhaseSet_canonical (ph : EnginePhase) (s : State) (h : s.canonical) : Ends State.canonical (execPhaseSet ph s) := by
  simp [execPhaseSet, h]

@[simp] theorem State.startInjection_sameMemories (s : State) (j : Injection) : s.sameMemories (s.startInjection j) := by
  simp [State.startInjection]

@[simp] theorem execInjectionStart_canonical (inj : Injection) (s : State) (h : s.canonical) : Ends State.canonical (execInjectionStart inj s) := by
  simp [execInjectionStart, h]

@[simp] theorem State.endInjection_sameMemories (s : State) (n : Fin 4) : s.sameMemories (s.endInjection n) := by
  unfold State.endInjection
  split <;> simp

@[simp] theorem execInjectionEnd_canonical (n : Fin 4) (s : State) (h : s.canonical) : Ends State.canonical (execInjectionEnd n s) := by
  simp [execInjectionEnd, h]

@[simp] theorem State.armCapture_sameMemories (s : State) (cap : CaptureSetup) : s.sameMemories (s.armCapture cap) := by
  simp [State.armCapture]

@[simp] theorem execCaptureArm_canonical (cap : CaptureSetup) (s : State) (h : s.canonical) : Ends State.canonical (execCaptureArm cap s) := by
  simp [execCaptureArm, h]

@[simp] theorem execConverterCommandTimeout_canonical (s : State) (h : s.canonical) : Ends State.canonical (execConverterCommandTimeout s) := by
  simp [execConverterCommandTimeout, h]

@[simp] theorem State.stopEngine_sameMemories (s : State) : s.sameMemories s.stopEngine := ⟨rfl, rfl⟩

@[simp] theorem execEngineParityError_canonical (s : State) (h : s.canonical) : Ends State.canonical (execEngineParityError s) := by
  simp [execEngineParityError, h]

@[simp] theorem execSmoothingModeChange_canonical (forced : Bool) (route : BitVec 2) (s : State) (h : s.canonical) :
    Ends State.canonical (execSmoothingModeChange forced route s) := by
  simp [execSmoothingModeChange, h]

@[simp] theorem State.releaseEngine_sameMemories (s : State) : s.sameMemories s.releaseEngine := by
  simp [State.releaseEngine]

end Sys2Proof.Machine
end

section
/-! Marches, power conversion, Heartwood, the energy store and Crown's power budget: what they do to the two memories. -/

namespace Sys2Proof.Machine

open Sys2Proof

/-! ## Marches of the on-chip memories -/

@[simp] theorem State.failSite_canonical (s : State) (site : ℕ) (h : s.canonical) : (s.failSite site).canonical := by
  unfold State.failSite
  dsimp only
  split <;> simp +contextual [h]

@[simp] theorem State.repairBank_sameMemories (s : State) (m : SramKind) (inst bank : ℕ) (cells : List FailCell) (waiting : Bool) :
    s.sameMemories (s.repairBank m inst bank cells waiting).1 := by
  simp [State.repairBank]

@[simp] theorem State.findCells_sameMemories (s : State) (m : SramKind) (inst : ℕ) (cells : List FailCell) (preserving : Bool) :
    s.sameMemories (s.findCells m inst cells preserving).1 := by
  unfold State.findCells
  split <;> simp

@[simp] theorem State.repair_sameMemories (s : State) (m : SramKind) (inst : ℕ) (defects : List FailCell) (preserving : Bool) :
    s.sameMemories (s.repair m inst defects preserving).1 := by
  unfold State.repair
  dsimp only
  split <;> simp

@[simp] theorem State.unrepairable_canonical (s : State) (m : SramKind) (inst : ℕ) (h : s.canonical) : (s.unrepairable m inst).canonical := by
  unfold State.unrepairable
  repeat' split
  all_goals simp [h]

@[simp] theorem State.marched_canonical (s : State) (m : SramKind) (inst : ℕ) (cells : List FailCell) (transparent : Bool) (h : s.canonical) :
    (s.marched m inst cells transparent).canonical := by
  simp [State.marched, h]

/-! ## Power conversion -/

@[simp] theorem State.updateConv_sameMemories (s : State) : s.sameMemories s.updateConv := ⟨rfl, rfl⟩

@[simp] theorem execConverterStop_canonical (mv : ℕ) (s : State) (h : s.canonical) : Ends State.canonical (execConverterStop mv s) := by
  simp [execConverterStop, h]

@[simp] theorem execConverterRestart_canonical (mv : ℕ) (s : State) (h : s.canonical) : Ends State.canonical (execConverterRestart mv s) := by
  unfold execConverterRestart
  split <;> simp [h]

@[simp] theorem execPhaseShed_canonical (r : Fin 11) (amps : ℕ) (s : State) (h : s.canonical) : Ends State.canonical (execPhaseShed r amps s) := by
  simp [execPhaseShed, h]

@[simp] theorem execShedTransitionEnd_canonical (r : Fin 11) (s : State) (h : s.canonical) : Ends State.canonical (execShedTransitionEnd r s) := by
  unfold execShedTransitionEnd
  dsimp only
  split <;> simp [h]

@[simp] theorem execPhaseAddBack_canonical (r : Fin 11) (why : AddBackCause) (s : State) (h : s.canonical) :
    Ends State.canonical (execPhaseAddBack r why s) := by
  unfold execPhaseAddBack
  split <;> simp [h]

@[simp] theorem State.corePhases_canonical (s : State) (d : Fin 4) (n : ℕ) (h : s.canonical) : (s.corePhases d n).canonical := by
  simp [State.corePhases, h]

@[simp] theorem State.takePhase_canonical (s : State) (d : Fin 4) (m : BitVec 32) (h : s.canonical) : (s.takePhase d m).canonical := by
  simp [State.takePhase, h]

@[simp] theorem execPhaseFault_canonical (r : Fin 11) (phase : Fin 32) (cause : PhaseCause) (s : State) (h : s.canonical) :
    Ends State.canonical (execPhaseFault r phase cause s) := by
  unfold execPhaseFault
  split <;> simp [h]

@[simp] theorem execOpPinChange_canonical (d : Fin 4) (op : Fin 8) (s : State) (h : s.canonical) : Ends State.canonical (execOpPinChange d op s) := by
  simp [execOpPinChange, h]

@[simp] theorem execOpDone_canonical (d : Fin 4) (s : State) (h : s.canonical) : Ends State.canonical (execOpDone d s) := by
  simp [execOpDone, h]

@[simp] theorem State.storeVop_sameMemories (s : State) (d : Fin 4) (k : Fin 8) (mv : ℕ) : s.sameMemories (s.storeVop d k mv) := by
  simp [State.storeVop]

@[simp] theorem execStoredValueWrite_canonical (d : Fin 4) (k : Fin 8) (mv : ℕ) (s : State) (h : s.canonical) :
    Ends State.canonical (execStoredValueWrite d k mv s) := by
  simp [execStoredValueWrite, h]

@[simp] theorem execDividerChange_canonical (d : Fin 4) (n : Fin 32) (s : State) (h : s.canonical) :
    Ends State.canonical (execDividerChange d n s) := by
  simp [execDividerChange, h]

@[simp] theorem State.enableRail_sameMemories (s : State) (r : Fin 11) : s.sameMemories (s.enableRail r) := by
  simp [State.enableRail]

@[simp] theorem execRailEnable_canonical (r : Fin 11) (s : State) (h : s.canonical) : Ends State.canonical (execRailEnable r s) := by
  simp [execRailEnable, h]

@[simp] theorem State.tryRelease_sameMemories (s : State) : s.sameMemories s.tryRelease := by
  simp [State.tryRelease]

@[simp] theorem execPowerGood_canonical (r : Fin 11) (s : State) (h : s.canonical) : Ends State.canonical (execPowerGood r s) := by
  unfold execPowerGood
  dsimp only
  repeat' split
  all_goals simp [h]

@[simp] theorem State.prechargeLatch_sameMemories (s : State) : s.sameMemories s.prechargeLatch := ⟨rfl, rfl⟩

@[simp] theorem execStartAttemptFailure_canonical (r : Fin 11) (s : State) (h : s.canonical) :
    Ends State.canonical (execStartAttemptFailure r s) := by
  simp [execStartAttemptFailure, h]

@[simp] theorem execHiccupRetry_canonical (r : Fin 11) (s : State) (h : s.canonical) : Ends State.canonical (execHiccupRetry r s) := by
  simp [execHiccupRetry, h]

@[simp] theorem State.latchRail_sameMemories (s : State) (r : Fin 11) (n : ℕ) : s.sameMemories (s.latchRail r n) := by
  simp [State.latchRail]

@[simp] theorem execRailOvercurrent_canonical (r : Fin 11) (s : State) (h : s.canonical) : Ends State.canonical (execRailOvercurrent r s) := by
  simp [execRailOvercurrent, h]

@[simp] theorem execRailOvervoltage_canonical (r : Fin 11) (s : State) (h : s.canonical) : Ends State.canonical (execRailOvervoltage r s) := by
  simp [execRailOvervoltage, h]

@[simp] theorem execRailUndervoltage_canonical (r : Fin 11) (s : State) (h : s.canonical) : Ends State.canonical (execRailUndervoltage r s) := by
  simp [execRailUndervoltage, h]

@[simp] theorem execPowerStageWarm_canonical (r : Fin 11) (s : State) (h : s.canonical) : Ends State.canonical (execPowerStageWarm r s) := by
  simp [execPowerStageWarm, h]

@[simp] theorem execSensePointIgnored_canonical (d : Fin 4) (k : Fin 5) (s : State) (h : s.canonical) :
    Ends State.canonical (execSensePointIgnored d k s) := by
  simp [execSensePointIgnored, h]

@[simp] theorem State.rearmRail_sameMemories (s : State) (r : Fin 11) : s.sameMemories (s.rearmRail r) := by
  unfold State.rearmRail
  dsimp only
  repeat' split
  all_goals simp

@[simp] theorem State.rearm_sameMemories (s : State) (rails : BitVec 11) : s.sameMemories (s.rearm rails) := by
  simp [State.rearm]

@[simp] theorem State.dropLink_sameMemories (s : State) (d : Fin 4) : s.sameMemories (s.dropLink d) := by
  simp [State.dropLink]

@[simp] theorem execRailDischarged_canonical (r : Fin 11) (s : State) (h : s.canonical) : Ends State.canonical (execRailDischarged r s) := by
  unfold execRailDischarged
  dsimp only
  repeat' split
  all_goals simp [h]

/-! ## Heartwood's outcomes -/

@[simp] theorem State.tripBy_sameMemories (s : State) (crown : Bool) (code index : ℕ) : s.sameMemories (s.tripBy crown code index) := by
  simp [State.tripBy]

@[simp] theorem State.trip_sameMemories (s : State) (code index : ℕ) : s.sameMemories (s.trip code index) := by
  simp [State.trip]

@[simp] theorem State.copyTrips_sameMemories (s : State) : s.sameMemories s.copyTrips := by
  simp [State.copyTrips]

@[simp] theorem State.dieDown_sameMemories (s : State) (d : Fin 4) (keepLink : Bool) : s.sameMemories (s.dieDown d keepLink) := by
  simp [State.dieDown]

@[simp] theorem State.diesDown_sameMemories (s : State) : s.sameMemories s.diesDown := by
  simp [State.diesDown]

@[simp] theorem State.allOff_sameMemories (s : State) : s.sameMemories s.allOff := by
  simp [State.allOff]

@[simp] theorem State.fail_sameMemories (s : State) (stage cause : ℕ) : s.sameMemories (s.fail stage cause) := by
  simp [State.fail]

@[simp] theorem State.failStart_sameMemories (s : State) (stage row : ℕ) : s.sameMemories (s.failStart stage row) := by
  simp [State.failStart]

@[simp] theorem State.failUnlisted_sameMemories (s : State) (stage : ℕ) : s.sameMemories (s.failUnlisted stage) := by
  simp [State.failUnlisted]

@[simp] theorem State.abandonEntry_sameMemories (s : State) : s.sameMemories s.abandonEntry := by
  simp [State.abandonEntry]

@[simp] theorem State.limitTrip_sameMemories (s : State) (dies : List (Fin 4)) (code : ℕ) : s.sameMemories (s.limitTrip dies code) := by
  unfold State.limitTrip
  dsimp only
  split <;> simp

@[simp] theorem State.limitTripAll_sameMemories (s : State) (code : ℕ) : s.sameMemories (s.limitTripAll code) := by
  simp [State.limitTripAll]

@[simp] theorem State.releaseLimit_sameMemories (s : State) (d : Fin 4) (code : ℕ) : s.sameMemories (s.releaseLimit d code) := by
  simp [State.releaseLimit]

@[simp] theorem State.takeHold_canonical (s : State) (h : s.canonical) : s.takeHold.canonical := by
  simp [State.takeHold, h]

@[simp] theorem State.askHold_canonical (s : State) (code : ℕ) (h : s.canonical) : (s.askHold code).canonical := by
  unfold State.askHold
  dsimp only
  repeat' split
  all_goals simp [h]

@[simp] theorem State.dieOffTrip_canonical (s : State) (d : Fin 4) (h : s.canonical) : (s.dieOffTrip d).canonical := by
  unfold State.dieOffTrip
  dsimp only
  split <;> simp [h]

@[simp] theorem State.enterQuiesced_sameMemories (s : State) : s.sameMemories s.enterQuiesced := by
  simp [State.enterQuiesced]

@[simp] theorem State.becomeQuiesced_canonical (s : State) (h : s.canonical) : s.becomeQuiesced.canonical := by
  simp [State.becomeQuiesced, h]

@[simp] theorem State.dieOffAll_canonical (s : State) (h : s.canonical) : s.dieOffAll.canonical := by
  simp +contextual [State.dieOffAll, h]

@[simp] theorem State.isolateTrip_canonical (s : State) (h : s.canonical) : s.isolateTrip.canonical := by
  simp [State.isolateTrip, h]

@[simp] theorem State.safe_sameMemories (s : State) (code : ℕ) : s.sameMemories (s.safe code) := by
  simp [State.safe]

@[simp] theorem State.crowbar_sameMemories (s : State) (r : Fin 11) : s.sameMemories (s.crowbar r) := ⟨rfl, rfl⟩

@[simp] theorem State.railOff_sameMemories (s : State) (r : Fin 11) : s.sameMemories (s.railOff r) := by
  unfold State.railOff
  dsimp only
  repeat' split
  all_goals simp

@[simp] theorem State.failSafe_sameMemories (s : State) : s.sameMemories s.failSafe := by
  simp [State.failSafe]

@[simp] theorem State.syncConfig_sameMemories (s : State) : s.sameMemories s.syncConfig := by
  unfold State.syncConfig
  dsimp only
  repeat' split
  all_goals simp

@[simp] theorem State.powerOff_sameMemories (s : State) : s.sameMemories s.powerOff := by
  simp [State.powerOff]

/-! ## The energy store, its switches and its cell monitor -/

@[simp] theorem State.newEnergy_sameMemories (s : State) : s.sameMemories s.newEnergy := ⟨rfl, rfl⟩

@[simp] theorem State.setCeiling_sameMemories (s : State) (mv : ℕ) : s.sameMemories (s.setCeiling mv) := ⟨rfl, rfl⟩

@[simp] theorem execCapacitanceEstimate_canonical (caps : List ℕ) (s : State) (h : s.canonical) :
    Ends State.canonical (execCapacitanceEstimate caps s) := by
  simp [execCapacitanceEstimate, h]

@[simp] theorem State.connect_sameMemories (s : State) : s.sameMemories s.connect := by
  simp [State.connect]

@[simp] theorem execStoreConnectRequest_canonical (s : State) (h : s.canonical) : Ends State.canonical (execStoreConnectRequest s) := by
  simp [execStoreConnectRequest, h]

@[simp] theorem execPrechargeComplete_canonical (s : State) (h : s.canonical) : Ends State.canonical (execPrechargeComplete s) := by
  simp [execPrechargeComplete, h]

@[simp] theorem execSwBClose_canonical (s : State) (h : s.canonical) : Ends State.canonical (execSwBClose s) := by
  simp [execSwBClose, h]

@[simp] theorem execStoreIsolateRequest_canonical (s : State) (h : s.canonical) : Ends State.canonical (execStoreIsolateRequest s) := by
  simp [execStoreIsolateRequest, h]

@[simp] theorem State.lockStore_sameMemories (s : State) (why : Lockout) : s.sameMemories (s.lockStore why) := by
  simp [State.lockStore]

@[simp] theorem State.holdBus_sameMemories (s : State) : s.sameMemories s.holdBus := ⟨rfl, rfl⟩

@[simp] theorem State.takeReadings_sameMemories (s : State) (rd : CellReadings) : s.sameMemories (s.takeReadings rd) := by
  simp [State.takeReadings]

@[simp] theorem execScanStart_canonical (s : State) (h : s.canonical) : Ends State.canonical (execScanStart s) := by
  simp [execScanStart, h]

@[simp] theorem State.measurementFault_canonical (s : State) (rd : CellReadings) (h : s.canonical) : (s.measurementFault rd).canonical := by
  simp [State.measurementFault, h]

@[simp] theorem execConversionWindowClose_canonical (rd : CellReadings) (s : State) (h : s.canonical) :
    Ends State.canonical (execConversionWindowClose rd s) := by
  simp [execConversionWindowClose, h]

@[simp] theorem execBalancingSlot_canonical (odd : Bool) (s : State) (h : s.canonical) : Ends State.canonical (execBalancingSlot odd s) := by
  simp [execBalancingSlot, h]

@[simp] theorem State.openTapAt_sameMemories (s : State) (k : ℕ) : s.sameMemories (s.openTapAt k) := by
  simp [State.openTapAt]

@[simp] theorem State.endOpenTap_sameMemories (s : State) (base : List ℕ) : s.sameMemories (s.endOpenTap base) := ⟨rfl, rfl⟩

@[simp] theorem State.foundTap_canonical (s : State) (k : ℕ) (outsideAbs : Bool) (h : s.canonical) : (s.foundTap k outsideAbs).canonical := by
  unfold State.foundTap
  dsimp only
  repeat' split
  all_goals simp [h]

@[simp] theorem State.cellFault_canonical (s : State) (k : Fin 14) (mv : ℕ) (h : s.canonical) : (s.cellFault k mv).canonical := by
  simp [State.cellFault, h]

@[simp] theorem State.firstCheck_sameMemories (s : State) (taps base : List ℕ) : s.sameMemories (s.firstCheck taps base) := by
  simp [State.firstCheck]

@[simp] theorem State.classify_canonical (s : State) (taps base : List ℕ) (outsideAbs : Bool) (h : s.canonical) :
    (s.classify taps base outsideAbs).canonical := by
  unfold State.classify
  dsimp only
  repeat' split
  all_goals simp +contextual [h]

@[simp] theorem execCheckScanWindow_canonical (rd : CellReadings) (outsideAbs : Bool) (s : State) (h : s.canonical) :
    Ends State.canonical (execCheckScanWindow rd outsideAbs s) := by
  simp [execCheckScanWindow, h]

@[simp] theorem State.noteSwitch_sameMemories (s : State) (k : Fin 14) (t : SwitchTest) : s.sameMemories (s.noteSwitch k t) := by
  simp [State.noteSwitch]

@[simp] theorem execBalancingSwitchTest_canonical (res : List SwitchTest) (s : State) (h : s.canonical) :
    Ends State.canonical (execBalancingSwitchTest res s) := by
  simp +contextual [execBalancingSwitchTest, h]

@[simp] theorem State.seeSleep_sameMemories (s : State) : s.sameMemories s.seeSleep := by
  simp [State.seeSleep]

@[simp] theorem execMonitorMessage_canonical (s : State) (h : s.canonical) : Ends State.canonical (execMonitorMessage s) := by
  simp [execMonitorMessage, h]

@[simp] theorem execMonitorSleep_canonical (s : State) (h : s.canonical) : Ends State.canonical (execMonitorSleep s) := by
  simp [execMonitorSleep, h]

@[simp] theorem execMonitorWakeMessage_canonical (s : State) (h : s.canonical) : Ends State.canonical (execMonitorWakeMessage s) := by
  simp [execMonitorWakeMessage, h]

@[simp] theorem State.startDrain_sameMemories (s : State) (returning : Bool) : s.sameMemories (s.startDrain returning) := by
  unfold State.startDrain
  split <;> simp

@[simp] theorem execDrainButton_canonical (s : State) (h : s.canonical) : Ends State.canonical (execDrainButton s) := by
  simp [execDrainButton, h]

@[simp] theorem execDrainReturnEnd_canonical (s : State) (h : s.canonical) : Ends State.canonical (execDrainReturnEnd s) := by
  unfold execDrainReturnEnd
  split <;> simp [h]

@[simp] theorem execBleedEnd_canonical (s : State) (h : s.canonical) : Ends State.canonical (execBleedEnd s) := by
  simp [execBleedEnd, h]

/-! ## Heartwood's trips, ceilings and watches -/

@[simp] theorem State.onTrip_canonical (s : State) (code index : ℕ) (act : State → State) (h : s.canonical) (hact : ∀ s : State, s.canonical → (act s).canonical) :
    
    (s.onTrip code index act).canonical := by
  unfold State.onTrip
  split
  · exact hact _ (by simp [h])
  · exact h

@[simp] theorem execDemandAboveCeiling_canonical (s : State) (h : s.canonical) : Ends State.canonical (execDemandAboveCeiling s) := by
  simp [execDemandAboveCeiling, h]

@[simp] theorem execDemandFarAboveCeiling_canonical (s : State) (h : s.canonical) : Ends State.canonical (execDemandFarAboveCeiling s) := by
  simp [execDemandFarAboveCeiling, h]

@[simp] theorem execCoreMeanAboveCeiling_canonical (d : Fin 4) (s : State) (h : s.canonical) :
    Ends State.canonical (execCoreMeanAboveCeiling d s) := by
  simp [execCoreMeanAboveCeiling, h]

@[simp] theorem execCoreOvervoltageCrowbar_canonical (d : Fin 4) (s : State) (h : s.canonical) :
    Ends State.canonical (execCoreOvervoltageCrowbar d s) := by
  simp +contextual [execCoreOvervoltageCrowbar, h]

@[simp] theorem execCoreUndervoltageTrip_canonical (d : Fin 4) (s : State) (h : s.canonical) :
    Ends State.canonical (execCoreUndervoltageTrip d s) := by
  simp +contextual [execCoreUndervoltageTrip, h]

@[simp] theorem execVlinkOutOfRange_canonical (d : Fin 4) (s : State) (h : s.canonical) : Ends State.canonical (execVlinkOutOfRange d s) := by
  simp +contextual [execVlinkOutOfRange, h]

@[simp] theorem execVdramOvervoltageCrowbar_canonical (s : State) (h : s.canonical) : Ends State.canonical (execVdramOvervoltageCrowbar s) := by
  simp [execVdramOvervoltageCrowbar, h]

@[simp] theorem execVdramUndervoltageTrip_canonical (s : State) (h : s.canonical) : Ends State.canonical (execVdramUndervoltageTrip s) := by
  simp [execVdramUndervoltageTrip, h]

@[simp] theorem execTwelveVOvervoltage_canonical (s : State) (h : s.canonical) : Ends State.canonical (execTwelveVOvervoltage s) := by
  simp [execTwelveVOvervoltage, h]

@[simp] theorem execTwelveVUndervoltage_canonical (s : State) (h : s.canonical) : Ends State.canonical (execTwelveVUndervoltage s) := by
  simp [execTwelveVUndervoltage, h]

@[simp] theorem State.startLost_canonical (s : State) (r : Fin 11) (latched : Bool) (h : s.canonical) : (s.startLost r latched).canonical := by
  unfold State.startLost
  repeat' split
  all_goals simp [h]

@[simp] theorem execRailStartFailure_canonical (r : Fin 11) (s : State) (h : s.canonical) : Ends State.canonical (execRailStartFailure r s) := by
  simp +contextual [execRailStartFailure, h]

@[simp] theorem execPowerStageTrip_canonical (r : Fin 11) (s : State) (h : s.canonical) : Ends State.canonical (execPowerStageTrip r s) := by
  unfold execPowerStageTrip
  repeat' split
  all_goals simp +contextual [h]

@[simp] theorem execDieOverTemperature_canonical (d : Fin 4) (s : State) (h : s.canonical) : Ends State.canonical (execDieOverTemperature d s) := by
  simp +contextual [execDieOverTemperature, h]

@[simp] theorem execCoolantOutletTrip_canonical (s : State) (h : s.canonical) : Ends State.canonical (execCoolantOutletTrip s) := by
  simp +contextual [execCoolantOutletTrip, h]

@[simp] theorem execCellOvervoltageTrip_canonical (s : State) (h : s.canonical) : Ends State.canonical (execCellOvervoltageTrip s) := by
  simp +contextual [execCellOvervoltageTrip, h]

@[simp] theorem execCellUndervoltageTrip_canonical (s : State) (h : s.canonical) : Ends State.canonical (execCellUndervoltageTrip s) := by
  simp +contextual [execCellUndervoltageTrip, h]

@[simp] theorem execStackOvervoltageTrip_canonical (s : State) (h : s.canonical) : Ends State.canonical (execStackOvervoltageTrip s) := by
  simp +contextual [execStackOvervoltageTrip, h]

@[simp] theorem execStoreOvercurrentTrip_canonical (s : State) (h : s.canonical) : Ends State.canonical (execStoreOvercurrentTrip s) := by
  simp +contextual [execStoreOvercurrentTrip, h]

@[simp] theorem execStoreOverTemperatureTrip_canonical (s : State) (h : s.canonical) : Ends State.canonical (execStoreOverTemperatureTrip s) := by
  simp +contextual [execStoreOverTemperatureTrip, h]

@[simp] theorem execCellMonitorTrip_canonical (s : State) (h : s.canonical) : Ends State.canonical (execCellMonitorTrip s) := by
  simp +contextual [execCellMonitorTrip, h]

@[simp] theorem execStoreSwitchMismatch_canonical (_swB : Bool) (s : State) (h : s.canonical) :
    Ends State.canonical (execStoreSwitchMismatch _swB s) := by
  simp +contextual [execStoreSwitchMismatch, h]

@[simp] theorem execCrownStrobeLoss_canonical (s : State) (h : s.canonical) : Ends State.canonical (execCrownStrobeLoss s) := by
  simp [execCrownStrobeLoss, h]

@[simp] theorem execCrownStrobe_canonical (s : State) (h : s.canonical) : Ends State.canonical (execCrownStrobe s) := by
  simp [execCrownStrobe, h]

@[simp] theorem execConverterFault_canonical (c : Fin 4) (overTemp : Bool) (s : State) (h : s.canonical) :
    Ends State.canonical (execConverterFault c overTemp s) := by
  simp [execConverterFault, h]

@[simp] theorem execBusDip_canonical (mv : ℕ) (s : State) (h : s.canonical) : Ends State.canonical (execBusDip mv s) := by
  unfold execBusDip
  split
  · exact h
  · refine State.onTrip_canonical _ _ _ _ h fun s hs => ?_
    dsimp only
    repeat' split
    all_goals simp [hs]

@[simp] theorem execDipProlonged_canonical (s : State) (h : s.canonical) : Ends State.canonical (execDipProlonged s) := by
  simp +contextual [execDipProlonged, h]

@[simp] theorem execBusLoss_canonical (s : State) (h : s.canonical) : Ends State.canonical (execBusLoss s) := by
  simp +contextual [execBusLoss, h]

@[simp] theorem execBusNodeOvervoltage_canonical (s : State) (h : s.canonical) : Ends State.canonical (execBusNodeOvervoltage s) := by
  simp [execBusNodeOvervoltage, h]

@[simp] theorem execDipEnd_canonical (s : State) (h : s.canonical) : Ends State.canonical (execDipEnd s) := by
  simp [execDipEnd, h]

@[simp] theorem execInputSwitchReclose_canonical (s : State) (h : s.canonical) : Ends State.canonical (execInputSwitchReclose s) := by
  simp [execInputSwitchReclose, h]

@[simp] theorem execLimitRelease_canonical (code : BitVec 8) (d : Fin 4) (s : State) (h : s.canonical) :
    Ends State.canonical (execLimitRelease code d s) := by
  simp [execLimitRelease, h]

@[simp] theorem execTrayRemoval_canonical (pinB : Bool) (s : State) (h : s.canonical) : Ends State.canonical (execTrayRemoval pinB s) := by
  simp [execTrayRemoval, h]

@[simp] theorem execBrownoutWarning_canonical (s : State) (h : s.canonical) : Ends State.canonical (execBrownoutWarning s) := by
  unfold execBrownoutWarning
  split
  · exact h
  · refine State.onTrip_canonical _ _ _ _ h fun s hs => ?_
    dsimp only
    repeat' split
    all_goals simp [hs]

@[simp] theorem execBrownoutEnd_canonical (s : State) (h : s.canonical) : Ends State.canonical (execBrownoutEnd s) := by
  simp [execBrownoutEnd, h]

@[simp] theorem execHeartwoodReset_canonical (s : State) (h : s.canonical) : Ends State.canonical (execHeartwoodReset s) := by
  simp [execHeartwoodReset, h]

@[simp] theorem execChannelDisagreement_canonical (_refs : Bool) (s : State) (h : s.canonical) :
    Ends State.canonical (execChannelDisagreement _refs s) := by
  simp [execChannelDisagreement, h]

@[simp] theorem execHwdClockFailure_canonical (s : State) (h : s.canonical) : Ends State.canonical (execHwdClockFailure s) := by
  simp [execHwdClockFailure, h]

@[simp] theorem execCeilingWrite_canonical (k : Fin 8) (v : BitVec 16) (s : State) (h : s.canonical) :
    Ends State.canonical (execCeilingWrite k v s) := by
  simp [execCeilingWrite, h]

/-! ## Crown's power budget -/

@[simp] theorem execHint_canonical (q : Fin 64) (s : State) (h : s.canonical) : Ends State.canonical (execHint q s) := by
  unfold execHint
  repeat' split
  all_goals simp [h]

@[simp] theorem execHintWindowStart_canonical (i : ℕ) (s : State) (h : s.canonical) : Ends State.canonical (execHintWindowStart i s) := by
  unfold execHintWindowStart
  split <;> simp [h]

@[simp] theorem execHintWindowEnd_canonical (i : ℕ) (s : State) (h : s.canonical) : Ends State.canonical (execHintWindowEnd i s) := by
  simp [execHintWindowEnd, h]

@[simp] theorem State.measure_sameMemories (s : State) (m : PowerMeasure) : s.sameMemories (s.measure m) := ⟨rfl, rfl⟩

@[simp] theorem execOpEvaluation_canonical (m : PowerMeasure) (s : State) (h : s.canonical) : Ends State.canonical (execOpEvaluation m s) := by
  simp [execOpEvaluation, h]

@[simp] theorem execIdleDieTimeout_canonical (d : Fin 4) (s : State) (h : s.canonical) : Ends State.canonical (execIdleDieTimeout d s) := by
  simp [execIdleDieTimeout, h]

@[simp] theorem execAgeingMarginReport_canonical (d : Fin 4) (_region : Fin 5) (permille : ℤ) (s : State) (h : s.canonical) :
    Ends State.canonical (execAgeingMarginReport d _region permille s) := by
  simp [execAgeingMarginReport, h]

@[simp] theorem State.withdraw_canonical (s : State) (d : Fin 4) (m : ℤ) (h : s.canonical) : (s.withdraw d m).canonical := by
  simp [State.withdraw, h]

@[simp] theorem execAgeingTrim_canonical (d : Fin 4) (s : State) (h : s.canonical) : Ends State.canonical (execAgeingTrim d s) := by
  unfold execAgeingTrim
  split <;> simp [h]

@[simp] theorem State.setShareValue_sameMemories (s : State) (w : ℕ) : s.sameMemories (s.setShareValue w) := ⟨rfl, rfl⟩

@[simp] theorem State.firstShare_sameMemories (s : State) : s.sameMemories s.firstShare := by
  simp [State.firstShare]

@[simp] theorem State.followCfg_sameMemories (s : State) : s.sameMemories s.followCfg := by
  simp [State.followCfg]

@[simp] theorem State.putShare_sameMemories (s : State) (w smooth source : ℕ) : s.sameMemories (s.putShare w smooth source) := by
  simp [State.putShare]

@[simp] theorem State.acceptShare_sameMemories (s : State) (w smooth source : ℕ) : s.sameMemories (s.acceptShare w smooth source) := by
  simp [State.acceptShare]

@[simp] theorem execShareExpiry_canonical (s : State) (h : s.canonical) : Ends State.canonical (execShareExpiry s) := by
  simp [execShareExpiry, h]

@[simp] theorem execZejorManagerLoss_canonical (b : Fn) (s : State) (h : s.canonical) : Ends State.canonical (execZejorManagerLoss b s) := by
  simp [execZejorManagerLoss, h]

@[simp] theorem State.applyDeferred_sameMemories (s : State) : s.sameMemories s.applyDeferred := by
  unfold State.applyDeferred
  split <;> simp

@[simp] theorem execCapDeferralTimeout_canonical (s : State) (h : s.canonical) : Ends State.canonical (execCapDeferralTimeout s) := by
  simp [execCapDeferralTimeout, h]

@[simp] theorem execMatchExpiry_canonical (i : ℕ) (s : State) (h : s.canonical) : Ends State.canonical (execMatchExpiry i s) := by
  unfold execMatchExpiry
  split <;> simp [h]

@[simp] theorem State.stepCeiling_sameMemories (s : State) (m : ThermalMeasure) (d : Fin 4) : s.sameMemories (s.stepCeiling m d) := by
  simp [State.stepCeiling]

@[simp] theorem State.loseCoolant_canonical (s : State) (m : ThermalMeasure) (h : s.canonical) : (s.loseCoolant m).canonical := by
  simp [State.loseCoolant, h]

@[simp] theorem State.thermalShutdown_canonical (s : State) (h : s.canonical) : s.thermalShutdown.canonical := by
  unfold State.thermalShutdown
  dsimp only
  split <;> simp [h]

@[simp] theorem State.noteCoolant_canonical (s : State) (m : ThermalMeasure) (h : s.canonical) : (s.noteCoolant m).canonical := by
  simp [State.noteCoolant, h]

@[simp] theorem execThermalLoop_canonical (m : ThermalMeasure) (s : State) (h : s.canonical) : Ends State.canonical (execThermalLoop m s) := by
  simp [execThermalLoop, h]

@[simp] theorem execStopBandTimeout_canonical (st : Fin 20) (s : State) (h : s.canonical) : Ends State.canonical (execStopBandTimeout st s) := by
  simp [execStopBandTimeout, h]

@[simp] theorem execAbsorbLimitUpdate_canonical (s : State) (h : s.canonical) : Ends State.canonical (execAbsorbLimitUpdate s) := by
  simp [execAbsorbLimitUpdate, h]

@[simp] theorem execBallastUpdate_canonical (s : State) (h : s.canonical) : Ends State.canonical (execBallastUpdate s) := by
  simp [execBallastUpdate, h]

@[simp] theorem execHoldEnd_canonical (s : State) (h : s.canonical) : Ends State.canonical (execHoldEnd s) := by
  simp [execHoldEnd, h]

@[simp] theorem execHoldRecovery_canonical (s : State) (h : s.canonical) : Ends State.canonical (execHoldRecovery s) := by
  unfold execHoldRecovery
  dsimp only
  repeat' split
  all_goals simp [h]

@[simp] theorem execRecoveryPhaseEnd_canonical (s : State) (h : s.canonical) : Ends State.canonical (execRecoveryPhaseEnd s) := by
  simp [execRecoveryPhaseEnd, h]

end Sys2Proof.Machine
end

section
/-! Messages, the fleet, the collective engines and Crown: what they do to the two memories. -/

namespace Sys2Proof.Machine

open Sys2Proof

/-! ## Messages between the hosts and Crown -/

@[simp] theorem State.setMbox_sameMemories (s : State) (fn : Fn) (l : List Byte) : s.sameMemories (s.setMbox fn l) := by
  simp [State.setMbox]

@[simp] theorem State.putReplies_canonical (s : State) (fn : Fn) (l : List (List Byte)) (h : s.canonical) : (s.putReplies fn l).canonical := by
  induction l generalizing s with
  | nil => simp [State.putReplies, h]
  | cons r l ih =>
    rw [State.putReplies]
    split
    · rename_i ht
      exact ih _ (by simp [State.ringPut_canonical h ht])
    · simp [h]

@[simp] theorem State.settleStop_sameMemories (s : State) (fn : Fn) : s.sameMemories (s.settleStop fn) := by
  simp [State.settleStop]

@[simp] theorem State.answerMsg_canonical (s : State) (src : MsgSrc) (status : ℕ) (body : List Byte) (h : s.canonical) :
    (s.answerMsg src status body).canonical := by
  unfold State.answerMsg
  repeat' split
  all_goals simp [h]

/-! ## Fleet consistency -/

@[simp] theorem State.setFleet_sameMemories (s : State) (f : Fleet) : s.sameMemories (s.setFleet f) := ⟨rfl, rfl⟩

@[simp] theorem State.leaseEvent_canonical (s : State) (fn : Fn) (m : List Byte) (h : s.canonical) : (s.leaseEvent fn m).canonical := by
  simp [State.leaseEvent, h]

@[simp] theorem State.sendLease_canonical (s : State) (mtype w : ℕ) (body : List Byte) (h : s.canonical) : (s.sendLease mtype w body).canonical := by
  unfold State.sendLease
  repeat' split
  all_goals simp [h]

@[simp] theorem State.askPromotion_canonical (s : State) (h : s.canonical) : s.askPromotion.canonical := by
  simp +contextual [State.askPromotion, h]

@[simp] theorem State.takeLease_sameMemories (s : State) (src : ℕ) (id : BitVec 64) (standby : ℕ) :
    s.sameMemories (s.takeLease src id standby) := ⟨rfl, rfl⟩

@[simp] theorem State.ackLease_sameMemories (s : State) (src : ℕ) (id : BitVec 64) (count : BitVec 32) :
    s.sameMemories (s.ackLease src id count) := ⟨rfl, rfl⟩

@[simp] theorem State.tellCoordinator_sameMemories (s : State) : s.sameMemories s.tellCoordinator := by
  unfold State.tellCoordinator
  split <;> simp

@[simp] theorem State.promote_canonical (s : State) (src : ℕ) (id : BitVec 64) (active : ℕ) (h : s.canonical) :
    (s.promote src id active).canonical := by
  simp [State.promote, h]

@[simp] theorem State.activateTwins_canonical (s : State) (b : Blocks) (h : s.canonical) : (s.activateTwins b).canonical := by
  unfold State.activateTwins
  refine foldl_canonical _ _ _ (fun s t h => by simp [h]) ?_
  simp only [State.canonical, State.setFleet]
  exact foldl_canonical _ _ _ (fun s t h => by simp [h]) h

@[simp] theorem State.activate_canonical (s : State) (c : Staged) (h : s.canonical) : (s.activate c).canonical := by
  have htwins := State.activateTwins_canonical s c.blocks h
  unfold State.activate
  simp [htwins]

@[simp] theorem State.activateAt_canonical (s : State) (step : BitVec 64) (h : s.canonical) : (s.activateAt step).canonical := by
  unfold State.activateAt
  split <;> simp [h]

@[simp] theorem State.castVote_sameMemories (s : State) (c : Staged) (step : BitVec 64) : s.sameMemories (s.castVote c step).1 := by
  simp [State.castVote]

@[simp] theorem State.takeCommit_sameMemories (s : State) (c : Staged) (step : BitVec 64) (coord : ℕ) :
    s.sameMemories (s.takeCommit c step coord) := by
  simp [State.takeCommit]

@[simp] theorem State.dropPoll_sameMemories (s : State) (r : VoteRole) : s.sameMemories (s.dropPoll r) := ⟨rfl, rfl⟩

@[simp] theorem State.setPoll_sameMemories (s : State) (k : Poll) : s.sameMemories (s.setPoll k) := ⟨rfl, rfl⟩

@[simp] theorem State.answerProposal_canonical (s : State) (k : Poll) (outcome voter : ℕ) (h : s.canonical) :
    (s.answerProposal k outcome voter).canonical := by
  unfold State.answerProposal
  split <;> simp [h]

@[simp] theorem State.failProposal_canonical (s : State) (k : Poll) (voter : ℕ) (h : s.canonical) : (s.failProposal k voter).canonical := by
  simp [State.failProposal, h]

@[simp] theorem State.commitAll_canonical (s : State) (k : Poll) (h : s.canonical) : (s.commitAll k).canonical := by
  unfold State.commitAll
  dsimp only
  split <;> simp [h]

@[simp] theorem State.coordinatorVote_canonical (s : State) (id : ℕ) (yes : Bool) (h : s.canonical) : (s.coordinatorVote id yes).canonical := by
  unfold State.coordinatorVote
  split <;> simp [h]

@[simp] theorem State.voteUp_canonical (s : State) (up : ℕ) (e : BitVec 64) (d : BitVec 256) (step : BitVec 64) (yes : Bool) (h : s.canonical) :
    (s.voteUp up e d step yes).canonical := by
  simp [State.voteUp, h]

@[simp] theorem State.endPoll_canonical (s : State) (k : Poll) (yes : Bool) (h : s.canonical) : (s.endPoll k yes).canonical := by
  unfold State.endPoll
  split <;> simp [h]

@[simp] theorem State.lead_canonical (s : State) (c : Staged) (step : BitVec 64) (up : ℕ) (across : Option ℕ) (h : s.canonical) :
    (s.lead c step up across).canonical := by
  have hasked := fun l : List Nat => foldl_canonical (fun s i => s.sendTo 0x30 i (epochBody c.epoch c.digest step)) l s (fun s i h => by simp [h]) h
  unfold State.lead
  dsimp only
  split
  · exact State.endPoll_canonical _ _ _ (by simpa only [State.canonical, State.dropPoll_sameMemories, State.castVote_sameMemories] using hasked _)
  · simpa only [State.canonical, State.setFleet_sameMemories, State.dropPoll_sameMemories, State.castVote_sameMemories] using hasked _

@[simp] theorem State.propose_canonical (s : State) (c : Staged) (step : BitVec 64) (src : Option MsgSrc) (h : s.canonical) :
    (s.propose c step src).canonical := by
  have hasked : ∀ s : State, s.canonical → ∀ l : List Nat, (l.foldl (fun s i => s.sendTo 0x30 i (epochBody c.epoch c.digest step)) s).canonical := fun s h l =>
    foldl_canonical _ _ _ (fun s i h => by simp [h]) h
  unfold State.propose
  dsimp only
  split
  · simp [h]
  · split
    · exact State.lead_canonical _ _ _ _ _ (hasked _ (by simp [h]) _)
    · exact hasked _ (by simp [h]) _

@[simp] theorem State.takeProposal_canonical (s : State) (src : ℕ) (e : BitVec 64) (d : BitVec 256) (step : BitVec 64) (h : s.canonical) :
    (s.takeProposal src e d step).canonical := by
  unfold State.takeProposal
  repeat' split
  all_goals simp [h]

@[simp] theorem State.takeVote_canonical (s : State) (src : ℕ) (e : BitVec 64) (d : BitVec 256) (h : s.canonical) :
    (s.takeVote src e d).canonical := by
  unfold State.takeVote
  split <;> simp [h]

/-! ## The collective engines -/

@[simp] theorem State.setColl_sameMemories (s : State) (c : Collective) : s.sameMemories (s.setColl c) := ⟨rfl, rfl⟩

theorem State.sendRequest_sameMemories {s t : State} {p : Fin 20} {ttype flags dest op tag addr : Nat} {data : List Byte} {why : OutFor}
    (ht : s.sendRequest p ttype flags dest op tag addr data why = some t) : s.sameMemories t := by
  unfold State.sendRequest at ht
  dsimp only at ht
  split at ht
  · cases ht
    simp
  · cases ht

@[simp] theorem State.getD_sendRequest_sameMemories (s : State) (p : Fin 20) (ttype flags dest op tag addr : Nat) (data : List Byte) (why : OutFor) :
    s.sameMemories ((s.sendRequest p ttype flags dest op tag addr data why).getD s) := by
  cases ht : s.sendRequest p ttype flags dest op tag addr data why with
  | none => exact ⟨rfl, rfl⟩
  | some t => exact State.sendRequest_sameMemories ht

@[simp] theorem State.sendAborts_sameMemories (s : State) (c : Collective) (code : ℕ) : s.sameMemories (s.sendAborts c code) := by
  unfold State.sendAborts
  refine foldl_sameMemories_from (by simp) (fun s a => ?_) _
  split <;> simp

@[simp] theorem State.undefine_canonical (s : State) (view : BitVec 2) (a n : ℕ) (h : s.canonical) : (s.undefine view a n).canonical := by
  simp [State.undefine, h]

@[simp] theorem State.spoil_canonical (s : State) (c : Collective) (h : s.canonical) : (s.spoil c).canonical := by
  have hdst : ∀ n, ((s.undefine c.view c.dst n).undefine c.view c.staging c.stagingSize).canonical := fun n => by simp [h]
  unfold State.spoil
  repeat' split
  all_goals simp [hdst]

@[simp] theorem State.failColl_canonical (s : State) (q : Fin 64) (code detail : ℕ) (h : s.canonical) : (s.failColl q code detail).canonical := by
  unfold State.failColl
  split <;> simp [h]

@[simp] theorem State.failHere_canonical (s : State) (q : Fin 64) (code : ℕ) (h : s.canonical) : (s.failHere q code).canonical :=
  State.failColl_canonical _ _ _ _ (by simp [h])

@[simp] theorem State.unsent_canonical (s : State) (q : Fin 64) (member : ℕ) (p : Option (Fin 20)) (h : s.canonical) :
    (s.unsent q member p).canonical := by
  unfold State.unsent
  split <;> simp [h]

@[simp] theorem State.sendColl_canonical (s : State) (q : Fin 64) (member op addr : ℕ) (data : List Byte) (h : s.canonical) :
    (s.sendColl q member op addr data).canonical := by
  unfold State.sendColl
  dsimp only
  split
  · exact h
  · split
    · simp [h]
    · split
      · rename_i ht
        have hsent := State.canonical_of_same (State.sendRequest_sameMemories ht) h
        simp [hsent]
      · simp [h]

@[simp] theorem State.sendReady_canonical (s : State) (q : Fin 64) (i : ℕ) (h : s.canonical) : (s.sendReady q i).canonical := by
  unfold State.sendReady
  split
  · exact h
  · exact foldl_canonical _ _ _ (fun s m h => by simp [h]) h

@[simp] theorem State.sendBytes_canonical (s : State) (q : Fin 64) (member op addr span : ℕ) (bytes : List Byte) (h : s.canonical) :
    (s.sendBytes q member op addr span bytes).canonical := by
  simp +contextual [State.sendBytes, h]

@[simp] theorem State.sendRegion_canonical (s : State) (q : Fin 64) (member op addr span src len : ℕ) (view : BitVec 2) (errs : DramErrs) (h : s.canonical) :
    (s.sendRegion q member op addr span src len view errs).canonical := by
  simp [State.sendRegion, h]

@[simp] theorem State.foldSums_canonical (s : State) (q : Fin 64) (errs : DramErrs) (h : s.canonical) : (s.foldSums q errs).canonical := by
  unfold State.foldSums
  split <;> simp [h]

@[simp] theorem State.sendXfer_canonical (s : State) (c : Collective) (x : Xfer) (errs : DramErrs) (h : s.canonical) :
    (s.sendXfer c x errs).canonical := by
  unfold State.sendXfer
  dsimp only
  split <;> simp [h]

@[simp] theorem State.advanceColl_canonical (s : State) (q : Fin 64) (errs : DramErrs) (h : s.canonical) : (s.advanceColl q errs).canonical := by
  have hsums := State.foldSums_canonical s q errs h
  unfold State.advanceColl
  dsimp only
  split
  · exact hsums
  · refine foldl_canonical _ _ _ (fun s x h => ?_) hsums
    split <;> simp [h]

@[simp] theorem State.addSums_canonical (s : State) (c : Collective) (off : ℕ) (own : Bool) (bytes : List Byte) (errs : DramErrs) (h : s.canonical) :
    (s.addSums c off own bytes errs).canonical := by
  simp [State.addSums, h]

@[simp] theorem State.ownRelays_canonical (s : State) (c : Collective) (errs : DramErrs) (h : s.canonical) : (s.ownRelays c errs).canonical := by
  unfold State.ownRelays
  split
  · exact h
  · refine foldl_canonical _ _ _ (fun s x h => ?_) h
    have hread := fun v a n errs => State.devCheck_canonical (s.visit v a n) v a n errs (by simp [h])
    dsimp only
    split <;> simp [h, hread]

@[simp] theorem State.ownPart_canonical (s : State) (c : Collective) (errs : DramErrs) (h : s.canonical) : (s.ownPart c errs).canonical := by
  have hread := fun v a n errs => State.devCheck_canonical (s.visit v a n) v a n errs (by simp [h])
  unfold State.ownPart
  simp [h, hread]

@[simp] theorem State.startInstance_canonical (s : State) (q : Fin 64) (errs : DramErrs) (h : s.canonical) : (s.startInstance q errs).canonical := by
  have hown := fun k c => State.ownPart_canonical (s.setColl k) c errs (by simp [h])
  unfold State.startInstance
  split
  · exact h
  · refine State.advanceColl_canonical _ _ _ ?_
    split
    · exact State.sendReady_canonical _ _ _ (hown _ _)
    · exact hown _ _

@[simp] theorem State.endColl_sameMemories (s : State) (q : Fin 64) : s.sameMemories (s.endColl q) := by
  unfold State.endColl
  split <;> simp

@[simp] theorem State.endStep_canonical (s : State) (q : Fin 64) (step : BitVec 64) (status : ℕ) (h : s.canonical) :
    (s.endStep q step status).canonical := by
  simp [State.endStep, h]

@[simp] theorem State.endTwin_canonical (s : State) (ok : Bool) (h : s.canonical) : (s.endTwin ok).canonical := by
  unfold State.endTwin
  split <;> simp [h]

@[simp] theorem State.endRequest_canonical (s : State) (p : Fin 20) (r : OutReq) (e : Ending) (h : s.canonical) : (s.endRequest p r e).canonical := by
  unfold State.endRequest
  repeat' split
  all_goals simp [h]

@[simp] theorem State.endRequests_canonical (s : State) (p : Fin 20) (l : List OutReq) (e : Ending) (h : s.canonical) :
    (s.endRequests p l e).canonical := by
  simp +contextual [State.endRequests, h]

@[simp] theorem State.portFails_sameMemories (s : State) (p : Fin 20) (cause : BitVec 4) : s.sameMemories (s.portFails p cause) := ⟨rfl, rfl⟩

@[simp] theorem State.portDown_canonical (s : State) (p : Fin 20) (cause : BitVec 4) (h : s.canonical) : (s.portDown p cause).canonical := by
  simp [State.portDown, h]

@[simp] theorem State.closeOut_canonical (s : State) (p : Fin 20) (e : Ending) (l : List Trans) (out : List OutReq) (h : s.canonical) :
    (s.closeOut p e l out).canonical := by
  induction l generalizing s out with
  | nil => simp [State.closeOut, h]
  | cons t l ih =>
    rw [State.closeOut]
    split
    · exact ih _ _ (by simp [h])
    · exact ih _ _ h

@[simp] theorem State.portOff_canonical (s : State) (p : Fin 20) (h : s.canonical) : (s.portOff p).canonical := by
  simp [State.portOff, h]

@[simp] theorem State.portsOff_canonical (s : State) (h : s.canonical) : s.portsOff.canonical := by
  simp +contextual [State.portsOff, h]

@[simp] theorem State.sendTombstone_canonical (s : State) (p : Fin 20) (h : s.canonical) : (s.sendTombstone p).canonical := by
  unfold State.sendTombstone
  dsimp only
  split <;> simp [h]

@[simp] theorem State.beginFlush_canonical (s : State) (p : Fin 20) (reason : BitVec 8) (forced : Bool) (h : s.canonical) :
    (s.beginFlush p reason forced).canonical := by
  simp [State.beginFlush, h]

@[simp] theorem State.flushFails_canonical (s : State) (p : Fin 20) (cause : BitVec 4) (h : s.canonical) : (s.flushFails p cause).canonical := by
  simp [State.flushFails, h]

@[simp] theorem State.portLost_canonical (s : State) (p : Fin 20) (cause : BitVec 4) (h : s.canonical) : (s.portLost p cause).canonical := by
  unfold State.portLost
  split <;> simp [h]

@[simp] theorem State.retrain_canonical (s : State) (p : Fin 20) (h : s.canonical) : (s.retrain p).canonical := by
  simp [State.retrain, h]

@[simp] theorem State.fence_canonical (s : State) (l : HolderLease) (h : s.canonical) : (s.fence l).canonical := by
  unfold State.fence
  dsimp only
  generalize hended : List.foldl _ _ _ = t
  have ht : t.canonical := hended ▸ foldl_canonical _ _ _ (fun s c h => by simp [h]) (by simp [h])
  simp [ht]

/-! ## The registers a host writes -/

@[simp] theorem State.badEncoding_sameMemories (s : State) (fn : Fn) (off : ℕ) : s.sameMemories (s.badEncoding fn off) := by
  simp [State.badEncoding]

@[simp] theorem State.putFields_sameMemories (s : State) (fn : Fn) (off v : ℕ) : s.sameMemories (s.putFields fn off v) := by
  simp [State.putFields]

@[simp] theorem State.writeRwl_sameMemories (s : State) (fn : Fn) (off v : ℕ) : s.sameMemories (s.writeRwl fn off v) := by
  simp [State.writeRwl]

@[simp] theorem State.resetRegs_sameMemories (s : State) (which : ℕ → Bool) : s.sameMemories (s.resetRegs which) := ⟨rfl, rfl⟩

/-! ## The ordered quiesce, and what a module restart or a re-entry resets -/

@[simp] theorem State.stopRings_sameMemories (s : State) : s.sameMemories s.stopRings := ⟨rfl, rfl⟩

@[simp] theorem State.restartCover_canonical (s : State) : s.restartCover.canonical := by
  have hempty : ∀ tiles : Keyed Tile, padsOf (tiles.map fun e => (e.1, { e.2 with pad := [], padBad := [] })) = fun _ => [] := fun tiles =>
    padsOf_empty fun e he => by
      obtain ⟨k, -, rfl⟩ := List.mem_map.1 he
      rfl
  simp [State.restartCover, hempty]

@[simp] theorem State.newIdentity_sameMemories (s : State) : s.sameMemories s.newIdentity := by
  unfold State.newIdentity
  split <;> simp

@[simp] theorem State.writeModuleId_sameMemories (s : State) (fn : Fn) (v : ℕ) : s.sameMemories (s.writeModuleId fn v) := by
  simp [State.writeModuleId]

@[simp] theorem State.applyLate_sameMemories (s : State) : s.sameMemories s.applyLate := by
  simp [State.applyLate]

@[simp] theorem State.releaseLeases_canonical (s : State) (h : s.canonical) : s.releaseLeases.canonical := by
  simp +contextual [State.releaseLeases, h]

@[simp] theorem State.endFetched_canonical (s : State) (h : s.canonical) : s.endFetched.canonical := by
  unfold State.endFetched
  dsimp only
  generalize hforced : List.foldl _ s _ = t
  have ht : t.canonical := hforced ▸ foldl_canonical _ _ _ (fun s q h => by split <;> simp [h]) h
  generalize hflushed : List.foldl _ t.releaseLeases _ = u
  have hu : u.canonical := hflushed ▸ foldl_canonical _ _ _ (fun s q h => by split <;> simp [h]) (by simp [ht])
  simp [hu]

@[simp] theorem execQuiesceFetchDeadline_canonical (s : State) (h : s.canonical) : Ends State.canonical (execQuiesceFetchDeadline s) := by
  simp [execQuiesceFetchDeadline, h]

@[simp] theorem State.endFlush_canonical (s : State) (h : s.canonical) : s.endFlush.canonical := by
  simp [State.endFlush, h]

@[simp] theorem State.enterAgain_canonical (s : State) : s.enterAgain.canonical := by
  simp [State.enterAgain]

@[simp] theorem execQuiescePowerDown_canonical (s : State) (h : s.canonical) : Ends State.canonical (execQuiescePowerDown s) := by
  simp [execQuiescePowerDown, h]

/-! ## Crown's boot -/

@[simp] theorem State.bootSlot_sameMemories (s : State) (k : Fin 2) : s.sameMemories (s.bootSlot k) := ⟨rfl, rfl⟩

@[simp] theorem State.selectSlot_sameMemories (s : State) : s.sameMemories s.selectSlot := by
  simp [State.selectSlot]

@[simp] theorem State.bootRom_sameMemories (s : State) (restart : Bool) : s.sameMemories (s.bootRom restart) := by
  simp [State.bootRom]

@[simp] theorem State.openLog_sameMemories (s : State) : s.sameMemories s.openLog := by
  simp [State.openLog]

@[simp] theorem State.writeNote_canonical (s : State) (n : CrownNote) (h : s.canonical) : (s.writeNote n).canonical := by
  unfold State.writeNote
  split <;> simp [h]

@[simp] theorem State.unwrapKey_sameMemories (s : State) : s.sameMemories s.unwrapKey := ⟨rfl, rfl⟩

@[simp] theorem State.wipe_sameMemories (s : State) : s.sameMemories s.wipe := ⟨rfl, rfl⟩

@[simp] theorem State.trimCores_sameMemories (s : State) : s.sameMemories s.trimCores := ⟨rfl, rfl⟩

@[simp] theorem State.stage1Actions_sameMemories (s : State) : s.sameMemories s.stage1Actions := by
  simp [State.stage1Actions]

@[simp] theorem State.startFirmware_canonical (s : State) (h : s.canonical) : s.startFirmware.canonical := by
  unfold State.startFirmware
  dsimp only
  generalize hnoted : List.foldl State.writeNote _ _ = t
  have ht : t.canonical := by
    rw [← hnoted]
    refine foldl_canonical _ _ _ (fun s n h => by simp [h]) ?_
    split <;> simp [h]
  have hreported : ((t.flag crnErr 6).report 0xA 0).canonical := by simp [ht]
  split
  · simp [hreported]
  · exact ht

@[simp] theorem State.dropEntry_sameMemories (s : State) : s.sameMemories s.dropEntry := by
  simp [State.dropEntry]

@[simp] theorem State.dropLoopTest_sameMemories (s : State) : s.sameMemories s.dropLoopTest := by
  unfold State.dropLoopTest
  split <;> simp

@[simp] theorem State.crownRestart_sameMemories (s : State) : s.sameMemories s.crownRestart := by
  simp [State.crownRestart]

/-! ## How the console takes a command -/

@[simp] theorem State.countChange_sameMemories (s : State) (c : CmdClass) : s.sameMemories (s.countChange c) := by
  simp [State.countChange]

@[simp] theorem State.heardByte_sameMemories (s : State) : s.sameMemories s.heardByte := ⟨rfl, rfl⟩

@[simp] theorem State.hears_sameMemories (s : State) (line : List Byte) : s.sameMemories (s.hears line) := ⟨rfl, rfl⟩

@[simp] theorem State.console_sameMemories (s : State) (line : String) (c : CmdClass) (byHwd : Bool) (check : State → Nat) (run : State → State)
    (hrun : ∀ s : State, s.sameMemories (run s)) : s.sameMemories (s.console line c byHwd check run) := by
  unfold State.console
  simp [hrun]

theorem State.console_canonical {s : State} (line : String) (c : CmdClass) (byHwd : Bool) (check : State → Nat) {run : State → State} (h : s.canonical)
    (hrun : ∀ s : State, s.canonical → (run s).canonical) : (s.console line c byHwd check run).canonical := by
  unfold State.console
  dsimp only
  split
  · exact h
  · split
    · simp [h]
    · split
      · simp [h]
      · split
        · simp [h]
        · split
          · simp [h]
          · exact hrun _ (by simp [h])

@[simp] theorem State.consoleArg_sameMemories {α : Type} (s : State) (line : String) (c : CmdClass) (byHwd : Bool) (arg : Option α)
    (check : α → State → Nat) (run : α → State → State) (hrun : ∀ x (s : State), s.sameMemories (run x s)) :
    s.sameMemories (s.consoleArg line c byHwd arg check run) := by
  cases arg <;> simp [State.consoleArg, hrun]

theorem State.consoleArg_canonical {α : Type} {s : State} (line : String) (c : CmdClass) (byHwd : Bool) (arg : Option α)
    (check : α → State → Nat) {run : α → State → State} (h : s.canonical) (hrun : ∀ x (s : State), s.canonical → (run x s).canonical) :
    (s.consoleArg line c byHwd arg check run).canonical := by
  cases arg with
  | none => exact State.console_canonical _ _ _ _ h fun s hs => hs
  | some x => exact State.console_canonical _ _ _ _ h fun s hs => hrun x s hs

/-! ## The rings and mailboxes of the host functions, and the messages -/

@[simp] theorem execCrownWatchdog_canonical (s : State) (h : s.canonical) : Ends State.canonical (execCrownWatchdog s) := by
  simp [execCrownWatchdog, h]

@[simp] theorem execTamper_canonical (sensor : TamperSensor) (s : State) (h : s.canonical) : Ends State.canonical (execTamper sensor s) := by
  simp [execTamper, h]

@[simp] theorem State.noteRingCmd_sameMemories (s : State) (fn : Fn) (cmd : ℕ) : s.sameMemories (s.noteRingCmd fn cmd) := ⟨rfl, rfl⟩

@[simp] theorem State.hostMask_canonical (s : State) (fn : Fn) (h : s.canonical) : (s.hostMask fn).1.canonical := by
  simp [State.hostMask, h]

@[simp] theorem State.forgetRead_sameMemories (s : State) (src : MsgSrc) : s.sameMemories (s.forgetRead src) := ⟨rfl, rfl⟩

@[simp] theorem State.ringStart_canonical (s : State) (fn : Fn) (h : s.canonical) : (s.ringStart fn).canonical := by
  simp [State.ringStart, h]

@[simp] theorem State.ringStop_sameMemories (s : State) (fn : Fn) : s.sameMemories (s.ringStop fn) := by
  simp [State.ringStop]

@[simp] theorem State.ringCommand_canonical (s : State) (fn : Fn) (cmd : ℕ) (h : s.canonical) : (s.ringCommand fn cmd).canonical := by
  simp [State.ringCommand, h]

@[simp] theorem execRingStart_canonical (fn : Fn) (s : State) (h : s.canonical) : Ends State.canonical (execRingStart fn s) := by
  simp [execRingStart, h]

@[simp] theorem execRingStop_canonical (fn : Fn) (s : State) (h : s.canonical) : Ends State.canonical (execRingStop fn s) := by
  simp [execRingStop, h]

@[simp] theorem State.kick_sameMemories (s : State) (fn : Fn) : s.sameMemories (s.kick fn) := ⟨rfl, rfl⟩

@[simp] theorem execCrnKick_canonical (fn : Fn) (s : State) (h : s.canonical) : Ends State.canonical (execCrnKick fn s) := by
  simp [execCrnKick, h]

@[simp] theorem State.readSlot_canonical (s : State) (fn : Fn) (i : ℕ) (h : s.canonical) : (s.readSlot fn i).1.canonical := by
  simp [State.readSlot, h]

@[simp] theorem State.readSlots_canonical (s : State) (fn : Fn) (i n : Nat) (h : s.canonical) : (s.readSlots fn i n).1.canonical := by
  induction n generalizing s i with
  | zero => exact h
  | succ n ih => exact ih _ _ (by simp [h])

@[simp] theorem State.newRequests_canonical (s : State) (fn : Fn) (h : s.canonical) : (s.newRequests fn).1.canonical := by
  simp [State.newRequests, h]

@[simp] theorem State.pollRing_canonical (s : State) (fn : Fn) (h : s.canonical) : (s.pollRing fn).canonical := by
  have hput := fun l => State.putReplies_canonical _ fn l (State.flushEvents_canonical s fn h)
  have hasked := fun l => State.newRequests_canonical _ fn (hput l)
  have hread := fun l i n => State.readSlots_canonical _ fn i n (hasked l)
  unfold State.pollRing
  simp [hput, hread]

@[simp] theorem State.pollStopping_canonical (s : State) (fn : Fn) (h : s.canonical) : (s.pollStopping fn).canonical := by
  simp [State.pollStopping, h]

@[simp] theorem execRingPoll_canonical (fn : Fn) (sram : SramErr) (s : State) (h : s.canonical) : Ends State.canonical (execRingPoll fn sram s) := by
  simp [execRingPoll, h]

@[simp] theorem State.mailboxGo_sameMemories (s : State) (fn : Fn) : s.sameMemories (s.mailboxGo fn) := by
  simp [State.mailboxGo]

@[simp] theorem execMailboxGo_canonical (fn : Fn) (s : State) (h : s.canonical) : Ends State.canonical (execMailboxGo fn s) := by
  simp [execMailboxGo, h]

@[simp] theorem State.onMsg_canonical (s : State) (src : MsgSrc) (mtype : Nat) (need : Option Nat) (run : State → List Byte → State) (h : s.canonical)
    (hrun : ∀ (s : State) m, s.canonical → (run s m).canonical) : (s.onMsg src mtype need run).canonical := by
  have hran := fun m => hrun s m h
  unfold State.onMsg
  split
  · exact h
  · split
    · exact h
    · simp [h, hran]

@[simp] theorem execUnsupportedMessage_canonical (src : MsgSrc) (s : State) (h : s.canonical) :
    Ends State.canonical (execUnsupportedMessage src s) := by
  unfold execUnsupportedMessage
  split <;> simp [h]

@[simp] theorem State.withBuffer_canonical (s : State) (src : MsgSrc) (m : List Byte) (run : State → List Byte → State) (h : s.canonical)
    (hrun : ∀ (s : State) m, s.canonical → (run s m).canonical) : (s.withBuffer src m run).canonical := by
  have hread : ∀ v a n, ((s.visit v a n).devCheck v a n []).1.canonical := fun v a n => by simp [h]
  unfold State.withBuffer
  dsimp only
  split
  · simp [h]
  · split
    · exact h
    · split
      · simp [hread]
      · exact hrun _ _ (hread _ _ _)

@[simp] theorem execGetStatus_canonical (src : MsgSrc) (s : State) (h : s.canonical) : Ends State.canonical (execGetStatus src s) := by
  simp +contextual [execGetStatus, h]

@[simp] theorem State.issueNonce_sameMemories (s : State) (path : Fin 3) : s.sameMemories (s.issueNonce path) := ⟨rfl, rfl⟩

@[simp] theorem execGetNonce_canonical (src : MsgSrc) (s : State) (h : s.canonical) : Ends State.canonical (execGetNonce src s) := by
  simp +contextual [execGetNonce, h]

@[simp] theorem execNonceExpiry_canonical (path : CmdSrc) (s : State) (h : s.canonical) : Ends State.canonical (execNonceExpiry path s) := by
  simp [execNonceExpiry, h]

@[simp] theorem execGetEvents_canonical (src : MsgSrc) (s : State) (h : s.canonical) : Ends State.canonical (execGetEvents src s) := by
  simp +contextual [execGetEvents, h]

@[simp] theorem State.deliverShare_sameMemories (s : State) (w smooth source : ℕ) : s.sameMemories (s.deliverShare w smooth source) := by
  simp [State.deliverShare]

@[simp] theorem execSetShare_canonical (src : MsgSrc) (s : State) (h : s.canonical) : Ends State.canonical (execSetShare src s) := by
  simp +contextual [execSetShare, h]

@[simp] theorem State.slotAction_sameMemories (s : State) (n : Fin 4) (a : LeAction) : s.sameMemories (s.slotAction n a) := by
  unfold State.slotAction
  split <;> simp

@[simp] theorem execLeRequest_canonical (src : MsgSrc) (slot : ℕ) (act : LeAction) (s : State) (h : s.canonical) :
    Ends State.canonical (execLeRequest src slot act s) := by
  unfold execLeRequest
  split <;> simp +contextual [h]

@[simp] theorem State.answerRefused_canonical (s : State) (src : MsgSrc) (h : s.canonical) : (s.answerRefused src).canonical := by
  simp [State.answerRefused, h]

@[simp] theorem execEpochStage_canonical (src : MsgSrc) (blocks : Blocks) (s : State) (h : s.canonical) :
    Ends State.canonical (execEpochStage src blocks s) := by
  refine State.onMsg_canonical _ _ _ _ _ h fun s m hs => State.withBuffer_canonical _ _ _ _ hs fun s b hs => ?_
  split <;> simp [hs]

@[simp] theorem execHostEpochPropose_canonical (src : MsgSrc) (s : State) (h : s.canonical) : Ends State.canonical (execHostEpochPropose src s) := by
  refine State.onMsg_canonical _ _ _ _ _ h fun s m hs => ?_
  repeat' split
  all_goals simp [hs]

@[simp] theorem execEpochInstall_canonical (src : MsgSrc) (epoch : BitVec 64) (blocks : Blocks) (s : State) (h : s.canonical) :
    Ends State.canonical (execEpochInstall src epoch blocks s) := by
  refine State.onMsg_canonical _ _ _ _ _ h fun s m hs => State.withBuffer_canonical _ _ _ _ hs fun s b hs => ?_
  split <;> simp [hs]

@[simp] theorem State.ownLease_canonical (s : State) (m : List Byte) (h : s.canonical) : (s.ownLease m).canonical := by
  simp [State.ownLease, h]

@[simp] theorem execLease_canonical (src : MsgSrc) (s : State) (h : s.canonical) : Ends State.canonical (execLease src s) := by
  refine State.onMsg_canonical _ _ _ _ _ h fun s m hs => ?_
  simp [hs]

/-! ## Image updates, the life cycle, and authorisation tokens -/

@[simp] theorem State.eraseSlot_sameMemories (s : State) (k : Fin 2) : s.sameMemories (s.eraseSlot k) := ⟨rfl, rfl⟩

@[simp] theorem execImageLoad_canonical (src : MsgSrc) (s : State) (h : s.canonical) : Ends State.canonical (execImageLoad src s) := by
  unfold execImageLoad
  split
  · exact h
  · refine State.onMsg_canonical _ _ _ _ _ h fun s m hs => ?_
    split
    · split <;> simp [hs]
    · refine State.withBuffer_canonical _ _ _ _ hs fun s b hs => ?_
      dsimp only
      split <;> simp [hs]

@[simp] theorem State.answerLoad_canonical (s : State) (l : ImageLoad) (status : ℕ) (body : List Byte) (h : s.canonical) :
    (s.answerLoad l status body).canonical := by
  simp [State.answerLoad, h]

@[simp] theorem execImageLoadComplete_canonical (readBackOk : Bool) (s : State) (h : s.canonical) :
    Ends State.canonical (execImageLoadComplete readBackOk s) := by
  unfold execImageLoadComplete
  split <;> simp [h]

@[simp] theorem execImageActivate_canonical (src : MsgSrc) (s : State) (h : s.canonical) : Ends State.canonical (execImageActivate src s) := by
  simp +contextual [execImageActivate, h]

@[simp] theorem execImageConfirm_canonical (src : MsgSrc) (s : State) (h : s.canonical) : Ends State.canonical (execImageConfirm src s) := by
  simp +contextual [execImageConfirm, h]

@[simp] theorem State.changeLife_canonical (s : State) (new : Life) (h : s.canonical) : (s.changeLife new).canonical := by
  simp [State.changeLife, h]

@[simp] theorem execDeploy_canonical (src : MsgSrc) (s : State) (h : s.canonical) : Ends State.canonical (execDeploy src s) := by
  refine State.onMsg_canonical _ _ _ _ _ h fun s m hs => ?_
  split
  · simp [hs]
  · refine State.withBuffer_canonical _ _ _ _ hs fun s b hs => ?_
    dsimp only
    split
    · simp [hs]
    · exact State.answerMsg_canonical _ _ _ _ (State.changeLife_canonical _ _ hs)

@[simp] theorem execEndService_canonical (src : CmdPath) (s : State) (h : s.canonical) : Ends State.canonical (execEndService src s) := by
  unfold execEndService
  split
  · refine State.onMsg_canonical _ _ _ _ _ h fun s m hs => ?_
    split <;> simp [hs]
  · exact State.console_canonical _ _ _ _ h fun s hs => by simp [hs]

@[simp] theorem execFactoryProvisioning_canonical (cert : List (BitVec 8)) (s : State) (h : s.canonical) :
    Ends State.canonical (execFactoryProvisioning cert s) := by
  simp [execFactoryProvisioning, h]

@[simp] theorem State.spendNonce_sameMemories (s : State) (path : Fin 3) (t : List Byte) : s.sameMemories (s.spendNonce path t) := by
  simp [State.spendNonce]

@[simp] theorem State.answerToken_canonical (s : State) (path : AuthPath) (status : ℕ) (h : s.canonical) : (s.answerToken path status).canonical := by
  unfold State.answerToken
  split <;> simp [h]

@[simp] theorem State.useToken_canonical (s : State) (path : AuthPath) (t : List Byte) (act : State → State) (h : s.canonical)
    (hact : ∀ s : State, s.canonical → (act s).canonical) : (s.useToken path t act).canonical := by
  unfold State.useToken
  dsimp only
  split
  · exact hact _ (by simp [h])
  · simp [h]

@[simp] theorem State.startCheck_sameMemories (s : State) (src : MsgSrc) : s.sameMemories (s.startCheck src) := by
  simp [State.startCheck]

@[simp] theorem State.endCheck_sameMemories (s : State) (src : MsgSrc) : s.sameMemories (s.endCheck src) := ⟨rfl, rfl⟩

@[simp] theorem State.useTyped_canonical (s : State) (bytes : List Byte) (act : State → List Byte → State) (h : s.canonical)
    (hact : ∀ (s : State) t, s.canonical → (act s t).canonical) : (s.useTyped bytes act).canonical := by
  unfold State.useTyped
  split
  · exact State.useToken_canonical _ _ _ _ h fun s hs => hact _ _ hs
  · simp [h]

@[simp] theorem State.authorise_canonical (s : State) (path : AuthPath) (mine : ℕ → Bool) (passes : BitVec 8) (act : State → List Byte → State) (h : s.canonical)
    (hact : ∀ (s : State) t, s.canonical → (act s t).canonical) : (s.authorise path mine passes act).canonical := by
  have huse : ∀ (s : State) t, s.canonical → (if mine (tokenAction t) then s.useToken path t (fun s => act s t) else s).canonical := fun s t hs => by
    split
    · exact State.useToken_canonical _ _ _ _ hs fun s hs => hact s t hs
    · exact hs
  unfold State.authorise
  dsimp only
  split
  · refine State.onMsg_canonical _ _ _ _ _ h fun s m hs => ?_
    split
    · simp [hs]
    · split
      · exact huse _ _ (by simp [hs])
      · split
        · simp [hs]
        · split
          · simp [hs]
          · split
            · simp [hs]
            · exact State.withBuffer_canonical _ _ _ _ (by simp [hs]) huse
  · split
    · refine State.console_canonical _ _ _ _ h fun s hs => ?_
      split
      · simp [hs]
      · exact State.useTyped_canonical _ _ _ (by simp [hs]) hact
    · exact h

@[simp] theorem State.enterService_canonical (s : State) (src : AuthPath) (h : s.canonical) : (s.enterService src).canonical := by
  simp [State.enterService, h]

@[simp] theorem State.releaseOwner_canonical (s : State) (src : AuthPath) (h : s.canonical) : (s.releaseOwner src).canonical := by
  simp [State.releaseOwner, h]

@[simp] theorem State.retireModule_canonical (s : State) (src : AuthPath) (h : s.canonical) : (s.retireModule src).canonical := by
  simp [State.retireModule, h]

@[simp] theorem execEnterService_canonical (src : AuthPath) (s : State) (h : s.canonical) : Ends State.canonical (execEnterService src s) := by
  simp +contextual [execEnterService, h]

@[simp] theorem execOwnerRelease_canonical (src : AuthPath) (s : State) (h : s.canonical) : Ends State.canonical (execOwnerRelease src s) := by
  simp +contextual [execOwnerRelease, h]

@[simp] theorem execRetireModule_canonical (src : AuthPath) (s : State) (h : s.canonical) : Ends State.canonical (execRetireModule src s) := by
  simp +contextual [execRetireModule, h]

@[simp] theorem State.takeEdit_canonical (s : State) (t : List Byte) (i : ℕ) (h : s.canonical) : (s.takeEdit t i).canonical := by
  simp [State.takeEdit, h]

@[simp] theorem State.editMap_canonical (s : State) (src : AuthPath) (passes : BitVec 8) (t : List Byte) (h : s.canonical) :
    (s.editMap src passes t).canonical := by
  unfold State.editMap
  split
  · exact State.answerToken_canonical _ _ _ (foldl_canonical _ _ _ (fun s i h => by simp [h]) h)
  · simp [h]

@[simp] theorem execEditRetirementMap_canonical (src : AuthPath) (passes : BitVec 8) (s : State) (h : s.canonical) :
    Ends State.canonical (execEditRetirementMap src passes s) := by
  simp +contextual [execEditRetirementMap, h]

end Sys2Proof.Machine
end

section
/-! Berux ports, sideband messages and collectives: what they do to the two memories. -/

namespace Sys2Proof.Machine

open Sys2Proof

/-! ## Berux ports -/

@[simp] theorem State.busyWrite_sameMemories (s : State) : s.sameMemories s.busyWrite := ⟨rfl, rfl⟩

@[simp] theorem State.detect_sameMemories (s : State) (p : Fin 20) : s.sameMemories (s.detect p) := ⟨rfl, rfl⟩

@[simp] theorem State.portCommand_canonical (s : State) (p : Fin 20) (cmd : ℕ) (h : s.canonical) : (s.portCommand p cmd).canonical := by
  unfold State.portCommand
  dsimp only
  repeat' split
  all_goals simp [h]

@[simp] theorem State.portWrite_canonical (s : State) (p : Fin 20) (cmd : ℕ) (h : s.canonical) : (s.portWrite p cmd).canonical := by
  simp [State.portWrite, h]

@[simp] theorem execPortEnable_canonical (fn : Fn) (p : Fin 20) (s : State) (h : s.canonical) : Ends State.canonical (execPortEnable fn p s) := by
  simp [execPortEnable, h]

@[simp] theorem execPortDisable_canonical (fn : Fn) (p : Fin 20) (s : State) (h : s.canonical) : Ends State.canonical (execPortDisable fn p s) := by
  simp [execPortDisable, h]

@[simp] theorem execPortForce_canonical (fn : Fn) (p : Fin 20) (s : State) (h : s.canonical) : Ends State.canonical (execPortForce fn p s) := by
  simp [execPortForce, h]

@[simp] theorem execCableDetectAttempt_canonical (p : Fin 20) (ans : CableAnswer) (s : State) (h : s.canonical) :
    Ends State.canonical (execCableDetectAttempt p ans s) := by
  unfold execCableDetectAttempt
  split <;> simp [h]

@[simp] theorem State.sendWord_sameMemories (s : State) (p : Fin 20) : s.sameMemories (s.sendWord p) := ⟨rfl, rfl⟩

@[simp] theorem execTrainLock_canonical (p : Fin 20) (lanes precode : BitVec 8) (s : State) (h : s.canonical) :
    Ends State.canonical (execTrainLock p lanes precode s) := by
  unfold execTrainLock
  split <;> simp [h]

@[simp] theorem execTrainTimeout_canonical (p : Fin 20) (s : State) (h : s.canonical) : Ends State.canonical (execTrainTimeout p s) := by
  simp [execTrainTimeout, h]

@[simp] theorem State.settlePort_sameMemories (s : State) (p : Fin 20) (w : List Byte) : s.sameMemories (s.settlePort p w) := by
  unfold State.settlePort
  dsimp only
  split <;> simp

@[simp] theorem State.countFec_sameMemories (s : State) (p : Fin 20) (fec : Fec) : s.sameMemories (s.countFec p fec) := ⟨rfl, rfl⟩

@[simp] theorem State.dropFlit_sameMemories (s : State) (p : Fin 20) : s.sameMemories (s.dropFlit p) := ⟨rfl, rfl⟩

@[simp] theorem execTrainingWord_canonical (p : Fin 20) (flit : List (BitVec 8)) (fec : Fec) (s : State) (h : s.canonical) :
    Ends State.canonical (execTrainingWord p flit fec s) := by
  unfold execTrainingWord
  dsimp only
  repeat' split
  all_goals simp [h]

@[simp] theorem execNegotiateTimeout_canonical (p : Fin 20) (s : State) (h : s.canonical) : Ends State.canonical (execNegotiateTimeout p s) := by
  simp [execNegotiateTimeout, h]

@[simp] theorem execRetrainTrigger_canonical (p : Fin 20) (why : RetrainCause) (s : State) (h : s.canonical) :
    Ends State.canonical (execRetrainTrigger p why s) := by
  unfold execRetrainTrigger
  split <;> simp [h]

@[simp] theorem execRetrainLock_canonical (p : Fin 20) (lanes : BitVec 8) (s : State) (h : s.canonical) :
    Ends State.canonical (execRetrainLock p lanes s) := by
  unfold execRetrainLock
  dsimp only
  repeat' split
  all_goals simp [h]

@[simp] theorem execRetrainTimeout_canonical (p : Fin 20) (s : State) (h : s.canonical) : Ends State.canonical (execRetrainTimeout p s) := by
  simp [execRetrainTimeout, h]

@[simp] theorem execPortAutoRetry_canonical (p : Fin 20) (s : State) (h : s.canonical) : Ends State.canonical (execPortAutoRetry p s) := by
  simp [execPortAutoRetry, h]

@[simp] theorem State.passOn_sameMemories (s : State) (p : Fin 20) (b : List Byte) : s.sameMemories (s.passOn p b) := by
  unfold State.passOn
  repeat' split
  all_goals simp

@[simp] theorem State.takeTrans_sameMemories (s : State) (p : Fin 20) (v : Fin 6) (b : List Byte) (slots : ℕ) :
    s.sameMemories (s.takeTrans p v b slots) := by
  simp [State.takeTrans]

@[simp] theorem State.takeSlots_sameMemories (s : State) (p : Fin 20) (v : Fin 6) (slots : List (List Byte)) :
    s.sameMemories (s.takeSlots p v slots) := by
  simp [State.takeSlots]

@[simp] theorem State.takeAck_sameMemories (s : State) (p : Fin 20) (f : List Byte) : s.sameMemories (s.takeAck p f) := by
  simp [State.takeAck]

@[simp] theorem State.takeMessage_sameMemories (s : State) (p : Fin 20) (m0 : List Byte) : s.sameMemories (s.takeMessage p m0) := by
  unfold State.takeMessage
  dsimp only
  repeat' split
  all_goals simp

@[simp] theorem State.takeFlit_sameMemories (s : State) (p : Fin 20) (f : List Byte) : s.sameMemories (s.takeFlit p f) := by
  simp [State.takeFlit]

@[simp] theorem State.receive_sameMemories (s : State) (p : Fin 20) (f : List Byte) (fec : Fec) : s.sameMemories (s.receive p f fec) := by
  unfold State.receive
  split <;> simp

@[simp] theorem execDataFlit_canonical (p : Fin 20) (flit : List (BitVec 8)) (fec : Fec) (sram : SramErr) (s : State) (h : s.canonical) :
    Ends State.canonical (execDataFlit p flit fec sram s) := by
  simp [execDataFlit, h]

@[simp] theorem execIdleFlit_canonical (p : Fin 20) (flit : List (BitVec 8)) (fec : Fec) (s : State) (h : s.canonical) :
    Ends State.canonical (execIdleFlit p flit fec s) := by
  simp [execIdleFlit, h]

@[simp] theorem execNakRepeat_canonical (p : Fin 20) (s : State) (h : s.canonical) : Ends State.canonical (execNakRepeat p s) := by
  simp [execNakRepeat, h]

@[simp] theorem execLinkFailureDuringFlush_canonical (p : Fin 20) (cause : BitVec 4) (s : State) (h : s.canonical) :
    Ends State.canonical (execLinkFailureDuringFlush p cause s) := by
  simp [execLinkFailureDuringFlush, h]

@[simp] theorem execFlushDrainEnd_canonical (p : Fin 20) (s : State) (h : s.canonical) : Ends State.canonical (execFlushDrainEnd p s) := by
  simp [execFlushDrainEnd, h]

@[simp] theorem execFlushTimeout_canonical (p : Fin 20) (s : State) (h : s.canonical) : Ends State.canonical (execFlushTimeout p s) := by
  simp [execFlushTimeout, h]

@[simp] theorem execTombstoneDone_canonical (p : Fin 20) (s : State) (h : s.canonical) : Ends State.canonical (execTombstoneDone p s) := by
  simp [execTombstoneDone, h]

@[simp] theorem State.takeRequest_sameMemories (s : State) (p : Fin 20) (t : Trans) (rest : List Trans) :
    s.sameMemories (s.takeRequest p t rest) := ⟨rfl, rfl⟩

@[simp] theorem State.visitHome_sameMemories (s : State) (b : List Byte) : s.sameMemories (s.visitHome b) := by
  simp [State.visitHome]

@[simp] theorem State.noteCopy_sameMemories (s : State) (p : Fin 20) (b : List Byte) (status : ℕ) : s.sameMemories (s.noteCopy p b status) := by
  simp [State.noteCopy]

@[simp] theorem State.serve_canonical (s : State) (p : Fin 20) (is : List Byte → Bool) (perform : State → List Byte → State × Nat × List Byte)
    (h : s.canonical) (hperform : ∀ (s : State) b, s.canonical → (perform s b).1.canonical) : (s.serve p is perform).canonical := by
  unfold State.serve
  split
  · exact h
  · rename_i t rest _
    have hdone : (perform ((s.takeRequest p t rest).visitHome t.bytes) t.bytes).1.canonical := hperform _ _ (by simp [h])
    dsimp only
    simp [h, hdone]

@[simp] theorem State.readFor_canonical (s : State) (errs : DramErrs) (ecc : PadErrs) (b : List Byte) (h : s.canonical) :
    (s.readFor errs ecc b).1.canonical := by
  unfold State.readFor
  repeat' split
  all_goals simp [h]

@[simp] theorem State.writeFor_canonical (s : State) (errs : DramErrs) (ecc : PadErrs) (b : List Byte) (h : s.canonical) :
    (s.writeFor errs ecc b).1.canonical := by
  unfold State.writeFor
  repeat' split
  all_goals simp [h]

@[simp] theorem State.atomicFor_canonical (s : State) (op : AtomicOp) (errs : DramErrs) (b : List Byte) (h : s.canonical) :
    (s.atomicFor op errs b).1.canonical := by
  simp [State.atomicFor, h]

@[simp] theorem State.reduceFor_canonical (s : State) (errs : DramErrs) (b : List Byte) (h : s.canonical) : (s.reduceFor errs b).1.canonical := by
  unfold State.reduceFor
  refine foldl_fst_canonical _ _ _ (fun x k hx => ?_) h
  dsimp only
  split <;> simp [hx]

@[simp] theorem execBxRead_canonical (p : Fin 20) (errs : DramErrs) (ecc : PadErrs) (s : State) (h : s.canonical) :
    Ends State.canonical (execBxRead p errs ecc s) := by
  simp +contextual [execBxRead, h]

@[simp] theorem execBxWrite_canonical (p : Fin 20) (errs : DramErrs) (ecc : PadErrs) (s : State) (h : s.canonical) :
    Ends State.canonical (execBxWrite p errs ecc s) := by
  simp +contextual [execBxWrite, h]

@[simp] theorem execBxAtomicSwap_canonical (p : Fin 20) (errs : DramErrs) (s : State) (h : s.canonical) :
    Ends State.canonical (execBxAtomicSwap p errs s) := by
  simp +contextual [execBxAtomicSwap, h]

@[simp] theorem execBxAtomicCompareAndSwap_canonical (p : Fin 20) (errs : DramErrs) (s : State) (h : s.canonical) :
    Ends State.canonical (execBxAtomicCompareAndSwap p errs s) := by
  simp +contextual [execBxAtomicCompareAndSwap, h]

@[simp] theorem execBxAtomicIntegerAdd_canonical (p : Fin 20) (errs : DramErrs) (s : State) (h : s.canonical) :
    Ends State.canonical (execBxAtomicIntegerAdd p errs s) := by
  simp +contextual [execBxAtomicIntegerAdd, h]

@[simp] theorem execBxAtomicSignedMin_canonical (p : Fin 20) (errs : DramErrs) (s : State) (h : s.canonical) :
    Ends State.canonical (execBxAtomicSignedMin p errs s) := by
  simp +contextual [execBxAtomicSignedMin, h]

@[simp] theorem execBxAtomicSignedMax_canonical (p : Fin 20) (errs : DramErrs) (s : State) (h : s.canonical) :
    Ends State.canonical (execBxAtomicSignedMax p errs s) := by
  simp +contextual [execBxAtomicSignedMax, h]

@[simp] theorem execBxAtomicUnsignedMin_canonical (p : Fin 20) (errs : DramErrs) (s : State) (h : s.canonical) :
    Ends State.canonical (execBxAtomicUnsignedMin p errs s) := by
  simp +contextual [execBxAtomicUnsignedMin, h]

@[simp] theorem execBxAtomicUnsignedMax_canonical (p : Fin 20) (errs : DramErrs) (s : State) (h : s.canonical) :
    Ends State.canonical (execBxAtomicUnsignedMax p errs s) := by
  simp +contextual [execBxAtomicUnsignedMax, h]

@[simp] theorem execBxAtomicAnd_canonical (p : Fin 20) (errs : DramErrs) (s : State) (h : s.canonical) :
    Ends State.canonical (execBxAtomicAnd p errs s) := by
  simp +contextual [execBxAtomicAnd, h]

@[simp] theorem execBxAtomicOr_canonical (p : Fin 20) (errs : DramErrs) (s : State) (h : s.canonical) :
    Ends State.canonical (execBxAtomicOr p errs s) := by
  simp +contextual [execBxAtomicOr, h]

@[simp] theorem execBxAtomicXor_canonical (p : Fin 20) (errs : DramErrs) (s : State) (h : s.canonical) :
    Ends State.canonical (execBxAtomicXor p errs s) := by
  simp +contextual [execBxAtomicXor, h]

@[simp] theorem execBxAtomicFp32Add_canonical (p : Fin 20) (errs : DramErrs) (s : State) (h : s.canonical) :
    Ends State.canonical (execBxAtomicFp32Add p errs s) := by
  simp +contextual [execBxAtomicFp32Add, h]

@[simp] theorem execBxReduce_canonical (p : Fin 20) (errs : DramErrs) (s : State) (h : s.canonical) :
    Ends State.canonical (execBxReduce p errs s) := by
  simp +contextual [execBxReduce, h]

@[simp] theorem execBeruxInvalidTransaction_canonical (p : Fin 20) (s : State) (h : s.canonical) :
    Ends State.canonical (execBeruxInvalidTransaction p s) := by
  unfold execBeruxInvalidTransaction
  split <;> simp [h]

@[simp] theorem State.takeResponse_canonical (s : State) (p : Fin 20) (kind : ℕ) (h : s.canonical) : (s.takeResponse p kind).canonical := by
  unfold State.takeResponse
  dsimp only
  repeat' split
  all_goals simp [h]

@[simp] theorem execReadRsp_canonical (p : Fin 20) (s : State) (h : s.canonical) : Ends State.canonical (execReadRsp p s) := by
  simp [execReadRsp, h]

@[simp] theorem execWriteAck_canonical (p : Fin 20) (s : State) (h : s.canonical) : Ends State.canonical (execWriteAck p s) := by
  simp [execWriteAck, h]

@[simp] theorem execAtomicRsp_canonical (p : Fin 20) (s : State) (h : s.canonical) : Ends State.canonical (execAtomicRsp p s) := by
  simp [execAtomicRsp, h]

@[simp] theorem execCollAck_canonical (p : Fin 20) (s : State) (h : s.canonical) : Ends State.canonical (execCollAck p s) := by
  simp [execCollAck, h]

@[simp] theorem execBeruxRequestTimeout_canonical (p : Fin 20) (tag : BitVec 16) (s : State) (h : s.canonical) :
    Ends State.canonical (execBeruxRequestTimeout p tag s) := by
  unfold execBeruxRequestTimeout
  dsimp only
  split <;> simp [h]

/-! ## Sideband messages, leases and promotion, epoch messages, and cables and cages -/

theorem State.nextMessage_sameMemories {s : State} {p : Fin 20} {n : Nat} {r : State × List Byte} (hr : s.nextMessage p n = some r) :
    s.sameMemories r.1 := by
  unfold State.nextMessage at hr
  repeat' split at hr
  all_goals cases hr
  simp

theorem State.nextMessage_canonical {s t : State} {p : Fin 20} {n : Nat} {m : List Byte} (h : s.canonical) (ht : s.nextMessage p n = some (t, m)) :
    t.canonical :=
  State.canonical_of_same (State.nextMessage_sameMemories ht) h

@[simp] theorem execHeartbeatSend_canonical (p : Fin 20) (s : State) (h : s.canonical) : Ends State.canonical (execHeartbeatSend p s) := by
  simp [execHeartbeatSend, h]

@[simp] theorem State.seeCommit_sameMemories (s : State) (m : List Byte) : s.sameMemories (s.seeCommit m) := by
  unfold State.seeCommit
  split <;> simp

@[simp] theorem execHeartbeat_canonical (p : Fin 20) (s : State) (h : s.canonical) : Ends State.canonical (execHeartbeat p s) := by
  unfold execHeartbeat
  split
  · exact h
  · rename_i ht
    have hgot := State.nextMessage_canonical h ht
    dsimp only
    simp [hgot]

@[simp] theorem execHeartbeatLoss_canonical (p : Fin 20) (s : State) (h : s.canonical) : Ends State.canonical (execHeartbeatLoss p s) := by
  simp [execHeartbeatLoss, h]

@[simp] theorem execCapNotice_canonical (p : Fin 20) (s : State) (h : s.canonical) : Ends State.canonical (execCapNotice p s) := by
  unfold execCapNotice
  split
  · exact h
  · rename_i ht
    have hgot := State.nextMessage_canonical h ht
    dsimp only
    simp [hgot]

@[simp] theorem State.witnessed_canonical (s : State) (m : List Byte) (f : State → State) (h : s.canonical) (hf : ∀ s : State, s.canonical → (f s).canonical) :
    
    (s.witnessed m f).canonical := by
  unfold State.witnessed
  split
  · simp [h]
  · exact hf _ h

@[simp] theorem State.grantLease_sameMemories (s : State) (holder standby : ℕ) : s.sameMemories (s.grantLease holder standby) := by
  simp [State.grantLease]

@[simp] theorem execLeaseRequest_canonical (p : Fin 20) (s : State) (h : s.canonical) : Ends State.canonical (execLeaseRequest p s) := by
  unfold execLeaseRequest
  split
  · exact h
  · rename_i ht
    have hgot := State.nextMessage_canonical h ht
    refine State.witnessed_canonical _ _ _ hgot fun s hs => ?_
    simp [hs]

@[simp] theorem execLeaseGrant_canonical (p : Fin 20) (s : State) (h : s.canonical) : Ends State.canonical (execLeaseGrant p s) := by
  unfold execLeaseGrant
  split
  · exact h
  · rename_i ht
    have hgot := State.nextMessage_canonical h ht
    simp [hgot]

@[simp] theorem execLeaseRenew_canonical (p : Fin 20) (s : State) (h : s.canonical) : Ends State.canonical (execLeaseRenew p s) := by
  unfold execLeaseRenew
  split
  · exact h
  · rename_i ht
    have hgot := State.nextMessage_canonical h ht
    refine State.witnessed_canonical _ _ _ hgot fun s hs => ?_
    split <;> simp [hs]

@[simp] theorem execLeaseRenewAck_canonical (p : Fin 20) (s : State) (h : s.canonical) : Ends State.canonical (execLeaseRenewAck p s) := by
  unfold execLeaseRenewAck
  split
  · exact h
  · rename_i ht
    have hgot := State.nextMessage_canonical h ht
    simp [hgot]

@[simp] theorem execLeaseRelease_canonical (p : Fin 20) (s : State) (h : s.canonical) : Ends State.canonical (execLeaseRelease p s) := by
  unfold execLeaseRelease
  split
  · exact h
  · rename_i ht
    have hgot := State.nextMessage_canonical h ht
    exact State.witnessed_canonical _ _ _ hgot fun s hs => by simp [hs]

@[simp] theorem State.markLease_sameMemories (s : State) (l : WitnessLease) : s.sameMemories (s.markLease l) := ⟨rfl, rfl⟩

@[simp] theorem execPromoteRequest_canonical (p : Fin 20) (s : State) (h : s.canonical) : Ends State.canonical (execPromoteRequest p s) := by
  unfold execPromoteRequest
  split
  · exact h
  · rename_i ht
    have hgot := State.nextMessage_canonical h ht
    refine State.witnessed_canonical _ _ _ hgot fun s hs => ?_
    dsimp only
    split <;> simp [hs]

@[simp] theorem execPromoteGrant_canonical (p : Fin 20) (s : State) (h : s.canonical) : Ends State.canonical (execPromoteGrant p s) := by
  unfold execPromoteGrant
  split
  · exact h
  · rename_i ht
    have hgot := State.nextMessage_canonical h ht
    simp [hgot]

@[simp] theorem execPromoteDeny_canonical (p : Fin 20) (s : State) (h : s.canonical) : Ends State.canonical (execPromoteDeny p s) := by
  unfold execPromoteDeny
  split
  · exact h
  · rename_i ht
    have hgot := State.nextMessage_canonical h ht
    exact hgot

@[simp] theorem execLeaseRenewTimer_canonical (i : ℕ) (s : State) (h : s.canonical) : Ends State.canonical (execLeaseRenewTimer i s) := by
  unfold execLeaseRenewTimer
  split <;> simp [h]

@[simp] theorem execLeaseMiss_canonical (i : ℕ) (s : State) (h : s.canonical) : Ends State.canonical (execLeaseMiss i s) := by
  unfold execLeaseMiss
  split <;> simp [h]

@[simp] theorem execHolderSelfFence_canonical (i : ℕ) (s : State) (h : s.canonical) : Ends State.canonical (execHolderSelfFence i s) := by
  unfold execHolderSelfFence
  split <;> simp [h]

@[simp] theorem execPromoteRequestResend_canonical (i : ℕ) (s : State) (h : s.canonical) : Ends State.canonical (execPromoteRequestResend i s) := by
  unfold execPromoteRequestResend
  split <;> simp [h]

@[simp] theorem execTombstone_canonical (p : Fin 20) (s : State) (h : s.canonical) : Ends State.canonical (execTombstone p s) := by
  unfold execTombstone
  split
  · exact h
  · rename_i ht
    have hgot := State.nextMessage_canonical h ht
    repeat' split
    all_goals simp [hgot]

@[simp] theorem execEpochPropose_canonical (p : Fin 20) (s : State) (h : s.canonical) : Ends State.canonical (execEpochPropose p s) := by
  unfold execEpochPropose
  split
  · exact h
  · rename_i ht
    have hgot := State.nextMessage_canonical h ht
    simp [hgot]

@[simp] theorem execEpochVote_canonical (p : Fin 20) (s : State) (h : s.canonical) : Ends State.canonical (execEpochVote p s) := by
  unfold execEpochVote
  split
  · exact h
  · rename_i ht
    have hgot := State.nextMessage_canonical h ht
    simp [hgot]

@[simp] theorem execEpochCommit_canonical (p : Fin 20) (s : State) (h : s.canonical) : Ends State.canonical (execEpochCommit p s) := by
  unfold execEpochCommit
  split
  · exact h
  · rename_i ht
    have hgot := State.nextMessage_canonical h ht
    split <;> simp [hgot]

@[simp] theorem execEpochVoteTimeout_canonical (role : VoteRole) (s : State) (h : s.canonical) :
    Ends State.canonical (execEpochVoteTimeout role s) := by
  unfold execEpochVoteTimeout
  repeat' split
  all_goals simp [h]

@[simp] theorem State.noteWarning_sameMemories (s : State) (p : Fin 20) : s.sameMemories (s.noteWarning p) := by
  unfold State.noteWarning
  split <;> simp

@[simp] theorem execCableMonitorRead_canonical (p : Fin 20) (ans : Option CableReading) (s : State) (h : s.canonical) :
    Ends State.canonical (execCableMonitorRead p ans s) := by
  unfold execCableMonitorRead
  dsimp only
  repeat' split
  all_goals simp [h]

@[simp] theorem execCagePresenceChange_canonical (p : Fin 20) (low : Bool) (s : State) (h : s.canonical) :
    Ends State.canonical (execCagePresenceChange p low s) := by
  simp [execCagePresenceChange, h]

@[simp] theorem execCageCurrentLimit_canonical (p : Fin 20) (s : State) (h : s.canonical) : Ends State.canonical (execCageCurrentLimit p s) := by
  simp [execCageCurrentLimit, h]

@[simp] theorem execCagePowerRetry_canonical (p : Fin 20) (s : State) (h : s.canonical) : Ends State.canonical (execCagePowerRetry p s) := by
  simp [execCagePowerRetry, h]

/-! ## COLLECTIVE descriptors and their instances, COLL transactions, and step-boundary MARKs -/

@[simp] theorem State.endEarly_sameMemories (s : State) (q : Fin 64) (code detail : ℕ) : s.sameMemories (s.endEarly q code detail) := by
  simp [State.endEarly]

@[simp] theorem State.takeSeq_sameMemories (s : State) (set : ℕ) (seq : BitVec 32) : s.sameMemories (s.takeSeq set seq) := ⟨rfl, rfl⟩

@[simp] theorem State.beginColl_canonical (s : State) (q : Fin 64) (c : Collective) (errs : DramErrs) (h : s.canonical) :
    (s.beginColl q c errs).canonical := by
  have hready := fun f => State.sendReady_canonical (((s.startFront q).takeSeq c.set c.seq).setFleet f) q 1 (by simp [h])
  unfold State.beginColl
  split
  · exact State.startInstance_canonical _ _ _ (hready _)
  · exact hready _

@[simp] theorem State.collective_canonical (s : State) (q : Fin 64) (op : ℕ) (errs : DramErrs) (h : s.canonical) :
    (s.collective q op errs).canonical := by
  unfold State.collective
  dsimp only
  repeat' split
  all_goals simp [h]

@[simp] theorem execAllReduce_canonical (q : Fin 64) (errs : DramErrs) (s : State) (h : s.canonical) :
    Ends State.canonical (execAllReduce q errs s) := by
  simp [execAllReduce, h]

@[simp] theorem execReduceScatter_canonical (q : Fin 64) (errs : DramErrs) (s : State) (h : s.canonical) :
    Ends State.canonical (execReduceScatter q errs s) := by
  simp [execReduceScatter, h]

@[simp] theorem execAllGather_canonical (q : Fin 64) (errs : DramErrs) (s : State) (h : s.canonical) :
    Ends State.canonical (execAllGather q errs s) := by
  simp [execAllGather, h]

@[simp] theorem execAllToAll_canonical (q : Fin 64) (errs : DramErrs) (s : State) (h : s.canonical) :
    Ends State.canonical (execAllToAll q errs s) := by
  simp [execAllToAll, h]

@[simp] theorem execBroadcast_canonical (q : Fin 64) (errs : DramErrs) (s : State) (h : s.canonical) :
    Ends State.canonical (execBroadcast q errs s) := by
  simp [execBroadcast, h]

@[simp] theorem execCollectiveInstanceStart_canonical (q : Fin 64) (errs : DramErrs) (s : State) (h : s.canonical) :
    Ends State.canonical (execCollectiveInstanceStart q errs s) := by
  unfold execCollectiveInstanceStart
  split <;> simp [h]

@[simp] theorem State.boundary_sameMemories (s : State) : s.sameMemories s.boundary := by
  simp [State.boundary]

@[simp] theorem execCollectiveInstanceDone_canonical (q : Fin 64) (s : State) (h : s.canonical) :
    Ends State.canonical (execCollectiveInstanceDone q s) := by
  unfold execCollectiveInstanceDone
  repeat' split
  all_goals simp [h]

@[simp] theorem execCollectiveInstanceTimeout_canonical (q : Fin 64) (s : State) (h : s.canonical) :
    Ends State.canonical (execCollectiveInstanceTimeout q s) := by
  unfold execCollectiveInstanceTimeout
  split <;> simp [h]

theorem State.nextColl_sameMemories {s : State} {p : Fin 20} {op : Nat} {r : State × List Byte} (hr : s.nextColl p op = some r) :
    s.sameMemories r.1 := by
  unfold State.nextColl at hr
  split at hr
  · cases hr
  · cases hr
    simp

theorem State.nextColl_canonical {s t : State} {p : Fin 20} {op : Nat} {b : List Byte} (h : s.canonical) (ht : s.nextColl p op = some (t, b)) :
    t.canonical :=
  State.canonical_of_same (State.nextColl_sameMemories ht) h

@[simp] theorem execCollReady_canonical (p : Fin 20) (errs : DramErrs) (s : State) (h : s.canonical) :
    Ends State.canonical (execCollReady p errs s) := by
  unfold execCollReady
  split
  · exact h
  · rename_i ht
    have hgot := State.nextColl_canonical h ht
    dsimp only
    repeat' split
    all_goals simp [hgot]

@[simp] theorem State.received_sameMemories (s : State) (c : Collective) (m : ℕ) (x : Xfer) (n : ℕ) :
    s.sameMemories (s.received c m x n) := ⟨rfl, rfl⟩

@[simp] theorem State.putBytes_canonical (s : State) (c : Collective) (x : Xfer) (off : ℕ) (bytes : List Byte) (errs : DramErrs) (h : s.canonical) :
    (s.putBytes c x off bytes errs).1.canonical := by
  simp [State.putBytes, h]

@[simp] theorem execCollPut_canonical (p : Fin 20) (errs : DramErrs) (s : State) (h : s.canonical) : Ends State.canonical (execCollPut p errs s) := by
  unfold execCollPut
  split
  · exact h
  · rename_i ht
    have hgot := State.nextColl_canonical h ht
    dsimp only
    split
    · split
      · simp [hgot]
      · split
        · exact h
        · generalize hput : State.putBytes _ _ _ _ _ _ = w
          have hw : w.1.canonical := by
            rw [← hput]
            refine State.putBytes_canonical _ _ _ _ _ _ ?_
            split <;> simp [hgot]
          repeat' split
          all_goals simp [hw]
    · simp [hgot]

@[simp] theorem execCollReduce_canonical (p : Fin 20) (sram : SramErr) (errs : DramErrs) (s : State) (h : s.canonical) :
    Ends State.canonical (execCollReduce p sram errs s) := by
  unfold execCollReduce
  split
  · exact h
  · rename_i ht
    have hgot := State.nextColl_canonical h ht
    dsimp only
    split
    · refine ite_canonical h (ite_canonical (by simp [hgot]) ?_)
      split
      · simp [hgot]
      · rename_i c m _ _ _ x hx
        simp only [hx]
        by_cases hown : (x.chunk == c.me) = true
        · simp only [hown, if_true]
          split <;> simp [hgot]
        · simp only [hown]
          split <;> simp [hgot]
    · simp [hgot]

@[simp] theorem execCollCommit_canonical (p : Fin 20) (s : State) (h : s.canonical) : Ends State.canonical (execCollCommit p s) := by
  unfold execCollCommit
  split
  · exact h
  · rename_i ht
    have hgot := State.nextColl_canonical h ht
    dsimp only
    simp [hgot]

@[simp] theorem execCollAbort_canonical (p : Fin 20) (s : State) (h : s.canonical) : Ends State.canonical (execCollAbort p s) := by
  unfold execCollAbort
  split
  · exact h
  · rename_i ht
    have hgot := State.nextColl_canonical h ht
    dsimp only
    split <;> simp [hgot]

@[simp] theorem State.copyRequest_canonical (s : State) (q : Fin 64) (ttype flags dest op addr : ℕ) (data : List Byte) (commit : Bool) (h : s.canonical) :
    
    (s.copyRequest q ttype flags dest op addr data commit).1.canonical := by
  unfold State.copyRequest
  dsimp only
  split
  · rename_i ht
    exact State.canonical_of_same (State.sendRequest_sameMemories ht) (by simp [h])
  · exact h

@[simp] theorem State.copyBlock_canonical (s : State) (q : Fin 64) (dest : ℕ) (b : ℕ × ℕ) (h : s.canonical) : (s.copyBlock q dest b).1.canonical := by
  simp [State.copyBlock, h]

@[simp] theorem State.runCopy_canonical (s : State) (q : Fin 64) (dest : ℕ) (ranges : List CopyRange) (step : BitVec 64) (errs : DramErrs) (h : s.canonical) :
    
    (s.runCopy q dest ranges step errs).1.canonical := by
  unfold State.runCopy
  dsimp only
  split
  · exact h
  · generalize hcopied : List.foldl _ _ _ = o
    have ho : o.1.canonical := hcopied ▸ foldl_fst_canonical _ _ _ (fun x b hx => by split <;> simp [hx]) (by simp [h])
    split
    · simp [ho]
    · exact ho

@[simp] theorem execMarkStepBoundary_canonical (q : Fin 64) (errs : DramErrs) (s : State) (h : s.canonical) :
    Ends State.canonical (execMarkStepBoundary q errs s) := by
  unfold execMarkStepBoundary
  dsimp only
  split
  · exact h
  · split
    · simp [h]
    · split
      · simp [h]
      · split
        · exact h
        · generalize hvisited : List.foldl _ s _ = t
          have ht : t.canonical := hvisited ▸ foldl_canonical _ _ _ (fun s r h => by simp [h]) h
          split
          · simp [ht]
          · simp [ht]

end Sys2Proof.Machine
end

section
/-! Vector and matrix instructions, the ring log, attestation and starts: what they do to the two memories. -/

namespace Sys2Proof.Machine

open Sys2Proof

/-! ## The vector instructions -/

@[simp] theorem roundedLanes_canonical (th : Thr) (f : LaneFmt) (d a b : BitVec 5) (md : BitVec 8) (op : Rounding → ℕ → ℕ → ℕ → ℕ → ℕ × FFlags) (s : State) (h : s.canonical) :
    (roundedLanes th f d a b md op s).canonical := by
  unfold roundedLanes
  refine State.issue_canonical th h fun x => ?_
  split <;> simp [h]

@[simp] theorem plainLanes_canonical (th : Thr) (f : LaneFmt) (d a b : BitVec 5) (md : BitVec 8) (free : ℕ) (op : Rounding → ℕ → ℕ → ℕ → ℕ × FFlags) (s : State) (h : s.canonical) :
    (plainLanes th f d a b md free op s).canonical := by
  unfold plainLanes
  refine State.issue_canonical th h fun x => ?_
  split <;> simp [h]

@[simp] theorem execVadd_canonical (th : Thr) (fmt : LaneFmt) (d a b : BitVec 5) (md : BitVec 8) (s : State) (h : s.canonical) :
    Ends State.canonical (execVadd th fmt d a b md s) := by
  simp [execVadd, h]

@[simp] theorem execVsub_canonical (th : Thr) (fmt : LaneFmt) (d a b : BitVec 5) (md : BitVec 8) (s : State) (h : s.canonical) :
    Ends State.canonical (execVsub th fmt d a b md s) := by
  simp [execVsub, h]

@[simp] theorem execVmul_canonical (th : Thr) (fmt : LaneFmt) (d a b : BitVec 5) (md : BitVec 8) (s : State) (h : s.canonical) :
    Ends State.canonical (execVmul th fmt d a b md s) := by
  simp [execVmul, h]

@[simp] theorem execVfma_canonical (th : Thr) (fmt : LaneFmt) (d a b : BitVec 5) (md : BitVec 8) (s : State) (h : s.canonical) :
    Ends State.canonical (execVfma th fmt d a b md s) := by
  simp [execVfma, h]

@[simp] theorem execVrcp_canonical (th : Thr) (fmt : LaneFmt) (d a b : BitVec 5) (md : BitVec 8) (s : State) (h : s.canonical) :
    Ends State.canonical (execVrcp th fmt d a b md s) := by
  simp [execVrcp, h]

@[simp] theorem execVsqrt_canonical (th : Thr) (fmt : LaneFmt) (d a b : BitVec 5) (md : BitVec 8) (s : State) (h : s.canonical) :
    Ends State.canonical (execVsqrt th fmt d a b md s) := by
  simp [execVsqrt, h]

@[simp] theorem execVrsqrt_canonical (th : Thr) (fmt : LaneFmt) (d a b : BitVec 5) (md : BitVec 8) (s : State) (h : s.canonical) :
    Ends State.canonical (execVrsqrt th fmt d a b md s) := by
  simp [execVrsqrt, h]

@[simp] theorem execVexp2_canonical (th : Thr) (fmt : LaneFmt) (d a b : BitVec 5) (md : BitVec 8) (s : State) (h : s.canonical) :
    Ends State.canonical (execVexp2 th fmt d a b md s) := by
  simp [execVexp2, h]

@[simp] theorem execVmin_canonical (th : Thr) (fmt : LaneFmt) (d a b : BitVec 5) (md : BitVec 8) (s : State) (h : s.canonical) :
    Ends State.canonical (execVmin th fmt d a b md s) := by
  simp [execVmin, h]

@[simp] theorem execVmax_canonical (th : Thr) (fmt : LaneFmt) (d a b : BitVec 5) (md : BitVec 8) (s : State) (h : s.canonical) :
    Ends State.canonical (execVmax th fmt d a b md s) := by
  simp [execVmax, h]

@[simp] theorem execVabs_canonical (th : Thr) (fmt : LaneFmt) (d a b : BitVec 5) (md : BitVec 8) (s : State) (h : s.canonical) :
    Ends State.canonical (execVabs th fmt d a b md s) := by
  simp [execVabs, h]

@[simp] theorem execVneg_canonical (th : Thr) (fmt : LaneFmt) (d a b : BitVec 5) (md : BitVec 8) (s : State) (h : s.canonical) :
    Ends State.canonical (execVneg th fmt d a b md s) := by
  simp [execVneg, h]

@[simp] theorem execVsel_canonical (th : Thr) (fmt : LaneFmt) (d a b : BitVec 5) (md : BitVec 8) (s : State) (h : s.canonical) :
    Ends State.canonical (execVsel th fmt d a b md s) := by
  refine State.issue_canonical th h fun x => ?_
  split <;> simp [h]

@[simp] theorem execVbcast_canonical (th : Thr) (fmt : LaneFmt) (d a b : BitVec 5) (md : BitVec 8) (s : State) (h : s.canonical) :
    Ends State.canonical (execVbcast th fmt d a b md s) := by
  refine State.issue_canonical th h fun x => ?_
  split <;> simp [h]

@[simp] theorem execVextr_canonical (th : Thr) (fmt : LaneFmt) (d a b : BitVec 5) (md : BitVec 8) (s : State) (h : s.canonical) :
    Ends State.canonical (execVextr th fmt d a b md s) := by
  refine State.issue_canonical th h fun x => ?_
  split <;> simp [h]

@[simp] theorem execVsum_canonical (th : Thr) (fmt : LaneFmt) (d a b : BitVec 5) (md : BitVec 8) (s : State) (h : s.canonical) :
    Ends State.canonical (execVsum th fmt d a b md s) := by
  refine State.issue_canonical th h fun x => ?_
  split <;> simp [h]

@[simp] theorem laneCompare_canonical (th : Thr) (fmt : LaneFmt) (d a b : BitVec 5) (md : BitVec 8) (test : Ordering → Bool) (s : State) (h : s.canonical) :
    (laneCompare th fmt d a b md test s).canonical := by
  unfold laneCompare
  refine State.issue_canonical th h fun x => ?_
  split <;> simp [h]

@[simp] theorem execVcmpEq_canonical (th : Thr) (fmt : LaneFmt) (d a b : BitVec 5) (md : BitVec 8) (s : State) (h : s.canonical) :
    Ends State.canonical (execVcmpEq th fmt d a b md s) := by
  simp [execVcmpEq, h]

@[simp] theorem execVcmpLt_canonical (th : Thr) (fmt : LaneFmt) (d a b : BitVec 5) (md : BitVec 8) (s : State) (h : s.canonical) :
    Ends State.canonical (execVcmpLt th fmt d a b md s) := by
  simp [execVcmpLt, h]

@[simp] theorem execVcmpLe_canonical (th : Thr) (fmt : LaneFmt) (d a b : BitVec 5) (md : BitVec 8) (s : State) (h : s.canonical) :
    Ends State.canonical (execVcmpLe th fmt d a b md s) := by
  simp [execVcmpLe, h]

/-! ## Matrix instructions and conversions -/

@[simp] theorem startMma_holds (th : Thr) (kind : MmaKind) (align : ℕ) (acc : BitVec 2) (clr : Bool) (cnt : BitVec 3) (a b : BitVec 5) (s : State) (h : s.canonical) :
    (startMma th kind align acc clr cnt a b s).holds State.canonical := by
  unfold startMma
  split <;> simp [h]

@[simp] theorem execMmaG_canonical (th : Thr) (acc : BitVec 2) (clr : Bool) (cnt : BitVec 3) (a b : BitVec 5) (fa fb : BitVec 2) (res : BitVec 4) (s : State) (h : s.canonical) :
    Ends State.canonical (execMmaG th acc clr cnt a b fa fb res s) := by
  refine State.issue_canonical th h fun x => ?_
  split <;> simp [h]

@[simp] theorem execMmaB_canonical (th : Thr) (acc : BitVec 2) (clr : Bool) (cnt : BitVec 3) (a b : BitVec 5) (fa fb : BitVec 2) (res : BitVec 4) (s : State) (h : s.canonical) :
    Ends State.canonical (execMmaB th acc clr cnt a b fa fb res s) := by
  refine State.issue_canonical th h fun x => ?_
  simp [h]

@[simp] theorem execMmaH_canonical (th : Thr) (acc : BitVec 2) (clr : Bool) (cnt : BitVec 3) (a b : BitVec 5) (fa fb : BitVec 2) (res : BitVec 4) (s : State) (h : s.canonical) :
    Ends State.canonical (execMmaH th acc clr cnt a b fa fb res s) := by
  refine State.issue_canonical th h fun x => ?_
  simp [h]

@[simp] theorem execMclr_canonical (th : Thr) (_d _a b : BitVec 5) (md : BitVec 8) (s : State) (h : s.canonical) :
    Ends State.canonical (execMclr th _d _a b md s) := by
  refine State.issue_canonical th h fun x => ?_
  split <;> simp [h]

@[simp] theorem execMrd_canonical (th : Thr) (d a b : BitVec 5) (md : BitVec 8) (s : State) (h : s.canonical) :
    Ends State.canonical (execMrd th d a b md s) := by
  refine State.issue_canonical th h fun x => ?_
  split
  · refine needMatrix_holds _ _ _ _ (need_holds _ _ _ _ _ _ ?_)
    dsimp only
    split
    · simp [h]
    · exact finish_holds _ _ _ _ _ (by simp [h]) fun u hu => by simp [hu]
  · simp [h]

@[simp] theorem execMatrixInstructionEnd_canonical (t : Fin 2560) (ecc : PadErrs) (s : State) (h : s.canonical) :
    Ends State.canonical (execMatrixInstructionEnd t ecc s) := by
  unfold execMatrixInstructionEnd
  dsimp only
  repeat' split
  all_goals simp [h]

@[simp] theorem execCvt_canonical (th : Thr) (dst : BitVec 3) (d a b : BitVec 5) (md : BitVec 8) (s : State) (h : s.canonical) :
    Ends State.canonical (execCvt th dst d a b md s) := by
  refine State.issue_canonical th h fun x => ?_
  split <;> simp [h]

@[simp] theorem State.storeParts_canonical (s : State) (t base : Nat) (l : List (Nat × List Byte)) (h : s.canonical) :
    (s.storeParts t base l).canonical := by
  induction l generalizing s with
  | nil => exact h
  | cons e l ih => exact ih _ (by simp [h])

@[simp] theorem quantiseTo_canonical (th : Thr) (g : GrainFmt) (src : LaneFmt) (d a b : BitVec 5) (md : BitVec 8) (s : State) (h : s.canonical) :
    (quantiseTo th g src d a b md s).canonical := by
  unfold quantiseTo
  refine State.issue_canonical th h fun x => ?_
  split
  · refine need_holds _ _ _ _ _ _ ?_
    dsimp only
    repeat' split
    · simp [h]
    · simp [h]
    · exact finish_holds _ _ _ _ _ (by simp [h]) fun u hu => by simp [hu]
  · simp [h]

@[simp] theorem execQntG4_canonical (th : Thr) (src : LaneFmt) (d a b : BitVec 5) (md : BitVec 8) (s : State) (h : s.canonical) :
    Ends State.canonical (execQntG4 th src d a b md s) := by
  simp [execQntG4, h]

@[simp] theorem execQntG6_canonical (th : Thr) (src : LaneFmt) (d a b : BitVec 5) (md : BitVec 8) (s : State) (h : s.canonical) :
    Ends State.canonical (execQntG6 th src d a b md s) := by
  simp [execQntG6, h]

@[simp] theorem execQntG8_canonical (th : Thr) (src : LaneFmt) (d a b : BitVec 5) (md : BitVec 8) (s : State) (h : s.canonical) :
    Ends State.canonical (execQntG8 th src d a b md s) := by
  simp [execQntG8, h]

@[simp] theorem execDqnt_canonical (th : Thr) (w : GrainFmt) (d a b : BitVec 5) (md : BitVec 8) (ecc : PadErrs) (s : State) (h : s.canonical) :
    Ends State.canonical (execDqnt th w d a b md ecc s) := by
  refine State.issue_canonical th h fun x => ?_
  split <;> simp [h]

@[simp] theorem convertLine_holds (th : Thr) (d a : BitVec 5) (md : BitVec 8) (ecc : PadErrs) (x : Thread) (s : State) (free inLen outLen : ℕ) (rd : Rounding)
    (conv : List Byte → List Byte × FFlags) (h : s.canonical) : (convertLine th d a md ecc x s free inLen outLen rd conv).holds State.canonical := by
  unfold convertLine
  refine need_holds _ _ _ _ _ _ ?_
  have hchecked := fun off => State.padCheck_canonical s th.tile off inLen ecc h
  dsimp only
  repeat' split
  · simp [h]
  · simp [hchecked]
  · simp [hchecked]
  · exact finish_holds _ _ _ _ _ (by simp [hchecked]) fun u hu => by simp [hu]

@[simp] theorem execMxin_canonical (th : Thr) (fmt : BitVec 3) (d a b : BitVec 5) (md : BitVec 8) (ecc : PadErrs) (s : State) (h : s.canonical) :
    Ends State.canonical (execMxin th fmt d a b md ecc s) := by
  refine State.issue_canonical th h fun x => ?_
  split <;> simp [h]

@[simp] theorem execMxout_canonical (th : Thr) (fmt : BitVec 3) (d a b : BitVec 5) (md : BitVec 8) (ecc : PadErrs) (s : State) (h : s.canonical) :
    Ends State.canonical (execMxout th fmt d a b md ecc s) := by
  refine State.issue_canonical th h fun x => ?_
  split <;> simp [h]

/-! ## The ring log -/

@[simp] theorem execRecordClose_canonical (i : ℕ) (s : State) (h : s.canonical) : Ends State.canonical (execRecordClose i s) := by
  unfold execRecordClose
  split <;> simp [h]

@[simp] theorem execLogFlush_canonical (s : State) (h : s.canonical) : Ends State.canonical (execLogFlush s) := by
  simp [execLogFlush, h]

@[simp] theorem execPageProgramVerify_canonical (ok : Bool) (sram : SramErr) (s : State) (h : s.canonical) :
    Ends State.canonical (execPageProgramVerify ok sram s) := by
  simp [execPageProgramVerify, h]

@[simp] theorem State.copyLog_canonical (s : State) (src : MsgSrc) (m : List Byte) (h : s.canonical) : (s.copyLog src m).canonical := by
  simp [State.copyLog, h]

@[simp] theorem execLogRead_canonical (src : MsgSrc) (s : State) (h : s.canonical) : Ends State.canonical (execLogRead src s) := by
  refine State.onMsg_canonical _ _ _ _ _ h fun s m hs => ?_
  simp [hs]

@[simp] theorem State.flushAll_sameMemories (s : State) : s.sameMemories s.flushAll := by
  simp [State.flushAll]

@[simp] theorem State.awaitClear_sameMemories (s : State) (path : AuthPath) : s.sameMemories (s.awaitClear path) := by
  unfold State.awaitClear
  split <;> simp

@[simp] theorem State.beginClear_canonical (s : State) (src : AuthPath) (t : List Byte) (h : s.canonical) : (s.beginClear src t).canonical := by
  simp [State.beginClear, h]

@[simp] theorem execClearRingLog_canonical (src : AuthPath) (s : State) (h : s.canonical) : Ends State.canonical (execClearRingLog src s) := by
  simp +contextual [execClearRingLog, h]

@[simp] theorem State.typedAction_canonical (s : State) (passes : BitVec 8) (t : List Byte) (h : s.canonical) :
    (s.typedAction passes t).canonical := by
  unfold State.typedAction
  split <;> simp [h]

@[simp] theorem State.answerClear_canonical (s : State) (h : s.canonical) : s.answerClear.canonical := by
  unfold State.answerClear
  split <;> simp [h]

@[simp] theorem execLogClearEraseDone_canonical (s : State) (h : s.canonical) : Ends State.canonical (execLogClearEraseDone s) := by
  unfold execLogClearEraseDone
  split <;> simp [h]

/-! ## Attestation -/

@[simp] theorem State.spdmSay_sameMemories (s : State) (fn : Fn) (l : List Byte) : s.sameMemories (s.spdmSay fn l) := ⟨rfl, rfl⟩

@[simp] theorem State.spdm_sameMemories (s : State) (fn : Fn) (ready : SpdmState → Bool) (later : Bool) (run : State → State)
    (hrun : ∀ s : State, s.sameMemories (run s)) : s.sameMemories (s.spdm fn ready later run) := by
  unfold State.spdm
  simp [hrun]

@[simp] theorem State.spdmVersion_sameMemories (s : State) (fn : Fn) : s.sameMemories (s.spdmVersion fn) := by
  simp [State.spdmVersion]

@[simp] theorem State.spdmCapabilities_sameMemories (s : State) (fn : Fn) : s.sameMemories (s.spdmCapabilities fn) := by
  simp [State.spdmCapabilities]

@[simp] theorem State.spdmAlgorithms_sameMemories (s : State) (fn : Fn) (asym hash : BitVec 32) : s.sameMemories (s.spdmAlgorithms fn asym hash) := by
  simp [State.spdmAlgorithms]

@[simp] theorem State.spdmDigests_sameMemories (s : State) (fn : Fn) : s.sameMemories (s.spdmDigests fn) := by
  simp [State.spdmDigests]

@[simp] theorem State.spdmCertificate_sameMemories (s : State) (fn : Fn) (slot : BitVec 4) (off len : BitVec 16) :
    s.sameMemories (s.spdmCertificate fn slot off len) := by
  simp [State.spdmCertificate]

@[simp] theorem State.nonceAndTail_sameMemories (s : State) (middle : List Byte) (signed : Bool) :
    s.sameMemories (s.nonceAndTail middle signed).1 := ⟨rfl, rfl⟩

@[simp] theorem State.spdmChallenge_sameMemories (s : State) (fn : Fn) (slot : BitVec 4) (sram : SramErr) :
    s.sameMemories (s.spdmChallenge fn slot sram) := by
  simp [State.spdmChallenge]

@[simp] theorem State.spdmMeasurements_sameMemories (s : State) (fn : Fn) (index : BitVec 8) (signed : Bool) :
    s.sameMemories (s.spdmMeasurements fn index signed) := by
  simp [State.spdmMeasurements]

@[simp] theorem State.spdmOther_sameMemories (s : State) (fn : Fn) (code : BitVec 8) : s.sameMemories (s.spdmOther fn code) := by
  simp [State.spdmOther]

@[simp] theorem State.serveSpdm_sameMemories (s : State) (fn : Fn) (r : SpdmRequest) : s.sameMemories (s.serveSpdm fn r) := by
  unfold State.serveSpdm
  split <;> simp

@[simp] theorem State.askSpdm_sameMemories (s : State) (fn : Fn) (r : SpdmRequest) : s.sameMemories (s.askSpdm fn r) := by
  simp [State.askSpdm]

@[simp] theorem State.serveAsked_sameMemories (l : List (Fn × SpdmRequest)) (s : State) : s.sameMemories (State.serveAsked l s) := by
  induction l generalizing s with
  | nil => simp [State.serveAsked]
  | cons e l ih => simp [State.serveAsked, ih]

@[simp] theorem execGetVersion_canonical (fn : Fn) (s : State) (h : s.canonical) : Ends State.canonical (execGetVersion fn s) := by
  simp [execGetVersion, h]

@[simp] theorem execGetCapabilities_canonical (fn : Fn) (s : State) (h : s.canonical) : Ends State.canonical (execGetCapabilities fn s) := by
  simp [execGetCapabilities, h]

@[simp] theorem execNegotiateAlgorithms_canonical (fn : Fn) (asym hash : BitVec 32) (s : State) (h : s.canonical) :
    Ends State.canonical (execNegotiateAlgorithms fn asym hash s) := by
  simp [execNegotiateAlgorithms, h]

@[simp] theorem execGetDigests_canonical (fn : Fn) (s : State) (h : s.canonical) : Ends State.canonical (execGetDigests fn s) := by
  simp [execGetDigests, h]

@[simp] theorem execGetCertificate_canonical (fn : Fn) (slot : BitVec 4) (off len : BitVec 16) (s : State) (h : s.canonical) :
    Ends State.canonical (execGetCertificate fn slot off len s) := by
  simp [execGetCertificate, h]

@[simp] theorem execChallenge_canonical (fn : Fn) (slot : BitVec 4) (_nonce : BitVec 256) (sram : SramErr) (s : State) (h : s.canonical) :
    Ends State.canonical (execChallenge fn slot _nonce sram s) := by
  simp [execChallenge, h]

@[simp] theorem execGetMeasurements_canonical (fn : Fn) (index : BitVec 8) (signed : Bool) (_nonce : BitVec 256) (s : State) (h : s.canonical) :
    Ends State.canonical (execGetMeasurements fn index signed _nonce s) := by
  simp [execGetMeasurements, h]

@[simp] theorem execSpdmUnsupportedRequest_canonical (fn : Fn) (code : BitVec 8) (s : State) (h : s.canonical) :
    Ends State.canonical (execSpdmUnsupportedRequest fn code s) := by
  simp [execSpdmUnsupportedRequest, h]

/-! ## Marches under way -/

@[simp] theorem State.beginMarch_sameMemories (s : State) (m : March) : s.sameMemories (s.beginMarch m) := by
  simp [State.beginMarch]

@[simp] theorem execDailyTransparentMarch_canonical (region : Fin 20) (s : State) (h : s.canonical) :
    Ends State.canonical (execDailyTransparentMarch region s) := by
  simp [execDailyTransparentMarch, h]

@[simp] theorem State.tileTested_canonical (s : State) (site t : ℕ) (selfTestOk : Bool) (h : s.canonical) :
    (s.tileTested site t selfTestOk).canonical := by
  unfold State.tileTested
  dsimp only
  repeat' split
  all_goals simp [h]

@[simp] theorem State.marchTested_sameMemories (s : State) (mem inst : ℕ) (unrepairable faulty : Bool) :
    s.sameMemories (s.marchTested mem inst unrepairable faulty) := by
  unfold State.marchTested
  split <;> simp

@[simp] theorem State.loseLoop_sameMemories (s : State) (m : SramKind) : s.sameMemories (s.loseLoop m) := by
  simp [State.loseLoop]

@[simp] theorem State.marchCorrects_canonical (s : State) (m : SramKind) (inst : ℕ) (words : List ℕ) (h : s.canonical) :
    (s.marchCorrects m inst words).canonical := by
  unfold State.marchCorrects
  refine foldl_canonical _ _ _ (fun s a h => ?_) (by simp [h])
  repeat' split
  all_goals simp [h]

@[simp] theorem State.bootFails_sameMemories (s : State) (m : SramKind) : s.sameMemories (s.bootFails m) := by
  simp [State.bootFails]

@[simp] theorem State.endWipe_canonical (s : State) (inst : ℕ) (cells : List FailCell) (h : s.canonical) : (s.endWipe inst cells).canonical := by
  unfold State.endWipe
  dsimp only
  repeat' split
  all_goals simp +contextual [h]

@[simp] theorem State.endMarch_canonical (s : State) (m : SramKind) (inst : ℕ) (cells : List FailCell) (corr : List ℕ) (transparent selfTestOk : Bool) (h : s.canonical) :
    
    (s.endMarch m inst cells corr transparent selfTestOk).canonical := by
  unfold State.endMarch
  dsimp only
  generalize hcorrected : (if transparent then s.marchCorrects m inst corr else s) = t
  have ht : t.canonical := by rw [← hcorrected]; split <;> simp [h]
  have hfailed : (((t.repair m inst cells transparent).1.unrepairable m inst)).canonical := by simp [ht]
  split <;> simp [ht, hfailed]

@[simp] theorem execMarchEnd_canonical (mem : SramKind) (inst : ℕ) (cells : List FailCell) (corr : List ℕ) (selfTestOk : Bool) (s : State) (h : s.canonical) :
    Ends State.canonical (execMarchEnd mem inst cells corr selfTestOk s) := by
  unfold execMarchEnd
  split <;> simp [h]

/-! ## Power-on, Stages 0 to 3 and the Stage 3 entry, clock failures, the seal and the saved hours -/

@[simp] theorem execBusContactsMake_canonical (s : State) (h : s.canonical) : Ends State.canonical (execBusContactsMake s) := by
  simp [execBusContactsMake, h]

@[simp] theorem execPresencePinLow_canonical (pinB : Bool) (s : State) (h : s.canonical) : Ends State.canonical (execPresencePinLow pinB s) := by
  simp [execPresencePinLow, h]

@[simp] theorem execPresenceSettled_canonical (s : State) (h : s.canonical) : Ends State.canonical (execPresenceSettled s) := by
  simp [execPresenceSettled, h]

@[simp] theorem State.powerOn_canonical (s : State) : s.powerOn.canonical := by
  have hempty : padsOf s.powerOn.tiles = fun _ => [] := padsOf_empty fun e he => by
    obtain ⟨k, -, rfl⟩ := List.mem_map.1 he
    rfl
  rw [State.canonical, hempty]
  exact ⟨rfl, PadsCanonical_empty⟩

@[simp] theorem execPowerOn_canonical (f : FuseRead) (s : State) (h : s.canonical) : Ends State.canonical (execPowerOn f s) := by
  simp [execPowerOn, h]

@[simp] theorem State.loseConfig_canonical (s : State) (h : s.canonical) : s.loseConfig.canonical := by
  simp [State.loseConfig, h]

@[simp] theorem State.loadConfig_canonical (s : State) (p : ConfigPart) (lifeGood : Bool) (h : s.canonical) :
    (s.loadConfig p lifeGood).canonical := by
  have hempty : padsOf (s.loadConfig p lifeGood).tiles = fun _ => [] := padsOf_empty fun e he => by
    obtain ⟨k, -, rfl⟩ := List.mem_map.1 he
    rfl
  rw [State.canonical, hempty]
  exact ⟨h.1, PadsCanonical_empty⟩

@[simp] theorem State.takeConfig_canonical (s : State) (passes : BitVec 2) (lifeGood : Bool) (h : s.canonical) :
    (s.takeConfig passes lifeGood).canonical := by
  unfold State.takeConfig
  dsimp only
  split <;> simp [h]

@[simp] theorem execStage1Start_canonical (slotId : BitVec 6) (rxBreak : Bool) (passes : BitVec 2) (lifeGood : Bool) (s : State) (h : s.canonical) :
    Ends State.canonical (execStage1Start slotId rxBreak passes lifeGood s) := by
  simp [execStage1Start, h]

@[simp] theorem execFirmwareRunning_canonical (s : State) (h : s.canonical) : Ends State.canonical (execFirmwareRunning s) := by
  simp [execFirmwareRunning, h]

@[simp] theorem execMonitorWakeTimeout_canonical (s : State) (h : s.canonical) : Ends State.canonical (execMonitorWakeTimeout s) := by
  simp [execMonitorWakeTimeout, h]

@[simp] theorem State.beginStage2_sameMemories (s : State) : s.sameMemories s.beginStage2 := by
  simp [State.beginStage2]

@[simp] theorem execStage2Start_canonical (s : State) (h : s.canonical) : Ends State.canonical (execStage2Start s) := by
  simp [execStage2Start, h]

@[simp] theorem execStoreConnectTimeout_canonical (s : State) (h : s.canonical) : Ends State.canonical (execStoreConnectTimeout s) := by
  simp [execStoreConnectTimeout, h]

@[simp] theorem execStage3Entry_canonical (s : State) (h : s.canonical) : Ends State.canonical (execStage3Entry s) := by
  simp [execStage3Entry, h]

@[simp] theorem execDieBringupStart_canonical (d : Fin 4) (s : State) (h : s.canonical) : Ends State.canonical (execDieBringupStart d s) := by
  simp [execDieBringupStart, h]

@[simp] theorem execRootPllLock_canonical (d : Fin 4) (s : State) (h : s.canonical) : Ends State.canonical (execRootPllLock d s) := by
  simp [execRootPllLock, h]

@[simp] theorem execRootPllLockTimeout_canonical (d : Fin 4) (s : State) (h : s.canonical) : Ends State.canonical (execRootPllLockTimeout d s) := by
  simp [execRootPllLockTimeout, h]

@[simp] theorem State.stackFailsTest_canonical (s : State) (st : Fin 20) (h : s.canonical) : (s.stackFailsTest st).canonical := by
  simp [State.stackFailsTest, h]

@[simp] theorem State.testSites_canonical (s : State) (r : BringupResult) (h : s.canonical) : (s.testSites r).canonical := by
  have hmarched := foldl_canonical (fun (s : State) (m : MarchResult) => s.marched m.mem m.inst m.cells false) r.marches s (fun s m h => by simp [h]) h
  unfold State.testSites
  refine foldl_canonical _ _ _ (fun s row h => by simp [h]) ?_
  exact foldl_canonical _ _ _ (fun s t h => by simp [h]) hmarched

@[simp] theorem State.spareEdge_sameMemories (s : State) (edges : List (Fin 4 × Fin 35)) (e : Fin 4) :
    s.sameMemories (s.spareEdge edges e) := ⟨rfl, rfl⟩

@[simp] theorem State.noteEntry_sameMemories (s : State) : s.sameMemories s.noteEntry := by
  unfold State.noteEntry
  dsimp only
  split <;> simp

@[simp] theorem State.enterStage3_canonical (s : State) : s.enterStage3.canonical := by
  have hempty : ∀ tiles : Keyed Tile, padsOf (tiles.map fun e => (e.1, e.2.atStage3)) = fun _ => [] := fun tiles =>
    padsOf_empty fun e he => by
      obtain ⟨k, -, rfl⟩ := List.mem_map.1 he
      rfl
  unfold State.enterStage3
  dsimp only
  split <;> simp [hempty]

@[simp] theorem execDieBringupDone_canonical (d : Fin 4) (r : BringupResult) (s : State) (h : s.canonical) :
    Ends State.canonical (execDieBringupDone d r s) := by
  unfold execDieBringupDone
  dsimp only
  split
  · exact h
  · generalize hfailed : List.foldl State.stackFailsTest s _ = t
    have ht : t.canonical := hfailed ▸ foldl_canonical _ _ _ (fun s st h => by simp [h]) h
    generalize hspared : List.foldl _ (State.testSites _ _) _ = u
    have hu : u.canonical := hspared ▸ foldl_canonical _ _ _ (fun s e h => by simp [h]) (State.testSites_canonical _ _ ht)
    simp [hu]

@[simp] theorem execEntryRetry_canonical (s : State) (h : s.canonical) : Ends State.canonical (execEntryRetry s) := by
  simp [execEntryRetry, h]

@[simp] theorem State.losePll_canonical (s : State) (d : Fin 4) (h : s.canonical) : (s.losePll d).canonical := by
  simp [State.losePll, h]

@[simp] theorem execRootPllUnlock_canonical (d : Fin 4) (s : State) (h : s.canonical) : Ends State.canonical (execRootPllUnlock d s) := by
  unfold execRootPllUnlock
  dsimp only
  repeat' split
  all_goals simp [h]

@[simp] theorem execRefLoss_canonical (s : State) (h : s.canonical) : Ends State.canonical (execRefLoss s) := by
  simp +contextual [execRefLoss, h]

@[simp] theorem execRefRecovery_canonical (s : State) (h : s.canonical) : Ends State.canonical (execRefRecovery s) := by
  simp [execRefRecovery, h]

@[simp] theorem execHoursSave_canonical (s : State) (h : s.canonical) : Ends State.canonical (execHoursSave s) := by
  simp [execHoursSave, h]

/-! ## Restart, re-entry, the seal and re-arming -/

@[simp] theorem State.refuseCmd_sameMemories (s : State) : s.sameMemories s.refuseCmd := ⟨rfl, rfl⟩

@[simp] theorem State.reenterAt2_canonical (s : State) (kind : ℕ) : (s.reenterAt2 kind).canonical := by
  simp [State.reenterAt2]

@[simp] theorem State.restart_canonical (s : State) (kind : ℕ) (h : s.canonical) : (s.restart kind).canonical := by
  unfold State.restart
  repeat' split
  all_goals simp [h]

@[simp] theorem State.restartBy_canonical (s : State) (src : CmdSrc) (kind : ℕ) (h : s.canonical) : (s.restartBy src kind).canonical := by
  simp [State.restartBy, h]

@[simp] theorem execRestart_canonical (src : CmdSrc) (s : State) (h : s.canonical) : Ends State.canonical (execRestart src s) := by
  unfold execRestart
  split
  · split <;> simp [h]
  · exact State.console_canonical _ _ _ _ h fun s hs => by simp [hs]

@[simp] theorem State.reenter_canonical (s : State) (byConsole : Bool) (kind : ℕ) (h : s.canonical) : (s.reenter byConsole kind).canonical := by
  simp [State.reenter, h]

@[simp] theorem execReenter_canonical (src : CmdSrc) (s : State) (h : s.canonical) : Ends State.canonical (execReenter src s) := by
  unfold execReenter
  split
  · split <;> simp [h]
  · exact State.console_canonical _ _ _ _ h fun s hs => by simp [hs]

@[simp] theorem execAutoReentry_canonical (s : State) (h : s.canonical) : Ends State.canonical (execAutoReentry s) := by
  simp [execAutoReentry, h]

@[simp] theorem State.seal_sameMemories (s : State) (fn : Fn) (v : ℕ) : s.sameMemories (s.seal fn v) := by
  simp [State.seal]

@[simp] theorem execSeal_canonical (fn : Fn) (s : State) (h : s.canonical) : Ends State.canonical (execSeal fn s) := by
  simp [execSeal, h]

@[simp] theorem execRearm_canonical (src : CmdSrc) (rails : BitVec 11) (s : State) (h : s.canonical) :
    Ends State.canonical (execRearm src rails s) := by
  unfold execRearm
  split <;> simp [h]

end Sys2Proof.Machine
end

section
/-! The console, the set-up registers and Zejor, and every step: the two memories stay canonical. -/

namespace Sys2Proof.Machine

open Sys2Proof

/-! ## Commands of the Kenpex console -/

@[simp] theorem execSerialBreak_canonical (s : State) (h : s.canonical) : Ends State.canonical (execSerialBreak s) := by
  simp [execSerialBreak, h]

@[simp] theorem execBaud_canonical (rate : Arg) (s : State) (h : s.canonical) : Ends State.canonical (execBaud rate s) := by
  simp [execBaud, h]

@[simp] theorem execConsoleUnknownCommand_canonical (line : List Byte) (s : State) (h : s.canonical) :
    Ends State.canonical (execConsoleUnknownCommand line s) := by
  simp [execConsoleUnknownCommand, h]

@[simp] theorem execStatus_canonical (part : StatusPart) (s : State) (h : s.canonical) : Ends State.canonical (execStatus part s) := by
  simp [execStatus, h]

@[simp] theorem execLogDump_canonical (off : Arg) (s : State) (h : s.canonical) : Ends State.canonical (execLogDump off s) := by
  simp [execLogDump, h]

@[simp] theorem execNonce_canonical (s : State) (h : s.canonical) : Ends State.canonical (execNonce s) := by
  simp [execNonce, h]

@[simp] theorem execAckConfig_canonical (src : CmdPath) (s : State) (h : s.canonical) : Ends State.canonical (execAckConfig src s) := by
  unfold execAckConfig
  split <;> simp [h]

@[simp] theorem State.testTile_sameMemories (s : State) (t : ℕ) : s.sameMemories (s.testTile t) := by
  unfold State.testTile
  split <;> simp

@[simp] theorem execTestTile_canonical (t : Arg) (s : State) (h : s.canonical) : Ends State.canonical (execTestTile t s) := by
  simp [execTestTile, h]

@[simp] theorem execTestStack_canonical (st : Arg) (s : State) (h : s.canonical) : Ends State.canonical (execTestStack st s) := by
  refine State.consoleArg_canonical _ _ _ _ _ h fun st s hs => ?_
  exact foldl_canonical _ _ _ (fun s n h => by simp [h]) hs

@[simp] theorem execTestLink_canonical (p : Arg) (s : State) (h : s.canonical) : Ends State.canonical (execTestLink p s) := by
  simp [execTestLink, h]

@[simp] theorem execTestLinkEnd_canonical (p : Fin 20) (received : ℕ) (s : State) (h : s.canonical) :
    Ends State.canonical (execTestLinkEnd p received s) := by
  unfold execTestLinkEnd
  split <;> simp [h]

@[simp] theorem execTestRail_canonical (r : Option (Fin 11)) (mv : ℕ) (s : State) (h : s.canonical) : Ends State.canonical (execTestRail r mv s) := by
  simp [execTestRail, h]

@[simp] theorem State.testPhase_sameMemories (s : State) (d : Fin 4) (n : Fin 26) (amps mean : ℤ) :
    s.sameMemories (s.testPhase d n amps mean) := ⟨rfl, rfl⟩

@[simp] theorem execTestPhase_canonical (d n : Arg) (amps mean : ℤ) (s : State) (h : s.canonical) :
    Ends State.canonical (execTestPhase d n amps mean s) := by
  simp [execTestPhase, h]

@[simp] theorem State.restorePhase_sameMemories (s : State) (d : Fin 4) (n : Fin 26) : s.sameMemories (s.restorePhase d n) := by
  simp [State.restorePhase]

@[simp] theorem State.tendPhase_sameMemories (s : State) (d : Fin 4) (n : Fin 26) (amps mean : ℤ) (since : ℕ) :
    s.sameMemories (s.tendPhase d n amps mean since) := by
  simp [State.tendPhase]

@[simp] theorem execTestCell_canonical (s : State) (h : s.canonical) : Ends State.canonical (execTestCell s) := by
  simp [execTestCell, h]

@[simp] theorem execTestBalance_canonical (s : State) (h : s.canonical) : Ends State.canonical (execTestBalance s) := by
  simp [execTestBalance, h]

@[simp] theorem execTestLog_canonical (s : State) (h : s.canonical) : Ends State.canonical (execTestLog s) := by
  simp [execTestLog, h]

@[simp] theorem State.testLoop_sameMemories (s : State) (x : Injection) : s.sameMemories (s.testLoop x) := by
  simp [State.testLoop]

@[simp] theorem execTestLoop_canonical (n : Arg) (wave : Option Waveform) (amp : Option ℤ) (s : State) (h : s.canonical) :
    Ends State.canonical (execTestLoop n wave amp s) := by
  simp [execTestLoop, h]

@[simp] theorem State.nextTrip_sameMemories (s : State) (passed : Bool) (l : List Nat) : s.sameMemories (s.nextTrip passed l) := by
  induction l generalizing s with
  | nil => simp [State.nextTrip]
  | cons c l ih =>
    rw [State.nextTrip]
    split <;> simp [ih]

@[simp] theorem execTestTrip_canonical (code : Arg) (s : State) (h : s.canonical) : Ends State.canonical (execTestTrip code s) := by
  unfold execTestTrip
  repeat' split
  all_goals simp [h]

@[simp] theorem execTripTestStepEnd_canonical (us : ℕ) (s : State) (h : s.canonical) : Ends State.canonical (execTripTestStepEnd us s) := by
  unfold execTripTestStepEnd
  split <;> simp [h]

@[simp] theorem execTestTripSwitches_canonical (contacts : BitVec 3) (s : State) (h : s.canonical) :
    Ends State.canonical (execTestTripSwitches contacts s) := by
  simp [execTestTripSwitches, h]

@[simp] theorem execTestTripCrowbar_canonical (res : BitVec 12) (s : State) (h : s.canonical) : Ends State.canonical (execTestTripCrowbar res s) := by
  simp [execTestTripCrowbar, h]

@[simp] theorem execPhaseOff_canonical (d n : Arg) (s : State) (h : s.canonical) : Ends State.canonical (execPhaseOff d n s) := by
  exact State.consoleArg_canonical _ _ _ _ _ h fun x s hs => by simp [hs]

@[simp] theorem execPhaseOn_canonical (d n : Arg) (s : State) (h : s.canonical) : Ends State.canonical (execPhaseOn d n s) := by
  simp [execPhaseOn, h]

@[simp] theorem execMarch_canonical (mem : Option SramKind) (inst : Arg) (s : State) (h : s.canonical) :
    Ends State.canonical (execMarch mem inst s) := by
  simp [execMarch, h]

@[simp] theorem execMarchSecure_canonical (s : State) (h : s.canonical) : Ends State.canonical (execMarchSecure s) := by
  simp [execMarchSecure, h]

@[simp] theorem execRetireTile_canonical (t : Arg) (s : State) (h : s.canonical) : Ends State.canonical (execRetireTile t s) := by
  exact State.consoleArg_canonical _ _ _ _ _ h fun n s hs => by simp [hs]

@[simp] theorem execRelease_canonical (s : State) (h : s.canonical) : Ends State.canonical (execRelease s) := by
  simp [execRelease, h]

@[simp] theorem execDrain_canonical (s : State) (h : s.canonical) : Ends State.canonical (execDrain s) := by
  simp [execDrain, h]

@[simp] theorem execRecover_canonical (blocks : List (List Byte × BitVec 16)) (s : State) (h : s.canonical) :
    Ends State.canonical (execRecover blocks s) := by
  simp [execRecover, h]

@[simp] theorem State.tendRecover_sameMemories (s : State) (blocks : List (List Byte × BitVec 16)) (got : List Byte) :
    s.sameMemories (s.tendRecover blocks got) := by
  unfold State.tendRecover
  split <;> simp

@[simp] theorem State.tendConsole_sameMemories (s : State) : s.sameMemories s.tendConsole := by
  unfold State.tendConsole
  split <;> simp

@[simp] theorem State.stopMarch_sameMemories (s : State) (mem inst : ℕ) : s.sameMemories (s.stopMarch mem inst) := ⟨rfl, rfl⟩

@[simp] theorem State.abortTile_canonical (s : State) (t : ℕ) (h : s.canonical) : (s.abortTile t).canonical := by
  unfold State.abortTile
  dsimp only
  split <;> simp [h]

@[simp] theorem execAbortByte_canonical (s : State) (h : s.canonical) : Ends State.canonical (execAbortByte s) := by
  unfold execAbortByte
  dsimp only
  repeat' split
  all_goals simp [h]

/-! ## The set-up registers as a host reads them -/

@[simp] theorem State.refuseRead_sameMemories (s : State) (fn : Fn) : s.sameMemories (s.refuseRead fn) := by
  simp [State.refuseRead]

@[simp] theorem State.read32_sameMemories (s : State) (fn : Fn) (off : ℕ) : s.sameMemories (s.read32 fn off) := by
  unfold State.read32
  dsimp only
  repeat' split
  all_goals simp

@[simp] theorem State.read64_sameMemories (s : State) (fn : Fn) (off : ℕ) : s.sameMemories (s.read64 fn off) := ⟨rfl, rfl⟩

@[simp] theorem execLowerHalfRead_canonical (fn : Fn) (off : BitVec 20) (wide : Bool) (s : State) (h : s.canonical) :
    Ends State.canonical (execLowerHalfRead fn off wide s) := by
  simp [execLowerHalfRead, h]

@[simp] theorem execUpperHalfRead_canonical (fn : Fn) (off : BitVec 20) (s : State) (h : s.canonical) :
    Ends State.canonical (execUpperHalfRead fn off s) := by
  simp [execUpperHalfRead, h]

@[simp] theorem execDisallowedAccess_canonical (fn : Fn) (off : BitVec 20) (bytes : ℕ) (isWrite : Bool) (s : State) (h : s.canonical) :
    Ends State.canonical (execDisallowedAccess fn off bytes isWrite s) := by
  simp [execDisallowedAccess, h]

/-! ## A host's writes of the set-up registers -/

@[simp] theorem State.writeMemCtrl_sameMemories (s : State) (fn : Fn) (v : ℕ) : s.sameMemories (s.writeMemCtrl fn v) := by
  simp [State.writeMemCtrl]

@[simp] theorem State.writeQueue_sameMemories (s : State) (fn : Fn) (q : Fin 64) (o v : ℕ) : s.sameMemories (s.writeQueue fn q o v) := by
  simp [State.writeQueue]

@[simp] theorem State.writeClkCtrl_canonical (s : State) (fn : Fn) (v : ℕ) (h : s.canonical) : (s.writeClkCtrl fn v).canonical := by
  simp [State.writeClkCtrl, h]

@[simp] theorem State.writeSeal_sameMemories (s : State) (fn : Fn) (v : ℕ) : s.sameMemories (s.writeSeal fn v) := by
  simp [State.writeSeal]

@[simp] theorem State.writeRingCtrl_canonical (s : State) (fn : Fn) (v : ℕ) (h : s.canonical) : (s.writeRingCtrl fn v).canonical := by
  simp [State.writeRingCtrl, h]

@[simp] theorem State.writeClosed_canonical (s : State) (fn : Fn) (off v : ℕ) (h : s.canonical) : (s.writeClosed fn off v).canonical := by
  simp [State.writeClosed, h]

@[simp] theorem State.writeOpen_canonical (s : State) (fn : Fn) (off v : ℕ) (h : s.canonical) : (s.writeOpen fn off v).canonical := by
  simp [State.writeOpen, h]

@[simp] theorem State.clearBits_sameMemories (s : State) (fn : Fn) (off : ℕ) (v hwSet : BitVec 64) :
    s.sameMemories (s.clearBits fn off v hwSet) := ⟨rfl, rfl⟩

@[simp] theorem State.writeReg_canonical (s : State) (fn : Fn) (off v : ℕ) (h : s.canonical) : (s.writeReg fn off v).canonical := by
  simp [State.writeReg, h]

@[simp] theorem State.write32_canonical (s : State) (fn : Fn) (off v : ℕ) (h : s.canonical) : (s.write32 fn off v).canonical := by
  simp [State.write32, h]

@[simp] theorem execLowerHalfWrite_canonical (fn : Fn) (off : BitVec 20) (value : BitVec 32) (s : State) (h : s.canonical) :
    Ends State.canonical (execLowerHalfWrite fn off value s) := by
  simp [execLowerHalfWrite, h]

@[simp] theorem execUpperHalfWrite_canonical (fn : Fn) (off : BitVec 20) (value : BitVec 32) (s : State) (h : s.canonical) :
    Ends State.canonical (execUpperHalfWrite fn off value s) := by
  simp [execUpperHalfWrite, h]

@[simp] theorem execRegisterWrite_canonical (fn : Fn) (off : BitVec 20) (wide : Bool) (value : BitVec 64) (s : State) (h : s.canonical) :
    Ends State.canonical (execRegisterWrite fn off wide value s) := by
  simp [execRegisterWrite, h]

@[simp] theorem execW1cWrite_canonical (fn : Fn) (off : BitVec 20) (value hwSet : BitVec 64) (s : State) (h : s.canonical) :
    Ends State.canonical (execW1cWrite fn off value hwSet s) := by
  simp [execW1cWrite, h]

@[simp] theorem execMemCtrlWrite_canonical (fn : Fn) (value : BitVec 32) (s : State) (h : s.canonical) :
    Ends State.canonical (execMemCtrlWrite fn value s) := by
  simp [execMemCtrlWrite, h]

/-! ## Zejor, the management protocol of the rack managers -/

@[simp] theorem State.hearFrame_sameMemories (s : State) (bus : Fn) (sender : BitVec 8) : s.sameMemories (s.hearFrame bus sender) := by
  unfold State.hearFrame
  split <;> simp

@[simp] theorem State.zejorReply_sameMemories (s : State) (bus : Fn) (dst sender cmd : BitVec 8) (payload : List Byte) :
    s.sameMemories (s.zejorReply bus dst sender cmd payload) := by
  simp [State.zejorReply]

@[simp] theorem State.zejor_canonical (s : State) (bus : Fn) (dst sender : BitVec 8) (handle : State → State) (h : s.canonical)
    (hhandle : ∀ s : State, s.canonical → (handle s).canonical) : (s.zejor bus dst sender handle).canonical := by
  have hheard := State.canonical_of_same (State.hearFrame_sameMemories s bus sender) h
  unfold State.zejor
  split
  · exact h
  · dsimp only
    split
    · exact hhandle _ hheard
    · exact hheard

@[simp] theorem execZejorIdent_canonical (bus : Fn) (dst sender : BitVec 8) (s : State) (h : s.canonical) :
    Ends State.canonical (execZejorIdent bus dst sender s) := by
  simp [execZejorIdent, h]

@[simp] theorem execZejorPoll_canonical (bus : Fn) (dst sender : BitVec 8) (s : State) (h : s.canonical) :
    Ends State.canonical (execZejorPoll bus dst sender s) := by
  simp [execZejorPoll, h]

@[simp] theorem execZejorShare_canonical (bus : Fn) (dst sender : BitVec 8) (share : BitVec 16) (smooth : BitVec 8) (s : State) (h : s.canonical) :
    Ends State.canonical (execZejorShare bus dst sender share smooth s) := by
  unfold execZejorShare
  split <;> simp [h]

@[simp] theorem execZejorUnlistedCommand_canonical (bus : Fn) (dst sender cmd : BitVec 8) (s : State) (h : s.canonical) :
    Ends State.canonical (execZejorUnlistedCommand bus dst sender cmd s) := by
  simp [execZejorUnlistedCommand, h]

@[simp] theorem execZejorBadFrame_canonical (bus : Fn) (s : State) (h : s.canonical) : Ends State.canonical (execZejorBadFrame bus s) := by
  simp [execZejorBadFrame, h]

/-! ## The passing of one microsecond while no command waits -/

@[simp] theorem State.payOwed_sameMemories (s : State) (fn : Fn) : s.sameMemories (s.payOwed fn) := by
  simp [State.payOwed]

@[simp] theorem State.tendRing_canonical (s : State) (fn : Fn) (h : s.canonical) : (s.tendRing fn).canonical := by
  simp [State.tendRing, h]

@[simp] theorem State.tick_canonical (s : State) (h : s.canonical) : s.tick.canonical := by
  have hsynced : ∀ k, ({ s with clk := k } : State).syncConfig.canonical := fun k => by simp [h]
  have hwritten := fun k => State.performWrites_canonical _ .B (State.performWrites_canonical _ .A (hsynced k))
  have hrung := fun k => State.tendRing_canonical _ .B (State.tendRing_canonical _ .A (hwritten k))
  unfold State.tick
  split
  · exact h
  · simp [hrung]

/-! ## Every step -/

/-- Each command keeps the memories canonical. -/
theorem exec_canonical (c : Instr) (s : State) (h : s.canonical) : Ends State.canonical (exec c s) := by
  cases c
  all_goals simp [exec, h]

/-- Settles O55, by the lemma of each command and of the clock, in which a function that writes no byte leaves both memories the same. -/
theorem memoriesStayCanonical : Obligations.MemoriesStayCanonical := by
  intro s t h ht
  rw [State.memoriesCanonical_iff] at h ⊢
  unfold step at ht
  split at ht
  · cases ht
    exact State.tick_canonical s h
  · rename_i c rest _
    have hexec := exec_canonical c (s.popped rest) h
    rw [ht] at hexec
    exact hexec

end Sys2Proof.Machine
end

section
/-! Contributions to an element of an accumulator: exact ones within the bounds of R87, NaNs and infinities (R85–R88). -/

namespace Sys2Proof.Machine

open Sys2Proof

/-! ## NaNs and infinities (R88) -/

namespace AccElem

variable {x : AccElem}

theorem add_of_nan (h : x.nan = true) (p q : Int) : x.add p q = x := by rw [add, if_pos h]

theorem addInf_of_nan (h : x.nan = true) (neg : Bool) : x.addInf neg = (x, FFlags.clear) := by rw [addInf, if_pos h]

theorem addNan_of_nan (h : x.nan = true) : x.addNan = (x, FFlags.clear) := by rw [addNan, if_pos h]

theorem addNan_eq (h : x.nan = false) : x.addNan = ({ x with nan := true, empty := false }, { invalid := true }) := by
  rw [addNan, h, if_neg Bool.false_ne_true]

/-- Whether both infinities are set once one of a sign is. -/
def bothInf (x : AccElem) (neg : Bool) : Bool := (x.posInf || !neg) && (x.negInf || neg)

theorem addInf_eq (h : x.nan = false) (neg : Bool) :
    x.addInf neg = ({ x with posInf := x.posInf || !neg, negInf := x.negInf || neg, nan := x.bothInf neg, empty := false },
      { invalid := x.bothInf neg }) := by
  obtain ⟨v, a, sticky, empty, nan, posInf, negInf⟩ := x
  subst h
  cases neg <;> cases posInf <;> cases negInf <;> rfl

end AccElem

section
variable {x : AccElem}

theorem productPair_of_nan (h : x.nan = true) (a b : FVal) : productPair x a b = (x, FFlags.clear) := by
  have hinf := AccElem.addInf_of_nan h
  have hnan := AccElem.addNan_of_nan h
  cases a with
  | nan k => exact hnan
  | inf n =>
    cases b with
    | nan k => exact hnan
    | inf k => exact hinf _
    | num k m e => simp only [productPair, hinf, hnan, ite_self]
  | num n m e =>
    cases b with
    | nan k => exact hnan
    | inf k => simp only [productPair, hinf, hnan, ite_self]
    | num k m' e' => simp only [productPair, AccElem.add_of_nan h]

theorem grainPair_of_nan (h : x.nan = true) (fa fb : GrainFmt) (a b : GrainBlock) : grainPair fa fb x a b = (x, FFlags.clear) := by
  unfold grainPair
  split
  · exact AccElem.addNan_of_nan h
  · exact congrArg (·, FFlags.clear) (AccElem.add_of_nan h _ _)

theorem productPair_nan_left (x : AccElem) (k : Bool) (a : FVal) : productPair x (.nan k) a = x.addNan := by cases a <;> rfl

theorem productPair_nan_right (x : AccElem) (k : Bool) (a : FVal) : productPair x a (.nan k) = x.addNan := by cases a <;> rfl

theorem grainPair_nan {fa fb : GrainFmt} {a b : GrainBlock} (h : a.e = 0xFF ∨ b.e = 0xFF) : grainPair fa fb x a b = x.addNan := by
  rw [grainPair, if_pos h]

theorem productPair_inf_num (x : AccElem) (n k : Bool) {m : Nat} (hm : m ≠ 0) (e : Int) :
    productPair x (.inf n) (.num k m e) = x.addInf (n != k) := if_neg hm

theorem productPair_num_inf (x : AccElem) (n k : Bool) {m : Nat} (hm : m ≠ 0) (e : Int) :
    productPair x (.num k m e) (.inf n) = x.addInf (n != k) := by
  rw [bne_comm]
  exact if_neg hm

end

/-- Settles O60, by what a NaN and an infinity of a sign do to an element. -/
theorem nansAndInfinitiesAccumulate : Obligations.NansAndInfinitiesAccumulate := by
  unfold Obligations.NansAndInfinitiesAccumulate
  intro x fa fb ba bb
  refine ⟨rfl, rfl, rfl, fun h => ⟨productPair_of_nan h, grainPair_of_nan h fa fb ba bb⟩, fun h => ?_⟩
  have hnan : ∀ r, r = x.addNan → r.1 = { x with nan := true, empty := false } ∧ r.2.invalid = true := by
    rintro r rfl
    rw [AccElem.addNan_eq h]
    exact ⟨rfl, rfl⟩
  refine ⟨fun k a => ?_, fun he => hnan _ (grainPair_nan he), fun n k e => ?_, fun n k m e hm => ?_⟩
  · simp only [List.forall_mem_cons, List.not_mem_nil, false_imp_iff, implies_true, and_true]
    exact ⟨hnan _ (productPair_nan_left x k a), hnan _ (productPair_nan_right x k a)⟩
  · simp only [List.forall_mem_cons, List.not_mem_nil, false_imp_iff, implies_true, and_true]
    exact ⟨hnan _ rfl, hnan _ rfl⟩
  · have hinf : ∀ r ∈ [productPair x (.inf n) (.num k m e), productPair x (.num k m e) (.inf n), productPair x (.inf n) (.inf k)],
        r = x.addInf (n != k) := by
      simp only [List.forall_mem_cons, List.not_mem_nil, false_imp_iff, implies_true, and_true]
      exact ⟨productPair_inf_num x n k hm e, productPair_num_inf x n k hm e, rfl⟩
    intro r hr
    have hsign : (!(n != k)) = (n == k) := Bool.not_not _
    rw [hinf r hr, AccElem.addInf_eq h, AccElem.bothInf, hsign]
    exact ⟨rfl, rfl, rfl, rfl, congrArg (fun b => { x with nan := b }) h.symm⟩

/-! ## Exact accumulation (R85–R87) -/

theorem shiftDown_of_lt {v : Int} (h : v.natAbs < 2 ^ 126) (k : Nat) (lost : Bool) (n : Nat) : shiftDown v k lost n = (v, k, lost) := by
  cases n with
  | zero => rfl
  | succ n => rw [shiftDown, if_pos h]

/-- A contribution that does not lie below the anchor, and whose sum needs no shift. -/
theorem AccElem.add_aligned {x : AccElem} {p q a : Int} (hnan : x.nan = false) (ha : (if x.empty then q - 40 else x.a.toInt) = a) (hq : a ≤ q)
    (hfit : (x.v.toInt + p * 2 ^ (q - a).toNat).natAbs < 2 ^ 126) :
    x.add p q = { x with v := BitVec.ofInt 128 (x.v.toInt + p * 2 ^ (q - a).toNat), a := BitVec.ofInt 12 a, empty := false } := by
  unfold AccElem.add
  rw [hnan, if_neg Bool.false_ne_true]
  simp only [ha, if_pos hq, shiftDown_of_lt hfit, Nat.cast_zero, mul_zero, add_zero, Bool.or_false]

/-- An element that holds the exact sum `total` of `n` contributions within the bounds of R87 over the anchor `a`: an empty one takes that anchor with
its first contribution. -/
structure AccElem.Exact (x : AccElem) (a : Int) (n : Nat) (total : ℚ) : Prop where
  sticky : x.sticky = false
  nan : x.nan = false
  posInf : x.posInf = false
  negInf : x.negInf = false
  empty : x.empty = true → x.v.toInt = 0
  anchor : x.empty = false → x.a.toInt = a
  bound : x.v.toInt.natAbs ≤ n * 2 ^ 105
  value : (x.v.toInt : ℚ) * 2 ^ a = total

theorem AccElem.exact_cleared (a : Int) : AccElem.cleared.Exact a 0 0 where
  sticky := rfl
  nan := rfl
  posInf := rfl
  negInf := rfl
  empty _ := rfl
  anchor h := by cases h
  bound := Nat.le_refl _
  value := zero_mul _

/-- A contribution within the bounds of R87 takes up less than 2^105 above the anchor. -/
theorem natAbs_contribution_le {p : Int} {k : Nat} (hp : p.natAbs < 2 ^ 25) (hk : k ≤ 80) : (p * 2 ^ k).natAbs ≤ 2 ^ 105 := by
  rw [Int.natAbs_mul, Int.natAbs_pow]
  calc p.natAbs * 2 ^ k ≤ 2 ^ 25 * 2 ^ 80 := Nat.mul_le_mul hp.le (Nat.pow_le_pow_right (by decide) hk)
    _ = 2 ^ 105 := rfl

theorem AccElem.Exact.add {x : AccElem} {a p q : Int} {n : Nat} {total : ℚ} (h : x.Exact a n total) (hn : n < 2 ^ 20) (ha : -2048 ≤ a ∧ a < 2048)
    (hfirst : x.empty = true → q = a + 40) (hp : p.natAbs < 2 ^ 25) (hq : a ≤ q ∧ q ≤ a + 80) :
    (x.add p q).Exact a (n + 1) (total + p * 2 ^ q) ∧ (x.add p q).empty = false := by
  have hbound := h.bound
  have hsmall : (p * 2 ^ (q - a).toNat).natAbs ≤ 2 ^ 105 := natAbs_contribution_le hp (by omega)
  have hsum : (x.v.toInt + p * 2 ^ (q - a).toNat).natAbs ≤ (n + 1) * 2 ^ 105 := (Int.natAbs_add_le _ _).trans (by omega)
  have hanchor : (if x.empty then q - 40 else x.a.toInt) = a := by
    cases hx : x.empty with
    | true => rw [if_pos rfl, hfirst hx, add_sub_cancel_right]
    | false => rw [if_neg Bool.false_ne_true, h.anchor hx]
  have hv : (BitVec.ofInt 128 (x.v.toInt + p * 2 ^ (q - a).toNat)).toInt = x.v.toInt + p * 2 ^ (q - a).toNat :=
    BitVec.toInt_ofInt_eq_self (by decide) (by omega) (by omega)
  have hpow : (2 : ℚ) ^ (q - a).toNat * 2 ^ a = 2 ^ q := by
    rw [← zpow_natCast, ← zpow_add₀ two_ne_zero, Int.toNat_of_nonneg (by omega), sub_add_cancel]
  rw [AccElem.add_aligned h.nan hanchor hq.1 (by omega)]
  refine ⟨⟨h.sticky, h.nan, h.posInf, h.negInf, Bool.noConfusion, fun _ => BitVec.toInt_ofInt_eq_self (by decide) ha.1 ha.2, ?_, ?_⟩, rfl⟩
  · rwa [hv]
  · rw [hv, ← h.value, ← hpow]
    push_cast
    ring

theorem AccElem.Exact.foldl {a : Int} (ha : -2048 ≤ a ∧ a < 2048) (l : List (Int × Int)) {x : AccElem} {n : Nat} {total : ℚ} (h : x.Exact a n total)
    (hn : n + l.length ≤ 2 ^ 20) (hfirst : x.empty = true → ∀ c, l.head? = some c → c.2 = a + 40)
    (hl : ∀ c ∈ l, c.1.natAbs < 2 ^ 25 ∧ a ≤ c.2 ∧ c.2 ≤ a + 80) :
    (l.foldl (fun x c => x.add c.1 c.2) x).Exact a (n + l.length) (total + (l.map (fun c => (c.1 : ℚ) * 2 ^ c.2)).sum) := by
  induction l generalizing x n total with
  | nil => simpa using h
  | cons c l ih =>
    rw [List.forall_mem_cons] at hl
    rw [List.length_cons] at hn
    obtain ⟨hadd, hfull⟩ := h.add (by omega) ha (fun hx => hfirst hx c rfl) hl.1.1 hl.1.2
    have hrest := ih hadd (by omega) (fun hx => absurd (hfull.symm.trans hx) Bool.false_ne_true) hl.2
    rw [List.foldl_cons, List.length_cons, List.map_cons, List.sum_cons, ← add_assoc n, Nat.add_right_comm n, ← add_assoc total]
    exact hrest

/-- Settles O57, by induction over the contributions: no sum reaches 2^126, so nothing is shifted out. -/
theorem accumulationIsExact : Obligations.AccumulationIsExact := by
  unfold Obligations.AccumulationIsExact
  intro l q0 hlen hlo hhi hfirst hl
  have h := AccElem.Exact.foldl (a := q0 - 40) (by omega) l (AccElem.exact_cleared _) (by rwa [Nat.zero_add])
    (fun _ c hc => by rw [hfirst c hc, sub_add_cancel]) (fun c hc => by have := hl c hc; omega)
  have hvalue := h.value
  rw [zero_add] at hvalue
  refine ⟨h.sticky, h.nan, h.posInf, h.negInf, ?_⟩
  rw [← hvalue]
  cases hx : (l.foldl (fun (x : AccElem) c => x.add c.1 c.2) AccElem.cleared).empty with
  | true => rw [h.empty hx, Int.cast_zero, zero_mul, zero_mul]
  | false => rw [h.anchor hx]

end Sys2Proof.Machine
end

section
/-! Grain blocks and MX lines in the scratchpad: what the bytes of a quantised block read as, parts that are stored one after another, and the sizes of
converted lines (R72–R78, R96–R98). -/

namespace Sys2Proof.Machine

open Sys2Proof

/-! ## Codes of a mantissa (R73, R76) -/

/-- The two's complement code of a number in range reads as that number. -/
theorem signed_emod {w : Nat} (hw : 0 < w) {v : Int} (hlo : -(2 ^ (w - 1) : Nat) ≤ v) (hhi : v < (2 ^ (w - 1) : Nat)) :
    signed w (v.emod (2 ^ w : Nat)).toNat = v := by
  have hdouble : 2 ^ w = 2 * 2 ^ (w - 1) := by rw [← pow_succ', Nat.sub_add_cancel hw]
  have hpos : 0 < 2 ^ (w - 1) := Nat.two_pow_pos _
  have hmod : v.emod (2 ^ w : Nat) = v % (2 ^ w : Nat) := rfl
  unfold signed
  rw [hmod, hdouble]
  generalize 2 ^ (w - 1) = h at *
  rcases lt_or_ge v 0 with hneg | hpos
  · have hcode : v % ((2 * h : Nat) : Int) = v + (2 * h : Nat) := by
      rw [← Int.add_emod_right, Int.emod_eq_of_lt (by omega) (by omega)]
    rw [hcode, Nat.mod_eq_of_lt (by omega), if_neg (by omega)]
    omega
  · rw [Int.emod_eq_of_lt hpos (by omega), Nat.mod_eq_of_lt (by omega), if_pos (by omega)]
    omega

theorem mantBytes_length (w : Nat) (m : List Int) : (mantBytes w m).length = 4 * w := natLe_length _ _

/-- The mantissa field of a block holds the code of each mantissa. -/
theorem packedElem_mantBytes {w : Nat} {m : List Int} (hm : m.length = 32) {i : Nat} (hi : i < m.length) :
    packedElem (leNat (mantBytes w m)) w i = (m[i].emod (2 ^ w : Nat)).toNat := by
  have hlt := packNat_lt w (m.map (fun v => (v.emod (2 ^ w : Nat)).toNat))
  rw [List.length_map, hm] at hlt
  have hpos : (0 : Int) < (2 ^ w : Nat) := by exact_mod_cast Nat.two_pow_pos w
  have hcode : (m[i].emod (2 ^ w : Nat)).toNat < 2 ^ w := by
    have h : m[i].emod (2 ^ w : Nat) < (2 ^ w : Nat) := Int.emod_lt_of_pos _ hpos
    have h0 : 0 ≤ m[i].emod (2 ^ w : Nat) := Int.emod_nonneg _ hpos.ne'
    omega
  rw [packedElem, mantBytes, leNat_natLe, show 8 * (4 * w) = w * 32 by omega, Nat.mod_eq_of_lt hlt, packNat_digit w (by rwa [List.length_map]),
    List.getElem_map, Nat.mod_eq_of_lt hcode]

theorem bits_microByte {u : List Nat} (hu : u.length = 4) {j : Nat} (hj : j < u.length) (hlt : u[j] < 4) :
    bits (microByte u).toNat (2 * j + 1) (2 * j) = u[j] := by
  have hpack := packNat_lt 2 u
  rw [hu] at hpack
  rw [bits, microByte, BitVec.toNat_ofNat, Nat.mod_eq_of_lt hpack, show 2 * j + 1 + 1 - 2 * j = 2 by omega, packNat_digit 2 hj]
  exact Nat.mod_eq_of_lt hlt

/-! ## Blocks that their bytes can hold -/

/-- A block whose exponent, micro-exponents and mantissas their fields can hold; a mantissa is never −2^(w−1) (R73, R75). -/
structure GrainBlock.Fits (g : GrainFmt) (b : GrainBlock) : Prop where
  e : b.e < 256
  u_length : b.u.length = 4
  u : ∀ x ∈ b.u, x < 4
  m_length : b.m.length = 32
  m : ∀ v ∈ b.m, -(2 ^ (grainW g - 1) : Nat) < v ∧ v < (2 ^ (grainW g - 1) : Nat)

/-- A line that holds a block's exponent, micro-exponents and mantissas at their places reads as the block. -/
theorem readBlock_eq {g : GrainFmt} {line : List Byte} {c : Nat} {b : GrainBlock} (hb : b.Fits g) (he : line.getD c 0 = BitVec.ofNat 8 b.e)
    (hu : line.getD (32 + c) 0 = microByte b.u) (hm : (line.drop (64 + 4 * grainW g * c)).take (4 * grainW g) = mantBytes (grainW g) b.m) :
    readBlock g line c = b := by
  have hw : 0 < grainW g := by cases g <;> decide
  have hexp : (BitVec.ofNat 8 b.e).toNat = b.e := Nat.mod_eq_of_lt hb.e
  have hmicro : (List.range 4).map (fun j => bits (microByte b.u).toNat (2 * j + 1) (2 * j)) = b.u :=
    List.ext_getElem (by simp [hb.u_length]) fun j _ hj => by
      rw [List.getElem_map, List.getElem_range, bits_microByte hb.u_length hj (hb.u _ (List.getElem_mem hj))]
  have hmant : (List.range 32).map (fun i =>
      let v := signed (grainW g) (packedElem (leNat (mantBytes (grainW g) b.m)) (grainW g) i)
      if v = -(2 ^ (grainW g - 1) : Nat) then v + 1 else v) = b.m :=
    List.ext_getElem (by simp [hb.m_length]) fun i _ hi => by
      obtain ⟨hlo, hhi⟩ := hb.m _ (List.getElem_mem hi)
      simp only [List.getElem_map, List.getElem_range]
      rw [packedElem_mantBytes hb.m_length hi, signed_emod hw hlo.le hhi, if_neg hlo.ne']
  simp only [readBlock, he, hu, hm, hexp, hmicro, hmant]

theorem GrainBlock.fits_zero (g : GrainFmt) : GrainBlock.zero.Fits g := by
  cases g <;> exact ⟨by decide, rfl, by decide, rfl, by decide⟩

theorem GrainBlock.fits_nan (g : GrainFmt) : GrainBlock.nan.Fits g := by
  cases g <;> exact ⟨by decide, rfl, by decide, rfl, by decide⟩

theorem quantise_fits (g : GrainFmt) (rd : Rounding) (base : Nat) (x : List FVal) : (quantise g rd base x).1.Fits g := by
  unfold quantise
  dsimp only
  split
  · exact GrainBlock.fits_nan g
  · split
    · exact GrainBlock.fits_zero g
    · refine ⟨?_, by simp, fun u hu => ?_, by simp, fun v hv => ?_⟩
      · dsimp only
        omega
      · obtain ⟨j, -, rfl⟩ := List.mem_map.1 hu
        split
        · exact Nat.lt_succ_self 3
        · exact Nat.lt_succ_of_le (Int.toNat_le.2 (min_le_left _ _))
      · obtain ⟨r, -, rfl⟩ := List.mem_map.1 hv
        cases g <;> simp only [grainW] <;> omega

/-! ## Parts stored one after another -/

/-- A piece of what a longer read of the scratchpad gives. -/
theorem take_drop_readPad (m : Keyed Byte) {off n a k : Nat} (h : a + k ≤ n) : ((readPad m off n).drop a).take k = readPad m (off + a) k := by
  refine List.ext_getElem (by simp; omega) fun i _ _ => ?_
  simp [readPad, Nat.add_assoc]

theorem getD_readPad (m : Keyed Byte) {off n a : Nat} {b : Byte} (h : a < n) (hb : readPad m (off + a) 1 = [b]) : (readPad m off n).getD a 0 = b := by
  have hone : [find 0 m ((off + a + 0) % padSize)] = [b] := hb
  rw [List.getD_eq_getElem _ _ (by rwa [readPad_length])]
  simpa [readPad] using hone

/-- Parts of a line that have no byte in common. -/
def partsApart (e e' : Nat × List Byte) : Prop := e.1 + e.2.length ≤ e'.1 ∨ e'.1 + e'.2.length ≤ e.1

/-- Of parts at offsets from a base, one that no other overlaps is read back. -/
theorem readPad_writeParts (m : Keyed Byte) (base : Nat) {l : List (Nat × List Byte)} {e : Nat × List Byte} (he : e ∈ l)
    (hfit : ∀ e' ∈ l, e'.1 + e'.2.length ≤ padSize) (hl : ∀ e' ∈ l, e' = e ∨ partsApart e e') :
    readPad (writePads m (l.map (fun e => (base + e.1, e.2)))) (base + e.1) e.2.length = e.2 := by
  induction l generalizing m with
  | nil => cases he
  | cons f l ih =>
    rw [List.forall_mem_cons] at hfit hl
    by_cases hlater : e ∈ l
    · exact ih _ hlater hfit.2 hl.2
    · have hfirst : f = e := ((List.mem_cons.1 he).resolve_right hlater).symm
      subst hfirst
      refine readPad_writePads (l := []) (e := (base + f.1, f.2)) m ((Nat.le_add_left _ _).trans hfit.1) fun e' he' i hi j hj => ?_
      obtain ⟨k, hk, rfl⟩ := List.mem_map.1 he'
      have hapart := (hl.2 k hk).resolve_left fun h => hlater (h ▸ hk)
      have hkfit := hfit.2 k hk
      have hffit := hfit.1
      simp only [partsApart, padSize] at *
      omega

/-! ## The parts of a block (R75, R76) -/

/-- The blocks of a quantise, from block `c` on, as the parts that it stores. -/
def quantiseParts (g : GrainFmt) (c n : Nat) (blocks : Nat → GrainBlock) : List (Nat × List Byte) :=
  (List.range n).flatMap (fun j => blockParts g (c + j) (blocks j))

/-- A scratchpad with those blocks stored in the line at `base`. -/
def writeBlocks (m : Keyed Byte) (base : Nat) (g : GrainFmt) (c n : Nat) (blocks : Nat → GrainBlock) : Keyed Byte :=
  writePads m ((quantiseParts g c n blocks).map (fun e => (base + e.1, e.2)))

theorem mem_quantiseParts {g : GrainFmt} {c n : Nat} {blocks : Nat → GrainBlock} {e : Nat × List Byte} :
    e ∈ quantiseParts g c n blocks ↔ ∃ j < n, e ∈ blockParts g (c + j) (blocks j) := by
  simp [quantiseParts]

theorem mem_blockParts {g : GrainFmt} {c : Nat} {b : GrainBlock} {e : Nat × List Byte} : e ∈ blockParts g c b ↔
    e = (c, [BitVec.ofNat 8 b.e]) ∨ e = (32 + c, [microByte b.u]) ∨ e = (64 + 4 * grainW g * c, mantBytes (grainW g) b.m) := by
  simp [blockParts]

theorem lineSize_eq (g : GrainFmt) : lineSize g = 64 + 4 * grainW g * 32 := by cases g <;> rfl

/-- Where the parts of a block lie in its line. -/
theorem blockParts_place {g : GrainFmt} {c : Nat} {b : GrainBlock} {e : Nat × List Byte} (he : e ∈ blockParts g c b) :
    (e.1 = c ∧ e.2.length = 1) ∨ (e.1 = 32 + c ∧ e.2.length = 1) ∨ (e.1 = 64 + 4 * grainW g * c ∧ e.2.length = 4 * grainW g) := by
  rcases mem_blockParts.1 he with rfl | rfl | rfl
  · exact .inl ⟨rfl, rfl⟩
  · exact .inr (.inl ⟨rfl, rfl⟩)
  · exact .inr (.inr ⟨rfl, mantBytes_length _ _⟩)

theorem blockParts_fit {g : GrainFmt} {c : Nat} {b : GrainBlock} {e : Nat × List Byte} (hc : c < 32) (he : e ∈ blockParts g c b) :
    e.1 + e.2.length ≤ lineSize g := by
  have hplace := blockParts_place he
  rw [lineSize_eq]
  cases g <;> simp only [grainW] at hplace ⊢ <;> omega

/-- Parts of different blocks, and parts of one block at different offsets, have no byte in common. -/
theorem blockParts_apart {g : GrainFmt} {c c' : Nat} {b b' : GrainBlock} {e e' : Nat × List Byte} (hc : c < 32) (hc' : c' < 32)
    (he : e ∈ blockParts g c b) (he' : e' ∈ blockParts g c' b') (hne : c ≠ c' ∨ e.1 ≠ e'.1) : partsApart e e' := by
  have hplace := blockParts_place he
  have hplace' := blockParts_place he'
  unfold partsApart
  cases g <;> simp only [grainW] at hplace hplace' <;> omega

/-- A part of a block is known by its offset. -/
theorem blockParts_unique {g : GrainFmt} {c : Nat} {b : GrainBlock} {e e' : Nat × List Byte} (hc : c < 32) (he : e ∈ blockParts g c b)
    (he' : e' ∈ blockParts g c b) (h : e.1 = e'.1) : e' = e := by
  have hoffs : ((blockParts g c b).map Prod.fst).Nodup := by
    simp only [blockParts, List.map_cons, List.map_nil, List.nodup_cons, List.mem_cons, List.not_mem_nil, or_false, not_false_eq_true,
      List.nodup_nil, and_true]
    omega
  exact List.inj_on_of_nodup_map hoffs he' he h.symm

theorem readPad_writeBlocks (m : Keyed Byte) (base : Nat) {g : GrainFmt} {c n : Nat} (hn : c + n ≤ 32) {blocks : Nat → GrainBlock} {j : Nat} (hj : j < n)
    {e : Nat × List Byte} (he : e ∈ blockParts g (c + j) (blocks j)) :
    readPad (writeBlocks m base g c n blocks) (base + e.1) e.2.length = e.2 := by
  refine readPad_writeParts m base (mem_quantiseParts.2 ⟨j, hj, he⟩) (fun e' he' => ?_) fun e' he' => ?_
  · obtain ⟨i, hi, hmem⟩ := mem_quantiseParts.1 he'
    exact (blockParts_fit (by omega) hmem).trans (by cases g <;> decide)
  · obtain ⟨i, hi, hmem⟩ := mem_quantiseParts.1 he'
    by_cases hsame : j = i ∧ e.1 = e'.1
    · obtain ⟨rfl, hoff⟩ := hsame
      exact .inl (blockParts_unique (by omega) he hmem hoff)
    · exact .inr (blockParts_apart (by omega) (by omega) he hmem (by omega))

/-- A block that a quantise stored is read back. -/
theorem readBlock_writeBlocks (m : Keyed Byte) (base : Nat) {g : GrainFmt} {c n : Nat} (hn : c + n ≤ 32) {blocks : Nat → GrainBlock} {j : Nat} (hj : j < n)
    (hfits : (blocks j).Fits g) :
    readBlock g (readPad (writeBlocks m base g c n blocks) base (lineSize g)) (c + j) = blocks j := by
  have hread := fun e he => readPad_writeBlocks m base hn (blocks := blocks) hj (e := e) (mem_blockParts (g := g).2 he)
  have hline := lineSize_eq g
  have hmant : 64 + 4 * grainW g * (c + j) + 4 * grainW g ≤ lineSize g := by cases g <;> simp only [grainW] at hline ⊢ <;> omega
  refine readBlock_eq hfits (getD_readPad _ (by omega) (hread _ (.inl rfl))) (getD_readPad _ (by omega) (hread _ (.inr (.inl rfl)))) ?_
  have hm := hread _ (.inr (.inr rfl))
  rw [mantBytes_length] at hm
  rwa [take_drop_readPad _ hmant]

theorem find_writeBlocks_other (m : Keyed Byte) (base : Nat) {g : GrainFmt} {c n : Nat} (blocks : Nat → GrainBlock) {i : Nat}
    (h : ∀ j < n, i ≠ (base + c + j) % 2 ^ 20 ∧ i ≠ (base + 32 + c + j) % 2 ^ 20 ∧
      ∀ k < 4 * grainW g, i ≠ (base + 64 + 4 * grainW g * (c + j) + k) % 2 ^ 20) :
    find 0 (writeBlocks m base g c n blocks) i = find 0 m i := by
  refine find_writePads_other m _ i fun e he k hk => ?_
  obtain ⟨p, hp, rfl⟩ := List.mem_map.1 he
  obtain ⟨j, hj, hmem⟩ := mem_quantiseParts.1 hp
  obtain ⟨hexp, hmicro, hmant⟩ := h j hj
  rcases mem_blockParts.1 hmem with rfl | rfl | rfl
  · obtain rfl : k = 0 := by simpa using hk
    simpa only [Nat.add_zero, Nat.add_assoc, padSize] using hexp
  · obtain rfl : k = 0 := by simpa using hk
    simpa only [Nat.add_zero, Nat.add_assoc, padSize] using hmicro
  · rw [mantBytes_length] at hk
    simpa only [Nat.add_assoc, padSize] using hmant k hk

/-! ## Sizes of converted lines (R96–R98) -/

theorem length_flatMap_le {α β : Type} {f : α → List β} {n : Nat} {l : List α} (h : ∀ a ∈ l, (f a).length ≤ n) : (l.flatMap f).length ≤ l.length * n := by
  rw [List.length_flatMap, ← List.length_map (as := l) (f := fun a => (f a).length), ← smul_eq_mul]
  refine List.sum_le_card_nsmul _ n fun k hk => ?_
  obtain ⟨a, ha, rfl⟩ := List.mem_map.1 hk
  exact h a ha

theorem mxToFloat_length_le (k : MxKind) (f : LaneFmt) (rd : Rounding) (base x : Nat) (codes : List Nat) : (mxToFloat k f rd base x codes).length ≤ 32 := by
  simp [mxToFloat]

theorem lineBytes_length_le (g : GrainFmt) {blocks : List GrainBlock} (h : blocks.length = 32) : (lineBytes g blocks).length ≤ padSize := by
  have hmant := length_flatMap_le (l := blocks) (fun b _ => (mantBytes_length (grainW g) b.m).le)
  have hw : grainW g ≤ 8 := by cases g <;> decide
  simp only [lineBytes, List.length_append, List.length_map, h, padSize] at hmant ⊢
  omega

theorem importLine_length_le (k : MxKind) (fc : FormatCode) (rd : Rounding) (line : List Byte) : (importLine k fc rd line).1.length ≤ padSize := by
  unfold importLine
  cases fc with
  | grain g => exact lineBytes_length_le g (by simp)
  | float f =>
    dsimp only
    generalize hr : List.flatMap (fun p : Nat × Nat × List Nat => mxToFloat k f rd (32 * p.1) p.2.1 p.2.2) _ = rs
    have hlanes : rs.length ≤ 32 * 32 := by
      rw [← hr]
      exact (length_flatMap_le fun p _ => mxToFloat_length_le ..).trans (by simp)
    have hwidth : laneWidth f / 8 ≤ 4 := by cases f <;> decide
    have hbytes := length_flatMap_le (l := rs) (f := fun r => natLe (laneWidth f / 8) r.1) (n := 4) (fun r _ => by rwa [natLe_length])
    simp only [padSize]
    omega

theorem exportLine_length_le (k : MxKind) (fc : FormatCode) (rd : Rounding) (line : List Byte) : (exportLine k fc rd line).1.length ≤ padSize := by
  unfold exportLine
  dsimp only
  generalize hb : List.map (fun p : Nat × List FVal => mxExport k rd (32 * p.1) p.2) _ = bs
  have hblocks : bs.length = 32 := by rw [← hb]; simp
  have hsize : mxBlockSize k ≤ 32 := by cases k <;> decide
  have hbytes := length_flatMap_le (l := bs) (f := fun p => natLe (mxBlockSize k) (packNat (mxWidth k) p.2)) (n := 32) (fun p _ => by rwa [natLe_length])
  simp only [List.length_append, List.length_map, padSize]
  omega

end Sys2Proof.Machine
end

section
/-! Conversions: to and from Grain blocks, to and from MX lines, and among the IEEE formats (R75–R83, R96–R98, R166). -/

namespace Sys2Proof.Machine

open Sys2Proof

theorem modTrap_clear {md : BitVec 8} (h : md.getLsbD 4 = false) : modTrap md = false := h

/-! ## Writes of a scratchpad without unsound words -/

theorem Tile.narrowBad_sound {x : Tile} (h : x.padBad = []) (off n : Nat) : x.narrowBad off n = false := by
  simp [Tile.narrowBad, h]

theorem Tile.rereadBad_sound {x : Tile} (h : x.padBad = []) (written : List Nat) : x.rereadBad written = [] := by
  unfold Tile.rereadBad
  rw [List.filterMap_eq_nil_iff, h]
  intro y _
  cases y.wait.bind WaitCond.word with
  | none => rfl
  | some w => exact if_neg fun hw => Bool.false_ne_true hw.2.1

theorem Tile.cleanAt_sound {x : Tile} (h : x.padBad = []) (off n : Nat) : x.cleanAt off n := fun w _ => by
  rw [h]
  exact List.not_mem_nil

/-- A tile with another scratchpad. -/
def Tile.withPad (x : Tile) (q : Keyed Byte) : Tile := { x with pad := q }

theorem Tile.padPut_sound {x : Tile} (h : x.padBad = []) (off : Nat) (bytes : List Byte) : x.padPut off bytes = x.withPad (writePad x.pad off bytes) := by
  unfold Tile.padPut
  rw [h, List.filter_nil, ← h]
  rfl

section
variable {s u : State} {t : Nat} {y : Tile} (hu : s.tileBecomes u t y) (hfree : y.matrix = none) (hsound : y.padBad = [])
include hu hfree hsound

theorem State.padWrite_becomes (off : Nat) (bytes : List Byte) : s.tileBecomes (u.padWrite t off bytes) t (y.withPad (writePad y.pad off bytes)) := by
  have hy : u.tile t = y := (hu.2 t).trans (if_pos rfl)
  rw [State.padWrite_clean (by rw [hy]; exact hfree) (by rw [hy]; exact Tile.rereadBad_sound hsound _), hy, Tile.padPut_sound hsound]
  exact State.tileBecomes_setTile hu _

theorem State.storeParts_becomes (base : Nat) (l : List (Nat × List Byte)) :
    s.tileBecomes (u.storeParts t base l) t (y.withPad (writePads y.pad (l.map (fun e => (base + e.1, e.2))))) := by
  induction l generalizing u y with
  | nil => exact hu
  | cons e l ih => exact ih (State.padWrite_becomes hu hfree hsound (base + e.1) e.2) hfree hsound

end

/-! ## How a conversion to the scratchpad ends -/

theorem State.thread_withPad (s : State) (t : Nat) (n : Fin 16) (q : Keyed Byte) : (s.setTile t ((s.tile t).withPad q)).thread t n = s.thread t n := by
  simp only [State.thread, State.setTile_tile, if_true]
  rfl

/-- Giving a tile of two states the same scratchpad keeps what they differ in. -/
theorem State.sameBut_withPad {s u : State} {th : Thr} (h : s.sameBut u th) (q : Keyed Byte) :
    (s.setTile th.tile ((s.tile th.tile).withPad q)).sameBut (u.setTile th.tile ((u.tile th.tile).withPad q)) th := by
  obtain ⟨hrest, htiles, htile, hthreads⟩ := h
  refine ⟨?_, fun k hk => ?_, ?_, fun n hn => ?_⟩
  · conv_rhs => rw [← hrest]
    rfl
  · rw [State.setTile_tile, if_neg hk, State.setTile_tile, if_neg hk]
    exact htiles k hk
  · simp only [State.setTile_tile, if_true]
    conv_rhs => rw [← htile]
    rfl
  · rw [State.thread_withPad, State.thread_withPad]
    exact hthreads n hn

/-- What differs in one thread alone has the same scratchpad, the same unsound words and the same instruction in the matrix unit. -/
theorem State.sameBut_storage {s u : State} {th : Thr} (h : s.sameBut u th) :
    (u.tile th.tile).pad = (s.tile th.tile).pad ∧ (u.tile th.tile).padBad = (s.tile th.tile).padBad ∧ (u.tile th.tile).matrix = (s.tile th.tile).matrix := by
  obtain ⟨-, -, htile, -⟩ := h
  exact ⟨by rw [← htile], by rw [← htile], by rw [← htile]⟩

/-- From a state whose tile has scratchpad `p`, no unsound word and a free matrix unit, the result of an instruction gives its tile scratchpad `q` and
does nothing else. -/
def storesPads (th : Thr) (result : State → Issued) (p q : Keyed Byte) : Prop :=
  ∀ z : State, (z.tile th.tile).pad = p → (z.tile th.tile).padBad = [] → (z.tile th.tile).matrix = none →
    ∃ w, result z = .wrote w ∧ z.tileBecomes w th.tile ((z.tile th.tile).withPad q)

/-- The state in which a conversion of `n` elements ends that draws `free` values besides (R92, log 12). -/
def State.converted (s : State) (mode : RMode) (n free : Nat) : State := { s.rounded mode n with free := (s.rounded mode n).free + free }

/-- That state with the generator advanced (R92). -/
def State.afterConverting (s : State) (th : Thr) (md : BitVec 8) (mode : RMode) (n free : Nat) : State :=
  let u := s.afterRounding th.tile th.thread (roundingOf s th md mode) n
  { u with free := u.free + free }

/-- The thread of a conversion that completes: its generator has advanced, and f7 is set where a flag was raised (R92, R95). -/
def Thread.converted (x : Thread) (mode : RMode) (n : Nat) (fl : FFlags) : Thread :=
  { x with rng := rngRounded mode x.rng n, f := if fl.any then x.f ||| 0x80#8 else x.f }

theorem State.sameBut_afterConverting (s : State) (th : Thr) (md : BitVec 8) (mode : RMode) (n free : Nat) :
    (s.converted mode n free).sameBut (s.afterConverting th md mode n free) th := by
  obtain ⟨hrest, hothers⟩ := State.afterRounding_sameBut s th md mode n
  refine ⟨?_, hothers⟩
  rw [State.converted, ← hrest]
  rfl

/-- Block `j` of a quantise of the lanes of a register, with its flags. -/
def quantised (g : GrainFmt) (rd : Rounding) (src : LaneFmt) (v : BitVec 1024) (j : Nat) : GrainBlock × FFlags :=
  quantise g rd (32 * j) ((((lanes src v).map (floatFmt src).decode).drop (32 * j)).take 32)

section
variable {s : State} {th : Thr} {md : BitVec 8} {mode : RMode} (hr : s.canRun th) (hfree : (s.tile th.tile).matrix = none)
  (hsound : (s.tile th.tile).padBad = [])
include hr hfree hsound

/-- A conversion without a trap that stores its result in the scratchpad. -/
theorem State.issue_converts {body : Thread → State → Issued} {n free : Nat} {fl : FFlags} {result : State → Issued} {q : Keyed Byte}
    (hb : body (s.me th) s = finish (s.afterConverting th md mode n free) th false fl result) (hres : storesPads th result (s.tile th.tile).pad q) :
    ((s.converted mode n free).setTile th.tile ((s.tile th.tile).withPad q)).retiresWaking (s.issue th body) th ((s.me th).converted mode n fl) := by
  let u := s.afterConverting th md mode n free
  let z := u.setThread th.tile th.thread ((u.me th).raise fl)
  have hz : (s.converted mode n free).sameBut z th := State.sameBut_trans (State.sameBut_afterConverting s th md mode n free) (State.sameBut_setThread u th _)
  have hme : z.me th = (s.me th).converted mode n fl := by
    have hu : u.me th = { s.me th with rng := rngRounded mode (s.me th).rng n } := State.afterRounding_me s th md mode n
    rw [State.me, State.setThread_thread_self, Thread.raise_eq, hu]
    rfl
  obtain ⟨hpad, hbad, hmatrix⟩ := State.sameBut_storage hz
  obtain ⟨w, hw, hbecomes⟩ := hres z hpad (hbad.trans hsound) (hmatrix.trans hfree)
  have hwrote : body (s.me th) s = .wrote w := by
    rw [hb, finish, Bool.and_false, if_neg Bool.false_ne_true]
    exact hw
  have hwme : w.me th = (s.me th).converted mode n fl := by
    rw [← hme, State.me, State.me, State.thread, State.thread, hbecomes.2, if_pos rfl]
    rfl
  have hq : w.hq = s.hq := by
    have hwz : w.hq = z.hq := by simpa using congrArg State.hq hbecomes.1
    exact hwz.trans (State.afterRounding_hq s th md mode n)
  have hissue := State.issue_wrote hr.1 (State.inCode_of_hq hq hr.2.2) (by rw [hwme]; rfl)
    (by rw [hwme]; exact State.canRun_ready hr) hwrote
  rw [hwme] at hissue
  obtain ⟨hthread, hsame⟩ := State.retiresWaking_of_tileBecomes hbecomes hissue
  exact ⟨hthread, State.sameBut_woken (State.sameBut_withPad hz q) hsame⟩

/-! ## Quantising (R78, R79) -/

variable (htrap : md.getLsbD 4 = false)
include htrap

theorem quantiseTo_stores (hmode : rmode (md.extractLsb 7 6) = some mode) {g : GrainFmt} {src : LaneFmt} {d a b : BitVec 5} {av : Fin 16} (hav : av.val = a.toNat)
    (hbase : ((s.me th).readS d).toNat % 2 ^ 20 % 64 = 0) (hblk : src = .fp32 ∨ (b.toNat % 2 = 0 ∧ b.toNat ≤ 30)) :
    ((s.converted mode (laneCount src) 0).setTile th.tile ((s.tile th.tile).withPad
      (writeBlocks (s.tile th.tile).pad (((s.me th).readS d).toNat % 2 ^ 20) g b.toNat (laneCount src / 32)
        (fun j => (quantised g (roundingOf s th md mode) src (s.me th).v[av] j).1)))).retiresWaking
      (quantiseTo th g src d a b md s) th ((s.me th).converted mode (laneCount src) (FFlags.all ((List.range (laneCount src / 32)).map
        (fun j => (quantised g (roundingOf s th md mode) src (s.me th).v[av] j).2)))) := by
  have haligned : ¬(((s.me th).readS d).toNat % padSize % 64 ≠ 0 ∨ (src ≠ .fp32 ∧ (b.toNat % 2 = 1 ∨ 30 < b.toNat))) := by
    rintro (h | ⟨hsrc, h⟩)
    · exact h hbase
    · have := hblk.resolve_left hsrc
      omega
  have hparts : ∀ bs : Nat → GrainBlock × FFlags, (List.zip (List.range (laneCount src / 32)) ((List.range (laneCount src / 32)).map bs)).flatMap
      (fun p => blockParts g (b.toNat + p.1) p.2.1) = quantiseParts g b.toNat (laneCount src / 32) (fun j => (bs j).1) := fun bs => by
    have hzip := List.zip_map' (f := id) (g := bs) (l := List.range (laneCount src / 32))
    rw [List.map_id] at hzip
    rw [hzip, List.flatMap_map]
    rfl
  unfold quantiseTo
  refine State.issue_converts hr hfree hsound (md := md) (result := fun z => .wrote (z.storeParts th.tile (((s.me th).readS d).toNat % padSize)
      (quantiseParts g b.toNat (laneCount src / 32) (fun j => (quantised g (roundingOf s th md mode) src (s.me th).v[av] j).1)))) ?_
    fun z hpad hbad hmatrix => ⟨_, rfl, ?_⟩
  · simp only [vecReg_eq hav, modRounding_eq hmode, need_canRun hr]
    rw [if_neg haligned, if_neg]
    · rw [hparts, List.map_map, modTrap_clear htrap]
      rfl
    · simp [Tile.narrowBad_sound hsound]
  · rw [← hpad]
    exact State.storeParts_becomes (State.tileBecomes_refl z th.tile) hmatrix hbad _ _

/-! ## MX lines (R96–R98) -/

theorem convertLine_stores {body : Thread → State → Issued} {d a : BitVec 5} {free inLen outLen : Nat} {conv : List Byte → List Byte × FFlags}
    (hsrc : ((s.me th).readS a).toNat % 2 ^ 20 % 64 = 0) (hdst : ((s.me th).readS d).toNat % 2 ^ 20 % 64 = 0) {r : List Byte × FFlags}
    (hconv : r = conv (readPad (s.tile th.tile).pad (((s.me th).readS a).toNat % 2 ^ 20) inLen))
    (hbody : body (s.me th) s = convertLine th d a md [] (s.me th) s free inLen outLen (roundingOf s th md mode) conv) :
    ((s.converted mode 1024 free).setTile th.tile ((s.tile th.tile).withPad
      (writePad (s.tile th.tile).pad (((s.me th).readS d).toNat % 2 ^ 20) r.1))).retiresWaking (s.issue th body) th ((s.me th).converted mode 1024 r.2) := by
  have haligned : ¬(((s.me th).readS a).toNat % padSize % 64 ≠ 0 ∨ ((s.me th).readS d).toNat % padSize % 64 ≠ 0) := by
    rintro (h | h)
    · exact h hsrc
    · exact h hdst
  refine State.issue_converts hr hfree hsound (md := md) (result := fun z => .wrote (z.padWrite th.tile (((s.me th).readS d).toNat % padSize) r.1)) ?_
    fun z hpad hbad hmatrix => ⟨_, rfl, ?_⟩
  · subst hconv
    rw [hbody, convertLine, need_canRun hr]
    simp only [State.padCheck_clean (Tile.cleanAt_sound hsound _ _), Tile.narrowBad_sound hsound, Bool.false_eq_true, if_false]
    rw [if_neg haligned, modTrap_clear htrap]
    rfl
  · rw [← hpad]
    exact State.padWrite_becomes (State.tileBecomes_refl z th.tile) hmatrix hbad _ _

end

/-! ## Dequantising and conversions among the IEEE formats (R80, R83) -/

section
variable {s : State} {th : Thr} {d a b : BitVec 5} {dv av : Fin 16} {md : BitVec 8}

theorem dqnt_retires (hr : s.canRun th) (hsound : (s.tile th.tile).padBad = []) (w : GrainFmt) (hd : dv.val = d.toNat) (hm : md.extractLsb 7 4 = 0#4)
    (ha : ((s.me th).readS a).toNat % 64 = 0) :
    ∃ t v, exec (.dqnt th w d a b md []) s = .next t ∧ s.retires t th { s.me th with v := (s.me th).v.set dv v } ∧
      ∀ i < 32, lane .fp32 v i = if laneOn .fp32 (s.me th) md i
        then ((floatFmt .fp32).convert Rounding.memory i
          ((readBlock w (readPad (s.tile th.tile).pad (((s.me th).readS a).toNat % 2 ^ 20) (lineSize w)) b.toNat).value w i)).1 % 2 ^ 32
        else lane .fp32 (s.me th).v[dv] i := by
  have haligned : ¬((s.me th).readS a).toNat % padSize % 64 ≠ 0 := by
    simp only [padSize]
    omega
  have hcheck : ∀ words, s.wordsCheck th.tile words [] = (s, false) := fun words => State.wordsCheck_sound fun w _ => by
    rw [hsound]
    exact List.not_mem_nil
  refine ⟨_, mergeLanes .fp32 (s.me th) md (s.me th).v[dv] ((List.range 32).map (fun i => ((floatFmt .fp32).convert Rounding.memory i
    ((readBlock w (readPad (s.tile th.tile).pad (((s.me th).readS a).toNat % 2 ^ 20) (lineSize w)) b.toNat).value w i)).1)), rfl, State.issue_setThread hr rfl ?_, fun i hi => ?_⟩
  · simp only [vecReg_eq hd, modHigh_zero hm, need_canRun hr, hcheck, ne_eq, not_true_eq_false, Bool.false_eq_true, if_false]
    exact if_neg haligned
  · exact (lane_mergeLanes .fp32 _ _ _ _ hi).trans (by rw [getD_map_range hi]; rfl)

/-- The half of a 16-bit register is selected in a conversion from it to FP32. -/
theorem cvt_fromHalf (df sf : LaneFmt) (half : Nat) : (if !decide (laneWidth df = laneWidth sf) && sf != .fp32 then half else 0) =
    if laneWidth df = 32 ∧ laneWidth sf = 16 then half else 0 := by
  cases df <;> cases sf <;> rfl

/-- And in a conversion to it. -/
theorem cvt_toHalf (df sf : LaneFmt) (half : Nat) : (if !decide (laneWidth df = laneWidth sf) && df != .fp32 then half else 0) =
    if laneWidth df = 16 ∧ laneWidth sf = 32 then half else 0 := by
  cases df <;> cases sf <;> rfl

theorem cvt_ends (hr : s.canRun th) {mode : RMode} (hmode : rmode (md.extractLsb 7 6) = some mode) (htrap : md.getLsbD 4 = false) {dst : BitVec 3}
    {df sf : LaneFmt} (hd : dv.val = d.toNat) (ha : av.val = a.toNat) (hdf : floatCode dst.toNat = some df) (hsf : floatCode b.toNat = some sf)
    {n from_ to_ : Nat} (hn : n = if laneWidth df = laneWidth sf then laneCount df else 32)
    (hfrom : from_ = if laneWidth df = 32 ∧ laneWidth sf = 16 then (if md.getLsbD 0 then 32 else 0) else 0)
    (hto : to_ = if laneWidth df = 16 ∧ laneWidth sf = 32 then (if md.getLsbD 0 then 32 else 0) else 0) (op : Nat → Nat × FFlags)
    (hop : op = fun i => if to_ ≤ i ∧ i < to_ + n
      then (floatFmt df).convert (roundingOf s th md mode) (i - to_) ((floatFmt sf).decode (lane sf (s.me th).v[av] (i - to_ + from_)))
      else (lane df (s.me th).v[dv] i, FFlags.clear)) :
    ∃ t w, exec (.cvt th dst d a b md) s = .next t ∧ lanesHold df (s.me th) md (s.me th).v[dv] w op ∧
      (s.rounded mode n).endsArith t th false (lanesRaise df (s.me th) md op)
        { s.me th with v := (s.me th).v.set dv w, rng := rngRounded mode (s.me th).rng n } := by
  refine ⟨_, _, rfl, laneResults_holds df (s.me th) md (s.me th).v[dv] op, ?_⟩
  rw [← laneResults_raise df (s.me th) md (s.me th).v[dv]]
  refine State.issue_finish (u := s.afterRounding th.tile th.thread (roundingOf s th md mode) n)
    (g := fun z => { z with v := z.v.set dv (laneResults df (s.me th) md (s.me th).v[dv] op).1 }) hr (State.afterRounding_sameBut s th md mode _)
    (State.afterRounding_hq s th md mode _) (State.afterRounding_me s th md mode _) rfl rfl (fun _ => rfl) (fun _ => rfl) ?_
  subst hop hn hfrom hto
  simp only [vecReg_eq hd, vecReg_eq ha, hdf, hsf, modRounding_eq hmode, need_canRun hr, cvt_fromHalf, cvt_toHalf, decide_eq_true_eq,
    modTrap_clear htrap]
  rfl

end

/-- Settles O7, each conversion by the bytes or lanes that it writes. -/
theorem conversionResults : Obligations.ConversionResults := by
  unfold Obligations.ConversionResults
  intro s th d a b md mode hr hfree hmode htrap hsound x pad rd stores
  refine ⟨?_, fun w dv hd hm ha => dqnt_retires hr hsound w hd hm ha, ?_,
    fun dst dv av df sf hd ha hdf hsf => cvt_ends hr hmode htrap hd ha hdf hsf rfl rfl rfl _ rfl⟩
  · intro r hmem src av hav base vals bs hbase hblk
    have hexec : exec (r.1 th src d a b md) s = .next (quantiseTo th r.2 src d a b md s) := by
      simp only [List.mem_cons, List.not_mem_nil, or_false] at hmem
      rcases hmem with rfl | rfl | rfl <;> rfl
    have hcount : b.toNat + laneCount src / 32 ≤ 32 := by
      have := b.isLt
      cases src <;> simp [laneCount] at hblk ⊢ <;> omega
    have hbs : bs = (List.range (laneCount src / 32)).map (quantised r.2 rd src x.v[av]) := rfl
    refine ⟨_, writeBlocks pad base r.2 b.toNat (laneCount src / 32) (fun j => (quantised r.2 rd src x.v[av] j).1), hexec, ?_, fun j hj blk hget => ?_,
      fun i hi => find_writeBlocks_other pad base _ hi⟩
    · rw [hbs, List.map_map]
      exact quantiseTo_stores hr hfree hsound htrap hmode hav hbase hblk
    · have hblock : quantised r.2 rd src x.v[av] j = blk := by simpa [hbs, hj] using hget
      rw [← hblock]
      exact readBlock_writeBlocks pad base hcount hj (quantise_fits _ _ _ _)
  · intro fmt fc k hfc hk src dst hsrc hdst
    refine ⟨⟨_, _, rfl, ?_, padStored_writePad pad dst (importLine_length_le k fc rd _)⟩,
      ⟨_, _, rfl, ?_, padStored_writePad pad dst (exportLine_length_le k fc rd _)⟩⟩
    · refine convertLine_stores (outLen := fc.lineSize) hr hfree hsound htrap hsrc hdst rfl ?_
      simp only [hfc, hk, modRounding_eq hmode]
      rfl
    · refine convertLine_stores (outLen := mxLineSize k) hr hfree hsound htrap hsrc hdst rfl ?_
      simp only [hfc, hk, modRounding_eq hmode]
      rfl

end Sys2Proof.Machine
end

section
/-! The obligation about writes that cover a whole transaction (R119). -/

namespace Sys2Proof.Machine

open Sys2Proof

/-- A byte keeps its place within its 64-byte run in every view (R104–R107). -/
theorem translate_offset {v : BitVec 2} {x l : Nat} (h : translate v x = some l) : l % 64 = x % 64 := by
  rcases view_cases v with rfl | rfl | rfl | rfl
  · rw [translate_linear] at h
    omega
  · rw [translate_sliced] at h
    simp only [bits] at h
    omega
  · rw [translate_paged] at h
    simp only [bits] at h
    omega
  · rw [translate_reserved] at h
    cases h

/-- A transaction whose first and last bytes an access holds is covered whole. -/
theorem mem_coveredTransactions {v : BitVec 2} {a len n i j : Nat} (hi : translate v (a + i) = some (64 * n)) (hj : j < len)
    (hlast : translate v (a + j) = some (64 * n + 63)) : n ∈ coveredTransactions v a len := by
  have hrun : (a + j) / 64 * 64 = a + i := by
    refine translate_injective (translate_run hlast) (hi.trans (congrArg some ?_))
    omega
  have hend := translate_offset hlast
  rw [coveredTransactions, List.mem_filterMap]
  refine ⟨(a + j) / 64 - a / 64, List.mem_range.2 (by omega), ?_⟩
  have htrans : (a / 64 + ((a + j) / 64 - a / 64)) * 64 = a + i := by omega
  dsimp only
  rw [htrans, if_pos (by omega), hi, Option.map_some, Nat.mul_div_cancel_left _ (by decide)]

/-- Settles O59: the write covers the transaction whole, and what it covers whole leaves the uncorrectable ones. -/
theorem wholeTransactionWritesClearErrors : Obligations.WholeTransactionWritesClearErrors := by
  unfold Obligations.WholeTransactionWritesClearErrors
  intro s view a n bytes h
  obtain ⟨i, -, hfirst⟩ := h 0 (by decide)
  obtain ⟨j, hj, hlast⟩ := h 63 (by decide)
  have hcovered : n ∈ coveredTransactions view a bytes.length := mem_coveredTransactions hfirst hj hlast
  have hbad : (s.devWrite view a bytes).mem.bad = s.mem.bad.filter (fun t => !(coveredTransactions view a bytes.length).contains t) := rfl
  rw [hbad, List.mem_filter]
  rintro ⟨-, hout⟩
  rw [List.contains_iff_mem.2 hcovered] at hout
  cases hout

end Sys2Proof.Machine
end

section
/-! The obligation about the stacked memory's own events and replays on the mesh (R120, R126–R128, R130, R134, R152). -/

namespace Sys2Proof.Machine

open Sys2Proof

theorem bit_toNat {w : Nat} (x : BitVec w) (n : Nat) : bit x.toNat n = x.getLsbD n := by
  rw [bit, BitVec.getLsbD, Nat.testBit_eq_decide_div_mod_eq]
  rfl

/-! ## The patrol scrubber (R120) -/

theorem exec_patrolScrubRead_clean {s : State} {sl : Fin 2560} (hon : (s.reg .A 0x20000).getLsbD 0 = true)
    (hpause : (s.reg .A 0x20000).getLsbD 1 = false) (hopen : s.channelOpen sl = true) (hfree : s.channelWanted sl = false)
    (hsound : (sl.val * 2 ^ 29 + find 0 s.mem.patrol sl * 64) / 64 ∉ s.mem.bad) : exec (.patrolScrubRead sl .clean) s =
      .next { s with mem := { s.mem with patrol := insert s.mem.patrol sl ((find 0 s.mem.patrol sl + 1) % 8388608) } } := by
  have hctrl : ∀ n, bit (s.mreg memCtrl) n = (s.reg .A 0x20000).getLsbD n := fun n => bit_toNat (s.reg .A 0x20000) n
  have hdue : ¬ ((!bit (s.mreg memCtrl) 0) = true ∨ bit (s.mreg memCtrl) 1 = true ∨ (!s.channelOpen sl) = true ∨ s.channelWanted sl = true) := by
    rw [hctrl, hctrl, hon, hpause, hopen, hfree]
    decide
  refine congrArg Host.Outcome.next ((if_neg hdue).trans ?_)
  extract_lets pos mem u
  rw [State.dramCheck_clean (s := u) hsound]
  rfl

/-! ## Refresh (R128) -/

/-- A bank's refresh command is postponed, or is performed with those postponed before it. -/
theorem exec_refreshCommand_live {s : State} {sl : Fin 2560} {bank : Fin 128} (hlive : s.homeLive sl = true) :
    let key := sl.val * 128 + bank.val
    let late := find 0 s.mem.postponed key
    (late < 4 ∧ s.bankWanted sl bank = true ∧ exec (.refreshCommand sl bank) s =
        .next { s.drawn with mem := { s.mem with postponed := insert s.mem.postponed key (late + 1) } }) ∨
      exec (.refreshCommand sl bank) s = .next { s.drawn with mem := { s.mem with
        openRow := erase s.mem.openRow key, postponed := erase s.mem.postponed key
        refreshed := insert s.mem.refreshed key ((find 0 s.mem.refreshed key + 4 * (late + 1)) % 2048) } } := by
  intro key late
  have hexec : exec (.refreshCommand sl bank) s = execRefreshCommand sl bank s := rfl
  rw [hexec, execRefreshCommand, hlive]
  by_cases hlater : late < 4 ∧ s.bankWanted sl bank = true ∧ bit s.fresh.toNat 0 = true
  · exact Or.inl ⟨hlater.1, hlater.2.1, congrArg Host.Outcome.next (if_pos hlater)⟩
  · exact Or.inr (congrArg Host.Outcome.next (if_neg hlater))

/-! ## Layer sensors (R126, R127) -/

theorem hottest_eq_max? (l : List Int) : hottest l = l.max? := by
  induction l with
  | nil => rfl
  | cons x rest ih =>
    rw [hottest, ih, List.max?_cons]
    cases rest.max? with
    | none => rfl
    | some y => rfl

/-- Where every one of the eight sensors works, all readings count. -/
theorem workingReadings_eq {l : List Int} (hlen : l.length = 8) (hwork : ∀ i < 8, sensorFailed l i = false) :
    (List.range 8).filter (sensorFailed l) = [] ∧
    ((List.range 8).filter (fun i => !([] : List Nat).contains i)).map (fun i => l.getD i 0) = l := by
  refine ⟨List.filter_eq_nil_iff.2 fun i hi => ?_, List.ext_getElem (by simp [hlen]) fun i h1 h2 => ?_⟩
  · rw [hwork i (List.mem_range.1 hi)]
    decide
  · simp [h2]

/-- A change of band may be recorded, and changes nothing else. -/
theorem State.setBand_frame (s : State) (st : Fin 20) (b : Nat) : ∃ log regs, s.setBand st b =
    { s with mem := { s.mem with band := s.mem.band.set st (BitVec.ofNat 3 b) }, log := log, regs := regs } := by
  unfold State.setBand
  dsimp only
  split
  · exact State.record_frame ..
  · exact ⟨_, _, rfl⟩

theorem exec_layerSensorRead_working {s : State} {st : Fin 20} {l : List Int} {top : Int} (hlive : s.homeLive (st.val * 128) = true)
    (hlen : l.length = 8) (hwork : ∀ i < 8, sensorFailed l i = false) (hmem : top ∈ l) (hmax : ∀ x ∈ l, x ≤ top) :
    exec (.layerSensorRead st (l.map some)) s = .next (({ s with mem := { s.mem with
      layerTemp := s.mem.layerTemp.set st l, failedSensors := s.mem.failedSensors.set st 0
      temp := s.mem.temp.set st (BitVec.ofInt 16 top) } } : State).setBand st
        (bandOf ((s.reg .A 0x2002C).toNat % 256) s.mem.band[st].toNat top)) := by
  obtain ⟨hbad, hall⟩ := workingReadings_eq hlen hwork
  have hanswered : (l.map some).length = 8 ∧ (l.map some).all Option.isSome = true := by simp [hlen]
  have hread : (l.map some).filterMap id = l := by simp
  have htop : hottest l = some top := by
    rw [hottest_eq_max?, List.max?_eq_some_iff]
    exact ⟨hmem, hmax⟩
  have hexec : exec (.layerSensorRead st (l.map some)) s = execLayerSensorRead st (l.map some) s := rfl
  rw [hexec, execLayerSensorRead, hlive]
  refine congrArg Host.Outcome.next ((if_neg (by decide)).trans ((if_neg (not_not_intro hanswered)).trans ?_))
  extract_lets r bad was mask working mem u v mem'
  have hr : r = l := hread
  have hnone : bad = [] := by rw [← hbad, ← hr]
  have hworking : working = l := by
    simp only [working, hnone, hr]
    exact hall
  have hv : v = u := if_neg fun h => by
    rw [hnone] at h
    exact absurd h.2 (by decide)
  simp only [hworking, htop, mem', hv, u, mask, hnone, hr]
  rfl

/-! ## Trunk resistance (R130) -/

theorem exec_trunkResistanceCheck_idle {s : State} {d : Fin 4} {uohm amps : Nat} (h : s.mem.trunkBase[d] = none ∨ amps ≤ 400) :
    exec (.trunkResistanceCheck d uohm amps) s = .next s := by
  refine congrArg Host.Outcome.next ?_
  cases hbase : s.mem.trunkBase[d] with
  | none => rfl
  | some base => exact if_pos (h.resolve_left (by rw [hbase]; nofun))

theorem exec_trunkResistanceCheck_loaded {s : State} {d : Fin 4} {uohm amps base : Nat} (hbase : s.mem.trunkBase[d] = some base) (hload : 400 < amps) :
    exec (.trunkResistanceCheck d uohm amps) s = .next (
      let u : State := { s with mem := { s.mem with
        trunk := s.mem.trunk.set d (some uohm), trunkHigh := s.mem.trunkHigh.set d (decide (130 * base < 100 * uohm)) } }
      if 130 * base < 100 * uohm ∧ s.mem.trunkHigh[d] = false
        then (u.record 0x17 .warning false d.val (natLe 4 uohm)).report 0x0001 (0x1000 + d.val) else u) := by
  have hexec : exec (.trunkResistanceCheck d uohm amps) s = execTrunkResistanceCheck d uohm amps s := rfl
  rw [hexec, execTrunkResistanceCheck, hbase]
  dsimp only
  rw [if_neg (Nat.not_le.2 hload)]
  by_cases hhigh : 130 * base < 100 * uohm
  · cases hwas : s.mem.trunkHigh[d] with
    | true =>
      have hkeep : s.mem.trunkHigh.set d true = s.mem.trunkHigh := by
        rw [← hwas]
        exact Vector.set_getElem_self ..
      simp only [hhigh, hkeep, if_true, decide_true, reduceCtorEq, and_false, if_false]
    | false => simp only [hhigh, if_true, decide_true, and_self, Bool.false_eq_true, if_false]
  · simp only [hhigh, if_false, decide_false, false_and]

/-! ## Replays (R152) -/

theorem exec_flitCrcFailure_replay {s : State} {link : MeshLink} {again : Bool} (hlink : linkExists link = true) (hok : linkKey link ∉ s.canopy.failed)
    (hrun : (if again then find 0 s.canopy.replays (linkKey link) else 0) < 8) : exec (.flitCrcFailure link again) s =
      .next (({ s with canopy := { s.canopy with
        replays := insert s.canopy.replays (linkKey link) ((if again then find 0 s.canopy.replays (linkKey link) else 0) + 1)
        retryTotal := s.canopy.retryTotal + 1 } } : State).flag cnpErr 0) := by
  refine congrArg Host.Outcome.next ((if_neg ?_).trans (if_pos hrun))
  simpa [hlink] using hok

/-- Settles O12, each event by what its command leaves. -/
theorem memoryHousekeeping : Obligations.MemoryHousekeeping := by
  unfold Obligations.MemoryHousekeeping
  intro s
  refine ⟨?_, ?_, fun st l top hlive hlen hwork hmem hmax => ?_,
    fun d uohm amps => ⟨fun h => ⟨_, exec_trunkResistanceCheck_idle h, rfl⟩, fun base hbase hload =>
      ⟨_, exec_trunkResistanceCheck_loaded hbase hload, rfl⟩⟩, ?_⟩
  · intro sl hon hpause hopen hfree pos hsound
    exact ⟨_, exec_patrolScrubRead_clean hon hpause hopen hfree hsound, rfl⟩
  · intro sl bank hlive key late
    obtain ⟨hfew, hwanted, hexec⟩ | hexec := exec_refreshCommand_live (bank := bank) hlive
    · exact ⟨_, hexec, rfl, Or.inr ⟨hfew, hwanted, rfl, rfl, find_insert_self ..⟩⟩
    · refine ⟨_, hexec, rfl, Or.inl ⟨find_insert_self .., find_erase_self .., fun e he => ?_⟩⟩
      simpa using (List.mem_filter.1 he).2
  · have hexec := exec_layerSensorRead_working hlive hlen hwork hmem hmax
    obtain ⟨log, regs, hband⟩ := State.setBand_frame { s with mem := { s.mem with
      layerTemp := s.mem.layerTemp.set st l, failedSensors := s.mem.failedSensors.set st 0
      temp := s.mem.temp.set st (BitVec.ofInt 16 top) } } st (bandOf ((s.reg .A 0x2002C).toNat % 256) s.mem.band[st].toNat top)
    rw [hband] at hexec
    exact ⟨_, hexec, Vector.getElem_set_self .., Vector.getElem_set_self .., Vector.getElem_set_self .., Vector.getElem_set_self .., rfl⟩
  · intro link again hlink hok run hrun
    exact ⟨_, exec_flitCrcFailure_replay hlink hok hrun, rfl, find_insert_self .., State.flag_set _ _ _ (by decide), rfl⟩

end Sys2Proof.Machine
end

section
/-! The obligation about descriptors: NOP, COPY, WAIT and HINT, descriptors of no listed type, and hinted windows (R107, R189, R200, R207, R208,
R213–R216, R411, R413). -/

namespace Sys2Proof.Machine

open Sys2Proof

/-! ## The descriptor in front of its queue -/

/-- The state in which the descriptor in front of a queue is in another phase. -/
def State.turned (s : State) (q : Fin 64) (d : InFlight) (rest : List InFlight) (p : DescPhase) : State :=
  s.setQueue q { s.queues[q] with inflight := { d with phase := p } :: rest }

theorem firstInvalid_noPref (d : BitVec 512) : firstInvalid [noPref d] = if dfield d 2 1 = 0xFF then none else some 2 := by
  by_cases h : dfield d 2 1 = 0xFF
  · simp [firstInvalid, noPref, h]
  · simp [firstInvalid, noPref, h]

section
variable {s : State} {q : Fin 64} {d : InFlight} {rest : List InFlight} (hq : s.queues[q].inflight = d :: rest)
include hq

theorem State.complete_turned (c : Completion) (hp : ∀ k, d.phase ≠ .ended k) : s.complete q c = s.turned q d rest (.ended c) :=
  State.complete_front hq c hp

theorem State.frontRunning_of_running {type : Nat} (hp : d.phase = .running) (ht : dfield d.desc 0 1 = type) : s.frontRunning q type = some d := by
  rw [State.frontRunning, hq]
  exact if_pos ⟨hp, ht⟩

theorem State.startFront_turned : s.startFront q = s.turned q d rest .running := State.startFront_front hq

section
variable (hp : d.phase = .fetched)
include hp

theorem State.complete_fetched (c : Completion) : s.complete q c = s.turned q d rest (.ended c) :=
  State.complete_turned hq c fun k hk => by rw [hp] at hk; cases hk

/-! ## NOP and types that are not listed -/

theorem exec_nop_front (ht : dfield d.desc 0 1 = 1) : exec (.nop q) s =
    .next (s.turned q d rest (.ended (if dfield d.desc 2 1 = 0xFF then plain 0 else { plain 2 with detail0 := 2 }))) := by
  refine congrArg Host.Outcome.next ?_
  rw [State.front_of_fetched hq hp ht]
  dsimp only
  rw [firstInvalid_noPref]
  by_cases hpref : dfield d.desc 2 1 = 0xFF
  · rw [if_pos hpref, if_pos hpref]
    exact State.complete_fetched hq hp _
  · rw [if_neg hpref, if_neg hpref]
    exact State.complete_fetched hq hp _

theorem exec_invalidDescriptor_unlisted (ht : dfield d.desc 0 1 = 0 ∨ 7 < dfield d.desc 0 1) :
    exec (.invalidDescriptor q) s = .next (s.turned q d rest (.ended (plain 2))) := by
  refine congrArg Host.Outcome.next ?_
  rw [hq]
  dsimp only
  rw [if_neg (not_not_intro hp), if_pos ht]
  exact State.complete_fetched hq hp _

theorem exec_invalidDescriptor_mark (ht : dfield d.desc 0 1 = 6) (hpref : dfield d.desc 2 1 = 0xFF)
    (hkind : dfield d.desc 8 1 = 0 ∨ 3 < dfield d.desc 8 1) :
    exec (.invalidDescriptor q) s = .next (s.turned q d rest (.ended { plain 2 with detail0 := 8 })) := by
  refine congrArg Host.Outcome.next ?_
  rw [hq]
  dsimp only
  rw [if_neg (not_not_intro hp), if_neg (by omega), if_pos (Or.inl ⟨ht, hkind⟩), firstInvalid_noPref, if_pos hpref]
  exact State.complete_fetched hq hp _

/-! ## COPY (R213, R214) -/

theorem exec_copy_invalid (ht : dfield d.desc 0 1 = 3) {off : Nat} (hbad : firstInvalid (copyChecks d.desc) = some off) :
    exec (.copy q) s = .next (s.turned q d rest (.ended { plain 2 with detail0 := BitVec.ofNat 64 off })) := by
  refine congrArg Host.Outcome.next ?_
  rw [State.front_of_fetched hq hp ht]
  dsimp only
  rw [hbad]
  exact State.complete_fetched hq hp _

theorem exec_copy_unmapped (ht : dfield d.desc 0 1 = 3) (hgood : firstInvalid (copyChecks d.desc) = none)
    (hmap : (dfield d.desc 28 1 ≠ 0 ∧ mapped (copyView d.desc) (dfield d.desc 8 8) (dfield d.desc 24 4) = false) ∨
      (dfield d.desc 28 1 ≠ 1 ∧ mapped (copyView d.desc) (dfield d.desc 16 8) (dfield d.desc 24 4) = false)) :
    exec (.copy q) s = .next (s.turned q d rest (.ended (plain 9))) := by
  refine congrArg Host.Outcome.next ?_
  rw [State.front_of_fetched hq hp ht]
  dsimp only
  rw [hgood]
  refine (if_pos ?_).trans (State.complete_fetched hq hp _)
  simpa only [Bool.not_eq_true'] using hmap

theorem exec_copy_starts (ht : dfield d.desc 0 1 = 3) (hgood : firstInvalid (copyChecks d.desc) = none)
    (hsrc : dfield d.desc 28 1 = 0 ∨ mapped (copyView d.desc) (dfield d.desc 8 8) (dfield d.desc 24 4) = true)
    (hdst : dfield d.desc 28 1 = 1 ∨ mapped (copyView d.desc) (dfield d.desc 16 8) (dfield d.desc 24 4) = true) :
    exec (.copy q) s = .next (match s.queues[q].owner with
      | some fn => if dfield d.desc 28 1 = 0 then (s.turned q d rest .running).emit (.hostRead fn (dfield d.desc 8 8) (dfield d.desc 24 4))
        else s.turned q d rest .running
      | none => s.turned q d rest .running) := by
  have hmapped : ¬((dfield d.desc 28 1 ≠ 0 ∧ (!mapped (copyView d.desc) (dfield d.desc 8 8) (dfield d.desc 24 4)) = true) ∨
      (dfield d.desc 28 1 ≠ 1 ∧ (!mapped (copyView d.desc) (dfield d.desc 16 8) (dfield d.desc 24 4)) = true)) := by
    simp only [Bool.not_eq_true']
    rintro (⟨h, hm⟩ | ⟨h, hm⟩)
    · exact absurd (hsrc.resolve_left h) (by rw [hm]; decide)
    · exact absurd (hdst.resolve_left h) (by rw [hm]; decide)
  have howner : (s.turned q d rest .running).queues[q].owner = s.queues[q].owner := by simp [State.turned]
  refine congrArg Host.Outcome.next ?_
  rw [State.front_of_fetched hq hp ht]
  dsimp only
  rw [hgood]
  refine (if_neg hmapped).trans ?_
  rw [State.startFront_turned hq, howner] <;> rfl

end
end

/-! ## WAIT (R215) -/

theorem dfield_low (w : BitVec 512) : dfield w 8 8 % 2 ^ 16 = dfield w 8 2 := by
  simp only [dfield, bits]
  omega

/-- A queue whose oldest descriptor does not run is not looked at. -/
theorem Queue.settleWait_idle {x : Queue} (qs : Vector Queue 64) (h : ∀ e l, x.inflight = e :: l → e.phase ≠ .running) : x.settleWait qs = x := by
  unfold Queue.settleWait
  split
  · rename_i e l he
    exact if_neg fun hrun => h e l he hrun.1
  · rfl

/-- How a running WAIT stands once it has been looked at. -/
def waitPhase (target : Queue) (count : Nat) : DescPhase :=
  match waitOutcome target count with
  | some c => .ended c
  | none => .running

theorem waitPhase_congr {x y : Queue} (hdone : x.done = y.done) (hstate : x.state = y.state) (n : Nat) : waitPhase x n = waitPhase y n := by
  rw [waitPhase, waitPhase, waitOutcome, waitOutcome, hdone, hstate]

theorem Queue.settleWait_wait {x target : Queue} {d : InFlight} {rest : List InFlight} (ht : dfield d.desc 0 1 = 4) {qs : Vector Queue 64}
    (htarget : qs[dfield d.desc 8 2]? = some target) : ({ x with inflight := { d with phase := .running } :: rest } : Queue).settleWait qs =
      { x with inflight := { d with phase := waitPhase target (dfield d.desc 12 4) } :: rest } := by
  unfold Queue.settleWait
  dsimp only
  rw [if_pos ⟨rfl, ht⟩, htarget, Option.getD_some, waitPhase]
  cases waitOutcome target (dfield d.desc 12 4) with
  | some c => rfl
  | none => rfl

section
variable {s : State} {q : Fin 64} {d : InFlight} {rest : List InFlight}

/-- A WAIT that starts is looked at with the count and state of the queue that it names, and no other queue changes. -/
theorem State.settleWaits_turned (ht : dfield d.desc 0 1 = 4) {k : Fin 64} (hk : dfield d.desc 8 2 = k.val)
    (hothers : ∀ r : Fin 64, r ≠ q → ∀ e l, s.queues[r].inflight = e :: l → e.phase ≠ .running) :
    (s.turned q d rest .running).settleWaits = s.turned q d rest (waitPhase s.queues[k] (dfield d.desc 12 4)) := by
  obtain ⟨x, hx⟩ : ∃ x : Queue, x = { s.queues[q] with inflight := { d with phase := .running } :: rest } := ⟨_, rfl⟩
  have htarget : ∃ y : Queue, (s.queues.set q x)[dfield d.desc 8 2]? = some y ∧ y.done = s.queues[k].done ∧ y.state = s.queues[k].state := by
    rw [hk, Vector.getElem?_eq_getElem k.isLt]
    refine ⟨_, rfl, ?_⟩
    by_cases hkq : q.val = k.val
    · obtain rfl := Fin.ext hkq
      rw [Vector.getElem_set_self, hx]
      exact ⟨rfl, rfl⟩
    · rw [Vector.getElem_set_ne _ _ hkq]
      exact ⟨rfl, rfl⟩
  obtain ⟨y, hy, hdone, hstate⟩ := htarget
  have hqueues : (s.queues.set q x).map (Queue.settleWait (s.queues.set q x)) =
      s.queues.set q { s.queues[q] with inflight := { d with phase := waitPhase s.queues[k] (dfield d.desc 12 4) } :: rest } := by
    refine Vector.ext fun i hi => ?_
    rw [Vector.getElem_map]
    by_cases hiq : q.val = i
    · subst hiq
      rw [Vector.getElem_set_self, Vector.getElem_set_self, ← waitPhase_congr hdone hstate]
      conv_lhs => rw [hx]
      exact Queue.settleWait_wait ht (hx ▸ hy)
    · rw [Vector.getElem_set_ne _ _ hiq, Vector.getElem_set_ne _ _ hiq]
      exact Queue.settleWait_idle _ (hothers ⟨i, hi⟩ fun h => hiq (congrArg Fin.val h).symm)
  subst hx
  exact congrArg (fun v => ({ s with queues := v } : State)) hqueues

theorem exec_wait_front (hq : s.queues[q].inflight = d :: rest) (hp : d.phase = .fetched) (ht : dfield d.desc 0 1 = 4)
    (hpref : dfield d.desc 2 1 = 0xFF) {k : Fin 64} (hk : dfield d.desc 8 2 = k.val) (howner : s.queues[k].owner = s.queues[q].owner)
    (hothers : ∀ r : Fin 64, r ≠ q → ∀ e l, s.queues[r].inflight = e :: l → e.phase ≠ .running) :
    exec (.wait q) s = .next (s.turned q d rest (waitPhase s.queues[k] (dfield d.desc 12 4))) := by
  have htarget : s.queues[dfield d.desc 8 2]? = some s.queues[k] := by
    rw [hk]
    exact Vector.getElem?_eq_getElem k.isLt
  have hgood : firstInvalid [noPref d.desc, (8, true)] = none := by
    simp [firstInvalid, noPref, hpref]
  refine congrArg Host.Outcome.next ?_
  rw [State.front_of_fetched hq hp ht]
  dsimp only
  rw [htarget]
  dsimp only
  rw [beq_iff_eq.2 howner, hgood]
  dsimp only
  rw [State.startFront_turned hq, State.settleWaits_turned ht hk hothers]

theorem exec_waitTimeout_running (hq : s.queues[q].inflight = d :: rest) (hp : d.phase = .running) (ht : dfield d.desc 0 1 = 4)
    (hlimit : dfield d.desc 16 4 ≠ 0) : exec (.waitTimeout q) s = .next (s.turned q d rest (.ended (plain 6))) := by
  refine congrArg Host.Outcome.next ?_
  rw [State.frontRunning_of_running hq hp ht]
  dsimp only
  rw [if_neg hlimit]
  exact State.complete_turned hq _ fun k hk => by rw [hp] at hk; cases hk

end

/-! ## The bytes of a COPY move (R107, R214; log 161) -/

/-- The write to the host that a COPY's owner makes, where it can be reached. -/
def State.postCopy (s : State) (q : Fin 64) (dst : Nat) (bytes : List Byte) : State :=
  match s.queues[q].owner with
  | some fn => if s.canMaster fn then s.emit (.hostWrite fn dst bytes true) else s
  | none => s

theorem State.postCopy_queues (s : State) (q : Fin 64) (dst : Nat) (bytes : List Byte) : (s.postCopy q dst bytes).queues = s.queues := by
  unfold State.postCopy
  split
  · split
    · rfl
    · rfl
  · rfl

/-- The visits of a COPY to its controllers have no part in what its owner is sent. -/
theorem State.visit_postCopy (s : State) (v : BitVec 2) (a len : Nat) (q : Fin 64) (dst : Nat) (bytes : List Byte) :
    (s.visit v a len).postCopy q dst bytes = { s.postCopy q dst bytes with mem := (s.visit v a len).mem } := by
  obtain ⟨rows, places, hv⟩ := s.visit_frame v a len
  rw [hv]
  have hmaster : ∀ fn m, ({ s with mem := m } : State).canMaster fn = s.canMaster fn := fun _ _ => rfl
  unfold State.postCopy
  cases s.queues[q].owner with
  | none => rfl
  | some fn =>
    dsimp only
    rw [hmaster]
    split
    · rfl
    · rfl

theorem State.postCopy_turned (s : State) (q : Fin 64) (d : InFlight) (rest : List InFlight) (dst : Nat) (bytes : List Byte) :
    ({ s.postCopy q dst bytes with mem := s.mem, queues := (s.turned q d rest (.ended (plain 0))).queues } : State) =
      match s.queues[q].owner with
      | some fn => if s.canMaster fn then (s.turned q d rest (.ended (plain 0))).emit (.hostWrite fn dst bytes true)
        else s.turned q d rest (.ended (plain 0))
      | none => s.turned q d rest (.ended (plain 0)) := by
  unfold State.postCopy
  cases s.queues[q].owner with
  | none => rfl
  | some fn =>
    dsimp only
    split
    · rfl
    · rfl

theorem MemState.firstBad_sound {m : MemState} {v : BitVec 2} {a len : Nat} (hlen : len ≠ 0) (h : m.meetsBad v a len = false) (writing : Bool) :
    m.firstBad v a len writing = none := by
  refine (congrArg (Option.map _) (List.find?_eq_none.2 fun r hr hb => ?_)).trans rfl
  rw [Bool.and_eq_true] at hb
  exact List.any_eq_false.1 h _ (runs_transaction hlen hr) hb.1

theorem State.meetErrs_nil (s : State) (ts : List Nat) : s.meetErrs ts [] = s := rfl

theorem stopAt_sound (len : Nat) : stopAt len none none = len := by
  simp [stopAt]

section
variable {s : State} {q : Fin 64} {d : InFlight} {rest : List InFlight} (hq : s.queues[q].inflight = d :: rest) (hp : d.phase = .running)
include hq hp

/-- A COPY that meets no error ends with OK. -/
theorem State.endCopy_ok {u : State} (hu : u.queues = s.queues) :
    u.endCopy q none none = { u with queues := (s.turned q d rest (.ended (plain 0))).queues } := by
  have hfront : u.queues[q].inflight = d :: rest := by
    rw [hu]
    exact hq
  refine (State.complete_turned hfront (plain 0) fun k hk => by rw [hp] at hk; cases hk).trans ?_
  unfold State.turned State.setQueue
  rw [hu]

variable (ht : dfield d.desc 0 1 = 3) {v : BitVec 2} (hv : copyView d.desc = v) {src dst len : Nat} (hsrc : dfield d.desc 8 8 = src)
  (hdst : dfield d.desc 16 8 = dst) (hlen : dfield d.desc 24 4 = len) (hne : len ≠ 0)
include ht hv hsrc hdst hlen hne

theorem exec_copyComplete_fromHost (hdir : dfield d.desc 28 1 = 0) {data : List Byte} (hdata : data.length = len)
    (hopen : s.queueOpen q v dst len = true) (hsound : s.mem.meetsBad v dst len = false) : exec (.copyComplete q data none []) s =
      .next { (s.visit v dst len).devWrite v dst data with queues := (s.turned q d rest (.ended (plain 0))).queues } := by
  have hbad : (s.visit v dst len).mem.firstBad v dst len true = none :=
    MemState.firstBad_sound hne ((State.visit_meetsBad ..).trans hsound) true
  have htake : data.take len = data := by rw [← hdata, List.take_length]
  refine congrArg Host.Outcome.next ?_
  rw [State.frontRunning_of_running hq hp ht]
  dsimp only
  simp only [hv, hsrc, hdst, hlen, hdir, hopen, hdata, State.meetErrs_nil, hbad, Option.filter_none, stopAt_sound, htake, ne_eq, not_true, zero_ne_one,
    not_false_iff, false_and, Bool.not_true, Bool.false_eq_true, or_self, if_false, if_true, lt_irrefl, and_false]
  exact State.endCopy_ok hq hp (State.visit_queues ..)

theorem exec_copyComplete_toHost (hdir : dfield d.desc 28 1 = 1) (hopen : s.queueOpen q v src len = true)
    (hsound : s.mem.meetsBad v src len = false) : exec (.copyComplete q [] none []) s =
      .next { (s.visit v src len).postCopy q dst (devRead s.mem.dram v src len) with
        queues := (s.turned q d rest (.ended (plain 0))).queues } := by
  have hbad : (s.visit v src len).mem.firstBad v src len false = none :=
    MemState.firstBad_sound hne ((State.visit_meetsBad ..).trans hsound) false
  have hread : (s.visit v src len).devRead v src len = devRead s.mem.dram v src len := by rw [State.devRead, State.visit_dram]
  have hqueues : ((s.visit v src len).postCopy q dst (devRead s.mem.dram v src len)).queues = s.queues := by
    rw [State.postCopy_queues, State.visit_queues]
  refine congrArg Host.Outcome.next ?_
  rw [State.frontRunning_of_running hq hp ht]
  dsimp only
  simp only [hv, hsrc, hdst, hlen, hdir, hopen, State.meetErrs_nil, hbad, stopAt_sound, hread, ne_eq, one_ne_zero, not_true,
    not_false_iff, false_and, true_and, Bool.not_true, Bool.false_eq_true, or_self, if_false, if_true]
  exact State.endCopy_ok hq hp hqueues

theorem exec_copyComplete_within (hdir : 1 < dfield d.desc 28 1) (hopenSrc : s.queueOpen q v src len = true)
    (hopenDst : s.queueOpen q v dst len = true) (hsoundSrc : s.mem.meetsBad v src len = false) (hsoundDst : s.mem.meetsBad v dst len = false)
    (hapart : src + len ≤ dst ∨ dst + len ≤ src) : exec (.copyComplete q [] none []) s =
      .next { ((s.visit v src len).visit v dst len).devWrite v dst (devRead s.mem.dram v src len) with
        queues := (s.turned q d rest (.ended (plain 0))).queues } := by
  obtain ⟨u, hu⟩ : ∃ u, u = (s.visit v src len).visit v dst len := ⟨_, rfl⟩
  have hmeets : ∀ a, u.mem.meetsBad v a len = s.mem.meetsBad v a len := fun a => by
    rw [hu, State.visit_meetsBad, State.visit_meetsBad]
  have hdram : u.mem.dram = s.mem.dram := by rw [hu, State.visit_dram, State.visit_dram]
  have hbadSrc : u.mem.firstBad v src len false = none := MemState.firstBad_sound hne ((hmeets src).trans hsoundSrc) false
  have hbadDst : u.mem.firstBad v dst len true = none := MemState.firstBad_sound hne ((hmeets dst).trans hsoundDst) true
  have hbytes : u.copyBytes v src dst len = (u, devRead s.mem.dram v src len) := by
    rw [State.copyBytes, if_neg (by omega), State.devRead, hdram]
  have h0 : ¬ dfield d.desc 28 1 = 0 := by omega
  have h1 : ¬ dfield d.desc 28 1 = 1 := by omega
  refine congrArg Host.Outcome.next ?_
  rw [State.frontRunning_of_running hq hp ht]
  dsimp only
  simp only [hv, hsrc, hdst, hlen, h0, h1, hopenSrc, hopenDst, State.meetErrs_nil, ← hu, hbadSrc, hbadDst, firstStop, stopAt_sound, hbytes, ne_eq,
    not_false_iff, false_and, true_and, Bool.not_true, Bool.false_eq_true, or_self, if_false]
  refine State.endCopy_ok hq hp (u := u.devWrite v dst (devRead s.mem.dram v src len)) ?_
  rw [State.devWrite_queues, hu, State.visit_queues, State.visit_queues]

end

/-! ## Hints (R216, R411, R413) -/

theorem firstInvalid_eq_none {checks : List (Nat × Bool)} (h : firstInvalid checks = none) : ∀ e ∈ checks, e.2 = true := by
  intro e he
  simpa using List.find?_eq_none.1 (Option.map_eq_none_iff.1 h) e he

/-- Crown's reckoning of the store's energy changes the engine's slots and the store alone. -/
theorem State.newEnergy_frame (s : State) : ∃ le sap, s.newEnergy = { s with le := le, sap := sap } := ⟨_, _, rfl⟩

theorem State.newEnergy_target (s : State) : s.newEnergy.le.slots[1].values.target = bfp (maxQ 3000 (storeEnergy (stackCap s.sap.cells) s.sap.ceilingMv -
    if s.hq.hints.any (fun g => decide (s.budget.share < g.demand)) then 0 else 1000)) := by
  simp only [State.newEnergy, Vector.getElem_set_self]

theorem State.evaluate_idle {s : State} (h : s.stage ≠ .stage3) : s.evaluate = s := if_pos (Or.inl h)

theorem le_foldl_max {α β : Type} [LinearOrder β] (f : α → β) (l : List α) (b : β) :
    b ≤ l.foldl (fun m a => max m (f a)) b ∧ ∀ a ∈ l, f a ≤ l.foldl (fun m a => max m (f a)) b := by
  induction l generalizing b with
  | nil => exact ⟨le_refl _, nofun⟩
  | cons x l ih =>
    obtain ⟨hb, hl⟩ := ih (max b (f x))
    refine ⟨(le_max_left ..).trans hb, fun a ha => ?_⟩
    rcases List.mem_cons.1 ha with rfl | ha
    · exact (le_max_right ..).trans hb
    · exact hl a ha

section
variable {s : State} {h : Hint} (hmem : h ∈ s.hq.hints) (hactive : h.active = true) {k : Fin 4} (hdie : h.dies.getLsbD k.val = true)
include hmem hactive hdie

/-- A hinted window is a demand of the dies that it covers. -/
theorem State.demand_le_hintDemand : h.demand ≤ s.hintDemand k :=
  (le_foldl_max (fun h : Hint => h.demand) _ 0).2 h (List.mem_filter.2 ⟨hmem, by rw [hactive, hdie]; rfl⟩)

/-- A hinted window's preference is one of the dies that it covers. -/
theorem State.pref_le_preference {p : Fin 8} (hp : h.pref = some p) : p ≤ s.preference k := by
  have hpref : p ∈ s.prefs k :=
    List.mem_append_right _ (List.mem_filterMap.2 ⟨h, List.mem_filter.2 ⟨hmem, by rw [hactive, hdie]; rfl⟩, hp⟩)
  unfold State.preference
  split
  · rename_i hnil
    rw [hnil] at hpref
    cases hpref
  · exact (le_foldl_max id _ 0).2 p hpref

end

section
variable {s : State} {i : Nat} {h : Hint} (hi : s.hq.hints[i]? = some h)
include hi

theorem exec_hintWindowStart_listed : exec (.hintWindowStart i) s =
    .next (({ s with hq := { s.hq with hints := s.hq.hints.set i { h with active := true } } } : State).evaluate) := by
  refine congrArg Host.Outcome.next ?_
  rw [hi]

theorem exec_hintWindowEnd_listed : exec (.hintWindowEnd i) s =
    .next (({ s with hq := { s.hq with hints := s.hq.hints.eraseIdx i } } : State).newEnergy.evaluate) :=
  congrArg Host.Outcome.next (if_pos (by rw [hi]; rfl))

end

/-- The hint of a HINT descriptor that Crown takes up at a time. -/
def hintOf (d : BitVec 512) (us : Nat) : Hint :=
  { pref := if h : dfield d 2 1 < 8 then some ⟨dfield d 2 1, h⟩ else none, demand := dfield d 8 4, from_ := us + dfield d 12 4
    until_ := us + dfield d 12 4 + dfield d 16 4, dies := BitVec.ofNat 4 (dfield d 20 1), active := false }

/-- The preference and the dies of a hint whose fields are listed are those of its descriptor. -/
theorem hintOf_listed {d : BitVec 512} (hgood : firstInvalid (hintChecks d) = none) (us : Nat) :
    (hintOf d us).pref.map (fun p => p.val) = (if dfield d 2 1 = 0xFF then none else some (dfield d 2 1)) ∧
    (hintOf d us).dies.toNat = dfield d 20 1 := by
  have hall := firstInvalid_eq_none hgood
  have hpref : dfield d 2 1 ≤ 7 ∨ dfield d 2 1 = 0xFF := of_decide_eq_true (hall (2, prefListed (dfield d 2 1)) (by simp [hintChecks]))
  have hdies : 1 ≤ dfield d 20 1 ∧ dfield d 20 1 ≤ 15 := of_decide_eq_true (hall (20, decide (1 ≤ dfield d 20 1 ∧ dfield d 20 1 ≤ 15)) (by simp [hintChecks]))
  constructor
  · unfold hintOf
    rcases hpref with h | h
    · rw [dif_pos (by omega), if_neg (by omega)]
      rfl
    · rw [dif_neg (by omega), if_pos h]
      rfl
  · exact (BitVec.toNat_ofNat ..).trans (Nat.mod_eq_of_lt (by omega))

theorem exec_hint_front {s : State} {q : Fin 64} {d : InFlight} {rest : List InFlight} (hq : s.queues[q].inflight = d :: rest)
    (hp : d.phase = .fetched) (ht : dfield d.desc 0 1 = 5) (hgood : firstInvalid (hintChecks d.desc) = none) : exec (.hint q) s =
      .next { ({ s with hq := { s.hq with hints := s.hq.hints ++ [hintOf d.desc s.clk.us] } } : State).newEnergy with
        queues := (s.turned q d rest (.ended (plain 0))).queues } := by
  refine congrArg Host.Outcome.next ?_
  rw [State.front_of_fetched hq hp ht]
  dsimp only
  rw [hgood]
  exact State.complete_fetched (s := ({ s with hq := { s.hq with hints := s.hq.hints ++ [hintOf d.desc s.clk.us] } } : State).newEnergy) hq hp _

/-- Settles O22, each descriptor by what its command makes of the front of its queue, each window by the hints that it leaves. -/
theorem descriptorsEndAsTheirTypesSay : Obligations.DescriptorsEndAsTheirTypesSay := by
  unfold Obligations.DescriptorsEndAsTheirTypesSay
  intro s q d rest hq turned type free src dst len dir v
  refine ⟨fun hp => ⟨fun ht => ⟨_, exec_nop_front hq hp ht, rfl⟩, fun ht => ⟨_, exec_invalidDescriptor_unlisted hq hp ht, rfl⟩,
    fun ht hfree hkind => ⟨_, exec_invalidDescriptor_mark hq hp ht hfree hkind, rfl⟩,
    fun ht => ⟨fun off hbad => ⟨_, exec_copy_invalid hq hp ht hbad, rfl⟩, fun hgood => ⟨fun hmap => ⟨_, exec_copy_unmapped hq hp ht hgood hmap, rfl⟩,
      fun hsrc hdst => ⟨_, exec_copy_starts hq hp ht hgood hsrc hdst, ?_⟩⟩⟩, ?_, ?_⟩,
    fun hp => ⟨fun ht hlimit => ⟨_, exec_waitTimeout_running hq hp ht hlimit, rfl⟩, fun ht hne _ => ⟨?_, ?_, ?_⟩⟩, fun i h hi => ⟨?_, ?_⟩⟩
  · rfl
  · intro ht hfree hk howner hothers
    exact ⟨_, exec_wait_front hq hp ht hfree (k := ⟨src % 2 ^ 16, hk⟩) (dfield_low d.desc).symm howner hothers, rfl⟩
  · intro ht hgood
    obtain ⟨hpref, hdies⟩ := hintOf_listed hgood s.clk.us
    exact ⟨_, exec_hint_front hq hp ht hgood, rfl, _, rfl, rfl, rfl, rfl, hpref, hdies, rfl⟩
  · intro data hdir hdata _ hopen hsound
    obtain ⟨hstored, hkept⟩ := MemState.write_sound (m := (s.visit v dst len).mem) (bytes := data)
      (hdata ▸ (State.visit_meetsBad ..).trans hsound)
    rw [State.visit_dram, hdata] at hkept
    exact ⟨_, exec_copyComplete_fromHost hq hp ht rfl rfl rfl rfl hne hdir hdata hopen hsound, rfl, hstored, hkept⟩
  · intro hdir hopen hsound
    have hexec := exec_copyComplete_toHost hq hp ht rfl rfl rfl rfl hne hdir hopen hsound
    rw [State.visit_postCopy] at hexec
    exact ⟨_, hexec, State.postCopy_turned s q d rest dst (devRead s.mem.dram v src len), rfl⟩
  · intro hdir _ _ hopenSrc hopenDst hsoundSrc hsoundDst hapart
    have hlength := devRead_length s.mem.dram v src len
    have hsound : ((s.visit v src len).visit v dst len).mem.meetsBad v dst (devRead s.mem.dram v src len).length = false := by
      rw [hlength, State.visit_meetsBad, State.visit_meetsBad]
      exact hsoundDst
    obtain ⟨hstored, hkept⟩ := MemState.write_sound hsound
    rw [State.visit_dram, State.visit_dram, hlength] at hkept
    refine ⟨_, exec_copyComplete_within hq hp ht rfl rfl rfl rfl hne hdir hopenSrc hopenDst hsoundSrc hsoundDst hapart, rfl, fun k hk l hl => ?_, hkept⟩
    rw [List.getElem?_eq_getElem (by omega), Option.getD_some]
    exact hstored k (by omega) l hl
  · intro u
    have hmem : ({ h with active := true } : Hint) ∈ u.hq.hints := List.mem_set (List.getElem?_eq_some_iff.1 hi).1 _
    exact ⟨_, exec_hintWindowStart_listed hi, rfl, fun h3 => State.evaluate_idle (s := u) h3, fun k hk =>
      ⟨State.demand_le_hintDemand hmem rfl hk, fun p hp => State.pref_le_preference hmem rfl hk hp⟩⟩
  · intro left u
    exact ⟨_, exec_hintWindowEnd_listed hi, rfl, fun h3 => State.evaluate_idle (s := u) h3, rfl, State.newEnergy_target _⟩

end Sys2Proof.Machine
end

section
/-! SUPPORT. What ports send changes them and the outputs alone; what the failure of a collective leaves of the queues (R245–R249, R258, R282, R283). -/

namespace Sys2Proof.Machine

open Sys2Proof

/-! ## Ports that are set -/

@[simp] theorem State.setPort_at (s : State) (p : Fin 20) (x : Port) : (s.setPort p x).ports[p] = x := by
  simp [State.setPort]

theorem State.setPort_setPort (s : State) (p : Fin 20) (x y : Port) : (s.setPort p x).setPort p y = s.setPort p y := by
  simp [State.setPort]

/-! ## What ports send -/

/-- `t` is `s` but for its ports and what they have sent. -/
def State.portsOnly (s t : State) : Prop := { t with ports := s.ports, out := s.out } = s

theorem State.portsOnly_refl (s : State) : s.portsOnly s := rfl

theorem State.portsOnly_setPort (s : State) (p : Fin 20) (x : Port) : s.portsOnly (s.setPort p x) := rfl

theorem State.portsOnly_emit (s : State) (o : Output) : s.portsOnly (s.emit o) := rfl

section
variable {s t u : State}

theorem State.portsOnly_trans (h : s.portsOnly t) (k : t.portsOnly u) : s.portsOnly u := by
  unfold State.portsOnly at *
  rw [← h, ← k]

theorem State.portsOnly_foldl {α : Type} {f : State → α → State} (hf : ∀ (s : State) (a : α), s.portsOnly (f s a)) (l : List α) (s : State) :
    s.portsOnly (l.foldl f s) := by
  induction l generalizing s with
  | nil => exact s.portsOnly_refl
  | cons a l ih => exact State.portsOnly_trans (hf s a) (ih _)

theorem State.portsOnly_ite {c : Prop} [Decidable c] (ht : s.portsOnly t) (hu : s.portsOnly u) : s.portsOnly (if c then t else u) := by
  split
  · exact ht
  · exact hu

theorem State.queues_of_portsOnly (h : s.portsOnly t) : t.queues = s.queues := by
  conv_rhs => rw [← h]

end

section
variable (s : State) (p : Fin 20)

theorem State.sendFlit_portsOnly (ftype : BitVec 8) (vc : Nat) (seq : BitVec 12) (payload : List Byte) :
    s.portsOnly (s.sendFlit p ftype vc seq payload) := by
  unfold State.sendFlit
  exact State.portsOnly_trans (s.portsOnly_setPort ..) (State.portsOnly_emit ..)

theorem State.sendKept_portsOnly (ftype : BitVec 8) (vc : Nat) (payload : List Byte) : s.portsOnly (s.sendKept p ftype vc payload) := by
  unfold State.sendKept
  exact State.portsOnly_trans (s.portsOnly_setPort ..) (State.sendFlit_portsOnly ..)

theorem State.sendMessage_portsOnly (m : List Byte) (rest : List (List Byte)) : s.portsOnly (s.sendMessage p m rest) :=
  State.portsOnly_trans (s.portsOnly_setPort ..) (State.sendKept_portsOnly ..)

theorem State.sendData_portsOnly (v : Fin 6) : s.portsOnly (s.sendData p v) :=
  State.portsOnly_trans (s.portsOnly_setPort ..) (State.sendKept_portsOnly ..)

theorem State.pumpOne_portsOnly {p : Fin 20} {t : State} (h : s.pumpOne p = some t) : s.portsOnly t := by
  unfold State.pumpOne at h
  dsimp only at h
  split at h
  · cases h
  · split at h
    · cases h
      exact s.sendMessage_portsOnly ..
    · split at h
      · cases h
        exact s.sendMessage_portsOnly ..
      · cases h
        exact s.sendData_portsOnly ..
    · cases h
      exact s.sendData_portsOnly ..
    · cases h

theorem State.pump_portsOnly : s.portsOnly (s.pump p) := by
  unfold State.pump
  generalize 512 = n
  induction n generalizing s with
  | zero => exact s.portsOnly_refl
  | succ n ih =>
    unfold State.pumpN
    cases h : s.pumpOne p with
    | none => exact s.portsOnly_refl
    | some t => exact State.portsOnly_trans (s.pumpOne_portsOnly h) (ih t)

theorem State.sendTrans_portsOnly (v : Fin 6) (bytes : List Byte) : s.portsOnly (s.sendTrans p v bytes) :=
  State.portsOnly_trans (s.portsOnly_setPort ..) (State.pump_portsOnly ..)

theorem State.sendRequest_portsOnly (ttype flags dest op tag addr : Nat) (data : List Byte) (why : OutFor) :
    s.portsOnly ((s.sendRequest p ttype flags dest op tag addr data why).getD s) := by
  unfold State.sendRequest
  dsimp only
  split
  · exact State.portsOnly_trans (s.portsOnly_setPort ..) (State.sendTrans_portsOnly ..)
  · exact s.portsOnly_refl

theorem State.sendAborts_portsOnly (c : Collective) (code : Nat) : s.portsOnly (s.sendAborts c code) := by
  unfold State.sendAborts
  refine State.portsOnly_foldl (fun u i => ?_) _ _
  split
  · exact u.sendRequest_portsOnly ..
  · exact u.portsOnly_refl

theorem State.orphans_portsOnly (is : OutFor → Bool) : s.portsOnly (s.orphans is) := rfl

end

/-! ## The failure of a collective (R282, R283) -/

section
variable (s : State)

@[simp] theorem State.record_queues (typ : Nat) (cls : LogClass) (rep : Bool) (subject : Nat) (detail : List Byte) :
    (s.record typ cls rep subject detail).queues = s.queues := by
  obtain ⟨_, _, h⟩ := s.record_frame typ cls rep subject detail
  rw [h]

theorem State.padWrite_queues (t off : Nat) (bytes : List Byte) : (s.padWrite t off bytes).queues = s.queues := by
  have hcatch : (s.matrixCatchUp t).queues = s.queues := by
    unfold State.matrixCatchUp
    dsimp only
    split
    · split
      · rfl
      · rfl
    · rfl
  have hfold : ∀ (l : List Nat) (u : State), (l.foldl (fun s w => s.padUncorrectable t w) u).queues = u.queues := by
    intro l
    induction l with
    | nil => exact fun _ => rfl
    | cons w l ih => exact fun u => (ih _).trans (State.record_queues ..)
  unfold State.padWrite
  exact (hfold _ _).trans hcatch

theorem State.settle_queues (t : Nat) : (s.settle t).queues = s.queues := by
  obtain ⟨h, -⟩ := s.settle_onlyWakes t
  conv_rhs => rw [← h]

theorem State.spoil_queues (c : Collective) : (s.spoil c).queues = s.queues := by
  unfold State.spoil
  dsimp only
  split
  · rfl
  · split
    · rw [State.settle_queues, State.padWrite_queues]
      rfl
    · rfl

end

/-- A collective that fails is gone, and its descriptor has ended with the failure. -/
theorem State.failColl_ended {s : State} {q : Fin 64} {c : Collective} {d : InFlight} {rest : List InFlight} (hc : s.coll q = some c)
    (hq : s.queues[q].inflight = d :: rest) (hp : d.phase = .running) (code detail : Nat) :
    (s.failColl q code detail).coll q = none ∧ (s.failColl q code detail).queues = s.queues.set q { s.queues[q] with
      inflight := { d with phase := .ended { plain code with detail0 := BitVec.ofNat 64 detail, detail1 := BitVec.ofNat 64 c.doneCount } } :: rest } := by
  obtain ⟨u, hu⟩ : ∃ u, u = ((if code = 0x10A then s else s.sendAborts c code).spoil c).orphans (fun o => o.isColl q) := ⟨_, rfl⟩
  have hqueues : u.queues = s.queues := by
    have haborts : s.portsOnly (if code = 0x10A then s else s.sendAborts c code) :=
      State.portsOnly_ite s.portsOnly_refl (s.sendAborts_portsOnly c code)
    rw [hu, State.queues_of_portsOnly (State.orphans_portsOnly ..), State.spoil_queues, State.queues_of_portsOnly haborts]
  obtain ⟨w, hw⟩ : ∃ w, w = u.setFleet { u.fleet with collectives := u.fleet.collectives.filter (fun k => decide (k.q ≠ q)) } := ⟨_, rfl⟩
  have hwq : w.queues = s.queues := by rw [hw, State.setFleet_queues, hqueues]
  have hfront : w.queues[q].inflight = d :: rest := by
    rw [hwq]
    exact hq
  have hfail : s.failColl q code detail = w.complete q { plain code with detail0 := BitVec.ofNat 64 detail, detail1 := BitVec.ofNat 64 c.doneCount } := by
    rw [hw, hu, State.failColl, hc]
  rw [hfail, State.complete_front hfront _ fun k hk => by rw [hp] at hk; cases hk]
  refine ⟨List.find?_eq_none.2 fun k hk => ?_, ?_⟩
  · have hk' : k ∈ w.fleet.collectives := hk
    rw [hw] at hk'
    simpa using (List.mem_filter.1 hk').2
  · rw [State.setQueue_queues, hwq]

end Sys2Proof.Machine
end

section
/-! The obligation about Berux requests and responses (R107, R113, R114, R252, R253, R255, R258, R282). -/

namespace Sys2Proof.Machine

open Sys2Proof

/-! ## The checks of a request (R253; log 152) -/

/-- A request that is taken frees its slots of the receive buffer: what the port has trained stays. -/
theorem State.takeRequest_frame (s : State) (p : Fin 20) (r : Trans) (rest : List Trans) :
    ∃ x : Port, s.takeRequest p r rest = s.setPort p x ∧ x.trained = s.ports[p].trained := by
  unfold State.takeRequest State.freeSlots
  rw [State.setPort_at]
  exact ⟨_, State.setPort_setPort .., rfl⟩

theorem State.takeRequest_transStatus (s : State) (p : Fin 20) (r : Trans) (rest : List Trans) (b : List Byte) :
    (s.takeRequest p r rest).transStatus p b = s.transStatus p b := by
  obtain ⟨x, h, htrained⟩ := s.takeRequest_frame p r rest
  have hpart : ∀ u : State, u.ports[p].trained = s.ports[p].trained → u.fleet = s.fleet → u.tiles = s.tiles → u.regs = s.regs →
      u.transStatus p b = s.transStatus p b := by
    intro u hport hfleet htiles hregs
    unfold State.transStatus State.foreignCopy State.namedCopy State.myId State.mreg State.reg State.tile
    rw [hport, hfleet, htiles, hregs]
  rw [h]
  exact hpart _ (by rw [State.setPort_at, htrained]) rfl rfl rfl

theorem State.takeRequest_mem (s : State) (p : Fin 20) (r : Trans) (rest : List Trans) : (s.takeRequest p r rest).mem = s.mem := rfl

theorem State.takeRequest_tile (s : State) (p : Fin 20) (r : Trans) (rest : List Trans) (n : Nat) : (s.takeRequest p r rest).tile n = s.tile n := rfl

theorem State.listed_of_status {s : State} {p : Fin 20} {b : List Byte} (h : s.transStatus p b = 0) : transListed b = true := by
  by_contra hnot
  rw [State.transStatus, Bool.eq_false_iff.2 hnot] at h
  cases h

/-- The length of a listed WRITE is within its limits (R252). -/
theorem tLen_of_listed_write {b : List Byte} (h : transListed b = true) (ht : tType b = 2) : 4 ≤ tLen b ∧ tLen b ≤ 4096 := by
  simp only [transListed, ht, Bool.and_eq_true, decide_eq_true_eq] at h
  obtain ⟨-, ⟨hmin, hmax, -, -⟩, -⟩ := h
  exact ⟨hmin, hmax⟩

/-! ## A request is served (R253) -/

section
variable {s : State} {p : Fin 20} {r : Trans} {rest : List Trans} {is : List Byte → Bool} (hpick : s.pickFrom [] s.ports[p].requests = some (r, rest))
include hpick

theorem State.nextRequest_picked (his : is r.bytes = true) : s.nextRequest p is = some (r, rest) := by
  rw [State.nextRequest, hpick, Option.filter_some, if_pos his]

theorem exec_beruxInvalidTransaction_unlisted (h : transListed r.bytes = false) : exec (.beruxInvalidTransaction p) s =
    .next (((s.takeRequest p r rest).noteCopy p r.bytes 6).answer p r.bytes 6 []) := by
  refine congrArg Host.Outcome.next ?_
  rw [State.nextRequest_picked hpick (by rw [h]; rfl)]

variable (his : is r.bytes = true) (perform : State → List Byte → State × Nat × List Byte)
include his

theorem State.serve_refused (h : (s.takeRequest p r rest).transStatus p r.bytes ≠ 0) : s.serve p is perform =
    ((s.takeRequest p r rest).noteCopy p r.bytes ((s.takeRequest p r rest).transStatus p r.bytes)).answer p r.bytes
      ((s.takeRequest p r rest).transStatus p r.bytes) [] := by
  rw [State.serve, State.nextRequest_picked hpick his]
  rw [State.takeRequest_transStatus] at h
  dsimp only
  rw [if_neg fun hw => h hw.1, State.takeRequest_transStatus, if_pos h]

theorem State.serve_waits (h : (s.takeRequest p r rest).transStatus p r.bytes = 0) (hclosed : s.homeOpen p r.bytes = false) :
    s.serve p is perform = s := by
  rw [State.serve, State.nextRequest_picked hpick his]
  rw [State.takeRequest_transStatus] at h
  dsimp only
  rw [if_pos ⟨h, by rw [hclosed]; rfl⟩]

theorem State.serve_performed (h : (s.takeRequest p r rest).transStatus p r.bytes = 0) (hopen : s.homeOpen p r.bytes = true) {m : State}
    {status : Nat} {data : List Byte} (hdone : perform ((s.takeRequest p r rest).visitHome r.bytes) r.bytes = (m, status, data)) :
    s.serve p is perform = (m.noteCopy p r.bytes status).answer p r.bytes status data := by
  rw [State.serve, State.nextRequest_picked hpick his]
  dsimp only
  rw [hopen, if_neg fun hw => Bool.false_ne_true hw.2, if_neg (not_not_intro h), hdone]

end

/-! ## Device memory (R107, R113, R114, R252) -/

section
variable {s : State} {b : List Byte} (hdev : toPad b = false) (hsound : s.mem.meetsBad (tView b) (devAddr b) (tLen b) = false)

include hdev in
theorem State.visitHome_dev : s.visitHome b = s.visit (tView b) (devAddr b) (tLen b) := by
  rw [State.visitHome, hdev]
  rfl

include hdev hsound in
theorem State.readFor_sound : s.readFor [] [] b = (s, 0, Machine.devRead s.mem.dram (tView b) (devAddr b) (tLen b)) := by
  rw [State.readFor, hdev, if_neg Bool.false_ne_true, State.devCheck_sound hsound]
  rfl

include hdev hsound in
theorem State.writeFor_sound (hlen : (tData b).length = tLen b) (hne : tLen b ≠ 0) :
    s.writeFor [] [] b = (s.devWrite (tView b) (devAddr b) (tData b), 0, []) := by
  have hdata : tData b ≠ [] := fun h => hne (by rw [← hlen, h]; rfl)
  rw [State.writeFor, hdev, if_neg Bool.false_ne_true, State.storeChecked_sound hdata (hlen ▸ hsound)]
  rfl

include hsound in
theorem State.atomicFor_sound (op : AtomicOp) : s.atomicFor op [] b =
    (s.devWrite (tView b) (devAddr b) (natLe (tLen b) (atomicResult op (tLen b) (leNat (Machine.devRead s.mem.dram (tView b) (devAddr b) (tLen b)))
      (tfield b 16 (tLen b)) (tfield b 24 (tLen b)))), 0, natLe 8 (leNat (Machine.devRead s.mem.dram (tView b) (devAddr b) (tLen b)))) := by
  rw [State.atomicFor]
  dsimp only
  rw [State.devCheck_sound hsound, if_neg Bool.false_ne_true, List.drop_drop]
  rfl

include hsound in
/-- A reduction of one transaction. -/
theorem State.reduceFor_sound (hlen : tLen b = 64) (hdata : (tData b).length = 64) : s.reduceFor [] b =
    (s.devWrite (tView b) (devAddr b) (reduceBytes (if tOp b = 1 then .fp32 else if tOp b = 2 then .bf16 else .fp16)
      (Machine.devRead s.mem.dram (tView b) (devAddr b) 64) (tData b)), 0, []) := by
  rw [hlen] at hsound
  have htake : ((tData b).drop (64 * 0)).take 64 = tData b := by
    rw [Nat.mul_zero, List.drop_zero, List.take_of_length_le hdata.le]
  have hrange : List.range (64 / 64) = [0] := rfl
  rw [State.reduceFor, hlen, hrange, List.foldl_cons, List.foldl_nil]
  dsimp only
  rw [htake, Nat.mul_zero, Nat.add_zero]
  rw [show (List.filter (fun e : Nat × DramErr => e.1 == 0) []).map (fun e => ((0 : Nat), e.2)) = [] from rfl, State.devCheck_sound hsound]
  rfl

end

/-! ## Scratchpads (R53, R56, R253) -/

section
variable {s : State} {b : List Byte} {n : Nat} (hpad : toPad b = true) (hn : padTile b = some n) (hsound : (s.tile n).padBad = [])

include hpad in
theorem State.visitHome_pad : s.visitHome b = s := by
  rw [State.visitHome, if_pos hpad]

include hpad hn hsound

theorem State.readFor_pad : s.readFor [] [] b = (s, 0, readPad (s.tile n).pad (padOff b) (tLen b)) := by
  have hclean : (s.tile n).cleanAt (padOff b) (tLen b) := fun w _ hw => by rw [hsound] at hw; cases hw
  rw [State.readFor, if_pos hpad, hn]
  dsimp only
  rw [State.padCheck_clean hclean]
  rfl

theorem State.writeFor_pad : s.writeFor [] [] b = ((s.padWrite n (padOff b) (tData b)).settle n, 0, []) := by
  rw [State.writeFor, if_pos hpad, hn]
  dsimp only
  rw [State.wordsCheck_sound fun w _ hw => by rw [hsound] at hw; cases hw]
  rfl

omit hpad hn in
/-- A scratchpad without unsound words takes the bytes of a write. -/
theorem State.padWrite_settle_stored (hfree : (s.tile n).matrix = none) (off : Nat) {bytes : List Byte} (hfit : bytes.length ≤ padSize) :
    padStored (s.tile n).pad (((s.padWrite n off bytes).settle n).tile n).pad off bytes := by
  have hreread : (s.tile n).rereadBad ((padWords off bytes.length).map Prod.fst) = [] := by
    unfold Tile.rereadBad
    rw [hsound]
    refine List.filterMap_eq_nil_iff.2 fun y _ => ?_
    cases y.wait.bind WaitCond.word with
    | none => rfl
    | some w => simp
  rw [State.padWrite_clean hfree hreread]
  obtain ⟨-, -, htile, -⟩ := State.tileSettles_settle (State.tileBecomes_setTile (State.tileBecomes_refl s n) ((s.tile n).padPut off bytes))
  generalize (s.setTile n ((s.tile n).padPut off bytes)).settle n = t at htile
  have hput := congrArg Tile.pad htile
  rw [show (t.tile n).pad = writePad (s.tile n).pad off bytes from hput]
  exact padStored_writePad _ _ hfit

end

/-! ## Atomic operations (R252) -/

/-- The commands of the atomic operations of a port, with their codes. -/
def atomicCommands (p : Fin 20) : List (Instr × Nat × AtomicOp) :=
  [(.bxAtomicSwap p [], 1, .swap), (.bxAtomicCompareAndSwap p [], 2, .cas), (.bxAtomicIntegerAdd p [], 3, .add), (.bxAtomicSignedMin p [], 4, .smin),
   (.bxAtomicSignedMax p [], 5, .smax), (.bxAtomicUnsignedMin p [], 6, .umin), (.bxAtomicUnsignedMax p [], 7, .umax), (.bxAtomicAnd p [], 8, .and),
   (.bxAtomicOr p [], 9, .or), (.bxAtomicXor p [], 10, .xor), (.bxAtomicFp32Add p [], 11, .fadd)]

theorem exec_atomic (s : State) (p : Fin 20) : ∀ e ∈ atomicCommands p,
    exec e.1 s = .next (s.serve p (isAtomic e.2.1) (fun s b => s.atomicFor e.2.2 [] b)) := by
  simp only [atomicCommands, List.forall_mem_cons]
  exact ⟨rfl, rfl, rfl, rfl, rfl, rfl, rfl, rfl, rfl, rfl, rfl, List.forall_mem_nil _⟩

theorem isType_of {b : List Byte} {n : Nat} (h : transListed b = true) (ht : tType b = n) : isType n b = true := by
  rw [isType, h, ht, beq_self_eq_true, Bool.and_self]

theorem isAtomic_of {b : List Byte} {o : Nat} (h : transListed b = true) (ht : tType b = 3) (ho : tOp b = o) : isAtomic o b = true := by
  rw [isAtomic, isType_of h ht, ho, beq_self_eq_true, Bool.and_self]

/-! ## Responses (R258) -/

/-- A port whose first response has left the receive buffer. -/
def Port.took (x : Port) (r : Trans) (rest : List Trans) : Port :=
  { x with responses := rest, owed := x.owed.set (vcOf r.vc) (x.owed[vcOf r.vc] + dataSlots r.bytes + 1) }

section
variable {s : State} {p : Fin 20} {r : Trans} {rest : List Trans} (hfirst : s.ports[p].responses = r :: rest)
include hfirst

theorem State.takeResponse_late (hnone : ∀ o ∈ s.ports[p].out, o.matches r.bytes = false) : s.takeResponse p (tType r.bytes) =
    (s.setPort p { s.ports[p].took r rest with
      addrErr := if s.ports[p].addrErr = BitVec.allOnes 32 then s.ports[p].addrErr else s.ports[p].addrErr + 1 }).flag (pReg p + 0x0C) 4 := by
  have hfind : s.ports[p].out.find? (fun o => o.matches r.bytes) = none :=
    List.find?_eq_none.2 fun o ho => by rw [hnone o ho]; decide
  unfold State.takeResponse
  rw [hfirst]
  dsimp only
  rw [if_neg (not_not_intro rfl), State.freeSlots, State.setPort_at, State.setPort_setPort, State.setPort_at]
  dsimp only
  rw [hfind]
  dsimp only
  rw [State.addrError, State.setPort_at, State.setPort_setPort]
  rfl

theorem State.takeResponse_answers {o : OutReq} (hfind : s.ports[p].out.find? (fun o => o.matches r.bytes) = some o) :
    s.takeResponse p (tType r.bytes) = (s.setPort p { s.ports[p].took r rest with
      out := s.ports[p].out.eraseP (fun o => o.matches r.bytes) }).endRequest p o (.status (tOp r.bytes)) := by
  unfold State.takeResponse
  rw [hfirst]
  dsimp only
  rw [if_neg (not_not_intro rfl), State.freeSlots, State.setPort_at, State.setPort_setPort, State.setPort_at]
  dsimp only
  rw [hfind]
  dsimp only
  rw [State.setPort_setPort]
  rfl

end

theorem State.coll_setColl {s : State} {q : Fin 64} {c k : Collective} (hc : s.coll q = some c) (hk : k.q = q) : (s.setColl k).coll q = some k := by
  have hfind : ∀ l : List Collective, l.find? (fun c => decide (c.q = q)) = some c →
      (l.map (fun x => if x.q = k.q then k else x)).find? (fun c => decide (c.q = q)) = some k := by
    intro l
    induction l with
    | nil => nofun
    | cons x l ih =>
      intro h
      rw [List.map_cons]
      by_cases hx : x.q = q
      · rw [if_pos (hx.trans hk.symm)]
        exact List.find?_cons_of_pos (by simp [hk])
      · rw [if_neg (by rw [hk]; exact hx), List.find?_cons_of_neg (by simpa using hx)]
        exact ih (by rwa [List.find?_cons_of_neg (by simpa using hx)] at h)
  exact hfind _ hc

section
variable {s : State} {p : Fin 20} {o : OutReq}

theorem State.endRequest_gone (h : o.purpose = .gone) (e : Ending) : s.endRequest p o e = s := by
  rw [State.endRequest, h]

/-- A COLL request answered with OK leaves its collective with one transaction less to be answered. -/
theorem State.endRequest_coll_ok {q : Fin 64} {m : Nat} {c : Collective} (h : o.purpose = .coll q m) (hc : s.coll q = some c)
    (hgoes : c.doneCount ≠ c.instances) : s.endRequest p o (.status 0) = s.setColl { c with open_ := c.open_ - 1 } := by
  have hq : c.q = q := by simpa using List.find?_some hc
  have hset : (s.setColl { c with open_ := c.open_ - 1 }).coll q = some { c with open_ := c.open_ - 1 } := State.coll_setColl hc hq
  rw [State.endRequest, h]
  dsimp only
  rw [if_pos rfl, hc]
  dsimp only
  rw [State.endColl, hset]
  exact if_neg fun hdone => hgoes hdone.1

theorem State.endRequest_coll_timeout {q : Fin 64} {m : Nat} (h : o.purpose = .coll q m) :
    s.endRequest p o .timeout = s.failColl q 0x103 (m % 2 ^ 16 + p.val * 2 ^ 24) := by
  have hdetail : failDetail m 0 p.val = m % 2 ^ 16 + p.val * 2 ^ 24 := by rw [failDetail, Nat.zero_mul, Nat.add_zero]
  rw [State.endRequest, h, ← hdetail]
  exact if_neg nofun

theorem exec_beruxRequestTimeout_due {tag : BitVec 16}
    (h : (unansweredBy s.ports[p].responses s.ports[p].out).find? (fun r => r.tag == tag) = some o) : exec (.beruxRequestTimeout p tag) s =
      .next ((s.setPort p { s.ports[p] with out := answeredBy s.ports[p].responses s.ports[p].out ++
        (unansweredBy s.ports[p].responses s.ports[p].out).eraseP (fun r => r.tag == tag) }).endRequest p o .timeout) := by
  refine congrArg Host.Outcome.next ?_
  dsimp only
  rw [h]

theorem exec_beruxRequestTimeout_none {tag : BitVec 16}
    (h : (unansweredBy s.ports[p].responses s.ports[p].out).find? (fun r => r.tag == tag) = none) : exec (.beruxRequestTimeout p tag) s = .next s := by
  refine congrArg Host.Outcome.next ?_
  dsimp only
  rw [h]

end

/-! ## The obligation -/

section
variable {s : State} {p : Fin 20} {r : Trans} {rest : List Trans} (hpick : s.pickFrom [] s.ports[p].requests = some (r, rest))
  (hst : (s.takeRequest p r rest).transStatus p r.bytes = 0) (hopen : s.homeOpen p r.bytes = true)
include hpick hst hopen

/-- A request to device memory is performed once its controllers have been visited. -/
theorem State.serve_dev {is : List Byte → Bool} (his : is r.bytes = true) {perform : State → List Byte → State × Nat × List Byte}
    (hdev : toPad r.bytes = false) {m : State} {data : List Byte}
    (hdone : perform ((s.takeRequest p r rest).visit (tView r.bytes) (devAddr r.bytes) (tLen r.bytes)) r.bytes = (m, 0, data)) :
    s.serve p is perform = (m.noteCopy p r.bytes 0).answer p r.bytes 0 data :=
  State.serve_performed hpick his perform hst hopen (by rw [State.visitHome_dev hdev, hdone])

theorem State.serve_pad {is : List Byte → Bool} (his : is r.bytes = true) {perform : State → List Byte → State × Nat × List Byte}
    (hpad : toPad r.bytes = true) {m : State} {data : List Byte} (hdone : perform (s.takeRequest p r rest) r.bytes = (m, 0, data)) :
    s.serve p is perform = (m.noteCopy p r.bytes 0).answer p r.bytes 0 data :=
  State.serve_performed hpick his perform hst hopen (by rw [State.visitHome_pad hpad, hdone])

end

theorem exec_response (s : State) (p : Fin 20) : ∀ e ∈ [(Instr.readRsp p, 0x81), (.writeAck p, 0x82), (.atomicRsp p, 0x83), (.collAck p, 0x85)],
    exec e.1 s = .next (s.takeResponse p e.2) := by
  simp only [List.forall_mem_cons]
  exact ⟨rfl, rfl, rfl, rfl, List.forall_mem_nil _⟩

/-- Settles O27: requests by what their checks and their homes make of them, responses and timeouts by the request that each ends. -/
theorem beruxRequestsAndResponses : Obligations.BeruxRequestsAndResponses := by
  unfold Obligations.BeruxRequestsAndResponses
  refine ⟨fun s p r rest hpick => ?_, fun s p => ?_⟩
  · intro b u w v a served atomics
    refine ⟨fun hbad => ⟨_, exec_beruxInvalidTransaction_unlisted hpick hbad, rfl⟩, fun hlisted hst => ⟨fun ht => ?_, fun ht => ?_, fun e he ht ho => ?_,
      fun ht => ?_⟩, fun hst hclosed ht => ?_, fun hst hopen hdev hsound => ?_, fun hst hopen hpad n hn hfree hsoundPad => ?_⟩
    · exact ⟨_, congrArg Host.Outcome.next (State.serve_refused hpick (isType_of hlisted ht) _ hst), rfl⟩
    · exact ⟨_, congrArg Host.Outcome.next (State.serve_refused hpick (isType_of hlisted ht) _ hst), rfl⟩
    · exact ⟨_, (exec_atomic s p e he).trans (congrArg _ (State.serve_refused hpick (isAtomic_of hlisted ht ho) _ hst)), rfl⟩
    · exact ⟨_, congrArg Host.Outcome.next (State.serve_refused hpick (isType_of hlisted ht) _ hst), rfl⟩
    · exact congrArg Host.Outcome.next (State.serve_waits hpick (isType_of (State.listed_of_status hst) ht) _ hst hclosed)
    · have hlisted := State.listed_of_status hst
      have hsound' : w.mem.meetsBad v a (tLen b) = false := (State.visit_meetsBad ..).trans hsound
      have hdram : w.mem.dram = s.mem.dram := State.visit_dram ..
      intro old
      refine ⟨fun ht => ⟨_, congrArg Host.Outcome.next (State.serve_dev hpick hst hopen (isType_of hlisted ht) hdev
        (State.readFor_sound hdev hsound')), ?_⟩, fun ht hlen => ?_, fun e he ht ho => ?_, fun ht hlen hdata => ?_⟩
      · rw [hdram]
      · obtain ⟨hmin, -⟩ := tLen_of_listed_write hlisted ht
        have hne : tLen b ≠ 0 := by omega
        obtain ⟨hstored, hkept⟩ := MemState.write_sound (bytes := tData b) (hlen ▸ hsound')
        rw [hdram, hlen] at hkept
        refine ⟨w.devWrite v a (tData b), ⟨_, congrArg Host.Outcome.next (State.serve_dev hpick hst hopen (isType_of hlisted ht) hdev
          (State.writeFor_sound hdev hsound' hlen hne)), rfl⟩, ?_, fun k hk l hl => ?_, hkept⟩
        · obtain ⟨rows, places, hv⟩ := u.visit_frame v a (tLen b)
          rw [show w = _ from hv]
          rfl
        · rw [List.getElem?_eq_getElem (hlen ▸ hk), Option.getD_some]
          exact hstored k (hlen ▸ hk) l hl
      · refine ⟨_, (exec_atomic s p e he).trans (congrArg _ (State.serve_dev hpick hst hopen (isAtomic_of hlisted ht ho) hdev
          (State.atomicFor_sound hsound' e.2.2))), ?_⟩
        rw [hdram]
      · refine ⟨_, congrArg Host.Outcome.next (State.serve_dev hpick hst hopen (isType_of hlisted ht) hdev
          (State.reduceFor_sound hsound' hlen hdata)), ?_⟩
        rw [hdram]
    · have hlisted := State.listed_of_status hst
      intro off
      refine ⟨fun ht => ⟨_, congrArg Host.Outcome.next (State.serve_pad hpick hst hopen (isType_of hlisted ht) hpad
        (State.readFor_pad hpad hn hsoundPad)), rfl⟩, fun ht hlen => ?_⟩
      obtain ⟨-, hmax⟩ := tLen_of_listed_write hlisted ht
      refine ⟨(u.padWrite n off (tData b)).settle n, ⟨_, congrArg Host.Outcome.next (State.serve_pad hpick hst hopen (isType_of hlisted ht) hpad
        (State.writeFor_pad hpad hn hsoundPad)), rfl⟩, State.padWrite_settle_stored (s := u) hsoundPad hfree off ?_⟩
      rw [hlen, padSize]
      omega
  · intro x
    refine ⟨fun e he r rest hfirst hkind => ?_, fun tag hnone => exec_beruxRequestTimeout_none hnone, fun tag o ho => ⟨fun hgone => ?_,
      fun q m c d rest hcoll hc hq hp => ?_⟩⟩
    · have hexec := exec_response s p e he
      rw [← hkind] at hexec
      intro y
      refine ⟨fun hnone => ⟨_, hexec.trans (congrArg _ (State.takeResponse_late hfirst hnone)), rfl⟩, fun o ho => ?_⟩
      intro u
      have hanswer := hexec.trans (congrArg _ (State.takeResponse_answers hfirst ho))
      refine ⟨fun hgone => ⟨_, hanswer, State.endRequest_gone hgone _⟩, fun q m c hcoll hok hc hgoes => ⟨_, hanswer, ?_⟩⟩
      rw [hok]
      exact State.endRequest_coll_ok (s := u) hcoll hc hgoes
    · exact ⟨_, exec_beruxRequestTimeout_due ho, State.endRequest_gone hgone _⟩
    · refine ⟨_, exec_beruxRequestTimeout_due ho, ?_⟩
      rw [State.endRequest_coll_timeout hcoll]
      exact State.failColl_ended (s := s.setPort p _) hc hq hp _ _

end Sys2Proof.Machine
end

section
/-! SUPPORT. What signals, reports and messages leave alone beside the control, and what Crown's evaluation of the dies' points does (R254, R294, R339, R411,
R424, R425, R499, R503, R586). -/

namespace Sys2Proof.Machine

open Sys2Proof

/-! ## Observations that a step keeps -/

section
variable {α β : Type} {g : State → β}

theorem kept_ite {c : Prop} [Decidable c] {s t u : State} (ht : g t = g s) (hu : g u = g s) : g (if c then t else u) = g s := by
  split
  · exact ht
  · exact hu

theorem kept_foldl {f : State → α → State} (hf : ∀ s a, g (f s a) = g s) (l : List α) (s : State) : g (l.foldl f s) = g s :=
  List.foldlRecOn l f (motive := fun t => g t = g s) rfl fun t ht a _ => (hf t a).trans ht

end

/-! ## The store, the loop engine and the leases -/

/-- What neither a signal, nor a report, nor a message changes, beside the control: the store, the loop engine and the leases that this module holds. -/
def State.standing (s : State) : Store × LoopEngine × List HolderLease := (s.sap, s.le, s.fleet.holders)

section
variable (s : State)

theorem State.standing_of_portsOnly {s t : State} (h : s.portsOnly t) : t.standing = s.standing := by
  unfold State.portsOnly at h
  exact (congrArg State.standing h :)

theorem State.standing_record (typ : Nat) (cls : LogClass) (rep : Bool) (subject : Nat) (detail : List Byte) :
    (s.record typ cls rep subject detail).standing = s.standing := by
  obtain ⟨_, _, h⟩ := s.record_frame typ cls rep subject detail
  rw [h]
  rfl

theorem State.standing_flushLog (forced : Bool) : (s.flushLog forced).standing = s.standing := by
  obtain ⟨_, _, h⟩ := s.flushLog_frame forced
  rw [h]
  rfl

theorem State.standing_visit (v : BitVec 2) (a len : Nat) : (s.visit v a len).standing = s.standing := by
  obtain ⟨_, _, h⟩ := s.visit_frame v a len
  rw [h]
  rfl

theorem State.standing_signal (fn : Fn) (vec : Nat) : (s.signal fn vec).standing = s.standing := by
  unfold State.signal
  exact kept_ite rfl (kept_ite rfl rfl)

theorem State.standing_signalBoth : s.signalBoth.standing = s.standing := (State.standing_signal ..).trans (State.standing_signal ..)

theorem State.standing_signalRing (fn : Fn) : (s.signalRing fn).standing = s.standing := by
  unfold State.signalRing
  exact kept_ite rfl ((State.standing_signal ..).trans rfl)

theorem State.standing_ringPut {fn : Fn} {msg : List Byte} {t : State} (h : s.ringPut fn msg = some t) : t.standing = s.standing := by
  unfold State.ringPut at h
  dsimp only at h
  split at h
  · cases h
  · cases h
    refine Eq.trans ?_ ((State.standing_visit (s.visit (s.ringView fn) (s.ringBase fn) 64) (s.ringView fn) (s.rspSlot fn) 256).trans
      (State.standing_visit ..))
    generalize State.visit _ _ _ 256 = u
    rfl

theorem State.standing_putEvent (fn : Fn) (msg : List Byte) : (s.putEvent fn msg).standing = s.standing := by
  unfold State.putEvent
  cases h : s.ringPut fn msg with
  | some t => exact (State.standing_signalRing ..).trans (State.standing_ringPut s h)
  | none => rfl

theorem State.standing_ringEvent (fn : Fn) (mtype : Nat) (body : List Byte) : (s.ringEvent fn mtype body).standing = s.standing := by
  unfold State.ringEvent
  exact kept_ite rfl (kept_ite rfl ((State.standing_putEvent ..).trans rfl))

theorem State.standing_reportTo (code index : Nat) (detail : List Byte) (fn : Fn) : (s.reportTo code index detail fn).standing = s.standing := by
  unfold State.reportTo
  exact kept_ite ((State.standing_ringEvent ..).trans rfl) rfl

theorem State.standing_report (code index : Nat) : (s.report code index).standing = s.standing :=
  (State.standing_reportTo ..).trans ((State.standing_reportTo ..).trans rfl)

theorem State.standing_sendSide (p : Fin 20) (m : List Byte) : (s.sendSide p m).standing = s.standing := by
  unfold State.sendSide
  exact (State.standing_of_portsOnly (State.pump_portsOnly _ p)).trans (State.standing_of_portsOnly (s.portsOnly_setPort ..))

theorem State.standing_sendTo (mtype dest : Nat) (body : List Byte) : (s.sendTo mtype dest body).standing = s.standing := by
  unfold State.sendTo
  cases s.egress dest with
  | none => rfl
  | some p => exact kept_ite ((State.standing_sendSide ..).trans rfl) rfl

theorem State.standing_sendLease (mtype w : Nat) (body : List Byte) : (s.sendLease mtype w body).standing = s.standing := by
  unfold State.sendLease
  refine kept_ite ?_ (State.standing_sendTo ..)
  split
  · exact (kept_ite (State.standing_ringEvent ..) rfl).trans rfl
  · rfl

end

/-! ## What an evaluation leaves alone -/

/-- Crown's power state without the points that it has granted and the caps that it has decided. -/
def Budget.uncapped (b : Budget) : Budget :=
  { b with
    caps := Vector.replicate 4 none, capWhy := Vector.replicate 4 0, deferred := none, capCause := 0, heldCaps := none, granted := Vector.replicate 4 0 }

/-- What an evaluation of the dies' points leaves alone: the stage, Crown's power state but for caps and grants, Heartwood, the store, the loop engine and
the leases. -/
def State.steady (s : State) : Stage × Budget × Hwd × Store × LoopEngine × List HolderLease := (s.stage, s.budget.uncapped, s.hwd, s.standing)

section
variable {s t : State}

theorem State.steady_of_control (h : t.control = s.control) (k : t.standing = s.standing) : t.steady = s.steady := by
  unfold State.steady
  rw [State.stage_of_control h, State.budget_of_control h, State.hwd_of_control h, k]

variable (h : t.steady = s.steady)
include h

theorem State.stage_of_steady : t.stage = s.stage := congrArg Prod.fst h
theorem State.uncapped_of_steady : t.budget.uncapped = s.budget.uncapped := congrArg (fun x => x.2.1) h
theorem State.hwd_of_steady : t.hwd = s.hwd := congrArg (fun x => x.2.2.1) h
theorem State.le_of_steady : t.le = s.le := congrArg (fun x => x.2.2.2.2.1) h

end

section
variable (s : State) (d : Fin 4) (p : Fin 8)

theorem State.steady_setPins : (s.setPins d p).steady = s.steady := by
  unfold State.setPins
  exact kept_ite rfl (kept_ite rfl rfl)

theorem State.steady_askPins : (s.askPins d p).steady = s.steady := by
  unfold State.askPins
  exact kept_ite rfl (kept_ite rfl (State.steady_setPins ..))

theorem State.steady_lowerDie : (s.lowerDie d p).steady = s.steady := by
  unfold State.lowerDie
  exact (State.steady_askPins ..).trans (kept_ite (kept_ite rfl rfl) rfl)

theorem State.steady_capNotice (points : Fin 4 → Fin 8) (cause : Nat) (late : Bool) : (s.capNotice points cause late).steady = s.steady := by
  unfold State.capNotice
  exact (kept_foldl (fun u i => State.steady_of_control (State.control_sendTo ..) (State.standing_sendTo ..)) _ _).trans (kept_ite rfl rfl)

theorem State.steady_applyCaps (caps : Vector (Option (Fin 8)) 4) (cause : Nat) : (s.applyCaps caps cause).steady = s.steady := by
  unfold State.applyCaps
  refine (kept_foldl (fun u d => ?_) _ _).trans rfl
  split
  · exact kept_ite (State.steady_lowerDie ..) rfl
  · rfl

theorem State.steady_decideCaps (caps : Vector (Option (Fin 8)) 4) (cause : Nat) : (s.decideCaps caps cause).steady = s.steady := by
  unfold State.decideCaps
  exact kept_ite rfl (kept_ite (State.steady_capNotice ..) ((State.steady_applyCaps ..).trans (State.steady_capNotice ..)))

theorem State.steady_reviewCaps : s.reviewCaps.steady = s.steady := by
  unfold State.reviewCaps
  exact kept_ite rfl (kept_ite (kept_ite (State.steady_decideCaps ..) (State.steady_decideCaps ..)) (State.steady_decideCaps ..))

theorem State.steady_raiseTo (sofar : ℚ × ℚ) : (s.raiseTo d p sofar).1.steady = s.steady := by
  unfold State.raiseTo
  dsimp only
  split
  · exact State.steady_askPins ..
  · rfl

theorem State.steady_raiseDies : s.raiseDies.steady = s.steady := by
  unfold State.raiseDies
  refine List.foldlRecOn _ _ (motive := fun x : State × (ℚ × ℚ) => x.1.steady = s.steady) rfl fun x hx d _ => ?_
  dsimp only
  split
  · exact hx
  · split
    · exact (State.steady_lowerDie ..).trans hx
    · exact (State.steady_raiseTo ..).trans hx

theorem State.steady_liftCaps : s.liftCaps.steady = s.steady := by
  unfold State.liftCaps
  exact kept_ite (State.steady_raiseDies s)
    ((State.steady_capNotice ..).trans ((State.steady_raiseDies _).trans (State.steady_applyCaps ..)))

theorem State.steady_evaluate : s.evaluate.steady = s.steady := by
  unfold State.evaluate
  exact kept_ite rfl ((kept_ite (s := s.reviewCaps) (State.steady_raiseDies _) (State.steady_liftCaps _)).trans (State.steady_reviewCaps s))

end

end Sys2Proof.Machine
end

section
/-! SUPPORT. One run of Crown's thermal loop: the ceilings of the dies, the coolant, and a thermal shutdown (R127, R428–R430, R434). -/

namespace Sys2Proof.Machine

open Sys2Proof

/-! ## The ceilings -/

/-- What a run of the loop keeps of a die: whether an input throttles it, its runs below the entries, and its ceiling. -/
def Budget.dieHeat (b : Budget) (d : Fin 4) : Bool × Nat × Fin 8 := (b.throttled[d], b.coldRuns[d], b.tceil[d])

/-- One run for a die that an input throttles, or that lies 3 °C below its entries, or neither, with the coolant there or lost (R428, R429). -/
def heatStep (throttle cooler lost : Bool) (x : Bool × Nat × Fin 8) : Bool × Nat × Fin 8 :=
  if throttle then (true, 0, if x.2.2 = 0 then 0 else x.2.2 - 1)
  else if !cooler ∨ lost then (false, 0, x.2.2)
  else if x.2.1 < 10 then (false, x.2.1 + 1, x.2.2)
  else (false, 1, if x.2.2 = 7 then 7 else x.2.2 + 1)

theorem heatStep_throttle (cooler lost : Bool) (x : Bool × Nat × Fin 8) :
    (heatStep true cooler lost x).1 = true ∧ (heatStep true cooler lost x).2.2.val = x.2.2.val - 1 := by
  refine ⟨rfl, ?_⟩
  unfold heatStep
  rw [if_pos rfl]
  dsimp only
  split
  · rename_i h0
    rw [h0]
    rfl
  · rename_i h0
    exact Fin.val_sub_one_of_ne_zero h0

theorem heatStep_warm (lost : Bool) (x : Bool × Nat × Fin 8) : heatStep false false lost x = (false, 0, x.2.2) := rfl

theorem heatStep_cool {x : Bool × Nat × Fin 8} (h : x.2.1 < 10) : heatStep false true false x = (false, x.2.1 + 1, x.2.2) := if_pos h

theorem heatStep_risen {x : Bool × Nat × Fin 8} (h : 10 ≤ x.2.1) : (heatStep false true false x).2.2.val = min 7 (x.2.2.val + 1) := by
  have hstep : heatStep false true false x = (false, 1, if x.2.2 = 7 then 7 else x.2.2 + 1) := if_neg (Nat.not_lt.2 h)
  rw [hstep]
  generalize x.2.2 = c
  revert c
  decide

/-- A ceiling at 0 stays there while the coolant is lost. -/
theorem heatStep_lost (throttle cooler : Bool) (a : Bool) (n : Nat) : (heatStep throttle cooler true (a, n, 0)).2.2 = 0 := by
  cases throttle <;> cases cooler <;> rfl

/-- Sets what the loop keeps of a die. -/
def Budget.setHeat (b : Budget) (d : Fin 4) (x : Bool × Nat × Fin 8) : Budget :=
  { b with throttled := b.throttled.set d x.1, coldRuns := b.coldRuns.set d x.2.1, tceil := b.tceil.set d x.2.2 }

theorem Budget.dieHeat_setHeat (b : Budget) (d e : Fin 4) (x : Bool × Nat × Fin 8) :
    (b.setHeat d x).dieHeat e = if e = d then x else b.dieHeat e := by
  unfold Budget.dieHeat Budget.setHeat
  dsimp only
  split
  · rename_i hed
    subst hed
    simp
  · rename_i hed
    have hne : d.val ≠ e.val := fun h => hed (Fin.ext h.symm)
    simp [Vector.getElem_set_ne _ _ hne]

theorem State.stepCeiling_eq (s : State) (m : ThermalMeasure) (d : Fin 4) : s.stepCeiling m d =
    { s with budget := s.budget.setHeat d (heatStep (s.throttle m d) (s.cooler m d 48) s.budget.coolantLoss (s.budget.dieHeat d)) } := by
  unfold State.stepCeiling heatStep Budget.setHeat Budget.dieHeat
  dsimp only
  have hkeep : s.budget.tceil.set d s.budget.tceil[d] = s.budget.tceil := Vector.set_getElem_self ..
  by_cases ht : s.throttle m d = true
  · rw [if_pos ht, if_pos ht]
  · rw [if_neg ht, if_neg ht]
    split
    · dsimp only
      rw [hkeep]
    · split
      · dsimp only
        rw [hkeep]
      · rfl

/-- The runs of the dies: each die's own, and nothing else. -/
theorem State.stepCeilings (m : ThermalMeasure) {l : List (Fin 4)} (hl : l.Nodup) (s : State) : ∃ throttled coldRuns tceil,
    l.foldl (fun (s : State) (d : Fin 4) => s.stepCeiling m d) s =
      { s with budget := { s.budget with throttled := throttled, coldRuns := coldRuns, tceil := tceil } } ∧
    ∀ d : Fin 4, (throttled[d], coldRuns[d], tceil[d]) = if d ∈ l then
      heatStep (s.throttle m d) (s.cooler m d 48) s.budget.coolantLoss (s.budget.dieHeat d) else s.budget.dieHeat d := by
  induction l generalizing s with
  | nil => exact ⟨_, _, _, rfl, fun _ => rfl⟩
  | cons a l ih =>
    obtain ⟨ha, hl⟩ := List.nodup_cons.1 hl
    obtain ⟨throttled, coldRuns, tceil, hfold, hheat⟩ := ih hl (s.stepCeiling m a)
    rw [State.stepCeiling_eq] at hfold hheat
    refine ⟨throttled, coldRuns, tceil, ?_, fun d => (hheat d).trans ?_⟩
    · rw [List.foldl_cons, State.stepCeiling_eq]
      exact hfold
    · rw [Budget.dieHeat_setHeat]
      by_cases hda : d = a
      · subst hda
        rw [if_neg ha, if_pos rfl, if_pos (List.mem_cons_self ..)]
      · rw [if_neg hda]
        simp only [List.mem_cons, hda, false_or]
        rfl

/-! ## The coolant -/

/-- A run of the loop finds the coolant lost (R429). -/
def State.findsLoss (s : State) (m : ThermalMeasure) : Prop :=
  352 < m.outlet - m.inlet ∨ risingOutlet (((m.outlet, s.budget.demMean) :: s.budget.outlets).take 21) = true

/-- What a run does not find lost: the measures are noted, and the coolant stays as it was or is there again. -/
theorem State.noteCoolant_kept {s : State} {m : ThermalMeasure} (h : s.budget.coolantLoss = false → ¬ s.findsLoss m) :
    ∃ dieTemps outlets coolRuns lost, s.noteCoolant m = { s with budget := { s.budget with
      inlet := m.inlet, outlet := m.outlet, dieTemps := dieTemps, outlets := outlets, coolRuns := coolRuns, coolantLoss := lost } } ∧
      (s.budget.coolantLoss = false → lost = false) := by
  unfold State.findsLoss at h
  unfold State.noteCoolant
  dsimp only
  generalize (if (decide (m.outlet - m.inlet ≤ 240) && s.budget.coolantLoss) = true then s.budget.coolRuns + 1 else 0) = runs
  cases hl : s.budget.coolantLoss with
  | true =>
    rw [if_pos rfl]
    split
    · exact ⟨_, _, _, _, rfl, fun _ => rfl⟩
    · exact ⟨_, _, _, _, rfl, fun h => by cases h⟩
  | false =>
    rw [if_neg Bool.false_ne_true, if_neg (h hl)]
    exact ⟨_, _, _, _, rfl, fun _ => rfl⟩

/-- A loss that a run finds drops every ceiling and stops ballast. -/
theorem State.noteCoolant_lost {s : State} {m : ThermalMeasure} (h : s.budget.coolantLoss = false) (hlost : s.findsLoss m) :
    ∃ dieTemps outlets, (s.noteCoolant m).control = { s.control with budget := { s.budget with
      inlet := m.inlet, outlet := m.outlet, dieTemps := dieTemps, outlets := outlets, coolRuns := 0, coolantLoss := true
      tceil := Vector.replicate 4 0, duty := Vector.replicate 4 0 } } := by
  unfold State.findsLoss at hlost
  unfold State.noteCoolant
  dsimp only
  rw [h, if_neg Bool.false_ne_true, if_pos hlost]
  exact ⟨_, _, (State.control_report ..).trans (State.control_record ..)⟩

/-! ## The end of a quiesce, and a thermal shutdown -/

/-- The control of a module that becomes quiesced: no restart, no quiesce and no hold is left. -/
def Control.quiesced (c : Control) : Control :=
  { c with
    stage := .quiesced
    start := { c.start with dies := Vector.replicate 4 .waiting, restarting := false, pendingKind := none, retry := false, retried := false }
    budget := { c.budget with quiesce := none, hold := false }
    hwd := { c.hwd with holdReq := false } }

theorem State.control_becomeQuiesced (s : State) : s.becomeQuiesced.control = s.isolate.control.quiesced :=
  (State.control_signalBoth _).trans (congrArg Control.quiesced (s.isolate.control_report 9 0))

theorem State.isolate_disconnected (s : State) : s.isolate.sap.state ≠ .connected := by
  unfold State.isolate
  dsimp only
  cases s.sap.state <;> decide

theorem State.becomeQuiesced_disconnected (s : State) : s.becomeQuiesced.sap.state ≠ .connected := by
  have hkept : s.becomeQuiesced.standing = s.isolate.standing := (State.standing_signalBoth _).trans (s.isolate.standing_report 9 0)
  rw [show s.becomeQuiesced.sap = s.isolate.sap from congrArg Prod.fst hkept]
  exact s.isolate_disconnected

/-- A module whose dies go and which is then quiesced. -/
theorem State.diesDown_becomeQuiesced (s : State) : let t := s.diesDown.becomeQuiesced
    t.stage = .quiesced ∧ t.budget = { s.budget with quiesce := none, hold := false } ∧ t.hwd.dieEn = Vector.replicate 4 false ∧
    t.hwd.swA = false ∧ t.hwd.swB = false ∧ t.sap.state ≠ .connected ∧ t.control.ports = s.control.ports := by
  obtain ⟨clk, power, hdown⟩ := s.diesDown_control
  dsimp only
  generalize s.diesDown = u at hdown
  have hquiet := u.control_becomeQuiesced
  have hconn := u.becomeQuiesced_disconnected
  generalize u.becomeQuiesced = t at hquiet hconn
  have hbudget : u.budget = s.budget := congrArg Control.budget hdown
  have hen : u.hwd.dieEn = Vector.replicate 4 false := congrArg (fun c => c.hwd.dieEn) hdown
  have hports : u.control.ports = s.control.ports := (congrArg Control.ports hdown :)
  refine ⟨congrArg Control.stage hquiet, ?_, ?_, congrArg (fun c => c.hwd.swA) hquiet, congrArg (fun c => c.hwd.swB) hquiet, hconn, ?_⟩
  · rw [← hbudget]
    exact congrArg Control.budget hquiet
  · rw [← hen]
    exact congrArg (fun c => c.hwd.dieEn) hquiet
  · exact (congrArg Control.ports hquiet).trans hports

/-- What the thermal loop knows of the coolant and the dies, and ballast. -/
def Budget.heat (b : Budget) : Int × Int × Bool × Vector Nat 4 × Vector Bool 4 × Vector Nat 4 × Vector (Fin 8) 4 :=
  (b.inlet, b.outlet, b.coolantLoss, b.duty, b.throttled, b.coldRuns, b.tceil)

theorem State.heat_evaluate (s : State) : s.evaluate.budget.heat = s.budget.heat :=
  (congrArg Budget.heat (State.uncapped_of_steady s.steady_evaluate) :)

section
variable {s : State}

/-- The module with the cause of a thermal stop on record, and no restart. -/
def State.overheated (s : State) : State :=
  { s with
    budget := { s.budget with shutdown := true, hot := true, stopped := some .thermal }
    start := { s.start with restarting := false, pendingKind := none } }

theorem State.thermalShutdown_running (h : s.stage = .stage3) : s.thermalShutdown.control = { s.control with
    stage := .quiescing, stopped := true
    budget := { s.budget with shutdown := true, hot := true, quiesce := some .draining, stopped := some .thermal } } := by
  unfold State.thermalShutdown
  dsimp only
  split
  · rename_i hs
    cases h.symm.trans hs
  · rename_i hs
    cases h.symm.trans hs
  · rename_i hs
    cases h.symm.trans hs
  · exact State.control_beginQuiesce (s := { s with budget := { s.budget with shutdown := true, hot := true } }) h .thermal

theorem State.thermalShutdown_entry (h : s.stage = .entry) : s.thermalShutdown = s.overheated.diesDown.becomeQuiesced := by
  unfold State.thermalShutdown
  dsimp only
  split
  · rfl
  · rename_i hs
    cases h.symm.trans hs
  · rename_i hs
    cases h.symm.trans hs
  · contradiction

theorem State.thermalShutdown_stopped (h : s.stage = .quiescing ∨ s.stage = .quiesced) : s.thermalShutdown = s.overheated := by
  unfold State.thermalShutdown
  dsimp only
  split
  · rename_i hs
    rcases h with h | h
    · cases h.symm.trans hs
    · cases h.symm.trans hs
  · rfl
  · rfl
  · rcases h with h | h
    · contradiction
    · contradiction

theorem State.thermalShutdown_idle (h3 : s.stage ≠ .stage3) (he : s.stage ≠ .entry) (hq : s.stage ≠ .quiescing) (hd : s.stage ≠ .quiesced) :
    s.thermalShutdown = { s with budget := { s.budget with shutdown := true, hot := true } } := by
  unfold State.thermalShutdown
  dsimp only
  split
  · contradiction
  · contradiction
  · contradiction
  · exact if_pos h3

theorem State.heat_thermalShutdown (s : State) : s.thermalShutdown.budget.heat = s.budget.heat := by
  by_cases h3 : s.stage = .stage3
  · exact congrArg (fun c => c.budget.heat) (State.thermalShutdown_running h3)
  · by_cases he : s.stage = .entry
    · obtain ⟨-, hb, -⟩ := s.overheated.diesDown_becomeQuiesced
      rw [State.thermalShutdown_entry he, hb]
      rfl
    · by_cases hs : s.stage = .quiescing ∨ s.stage = .quiesced
      · rw [State.thermalShutdown_stopped hs]
        rfl
      · obtain ⟨hq, hd⟩ := not_or.1 hs
        rw [State.thermalShutdown_idle h3 he hq hd]
        rfl

end

/-! ## A run of the loop -/

/-- The module after a run's measures and ceilings, before a shutdown or an evaluation follows. -/
def State.heatRun (s : State) (m : ThermalMeasure) : State :=
  let s1 := s.noteCoolant m
  let s1 := { s1 with budget := { s1.budget with hot := s1.budget.hot && !((List.finRange 4).all (fun d => s1.cooler m d 160)) } }
  (List.finRange 4).foldl (fun (s : State) (d : Fin 4) => s.stepCeiling m d) s1

section
variable {s : State} {m : ThermalMeasure}

/-- A run that finds no loss. -/
theorem State.heatRun_kept (h : s.budget.coolantLoss = false → ¬ s.findsLoss m) :
    ∃ b : Budget, s.heatRun m = { s with budget := b } ∧ b.inlet = m.inlet ∧ b.outlet = m.outlet ∧
      (s.budget.coolantLoss = false → ∀ d : Fin 4, b.dieHeat d = heatStep (s.throttle m d) (s.cooler m d 48) false (s.budget.dieHeat d)) := by
  obtain ⟨dieTemps, outlets, coolRuns, lost, hnote, hlost⟩ := State.noteCoolant_kept h
  unfold State.heatRun
  rw [hnote]
  dsimp only
  obtain ⟨throttled, coldRuns, tceil, hfold, hheat⟩ := State.stepCeilings m (List.nodup_finRange 4) _
  refine ⟨_, hfold, rfl, rfl, fun hno d => (hheat d).trans ?_⟩
  rw [if_pos (List.mem_finRange d)]
  rw [hlost hno]
  rfl

/-- A run that finds the coolant lost. -/
theorem State.heatRun_lost (h : s.budget.coolantLoss = false) (hlost : s.findsLoss m) :
    ∃ b : Budget, (s.heatRun m).control = { s.control with budget := b } ∧ b.inlet = m.inlet ∧ b.outlet = m.outlet ∧ b.coolantLoss = true ∧
      ∀ d : Fin 4, b.tceil[d] = 0 ∧ b.duty[d] = 0 := by
  obtain ⟨dieTemps, outlets, hnote⟩ := State.noteCoolant_lost h hlost
  unfold State.heatRun
  generalize s.noteCoolant m = u at hnote
  obtain ⟨throttled, coldRuns, tceil, hfold, hheat⟩ := State.stepCeilings m (List.nodup_finRange 4)
    { u with budget := { u.budget with hot := u.budget.hot && !((List.finRange 4).all (fun d => u.cooler m d 160)) } }
  have hset : ∀ b, ({ u with budget := b } : State).control = { s.control with budget := b } :=
    fun b => congrArg (fun c : Control => { c with budget := b }) hnote
  have hb : u.budget = { s.budget with
      inlet := m.inlet, outlet := m.outlet, dieTemps := dieTemps, outlets := outlets, coolRuns := 0, coolantLoss := true
      tceil := Vector.replicate 4 0, duty := Vector.replicate 4 0 } := congrArg Control.budget hnote
  dsimp only
  rw [hfold]
  refine ⟨_, hset _, ?_, ?_, ?_, fun d => ⟨?_, ?_⟩⟩
  · dsimp only
    rw [hb]
  · dsimp only
    rw [hb]
  · dsimp only
    rw [hb]
  · have hd := hheat d
    rw [if_pos (List.mem_finRange d)] at hd
    have hzero : u.budget.tceil[d] = 0 := by
      rw [hb]
      exact Vector.getElem_replicate ..
    have hloss : u.budget.coolantLoss = true := by rw [hb]
    refine (congrArg (fun x => x.2.2) hd).trans ?_
    dsimp only [Budget.dieHeat]
    rw [hloss, hzero]
    exact heatStep_lost ..
  · dsimp only
    rw [hb]
    exact Vector.getElem_replicate ..

end

/-! ## A run as a whole -/

/-- A run of the loop stands at a shutdown temperature (R430). -/
def shutsDown (m : ThermalMeasure) : Prop := (∃ x ∈ m.die, (1680 : Int) ≤ x) ∨ 960 ≤ m.outlet

/-- What a run leaves in Crown's power state of the coolant and of each die. -/
def State.heatedTo (s : State) (m : ThermalMeasure) (b : Budget) : Prop :=
  b.inlet = m.inlet ∧ b.outlet = m.outlet ∧
  (s.budget.coolantLoss = false → s.findsLoss m → b.coolantLoss = true ∧ ∀ d : Fin 4, b.tceil[d] = 0 ∧ b.duty[d] = 0) ∧
  (s.budget.coolantLoss = false → ¬ s.findsLoss m → ∀ d : Fin 4, b.dieHeat d = heatStep (s.throttle m d) (s.cooler m d 48) false (s.budget.dieHeat d))

section
variable {s : State} {m : ThermalMeasure}

theorem State.heatedTo_of_heat {b c : Budget} (h : c.heat = b.heat) (hb : s.heatedTo m b) : s.heatedTo m c := by
  simp only [Budget.heat, Prod.mk.injEq] at h
  obtain ⟨hinlet, houtlet, hlost, hduty, hthrottled, hcold, htceil⟩ := h
  unfold State.heatedTo Budget.dieHeat at *
  rwa [hinlet, houtlet, hlost, hduty, hthrottled, hcold, htceil]

/-- A run leaves the stage alone, and of the coolant and the dies what it is to leave. -/
theorem State.heatRun_heated (s : State) (m : ThermalMeasure) : (s.heatRun m).stage = s.stage ∧ s.heatedTo m (s.heatRun m).budget := by
  by_cases hlost : s.budget.coolantLoss = false ∧ s.findsLoss m
  · obtain ⟨hno, hfound⟩ := hlost
    obtain ⟨b, hrun, hinlet, houtlet, hloss, hdies⟩ := State.heatRun_lost hno hfound
    generalize s.heatRun m = u at hrun
    rw [show u.budget = b from congrArg Control.budget hrun]
    exact ⟨congrArg Control.stage hrun, hinlet, houtlet, fun _ _ => ⟨hloss, hdies⟩, fun _ h => absurd hfound h⟩
  · obtain ⟨b, hrun, hinlet, houtlet, hdies⟩ := State.heatRun_kept (s := s) (m := m) fun hno hfound => hlost ⟨hno, hfound⟩
    rw [hrun]
    exact ⟨rfl, hinlet, houtlet, fun hno hfound => absurd ⟨hno, hfound⟩ hlost, fun hno _ => hdies hno⟩

theorem exec_thermalLoop (hrun : s.crown.running = true) : exec (.thermalLoop m) s = .next (
    if m.die.any (fun t => decide (1680 ≤ t)) = true ∨ 960 ≤ m.outlet then (s.heatRun m).thermalShutdown
    else if (s.heatRun m).budget.tceil ≠ s.budget.tceil ∨ (s.heatRun m).cPeak ≠ s.cPeak then (s.heatRun m).evaluate
    else s.heatRun m) := by
  change execThermalLoop m s = _
  unfold execThermalLoop State.heatRun
  rw [hrun, if_neg (by decide)]

theorem shutsDown_iff : m.die.any (fun t => decide (1680 ≤ t)) = true ∨ 960 ≤ m.outlet ↔ shutsDown m := by
  simp [shutsDown]

theorem exec_thermalLoop_stop (hrun : s.crown.running = true) (hstop : shutsDown m) :
    exec (.thermalLoop m) s = .next (s.heatRun m).thermalShutdown :=
  (exec_thermalLoop hrun).trans (congrArg _ (if_pos (shutsDown_iff.2 hstop)))

theorem exec_thermalLoop_go (hrun : s.crown.running = true) (hstop : ¬ shutsDown m) : ∃ t, exec (.thermalLoop m) s = .next t ∧
    t.stage = (s.heatRun m).stage ∧ t.budget.heat = (s.heatRun m).budget.heat := by
  rw [exec_thermalLoop hrun, if_neg (mt shutsDown_iff.1 hstop)]
  generalize s.heatRun m = u
  refine ⟨_, rfl, ?_⟩
  split
  · exact ⟨State.stage_of_steady u.steady_evaluate, u.heat_evaluate⟩
  · exact ⟨rfl, rfl⟩

end

/-- What a thermal stop makes of a module, by its stage (R430, R434, R481). -/
def State.stoppedHot (s t : State) : Prop :=
  (s.stage = .stage3 → t.stage = .quiescing ∧ t.budget.stopped = some .thermal ∧ t.hq.stopped = true) ∧
  (s.stage = .entry → t.stage = .quiesced ∧ t.budget.stopped = some .thermal ∧ ∀ d : Fin 4, t.hwd.dieEn[d] = false) ∧
  (s.stage ∈ [Stage.quiescing, .quiesced] → t.stage = s.stage ∧ t.budget.stopped = some .thermal)

theorem State.stoppedHot_thermalShutdown (s : State) : s.stoppedHot s.thermalShutdown := by
  refine ⟨fun h => ?_, fun h => ?_, fun h => ?_⟩
  · have hstop := State.thermalShutdown_running h
    exact ⟨congrArg Control.stage hstop, congrArg (fun c => c.budget.stopped) hstop, congrArg Control.stopped hstop⟩
  · obtain ⟨hstage, hbudget, hen, -⟩ := s.overheated.diesDown_becomeQuiesced
    rw [State.thermalShutdown_entry h, hbudget, hen]
    exact ⟨hstage, rfl, fun d => Vector.getElem_replicate ..⟩
  · rw [State.thermalShutdown_stopped (by simpa using h)]
    exact ⟨rfl, rfl⟩

/-- One run of the thermal loop. -/
theorem State.thermalLoop_runs {s : State} (m : ThermalMeasure) (hrun : s.crown.running = true) : ∃ t, exec (.thermalLoop m) s = .next t ∧
    s.heatedTo m t.budget ∧ (shutsDown m → s.stoppedHot t) ∧ (¬ shutsDown m → t.stage = s.stage) := by
  obtain ⟨hstage, hheat⟩ := s.heatRun_heated m
  by_cases hstop : shutsDown m
  · have hhot := (s.heatRun m).stoppedHot_thermalShutdown
    unfold State.stoppedHot at hhot ⊢
    rw [hstage] at hhot
    exact ⟨_, exec_thermalLoop_stop hrun hstop, State.heatedTo_of_heat (State.heat_thermalShutdown _) hheat, fun _ => hhot, fun h => absurd hstop h⟩
  · obtain ⟨t, hexec, ht, hb⟩ := exec_thermalLoop_go hrun hstop
    exact ⟨t, hexec, State.heatedTo_of_heat hb hheat, fun h => absurd h hstop, fun _ => ht.trans hstage⟩

end Sys2Proof.Machine
end

section
/-! SUPPORT. The hold's ends and the ordered quiesce (R225, R263, R296, R431–R434, R474, R477, R478). -/

namespace Sys2Proof.Machine

open Sys2Proof

theorem State.port_of_control {s t : State} (h : t.control = s.control) (p : Fin 20) : t.ports[p].state = s.ports[p].state := by
  have hp : (t.ports.map Port.state)[p] = (s.ports.map Port.state)[p] := congrArg (fun c => c.ports[p]) h
  simpa using hp

/-! ## Shares and the end of the hold -/

theorem State.steady_reviewFall (s old : State) : (s.reviewFall old).steady = s.steady :=
  kept_ite s.steady_reviewCaps rfl

/-- A share that comes into force, beside the caps that it calls for. -/
theorem State.putShare_keeps (s : State) (w smooth source : Nat) : let t := s.putShare w smooth source
    t.budget.uncapped = { s.budget.uncapped with
      share := w, source := source, smooth := smooth, shareAt := s.clk.us, fallen := false, waiting := none } ∧
    t.hwd = s.hwd ∧ t.le.phase = s.le.phase := by
  have hfall := State.steady_reviewFall (State.newEnergy (State.setShareValue { s with budget := { s.budget with
    source := source, smooth := smooth, shareAt := s.clk.us, fallen := false, waiting := none } } w)) s
  exact ⟨(State.uncapped_of_steady hfall :), (State.hwd_of_steady hfall :), (congrArg LoopEngine.phase (State.le_of_steady hfall) :)⟩

/-- The module as the hold ends and the engine's recovery phase begins. -/
def State.afterHold (s : State) : State :=
  { s with
    budget := { s.budget with hold := false, heldCaps := none }
    hwd := { s.hwd with holdReq := false }
    le := { s.le with phase := .recovery } }

section
variable {s : State} (hhold : s.budget.hold = true) (h3 : s.stage = .stage3) (hinput : s.hwd.inputClosed = true) (hrun : s.crown.running = true)
include hhold h3 hinput hrun

theorem exec_holdRecovery_share {w smooth source : Nat} (hw : s.budget.waiting = some (w, smooth, source)) :
    exec .holdRecovery s = .next (s.afterHold.putShare w smooth source).evaluate := by
  change execHoldRecovery s = _
  unfold execHoldRecovery
  rw [if_neg (by simp [hhold, h3, hinput, hrun])]
  dsimp only
  rw [State.setPhase, if_neg (by decide)]
  dsimp only
  refine congrArg (fun u : State => Host.Outcome.next u.evaluate) ?_
  split
  · rename_i hsome
    cases hw.symm.trans hsome
    rfl
  · rename_i hnone
    cases hw.symm.trans hnone

theorem exec_holdRecovery_bare (hw : s.budget.waiting = none) : exec .holdRecovery s = .next s.afterHold.evaluate := by
  change execHoldRecovery s = _
  unfold execHoldRecovery
  rw [if_neg (by simp [hhold, h3, hinput, hrun])]
  dsimp only
  rw [State.setPhase, if_neg (by decide)]
  dsimp only
  refine congrArg (fun u : State => Host.Outcome.next u.evaluate) ?_
  split
  · rename_i hsome
    cases hw.symm.trans hsome
  · rfl

end

/-! ## Fetched work that a quiesce forces -/

section
variable (s : State)

theorem State.control_endWork (q : Fin 64) (c : Completion) : (s.endWork q c).control = s.control := by
  have habort : (s.abortLaunch q).control = s.control := by
    unfold State.abortLaunch
    split
    · rfl
    · rfl
  have hstop : ∀ u : State, (u.stopCopy q).control = u.control := fun u => control_ite u.control_cutCopy rfl
  unfold State.endWork
  refine Eq.trans ?_ ((hstop ((s.abortLaunch q).orphans fun o => o.isColl q)).trans ((State.control_orphans ..).trans habort))
  generalize State.stopCopy _ q = u
  rfl

theorem State.control_setQueueState (q : Fin 64) (st : QueueState) : (s.setQueueState q st).control = s.control := by
  have hstatus : ∀ u : State, (u.writeStatus q).control = u.control := by
    intro u
    unfold State.writeStatus
    dsimp only
    split
    · exact control_ite rfl rfl
    · rfl
  unfold State.setQueueState
  exact (State.control_settleWaits _).trans ((hstatus _).trans rfl)

theorem State.control_settleQueue (q : Fin 64) : (s.settleQueue q).control = s.control := by
  unfold State.settleQueue
  refine control_ite ?_ rfl
  split
  · exact s.control_setQueueState q .disabled
  · exact s.control_setQueueState q .disabled
  · rfl

theorem State.control_forceCommand (q : Fin 64) : (s.forceCommand q).control = s.control := by
  have hforce : (s.forceQueue q).control = s.control := by
    unfold State.forceQueue
    exact (State.control_settleQueue ..).trans ((State.control_endWork ..).trans ((State.control_setQueueState ..).trans rfl))
  unfold State.forceCommand
  split
  · rfl
  · rfl
  · exact hforce

/-! ## Leases and ports -/

theorem State.control_releaseLeases : s.releaseLeases.control = s.control := by
  unfold State.releaseLeases
  exact (control_foldl (fun u h => State.control_sendLease u ..) _ _).trans rfl

/-- No lease is left once they are released. -/
theorem State.releaseLeases_holders : ∀ h ∈ s.releaseLeases.fleet.holders, h.id = 0 := by
  have hkept : s.releaseLeases.fleet.holders = s.fleet.holders.map (fun (h : HolderLease) => { h with id := 0 }) := by
    unfold State.releaseLeases
    exact congrArg (fun x : Store × LoopEngine × List HolderLease => x.2.2) (kept_foldl (fun u h => State.standing_sendLease u ..) _ _)
  rw [hkept]
  intro h hh
  obtain ⟨k, -, rfl⟩ := List.mem_map.1 hh
  rfl

end

/-- A port that flushes for the quiesce and has not sent its tombstone. -/
def Port.flushing (x : Port) : Prop := x.state = .flush ∧ x.flush = some { reason := 3, sent := none }

/-- Every ACTIVE port begins to flush with reason 3 (R263, R432). -/
def State.beginFlushes (s : State) (l : List (Fin 20)) : State :=
  l.foldl (fun (s : State) (p : Fin 20) => if s.ports[p].state = .active then s.beginFlush p 3 false else s) s

theorem State.beginFlushes_portsOnly (s : State) (l : List (Fin 20)) : s.portsOnly (s.beginFlushes l) :=
  State.portsOnly_foldl (fun u _ => State.portsOnly_ite (u.portsOnly_setPort ..) u.portsOnly_refl) l s

theorem State.beginFlushes_flushing {l : List (Fin 20)} {s : State} {p : Fin 20}
    (h : p ∈ l ∧ s.ports[p].state = .active ∨ s.ports[p].flushing) : (s.beginFlushes l).ports[p].flushing := by
  induction l generalizing s with
  | nil => exact h.resolve_left (by simp)
  | cons a l ih =>
    refine ih ?_
    dsimp only
    by_cases ha : s.ports[a].state = .active
    · rw [if_pos ha]
      by_cases hpa : p = a
      · subst hpa
        refine Or.inr ?_
        rw [State.beginFlush, if_neg (by decide), State.setPort_at]
        exact ⟨rfl, rfl⟩
      · have hsame : (s.beginFlush a 3 false).ports[p] = s.ports[p] := by
          have hne : a.val ≠ p.val := fun h => hpa (Fin.ext h.symm)
          simp [State.beginFlush, State.setPort, Vector.getElem_set_ne _ _ hne]
        rw [hsame]
        exact h.imp_left fun ⟨hp, hactive⟩ => ⟨(List.mem_cons.1 hp).resolve_left hpa, hactive⟩
    · rw [if_neg ha]
      refine h.imp_left fun ⟨hp, hactive⟩ => ⟨(List.mem_cons.1 hp).resolve_left ?_, hactive⟩
      rintro rfl
      exact ha hactive

/-- Every queue that still holds fetched work is forced (R432). -/
def State.forceAll (s : State) : State :=
  (List.finRange 64).foldl (fun (s : State) (q : Fin 64) => if s.queues[q].inflight.isEmpty then s else s.forceCommand q) s

theorem State.control_forceAll (s : State) : s.forceAll.control = s.control :=
  control_foldl (fun u q => control_ite rfl (u.control_forceCommand q)) _ _

theorem State.endFetched_frame (s : State) : ∃ u log regs, u = s.forceAll.releaseLeases.beginFlushes (List.finRange 20) ∧
    s.endFetched = { u with log := log, regs := regs, budget := { u.budget with quiesce := some .flushing } } := by
  obtain ⟨log, regs, h⟩ := State.flushLog_frame (s.forceAll.releaseLeases.beginFlushes (List.finRange 20)) true
  refine ⟨_, log, regs, rfl, ?_⟩
  unfold State.beginFlushes State.forceAll at h ⊢
  unfold State.endFetched
  dsimp only
  rw [h]

/-- What the end of the fetched work leaves: the stage, no lease, and every ACTIVE port in its flush. -/
theorem State.endFetched_flushes (s : State) : s.endFetched.stage = s.stage ∧ s.endFetched.budget.quiesce = some .flushing ∧
    (∀ h ∈ s.endFetched.fleet.holders, h.id = 0) ∧ ∀ p : Fin 20, s.ports[p].state = .active → s.endFetched.ports[p].flushing := by
  obtain ⟨u, log, regs, hu, hend⟩ := s.endFetched_frame
  rw [hend]
  dsimp only
  have hreleased := s.forceAll.control_releaseLeases.trans s.control_forceAll
  have hholders := s.forceAll.releaseLeases_holders
  generalize s.forceAll.releaseLeases = v at hreleased hholders hu
  have honly := v.beginFlushes_portsOnly (List.finRange 20)
  rw [← hu] at honly
  unfold State.portsOnly at honly
  have hstage : u.stage = v.stage := (congrArg State.stage honly :)
  have hleases : u.fleet.holders = v.fleet.holders := (congrArg (fun w => w.fleet.holders) honly :)
  refine ⟨hstage.trans (State.stage_of_control hreleased), rfl, ?_, fun p hp => ?_⟩
  · rw [hleases]
    exact hholders
  · rw [hu]
    refine State.beginFlushes_flushing (Or.inl ⟨List.mem_finRange p, ?_⟩)
    rw [← hp]
    exact State.port_of_control hreleased p

/-! ## The end of the quiesce -/

theorem State.control_endFlush (s : State) : s.endFlush.control = { s.control with ports := Vector.replicate 20 .disabled } := by
  unfold State.endFlush
  exact (State.control_portsOff _).trans rfl

theorem State.enterAgain_queues (s : State) (q : Fin 64) : s.enterAgain.queues[q].state = .disabled := s.restartCover_queues q

theorem State.disabled_of_control {t : State} (h : t.control.ports = Vector.replicate 20 .disabled) (p : Fin 20) : t.ports[p].state = .disabled := by
  have hp : (t.ports.map Port.state)[p] = (Vector.replicate 20 PortState.disabled)[p] := congrArg (fun v : Vector PortState 20 => v[p]) h
  simpa using hp

/-- The quiesce's power-down goes on to a new entry for a restart, unless a die is off for good. -/
theorem State.restarts_iff (s : State) :
    (s.endFlush.diesDown.start.restarting && !s.endFlush.diesDown.hwd.dieOff.toList.any id) = true ↔
      s.start.restarting = true ∧ ∀ d : Fin 4, s.hwd.dieOff[d] = false := by
  have hflush := s.control_endFlush
  obtain ⟨clk, power, hdown⟩ := s.endFlush.diesDown_control
  generalize s.endFlush.diesDown = u at hdown
  generalize s.endFlush = v at hflush hdown
  have hstart : v.start = s.start := congrArg Control.start hflush
  have hhwd : v.hwd = s.hwd := congrArg Control.hwd hflush
  have hstart' : u.start = v.start := congrArg Control.start hdown
  have hoff : u.hwd.dieOff = v.hwd.dieOff := congrArg (fun c => c.hwd.dieOff) hdown
  rw [hstart', hoff, hstart, hhwd]
  simp [Vector.any_eq_false, Fin.forall_iff]

section
variable {s : State} (hq : s.stage = .quiescing) (hf : s.budget.quiesce = some .flushing)
include hq hf

theorem exec_quiescePowerDown : exec .quiescePowerDown s = .next (
    if (s.endFlush.diesDown.start.restarting && !s.endFlush.diesDown.hwd.dieOff.toList.any id) = true then s.endFlush.diesDown.enterAgain
    else s.endFlush.diesDown.becomeQuiesced) := by
  change execQuiescePowerDown s = _
  unfold execQuiescePowerDown
  rw [if_pos ⟨hq, hf⟩]

theorem exec_quiescePowerDown_restarts (hr : s.start.restarting = true) (hoff : ∀ d : Fin 4, s.hwd.dieOff[d] = false) :
    exec .quiescePowerDown s = .next s.endFlush.diesDown.enterAgain := by
  rw [exec_quiescePowerDown hq hf, if_pos (s.restarts_iff.2 ⟨hr, hoff⟩)]

theorem exec_quiescePowerDown_stops (hno : ¬ (s.start.restarting = true ∧ ∀ d : Fin 4, s.hwd.dieOff[d] = false)) :
    exec .quiescePowerDown s = .next s.endFlush.diesDown.becomeQuiesced := by
  rw [exec_quiescePowerDown hq hf, if_neg (mt s.restarts_iff.1 hno)]

/-- What the quiesce's power-down leaves: dies and ports down, no quiesce and no hold, and the module quiesced or in a new entry. -/
theorem State.quiescePowerDown_ends : ∃ t, exec .quiescePowerDown s = .next t ∧ (∀ d : Fin 4, t.hwd.dieEn[d] = false) ∧
    (∀ p : Fin 20, t.ports[p].state = .disabled) ∧ t.budget.quiesce = none ∧ t.budget.hold = false ∧
    (s.start.restarting = false → t.stage = .quiesced ∧ t.hwd.swA = false ∧ t.hwd.swB = false ∧ t.sap.state ≠ .connected) ∧
    (s.start.restarting = true → (∀ d : Fin 4, s.hwd.dieOff[d] = false) → t.stage = .entry ∧ t.mem.dram = [] ∧
      ∀ q : Fin 64, t.queues[q].state = .disabled) := by
  by_cases hagain : s.start.restarting = true ∧ ∀ d : Fin 4, s.hwd.dieOff[d] = false
  · obtain ⟨hr, hoff⟩ := hagain
    obtain ⟨hstage, hdies, hdram, -, hports⟩ := s.endFlush.enterAgain_diesDown
    refine ⟨_, exec_quiescePowerDown_restarts hq hf hr hoff, fun d => (hdies d).2, hports, rfl, rfl, fun h => ?_, fun _ _ =>
      ⟨hstage, hdram, s.endFlush.diesDown.enterAgain_queues⟩⟩
    cases hr.symm.trans h
  · obtain ⟨hstage, hbudget, hen, hA, hB, hconn, hports⟩ := s.endFlush.diesDown_becomeQuiesced
    refine ⟨_, exec_quiescePowerDown_stops hq hf hagain, fun d => ?_, fun p => ?_, ?_, ?_, fun _ => ⟨hstage, hA, hB, hconn⟩, fun hr hoff =>
      absurd ⟨hr, hoff⟩ hagain⟩
    · rw [hen]
      exact Vector.getElem_replicate ..
    · exact State.disabled_of_control (hports.trans (congrArg Control.ports s.control_endFlush)) p
    · rw [hbudget]
    · rw [hbudget]

end

/-- The recovery of the bus: the hold ends, and a share that waited comes into force. -/
theorem State.holdRecovery_ends {s : State} (hhold : s.budget.hold = true) (h3 : s.stage = .stage3) (hinput : s.hwd.inputClosed = true)
    (hrun : s.crown.running = true) : ∃ t, exec .holdRecovery s = .next t ∧
      t.budget.hold = false ∧ t.hwd.holdReq = false ∧ t.le.phase = .recovery ∧
      (s.budget.waiting = none → t.budget.share = s.budget.share) ∧
      ∀ w k src, s.budget.waiting = some (w, k, src) →
        t.budget.share = w ∧ t.budget.smooth = k ∧ t.budget.source = src ∧ t.budget.waiting = none := by
  cases hw : s.budget.waiting with
  | none =>
    have heval := s.afterHold.steady_evaluate
    have hb := State.uncapped_of_steady heval
    refine ⟨_, exec_holdRecovery_bare hhold h3 hinput hrun hw, (congrArg Budget.hold hb :), ?_, ?_,
      fun _ => (congrArg Budget.share hb :), fun _ _ _ h => ?_⟩
    · rw [State.hwd_of_steady heval]
      rfl
    · rw [State.le_of_steady heval]
      rfl
    · cases h
  | some x =>
    obtain ⟨w, k, src⟩ := x
    obtain ⟨hput, hhwd, hphase⟩ := s.afterHold.putShare_keeps w k src
    have heval := (s.afterHold.putShare w k src).steady_evaluate
    have hexec := exec_holdRecovery_share hhold h3 hinput hrun hw
    generalize s.afterHold.putShare w k src = u at hput hhwd hphase heval hexec
    have hb := (State.uncapped_of_steady heval).trans hput
    refine ⟨_, hexec, (congrArg Budget.hold hb :), ?_, ?_, fun h => ?_, fun w' k' src' h => ?_⟩
    · rw [State.hwd_of_steady heval, hhwd]
      rfl
    · rw [State.le_of_steady heval, hphase]
      rfl
    · cases h
    · cases h
      exact ⟨(congrArg Budget.share hb :), (congrArg Budget.smooth hb :), (congrArg Budget.source hb :), (congrArg Budget.waiting hb :)⟩

end Sys2Proof.Machine
end

section
/-! The obligation about the thermal loop, the hold and the quiesce (R127, R408, R425, R428–R434, R474, R478). -/

namespace Sys2Proof.Machine

open Sys2Proof

/-- A stack that has stayed in the stop band stops the module. -/
theorem State.stopBandTimeout_stops {s : State} {st : Fin 20} (hband : s.mem.band[st] = 4) (hrun : s.crown.running = true) (h3 : s.stage = .stage3) :
    ∃ t, exec (.stopBandTimeout st) s = .next t ∧ t.stage = .quiescing ∧ t.budget.stopped = some .thermal ∧ t.budget.hot = true := by
  have hstop := State.thermalShutdown_running h3
  exact ⟨_, congrArg Host.Outcome.next (if_pos ⟨hband, hrun⟩), congrArg Control.stage hstop, congrArg (fun c => c.budget.stopped) hstop,
    congrArg (fun c => c.budget.hot) hstop⟩

/-- The quiesce that ends a hold. -/
theorem State.holdEnd_quiesces {s : State} (hhold : s.budget.hold = true) (h3 : s.stage = .stage3) : ∃ t, exec .holdEnd s = .next t ∧
    t.stage = .quiescing ∧ t.budget.quiesce = some .draining ∧ t.budget.stopped = some .busLoss ∧ t.hq.stopped = true := by
  have hquiesce := State.control_beginQuiesce h3 .busLoss
  exact ⟨_, congrArg Host.Outcome.next (if_pos hhold), congrArg Control.stage hquiesce, congrArg (fun c => c.budget.quiesce) hquiesce,
    congrArg (fun c => c.budget.stopped) hquiesce, congrArg Control.stopped hquiesce⟩

/-- What a run leaves of a die while the coolant is there, by its throttle entries (R428). -/
theorem State.ceiling_of_heatedTo {s : State} {m : ThermalMeasure} {b : Budget} {d : Fin 4}
    (h : b.dieHeat d = heatStep (s.throttle m d) (s.cooler m d 48) false (s.budget.dieHeat d)) :
    (s.throttle m d = true → b.throttled[d] = true ∧ b.tceil[d].val = s.budget.tceil[d].val - 1) ∧
    (s.throttle m d = false → s.cooler m d 48 = false → b.throttled[d] = false ∧ b.tceil[d] = s.budget.tceil[d] ∧ b.coldRuns[d] = 0) ∧
    (s.throttle m d = false → s.cooler m d 48 = true →
      (s.budget.coldRuns[d] < 10 → b.tceil[d] = s.budget.tceil[d] ∧ b.coldRuns[d] = s.budget.coldRuns[d] + 1) ∧
      (10 ≤ s.budget.coldRuns[d] → b.tceil[d].val = min 7 (s.budget.tceil[d].val + 1))) := by
  refine ⟨fun ht => ?_, fun ht hc => ?_, fun ht hc => ⟨fun hn => ?_, fun hn => ?_⟩⟩
  · rw [ht] at h
    obtain ⟨hthrottled, hceil⟩ := heatStep_throttle (s.cooler m d 48) false (s.budget.dieHeat d)
    rw [← h] at hthrottled hceil
    exact ⟨hthrottled, hceil⟩
  · rw [ht, hc, heatStep_warm] at h
    exact ⟨congrArg Prod.fst h, congrArg (fun x => x.2.2) h, congrArg (fun x => x.2.1) h⟩
  · rw [ht, hc, heatStep_cool hn] at h
    exact ⟨congrArg (fun x => x.2.2) h, congrArg (fun x => x.2.1) h⟩
  · have hrisen := heatStep_risen (x := s.budget.dieHeat d) hn
    rw [ht, hc] at h
    rw [← h] at hrisen
    exact hrisen

/-- Settles O40: a run of the loop is each die's own step of its ceiling, which an evaluation and a shutdown leave alone; signals and messages leave the
control and the leases alone, so the ends of the hold and of the quiesce are read off the state. -/
theorem thermalLoopHoldAndQuiesce : Obligations.ThermalLoopHoldAndQuiesce := by
  intro s
  refine ⟨?_, fun st => ⟨State.stopBandTimeout_stops, ?_⟩, State.holdEnd_quiesces, ?_, State.holdRecovery_ends, ?_, ?_, State.quiescePowerDown_ends⟩
  · intro m hrun lost stop
    obtain ⟨t, hexec, ⟨hinlet, houtlet, hfound, hdies⟩, hhot, hgo⟩ := State.thermalLoop_runs m hrun
    exact ⟨t, hexec, hinlet, houtlet, hfound, fun hno hl d => State.ceiling_of_heatedTo (hdies hno hl d), fun hs => (hhot hs).1,
      fun hs => (hhot hs).2.1, fun hs => (hhot hs).2.2, hgo⟩
  · intro hband
    exact ⟨s, congrArg Host.Outcome.next (if_neg fun h => hband h.1), rfl⟩
  · intro hhold
    exact ⟨s, congrArg Host.Outcome.next (if_neg (by rw [hhold]; decide)), rfl⟩
  · intro hphase h3
    exact ⟨s.setPhase .service, congrArg Host.Outcome.next (if_pos ⟨hphase, h3⟩), rfl, rfl, rfl⟩
  · intro hq hd
    obtain ⟨hstage, hquiesce, hleases, hports⟩ := s.endFetched_flushes
    exact ⟨s.endFetched, congrArg Host.Outcome.next (if_pos ⟨hq, hd⟩), hstage.trans hq, hquiesce, hleases, hports⟩

end Sys2Proof.Machine
end

section
/-! SUPPORT. Queues that are set, the status word, errors of a queue, and what the queue engine fetches (R187, R198, R199, R201, R222, R229, R231). -/

namespace Sys2Proof.Machine

open Sys2Proof

/-! ## A queue that is set -/

section
variable (s : State) (q : Fin 64) (x y : Queue)

@[simp] theorem State.setQueue_at : (s.setQueue q x).queues[q] = x := by
  simp [State.setQueue]

theorem State.setQueue_setQueue : (s.setQueue q x).setQueue q y = s.setQueue q y := by
  simp [State.setQueue]

end

/-! ## Registers of a queue, which both functions see (R572) -/

theorem perFunction_between {o : Nat} (hlo : 0x18 ≤ o) (hhi : o < 0x90010) : perFunction o = false := by
  refine Bool.eq_false_iff.2 fun h => ?_
  simp only [perFunction, Bool.or_eq_true, Bool.and_eq_true, beq_iff_eq, decide_eq_true_eq] at h
  omega

theorem regKey_qReg (fn : Fn) (q : Fin 64) {o : Nat} (ho : o < 0x40) : regKey fn (qReg q + o) = qReg q + o := by
  have hshared : perFunction (qReg q + o) = false := perFunction_between (by unfold qReg; omega) (by unfold qReg; omega)
  rw [regKey, hshared]
  rfl

theorem State.reg_qReg (s : State) (fn : Fn) (q : Fin 64) {o : Nat} (ho : o < 0x40) : s.reg fn (qReg q + o) = s.reg .A (qReg q + o) := by
  rw [State.reg, State.reg, regKey_qReg fn q ho, regKey_qReg .A q ho]

/-! ## Status words and signals -/

/-- The write of a queue's status word to a function (R198). -/
def State.statusOutput (s : State) (fn : Fn) (q : Fin 64) : Output := .hostWrite fn (s.statusAddr q) (natLe 8 s.queues[q].statusWord) false

theorem State.writeStatus_owned {s : State} {q : Fin 64} {fn : Fn} (howner : s.queues[q].owner = some fn) :
    s.writeStatus q = { s with out := s.out ++ if s.canMaster fn then [s.statusOutput fn q] else [] } := by
  unfold State.writeStatus
  dsimp only
  rw [howner]
  dsimp only
  rw [State.reg_qReg s fn q (by decide)]
  by_cases hm : s.canMaster fn = true
  · rw [if_pos hm, if_pos hm]
    rfl
  · rw [if_neg hm, if_neg hm, List.append_nil]

theorem State.setQueue_writeStatus (s : State) (q : Fin 64) {y : Queue} {fn : Fn} (howner : y.owner = some fn) :
    (s.setQueue q y).writeStatus q = { s with
      queues := s.queues.set q y
      out := s.out ++ if s.canMaster fn then [.hostWrite fn (s.statusAddr q) (natLe 8 y.statusWord) false] else [] } := by
  rw [State.writeStatus_owned (fn := fn) (by rw [State.setQueue_at]; exact howner), State.statusOutput, State.setQueue_at]
  rfl

theorem State.writeStatus_frame (s : State) (q : Fin 64) : ∃ l, s.writeStatus q = { s with out := s.out ++ l } := by
  cases howner : s.queues[q].owner with
  | none =>
    refine ⟨[], ?_⟩
    unfold State.writeStatus
    dsimp only
    rw [howner, List.append_nil]
  | some fn => exact ⟨_, State.writeStatus_owned howner⟩

/-- A signal changes pending bits and the output alone (R231). -/
theorem State.signal_frame (s : State) (fn : Fn) (vec : Nat) : ∃ h l, s.signal fn vec = { s with host := h, out := s.out ++ l } := by
  unfold State.signal
  dsimp only
  split
  · exact ⟨_, [], by rw [List.append_nil]⟩
  · split
    · exact ⟨s.host, _, rfl⟩
    · exact ⟨s.host, [], by rw [List.append_nil]⟩

theorem State.signal_unmasked {s : State} {fn : Fn} {vec : Nat} (hm : s.canMaster fn = true) (htable : s.host[fnIdx fn].tableMask = false)
    (hmask : s.host[fnIdx fn].msixMask.getLsbD vec = false) : s.signal fn vec = s.emit (.msix fn vec) := by
  unfold State.signal
  dsimp only
  rw [htable, hmask]
  exact (if_neg (by decide)).trans (if_pos hm)

/-! ## WAITs looked at again (R215) -/

/-- What a look at a WAIT leaves of a queue: all but how far its oldest descriptor has come. -/
theorem Queue.settleWait_frame (qs : Vector Queue 64) (x : Queue) :
    ∃ l, x.settleWait qs = { x with inflight := l } ∧ l.map (fun d => (d.index, d.desc)) = x.inflight.map (fun d => (d.index, d.desc)) := by
  unfold Queue.settleWait
  split
  · rename_i d rest hx
    split
    · split
      · exact ⟨_, rfl, by rw [hx]; rfl⟩
      · exact ⟨_, rfl, rfl⟩
    · exact ⟨_, rfl, rfl⟩
  · exact ⟨_, rfl, rfl⟩

theorem State.settleWaits_at (s : State) (q : Fin 64) : s.settleWaits.queues[q] = s.queues[q].settleWait s.queues := by
  simp [State.settleWaits]

/-! ## Changes of a queue's state (R198, R222, R229) -/

/-- The new state's status word is written before WAITs are looked at. -/
theorem State.setQueueState_owned {s : State} {q : Fin 64} {fn : Fn} (st : QueueState) (howner : s.queues[q].owner = some fn) :
    s.setQueueState q st = ({ s.setQueue q { s.queues[q] with state := st, statusOwed := false } with
      out := s.out ++ if s.canMaster fn then
        [.hostWrite fn (s.statusAddr q) (natLe 8 (queueCode st * 2 ^ 32 + s.queues[q].fetched.toNat)) false] else [] } : State).settleWaits :=
  congrArg State.settleWaits (s.setQueue_writeStatus q (y := { s.queues[q] with state := st, statusOwed := false }) howner)

theorem State.setQueueState_frame (s : State) (q : Fin 64) (st : QueueState) : ∃ l queues, s.setQueueState q st =
    { s with out := s.out ++ l, queues := queues } := by
  obtain ⟨l, h⟩ := State.writeStatus_frame (s.setQueue q { s.queues[q] with state := st, statusOwed := false }) q
  exact ⟨l, _, congrArg State.settleWaits h⟩

theorem State.setQueueState_at (s : State) (q : Fin 64) (st : QueueState) : ∃ l,
    (s.setQueueState q st).queues[q] = { s.queues[q] with state := st, statusOwed := false, inflight := l } ∧
    l.map (fun d => (d.index, d.desc)) = s.queues[q].inflight.map (fun d => (d.index, d.desc)) := by
  obtain ⟨o, h⟩ := State.writeStatus_frame (s.setQueue q { s.queues[q] with state := st, statusOwed := false }) q
  obtain ⟨l, hl, hkept⟩ := Queue.settleWait_frame (s.setQueue q { s.queues[q] with state := st, statusOwed := false }).queues
    { s.queues[q] with state := st, statusOwed := false }
  refine ⟨l, ?_, hkept⟩
  rw [State.setQueueState, h, State.settleWaits_at]
  exact (congrArg (Queue.settleWait _) (State.setQueue_at ..)).trans hl

/-- A queue that enters ERROR (R229). -/
theorem State.queueErrs_queueError (s : State) (q : Fin 64) (cause : BitVec 4) : s.queueErrs (s.queueError q cause) q cause := by
  obtain ⟨v, hv⟩ : ∃ v, v = s.setQueue q { s.queues[q] with cause := cause, polling := 0, reading := 0 } := ⟨_, rfl⟩
  have hvq : v.queues[q] = { s.queues[q] with cause := cause, polling := 0, reading := 0 } := by rw [hv, State.setQueue_at]
  obtain ⟨w, hw⟩ : ∃ w, w = v.setQueueState q .error := ⟨_, rfl⟩
  obtain ⟨l, hwq, -⟩ := v.setQueueState_at q .error
  rw [← hw, hvq] at hwq
  have howner : w.queues[q].owner = s.queues[q].owner := by rw [hwq]
  have herror : s.queueError q cause = match s.queues[q].owner with
      | some fn => w.signal fn 64
      | none => w := by
    rw [← howner, hw, hv]
    rfl
  rw [herror]
  refine ⟨?_, fun fn hfn hm htable hmask => ?_⟩
  · have hqueues : (match s.queues[q].owner with
        | some fn => w.signal fn 64
        | none => w).queues = w.queues := by
      split
      · obtain ⟨_, _, hsignal⟩ := w.signal_frame _ 64
        rw [hsignal]
      · rfl
    rw [hqueues, hwq]
  · have hstatus := State.setQueueState_owned (s := v) (q := q) .error (by rw [hvq]; exact hfn)
    rw [← hw, hvq, hv] at hstatus
    have hhost : w.host = s.host := by rw [hstatus]; rfl
    have hmaster : w.canMaster fn = true := by rw [State.canMaster, hhost]; exact hm
    rw [hfn]
    dsimp only
    rw [State.signal_unmasked hmaster (by rw [hhost]; exact htable) (by rw [hhost]; exact hmask), State.emit_out, hstatus]
    change (s.out ++ if s.canMaster fn then _ else _) ++ _ = _
    rw [if_pos hm, List.append_assoc]
    rfl

/-- A queue whose outstanding reads alone have been given up enters ERROR as it would have with them. -/
theorem State.queueErrs_of_setQueue {s t : State} {q : Fin 64} {y : Queue} {cause : BitVec 4}
    (hy : { y with polling := s.queues[q].polling, reading := s.queues[q].reading } = s.queues[q])
    (h : (s.setQueue q y).queueErrs t q cause) : s.queueErrs t q cause := by
  unfold State.queueErrs at h ⊢
  rw [State.setQueue_at] at h
  rw [← hy]
  exact h

/-- A read that fails takes an ENABLED or DRAINING queue to ERROR (R222, R229). -/
theorem State.readFails_errs {s : State} {q : Fin 64} {y : Queue}
    (hy : { y with polling := s.queues[q].polling, reading := s.queues[q].reading } = s.queues[q])
    (hrun : s.queues[q].state = .enabled ∨ s.queues[q].state = .draining) : s.queueErrs ((s.setQueue q y).readFails q) q 1 := by
  have hstate : (s.setQueue q y).queues[q].state = s.queues[q].state := by
    rw [State.setQueue_at, ← hy]
  have hfails : (s.setQueue q y).readFails q = (s.setQueue q y).queueError q 1 := by
    obtain h | h := hrun
    · rw [State.readFails, hstate, h]
    · rw [State.readFails, hstate, h]
  rw [hfails]
  exact State.queueErrs_of_setQueue hy (State.queueErrs_queueError ..)

/-! ## Fetching (R187, R199, R201, R230) -/

theorem State.fetchable_eq_nextFetch (s : State) (q : Fin 64) : s.fetchable q = s.nextFetch q := by
  have hstops : (s.queues[q].state ≠ .enabled ∨ s.queues[q].reading ≠ 0 ∨ s.hq.maint = true ∨ s.hq.stopped = true ∨ s.fleet.fenced = true) ↔
      ¬(s.queues[q].state = .enabled ∧ s.queues[q].reading = 0 ∧ s.hq.maint = false ∧ s.hq.stopped = false ∧ s.fleet.fenced = false) := by
    simp only [not_and_or, Bool.not_eq_false, ne_eq]
  exact (if_congr hstops rfl rfl).trans (ite_not ..)

theorem State.tryFetch_unowned {s : State} {q : Fin 64} (h : s.queues[q].owner = none) : s.tryFetch q = s := by
  unfold State.tryFetch
  rw [h]

theorem State.fetches_tryFetch (s : State) (q : Fin 64) : s.fetches (s.tryFetch q) q := by
  intro fn hfn
  unfold State.tryFetch
  rw [hfn, State.fetchable_eq_nextFetch]
  exact if_congr (by rw [Bool.not_eq_true']) rfl rfl

theorem State.fetchesOver_foldl (l : List (Fin 64)) (s : State) : s.fetchesOver (l.foldl State.tryFetch s) l := by
  induction l generalizing s with
  | nil => rfl
  | cons q l ih => exact ⟨s.tryFetch q, s.fetches_tryFetch q, State.tryFetch_unowned, ih _⟩

theorem State.fetchesOver_fetchAll (s : State) : s.fetchesOver s.fetchAll s.fetchOrder := State.fetchesOver_foldl ..

end Sys2Proof.Machine
end

section
/-! The obligation about polls and fetches of the work queues (R196–R199, R202, R203, R205, R229). -/

namespace Sys2Proof.Machine

open Sys2Proof

/-! ## Polls (R198, R202) -/

section
variable {s : State} {q : Fin 64} {fn : Fn} (howner : s.queues[q].owner = some fn)
include howner

theorem exec_doorbellPoll_sent (hstate : s.queues[q].state = .enabled) (hm : s.canMaster fn = true) (htags : s.tagsUsed fn < 512) :
    exec (.doorbellPoll q) s = .next { s with
      queues := s.queues.set q { s.queues[q] with
        polling := s.queues[q].polling + 1, statusMade := s.queues[q].statusOwed || s.queues[q].statusFirst
        statusOwed := s.queues[q].statusOwed && s.queues[q].statusFirst, statusFirst := false, wakeDue := false }
      out := s.out ++ (if s.queues[q].statusOwed && !s.queues[q].statusFirst then [s.statusOutput fn q] else []) ++
        [.hostRead fn (s.dbAddr q) 8] } := by
  refine congrArg Host.Outcome.next ?_
  dsimp only
  split
  · rename_i gn hgn
    obtain rfl := Option.some.inj (howner.symm.trans hgn)
    rw [if_pos ⟨hstate, hm, htags⟩]
    by_cases hdue : (s.queues[q].statusOwed && !s.queues[q].statusFirst) = true
    · rw [if_pos hdue, if_pos (Bool.and_eq_true_iff.1 hdue), State.setQueue_writeStatus (fn := fn), if_pos hm]
      · rfl
      · exact howner
    · rw [if_neg hdue, if_neg (mt Bool.and_eq_true_iff.2 hdue), List.append_nil]
      rfl
  · rename_i hnone
    exact absurd (howner.symm.trans hnone) (by simp)

theorem exec_statusWordWrite_owed (howed : s.queues[q].statusOwed = true) (hfirst : s.queues[q].statusFirst = false)
    (hm : s.canMaster fn = true) : exec (.statusWordWrite q) s = .next { s with
      queues := s.queues.set q { s.queues[q] with statusOwed := false, statusMade := true, statusFirst := true }
      out := s.out ++ [s.statusOutput fn q] } := by
  refine congrArg Host.Outcome.next ((if_pos ⟨howed, by rw [hfirst]; rfl⟩).trans ?_)
  rw [State.setQueue_writeStatus (fn := fn), if_pos hm]
  · rfl
  · exact howner

end

/-! ## Doorbell words (R197, R203, R229) -/

section
variable {s : State} {q : Fin 64} (hpolling : s.queues[q].polling ≠ 0)
include hpolling

theorem exec_doorbellReadComplete_failed : exec (.doorbellReadComplete q none) s =
    .next ((s.setQueue q { s.queues[q] with polling := s.queues[q].polling - 1 }).readFails q) :=
  congrArg Host.Outcome.next (if_neg hpolling)

/-- The doorbell word of an ENABLED queue, `u` being the state that has noted it. -/
theorem exec_doorbellReadComplete_word (hstate : s.queues[q].state = .enabled) (w : BitVec 64) {u : State}
    (hu : u = s.setQueue q { s.queues[q] with
      polling := s.queues[q].polling - 1, sqTail := w.extractLsb' 0 32, cqHead := w.extractLsb' 32 32 }) :
    exec (.doorbellReadComplete q (some w)) s =
      .next (if s.sqSize q < (w.extractLsb' 0 32 - s.queues[q].done).toNat then u.queueError q 2 else u.fetchAll) := by
  have hu' : u = (s.setQueue q { s.queues[q] with polling := s.queues[q].polling - 1 }).setQueue q {
      (s.setQueue q { s.queues[q] with polling := s.queues[q].polling - 1 }).queues[q] with sqTail := w.setWidth 32, cqHead := w.extractLsb 63 32 } := by
    rw [State.setQueue_setQueue, State.setQueue_at, hu, BitVec.setWidth_eq_extractLsb' (by decide)]
    rfl
  refine congrArg Host.Outcome.next ((if_neg hpolling).trans ((if_neg (not_not_intro hstate)).trans ?_))
  rw [hu', BitVec.setWidth_eq_extractLsb' (by decide)]
  rfl

theorem exec_doorbellReadComplete_discarded (hstate : s.queues[q].state ≠ .enabled) (w : Option (BitVec 64))
    (hread : w.isSome = true ∨ s.queues[q].state ≠ .draining) : exec (.doorbellReadComplete q w) s =
      .next (s.setQueue q { s.queues[q] with polling := s.queues[q].polling - 1 }) := by
  cases w with
  | some w => exact congrArg Host.Outcome.next ((if_neg hpolling).trans (if_pos hstate))
  | none =>
    rw [exec_doorbellReadComplete_failed hpolling, State.readFails, State.setQueue_at]
    dsimp only
    split
    · exact absurd ‹_› hstate
    · exact absurd ‹_› (hread.resolve_left (by decide))
    · rfl

end

/-! ## Descriptors (R198, R199, R229) -/

theorem exec_descriptorReadComplete_failed {s : State} {q : Fin 64} (hreading : 0 < s.queues[q].reading) (ds : Option (List (BitVec 512))) (e : SramErr)
    (hfail : ds = none ∨ (∃ l, ds = some l ∧ l.length < s.queues[q].reading) ∨ e.kind = .uncorrectable ∨ e.kind = .persistent) :
    exec (.descriptorReadComplete q ds e) s = .next (((s.sramError 5 0 e).setQueue q { (s.sramError 5 0 e).queues[q] with reading := 0 }).readFails q) := by
  refine congrArg Host.Outcome.next ((if_neg (Nat.ne_of_gt hreading)).trans ?_)
  cases ds with
  | none => rfl
  | some l =>
    refine if_pos (hfail.resolve_left (by simp) |>.symm.imp ?_ ?_)
    · exact decide_eq_true
    · rintro ⟨k, hk, hlt⟩
      cases hk
      exact hlt

theorem State.sramError_queues (s : State) (row inst : Nat) (e : SramErr) : (s.sramError row inst e).queues = s.queues := by
  unfold State.sramError
  dsimp only
  split
  · rfl
  · exact State.record_queues ..
  · exact State.record_queues ..

theorem State.sramError_none (s : State) (row inst : Nat) {e : SramErr} (h : e.kind = .none) : s.sramError row inst e = s := by
  rw [State.sramError, h]

/-- The descriptors that a read brings, numbered in their order. -/
theorem map_zip_range {α β : Type} (f : Nat → α → β) {n : Nat} {l : List α} (h : n ≤ l.length) :
    (List.zip (List.range n) l).map (fun e => f e.1 e.2) = (l.take n).mapIdx f := by
  refine List.ext_getElem (by simp [h]) fun i h1 h2 => ?_
  simp

/-- The status word after a fetch goes at once, or is owed where the poll interval has had one (R198). -/
theorem State.setQueue_statusAfterFetch (s : State) (q : Fin 64) {y : Queue} {fn : Fn} (howner : y.owner = some fn) :
    (s.setQueue q y).statusAfterFetch q = { s with
      queues := s.queues.set q { y with statusMade := true, statusOwed := y.statusMade || y.statusOwed }
      out := s.out ++ if y.statusMade || !s.canMaster fn then []
        else [.hostWrite fn (s.statusAddr q) (natLe 8 y.statusWord) false] } := by
  rw [State.statusAfterFetch, State.setQueue_at, State.setQueue_setQueue, State.setQueue_setQueue]
  cases hmade : y.statusMade with
  | true =>
    rw [if_pos rfl, if_pos (Bool.true_or _), List.append_nil, Bool.true_or]
    rfl
  | false =>
    rw [if_neg Bool.false_ne_true, State.setQueue_writeStatus (fn := fn), Bool.false_or, Bool.false_or]
    · cases s.canMaster fn <;> rfl
    · exact howner

/-- A read that brings the descriptors asked for, `y` being the queue that they have joined. -/
theorem exec_descriptorReadComplete_fetched {s : State} {q : Fin 64} (hreading : 0 < s.queues[q].reading) {ds : List (BitVec 512)}
    (hlen : s.queues[q].reading ≤ ds.length) (hstate : s.queues[q].state = .enabled) {e : SramErr} (hkind : e.kind = .none)
    {y : Queue} (hy : y = { s.queues[q] with
      reading := 0, fetched := s.queues[q].fetched + BitVec.ofNat 32 s.queues[q].reading
      inflight := s.queues[q].inflight ++ (ds.take s.queues[q].reading).mapIdx (fun i d =>
        ({ index := s.queues[q].fetched + BitVec.ofNat 32 i, desc := d, phase := .fetched } : InFlight)) }) :
    exec (.descriptorReadComplete q (some ds) e) s = .next ((s.setQueue q y).statusAfterFetch q).fetchAll := by
  have hgood : ¬(fatalSram e = true ∨ ds.length < s.queues[q].reading) := by
    rw [fatalSram, hkind]
    simpa using hlen
  refine congrArg Host.Outcome.next ((if_neg (Nat.ne_of_gt hreading)).trans ((if_neg hgood).trans ((if_neg (not_not_intro hstate)).trans ?_)))
  rw [State.sramError_none s 5 0 hkind, State.setQueue_at]
  dsimp only
  rw [State.setQueue_setQueue, map_zip_range (fun i d =>
    ({ index := s.queues[q].fetched + BitVec.ofNat 32 i, desc := d, phase := .fetched } : InFlight)) hlen, hy]

/-! ## HQ_WAKE (R205) -/

theorem exec_hqWake_opened {s : State} {fn : Fn} (hopen : s.opens fn = true) {v : BitVec 32} {q : Fin 64} (hv : v.toNat % 64 = q.val) :
    exec (.hqWake fn v) s = .next (
      let u := s.setReg fn hqWakeReg (BitVec.ofNat 64 q.val)
      if s.queues[q].owner ≠ some fn then u.setStatus fn hqStatus 1
      else if s.queues[q].state = .enabled then u.setQueue q { s.queues[q] with wakeDue := true }
      else u) := by
  obtain ⟨n, hn⟩ := q
  obtain rfl : v.toNat % 64 = n := hv
  exact congrArg Host.Outcome.next ((if_pos hopen).trans (dif_pos hn))

/-- Settles O18, each read that returns by what its queue notes of it, and every fetch by `fetchesOver`. -/
theorem queuePollsAndFetches : Obligations.QueuePollsAndFetches := by
  intro s q fn howner x status
  refine ⟨fun hstate hm htags => ⟨_, exec_doorbellPoll_sent howner hstate hm htags, rfl⟩,
    fun hpolling hrun => ⟨_, exec_doorbellReadComplete_failed hpolling, State.readFails_errs rfl hrun⟩,
    fun w hpolling hstate => ⟨_, exec_doorbellReadComplete_word hpolling hstate w rfl, fun hover => ?_, fun hfits => ?_⟩,
    fun w hpolling hstate hread => ⟨_, exec_doorbellReadComplete_discarded hpolling hstate w hread, rfl⟩,
    fun ds e hkind hreading hlen hstate => ⟨_, exec_descriptorReadComplete_fetched hreading hlen hstate hkind rfl, ?_⟩,
    fun ds e hreading hrun hfail => ⟨_, exec_descriptorReadComplete_failed hreading ds e hfail, ?_⟩,
    fun howed hfirst hm => ⟨_, exec_statusWordWrite_owed howner howed hfirst hm, rfl⟩,
    fun g v hopen hv => ⟨fun hg hstate => ⟨_, exec_hqWake_opened hopen hv, ?_⟩, fun hg => ⟨_, exec_hqWake_opened hopen hv, ?_⟩⟩⟩
  · rw [if_pos hover]
    exact State.queueErrs_queueError ..
  · rw [if_neg (Nat.not_lt.2 hfits)]
    exact State.fetchesOver_fetchAll ..
  · rw [State.setQueue_statusAfterFetch (fn := fn)]
    · exact State.fetchesOver_fetchAll _
    · exact howner
  · have hqueues := s.sramError_queues 5 0 e
    refine State.readFails_errs rfl ?_
    rw [hqueues]
    exact hrun
  · subst hg
    exact (if_neg (not_not_intro howner)).trans (if_pos hstate)
  · exact if_pos fun h => hg (Option.some.inj (h.symm.trans howner))

end Sys2Proof.Machine
end

section
/-! The obligation about completion records, the maintenance pause, and host reads without a completion (R199, R200, R219–R222, R229, R230). -/

namespace Sys2Proof.Machine

open Sys2Proof

/-! ## What fetching changes -/

/-- `t` is `s` but for turns of fetching, descriptors asked for, and more output. -/
def State.asksOnly (s t : State) : Prop :=
  { t with hq := { t.hq with lastFetch := s.hq.lastFetch }, queues := s.queues, out := s.out } = s ∧
  (∀ p : Fin 64, { t.queues[p] with reading := s.queues[p].reading } = s.queues[p]) ∧ s.out <+: t.out

theorem State.asksOnly_refl (s : State) : s.asksOnly s := ⟨rfl, fun _ => rfl, ⟨[], List.append_nil _⟩⟩

theorem State.asksOnly_trans {s t u : State} (h : s.asksOnly t) (k : t.asksOnly u) : s.asksOnly u := by
  obtain ⟨hrest, hqueues, hout⟩ := h
  obtain ⟨krest, kqueues, kout⟩ := k
  refine ⟨?_, fun p => ?_, hout.trans kout⟩
  · rw [← hrest, ← krest]
  · rw [← hqueues p, ← kqueues p]

theorem State.tryFetch_asksOnly (s : State) (q : Fin 64) : s.asksOnly (s.tryFetch q) := by
  cases howner : s.queues[q].owner with
  | none =>
    rw [State.tryFetch_unowned howner]
    exact s.asksOnly_refl
  | some fn =>
    rw [s.fetches_tryFetch q fn howner]
    split
    · exact s.asksOnly_refl
    · refine ⟨rfl, fun p => ?_, ⟨_, rfl⟩⟩
      by_cases hp : q.val = p.val
      · obtain rfl := Fin.ext hp
        simp
      · simp [Vector.getElem_set_ne _ _ hp]

theorem State.fetchAll_asksOnly (s : State) : s.asksOnly s.fetchAll :=
  List.foldlRecOn s.fetchOrder State.tryFetch (motive := fun t => s.asksOnly t) s.asksOnly_refl fun t ht q _ =>
    State.asksOnly_trans ht (t.tryFetch_asksOnly q)

/-! ## Completion records (R219–R222) -/

/-- What the last record of a queue does to its state: DRAINING and ABORTING end (R222). -/
theorem State.settleQueue_at (s : State) (q : Fin 64) :
    (s.settleQueue q).queues[q].done = s.queues[q].done ∧
    (s.settleQueue q).queues[q].inflight.map (fun d => (d.index, d.desc)) = s.queues[q].inflight.map (fun d => (d.index, d.desc)) ∧
    (s.settleQueue q).queues[q].state = (if s.queues[q].inflight = [] ∧ (s.queues[q].state = .draining ∨ s.queues[q].state = .aborting)
      then .disabled else s.queues[q].state) ∧
    s.out <+: (s.settleQueue q).out := by
  have hdisabled : (s.setQueueState q .disabled).queues[q].done = s.queues[q].done ∧
      (s.setQueueState q .disabled).queues[q].inflight.map (fun d => (d.index, d.desc)) = s.queues[q].inflight.map (fun d => (d.index, d.desc)) ∧
      (s.setQueueState q .disabled).queues[q].state = .disabled ∧ s.out <+: (s.setQueueState q .disabled).out := by
    obtain ⟨l, hat, hl⟩ := s.setQueueState_at q .disabled
    obtain ⟨o, queues, hframe⟩ := s.setQueueState_frame q .disabled
    rw [hat]
    refine ⟨rfl, hl, rfl, ?_⟩
    rw [hframe]
    exact ⟨_, rfl⟩
  unfold State.settleQueue
  dsimp only
  by_cases hempty : s.queues[q].inflight = []
  · rw [if_pos (by rw [hempty]; rfl)]
    cases hstate : s.queues[q].state with
    | draining =>
      rw [if_pos ⟨hempty, Or.inl rfl⟩]
      exact hdisabled
    | aborting =>
      rw [if_pos ⟨hempty, Or.inr rfl⟩]
      exact hdisabled
    | disabled => exact ⟨rfl, rfl, hstate.trans (if_neg (by simp)).symm, ⟨[], List.append_nil _⟩⟩
    | enabled => exact ⟨rfl, rfl, hstate.trans (if_neg (by simp)).symm, ⟨[], List.append_nil _⟩⟩
    | error => exact ⟨rfl, rfl, hstate.trans (if_neg (by simp)).symm, ⟨[], List.append_nil _⟩⟩
  · rw [if_neg (by rw [List.isEmpty_iff]; exact hempty), if_neg fun h => hempty h.1]
    exact ⟨rfl, rfl, rfl, ⟨[], List.append_nil _⟩⟩

/-- The write of a completion record into its slot of the ring (R219–R221). -/
def State.recordOutput (s : State) (fn : Fn) (q : Fin 64) (d : InFlight) (c : Completion) : Output :=
  .hostWrite fn (s.cqBase q + 32 * (s.queues[q].done.toNat % s.cqSize q))
    (recordBytes d c ((s.queues[q].done.toNat / s.cqSize q + 1) % 2 == 1)) false

/-- The record has gone, where the owner can be reached, and its descriptor has left the queue. -/
def State.recorded (s : State) (fn : Fn) (q : Fin 64) (d : InFlight) (rest : List InFlight) (c : Completion) : State :=
  ({ s with out := s.out ++ if s.canMaster fn then [s.recordOutput fn q d c] else [] } : State).setQueue q
    { s.queues[q] with done := s.queues[q].done + 1, inflight := rest }

theorem State.writeRecord_owned {s : State} {q : Fin 64} {fn : Fn} (howner : s.queues[q].owner = some fn) (d : InFlight) (rest : List InFlight)
    (c : Completion) : s.writeRecord q d rest c =
      (let v := ((s.recorded fn q d rest c).settleWaits).settleQueue q
       if bit (dfield d.desc 1 1) 0 then v.signal fn q else v).fetchAll := by
  have hsent : (if s.canMaster fn then s.hostWrite fn (s.cqBase q + 32 * (s.queues[q].done.toNat % s.cqSize q))
        (recordBytes d c ((s.queues[q].done.toNat / s.cqSize q + 1) % 2 == 1)) false else s) =
      { s with out := s.out ++ if s.canMaster fn then [s.recordOutput fn q d c] else [] } := by
    split
    · rfl
    · rw [List.append_nil]
  unfold State.writeRecord State.recorded
  rw [← hsent]
  dsimp only
  split
  · rename_i gn hgn
    obtain rfl := Option.some.inj (howner.symm.trans hgn)
    rfl
  · rename_i hnone
    exact absurd (howner.symm.trans hnone) (by simp)

theorem State.recorded_settleWaits_at (s : State) (fn : Fn) (q : Fin 64) (d : InFlight) (rest : List InFlight) (c : Completion) :
    ∃ l, (s.recorded fn q d rest c).settleWaits.queues[q] = { s.queues[q] with done := s.queues[q].done + 1, inflight := l } ∧
      l.map (fun d => (d.index, d.desc)) = rest.map (fun d => (d.index, d.desc)) := by
  obtain ⟨l, hwaits, hl⟩ := Queue.settleWait_frame (s.recorded fn q d rest c).queues { s.queues[q] with done := s.queues[q].done + 1, inflight := rest }
  refine ⟨l, ?_, hl⟩
  rw [State.settleWaits_at]
  exact (congrArg (Queue.settleWait _) (State.setQueue_at ..)).trans hwaits

/-- What a record leaves of its queue, and of what the module has sent (R219–R222). -/
theorem State.writeRecord_leaves {s : State} {q : Fin 64} {fn : Fn} (howner : s.queues[q].owner = some fn) (d : InFlight) (rest : List InFlight)
    (c : Completion) : ∃ t, s.writeRecord q d rest c = t ∧ t.queues[q].done = s.queues[q].done + 1 ∧
      t.queues[q].inflight.map (fun e => e.index) = rest.map (fun e => e.index) ∧
      t.queues[q].state = (if rest = [] ∧ (s.queues[q].state = .draining ∨ s.queues[q].state = .aborting) then .disabled else s.queues[q].state) ∧
      (s.canMaster fn = true → ∃ l, t.out = s.out ++ s.recordOutput fn q d c :: l) := by
  obtain ⟨u, hu⟩ : ∃ u, u = (s.recorded fn q d rest c).settleWaits := ⟨_, rfl⟩
  obtain ⟨l, huq, hl⟩ := s.recorded_settleWaits_at fn q d rest c
  rw [← hu] at huq
  have hlast : l = [] ↔ rest = [] := by
    rw [← List.map_eq_nil_iff (l := l), hl, List.map_eq_nil_iff]
  obtain ⟨hdone, hinflight, hstate, hout⟩ := u.settleQueue_at q
  rw [huq] at hdone hinflight hstate
  obtain ⟨w, hw⟩ : ∃ w, w = if bit (dfield d.desc 1 1) 0 then (u.settleQueue q).signal fn q else u.settleQueue q := ⟨_, rfl⟩
  have hsignal : w.queues = (u.settleQueue q).queues ∧ (u.settleQueue q).out <+: w.out := by
    rw [hw]
    split
    · obtain ⟨_, _, hframe⟩ := (u.settleQueue q).signal_frame fn q
      rw [hframe]
      exact ⟨rfl, ⟨_, rfl⟩⟩
    · exact ⟨rfl, ⟨[], List.append_nil _⟩⟩
  obtain ⟨hwq, hwout⟩ := hsignal
  obtain ⟨-, hasked, htout⟩ := w.fetchAll_asksOnly
  have hat : { w.fetchAll.queues[q] with reading := (u.settleQueue q).queues[q].reading } = (u.settleQueue q).queues[q] := by
    simpa only [hwq] using hasked q
  refine ⟨w.fetchAll, ?_, ?_, ?_, ?_, fun hm => ?_⟩
  · rw [State.writeRecord_owned howner, hw, hu]
  · exact (congrArg Queue.done hat).trans hdone
  · refine (congrArg (fun x : Queue => x.inflight.map (fun e => e.index)) hat).trans ?_
    simpa [Function.comp_def] using congrArg (List.map Prod.fst) (hinflight.trans hl)
  · exact ((congrArg Queue.state hat).trans hstate).trans (if_congr (and_congr_left fun _ => hlast) rfl rfl)
  · have hrecord : u.out = s.out ++ [s.recordOutput fn q d c] := by
      rw [hu]
      exact congrArg (s.out ++ ·) (if_pos hm)
    obtain ⟨l, hl⟩ := (hout.trans hwout).trans htout
    exact ⟨l, by rw [← hl, hrecord, List.append_assoc]; rfl⟩

theorem exec_completionRecordWrite {s : State} {q : Fin 64} {d : InFlight} {rest : List InFlight} {c : Completion}
    (hq : s.queues[q].inflight = d :: rest) (hp : d.phase = .ended c) (hdone : s.unperformed d = false)
    (htwin : s.fleet.twin.any (fun t => t.stopping && t.q == q) = false) :
    exec (.completionRecordWrite q) s = .next (s.writeRecord q d rest c) := by
  refine congrArg Host.Outcome.next ?_
  rw [hq]
  dsimp only
  rw [hp]
  dsimp only
  rw [hdone, htwin]
  exact if_neg (by simp)

/-- The bytes of a record, whose phase bit is the parity of a number (R219, R220). -/
theorem recordBytes_phase (d : InFlight) (c : Completion) (n : Nat) : recordBytes d c (n % 2 == 1) =
    natLe 4 (dfield d.desc 4 4) ++ natLe 4 d.index.toNat ++ natLe 2 c.status.toNat ++
      [BitVec.ofNat 8 (dfield d.desc 0 1), BitVec.ofNat 8 (n % 2 + 2 * b2n c.overlap)] ++
      natLe 4 c.faultCount.toNat ++ natLe 8 c.detail0.toNat ++ natLe 8 c.detail1.toNat := by
  have hphase : b2n (n % 2 == 1) = n % 2 := by
    obtain h | h := Nat.mod_two_eq_zero_or_one n
    · rw [h]; rfl
    · rw [h]; rfl
  rw [recordBytes, hphase]

/-! ## The maintenance pause (R67, R122, R230) -/

theorem exec_maintenancePause_opened {s : State} {fn : Fn} (h : s.opens fn = true) : exec (.maintenancePause fn) s = .next (s.requestPause fn) :=
  congrArg Host.Outcome.next (if_pos h)

theorem State.awaiting_eq_zero (s : State) : s.awaiting = 0 ↔ s.retire.pending = [] ∧ s.mem.repairs = [] := by
  rw [State.awaiting, Nat.add_eq_zero_iff, List.length_eq_zero_iff, List.length_eq_zero_iff]

/-- A pending repair is in the row map once it has been applied. -/
def MemState.rowMapped (m : MemState) (row : Nat) : Prop := (m.rowMap.find? (fun e => e.1 == row)).isSome = true

theorem any_key_insert {α : Type} (m : Keyed α) (k i : Nat) (a : α) :
    (insert m k a).any (fun e => e.1 == i) = (k == i || m.any (fun e => e.1 == i)) := by
  induction m with
  | nil => simp [insert]
  | cons e m ih =>
    obtain ⟨j, b⟩ := e
    rw [insert]
    split
    · rfl
    · split
      · rename_i hkj
        subst hkj
        simp
      · rw [List.any_cons, ih, List.any_cons, Bool.or_left_comm]

theorem MemState.foldl_applyRepair_rowMapped (l : List Nat) {m : MemState} {row : Nat} (h : row ∈ l ∨ m.rowMapped row) :
    (l.foldl MemState.applyRepair m).rowMapped row := by
  induction l generalizing m with
  | nil => exact h.resolve_left (by simp)
  | cons a l ih =>
    have hinsert : (m.applyRepair a).rowMapped row ↔ a = row ∨ m.rowMapped row := by
      rw [MemState.rowMapped, MemState.rowMapped, List.isSome_find?, List.isSome_find?, MemState.applyRepair, any_key_insert, Bool.or_eq_true, beq_iff_eq]
    refine ih ?_
    rw [hinsert]
    rcases h with h | h
    · exact (List.mem_cons.1 h).symm.imp id fun h => Or.inl h.symm
    · exact Or.inr (Or.inr h)

/-! ## Retirements and edits (R49, R65–R67) -/

/-- The scratchpads of a tile and of those right of it in its row are emptied (R49). -/
def State.emptied (s : State) (t : Nat) : State :=
  ((List.range (32 - columnOf t)).map (fun i => t + i)).foldl (fun s u => s.setTile u { s.tile u with pad := [], padBad := [] }) s

theorem State.emptied_frame (s : State) (t : Nat) : { s.emptied t with tiles := s.tiles } = s :=
  kept_foldl (g := fun u : State => { u with tiles := s.tiles }) (f := fun s u => s.setTile u { s.tile u with pad := [], padBad := [] })
    (fun _ _ => rfl) _ s

theorem State.emptied_tile (s : State) (t k : Nat) : ((s.emptied t).tile k).fenced = (s.tile k).fenced ∧
    (k = t ∨ (s.tile k).pad = [] → ((s.emptied t).tile k).pad = []) := by
  have hself : t < t + (32 - columnOf t) := by
    have : columnOf t < 32 := Nat.mod_lt _ (by decide)
    omega
  unfold State.emptied
  rw [List.foldl_map]
  obtain ⟨hin, hout⟩ := State.foldl_tiles (f := fun s u => s.setTile u { s.tile u with pad := [], padBad := [] })
    (P := fun _ x y => y.fenced = x.fenced ∧ y.pad = []) (fun s t => ⟨by simp, fun k hk => by simp [hk]⟩) s t (32 - columnOf t)
  by_cases hk : t ≤ k ∧ k < t + (32 - columnOf t)
  · obtain ⟨hfenced, hpad⟩ := hin k hk.1 hk.2
    exact ⟨hfenced, fun _ => hpad⟩
  · have hsame := hout k (by omega)
    rw [hsame]
    exact ⟨rfl, fun h => h.resolve_left (by omega)⟩

/-- A tile that a retirement has cleared: no fence, and an empty scratchpad. -/
def State.cleared (s : State) (n : Nat) : Prop := (s.tile n).fenced = false ∧ (s.tile n).pad = []

theorem State.applyRetirement_cleared (s : State) (t n : Nat) (h : n = t ∨ s.cleared n) : (s.applyRetirement t).cleared n := by
  obtain ⟨hfenced, hpad⟩ := s.emptied_tile t n
  have htile : (s.applyRetirement t).tile n = if n = t then { (s.emptied t).tile t with fenced := false, retireCause := 0 } else (s.emptied t).tile n :=
    (s.emptied t).setTile_tile t n _
  unfold State.cleared
  rw [htile]
  by_cases hn : n = t
  · subst hn
    rw [if_pos rfl]
    exact ⟨rfl, hpad (Or.inl rfl)⟩
  · rw [if_neg hn]
    obtain ⟨hf, hp⟩ := h.resolve_left hn
    exact ⟨hfenced.trans hf, hpad (Or.inr hp)⟩

theorem State.foldl_applyRetirement_cleared (l : List Nat) {s : State} {n : Nat} (h : n ∈ l ∨ s.cleared n) :
    (l.foldl State.applyRetirement s).cleared n := by
  induction l generalizing s with
  | nil => exact h.resolve_left (by simp)
  | cons t l ih =>
    refine ih ?_
    rcases h with h | h
    · exact (List.mem_cons.1 h).symm.imp id fun h => s.applyRetirement_cleared t n (Or.inl h)
    · exact Or.inr (s.applyRetirement_cleared t n (Or.inr h))

theorem State.applyEdit_keeps (s : State) (t : Nat) : (s.applyEdit t).mem = s.mem ∧ (s.applyEdit t).retire.edits = s.retire.edits := by
  have hframe := s.emptied_frame t
  unfold State.applyEdit
  split
  · exact ⟨(congrArg State.mem hframe :), (congrArg (fun u : State => u.retire.edits) hframe :)⟩
  · exact ⟨rfl, rfl⟩

theorem State.applyRetirement_keeps (s : State) (t : Nat) : (s.applyRetirement t).mem = s.mem ∧
    (s.applyRetirement t).retire.pending = s.retire.pending ∧ (s.applyRetirement t).retire.edits = s.retire.edits := by
  have hframe := s.emptied_frame t
  exact ⟨(congrArg State.mem hframe :), (congrArg (fun u : State => u.retire.pending) hframe :), (congrArg (fun u : State => u.retire.edits) hframe :)⟩

theorem MemState.foldl_applyRepair_repairs (l : List Nat) (m : MemState) : (l.foldl MemState.applyRepair m).repairs = m.repairs :=
  List.foldlRecOn l MemState.applyRepair (motive := fun k : MemState => k.repairs = m.repairs) rfl fun _ hk _ _ => hk

/-- A remap point leaves nothing pending: repairs are in the row map, and without edits retired tiles are cleared (R67, R122, R512). -/
theorem State.applyRemap_leaves (s : State) : s.applyRemap.retire.pending = [] ∧ s.applyRemap.retire.edits = [] ∧ s.applyRemap.mem.repairs = [] ∧
    (∀ row ∈ s.mem.repairs, s.applyRemap.mem.rowMapped row) ∧
    (s.retire.edits = [] → ∀ n ∈ s.retire.pending, s.applyRemap.cleared n) := by
  obtain ⟨u, hu⟩ : ∃ u, u = s.retire.edits.foldl State.applyEdit { s with retire := { s.retire with edits := [] } } := ⟨_, rfl⟩
  have hedited : (u.mem, u.retire.edits) = (s.mem, []) := by
    rw [hu]
    exact kept_foldl (g := fun u : State => (u.mem, u.retire.edits)) (fun u t => Prod.ext (u.applyEdit_keeps t).1 (u.applyEdit_keeps t).2) _ _
  obtain ⟨humem, huedits⟩ := Prod.mk.inj hedited
  obtain ⟨v, hv⟩ : ∃ v, v = u.retire.pending.foldl State.applyRetirement { u with retire := { u.retire with pending := [] } } := ⟨_, rfl⟩
  have hretired : (v.mem, v.retire.pending, v.retire.edits) = (u.mem, [], u.retire.edits) := by
    rw [hv]
    refine kept_foldl (g := fun u : State => (u.mem, u.retire.pending, u.retire.edits)) (fun u t => ?_) _ _
    obtain ⟨hmem, hpending, hedits⟩ := u.applyRetirement_keeps t
    exact Prod.ext hmem (Prod.ext hpending hedits)
  obtain ⟨hvmem, hrest⟩ := Prod.mk.inj hretired
  obtain ⟨hvpending, hvedits⟩ := Prod.mk.inj hrest
  have hremap : s.applyRemap = { v with mem := v.mem.repairs.foldl MemState.applyRepair { v.mem with repairs := [] } } := by
    rw [hv, hu]
    rfl
  rw [hremap]
  refine ⟨hvpending, hvedits.trans huedits, MemState.foldl_applyRepair_repairs .., fun row hrow => ?_, fun hnone n hn => ?_⟩
  · refine MemState.foldl_applyRepair_rowMapped _ (Or.inl ?_)
    rw [hvmem, humem]
    exact hrow
  · have hsame : u.retire.pending = s.retire.pending := by
      rw [hu, hnone]
      rfl
    change v.cleared n
    rw [hv]
    exact State.foldl_applyRetirement_cleared _ (Or.inl (hsame ▸ hn))

/-- The remap point, after which the pause is over. -/
def State.remapped (s : State) : State := { s.applyRemap with
  hq := { s.applyRemap.hq with maint := false }
  queues := s.applyRemap.queues.map (fun (x : Queue) => { x with paused := false }) }

theorem exec_remapApply_paused {s : State} (hmaint : s.hq.maint = true) (hlaunches : s.hq.launches = [])
    (hidle : ∀ p : Fin 64, s.queues[p].inflight = []) : exec .remapApply s = .next s.remapped.signalBoth.fetchAll := by
  refine congrArg Host.Outcome.next (if_pos ⟨hmaint, ?_, by rw [hlaunches]; rfl⟩)
  rw [List.all_eq_true]
  intro x hx
  obtain ⟨i, hi, rfl⟩ := List.mem_iff_getElem.1 hx
  rw [List.isEmpty_iff, Vector.getElem_toList]
  exact hidle ⟨i, by simpa using hi⟩

theorem State.signalBoth_frame (s : State) : ∃ h l, s.signalBoth = { s with host := h, out := s.out ++ l } := by
  obtain ⟨h, l, hA⟩ := s.signal_frame .A 64
  obtain ⟨k, m, hB⟩ := (s.signal .A 64).signal_frame .B 64
  refine ⟨k, l ++ m, hB.trans ?_⟩
  rw [hA, ← List.append_assoc]

/-- The signals and fetches after a remap point keep what it left. -/
theorem State.remapped_kept (s : State) :
    s.remapped.signalBoth.fetchAll.hq.maint = false ∧ (∀ p : Fin 64, s.remapped.signalBoth.fetchAll.queues[p].paused = false) ∧
    s.remapped.signalBoth.fetchAll.retire = s.applyRemap.retire ∧ s.remapped.signalBoth.fetchAll.mem = s.applyRemap.mem ∧
    s.remapped.signalBoth.fetchAll.tiles = s.applyRemap.tiles := by
  obtain ⟨h, l, hsignal⟩ := s.remapped.signalBoth_frame
  obtain ⟨hrest, hqueues, -⟩ := s.remapped.signalBoth.fetchAll_asksOnly
  generalize s.remapped.signalBoth.fetchAll = t at hrest hqueues
  rw [hsignal] at hrest hqueues
  refine ⟨(congrArg (fun u : State => u.hq.maint) hrest :), fun p => ?_, (congrArg State.retire hrest :), (congrArg State.mem hrest :),
    (congrArg State.tiles hrest :)⟩
  refine (congrArg Queue.paused (hqueues p) :).trans ?_
  simp [State.remapped]

/-! ## Host reads without a completion (R187, R229) -/

theorem exec_hostCompletionTimeout_errs {s : State} {q : Fin 64} (hread : s.queues[q].polling ≠ 0 ∨ s.queues[q].reading ≠ 0)
    (hrun : s.queues[q].state = .enabled ∨ s.queues[q].state = .draining) :
    ∃ t, exec (.hostCompletionTimeout q) s = .next t ∧ s.queueErrs t q 1 := by
  by_cases hpolling : s.queues[q].polling = 0
  · exact ⟨_, congrArg Host.Outcome.next ((if_neg (not_not_intro hpolling)).trans (if_pos (hread.resolve_left (not_not_intro hpolling)))),
      State.readFails_errs rfl hrun⟩
  · exact ⟨_, congrArg Host.Outcome.next (if_pos hpolling), State.readFails_errs rfl hrun⟩

theorem exec_hostCompletionTimeout_copy {s : State} {q : Fin 64} {d : InFlight} {rest : List InFlight} (hpolling : s.queues[q].polling = 0)
    (hreading : s.queues[q].reading = 0) (hq : s.queues[q].inflight = d :: rest) (hp : d.phase = .running) (ht : dfield d.desc 0 1 = 3)
    (hdir : dfield d.desc 28 1 = 0) : exec (.hostCompletionTimeout q) s = .next (s.turned q d rest (.ended { plain 7 with detail0 := 0 })) := by
  refine congrArg Host.Outcome.next ((if_neg (not_not_intro hpolling)).trans ((if_neg (not_not_intro hreading)).trans ?_))
  rw [State.frontRunning_of_running hq hp ht]
  dsimp only
  rw [if_pos hdir, State.endCopy]
  exact State.complete_turned hq _ fun k hk => by rw [hp] at hk; cases hk

/-- Settles O20, the record by what its write leaves of its queue, the pause by what a remap point leaves pending, and reads by how their queues fail. -/
theorem recordsPausesAndLostReads : Obligations.RecordsPausesAndLostReads := by
  intro s q fn howner x
  refine ⟨fun d rest c hq hp hdone htwin => ?_,
    fun g hopen => ⟨fun hmaint => ⟨_, exec_maintenancePause_opened hopen, if_pos hmaint⟩,
      fun hmaint hpending hrepairs => ⟨_, exec_maintenancePause_opened hopen, ?_⟩,
      fun hmaint hwaiting => ⟨_, exec_maintenancePause_opened hopen, ?_⟩⟩,
    fun hmaint hlaunches hidle => ?_, exec_hostCompletionTimeout_errs,
    fun hpolling hreading d rest hq hp ht hdir => ⟨_, exec_hostCompletionTimeout_copy hpolling hreading hq hp ht hdir, rfl⟩⟩
  · obtain ⟨t, hwritten, hleft, hindices, hstate, hsent⟩ := State.writeRecord_leaves howner d rest c
    refine ⟨t, (exec_completionRecordWrite hq hp hdone htwin).trans (congrArg Host.Outcome.next hwritten), hleft, hindices, hstate, fun hm => ?_⟩
    rw [← recordBytes_phase]
    exact hsent hm
  · have hnone : s.awaiting = 0 := s.awaiting_eq_zero.2 ⟨hpending, hrepairs⟩
    exact (if_neg (by rw [hmaint]; decide)).trans (if_pos hnone)
  · have hsome : s.awaiting ≠ 0 := fun h => hwaiting.elim (absurd (s.awaiting_eq_zero.1 h).1) (absurd (s.awaiting_eq_zero.1 h).2)
    exact (if_neg (by rw [hmaint]; decide)).trans (if_neg hsome)
  · obtain ⟨hended, hunpaused, hretire, hmem, htiles⟩ := s.remapped_kept
    obtain ⟨hpending, hedits, hrepairs, hrows, hcleared⟩ := s.applyRemap_leaves
    have htile : ∀ n, s.remapped.signalBoth.fetchAll.tile n = s.applyRemap.tile n := fun n => congrArg (find Tile.fresh · n) htiles
    refine ⟨_, exec_remapApply_paused hmaint hlaunches hidle, hended, hunpaused, (congrArg Retirement.pending hretire).trans hpending,
      (congrArg Retirement.edits hretire).trans hedits, (congrArg MemState.repairs hmem).trans hrepairs, ?_, fun hnone n hn => Or.inl ?_⟩
    · rw [hmem]
      exact hrows
    · rw [htile]
      exact hcleared hnone n hn

end Sys2Proof.Machine
end

section
/-! The obligation about MARK descriptors: jobs that open and close, and step boundaries (R217, R218). -/

namespace Sys2Proof.Machine

open Sys2Proof

section
variable {s : State} {q : Fin 64} {d : InFlight} {rest : List InFlight} (hq : s.queues[q].inflight = d :: rest) (hp : d.phase = .fetched)
  (ht : dfield d.desc 0 1 = 6)
include hq hp ht

theorem State.frontMark_of_fetched {kind : Nat} (hkind : dfield d.desc 8 1 = kind) : s.frontMark q kind = some d := by
  rw [State.frontMark, State.front_of_fetched hq hp ht, Option.filter_some, beq_iff_eq.2 hkind, if_pos rfl]

variable (hpref : dfield d.desc 2 1 = 0xFF)
include hpref

/-- A start MARK: its job is open already (0xA, BAD_MARKER), or 64 jobs are open (0xB, JOB_LIMIT), or it opens (R217, R218). -/
theorem exec_markJobStart {fn : Fn} (howner : s.queues[q].owner = some fn) (hkind : dfield d.desc 8 1 = 1) :
    exec (.markJobStart q) s = .next (
      if (s.jobOpen fn (BitVec.ofNat 32 (dfield d.desc 12 4))).isSome then s.turned q d rest (.ended (plain 0xA))
      else if 64 ≤ s.hq.jobs.length then s.turned q d rest (.ended (plain 0xB))
      else ({ s with hq := { s.hq with jobs := s.hq.jobs.map (fun (j : Job) => { j with overlap := true }) ++
        [{ fn := fn, jobId := BitVec.ofNat 32 (dfield d.desc 12 4), energy := s.hq.energy, start := s.time.toNat / 12500
           overlap := !s.hq.jobs.isEmpty }] } } : State).turned q d rest (.ended (plain 0))) := by
  refine congrArg Host.Outcome.next ?_
  rw [State.frontMark_of_fetched hq hp ht hkind, howner]
  dsimp only
  rw [firstInvalid_noPref, if_pos hpref]
  dsimp only
  rw [State.complete_fetched hq hp, State.complete_fetched hq hp]
  refine if_congr Iff.rfl rfl (if_congr Iff.rfl rfl ?_)
  refine State.complete_fetched ?_ hp _
  exact hq

/-- An end MARK: its job is not open (0xA, BAD_MARKER), or it closes and is reported (R217, R218). -/
theorem exec_markJobEnd {fn : Fn} (howner : s.queues[q].owner = some fn) (hkind : dfield d.desc 8 1 = 2) :
    exec (.markJobEnd q) s = .next (match s.jobOpen fn (BitVec.ofNat 32 (dfield d.desc 12 4)) with
      | none => s.turned q d rest (.ended (plain 0xA))
      | some j => ({ s with hq := { s.hq with
          jobs := s.hq.jobs.filter (fun k => decide (k.fn ≠ fn ∨ k.jobId ≠ BitVec.ofNat 32 (dfield d.desc 12 4))) } } : State).turned q d rest
        (.ended { plain 0 with
          overlap := j.overlap
          detail0 := BitVec.ofNat 64 ((s.hq.energy - j.energy) / 1000)
          detail1 := BitVec.ofNat 64 (s.time.toNat / 12500 - j.start) })) := by
  refine congrArg Host.Outcome.next ?_
  rw [State.frontMark_of_fetched hq hp ht hkind, howner]
  dsimp only
  rw [firstInvalid_noPref, if_pos hpref]
  dsimp only
  cases s.jobOpen fn (BitVec.ofNat 32 (dfield d.desc 12 4)) with
  | none => exact State.complete_fetched hq hp _
  | some j =>
    refine State.complete_fetched ?_ hp _
    exact hq

/-- A step boundary at which no copy is due and no commit waits. -/
theorem exec_markStepBoundary_alone (hkind : dfield d.desc 8 1 = 3) (hblocks : s.fleet.blocks = none) (hcommit : s.fleet.commit = none)
    (errs : DramErrs) : exec (.markStepBoundary q errs) s = .next
      ((s.setFleet { s.fleet with lastStep := BitVec.ofNat 64 (dfield d.desc 16 8) }).turned q d rest (.ended (plain 0))) := by
  have hcopy : s.copyTo (BitVec.ofNat 64 (dfield d.desc 16 8)) = none := by rw [State.copyTo, hblocks]
  have hepoch : s.activateAt (BitVec.ofNat 64 (dfield d.desc 16 8)) = s := by rw [State.activateAt, hcommit]
  refine congrArg Host.Outcome.next ?_
  rw [State.frontMark_of_fetched hq hp ht hkind]
  dsimp only
  rw [firstInvalid_noPref, if_pos hpref]
  dsimp only
  rw [hcopy, State.endStep, hepoch]
  refine State.complete_fetched ?_ hp _
  exact hq

end

/-- Settles O23, each MARK by what its command makes of the open jobs and of the front of its queue. -/
theorem marksOpenAndCloseJobs : Obligations.MarksOpenAndCloseJobs := by
  intro s q d rest fn hq hp ht hpref howner ended id
  refine ⟨fun hkind => ⟨_, exec_markJobStart hq hp ht hpref howner hkind, ?_⟩,
    fun hkind hnone => ⟨_, exec_markJobEnd hq hp ht hpref howner hkind, ?_⟩,
    fun hkind j hj => ⟨_, exec_markJobEnd hq hp ht hpref howner hkind, ?_⟩,
    fun hkind hblocks hcommit => ⟨_, exec_markStepBoundary_alone hq hp ht hpref hkind hblocks hcommit [], rfl, rfl⟩⟩
  · have hopen : (s.jobOpen fn id).isSome = s.hq.jobs.any (fun j => decide (j.fn = fn ∧ j.jobId = id)) := List.isSome_find?
    have hbeside : (!s.hq.jobs.isEmpty) = decide (s.hq.jobs ≠ []) := by cases s.hq.jobs <;> rfl
    rw [hopen, hbeside]
    rfl
  · have hclosed : s.jobOpen fn id = none := List.find?_eq_none.2 fun j hj h => by
      obtain ⟨hfn, hid⟩ := of_decide_eq_true h
      exact (hnone j hj).elim (absurd hfn) (absurd hid)
    rw [hclosed]
    rfl
  · have hopen : s.jobOpen fn id = some j := hj
    rw [hopen]
    refine ⟨fun k => ?_, rfl, rfl⟩
    refine List.mem_filter.trans (and_congr_right fun _ => ?_)
    rw [decide_eq_true_eq, not_and_or]

end Sys2Proof.Machine
end

section
/-! The obligation about host port events, which fails: a reset of a function leaves the BAR2 writes that wait in its port (R192, R193, R474). -/

namespace Sys2Proof.Machine

open Sys2Proof

/-! ## What a reset of a function leaves of its port -/

section
variable (s : State) (q : Fin 64)

theorem State.discardWork_host : (s.discardWork q).host = s.host := by
  have habort : (s.abortLaunch q).host = s.host := by
    unfold State.abortLaunch
    split
    · rfl
    · rfl
  have hstop : ∀ u : State, (u.stopCopy q).host = u.host := fun _ => kept_ite (g := State.host) rfl rfl
  unfold State.discardWork State.endWork
  refine Eq.trans ?_ ((hstop ((s.abortLaunch q).orphans fun o => o.isColl q)).trans habort)
  generalize State.stopCopy _ q = u
  rfl

theorem State.resetCfg_host : (s.resetCfg q).host = s.host := by
  unfold State.resetCfg
  exact kept_foldl (g := State.host) (f := fun u o => u.setReg .A (qReg q + o) (regReset (qReg q + o))) (fun _ _ => rfl) _ s

theorem State.clearQueues_host (fn : Fn) : (s.clearQueues fn).host = s.host := by
  unfold State.clearQueues
  refine (State.settleWaits_host _).trans (kept_foldl (g := State.host) (fun u q => kept_ite (g := State.host) ?_ rfl) _ s)
  exact (State.resetCfg_host ..).trans (u.discardWork_host q)

end

theorem State.resetFunction_writes (s : State) (fn : Fn) : (s.resetFunction fn).host[fnIdx fn].writes = s.host[fnIdx fn].writes := by
  obtain ⟨h, hh⟩ : ∃ h : HostPort, h = { s.host[fnIdx fn] with
      bme := false, bar2Log := 28, payload := 128, readRequest := 512, timeout := 0, msixTable := []
      msixMask := BitVec.allOnes 128, tableMask := false, msixPending := 0 } := ⟨_, rfl⟩
  have hport : (s.resetFunction fn).host = (s.setHost fn h).host := by
    unfold State.resetFunction
    rw [hh]
    exact kept_foldl (g := State.host) (fun _ _ => rfl) [hqStatus, hqWakeReg, hqWinCfg] (s.setHost fn _)
  simp only [hport]
  rw [State.setHost_at, hh]

/-- The BAR2 writes that wait in a port outlast a function-level reset. -/
theorem functionLevelReset_writes {s t : State} {fn : Fn} (hup : s.host[fnIdx fn].up = true) (h : exec (.functionLevelReset fn) s = .next t) :
    t.host[fnIdx fn].writes = s.host[fnIdx fn].writes := by
  have hexec : exec (.functionLevelReset fn) s = .next ((((s.setHost fn { s.host[fnIdx fn] with d3hot := false }).clearQueues fn).resetFunction
      fn).dropJobs fn) := congrArg Host.Outcome.next (if_pos hup)
  obtain rfl := Host.Outcome.next.inj (hexec.symm.trans h)
  have hdrop : ∀ u : State, (u.dropJobs fn).host = u.host := fun _ => rfl
  simp only [hdrop]
  rw [State.resetFunction_writes]
  simp only [State.clearQueues_host]
  rw [State.setHost_at]

/-! ## A port in which a write waits -/

/-- In Stage 3, with function A's link up and no stack powered. -/
def portOpen : State := { State.reset with
  stage := .stage3, host := State.reset.host.set 0 { HostPort.reset with perst := false, up := true, bme := true } }

/-- The port of function A holds a BAR2 write of one byte, which memory does not serve. -/
def writeWaiting : State := portOpen.setHost .A { HostPort.reset with
  perst := false, up := true, bme := true, writes := [{ view := 0, addr := 0, data := [1], errs := [] }] }

/-- The command by which the write comes to wait (R193; log 184). -/
theorem writeWaiting_arrives : exec (.bar2Write .A 0 [1] []) portOpen = .next writeWaiting := by
  obtain ⟨-, -, -, -, -, hwaits, -⟩ := windowAccessesAndMsixMasks.1 portOpen .A 0 rfl rfl
  obtain ⟨t, hexec, rfl⟩ := hwaits [1] [] (by decide) (by decide +kernel) (by decide +kernel)
  have hplace : portOpen.window .A 0 = (0, 0) := by decide +kernel
  rw [hexec, hplace]
  rfl

/-- Refutes O16: after a function-level reset the port of `writeWaiting` still holds its BAR2 write, while the statement wants the port as after power-on,
where none waits. -/
theorem not_hostPortEventsAndResets : ¬ Obligations.HostPortEventsAndResets := by
  intro h
  obtain ⟨-, -, -, -, -, hup⟩ := h writeWaiting .A
  obtain ⟨-, -, -, hreset, -⟩ := hup rfl
  obtain ⟨t, hexec, hport, -⟩ := hreset
  have hkept := functionLevelReset_writes rfl hexec
  rw [hport] at hkept
  exact absurd hkept (by decide)

end Sys2Proof.Machine
end

section
/-! SUPPORT. What reports and signals leave alone, which bits of a register records set, and what a port keeps through whatever it sends and whatever ends
at the engines (R12, R245–R249, R257, R258, R263, R499). -/

namespace Sys2Proof.Machine

open Sys2Proof

/-! ## Reports and signals (R231, R499) -/

/-- `t` is `s` but for what the hosts are told, and the memory and the free values that the telling takes. -/
def State.hostsOnly (s t : State) : Prop :=
  { t with host := s.host, rings := s.rings, mem := s.mem, out := s.out, crown := s.crown, free := s.free } = s

section
variable {s t u : State}

theorem State.hostsOnly_trans (h : s.hostsOnly t) (k : t.hostsOnly u) : s.hostsOnly u := by
  unfold State.hostsOnly at *
  rw [← h, ← k]

theorem State.hostsOnly_ite {c : Prop} [Decidable c] (ht : s.hostsOnly t) (hu : s.hostsOnly u) : s.hostsOnly (if c then t else u) := by
  split
  · exact ht
  · exact hu

section
variable (h : s.hostsOnly t)
include h

theorem State.ports_of_hostsOnly : t.ports = s.ports := (congrArg State.ports h :)
theorem State.regs_of_hostsOnly : t.regs = s.regs := (congrArg State.regs h :)
theorem State.fleet_of_hostsOnly : t.fleet = s.fleet := (congrArg State.fleet h :)

end
end

section
variable (s : State)

theorem State.signal_hostsOnly (fn : Fn) (vec : Nat) : s.hostsOnly (s.signal fn vec) := by
  unfold State.signal
  exact State.hostsOnly_ite rfl (State.hostsOnly_ite rfl rfl)

theorem State.signalBoth_hostsOnly : s.hostsOnly s.signalBoth := State.hostsOnly_trans (s.signal_hostsOnly ..) (State.signal_hostsOnly ..)

theorem State.signalRing_hostsOnly (fn : Fn) : s.hostsOnly (s.signalRing fn) := by
  unfold State.signalRing
  refine State.hostsOnly_ite rfl (State.hostsOnly_trans ?_ (State.signal_hostsOnly ..))
  exact rfl

theorem State.visit_hostsOnly (v : BitVec 2) (a len : Nat) : s.hostsOnly (s.visit v a len) := by
  obtain ⟨_, _, h⟩ := s.visit_frame v a len
  rw [h]
  exact rfl

theorem State.ringPut_hostsOnly {fn : Fn} {msg : List Byte} {t : State} (h : s.ringPut fn msg = some t) : s.hostsOnly t := by
  unfold State.ringPut at h
  dsimp only at h
  split at h
  · cases h
  · cases h
    have hvisit : s.hostsOnly ((s.visit (s.ringView fn) (s.ringBase fn) 64).visit (s.ringView fn) (s.rspSlot fn) 256) :=
      State.hostsOnly_trans (s.visit_hostsOnly ..) (State.visit_hostsOnly ..)
    generalize State.visit _ _ _ 256 = u at hvisit
    exact State.hostsOnly_trans hvisit rfl

theorem State.putEvent_hostsOnly (fn : Fn) (msg : List Byte) : s.hostsOnly (s.putEvent fn msg) := by
  unfold State.putEvent
  cases h : s.ringPut fn msg with
  | some t => exact State.hostsOnly_trans (s.ringPut_hostsOnly h) (t.signalRing_hostsOnly fn)
  | none => exact rfl

theorem State.ringEvent_hostsOnly (fn : Fn) (mtype : Nat) (body : List Byte) : s.hostsOnly (s.ringEvent fn mtype body) := by
  unfold State.ringEvent
  refine State.hostsOnly_ite rfl (State.hostsOnly_ite rfl (State.hostsOnly_trans ?_ (State.putEvent_hostsOnly ..)))
  exact rfl

theorem State.reportTo_hostsOnly (code index : Nat) (detail : List Byte) (fn : Fn) : s.hostsOnly (s.reportTo code index detail fn) := by
  unfold State.reportTo
  refine State.hostsOnly_ite (State.hostsOnly_trans ?_ (State.ringEvent_hostsOnly ..)) rfl
  exact rfl

theorem State.report_hostsOnly (code index : Nat) : s.hostsOnly (s.report code index) := by
  unfold State.report State.reportWith
  refine State.hostsOnly_trans (State.hostsOnly_trans ?_ (State.reportTo_hostsOnly ..)) (State.reportTo_hostsOnly ..)
  exact rfl

theorem State.leaseEvent_hostsOnly (fn : Fn) (m : List Byte) : s.hostsOnly (s.leaseEvent fn m) := by
  unfold State.leaseEvent
  exact State.hostsOnly_ite (s.ringEvent_hostsOnly ..) rfl

end

/-! ## Bits of registers (R12) -/

/-- Every bit of the module's registers that is set in `s` is set in `t`. -/
def State.bitsStay (s t : State) : Prop := ∀ off n, (s.reg .A off).getLsbD n = true → (t.reg .A off).getLsbD n = true

theorem State.bitsStay_of_regs {s t : State} (h : t.regs = s.regs) : s.bitsStay t := by
  intro off n hn
  unfold State.reg
  rwa [h]

theorem State.bitsStay_trans {s t u : State} (h : s.bitsStay t) (k : t.bitsStay u) : s.bitsStay u := fun _ _ hn => k _ _ (h _ _ hn)

theorem regKey_A (off : Nat) : regKey .A off = off := by
  unfold regKey
  split
  · simp [fnIdx]
  · rfl

section
variable (s : State)

theorem State.flag_bitsStay (off n : Nat) : s.bitsStay (s.flag off n) := by
  intro o k hk
  rw [State.flag, State.setStatus]
  by_cases ho : o = off
  · subst ho
    rw [State.setReg_reg, BitVec.getLsbD_or, hk, Bool.true_or]
  · rw [State.setReg_reg_ne _ _ _ _ _ _ (by rwa [regKey_A, regKey_A])]
    exact hk

theorem State.setLog_bitsStay (l : LogState) : s.bitsStay { s with log := l } := State.bitsStay_of_regs rfl

theorem State.setLog_flag_bitsStay (l : LogState) (off n : Nat) : s.bitsStay (({ s with log := l } : State).flag off n) :=
  State.bitsStay_trans (s.setLog_bitsStay l) (State.flag_bitsStay _ off n)

theorem State.flushLog_bitsStay (forced : Bool) : s.bitsStay (s.flushLog forced) := by
  unfold State.flushLog
  dsimp only
  generalize LogState.flush _ _ _ = l
  split <;> split
  · exact State.bitsStay_trans (s.setLog_flag_bitsStay _ _ _) (State.flag_bitsStay _ _ _)
  · exact s.setLog_flag_bitsStay _ _ _
  · exact s.setLog_flag_bitsStay _ _ _
  · exact s.setLog_bitsStay _

theorem State.record_bitsStay (typ : Nat) (cls : LogClass) (rep : Bool) (subject : Nat) (detail : List Byte) :
    s.bitsStay (s.record typ cls rep subject detail) := by
  unfold State.record
  dsimp only
  split
  · exact s.setLog_bitsStay _
  · split
    · generalize (if rep = true then _ else _ : LogState) = l
      split
      · exact State.bitsStay_trans (s.setLog_bitsStay l) (State.flushLog_bitsStay _ true)
      · exact s.setLog_bitsStay l
    · exact s.setLog_flag_bitsStay _ _ _

end

/-! ## What ports keep (R245–R249, R257, R263) -/

/-- A port without what sending and acknowledgements change: sequence numbers sent, credits, naks, what waits to be sent or acknowledged, and requests
without a response. -/
def Port.link (x : Port) : Port :=
  { x with
    nak := false, naks := 0, owed := Vector.replicate 6 0, txSeq := 0, replay := [], replays := 0, credits := Vector.replicate 6 0
    tx := Vector.replicate 6 [], sinceSide := 0, sideTx := [], out := [] }

/-- A port has a link: it is ACTIVE, retrains or flushes. -/
def Port.up (x : Port) : Prop := x.carries = true ∨ x.state = .flush

/-- `y` is `x` after it has sent and after work of the engines has ended: its link is the same and its kept flits are still kept, and without a link
nothing has changed but requests that were taken back. -/
structure Port.GoesOn (x y : Port) : Prop where
  link : y.link = x.link
  replay : x.replay <+: y.replay
  still : ¬x.up → y = { x with out := y.out, tx := y.tx }
  out : ¬x.up → x.out = [] → y.out = []
  tx : ¬x.up → ∀ v : Fin 6, x.tx[v] = [] → y.tx[v] = []

section
variable {x y z : Port}

theorem Port.state_of_link (h : y.link = x.link) : y.state = x.state := (congrArg Port.state h :)
theorem Port.flush_of_link (h : y.link = x.link) : y.flush = x.flush := (congrArg Port.flush h :)
theorem Port.requests_of_link (h : y.link = x.link) : y.requests = x.requests := (congrArg Port.requests h :)

theorem Port.up_of_link (h : y.link = x.link) : y.up ↔ x.up := by
  unfold Port.up Port.carries
  rw [Port.state_of_link h]

theorem Port.not_up (h : x.state = .disabled ∨ x.state = .down) : ¬x.up := by
  unfold Port.up Port.carries
  rcases h with h | h
  · rw [h]
    decide
  · rw [h]
    decide

theorem Port.up_of_sends (h : ¬(x.state ≠ .active ∧ x.state ≠ .flush)) : x.up := by
  by_cases hactive : x.state = .active
  · exact .inl (decide_eq_true (.inl hactive))
  · exact .inr (not_not.1 fun hflush => h ⟨hactive, hflush⟩)

theorem Port.GoesOn.refl (x : Port) : x.GoesOn x := ⟨rfl, List.prefix_rfl, fun _ => rfl, fun _ => id, fun _ _ => id⟩

theorem Port.GoesOn.trans (h : x.GoesOn y) (k : y.GoesOn z) : x.GoesOn z := by
  have hup : ¬x.up → ¬y.up := fun hx => (Port.up_of_link h.link).not.2 hx
  refine ⟨k.link.trans h.link, h.replay.trans k.replay, fun hx => ?_, fun hx => k.out (hup hx) ∘ h.out hx, fun hx v => k.tx (hup hx) v ∘ h.tx hx v⟩
  conv_lhs => rw [k.still (hup hx), h.still hx]

/-- A port that has a link goes on where its link stays and its kept flits are still kept. -/
theorem Port.GoesOn.of_up (hup : x.up) (hlink : y.link = x.link) (hreplay : x.replay <+: y.replay) : x.GoesOn y :=
  ⟨hlink, hreplay, fun h => absurd hup h, fun h => absurd hup h, fun h => absurd hup h⟩

/-- Without a link, requests or data to send, nothing of a port changes. -/
theorem Port.GoesOn.eq_of_idle (h : x.GoesOn y) (hup : ¬x.up) (hout : x.out = []) (htx : x.tx = Vector.replicate 6 []) : y = x := by
  have hytx : y.tx = x.tx := by
    ext1 i hi
    have hx : x.tx[i] = [] := by simp [htx]
    rw [hx]
    exact h.tx hup ⟨i, hi⟩ hx
  rw [h.still hup, h.out hup hout, hytx, ← hout]

end

/-- Every port of `t` is the one of `s` gone on. -/
structure State.PortsGoOn (s t : State) : Prop where
  port : ∀ p : Fin 20, s.ports[p].GoesOn t.ports[p]

section
variable {s t u : State} {p : Fin 20}

theorem State.portsGoOn_of_ports (h : t.ports = s.ports) : s.PortsGoOn t := ⟨fun p => by
  rw [h]
  exact .refl _⟩

theorem State.portsGoOn_setFleet (h : s.PortsGoOn t) (f : Fleet) : s.PortsGoOn (t.setFleet f) := ⟨h.port⟩

theorem State.portsGoOn_refl (s : State) : s.PortsGoOn s := State.portsGoOn_of_ports rfl

theorem State.portsGoOn_trans (h : s.PortsGoOn t) (k : t.PortsGoOn u) : s.PortsGoOn u := ⟨fun p => (h.port p).trans (k.port p)⟩

theorem State.portsGoOn_ite {c : Prop} [Decidable c] (ht : s.PortsGoOn t) (hu : s.PortsGoOn u) : s.PortsGoOn (if c then t else u) := by
  split
  · exact ht
  · exact hu

theorem State.portsGoOn_foldl {α : Type} {f : State → α → State} (hf : ∀ (s : State) (a : α), s.PortsGoOn (f s a)) (l : List α) (s : State) :
    s.PortsGoOn (l.foldl f s) :=
  List.foldlRecOn l f (motive := fun t => s.PortsGoOn t) s.portsGoOn_refl fun _ ht a _ => State.portsGoOn_trans ht (hf _ a)

theorem State.setPort_other {p' : Fin 20} (h : p' ≠ p) (x : Port) : (s.setPort p x).ports[p'] = s.ports[p'] := by
  have hne : p.val ≠ p'.val := fun k => h (Fin.ext k.symm)
  simp [State.setPort, Vector.getElem_set_ne _ _ hne]

theorem State.portsGoOn_setPort {x : Port} (h : s.ports[p].GoesOn x) : s.PortsGoOn (s.setPort p x) := by
  refine ⟨fun p' => ?_⟩
  by_cases hp : p' = p
  · subst hp
    rwa [State.setPort_at]
  · rw [State.setPort_other hp]
    exact .refl _

theorem State.up_of_portsGoOn (h : s.PortsGoOn t) (hup : s.ports[p].up) : t.ports[p].up := (Port.up_of_link (h.port p).link).2 hup

end

/-! ## Sending -/

section
variable {s : State} {p : Fin 20} (hup : s.ports[p].up)
include hup

theorem State.sendFlit_portsGoOn (ftype : BitVec 8) (vc : Nat) (seq : BitVec 12) (payload : List Byte) :
    s.PortsGoOn (s.sendFlit p ftype vc seq payload) := by
  unfold State.sendFlit
  refine State.portsGoOn_trans (State.portsGoOn_setPort (.of_up hup ?_ ?_)) (State.portsGoOn_of_ports rfl)
  · exact rfl
  · exact List.prefix_rfl

theorem State.sendKept_portsGoOn (ftype : BitVec 8) (vc : Nat) (payload : List Byte) : s.PortsGoOn (s.sendKept p ftype vc payload) := by
  have hkept := State.portsGoOn_setPort (.of_up hup (y := { s.ports[p] with
    txSeq := s.ports[p].txSeq + 1, replay := s.ports[p].replay ++ [(s.ports[p].txSeq, ftype, vc, payload)] }) rfl (List.prefix_append ..))
  unfold State.sendKept
  exact State.portsGoOn_trans hkept (State.sendFlit_portsGoOn (State.up_of_portsGoOn hkept hup) ..)

/-- What waits to be sent changes, and then a kept flit leaves. -/
theorem State.setPort_sendKept_portsGoOn {x : Port} (hlink : x.link = s.ports[p].link) (hreplay : x.replay = s.ports[p].replay)
    (ftype : BitVec 8) (vc : Nat) (payload : List Byte) : s.PortsGoOn ((s.setPort p x).sendKept p ftype vc payload) := by
  have hset := State.portsGoOn_setPort (.of_up hup hlink (hreplay ▸ List.prefix_rfl))
  exact State.portsGoOn_trans hset (State.sendKept_portsGoOn (State.up_of_portsGoOn hset hup) ..)

omit hup in
theorem State.pumpOne_portsGoOn {t : State} (h : s.pumpOne p = some t) : s.PortsGoOn t := by
  unfold State.pumpOne at h
  dsimp only at h
  split at h
  · cases h
  · rename_i hgoes
    have hup := Port.up_of_sends (not_or.1 hgoes).1
    have hmessage : ∀ m rest, s.PortsGoOn (s.sendMessage p m rest) := by
      intro m rest
      unfold State.sendMessage
      refine State.setPort_sendKept_portsGoOn hup ?_ ?_ ..
      · exact rfl
      · exact rfl
    have hdata : ∀ v, s.PortsGoOn (s.sendData p v) := by
      intro v
      unfold State.sendData
      refine State.setPort_sendKept_portsGoOn hup ?_ ?_ ..
      · exact rfl
      · exact rfl
    split at h
    · cases h
      exact hmessage _ _
    · split at h
      · cases h
        exact hmessage _ _
      · cases h
        exact hdata _
    · cases h
      exact hdata _
    · cases h

omit hup in
theorem State.pumpN_portsGoOn (s : State) (p : Fin 20) (n : Nat) : s.PortsGoOn (s.pumpN p n) := by
  induction n generalizing s with
  | zero => exact s.portsGoOn_refl
  | succ n ih =>
    unfold State.pumpN
    cases h : s.pumpOne p with
    | none => exact s.portsGoOn_refl
    | some t => exact State.portsGoOn_trans (State.pumpOne_portsGoOn h) (ih t)

omit hup in
theorem State.pump_portsGoOn (s : State) (p : Fin 20) : s.PortsGoOn (s.pump p) := s.pumpN_portsGoOn p 512

theorem State.sendTrans_portsGoOn (v : Fin 6) (bytes : List Byte) : s.PortsGoOn (s.sendTrans p v bytes) := by
  unfold State.sendTrans
  refine State.portsGoOn_trans (State.portsGoOn_setPort (.of_up hup ?_ ?_)) (State.pump_portsGoOn ..)
  · exact rfl
  · exact List.prefix_rfl

theorem State.sendSide_portsGoOn (m : List Byte) : s.PortsGoOn (s.sendSide p m) := by
  unfold State.sendSide
  refine State.portsGoOn_trans (State.portsGoOn_setPort (.of_up hup ?_ ?_)) (State.pump_portsGoOn ..)
  · exact rfl
  · exact List.prefix_rfl

end

section
variable (s : State)

theorem State.sendRequest_portsGoOn (p : Fin 20) (ttype flags dest op tag addr : Nat) (data : List Byte) (why : OutFor) :
    s.PortsGoOn ((s.sendRequest p ttype flags dest op tag addr data why).getD s) := by
  unfold State.sendRequest
  dsimp only
  split
  · rename_i hcarries
    have hset : s.PortsGoOn (s.setPort p { s.ports[p] with
        out := s.ports[p].out ++ [{ tag := BitVec.ofNat 16 tag, dest := dest, ttype := BitVec.ofNat 8 ttype, purpose := why }] }) :=
      State.portsGoOn_setPort (.of_up (.inl hcarries) rfl List.prefix_rfl)
    exact State.portsGoOn_trans hset (State.sendTrans_portsGoOn (State.up_of_portsGoOn hset (.inl hcarries)) ..)
  · exact s.portsGoOn_refl

theorem State.sendTo_portsGoOn (mtype dest : Nat) (body : List Byte) : s.PortsGoOn (s.sendTo mtype dest body) := by
  unfold State.sendTo
  cases s.egress dest with
  | none => exact s.portsGoOn_refl
  | some p =>
    dsimp only
    split
    · rename_i hcarries
      have hmessage : s.PortsGoOn (s.message mtype (s.portId p) dest body).1 := State.portsGoOn_of_ports rfl
      exact State.portsGoOn_trans hmessage (State.sendSide_portsGoOn (State.up_of_portsGoOn hmessage (.inl hcarries)) _)
    · exact s.portsGoOn_refl

theorem State.sendLease_portsGoOn (mtype w : Nat) (body : List Byte) : s.PortsGoOn (s.sendLease mtype w body) := by
  unfold State.sendLease
  refine State.portsGoOn_ite ?_ (s.sendTo_portsGoOn ..)
  split
  · exact State.portsGoOn_of_ports ((State.ports_of_hostsOnly (State.leaseEvent_hostsOnly ..)).trans rfl)
  · exact s.portsGoOn_refl

theorem State.sendAborts_portsGoOn (c : Collective) (code : Nat) : s.PortsGoOn (s.sendAborts c code) := by
  unfold State.sendAborts
  refine State.portsGoOn_foldl (fun u i => ?_) _ _
  split
  · exact u.sendRequest_portsGoOn ..
  · exact u.portsGoOn_refl

theorem State.askPromotion_portsGoOn : s.PortsGoOn s.askPromotion := by
  unfold State.askPromotion
  refine State.portsGoOn_trans ?_ (State.portsGoOn_foldl (fun u t => u.sendLease_portsGoOn ..) _ _)
  exact State.portsGoOn_of_ports rfl

theorem State.record_ports (typ : Nat) (cls : LogClass) (rep : Bool) (subject : Nat) (detail : List Byte) :
    (s.record typ cls rep subject detail).ports = s.ports := by
  obtain ⟨_, _, h⟩ := s.record_frame typ cls rep subject detail
  rw [h]

theorem State.report_ports (code index : Nat) : (s.report code index).ports = s.ports := State.ports_of_hostsOnly (s.report_hostsOnly ..)

/-! ## The ends of the engines' work -/

theorem State.padWrite_ports (t off : Nat) (bytes : List Byte) : (s.padWrite t off bytes).ports = s.ports := by
  have hcatch : (s.matrixCatchUp t).ports = s.ports := by
    unfold State.matrixCatchUp
    dsimp only
    split
    · exact kept_ite rfl rfl
    · rfl
  have hword : ∀ (u : State) (w : Nat), (u.padUncorrectable t w).ports = u.ports := fun u w => (State.record_ports ..).trans rfl
  unfold State.padWrite
  exact (kept_foldl (g := State.ports) hword _ _).trans hcatch

theorem State.settle_ports (t : Nat) : (s.settle t).ports = s.ports := by
  obtain ⟨h, -⟩ := s.settle_onlyWakes t
  generalize s.settle t = u at h
  exact (congrArg State.ports h :)

theorem State.spoil_ports (c : Collective) : (s.spoil c).ports = s.ports := by
  unfold State.spoil
  refine kept_ite (g := State.ports) rfl ?_
  split
  · exact (State.settle_ports ..).trans ((State.padWrite_ports ..).trans rfl)
  · rfl

theorem State.complete_ports (q : Fin 64) (c : Completion) : (s.complete q c).ports = s.ports := by
  unfold State.complete
  dsimp only
  split
  · rfl
  · split
    · rfl
    · rfl

theorem State.orphans_portsGoOn (is : OutFor → Bool) : s.PortsGoOn (s.orphans is) := by
  refine ⟨fun p => ?_⟩
  have hport : (s.orphans is).ports[p] = { s.ports[p] with
      out := s.ports[p].out.map (fun (r : OutReq) => if is r.purpose then { r with purpose := .gone } else r) } := by simp [State.orphans]
  rw [hport]
  exact ⟨rfl, List.prefix_rfl, fun _ => rfl, fun _ h => by rw [show s.ports[p].out = [] from h]; rfl, fun _ _ => id⟩

theorem State.cutCopy_portsGoOn : s.PortsGoOn s.cutCopy := by
  have hcut : ∀ l, s.ports[(19 : Fin 20)].GoesOn { s.ports[(19 : Fin 20)] with
      tx := s.ports[(19 : Fin 20)].tx.set 0 (s.ports[(19 : Fin 20)].tx[(0 : Fin 6)].filter (fun t => !t.ofCopy))
      out := s.ports[(19 : Fin 20)].out.filter l } := by
    refine fun l => ⟨rfl, List.prefix_rfl, fun _ => rfl, fun _ h => ?_, fun _ v hv => ?_⟩
    · exact (congrArg (List.filter l) h).trans rfl
    · by_cases h0 : v = 0
      · subst h0
        simpa using (congrArg (List.filter fun t => !t.ofCopy) hv : _ = List.filter _ [])
      have hne : (0 : Nat) ≠ v.val := fun k => h0 (Fin.ext k.symm)
      simpa [Vector.getElem_set_ne _ _ hne] using hv
  exact State.portsGoOn_trans (State.portsGoOn_setPort (hcut _)) (State.portsGoOn_of_ports rfl)

theorem State.failColl_portsGoOn (q : Fin 64) (code detail : Nat) : s.PortsGoOn (s.failColl q code detail) := by
  unfold State.failColl
  split
  · exact s.portsGoOn_refl
  · have haborts : ∀ c, s.PortsGoOn (if code = 0x10A then s else s.sendAborts c code) :=
      fun c => State.portsGoOn_ite s.portsGoOn_refl (s.sendAborts_portsGoOn c code)
    refine State.portsGoOn_trans ?_ (State.portsGoOn_of_ports (State.complete_ports ..))
    refine State.portsGoOn_setFleet (State.portsGoOn_trans ?_ (State.orphans_portsGoOn ..)) _
    exact State.portsGoOn_trans (haborts _) (State.portsGoOn_of_ports (State.spoil_ports ..))

theorem State.activateAt_portsGoOn (step : BitVec 64) : s.PortsGoOn (s.activateAt step) := by
  have htwins : ∀ b, s.PortsGoOn (s.activateTwins b) := by
    intro b
    unfold State.activateTwins
    refine State.portsGoOn_trans ?_ (State.portsGoOn_foldl (fun u t => u.sendLease_portsGoOn ..) _ _)
    exact State.portsGoOn_setFleet (State.portsGoOn_foldl (fun u h => u.sendLease_portsGoOn ..) _ _) _
  have hactivate : ∀ c, s.PortsGoOn (s.activate c) :=
    fun c => State.portsGoOn_trans (htwins c.blocks) (State.portsGoOn_of_ports (State.report_ports ..))
  unfold State.activateAt
  split
  · exact State.portsGoOn_ite s.portsGoOn_refl
      (State.portsGoOn_ite (State.portsGoOn_trans (hactivate _) (State.portsGoOn_of_ports (State.record_ports ..))) (hactivate _))
  · exact s.portsGoOn_refl

theorem State.endTwin_portsGoOn (ok : Bool) : s.PortsGoOn (s.endTwin ok) := by
  have hend : ∀ (u : State) (q : Fin 64) (step : BitVec 64) (n : Nat), u.PortsGoOn (u.endStep q step n) := fun u q step n =>
    State.portsGoOn_trans (u.activateAt_portsGoOn step) (State.portsGoOn_of_ports (State.complete_ports ..))
  unfold State.endTwin
  split
  · exact s.portsGoOn_refl
  · have hcut : s.PortsGoOn (if ok then s else s.cutCopy) := State.portsGoOn_ite s.portsGoOn_refl s.cutCopy_portsGoOn
    have horphans := fun f => State.portsGoOn_trans (State.portsGoOn_setFleet hcut f) (State.orphans_portsGoOn _ OutFor.isTwin)
    exact State.portsGoOn_ite (horphans _) (State.portsGoOn_trans (horphans _) (hend ..))

theorem State.endColl_ports (q : Fin 64) : (s.endColl q).ports = s.ports := by
  unfold State.endColl
  split
  · rfl
  · exact kept_ite (State.complete_ports ..) rfl

theorem State.endRequest_portsGoOn (p : Fin 20) (r : OutReq) (e : Ending) : s.PortsGoOn (s.endRequest p r e) := by
  unfold State.endRequest
  split
  · exact s.portsGoOn_refl
  · refine State.portsGoOn_ite ?_ (s.failColl_portsGoOn ..)
    split
    · exact State.portsGoOn_of_ports (State.endColl_ports ..)
    · exact s.portsGoOn_refl
  · split
    · exact s.portsGoOn_refl
    · exact State.portsGoOn_ite (s.endTwin_portsGoOn false)
        (State.portsGoOn_ite (State.portsGoOn_trans (State.portsGoOn_setFleet s.portsGoOn_refl _) (State.endTwin_portsGoOn _ true))
          (State.portsGoOn_setFleet s.portsGoOn_refl _))

theorem State.endRequests_portsGoOn (p : Fin 20) (l : List OutReq) (e : Ending) : s.PortsGoOn (s.endRequests p l e) :=
  State.portsGoOn_foldl (fun u r => u.endRequest_portsGoOn p r e) l s

theorem State.closeOut_portsGoOn (p : Fin 20) (e : Ending) (responses : List Trans) (out : List OutReq) : s.PortsGoOn (s.closeOut p e responses out) := by
  induction responses generalizing s out with
  | nil => exact s.endRequests_portsGoOn p out e
  | cons t rest ih =>
    unfold State.closeOut
    split
    · exact State.portsGoOn_trans (s.endRequest_portsGoOn ..) (ih ..)
    · exact ih ..

end

/-! ## Requests held for nothing (R258) -/

theorem State.endRequests_gone (s : State) (p : Fin 20) {l : List OutReq} (h : ∀ o ∈ l, o.purpose = .gone) (e : Ending) : s.endRequests p l e = s :=
  List.foldlRecOn l _ (motive := fun t => t = s) rfl fun t ht o ho => by rw [ht, State.endRequest_gone (h o ho)]

theorem State.closeOut_gone (s : State) (p : Fin 20) (e : Ending) (responses : List Trans) {out : List OutReq} (h : ∀ o ∈ out, o.purpose = .gone) :
    s.closeOut p e responses out = s := by
  induction responses generalizing out with
  | nil => exact s.endRequests_gone p h e
  | cons t rest ih =>
    unfold State.closeOut
    split
    · rename_i r hr
      rw [State.endRequest_gone (h r (List.mem_of_find?_eq_some hr))]
      exact ih fun o ho => h o (List.mem_of_mem_eraseP ho)
    · exact ih h

/-- A port whose requests are all held for nothing is DISABLED, and nothing else changes. -/
theorem State.portOff_gone {s : State} {p : Fin 20} (h : ∀ o ∈ s.ports[p].out, o.purpose = .gone) : s.portOff p =
    s.setPort p { s.ports[p].cleared with state := .disabled, out := [], requests := unheld [] s.ports[p].requests, responses := [] } :=
  State.closeOut_gone _ p _ _ h

end Sys2Proof.Machine
end

section
/-! SUPPORT. Flits as they leave a port: their fields, their CRC, and what sending one changes (R243–R249). -/

namespace Sys2Proof.Machine

open Sys2Proof

/-! ## The bytes of a flit (R243) -/

section
variable (ftype ctl seq ack credit : Nat) (l : List Byte)

theorem tfield_flitOf_type : tfield (flitOf ftype ctl seq ack credit l) 0 1 = ftype % 256 := by
  have hfirst : tfield (flitOf ftype ctl seq ack credit l) 0 1 = leNat (natLe 1 ftype) := rfl
  rw [hfirst, leNat_natLe]
  rfl

theorem tfield_flitOf_ctl : tfield (flitOf ftype ctl seq ack credit l) 1 1 = ctl % 256 := by
  have hsecond : tfield (flitOf ftype ctl seq ack credit l) 1 1 = leNat (natLe 1 ctl) := rfl
  rw [hsecond, leNat_natLe]
  rfl

/-- The payload of a flit, filled up with zeros, and its CRC. -/
theorem drop_flitOf : ∃ crc : List Byte, (flitOf ftype ctl seq ack credit l).drop 8 = (l ++ List.replicate (240 - l.length) 0) ++ crc := ⟨_, rfl⟩

theorem take_flitOf_payload : ((flitOf ftype ctl seq ack credit l).drop 8).take l.length = l := by
  obtain ⟨crc, h⟩ := drop_flitOf ftype ctl seq ack credit l
  rw [h, List.append_assoc, List.take_left]

/-- A field of the payload of a flit. -/
theorem tfield_flitOf_payload {off n : Nat} (h : off + n ≤ l.length) : tfield (flitOf ftype ctl seq ack credit l) (8 + off) n = tfield l off n := by
  obtain ⟨crc, hdrop⟩ := drop_flitOf ftype ctl seq ack credit l
  unfold tfield
  rw [← List.drop_drop, hdrop, List.append_assoc, List.drop_append_of_le_length (by omega),
    List.take_append_of_le_length (by rw [List.length_drop]; omega)]

variable {l} (hl : l.length ≤ 240)
include hl

theorem flitGood_flitOf : flitGood (flitOf ftype ctl seq ack credit l) = true := by
  obtain ⟨body, hbody, hflit⟩ : ∃ body : List Byte, body.length = 248 ∧
      flitOf ftype ctl seq ack credit l = body ++ natLe 8 (crc64 body).toNat := by
    refine ⟨_, ?_, rfl⟩
    simp only [List.length_append, natLe_length, List.length_replicate]
    omega
  have hcrc : leNat (natLe 8 (crc64 body).toNat) = (crc64 body).toNat := by
    rw [leNat_natLe]
    exact Nat.mod_eq_of_lt (BitVec.isLt _)
  unfold flitGood
  rw [hflit, List.drop_left' hbody, List.take_left' hbody, hcrc, List.length_append, natLe_length, hbody]
  simp

end

/-! ## Sending -/

/-- A flit of a type that carries a payload, with a nak where one is due (R243, R246). -/
def Carries (f : List Byte) (ftype : BitVec 8) (nak : Bool) (vc : Nat) (l : List Byte) : Prop :=
  flitGood f = true ∧ tfield f 0 1 = ftype.toNat ∧ tfield f 1 1 = (b2n nak + 2 * vc) % 256 ∧ (f.drop 8).take l.length = l ∧
  ∀ off n, off + n ≤ l.length → tfield f (8 + off) n = tfield l off n

section
variable (s : State) (p : Fin 20)

theorem State.sendFlit_out (ftype : BitVec 8) (vc : Nat) (seq : BitVec 12) {l : List Byte} (hl : l.length ≤ 240) :
    ∃ f, (s.sendFlit p ftype vc seq l).out = s.out ++ [.flit p f] ∧ Carries f ftype s.ports[p].nak vc l := by
  refine ⟨_, rfl, flitGood_flitOf _ _ _ _ _ hl, ?_, tfield_flitOf_ctl .., take_flitOf_payload .., fun off n h => tfield_flitOf_payload _ _ _ _ _ _ h⟩
  rw [tfield_flitOf_type]
  exact Nat.mod_eq_of_lt ftype.isLt

/-- A port that sends a flit has no nak due, and returns credits. -/
theorem State.sendFlit_port (ftype : BitVec 8) (vc : Nat) (seq : BitVec 12) (l : List Byte) :
    ∃ owed, (s.sendFlit p ftype vc seq l).ports[p] = { s.ports[p] with nak := false, owed := owed } := ⟨_, State.setPort_at ..⟩

theorem State.sendKept_out (ftype : BitVec 8) (vc : Nat) {l : List Byte} (hl : l.length ≤ 240) :
    ∃ f, (s.sendKept p ftype vc l).out = s.out ++ [.flit p f] ∧ Carries f ftype s.ports[p].nak vc l := by
  have hsent := (s.setPort p { s.ports[p] with
    txSeq := s.ports[p].txSeq + 1, replay := s.ports[p].replay ++ [(s.ports[p].txSeq, ftype, vc, l)] }).sendFlit_out p ftype vc s.ports[p].txSeq hl
  rw [State.setPort_at] at hsent
  exact hsent

theorem State.sendKept_port (ftype : BitVec 8) (vc : Nat) (l : List Byte) : ∃ owed, (s.sendKept p ftype vc l).ports[p] = { s.ports[p] with
    txSeq := s.ports[p].txSeq + 1, replay := s.ports[p].replay ++ [(s.ports[p].txSeq, ftype, vc, l)], nak := false, owed := owed } := by
  have hport := (s.setPort p { s.ports[p] with
    txSeq := s.ports[p].txSeq + 1, replay := s.ports[p].replay ++ [(s.ports[p].txSeq, ftype, vc, l)] }).sendFlit_port p ftype vc s.ports[p].txSeq l
  rw [State.setPort_at] at hport
  exact hport

section
variable {s p} (htx : ∀ v : Fin 6, s.ports[p].tx[v] = [])
include htx

/-- No channel has data that can go. -/
theorem State.noneReady : (List.finRange 6).find? (fun v => !s.ports[p].tx[v].isEmpty && decide (15 ≤ s.ports[p].credits[v])) = none :=
  List.find?_eq_none.2 fun v _ => by rw [htx v]; simp

/-- With nothing that waits to be sent, a port sends nothing. -/
theorem State.pumpN_none (hside : s.ports[p].sideTx = []) (n : Nat) : s.pumpN p n = s := by
  cases n with
  | zero => rfl
  | succ n =>
    have hone : s.pumpOne p = none := by
      unfold State.pumpOne
      dsimp only
      rw [State.noneReady htx, hside]
      exact ite_self _
    rw [State.pumpN, hone]

/-- A sideband message goes at once where no data can go. -/
theorem State.pumpOne_message {m : List Byte} {rest : List (List Byte)} (hside : s.ports[p].sideTx = m :: rest)
    (hstate : s.ports[p].state = .active ∨ s.ports[p].state = .flush) (hroom : s.ports[p].replay.length < 512) :
    s.pumpOne p = some (s.sendMessage p m rest) := by
  unfold State.pumpOne
  dsimp only
  rw [if_neg (by grind), State.noneReady htx, hside]

end

theorem State.sendMessage_out {m : List Byte} (hm : m.length ≤ 240) (rest : List (List Byte)) :
    ∃ f, (s.sendMessage p m rest).out = s.out ++ [.flit p f] ∧ Carries f 2 s.ports[p].nak 0 m := by
  have hsent := (s.setPort p { s.ports[p] with sideTx := rest, sinceSide := 0 }).sendKept_out p 2 0 hm
  rw [State.setPort_at] at hsent
  exact hsent

theorem State.sendMessage_port (m : List Byte) (rest : List (List Byte)) : ∃ owed, (s.sendMessage p m rest).ports[p] = { s.ports[p] with
    sideTx := rest, sinceSide := 0, txSeq := s.ports[p].txSeq + 1, replay := s.ports[p].replay ++ [(s.ports[p].txSeq, 2, 0, m)], nak := false
    owed := owed } := by
  have hport := (s.setPort p { s.ports[p] with sideTx := rest, sinceSide := 0 }).sendKept_port p 2 0 m
  rw [State.setPort_at] at hport
  exact hport

/-- A port on which nothing waits sends a sideband message at once, and nothing else. -/
theorem State.sendSide_alone {s : State} {p : Fin 20} (hstate : s.ports[p].state = .active ∨ s.ports[p].state = .flush)
    (hroom : s.ports[p].replay.length < 512) (hside : s.ports[p].sideTx = []) (htx : ∀ v : Fin 6, s.ports[p].tx[v] = []) (m : List Byte) :
    s.sendSide p m = (s.setPort p { s.ports[p] with sideTx := [m] }).sendMessage p m [] := by
  obtain ⟨u, hu⟩ : ∃ u, u = s.setPort p { s.ports[p] with sideTx := [m] } := ⟨_, rfl⟩
  have hport : u.ports[p] = { s.ports[p] with sideTx := [m] } := by rw [hu, State.setPort_at]
  have hone : u.pumpOne p = some (u.sendMessage p m []) :=
    State.pumpOne_message (by rw [hport]; exact htx) (by rw [hport]) (by rw [hport]; exact hstate) (by rw [hport]; exact hroom)
  obtain ⟨owed, hsent⟩ := u.sendMessage_port p m []
  rw [State.sendSide, hside, List.nil_append, ← hu, State.pump, State.pumpN, hone]
  refine State.pumpN_none ?_ ?_ _
  · rw [hsent, hport]
    exact htx
  · rw [hsent]

end

/-! ## Tombstones (R263) -/

/-- A flushing port as its tombstone leaves: requests without a response end, and what waits on its channels is dropped. -/
def Port.entomb (x : Port) (f : Flush) : Port :=
  { x with out := answeredBy x.responses x.out, tx := Vector.replicate 6 [], flush := some { f with sent := some x.txSeq } }

/-- A tombstone of a port that flushes for a reason. -/
def State.tombstone (s : State) (p : Fin 20) (reason : BitVec 8) : State × List Byte :=
  s.message 0x20 (s.portId p) (bits s.ports[p].peer.toNat 11 0)
    (natLe 1 p ++ natLe 1 reason.toNat ++ List.replicate 6 0 ++ natLe 8 s.fleet.epoch.toNat)

section
variable {s : State} {p : Fin 20} {f : Flush} (hf : s.ports[p].flush = some f) (hsent : f.sent = none)
include hf hsent

theorem State.sendTombstone_eq : s.sendTombstone p =
    (((s.setPort p (s.ports[p].entomb f)).endRequests p (unansweredBy s.ports[p].responses s.ports[p].out) .portDisabled).tombstone p f.reason).1.sendSide p
      (((s.setPort p (s.ports[p].entomb f)).endRequests p (unansweredBy s.ports[p].responses s.ports[p].out) .portDisabled).tombstone p f.reason).2 := by
  unfold State.sendTombstone
  dsimp only
  rw [hf]
  exact if_neg (by rw [hsent]; decide)

/-- A flush that sends its tombstone keeps its link, and notes the number of the tombstone's flit. -/
theorem State.sendTombstone_link (hstate : s.ports[p].state = .flush) : (s.sendTombstone p).ports[p].link = (s.ports[p].entomb f).link := by
  rw [State.sendTombstone_eq hf hsent]
  have hset : (s.setPort p (s.ports[p].entomb f)).ports[p] = s.ports[p].entomb f := State.setPort_at ..
  have hends := State.endRequests_portsGoOn (s.setPort p (s.ports[p].entomb f)) p (unansweredBy s.ports[p].responses s.ports[p].out) .portDisabled
  generalize State.endRequests _ p _ _ = u at hends
  have hlink : u.ports[p].link = (s.ports[p].entomb f).link := (hends.port p).link.trans (by rw [hset])
  have hup : (u.tombstone p f.reason).1.ports[p].up := .inr ((Port.state_of_link hlink).trans hstate)
  exact ((State.sendSide_portsGoOn hup _).port p).link.trans hlink

end

/-! ## Codewords (R269) -/

theorem State.setPort_self (s : State) (p : Fin 20) : s.setPort p s.ports[p] = s := by
  unfold State.setPort
  rw [Fin.getElem_fin, Vector.set_getElem_self]

/-- Clean codewords leave every counter as it is. -/
theorem State.countFec_clean (s : State) (p : Fin 20) : s.countFec p .clean = s := by
  have hcount : ∀ c : BitVec 64, countUp c 0 = c := by
    intro c
    have hc : c.toNat ≤ 2 ^ 64 - 1 := Nat.le_sub_one_of_lt c.isLt
    rw [countUp, Nat.add_zero, min_eq_right hc, BitVec.ofNat_toNat, BitVec.setWidth_eq]
  have hport : { s.ports[p] with
    fecCorr := countUp s.ports[p].fecCorr 0, fecUncorr := countUp s.ports[p].fecUncorr 0, badWords := s.ports[p].badWords } = s.ports[p] := by
    rw [hcount, hcount]
  exact (congrArg (s.setPort p) hport).trans (s.setPort_self p)

end Sys2Proof.Machine
end

section
/-! The obligation about a port's commands, the detection of its cable, training and negotiation (R238, R240–R242, R263, R265, R267, R587). -/

namespace Sys2Proof.Machine

open Sys2Proof

/-! ## Commands (R240, R263, R265) -/

section
variable (s : State) (p : Fin 20)

/-- The state in which a command that stands in BX_Pp_CTRL acts. -/
def State.commanded (n : Nat) : State := s.setReg .A (pReg p) (BitVec.ofNat 64 n)

theorem State.portWrite_enable : s.portWrite p 1 = if s.ports[p].broken = false ∧ (s.ports[p].state = .disabled ∨ s.ports[p].state = .down)
    then (s.commanded p 1).setPort p { s.ports[p].cleared with state := .detect } else (s.commanded p 1).flag bxStatus 1 := by
  have hwrite : s.portWrite p 1 = (s.commanded p 1).portCommand p 1 := rfl
  have hports : (s.commanded p 1).ports = s.ports := rfl
  rw [hwrite, State.portCommand, if_pos rfl, hports]
  dsimp only
  by_cases hbroken : s.ports[p].broken = true
  · rw [if_pos hbroken, if_neg fun h => absurd (hbroken.symm.trans h.1) (by decide)]
    rfl
  · rw [if_neg hbroken]
    have hsound : s.ports[p].broken = false := Bool.eq_false_of_not_eq_true hbroken
    cases hstate : s.ports[p].state
    case disabled | down => exact (if_pos ⟨hsound, by decide⟩).symm
    all_goals exact (if_neg fun h => absurd h.2 (by decide)).symm

section
variable {s p} {n : Nat} (hn : n = 2 ∨ n = 3)
include hn

theorem State.portWrite_disabled (hstate : s.ports[p].state = .disabled) : s.portWrite p n = (s.commanded p n).flag bxStatus 1 := by
  have hwrite : s.portWrite p n = (s.commanded p n).portCommand p n := rfl
  have hports : (s.commanded p n).ports = s.ports := rfl
  rw [hwrite, State.portCommand, if_neg (by omega), if_pos hn, hports, hstate]
  rfl

theorem State.portWrite_active (hstate : s.ports[p].state = .active) :
    s.portWrite p n = (s.commanded p n).beginFlush p (if n = 2 then 1 else 4) (n == 3) := by
  have hwrite : s.portWrite p n = (s.commanded p n).portCommand p n := rfl
  have hports : (s.commanded p n).ports = s.ports := rfl
  rw [hwrite, State.portCommand, if_neg (by omega), if_pos hn, hports, hstate]

theorem State.portWrite_flush (hstate : s.ports[p].state = .flush) : s.portWrite p n = s.commanded p n := by
  have hwrite : s.portWrite p n = (s.commanded p n).portCommand p n := rfl
  have hports : (s.commanded p n).ports = s.ports := rfl
  rw [hwrite, State.portCommand, if_neg (by omega), if_pos hn, hports, hstate]

/-- A port that is neither DISABLED nor ACTIVE nor flushes goes to DISABLED at once. -/
theorem State.portWrite_off (hstate : s.ports[p].state ∉ [.disabled, .active, .flush]) (hgone : ∀ o ∈ s.ports[p].out, o.purpose = .gone) :
    s.portWrite p n = (s.commanded p n).setPort p
      { s.ports[p].cleared with state := .disabled, out := [], requests := unheld [] s.ports[p].requests, responses := [] } := by
  have hoff : s.portWrite p n = (s.commanded p n).portOff p := by
    have hwrite : s.portWrite p n = (s.commanded p n).portCommand p n := rfl
    have hports : (s.commanded p n).ports = s.ports := rfl
    rw [hwrite, State.portCommand, if_neg (by omega), if_pos hn, hports]
    cases hx : s.ports[p].state
    case disabled | active | flush => exact absurd hstate (by rw [hx]; decide)
    all_goals rfl
  rw [hoff]
  exact State.portOff_gone (s := s.commanded p n) hgone

end

/-- A forced flush sends its tombstone at once. -/
theorem State.beginFlush_forced (reason : BitVec 8) : (s.beginFlush p reason true).ports[p].state = .flush ∧
    (s.beginFlush p reason true).ports[p].flush = some { reason := reason, sent := some s.ports[p].txSeq } := by
  obtain ⟨u, hu⟩ : ∃ u, u = s.setPort p { s.ports[p] with state := .flush, flush := some { reason := reason, sent := none } } := ⟨_, rfl⟩
  have hport : u.ports[p] = { s.ports[p] with state := .flush, flush := some { reason := reason, sent := none } } := by rw [hu, State.setPort_at]
  have hlink := State.sendTombstone_link (s := u) (p := p) (f := { reason := reason, sent := none }) (by rw [hport]) rfl (by rw [hport])
  have hbegin : s.beginFlush p reason true = u.sendTombstone p := by rw [hu]; rfl
  rw [hbegin, Port.state_of_link hlink, Port.flush_of_link hlink, hport]
  exact ⟨rfl, rfl⟩

end

/-! ## Detection (R267) -/

section
variable {s : State} {p : Fin 20} {a : CableAnswer} (hdetect : s.ports[p].state = .detect)
include hdetect

theorem exec_cableDetectAttempt_silent (h : a.answered = false ∨ s.ports[p].power = false) : exec (.cableDetectAttempt p a) s =
    .next ((s.emit (.twoWire p .p00 false)).setPort p (if s.ports[p].attempts < 2
      then { s.ports[p] with attempts := s.ports[p].attempts + 1, cable := s.ports[p].cable &&& ~~~1 }
      else { s.ports[p].cleared with cable := s.ports[p].cable &&& ~~~3, state := .down, cause := 1 })) := by
  have hsilent : (!a.answered) = true ∨ (!s.ports[p].power) = true := by simpa using h
  refine congrArg Host.Outcome.next ((if_neg (not_not_intro hdetect)).trans ((if_pos hsilent).trans ?_))
  by_cases hlast : 2 ≤ s.ports[p].attempts
  · rw [if_neg (show ¬s.ports[p].attempts < 2 from not_lt.2 hlast)]
    refine (if_pos hlast).trans ?_
    have hbits : s.ports[p].cable &&& ~~~1 &&& ~~~2 = s.ports[p].cable &&& ~~~3 := by rw [BitVec.and_assoc]; rfl
    have hdown : ∀ u : State, u.portFails p 1 = u.setPort p { u.ports[p].cleared with state := .down, cause := 1 } := fun _ => rfl
    rw [hdown, State.emit_ports, State.setPort_at, ← hbits]
    have hset : ∀ x y, ((s.setPort p x).emit (.twoWire p .p00 false)).setPort p y = (s.emit (.twoWire p .p00 false)).setPort p y := by
      intro x y
      exact State.setPort_setPort (s.emit _) p x y
    rw [hset]
    rfl
  · rw [if_pos (show s.ports[p].attempts < 2 from not_le.1 hlast)]
    exact (if_neg hlast).trans rfl

section
variable (hans : a.answered = true) (hpower : s.ports[p].power = true)
include hans hpower

/-- A cable that answers: what its list of applications leads to. -/
theorem exec_cableDetectAttempt_answered : exec (.cableDetectAttempt p a) s = .next (match a.apps.findIdx? id with
    | none => (((s.emit (.twoWire p .p00 false)).emit (.twoWire p .p01 false)).setPort p
        { s.ports[p] with cable := (s.ports[p].cable ||| 1) &&& ~~~2 }).portFails p 2
    | some n => (((((s.emit (.twoWire p .p00 false)).emit (.twoWire p .p01 false)).setPort p { s.ports[p] with
        cable := s.ports[p].cable ||| 3, attempts := 0, app := some n
        state := if 4 ≤ (List.range 8).countP (fun i => a.signal.getLsbD i) then .train else .detect }).emit
        (.twoWire p .p02 false)).emit (.twoWire p .p10 true)).emit (.twoWire p .lower true)) := by
  have hheard : ¬((!a.answered) = true ∨ (!s.ports[p].power) = true) := by
    rw [hans, hpower]
    decide
  exact congrArg Host.Outcome.next ((if_neg (not_not_intro hdetect)).trans (if_neg hheard))

theorem exec_cableDetectAttempt_unfit (hnone : ∀ b ∈ a.apps, b = false) : ∃ t, exec (.cableDetectAttempt p a) s = .next t ∧
    t.ports[p].state = .down ∧ t.ports[p].cause = 2 ∧ t.out = s.out ++ [.twoWire p .p00 false, .twoWire p .p01 false] := by
  have hfind : a.apps.findIdx? id = none := List.findIdx?_eq_none_iff.2 hnone
  refine ⟨_, exec_cableDetectAttempt_answered hdetect hans hpower, ?_⟩
  rw [hfind]
  dsimp only
  rw [State.portFails, State.setPort_at, State.setPort_at]
  refine ⟨rfl, rfl, ?_⟩
  have hout : ∀ x y, ((((s.emit (.twoWire p .p00 false)).emit (.twoWire p .p01 false)).setPort p x).setPort p y).out =
      s.out ++ [.twoWire p .p00 false] ++ [.twoWire p .p01 false] := fun _ _ => rfl
  rw [hout, List.append_assoc]
  rfl

theorem exec_cableDetectAttempt_fit {n : Nat} (hn : a.apps[n]? = some true) (hfirst : ∀ i < n, a.apps[i]? = some false) :
    exec (.cableDetectAttempt p a) s = .next { s.setPort p { s.ports[p] with
        cable := s.ports[p].cable ||| 3, attempts := 0, app := some n
        state := if 4 ≤ (List.range 8).countP (fun i => a.signal.getLsbD i) then .train else .detect } with
      out := s.out ++ [.twoWire p .p00 false, .twoWire p .p01 false, .twoWire p .p02 false, .twoWire p .p10 true, .twoWire p .lower true] } := by
  have hfind : a.apps.findIdx? id = some n := by
    obtain ⟨hlt, hget⟩ := List.getElem?_eq_some_iff.1 hn
    refine List.findIdx?_eq_some_iff_getElem.2 ⟨hlt, hget, fun j hj => ?_⟩
    obtain ⟨hjlt, hjget⟩ := List.getElem?_eq_some_iff.1 (hfirst j hj)
    simp [hjget]
  have hout : s.out ++ [.twoWire p .p00 false, .twoWire p .p01 false, .twoWire p .p02 false, .twoWire p .p10 true, .twoWire p .lower true] =
      s.out ++ [.twoWire p .p00 false] ++ [.twoWire p .p01 false] ++ [.twoWire p .p02 false] ++ [.twoWire p .p10 true] ++ [.twoWire p .lower true] := by
    simp
  rw [exec_cableDetectAttempt_answered hdetect hans hpower, hfind, hout]
  rfl

end
end

/-! ## Training (R241) -/

theorem State.trainingWord_length (s : State) (p : Fin 20) : (s.trainingWord p).length = 32 := by simp [State.trainingWord]

/-- A training flit leaves, and of its port nothing changes but what a flit carries back. -/
theorem State.sendWord_sent (s : State) (p : Fin 20) : ∃ f owed, (s.sendWord p).out = s.out ++ [.flit p f] ∧
    (s.sendWord p).ports[p] = { s.ports[p] with nak := false, owed := owed } ∧ flitGood f = true ∧ tfield f 0 1 = 3 ∧
    (f.drop 8).take 32 = (s.sendWord p).trainingWord p := by
  have hlen := s.trainingWord_length p
  obtain ⟨f, hout, hgood, htype, -, hpayload, -⟩ := s.sendFlit_out p 3 0 0 (l := s.trainingWord p) (by omega)
  obtain ⟨owed, hport⟩ := s.sendFlit_port p 3 0 0 (s.trainingWord p)
  refine ⟨f, owed, hout, hport, hgood, htype, ?_⟩
  rw [hlen] at hpayload
  rw [hpayload]
  have hid : (s.sendWord p).myId = s.myId := rfl
  unfold State.trainingWord State.sendWord
  rw [hport]
  exact hid ▸ rfl

theorem exec_trainLock_none {s : State} {p : Fin 20} {lanes precode : BitVec 8} (htrain : s.ports[p].state = .train)
    (h : linkWidth lanes (s.x4Only p) = none) : exec (.trainLock p lanes precode) s = .next (s.portFails p 7) := by
  refine congrArg Host.Outcome.next ((if_neg (not_not_intro htrain)).trans ?_)
  rw [h]

theorem exec_trainLock {s : State} {p : Fin 20} {lanes precode : BitVec 8} (htrain : s.ports[p].state = .train)
    (h : linkWidth lanes (s.x4Only p) ≠ none) : exec (.trainLock p lanes precode) s = .next ((s.setPort p { s.ports[p] with
      own := lanes, precode := precode, state := .negotiate, word := none, same := 0, seen := false }).sendWord p) := by
  obtain ⟨w, hw⟩ := Option.ne_none_iff_exists'.1 h
  refine congrArg Host.Outcome.next ((if_neg (not_not_intro htrain)).trans ?_)
  rw [hw]

/-! ## Negotiation (R242, R244) -/

section
variable {s : State} {p : Fin 20} {f : List (BitVec 8)} (hstate : s.ports[p].state = .negotiate)
include hstate

theorem exec_trainingWord_unlisted (h : flitListed f .clean = false) : exec (.trainingWord p f .clean) s = .next (s.setPort p { s.ports[p] with
    same := 0, nak := true, discard := true
    crcErr := if s.ports[p].crcErr = BitVec.allOnes 64 then s.ports[p].crcErr else s.ports[p].crcErr + 1 }) := by
  have hexec : exec (.trainingWord p f .clean) s = .next ((s.dropFlit p).setPort p { (s.dropFlit p).ports[p] with same := 0 }) := by
    change execTrainingWord p f .clean s = _
    unfold execTrainingWord
    rw [if_neg (not_not_intro hstate), State.countFec_clean, h]
    rfl
  rw [hexec]
  have hdrop : ∀ y, ((s.setPort p y).setPort p { (s.setPort p y).ports[p] with same := 0 }) = s.setPort p { y with same := 0 } := by
    intro y
    rw [State.setPort_at, State.setPort_setPort]
  exact congrArg Host.Outcome.next (hdrop _)

variable (hlisted : flitListed f .clean = true)
include hlisted

theorem exec_trainingWord_unfit (h : wordGood f = false) : exec (.trainingWord p f .clean) s = .next (s.setPort p { s.ports[p] with same := 0 }) := by
  change execTrainingWord p f .clean s = _
  unfold execTrainingWord
  rw [if_neg (not_not_intro hstate), State.countFec_clean, hlisted, h]
  rfl

variable (hgood : wordGood f = true)
include hgood

/-- A word that is not the one before it begins a new run, and is answered. -/
theorem exec_trainingWord_first (h : s.ports[p].word ≠ some ((payload f).take 32)) : exec (.trainingWord p f .clean) s =
    .next ((s.setPort p { s.ports[p] with word := some ((payload f).take 32), same := 1, seen := s.ports[p].seen || false }).sendWord p) := by
  change execTrainingWord p f .clean s = _
  unfold execTrainingWord
  rw [if_neg (not_not_intro hstate), State.countFec_clean, hlisted, hgood]
  dsimp only
  rw [if_neg h]
  rfl

section
variable (hword : s.ports[p].word = some ((payload f).take 32)) (hsame : 7 ≤ s.ports[p].same) (hseen : bit (tfield ((payload f).take 32) 9 1) 0 = true)
include hword hsame hseen

/-- A port that has had the eighth identical word in a row. -/
def Port.heardWord (x : Port) : Port := { x with same := 8, seen := true }

/-- The eighth identical word with seen set decides. -/
theorem exec_trainingWord_decides : exec (.trainingWord p f .clean) s = .next (match s.wordFault p ((payload f).take 32) with
    | some c => if c = 4 then ((s.setPort p s.ports[p].heardWord).portFails p c).record 0x09 .warning true 0
        [4, BitVec.ofNat 8 (tfield ((payload f).take 32) 4 1)] else (s.setPort p s.ports[p].heardWord).portFails p c
    | none => ((s.setPort p s.ports[p].heardWord).sendWord p).settlePort p ((payload f).take 32)) := by
  have hrun : min 8 (s.ports[p].same + 1) = 8 := min_eq_left (by omega)
  have hfault : ∀ w, (s.setPort p s.ports[p].heardWord).wordFault p w = s.wordFault p w := by
    intro w
    unfold State.wordFault
    rw [State.setPort_at]
    rfl
  change execTrainingWord p f .clean s = _
  unfold execTrainingWord
  rw [if_neg (not_not_intro hstate), State.countFec_clean, hlisted, hgood, ← hfault]
  dsimp only
  rw [if_pos hword, hrun, hseen, ← hword, beq_self_eq_true, Bool.or_true]
  cases s.wordFault p (List.take 32 (payload f)) with
  | none => rfl
  | some c => rfl

/-- A word that fails a check takes the port down with the cause of the check. -/
theorem exec_trainingWord_fault {c : BitVec 4} (h : s.wordFault p ((payload f).take 32) = some c) : ∃ t, exec (.trainingWord p f .clean) s = .next t ∧
    t.ports = (s.setPort p { s.ports[p].cleared with state := .down, cause := c }).ports := by
  refine ⟨_, exec_trainingWord_decides hstate hlisted hgood hword hsame hseen, ?_⟩
  rw [h]
  dsimp only
  have hdown : (s.setPort p s.ports[p].heardWord).portFails p c = s.setPort p { s.ports[p].cleared with state := .down, cause := c } := by
    rw [State.portFails, State.setPort_at, State.setPort_setPort]
    rfl
  rw [hdown]
  exact kept_ite (State.record_ports ..) rfl

/-- A word that passes every check makes the port ACTIVE. -/
theorem exec_trainingWord_settles (h : s.wordFault p ((payload f).take 32) = none) {lanes : BitVec 8} {width : BitVec 2}
    (hwidth : linkWidth (s.ports[p].own &&& BitVec.ofNat 8 (tfield ((payload f).take 32) 8 1)) (s.x4Only p) = some (lanes, width)) :
    ∃ t, exec (.trainingWord p f .clean) s = .next t ∧ t.ports[p].state = .active ∧ t.ports[p].lanes = lanes ∧
      t.ports[p].width = width ∧ t.ports[p].gen = 2 ∧ t.ports[p].cfg = 3 ∧ t.ports[p].txSeq = 0 ∧ t.ports[p].rxSeq = 0 ∧
      t.ports[p].peer = BitVec.ofNat 32 (2 ^ 31 + tfield ((payload f).take 32) 5 1 % 32 * 2 ^ 16 + bits (tfield ((payload f).take 32) 6 2) 11 0) ∧
      t.ports[p].trained = { remote := bit (s.mreg (pReg p + 0x04)) 1, x4 := s.x4Only p, id := s.myId
                             precode := BitVec.ofNat 8 (tfield ((payload f).take 32) 10 1) } ∧
      ∀ v : Fin 6, t.ports[p].credits[v] = tfield ((payload f).take 32) (12 + 2 * v.val) 2 := by
  refine ⟨_, exec_trainingWord_decides hstate hlisted hgood hword hsame hseen, ?_⟩
  rw [h]
  dsimp only
  obtain ⟨-, owed, -, hport, -⟩ := (s.setPort p s.ports[p].heardWord).sendWord_sent p
  have hown : ((s.setPort p s.ports[p].heardWord).sendWord p).ports[p].own = s.ports[p].own := by
    rw [hport, State.setPort_at]
    rfl
  have hx4 : ((s.setPort p s.ports[p].heardWord).sendWord p).x4Only p = s.x4Only p := rfl
  unfold State.settlePort
  dsimp only
  rw [hown, hx4, hwidth]
  dsimp only
  rw [State.setPort_at]
  refine ⟨rfl, rfl, rfl, rfl, rfl, rfl, rfl, rfl, rfl, fun v => ?_⟩
  simp

end
end

/-- Settles O24, by the state of the port. -/
theorem portCommandsDetectionAndTraining : Obligations.PortCommandsDetectionAndTraining := by
  unfold Obligations.PortCommandsDetectionAndTraining
  intro s p x down off
  refine ⟨fun fn hopens => ?_, fun hdetect a => ⟨fun h => ⟨_, exec_cableDetectAttempt_silent hdetect h, rfl⟩,
    fun hans hpower hnone => exec_cableDetectAttempt_unfit hdetect hans hpower hnone,
    fun n hans hpower hn hfirst => ⟨_, exec_cableDetectAttempt_fit hdetect hans hpower hn hfirst, rfl⟩⟩,
    fun htrain => ⟨⟨_, congrArg Host.Outcome.next (if_pos htrain), rfl⟩, fun lanes precode => ⟨fun h => ⟨_, exec_trainLock_none htrain h, rfl⟩,
      fun h => ?_⟩⟩,
    fun hneg => ⟨⟨_, congrArg Host.Outcome.next (if_pos hneg), rfl⟩, fun f => ⟨fun hlisted hbad => ⟨_, exec_trainingWord_unfit hneg hlisted hbad, rfl⟩,
      fun hbad => ⟨_, exec_trainingWord_unlisted hneg hbad, rfl⟩, fun hlisted hgood => ?_⟩⟩, fun hdown hauto hcause hstage => ?_⟩
  · intro cmd
    refine ⟨⟨_, congrArg Host.Outcome.next (if_pos hopens), s.portWrite_enable p⟩, fun h => ⟨_, congrArg Host.Outcome.next (if_pos hopens), ?_⟩,
      fun h => ⟨_, congrArg Host.Outcome.next (if_pos hopens), State.portWrite_disabled (.inr rfl) h⟩,
      fun h => ⟨_, congrArg Host.Outcome.next (if_pos hopens), ?_⟩,
      fun h hgone => ⟨_, congrArg Host.Outcome.next (if_pos hopens), State.portWrite_off (.inr rfl) h hgone⟩⟩
    · have hoff : x.state ∉ [.disabled, .active, .flush] → s.portWrite p 2 = (cmd 2).setPort p off :=
        fun hx => State.portWrite_off (.inl rfl) hx (h.resolve_left hx)
      cases hx : x.state with
      | disabled => exact State.portWrite_disabled (.inl rfl) hx
      | active => exact State.portWrite_active (.inl rfl) hx
      | flush => exact State.portWrite_flush (.inl rfl) hx
      | detect | train | negotiate | retrain | down => exact hoff (by rw [hx]; decide)
    · rw [State.portWrite_active (.inr rfl) h]
      exact (s.commanded p 3).beginFlush_forced p 4
  · obtain ⟨f, owed, hout, hport, hgood, htype, hword⟩ := (s.setPort p { s.ports[p] with
      own := lanes, precode := precode, state := .negotiate, word := none, same := 0, seen := false }).sendWord_sent p
    refine ⟨_, f, exec_trainLock htrain h, hout, ?_, hgood, htype, hword⟩
    rw [hport, State.setPort_at]
  · intro w
    refine ⟨fun hnew => ⟨_, exec_trainingWord_first hneg hlisted hgood hnew, ?_⟩, fun hword hsame hseen =>
      ⟨fun c hc => exec_trainingWord_fault hneg hlisted hgood hword hsame hseen hc,
        fun hc lanes width hwidth => exec_trainingWord_settles hneg hlisted hgood hword hsame hseen hc hwidth⟩⟩
    obtain ⟨g, owed, hout, hport, -⟩ := (s.setPort p { s.ports[p] with
      word := some w, same := 1, seen := s.ports[p].seen || false }).sendWord_sent p
    rw [hport, State.setPort_at]
    exact ⟨hneg, rfl, rfl, g, hout⟩
  · have hretry : retryable s.ports[p].cause = true := List.elem_iff.2 hcause
    exact ⟨_, congrArg Host.Outcome.next (if_pos ⟨hdown, hauto, hretry, hstage⟩), rfl⟩

end Sys2Proof.Machine
end

section
/-! The obligation about ports that retrain, go down and flush (R240, R256, R257, R263, R265). -/

namespace Sys2Proof.Machine

open Sys2Proof

/-! ## Retraining (R256) -/

section
variable {s : State} {p : Fin 20}

/-- A port that retrains for fewer than the fifth time within 60 s. -/
theorem State.retrain_few (hactive : s.ports[p].state = .active) (hfew : (recent s.clk.us 60000000 s.ports[p].retrains).length < 5) :
    s.retrain p = (s.setPort p { s.ports[p] with
      state := .retrain, retrains := recent s.clk.us 60000000 s.ports[p].retrains, naks := 0, badWords := []
      retrainCount := if s.ports[p].retrainCount = BitVec.allOnes 32 then s.ports[p].retrainCount else s.ports[p].retrainCount + 1 }).flag
        (pReg p + 0x0C) 1 := by
  unfold State.retrain
  dsimp only
  rw [if_neg (not_not_intro hactive), if_neg (not_le.2 hfew)]

theorem exec_retrainTrigger {why : RetrainCause} (hnaks : why = .naks → 8 ≤ s.ports[p].naks)
    (hwords : why = .codewords → 16 < (s.ports[p].badWords.filter (fun t => decide (s.clk.us < t + 1000))).length) :
    exec (.retrainTrigger p why) s = .next (s.retrain p) := by
  cases why with
  | naks => exact congrArg Host.Outcome.next (if_pos (hnaks rfl))
  | codewords => exact congrArg Host.Outcome.next (if_pos (hwords rfl))
  | clockLost | cableFlag => rfl

theorem exec_retrainLock {lanes l : BitVec 8} {w : BitVec 2} (hretrain : s.ports[p].state = .retrain)
    (h : linkWidth lanes s.ports[p].trained.x4 = some (l, w)) : ∃ t, exec (.retrainLock p lanes) s = .next t ∧ t.ports[p].state = .active ∧
      t.ports[p].own = lanes ∧ t.ports[p].lanes = l ∧ t.ports[p].width = w ∧ t.ports[p].rxSeq = s.ports[p].rxSeq ∧
      s.ports[p].replay <+: t.ports[p].replay := by
  obtain ⟨x, hx⟩ : ∃ x : Port, x = { s.ports[p] with state := .active, own := lanes, lanes := l, width := w } := ⟨_, rfl⟩
  have hexec : exec (.retrainLock p lanes) s = .next ((s.setPort p x).pump p) := by
    refine congrArg Host.Outcome.next ((if_neg (not_not_intro hretrain)).trans ?_)
    rw [h, hx]
  have hon := (State.pump_portsGoOn (s.setPort p x) p).port p
  rw [State.setPort_at] at hon
  refine ⟨_, hexec, ?_⟩
  generalize ((s.setPort p x).pump p).ports[p] = y at hon
  have hreplay := hon.replay
  have hlink := hon.link
  rw [hx] at hreplay hlink
  exact ⟨Port.state_of_link hlink, (congrArg Port.own hlink :), (congrArg Port.lanes hlink :), (congrArg Port.width hlink :),
    (congrArg Port.rxSeq hlink :), hreplay⟩

end

/-! ## Ports that go down (R257, R298) -/

theorem State.sendTo_regs (s : State) (mtype dest : Nat) (body : List Byte) : (s.sendTo mtype dest body).regs = s.regs := by
  unfold State.sendTo
  cases s.egress dest with
  | none => rfl
  | some q =>
    have hsend : (State.sendSide (s.message mtype (s.portId q) dest body).1 q (s.message mtype (s.portId q) dest body).2).regs = s.regs :=
      (congrArg State.regs (State.portsOnly_trans (State.portsOnly_setPort ..) (State.pump_portsOnly ..) : State.portsOnly _ _) :)
    exact kept_ite (g := State.regs) hsend rfl

theorem State.sendLease_regs (s : State) (mtype w : Nat) (body : List Byte) : (s.sendLease mtype w body).regs = s.regs := by
  unfold State.sendLease
  refine kept_ite (g := State.regs) ?_ (s.sendTo_regs ..)
  split
  · exact (State.regs_of_hostsOnly (State.leaseEvent_hostsOnly ..)).trans rfl
  · rfl

theorem State.askPromotion_regs (s : State) : s.askPromotion.regs = s.regs := by
  unfold State.askPromotion
  exact (kept_foldl (g := State.regs) (fun u t => u.sendLease_regs ..) _ _).trans rfl

/-- A port that goes down keeps nothing of its link, ends its own requests, and says so. -/
theorem State.portDown_down (s : State) (p : Fin 20) (c : BitVec 4) : (s.portDown p c).ports[p].state = .down ∧ (s.portDown p c).ports[p].cause = c ∧
    (s.portDown p c).ports[p].replay = [] ∧ (s.portDown p c).ports[p].requests = unheld [] s.ports[p].requests ∧
    ((s.portDown p c).reg .A (pReg p + 0x0C)).getLsbD 0 = true := by
  obtain ⟨x, hx⟩ : ∃ x : Port, x = { s.ports[p].cleared with
      state := .down, cause := c, out := answeredBy s.ports[p].responses s.ports[p].out, requests := unheld [] s.ports[p].requests
      downCount := if s.ports[p].downCount = BitVec.allOnes 32 then s.ports[p].downCount else s.ports[p].downCount + 1 } := ⟨_, rfl⟩
  obtain ⟨u, hu⟩ : ∃ u, u = (s.setPort p x).endRequests p (unansweredBy s.ports[p].responses s.ports[p].out) .portDown := ⟨_, rfl⟩
  obtain ⟨v, hv⟩ : ∃ v, v = ((u.flag (pReg p + 0x0C) 0).record 0x20 .warning true p
    (natLe 1 c.toNat ++ natLe 2 (bits s.ports[p].peer.toNat 11 0))).signalBoth := ⟨_, rfl⟩
  have hdown : s.portDown p c = if p = 19 then v.askPromotion else v := by
    rw [hv, hu, hx]
    rfl
  have hvports : v.ports = u.ports := by
    rw [hv]
    exact (State.ports_of_hostsOnly (State.signalBoth_hostsOnly _)).trans (State.record_ports ..)
  have hon : (s.setPort p x).PortsGoOn (s.portDown p c) := by
    rw [hdown]
    have hends : (s.setPort p x).PortsGoOn v := by
      refine State.portsGoOn_trans ?_ (State.portsGoOn_of_ports hvports)
      rw [hu]
      exact State.endRequests_portsGoOn ..
    exact State.portsGoOn_ite (State.portsGoOn_trans hends v.askPromotion_portsGoOn) hends
  have hbit : (v.reg .A (pReg p + 0x0C)).getLsbD 0 = true := by
    rw [hv]
    refine State.bitsStay_of_regs (State.regs_of_hostsOnly (State.signalBoth_hostsOnly _)) _ _ (State.record_bitsStay _ _ _ _ _ _ _ _ ?_)
    exact State.flag_getLsbD _ _ (by decide)
  have hup : ¬x.up := Port.not_up (.inr (by rw [hx]))
  have hport := hon.port p
  rw [State.setPort_at] at hport
  have hstill := hport.still hup
  rw [hx] at hstill
  refine ⟨(congrArg Port.state hstill :), (congrArg Port.cause hstill :), (congrArg Port.replay hstill :), (congrArg Port.requests hstill :), ?_⟩
  rw [hdown]
  split
  · exact State.bitsStay_of_regs v.askPromotion_regs _ _ hbit
  · exact hbit

theorem State.portLost_active {s : State} {p : Fin 20} (hactive : s.ports[p].state = .active) (c : BitVec 4) : s.portLost p c = s.portDown p c := by
  unfold State.portLost
  rw [hactive]

/-! ## Flushes (R263, R265) -/

/-- A port that is switched off is left with nothing on its way. -/
theorem State.portOff_port (s : State) (p : Fin 20) : (s.portOff p).ports[p] =
    { s.ports[p].cleared with state := .disabled, out := [], requests := unheld [] s.ports[p].requests, responses := [] } := by
  have hon := (State.closeOut_portsGoOn (s.setPort p { s.ports[p].cleared with
    state := .disabled, out := [], requests := unheld [] s.ports[p].requests, responses := [] }) p .portDisabled s.ports[p].responses s.ports[p].out).port p
  rw [State.setPort_at] at hon
  exact hon.eq_of_idle (Port.not_up (.inl rfl)) rfl rfl

theorem exec_linkFailureDuringFlush {s : State} {p : Fin 20} (hflush : s.ports[p].state = .flush) (c : BitVec 4) :
    ∃ t, exec (.linkFailureDuringFlush p c) s = .next t ∧ t.ports[p] = { s.ports[p].cleared with
      state := .disabled, cause := c, out := [], requests := unheld [] s.ports[p].requests, responses := [] } := by
  refine ⟨_, congrArg Host.Outcome.next (if_pos hflush), ?_⟩
  rw [State.flushFails, State.setPort_at, State.portOff_port]

theorem State.message_length (s : State) (mtype src dest : Nat) (body : List Byte) : (s.message mtype src dest body).2.length = 16 + body.length := by
  have hmessage : (s.message mtype src dest body).2 = natLe 1 2 ++ natLe 1 mtype ++ natLe 2 (16 + body.length) ++ natLe 3 (src + dest * 4096) ++
    natLe 1 0 ++ natLe 4 (s.nextSeq mtype).2 ++ natLe 4 ((s.nextSeq mtype).1.time.toNat / 12500) ++ body := rfl
  rw [hmessage]
  simp only [List.length_append, natLe_length]

theorem mType_message (s : State) (mtype src dest : Nat) (body : List Byte) : mType (s.message mtype src dest body).2 = mtype % 256 := by
  have htype : mType (s.message mtype src dest body).2 = leNat (natLe 1 mtype) := rfl
  rw [htype, leNat_natLe]
  rfl

theorem Port.entombed_eq {x : Port} {f : Flush} (hf : x.flush = some f) : x.entombed = f.sent.isSome := by
  unfold Port.entombed
  rw [hf]

section
variable {s : State} {p : Fin 20} {f : Flush} (hflush : s.ports[p].state = .flush) (hf : s.ports[p].flush = some f)
include hflush hf

section
variable (hsent : f.sent = none)
include hsent

theorem State.sendTombstone_flush : (s.sendTombstone p).ports[p].state = .flush ∧
    (s.sendTombstone p).ports[p].flush = some { f with sent := some s.ports[p].txSeq } := by
  have hlink := State.sendTombstone_link hf hsent hflush
  exact ⟨(Port.state_of_link hlink).trans hflush, Port.flush_of_link hlink⟩

/-- A flush whose traffic has drained sends its tombstone in one flit. -/
theorem exec_flushDrainEnd (hanswered : unansweredBy s.ports[p].responses s.ports[p].out = []) (hreplay : s.ports[p].replay = [])
    (htx : ∀ v : Fin 6, s.ports[p].tx[v] = []) (hside : s.ports[p].sideTx = []) :
    ∃ g, exec (.flushDrainEnd p) s = .next (s.sendTombstone p) ∧ (s.sendTombstone p).out = s.out ++ [.flit p g] ∧ flitGood g = true ∧
      tfield g 0 1 = 2 ∧ tfield g 9 1 = 0x20 := by
  have hdrained : s.ports[p].state = .flush ∧ (unansweredBy s.ports[p].responses s.ports[p].out).isEmpty = true ∧ s.ports[p].replay.isEmpty = true ∧
      s.ports[p].tx.toList.all List.isEmpty = true := by
    refine ⟨hflush, by rw [hanswered]; rfl, by rw [hreplay]; rfl, List.all_eq_true.2 fun l hl => ?_⟩
    obtain ⟨i, hi, rfl⟩ := Vector.mem_iff_getElem.1 (Vector.mem_toList_iff.1 hl)
    exact List.isEmpty_iff.2 (htx ⟨i, hi⟩)
  obtain ⟨u, hu⟩ : ∃ u, u = (((s.setPort p (s.ports[p].entomb f)).tombstone p f.reason).1) := ⟨_, rfl⟩
  obtain ⟨m, hm⟩ : ∃ m, m = (((s.setPort p (s.ports[p].entomb f)).tombstone p f.reason).2) := ⟨_, rfl⟩
  have hport : u.ports[p] = s.ports[p].entomb f := by
    rw [hu]
    exact State.setPort_at ..
  have hsend : s.sendTombstone p = (u.setPort p { u.ports[p] with sideTx := [m] }).sendMessage p m [] := by
    have hnone : (s.setPort p (s.ports[p].entomb f)).endRequests p [] .portDisabled = s.setPort p (s.ports[p].entomb f) := rfl
    rw [State.sendTombstone_eq hf hsent, hanswered, hnone, ← hu, ← hm]
    refine State.sendSide_alone ?_ ?_ ?_ ?_ _
    all_goals rw [hport]
    · exact .inr hflush
    · rw [show (s.ports[p].entomb f).replay = [] from hreplay]
      decide
    · exact hside
    · intro v
      simp [Port.entomb]
  have hlen : m.length = 32 := by
    rw [hm, State.tombstone, State.message_length]
    simp
  obtain ⟨g, hout, hgood, htype, -, -, hfields⟩ := (u.setPort p { u.ports[p] with sideTx := [m] }).sendMessage_out p (m := m) (by omega) []
  refine ⟨g, congrArg Host.Outcome.next (if_pos hdrained), ?_, hgood, htype, ?_⟩
  · rw [hsend, hout, hu]
    rfl
  · rw [hfields 1 1 (by omega)]
    have hmtype : mType m = 0x20 := by rw [hm, State.tombstone, mType_message]
    exact hmtype

theorem exec_flushTimeout : exec (.flushTimeout p) s = .next ((s.sendTombstone p).flag (pReg p + 0x0C) 7) := by
  have hdue : s.ports[p].state = .flush ∧ (!s.ports[p].entombed) = true := by
    refine ⟨hflush, ?_⟩
    rw [Port.entombed_eq hf, hsent]
    rfl
  exact congrArg Host.Outcome.next (if_pos hdue)

end

theorem exec_tombstoneDone {n : BitVec 12} (hsent : f.sent = some n) : exec (.tombstoneDone p) s = .next (s.portOff p) := by
  have hdone : s.ports[p].state = .flush ∧ s.ports[p].entombed = true := by
    refine ⟨hflush, ?_⟩
    rw [Port.entombed_eq hf, hsent]
    rfl
  exact congrArg Host.Outcome.next (if_pos hdone)

end

/-- Settles O25, by the state of the port. -/
theorem portsRetrainAndFlush : Obligations.PortsRetrainAndFlush := by
  unfold Obligations.PortsRetrainAndFlush
  intro s p x
  refine ⟨fun hactive hfew why hnaks hwords => ⟨_, exec_retrainTrigger hnaks hwords, State.retrain_few hactive hfew⟩,
    fun hretrain => ⟨fun lanes l w h => exec_retrainLock hretrain h, _, congrArg Host.Outcome.next (if_pos hretrain), s.portDown_down p 9⟩,
    fun hflush => ⟨fun c => exec_linkFailureDuringFlush hflush c, fun f hf hsent hanswered hreplay htx hside => ?_, fun f hf hsent => ?_,
      fun f n hf hsent hgone => ⟨_, exec_tombstoneDone hflush hf hsent, State.portOff_gone hgone⟩⟩⟩
  · obtain ⟨g, hexec, hout, hgood, htype, hmtype⟩ := exec_flushDrainEnd hflush hf hsent hanswered hreplay htx hside
    obtain ⟨hstate, hnoted⟩ := State.sendTombstone_flush hflush hf hsent
    exact ⟨_, g, hexec, hout, hgood, htype, hmtype, hnoted, hstate⟩
  · obtain ⟨hstate, hnoted⟩ := State.sendTombstone_flush hflush hf hsent
    exact ⟨_, exec_flushTimeout hflush hf hsent, hstate, hnoted, State.flag_getLsbD _ _ (by decide)⟩

end Sys2Proof.Machine
end

section
/-! SUPPORT. What a port answers with, what an acknowledgement changes, and what payloads leave alone (R243–R248, R251, R254, R259). -/

namespace Sys2Proof.Machine

open Sys2Proof

/-! ## What a port answers with (R246, R247) -/

section
variable (s : State) (p : Fin 20)

theorem nak_of_ctl (nak : Bool) (vc : Nat) : (b2n nak + 2 * vc) % 256 % 2 = b2n nak := by
  have hbit : b2n nak ≤ 1 := by cases nak <;> decide
  omega

/-- The first flit sent carries the nak that is due, and no nak is due then. -/
def State.sendsNak (s t : State) (p : Fin 20) : Prop :=
  ∃ f l, t.out = s.out ++ .flit p f :: l ∧ tfield f 1 1 % 2 = b2n s.ports[p].nak ∧ t.ports[p].nak = false

theorem State.sendFlit_sendsNak (ftype : BitVec 8) (vc : Nat) (seq : BitVec 12) (l : List Byte) : s.sendsNak (s.sendFlit p ftype vc seq l) p := by
  obtain ⟨owed, hport⟩ := s.sendFlit_port p ftype vc seq l
  refine ⟨_, [], rfl, ?_, by rw [hport]⟩
  rw [tfield_flitOf_ctl, nak_of_ctl]

theorem State.setPort_sendKept_sendsNak {x : Port} (hx : x.nak = s.ports[p].nak) (ftype : BitVec 8) (vc : Nat) (l : List Byte) :
    s.sendsNak ((s.setPort p x).sendKept p ftype vc l) p := by
  obtain ⟨f, rest, hout, hnak, hdone⟩ := State.sendFlit_sendsNak ((s.setPort p x).setPort p { (s.setPort p x).ports[p] with
    txSeq := (s.setPort p x).ports[p].txSeq + 1
    replay := (s.setPort p x).ports[p].replay ++ [((s.setPort p x).ports[p].txSeq, ftype, vc, l)] }) p ftype vc (s.setPort p x).ports[p].txSeq l
  refine ⟨f, rest, hout, ?_, hdone⟩
  rw [hnak, State.setPort_at, State.setPort_at, hx]

theorem State.pumpOne_sendsNak {t : State} (h : s.pumpOne p = some t) : s.sendsNak t p := by
  have hmessage : ∀ m rest, s.sendsNak (s.sendMessage p m rest) p := by
    intro m rest
    refine s.setPort_sendKept_sendsNak p ?_ 2 0 m
    exact rfl
  have hdata : ∀ v, s.sendsNak (s.sendData p v) p := by
    intro v
    refine s.setPort_sendKept_sendsNak p ?_ 1 v.val _
    exact rfl
  unfold State.pumpOne at h
  dsimp only at h
  split at h
  · cases h
  · split at h
    · cases h
      exact hmessage _ _
    · split at h
      · cases h
        exact hmessage _ _
      · cases h
        exact hdata _
    · cases h
      exact hdata _
    · cases h

theorem State.sendsNak_trans {t u : State} (h : s.sendsNak t p) (k : t.sendsNak u p) : s.sendsNak u p := by
  obtain ⟨f, l, hout, hnak, -⟩ := h
  obtain ⟨g, m, hout', -, hdone⟩ := k
  exact ⟨f, l ++ .flit p g :: m, by rw [hout', hout, List.append_assoc, List.cons_append], hnak, hdone⟩

theorem State.pumpN_sendsNak (n : Nat) : s.pumpN p n = s ∨ s.sendsNak (s.pumpN p n) p := by
  induction n generalizing s with
  | zero => exact .inl rfl
  | succ n ih =>
    cases h : s.pumpOne p with
    | none => exact .inl (by rw [State.pumpN, h])
    | some t =>
      have hone := s.pumpOne_sendsNak p h
      have hmore : s.pumpN p (n + 1) = t.pumpN p n := by rw [State.pumpN, h]
      rw [hmore]
      rcases ih t with hsame | hsent
      · exact .inr (by rwa [hsame])
      · exact .inr (s.sendsNak_trans p hone hsent)

/-- A port answers with at least one flit. -/
theorem State.pumpOrIdle_sendsNak : s.sendsNak (s.pumpOrIdle p) p := by
  have hidle : ∀ u : State, u.sendsNak (u.sendIdle p) p := fun u => u.sendFlit_sendsNak ..
  unfold State.pumpOrIdle
  dsimp only
  rcases s.pumpN_sendsNak p 512 with hsame | hsent
  · rw [State.pump, hsame, if_pos rfl]
    exact hidle s
  · split
    · exact s.sendsNak_trans p hsent (hidle _)
    · exact hsent

theorem State.pumpOrIdle_link : (s.pumpOrIdle p).ports[p].link = s.ports[p].link := by
  have hpump := ((s.pump_portsGoOn p).port p).link
  unfold State.pumpOrIdle
  dsimp only
  split
  · obtain ⟨owed, hport⟩ := (s.pump p).sendFlit_port p 0 0 0 []
    have hidle : ((s.pump p).sendIdle p).ports[p].link = (s.pump p).ports[p].link := by
      rw [State.sendIdle, hport]
      rfl
    exact hidle.trans hpump
  · exact hpump

end

/-! ## Flits that arrive (R244) -/

section
variable {s : State} {p : Fin 20} {f : List Byte}

theorem State.receive_clean (h : s.ports[p].state = .active ∨ s.ports[p].state = .flush) :
    s.receive p f .clean = if flitListed f .clean then s.takeFlit p f else s.dropFlit p := by
  unfold State.receive
  rcases h with h | h
  · rw [h, State.countFec_clean]
  · rw [h, State.countFec_clean]

/-- Flits sent again leave the link. -/
theorem State.replayAll_portsGoOn (hup : s.ports[p].up) : s.PortsGoOn (s.replayAll p) := by
  unfold State.replayAll
  dsimp only
  refine List.foldlRecOn _ _ (motive := fun u => s.PortsGoOn u) (State.portsGoOn_setPort (.of_up hup ?_ ?_)) fun u hu e _ => ?_
  · exact rfl
  · exact List.prefix_rfl
  · exact State.portsGoOn_trans hu (State.sendFlit_portsGoOn (State.up_of_portsGoOn hu hup) ..)

/-- A port after the acknowledgement and the credits of a flit (R247, R249, R256). -/
def Port.acked (x : Port) (f : List Byte) : Port :=
  { x with
    replay := afterAck (BitVec.ofNat 12 (tfield f 4 2)) x.replay
    credits := if h : tfield f 6 2 / 8192 < 6 then x.credits.set (tfield f 6 2 / 8192) (x.credits[tfield f 6 2 / 8192] + tfield f 6 2 % 8192)
      else x.credits
    naks := if (afterAck (BitVec.ofNat 12 (tfield f 4 2)) x.replay).length ≠ x.replay.length then b2n (bit (tfield f 1 1) 0)
      else if bit (tfield f 1 1) 0 then x.naks + 1 else x.naks }

theorem State.takeAck_eq : s.takeAck p f =
    if bit (tfield f 1 1) 0 then ((s.setPort p (s.ports[p].acked f)).replayAll p).pump p else (s.setPort p (s.ports[p].acked f)).pump p := rfl

theorem State.takeAck_link (hup : s.ports[p].up) : (s.takeAck p f).ports[p].link = s.ports[p].link := by
  have hset : (s.setPort p (s.ports[p].acked f)).ports[p] = s.ports[p].acked f := State.setPort_at ..
  have hlink : (s.setPort p (s.ports[p].acked f)).ports[p].link = s.ports[p].link := by
    rw [hset]
    rfl
  rw [State.takeAck_eq]
  split
  · have hreplay := State.replayAll_portsGoOn ((Port.up_of_link hlink).2 hup)
    exact ((State.portsGoOn_trans hreplay (State.pump_portsGoOn ..)).port p).link.trans hlink
  · exact ((State.pump_portsGoOn _ p).port p).link.trans hlink

end

/-! ## What a payload leaves alone (R248, R251, R254, R259) -/

/-- What the flits that a port accepts move on: its state, the number it expects, and whether it has discarded one since. -/
def Port.course (x : Port) : PortState × BitVec 12 × Bool := (x.state, x.rxSeq, x.discard)

def State.courses (s : State) : Vector (PortState × BitVec 12 × Bool) 20 := s.ports.map Port.course

section
variable {s t : State}

theorem State.course_of_courses (h : t.courses = s.courses) (p : Fin 20) : t.ports[p].course = s.ports[p].course := by
  have hp : (t.ports.map Port.course)[p] = (s.ports.map Port.course)[p] := congrArg (fun v => v[p]) h
  simpa using hp

theorem State.courses_of_portsGoOn (h : s.PortsGoOn t) : t.courses = s.courses := by
  have hport : ∀ p : Fin 20, t.ports[p].course = s.ports[p].course := fun p => (congrArg Port.course (h.port p).link :)
  ext1 i hi
  unfold State.courses
  rw [Vector.getElem_map, Vector.getElem_map]
  exact hport ⟨i, hi⟩

end

section
variable (s : State) (p : Fin 20)

theorem State.courses_setPort {x : Port} (h : x.course = s.ports[p].course) : (s.setPort p x).courses = s.courses := by
  ext1 i hi
  unfold State.courses
  rw [Vector.getElem_map, Vector.getElem_map]
  by_cases hp : p.val = i
  · subst hp
    exact (congrArg Port.course (s.setPort_at p x)).trans h
  · exact congrArg Port.course (Vector.getElem_set_ne p.isLt hi hp)

theorem State.courses_flag (off n : Nat) : (s.flag off n).courses = s.courses := rfl

theorem State.courses_freeSlots (v : Fin 6) (n : Nat) : (s.freeSlots p v n).courses = s.courses := by
  unfold State.freeSlots
  exact s.courses_setPort p rfl

theorem State.courses_addrError : (s.addrError p).courses = s.courses := by
  unfold State.addrError
  refine (State.courses_flag ..).trans (s.courses_setPort p ?_)
  exact rfl

theorem State.courses_sendTrans {e : Fin 20} (h : s.ports[e].carries = true ∨ s.ports[e].state = .flush) (v : Fin 6) (bytes : List Byte) :
    (s.sendTrans e v bytes).courses = s.courses := State.courses_of_portsGoOn (State.sendTrans_portsGoOn h v bytes)

theorem State.courses_answer (req : List Byte) (status : Nat) (data : List Byte) : (s.answer p req status data).courses = s.courses := by
  unfold State.answer
  split
  · split
    · rename_i hcarries
      exact s.courses_sendTrans hcarries ..
    · rfl
  · rfl

theorem State.courses_passOn (b : List Byte) : (s.passOn p b).courses = s.courses := by
  have hrefuse : ∀ n, (if isRequest b then s.answer p b n [] else s).courses = s.courses := fun n => kept_ite (s.courses_answer ..) rfl
  unfold State.passOn
  refine kept_ite (hrefuse 6) ?_
  split
  · exact hrefuse 7
  · refine kept_ite (hrefuse 7) (kept_ite (hrefuse 7) ?_)
    split
    · rename_i hcarries
      exact s.courses_sendTrans hcarries ..
    · rfl

theorem State.courses_takeTrans (v : Fin 6) (b : List Byte) (slots : Nat) : (s.takeTrans p v b slots).courses = s.courses := by
  have hfree := s.courses_freeSlots p v slots
  unfold State.takeTrans
  refine kept_ite hfree (kept_ite ((State.courses_addrError ..).trans hfree) (kept_ite ((State.courses_passOn ..).trans hfree)
    (kept_ite ?_ (kept_ite ?_ hfree))))
  · exact s.courses_setPort p rfl
  · exact s.courses_setPort p rfl

theorem State.courses_takeSlots (v : Fin 6) (slots : List (List Byte)) : (s.takeSlots p v slots).courses = s.courses := by
  unfold State.takeSlots
  refine (kept_foldl (fun u t => kept_ite (u.courses_freeSlots ..) (u.courses_takeTrans ..)) _ _).trans ?_
  exact s.courses_setPort p rfl

theorem State.courses_takeMessage (m : List Byte) : (s.takeMessage p m).courses = s.courses := by
  have herror := s.courses_addrError p
  unfold State.takeMessage
  refine kept_ite rfl (kept_ite herror (kept_ite herror (kept_ite rfl (kept_ite (kept_ite herror ?_) ?_))))
  · split
    · exact herror
    · rename_i e _
      split
      · exact herror
      · rename_i hcarries
        have hup : s.ports[e].up := .inl (by simpa using (not_or.1 hcarries).2)
        exact State.courses_of_portsGoOn (State.sendSide_portsGoOn hup _)
  · refine kept_ite ?_ (kept_ite ?_ ?_)
    · exact s.courses_setPort p rfl
    · exact s.courses_setPort p rfl
    · refine (State.courses_flag ..).trans (s.courses_setPort p ?_)
      exact rfl

end

end Sys2Proof.Machine
end

section
/-! The obligation about flits: those that are discarded, their acknowledgement and credits, their order, and naks (R243–R247, R249, R256). -/

namespace Sys2Proof.Machine

open Sys2Proof

/-! ## Idle flits (R244, R247, R249) -/

section
variable {s : State} {p : Fin 20} {f : List Byte} (hstate : s.ports[p].state = .active ∨ s.ports[p].state = .flush)
include hstate

theorem exec_idleFlit_unlisted (hlisted : flitListed f .clean = false) : exec (.idleFlit p f .clean) s = .next (s.dropFlit p) := by
  refine congrArg Host.Outcome.next ((State.receive_clean hstate).trans (if_neg ?_))
  rw [hlisted]
  exact Bool.false_ne_true

/-- An idle flit without a nak, at a port on which nothing waits, is an acknowledgement and no more. -/
theorem exec_idleFlit_listed (hlisted : flitListed f .clean = true) (htype : tfield f 0 1 = 0) (hnak : bit (tfield f 1 1) 0 = false)
    (hside : s.ports[p].sideTx = []) (htx : ∀ v : Fin 6, s.ports[p].tx[v] = []) :
    exec (.idleFlit p f .clean) s = .next (s.setPort p (s.ports[p].acked f)) := by
  refine congrArg Host.Outcome.next ((State.receive_clean hstate).trans ((if_pos hlisted).trans ?_))
  have hack : s.takeAck p f = s.setPort p (s.ports[p].acked f) := by
    rw [State.takeAck_eq, hnak, if_neg Bool.false_ne_true]
    refine State.pumpN_none ?_ ?_ _
    · rw [State.setPort_at]
      exact htx
    · rw [State.setPort_at]
      exact hside
  exact (if_pos (.inl htype)).trans hack

end

theorem Port.acked_of_no_nak {f : List Byte} (x : Port) (hnak : bit (tfield f 1 1) 0 = false) : x.acked f = { x with
    replay := afterAck (BitVec.ofNat 12 (tfield f 4 2)) x.replay
    naks := if (afterAck (BitVec.ofNat 12 (tfield f 4 2)) x.replay).length = x.replay.length then x.naks else 0
    credits := if h : tfield f 6 2 / 8192 < 6 then x.credits.set (tfield f 6 2 / 8192) (x.credits[tfield f 6 2 / 8192] + tfield f 6 2 % 8192)
      else x.credits } := by
  unfold Port.acked
  rw [hnak, if_neg Bool.false_ne_true, ite_not]
  rfl

/-! ## A request in one flit (R248, R251) -/

theorem slotsFrom_append {h : List Byte} (hlen : h.length = 16) (n : Nat) (l : List Byte) : slotsFrom (n + 1) (h ++ l) = h :: slotsFrom n l := by
  have hne : (h ++ l).isEmpty = false := by
    cases h with
    | nil => cases hlen
    | cons => rfl
  have hfull : h ++ List.replicate (16 - h.length) 0 = h := by
    rw [hlen, Nat.sub_self, List.replicate_zero, List.append_nil]
  rw [slotsFrom, hne, if_neg Bool.false_ne_true, List.take_left' hlen, List.drop_left' hlen]
  exact congrArg (· :: slotsFrom n l) hfull

theorem slotsFrom_zeros (n : Nat) : slotsFrom n (List.replicate (n * 16) 0) = List.replicate n (List.replicate 16 0) := by
  induction n with
  | zero => rfl
  | succ n ih =>
    rw [Nat.succ_mul, Nat.add_comm (n * 16), List.replicate_add, slotsFrom_append List.length_replicate, ih]
    rfl

theorem slotsOf_header {h : List Byte} (hlen : h.length = 16) :
    slotsOf (h ++ List.replicate 224 0) = h :: List.replicate 14 (List.replicate 16 0) := by
  have hsixteen : (h ++ List.replicate 224 (0 : Byte)).length / 16 + 1 = 16 := by
    rw [List.length_append, hlen, List.length_replicate]
  rw [slotsOf, hsixteen, slotsFrom_append hlen]
  exact congrArg (h :: ·) (slotsFrom_zeros 14)

theorem cutSlots_nulls {z : List Byte} (hz : tType z = 0) (n : Nat) : cutSlots n (List.replicate n z) = (List.replicate n ([], 1), []) := by
  induction n with
  | zero => rfl
  | succ n ih =>
    rw [List.replicate_succ, cutSlots, if_pos hz, ih]
    rfl

/-- A header without data, and NULL slots behind it. -/
theorem cutSlots_header {h : List Byte} (htype : tType h = 1) :
    cutSlots 15 (h :: List.replicate 14 (List.replicate 16 0)) = ((h, 1) :: List.replicate 14 ([], 1), []) := by
  have hslots : dataSlots h = 0 := by
    unfold dataSlots
    rw [htype]
    rfl
  have hcut := cutSlots_nulls (z := List.replicate 16 0) rfl 14
  unfold cutSlots
  rw [if_neg (by rw [htype]; decide), hslots]
  dsimp only
  rw [if_neg (Nat.not_lt_zero _), List.drop_zero, hcut, List.take_zero, List.flatten_nil, List.append_nil]

section
variable {s : State} {p : Fin 20}

theorem State.takeTrans_request {v : Fin 6} {b : List Byte} (hflush : s.ports[p].flush = none) (hsrc : podOf (tSrc b) < 2) (hdst : podOf (tDst b) < 2)
    (hid : tDst b = s.portId p) (htype : tType b = 1) (n : Nat) :
    s.takeTrans p v b n = s.setPort p { s.ports[p] with requests := s.ports[p].requests ++ [{ vc := v, bytes := b }] } := by
  have hentombed : s.ports[p].entombed = false := by rw [Port.entombed, hflush]
  have hrequest : isRequest b = true := by
    rw [isRequest, htype]
    rfl
  unfold State.takeTrans
  dsimp only
  rw [hentombed, if_neg Bool.false_ne_true, if_neg (by omega), if_neg (not_not_intro hid), hrequest, if_pos rfl]

theorem State.freeSlots_requests (u : State) (v : Fin 6) (n : Nat) : (u.freeSlots p v n).ports[p].requests = u.ports[p].requests := by
  rw [State.freeSlots, State.setPort_at]

/-- A whole request that comes alone in a flit joins the requests of its port. -/
theorem State.takeSlots_request {v : Fin 6} {h : List Byte} (hlen : h.length = 16) (hpart : s.ports[p].part[v] = [])
    (hflush : s.ports[p].flush = none) (hsrc : podOf (tSrc h) < 2) (hdst : podOf (tDst h) < 2) (hid : tDst h = s.portId p) (htype : tType h = 1) :
    (s.takeSlots p v (slotsOf (h ++ List.replicate 224 0))).ports[p].requests = s.ports[p].requests ++ [{ vc := v, bytes := h }] := by
  obtain ⟨u, hu⟩ : ∃ u, u = s.setPort p { s.ports[p] with part := s.ports[p].part.set v [] } := ⟨_, rfl⟩
  have hport : u.ports[p] = { s.ports[p] with part := s.ports[p].part.set v [] } := by rw [hu, State.setPort_at]
  have huid : u.portId p = s.portId p := by
    unfold State.portId
    rw [hport, hu]
    rfl
  have hne : h.isEmpty = false := by
    cases h with
    | nil => cases hlen
    | cons => rfl
  have hslots : s.takeSlots p v (slotsOf (h ++ List.replicate 224 0)) =
      (List.replicate 14 ([], 1)).foldl (fun s t => if t.1.isEmpty then s.freeSlots p v 1 else s.takeTrans p v t.1 t.2) (u.takeTrans p v h 1) := by
    unfold State.takeSlots
    dsimp only
    rw [slotsOf_header hlen, hpart, List.nil_append, List.length_cons, List.length_replicate, cutSlots_header htype, ← hu, List.foldl_cons, hne,
      if_neg Bool.false_ne_true]
  rw [hslots]
  refine (List.foldlRecOn (motive := fun t : State => t.ports[p].requests = (u.takeTrans p v h 1).ports[p].requests) _ _ rfl fun t ht e he => ?_).trans ?_
  · rw [List.eq_of_mem_replicate he]
    exact (State.freeSlots_requests t v 1).trans ht
  · rw [State.takeTrans_request (by rw [hport]; exact hflush) hsrc hdst (hid.trans huid.symm) htype, State.setPort_at, hport]

end

/-! ## Data flits in and out of sequence (R245, R246) -/

section
variable {s : State} {p : Fin 20} {f : List Byte} (hactive : s.ports[p].state = .active) (htype : tfield f 0 1 = 1 ∨ tfield f 0 1 = 2)

section
variable {e : SramErr}
include hactive

theorem exec_dataFlit (hkind : e.kind = .none) (hlisted : flitListed f .clean = true)
    (hlive : (s.takeFlit p f).ports[p].state = .active) : exec (.dataFlit p f .clean e) s = .next ((s.takeFlit p f).pumpOrIdle p) := by
  have hfatal : fatalSram e = false := by rw [fatalSram, hkind]; decide
  refine congrArg Host.Outcome.next ?_
  dsimp only
  rw [decide_eq_true (.inl hactive : s.ports[p].state = .active ∨ _), if_neg (by decide), State.sramError_none _ _ _ hkind, hfatal,
    if_neg Bool.false_ne_true, State.receive_clean (.inl hactive), hlisted, if_pos rfl, if_pos (.inl hlive)]

theorem exec_dataFlit_uncorrectable (hkind : e.kind = .uncorrectable) (fec : Fec) : ∃ t, exec (.dataFlit p f fec e) s = .next t ∧
    t.ports[p].state = .down ∧ t.ports[p].cause = 9 := by
  have hfatal : fatalSram e = true := by rw [fatalSram, hkind]; decide
  have hports : (s.sramError 3 p e).ports = s.ports := by
    unfold State.sramError
    rw [hkind]
    exact State.record_ports ..
  have hstill : (s.sramError 3 p e).ports[p].state = .active := by rw [hports, hactive]
  obtain ⟨hdown, hcause, -⟩ := (s.sramError 3 p e).portDown_down p 9
  refine ⟨(s.sramError 3 p e).portDown p 9, congrArg Host.Outcome.next ?_, hdown, hcause⟩
  dsimp only
  rw [decide_eq_true (.inl hactive : s.ports[p].state = .active ∨ _), if_neg (by decide), hfatal, if_pos rfl, State.portLost_active hstill]

end

/-- The port that a flit of the expected number leaves, before its payload. -/
def Port.advanced (x : Port) : Port := { x with rxSeq := x.rxSeq + 1, discard := false }

include htype

theorem State.takeFlit_unordered (h : BitVec.ofNat 12 (tfield f 2 2) ≠ (s.takeAck p f).ports[p].rxSeq) :
    s.takeFlit p f = (s.takeAck p f).setPort p { (s.takeAck p f).ports[p] with nak := true, discard := true } := by
  refine (if_neg (by omega)).trans ?_
  exact if_pos h

theorem State.takeFlit_ordered (h : BitVec.ofNat 12 (tfield f 2 2) = (s.takeAck p f).ports[p].rxSeq) :
    s.takeFlit p f = if tfield f 0 1 = 1 then ((s.takeAck p f).setPort p (s.takeAck p f).ports[p].advanced).takeSlots p (vcOf (bits (tfield f 1 1) 3 1))
      (slotsOf (payload f)) else ((s.takeAck p f).setPort p (s.takeAck p f).ports[p].advanced).takeMessage p (payload f) := by
  refine (if_neg (by omega)).trans ?_
  exact if_neg (not_not_intro h)

include hactive

omit hactive htype in
/-- A port whose link is that of another, but that it has discarded a flit since. -/
theorem Port.of_discarding_link {x y : Port} (h : y.link = { x.link with discard := true }) : y.state = x.state ∧ y.rxSeq = x.rxSeq ∧
    y.discard = true ∧ y.requests = x.requests ∧ y.responses = x.responses ∧ y.side = x.side ∧ y.part = x.part :=
  ⟨(congrArg Port.state h :), (congrArg Port.rxSeq h :), (congrArg Port.discard h :), (congrArg Port.requests h :), (congrArg Port.responses h :),
    (congrArg Port.side h :), (congrArg Port.part h :)⟩

theorem State.takeFlit_unordered_link (h : BitVec.ofNat 12 (tfield f 2 2) ≠ s.ports[p].rxSeq) :
    (s.takeFlit p f).ports[p].link = { s.ports[p].link with discard := true } := by
  have hack := State.takeAck_link (f := f) (.inl (decide_eq_true (.inl hactive)) : s.ports[p].up)
  have hseq : (s.takeAck p f).ports[p].rxSeq = s.ports[p].rxSeq := (congrArg Port.rxSeq hack :)
  rw [State.takeFlit_unordered htype (by rwa [hseq]), State.setPort_at]
  exact (congrArg (fun x : Port => { x with discard := true }) hack :)

omit hactive htype in
theorem Port.course_eq_iff {x : Port} {a : PortState} {n : BitVec 12} {d : Bool} :
    x.course = (a, n, d) ↔ x.state = a ∧ x.rxSeq = n ∧ x.discard = d := by
  rw [Port.course, Prod.mk.injEq, Prod.mk.injEq]

omit hactive htype in
theorem Port.course_of_link {x y : Port} (h : y.link = x.link) : y.course = x.course := (congrArg Port.course h :)

/-- A flit of the expected number moves that number on, whatever it carries. -/
theorem State.takeFlit_ordered_course (h : BitVec.ofNat 12 (tfield f 2 2) = s.ports[p].rxSeq) :
    (s.takeFlit p f).ports[p].course = (.active, s.ports[p].rxSeq + 1, false) := by
  have hack := State.takeAck_link (f := f) (.inl (decide_eq_true (.inl hactive)) : s.ports[p].up)
  have hseq : (s.takeAck p f).ports[p].rxSeq = s.ports[p].rxSeq := (congrArg Port.rxSeq hack :)
  have hset : ((s.takeAck p f).setPort p (s.takeAck p f).ports[p].advanced).ports[p].course = (.active, s.ports[p].rxSeq + 1, false) := by
    rw [State.setPort_at, Port.advanced, Port.course, hseq, Port.state_of_link hack, hactive]
  rw [State.takeFlit_ordered htype (h.trans hseq.symm)]
  split
  · exact (State.course_of_courses (State.courses_takeSlots ..) p).trans hset
  · exact (State.course_of_courses (State.courses_takeMessage ..) p).trans hset

end

section
variable {s : State} {p : Fin 20} {f h : List Byte}

/-- The request that a flit of the expected number brings whole. -/
theorem State.takeFlit_request (hactive : s.ports[p].state = .active) (hlisted : flitListed f .clean = true)
    (hseq : BitVec.ofNat 12 (tfield f 2 2) = s.ports[p].rxSeq) (hlen : h.length = 16) (hpayload : payload f = h ++ List.replicate 224 0)
    (hdata : tfield f 0 1 = 1) (htype : tType h = 1) (hid : tDst h = s.portId p) (hsrc : podOf (tSrc h) < 2) (hdst : podOf (tDst h) < 2)
    (hflush : s.ports[p].flush = none) (hpart : s.ports[p].part[vcOf (bits (tfield f 1 1) 3 1)] = []) :
    (s.takeFlit p f).ports[p].requests = s.ports[p].requests ++ [{ vc := bits (tfield f 1 1) 3 1, bytes := h }] := by
  have hack := State.takeAck_link (f := f) (.inl (decide_eq_true (.inl hactive)) : s.ports[p].up)
  have hvc : bits (tfield f 1 1) 3 1 < 6 := by
    unfold flitListed at hlisted
    simp only [Bool.and_eq_true, decide_eq_true_eq] at hlisted
    exact hlisted.1.1.2
  have hval : (vcOf (bits (tfield f 1 1) 3 1)).val = bits (tfield f 1 1) 3 1 := by
    unfold vcOf
    rw [dif_pos hvc]
  obtain ⟨u, hu⟩ : ∃ u, u = (s.takeAck p f).setPort p (s.takeAck p f).ports[p].advanced := ⟨_, rfl⟩
  have hport : u.ports[p] = (s.takeAck p f).ports[p].advanced := by rw [hu, State.setPort_at]
  have huid : u.portId p = s.portId p := by
    unfold State.portId
    rw [hport, show (s.takeAck p f).ports[p].advanced.state = .active from (Port.state_of_link hack).trans hactive, hactive]
    exact (congrArg (fun x : Port => x.trained.id) hack :)
  have hupart : u.ports[p].part = s.ports[p].part := by
    rw [hport]
    exact (congrArg Port.part hack :)
  have huflush : u.ports[p].flush = none := by
    rw [hport]
    exact (Port.flush_of_link hack).trans hflush
  have hurequests : u.ports[p].requests = s.ports[p].requests := by
    rw [hport]
    exact (congrArg Port.requests hack :)
  rw [State.takeFlit_ordered (.inl hdata) (hseq.trans (congrArg Port.rxSeq hack :).symm), if_pos hdata, ← hu, hpayload,
    State.takeSlots_request hlen (by rw [hupart]; exact hpart) huflush hsrc hdst (hid.trans huid.symm) htype, hurequests, hval]

end

/-! ## Naks (R246) -/

section
variable {s : State} {p : Fin 20}

theorem exec_nakRepeat_idle (h : s.ports[p].discard = false) : exec (.nakRepeat p) s = .next s :=
  congrArg Host.Outcome.next (if_neg fun hdue => Bool.false_ne_true (h.symm.trans hdue.2))

theorem exec_nakRepeat (hstate : s.ports[p].state = .active ∨ s.ports[p].state = .flush) (h : s.ports[p].discard = true) :
    ∃ t g l, exec (.nakRepeat p) s = .next t ∧ t.out = s.out ++ .flit p g :: l ∧ tfield g 1 1 % 2 = 1 ∧ t.ports[p].nak = false := by
  obtain ⟨g, l, hout, hnak, hdone⟩ := (s.setPort p { s.ports[p] with nak := true }).pumpOrIdle_sendsNak p
  rw [State.setPort_at] at hnak
  exact ⟨_, g, l, congrArg Host.Outcome.next (if_pos ⟨hstate, h⟩), hout, hnak, hdone⟩

end

/-- Settles O26, by the kind of flit and its place in the sequence. -/
theorem flitsAreAcceptedInSequence : Obligations.FlitsAreAcceptedInSequence := by
  unfold Obligations.FlitsAreAcceptedInSequence
  intro s p f x
  refine ⟨fun hstate hlisted => ⟨_, exec_idleFlit_unlisted hstate hlisted, rfl⟩, fun hstate hlisted htype hnak hside htx => ?_,
    fun e hkind hactive hlisted htype => ⟨fun hseq => ?_, fun hseq => ?_⟩, fun e hkind hactive => exec_dataFlit_uncorrectable hactive hkind .clean,
    exec_nakRepeat_idle, exec_nakRepeat⟩
  · exact ⟨_, exec_idleFlit_listed hstate hlisted htype hnak hside htx, (s.setPort_at ..).trans (x.acked_of_no_nak hnak), rfl,
      fun p' hp => State.setPort_other hp _⟩
  · have htaken := State.takeFlit_unordered_link hactive htype hseq
    obtain ⟨hlive, -⟩ := Port.of_discarding_link htaken
    obtain ⟨-, hsame⟩ := Port.of_discarding_link (((s.takeFlit p f).pumpOrIdle_link p).trans htaken)
    exact ⟨_, exec_dataFlit hactive hkind hlisted (hlive.trans hactive), hsame⟩
  · have hcourse := State.takeFlit_ordered_course hactive htype hseq
    have hlink := (s.takeFlit p f).pumpOrIdle_link p
    obtain ⟨hlive, -, -⟩ := Port.course_eq_iff.1 hcourse
    obtain ⟨-, hmoved, hkept⟩ := Port.course_eq_iff.1 ((Port.course_of_link hlink).trans hcourse)
    obtain ⟨-, -, -, -, hnak⟩ := (s.takeFlit p f).pumpOrIdle_sendsNak p
    refine ⟨_, exec_dataFlit hactive hkind hlisted hlive, hmoved, hnak, hkept, fun h hlen hpayload hdata hrequest hid hsrc hdst hflush hpart => ?_⟩
    exact (Port.requests_of_link hlink).trans
      (State.takeFlit_request hactive hlisted hseq hlen hpayload hdata hrequest hid hsrc hdst hflush hpart)

end Sys2Proof.Machine
end

section
/-! The obligation about heartbeats and cap notices (R254, R261, R262, R298, R306, R426). -/

namespace Sys2Proof.Machine

open Sys2Proof

/-! ## What a heartbeat says of the two configurations (R262, R305) -/

theorem State.nextMessage_of_side {s : State} {p : Fin 20} {t : Nat} {m : List Byte} {rest : List (List Byte)} (hside : s.ports[p].side = m :: rest)
    (htype : mType m = t) : s.nextMessage p t = some (s.setPort p { s.ports[p] with side := rest }, m) := by
  unfold State.nextMessage
  rw [hside]
  exact if_pos htype

section
variable (s : State) (m : List Byte)

/-- The other end has the configuration in force here. -/
def State.inMatch : Prop := tfield m 16 8 = s.fleet.epoch.toNat ∧ BitVec.ofNat 256 (tfield m 24 32) = s.fleet.digest

/-- The other end has activated what is staged here. -/
def State.isAhead : Prop := tfield m 16 8 = s.fleet.epoch.toNat + 1 ∧
  ∃ g, s.fleet.staged = some g ∧ g.epoch.toNat = tfield m 16 8 ∧ g.digest = BitVec.ofNat 256 (tfield m 24 32)

/-- The other end has staged what is in force here. -/
def State.isBehind : Prop := s.fleet.epoch.toNat = tfield m 16 8 + 1 ∧ tfield m 56 8 = s.fleet.epoch.toNat ∧
  BitVec.ofNat 256 (tfield m 64 32) = s.fleet.digest

variable {s m}

theorem State.compareEpochs_match (h : s.inMatch m) : s.compareEpochs m = 0 := if_pos h

theorem State.staged_matches_iff : (match s.fleet.staged with
    | some c => c.epoch.toNat == tfield m 16 8 && c.digest == BitVec.ofNat 256 (tfield m 24 32)
    | none => false) = true ↔ ∃ g, s.fleet.staged = some g ∧ g.epoch.toNat = tfield m 16 8 ∧ g.digest = BitVec.ofNat 256 (tfield m 24 32) := by
  cases s.fleet.staged with
  | none => simp
  | some g => simp

theorem State.compareEpochs_transition (hmatch : ¬s.inMatch m) (h : s.isAhead m ∨ s.isBehind m) : s.compareEpochs m = 1 := by
  refine (if_neg hmatch).trans ?_
  rcases h with ⟨hnext, hstaged⟩ | hbehind
  · exact if_pos ⟨hnext, State.staged_matches_iff.2 hstaged⟩
  · exact (congrArg (ite _ _) (if_pos hbehind)).trans (ite_self _)

theorem State.compareEpochs_mismatch (hmatch : ¬s.inMatch m) (hahead : ¬s.isAhead m) (hbehind : ¬s.isBehind m) : s.compareEpochs m = 2 :=
  (if_neg hmatch).trans ((if_neg fun h => hahead ⟨h.1, State.staged_matches_iff.1 h.2⟩).trans (if_neg hbehind))

variable (s m)

/-- A peer's epoch changes at most what the fleet is to commit. -/
theorem State.seeCommit_eq : ∃ f, s.seeCommit m = s.setFleet f := by
  unfold State.seeCommit
  split
  · split
    · exact ⟨_, rfl⟩
    · exact ⟨s.fleet, rfl⟩
  · exact ⟨s.fleet, rfl⟩

end

/-! ## Heartbeats received (R262, R306) -/

section
variable (s : State) (p : Fin 20) (m : List Byte)

/-- The state in which a heartbeat of the peer has been compared. -/
def State.compared (rest : List (List Byte)) : State :=
  let u := s.setPort p { s.ports[p] with side := rest }
  let v := (u.setPort p { u.ports[p] with cfg := u.compareEpochs m, heard := u.clk.us }).seeCommit m
  if bit (tfield m 97 1) 1 then v else { v with budget := { v.budget with matches_ := v.budget.matches_.filter (fun k => k.sender != mSrc m) } }

/-- A mismatch is flagged, recorded and reported. -/
def State.mismatched : State := ((s.flag (pReg p + 0x0C) 2).record 0x21 .warning true p (natLe 1 2 ++ natLe 2 (mSrc m))).report 7 p

theorem State.mismatched_ports : (s.mismatched p m).ports = s.ports := (State.report_ports ..).trans (State.record_ports ..)

theorem State.mismatched_budget : (s.mismatched p m).budget = s.budget := by
  refine State.budget_of_control ?_
  rw [State.mismatched, State.control_report, State.control_record]
  rfl

theorem State.mismatched_flags : ((s.mismatched p m).reg .A (pReg p + 0x0C)).getLsbD 2 = true := by
  refine State.bitsStay_of_regs (State.regs_of_hostsOnly (State.report_hostsOnly ..)) _ _ (State.record_bitsStay _ _ _ _ _ _ _ _ ?_)
  exact State.flag_getLsbD _ _ (by decide)

theorem State.compared_eq (rest : List (List Byte)) : ∃ f ms, s.compared p m rest = { s with
    ports := s.ports.set p { s.ports[p] with side := rest, cfg := s.compareEpochs m, heard := s.clk.us }, fleet := f
    budget := { s.budget with matches_ := ms } } ∧ (bit (tfield m 97 1) 1 = false → ∀ k ∈ ms, k.sender ≠ mSrc m) := by
  obtain ⟨u, hu⟩ : ∃ u, u = s.setPort p { s.ports[p] with side := rest, cfg := s.compareEpochs m, heard := s.clk.us } := ⟨_, rfl⟩
  obtain ⟨f, hf⟩ := u.seeCommit_eq m
  have hset : s.compared p m rest = if bit (tfield m 97 1) 1 then u.seeCommit m else { u.seeCommit m with
      budget := { (u.seeCommit m).budget with matches_ := (u.seeCommit m).budget.matches_.filter (fun k => k.sender != mSrc m) } } := by
    unfold State.compared
    dsimp only
    rw [State.setPort_at, State.setPort_setPort, hu]
    rfl
  rw [hset, hf, hu]
  split
  · rename_i hcapped
    exact ⟨f, s.budget.matches_, rfl, fun h => absurd (hcapped.symm.trans h) (by decide)⟩
  · refine ⟨f, _, rfl, fun _ k hk => ?_⟩
    simpa using (List.mem_filter.1 hk).2

section
variable {s p m} {rest : List (List Byte)} (hside : s.ports[p].side = m :: rest) (htype : mType m = 1)
include hside htype

theorem exec_heartbeat_foreign (hsrc : mSrc m ≠ bits s.ports[p].peer.toNat 11 0) :
    exec (.heartbeat p) s = .next (s.setPort p { s.ports[p] with side := rest }) := by
  refine congrArg Host.Outcome.next ?_
  rw [State.nextMessage_of_side hside htype]
  refine if_pos ?_
  rw [State.setPort_at]
  exact hsrc

theorem exec_heartbeat (hsrc : mSrc m = bits s.ports[p].peer.toNat 11 0) : exec (.heartbeat p) s =
    .next (if s.compareEpochs m = 2 ∧ s.ports[p].cfg ≠ 2 then (s.compared p m rest).mismatched p m else s.compared p m rest) := by
  have hcfg : (s.setPort p { s.ports[p] with side := rest }).ports[p].cfg = s.ports[p].cfg := by rw [State.setPort_at]
  refine congrArg Host.Outcome.next ?_
  rw [State.nextMessage_of_side hside htype]
  refine (if_neg ?_).trans ?_
  · rw [State.setPort_at]
    exact not_not_intro hsrc
  · rw [hcfg]
    rfl

end

/-- What a heartbeat of the peer leaves: the comparison, the time, a mismatch flagged on entry, and no match of a sender without a cap. -/
theorem exec_heartbeat_peer {s : State} {p : Fin 20} {m : List Byte} {rest : List (List Byte)} (hside : s.ports[p].side = m :: rest)
    (htype : mType m = 1) (hsrc : mSrc m = bits s.ports[p].peer.toNat 11 0) : ∃ t, exec (.heartbeat p) s = .next t ∧
      t.ports[p] = { s.ports[p] with side := rest, cfg := s.compareEpochs m, heard := s.clk.us } ∧
      (s.compareEpochs m = 2 → s.ports[p].cfg ≠ 2 → (t.reg .A (pReg p + 0x0C)).getLsbD 2 = true) ∧
      (¬(s.compareEpochs m = 2 ∧ s.ports[p].cfg ≠ 2) → t.regs = s.regs ∧ t.log = s.log ∧ t.out = s.out) ∧
      (bit (tfield m 97 1) 1 = false → ∀ k ∈ t.budget.matches_, k.sender ≠ mSrc m) := by
  obtain ⟨f, ms, hcompared, hmatches⟩ := s.compared_eq p m rest
  have hport : (s.compared p m rest).ports[p] = { s.ports[p] with side := rest, cfg := s.compareEpochs m, heard := s.clk.us } := by
    rw [hcompared]
    exact State.setPort_at s p _
  have hbudget : (s.compared p m rest).budget.matches_ = ms := by rw [hcompared]
  refine ⟨_, exec_heartbeat hside htype hsrc, ?_⟩
  by_cases hentry : s.compareEpochs m = 2 ∧ s.ports[p].cfg ≠ 2
  · rw [if_pos hentry, State.mismatched_ports, State.mismatched_budget, hbudget]
    exact ⟨hport, fun _ _ => State.mismatched_flags .., fun h => absurd hentry h, hmatches⟩
  · rw [if_neg hentry, hbudget]
    refine ⟨hport, fun hnew hold => absurd ⟨hnew, hold⟩ hentry, fun _ => ?_, hmatches⟩
    rw [hcompared]
    exact ⟨rfl, rfl, rfl⟩

end

/-! ## Heartbeats lost (R262, R298) -/

section
variable {s : State} {p : Fin 20} (hactive : s.ports[p].state = .active)
include hactive

theorem exec_heartbeatLoss_other (hp : p ≠ 19) :
    exec (.heartbeatLoss p) s = .next (((s.setPort p { s.ports[p] with cfg := 3 }).flag (pReg p + 0x0C) 3).report 7 p) :=
  congrArg Host.Outcome.next ((if_neg (not_not_intro hactive)).trans (if_neg hp))

theorem exec_heartbeatLoss_twin (hp : p = 19) :
    exec (.heartbeatLoss p) s = .next (((s.setPort p { s.ports[p] with cfg := 3 }).flag (pReg p + 0x0C) 3).report 7 p).askPromotion :=
  congrArg Host.Outcome.next ((if_neg (not_not_intro hactive)).trans (if_pos hp))

end

/-- Each standby that is not promoted and does not ask yet asks its witness. -/
theorem State.askPromotion_eq {s : State} {l : List Standby} (h : s.fleet.standbys = l) : s.askPromotion =
    (l.filter (fun y => !y.asking && !y.promoted)).foldl (fun v y => v.sendLease 0x15 y.witness (leaseBody 0 y.active v.myId 0 0))
      (s.setFleet { s.fleet with standbys := l.map (fun (y : Standby) => { y with asking := y.asking || !y.promoted }) }) := by
  subst h
  rfl

/-! ## Cap notices (R426) -/

/-- The highest of some values and a start. -/
theorem foldl_highest {n : Nat} (l : List (BitVec n)) (a : BitVec n) : l.foldl (fun a b => if a < b then b else a) a ∈ a :: l ∧
    ∀ b ∈ a :: l, b ≤ l.foldl (fun a b => if a < b then b else a) a := by
  induction l generalizing a with
  | nil => simp
  | cons b l ih =>
    obtain ⟨hmem, hle⟩ := ih (if a < b then b else a)
    rw [List.foldl_cons]
    have hab : a ≤ (if a < b then b else a) ∧ b ≤ (if a < b then b else a) := by
      split <;> constructor <;> bv_omega
    refine ⟨?_, ?_⟩
    · have hstart : (if a < b then b else a) = a ∨ (if a < b then b else a) = b := by
        split
        · exact .inr rfl
        · exact .inl rfl
      grind
    · intro c hc
      have htop := hle _ List.mem_cons_self
      rcases List.mem_cons.1 hc with rfl | hc
      · exact BitVec.le_trans hab.1 htop
      · rcases List.mem_cons.1 hc with rfl | hc
        · exact BitVec.le_trans hab.2 htop
        · exact hle c (List.mem_cons_of_mem _ hc)

/-- The highest point of a cap notice. -/
def noticeTop (w : Nat) : BitVec 3 := ((List.range 4).map (fun i => BitVec.ofNat 3 (w / 8 ^ i))).foldl (fun a b => if a < b then b else a) 0

theorem noticeTop_highest (w : Nat) : (∃ i < 4, (noticeTop w).toNat = w / 8 ^ i % 8) ∧ ∀ i < 4, w / 8 ^ i % 8 ≤ (noticeTop w).toNat := by
  obtain ⟨hmem, hle⟩ := foldl_highest ((List.range 4).map (fun i => BitVec.ofNat 3 (w / 8 ^ i))) 0
  have hpoint : ∀ i < 4, w / 8 ^ i % 8 ≤ (noticeTop w).toNat := by
    intro i hi
    have h := BitVec.le_def.1 (hle _ (List.mem_cons_of_mem _ (List.mem_map_of_mem (List.mem_range.2 hi))))
    rwa [BitVec.toNat_ofNat] at h
  refine ⟨?_, hpoint⟩
  rcases List.mem_cons.1 hmem with hzero | hsome
  · have htop : (noticeTop w).toNat = 0 := by rw [noticeTop, hzero]; rfl
    exact ⟨0, by decide, by have := hpoint 0 (by decide); omega⟩
  · obtain ⟨i, hi, htop⟩ := List.mem_map.1 hsome
    exact ⟨i, List.mem_range.1 hi, by rw [noticeTop, ← htop, BitVec.toNat_ofNat]⟩

section
variable {s : State} {p : Fin 20} {m : List Byte} {rest : List (List Byte)} (hside : s.ports[p].side = m :: rest) (htype : mType m = 2)
include hside htype

theorem exec_capNotice_off (hoff : bit (s.mreg pwrBudgetCfg) 8 = false) :
    exec (.capNotice p) s = .next (s.setPort p { s.ports[p] with side := rest }) := by
  refine congrArg Host.Outcome.next ?_
  rw [State.nextMessage_of_side hside htype]
  refine if_pos ?_
  rw [show bit ((s.setPort p { s.ports[p] with side := rest }).mreg pwrBudgetCfg) 8 = false from hoff]
  rfl

/-- The match that a cap notice becomes. -/
def State.noticed (s : State) (m : List Byte) : Match :=
  { sender := mSrc m, point := (noticeTop (tfield m 16 2)).toFin
    until_ := if tfield m 28 4 = 0 then none else some (s.clk.us + 1000 * tfield m 28 4), applied := false }

theorem exec_capNotice_on (hon : bit (s.mreg pwrBudgetCfg) 8 = true) : exec (.capNotice p) s = .next { s.setPort p { s.ports[p] with side := rest } with
    budget := { s.budget with matches_ := s.budget.matches_.filter (fun k => k.sender != mSrc m || k.applied) ++ [s.noticed m] } } := by
  refine congrArg Host.Outcome.next ?_
  rw [State.nextMessage_of_side hside htype]
  refine (if_neg ?_).trans rfl
  rw [show bit ((s.setPort p { s.ports[p] with side := rest }).mreg pwrBudgetCfg) 8 = true from hon]
  decide

end

/-- Settles O28, by the message or the silence, and by what the two configurations are. -/
theorem heartbeatsAndCapNotices : Obligations.HeartbeatsAndCapNotices := by
  unfold Obligations.HeartbeatsAndCapNotices
  intro s p x peer
  refine ⟨fun hactive => ⟨_, congrArg Host.Outcome.next (if_neg (not_not_intro hactive)), _, rfl, rfl⟩, fun m rest hside htype => ?_,
    fun hactive hp => ⟨_, exec_heartbeatLoss_other hactive hp, rfl⟩, fun hactive hp => ⟨_, exec_heartbeatLoss_twin hactive hp, ?_⟩,
    fun m rest hside htype => ?_⟩
  · refine ⟨fun hsrc => ⟨_, exec_heartbeat_foreign hside htype hsrc, rfl⟩, fun hsrc => ?_⟩
    obtain ⟨t, hexec, hport, hflag, hquiet, hmatches⟩ := exec_heartbeat_peer hside htype hsrc
    have hcfg : t.ports[p].cfg = s.compareEpochs m := by rw [hport]
    refine ⟨t, hexec, by rw [hport], fun hsame => hcfg.trans (State.compareEpochs_match hsame),
      fun hsame h => hcfg.trans (State.compareEpochs_transition hsame h),
      fun hsame hahead hbehind => hcfg.trans (State.compareEpochs_mismatch hsame hahead hbehind),
      fun hsame hahead hbehind => hflag (State.compareEpochs_mismatch hsame hahead hbehind), fun hsame => hquiet ?_, hmatches⟩
    rintro ⟨hnew, hold⟩
    rcases hsame with hsame | hsame
    · exact absurd ((State.compareEpochs_match hsame).symm.trans hnew) (by decide)
    · exact hold hsame
  · have hfleet : (((s.setPort p { s.ports[p] with cfg := 3 }).flag (pReg p + 0x0C) 3).report 7 p).fleet = s.fleet :=
      (State.fleet_of_hostsOnly (State.report_hostsOnly _ 7 p)).trans rfl
    exact State.askPromotion_eq (congrArg Fleet.standbys hfleet)
  · obtain ⟨hexists, hhighest⟩ := noticeTop_highest (tfield m 16 2)
    exact ⟨fun hoff => ⟨_, exec_capNotice_off hside htype hoff, rfl⟩,
      fun hon => ⟨_, s.noticed m, exec_capNotice_on hside htype hon, rfl, rfl, rfl, rfl, hexists, hhighest⟩⟩

end Sys2Proof.Machine
end

section
/-! The obligation about tombstones, the votes and commits of epochs, and cables and cages (R257, R264, R268, R298, R303–R305, R308, R317). -/

namespace Sys2Proof.Machine

open Sys2Proof

/-! ## Proposals of epochs (R303) -/

section
variable {s : State} {p : Fin 20} {m : List Byte} {rest : List (List Byte)} (hside : s.ports[p].side = m :: rest)

theorem State.staged_epoch {e : BitVec 64} {d : BitVec 256} {c : Staged} (h : s.stagedFor e d = some c) : c.epoch = e := by
  unfold State.stagedFor at h
  have hnames := (Option.filter_eq_some_iff.1 h).2
  simp only [Bool.and_eq_true, beq_iff_eq] at hnames
  exact hnames.1

include hside

section
variable (htype : mType m = 0x30)
include htype

theorem exec_epochPropose : exec (.epochPropose p) s =
    .next ((s.setPort p { s.ports[p] with side := rest }).takeProposal (mSrc m) (mEpoch m) (mDigest m) (mStep m)) := by
  refine congrArg Host.Outcome.next ?_
  rw [State.nextMessage_of_side hside htype]

end

theorem exec_epochVote (htype : mType m = 0x31) :
    exec (.epochVote p) s = .next ((s.setPort p { s.ports[p] with side := rest }).takeVote (mSrc m) (mEpoch m) (mDigest m)) := by
  refine congrArg Host.Outcome.next ?_
  rw [State.nextMessage_of_side hside htype]

end

section
variable {s : State} {src : Nat} {e : BitVec 64} {d : BitVec 256}

theorem State.takeProposal_unconfigured (hblocks : s.fleet.blocks = none) (step : BitVec 64) :
    s.takeProposal src e d step = s.setFleet { s.fleet with refused := s.fleet.refused + 1 } := by
  unfold State.takeProposal
  rw [hblocks]

theorem State.takeProposal_unstaged {b : Blocks} (hblocks : s.fleet.blocks = some b) (hstaged : s.stagedFor e d = none) (step : BitVec 64) :
    s.takeProposal src e d step = if (s.treePlace b b.coordinator src).isSome then s.sendTo 0x31 src (epochBody e 0 step)
      else s.setFleet { s.fleet with refused := s.fleet.refused + 1 } := by
  unfold State.takeProposal
  rw [hblocks, hstaged]

/-- A member votes yes for what it has staged, where the proposal is one epoch ahead and leaves it two steps, and no elsewhere. -/
theorem State.takeProposal_member {b : Blocks} {c : Staged} (hblocks : s.fleet.blocks = some b) (hstaged : s.stagedFor e d = some c)
    (hplace : s.treePlace c.blocks b.coordinator src = some .member) (step : BitVec 64) : s.takeProposal src e d step =
      if s.fleet.epoch + 1 = e ∧ s.fleet.lastStep.toNat + 2 < step.toNat then
        (s.setFleet { s.fleet with voted := some (c, step) }).sendTo 0x31 src (epochBody e d step)
      else s.sendTo 0x31 src (epochBody e 0 step) := by
  unfold State.takeProposal
  rw [hblocks, hstaged]
  dsimp only
  rw [hplace]
  dsimp only
  have hyes : (s.fleet.epoch + 1 == c.epoch && decide (s.fleet.lastStep.toNat + 2 < step.toNat)) =
      decide (s.fleet.epoch + 1 = e ∧ s.fleet.lastStep.toNat + 2 < step.toNat) := by
    rw [State.staged_epoch hstaged, Bool.decide_and]
    rfl
  unfold State.castVote
  rw [hyes]
  by_cases hvote : s.fleet.epoch + 1 = e ∧ s.fleet.lastStep.toNat + 2 < step.toNat
  · rw [decide_eq_true hvote, if_pos hvote]
    rfl
  · rw [decide_eq_false hvote, if_neg hvote]
    rfl

end

/-! ## Votes (R303, R304, R308) -/

theorem find?_filter_other (r : VoteRole) (l : List Poll) :
    (l.filter (fun k => decide (k.role ≠ r))).find? (fun k => decide (k.role = r)) = none := by
  refine List.find?_eq_none.2 fun k hk => ?_
  simpa using (List.mem_filter.1 hk).2

theorem find?_replaced {l : List Poll} {k j : Poll} (hfind : l.find? (fun k => decide (k.role = j.role)) = some k) :
    (l.map (fun i => if i.role = j.role then j else i)).find? (fun k => decide (k.role = j.role)) = some j := by
  induction l with
  | nil => cases hfind
  | cons i l ih =>
    rw [List.map_cons]
    by_cases hi : i.role = j.role
    · rw [if_pos hi]
      exact List.find?_cons_of_pos (decide_eq_true rfl)
    · rw [if_neg hi, List.find?_cons_of_neg (by simpa using hi)]
      exact ih (by rwa [List.find?_cons_of_neg (by simpa using hi)] at hfind)

section
variable {s : State} {k : Poll}

theorem State.role_of_poll {r : VoteRole} (hpoll : s.poll r = some k) : k.role = r := by
  simpa using List.find?_some hpoll

/-- The proposal that failed is gone, and nothing is committed. -/
theorem State.failProposal_dropped (hsrc : k.src = none) (voter : Nat) :
    (s.failProposal k voter).poll .coordinator = none ∧ (s.failProposal k voter).fleet.commit = s.fleet.commit := by
  have hfleet : (s.failProposal k voter).fleet = (s.dropPoll .coordinator).fleet := by
    rw [State.failProposal, State.answerProposal, hsrc]
    exact State.fleet_of_hostsOnly (State.report_hostsOnly ..)
  unfold State.poll
  rw [hfleet]
  exact ⟨find?_filter_other .coordinator s.fleet.polls, rfl⟩

section
variable {up : Nat} (hup : k.up = .to up) (hother : up ≠ s.myId)
include hup hother

/-- A leader's poll that ends is answered upward. -/
theorem State.endPoll_up (yes : Bool) :
    s.endPoll k yes = (s.dropPoll k.role).sendTo 0x31 up (epochBody k.epoch (if yes then k.digest else 0) k.step) := by
  unfold State.endPoll
  rw [hup]
  exact if_neg hother

end

section
variable {src : Nat} {e : BitVec 64} {d : BitVec 256} (hfind : s.fleet.polls.find? (fun k => k.epoch == e && k.missing.contains src) = some k)
include hfind

theorem voter_of_find : k.epoch = e ∧ k.missing.contains src = true := by
  have hvoter := List.find?_some hfind
  simp only [Bool.and_eq_true, beq_iff_eq] at hvoter
  exact hvoter

/-- A vote that a leader waits for: it is noted, and the last one ends the poll. -/
theorem State.takeVote_leader (hrole : k.role ≠ .coordinator) : s.takeVote src e d =
    if k.missing.filter (fun i => i != src) = [] then
      s.endPoll { k with missing := k.missing.filter (fun i => i != src), refused := k.refused || !(k.digest == d) } (!(k.refused || !(k.digest == d)))
    else s.setPoll { k with missing := k.missing.filter (fun i => i != src), refused := k.refused || !(k.digest == d) } := by
  unfold State.takeVote
  rw [hfind]
  dsimp only
  rw [if_neg hrole]
  simp only [List.isEmpty_iff]

/-- A vote that the coordinator waits for: a no ends its proposal. -/
theorem State.takeVote_coordinator_no (hrole : k.role = .coordinator) (hpoll : s.poll .coordinator = some k) (hno : k.digest ≠ d) :
    s.takeVote src e d = s.failProposal k src := by
  obtain ⟨-, hmissing⟩ := voter_of_find hfind
  unfold State.takeVote
  rw [hfind]
  dsimp only
  rw [if_pos hrole, State.coordinatorVote, hpoll]
  dsimp only
  rw [hmissing, if_neg (by decide), beq_eq_false_iff_ne.2 hno, if_pos (by decide)]

/-- A yes that is not the last is noted. -/
theorem State.takeVote_coordinator_yes (hrole : k.role = .coordinator) (hpoll : s.poll .coordinator = some k) (hyes : k.digest = d)
    (hmore : ∃ i ∈ k.missing, i ≠ src) : s.takeVote src e d = s.setPoll { k with missing := k.missing.filter (fun i => i != src) } := by
  obtain ⟨-, hmissing⟩ := voter_of_find hfind
  obtain ⟨i, hi, hne⟩ := hmore
  have hleft : (k.missing.filter (fun i => i != src)).isEmpty = false :=
    List.isEmpty_eq_false_iff_exists_mem.2 ⟨i, List.mem_filter.2 ⟨hi, bne_iff_ne.2 hne⟩⟩
  unfold State.takeVote
  rw [hfind]
  dsimp only
  rw [if_pos hrole, State.coordinatorVote, hpoll]
  dsimp only
  rw [hmissing, if_neg (by decide), beq_iff_eq.2 hyes, if_neg (by decide), hleft, if_neg Bool.false_ne_true]

end

/-- The coordinator's proposal after a vote is noted. -/
theorem State.poll_setPoll {j : Poll} (hpoll : s.poll j.role = some k) : (s.setPoll j).poll j.role = some j := find?_replaced hpoll

end

/-! ## Commits (R303–R305) -/

section
variable (s : State)

theorem State.sendTo_commit (mtype dest : Nat) (body : List Byte) : (s.sendTo mtype dest body).fleet.commit = s.fleet.commit := by
  unfold State.sendTo
  cases s.egress dest with
  | none => rfl
  | some q =>
    have hfleet : (State.sendSide (s.message mtype (s.portId q) dest body).1 q (s.message mtype (s.portId q) dest body).2).fleet =
        (s.message mtype (s.portId q) dest body).1.fleet :=
      (congrArg State.fleet (State.portsOnly_trans (State.portsOnly_setPort ..) (State.pump_portsOnly ..) : State.portsOnly _ _) :)
    exact kept_ite (g := fun t => t.fleet.commit) (congrArg Fleet.commit hfleet :) rfl

theorem State.takeCommit_commit (c : Staged) (step : BitVec 64) (coord : Nat) : (s.takeCommit c step coord).fleet.commit = some (c, step) := by
  unfold State.takeCommit
  dsimp only
  split
  · exact kept_foldl (g := fun t => t.fleet.commit) (fun u i => u.sendTo_commit ..) _ _
  · rfl

end

theorem exec_epochCommit {s : State} {p : Fin 20} {m : List Byte} {rest : List (List Byte)} (hside : s.ports[p].side = m :: rest)
    (htype : mType m = 0x32) {b : Blocks} {c : Staged} (hblocks : s.fleet.blocks = some b) (hconfig : s.configFor (mEpoch m) (mDigest m) = some c)
    (hplace : s.treePlace c.blocks b.coordinator (mSrc m) ≠ none) :
    exec (.epochCommit p) s = .next ((s.setPort p { s.ports[p] with side := rest }).takeCommit c (mStep m) b.coordinator) := by
  have hu : ∀ u : State, u.fleet = s.fleet → u.regs = s.regs → u.configFor (mEpoch m) (mDigest m) = some c ∧ u.fleet.blocks = some b ∧
      (u.treePlace c.blocks b.coordinator (mSrc m)).isSome = true := by
    intro u hfleet hregs
    refine ⟨?_, by rw [hfleet, hblocks], ?_⟩
    · rw [← hconfig]
      unfold State.configFor State.stagedFor
      rw [hfleet]
    · rw [← Option.isSome_iff_ne_none] at hplace
      rw [← hplace]
      unfold State.treePlace State.myId State.mreg State.reg
      rw [hregs]
  obtain ⟨hconfig', hblocks', hplace'⟩ := hu (s.setPort p { s.ports[p] with side := rest }) rfl rfl
  refine congrArg Host.Outcome.next ?_
  rw [State.nextMessage_of_side hside htype]
  dsimp only
  rw [hconfig', hblocks']
  exact if_pos hplace'

/-! ## Windows that end (R303, R304, R308) -/

section
variable {s : State} {k : Poll}

theorem exec_epochVoteTimeout_coordinator (hpoll : s.poll .coordinator = some k) :
    exec (.epochVoteTimeout .coordinator) s = .next (s.failProposal k (k.missing.headD 0)) := by
  refine congrArg Host.Outcome.next ?_
  dsimp only
  rw [hpoll]

theorem exec_epochVoteTimeout_leader (hpoll : s.poll .leader = some k) : exec (.epochVoteTimeout .leader) s = .next (s.dropPoll .leader) := by
  refine congrArg Host.Outcome.next ?_
  dsimp only
  rw [hpoll]

theorem exec_epochVoteTimeout_group (hleader : s.poll .leader = none) (hpoll : s.poll .mirrorLeader = some k)
    (hgroup : k.missing.any (fun i => podOf i == podOf s.myId) = true) : exec (.epochVoteTimeout .leader) s = .next (s.endPoll k false) := by
  refine congrArg Host.Outcome.next ?_
  dsimp only
  rw [hleader, hpoll]
  exact if_pos hgroup

theorem exec_epochVoteTimeout_mirror (hpoll : s.poll .mirrorLeader = some k) : exec (.epochVoteTimeout .mirrorLeader) s = .next (s.endPoll k false) := by
  refine congrArg Host.Outcome.next ?_
  dsimp only
  rw [hpoll]

/-- A no goes upward from a leader that asked the other pod too. -/
theorem State.endPoll_mirror_no (hpoll : s.poll .mirrorLeader = some k) {up : Nat} (hup : k.up = .to up) (hother : up ≠ s.myId) :
    s.endPoll k false = (s.dropPoll .mirrorLeader).sendTo 0x31 up (epochBody k.epoch 0 k.step) := by
  rw [State.endPoll_up hup hother, State.role_of_poll hpoll]
  rfl

end

/-! ## Tombstones and cables (R257, R264, R268) -/

theorem exec_tombstone {s : State} {p : Fin 20} {m : List Byte} {rest : List (List Byte)} (hside : s.ports[p].side = m :: rest)
    (htype : mType m = 0x20) (hsrc : mSrc m = bits s.ports[p].peer.toNat 11 0) (hactive : s.ports[p].state = .active) :
    exec (.tombstone p) s = .next ((s.setPort p { s.ports[p] with side := rest }).portDown p 0xB) := by
  refine congrArg Host.Outcome.next ?_
  rw [State.nextMessage_of_side hside htype]
  refine (if_neg ?_).trans ?_
  · rw [State.setPort_at]
    exact not_not_intro hsrc
  · rw [State.setPort_at, hactive]

section
variable {s : State} {p : Fin 20} (hactive : s.ports[p].state = .active)

/-- The port after a read of its cable that was not answered. -/
def Port.unread (x : Port) : Port := { x with unanswered := x.unanswered + 1, cable := x.cable &&& ~~~1 }

theorem State.live_of_active (h : s.ports[p].state = .active) : ¬(s.ports[p].state = .disabled ∨ s.ports[p].state = .down) := by
  rw [h]
  decide

include hactive

theorem exec_cableMonitorRead_good (hpower : s.ports[p].power = true) {r : CableReading} (hwarn : r.warn = false) (halarm : r.alarm = false)
    (hloss : r.loss &&& s.ports[p].lanes = 0) : exec (.cableMonitorRead p (some r)) s = .next (((s.setPort p { s.ports[p] with
      unanswered := 0, cable := BitVec.ofNat 32 (r.temp.toNat * 2 ^ 16 + (s.ports[p].cable &&& 2).toNat + 1) }).emit (.twoWire p .lower false)).emit
        (.twoWire p .p11 false)) := by
  refine congrArg Host.Outcome.next ((if_neg (State.live_of_active hactive)).trans ?_)
  have hanswer : (if s.ports[p].power then some r else none) = some r := if_pos hpower
  rw [hanswer]
  dsimp only
  have hcalm : 4 * b2n (false || false) = 0 := rfl
  rw [if_neg (not_not_intro hloss), hwarn, halarm, hcalm, Nat.add_zero (_ * _), if_neg Bool.false_ne_true, Bool.or_false, if_neg Bool.false_ne_true]

theorem exec_cableMonitorRead_none : exec (.cableMonitorRead p none) s =
    .next (if 2 ≤ s.ports[p].unanswered then ((s.setPort p s.ports[p].unread).emit (.twoWire p .lower false)).portDown p 1
      else (s.setPort p s.ports[p].unread).emit (.twoWire p .lower false)) := by
  refine congrArg Host.Outcome.next ((if_neg (State.live_of_active hactive)).trans ?_)
  have hstill : ((s.setPort p s.ports[p].unread).emit (.twoWire p .lower false)).ports[p].state = .active := by
    have hport : ((s.setPort p s.ports[p].unread).emit (.twoWire p .lower false)).ports[p] = s.ports[p].unread := State.setPort_at ..
    rw [hport]
    exact hactive
  rw [← State.portLost_active hstill 1, ite_self]
  rfl

end

/-- Settles O30, by the message, the window that ends, or the event at the cage. -/
theorem epochVotesTombstonesAndCages : Obligations.EpochVotesTombstonesAndCages := by
  unfold Obligations.EpochVotesTombstonesAndCages
  intro s p x
  refine ⟨fun m rest hside => ?_, fun k hpoll hsrc => ⟨_, exec_epochVoteTimeout_coordinator hpoll, State.failProposal_dropped hsrc _⟩,
    fun k hpoll => ⟨_, exec_epochVoteTimeout_leader hpoll, rfl⟩,
    fun k up hleader hpoll hgroup hup hother => ⟨_, exec_epochVoteTimeout_group hleader hpoll hgroup, State.endPoll_mirror_no hpoll hup hother⟩,
    fun k up hpoll hup hother => ⟨_, exec_epochVoteTimeout_mirror hpoll, State.endPoll_mirror_no hpoll hup hother⟩,
    fun low => ⟨_, rfl, rfl⟩, fun hpower => ⟨_, congrArg Host.Outcome.next (if_pos hpower), rfl⟩,
    fun hlimited => ⟨_, congrArg Host.Outcome.next (if_pos hlimited), rfl⟩,
    fun hactive hpower r hwarn halarm hloss => ⟨_, exec_cableMonitorRead_good hactive hpower hwarn halarm hloss, rfl⟩,
    fun hactive hfew => ⟨_, exec_cableMonitorRead_none hactive, if_neg (Nat.not_le.2 hfew)⟩, fun hactive hthird => ?_⟩
  · intro u e d
    refine ⟨fun htype hsrc hactive => ?_, fun htype b0 c hblocks hstaged hplace => ?_,
      fun htype hblocks => ⟨_, exec_epochPropose hside htype, State.takeProposal_unconfigured (s := u) hblocks _⟩,
      fun htype b0 hblocks hstaged => ⟨_, exec_epochPropose hside htype, State.takeProposal_unstaged (s := u) hblocks hstaged _⟩,
      fun htype k up hfind hrole hup hother => ⟨_, exec_epochVote hside htype, ?_⟩, fun htype k hfind hrole hpoll hsrc => ?_,
      fun htype b0 c hblocks hconfig hplace => ⟨_, exec_epochCommit hside htype hblocks hconfig hplace, State.takeCommit_commit ..⟩⟩
    · obtain ⟨hdown, hcause, -⟩ := u.portDown_down p 0xB
      exact ⟨_, exec_tombstone hside htype hsrc hactive, hdown, hcause⟩
    · have hvote := State.takeProposal_member (s := u) hblocks hstaged hplace (mStep m)
      exact ⟨fun hyes => ⟨_, exec_epochPropose hside htype, hvote.trans (if_pos hyes)⟩,
        fun hno => ⟨_, exec_epochPropose hside htype, hvote.trans (if_neg hno)⟩⟩
    · have hvote := State.takeVote_leader (s := u) (d := d) hfind hrole
      have hrefused : (k.refused || !(k.digest == d)) = true ↔ k.refused = true ∨ k.digest ≠ d := by simp
      refine ⟨fun hleft => ⟨_, hvote.trans (if_neg hleft), hrefused⟩, fun hleft => ?_⟩
      obtain ⟨hepoch, -⟩ := voter_of_find (s := u) hfind
      have hends := State.endPoll_up (s := u) (k := { k with missing := k.missing.filter (fun i => i != mSrc m), refused := k.refused || !(k.digest == d) })
        hup hother (!(k.refused || !(k.digest == d)))
      rw [if_pos hleft, hends] at hvote
      rw [← hepoch]
      refine ⟨fun hno => ?_, fun hyes => ?_⟩
      · rw [hrefused.2 hno] at hvote
        exact hvote
      · obtain ⟨-, hsame⟩ := not_or.1 hyes
        rw [Bool.eq_false_iff.2 (hrefused.not.2 hyes)] at hvote
        rw [← not_not.1 hsame]
        exact hvote
    · refine ⟨fun hno => ⟨_, exec_epochVote hside htype, ?_⟩, fun hyes hmore => ⟨_, exec_epochVote hside htype, _, ?_, rfl⟩⟩
      · rw [State.takeVote_coordinator_no (s := u) hfind hrole hpoll hno]
        exact State.failProposal_dropped (s := u) hsrc _
      · rw [State.takeVote_coordinator_yes (s := u) hfind hrole hpoll hyes hmore]
        have hset := State.poll_setPoll (s := u) (k := k) (j := { k with missing := k.missing.filter (fun i => i != mSrc m) }) (hrole ▸ hpoll)
        exact hrole ▸ hset
  · obtain ⟨hdown, hcause, -⟩ := ((s.setPort p x.unread).emit (.twoWire p .lower false)).portDown_down p 1
    exact ⟨_, (exec_cableMonitorRead_none hactive).trans (congrArg Host.Outcome.next (if_pos hthird)), hdown, hcause⟩

end Sys2Proof.Machine
end

section
/-! SUPPORT. How the console takes a command of any class, what it leaves alone, and what an idle microsecond does beside the command that runs
(R499, R551–R554, R568). -/

namespace Sys2Proof.Machine

open Sys2Proof

/-! ## Typed numbers (R551) -/

theorem argText_some (name : String) (n : Nat) : name ++ argText (some n) = name ++ " " ++ decText n := String.append_assoc.symm

theorem argBelow_fin {n : Nat} (k : Fin n) : argBelow n (some k.val) = some k := dif_pos k.isLt

theorem typedTile_some (t : BitVec 12) : typedTile (some t.toNat) = tileOfIdent t.toNat := if_pos t.isLt

theorem typedPhase_some (d : Fin 4) (n : Fin 26) : typedPhase (some d.val) (some n.val) = some (d, n) := by
  rw [typedPhase, argBelow_fin, argBelow_fin]
  rfl

/-! ## Commands at the console (R551–R554) -/

section
variable {s : State} {c : CmdClass} {byHwd : Bool} (h : s.atConsole c byHwd) (line : String)
include h

/-- A command that the console takes is echoed, checked, and then counted and run. -/
theorem State.console_at (check : State → Nat) (run : State → State) : s.console line c byHwd check run =
    if check (s.hears (ascii line)) ≠ 0 then (s.hears (ascii line)).reply (check (s.hears (ascii line))) else run (s.onLine line c) := by
  obtain ⟨hready, htest, hrunning, hlife⟩ := h
  have hserved : (!byHwd && !(s.hears (ascii line)).crown.running) = false := by
    have hcrown : (s.hears (ascii line)).crown = s.crown := rfl
    cases byHwd with
    | true => rfl
    | false =>
      rw [hcrown, hrunning rfl]
      rfl
  have hallowed : (!classAllows c (s.hears (ascii line)).crown.life) = false := congrArg not hlife
  unfold State.console
  dsimp only
  rw [hready, htest, if_neg (by decide), if_neg (by decide), hserved, if_neg Bool.false_ne_true, hallowed, if_neg Bool.false_ne_true]
  rfl

section
variable {check : State → Nat} (run : State → State)

theorem State.console_starts (hcheck : check (s.hears (ascii line)) = 0) : s.console line c byHwd check run = run (s.onLine line c) :=
  (State.console_at h line check run).trans (if_neg (not_not_intro hcheck))

theorem State.console_replies {n : Nat} (hcheck : check (s.hears (ascii line)) = n) (hn : n ≠ 0) :
    s.console line c byHwd check run = (s.hears (ascii line)).reply n := by
  refine (State.console_at h line check run).trans ?_
  rw [hcheck]
  exact if_pos hn

end

section
variable {α : Type} {x : α} {check : α → State → Nat} (run : α → State → State)

theorem State.consoleArg_starts (hcheck : check x (s.hears (ascii line)) = 0) :
    s.consoleArg line c byHwd (some x) check run = run x (s.onLine line c) := State.console_starts h line (run x) hcheck

theorem State.consoleArg_replies {n : Nat} (hcheck : check x (s.hears (ascii line)) = n) (hn : n ≠ 0) :
    s.consoleArg line c byHwd (some x) check run = (s.hears (ascii line)).reply n := State.console_replies h line (run x) hcheck hn

theorem State.consoleArg_missing (check : α → State → Nat) (run : α → State → State) :
    s.consoleArg line c byHwd none check run = (s.hears (ascii line)).reply 2 := State.console_replies h line _ rfl (by decide)

end

end

/-! ## What a line that is taken leaves alone (R551, R568) -/

/-- `t` is `s` but for the console's last byte, its count of changes, registers, and what the hosts are told. -/
def State.typedOnly (s t : State) : Prop :=
  { t with
    svc := { t.svc with lastByte := s.svc.lastByte, changes := s.svc.changes }
    regs := s.regs, host := s.host, rings := s.rings, mem := s.mem, out := s.out, crown := s.crown, free := s.free } = s

section
variable {s t u : State}

theorem State.typedOnly_of_hostsOnly (h : s.typedOnly t) (k : t.hostsOnly u) : s.typedOnly u := by
  unfold State.typedOnly State.hostsOnly at *
  rw [← h, ← k]

theorem State.onLine_typedOnly (s : State) (line : String) (c : CmdClass) : s.typedOnly (s.onLine line c) := by
  unfold State.onLine State.countChange
  split
  · dsimp only
    split
    · refine State.typedOnly_of_hostsOnly ?_ (State.signalBoth_hostsOnly _)
      exact rfl
    · exact rfl
  · exact rfl

section
variable (h : s.typedOnly t)
include h

theorem State.tile_of_typedOnly (n : Nat) : t.tile n = s.tile n := (congrArg (fun v : State => v.tile n) h :)
theorem State.inLaunch_of_typedOnly (n : Nat) : t.inLaunch n = s.inLaunch n := (congrArg (fun v : State => v.inLaunch n) h :)
theorem State.siteOf_of_typedOnly (n : Nat) : t.siteOf n = s.siteOf n := (congrArg (fun v : State => v.siteOf n) h :)
theorem State.power_of_typedOnly : t.power = s.power := (congrArg State.power h :)
theorem State.clk_of_typedOnly : t.clk = s.clk := (congrArg State.clk h :)
theorem State.le_of_typedOnly : t.le = s.le := (congrArg State.le h :)
theorem State.crowbarRails_of_typedOnly : t.crowbarRails = s.crowbarRails := (congrArg State.crowbarRails h :)

end
end

/-- A line of class T is echoed, and no more. -/
theorem State.onLine_t (s : State) (line : String) : s.onLine line .t = s.hears (ascii line) := by
  unfold State.onLine State.countChange
  exact if_neg (by decide)

/-! ## An idle microsecond (R499; log 2) -/

section
variable (s : State)

theorem State.syncConfig_eq : ∃ c, s.syncConfig = { s with crown := c } := by
  have hput : ∀ (k : Fin 2) (seq : Nat), ∃ c, { s with crown := { s.crown with
      copies := s.crown.copies.set k (some { seq := seq, part := s.config }) } } = { s with crown := c } := fun k seq => ⟨_, rfl⟩
  unfold State.syncConfig
  dsimp only
  split
  · exact ⟨s.crown, rfl⟩
  · split
    · exact hput ..
    · split
      · exact hput ..
      · split
        · exact ⟨s.crown, rfl⟩
        · exact hput ..

theorem State.payOwed_hostsOnly (fn : Fn) : s.hostsOnly (s.payOwed fn) := State.hostsOnly_ite (s.signalRing_hostsOnly fn) rfl

omit s in
theorem State.out_ite {c : Prop} [Decidable c] {l : List Output} {t u : State} (ht : l <+: t.out) (hu : l <+: u.out) :
    l <+: (if c then t else u).out := by
  split
  · exact ht
  · exact hu

/-- A signal takes back nothing that was sent. -/
theorem State.signal_out (fn : Fn) (vec : Nat) : s.out <+: (s.signal fn vec).out := by
  unfold State.signal
  exact State.out_ite List.prefix_rfl (State.out_ite (List.prefix_append ..) List.prefix_rfl)

theorem State.payOwed_out (fn : Fn) : s.out <+: (s.payOwed fn).out := by
  unfold State.payOwed State.signalRing
  refine State.out_ite (State.out_ite List.prefix_rfl (List.IsPrefix.trans ?_ (State.signal_out ..))) List.prefix_rfl
  exact List.prefix_rfl

variable {s}

theorem State.tendRing_idle {fn : Fn} (hstarting : s.rings[fnIdx fn].starting = false) (hdue : s.rings[fnIdx fn].due = []) : s.tendRing fn = s := by
  unfold State.tendRing State.flushEvents
  rw [hstarting, if_neg Bool.false_ne_true, hdue]
  rfl

/-- In an idle microsecond the command that runs is tended, at the time after it, and then the signals that are owed go. -/
theorem step_idle (h : s.idle) : ∃ c, step s = .next ((({ s with clk := s.clk.tick, crown := c } : State).tendConsole.payOwed .A).payOwed .B) := by
  obtain ⟨hpending, hpowered, hidle⟩ := h
  obtain ⟨c, hc⟩ := State.syncConfig_eq { s with clk := s.clk.tick }
  obtain ⟨u, hu⟩ : ∃ u : State, u = { s with clk := s.clk.tick, crown := c } := ⟨_, rfl⟩
  have hwrites : ∀ fn, u.performWrites fn = u := by
    intro fn
    obtain ⟨hnone, -⟩ := hidle (fnIdx fn)
    refine if_pos ?_
    rw [hu]
    exact List.isEmpty_iff.2 hnone
  have hrings : ∀ fn, u.tendRing fn = u := by
    intro fn
    obtain ⟨-, hstarting, hdue⟩ := hidle (fnIdx fn)
    refine State.tendRing_idle ?_ ?_
    · rw [hu]
      exact hstarting
    · rw [hu]
      exact hdue
  refine ⟨c, ?_⟩
  have hstep : step s = .next s.tick := by
    unfold step
    rw [hpending]
  have htick : s.tick = ((((((State.syncConfig { s with clk := s.clk.tick }).performWrites .A).performWrites .B).tendRing .A).tendRing
      .B).tendConsole.payOwed .A).payOwed .B := if_neg hpowered
  rw [hstep, htick, hc, ← hu, hwrites, hwrites, hrings, hrings]

end

end Sys2Proof.Machine
end

section
/-! SUPPORT. What each field test does where it starts, as it runs, and as an abort byte stops it (R268, R343, R395, R396, R527, R552, R558, R559,
R561, R562, R567). -/

namespace Sys2Proof.Machine

open Sys2Proof

/-! ## Marches (R527, R558) -/

section
variable {s : State} {m : March}

theorem State.beginMarch_marches (h : s.marchRuns m.mem m.inst = false) :
    s.beginMarch m = { s with sram := { s.sram with marches := s.sram.marches ++ [m] } } := if_neg (by rw [h]; exact Bool.false_ne_true)

/-- A march that has begun is one more that runs. -/
theorem State.marchRuns_beginMarch (k i : Nat) : (s.beginMarch m).marchRuns k i = (s.marchRuns k i || (m.mem == k && m.inst == i)) := by
  cases h : s.marchRuns m.mem m.inst with
  | false =>
    rw [State.beginMarch_marches h]
    unfold State.marchRuns
    rw [List.any_append, List.any_cons, List.any_nil, Bool.or_false]
  | true =>
    have hsame : s.beginMarch m = s := if_pos h
    rw [hsame, Eq.comm, Bool.or_eq_left_iff_imp]
    intro hm
    obtain ⟨hmem, hinst⟩ := Bool.and_eq_true_iff.1 hm
    rwa [← beq_iff_eq.1 hmem, ← beq_iff_eq.1 hinst]

theorem State.stopMarch_marchRuns (s : State) (mem inst : Nat) : (s.stopMarch mem inst).marchRuns mem inst = false := by
  refine List.any_eq_false.2 fun k hk => ?_
  have hother := (List.mem_filter.1 hk).2
  rw [Bool.not_eq_true'] at hother
  exact Bool.eq_false_iff.1 hother

/-- A march that does not run is not begun by the stop of another. -/
theorem State.stopMarch_marchRuns_of {k i : Nat} (h : s.marchRuns k i = false) (mem inst : Nat) : (s.stopMarch mem inst).marchRuns k i = false :=
  List.any_eq_false.2 fun x hx => List.any_eq_false.1 h x (List.mem_of_mem_filter hx)

end

section
variable {s : State} {n : Nat} (hbusy : s.tileBusy n = false)
include hbusy

theorem State.marchRuns_of_not_busy {k : Nat} (hk : k < 3) : s.marchRuns k (s.siteOf n) = false := by
  unfold State.tileBusy at hbusy
  obtain ⟨-, hnone⟩ := Bool.or_eq_false_iff.1 hbusy
  refine List.any_eq_false.2 fun m hm hruns => List.any_eq_false.1 hnone m hm ?_
  obtain ⟨hmem, hinst⟩ := Bool.and_eq_true_iff.1 hruns
  rw [hinst, beq_iff_eq.1 hmem]
  exact decide_eq_true hk

/-- A tile that is tested is fenced, or waits for its launch, and its three memories are marched. -/
theorem State.testTile_eq : s.testTile n =
    let v := s.setTile n (if s.inLaunch n then { s.tile n with marchDue := true } else { s.tile n with marching := true, fenced := true })
    { v with
      sram := { s.sram with marches := s.sram.marches ++ [{ mem := 0, inst := s.siteOf n, transparent := false }] ++
        [{ mem := 1, inst := s.siteOf n, transparent := false }] ++ [{ mem := 2, inst := s.siteOf n, transparent := false }] }
      svc := { s.svc with test := some (.tile n) } } := by
  unfold State.testTile
  dsimp only
  generalize hv : s.setTile n _ = v
  have hfree : ∀ k < 3, v.marchRuns k (s.siteOf n) = false := by
    intro k hk
    rw [← hv]
    exact State.marchRuns_of_not_busy hbusy hk
  have hsram : v.sram = s.sram := by
    rw [← hv]
    rfl
  have hsvc : v.svc = s.svc := by
    rw [← hv]
    rfl
  have hsecond : (v.beginMarch { mem := 0, inst := s.siteOf n, transparent := false }).marchRuns 1 (s.siteOf n) = false := by
    rw [State.marchRuns_beginMarch, hfree 1 (by decide)]
    rfl
  have hthird : ((v.beginMarch { mem := 0, inst := s.siteOf n, transparent := false }).beginMarch
      { mem := 1, inst := s.siteOf n, transparent := false }).marchRuns 2 (s.siteOf n) = false := by
    rw [State.marchRuns_beginMarch, State.marchRuns_beginMarch, hfree 2 (by decide)]
    rfl
  rw [State.beginMarch_marches hthird, State.beginMarch_marches hsecond, State.beginMarch_marches (hfree 0 (by decide)), ← hsram, ← hsvc]

end

section
variable {s : State} (h : s.atConsole .s false) (t0 : BitVec 12)
include h

theorem exec_testTile_none (hnone : tileOfIdent t0.toNat = none) :
    exec (.testTile (some t0.toNat)) s = .next ((s.hears (ascii ("test tile " ++ decText t0.toNat))).reply 2) := by
  refine congrArg Host.Outcome.next ?_
  rw [typedTile_some, hnone]
  exact State.consoleArg_missing h _ _ _

section
variable {t0} {n : Nat} (hn : tileOfIdent t0.toNat = some n)
include hn

theorem exec_testTile_replies {k : Nat} (hcheck : (if s.stage ≠ .stage3 then 3 else if s.tileBusy n then 5 else 0) = k) (hk : k ≠ 0) :
    exec (.testTile (some t0.toNat)) s = .next ((s.hears (ascii ("test tile " ++ decText t0.toNat))).reply k) := by
  refine congrArg Host.Outcome.next ?_
  rw [typedTile_some, hn]
  exact State.consoleArg_replies h _ _ hcheck hk

theorem exec_testTile_starts (hstage : s.stage = .stage3) (hbusy : s.tileBusy n = false) :
    exec (.testTile (some t0.toNat)) s = .next ((s.onLine ("test tile " ++ decText t0.toNat) .s).testTile n) := by
  have hcheck : (if s.stage ≠ .stage3 then 3 else if s.tileBusy n then 5 else 0) = 0 := by
    rw [if_neg (not_not_intro hstage), hbusy]
    rfl
  refine congrArg Host.Outcome.next ?_
  rw [typedTile_some, hn]
  exact State.consoleArg_starts h _ _ hcheck

end

end

/-! ## `test phase` (R343, R345, R558) -/

section
variable {s : State} (h : s.atConsole .s false) (d : Fin 4) (n : Fin 26) (amps mean : Int)
include h

theorem exec_testPhase_starts (hstage : s.stage = .stage3) (hworking : s.power.rails[coreRail d].working.getLsbD n = true) :
    exec (.testPhase (some d.val) (some n.val) amps mean) s =
      .next ((s.onLine ("test phase " ++ decText d.val ++ " " ++ decText n.val) .s).testPhase d n amps mean) := by
  refine congrArg Host.Outcome.next ?_
  rw [typedPhase_some, argText_some, argText_some]
  exact State.consoleArg_starts h _ _ (if_pos ⟨hstage, hworking⟩)

theorem exec_testPhase_replies (hnot : s.stage ≠ .stage3 ∨ s.power.rails[coreRail d].working.getLsbD n = false) :
    exec (.testPhase (some d.val) (some n.val) amps mean) s =
      .next ((s.hears (ascii ("test phase " ++ decText d.val ++ " " ++ decText n.val))).reply 3) := by
  refine congrArg Host.Outcome.next ?_
  rw [typedPhase_some, argText_some, argText_some]
  refine State.consoleArg_replies h _ _ (if_neg ?_) (by decide)
  rintro ⟨hstage, hworking⟩
  rcases hnot with hnot | hnot
  · exact hnot hstage
  · exact Bool.false_ne_true (hnot.symm.trans hworking)

end

/-! ## `test loop` (R373, R374, R559) -/

/-- A capture is armed, or triggered, in the engine alone. -/
theorem State.armCapture_eq (s : State) {cap : CaptureSetup} (h : capListed cap = true) :
    ∃ c, s.armCapture cap = { s with le := { s.le with capture := c } } := by
  have hset : ∀ c, ∃ c', ({ s with le := { s.le with capture := c } } : State) = { s with le := { s.le with capture := c' } } := fun c => ⟨c, rfl⟩
  unfold State.armCapture
  dsimp only
  rw [h, if_neg (by decide)]
  split
  · exact hset _
  · exact hset _

/-- A listed injection starts in a slot in AUTO, outside service, while none runs. -/
theorem State.startInjection_eq {s : State} {j : Injection} (hlisted : injListed s.le.slots[j.slot].values j = true) (hphase : s.le.phase ≠ .service)
    (hauto : s.le.slots[j.slot].mode = .auto) (hnone : s.le.injection = none) :
    s.startInjection j = { s with le := { s.le with injection := some (InjRun.start j), capture := s.le.capture.fire .injection j.slot } } := by
  unfold State.startInjection
  dsimp only
  rw [hlisted, if_neg (by decide), if_neg]
  rw [hnone, hauto]
  rintro (h | ⟨h, -⟩ | h)
  · exact hphase h
  · exact h rfl
  · cases h

/-- `test loop` puts the engine in its test phase with an injection, and changes nothing else but the test that runs. -/
theorem State.testLoop_eq {s : State} {j : Injection} (hlisted : injListed s.le.slots[j.slot].values j = true)
    (hauto : s.le.slots[j.slot].mode = .auto) (hnone : s.le.injection = none) : ∃ e, s.testLoop j =
      { s with le := e, svc := { s.svc with test := some (.loop j.slot (decide (j.slot = 0 ∧ j.wave = .step))) } } ∧ e.phase = .test ∧
        e.injection.isSome = true := by
  obtain ⟨u, hu⟩ : ∃ u, u = s.setPhase .test := ⟨_, rfl⟩
  have hphase : u = { s with le := { s.le with phase := .test } } := hu.trans (if_neg (by decide))
  obtain ⟨c, hc⟩ := u.armCapture_eq (cap := { slot := j.slot, every := 1, trigger := .injection, pre := 0, signals := [.y, .ref, .e, .u] }) rfl
  obtain ⟨v, hv⟩ : ∃ v, v = { u with le := { u.le with capture := c } } := ⟨_, rfl⟩
  have hle : v.le = { s.le with phase := .test, capture := c } := by rw [hv, hphase]
  have hstart : v.startInjection j = _ := State.startInjection_eq (by rw [hle]; exact hlisted) (by rw [hle]; exact nofun) (by rw [hle]; exact hauto)
    (by rw [hle]; exact hnone)
  unfold State.testLoop
  dsimp only
  rw [← hu, hc, ← hv, hstart, hv, hphase]
  exact ⟨_, rfl, rfl, rfl⟩

section
variable {s : State} (h : s.atConsole .s false) {n : Fin 4} {wave : Waveform} {amp : Int}

/-- The line of `test loop`. -/
def loopLine (n : Fin 4) (wave : Waveform) (amp : Int) : String := "test loop " ++ decText n.val ++ " " ++ waveText wave ++ " " ++ intText amp

/-- The error of `test loop`, 0 where it starts. -/
def State.loopError (s : State) (j : Injection) : Nat :=
  if !injListed s.le.slots[j.slot].values j then 2
  else if s.stage ≠ .stage3 ∨ !s.le.ok ∨ s.le.slots[j.slot].mode ≠ .auto ∨ s.sap.state ≠ .connected then 3
  else if s.le.injection.isSome then 5 else 0

theorem exec_testLoop_eq (n : Fin 4) (wave : Waveform) (amp : Int) : exec (.testLoop (some n.val) (some wave) (some amp)) s =
    .next (s.consoleArg (loopLine n wave amp) .s false (some (loopInjection n wave amp)) (fun j u => u.loopError j) (fun j u => u.testLoop j)) := by
  have hline : "test loop" ++ argText (some n.val) ++ (" " ++ waveText wave) ++ (" " ++ intText amp) = loopLine n wave amp := by
    rw [argText_some, ← String.append_assoc, ← String.append_assoc]
    rfl
  have htyped : typedLoop (some n.val) (some wave) (some amp) = some (loopInjection n wave amp) := by
    unfold typedLoop
    rw [argBelow_fin]
  rw [← hline, ← htyped]
  rfl

include h

theorem exec_testLoop_replies {k : Nat} (hcheck : s.loopError (loopInjection n wave amp) = k) (hk : k ≠ 0) :
    exec (.testLoop (some n.val) (some wave) (some amp)) s = .next ((s.hears (ascii (loopLine n wave amp))).reply k) :=
  (exec_testLoop_eq n wave amp).trans (congrArg Host.Outcome.next (State.consoleArg_replies h _ _ hcheck hk))

theorem exec_testLoop_starts (hcheck : s.loopError (loopInjection n wave amp) = 0) :
    exec (.testLoop (some n.val) (some wave) (some amp)) s = .next ((s.onLine (loopLine n wave amp) .s).testLoop (loopInjection n wave amp)) :=
  (exec_testLoop_eq n wave amp).trans (congrArg Host.Outcome.next (State.consoleArg_starts h _ _ hcheck))

end

section
variable {s : State} {j : Injection}

theorem State.loopError_unlisted (h : injListed s.le.slots[j.slot].values j = false) : s.loopError j = 2 := by
  unfold State.loopError
  rw [h]
  rfl

section
variable (hlisted : injListed s.le.slots[j.slot].values j = true)
include hlisted

theorem State.loopError_not_ready (h : ¬(s.stage = .stage3 ∧ s.le.ok = true ∧ s.le.slots[j.slot].mode = .auto ∧ s.sap.state = .connected)) :
    s.loopError j = 3 := by
  unfold State.loopError
  rw [hlisted, if_neg (by decide)]
  refine if_pos ?_
  by_contra hready
  simp only [not_or, not_not, Bool.not_eq_true, Bool.not_eq_false'] at hready
  exact h hready

theorem State.loopError_ready (hstage : s.stage = .stage3) (hok : s.le.ok = true) (hauto : s.le.slots[j.slot].mode = .auto)
    (hstore : s.sap.state = .connected) : s.loopError j = if s.le.injection.isSome then 5 else 0 := by
  unfold State.loopError
  rw [hlisted, if_neg (by decide), if_neg]
  rw [hstage, hok, hauto, hstore]
  decide

end

end

/-! ## Tests of class T (R268, R395, R396, R558) -/

section
variable {s : State} (h : s.atConsole .t false)
include h

theorem exec_testStack_replies (st : Fin 20) (hstage : s.stage ≠ .stage3) :
    exec (.testStack (some st.val)) s = .next ((s.hears (ascii ("test stack " ++ decText st.val))).reply 3) := by
  refine congrArg Host.Outcome.next ?_
  rw [argBelow_fin]
  exact State.consoleArg_replies h _ _ (if_neg hstage) (by decide)

/-- A stack without an uncorrectable transaction. -/
theorem exec_testStack_clean (st : Fin 20) (hstage : s.stage = .stage3) (hclean : ∀ n ∈ s.mem.bad, sliceOf (64 * n) / 128 ≠ st.val) :
    exec (.testStack (some st.val)) s = .next ((s.hears (ascii ("test stack " ++ decText st.val))).prints 2 false
      [(s.mem.failedSensors[st] == 0 && !s.mem.trunkHigh[st.val / 5], s.stackText st ++ " uncorrectable " ++ decText 0)]) := by
  have hbad : s.mem.bad.filter (fun n => decide (sliceOf (64 * n) / 128 = st.val)) = [] :=
    List.filter_eq_nil_iff.2 fun n hn => by simpa using hclean n hn
  refine congrArg Host.Outcome.next ?_
  rw [argBelow_fin]
  refine (State.consoleArg_starts h _ _ (if_pos hstage)).trans ?_
  rw [State.onLine_t]
  have hmem : (s.hears (ascii ("test stack" ++ argText (some st.val)))).mem = s.mem := rfl
  dsimp only
  rw [hmem, hbad]
  rfl

theorem exec_testLink_starts (p : Fin 20) (hactive : s.ports[p].state = .active) : exec (.testLink (some p.val)) s =
    .next { s.hears (ascii ("test link " ++ decText p.val)) with svc := { (s.hears (ascii ("test link " ++ decText p.val))).svc with
      test := some (.link p s.ports[p].fecUncorr s.ports[p].crcErr s.ports[p].fecCorr s.ports[p].retrainCount false) } } := by
  refine congrArg Host.Outcome.next ?_
  rw [argBelow_fin]
  refine (State.consoleArg_starts h _ _ (if_pos hactive)).trans ?_
  rw [State.onLine_t]
  rfl

theorem exec_testLink_replies (p : Fin 20) (hdown : s.ports[p].state ≠ .active) :
    exec (.testLink (some p.val)) s = .next ((s.hears (ascii ("test link " ++ decText p.val))).reply 3) := by
  refine congrArg Host.Outcome.next ?_
  rw [argBelow_fin]
  exact State.consoleArg_replies h _ _ (if_neg hdown) (by decide)

section
variable {r : Fin 11} (mv : Nat)

theorem exec_testRail_precharge (hr : r = 10) :
    exec (.testRail (some r) mv) s = .next ((s.hears (ascii ("test rail " ++ railName r))).reply 2) := by
  subst hr
  refine congrArg Host.Outcome.next ?_
  exact State.consoleArg_missing h _ _ _

section
variable (hr : r ≠ 10)
include hr

omit h in
theorem testRail_named : (some r).filter (· != 10) = some r := by
  rw [Option.filter_some, if_pos (bne_iff_ne.2 hr)]

theorem exec_testRail_replies (hoff : s.power.rails[r].enabled = false) :
    exec (.testRail (some r) mv) s = .next ((s.hears (ascii ("test rail " ++ railName r))).reply 3) := by
  refine congrArg Host.Outcome.next ?_
  rw [testRail_named hr]
  refine State.consoleArg_replies h _ _ (if_neg ?_) (by decide)
  rw [show (s.hears _).power.rails[r].enabled = false from hoff]
  exact Bool.false_ne_true

theorem exec_testRail_prints (hon : s.power.rails[r].enabled = true) :
    exec (.testRail (some r) mv) s = .next ((s.hears (ascii ("test rail " ++ railName r))).prints 4 false
      [(decide (s.power.rails[r].state = .on ∧ mv ≤ s.railTarget r + 5 ∧ s.railTarget r ≤ mv + 5), s.power.rails[r].testText r mv)]) := by
  refine congrArg Host.Outcome.next ?_
  rw [testRail_named hr]
  refine (State.consoleArg_starts h _ _ (if_pos hon)).trans ?_
  rw [State.onLine_t]
  rfl

end
end

theorem exec_testCell_starts (hawake : s.sap.awake = true) : exec .testCell s =
    .next { s.hears (ascii "test cell") with
      sap := { s.sap with checkNext := true }, svc := { (s.hears (ascii "test cell")).svc with test := some .cell } } := by
  refine congrArg Host.Outcome.next ((State.console_starts h _ _ (if_pos hawake)).trans ?_)
  rw [State.onLine_t]
  rfl

theorem exec_testCell_replies (hasleep : s.sap.awake = false) : exec .testCell s = .next ((s.hears (ascii "test cell")).reply 3) := by
  refine congrArg Host.Outcome.next (State.console_replies h _ _ (if_neg ?_) (by decide))
  rw [show (s.hears _).sap.awake = false from hasleep]
  exact Bool.false_ne_true

theorem exec_testBalance_starts (hawake : s.sap.awake = true) (hstate : s.sap.state ∉ [.draining, .lockedOut]) : exec .testBalance s =
    .next { s.hears (ascii "test balance") with
      sap := { s.sap with testDue := true }, svc := { (s.hears (ascii "test balance")).svc with test := some .balance } } := by
  have hmay : s.sap.awake = true ∧ s.sap.state ≠ .draining ∧ s.sap.state ≠ .lockedOut := by simpa [hawake] using hstate
  refine congrArg Host.Outcome.next ((State.console_starts h _ _ (if_pos hmay)).trans ?_)
  rw [State.onLine_t]
  rfl

theorem exec_testBalance_replies (hnot : s.sap.awake = false ∨ s.sap.state ∈ [.draining, .lockedOut]) :
    exec .testBalance s = .next ((s.hears (ascii "test balance")).reply 3) := by
  have hmay : ¬(s.sap.awake = true ∧ s.sap.state ≠ .draining ∧ s.sap.state ≠ .lockedOut) := by
    rintro ⟨hawake, hdraining, hlocked⟩
    rcases hnot with hasleep | hstate
    · exact Bool.false_ne_true (hasleep.symm.trans hawake)
    · simp [hdraining, hlocked] at hstate
  exact congrArg Host.Outcome.next (State.console_replies h _ _ (if_neg hmay) (by decide))

theorem exec_testLog_replies (hruns : s.marchRuns 8 0 = true) : exec .testLog s = .next ((s.hears (ascii "test log")).reply 5) :=
  congrArg Host.Outcome.next (State.console_replies h _ _ (if_pos hruns) (by decide))

theorem exec_testLog_starts (hruns : s.marchRuns 8 0 = false) : exec .testLog s = .next { s.hears (ascii "test log") with
    sram := { s.sram with marches := s.sram.marches ++ [{ mem := 8, inst := 0, transparent := true }] }
    svc := { (s.hears (ascii "test log")).svc with test := some .log } } := by
  have hfree : (s.hears (ascii "test log")).marchRuns 8 0 = false := hruns
  refine congrArg Host.Outcome.next ((State.console_starts h _ _ (if_neg ?_)).trans ?_)
  · rw [show (s.hears _).marchRuns (sramRow .log) 0 = false from hruns]
    exact Bool.false_ne_true
  · rw [State.onLine_t]
    dsimp only
    rw [State.beginMarch_marches hfree]
    rfl

end

/-! ## `test link` ends (R558) -/

section
variable {s : State} {q : Fin 20} {uncorr crc corr : BitVec 64} {retrains : BitVec 32} {warned : Bool}
variable (htest : s.svc.test = some (.link q uncorr crc corr retrains warned))
include htest

theorem exec_testLinkEnd_other {p : Fin 20} (hp : p ≠ q) (received : Nat) : exec (.testLinkEnd p received) s = .next s := by
  refine congrArg Host.Outcome.next ?_
  rw [htest]
  exact if_pos hp

theorem exec_testLinkEnd (received : Nat) : exec (.testLinkEnd q received) s =
    .next (({ s with svc := { s.svc with test := none, abort := false } } : State).verdicts
      [(s.ports[q].fecUncorr == uncorr && s.ports[q].crcErr == crc && s.ports[q].retrainCount == retrains && !warned &&
        decide ((s.ports[q].fecCorr.toNat - corr.toNat) * 1000 < received), s.ports[q].linkText uncorr crc corr retrains received)]) := by
  refine congrArg Host.Outcome.next ?_
  rw [htest]
  exact if_neg (not_not_intro rfl)

end

end Sys2Proof.Machine
end

section
/-! SUPPORT. Field tests as they run and end: the time of a phase test, the steps of a trip test, and the abort byte (R345, R552, R558, R561, R562, R567). -/

namespace Sys2Proof.Machine

open Sys2Proof

/-! ## A microsecond of `test phase` (R345, R558) -/

section
variable {s t u : State}

theorem State.svc_of_hostsOnly (h : s.hostsOnly t) : t.svc = s.svc := (congrArg State.svc h :)
theorem State.power_of_hostsOnly (h : s.hostsOnly t) : t.power = s.power := (congrArg State.power h :)

theorem Clocks.tick_us (c : Clocks) : c.tick.us = c.us + 1 := by
  have hours : c.countHours.us = c.us := by
    unfold Clocks.countHours
    split
    · rfl
    · rfl
  exact congrArg (· + 1) hours

/-- In an idle microsecond of `test phase` its time counts, and the hosts are told what is owed to them. -/
theorem step_testPhase (h : s.idle) {d : Fin 4} {n : Fin 26} {amps mean : Int} {since : Nat}
    (htest : s.svc.test = some (.phase d n amps mean since)) : ∃ u t, step s = .next t ∧ u.hostsOnly t ∧ u.out <+: t.out ∧
      ∃ v : State, v.clk.us = s.clk.us + 1 ∧ v.svc = s.svc ∧ v.power = s.power ∧ u = v.tendPhase d n amps mean since := by
  obtain ⟨c, hc⟩ := step_idle h
  obtain ⟨v, hv⟩ : ∃ v : State, v = { s with clk := s.clk.tick, crown := c } := ⟨_, rfl⟩
  have hsvc : v.svc = s.svc := by rw [hv]
  have htend : v.tendConsole = v.tendPhase d n amps mean since := by
    unfold State.tendConsole
    rw [hsvc, htest]
  rw [← hv, htend] at hc
  exact ⟨_, _, hc, State.hostsOnly_trans (State.payOwed_hostsOnly ..) (State.payOwed_hostsOnly ..),
    (State.payOwed_out ..).trans (State.payOwed_out ..), v, by rw [hv, Clocks.tick_us], hsvc, by rw [hv], rfl⟩

section
variable {d : Fin 4} {n : Fin 26}

theorem State.restorePhase_on (hon : s.power.rails[coreRail d].state = .on)
    (hgood : (s.power.rails[coreRail d].failed ||| s.power.rails[coreRail d].taken).getLsbD n = false) :
    s.restorePhase d n = s.setRail (coreRail d) { s.power.rails[coreRail d] with
      working := s.power.rails[coreRail d].working ||| phaseBit n, leaving := s.power.rails[coreRail d].leaving &&& ~~~phaseBit n } :=
  if_pos ⟨hon, by rw [hgood]; rfl⟩

theorem State.setRail_at (s : State) (r : Fin 11) (x : Rail) : (s.setRail r x).power.rails[r] = x := by
  rw [State.setRail_rails]
  simp

theorem State.restorePhase_svc (s : State) (d : Fin 4) (n : Fin 26) : (s.restorePhase d n).svc = s.svc :=
  kept_ite (g := State.svc) (State.setRail_svc ..) rfl

end

/-! ## How a test ends (R552, R558) -/

/-- A test of one part ends with its verdict. -/
theorem State.endTest_verdict (s : State) (ok : Bool) (text : String) : (s.endTest [(ok, text)]).svc.test = none ∧
    (s.endTest [(ok, text)]).power = s.power ∧ .console (ascii (if ok then "ok" else "err 6 failed")) ∈ (s.endTest [(ok, text)]).out := by
  refine ⟨rfl, rfl, ?_⟩
  cases ok with
  | true => exact List.mem_append_left _ (List.mem_append_right _ (List.mem_singleton.2 rfl))
  | false => exact List.mem_append_left _ (List.mem_append_right _ (List.mem_singleton.2 rfl))

end

/-! ## `test trip` (R561, R562) -/

/-- The parts of `test trip crowbar` (R562). -/
def crowbarParts (b : BitVec 12) (l : List (Fin 11)) : List (Bool × String) := l.map (fun r =>
  let k := if r = 9 then 5 else r.val
  (b.getLsbD (2 * k) && b.getLsbD (2 * k + 1), " " ++ railName r))

section
variable {s : State} (h : s.atConsole .s true)
include h

/-- A form of `test trip` starts where the module is off line, and is refused elsewhere. -/
theorem State.console_tripTest (line : String) {check : State → Nat} (run : State → State)
    (hcheck : ∀ u : State, check u = if u.tripTestOk = true then 0 else 3) : s.console line .s true check run =
      if s.tripTestOk = true then run (s.onLine line .s) else (s.hears (ascii line)).reply 3 := by
  have hheard : (s.hears (ascii line)).tripTestOk = s.tripTestOk := rfl
  split
  · rename_i hok
    exact State.console_starts h line run ((hcheck _).trans (if_pos (hheard.trans hok)))
  · rename_i hok
    refine State.console_replies h line run ((hcheck _).trans (if_neg ?_)) (by decide)
    rwa [hheard]

theorem exec_testTrip_all : exec (.testTrip none) s = .next (if s.tripTestOk = true then
    (s.onLine "test trip" .s).nextTrip true ((List.range 32).map (fun k => k + 1)) else (s.hears (ascii "test trip")).reply 3) :=
  congrArg Host.Outcome.next (State.console_tripTest h "test trip" _ fun _ => rfl)

theorem exec_testTrip_unlisted {c : Nat} (hc : c = 0 ∨ 0x20 < c) :
    exec (.testTrip (some c)) s = .next ((s.hears (ascii ("test trip" ++ (" " ++ decText c)))).reply 2) :=
  congrArg Host.Outcome.next (State.console_replies h _ _ (if_pos (decide_eq_true hc)) (by decide))

theorem exec_testTrip_one {c : Nat} (hc : 0 < c ∧ c ≤ 0x20) : exec (.testTrip (some c)) s = .next (if s.tripTestOk = true then
    (s.onLine ("test trip" ++ (" " ++ decText c)) .s).nextTrip true [c] else (s.hears (ascii ("test trip" ++ (" " ++ decText c)))).reply 3) := by
  have hlisted : (some c).any (fun c => decide (c = 0 ∨ 0x20 < c)) = false := decide_eq_false (by omega)
  refine congrArg Host.Outcome.next (State.console_tripTest h _ _ fun u => ?_)
  rw [hlisted]
  rfl

theorem exec_testTripSwitches (b : BitVec 3) : exec (.testTripSwitches b) s = .next (if s.tripTestOk = true then
    (s.onLine "test trip switches" .s).prints 8 true [(b.getLsbD 0, " sw_a"), (b.getLsbD 1, " sw_b"), (b.getLsbD 2, " precharge")]
    else (s.hears (ascii "test trip switches")).reply 3) :=
  congrArg Host.Outcome.next (State.console_tripTest h "test trip switches" _ fun _ => rfl)

theorem exec_testTripCrowbar (b : BitVec 12) : exec (.testTripCrowbar b) s = .next (if s.tripTestOk = true then
    (s.onLine "test trip crowbar" .s).prints 8 true (crowbarParts b s.crowbarRails) else (s.hears (ascii "test trip crowbar")).reply 3) := by
  refine congrArg Host.Outcome.next ((State.console_tripTest h "test trip crowbar" _ fun _ => rfl).trans ?_)
  rw [← State.crowbarRails_of_typedOnly (s.onLine_typedOnly "test trip crowbar" .s)]
  rfl

end

section
variable (s : State) (passed : Bool) {c : Nat} (rest : List Nat)

theorem State.nextTrip_untested (hc : tripFilter c = none) : s.nextTrip passed (c :: rest) = (s.say "n/a").nextTrip passed rest := by
  rw [State.nextTrip, hc]

theorem State.nextTrip_tested (hc : (tripFilter c).isSome = true) :
    s.nextTrip passed (c :: rest) = { s with svc := { s.svc with test := some (.trip (c :: rest) 0 true passed) } } := by
  obtain ⟨f, hf⟩ := Option.isSome_iff_exists.1 hc
  rw [State.nextTrip, hf]

end

section
variable {s : State} {c : Nat} {rest : List Nat} {step : Nat} {good passed : Bool} {us f : Nat}
variable (htest : s.svc.test = some (.trip (c :: rest) step good passed)) (hfilter : tripFilter c = some f)
include htest hfilter

/-- A step's decision is right between the filter time and 20 µs more; after the third the code's line is printed, and the run goes on or stops. -/
theorem exec_tripTestStepEnd : exec (.tripTestStepEnd us) s = .next (
    let right := good && decide (f ≤ us ∧ us ≤ f + 20)
    if step < 2 then { s with svc := { s.svc with test := some (.trip (c :: rest) (step + 1) right passed) } }
    else if s.svc.abort then (s.say (partLine (right, " code " ++ decText c ++ " " ++ decText us ++ "us"))).endCommand 7
    else (s.say (partLine (right, " code " ++ decText c ++ " " ++ decText us ++ "us"))).nextTrip (passed && right) rest) := by
  refine congrArg Host.Outcome.next ?_
  rw [htest]
  dsimp only
  rw [hfilter]
  rfl

end

/-! ## The abort byte (R552, R567) -/

/-- What an abort byte makes of the command that runs. -/
def State.abortedTest (s : State) : RunTest → State
  | .tile t => (s.abortTile t).endCommand 7
  | .march m i => (s.stopMarch m i).endCommand 7
  | .log => (s.stopMarch (sramRow .log) 0).endCommand 7
  | .loop _ _ => (s.setPhase .service).endCommand 7
  | .phase d n _ _ _ => (s.restorePhase d n).endCommand 7
  | .trip _ _ _ _ => { s with svc := { s.svc with abort := true } }
  | .auth => s
  | .authWait _ _ => s
  | _ => s.endCommand 7

section
variable {s : State}

theorem exec_abortByte_early (hready : s.svc.ready = false) : exec .abortByte s = .next s :=
  congrArg Host.Outcome.next (if_pos (by rw [hready]; rfl))

section
variable (hready : s.svc.ready = true)
include hready

theorem exec_abortByte_none (htest : s.svc.test = none) : exec .abortByte s = .next s.heardByte := by
  have hheard : s.heardByte.svc.test = none := htest
  refine congrArg Host.Outcome.next ((if_neg (by rw [hready]; decide)).trans ?_)
  dsimp only
  rw [hheard]

theorem exec_abortByte {x : RunTest} (htest : s.svc.test = some x) : exec .abortByte s = .next (s.heardByte.abortedTest x) := by
  have hheard : s.heardByte.svc.test = some x := htest
  refine congrArg Host.Outcome.next ((if_neg (by rw [hready]; decide)).trans ?_)
  cases x <;> simp only [hheard, State.abortedTest]

end

theorem State.abortTile_marchRuns (s : State) (n k : Nat) (hk : k < 3) : (s.abortTile n).marchRuns k (s.siteOf n) = false := by
  unfold State.abortTile
  dsimp only
  generalize State.setTile _ _ _ = u
  match k, hk with
  | 0, _ => exact State.stopMarch_marchRuns_of (State.stopMarch_marchRuns_of (u.stopMarch_marchRuns 0 _) 1 _) 2 _
  | 1, _ => exact State.stopMarch_marchRuns_of (State.stopMarch_marchRuns _ 1 _) 2 _
  | 2, _ => exact State.stopMarch_marchRuns _ 2 _

/-- A tile whose march is stopped is cleared, and fenced only where it is marked. -/
theorem State.abortTile_tile {n : Nat} (h : (s.tile n).marching = true) : ((s.abortTile n).tile n).pad = [] ∧
    ((s.abortTile n).tile n).fenced = ((s.tile n).retireCause != 0) := by
  have htile : (s.abortTile n).tile n = { s.tile n with
      pad := [], padBad := [], marching := false, fenced := (s.tile n).retireCause != 0, icacheValid := false } := by
    unfold State.abortTile
    dsimp only
    rw [h]
    exact (State.setTile_tile ..).trans (if_pos rfl)
  rw [htile]
  exact ⟨rfl, rfl⟩

end

end Sys2Proof.Machine
end

section
/-! The obligation about field tests (R268, R343, R395, R396, R527, R552, R558, R559, R561, R562, R567). -/

namespace Sys2Proof.Machine

open Sys2Proof

/-! ## Tests of class S after their line (R343, R527, R559) -/

section
variable {s : State} (line : String)

/-- The tile of `test tile` is fenced at once or after its launch, and its three memories are marched. -/
theorem State.testTile_onLine {n : Nat} (hbusy : s.tileBusy n = false) : ((s.onLine line .s).testTile n).svc.test = some (.tile n) ∧
    (∀ k < 3, { mem := k, inst := s.siteOf n, transparent := false } ∈ ((s.onLine line .s).testTile n).sram.marches) ∧
    (s.inLaunch n = true → ((s.onLine line .s).testTile n).tile n = { s.tile n with marchDue := true }) ∧
    (s.inLaunch n = false → ((s.onLine line .s).testTile n).tile n = { s.tile n with marching := true, fenced := true }) := by
  have hline := s.onLine_typedOnly line .s
  generalize s.onLine line .s = u at hline
  have hfree : u.tileBusy n = false := by
    rw [← hbusy]
    exact (congrArg (fun v : State => v.tileBusy n) hline :)
  rw [State.testTile_eq hfree, ← State.siteOf_of_typedOnly hline, ← State.inLaunch_of_typedOnly hline, ← State.tile_of_typedOnly hline]
  refine ⟨rfl, fun k hk => ?_, fun hlaunch => ?_, fun hlaunch => ?_⟩
  · match k, hk with
    | 0, _ | 1, _ | 2, _ => simp
  · exact (State.setTile_tile ..).trans ((if_pos rfl).trans (if_pos hlaunch))
  · exact (State.setTile_tile ..).trans ((if_pos rfl).trans (if_neg (by rw [hlaunch]; exact Bool.false_ne_true)))

/-- The phase of `test phase` leaves its rail, to which every other working phase is added back. -/
theorem State.testPhase_onLine (d : Fin 4) (n : Fin 26) (amps mean : Int) : (s.onLine line .s).testPhase d n amps mean =
    let x := s.power.rails[coreRail d]
    let u := (s.onLine line .s).setRail (coreRail d) { x with
      shed := 0, shedTo := none, working := x.working &&& ~~~(1#32 <<< n.val), leaving := x.leaving ||| (1#32 <<< n.val) }
    { u with svc := { u.svc with test := some (.phase d n amps mean s.clk.us) } } := by
  have hline := s.onLine_typedOnly line .s
  rw [← State.power_of_typedOnly hline, ← State.clk_of_typedOnly hline]
  rfl

/-- `test loop` injects in the test phase, and changes nothing else. -/
theorem State.testLoop_onLine {n : Fin 4} {wave : Waveform} {amp : Int} (hlisted : injListed s.le.slots[n].values (loopInjection n wave amp) = true)
    (hauto : s.le.slots[n].mode = .auto) (hnone : s.le.injection = none) : ∃ t, (s.onLine line .s).testLoop (loopInjection n wave amp) = t ∧
      t.le.phase = .test ∧ t.svc.test = some (.loop n (decide (n = 0 ∧ wave = .step))) ∧ t.le.injection.isSome = true ∧
      { t with le := s.le, svc := s.svc } = { s.onLine line .s with svc := s.svc } := by
  have hle := State.le_of_typedOnly (s.onLine_typedOnly line .s)
  obtain ⟨e, heq, hphase, hinjection⟩ := State.testLoop_eq (s := s.onLine line .s) (j := loopInjection n wave amp)
    (by rw [hle]; exact hlisted) (by rw [hle]; exact hauto) (by rw [hle]; exact hnone)
  refine ⟨_, heq, hphase, rfl, hinjection, ?_⟩
  rw [← hle]

end

/-- Settles O50, by the test, and then by what happens to the one that runs. -/
theorem fieldTestsRunAndEnd : Obligations.FieldTestsRunAndEnd := by
  unfold Obligations.FieldTestsRunAndEnd
  intro s hear testing
  refine ⟨fun h => ⟨fun t0 => ?tile, fun d n amps mean => ?phase, fun n wave amp => ?loop⟩, fun h d n amps mean since htest => ?idle,
    fun h => ⟨fun st => ?stack, fun p => ?link, fun r mv => ?rail, fun hawake => ⟨_, exec_testCell_starts h hawake, rfl⟩,
      fun hasleep => ⟨_, exec_testCell_replies h hasleep, rfl⟩, fun hawake hstate => ⟨_, exec_testBalance_starts h hawake hstate, rfl⟩,
      fun hnot => ⟨_, exec_testBalance_replies h hnot, rfl⟩, fun hruns => ⟨_, exec_testLog_replies h hruns, rfl⟩,
      fun hruns => ⟨_, exec_testLog_starts h hruns, rfl⟩⟩,
    fun p q uncorr crc corr retrains warned received htest => ?linkEnd, fun h => ⟨fun hnot => ?refused, fun c hc => ⟨_, exec_testTrip_unlisted h hc, rfl⟩,
      fun hok => ⟨fun c hpos hle => ?code, ?codes, fun b => ?switches, fun b => ?crowbar⟩⟩,
    fun c rest step good passed us f htest hfilter => ?step, fun hready => ⟨_, exec_abortByte_early hready, rfl⟩, fun hready => ?abort⟩
  case tile =>
    refine ⟨fun hnone => ⟨_, exec_testTile_none h t0 hnone, rfl⟩, fun n hn => ⟨fun hstage => ?_, fun hstage hbusy => ?_, fun hstage hbusy => ?_⟩⟩
    · exact ⟨_, exec_testTile_replies h hn (if_pos hstage) (by decide), rfl⟩
    · exact ⟨_, exec_testTile_replies h hn ((if_neg (not_not_intro hstage)).trans (if_pos hbusy)) (by decide), rfl⟩
    · exact ⟨_, exec_testTile_starts h hn hstage hbusy, State.testTile_onLine _ hbusy⟩
  case phase =>
    exact ⟨fun hstage hworking => ⟨_, exec_testPhase_starts h d n amps mean hstage hworking, State.testPhase_onLine _ d n amps mean⟩,
      fun hnot => ⟨_, exec_testPhase_replies h d n amps mean hnot, rfl⟩⟩
  case loop =>
    intro line c ready inj
    refine ⟨fun hlisted => ?_, fun hlisted hready => ?_, fun hlisted ⟨hstage, hok, hauto, hstore⟩ hruns => ?_,
      fun hlisted ⟨hstage, hok, hauto, hstore⟩ hnone => ?_⟩
    · exact ⟨_, exec_testLoop_replies h (State.loopError_unlisted hlisted) (by decide), rfl⟩
    · exact ⟨_, exec_testLoop_replies h (State.loopError_not_ready hlisted hready) (by decide), rfl⟩
    · exact ⟨_, exec_testLoop_replies h ((State.loopError_ready hlisted hstage hok hauto hstore).trans (if_pos hruns)) (by decide), rfl⟩
    · obtain ⟨t, heq, heffect⟩ := State.testLoop_onLine line hlisted hauto hnone
      have hcheck : s.loopError (loopInjection n wave amp) = 0 :=
        (State.loopError_ready hlisted hstage hok hauto hstore).trans (if_neg (by rw [hnone]; exact Bool.false_ne_true))
      exact ⟨t, (exec_testLoop_starts h hcheck).trans (congrArg Host.Outcome.next heq), heffect⟩
  case idle =>
    intro x
    obtain ⟨u, t, hstep, htold, hout, v, hus, hsvc, hpower, hu⟩ := step_testPhase h htest
    have htsvc := State.svc_of_hostsOnly htold
    have htpower := State.power_of_hostsOnly htold
    unfold State.tendPhase at hu
    rw [hus] at hu
    refine ⟨fun hearly => ?_, fun hms hlate hon hgood => ?_, fun hlate => ?_⟩
    · rw [if_pos hearly] at hu
      exact ⟨t, hstep, by rw [htsvc, hu, hsvc], by rw [htpower, hu, hpower]⟩
    · rw [if_neg (by omega), if_pos hlate] at hu
      refine ⟨t, hstep, by rw [htsvc, hu, State.restorePhase_svc, hsvc], ?_⟩
      have hback := State.restorePhase_on (s := v) (d := d) (n := n) (by rw [hpower]; exact hon) (by rw [hpower]; exact hgood)
      rw [htpower, hu, hback, State.setRail_at, hpower]
      rfl
    · rw [if_neg (by omega), if_neg (by omega), hpower] at hu
      obtain ⟨hends, hkept, hsaid⟩ := v.endTest_verdict
        (s.power.rails[coreRail d].working.getLsbD n && decide (-10 ≤ amps - mean ∧ amps - mean ≤ 10)) (" current " ++ intText amps ++ "A mean " ++ intText mean ++ "A")
      refine ⟨t, hstep, by rw [htsvc, hu, hends], by rw [htpower, hu, hkept, hpower], hout.subset ?_⟩
      rw [hu]
      simpa only [Bool.and_eq_true, decide_eq_true_eq] using hsaid
  case stack =>
    exact ⟨fun hstage => ⟨_, exec_testStack_replies h st hstage, rfl⟩, fun hstage hclean => ⟨_, exec_testStack_clean h st hstage hclean, rfl⟩⟩
  case link => exact ⟨fun hactive => ⟨_, exec_testLink_starts h p hactive, rfl⟩, fun hdown => ⟨_, exec_testLink_replies h p hdown, rfl⟩⟩
  case rail =>
    exact ⟨fun hr => ⟨_, exec_testRail_precharge h mv hr, rfl⟩, fun hr hoff => ⟨_, exec_testRail_replies h mv hr hoff, rfl⟩,
      fun hr hon => ⟨_, exec_testRail_prints h mv hr hon, rfl⟩⟩
  case linkEnd =>
    refine ⟨fun hp => ⟨_, exec_testLinkEnd_other htest hp received, rfl⟩, fun hp => ?_⟩
    subst hp
    exact ⟨_, exec_testLinkEnd htest received, rfl⟩
  case refused =>
    have hoff : ¬s.tripTestOk = true := by
      rw [hnot]
      exact Bool.false_ne_true
    have hreplies : ∀ {u v : State}, (if s.tripTestOk = true then u else v) = v := if_neg hoff
    simp only [List.forall_mem_cons]
    exact ⟨⟨_, exec_testTrip_all h, hreplies⟩, ⟨_, exec_testTrip_one h (by decide), hreplies⟩, ⟨_, exec_testTripSwitches h 7, hreplies⟩,
      ⟨_, exec_testTripCrowbar h 0, hreplies⟩, fun _ => nofun⟩
  case code =>
    refine ⟨fun hnone => ⟨_, exec_testTrip_one h ⟨hpos, hle⟩, ?_⟩, fun hsome => ⟨_, exec_testTrip_one h ⟨hpos, hle⟩, ?_⟩⟩
    · rw [if_pos hok, State.nextTrip_untested _ _ _ hnone]
      rfl
    · rw [if_pos hok, State.nextTrip_tested _ _ _ hsome]
  case codes =>
    exact ⟨_, exec_testTrip_all h, (if_pos hok).trans (State.nextTrip_tested _ _ _ rfl)⟩
  case switches => exact ⟨_, (exec_testTripSwitches h b).trans (congrArg Host.Outcome.next (if_pos hok)), rfl, rfl⟩
  case crowbar => exact ⟨_, (exec_testTripCrowbar h b).trans (congrArg Host.Outcome.next (if_pos hok)), rfl, rfl⟩
  case step =>
    intro right part
    have hexec := exec_tripTestStepEnd (us := us) htest hfilter
    refine ⟨fun hmore => ⟨_, hexec, if_pos hmore⟩, fun hlast habort => ⟨_, hexec, ?_⟩, fun hlast hgoes hrest => ⟨_, hexec, ?_⟩,
      fun hlast hgoes e l hrest hsome => ⟨_, hexec, ?_⟩⟩
    · exact (if_neg (Nat.not_lt.2 hlast)).trans (if_pos habort)
    · subst hrest
      exact (if_neg (Nat.not_lt.2 hlast)).trans (if_neg (by rw [hgoes]; exact Bool.false_ne_true))
    · subst hrest
      exact (if_neg (Nat.not_lt.2 hlast)).trans ((if_neg (by rw [hgoes]; exact Bool.false_ne_true)).trans (State.nextTrip_tested _ _ _ hsome))
  case abort =>
    refine ⟨fun htest => ⟨_, exec_abortByte_none hready htest, rfl⟩, fun n htest => ⟨_, exec_abortByte hready htest, rfl, ?_, ?_⟩,
      fun m i htest => ⟨_, exec_abortByte hready htest, rfl, s.heardByte.stopMarch_marchRuns m i⟩,
      fun htest => ⟨_, exec_abortByte hready htest, rfl, s.heardByte.stopMarch_marchRuns 8 0⟩,
      fun n b htest => ⟨_, exec_abortByte hready htest, rfl, rfl, rfl⟩,
      fun d n amps mean since htest => ⟨_, exec_abortByte hready htest, rfl, fun hon hgood => ?_⟩,
      fun l k good passed htest => ⟨_, exec_abortByte hready htest, rfl⟩, fun x htest hx => ⟨_, exec_abortByte hready htest, ?_⟩,
      fun x htest hx => ⟨_, exec_abortByte hready htest, ?_⟩⟩
    · exact s.heardByte.abortTile_marchRuns n
    · exact State.abortTile_tile (s := s.heardByte)
    · have hback := State.restorePhase_on (s := s.heardByte) hon hgood
      have hrails : ((s.heardByte.restorePhase d n).endCommand 7).power = (s.heardByte.restorePhase d n).power := rfl
      rw [State.abortedTest, hrails, hback, State.setRail_at]
      rfl
    · simp only [List.mem_cons, List.not_mem_nil, or_false] at hx
      obtain (rfl | rfl | rfl) | ⟨code, b, l, err, rfl⟩ | ⟨l, got, rfl⟩ | ⟨p, a, b, c, d, w, rfl⟩ := hx <;> rfl
    · obtain rfl | ⟨l, p, rfl⟩ := hx <;> rfl

end Sys2Proof.Machine
end
